-- ==== Sys2Proof/Word.lean ====
section
/-! DEFINITION. The plain data words of the Lyaris S6: bytes, 32-bit words and byte strings.
Everything a later repair could want to change (field extraction, byte order, rounding) stands in
`Sys2Proof/Machine/*.lean`. -/

namespace Sys2Proof

/-- One byte. -/
abbrev Byte := BitVec 8

/-- One 32-bit word: a register of a page, a state word, an F32 value, a draw. -/
abbrev Word := BitVec 32

/-- One 64-bit word: an F64 value, a seed, a CRC. -/
abbrev DWord := BitVec 64

/-- A string of bytes, in address order. -/
abbrev Bytes := List Byte

end Sys2Proof
end

