-- ==== Sys2Proof/Syntax.lean ====
section
/-! DEFINITION. The commands of the Lyaris S6: one constructor of `Instr` for each row of the operation
and event table, with the operands the numbered rules give the step. Where the table's step is an operation
of the cluster slice or of the router word, its operands are the fields of R227 to R237; where it is a Kenvin
command or packet, the fields of that packet; where it is an event of the part (a failed lane, a feed, a decode
outcome), what the event itself decides and the module cannot compute from its own state. -/

namespace Sys2Proof

/-! ### Units -/

/-- Cluster C(x,y) of die Dd; `num` is 8y + x (00_scope, names and indices). -/
structure ClusterRef where
  die : Fin 6
  num : Fin 64
  deriving DecidableEq, Repr

/-- A logical core K(u,v) of a cluster; `pos` is 8v + u (R9, R204). -/
structure LogicalCore where
  cl : ClusterRef
  pos : Fin 64
  deriving DecidableEq, Repr

/-- A physical core 0–65 of a cluster (R4); 64 and 65 are the oasis spares O0 and O1. -/
structure PhysCore where
  cl : ClusterRef
  num : Fin 66
  deriving DecidableEq, Repr

/-- The four link sites of a die (R192). -/
inductive LinkSite where
  | xw | xe | vw | ve
  deriving DecidableEq, Repr

/-- A unit that can be charged with a confirmed fault or put under observation (R448, R463, R464). -/
inductive UnitRef where
  | core (c : PhysCore)
  | seam (die : Fin 6)
  | link (die : Fin 6) (site : LinkSite)
  | baseDie (stack : Fin 36)
  deriving DecidableEq, Repr

/-- A function that reports READY (R538). -/
inductive ReadyUnit where
  | aon | hub | port | entropy
  | half (h : Fin 12)
  | stack (t : Fin 36)
  deriving DecidableEq, Repr

/-- A PLL and the domain it clocks (R530, R545). -/
inductive Pll where
  | half (h : Fin 12)
  | spine (die : Fin 6)
  | stack (t : Fin 36)
  | hub
  | serdes
  deriving DecidableEq, Repr

/-- A supply rail (R516, R473). -/
inductive Rail where
  | vfab (die : Fin 6)
  | vstk (die : Fin 6)
  | vhub | vopt | vaon
  deriving DecidableEq, Repr

/-- One of the two feeds (R514). -/
inductive Feed where
  | a | b
  deriving DecidableEq, Repr

/-- One of the two lasers (R365). -/
inductive Laser where
  | la | lb
  deriving DecidableEq, Repr

/-- The management controllers M0 and M1. -/
inductive Controller where
  | m0 | m1
  deriving DecidableEq, Repr

/-- A part whose temperature is watched (R529). -/
inductive ThermalPart where
  | die (d : Fin 6)
  | stack (t : Fin 36)
  | hub
  deriving DecidableEq, Repr

/-! ### Cluster-slice operands -/

/-- The unit slots of R214. -/
inductive UnitSlot where
  | f | d | m | n
  deriving DecidableEq, Repr

/-- An accumulation group (R111). -/
inductive GroupSel where
  | field | energy | statistic | auxiliary
  deriving DecidableEq, Repr

/-- The format of an AUXILIARY group (R227 FMT). -/
inductive AuxFmt where
  | int | longsum | f32 | f64
  deriving DecidableEq, Repr

/-- SRC of FLD.ACC (R227). -/
inductive AccSrc where
  | playa | caravan
  deriving DecidableEq, Repr

/-- FORM of FLD.ACC (R227): the form of the tile the coupling operand is taken from. -/
inductive TileForm where
  | scalar | potts | full
  deriving DecidableEq, Repr

/-- DEST of FLD.CLOSE (R227). -/
inductive CloseDest where
  | decision | partOut | hold
  deriving DecidableEq, Repr

/-- The two modes of an atomic operation (R136). -/
inductive CombineMode where
  | arrival | ordered
  deriving DecidableEq, Repr

/-- MODE of RED.ETOT (R227). -/
inductive EtotMode where
  | row | push
  deriving DecidableEq, Repr

/-- OP of MOV.MASK (R234). -/
inductive MaskOp where
  | set | and | or | xor
  deriving DecidableEq, Repr

/-- PSEL of MOV.MASK (R234); PSEL 3 is refused by the loader. -/
inductive MaskPattern where
  | halves | upto | core
  deriving DecidableEq, Repr

/-- FIELD of MOV.AG (R234). -/
inductive AgField where
  | base | stride | increment
  deriving DecidableEq, Repr

/-- An output mask of the router word, N, E, S, W from high bit to low (R237). -/
structure OutMask where
  n : Bool
  e : Bool
  s : Bool
  w : Bool
  deriving DecidableEq, Repr

/-- A direction of the mesh (R189). -/
inductive Dir where
  | n | e | s | w
  deriving DecidableEq, Repr

structure FldOpenOps where
  cl : ClusterRef
  lm : Fin 4
  grp : GroupSel
  dd : Fin 4
  fmt : AuxFmt
  unary : Bool
  deriving DecidableEq, Repr

/-- FLD.ACC (R227, R228). `parity` is a core of the cluster in which a parity check of this access fails
(R447, R448), if one does. -/
structure FldAccOps where
  cl : ClusterRef
  lm : Fin 4
  src : AccSrc
  agc : Fin 8
  half : Bool
  ags : Fin 8
  aux : Bool
  form : TileForm
  g : Fin 32
  inc : Bool
  first : Bool
  last : Bool
  dd : Fin 4
  parity : Option (Fin 64)
  deriving DecidableEq, Repr

structure FldCloseOps where
  cl : ClusterRef
  lm : Fin 4
  aux : Bool
  dest : CloseDest
  deriving DecidableEq, Repr

structure FldEnrgOps where
  cl : ClusterRef
  lm : Fin 4
  dd : Fin 4
  ags : Fin 8
  inc : Bool
  deriving DecidableEq, Repr

structure RedPartOps where
  cl : ClusterRef
  lm : Fin 4
  grp : GroupSel
  j : Fin 64
  nm1 : Fin 64
  deriving DecidableEq, Repr

structure RedPaddOps where
  cl : ClusterRef
  lm : Fin 4
  grp : GroupSel
  j : Fin 64
  final : Bool
  deriving DecidableEq, Repr

structure RedAtomOps where
  cl : ClusterRef
  lm : Fin 4
  tgt : Fin 4096
  ago : Fin 8
  mode : CombineMode
  j : Fin 64
  deriving DecidableEq, Repr

structure RedEtotOps where
  cl : ClusterRef
  lm : Fin 4
  mode : EtotMode
  dd : Fin 4
  deriving DecidableEq, Repr

/-- The operands all four DRAW operations share (R230). -/
structure DrawOps where
  cl : ClusterRef
  lm : Fin 4
  dd : Fin 4
  agw : Fin 8
  launch : Bool
  sel : Fin 4
  ags : Fin 8
  inc : Bool
  deriving DecidableEq, Repr

structure ExcOps where
  cl : ClusterRef
  lm : Fin 4
  agt : Fin 8
  ch : Fin 128
  deriving DecidableEq, Repr

structure StaOps where
  cl : ClusterRef
  lm : Fin 4
  dd : Fin 4
  ags : Fin 8
  word : Fin 16
  deriving DecidableEq, Repr

structure StaPairOps where
  base : StaOps
  ags2 : Fin 8
  word2 : Fin 16
  ago : Fin 8
  deriving DecidableEq, Repr

structure StaFlushOps where
  cl : ClusterRef
  lm : Fin 4
  tgt : Fin 4096
  ago : Fin 8
  mode : CombineMode
  j : Fin 64
  wide : Bool
  deriving DecidableEq, Repr

structure MovMaskOps where
  cl : ClusterRef
  lmd : Fin 4
  op : MaskOp
  lms : Fin 4
  psel : MaskPattern
  imm : BitVec 16
  deriving DecidableEq, Repr

structure MovAgOps where
  cl : ClusterRef
  ag : Fin 8
  field : AgField
  value : BitVec 11
  deriving DecidableEq, Repr

structure MovDescOps where
  cl : ClusterRef
  dd : Fin 4
  ag : Fin 8
  ofs : Fin 16
  deriving DecidableEq, Repr

structure HalfLineOps where
  cl : ClusterRef
  ag : Fin 8
  half : Bool
  inc : Bool
  deriving DecidableEq, Repr

structure SlotOps where
  cl : ClusterRef
  ags : Fin 8
  inc : Bool
  deriving DecidableEq, Repr

structure StLineOps where
  cl : ClusterRef
  ag : Fin 8
  tgt : Fin 4096
  ago : Fin 8
  inc : Bool
  deriving DecidableEq, Repr

/-- ST.RES and ST.SNAP (R234); `fmt` is the result format code of ST.RES and 0 for ST.SNAP. -/
structure StStateOps where
  cl : ClusterRef
  lm : Fin 4
  dd : Fin 4
  ag : Fin 8
  fmt : Fin 16
  deriving DecidableEq, Repr

structure HaloOps where
  cl : ClusterRef
  ag : Fin 8
  peer : Fin 256
  deriving DecidableEq, Repr

/-- MOV.SEND: OUT_L, DLV[11], AGD and LTTL of the router word (R237). -/
structure SendOps where
  cl : ClusterRef
  outL : OutMask
  deliver : Bool
  agd : Fin 8
  lttl : Fin 4
  deriving DecidableEq, Repr

/-- MOV.FWD: OUT_N to OUT_W, DLV[10:7] and AGD of the router word (R237). `parity` is a core at which a
hop check fails (R447, R448), if one does. -/
structure FwdOps where
  cl : ClusterRef
  outN : OutMask
  outE : OutMask
  outS : OutMask
  outW : OutMask
  dlv : OutMask
  agd : Fin 8
  parity : Option (Fin 64)
  deriving DecidableEq, Repr

/-- CV.FWD and CV.OUT: the direction the beats arrive from (none: this core's own launch register or edge port)
and the outputs they leave by (R237). -/
structure ChainOps where
  cl : ClusterRef
  from_ : Option Dir
  out : OutMask
  dlv : Bool
  deriving DecidableEq, Repr

/-! ### Control slice, caravans and holds -/

/-- The conditions of a BARRIER mark (R218). -/
inductive BarrierKind where
  | commit | epoch | preempt
  deriving DecidableEq, Repr

/-- A loop's count: an immediate of 24 bits or one of the eight job parameters (R180, R218). -/
inductive LoopCount where
  | imm (n : Fin 16777216)
  | param (k : Fin 8)
  deriving DecidableEq, Repr

/-- Why a unit asks for a hold, and so the cause code of a demotion (R183, R323). -/
inductive HoldCause where
  | latency | thermal | feed | atomics | barrier | other
  deriving DecidableEq, Repr

/-! ### Memory events -/

/-- One wrong symbol of a sector's 20-symbol codeword: its place and what the error adds to it (R257). -/
structure SymbolError where
  place : Fin 20
  value : BitVec 16
  deriving DecidableEq, Repr

/-- A sector of a stack: frame, and sector of 32 bytes within the frame (R252, R254). -/
structure SectorRef where
  stack : Fin 36
  frame : Nat
  sector : Fin 65536
  deriving DecidableEq, Repr

/-- What the raw read and the one reread of a sector find wrong (R258): the errors the cells deliver, and whether the DRAM die
that holds the sector is found to have failed outright (R266). -/
structure SectorRaw where
  first : List SymbolError
  again : List SymbolError
  dieFailed : Bool
  deriving DecidableEq, Repr

/-! ### Kenvin operands -/

/-- The fields of a received Ethernet frame that R350, R351 and R359 name; `fcsOk` is the FCS check, `size`
counts destination address to FCS, `express` tells which MAC received it, `vlan` is the VID of a C-tag and
`otherTag` marks any other tag. -/
structure Frame where
  dst : BitVec 48
  src : BitVec 48
  vlan : Option (BitVec 12)
  otherTag : Bool
  etherType : BitVec 16
  payload : Bytes
  size : Nat
  fcsOk : Bool
  express : Bool
  deriving DecidableEq, Repr

/-- SESSION and REQUEST_ID of a COMMAND packet (R394, R404). -/
structure CmdHead where
  sess : Nat
  req : Nat
  deriving DecidableEq, Repr

/-- The body of SUBMIT (R407). Digests are 32 bytes; a zero digest means none. -/
structure SubmitBody where
  program : Bytes
  model : Bytes
  input : Bytes
  context : Bytes
  seed : BitVec 64
  priority : Nat
  timing : Nat
  clock : Nat
  tiling : Nat
  replicas : Nat
  beta : Nat
  ensemble : Nat
  interval : Nat
  flags : BitVec 16
  params : List Word
  energyFormat : Nat
  topkSource : Nat
  topkK : Nat
  topkFlags : BitVec 8
  checkFraction : Nat
  digestLevel : Nat
  digestEvery : Nat
  digestFirst : Nat
  stateFormat : Nat
  resultFlags : BitVec 8
  deriving DecidableEq, Repr

/-- What FETCH names (R404): a job's result, or an object by digest. -/
inductive FetchWhat where
  | job (id : Nat)
  | object (digest : Bytes)
  deriving DecidableEq, Repr

/-- One entry of a register batch (R412). -/
structure RegEntry where
  addr : Word
  write : Bool
  data : Word
  deriving DecidableEq, Repr

/-- SESSION_OPEN phase 1 (R486). `extra` is the 512-byte field of ROLE 3 and ROLE 4, empty otherwise. -/
structure Phase1 where
  src : Nat
  role : Nat
  encrypt : Bool
  keyFpr : Bytes
  hostNonce : Bytes
  consent : Bytes
  extra : Bytes
  deriving DecidableEq, Repr

/-- SESSION_OPEN phase 2 as an opener receives it (R486, R487). -/
structure Phase2 where
  src : Nat
  sess : Nat
  encrypt : Bool
  noIdentity : Bool
  deviceNonce : Bytes
  wrapped : Bytes
  deviceSig : Bytes
  responderKey : Bytes
  deriving DecidableEq, Repr

/-- SESSION_OPEN phase 3 (R486). -/
structure Phase3 where
  sess : Nat
  hostSig : Bytes
  claimProof : Bytes
  deriving DecidableEq, Repr

/-- SESSION_OPEN phase 4 as an opener receives it (R486). -/
structure Phase4 where
  src : Nat
  sess : Nat
  status : BitVec 16
  confirm : Bytes
  deriving DecidableEq, Repr

/-- ROLL_CALL ENUMERATE (R385, R386). -/
structure EnumerateBody where
  src : Nat
  filterAll : Bool
  windowUs : Nat
  exclude : List (BitVec 48)
  nonce : Bytes
  deriving DecidableEq, Repr

/-- ROLL_CALL ASSIGN (R385, R387); `signer` and `signature` are empty for an unsigned ASSIGN. -/
structure AssignBody where
  src : Nat
  mac : BitVec 48
  address : Nat
  nonce : Bytes
  signer : Bytes
  signature : Bytes
  deriving DecidableEq, Repr

/-- LOAD (R404). -/
structure LoadBody where
  kind : Nat
  layout : Nat
  size : Nat
  digest : Bytes
  deriving DecidableEq, Repr

/-- A bare acknowledgement (R391): ACK, SACK_MAP and the 512-byte bitmap when it carries one. -/
structure AckBody where
  sess : Nat
  ack : Nat
  sackMap : BitVec 16
  bitmap : Bytes
  deriving DecidableEq, Repr

/-- The classes of RESET (R404). -/
inductive ResetClass where
  | port | hubWarm
  | die (d : Fin 6)
  | moduleWarm
  deriving DecidableEq, Repr

/-- JOIN (R421). -/
structure JoinBody where
  sess : Nat
  group : Nat
  member : Nat
  job : Nat
  startSec : Nat
  startNs : Nat
  record : Bytes
  deriving DecidableEq, Repr

/-- READY, COMMIT, HOLD, LEAVE or REFUSED of a neighbour (R421). -/
structure BarrierBody where
  sess : Nat
  group : Nat
  member : Nat
  attempt : Nat
  status : BitVec 16
  epoch : Nat
  deriving DecidableEq, Repr

/-- HALO (R427); each beat is 64 bytes. -/
structure HaloBody where
  sess : Nat
  group : Nat
  epoch : Nat
  channel : Nat
  attempt : Nat
  firstBeat : Nat
  beats : List Bytes
  deriving DecidableEq, Repr

/-- RETRACT (R436). -/
structure RetractBody where
  sess : Nat
  group : Nat
  member : Nat
  attempt : Nat
  epoch : Nat
  deriving DecidableEq, Repr

/-- A one-step Sync as the port receives it (R370): its origin time and the receive timestamp at the timestamp point, in 1/16 ns. -/
structure PtpSync where
  origin : Int
  received : Int
  deriving DecidableEq, Repr

/-- An item of BIST (R541). -/
inductive BistItem where
  | core (c : PhysCore)
  | stackRegion (t : Fin 36) (group : Fin 4)
  | laser
  | lane (n : Fin 8)
  | holdup (capacitance : Nat) (millivolts : Nat)
  deriving DecidableEq, Repr

/-- An analogue check of R542. -/
inductive SensorItem where
  | sensor (s : Fin 64)
  | ring (die : Fin 6)
  deriving DecidableEq, Repr

/-- How the active laser fell out of range (R366): its monitor power, or its bias current. -/
inductive LaserFault where
  | monitor | bias
  deriving DecidableEq, Repr

/-- Which of the two checks of R369 failed: a parity fault of the active instance, or a bare mismatch. -/
inductive MacFault where
  | parity | mismatch
  deriving DecidableEq, Repr

/-- The step of a check that resolves (R460): the checker's replay, or the third core's. -/
inductive ReplayStage where
  | checker | third
  deriving DecidableEq, Repr

/-- The commands: one constructor per row of the operation and event table. -/
inductive Instr where
  -- FIELD and REDUCE
  | nop (cl : ClusterRef) (slot : UnitSlot) (idle : Bool)
  | fldOpen (o : FldOpenOps)
  | fldAcc (o : FldAccOps)
  | fldClose (o : FldCloseOps)
  | fldEnrg (o : FldEnrgOps)
  | redPart (o : RedPartOps)
  | redPadd (o : RedPaddOps)
  | redAtom (o : RedAtomOps)
  | redEtot (o : RedEtotOps)
  -- DRAW
  | drwBin (o : DrawOps)
  | drwCat (o : DrawOps)
  | drwCatm (o : DrawOps) (stage : Fin 3)
  | drwGau (o : DrawOps)
  -- EXCH, STAT, TOPK
  | excPair (o : ExcOps)
  | excBeta (cl : ClusterRef) (lm : Fin 4) (dd : Fin 4)
  | excWgt (o : ExcOps) (pass : Bool)
  | excRsmp (o : ExcOps)
  | staSgl (o : StaOps)
  | staPair (o : StaPairOps)
  | staHist (o : StaOps)
  | staFlush (o : StaFlushOps)
  | tpkOffer (cl : ClusterRef) (ch : Fin 128)
  | tpkScan (cl : ClusterRef) (tgt : Fin 4096) (ago : Fin 8)
  -- MOVE, LOAD, STORE, SYNC
  | movMask (o : MovMaskOps)
  | movAg (o : MovAgOps)
  | movDesc (o : MovDescOps)
  | movGrp (cl : ClusterRef) (lm : Fin 4) (src dst : GroupSel)
  | movZero (o : HalfLineOps)
  | ldLine (o : HalfLineOps)
  | ldSlot (o : SlotOps)
  | ldAnch (cl : ClusterRef) (dd : Fin 4)
  | stLine (o : StLineOps)
  | stRes (o : StStateOps)
  | stSnap (o : StStateOps)
  | synHout (o : HaloOps)
  | synHin (o : HaloOps)
  | synEpoch (cl : ClusterRef)
  -- router
  | movSend (o : SendOps)
  | movFwd (o : FwdOps)
  | cvRecv (cl : ClusterRef)
  | cvFwd (o : ChainOps)
  | cvOut (o : ChainOps)
  -- control slice
  | stepMark (job : Fin 4096)
  | phaseMark (job : Fin 4096)
  | barrierWord (job : Fin 4096) (kind : BarrierKind)
  | barrierRelease (job : Fin 4096)
  | endWord (job : Fin 4096)
  | loopOpen (job : Fin 4096) (last : Fin 4096) (count : LoopCount)
  | loopEndTest (job : Fin 4096)
  -- caravans and holds
  | caravanTrigger (job : Fin 4096) (seg : Fin 4096)
  | caravanBeatIssue (job : Fin 4096) (seg : Fin 4096) (late : Nat)
  | caravanBeatArrival (job : Fin 4096) (column : Fin 8)
  | holdRequest (job : Fin 4096) (len : Fin 65) (after : Nat) (cause : HoldCause)
  | holdEnd (job : Fin 4096)
  -- base-die atomics
  | atomicOperation (stack : Fin 36)
  | orderedPart (stack : Fin 36)
  | heldPartEntry (stack : Fin 36)
  -- commit and integrity
  | stepCommit (job : Fin 4096)
  | checkResolve (job : Fin 4096) (core : LogicalCore) (stage : ReplayStage) (digest : DWord)
  | oasisCopyDone (cl : ClusterRef) (spare : Bool)
  | clusterDegraded (cl : ClusterRef)
  | observationEnd (unit : UnitRef)
  | kakComplete (core : PhysCore) (kernel : Fin 16) (digest : DWord)
  | kakTimeout (die : Fin 6)
  | copyDigestCompare (job : Fin 4096)
  | hangReset (half : Fin 12)
  -- Tielux memory
  | sectorRead (at_ : SectorRef) (raw : SectorRaw) (job : Option (Fin 4096))
  | correctedWriteback (at_ : SectorRef)
  | refreshWindow (stack : Fin 36) (bank : Fin 4)
  | fixedCadenceRefresh (job : Fin 4096) (bank : Fin 4)
  | dieSpareDone (stack : Fin 36)
  | stackFailed (stack : Fin 36)
  | stripeMove (stack : Fin 36) (frame : Nat)
  | scrubRead (stack : Fin 36) (raw : SectorRaw)
  | frameCleared (stack : Fin 36) (frame : Nat)
  | stackHot (stack : Fin 36)
  | stackCool (stack : Fin 36)
  | stackSelfRefresh (stack : Fin 36)
  | stackWake (stack : Fin 36)
  | stackImbalance (stack : Fin 36)
  | imbalanceRepeat (stack : Fin 36)
  -- job engine
  | admitJob
  | waitLimit (job : Fin 4096)
  | seedingDone (job : Fin 4096)
  | preemptionPoint (job : Fin 4096)
  | contextWritten (job : Fin 4096)
  | cancelTimeout (job : Fin 4096)
  | settingChange (job : Fin 4096)
  | pllLock (pll : Pll)
  | halfClockStop (half : Fin 12)
  | unitReady (unit : ReadyUnit)
  | readyTimeout (unit : ReadyUnit)
  -- optical port and PTP
  | frameReceive (f : Frame)
  | neighbourSolicitation (src : BitVec 128) (target : BitVec 128)
  | echoRequest (src dst : BitVec 128) (data : Bytes)
  | expressFrameReady (bulkSent bulkLeft : Nat)
  | laneFailed (lane : Fin 8)
  | linkUp
  | linkDown
  | fallbackRetry
  | preemptVerify (ok : Bool)
  | laserSwitch (cause : LaserFault)
  | macSwitch (cause : MacFault)
  | ptpSync (m : PtpSync)
  | ptpDelayResp (sent received : Int)
  | ptpUnlocked
  -- Kenvin sessions
  | ack (b : AckBody)
  | retransmitTimeout (sess : Nat) (seq : Nat)
  | sessionTimeout (sess : Nat)
  | idleTimeout (sess : Nat)
  | sessionOpenPhase1 (p : Phase1)
  | sessionOpenPhase2 (p : Phase2)
  | sessionOpenPhase3 (p : Phase3)
  | sessionOpenPhase4 (p : Phase4)
  | halfOpenTimeout (sess : Nat)
  | sessionClose (sess : Nat)
  | enumerate (b : EnumerateBody)
  | rollCallBackoff
  | probe (src : Nat) (address : Nat) (nonce : Bytes)
  | assign (b : AssignBody)
  | reply (address : Nat)
  | probeTimeout
  -- Kenvin commands
  | load (h : CmdHead) (b : LoadBody)
  | release (h : CmdHead) (digest : Bytes)
  | submit (h : CmdHead) (b : SubmitBody)
  | cancel (h : CmdHead) (job : Nat)
  | suspend (h : CmdHead) (job : Nat) (step : Nat)
  | resume (h : CmdHead) (job : Nat)
  | exportJob (h : CmdHead) (job : Nat)
  | fetch (h : CmdHead) (what : FetchWhat) (offset length : Nat)
  | releaseResult (h : CmdHead) (job : Nat)
  | reset (h : CmdHead) (cls : ResetClass)
  | bulk (sess : Nat) (handle : Nat) (offset : Nat) (data : Bytes)
  | symmetryCheckDone (handle : Nat)
  | regBatch (sess : Nat) (tag : Nat) (entries : List RegEntry)
  | quote (sess : Nat) (nonce : Bytes)
  | quoteConfigRecord (sess : Nat) (nonce : Bytes)
  -- resets
  | portReset
  | dieReset (die : Fin 6)
  | hubWarmReset
  | moduleWarmReset
  | hubStart
  -- run groups
  | join (b : JoinBody)
  | ready (b : BarrierBody)
  | groupStart (job : Fin 4096)
  | groupStartTimeout (job : Fin 4096)
  | commit (b : BarrierBody)
  | hold (b : BarrierBody)
  | leave (b : BarrierBody)
  | refused (b : BarrierBody)
  | halo (b : HaloBody)
  | retract (b : RetractBody)
  | groupTimeout (job : Fin 4096)
  | peerSessionRetry (job : Fin 4096) (member : Nat)
  -- security
  | claimBackoffExpiry
  | consentExpiry (sess : Nat)
  | keyOpEnrol (sess : Nat)
  | keyOpRemove (sess : Nat)
  | keyOpMakerCert (sess : Nat)
  | firmwareHandover
  | controllerFailed (c : Controller)
  | flashWriteRetry (ok : Bool)
  | firmwareMissingBeacon
  | scanArm (sess : Nat)
  | scanRelease
  | scanTimeout
  -- entropy
  | entropyBlock (samples : List Bool)
  | entropyReady
  | rngData (sess : Nat)
  | rawData (sess : Nat) (samples : Word)
  | rawMode (sess : Nat) (on : Bool)
  | alarmClear (sess : Nat)
  | drbgMode (sess : Nat) (shared : Bool)
  -- power and thermal
  | feedPresent (feed : Feed) (millivolts : Nat)
  | feedLost (feed : Feed) (millivolts : Nat)
  | journalClosed
  | phaseGroupFailed (rail : Rail) (group : Fin 6)
  | currentLimit (die : Fin 6) (stretch : Fin 17)
  | droopStretch (die : Fin 6) (stretch : Fin 17)
  | droopRelease (die : Fin 6)
  | thermalThrottle (part : ThermalPart) (sixteenths : Int)
  | throttleStep (die : Fin 6)
  | thermalTrip (part : ThermalPart) (sixteenths : Int)
  | thermalRelease (part : ThermalPart) (sixteenths : Int)
  | bistSlice (item : BistItem) (pass : Bool)
  | sensorCheck (item : SensorItem) (pass : Bool) (reading : Int)
  | pllLockLoss (pll : Pll)
  | pllJitterFail (pll : Pll)
  -- register pages
  | registerWrite (sess : Nat) (addr : Word) (data : Word)
  | highWordRead (sess : Nat) (addr : Word)
  | jobSel (sess : Nat) (data : Word)
  | auditSelLo (sess : Nat) (data : Word)
  | evtSel (sess : Nat) (data : Word)
  | evtForce (sess : Nat) (page : Nat) (data : Word)
  | wake (sess : Nat) (page : Nat)
  | retry (sess : Nat) (page : Nat)
  | dr8Retry (sess : Nat)
  | cfgOpWriteRecord (sess : Nat)
  | cfgOpUnclaim (sess : Nat)
  | cfgWriteDone (ok : Bool)
  | restoreDone (job : Fin 4096)
  | flashRewriteDone (ok : Bool)
  | vaonLost
  deriving DecidableEq, Repr

end Sys2Proof
end

