-- ==== Sys2Proof/Decode.lean ====
section
/-! DEFINITION. The commands that a table word spells. The rows of the operation and event table give no bits
(every row's match is empty), so no word spells a command. -/

namespace Sys2Proof

/-- The command that the `nbits`-bit word `w` spells by the table's bits: none, as no row gives bits. -/
def decodeTableWord (_nbits _w : Nat) : Option Instr := none

end Sys2Proof
end

