-- ==== Sys2Proof/Config.lean ====
section
/-! DEFINITION. What an implementation fixes and the values the spec leaves open. Every constant here is opaque: it
has no value that a proof could use, so a claim holds whatever it is (log entries 6 and 15). -/

namespace Sys2Proof.Config

open Sys2Proof

/-- Byte `i` of the `n`-th output taken from the entropy block's DRBG (16 R503): nonces, master secrets, PSS salts,
OAEP seeds, back-offs, seeds from entropy, RNG_DATA. -/
opaque drbgByte (n i : Nat) : Byte

/-- 32 raw samples of the entropy source, as RAW_DATA in a register batch reads them (16 R507). -/
opaque rawSamples (n : Nat) : Word

/-- A 64-bit free value of a memory cell that a miscorrected or unreadable sector delivers (09 R257). -/
opaque cellByte (n i : Nat) : Byte

/-- The identity key's RSA-3072 PSS signature over a digest with the given salt (16 R492: the private key is in no
packet, register or rule). -/
opaque identitySign (digest salt : Bytes) : Bytes

/-- RSA-OAEP decryption with the identity key (16 R486, R487): none where it fails. -/
opaque identityDecrypt (wrapped : Bytes) : Option Bytes

/-- Does the unwrap of an IDENTITY_BLOB pass its integrity check (16 R492, R493). -/
opaque identityUnwraps (blob : Bytes) : Bool

/-- The claim key an IDENTITY_BLOB unwraps to (16 R492). -/
opaque claimKey (blob : Bytes) : Bytes

/-- The modulus that verifies the configuration record (00 R4). -/
opaque neholtModulus : Bytes

/-- The moduli of the Neholt firmware keys whose fingerprints the hub boot ROM holds (16 R496). -/
opaque firmwareKeys : List Bytes

/-- The published check digest of each known-answer kernel (15 R467). -/
opaque kakDigest (kernel : Nat) : DWord

/-- The page placement choice of the salted hash (09 R280): the stack tried for the `n`-th page. -/
opaque pageStack (n page : Nat) : Nat

/-- The exponent of BS16 element `k` of a line that a program's preload, or an allocation that is no copy of the model, gives (03 R58: the
exponents stand in the model image; no rule places them in a preload run or in other data). -/
opaque placedExponent (program : Bytes) (place k : Nat) : Int

/-- The stack, frame and sector that a consumed mirage came from (09 R262: the marker that travels with a value, R261, does
not name them). -/
opaque mirageSource (n : Nat) : Nat × Nat × Nat

/-- STEP_DIGEST of a job no step of which has committed (13 R409, 11 R343: no rule states it). -/
opaque noStepDigest : DWord

/-- Fabric cycles that a barrier waited, or a relock pause took, as the S6 counts them (07 R182, R184; 10 R304): no step of
the table carries the count. -/
opaque waitCycles (n : Nat) : Nat

/-- Power as the module measures it in its `n`-th millisecond, in W: of die 0 to 5, and 6 for the whole input (17 R547: measured values). -/
opaque measuredWatts (n which : Nat) : BitVec 12

/-- The variable and the first replica of word `w` of an ancestor gather's stream (08 R233, R245: no rule places the words). -/
opaque gatherAt (program : Bytes) (tiling segment w : Nat) : Nat × Nat

/-- The column, 0 to 7, of the edge core that a port hands beat `i` of a segment to (07 R194, R197: no rule names it). -/
opaque beatColumn (program : Bytes) (tiling segment i : Nat) : Nat

/-- The byte of its allocation, or of job memory, at which beat `i` of an anchor or gather segment is read (07 R199, 08 R245: no rule places
it). -/
opaque unseenOffset (program : Bytes) (tiling segment i : Nat) : Nat

/-- Which of the anchors that job memory holds anchor `i` of an anchor segment's stream is (06 R169, R171; 08 R245: no rule orders them in
memory). -/
opaque anchorPlace (program : Bytes) (tiling segment i : Nat) : Nat

/-- The Ethernet address of the module at a unit address (14 R423, 12 R352: the run record names a member by its unit address and its IPv6
address, and a session's first packet has no received packet to answer). -/
opaque memberMac (address : Nat) : BitVec 48

end Sys2Proof.Config
end

