-- ==== Sys2Proof/Machine/Num.lean ====
section
/-! DEFINITION. Number formats (02): exact values, the one rounding of R39, the conversions of R40, and the
little- and big-endian integers of byte strings (R10, R11). -/

namespace Sys2Proof.Machine

open Sys2Proof

/-! ### Bytes and integers -/

/-- The little-endian integer of a byte string (R11). -/
def leNat : Bytes → Nat
  | [] => 0
  | b :: bs => b.toNat + 256 * leNat bs

/-- The big-endian integer of a byte string (R10). -/
def beNat (bs : Bytes) : Nat := bs.foldl (fun a b => 256 * a + b.toNat) 0

/-- The `n` little-endian bytes of an integer. -/
def leBytes : Nat → Nat → Bytes
  | 0, _ => []
  | n + 1, v => BitVec.ofNat 8 v :: leBytes n (v / 256)

/-- The `n` big-endian bytes of an integer. -/
def beBytes (n v : Nat) : Bytes := (leBytes n v).reverse

/-- The two's-complement integer of the low `w` bits of `v`. -/
def signedOf (w v : Nat) : Int := if v % 2 ^ w < 2 ^ (w - 1) then (v % 2 ^ w : Nat) else ((v % 2 ^ w : Nat) : Int) - 2 ^ w

/-- The low `w` bits of an integer, as a natural number. -/
def wrapNat (w : Nat) (x : Int) : Nat := (x % (2 ^ w : Int)).toNat

/-- Bits `lo … lo + w − 1` of `v`. -/
def bitField (v lo w : Nat) : Nat := v / 2 ^ lo % 2 ^ w

/-- The bytes at an offset: `len` bytes, short at the end of the string. -/
def slice (bs : Bytes) (off len : Nat) : Bytes := (bs.drop off).take len

/-- The little-endian unsigned integer of `len` bytes at `off`. -/
def leAt (bs : Bytes) (off len : Nat) : Nat := leNat (slice bs off len)

/-- The big-endian unsigned integer of `len` bytes at `off`. -/
def beAt (bs : Bytes) (off len : Nat) : Nat := beNat (slice bs off len)

/-! ### Integer rounding (R79) -/

/-- n / d rounded to nearest, ties to even (R39). -/
def rneDiv (n d : Nat) : Nat :=
  let q := n / d
  let r := n % d
  if 2 * r > d ∨ (2 * r = d ∧ q % 2 = 1) then q + 1 else q

/-- rne_shr of R79 for a natural number. -/
def rneShr (v s : Nat) : Nat := rneDiv v (2 ^ s)

/-- rne_shr of R79 for an integer: symmetric about zero. -/
def rneShrInt (v : Int) (s : Nat) : Int :=
  if 0 ≤ v then (rneShr v.toNat s : Int) else -(rneShr (-v).toNat s : Int)

/-! ### Exact values -/

/-- An exact value of the number formats: NaN, a signed infinity, or (−1)^neg × mag × 2^exp. -/
inductive Val where
  | nan
  | inf (neg : Bool)
  | fin (neg : Bool) (mag : Nat) (exp : Int)
  deriving DecidableEq, Repr

namespace Val

/-- +0. -/
def zero : Val := .fin false 0 0

/-- The value of an integer. -/
def ofInt (i : Int) : Val := .fin (decide (i < 0)) i.natAbs 0

/-- The value of n × 2^e. -/
def ofScaled (i : Int) (e : Int) : Val := .fin (decide (i < 0)) i.natAbs e

/-- mag × 2^exp scaled to the exponent `e` at or below `exp`. -/
def magAt (mag : Nat) (exp e : Int) : Nat := mag * 2 ^ (exp - e).toNat

/-- The signed integer of a finite value at the exponent `e` at or below its own. -/
def intAt (neg : Bool) (mag : Nat) (exp e : Int) : Int :=
  if neg then -(magAt mag exp e : Int) else (magAt mag exp e : Int)

def neg : Val → Val
  | .nan => .nan
  | .inf n => .inf (!n)
  | .fin n m e => .fin (!n) m e

/-- The exact product, with the rules of R79 for infinities. -/
def mul : Val → Val → Val
  | .nan, _ => .nan
  | _, .nan => .nan
  | .inf a, .inf b => .inf (a != b)
  | .inf a, .fin b m _ => if m = 0 then .nan else .inf (a != b)
  | .fin b m _, .inf a => if m = 0 then .nan else .inf (a != b)
  | .fin a m e, .fin b k f => .fin (a != b) (m * k) (e + f)

/-- The exact sum, with the rules of R79 for infinities; an exact cancellation is +0 (R34). -/
def add : Val → Val → Val
  | .nan, _ => .nan
  | _, .nan => .nan
  | .inf a, .inf b => if a = b then .inf a else .nan
  | .inf a, .fin _ _ _ => .inf a
  | .fin _ _ _, .inf a => .inf a
  | .fin a m e, .fin b k f =>
    if m = 0 ∧ k = 0 then .fin (a && b) 0 0
    else
      let g := min e f
      let t := intAt a m e g + intAt b k f g
      .fin (decide (t < 0)) t.natAbs g

def sub (x y : Val) : Val := add x (neg y)

def isNan : Val → Bool
  | .nan => true
  | _ => false

def isFinite : Val → Bool
  | .fin _ _ _ => true
  | _ => false

/-- Zero of either sign. -/
def isZero : Val → Bool
  | .fin _ m _ => m == 0
  | _ => false

/-- The sign bit (a NaN is canonical, with sign 0). -/
def signBit : Val → Bool
  | .nan => false
  | .inf n => n
  | .fin n _ _ => n

/-- x < y on values that are not NaN; zeros of both signs are equal (R34). -/
def lt : Val → Val → Bool
  | .nan, _ => false
  | _, .nan => false
  | .inf a, .inf b => a && !b
  | .inf a, .fin _ _ _ => a
  | .fin _ _ _, .inf b => !b
  | .fin a m e, .fin b k f => decide (intAt a m e (min e f) < intAt b k f (min e f))

/-- x ≤ y on values that are not NaN. -/
def le (x y : Val) : Bool := !x.isNan && !y.isNan && !lt y x

/-- Equal values; NaN equals nothing, and zeros of both signs are equal (R34). -/
def eqv (x y : Val) : Bool := le x y && le y x

/-- |x|. -/
def abs : Val → Val
  | .nan => .nan
  | .inf _ => .inf false
  | .fin _ m e => .fin false m e

/-- rne_int(x × 2^s) of a finite value; other values give 0 and are never asked for. -/
def rneScaled (x : Val) (s : Int) : Int :=
  match x with
  | .fin n m e =>
    let k := e + s
    let a := if 0 ≤ k then m * 2 ^ k.toNat else rneDiv m (2 ^ (-k).toNat)
    if n then -(a : Int) else (a : Int)
  | _ => 0

end Val

/-! ### Floating-point formats (R32) -/

/-- A floating-point format: precision, exponent of the least subnormal, largest finite code, the code of
+infinity if there is one, the canonical NaN of R41, and the width. -/
structure FloatFmt where
  width : Nat
  prec : Nat
  emin : Int
  maxCode : Nat
  infCode : Option Nat
  nanCode : Nat
  deriving DecidableEq, Repr

def f8a : FloatFmt := ⟨8, 4, -9, 0x7E, none, 0x7F⟩
def f8b : FloatFmt := ⟨8, 3, -16, 0x7B, some 0x7C, 0x7E⟩
def f16 : FloatFmt := ⟨16, 11, -24, 0x7BFF, some 0x7C00, 0x7E00⟩
def bf16 : FloatFmt := ⟨16, 8, -133, 0x7F7F, some 0x7F80, 0x7FC0⟩
def f32 : FloatFmt := ⟨32, 24, -149, 0x7F7FFFFF, some 0x7F800000, 0x7FC00000⟩
def f64 : FloatFmt := ⟨64, 53, -1074, 0x7FEFFFFFFFFFFFFF, some 0x7FF0000000000000, 0x7FF8000000000000⟩

/-- The value of a code (R32, R33). -/
def FloatFmt.value (f : FloatFmt) (code : Nat) : Val :=
  let sign := bitField code (f.width - 1) 1 == 1
  let mag := code % 2 ^ (f.width - 1)
  if mag ≤ f.maxCode then
    let e := mag / 2 ^ (f.prec - 1)
    let m := mag % 2 ^ (f.prec - 1)
    if e = 0 then .fin sign m f.emin else .fin sign (2 ^ (f.prec - 1) + m) (f.emin + e - 1)
  else if f.infCode = some mag then .inf sign else .nan

/-- The code, sign apart, of (n / d) × 2^e rounded to the format's grid continued above its largest finite value
with the exponent unbounded (R39, R40). `d` is positive. -/
def FloatFmt.roundMag (f : FloatFmt) (n d : Nat) (e : Int) : Nat :=
  if n = 0 then 0
  else
    -- the floor of log2 (n / d), then the exponent of the result's last place
    let l : Int := (Nat.log2 n : Int) - Nat.log2 d
    let fl := if (if 0 ≤ l then n ≥ d * 2 ^ l.toNat else n * 2 ^ (-l).toNat ≥ d) then l else l - 1
    let q := max f.emin (fl + e - (f.prec - 1))
    let sh := e - q
    let m := if 0 ≤ sh then rneDiv (n * 2 ^ sh.toNat) d else rneDiv n (d * 2 ^ (-sh).toNat)
    (q - f.emin).toNat * 2 ^ (f.prec - 1) + m

/-- A code with its sign bit. -/
def FloatFmt.signed (f : FloatFmt) (neg : Bool) (mag : Nat) : Nat := if neg then mag + 2 ^ (f.width - 1) else mag

/-- The code of a magnitude rounded with the exponent unbounded: the IEEE formats overflow to infinity, F8A and
F8B saturate (R40). The second part says whether the conversion is counted. -/
def FloatFmt.bound (f : FloatFmt) (neg : Bool) (mag : Nat) : Nat × Bool :=
  if mag ≤ f.maxCode then (f.signed neg mag, false)
  else if f.width = 8 then (f.signed neg f.maxCode, true)
  else match f.infCode with
    | some i => (f.signed neg i, false)
    | none => (f.signed neg f.maxCode, true)

/-- The conversion of an exact value to a floating-point format, with its count (R40, R41). -/
def FloatFmt.ofVal (f : FloatFmt) : Val → Nat × Bool
  | .nan => (f.nanCode, false)
  | .inf n => match f.infCode with
    | some i => (f.signed n i, false)
    | none => (f.signed n f.maxCode, true)
  | .fin n m e => f.bound n (f.roundMag m 1 e)

/-- The code of an exact value rounded once by R39. -/
def FloatFmt.round (f : FloatFmt) (x : Val) : Nat := (f.ofVal x).1

/-- The code of the exact rational (−1)^neg × (n / d) × 2^e. -/
def FloatFmt.roundRat (f : FloatFmt) (neg : Bool) (n d : Nat) (e : Int) : Nat := (f.bound neg (f.roundMag n d e)).1

/-- rne_f32 of R79. -/
def rneF32 (x : Val) : Word := BitVec.ofNat 32 (f32.round x)

/-- rne_f64 of R79. -/
def rneF64 (x : Val) : DWord := BitVec.ofNat 64 (f64.round x)

/-- The value of an F32 word. -/
def valF32 (w : Word) : Val := f32.value w.toNat

/-- The value of an F64 word. -/
def valF64 (w : DWord) : Val := f64.value w.toNat

/-- −0 replaced by +0 (R117, R118). -/
def plusZero (f : FloatFmt) (code : Nat) : Nat := if code = 2 ^ (f.width - 1) then 0 else code

/-- Is an F32 word finite. -/
def finiteF32 (w : Word) : Bool := (valF32 w).isFinite

/-! ### Integer and fixed-point targets (R40) -/

/-- An integer target of `w` bits with the value scaled by 2^s: saturated and counted outside its range; NaN gives
0, counted. -/
def toSigned (w : Nat) (s : Int) (x : Val) : Nat × Bool :=
  match x with
  | .nan => (0, true)
  | .inf n => (if n then 2 ^ (w - 1) else 2 ^ (w - 1) - 1, true)
  | .fin _ _ _ =>
    let i := x.rneScaled s
    if i < -(2 ^ (w - 1) : Int) then (2 ^ (w - 1), true)
    else if i > 2 ^ (w - 1) - 1 then (2 ^ (w - 1) - 1, true)
    else (wrapNat w i, false)

/-- LG16 as a target: x × 2^11, clamped (R40). -/
def toLg16 (x : Val) : Nat × Bool :=
  match x with
  | .nan => (65535, true)
  | .inf n => if n then (0, false) else (65535, true)
  | .fin n m _ =>
    if n ∧ m ≠ 0 then (0, false)
    else
      let i := (x.rneScaled 11).toNat
      if i > 65535 then (65535, true) else (i, false)

/-- The width in bits of a format code (R27); BS16 counts its mantissa. -/
def fmtBits (code : Nat) : Nat :=
  match code with
  | 0 => 1 | 1 => 8 | 2 => 8 | 3 => 16 | 4 => 32 | 5 => 64 | 6 => 8 | 7 => 8
  | 8 => 16 | 9 => 16 | 10 => 32 | 11 => 64 | 12 => 32 | 13 => 16 | 14 => 16 | _ => 0

/-- Conversion of an exact value to a format by code, with its count (R40). B1, U8, BS16 and 0xF are no targets of
R40 and give 0. -/
def convertTo (code : Nat) (x : Val) : Nat × Bool :=
  match code with
  | 2 => toSigned 8 0 x
  | 3 => toSigned 16 0 x
  | 4 => toSigned 32 0 x
  | 5 => toSigned 64 0 x
  | 6 => f8a.ofVal x
  | 7 => f8b.ofVal x
  | 8 => f16.ofVal x
  | 9 => bf16.ofVal x
  | 10 => f32.ofVal x
  | 11 => f64.ofVal x
  | 12 => toSigned 32 16 x
  | 13 => toLg16 x
  | _ => (0, false)

/-- The value of a stored element of a format, `bsExp` being the BS16 block exponent (R27, R31, R35). A B1 element is
its spin; an LG16 element is its stored −ln p. -/
def elemVal (code raw : Nat) (bsExp : Int) : Val :=
  match code with
  | 0 => .ofInt (if raw % 2 = 1 then 1 else -1)
  | 1 => .ofInt (raw % 256 : Nat)
  | 2 => .ofInt (signedOf 8 raw)
  | 3 => .ofInt (signedOf 16 raw)
  | 4 => .ofInt (signedOf 32 raw)
  | 5 => .ofInt (signedOf 64 raw)
  | 6 => f8a.value (raw % 2 ^ 8)
  | 7 => f8b.value (raw % 2 ^ 8)
  | 8 => f16.value (raw % 2 ^ 16)
  | 9 => bf16.value (raw % 2 ^ 16)
  | 10 => f32.value (raw % 2 ^ 32)
  | 11 => f64.value (raw % 2 ^ 64)
  | 12 => .ofScaled (signedOf 32 raw) (-16)
  | 13 => .ofScaled (raw % 65536 : Nat) (-11)
  | 14 => .ofScaled (signedOf 16 raw) bsExp
  | _ => .nan

/-- The element formats whose values the LONGSUM path takes (R45), the LG16 scores of R122 included. -/
def longsumFmt (code : Nat) : Bool := code == 3 || code == 4 || code == 8 || code == 12 || code == 13 || code == 14

/-! ### BS16 blocks (R38) -/

/-- Does every element of the block fit 16 bits at the exponent `e`. -/
def bs16Fits (xs : List Val) (e : Int) : Bool :=
  xs.all fun x => let i := x.rneScaled (-e); decide (-32768 ≤ i ∧ i ≤ 32767)

/-- The least exponent at or above `e` that fits, at most +24, `n` steps being left. -/
def bs16Search (xs : List Val) : Nat → Int → Option Int
  | 0, _ => none
  | n + 1, e => if bs16Fits xs e then some e else bs16Search xs n (e + 1)

/-- A block encoded by R38: the exponent and the mantissas, saturated at +24 where nothing fits. -/
def encodeBs16 (xs : List Val) : Int × List Int :=
  match bs16Search xs 73 (-48) with
  | some e => (e, xs.map (·.rneScaled (-e)))
  | none => (24, xs.map fun x => max (-32768) (min 32767 (x.rneScaled (-24))))

/-! ### LONGSUM128 (R121, R122) -/

/-- V of an exact value that is a multiple of 2^−48. -/
def longsumOf (x : Val) : Int := x.rneScaled 48

/-- The value V × 2^−48. -/
def longsumVal (v : Int) : Val := .ofScaled v (-48)

end Sys2Proof.Machine
end

