-- ==== Sys2Proof/Machine/Crypto.lean ====
section
/-! DEFINITION. The published algorithms the S6 uses, each as its standard defines it: SHA-256, HMAC, HKDF,
RSA-PSS verification with MGF1, AES-256-GCM, and the CRC-64 of R340. -/

namespace Sys2Proof.Machine

open Sys2Proof

/-! ### CRC-64 (R340) -/

/-- One bit of the CRC. -/
def crcBit (c : DWord) : DWord := if c.msb then (c <<< 1) ^^^ 0x42F0E1EBA9EA3693#64 else c <<< 1

/-- `n` bits of the CRC. -/
def crcBits : Nat → DWord → DWord
  | 0, c => c
  | n + 1, c => crcBits n (crcBit c)

/-- One byte of the CRC. -/
def crcByte (c : DWord) (b : Byte) : DWord := crcBits 8 (c ^^^ (BitVec.setWidth 64 b <<< 56))

/-- The CRC-64 of ECMA-182 over a byte string (R340). -/
def crc64 (bs : Bytes) : DWord := bs.foldl crcByte 0

/-! ### SHA-256 (FIPS 180-4) -/

def shaK : List Nat :=
  [0x428a2f98, 0x71374491, 0xb5c0fbcf, 0xe9b5dba5, 0x3956c25b, 0x59f111f1, 0x923f82a4, 0xab1c5ed5] ++
  [0xd807aa98, 0x12835b01, 0x243185be, 0x550c7dc3, 0x72be5d74, 0x80deb1fe, 0x9bdc06a7, 0xc19bf174] ++
  [0xe49b69c1, 0xefbe4786, 0x0fc19dc6, 0x240ca1cc, 0x2de92c6f, 0x4a7484aa, 0x5cb0a9dc, 0x76f988da] ++
  [0x983e5152, 0xa831c66d, 0xb00327c8, 0xbf597fc7, 0xc6e00bf3, 0xd5a79147, 0x06ca6351, 0x14292967] ++
  [0x27b70a85, 0x2e1b2138, 0x4d2c6dfc, 0x53380d13, 0x650a7354, 0x766a0abb, 0x81c2c92e, 0x92722c85] ++
  [0xa2bfe8a1, 0xa81a664b, 0xc24b8b70, 0xc76c51a3, 0xd192e819, 0xd6990624, 0xf40e3585, 0x106aa070] ++
  [0x19a4c116, 0x1e376c08, 0x2748774c, 0x34b0bcb5, 0x391c0cb3, 0x4ed8aa4a, 0x5b9cca4f, 0x682e6ff3] ++
  [0x748f82ee, 0x78a5636f, 0x84c87814, 0x8cc70208, 0x90befffa, 0xa4506ceb, 0xbef9a3f7, 0xc67178f2]

def rotr32 (x n : Nat) : Nat := (x >>> n ||| x <<< (32 - n)) % 2 ^ 32

/-- The working variables a … h. -/
structure ShaState where
  a : Nat
  b : Nat
  c : Nat
  d : Nat
  e : Nat
  f : Nat
  g : Nat
  h : Nat
  deriving DecidableEq, Repr

def shaInit : ShaState :=
  ⟨0x6a09e667, 0xbb67ae85, 0x3c6ef372, 0xa54ff53a, 0x510e527f, 0x9b05688c, 0x1f83d9ab, 0x5be0cd19⟩

/-- One round with constant `k` and schedule word `w`. -/
def shaRound (s : ShaState) (k w : Nat) : ShaState :=
  let s1 := rotr32 s.e 6 ^^^ rotr32 s.e 11 ^^^ rotr32 s.e 25
  let ch := (s.e &&& s.f) ^^^ ((s.e ^^^ 0xffffffff) &&& s.g)
  let t1 := s.h + s1 + ch + k + w
  let s0 := rotr32 s.a 2 ^^^ rotr32 s.a 13 ^^^ rotr32 s.a 22
  let maj := (s.a &&& s.b) ^^^ (s.a &&& s.c) ^^^ (s.b &&& s.c)
  { a := (t1 + s0 + maj) % 2 ^ 32, b := s.a, c := s.b, d := s.c, e := (s.d + t1) % 2 ^ 32, f := s.e, g := s.f, h := s.g }

/-- The rounds: the schedule window holds the next sixteen words, oldest first. -/
def shaRounds : List Nat → List Nat → ShaState → ShaState
  | [], _, s => s
  | k :: ks, w, s =>
    let w0 := w.getD 0 0
    let w1 := w.getD 1 0
    let w14 := w.getD 14 0
    let g0 := rotr32 w1 7 ^^^ rotr32 w1 18 ^^^ (w1 >>> 3)
    let g1 := rotr32 w14 17 ^^^ rotr32 w14 19 ^^^ (w14 >>> 10)
    shaRounds ks (w.tail ++ [(w0 + g0 + w.getD 9 0 + g1) % 2 ^ 32]) (shaRound s k w0)

/-- The sixteen big-endian words of a 64-byte block. -/
def shaWords (blk : Bytes) : List Nat := (List.range 16).map fun i => beAt blk (4 * i) 4

def shaBlock (s : ShaState) (blk : Bytes) : ShaState :=
  let t := shaRounds shaK (shaWords blk) s
  ⟨(s.a + t.a) % 2 ^ 32, (s.b + t.b) % 2 ^ 32, (s.c + t.c) % 2 ^ 32, (s.d + t.d) % 2 ^ 32,
    (s.e + t.e) % 2 ^ 32, (s.f + t.f) % 2 ^ 32, (s.g + t.g) % 2 ^ 32, (s.h + t.h) % 2 ^ 32⟩

/-- `n` blocks of a padded message. -/
def shaBlocks : Nat → Bytes → ShaState → ShaState
  | 0, _, s => s
  | n + 1, bs, s => shaBlocks n (bs.drop 64) (shaBlock s (bs.take 64))

/-- The message with its padding. -/
def shaPad (bs : Bytes) : Bytes :=
  bs ++ [0x80] ++ List.replicate ((119 - bs.length % 64) % 64) 0 ++ beBytes 8 (8 * bs.length)

/-- SHA-256: 32 bytes. -/
def sha256 (bs : Bytes) : Bytes :=
  let p := shaPad bs
  let s := shaBlocks (p.length / 64) p shaInit
  [s.a, s.b, s.c, s.d, s.e, s.f, s.g, s.h].flatMap (beBytes 4)

/-! ### HMAC and HKDF -/

def xorBytes (a b : Bytes) : Bytes := List.zipWith (· ^^^ ·) a b

/-- HMAC-SHA-256 (RFC 2104). -/
def hmac (key msg : Bytes) : Bytes :=
  let k := if key.length > 64 then sha256 key else key
  let k := k ++ List.replicate (64 - k.length) 0
  sha256 (xorBytes k (List.replicate 64 0x5c) ++ sha256 (xorBytes k (List.replicate 64 0x36) ++ msg))

/-- One 32-byte key by HKDF-SHA-256 (RFC 5869). -/
def hkdf32 (ikm salt info : Bytes) : Bytes := hmac (hmac salt ikm) (info ++ [1])

/-- The bytes of an ASCII string. -/
def ascii (s : String) : Bytes := s.toList.map fun c => BitVec.ofNat 8 c.toNat

/-! ### RSA-3072 PSS verification (PKCS #1), exponent 65,537 (R476) -/

/-- m^65537 mod n: sixteen squarings and one product. -/
def rsaPublic (n m : Nat) : Nat :=
  let rec sq : Nat → Nat → Nat
    | 0, x => x
    | k + 1, x => sq k (x * x % n)
  sq 16 m * m % n

/-- MGF1 with SHA-256: `blocks` digests in turn. -/
def mgf1 (seed : Bytes) (len : Nat) : Bytes :=
  (((List.range ((len + 31) / 32)).map fun i => sha256 (seed ++ beBytes 4 i)).flatten).take len

/-- Does a 384-byte signature verify over a digest, with a 32-byte salt. -/
def pssVerify (modulus digest sig : Bytes) : Bool :=
  let n := beNat modulus
  let v := beNat sig
  if sig.length ≠ 384 || modulus.length ≠ 384 || v ≥ n then false
  else
    let em := beBytes 384 (rsaPublic n v)
    let masked := em.take 351
    let h := slice em 351 32
    let db0 := xorBytes masked (mgf1 h 351)
    let db := (db0.headD 0 &&& 0x7F) :: db0.tail
    let salt := db.drop 319
    masked.headD 0 &&& 0x80 == 0 && em.drop 383 == [0xBC] && db.take 319 == List.replicate 318 0 ++ [0x01] &&
      h == sha256 (List.replicate 8 0 ++ digest ++ salt)

/-- The fingerprint of an RSA public key (R476). -/
def fingerprint (modulus : Bytes) : Bytes := sha256 ([0x00, 0x01, 0x00, 0x01] ++ modulus)

/-! ### AES-256-GCM (FIPS 197, SP 800-38D) -/

/-- Multiplication by x in GF(2^8). -/
def xtime (a : Nat) : Nat := if a < 128 then 2 * a else (2 * a ^^^ 0x11B)

/-- `n` further bits of a product in GF(2^8). -/
def gmul8 : Nat → Nat → Nat → Nat
  | 0, _, _ => 0
  | n + 1, a, b => (if b % 2 = 1 then a else 0) ^^^ gmul8 n (xtime a) (b / 2)

/-- a^(2^n − 1 shape): the inverse a^254 by repeated squaring and product. -/
def ginv8 : Nat → Nat → Nat → Nat
  | 0, _, acc => acc
  | n + 1, sq, acc => let s := gmul8 8 sq sq; ginv8 n s (gmul8 8 acc s)

/-- The AES S-box. -/
def sbox (b : Byte) : Byte :=
  let i := BitVec.ofNat 8 (ginv8 7 b.toNat 1)
  i ^^^ i.rotateLeft 1 ^^^ i.rotateLeft 2 ^^^ i.rotateLeft 3 ^^^ i.rotateLeft 4 ^^^ 0x63#8

/-- The key schedule of AES-256: 60 words of four bytes, latest first while it grows. -/
def aesExpand : Nat → Nat → Nat → List Bytes → List Bytes
  | 0, _, _, ws => ws
  | n + 1, i, rcon, ws =>
    let t := ws.headD []
    let t' :=
      if i % 8 = 0 then
        match (t.drop 1 ++ t.take 1).map sbox with
        | b :: bs => (b ^^^ BitVec.ofNat 8 rcon) :: bs
        | [] => []
      else if i % 8 = 4 then t.map sbox else t
    aesExpand n (i + 1) (if i % 8 = 0 then xtime rcon else rcon) (xorBytes (ws.getD 7 []) t' :: ws)

/-- The fifteen round keys of 16 bytes. -/
def aesRoundKeys (key : Bytes) : List Bytes :=
  let ws := (aesExpand 52 8 1 ((List.range 8).map fun i => slice key (4 * i) 4).reverse).reverse
  (List.range 15).map fun r => (slice' ws (4 * r)).flatten
where
  slice' (ws : List Bytes) (i : Nat) : List Bytes := (ws.drop i).take 4

/-- ShiftRows on the column-major state. -/
def shiftRows (st : Bytes) : Bytes := (List.range 16).map fun i => st.getD ((i + 4 * (i % 4)) % 16) 0

/-- MixColumns of one column. -/
def mixColumn (c : Bytes) : Bytes :=
  (List.range 4).map fun i =>
    BitVec.ofNat 8 (gmul8 8 (c.getD i 0).toNat 2 ^^^ gmul8 8 (c.getD ((i + 1) % 4) 0).toNat 3) ^^^
      c.getD ((i + 2) % 4) 0 ^^^ c.getD ((i + 3) % 4) 0

def mixColumns (st : Bytes) : Bytes := (List.range 4).flatMap fun c => mixColumn (slice st (4 * c) 4)

/-- The rounds after the first key addition. -/
def aesRounds : List Bytes → Bytes → Bytes
  | [], st => st
  | [k], st => xorBytes (shiftRows (st.map sbox)) k
  | k :: ks, st => aesRounds ks (xorBytes (mixColumns (shiftRows (st.map sbox))) k)

/-- One block under AES-256. -/
def aesBlock (key blk : Bytes) : Bytes :=
  match aesRoundKeys key with
  | k :: ks => aesRounds ks (xorBytes blk k)
  | [] => blk

/-- Multiplication in the field of GHASH, `n` bits of x left, most significant first. -/
def ghashMul : Nat → Nat → Nat → Nat → Nat
  | 0, _, _, z => z
  | n + 1, x, v, z =>
    ghashMul n x (if v % 2 = 1 then (v / 2) ^^^ (0xE1 <<< 120) else v / 2) (if x / 2 ^ n % 2 = 1 then z ^^^ v else z)

/-- The blocks of 16 bytes, the last zero-padded. -/
def blocks16 (bs : Bytes) : List Bytes :=
  (List.range ((bs.length + 15) / 16)).map fun i =>
    let b := slice bs (16 * i) 16
    b ++ List.replicate (16 - b.length) 0

def ghash (h : Nat) (bs : List Bytes) : Nat := bs.foldl (fun y b => ghashMul 128 (y ^^^ beNat b) h 0) 0

/-- The counter-mode key stream applied from the counter `c`. -/
def gctr (key iv : Bytes) (c : Nat) (bs : Bytes) : Bytes :=
  ((List.range ((bs.length + 15) / 16)).map fun i =>
    xorBytes (slice bs (16 * i) 16) (aesBlock key (iv ++ beBytes 4 (c + i)))).flatten

/-- The tag over associated data and ciphertext. -/
def gcmTag (key iv ad ct : Bytes) : Bytes :=
  let h := beNat (aesBlock key (List.replicate 16 0))
  let s := ghash h (blocks16 ad ++ blocks16 ct ++ [beBytes 8 (8 * ad.length) ++ beBytes 8 (8 * ct.length)])
  xorBytes (beBytes 16 s) (aesBlock key (iv ++ beBytes 4 1))

/-- AES-256-GCM decryption of ciphertext followed by its 16-byte tag: none where the tag fails. -/
def gcmOpen (key iv ad payload : Bytes) : Option Bytes :=
  let ct := payload.take (payload.length - 16)
  let tag := payload.drop (payload.length - 16)
  if payload.length ≥ 16 && tag == gcmTag key iv ad ct then some (gctr key iv 2 ct) else none

/-- AES-256-GCM encryption: ciphertext followed by the tag. -/
def gcmSeal (key iv ad plain : Bytes) : Bytes :=
  let ct := gctr key iv 2 plain
  ct ++ gcmTag key iv ad ct

end Sys2Proof.Machine
end

