-- ==== Sys2Proof/Machine/State.lean ====
section
/-! DEFINITION. The state of the Lyaris S6, as plain data: every register, buffer, queue, counter, mode and
latch the numbered rules give the module, the queue of waiting commands, and the reset value of each.

Sparse data (memory, playa, state files, clusters) is an `SMap`, keys strictly rising; memory lists no byte equal to what an
unlisted byte reads as. -/

namespace Sys2Proof.Machine

open Sys2Proof

/-- Why the module stops. -/
inductive Fault where
  /-- Raised by the memory events on a frame that R255 does not give the stack (frames run from 0 to 183,104).
  Safe: the spec has no such frame, so no run of the hardware takes that step. -/
  | noSuchFrame (stack frame : Nat)
  deriving DecidableEq, Repr

/-- Why the model has no step. -/
inductive Refusal where
  /-- Raised by no meaning: the arm of a command that has no meaning yet. Safe: nothing is proved of it. -/
  | notModelled (mnemonic : String)
  deriving DecidableEq, Repr

/-- Sparse data by key, keys strictly rising (see `mset` and `Memory.wf` in Ops). -/
abbrev SMap (α : Type) := List (Nat × α)

/-! ### The fabric: lanes, cores, clusters -/

/-- An accumulation group of a lane (R111): its 128-bit register and sticky flag, whether it is open, the
accumulation format it was opened in, and whether a closed value is held readable (R227 FLD.CLOSE). `poison` is
the mirage marker of R236. On the INT path bits [31:0] hold the accumulator and [55:32] the wrap count (R119). -/
structure Group where
  reg : BitVec 128 := 0
  sticky : Bool := false
  isOpen : Bool := false
  fmt : AuxFmt := .int
  held : Bool := false
  poison : Bool := false
  deriving DecidableEq, Repr

/-- One lane (R74, R222): its four groups, the decision input, part output and part input, β register, the F64
row buffer of the energy pass (R227, R229; the block sum stands in ENERGY), whether an EXC.BETA has loaded its β since word 0, and what the decision circuit keeps between the
operations of one categorical decision (R230). -/
structure Lane where
  field : Group := {}
  energy : Group := {}
  statistic : Group := {}
  auxiliary : Group := {}
  decIn : Word := 0
  decValid : Bool := false
  decPoison : Bool := false
  partOut : BitVec 128 := 0
  partOutFmt : AuxFmt := .int
  partOutPoison : Bool := false
  partIn : BitVec 128 := 0
  partInJ : Nat := 0
  partInN : Nat := 0
  partInPoison : Bool := false
  beta : Word := 0
  betaLoaded : Bool := false
  rowBuf : SMap DWord := []
  bestKey : Word := 0
  bestState : Nat := 0
  keyNan : Bool := false
  proposal : Nat := 0
  scoreNow : Word := 0
  scoreSeen : Bool := false
  deriving DecidableEq, Repr

/-- A descriptor register, by the layout of R224. -/
structure Descriptor where
  var : Nat := 0
  varStep : Int := 0
  laneVstride : Nat := 0
  rep : Nat := 0
  cls : Nat := 0
  mode : BitVec 8 := 0
  word : Nat := 0
  wordStep : Nat := 0
  unary : Nat := 0
  unaryStep : Nat := 0
  block : Nat := 0
  statTgt : Nat := 0
  histLow : Word := 0
  histWidth : Word := 0
  histBins : Nat := 0
  deriving DecidableEq, Repr

/-- An address generator (R188): base 11 bits, stride signed 11 bits, increment signed 8 bits. -/
structure AddrGen where
  base : BitVec 11 := 0
  stride : BitVec 11 := 0
  increment : BitVec 8 := 0
  deriving DecidableEq, Repr

/-- The kind of a beat (R222). -/
inductive BeatKind where
  | state | part | caravan
  deriving DecidableEq, Repr

/-- The states that a word holds (R117, R145, R228): their kind (0 B1, 1 U8, 2 F32), and K − 1 of a categorical variable. -/
structure StateTag where
  kind : Nat
  km1 : Nat := 0
  deriving DecidableEq, Repr

/-- A word of a beat and its sideband (R222): SEL, TTL and the phase bit, and the mirage marker; the states it holds, and, in a beat of BS16
couplings, the exponents of its elements' runs (R58). -/
structure BeatWord where
  data : Word := 0
  sel : Nat := 0
  ttl : Nat := 0
  phase : Bool := false
  poison : Bool := false
  tag : Option StateTag := none
  exps : List Int := []
  deriving DecidableEq, Repr

/-- One lane's part of a part beat (R133). -/
structure LanePart where
  lane : Nat
  value : BitVec 128
  poison : Bool
  deriving DecidableEq, Repr

/-- A beat on the mesh (R222): up to sixteen words, listed by position (an unlisted position is not valid); a
part beat carries its lanes' parts tagged j of n, and leaves the launch register with its TTL. `due` is the cycle of the
job's issue from which the beat is at its core (R191). -/
structure Beat where
  kind : BeatKind := .state
  words : SMap (Option BeatWord) := []
  parts : List LanePart := []
  partJ : Nat := 0
  partN : Nat := 0
  ttl : Nat := 0
  due : Nat := 0
  deriving DecidableEq, Repr

/-- The element formats of an atomic operation (R136). -/
inductive AtomFmt where
  | i32 | i64 | f32 | f64 | longsum
  deriving DecidableEq, Repr

/-- A state sent to the result or snapshot area, addressed by variable and replica (R234). -/
structure AreaWrite where
  step : Nat
  snapshot : Bool
  var : Nat
  rep : Nat
  value : Word
  bits : Nat
  deriving DecidableEq, Repr

/-- What an outward beat does at memory (R136, R234). -/
inductive OutwardOp where
  /-- an atomic operation of R136 with its element mask, mode, part index and count, and round tag -/
  | atomic (fmt : AtomFmt) (mask : BitVec 16) (mode : CombineMode) (j n tag : Nat)
  /-- a plain store of 64 bytes (ST.LINE) -/
  | store
  /-- states for the result or snapshot area (ST.RES, ST.SNAP) -/
  | area (writes : List AreaWrite)
  deriving DecidableEq, Repr

/-- An outward beat (R194, R235): the line it goes to, as an allocation index and a byte offset in it, its 64
bytes, the job and step it belongs to. -/
structure Outward where
  op : OutwardOp
  job : Nat
  step : Nat
  alloc : Nat
  offset : Nat
  data : BitVec 512
  poison : Bool := false
  deriving DecidableEq, Repr

/-- The caravan input of a core (R222); the states in its words, and the exponents of BS16 elements (R58). -/
structure CaravanIn where
  data : BitVec 512 := 0
  valid : Bool := false
  poison : Bool := false
  tags : List (Option StateTag) := []
  exps : List Int := []
  deriving DecidableEq, Repr

/-- A word of a state file slot (R222, R223): the current value and, once delivered in this phase, the pending one, with the states that
each holds, where a decision or the state map put them there. -/
structure StateWord where
  cur : Word := 0
  curPoison : Bool := false
  curTag : Option StateTag := none
  pend : Option Word := none
  pendPoison : Bool := false
  pendTag : Option StateTag := none
  deriving DecidableEq, Repr

/-- An entry of a core's undo log (R450): what a playa line or a state file slot held before the named step's
first write to it. -/
inductive UndoEntry where
  | line (step : Nat) (line : Nat) (bytes : BitVec 512) (poisonLo poisonHi : Bool) (expsLo expsHi : List Int)
  | slot (step : Nat) (slot : Nat) (words : SMap StateWord)
  deriving DecidableEq, Repr

/-- The registers of a core's open STATISTIC and AUXILIARY groups at the last commit (R450). -/
structure OpenGroups where
  lane : Nat
  statistic : Group
  auxiliary : Group
  deriving DecidableEq, Repr

/-- A word delivered to a checked core (R456): its issue cycle, the word of the state file or, for a part, the lane it went to, and its value. -/
structure CheckWord where
  cycle : Nat
  part : Bool
  place : Nat
  value : BitVec 128
  deriving DecidableEq, Repr

/-- A core (R222): its 128 KiB playa, state file, descriptor registers, launch register with the half-beats and
the outward beats behind it, caravan input, mesh and edge-port inputs, lane masks, the counters FK and DK, its lanes, and what
integrity keeps beside it (undo log; check digests and check logs by step). LM0 is all ones and is not stored (R186). `playaExps` holds, by half-line, the
exponents of BS16 elements that a caravan brought (R58); `spreadPart` the half or quarter of lanes that the next spread product of 32 or 64
bits goes to (R98). An outward beat from a neighbour is at the core from its due cycle on (R191). -/
structure Core where
  lanes : SMap Lane := []
  lm1 : BitVec 32 := BitVec.allOnes 32
  lm2 : BitVec 32 := BitVec.allOnes 32
  lm3 : BitVec 32 := BitVec.allOnes 32
  descs : SMap Descriptor := []
  playa : List Host.Cell := []
  playaPoison : SMap Bool := []
  playaExps : SMap (List Int) := []
  slots : SMap StateWord := []
  launch : Beat := {}
  launchQ : List Beat := []
  outQ : List Outward := []
  outIn : List (Dir × Nat × Outward) := []
  inN : List Beat := []
  inE : List Beat := []
  inS : List Beat := []
  inW : List Beat := []
  inPort : List Beat := []
  caravan : CaravanIn := {}
  fk : Nat := 0
  dk : Nat := 0
  spreadPart : Nat := 0
  undo : List UndoEntry := []
  groupsAtCommit : List OpenGroups := []
  groupsAtStep : SMap (List OpenGroups) := []
  checkCrc : SMap DWord := []
  checkLog : SMap (List CheckWord) := []
  deriving DecidableEq, Repr

/-- What occupies an oasis spare (R208 O0_STATE). -/
inductive SpareState where
  | free | holding | underBist | retired
  deriving DecidableEq, Repr

/-- Why a core's work is being moved to a spare (R206, R207, R465). -/
inductive CopyWhy where
  | bist | retire | back
  deriving DecidableEq, Repr

/-- A copy to a spare under way (R206): the logical position, the physical core it leaves, the one it goes to,
and whether the copy is complete and waits for the STEP mark. -/
structure CoreCopy where
  pos : Nat
  source : Nat
  dest : Nat
  why : CopyWhy
  done : Bool := false
  deriving DecidableEq, Repr

/-- The health of a physical core (R566 STATE_i). -/
inductive CoreHealth where
  | good | observed | retired | notGood
  deriving DecidableEq, Repr

/-- A cluster: its address generators (the same in all its cores, R188), its cores, its core map (R204) and
spares (R208), the copy that took the work of a core under BIST
away (R207), the anchors its leap unit holds (R170), and its slot memory of 4,096 slices (R15, R175). -/
structure Cluster where
  ags : SMap AddrGen := []
  cores : SMap Core := []
  coreMap : List (Option Nat) := []
  o0 : SpareState := .free
  o1 : SpareState := .free
  swapCount : Nat := 0
  copy : Option CoreCopy := none
  underTest : Option CoreCopy := none
  degraded : Bool := false
  mapBuilt : Bool := false
  health : SMap CoreHealth := []
  anchors : SMap (List (BitVec 128)) := []
  idleOffered : Nat := 0
  slotMem : SMap (BitVec 128) := []
  deriving DecidableEq, Repr

/-- A die half: its clock and bring-up state (R539, R565), its setting and lock (R562), its control slot memory of 4,096 slices (R175,
R176). -/
structure Half where
  clocked : Bool := false
  ready : Bool := false
  unusable : Bool := false
  failed : Bool := false
  setting : Nat := 0
  locked : Bool := false
  controlMem : SMap (BitVec 128) := []
  deriving DecidableEq, Repr

/-- Why a base die asks nothing of a link or seam: its service state (R565). -/
inductive LinkState where
  | notConnected | inService | failed
  deriving DecidableEq, Repr

/-- The temperature state of a die (R563 STATE). -/
inductive DieThermal where
  | normal | lowering | holding | tripped
  deriving DecidableEq, Repr

/-- A compute die: spine, seam and links, hold counters (R213), stretches, power and thermal state, and the
known-answer kernel it runs (R467). -/
structure Die where
  spineClocked : Bool := false
  spineLocked : Bool := false
  spineSetting : Nat := 0
  seam : LinkState := .inService
  linkRetries : Nat := 0
  failedLinks : List LinkSite := []
  holdCycles : Nat := 0
  holdEvents : Nat := 0
  stretches : Nat := 0
  stretch : Nat := 0
  powerW : Nat := 0
  phaseFail : BitVec 6 := 0
  thermal : DieThermal := .normal
  temp : Int := 0
  railOff : Bool := false
  unusable : Bool := false
  kakCore : Option Nat := none
  kakKernel : Nat := 0
  nextKakCore : Nat := 0
  ringFails : Nat := 0
  deriving DecidableEq, Repr

/-! ### Tielux stacks -/

/-- The temperature state of a stack (R563 STACK_STATE). -/
inductive StackThermal where
  | normal | hot | limited | selfRefresh
  deriving DecidableEq, Repr

/-- SPARE_STATE of R291. -/
inductive SpareDie where
  | unused | copying | inService
  deriving DecidableEq, Repr

/-- The open round of an ordered combine on a line (R139). -/
structure Round where
  alloc : Nat
  job : Nat
  offset : Nat
  n : Nat
  tag : Nat
  next : Nat
  held : SMap (Option Outward) := []
  deriving DecidableEq, Repr

/-- The tag symbol of a sector (R257): MIRAGE and GEN. -/
structure SectorTag where
  mirage : Bool := false
  gen : Nat := 0
  deriving DecidableEq, Repr

/-- The mirage markers of a line's two sectors (R257, R261). -/
structure LineMarks where
  lo : Bool := false
  hi : Bool := false
  deriving DecidableEq, Repr

/-- Who holds a frame (R273, R282). -/
inductive FrameUse where
  | free
  | job (id : Nat)
  | image
  | parity
  deriving DecidableEq, Repr

/-- A frame's entry of the frame table: its use, layout, 15-bit generation, and whether it has been cleared since the loss of
VSTK (R274, R275, R282). -/
structure FrameEntry where
  use : FrameUse := .free
  protectedLayout : Bool := false
  gen : Nat := 0
  cleared : Bool := false
  deriving DecidableEq, Repr

/-- A Tielux stack and its base die (R291 and the rules it names). `spareRows` counts the spare rows used of a bank; `rowErrors` holds the
times of a row's latest corrected errors (R265); `jobOps` counts the line operations of the present window of 1 s by job, `windowOps`
those of the last closed one, which awaits judgement while `unjudged` is set (R287). `intake` holds the line operations that have
arrived and not been taken; `waiting` those held in the intake (R139, R141). -/
structure Stack where
  ready : Bool := false
  clocked : Bool := false
  unusable : Bool := false
  sparedDie : Nat := 0
  spareState : SpareDie := .unused
  spareCopyFrame : Nat := 0
  selfRefresh : Bool := false
  hot : Bool := false
  failed : Bool := false
  baseDieFailed : Bool := false
  thermal : StackThermal := .normal
  temp : Int := 0
  uncleared : Nat := 183105
  frames : SMap FrameEntry := []
  tags : SMap SectorTag := []
  ceCount : Nat := 0
  retryCount : Nat := 0
  reconCount : Nat := 0
  mirageCount : Nat := 0
  spareRowsLeft : Nat := 64
  rowsSpared : Nat := 0
  spareRows : SMap Nat := []
  badRegions : List Nat := []
  rowErrors : SMap (List Nat) := []
  rowsToSpare : List Nat := []
  writebacks : List Nat := []
  scrubPasses : Nat := 0
  scrubSector : Nat := 0
  lineOps : Nat := 0
  jobOps : SMap Nat := []
  windowOps : SMap Nat := []
  unjudged : Bool := false
  imbalanced : Bool := false
  imbalanceRatio : Nat := 0
  hotTimeMs : Nat := 0
  hotSince : Nat := 0
  intake : List Outward := []
  waiting : List Outward := []
  rounds : List Round := []
  refreshes : Nat := 0
  pllLocked : Bool := false
  deriving DecidableEq, Repr

/-! ### Jobs -/

/-- The states of a job (R294). -/
inductive JobState where
  | waiting | admitting | running | preempting | preempted | restoring | obligation | ended
  deriving DecidableEq, Repr

/-- The counts of R110, R156 and R40, and the flags that belong to them. -/
structure Counts where
  nonfiniteDecisions : Nat := 0
  gaussDegenerate : Nat := 0
  intSaturations : Nat := 0
  longsumWraps : Nat := 0
  atomicWraps : Nat := 0
  fieldNonfinite : Nat := 0
  conversionSaturations : Nat := 0
  deriving DecidableEq, Repr

/-- An open loop (R180): first and last word and the remaining count. -/
structure LoopFrame where
  first : Nat
  last : Nat
  left : Nat
  deriving DecidableEq, Repr

/-- A hold in progress or requested (R183, R184): its length in fabric cycles. -/
structure HoldState where
  len : Nat
  deriving DecidableEq, Repr

/-- A page of job memory: its stack and frame (R254, R273). -/
structure PageRef where
  stack : Nat
  frame : Nat
  deriving DecidableEq, Repr

/-- An allocation of a job (R273): the ALLOCS entry it serves, its size, layout and placement, how many stacks a fixed
placement names (R281), its pages. -/
structure Allocation where
  size : Nat
  protectedLayout : Bool
  fixed : Bool
  placeArg : Nat
  named : Nat := 1
  pages : List PageRef
  deriving DecidableEq, Repr

/-- A shadow line (R276): the step it belongs to, the line, its bytes and markers; `taken` says that an operation brought a marker to it. -/
structure Shadow where
  step : Nat
  alloc : Nat
  offset : Nat
  data : BitVec 512
  marks : LineMarks := {}
  taken : Bool := false
  deriving DecidableEq, Repr

/-- An entry of the top-k list (R154) with, under KEEP_STATES, the replica's kept states (R155). -/
structure TopkEntry where
  value : BitVec 64
  step : Nat
  var : Nat
  digest : DWord
  replica : Nat
  slot : Nat
  kept : List (Nat × Word) := []
  deriving DecidableEq, Repr

/-- A resampling record (R109) with its ancestor list. -/
structure Resample where
  step : Nat
  lmax : DWord
  total : Nat
  ancestors : List Nat
  deriving DecidableEq, Repr

/-- A record of the digest log (R344). -/
structure DigestRec where
  step : Nat
  stepDigest : DWord
  replicas : List DWord
  blocks : List DWord
  deriving DecidableEq, Repr

/-- A running caravan segment (R197): its index, the beats issued so far. -/
structure Segment where
  seg : Nat
  issued : Nat
  total : Nat
  deriving DecidableEq, Repr

/-- A caravan beat on its way to its edge port (R197), with the exponents of BS16 couplings (R58), or the states that its words hold. -/
structure CaravanBeat where
  half : Nat
  port : Nat
  data : BitVec 512
  bits : Nat
  poison : Bool
  exps : List Int := []
  tags : List (Option StateTag) := []
  deriving DecidableEq, Repr

/-- One replica's energy tree in the energy unit (R229): block sums still to combine, most recent first, with
the number of blocks each covers; on the exact path the LONGSUM128 total of twice the energy. The tree of a step stands until its STEP mark. -/
structure EnergyTree where
  partials : List (Nat × DWord) := []
  exact : BitVec 128 := 0
  pushed : Nat := 0
  deriving DecidableEq, Repr

/-- A check of a step that has not resolved (R459, R460): the core, the checker's digest once known. -/
structure Check where
  step : Nat
  cluster : ClusterRef
  pos : Nat
  checker : Option DWord := none
  resolved : Bool := false
  majority : Option DWord := none
  deriving DecidableEq, Repr

/-- A halo beat received (R427, R428). -/
structure HaloBeat where
  channel : Nat
  epoch : Nat
  beat : Nat
  attempt : Nat
  data : Bytes
  deriving DecidableEq, Repr

/-- What a member knows of a neighbour (R418, R423 to R445). -/
structure Neighbour where
  member : Nat
  sess : Nat := 0
  sessOpen : Bool := false
  attempt : Nat := 0
  committed : Option Nat := none
  committedAttempt : Nat := 0
  ready : Bool := false
  holding : Bool := false
  left : Bool := false
  epoch : Nat := 0
  deriving DecidableEq, Repr

/-- A job's part in its run group (R417 to R445). -/
structure GroupState where
  record : Bytes
  groupId : Nat
  member : Nat
  async : Bool
  timeoutMs : Nat
  startSec : Nat
  startNs : Nat
  neighbours : List Neighbour
  attempt : Nat := 0
  armed : Bool := false
  late : Bool := false
  started : Bool := false
  rx : List HaloBeat := []
  passed : Option Nat := none
  sent : List HaloBeat := []
  readCommitted : Option Nat := none
  nextIn : SMap Nat := []
  deriving DecidableEq, Repr

/-- Why a job waits before its next word: at a BARRIER (R182), or past its END word for the commit of its last step. -/
inductive Waiting where
  | no
  | barrier (kind : BarrierKind)
  | finishing
  deriving DecidableEq, Repr

/-- What stands at the end of a step, kept until the step commits (R276, R450): the states, π, exchange counts, ancestors, counts, epoch, the
latest epoch whose halo it read, and the sweeps left. -/
structure StepEnd where
  step : Nat
  states : SMap Word
  perm : List Nat
  exch : SMap Nat
  ancestors : SMap Nat
  counts : Counts
  epoch : Nat
  read : Option Nat := none
  sweepsLeft : Nat
  deriving DecidableEq, Repr

/-- A job (R293, R294): what was submitted, where and how it runs, its sequencer (R179 to R184), its counts,
ensemble state, memory, staged writes, checks and group. `anchors` and `starts` are what the stream seeder has put into its memory (R169, R171);
`sideCounts` the pages of each item among `contextPages` (R273); `endAsked` an end that came while the context was being written (R294);
`prelude` is set while a restored job issues again the words before its step loop, which it counted when it first started (R319, R332);
`regenerable` and `nonPreemptible` are what its records say of its program (R309, R338); `startBetas` the β values that a context brought, and their step (R318); `atomRate` the rate reserved for its atomic operations, with those sent to
each die in the present window of 256 cycles (R26). -/
structure Job where
  id : Nat
  seq : Nat
  owner : Bytes
  req : Nat
  sess : Nat := 0
  body : SubmitBody
  state : JobState := .waiting
  status : BitVec 16 := 0
  seed : BitVec 64 := 0
  -- placement and grant
  tiling : Nat := 0
  region : List Nat := []
  setting : Nat := 0
  targetSetting : Nat := 0
  reserved : Bool := false
  fixedNow : Bool := false
  admission : Nat := 0
  waitLimit : Bool := false
  waitedNs : Nat := 0
  waitSince : Nat := 0
  relocking : Bool := false
  finalSent : Bool := false
  loweringFor : Option Nat := none
  -- requests
  heldBySuspend : Bool := false
  suspendAt : Option Nat := none
  cancelPending : Bool := false
  prelude : Bool := false
  regenerable : Bool := false
  nonPreemptible : Bool := false
  endAsked : Option (Nat × Nat × Nat) := none
  preemptPending : Bool := false
  seeded : Bool := false
  -- sequencer
  pc : Nat := 0
  cycle : Nat := 0
  loops : List LoopFrame := []
  waiting : Waiting := .no
  step : Nat := 0
  phase : Nat := 0
  phaseBit : Bool := false
  committed : Nat := 0
  committedEpoch : Nat := 0
  sweepsLeft : Nat := 0
  sweepsLeftAtCommit : Nat := 0
  hold : Option HoldState := none
  cadence : Nat := 0
  heldCycles : Nat := 0
  failures : Nat := 0
  failedStep : Option Nat := none
  -- flags
  demoted : Bool := false
  demoteStep : Nat := 0
  demoteCause : Nat := 0
  retiled : Bool := false
  retileStep : Nat := 0
  copyRepaired : Bool := false
  copyRepairStep : Nat := 0
  syncUpdate : Bool := false
  asymmetric : Bool := false
  sameColour : Bool := false
  arrivalFp : Bool := false
  restarted : Bool := false
  -- values
  counts : Counts := {}
  countsAtCommit : Counts := {}
  states : SMap Word := []
  statesAtCommit : SMap Word := []
  perm : List Nat := []
  permAtCommit : List Nat := []
  permStep : List Nat := []
  exchAccepts : SMap Nat := []
  exchAtCommit : SMap Nat := []
  stepEnds : List StepEnd := []
  resamples : List Resample := []
  lmax : Option DWord := none
  logWeights : SMap (Option DWord) := []
  weights : SMap Nat := []
  ancestors : SMap Nat := []
  ancestorsAtCommit : SMap Nat := []
  energies : SMap DWord := []
  trees : SMap EnergyTree := []
  ledgerLine : Option Nat := none
  energyLog : List (Nat × List DWord) := []
  topk : List TopkEntry := []
  topkOffers : List TopkEntry := []
  digestLog : List DigestRec := []
  lastStepDigest : DWord := 0
  -- memory
  allocs : List Allocation := []
  contextPages : List PageRef := []
  sideCounts : List Nat := []
  context : Bytes := []
  resultArea : SMap Word := []
  snapshotArea : SMap Word := []
  areaWrites : List AreaWrite := []
  shadows : List Shadow := []
  resultDigest : Bytes := []
  resultImage : Bytes := []
  certificate : Bytes := []
  released : Bool := false
  missing : List Bytes := []
  statAllocs : List Nat := []
  anchors : List (BitVec 128) := []
  starts : List (BitVec 128) := []
  startBetas : Option (Nat × List Word) := none
  atomRate : Nat := 0
  atomWindow : Nat := 0
  atomSent : SMap Nat := []
  -- caravans
  segments : List Segment := []
  inFlight : List CaravanBeat := []
  -- integrity and group
  checks : List Check := []
  epoch : Nat := 0
  group : Option GroupState := none
  deriving DecidableEq, Repr

/-- The job engine (R293, R303, R327). -/
structure JobEngine where
  table : SMap (Option Job) := []
  nextId : Nat := 1
  nextSeq : Nat := 1
  admissions : Nat := 0
  deriving DecidableEq, Repr

/-! ### Objects and loads -/

/-- A held object: model (0), program (1), data (2, an exported context included), firmware (3) (R71, R263, R405). -/
structure HeldObject where
  kind : Nat
  digest : Bytes
  bytes : Bytes
  protectedLayout : Bool
  owner : Bytes
  released : Bool := false
  damaged : Bool := false
  asymmetric : Bool := false
  sameColour : Bool := false
  pages : List PageRef := []
  deriving DecidableEq, Repr

/-- An open load handle (R405, R406): `pages` are the frames taken for the object (R73), none where it repairs a held image (R264);
`symmetry` is set while the pass of R70 runs. -/
structure LoadHandle where
  handle : Nat
  sess : Nat
  owner : Bytes
  req : Nat
  body : LoadBody
  got : Bytes := []
  pages : List PageRef := []
  symmetry : Bool := false
  repair : Bool := false
  deriving DecidableEq, Repr

/-- The object store. -/
structure ObjectStore where
  held : List HeldObject := []
  handles : List LoadHandle := []
  nextHandle : Nat := 1
  deriving DecidableEq, Repr

/-! ### Records and packets -/

/-- KIND of a completion record (R409). -/
inductive CompKind where
  | accept | refused | done | jobState | jobFinal
  deriving DecidableEq, Repr

/-- A completion record (R409), its extension (R411) included. -/
structure CompRecord where
  req : Nat
  seq : Nat
  jobId : Nat
  kind : CompKind
  state : Nat
  status : BitVec 16
  flags : BitVec 32
  detail0 : BitVec 64
  detail1 : BitVec 64
  step : Nat
  seed : BitVec 64
  cadence : Nat
  stepDigest : DWord
  counts : Counts
  retileStep : BitVec 64
  demoteStep : BitVec 64
  demoteCause : Nat
  digest : Bytes
  certificate : Bytes
  ext : Bytes
  deriving DecidableEq, Repr

/-- An event record (R473). `unit` is the UNIT word. -/
structure Event where
  code : BitVec 16
  severity : Nat
  unitKind : Nat
  unit : Word
  timeSec : Nat
  timeNs : Nat
  operation : BitVec 16
  status : BitVec 16
  step : BitVec 64
  jobId : Nat
  seq : Nat
  temp : Int
  railMv : Nat
  rail : Nat
  detail : BitVec 64
  deriving DecidableEq, Repr

/-- What a sequenced packet of the S6 carries (R380). -/
inductive TxBody where
  | completion (owner : Bytes) (seq part parts : Nat)
  | regReply (tag : Nat) (status : BitVec 16) (entries : List (RegEntry × BitVec 16))
  | event (e : Event)
  | bulk (handle offset : Nat) (data : Bytes)
  | quote (status : BitVec 16) (bytes : Bytes)
  | barrier (op : Nat) (group member attempt : Nat) (status : BitVec 16) (epoch : Nat)
  | halo (group epoch channel attempt : Nat) (firstBeat : Nat) (beats : List Bytes)
  | retract (group member attempt epoch : Nat)
  deriving DecidableEq, Repr

/-- A sequenced packet kept until it is acknowledged (R391, R392). -/
structure TxPacket where
  seq : Nat
  body : TxBody
  retries : Nat := 0
  deriving DecidableEq, Repr

/-- A packet received and not yet taken by the upper layer (R389). -/
structure RxPacket where
  seq : Nat
  type : Nat
  payload : Bytes
  deriving DecidableEq, Repr

/-- Packets outside sessions: roll call (R385), session opening (R486), neighbour and echo answers (R352). -/
inductive RawOut where
  | rollReply (dst address : Nat) (claimed : Bool) (nonce unitNonce : Bytes)
  | rollProbe (address : Nat)
  | rollAssigned (dst address : Nat) (nonce : Bytes)
  | rollRefused (dst : Nat) (status : BitVec 16) (nonce : Bytes)
  | phase1 (dst : Nat) (ip : BitVec 128) (bytes : Bytes)
  | phase2 (dst sess : Nat) (bytes : Bytes)
  | phase3 (dst sess : Nat) (bytes : Bytes)
  | phase4 (dst sess : Nat) (status : BitVec 16) (confirm : Bytes)
  | bareAck (sess ack : Nat)
  | neighbourAdvert (dst target : BitVec 128)
  | echoReply (dst source : BitVec 128) (data : Bytes)
  deriving DecidableEq, Repr

/-! ### Transport, keys and journal -/

/-- The roles of a session (R476, R486). -/
inductive Role where
  | operator | installer | maker | claim | peer
  deriving DecidableEq, Repr

/-- What a session keeps for itself of the selector fields, their latches and the low words (R555). -/
structure Selectors where
  jobSel : Word := 0
  jobLatch : SMap Word := []
  auditHi : Word := 0
  auditLo : Word := 0
  auditLatch : SMap Word := []
  evtSel : Word := 0
  evtLatch : SMap Word := []
  keyDigest : SMap Word := []
  keyStatus : BitVec 16 := 0
  cfgDigest : SMap Word := []
  low : SMap Word := []
  deriving DecidableEq, Repr

/-- A Kenvin session (R388 to R393, R486). `opened` is false while it is half-open. `id` is the SESSION the S6 assigned, or, in a session
that the S6 opens, 2^32 × (peer address + 1) + the SESSION the peer assigned, 0 until it has. `mac` and `ip` are the source of its last authenticated packet (R352). -/
structure Session where
  id : Nat
  role : Role
  fpr : Bytes
  peerAddr : Nat
  mac : BitVec 48 := 0
  ip : BitVec 128 := 0
  opened : Bool := false
  opener : Bool := false
  order : Nat := 0
  encrypt : Bool := false
  hostNonce : Bytes := []
  deviceNonce : Bytes := []
  master : Bytes := []
  phase1 : Bytes := []
  phase2 : Bytes := []
  phase3 : Bytes := []
  claimKey : Bytes := []
  peerKey : Bytes := []
  actions : BitVec 32 := 0
  notAfter : Nat := 0
  rxAck : Nat := 0
  rxHeld : List RxPacket := []
  inbox : List RxPacket := []
  txNext : Nat := 1
  tx : List TxPacket := []
  sel : Selectors := {}
  deriving DecidableEq, Repr

/-- The source of a received frame, which an answer to it goes to (R352): its Ethernet and its IPv6 address. -/
structure NetSource where
  mac : BitVec 48 := 0
  ip : BitVec 128 := 0
  deriving DecidableEq, Repr

/-- A composed frame that waits for a MAC (R354): packet `seq` of a session, a packet outside sessions with where it goes, or a PTP Sync or
Delay_Req. -/
inductive OutRef where
  | packet (sess seq : Nat) (again : Bool)
  | raw (p : RawOut) (to_ : NetSource)
  | ptp (sync : Bool) (sequence : Nat)
  deriving DecidableEq, Repr

/-- A frame that has left the port, with the priority of its tag (R359). -/
structure SentFrame where
  frame : Frame
  pcp : Nat
  deriving DecidableEq, Repr

/-- An ASSIGN that probes its address (R387); `from_` is where its answer goes. -/
structure PendingAssign where
  dst : Nat
  address : Nat
  nonce : Bytes
  signer : Bytes := []
  from_ : NetSource := {}
  deriving DecidableEq, Repr

/-- A roll-call reply in its back-off (R386); `due` is the time in µs at which the back-off ends, `from_` where it goes. -/
structure PendingReply where
  dst : Nat
  nonce : Bytes
  due : Nat
  from_ : NetSource := {}
  deriving DecidableEq, Repr

/-- The Kenvin transport (R383 to R393, R415). `opens` holds the phases 1 that wait until the entropy block is READY (R502),
with their sources, and `source` the source of the latest packet outside sessions (R352). `express` and `bulk` are the composed frames that wait for
the express and the preemptable MAC, oldest first (R354, R355). `out` and `sent` are the model's record of what was composed outside sessions
and of what has left (log entry 83). -/
structure Transport where
  sessions : List Session := []
  nextSession : Nat := 1
  opened : Nat := 0
  authFail : Nat := 0
  windowDrop : Nat := 0
  retransmits : Nat := 0
  bulkDiscarded : Nat := 0
  pendingReplies : List PendingReply := []
  pendingAssign : Option PendingAssign := none
  opens : List (Phase1 × NetSource) := []
  unitNonce : Bytes := []
  nonceUsed : Bool := true
  source : NetSource := {}
  express : List OutRef := []
  bulk : List OutRef := []
  out : List RawOut := []
  sent : List SentFrame := []
  ended : List (Nat × BitVec 16) := []
  deriving DecidableEq, Repr

/-- An enrolled key (R476, R480). `modulus` is the 384-byte modulus, most significant byte first. -/
structure KeyRecord where
  role : Role
  maxPriority : Nat
  halfMask : BitVec 12
  modulus : Bytes
  fpr : Bytes
  deriving DecidableEq, Repr

/-- The installer settings kept in the journal (R374, R477). -/
structure Settings where
  unitAddr : Nat := 0
  budget : Nat := 3800
  cdigestInterval : Nat := 1024
  replayMode : Bool := false
  programSigning : Nat := 0
  requireEncryption : Bool := false
  drbgShared : Bool := false
  minSecurityVersion : Nat := 0
  udpPort : Nat := 47110
  preemptEnable : Bool := true
  encapUdp : Bool := false
  pcpBulk : Nat := 0
  pcpExpress : Nat := 6
  vid : Nat := 0
  ipv6 : BitVec 128 := 0
  priority1 : Nat := 128
  priority2 : Nat := 128
  domain : Nat := 0
  ptpUdp : Bool := false
  slaveOnly : Bool := true
  asymmetry : Word := 0
  idleTimeout : Nat := 60
  deriving DecidableEq, Repr

/-- A completion record kept until its last packet is acknowledged (R398). -/
structure HeldRecord where
  record : CompRecord
  sentOn : Option Nat := none
  acked : Bool := false
  deriving DecidableEq, Repr

/-- A stream's records in the journal (R394 to R398). -/
structure Stream where
  fpr : Bytes
  highMark : Nat := 0
  nextSeq : Nat := 1
  records : List HeldRecord := []
  deriving DecidableEq, Repr

/-- A reservation of the job area (R399), in KiB, for a command or a job. -/
structure Reservation where
  owner : Bytes
  req : Nat
  job : Nat
  kib : Nat
  deriving DecidableEq, Repr

/-- An audit log entry (R494). -/
structure AuditEntry where
  seq : Nat
  timeSec : Nat
  timeNs : Nat
  role : Nat
  outcome : Nat
  action : BitVec 16
  status : BitVec 16
  keyFpr : Bytes
  detail : Bytes
  prevHash : Bytes
  hash : Bytes
  deriving DecidableEq, Repr

/-- LAST_RESET of R416. -/
inductive LastReset where
  | bothFeeds | port | die | hubWarm | moduleWarm
  deriving DecidableEq, Repr

/-- The MRAM journal: everything that survives every reset class (R374, R397, R403, R416, R464, R477, R494). `resetDone` lists the RESET
commands whose DONE waits for the hub (R404). -/
structure Journal where
  settings : Settings := {}
  keys : List KeyRecord := []
  claimed : Bool := false
  claimFails : Nat := 0
  claimLocked : Bool := false
  claimUntil : Nat := 0
  streams : List Stream := []
  reservations : List Reservation := []
  resetDone : List (Bytes × Nat) := []
  audit : List AuditEntry := []
  auditNext : Nat := 0
  auditOverwritten : Nat := 0
  anchorHash : Bytes := []
  events : List Event := []
  eventsOverwritten : Nat := 0
  faults : SMap Nat := []
  retired : List UnitRef := []
  holdupOk : Bool := false
  pathsAgree : Bool := false
  cleanStart : Bool := false
  closed : Bool := false
  resetCount : Nat := 0
  lastReset : LastReset := .bothFeeds
  hubStarts : Nat := 0
  trips : Nat := 0
  bistFailures : Nat := 0
  pllsUnusable : Nat := 0
  deriving DecidableEq, Repr

/-! ### Hub functions -/

/-- MODE of R375. -/
inductive PortMode where
  | down | dr8 | dr4Low | dr4High
  deriving DecidableEq, Repr

/-- The port (R354 to R364, R369, R375). -/
structure Port where
  laneFailed : BitVec 8 := 0
  preemptActive : Bool := false
  macB : Bool := false
  mode : PortMode := .down
  linkUp : Bool := false
  training : PortMode := .dr8
  fecCorrected : Nat := 0
  fecUncorrectable : Nat := 0
  rxDropped : Nat := 0
  preemptions : Nat := 0
  expressQueue : Nat := 0
  bulkPaused : Bool := false
  deriving DecidableEq, Repr

/-- PTP (R370 to R372, R376). Times are in 1/16 ns; `fromMaster` is the time the latest Sync took, path and clock difference together;
`messages` counts the messages the S6 has composed, for their sequenceId. -/
structure Ptp where
  locked : Bool := false
  portState : Nat := 1
  offset : Int := 0
  fromMaster : Int := 0
  meanPathDelay : Int := 0
  goodSyncs : Nat := 0
  messages : Nat := 0
  deriving DecidableEq, Repr

/-- LA_STATE and LB_STATE of R377. -/
inductive LaserState where
  | active | standby | failed | underBist
  deriving DecidableEq, Repr

/-- The optics (R365 to R368, R377). `quietUntil` is the time in ns up to which no lane is declared failed after a laser switch (R360). -/
structure Optics where
  la : LaserState := .active
  lb : LaserState := .standby
  activeLb : Bool := false
  laBias : Nat := 0
  lbBias : Nat := 0
  laMonitor : Nat := 0
  lbMonitor : Nat := 0
  rxPower : SMap Nat := []
  txPower : SMap Nat := []
  switches : Nat := 0
  quietUntil : Nat := 0
  engineTemp : Int := 0
  deriving DecidableEq, Repr

/-- Power (R514 to R528, R547). -/
structure Power where
  aMv : Nat := 0
  bMv : Nat := 0
  aPresent : Bool := false
  bPresent : Bool := false
  wasPresent : Bool := false
  singleFeed : Bool := false
  shedding : Bool := false
  shedPending : Bool := false
  shedSec : Nat := 0
  vhubOn : Bool := false
  vaonOn : Bool := false
  inputW : Nat := 0
  holdupMv : Nat := 0
  holdupCap : Nat := 0
  stretchEvents : Nat := 0
  vstkFail : SMap (BitVec 6) := []
  vhubFail : BitVec 6 := 0
  voptFail : BitVec 6 := 0
  vaonFail : BitVec 6 := 0
  stretchesLogged : SMap Nat := []
  deriving DecidableEq, Repr

/-- Clocks (R559, R562) and the time the idle step advances: AON cycles since VAON became present, and PTP time
in nanoseconds. By PLL number (R542): the PLLs marked unusable, the second of a PLL's latest jitter failure plus one,
and the PLLs that relock at their domain's next idle. -/
structure Clocks where
  aonCycles : Nat := 0
  ptpNs : Nat := 0
  refRunning : Bool := false
  hubLocked : Bool := false
  serdesLocked : Bool := false
  hubSlow : Bool := false
  jitterRelocks : Nat := 0
  wakes : Nat := 0
  hubClocked : BitVec 16 := 1
  pllUnusable : SMap Bool := []
  jitterAt : SMap Nat := []
  jitterWaits : SMap Bool := []
  deriving DecidableEq, Repr

/-- Thermal (R563): sensors in the order of SENSOR_TRIM. -/
structure Thermal where
  sensors : SMap Int := []
  unusable : SMap Bool := []
  hubTemp : Int := 0
  events : Nat := 0
  deriving DecidableEq, Repr

/-- UPDATE_STATE of R511. -/
inductive UpdateState where
  | idle | loading | handover | flashPending
  deriving DecidableEq, Repr

/-- Security and firmware (R486 to R498, R511) and scan (R508). -/
structure Security where
  identityOk : Bool := false
  flashOk : Bool := false
  update : UpdateState := .idle
  standbyOk : Bool := false
  activeM1 : Bool := false
  m0Ok : Bool := false
  m1Ok : Bool := false
  firmware : Bytes := []
  flashImage : Bytes := []
  newFirmware : Bytes := []
  fwReq : Option (Bytes × Nat) := none
  scan : Bool := false
  scanNotAfter : Nat := 0
  claimKey : Bytes := []
  deriving DecidableEq, Repr

/-- STATE of R512. -/
inductive EntropyState where
  | startUp | running | restarting | fatal | raw
  deriving DecidableEq, Repr

/-- The entropy block (R499 to R507, R512): health-test state, pool, `rawSess` the session that set raw mode, and the requests each DRBG instance has
served since its reseed (clients TRANSPORT, CIPHER, KEYGEN, SOFTWARE in order). -/
structure Entropy where
  state : EntropyState := .startUp
  ready : Bool := false
  discard : Nat := 4096
  passed : Nat := 0
  halfBlock : Bool := false
  pool : Nat := 0
  instantiated : Bool := false
  requests : List Nat := [0, 0, 0, 0]
  lastSample : Bool := false
  run : Nat := 0
  aptFirst : Bool := false
  aptCount : Nat := 0
  aptPos : Nat := 0
  failsInRow : Nat := 0
  failTimes : List Nat := []
  blocksFailed : Nat := 0
  restarts : Nat := 0
  reseeds : Nat := 0
  rngWaiting : List Nat := []
  alarmed : Bool := false
  rawSess : Nat := 0
  deriving DecidableEq, Repr

/-- Integrity (R463, R467, R475). -/
structure Integrity where
  replays : Nat := 0
  disagreements : Nat := 0
  rollbacks : Nat := 0
  parityErrors : Nat := 0
  kakFailed : Nat := 0
  observed : List (UnitRef × Bool) := []
  deriving DecidableEq, Repr

/-- BIST (R541, R564). `tested` holds, by the unit's number, the second of a core's latest test, counted from VAON, plus one. -/
structure Bist where
  item : Nat := 0
  unit : Word := BitVec.allOnes 32
  slices : Nat := 0
  tested : SMap Nat := []
  lastFailUnit : Word := BitVec.allOnes 32
  lastFailItem : Nat := 0
  deriving DecidableEq, Repr

/-- The configuration record in flash (R4, R5, R561): its bytes, a record that takes effect at the next hub
start, and the operation in progress. -/
structure Config where
  record : Bytes
  next : Option Bytes := none
  writing : Option Bytes := none
  attempts : Nat := 0
  status : BitVec 16 := 0
  configOk : Bool := false
  hubOnly : Bool := false
  startFault : BitVec 16 := 0
  bootRom : Bool := false
  hubStarted : Bool := false
  hubReady : Bool := false
  hubUnusable : Bool := false
  portUnusable : Bool := false
  entropyUnusable : Bool := false
  eventNext : Nat := 0
  eventsHeld : Nat := 0
  deriving DecidableEq, Repr

/-- The registers of the common header that hold state of their own (R550). -/
structure PageHeader where
  evtStatus : Word := 0
  evtEnable : Word := BitVec.allOnes 32
  errCount : Nat := 0
  deriving DecidableEq, Repr

/-! ### The module -/

/-- The state of the Lyaris S6. `mem` is the whole Tielux memory: byte `o` of frame `f` of stack `t` has the key
((t × 183,105) + f) × 2^21 + o (R254, R255); an unlisted byte reads 0 (R274). `free` is the model's own counter
of free values taken (not the spec's). -/
structure State where
  clusters : SMap Cluster := []
  halves : SMap Half := []
  dies : SMap Die := []
  tielux : SMap Stack := []
  mem : List Host.Cell := []
  jobs : JobEngine := {}
  objects : ObjectStore := {}
  transport : Transport := {}
  journal : Journal := {}
  port : Port := {}
  ptp : Ptp := {}
  optics : Optics := {}
  power : Power := {}
  clocks : Clocks := {}
  thermal : Thermal := {}
  security : Security := {}
  entropy : Entropy := {}
  integrity : Integrity := {}
  bist : Bist := {}
  config : Config
  headers : SMap PageHeader := []
  free : Nat := 0
  pending : List Instr := []
  deriving DecidableEq, Repr

/-- The big-endian bytes of a 72-bit GOOD_MAP entry with cores 0–65 good (R4). -/
def shippedGoodEntry : Bytes := [0x03, 0xFF, 0xFF, 0xFF, 0xFF, 0xFF, 0xFF, 0xFF, 0xFF]

/-- The configuration record of the module at manufacture, by the layout of R4: version 1, an NLS6-A of grade A
with every physical core good, and zero in the fields that differ from module to module (DESIGN CHOICE, log entry 3). -/
def shippedRecord : Bytes :=
  [0x00, 0x00, 0x00, 0x01] ++ [0x4E, 0x4C, 0x53, 0x36, 0x2D, 0x41, 0x00, 0x00] ++ [0x41] ++
  List.replicate 3 0 ++ List.replicate 16 0 ++ (List.replicate 384 shippedGoodEntry).flatten ++
  List.replicate 24 0 ++ List.replicate 512 0 ++ List.replicate 1024 0 ++ List.replicate 384 0

/-- The maker key every module leaves manufacture with (R482, R511): its modulus is not in the spec (DESIGN CHOICE, log entry 3). -/
def shippedMaker : KeyRecord :=
  { role := .maker, maxPriority := 7, halfMask := 0xFFF, modulus := [0x80] ++ List.replicate 382 0 ++ [0x01],
    fpr := [0x4A, 0x1C, 0x85, 0xE1, 0x78, 0xED, 0xA5, 0x36, 0x95, 0xDE, 0xE3, 0xC9, 0x6B, 0x9A, 0xE6, 0xE2, 0xB9, 0xBA, 0x4C, 0xA4, 0xB1, 0xD2, 0xE9, 0x87, 0xC3, 0x95, 0xD6, 0x20, 0x58, 0x0D, 0x13, 0xAF] }

/-- The module right after reset: every register at the value its table gives, every buffer and queue empty,
memory with nothing listed, and the one maker key of manufacture. -/
def State.reset : State := { config := { record := shippedRecord }, journal := { keys := [shippedMaker] } }

end Sys2Proof.Machine
end

