-- ==== Sys2Proof/Machine/Ops.lean ====
section
/-! DEFINITION. The named operations over the state that the meanings share: sparse maps and memory, units and
their UNIT words, the event log, sessions and packets, completion records, the audit log, free values. -/

namespace Sys2Proof.Machine

open Sys2Proof

/-! ### Sparse maps and memory -/

/-- The value at a key; `d` where the key is not listed. -/
def mget {α : Type} (d : α) : SMap α → Nat → α
  | [], _ => d
  | (a, v) :: m, k => if a = k then v else mget d m k

/-- The map with no entry at a key. -/
def merase {α : Type} (m : SMap α) (k : Nat) : SMap α := m.filter fun e => e.1 != k

/-- The map with a new value at a key, keys kept rising. -/
def minsert {α : Type} : SMap α → Nat → α → SMap α
  | [], k, x => [(k, x)]
  | (a, v) :: m, k, x => if k < a then (k, x) :: (a, v) :: m else if a = k then (k, x) :: m else (a, v) :: minsert m k x

/-- The map with a new value at a key; writing the default removes the entry, so equal maps are equal data. -/
def mset {α : Type} [DecidableEq α] (d : α) (m : SMap α) (k : Nat) (x : α) : SMap α :=
  if x = d then merase m k else minsert m k x

/-- The value at a key changed by `f`. -/
def mmod {α : Type} [DecidableEq α] (d : α) (m : SMap α) (k : Nat) (f : α → α) : SMap α := mset d m k (f (mget d m k))

/-- The keys are strictly rising and above every key of `lo`. -/
def mrising {α : Type} : Option Nat → SMap α → Bool
  | _, [] => true
  | lo, (a, _) :: m => (match lo with | none => true | some b => decide (b < a)) && mrising (some a) m

/-- Canonical form: keys strictly rising, no entry equal to the default. -/
def mwf {α : Type} [DecidableEq α] (d : α) (m : SMap α) : Bool := mrising none m && m.all fun e => decide (e.2 ≠ d)

/-- The canonical form of a memory. -/
def Memory.wf (m : List Host.Cell) : Bool := mwf (0 : Byte) m

/-- One byte of memory; an unlisted byte reads 0 (R274; log entry 7). -/
def readByte (m : List Host.Cell) (a : Nat) : Byte := mget (0 : Byte) m a

def writeByte (m : List Host.Cell) (a : Nat) (b : Byte) : List Host.Cell := mset (0 : Byte) m a b

/-- `n` bytes from an address. -/
def readBytes (m : List Host.Cell) : Nat → Nat → Bytes
  | 0, _ => []
  | n + 1, a => readByte m a :: readBytes m n (a + 1)

/-- A byte string written at an address. -/
def writeBytes (m : List Host.Cell) : Nat → Bytes → List Host.Cell
  | _, [] => m
  | a, b :: bs => writeBytes (writeByte m a b) (a + 1) bs

/-- A 64-byte line as a 512-bit number, little-endian (R11). -/
def readLine (m : List Host.Cell) (a : Nat) : BitVec 512 := BitVec.ofNat 512 (leNat (readBytes m 64 a))

def writeLine (m : List Host.Cell) (a : Nat) (v : BitVec 512) : List Host.Cell := writeBytes m a (leBytes 64 v.toNat)

/-- Frames of a stack (R255). -/
def stackFrames : Nat := 183105

/-- The key of byte `o` of frame `f` of stack `t`. -/
def memKey (t f o : Nat) : Nat := (t * stackFrames + f) * 2 ^ 21 + o

/-! ### Small helpers -/

/-- A counter of `w` bits that saturates at all ones. -/
def satAdd (w a b : Nat) : Nat := min (a + b) (2 ^ w - 1)

/-- The 32-bit word with a value's low bits. -/
def word (n : Nat) : Word := BitVec.ofNat 32 n

/-- The bit of a flag. -/
def bit (b : Bool) : Nat := if b then 1 else 0

/-- The first entry that satisfies `p` changed by `f`. -/
def modFirst {α : Type} (p : α → Bool) (f : α → α) : List α → List α
  | [] => []
  | a :: l => if p a then f a :: l else a :: modFirst p f l

/-- The first entry that satisfies `p` removed. -/
def dropFirst {α : Type} (p : α → Bool) : List α → List α
  | [] => []
  | a :: l => if p a then l else a :: dropFirst p l

/-- The entry at an index changed by `f`. -/
def modAt {α : Type} (f : α → α) : Nat → List α → List α
  | _, [] => []
  | 0, a :: l => f a :: l
  | n + 1, a :: l => a :: modAt f n l

/-- An entry placed before the first one that does not precede it. -/
def placeBy {α : Type} (before : α → α → Bool) (a : α) : List α → List α
  | [] => [a]
  | b :: l => if before b a then b :: placeBy before a l else a :: b :: l

/-- A list put in order, entries that precede each other keeping their places. -/
def sortBy {α : Type} (before : α → α → Bool) (l : List α) : List α := l.reverse.foldl (fun acc a => placeBy before a acc) []

/-! ### Parts of the state changed in place -/

def State.onJournal (s : State) (f : Journal → Journal) : State := { s with journal := f s.journal }
def State.onTransport (s : State) (f : Transport → Transport) : State := { s with transport := f s.transport }
def State.onPower (s : State) (f : Power → Power) : State := { s with power := f s.power }
def State.onClocks (s : State) (f : Clocks → Clocks) : State := { s with clocks := f s.clocks }
def State.onSecurity (s : State) (f : Security → Security) : State := { s with security := f s.security }
def State.onEntropy (s : State) (f : Entropy → Entropy) : State := { s with entropy := f s.entropy }
def State.onIntegrity (s : State) (f : Integrity → Integrity) : State := { s with integrity := f s.integrity }
def State.onBist (s : State) (f : Bist → Bist) : State := { s with bist := f s.bist }
def State.onConfig (s : State) (f : Config → Config) : State := { s with config := f s.config }
def State.onThermal (s : State) (f : Thermal → Thermal) : State := { s with thermal := f s.thermal }
def State.onPort (s : State) (f : Port → Port) : State := { s with port := f s.port }
def State.onPtp (s : State) (f : Ptp → Ptp) : State := { s with ptp := f s.ptp }
def State.onOptics (s : State) (f : Optics → Optics) : State := { s with optics := f s.optics }
def State.onObjects (s : State) (f : ObjectStore → ObjectStore) : State := { s with objects := f s.objects }
def State.onJobs (s : State) (f : JobEngine → JobEngine) : State := { s with jobs := f s.jobs }

/-! ### Free values (log entry 6) -/

/-- `n` bytes of DRBG output, and the state after taking them. -/
def State.takeRandom (s : State) (n : Nat) : Bytes × State :=
  ((List.range n).map (Sys2Proof.Config.drbgByte s.free), { s with free := s.free + 1 })

/-! ### Time -/

def State.timeSec (s : State) : Nat := s.clocks.ptpNs / 1000000000
def State.timeNs (s : State) : Nat := s.clocks.ptpNs % 1000000000

/-- Nanoseconds since VAON became present, by the always-on domain's cycles of 80 ns (R530, R559): what durations are counted in. -/
def State.nowNs (s : State) : Nat := 80 * s.clocks.aonCycles
def State.nowSec (s : State) : Nat := s.nowNs / 1000000000

/-! ### The configuration record (R4, R545) -/

def State.rec8 (s : State) (off : Nat) : Byte := s.config.record.getD off 0

/-- The big-endian field of `n` bytes at an offset of the record. -/
def State.recField (s : State) (off n : Nat) : Nat := beAt s.config.record off n

def State.recSigned (s : State) (off n : Nat) : Int := signedOf (8 * n) (s.recField off n)

def State.grade (s : State) : Byte := s.rec8 0x0C
def State.partNumber (s : State) : Bytes := slice s.config.record 0x04 8
def State.serial (s : State) : Bytes := slice s.config.record 0x10 16
def State.identityBlob (s : State) : Bytes := slice s.config.record 0xFB8 1024
def State.identityModulus (s : State) : Bytes := slice s.identityBlob 8 384
def State.factoryMac (s : State) : BitVec 48 := BitVec.ofNat 48 (s.recField 0xDB8 6)

/-- Was physical core `n` of a cluster good at shipment (GOOD_MAP). -/
def State.goodCore (s : State) (cluster n : Nat) : Bool := bitField (s.recField (0x20 + 9 * cluster) 9) n 1 == 1

/-- May die halves and stacks start: a hub start has verified the configuration record (R5, R6). -/
def State.unitsMayRun (s : State) : Bool := s.config.hubStarted && !s.config.hubOnly

/-! ### Units -/

/-- The UNIT word of an event (R473); 0xFF marks an unused field. -/
def unitWord (a b c d : Nat) : Word := word (a * 2 ^ 24 + b * 2 ^ 16 + c * 2 ^ 8 + d)

end Sys2Proof.Machine

namespace Sys2Proof

open Machine

def ClusterRef.key (c : ClusterRef) : Nat := 64 * c.die.val + c.num.val

/-- The physical half of a cluster: W holds columns 0 to 3 (R297). -/
def ClusterRef.half (c : ClusterRef) : Nat := 2 * c.die.val + (if c.num.val % 8 < 4 then 0 else 1)

def LinkSite.code : LinkSite → Nat
  | .xw => 0 | .xe => 1 | .vw => 2 | .ve => 3

/-- UNIT_KIND and UNIT of a unit (R473). -/
def UnitRef.event : UnitRef → Nat × Word
  | .core p => (4, unitWord p.cl.die.val p.cl.num.val p.num.val 0xFF)
  | .seam d => (6, unitWord d.val 0xFF 0xFF 4)
  | .link d site => (6, unitWord d.val 0xFF 0xFF site.code)
  | .baseDie t => (5, unitWord t.val 0xFF 0xFF 0xFF)

/-- A number for each unit, the key of its fault count in the journal. -/
def UnitRef.code : UnitRef → Nat
  | .core p => 66 * p.cl.key + p.num.val
  | .seam d => 30000 + d.val
  | .link d site => 30100 + 4 * d.val + site.code
  | .baseDie t => 30200 + t.val

end Sys2Proof

namespace Sys2Proof.Machine

open Sys2Proof

def State.cluster (s : State) (k : Nat) : Cluster := mget {} s.clusters k
def State.modCluster (s : State) (k : Nat) (f : Cluster → Cluster) : State := { s with clusters := mmod {} s.clusters k f }
def State.half (s : State) (h : Nat) : Half := mget {} s.halves h
def State.modHalf (s : State) (h : Nat) (f : Half → Half) : State := { s with halves := mmod {} s.halves h f }
def State.die (s : State) (d : Nat) : Die := mget {} s.dies d
def State.modDie (s : State) (d : Nat) (f : Die → Die) : State := { s with dies := mmod {} s.dies d f }
def State.stack (s : State) (t : Nat) : Stack := mget {} s.tielux t
def State.modStack (s : State) (t : Nat) (f : Stack → Stack) : State := { s with tielux := mmod {} s.tielux t f }

/-! ### Rails (R516, R517) -/

/-- VFAB of a die in mV (R517). -/
def State.vfabMv (s : State) (d : Nat) : Nat :=
  let one (h : Nat) : Int :=
    if (s.half h).clocked then
      max 650 (min 800 (650 + 15 * (((s.half h).setting : Int) - 9) + s.recSigned (0xDA0 + 2 * h) 2))
    else 0
  if (s.die d).railOff then 0
  else
    let v := max (one (2 * d)) (one (2 * d + 1))
    if v > 0 then v.toNat else if (s.die d).spineClocked then 650 else 0

/-- The rail and its voltage that an event reports: that of the named unit (log entry 20). -/
def State.eventRail (s : State) (kind : Nat) (u : Word) : Nat × Nat :=
  let a := u.toNat / 2 ^ 24
  match kind with
  | 1 | 2 | 3 | 4 | 6 => (0, s.vfabMv a)
  | 5 => (1, if s.power.aPresent || s.power.bPresent then 1100 else 0)
  | 7 => (3, if s.power.aPresent || s.power.bPresent then 1800 else 0)
  | _ => (2, if s.power.vhubOn then 750 else 0)

def State.eventTemp (s : State) (kind : Nat) (u : Word) : Int :=
  let a := u.toNat / 2 ^ 24
  match kind with
  | 1 | 2 | 3 | 4 | 6 => (s.die a).temp
  | 5 => (s.stack a).temp
  | _ => s.thermal.hubTemp

/-! ### Sessions and packets -/

/-- The all-nodes multicast address, where a roll call goes in UDP/IPv6 mode (log entry 84). -/
def allNodes : BitVec 128 := BitVec.ofNat 128 (0xFF02 * 2 ^ 112 + 1)

def State.modSession (s : State) (id : Nat) (f : Session → Session) : State :=
  { s with transport := { s.transport with sessions := modFirst (·.id == id) f s.transport.sessions } }

def State.session? (s : State) (id : Nat) : Option Session := s.transport.sessions.find? fun x => x.id == id

/-- The open session with an identifier. -/
def State.openSession? (s : State) (id : Nat) : Option Session :=
  s.transport.sessions.find? fun x => x.id == id && x.opened

/-- A sequenced packet numbered and kept until it is acknowledged (R389 to R392). -/
def Session.send (x : Session) (b : TxBody) : Session :=
  { x with tx := x.tx ++ [{ seq := x.txNext, body := b }], txNext := x.txNext + 1 }

/-- The class of a packet (R354, R380): BARRIER and RETRACT are express. -/
def TxBody.express : TxBody → Bool
  | .barrier .. => true
  | .retract .. => true
  | _ => false

/-- A composed frame joins the queue of its class. -/
def Transport.queue (t : Transport) (express : Bool) (r : OutRef) : Transport :=
  if express then { t with express := t.express ++ [r] } else { t with bulk := t.bulk ++ [r] }

/-- A sequenced packet composed on a session, if it stands. -/
def Transport.sendOn (t : Transport) (id : Nat) (b : TxBody) : Transport :=
  match t.sessions.find? fun x => x.id == id with
  | none => t
  | some x => { t with sessions := modFirst (·.id == id) (·.send b) t.sessions }.queue b.express (.packet id x.txNext false)

def State.send (s : State) (id : Nat) (b : TxBody) : State := { s with transport := s.transport.sendOn id b }

/-- Where a packet outside sessions goes (R352): a roll-call probe to every endpoint, a phase 1 to the member, what belongs to a session to its
source, any other answer to the source of what it answers. -/
def State.rawTo (s : State) : RawOut → NetSource
  | .rollProbe _ => { mac := BitVec.allOnes 48, ip := allNodes }
  | .phase1 dst ip _ => { mac := Config.memberMac dst, ip := ip }
  | .bareAck sess _ => ((s.session? sess).map fun x => { mac := x.mac, ip := x.ip : NetSource }).getD s.transport.source
  | _ => s.transport.source

/-- A packet outside sessions, composed and queued; all of them are bulk. -/
def State.emit (s : State) (o : RawOut) : State :=
  { s with transport := { s.transport with out := s.transport.out ++ [o], bulk := s.transport.bulk ++ [.raw o (s.rawTo o)] } }

/-- The source that the answers to a packet outside sessions go to. -/
def State.fromSource (s : State) (n : NetSource) : State := { s with transport := { s.transport with source := n } }

/-- The upper layer takes the oldest packet the session holds (log entry 17). -/
def State.popInbox (s : State) (id : Nat) : State := s.modSession id fun x => { x with inbox := x.inbox.tail }

/-! ### Events (R413, R473, R551) -/

/-- The page that logs an event code (R551); for codes whose page follows the unit, the unit's page. -/
def eventPage (code kind : Nat) (u : Word) : Nat :=
  let a := u.toNat / 2 ^ 24
  if code = 0x0220 ∨ code = 0x0A12 ∨ (0x0A17 ≤ code ∧ code ≤ 0x0A19) then 0x6
  else if 0x0510 ≤ code ∧ code ≤ 0x0519 then 0xC
  else if 0x0621 ≤ code ∧ code ≤ 0x0624 then 0xA
  else if 0x0710 ≤ code ∧ code ≤ 0x0713 then 0xB
  else if (0x0820 ≤ code ∧ code ≤ 0x0822) ∨ code = 0x0826 ∨ code = 0x0827 then 0x7
  else if code = 0x0823 then 0x100 + a
  else if code = 0x0824 ∨ code = 0x0825 then 0x9
  else if code = 0x0828 then
    if kind = 1 ∨ kind = 2 then 0x100 + a else if kind = 5 then 0x400 + a else if kind = 7 then 0x2
    else if u.toNat % 256 = 0xB then 0xB else if u.toNat % 256 = 0 then 0 else 1
  else if code = 0x0829 ∨ code = 0x082A then 0xD
  else if 0x0910 ≤ code ∧ code ≤ 0x0916 then 0x400 + a
  else if code = 0x0A04 ∨ code = 0x0A05 then 0xE
  else if code = 0x0A07 then 0x3
  else 0x2

/-- What a meaning says of an event; the rest of the record is the module's state. -/
structure EventSpec where
  code : Nat
  severity : Nat
  kind : Nat := 0
  unit : Word := BitVec.allOnes 32
  operation : Nat := 0xFF00
  status : Nat := 0
  step : BitVec 64 := BitVec.allOnes 64
  jobId : Nat := 0
  owner : Bytes := []
  detail : BitVec 64 := 0
  deriving DecidableEq, Repr

/-- One event logged by a page under a class (R413, R551, R552): its record in the ring of 65,536, its EVT_STATUS bit
and the page's ERR_COUNT, and its packets to the job's stream and to every installer session where EVT_ENABLE lets
it be sent. `forced` events do not count in ERR_COUNT. -/
def State.logOn (s : State) (page cls : Nat) (forced : Bool) (e : EventSpec) : State :=
  let rail := s.eventRail e.kind e.unit
  let r : Event :=
    { code := BitVec.ofNat 16 e.code, severity := e.severity, unitKind := e.kind, unit := e.unit, timeSec := s.timeSec,
      timeNs := s.timeNs, operation := BitVec.ofNat 16 e.operation, status := BitVec.ofNat 16 e.status, step := e.step,
      jobId := e.jobId, seq := s.config.eventNext, temp := s.eventTemp e.kind e.unit, railMv := rail.2, rail := rail.1,
      detail := e.detail }
  let full := decide (65536 ≤ s.journal.events.length)
  let h := mget {} s.headers page
  let on := BitVec.getLsbD h.evtEnable cls
  let sends (x : Session) : Bool :=
    x.opened && (x.role == .installer || (e.jobId != 0 && x.fpr == e.owner && x.role != .peer))
  { s with
    journal := { s.journal with
      events := (if full then s.journal.events.tail else s.journal.events) ++ [r],
      eventsOverwritten := if full then satAdd 32 s.journal.eventsOverwritten 1 else s.journal.eventsOverwritten },
    config := { s.config with eventNext := s.config.eventNext + 1, eventsHeld := min 65536 (s.config.eventsHeld + 1) },
    headers := mset {} s.headers page { h with
      evtStatus := h.evtStatus ||| (1 <<< cls),
      errCount := if 2 ≤ e.severity ∧ forced = false then satAdd 32 h.errCount 1 else h.errCount },
    transport := { s.transport with
      sessions := s.transport.sessions.map fun x => if on && sends x then x.send (.event r) else x,
      bulk := s.transport.bulk ++ (s.transport.sessions.filter fun x => on && sends x).map fun x => .packet x.id x.txNext false } }

/-- One event logged by the page of its code (R551). -/
def State.log (s : State) (e : EventSpec) : State :=
  s.logOn (eventPage e.code e.kind e.unit) (if e.code = 0x0828 then 31 else e.code % 32) false e

/-- Several events in turn. -/
def State.logAll (s : State) (es : List EventSpec) : State := es.foldl State.log s

/-! ### The audit log (R494, R495) -/

/-- The ROLE code of an audit entry (R494). -/
def Role.auditCode : Role → Nat
  | .installer => 1
  | .maker => 2
  | .claim => 3
  | _ => 0xFF


/-- The first 0xE0 bytes of an audit entry, in its big-endian layout. -/
def auditBytes (e : AuditEntry) : Bytes :=
  beBytes 8 e.seq ++ beBytes 8 e.timeSec ++ beBytes 4 e.timeNs ++ beBytes 1 e.role ++ beBytes 1 e.outcome ++
    beBytes 2 e.action.toNat ++ beBytes 2 e.status.toNat ++ List.replicate 6 0 ++
    (e.keyFpr ++ List.replicate (32 - e.keyFpr.length) 0) ++ (e.detail ++ List.replicate (128 - e.detail.length) 0) ++ e.prevHash

/-- One entry written to the audit ring of 131,072; an overwritten entry leaves its hash as the anchor. -/
def State.audit (s : State) (role outcome action status : Nat) (fpr detail : Bytes) : State :=
  let j := s.journal
  let e0 : AuditEntry :=
    { seq := j.auditNext, timeSec := s.timeSec, timeNs := s.timeNs, role := role, outcome := outcome,
      action := BitVec.ofNat 16 action, status := BitVec.ofNat 16 status, keyFpr := fpr, detail := detail,
      prevHash := (j.audit.getLast?.map (·.hash)).getD (List.replicate 32 0), hash := [] }
  let e := { e0 with hash := sha256 (auditBytes e0) }
  let full := decide (131072 ≤ j.audit.length)
  { s with journal := { j with
      audit := (if full then j.audit.tail else j.audit) ++ [e],
      auditNext := j.auditNext + 1,
      anchorHash := if full then (j.audit.head?.map (·.hash)).getD [] else j.anchorHash,
      auditOverwritten := if full then j.auditOverwritten + 1 else j.auditOverwritten } }

/-! ### Streams and completion records (R394 to R399, R409) -/

def State.stream (s : State) (fpr : Bytes) : Stream :=
  (s.journal.streams.find? fun x => x.fpr == fpr).getD { fpr := fpr }

/-- The stream with a fingerprint changed by `f`, made if the journal has none yet. -/
def State.modStream (s : State) (fpr : Bytes) (f : Stream → Stream) : State :=
  let ss := s.journal.streams
  let ss' := if ss.any (·.fpr == fpr) then modFirst (·.fpr == fpr) f ss else ss ++ [f { fpr := fpr }]
  { s with journal := { s.journal with streams := ss' } }

/-- The session a stream's record goes to (R398): the one named if it is open, else the stream's most recently opened
session. -/
def State.recordSession (s : State) (fpr : Bytes) (want : Option Nat) : Option Nat :=
  let mine := s.transport.sessions.filter fun x => x.opened && x.fpr == fpr && x.role != .peer
  match want.bind fun w => mine.find? (·.id == w) with
  | some x => some x.id
  | none => (mine.foldl (fun (best : Option Session) x =>
      match best with
      | none => some x
      | some b => if b.order ≤ x.order then some x else some b) none).map (·.id)

/-- Packets that a record takes (R410). -/
def CompRecord.parts (r : CompRecord) : Nat := (448 + r.ext.length + 8159) / 8160

/-- A record's packets sent, one after another (R410). -/
def State.sendRecord (s : State) (id : Nat) (fpr : Bytes) (r : CompRecord) : State :=
  (List.range r.parts).foldl (fun t i => t.send id (.completion fpr r.seq i r.parts)) s

/-- A completion record numbered in its stream, journaled, and sent where a session of the stream is open. -/
def State.complete (s : State) (fpr : Bytes) (want : Option Nat) (r : CompRecord) : State :=
  let n := (s.stream fpr).nextSeq
  let dest := s.recordSession fpr want
  let s1 := s.modStream fpr fun x =>
    { x with nextSeq := n + 1, records := x.records ++ [{ record := { r with seq := n }, sentOn := dest }] }
  match dest with
  | some id => s1.sendRecord id fpr { r with seq := n }
  | none => s1

/-- A record with nothing but its request, kind and status. -/
def blankRecord : CompRecord :=
  { req := 0, seq := 0, jobId := 0, kind := .done, state := 0, status := 0, flags := 0, detail0 := 0, detail1 := 0,
    step := 0, seed := 0, cadence := 0, stepDigest := 0, counts := {}, retileStep := BitVec.allOnes 64,
    demoteStep := BitVec.allOnes 64, demoteCause := 0, digest := [], certificate := [], ext := [] }

/-- A command refused (R396): kind REFUSED, HIGH_MARK unchanged. -/
def State.refuse (s : State) (x : Session) (req status : Nat) (d0 d1 : Nat := 0) : State :=
  s.complete x.fpr (some x.id)
    { blankRecord with req := req, kind := .refused, status := BitVec.ofNat 16 status, detail0 := BitVec.ofNat 64 d0,
                       detail1 := BitVec.ofNat 64 d1 }

/-- Kinds of space in the job area (R399): used KiB. -/
def State.areaUsed (s : State) : Nat := (s.journal.reservations.map (·.kib)).sum

def State.areaFree (s : State) : Nat := 393216 - s.areaUsed

/-- A command accepted (R396): its reservation journaled, HIGH_MARK raised, ACCEPT sent. `job` is the job that the reservation lasts
with, 0 for a command whose reservation ends with its last record (R399). -/
def State.accept (s : State) (x : Session) (req job kib : Nat) (r : CompRecord) : State :=
  let s1 := s.modStream x.fpr fun st => { st with highMark := req }
  let s2 := s1.onJournal fun j => { j with reservations := j.reservations ++ [{ owner := x.fpr, req := req, job := job, kib := kib }] }
  s2.complete x.fpr (some x.id) { r with req := req, kind := .accept }

/-- The DONE record of a command. -/
def State.done (s : State) (fpr : Bytes) (want : Option Nat) (req : Nat) (r : CompRecord) : State :=
  s.complete fpr want { r with req := req, kind := .done }

/-- A record's ACCEPT, if the stream still holds it (R395). -/
def State.heldAccept? (s : State) (fpr : Bytes) (req : Nat) : Option CompRecord :=
  ((s.stream fpr).records.find? fun h => h.record.req == req && h.record.kind == .accept).map (·.record)

/-! ### Charges and observation (R463, R464) -/

def State.observed (s : State) (u : UnitRef) : Bool := s.integrity.observed.any (·.1 == u)

/-- A unit put under observation for 4,096 committed steps, marked suspect (R460, R463). -/
def State.observe (s : State) (u : UnitRef) : State :=
  if s.observed u then s
  else
    State.log { s with integrity := { s.integrity with observed := s.integrity.observed ++ [(u, false)] } }
      { code := 0x0514, severity := 1, kind := u.event.1, unit := u.event.2 }

/-- The state a retired unit's table shows (R465, R466). -/
def State.markRetired (s : State) (u : UnitRef) : State :=
  match u with
  | .core p => s.modCluster p.cl.key fun c => { c with health := mset .good c.health p.num.val .retired }
  | .seam d => s.modDie d.val fun x => { x with seam := .failed }
  | .link d site => s.modDie d.val fun x => { x with failedLinks := x.failedLinks ++ [site] }
  | .baseDie t => s.modStack t.val fun x => { x with baseDieFailed := true }

/-- One confirmed fault charged to a unit; the third retires it (R464). -/
def State.charge (s : State) (u : UnitRef) : State :=
  if s.journal.retired.contains u then s
  else
    let n := mget 0 s.journal.faults u.code + 1
    let s1 := { s with
      journal := { s.journal with
        faults := mset 0 s.journal.faults u.code (if n ≥ 3 then 0 else n),
        retired := if n ≥ 3 then s.journal.retired ++ [u] else s.journal.retired },
      integrity := { s.integrity with observed := s.integrity.observed.map fun o => if o.1 == u then (u, true) else o } }
    if n ≥ 3 then (s1.markRetired u).log { code := 0x0515, severity := 2, kind := u.event.1, unit := u.event.2 } else s1

/-! ### The job table -/

def State.job? (s : State) (slot : Nat) : Option Job := mget none s.jobs.table slot

def State.setJob (s : State) (slot : Nat) (j : Job) : State :=
  { s with jobs := { s.jobs with table := mset none s.jobs.table slot (some j) } }

/-- The job in a table entry changed by `f`; an empty entry stands. -/
def State.modJob (s : State) (slot : Nat) (f : Job → Job) : State :=
  match s.job? slot with
  | some j => s.setJob slot (f j)
  | none => s

def State.dropJob (s : State) (slot : Nat) : State :=
  { s with jobs := { s.jobs with table := mset none s.jobs.table slot none } }

/-- The least key from `k` on that a map does not list. -/
def firstFree {α : Type} : SMap α → Nat → Nat
  | [], k => k
  | (a, _) :: m, k => if a = k then firstFree m (k + 1) else if k < a then k else firstFree m k

/-- A free entry of the job table of 4,096 (R293). Ended jobs whose results are not released stand at keys from 4,096
on, outside the table. -/
def State.freeSlot? (s : State) : Option Nat :=
  let k := firstFree s.jobs.table 0
  if k < 4096 then some k else none

/-- The jobs of the table with their entries, in ascending entry. -/
def State.jobList (s : State) : List (Nat × Job) := s.jobs.table.filterMap fun e => e.2.map fun j => (e.1, j)

/-- Resident states (R294). -/
def JobState.resident : JobState → Bool
  | .admitting | .running | .preempting | .restoring => true
  | _ => false

def JobState.code : JobState → Nat
  | .waiting => 1 | .admitting => 2 | .running => 3 | .preempting => 4 | .preempted => 5 | .restoring => 6
  | .obligation => 7 | .ended => 8

/-- The job that holds a physical half, with its entry. -/
def State.halfJob? (s : State) (h : Nat) : Option (Nat × Job) :=
  s.jobList.find? fun e => e.2.state.resident && e.2.region.contains h

def State.jobById? (s : State) (id : Nat) : Option (Nat × Job) := s.jobList.find? fun e => e.2.id == id

/-- A job whose region issues words now: running, not held, waiting at no barrier, its clocks not relocking. -/
def Job.issuing (j : Job) : Bool := j.state == .running && j.hold.isNone && j.waiting == .no && !j.relocking

/-- Die, half or stack of a job's region. -/
def Job.hasDie (j : Job) (d : Nat) : Bool := j.region.any fun h => h / 2 == d

/-- The job-shaped part of an event. -/
def Job.event (j : Job) (e : EventSpec) : EventSpec :=
  { e with jobId := j.id, owner := j.owner, step := BitVec.ofNat 64 j.step }

/-! ### Counts (R110, R156) -/

/-- Counts added. Each is 64 bits wide and stays at 2^64 − 1 (DESIGN CHOICE, log entry 85: R156 gives the width alone). -/
def Counts.add (a b : Counts) : Counts :=
  { nonfiniteDecisions := satAdd 64 a.nonfiniteDecisions b.nonfiniteDecisions,
    gaussDegenerate := satAdd 64 a.gaussDegenerate b.gaussDegenerate,
    intSaturations := satAdd 64 a.intSaturations b.intSaturations,
    longsumWraps := satAdd 64 a.longsumWraps b.longsumWraps, atomicWraps := satAdd 64 a.atomicWraps b.atomicWraps,
    fieldNonfinite := satAdd 64 a.fieldNonfinite b.fieldNonfinite,
    conversionSaturations := satAdd 64 a.conversionSaturations b.conversionSaturations }

end Sys2Proof.Machine
end

