-- ==== Sys2Proof/Machine/Frames.lean ====
section
/-! DEFINITION. Frames, sectors and lines of the Tielux stacks (09 R254, R257, R273, R274, R280 to R284): reading and writing
a line with its tag symbols, parity lines, and taking and giving back frames. -/

namespace Sys2Proof.Machine

open Sys2Proof

/-- Bytes of a page (R252). -/
def pageBytes : Nat := 2097152

/-! ### Sectors and lines -/

def State.frameEntry (s : State) (t f : Nat) : FrameEntry := mget {} (s.stack t).frames f

def State.modFrame (s : State) (t f : Nat) (g : FrameEntry → FrameEntry) : State :=
  s.modStack t fun k => { k with frames := mmod {} k.frames f g }

/-- The key of a sector's tag within its stack. -/
def tagKey (frame sector : Nat) : Nat := frame * 65536 + sector

def State.tagOf (s : State) (t f sector : Nat) : SectorTag := mget {} (s.stack t).tags (tagKey f sector)

/-- Does a sector carry its frame's generation (R274). -/
def State.sectorCurrent (s : State) (t f sector : Nat) : Bool := (s.tagOf t f sector).gen == (s.frameEntry t f).gen

/-- A sector as a stack holds it: its 32 bytes as a number, 0 where its generation is stale (R274). -/
def State.rawSector (s : State) (t f sector : Nat) : Nat :=
  if s.sectorCurrent t f sector then leNat (readBytes s.mem (memKey t f (32 * sector)) 32) else 0

def State.rawSectorPoison (s : State) (t f sector : Nat) : Bool :=
  s.sectorCurrent t f sector && (s.tagOf t f sector).mirage

/-- The stacks of a stack's parity group (R282). -/
def groupStacks (t : Nat) : List Nat := (List.range 6).map fun d => 6 * d + t % 6

/-- Is a stripe protected (R282): its frames say so as a whole. -/
def State.stripeProtected (s : State) (t f : Nat) : Bool := (groupStacks t).any fun u => (s.frameEntry u f).protectedLayout

/-- The stacks of the other frames of a frame's stripe: those that took the protected layout with it (R282, R285). -/
def State.mates (s : State) (t f : Nat) : List Nat := (groupStacks t).filter fun u => u != t && (s.frameEntry u f).protectedLayout

/-- The XOR of a sector over the other frames of its stripe (R258, R284). -/
def State.mateSum (s : State) (t f sector : Nat) : Nat := (s.mates t f).foldl (fun a u => a ^^^ s.rawSector u f sector) 0

/-- Can the other frames of a stripe give a sector: each is served, and none is poisoned. -/
def State.matesGive (s : State) (t f sector : Nat) : Bool := (s.mates t f).all fun u => !(s.stack u).failed && !s.rawSectorPoison u f sector

/-- A sector as it reads (R258, R284): on a failed stack in a protected stripe, the XOR of the stripe's other frames. -/
def State.sectorNat (s : State) (t f sector : Nat) : Nat :=
  if (s.stack t).failed && (s.frameEntry t f).protectedLayout then s.mateSum t f sector else s.rawSector t f sector

/-- Is a sector delivered poisoned; one that a failed stack has lost is (R285, log entry 89). -/
def State.sectorPoison (s : State) (t f sector : Nat) : Bool :=
  if (s.stack t).failed then !((s.frameEntry t f).protectedLayout && s.matesGive t f sector) else s.rawSectorPoison t f sector

/-- The line at a byte offset of a frame. -/
def State.lineAt (s : State) (p : PageRef) (off : Nat) : BitVec 512 :=
  BitVec.ofNat 512 (s.sectorNat p.stack p.frame (off / 64 * 2) + 2 ^ 256 * s.sectorNat p.stack p.frame (off / 64 * 2 + 1))

def LineMarks.any (m : LineMarks) : Bool := m.lo || m.hi

/-- The markers of the line at a byte offset of a frame. -/
def State.lineMarks (s : State) (p : PageRef) (off : Nat) : LineMarks :=
  { lo := s.sectorPoison p.stack p.frame (off / 64 * 2), hi := s.sectorPoison p.stack p.frame (off / 64 * 2 + 1) }

/-- A line put into a frame: its bytes, and its two tags stamped with the frame's generation (R257, R274). A corrected write-back that
is still pending for it is dropped (R260). -/
def State.stampLine (s : State) (p : PageRef) (off : Nat) (v : BitVec 512) (m : LineMarks) : State :=
  let tag (b : Bool) : SectorTag := { mirage := b, gen := (s.frameEntry p.stack p.frame).gen }
  let k := tagKey p.frame (off / 64 * 2)
  let s1 : State := { s with mem := writeLine s.mem (memKey p.stack p.frame (off / 64 * 64)) v }
  s1.modStack p.stack fun x => { x with tags := mset {} (mset {} x.tags k (tag m.lo)) (k + 1) (tag m.hi),
                                        writebacks := x.writebacks.filter fun w => w != k && w != k + 1 }

/-- The parity frame of a stripe, where it has one. -/
def State.parityOf? (s : State) (p : PageRef) : Option PageRef :=
  ((groupStacks p.stack).find? fun u => (s.frameEntry u p.frame).use == .parity).map fun u => { stack := u, frame := p.frame }

/-- Does a stack serve no access: it has failed, or is in self-refresh for its temperature (R267, R529). -/
def Stack.away (k : Stack) : Bool := k.failed || k.thermal == .selfRefresh

/-- Line operations of a stack counted (R287, LINE_OPS). -/
def Stack.countLines (k : Stack) (n : Nat) : Stack := { k with lineOps := satAdd 64 k.lineOps n }

/-- Line operations counted for a job too (R287). -/
def Stack.countOps (k : Stack) (job n : Nat) : Stack :=
  { k.countLines n with jobOps := mset 0 k.jobOps job (mget 0 k.jobOps job + n) }

/-- The parity line updated by the difference of old and new data, a line operation of its stack (R283). A failed stack takes none. -/
def State.updateParity (s : State) (p : PageRef) (off : Nat) (diff : BitVec 512) : State :=
  match s.parityOf? p with
  | some q => if (s.stack q.stack).failed then s
    else (s.stampLine q off (s.lineAt q off ^^^ diff) (s.lineMarks q off)).modStack q.stack fun k => k.countLines 1
  | none => s

/-- A committed write of a line (R283, R284): data and parity; on a failed stack, the parity line alone. -/
def State.writeLineAt (s : State) (p : PageRef) (off : Nat) (v : BitVec 512) (m : LineMarks) : State :=
  let diff := s.lineAt p off ^^^ v
  let s1 := if (s.stack p.stack).failed then s else s.stampLine p off v m
  if (s.frameEntry p.stack p.frame).protectedLayout then s1.updateParity p off diff else s1

/-- A line copied with its markers. -/
def State.copyLine (s : State) (p : PageRef) (off : Nat) (q : PageRef) (dst : Nat) : State :=
  s.writeLineAt q dst (s.lineAt p off) (s.lineMarks p off)

/-- A page's lines copied to a new page. Lines that read as zero, and carry no marker, stay unwritten there. -/
def State.copyPage (s : State) (a b : PageRef) : State :=
  (List.range (pageBytes / 64)).foldl (fun t i =>
    if t.lineAt a (64 * i) = 0 ∧ (t.lineMarks a (64 * i)).any = false then t else t.copyLine a (64 * i) b (64 * i)) s

/-! ### Bytes of a list of pages -/

/-- One line of bytes written at an offset: a sector that is written in part keeps its marker (R261). -/
def State.storeLine (s : State) (p : PageRef) (line off : Nat) (bs : Bytes) (at_ : Nat) : State :=
  let old := s.lineAt p line
  let m := s.lineMarks p line
  let inside (k : Nat) : Bool := decide (off ≤ at_ + k) && decide (at_ + k < off + bs.length)
  let keep (a : Nat) (x : Bool) : Bool := x && !((List.range 32).all fun k => inside (a + k))
  let v := leNat ((List.range 64).map fun k =>
    if inside k then bs.getD (at_ + k - off) 0 else BitVec.ofNat 8 (bitField old.toNat (8 * k) 8))
  (s.writeLineAt p line (BitVec.ofNat 512 v) { lo := keep 0 m.lo, hi := keep 32 m.hi }).modStack p.stack fun k => k.countLines 1

/-- Bytes written at an offset of a list of pages, line by line: each write stamps the sectors it writes (R274), and updates parity
(R283). -/
def State.storePages (s : State) (ps : List PageRef) (off : Nat) (bs : Bytes) : State :=
  if bs.isEmpty then s
  else
    (List.range ((off % 64 + bs.length + 63) / 64)).foldl (fun t i =>
      let a := 64 * (off / 64 + i)
      match ps[a / pageBytes]? with
      | some p => t.storeLine p (a % pageBytes) off bs a
      | none => t) s

/-- `n` bytes from the start of a list of pages. -/
def State.readPages (s : State) (ps : List PageRef) (n : Nat) : Bytes :=
  ((List.range ((n + 63) / 64)).flatMap fun i =>
    match ps[64 * i / pageBytes]? with
    | some p => leBytes 64 (s.lineAt p (64 * i % pageBytes)).toNat
    | none => List.replicate 64 0).take n

/-- Does a line of the first `n` bytes of a list of pages carry a marker. -/
def State.pagesMarked (s : State) (ps : List PageRef) (n : Nat) : Bool :=
  (List.range ((n + 63) / 64)).any fun i => (ps[64 * i / pageBytes]?).any fun p => (s.lineMarks p (64 * i % pageBytes)).any

/-! ### Taking frames (R273, R274, R280, R282, R285) -/

/-- Is a stack unusable: marked so itself, or its PLL is (R540, R542; the stacks' PLLs are numbered from 20). -/
def State.stackUnusable (s : State) (t : Nat) : Bool := (s.stack t).unusable || mget false s.clocks.pllUnusable (20 + t)

/-- May a frame be offered: free, cleared, on a stack that serves. -/
def State.frameFree (s : State) (t f : Nat) : Bool :=
  let e := s.frameEntry t f
  e.use == .free && e.cleared && !(s.stack t).failed && !s.stackUnusable t

/-- The stacks of a group that have not failed. -/
def State.healthyGroup (s : State) (t : Nat) : List Nat := (groupStacks t).filter fun u => !(s.stack u).failed

/-- The stack of a new stripe's parity frame: die f mod 6, rotating over the healthy dies once a stack has failed (R282, R285). -/
def State.parityStack (s : State) (t f : Nat) : Nat :=
  let h := s.healthyGroup t
  h.getD (f % h.length) 0

/-- Does a stripe span a failed stack (R284, R285): it was built while that stack was healthy. -/
def State.degraded (s : State) (t f : Nat) : Bool := (groupStacks t).any fun u => (s.stack u).failed && (s.frameEntry u f).protectedLayout

/-- May a page of a layout take frame f of stack t. -/
def State.canTake (s : State) (prot : Bool) (t f : Nat) : Bool :=
  s.frameFree t f &&
    (if prot then
      (s.stripeProtected t f && !s.degraded t f) || (!s.stripeProtected t f && (s.healthyGroup t).all (fun u => s.frameFree u f) && s.parityStack t f != t)
     else !s.stripeProtected t f)

/-- A frame given a use: its generation rises by one (R274). -/
def FrameEntry.taken (e : FrameEntry) (u : FrameUse) (prot : Bool) : FrameEntry :=
  { e with use := u, protectedLayout := prot, gen := (e.gen + 1) % 32768 }

/-- A stripe made protected: its parity frame is the S6's, and every healthy frame of it takes the protected layout. -/
def State.protectStripe (s : State) (t f : Nat) : State :=
  if s.stripeProtected t f then s
  else
    let q := s.parityStack t f
    let s1 := (s.healthyGroup t).foldl (fun a u => a.modFrame u f fun e => { e with protectedLayout := true }) s
    s1.modFrame q f fun e => e.taken .parity true

/-- Frame f of stack t given a use. -/
def State.takeFrame (s : State) (u : FrameUse) (prot : Bool) (t f : Nat) : State :=
  (if prot then s.protectStripe t f else s).modFrame t f fun e => e.taken u prot

/-- The frames of a stack in rising order (irreducible, so that no unifier runs through them). -/
@[irreducible]
def allFrames : List Nat := List.range' 0 stackFrames

/-- A page in a stack: the lowest frame it may take. -/
def State.takePage (s : State) (u : FrameUse) (prot : Bool) (t : Nat) : Option (State × PageRef) :=
  (allFrames.find? fun f => s.canTake prot t f).map fun f => (s.takeFrame u prot t f, { stack := t, frame := f })

/-- A page in the first stack of a list that has one. -/
@[irreducible]
def State.takeFrom (s : State) (u : FrameUse) (prot : Bool) : List Nat → Option (State × PageRef)
  | [] => none
  | t :: ts => match s.takePage u prot t with
    | some r => some r
    | none => s.takeFrom u prot ts

/-- The stacks from one on, wrapping after T35 (R280). -/
def stacksFrom (t : Nat) : List Nat := (List.range 36).map fun i => (t + i) % 36

/-- Stack of a hash value (R280). -/
def hashStack (h : Nat) : Nat := 6 * (h / 6 % 6) + h % 6

/-- `n` hashed pages, from page `p` on, under one salt. -/
def State.takeHashedAll (s : State) (u : FrameUse) (prot : Bool) (salt : Nat) : Nat → Nat → Option (State × List PageRef)
  | 0, _ => some (s, [])
  | n + 1, p =>
    match s.takeFrom u prot (stacksFrom (hashStack (Config.pageStack salt p))) with
    | none => none
    | some (s1, r) => (s1.takeHashedAll u prot salt n (p + 1)).map fun q => (q.1, r :: q.2)

/-- `n` hashed pages, from page `p` on, under one salt. -/
@[irreducible]
def State.takeHashed (s : State) (u : FrameUse) (prot : Bool) (salt n p : Nat) : Option (State × List PageRef) := s.takeHashedAll u prot salt n p

/-- `n` pages in one stack. -/
def State.takeInAll (s : State) (u : FrameUse) (prot : Bool) (t : Nat) : Nat → Option (State × List PageRef)
  | 0 => some (s, [])
  | n + 1 =>
    match s.takePage u prot t with
    | none => none
    | some (s1, r) => (s1.takeInAll u prot t n).map fun q => (q.1, r :: q.2)

/-- `n` pages in one stack. -/
@[irreducible]
def State.takeIn (s : State) (u : FrameUse) (prot : Bool) (t n : Nat) : Option (State × List PageRef) := s.takeInAll u prot t n

/-- Pages in each stack of a list, as many as it says for each (R281). -/
def State.takeSharesAll (s : State) (u : FrameUse) (prot : Bool) : List (Nat × Nat) → Option (State × List PageRef)
  | [] => some (s, [])
  | e :: ts =>
    match s.takeIn u prot e.1 e.2 with
    | none => none
    | some (s1, r) => (s1.takeSharesAll u prot ts).map fun q => (q.1, r ++ q.2)

/-- Pages in each stack of a list, as many as it says for each (R281). -/
@[irreducible]
def State.takeShares (s : State) (u : FrameUse) (prot : Bool) (ts : List (Nat × Nat)) : Option (State × List PageRef) := s.takeSharesAll u prot ts

/-! ### Giving frames back (R274, R278) -/

/-- A frame given back. One whose generation would wrap is cleared before it is allocated again (R274). -/
def State.giveBack (s : State) (t f : Nat) : State :=
  let e := s.frameEntry t f
  let s1 := s.modFrame t f fun e => { e with use := .free, cleared := e.cleared && e.gen != 32767 }
  if e.cleared && e.gen == 32767 then s1.modStack t fun k => { k with uncleared := k.uncleared + 1 } else s1

/-- A stripe whose last data frame is free gives its parity frame back and is protected no more. -/
def State.relaxStripe (s : State) (t f : Nat) : State :=
  if (groupStacks t).all fun u => let e := s.frameEntry u f; e.use == .free || e.use == .parity then
    (groupStacks t).foldl (fun a u => (a.giveBack u f).modFrame u f fun e => { e with protectedLayout := false }) s
  else s

/-- A frame freed. -/
def State.freeFrame (s : State) (p : PageRef) : State :=
  let s1 := s.giveBack p.stack p.frame
  if (s.frameEntry p.stack p.frame).protectedLayout then s1.relaxStripe p.stack p.frame else s1

def State.freePages (s : State) (ps : List PageRef) : State := ps.foldl State.freeFrame s

/-! ### Counting -/

/-- Allocated frames of a stack, parity frames included (FRAMES_ALLOC). -/
def Stack.allocated (k : Stack) : Nat := (k.frames.filter fun e => e.2.use != .free).length

/-- Cleared frames not allocated (FRAMES_FREE). -/
def Stack.framesFree (k : Stack) : Nat := stackFrames - k.uncleared - k.allocated

/-- Pages of a layout that the module could ever hold: with every stack of a group healthy, five of six frames of a protected
stripe hold data (R282); with one failed, four of five (R285). -/
def State.capacity (s : State) (prot : Bool) : Nat :=
  ((List.range 6).map fun k =>
    let h := (s.healthyGroup k).length
    stackFrames * (if prot then h - 1 else h)).sum

end Sys2Proof.Machine
end

