-- ==== Sys2Proof/Machine/Image.lean ====
section
/-! DEFINITION. The model image (03 R49 to R67), read field by field from its bytes: header, directory, block table,
unary terms, precisions, schedule, initial states, coupling elements; and the field path of R114. -/

namespace Sys2Proof.Machine

open Sys2Proof

/-! ### Header and directory (R50, R51) -/

def imgSize (m : Bytes) : Nat := leAt m 0x10 8
def imgVars (m : Bytes) : Nat := leAt m 0x18 8
def imgBlocks (m : Bytes) : Nat := leAt m 0x20 4
def imgColours (m : Bytes) : Nat := leAt m 0x24 1
def imgCoupling (m : Bytes) : Nat := leAt m 0x25 1 % 16
def imgBias (m : Bytes) : Nat := leAt m 0x26 1 % 16
def imgScore (m : Bytes) : Nat := leAt m 0x27 1 % 16
def imgAsym (m : Bytes) : Bool := leAt m 0x28 4 % 2 == 1
def imgBetaLen (m : Bytes) : Nat := leAt m 0x2C 4
def imgInterTiles (m : Bytes) : Nat := leAt m 0x30 8
def imgDirOffset (m : Bytes) (e : Nat) : Nat := leAt m (0x40 + 16 * e) 8
def imgDirLength (m : Bytes) (e : Nat) : Nat := leAt m (0x48 + 16 * e) 8

/-! ### Blocks (R53) -/

/-- The kinds of a block. -/
inductive BlockKind where
  | binary | categorical | gaussian
  deriving DecidableEq, Repr

/-- A BLOCKS entry. -/
structure BlockEntry where
  base : Nat
  size : Nat
  kind : Nat
  km1 : Nat
  flags : Nat
  deriving DecidableEq, Repr

def imgBlock (m : Bytes) (a : Nat) : BlockEntry :=
  let o := imgDirOffset m 0 + 16 * a
  { base := leAt m o 8, size := leAt m (o + 8) 2, kind := leAt m (o + 0xA) 1, km1 := leAt m (o + 0xB) 1,
    flags := leAt m (o + 0xC) 1 }

def BlockEntry.syncPermitted (b : BlockEntry) : Bool := b.flags % 2 == 1
def BlockEntry.scores (b : BlockEntry) : Bool := b.flags / 2 % 2 == 1
def BlockEntry.intraPotts (b : BlockEntry) : Bool := b.flags / 4 % 2 == 1
/-- K of a categorical block; 1 for the others. -/
def BlockEntry.states (b : BlockEntry) : Nat := if b.kind = 1 then b.km1 + 1 else 1
/-- Tile rows of a block. -/
def BlockEntry.tiles (b : BlockEntry) : Nat := (b.size + 31) / 32
/-- Bits of one initial state (R66). -/
def BlockEntry.stateBits (b : BlockEntry) : Nat := if b.kind = 0 then 1 else if b.kind = 1 then 8 else 32

/-- The last block in [lo, hi) whose base is at or below `v`, by halving; `fuel` halvings are left. -/
def blockSearch (m : Bytes) (v : Nat) : Nat → Nat → Nat → Nat
  | 0, lo, _ => lo
  | fuel + 1, lo, hi =>
    if hi ≤ lo + 1 then lo
    else
      let mid := (lo + hi) / 2
      if (imgBlock m mid).base ≤ v then blockSearch m v fuel mid hi else blockSearch m v fuel lo mid

/-- The block of a variable. -/
def imgBlockOf (m : Bytes) (v : Nat) : Nat := blockSearch m v 33 0 (imgBlocks m)

/-- All block entries. -/
def imgBlockList (m : Bytes) : List BlockEntry := (List.range (imgBlocks m)).map (imgBlock m)

/-- Colour of a variable (R54). -/
def imgColour (m : Bytes) (v : Nat) : Nat := leAt m (imgDirOffset m 1 + v / 2) 1 / (if v % 2 = 0 then 1 else 16) % 16

/-! ### Arrays (R58) -/

/-- Bytes of an array of `n` elements of a format, BS16 with padded mantissas and exponent bytes. -/
def arrayBytes (fmt n : Nat) : Nat :=
  if fmt = 14 then (n + 31) / 32 * 32 * 2 + (n + 31) / 32 else (n * fmtBits fmt + 7) / 8

/-- The raw element `i` of an array at an offset. -/
def arrayRaw (m : Bytes) (off fmt i : Nat) : Nat := leAt m (off + i * (fmtBits fmt / 8)) (fmtBits fmt / 8)

/-- The exponent of run `r` of a BS16 array of `n` elements. -/
def arrayExp (m : Bytes) (off n r : Nat) : Int := signedOf 8 (leAt m (off + (n + 31) / 32 * 64 + r) 1)

/-- The value of element `i` of an array of `n` elements. -/
def arrayVal (m : Bytes) (off fmt n i : Nat) : Val :=
  elemVal fmt (arrayRaw m off fmt i) (if fmt = 14 then arrayExp m off n (i / 32) else 0)

/-! ### Unary terms, precisions, schedule, initial states (R63 to R66) -/

/-- Unary elements of a block in its section. -/
def BlockEntry.unaryCount (b : BlockEntry) : Nat := b.size * b.states

/-- Elements of the bias section, and of the score section, before block `a`. -/
def biasBefore (m : Bytes) (a : Nat) : Nat :=
  ((List.range a).map fun i => let b := imgBlock m i; if b.scores then 0 else b.unaryCount).sum
def scoreBefore (m : Bytes) (a : Nat) : Nat :=
  ((List.range a).map fun i => let b := imgBlock m i; if b.scores then b.unaryCount else 0).sum

def biasElems (m : Bytes) : Nat := biasBefore m (imgBlocks m)
def scoreElems (m : Bytes) : Nat := scoreBefore m (imgBlocks m)

/-- The unary format of a block (R114); none when it has no unary term. -/
def imgUnaryFmt (m : Bytes) (b : BlockEntry) : Option Nat :=
  if b.scores then some (imgScore m) else if imgDirLength m 2 = 0 then none else some (imgBias m)

/-- b_i, b_i(k) or score_i(k): the unary value that adds to the field (R118). -/
def imgUnary (m : Bytes) (v k : Nat) : Val :=
  let a := imgBlockOf m v
  let b := imgBlock m a
  let i := (v - b.base) * b.states + k
  if b.scores then
    let x := arrayVal m (imgDirOffset m 3) (imgScore m) (scoreElems m) (scoreBefore m a + i)
    if imgScore m = 13 then x.neg else x
  else if imgDirLength m 2 = 0 then .zero
  else arrayVal m (imgDirOffset m 2) (imgBias m) (biasElems m) (biasBefore m a + i)

/-- The exponent of a variable's unary element, 0 where its format has none (R58). -/
def imgUnaryExp (m : Bytes) (v k : Nat) : Int :=
  let a := imgBlockOf m v
  let b := imgBlock m a
  let i := (v - b.base) * b.states + k
  if b.scores then (if imgScore m = 14 then arrayExp m (imgDirOffset m 3) (scoreElems m) ((scoreBefore m a + i) / 32) else 0)
  else if imgBias m = 14 then arrayExp m (imgDirOffset m 2) (biasElems m) ((biasBefore m a + i) / 32) else 0

/-- Gaussian variables before block `a`. -/
def gaussBefore (m : Bytes) (a : Nat) : Nat :=
  ((List.range a).map fun i => let b := imgBlock m i; if b.kind = 2 then b.size else 0).sum

/-- λ of a Gaussian variable, as F32 bits. -/
def imgPrecision (m : Bytes) (v : Nat) : Word :=
  let a := imgBlockOf m v
  BitVec.ofNat 32 (leAt m (imgDirOffset m 4 + 4 * (gaussBefore m a + (v - (imgBlock m a).base))) 4)

/-- Entry min(t, BETA_LEN − 1) of the schedule (R65); −0 counts as 0. -/
def imgBeta (m : Bytes) (t : Nat) : Word :=
  BitVec.ofNat 32 (plusZero f32 (leAt m (imgDirOffset m 8 + 4 * (min t (imgBetaLen m - 1))) 4))

/-- Bytes of a block's states in INIT, and of the blocks before it. -/
def BlockEntry.initBytes (b : BlockEntry) : Nat := (b.size * b.stateBits + 7) / 8
def initBefore (m : Bytes) (a : Nat) : Nat := ((List.range a).map fun i => (imgBlock m i).initBytes).sum

/-- A variable's state in an array of states block by block, at an offset (R66). -/
def blockState (m bs : Bytes) (off v : Nat) : Word :=
  let a := imgBlockOf m v
  let b := imgBlock m a
  let i := v - b.base
  let o := off + initBefore m a
  if b.kind = 0 then BitVec.ofNat 32 (leAt bs (o + i / 8) 1 / 2 ^ (i % 8) % 2)
  else if b.kind = 1 then BitVec.ofNat 32 (leAt bs (o + i) 1)
  else BitVec.ofNat 32 (leAt bs (o + 4 * i) 4)

/-- Bytes of all states of one replica, block by block. -/
def stateBytes (m : Bytes) : Nat := initBefore m (imgBlocks m)

/-- The initial state of a variable where no input gives one (R67): INIT, or the default. -/
def imgInit (m : Bytes) (v : Nat) : Word :=
  if imgDirLength m 9 = 0 then 0 else blockState m m (imgDirOffset m 9) v

/-! ### Tiles (R57, R60, R61) -/

/-- An INTER_INDEX entry. -/
structure InterEntry where
  rowBlock : Nat
  colBlock : Nat
  tileRow : Nat
  tileCol : Nat
  potts : Bool
  deriving DecidableEq, Repr

def imgInter (m : Bytes) (i : Nat) : InterEntry :=
  let o := imgDirOffset m 6 + 16 * i
  { rowBlock := leAt m o 4, colBlock := leAt m (o + 4) 4, tileRow := leAt m (o + 8) 1, tileCol := leAt m (o + 9) 1,
    potts := leAt m (o + 0xA) 1 % 2 == 1 }

/-- Elements of a tile between two blocks. -/
def tileElems (a b : BlockEntry) (potts : Bool) : Nat :=
  if a.kind = 1 && b.kind = 1 && !potts then 1024 * a.states * b.states else 1024

/-- Size of a tile body in bytes. -/
def tileBytes (m : Bytes) (a b : BlockEntry) (potts : Bool) : Nat := arrayBytes (imgCoupling m) (tileElems a b potts)

/-- The offset of intra tile (p, q) of block `a`. -/
def intraOffset (m : Bytes) (a p q : Nat) : Nat :=
  let before := ((List.range a).map fun i => let b := imgBlock m i; b.tiles * b.tiles * tileBytes m b b b.intraPotts).sum
  let b := imgBlock m a
  imgDirOffset m 5 + before + (p * b.tiles + q) * tileBytes m b b b.intraPotts

/-- The offset of the tile body of index entry `i`. -/
def interOffset (m : Bytes) (i : Nat) : Nat :=
  imgDirOffset m 7 + ((List.range i).map fun k =>
    let e := imgInter m k
    tileBytes m (imgBlock m e.rowBlock) (imgBlock m e.colBlock) e.potts).sum

/-- The exponent of the BS16 coupling whose mantissa stands at a byte of a tile of `n` elements that starts at `off` (R58). -/
def tileExp (m : Bytes) (off n byte : Nat) : Int := arrayExp m off n ((byte - off) / 64)

/-- The exponent of the BS16 coupling whose mantissa stands at a byte of the image: the tile body that holds the byte gives it, none where no
tile body does. -/
def imgCouplingExp (m : Bytes) (byte : Nat) : Option Int :=
  let within (off n : Nat) : Bool := decide (off ≤ byte) && decide (byte < off + (n + 31) / 32 * 64)
  let intra := (List.range (imgBlocks m)).findSome? fun a =>
    let b := imgBlock m a
    let n := tileElems b b b.intraPotts
    let first := intraOffset m a 0 0
    let size := tileBytes m b b b.intraPotts
    if first ≤ byte ∧ byte < first + b.tiles * b.tiles * size then
      let off := first + (byte - first) / size * size
      if within off n then some (tileExp m off n byte) else none
    else none
  intra.or ((List.range (imgInterTiles m)).findSome? fun i =>
    let e := imgInter m i
    let n := tileElems (imgBlock m e.rowBlock) (imgBlock m e.colBlock) e.potts
    if within (interOffset m i) n then some (tileExp m (interOffset m i) n byte) else none)

/-! ### Accumulation path (R114, R115) -/

/-- The path of a field, with its accumulation format. -/
inductive FieldPath where
  | int | longsum | f32 | f64
  deriving DecidableEq, Repr

/-- BF16, F32 or F64. -/
def floatFmtCode (c : Nat) : Bool := c == 9 || c == 10 || c == 11

/-- Does a stored tile in block `a`'s rows have a Gaussian column block. -/
def gaussianColumn (m : Bytes) (a : Nat) : Bool :=
  (imgBlock m a).kind == 2 || (List.range (imgInterTiles m)).any fun i =>
    let e := imgInter m i
    e.rowBlock == a && (imgBlock m e.colBlock).kind == 2

/-- The path of R114 before ACC_PATH. -/
def basePath (m : Bytes) (a : Nat) : FieldPath :=
  let b := imgBlock m a
  let c := imgCoupling m
  let u := imgUnaryFmt m b
  let ordered : FieldPath := if c = 11 then .f64 else .f32
  if b.kind = 2 || gaussianColumn m a then ordered
  else if floatFmtCode c || (u.map floatFmtCode).getD false then ordered
  else if c = 3 && (u == none || u == some 3) then .int
  else .longsum

/-- The path of block `a` under its class's ACC_PATH (R115). -/
def fieldPath (m : Bytes) (a accPath : Nat) : FieldPath :=
  match basePath m a with
  | .int => if accPath = 1 then .longsum else .int
  | p => p

def FieldPath.ordered : FieldPath → Bool
  | .f32 | .f64 => true
  | _ => false

end Sys2Proof.Machine
end

