-- ==== Sys2Proof/Machine/Program.lean ====
section
/-! DEFINITION. The program image (08 R242 to R248) and its tilings, read field by field from the image's bytes, and
what follows from them: the step loop and preemptibility (R309), regenerability (R338). -/

namespace Sys2Proof.Machine

open Sys2Proof

/-- The next 64-byte boundary at or above an offset. -/
def align64 (n : Nat) : Nat := (n + 63) / 64 * 64

/-! ### Header (R243) -/

def progSize (p : Bytes) : Nat := leAt p 0x10 8
def progFlags (p : Bytes) : Nat := leAt p 0x18 4
def progFlag (p : Bytes) (i : Nat) : Bool := bitField (progFlags p) i 1 == 1
def progSigned (p : Bytes) : Bool := progFlag p 0
def progFixed (p : Bytes) : Bool := progFlag p 1
def progExchange (p : Bytes) : Bool := progFlag p 2
def progResampling (p : Bytes) : Bool := progFlag p 3
def progArrivalFp (p : Bytes) : Bool := progFlag p 4
def progTilings (p : Bytes) : Nat := leAt p 0x1C 1
def progCoupling (p : Bytes) : Nat := leAt p 0x1D 1
def progColours (p : Bytes) : Nat := leAt p 0x1E 1
def progParams (p : Bytes) : Nat := leAt p 0x1F 1
def progVars (p : Bytes) : Nat := leAt p 0x20 8
def progBlocks (p : Bytes) : Nat := leAt p 0x28 4
def progAtomRate (p : Bytes) : Nat := leAt p 0x2C 4
def progModel (p : Bytes) : Bytes := slice p 0x30 32
def progTilingOffset (p : Bytes) (t : Nat) : Nat := leAt p (0x60 + 16 * t) 8
def progTilingLength (p : Bytes) (t : Nat) : Nat := leAt p (0x60 + 16 * t + 8) 8

/-! ### A tiling (R245) -/

/-- A tiling's header fields and where its sections start, as offsets from the start of the image. -/
structure Tiling where
  off : Nat
  numHalves : Nat
  gridGrade : Nat
  numClasses : Nat
  numTargets : Nat
  numSegments : Nat
  numAllocs : Nat
  words : Nat
  ledger : Nat
  preloadLen : Nat
  classes : Nat
  blockMap : Nat
  allocs : Nat
  targets : Nat
  segments : Nat
  slots : Nat
  preload : Nat
  deriving DecidableEq, Repr

/-- Tiling `t` of an image. -/
def progTiling (p : Bytes) (t : Nat) : Tiling :=
  let o := progTilingOffset p t
  let nc := leAt p (o + 4) 2
  let nt := leAt p (o + 6) 2
  let ns := leAt p (o + 8) 2
  let na := leAt p (o + 10) 2
  let nh := leAt p o 2
  let l := leAt p (o + 12) 2
  let classes := align64 (o + 128)
  let blockMap := align64 (classes + 16 * nc)
  let allocs := align64 (blockMap + progBlocks p)
  let targets := align64 (allocs + 16 * na)
  let segments := align64 (targets + 16 * nt)
  let slots := align64 (segments + 32 * ns)
  { off := o, numHalves := nh, gridGrade := leAt p (o + 2) 1, numClasses := nc, numTargets := nt, numSegments := ns,
    numAllocs := na, words := l, ledger := leAt p (o + 14) 2, preloadLen := leAt p (o + 0x40) 8, classes := classes,
    blockMap := blockMap, allocs := allocs, targets := targets, segments := segments, slots := slots,
    preload := align64 (slots + 528 * l * nh) }

/-- Logical positions of a grid (R245). -/
def Tiling.positions (t : Tiling) : Nat := if t.gridGrade = 0x42 then 60 else 64

/-- ADJACENCY of a logical half: seam, X-link and V-link partners (none for 0xFF), and the E-half flag. -/
def Tiling.adjacency (p : Bytes) (t : Tiling) (h : Nat) : Option Nat × Option Nat × Option Nat × Bool :=
  let partner (i : Nat) : Option Nat := let v := leAt p (t.off + 0x10 + 4 * h + i) 1; if v = 0xFF then none else some v
  (partner 0, partner 1, partner 2, leAt p (t.off + 0x10 + 4 * h + 3) 1 % 2 == 1)

/-- A class entry (R246). -/
structure ClassEntry where
  rule : Nat
  sync : Nat
  shape : Nat
  accPath : Nat
  parts : Nat
  kind : Nat
  km1 : Nat
  fullTables : Bool
  deriving DecidableEq, Repr

def Tiling.classEntry (p : Bytes) (t : Tiling) (i : Nat) : ClassEntry :=
  let b (k : Nat) := leAt p (t.classes + 16 * i + k) 1
  { rule := b 0, sync := b 1, shape := b 2, accPath := b 3, parts := b 4, kind := b 5, km1 := b 6, fullTables := b 7 % 2 == 1 }

/-- The class of a block (BLOCK_MAP). -/
def Tiling.blockClass (p : Bytes) (t : Tiling) (b : Nat) : ClassEntry := t.classEntry p (leAt p (t.blockMap + b) 1)

/-- An ALLOCS entry. -/
structure AllocEntry where
  size : Nat
  unprotectedLayout : Bool
  fixed : Bool
  placeArg : Nat
  deriving DecidableEq, Repr

def Tiling.alloc (p : Bytes) (t : Tiling) (i : Nat) : AllocEntry :=
  let o := t.allocs + 16 * i
  { size := leAt p o 8, unprotectedLayout := leAt p (o + 8) 1 == 1, fixed := leAt p (o + 9) 1 == 1, placeArg := leAt p (o + 10) 6 }

/-- A TARGETS entry. -/
structure TargetEntry where
  alloc : Nat
  format : Nat
  n : Nat
  tag : Nat
  offset : Nat
  deriving DecidableEq, Repr

def Tiling.target (p : Bytes) (t : Tiling) (i : Nat) : TargetEntry :=
  let o := t.targets + 16 * i
  { alloc := leAt p o 1, format := leAt p (o + 1) 1, n := leAt p (o + 2) 1, tag := leAt p (o + 4) 2, offset := leAt p (o + 8) 8 }

/-- A SEGMENTS entry. -/
structure SegmentEntry where
  type : Nat
  src : Nat
  alloc : Nat
  half : Nat
  port : Nat
  order : Nat
  beatBits : Nat
  sourceOffset : Nat
  beats : Nat
  issueOffset : Nat
  spacing : Nat
  deriving DecidableEq, Repr

def Tiling.segment (p : Bytes) (t : Tiling) (i : Nat) : SegmentEntry :=
  let o := t.segments + 32 * i
  { type := leAt p o 1, src := leAt p (o + 1) 1, alloc := leAt p (o + 2) 1, half := leAt p (o + 3) 1, port := leAt p (o + 4) 1,
    order := leAt p (o + 5) 1, beatBits := leAt p (o + 6) 2, sourceOffset := leAt p (o + 8) 8, beats := leAt p (o + 16) 4,
    issueOffset := leAt p (o + 20) 2, spacing := leAt p (o + 22) 2 }

/-! ### Slot images and the control slice (R218) -/

/-- The control slice of word `w` of logical half `h`. -/
def Tiling.control (p : Bytes) (t : Tiling) (h w : Nat) : Nat := leAt p (t.slots + 528 * (h * t.words + w)) 16

/-- The slice of cluster `k` of 32 of the half. -/
def Tiling.slice (p : Bytes) (t : Tiling) (h w k : Nat) : Nat := leAt p (t.slots + 528 * (h * t.words + w) + 16 + 16 * k) 16

def ctlStep (c : Nat) : Bool := bitField c 127 1 == 1
def ctlPhase (c : Nat) : Bool := bitField c 126 1 == 1
def ctlBarrier (c : Nat) : Nat := bitField c 124 2
def ctlEnd (c : Nat) : Bool := bitField c 123 1 == 1
def ctlLoopOpen (c : Nat) : Bool := bitField c 122 1 == 1
def ctlLoopLast (c : Nat) : Nat := bitField c 110 12
def ctlCountSrc (c : Nat) : Bool := bitField c 109 1 == 1
def ctlCount (c : Nat) : Nat := bitField c 85 24
def ctlTrig0 (c : Nat) : Bool := bitField c 84 1 == 1
def ctlSeg0 (c : Nat) : Nat := bitField c 72 12
def ctlColour (c : Nat) : Nat := bitField c 68 4
def ctlEpass (c : Nat) : Bool := bitField c 67 1 == 1
def ctlTrig1 (c : Nat) : Bool := bitField c 66 1 == 1
def ctlSeg1 (c : Nat) : Nat := bitField c 54 12

/-- The control slices of the tiling's words, in half 0: the sequencing fields are equal in every half (R221). -/
def Tiling.controls (p : Bytes) (t : Tiling) : List Nat := (List.range t.words).map (t.control p 0)

/-- The loops of a tiling: first word, last word, count source and count. -/
def Tiling.loops (p : Bytes) (t : Tiling) : List (Nat × Nat × Bool × Nat) :=
  ((List.range t.words).zip (t.controls p)).filterMap fun (w, c) =>
    if ctlLoopOpen c then some (w, ctlLoopLast c, ctlCountSrc c, ctlCount c) else none

/-- The step loop, first and last word, of a preemptible tiling (R309). -/
def Tiling.stepLoop? (p : Bytes) (t : Tiling) : Option (Nat × Nat) :=
  let ls := t.loops p
  match ls.filter fun l => l.2.2.1 && l.2.2.2 % 8 == 0 with
  | [(a, z, _, _)] =>
    let nested := ls.any fun l => l.1 != a && decide (l.1 ≤ a) && decide (z ≤ l.2.1)
    let last := t.control p 0 z
    let others := (List.range (z - a)).any fun i => ctlStep (t.control p 0 (a + i))
    if !nested && ctlStep last && ctlBarrier last == 3 && !others then some (a, z) else none
  | _ => none

def Tiling.preemptible (p : Bytes) (t : Tiling) : Bool := (t.stepLoop? p).isSome

/-- Regenerable (R338): preemptible, and parameter 0 read only as the step loop's count. -/
def Tiling.regenerable (p : Bytes) (t : Tiling) : Bool := t.preemptible p

/-- Does any word belong to an energy pass (EPASS, R218). -/
def Tiling.hasEpass (p : Bytes) (t : Tiling) : Bool := (t.controls p).any ctlEpass

/-! ### Preload (R245) -/

/-- A preload run: logical half, cluster, core, kind, first line or slot, and its bytes. -/
structure PreloadRun where
  half : Nat
  cluster : Nat
  core : Nat
  kind : Nat
  first : Nat
  data : Bytes
  deriving DecidableEq, Repr

/-- The runs that bytes hold, at most `fuel` of them. -/
def preloadRuns : Nat → Bytes → List PreloadRun
  | 0, _ => []
  | fuel + 1, b =>
    if b.length < 16 then []
    else
      let n := 64 * leAt b 6 2
      { half := leAt b 0 1, cluster := leAt b 1 1, core := leAt b 2 1, kind := leAt b 3 1, first := leAt b 4 2, data := slice b 16 n } ::
        preloadRuns fuel (b.drop (16 + n))

def Tiling.preloads (p : Bytes) (t : Tiling) : List PreloadRun := preloadRuns (t.preloadLen / 16) ((p.drop t.preload).take t.preloadLen)

end Sys2Proof.Machine
end

