-- ==== Sys2Proof/Machine/JobOps.lean ====
section
/-! DEFINITION. The shared operations on a job: the objects it names, its completion records, holds and demotion,
roll-back, release and restart (10, 13, 15). -/

namespace Sys2Proof.Machine

open Sys2Proof

/-! ### Objects -/

/-- The held object with a digest (R71, R405). -/
def State.object? (s : State) (digest : Bytes) : Option HeldObject := s.objects.held.find? fun o => o.digest == digest

/-- The bytes of the held object with a digest; empty where none is held. -/
def State.objectBytes (s : State) (digest : Bytes) : Bytes := ((s.object? digest).map (·.bytes)).getD []

def State.program (s : State) (j : Job) : Bytes := s.objectBytes j.body.program
def State.model (s : State) (j : Job) : Bytes := s.objectBytes j.body.model
def State.tilingOf (s : State) (j : Job) : Tiling := progTiling (s.program j) j.tiling

/-- The control slice of the word a job is at, from the control slot memory of its first half; the sequencing fields are equal in every
half (R176, R221). -/
def State.controlAt (s : State) (j : Job) : Nat := (mget 0 (s.half (j.region.getD 0 12)).controlMem (j.pc % 4096)).toNat

/-- Is the job preemptible (R309). -/
def State.preemptible (s : State) (j : Job) : Bool := (s.tilingOf j).preemptible (s.program j)

/-- What a job's records say of its program on the tilings that it may run: one flag for all of them (R309, R338). -/
def Job.withProgram (j : Job) (p : Bytes) (ts : List Tiling) : Job :=
  { j with regenerable := ts.all (·.regenerable p), nonPreemptible := !ts.all (·.preemptible p) }

/-- Bytes of per-slot β values or factors at the start of a job's input (R407). -/
def Job.betaBytes (j : Job) : Nat := if j.body.beta = 0 ∨ j.body.beta = 2 then 4 * j.body.replicas else 0

/-- β of a ladder slot at step t (R95), from the model image and the input. -/
def Job.slotBeta (j : Job) (m input : Bytes) (slot t : Nat) : Word :=
  let own := BitVec.ofNat 32 (leAt input (4 * slot) 4)
  match j.body.beta with
  | 0 => own
  | 1 => imgBeta m t
  | _ => rneF32 (Val.mul (valF32 (imgBeta m t)) (valF32 own))

/-- β of a slot at step t: as a context brought it for its step (R318), else by R95. -/
def Job.betaAt (j : Job) (m input : Bytes) (slot t : Nat) : Word :=
  match j.startBetas with
  | some (n, l) => if n = t then l.getD slot 0 else j.slotBeta m input slot t
  | none => j.slotBeta m input slot t

/-- The key of a replica's variable in a job's state table. -/
def stateKey (rep var : Nat) : Nat := rep * 2 ^ 40 + var

/-- A replica's energy as F64 (R104). -/
def Job.energyF64 (j : Job) (r : Nat) : DWord :=
  rneF64 (elemVal j.body.energyFormat ((mget 0 j.energies r).toNat % 2 ^ fmtBits j.body.energyFormat) 0)

/-- Replicas rounded up to a multiple of 32. -/
def Job.ledgerReplicas (j : Job) : Nat := (j.body.replicas + 31) / 32 * 32

/-- π(s); the identity before the first exchange. -/
def Job.pi (j : Job) (a : Nat) : Nat := j.perm.getD a a

/-- The ladder slot of a replica: its place in π (R95, R103). -/
def Job.slotOf (j : Job) (r : Nat) : Nat := if j.perm.isEmpty then r else j.perm.findIdx (· == r)

/-! ### Records (R345, R409 to R411) -/

/-- FLAGS of a job's record as they stand (R409). -/
def Job.flagWord (j : Job) (signed : Bool) : Nat :=
  bit j.syncUpdate + 2 * bit j.asymmetric + 4 * bit j.arrivalFp + 8 * bit j.retiled +
    16 * bit ((j.group.map (·.async)).getD false) + 32 * bit j.demoted + 64 * bit (j.body.flags.getLsbD 4) +
    128 * bit j.regenerable + 256 * bit signed + 512 * bit j.nonPreemptible + 1024 * bit j.sameColour +
    8192 * bit j.restarted + 16384 * bit j.copyRepaired

/-- A resampling record, 24 bytes, in a byte order: little-endian in a result image or context (R11), big-endian in a packet (R378, R411). -/
def resampleBytes (r : Resample) (enc : Nat → Nat → Bytes := leBytes) : Bytes := enc 8 r.step ++ enc 8 r.lmax.toNat ++ enc 8 r.total

/-- EXCH_ACCEPTS of an exchange job, 4 bytes for each slot pair (R411), in a byte order. -/
def Job.exchBytes (j : Job) (enc : Nat → Nat → Bytes := leBytes) : Bytes :=
  if j.body.ensemble = 1 then (List.range (j.body.replicas - 1)).flatMap fun a => enc 4 (mget 0 j.exchAccepts a) else []

/-- STEP_DIGEST: of the last committed step; a free value while there is none (log entry 6). -/
def Job.digestNow (j : Job) : DWord := if j.committed = 0 then Config.noStepDigest else j.lastStepDigest

/-- A record about a job, as everything stands (R409). -/
def State.jobRecord (s : State) (j : Job) (kind : CompKind) (status : Nat) : CompRecord :=
  { req := 0, seq := 0, jobId := j.id, kind := kind, state := j.state.code, status := BitVec.ofNat 16 status,
    flags := BitVec.ofNat 32 (j.flagWord false), detail0 := 0, detail1 := 0, step := j.committed, seed := j.seed,
    cadence := j.cadence, stepDigest := j.digestNow, counts := j.counts,
    retileStep := if j.retiled then BitVec.ofNat 64 j.retileStep else BitVec.allOnes 64,
    demoteStep := if j.demoted then BitVec.ofNat 64 j.demoteStep else BitVec.allOnes 64,
    demoteCause := if j.demoted then j.demoteCause else 0, digest := [], certificate := [],
    ext := j.exchBytes beBytes ++ j.resamples.flatMap fun r => resampleBytes r beBytes }

/-- A JOB_STATE record sent (R411). -/
def State.jobState (s : State) (j : Job) : State := s.complete j.owner (some j.sess) (s.jobRecord j .jobState 0)

/-! ### Holds and demotion (R183, R323, R324) -/

/-- A hold taken at once: a hold under way is extended to the longer (R183). -/
def Job.takeHold (j : Job) (len : Nat) : Job :=
  { j with hold := some { len := max len ((j.hold.map (·.len)).getD 0) } }

/-- Does the job run in fixed-cadence timing now (R320). -/
def Job.fixedCadence (j : Job) : Bool := j.fixedNow && !j.demoted

/-- A fixed-cadence job demoted with a cause (R324): its reserved grant becomes elastic, the step and cause are set,
event 0x0220 is logged and a JOB_STATE record sent. Any other job stands. -/
def State.demote (s : State) (slot cause : Nat) : State :=
  match s.job? slot with
  | some j =>
    if j.fixedCadence then
      let j' := { j with demoted := true, demoteStep := j.step, demoteCause := cause, fixedNow := false, reserved := false, atomRate := 0 }
      ((s.setJob slot j').log (j'.event { code := 0x0220, severity := 1, detail := BitVec.ofNat 64 cause })).jobState j'
    else s
  | none => s

/-- Added latency strikes the job that reads: a hold in elastic timing, a demotion in fixed cadence (R259). Its length, 1 to 64 cycles
by R183, is a free value (log entry 6). -/
def State.latencyHold (s : State) (job : Option (Fin 4096)) : State :=
  match job with
  | none => s
  | some slot =>
    (({ s with free := s.free + 1 } : State).demote slot.val 1).modJob slot.val fun j =>
      if j.state == .running then j.takeHold (1 + Config.waitCycles s.free % 64) else j

/-- Every job of a list of entries demoted with a cause. -/
def State.demoteAll (s : State) (slots : List Nat) (cause : Nat) : State := slots.foldl (fun t k => t.demote k cause) s

/-- The entries of resident jobs that satisfy `p`. -/
def State.residentSlots (s : State) (p : Job → Bool) : List Nat :=
  (s.jobList.filter fun e => e.2.state.resident && p e.2).map (·.1)

/-! ### Memory of a job -/

/-- Is a page read by degraded reads: its stack has failed, or is too hot to serve, and its stripe is protected (R284, R529). -/
def State.readsDegraded (s : State) (p : PageRef) : Bool := (s.stack p.stack).away && (s.frameEntry p.stack p.frame).protectedLayout

/-- Sectors of a page read for a job, `lines` line operations (R287). A degraded read of a line takes five over the memory ring, and its sectors
count as reconstructed (R284). -/
def State.countRead (s : State) (p : PageRef) (job lines sectors : Nat) : State :=
  if s.readsDegraded p then
    ((s.mates p.stack p.frame).foldl (fun t u => t.modStack u fun k => k.countOps job lines) s).modStack p.stack fun k =>
      { k with reconCount := satAdd 32 k.reconCount sectors }
  else s.modStack p.stack fun k => k.countOps job lines

/-- The sectors of a read, each named once: every line and every sector counted for the job, which meets the latency of a degraded read (R259,
R284). -/
def State.readSectors (s : State) (slot job : Nat) (xs : List (PageRef × Nat)) : State :=
  let ps := (xs.map (·.1)).eraseDups
  let s1 := ps.foldl (fun t p =>
    let mine := (xs.filter fun x => x.1 == p).map (·.2)
    t.countRead p job ((mine.map (· / 2)).eraseDups.length) mine.length) s
  if ps.any s.readsDegraded then s1.latencyHold (some (Fin.ofNat 4096 slot)) else s1

/-- The stack whose base die serves the lines of a page: its own, or, where that has failed, the one that holds the parity (R284, R285). -/
def State.servingStack (s : State) (p : PageRef) : Nat :=
  if (s.stack p.stack).failed then ((s.parityOf? p).map (·.stack)).getD p.stack else p.stack

/-- Every frame of a job freed (R278). -/
def State.freeJobMemory (s : State) (j : Job) : State :=
  s.freePages ((j.allocs.flatMap (·.pages)) ++ j.contextPages)

/-- The halves that a set of physical halves names released: their clusters keep nothing of the job (R222 gives every
register of a core its value anew at a job's start). -/
def State.clearRegion (s : State) (region : List Nat) : State :=
  { s with clusters := s.clusters.map fun e =>
      if region.contains (2 * (e.1 / 64) + (if e.1 % 8 < 4 then 0 else 1)) then
        (e.1, { e.2 with cores := [], ags := [], anchors := [], idleOffered := 0 }) else e }

/-- A member's part that starts again (R444): nothing sent, passed or counted; what it received and its neighbours stay. -/
def GroupState.fresh (g : GroupState) : GroupState :=
  { g with armed := false, late := false, started := false, passed := none, readCommitted := none, sent := [], nextIn := [] }

/-- The job's run forgotten: it starts from word 0 of step 0 when it is admitted again. Every field of the run takes
its first value; the submission, its identity and its place in the order stay. -/
def Job.fresh (j : Job) : Job :=
  { id := j.id, seq := j.seq, owner := j.owner, req := j.req, sess := j.sess, body := j.body, seed := j.seed, heldBySuspend := j.heldBySuspend,
    suspendAt := j.suspendAt, cancelPending := j.cancelPending, endAsked := j.endAsked, regenerable := j.regenerable, nonPreemptible := j.nonPreemptible, syncUpdate := j.syncUpdate, asymmetric := j.asymmetric, sameColour := j.sameColour,
    arrivalFp := j.arrivalFp, restarted := j.restarted, finalSent := j.finalSent, group := j.group.map GroupState.fresh }

/-- Outward beats of a job's steps from one on taken out of every base die's intake (R276, R451). -/
def State.dropOutward (s : State) (jobId : Nat) (from_ : Nat := 0) : State :=
  { s with tielux := s.tielux.map fun e => (e.1, { e.2 with
      intake := e.2.intake.filter fun o => o.job != jobId || decide (o.step < from_),
      waiting := e.2.waiting.filter fun o => o.job != jobId || decide (o.step < from_),
      rounds := e.2.rounds.filter fun r => r.job != jobId || (r.held.any fun h => h.2.any fun o => decide (o.step < from_)) }) }

/-- A job whose fabric state was lost (R401). Its beats are flushed from the intakes (R536). -/
def State.restartJob (s : State) (slot : Nat) : State :=
  match s.job? slot with
  | some j =>
    match j.state with
    | .admitting | .running | .preempting =>
      let j' := { j.fresh with state := .waiting, restarted := true, waitSince := s.nowNs }
      ((((s.freeJobMemory j).clearRegion j.region).dropOutward j.id).setJob slot j').jobState j'
    | .restoring =>
      let j' := { j with state := .preempted, region := [], reserved := false, fixedNow := false, restarted := true, waitedNs := 0, waitSince := s.nowNs }
      ((s.clearRegion j.region).setJob slot j').jobState j'
    | _ => s
  | none => s

def State.restartJobs (s : State) (slots : List Nat) : State := slots.foldl State.restartJob s

/-! ### Roll-back (R450, R451) -/

/-- Undo entries of steps from `committed` on, the newest first, applied to a core, and the open groups that stood at the end of the
step before (R450, R451). -/
def Core.undoTo (c : Core) (committed : Nat) (groups : List OpenGroups) : Core :=
  let go (c : Core) (e : UndoEntry) : Core :=
    match e with
    | .line st l b lo hi elo ehi =>
      if committed ≤ st then
        { c with playa := writeLine c.playa (64 * l) b,
                 playaPoison := mset false (mset false c.playaPoison (2 * l) lo) (2 * l + 1) hi,
                 playaExps := mset [] (mset [] c.playaExps (2 * l) elo) (2 * l + 1) ehi }
      else c
    | .slot st sl ws =>
      if committed ≤ st then
        { c with slots := (List.range 16).foldl (fun m w => mset {} m (16 * sl + w) (mget {} ws w)) c.slots }
      else c
  let c1 := c.undo.reverse.foldl go c
  { c1 with
    undo := c.undo.filter fun e => match e with | .line st _ _ _ _ _ _ => decide (st < committed) | .slot st _ _ => decide (st < committed),
    lanes := groups.foldl (fun m g => mmod {} m g.lane fun (l : Lane) =>
      { l with statistic := g.statistic, auxiliary := g.auxiliary }) (c1.lanes.map fun e =>
        (e.1, { e.2 with statistic := {}, auxiliary := {}, field := {}, energy := {}, rowBuf := [] })),
    groupsAtStep := c.groupsAtStep.filter fun e => decide (e.1 < committed), launch := {}, launchQ := [], fk := 0, dk := 0, spreadPart := 0, outQ := [], outIn := [], inN := [], inE := [], inS := [], inW := [], inPort := [], caravan := {},
    checkCrc := c.checkCrc.filter fun e => decide (e.1 < committed), checkLog := c.checkLog.filter fun e => decide (e.1 < committed) }

/-- The cores of a region changed by `f`. -/
def State.mapRegion (s : State) (region : List Nat) (f : Core → Core) : State :=
  { s with clusters := s.clusters.map fun e =>
      if region.contains (2 * (e.1 / 64) + (if e.1 % 8 < 4 then 0 else 1)) then
        (e.1, { e.2 with cores := e.2.cores.map fun c => (c.1, f c.2) }) else e }

/-- A member's group state after a roll-back to a point with epoch tag `e`: halos of later epochs are sent anew, halo `e` is
read anew (R426, R451). -/
def GroupState.rolledBack (g : GroupState) (e : Nat) : GroupState :=
  { g with sent := g.sent.filter fun b => decide (b.epoch ≤ e), nextIn := [],
           passed := match g.passed with | some p => if e = 0 then none else some (min p (e - 1)) | none => none }

/-- A point to roll back to: the step that is executed next, and what stood before it. -/
structure RewindPoint where
  next : Nat
  epoch : Nat
  sweeps : Nat
  states : SMap Word
  perm : List Nat
  exch : SMap Nat
  ancestors : SMap Nat
  counts : Counts
  deriving DecidableEq, Repr

/-- The last commit. -/
def Job.commitPoint (j : Job) : RewindPoint :=
  { next := j.committed, epoch := j.committedEpoch, sweeps := j.sweepsLeftAtCommit, states := j.statesAtCommit, perm := j.permAtCommit,
    exch := j.exchAtCommit, ancestors := j.ancestorsAtCommit, counts := j.countsAtCommit }

/-- The end of a step that has not committed. -/
def StepEnd.point (e : StepEnd) : RewindPoint :=
  { next := e.step + 1, epoch := e.epoch, sweeps := e.sweepsLeft, states := e.states, perm := e.perm, exch := e.exch, ancestors := e.ancestors, counts := e.counts }

/-- A job's own values at a point; issue goes on at the step loop's first word, or after the loop when no sweep is left. A preemption
asked for at the last committed step takes effect there: the failed step is executed again only after the restore (R334). -/
def Job.rewind (k : Job) (r : RewindPoint) (a z : Nat) : Job :=
  { k with
    state := if k.state = .running ∧ r.next = k.committed ∧ (k.preemptPending || k.suspendAt.any fun n => decide (n ≤ r.next)) then .preempting
      else k.state,
    step := r.next, epoch := r.epoch, sweepsLeft := r.sweeps, pc := if r.sweeps = 0 then (z + 1) % 4096 else a,
    loops := if r.sweeps = 0 then [] else [{ first := a, last := z, left := r.sweeps }], waiting := .no, hold := none, phase := 0,
    counts := r.counts, states := r.states, perm := r.perm, exchAccepts := r.exch, ancestors := r.ancestors, permStep := r.perm,
    stepEnds := k.stepEnds.filter fun e => decide (e.step < r.next), group := k.group.map fun g => g.rolledBack r.epoch,
    shadows := k.shadows.filter fun x => decide (x.step < r.next), areaWrites := k.areaWrites.filter fun w => decide (w.step < r.next),
    trees := [], ledgerLine := none, topkOffers := k.topkOffers.filter fun e => decide (e.step < r.next) && k.body.topkSource == 0,
    resamples := k.resamples.filter fun x => decide (x.step < r.next),
    energyLog := k.energyLog.filter fun e => decide (e.1 < r.next), segments := [], inFlight := [],
    checks := k.checks.filter fun c => decide (c.step < r.next) }

/-- A preemptible job taken back to a point (R451); a job that is not preemptible is released and admitted again (R401). `groups`
gives a core's open groups at the point. -/
def State.rewindTo (s : State) (slot : Nat) (r : RewindPoint) (groups : Core → List OpenGroups) : State :=
  match s.job? slot with
  | none => s
  | some j =>
    match (s.tilingOf j).stepLoop? (s.program j) with
    | none => s.restartJob slot
    | some (a, z) =>
      ((s.mapRegion j.region fun c => c.undoTo r.next (groups c)).dropOutward j.id r.next).modJob slot fun k => k.rewind r a z

/-- A job rolled back to its last committed step (R451): a fixed-cadence job is demoted with cause 5, and event 0x0513 is logged. -/
def State.rollBack (s : State) (slot : Nat) : State :=
  match s.job? slot with
  | none => s
  | some j =>
    let s1 := (s.demote slot 5).onIntegrity fun i => { i with rollbacks := satAdd 32 i.rollbacks 1 }
    (s1.log (j.event { code := 0x0513, severity := 2 })).rewindTo slot j.commitPoint (·.groupsAtCommit)

/-! ### Resets and losses of whole units (R296, R400, R401) -/

/-- A reset counted in the journal, its class kept as the last (R416). -/
def State.countReset (s : State) (c : LastReset) : State :=
  s.onJournal fun j => { j with resetCount := (j.resetCount + 1) % 2 ^ 24, lastReset := c }

/-- A half's clock and bring-up lost; whether it is usable stays (R540: it is tried again at a module warm reset). -/
def Half.stopped (h : Half) : Half := { unusable := h.unusable, failed := h.failed }

/-- A compute die restarted: its halves, spine and clusters lose their state; unit health and copies in service stay. -/
def State.restartDie (s : State) (d : Nat) : State :=
  let s1 := (s.modHalf (2 * d) Half.stopped).modHalf (2 * d + 1) Half.stopped
  let s2 := s1.modDie d fun x => { x with spineClocked := false, spineLocked := false, spineSetting := 0, stretch := 0, kakCore := none }
  { s2 with clusters := s2.clusters.map fun e =>
      if e.1 / 64 = d then
        (e.1, { e.2 with cores := [], ags := [], anchors := [], coreMap := [], mapBuilt := false, copy := none, underTest := none, idleOffered := 0,
                         slotMem := [], o0 := .free, o1 := .free }) else e }

/-- A stack whose clock runs goes into self-refresh within 1 µs of a warm reset, its contents kept (R271). -/
def Stack.rest (k : Stack) : Stack := if k.clocked then { k with selfRefresh := true, clocked := false } else k

/-- The stacks of a die put into self-refresh. -/
def State.restStacks (s : State) (d : Nat) : State := (List.range 6).foldl (fun t i => t.modStack (6 * d + i) Stack.rest) s

/-- A die reset (R400): the die restarts and the jobs with a half on it restart under R401. -/
def State.resetDie (s : State) (d : Nat) : State :=
  (((s.restartJobs (s.residentSlots fun j => j.hasDie d)).restartDie d).restStacks d).countReset .die

/-- A job as an obligation after the loss of both feeds (R296, R403): its memory, context and run are gone; what the host
submitted stays. -/
def Job.obligation (j : Job) : Job :=
  { j.fresh with state := .obligation, certificate := j.certificate, status := j.status,
                 group := j.fresh.group.map fun g => { g with rx := [] } }

/-- Every job that has not ended, and every ended one whose result is not released, becomes an OBLIGATION (R296, R403). -/
def State.loseJobs (s : State) : State :=
  s.jobList.foldl (fun t e =>
    if e.1 < 4096 then t.setJob e.1 e.2.obligation
    else match t.freeSlot? with
      | some k => (t.dropJob e.1).setJob k e.2.obligation
      | none => t.setJob e.1 e.2.obligation) s

/-! ### A region given up -/

/-- A job's halves given up: the clusters of its region forget it. -/
def State.releaseRegion (s : State) (slot : Nat) : State :=
  match s.job? slot with
  | some j => (s.clearRegion j.region).setJob slot { j with region := [], reserved := false, fixedNow := false }
  | none => s

/-! ### Checks of a command (R395, R478) -/

/-- An ACCEPT the stream still holds, sent again with REPEAT set (R395). -/
def State.repeatAccept (s : State) (x : Session) (r : CompRecord) : State :=
  (s.modStream x.fpr fun st => { st with
    records := modFirst (fun h => h.record.seq == r.seq) (fun h => { h with record := { h.record with flags := h.record.flags ||| 2048 },
                                                                            sentOn := some x.id }) st.records }).sendRecord x.id x.fpr r

/-- A COMMAND's request taken from its session's inbox: its REQUEST_ID judged against HIGH_MARK (R395), then handed on
with the session. A session that is not open has no command to give, and the state stands. -/
def State.command (s : State) (sess req : Nat) (body : State → Session → State) : State :=
  match s.openSession? sess with
  | none => s
  | some x =>
    let s1 := s.popInbox sess
    if x.role == .peer then s1
    else if req ≤ (s.stream x.fpr).highMark then
      match s.heldAccept? x.fpr req with
      | some r => s1.repeatAccept x r
      | none => s1.refuse x req 0x0105
    else body s1 x

/-- The job a command names, if the role may act on it (R478). -/
def Session.ownsJob (x : Session) (j : Job) : Bool := j.owner == x.fpr

end Sys2Proof.Machine
end

