-- ==== Sys2Proof/Machine/GroupRec.lean ====
section
/-! DEFINITION. The run record (14 R417, R418), read from its bytes, and the shared operations on a member's part in its run
group: its neighbours, its packets to them, the halo beats it sends and reads. -/

namespace Sys2Proof.Machine

open Sys2Proof

/-! ### The record -/

def grpMembers (r : Bytes) : Nat := leAt r 0x0C 2
def grpChannels (r : Bytes) : Nat := leAt r 0x0E 2
def grpId (r : Bytes) : Nat := leAt r 0x10 8
def grpAsync (r : Bytes) : Bool := leAt r 0x18 1 == 1
def grpTimeout (r : Bytes) : Nat := leAt r 0x1C 4

def grpMemberAddr (r : Bytes) (m : Nat) : Nat := leAt r (64 + 64 * m) 2
/-- A member's IPV6, read as the record's other fields are: 16 bytes, little-endian (log entry 84). -/
def grpMemberIp (r : Bytes) (m : Nat) : Nat := leAt r (64 + 64 * m + 0x10) 16
def grpMemberFpr (r : Bytes) (m : Nat) : Bytes := slice r (64 + 64 * m + 0x20) 32

/-- A channel entry. -/
structure Channel where
  src : Nat
  srcPeer : Nat
  dst : Nat
  dstPeer : Nat
  kind : Nat
  mode : Nat
  j : Nat
  n : Nat
  beats : Nat
  target : Nat
  deriving DecidableEq, Repr

def grpChannel (r : Bytes) (c : Nat) : Channel :=
  let o := 64 + 64 * grpMembers r + 16 * c
  let b (i : Nat) := leAt r (o + i) 1
  { src := b 0, srcPeer := b 1, dst := b 2, dstPeer := b 3, kind := b 4, mode := b 5, j := b 6, n := b 7,
    beats := leAt r (o + 8) 4, target := leAt r (o + 0xC) 2 }

/-- The channels with their indices. -/
def grpChannelList (r : Bytes) : List (Nat × Channel) := (List.range (grpChannels r)).map fun c => (c, grpChannel r c)

/-- No element equal to a later one under `f`. -/
def distinctBy {α : Type} (f : α → Nat × Nat) (l : List α) : Bool := (l.map f).eraseDups.length == l.length

/-- Does a channel entry keep its row of R417. Reserved fields are ignored (R13). -/
def channelOk (r : Bytes) (h : Channel) : Bool :=
  decide (h.src < grpMembers r) && decide (h.dst < grpMembers r) && h.src != h.dst && decide (h.kind ≤ 1) &&
    decide (1 ≤ h.beats ∧ h.beats ≤ 1048576) &&
    (if h.kind = 1 then h.dstPeer == 0 && decide (h.mode ≤ 1) && decide (1 ≤ h.n ∧ h.n ≤ 64) && decide (h.j < h.n) && !grpAsync r
     else h.mode == 0)

/-- Is a record valid under R417 and R418. -/
def grpValid (r : Bytes) : Bool :=
  slice r 0 8 == ascii "LYRGROUP" && leAt r 8 4 == 1 && decide (2 ≤ grpMembers r ∧ grpMembers r ≤ 256) &&
    decide (1 ≤ grpChannels r ∧ grpChannels r ≤ 4096) && grpId r != 0 && decide (leAt r 0x18 1 ≤ 1) &&
    decide (grpTimeout r ≤ 3600000) && r.length == 64 + 64 * grpMembers r + 16 * grpChannels r &&
    ((List.range (grpMembers r)).all fun m => decide (grpMemberAddr r m < 4096)) &&
    ((grpChannelList r).all fun e => channelOk r e.2) &&
    distinctBy (fun e => (e.2.src, e.2.srcPeer)) (grpChannelList r) &&
    distinctBy (fun e => (e.2.dst, e.2.dstPeer)) ((grpChannelList r).filter fun e => e.2.kind == 0)

/-- The neighbours of a member: the members it shares a channel with (R418). -/
def grpNeighbours (r : Bytes) (me : Nat) : List Nat :=
  (List.range (grpMembers r)).filter fun m => m != me && (grpChannelList r).any fun e =>
    (e.2.src == me && e.2.dst == m) || (e.2.src == m && e.2.dst == me)

/-! ### A member's channels and neighbours -/

def GroupState.inbound (g : GroupState) : List (Nat × Channel) := (grpChannelList g.record).filter fun e => e.2.dst == g.member

def GroupState.neighbour? (g : GroupState) (m : Nat) : Option Neighbour := g.neighbours.find? fun n => n.member == m

def GroupState.modNeighbour (g : GroupState) (m : Nat) (f : Neighbour → Neighbour) : GroupState :=
  { g with neighbours := modFirst (fun n => n.member == m) f g.neighbours }

/-- The job of a run group that a packet names, with its entry. -/
def State.groupJob? (s : State) (group : Nat) : Option (Nat × Job) :=
  s.jobList.find? fun e => e.2.group.any fun g => g.groupId == group

/-- A packet to a neighbour, where its session is open. -/
def State.toNeighbour (s : State) (g : GroupState) (m : Nat) (b : TxBody) : State :=
  match g.neighbour? m with
  | some n => if n.sessOpen then s.send n.sess b else s
  | none => s

/-- A packet to every neighbour whose session is open. -/
def State.toNeighbours (s : State) (g : GroupState) (b : TxBody) : State :=
  g.neighbours.foldl (fun t n => t.toNeighbour g n.member b) s

/-- A BARRIER payload of a member (R421). -/
def GroupState.barrier (g : GroupState) (op : Nat) (status : BitVec 16) (epoch : Nat) : TxBody :=
  .barrier op g.groupId g.member (if op = 3 then g.attempt else 0) status epoch

/-- A group job (R419): its program holds a SYN operation or a BARRIER 2 word. -/
def isGroupProgram (p : Bytes) (t : Tiling) : Bool :=
  (t.controls p).any (fun c => ctlBarrier c == 2) ||
    (List.range t.numHalves).any fun h => (List.range t.words).any fun w => (List.range 32).any fun k =>
      let op := bitField (t.slice p h w k) 58 6
      op == 0x22 || op == 0x23 || op == 0x24

/-! ### Halo beats (R426 to R430) -/

/-- Has a neighbour committed epoch `e`; the source of halo 0 counts as committed (R426). -/
def GroupState.committed (g : GroupState) (m e : Nat) : Bool :=
  e == 0 || (g.neighbour? m).any fun n => n.committed.any fun c => decide (e ≤ c)

/-- May halo `e` be sent on a channel (R430): COMMIT of epoch e − 1 from every inbound sender and from the receiver. -/
def GroupState.maySend (g : GroupState) (c : Channel) (e : Nat) : Bool :=
  g.async || e == 0 || ((g.inbound.map (·.2.src)).all (fun m => g.committed m (e - 1)) && g.committed c.dst (e - 1))

/-- The packet of one halo beat. -/
def GroupState.haloPacket (g : GroupState) (b : HaloBeat) : TxBody :=
  .halo g.groupId b.epoch b.channel b.attempt b.beat [b.data]

/-- The beats of a channel and epoch that are held. -/
def GroupState.beatsOf (g : GroupState) (c e : Nat) : List HaloBeat := g.rx.filter fun b => b.channel == c && b.epoch == e

/-- Is halo `e` complete on a channel. -/
def GroupState.complete (g : GroupState) (c : Nat × Channel) (e : Nat) : Bool :=
  (List.range c.2.beats).all fun i => (g.beatsOf c.1 e).any fun b => b.beat == i

/-- The epoch whose beats SYN.HIN reads on a channel (R429): the current one; in asynchronous mode the newest at or below it that
is complete and committed by its sender, or 0. -/
def GroupState.readEpoch (g : GroupState) (c : Nat × Channel) (e : Nat) : Nat :=
  if g.async then
    ((g.rx.filter fun b => b.channel == c.1 && decide (b.epoch ≤ e)).map (·.epoch)).foldl (fun best x =>
      if best ≤ x ∧ g.complete c x ∧ g.committed c.2.src x then x else best) 0
  else e

end Sys2Proof.Machine
end

