-- ==== Sys2Proof/Machine/Tables.lean ====
section
/-! DEFINITION. The four published tables of R81. Each row holds 32 entries of 36 bits, entry 0 lowest; the entries
are the formulas of R81 evaluated to 80 and more decimal digits and rounded once. -/

namespace Sys2Proof.Machine

def sigmoidRows0 : List Nat := [
   0x9E6864FE09D7665D009C83876D09B8FD04109A9B46D3099A5F1BE098AFD7B9097B8FF90096C17026095C93072094D04783093D6BC7B092DC968E091E1DD05090E6973A08FEACC9608EEE849508DF1C6C208CF49AB408BF7081208AF9168F089FACDEA088FC35EB087FD5666086FE3737085FEE041084FF596F083FFAAB3082FFDC02081FFF556080FFFEAB080000000,
   0xBA5C99590B99119320B8C429AB0B7F5CD570B72606E90B654D9320B58247280B4AE53DD0B3D902850B30256760B22A53250B150FC290B07655390AF9A622C0AEBD26FA0ADDEA7BD0ACFEE8AD0AC1DEE240AB3BBC9B0AA5858AC0A973C7100A88E0CA00A7A72E540A6BF31420A5D61AA10A4EBEFC40A400B61D0A314733D0A2272CCF0A138E89F0A049AC9009F597EA7,
   0xD0B313900D01812920CF7B8BB70CEDD7E2F0CE3DE9400CD9CCC440CCFA26AB0CC55F7FA0CBB03FCF0CB08FDDB0CA6031E90C9B5DBDD0C909FBB00C85C91770C7AD9D5E0C6FD1FAB0C64B18BF0C59789150C4E271420C42BD1F80C373AC030C2BA004D0C1FECFDA0C1421BCC0C083E5620BFC42DFA0BF02F70D0BE4042340BD7C11260BCB665B80BBEF41DF0BB26A7AF,
   0xE10FC3370E0A251990E03393870DFC386930DF5228550DEDF766C0DE6B6E7E0DDF60E390DD7F53520DD073B880DC8DC4A20DC12EC6E0DB96B0C60DB190F8E0DA9A06B40DA19942E0D997B6020D9146A3E0D88FAEFF0D809826B0D781E2B80D6F8CE280D66E430D0D5E23FC40D554C2BC0D4C5CA710D43555700D3A362570D30FEFD30D27AFCA30D1E487980D14C8F95]

def sigmoidRows1 : List Nat := [
   0xEC4C4B700EC0311C20EBB8DF480EB6DB1630EB2185720EAD458D20EA8628DE0EA36F2F10E9E6B4630E9956A8D0E94312C50E8EFAA610E89B2EB80E8459D1E0E7EEF2E90E7972D6F0E73E4A040E6E446010E6891EBC0E62CD18F0E5CF5BD10E570BAE10E510EC1A0E4AFECDC0E44DBA8A0E3EA52890E385B2400E31FD71B0E2B8BE880E25065FB0E1E6CAEC0E17BEAD4,
   0xF3AD4EFE0F37E0E7F0F34E22400F31D881B0F2EC3DE30F2BA41680F28790740F25428CD0F22008340F1EB2C660F1B5931A0F17F3A060F1481ED80F1103F3B0F0D798D50F09E294B0F063EE380F028E5390EFED0BE30EFB05FC70EF72DE760EF3485790EEF552560EEB542930EE7453AD0EE3283220EDEFCE6A0EDAC32FC0ED67AE4A0ED223DC40ECDBDED70EC948EEE,
   0xF861A47A0F843DB590F825A1730F806F53A0F7E7D51D0F7C83F820F7A832D00F787AD650F766AD9C0F74531CB0F72338430F700BF520F6DDC53F0F6BA484D0F69646BA0F671BEC00F64CAE930F62714630F600EE5C0F5DA3AA20F5B2F7580F58B229A0F562BA7F0F539BD190F51028770F4E5FAA10F4BB319A0F48FCB630F463C5F60F4371F470F409D5470F3DBE5E2,
   0xFB5308420FB4088480FB2DC0830FB1AAFE80FB0755670FAF3AFEE0FADFBE670FACB7FB70FAB6F2C30FAA216670FA8CE9800FA776AE50FA6199680FA4B73DA0FA34F9060FA1E27B40FA06FEA70F9EF7CA00F9D7A0590F9BF688B0F9A6D3E90F98DE1220F9748EE20F95ADBD00F940C68D0F9264DBA0F90B6FEF0F8F02BC30F8D47FC70F8B86A880F89BEA8F0F87EFE60]

def sigmoidRows2 : List Nat := [
   0xFD24BF4D0FD195CB90FD0DCD4C0FD0210590FCF625310FCEA0B230FCDDC17B0FCD147820FCC49C800FCB7BFB80FCAAB06D0FC9D6DDD0FC8FF7450FC824BDE0FC746AE00FC66537E0FC5804E90FC497E500FC3ABEDD0FC2BC5BA0FC1C920C0FC0D22F50FBFD77950FBED8F080FBDD68670FBCD02C80FBBC5D3E0FBAB76D90FB9A4EA50FB88E3AA0FB7734F00FB654178,
   0xFE4284580FE3B8CD10FE3479980FE2D4A400FE25FE5C0FE1E957B0FE170F2C0FE0F6AFD0FE07A8770FDFFC7250FDF7C68F0FDEFA63A0FDE765AB0FDDF04630FDD681E40FDCDDDAD0FDC517390FDBC2E030FDB321850FDA9F1360FDA09C8A0FD9722F40FD8D83E40FD83BECB0FD79D3140FD6FC02A0FD6585750FD5B225B0FD5096400FD45E0860FD3B008D0FD2FF5B1,
   0xFEF113860FEECD3E80FEE8834D0FEE421740FEDFAE180FEDB28F40FED691C00FED1E8360FECD2C0D0FEC85CFC0FEC37AB70FEBE84F30FEB97B620FEB45DB70FEAF2BA20FEA9E4D30FEA488F70FE9F17BC0FE9990CC0FE93F3D40FE8E407C0FE88766B0FE8295480FE7C9CB90FE768C600FE7063E20FE6A22DE0FE63C8F40FE5D55C30FE56C8E60FE5021FA0FE496098,
   0xFF5B68A20FF58D2CB0FF5632940FF5387D60FF50D2670FF4E121A0FF4B46C60FF48703E0FF458E560FF42A0E00FF3FA7AE0FF3CA2920FF39915C0FF3673DB0FF3349DF0FF3013370FF2CCFAF0FF297F150FF2621340FF22B5D80FF1F3CCB0FF1BB5D70FF1820C40FF147D5A0FF10CB610FF0D0A9E0FF093AD70FF055BD00FF016D4C0FEFD6F0F0FEF960D90FEF5426C]

def sigmoidRows3 : List Nat := [
   0xFF9C12540FF9A801A0FF98E78F0FF97489A0FF95A3220FF93F70C0FF92443E0FF908A9D0FF8ECA0E0FF8D02740FF8B33B50FF895DB30FF8780510FF859B710FF83AEF60FF81BAC20FF7FBEB40FF7DBAAF0FF7BAE910FF799A3C0FF777D8D0FF7558630FF732A9D0FF70F4180FF6EB4B20FF6C6C460FF6A1AB00FF67BFCD0FF655B770FF62ED870FF6075D90FF5DF444,
   0xFFC35A9E0FFC2665C0FFC16E430FFC072430FFBF724E0FFBE6E520FFBD66410FFBC5A090FFBB499B0FFBA34E40FFB91BD40FFB7FE5A0FFB6DC630FFB5B5DE0FFB48AB90FFB35AE00FFB226410FFB0ECC90FFAFAE640FFAE6AFF0FFAD22850FFABD4E30FFAA82030FFA929D00FFA7CC360FFA6691E0FFA500720FFA3921C0FFA21E060FFA0A4180FF9F243B0FF9D9E57,
   0xFFDB33F30FFDA9FB10FFDA09190FFD970230FFD8D4C60FFD836F60FFD796AB0FFD6F3DB0FFD64E7C0FFD5A6820FFD4FBE40FFD44E970FFD39E910FFD2EBC60FFD2362B0FFD17DB50FFD0C2580FFD004090FFCF42BD0FFCE7E660FFCDB6F80FFCCEC680FFCC1EA90FFCB4DAD0FFCA79690FFC9A1CE0FFC8C6CF0FFC7E85F0FFC7066F0FFC620F30FFC537DB0FFC44B19,
   0xFFE9AD300FFE953390FFE8F7D80FFE89B070FFE83CC00FFE7DCFC0FFE77BB80FFE718EB0FFE6B4900FFE64EA10FFE5E7180FFE57DED0FFE5131B0FFE4A69A0FFE438650FFE3C8730FFE356BF0FFE2E3410FFE26DF10FFE1F6C90FFE17DC10FFE102D20FFE085F30FFE0071E0FFDF86490FFDF036E0FFDE7E840FFDDF7830FFDD6E610FFDCE3180FFDC559E0FFDBC5EA]

def sigmoidRows4 : List Nat := [
   0xFFF275540FFF23EBF0FFF2074E0FFF1CEFE0FFF195CB0FFF15BB20FFF120AF0FFF0E4BD0FFF0A7DA0FFF06A020FFF02B310FFEFEB620FFEFAA920FFEF68BE0FFEF25E00FFEEE1F40FFEE9CF70FFEE56E40FFEE0FB60FFEDC76A0FFED7DFB0FFED33630FFECE79F0FFEC9AAA0FFEC4C7F0FFEBFD180FFEBAC720FFEB5A870FFEB07520FFEAB2CE0FFEA5CF50FFEA05C2,
   0xFFF7C92F0FFF7A8130FFF786720FFF764480FFF741950FFF71E570FFF6FA8A0FFF6D62D0FFF6B13D0FFF68BB90FFF6659D0FFF63EE80FFF617960FFF5EFA70FFF5C7160FFF59DE20FFF574070FFF549840FFF51E560FFF4F27A0FFF4C5ED0FFF498AC0FFF46AB50FFF43C050FFF40C990FFF3DC6D0FFF3AB800FFF379CD0FFF347520FFF3140C0FFF2DFF70FFF2AB10,
   0xFFFB04840FFFAF06E0FFFADC080FFFAC74F0FFFAB2430FFFA9CE20FFFA872A0FFFA711B0FFFA5AB40FFFA43F10FFFA2CD40FFFA15590FFF9FD7F0FFF9E5450FFF9CCAA0FFF9B3AB0FFF99A480FFF9807E0FFF9664D0FFF94BB10FFF930AB0FFF915380FFF8F9560FFF8DD030FFF8C03F0FFF8A3060FFF885580FFF867320FFF848930FFF829780FFF809E00FFF7E9C8,
   0xFFFCFA5B0FFFCEE2D0FFFCE1CD0FFFCD53B0FFFCC8770FFFCBB7F0FFFCAE530FFFCA0F10FFFC935A0FFFC858C0FFFC77870FFFC69490FFFC5AD10FFFC4C1F0FFFC3D320FFFC2E090FFFC1EA30FFFC0EFE0FFFBFF1B0FFFBEEF70FFFBDE930FFFBCDEC0FFFBBD020FFFBABD40FFFB9A610FFFB88A70FFFB76A60FFFB645D0FFFB51CA0FFFB3EEC0FFFB2BC10FFFB184A]

def sigmoidRows5 : List Nat := [
   0xFFFE2AC10FFFE235D0FFFE1BDC0FFFE143C0FFFE0C7D0FFFE04A00FFFDFCA20FFFDF4850FFFDEC470FFFDE3E70FFFDDB660FFFDD2C20FFFDC9FC0FFFDC1120FFFDB8040FFFDAED20FFFDA57B0FFFD9BFE0FFFD925B0FFFD88910FFFD7E9F0FFFD74860FFFD6A430FFFD5FD80FFFD55420FFFD4A820FFFD3F960FFFD347F0FFFD293A0FFFD1DC80FFFD12280FFFD065A,
   0xFFFEE3620FFFEDEE70FFFEDA5A0FFFED5BA0FFFED1070FFFECC420FFFEC7690FFFEC27D0FFFEBD7D0FFFEB8690FFFEB3400FFFEAE030FFFEA8B00FFFEA3480FFFE9DCB0FFFE98370FFFE928C0FFFE8CCB0FFFE86F30FFFE81020FFFE7AFB0FFFE74DA0FFFE6EA10FFFE684F0FFFE61E40FFFE5B5E0FFFE54BF0FFFE4E040FFFE472F0FFFE403E0FFFE39310FFFE3207,
   0xFFFF535F0FFFF50A70FFFF4DE40FFFF4B160FFFF483D0FFFF45580FFFF42670FFFF3F6B0FFFF3C630FFFF394E0FFFF362D0FFFF32FF0FFFF2FC50FFFF2C7E0FFFF29290FFFF25C70FFFF22570FFFF1ED90FFFF1B4E0FFFF17B40FFFF140B0FFFF10540FFFF0C8E0FFFF08B90FFFF04D40FFFF00DF0FFFEFCDB0FFFEF8C60FFFEF4A10FFFEF06B0FFFEEC240FFFEE7CC,
   0xFFFF974B0FFFF95A50FFFF93F90FFFF92450FFFF908B0FFFF8EC90FFFF8D010FFFF8B310FFFF895A0FFFF877C0FFFF85960FFFF83A90FFFF81B40FFFF7FB60FFFF7DB10FFFF7BA40FFFF798E0FFFF77700FFFF754A0FFFF731B0FFFF70E30FFFF6EA20FFFF6C580FFFF6A040FFFF67A80FFFF65410FFFF62D20FFFF60580FFFF5DD40FFFF5B470FFFF58AF0FFFF560C]

def sigmoidRows6 : List Nat := [
   0xFFFFC07E0FFFFBF7E0FFFFBE7A0FFFFBD720FFFFBC660FFFFBB550FFFFBA400FFFFB9270FFFFB8090FFFFB6E70FFFFB5C10FFFFB4950FFFFB3650FFFFB2300FFFFB0F70FFFFAFB80FFFFAE750FFFFAD2C0FFFFABDE0FFFFAA8B0FFFFA9320FFFFA7D40FFFFA6710FFFFA5080FFFFA3990FFFFA2250FFFFA0AA0FFFF9F2A0FFFF9DA30FFFF9C170FFFF9A840FFFF98EB,
   0xFFFFD97B0FFFFD8E00FFFFD8420FFFFD7A20FFFFD6FF0FFFFD65A0FFFFD5B20FFFFD5070FFFFD45A0FFFFD3AA0FFFFD2F70FFFFD2420FFFFD1890FFFFD0CE0FFFFD0100FFFFCF4F0FFFFCE8A0FFFFCDC30FFFFCCF80FFFFCC2B0FFFFCB5A0FFFFCA860FFFFC9AE0FFFFC8D30FFFFC7F40FFFFC7130FFFFC62D0FFFFC5440FFFFC4570FFFFC3670FFFFC2720FFFFC17A,
   0xFFFFE8A30FFFFE8450FFFFE7E50FFFFE7840FFFFE7210FFFFE6BD0FFFFE6570FFFFE5F00FFFFE5870FFFFE51C0FFFFE4B00FFFFE4410FFFFE3D20FFFFE3600FFFFE2ED0FFFFE2770FFFFE2000FFFFE1870FFFFE10D0FFFFE0900FFFFE0110FFFFDF900FFFFDF0E0FFFFDE890FFFFDE020FFFFDD790FFFFDCEE0FFFFDC600FFFFDBD10FFFFDB3F0FFFFDAAA0FFFFDA14,
   0xFFFFF1D40FFFFF19B0FFFFF1610FFFFF1260FFFFF0EA0FFFFF0AE0FFFFF0700FFFFF0310FFFFEFF10FFFFEFB10FFFFEF6F0FFFFEF2C0FFFFEEE80FFFFEEA30FFFFEE5D0FFFFEE160FFFFEDCE0FFFFED850FFFFED3A0FFFFECEE0FFFFECA20FFFFEC540FFFFEC040FFFFEBB40FFFFEB620FFFFEB0F0FFFFEABA0FFFFEA650FFFFEA0D0FFFFE9B50FFFFE95B0FFFFE900]

def sigmoidRows7 : List Nat := [
   0xFFFFF7680FFFFF7450FFFFF7220FFFFF6FE0FFFFF6DA0FFFFF6B50FFFFF68F0FFFFF6690FFFFF6430FFFFF61C0FFFFF5F40FFFFF5CB0FFFFF5A20FFFFF5780FFFFF54E0FFFFF5230FFFFF4F70FFFFF4CA0FFFFF49D0FFFFF46F0FFFFF4410FFFFF4110FFFFF3E10FFFFF3B00FFFFF37F0FFFFF34C0FFFFF3190FFFFF2E50FFFFF2B00FFFFF27A0FFFFF2440FFFFF20D,
   0xFFFFFAC90FFFFFAB40FFFFFA9F0FFFFFA890FFFFFA730FFFFFA5D0FFFFFA460FFFFFA2F0FFFFFA180FFFFFA000FFFFF9E80FFFFF9CF0FFFFF9B60FFFFF99D0FFFFF9830FFFFF9690FFFFF94E0FFFFF9330FFFFF9180FFFFF8FC0FFFFF8E00FFFFF8C30FFFFF8A60FFFFF8880FFFFF86A0FFFFF84C0FFFFF82D0FFFFF80D0FFFFF7ED0FFFFF7CC0FFFFF7AB0FFFFF78A,
   0xFFFFFCD70FFFFFCCA0FFFFFCBD0FFFFFCB00FFFFFCA20FFFFFC950FFFFFC870FFFFFC790FFFFFC6B0FFFFFC5C0FFFFFC4E0FFFFFC3F0FFFFFC300FFFFFC200FFFFFC110FFFFFC010FFFFFBF10FFFFFBE00FFFFFBD00FFFFFBBF0FFFFFBAE0FFFFFB9C0FFFFFB8B0FFFFFB790FFFFFB660FFFFFB540FFFFFB410FFFFFB2E0FFFFFB1A0FFFFFB070FFFFFAF30FFFFFADE,
   0xFFFFFE150FFFFFE0D0FFFFFE050FFFFFDFD0FFFFFDF50FFFFFDED0FFFFFDE50FFFFFDDC0FFFFFDD40FFFFFDCB0FFFFFDC20FFFFFDB90FFFFFDB00FFFFFDA60FFFFFD9D0FFFFFD930FFFFFD8A0FFFFFD800FFFFFD760FFFFFD6B0FFFFFD610FFFFFD560FFFFFD4C0FFFFFD410FFFFFD360FFFFFD2A0FFFFFD1F0FFFFFD130FFFFFD080FFFFFCFC0FFFFFCEF0FFFFFCE3]

/-- The rows of table S, sigmoid: rne_int(2^32 × σ(n / 64)). -/
def sigmoidRows : List Nat :=
  sigmoidRows0 ++ sigmoidRows1 ++ sigmoidRows2 ++ sigmoidRows3 ++ sigmoidRows4 ++ sigmoidRows5 ++ sigmoidRows6 ++ sigmoidRows7

def expoRows0 : List Nat := [
   0xFAAF1FCC0FADA94430FB0610430FB3193CC0FB5D1EE10FB88B1810FBB44BB00FBDFED6D0FC0B96BA0FC3747990FC63000B0FC8EC0110FCBA87AD0FCE656DF0FD122DA90FD3E0C0D0FD69F20B0FD95DFA60FDC1D4DE0FDEDD1B50FE19D62B0FE45E2430FE71F5FE0FE9E115C0FECA34600FEF65F0B0FF22915E0FF4ECB590FF7B0D000FFA756520FFD3A752100000000,
   0xF54FFBCF0F57A81E60F5A50F5D0F5CFA4340F5FA406C0F624E4080F64F8F070F67A416C0F6A4FB380F6CFBC6C0F6FA85090F72555110F7502C840F77B0B650F7A5F1B40F7D0DF730F7FBD4A30F826D1450F851D55B0F87CE0E60F8A7F3E70F8D30E5F0F8FE30500F92959BB0F9548AA20F97FC3050F9AB02E60F9D64A470FA0199280FA2CEF8B0FA584D710FA83B2DB,
   0xF00E4F3A0F037EC0D0F06190170F08B3B590F0B4EDD40F0DEA7890F108687A0F13230A80F15C00140F185D6BF0F1AFB4AB0F1D999D90F203864A0F22D79FF0F25774FA0F281773C0F2AB80C70F2D5919A0F2FFA9B90F329C9230F353EFDB0F37E1DE10F3A853370F3D28FDE0F3FCD3D80F4271F250F45171C60F47BCBBE0F4A62D0E0F4D095B60F4FB05B80F5257D15,
   0xEAE978690EB1230F70EB3AF0950EB63B7430EB8C85030EBB559D50EBDE35BB0EC0718B60EC3002C80EC58F3F10EC81EC340ECAAEB900ECD3F2080ECFCFF9C0ED26144E0ED4F301F0ED7853100EDA17D230EDCAAE580EDF3E6B20EE1D26300EE466CD60EE6FBAA20EE990F980EEC26BB80EEEBCF030EF15397B0EF3EAB210EF6823F60EF91A3FB0EFBB2B320EFE4B99C]

def expoRows1 : List Nat := [
   0xE5E0D92F0E608B25D0E63092730E65879730E680675E0E6A85C350E6D057F90E6F85AAB0E720644D0E74874DF0E7708C630E798AADB0E7C0D0470E7E8FCA80E81130000E8396A500E861AB990E889F3DD0E8B2431C0E8DA99580E902F6920E92B5ACB0E953C6050E97C38400E9A4B17F0E9CD31C10E9F5B9080EA1E47560EA46DCAC0EA6F790B0EA981C740EAC0C6E8,
   0xE0F3D6C20E11AD5590E141DAB30E168E6D00E18FF9B20E1B7135A0E1DE33C90E2055B000E22C89010E253BDCC0E27AF9640E2A23BC80E2C984FA0E2F0D4FC0E3182BCF0E33F89730E366EDEA0E38E59350E3B5CB550E3DD444C0E404C41B0E42C4AC20E453D8440E47B6CA00E4A307D90E4CAA9F00E4F252E50E51A02BB0E541B9710E569770A0E5913B860E5B906E7,
   0xDC21D9AB0DC48025A0DC6E31A60DC9467910DCBAA41C0DCE0E7470DD0731150DD2D81850DD53D89A0DD7A36540DDA09AB40DDC705BD0DDED776E0DE13EFC90DE3A6ED00DE60F4820DE8780E30DEAE13F10DED4ADB00DEFB4E200DF21F5410DF48A3160DF6F57A00DF9612DF0DFBCD4D50DFE39D820E00A6CE90E031430A0E0581FE70E07F03800E0A5EDD60E0CCDEEC,
   0xD76A4DAF0D78FA50C0D7B502E10D7DA67310D7FFD1FC0D82543440D84ABB090D870394C0D895BE100D8BB49540D8E0DB1B0D90673650D92C12330D951B7860D97763610D99D15C20D9C2CEAD0D9E88E220DA0E54220DA3420AE0DA59F3C70DA7FCD6F0DAA5ADA70DACB946F0DAF181CA0DB1775B70DB3D70390DB6371500DB8978FD0DBAF87420DBD59C200DBFBB798]

def expoRows2 : List Nat := [
   0xD2CCA1C40D2F12C4A0D315BD250D33A54580D35EF1E20D38395C50D3A840020D3CCF09A0D3F1A78E0D41664DF0D43B288F0D45FF29E0D484C30E0D4A999DF0D4CE77140D4F35AAC0D51844A90D53D350C0D5622BD70D587290A0D5AC2CA60D5D136AD0D5F6471F0D61B5DFF0D6407B4C0D6659F080D68AC9340D6AFF9D20D6D530E20D6FA6E650D71FB25D0D744FCCB,
   0xCE4847F70CE6C0A0A0CE8FD2500CEB3A0CA0CED775790CEFB505E0CF1F317B0CF4318CF0CF67065D0CF8AFA250CFAEF4280CFD2F4680CFF6FAE60D01B07A20D03F1A9E0D06333DB0D087535A0D0AB791C0D0CFA5210D0F3D76C0D1180FFE0D13C4ED60D16093F80D184DF620D1A931180D1CD89190D1F1E7660D2164C020D23AB6ED0D25F28280D2839FB40D2A81D92,
   0xC9DCB5630C9FFB34F0CA22B74C0CA45C15B0CA68D17D0CA8BE7B30CAAF03FD0CAD2265E0CAF54ED60CB187D660CB3BB2100CB5EECD40CB822DB30CBA574AE0CBC8C1C70CBEC14FF0CC0F6E560CC32CDCE0CC5633670CC799F240CC9D11040CCC089090CCE407340CD078B860CD2B16010CD4EA6A40CD723D720CD95DA6B0CDB97D900CDDD26E30CE00D6640CE248C15,
   0xC589621C0C5ABA0150C5CDE3FE0C5F02DD70C6127DA10C634D35F0C6572F100C67990B60C69BF8510C6BE65E30C6E0D96D0C70352F00C725D26D0C74857E50C76AE3580C78D74C90C7B00C370C7D2A9A50C7F54D120C817F6810C83AA5F20C85D5B660C88016DF0C8A2D85D0C8C59FE10C8E86D6C0C90B41000C92E1A9D0C950FA450C973DFF90C996CBB90C9B9BD86]

def expoRows3 : List Nat := [
   0xC14DC91F0C16F4B420C190D3340C1B260F60C1D3F4890C1F58DED0C2172D250C238D2310C25A7D120C27C2DC90C29DE4570C2BFA0BD0C2E162FC0C3032B150C324F90A0C346CCDA0C368A6880C38A86140C3AC6B7E0C3CE56CA0C3F047F60C4123F040C4343BF60C4563ECC0C47847880C49A56290C4BC6AB20C4DE85240C500A57F0C522CBC40C544F7F40C5672A11,
   0xBD2968440BD4A32970BD6B02990BD8BD84C0BDACB3AF0BDCD94C40BDEE7B8D0BE0F680A0BE305A3B0BE5152230BE724FC10BE9353180BEB45C280BED56AF10BEF67F760BF1799B60BF38B9B40BF59DF700BF7B0AEA0BF9C3C250BFBD73200BFDEAFDD0BFFFF25E0C0213AA20C04288AB0C063DC7A0C08536100C0A6956F0C0C7FA960C0E965870C10AD6420C12C4CCA,
   0xB91BC02C0B93BD69F0B95BF2A30B97C14370B99C3B5E0B9BC68170B9DC9A640B9FCD2450BA1D0FBD0BA3D52CB0BA5D9B700BA7DE9AF0BA9E3D870BABE96F90BADEF6070BAFF5AB20BB1FC4FA0BB4034E10BB60AA670BB81258D0BBA1A6550BBC22CBF0BBE2B8CD0BC034A7F0BC23E1D60BC447ED40BC6521780BC85C9C50BCA677BC0BCC72B5C0BCE7E4A80BD08A39F,
   0xB52454320B543BAA10B56326810B58297D40B5A20E9A0B5C18AD40B5E10C830B60093A80B62020450B63FB25A0B65F49E70B67EE6EF0B69E89710B6BE316F0B6DDDEEA0B6FD91E30B71D4A5B0B73D08520B75CCBCA0B77C94C30B79C633F0B7BC373E0B7DC10C20B7FBEFCB0B81BD45A0B83BBE710B85BAE100B87BA3380B89B9DEA0B8BB9E270B8DBA3F10B8FBAF47]

def expoRows4 : List Nat := [
   0xB142AA5F0B161648E0B18024110B19EE8E90B1BDB3160B1DC82990B1FB57740B21A31A60B23911320B257F6180B276E0590B295CFF60B2B4C4F00B2D3BF470B2F2BEFD0B311C4130B330CE890B34FDE610B36EF39B0B38E0E380B3AD2E3A0B3CC53A10B3EB7E6E0B40AAEA20B429E43F0B4491F440B4685FB30B487A58D0B4A6F0D30B4C641850B4E597A50B504F334,
   0xAD764B560AD945CF70ADB273CF0ADD08FDD0ADEEB1240AE0CD7A40AE2B035E0AE4934530AE676A830AE85A5F10AEA3E69B0AEC22C850AEE077AE0AEFEC8170AF1D1DC10AF3B78AD0AF59D8DD0AF783E500AF96A9090AFB519070AFD38E4C0AFF208D80B01088AD0B02F0DCC0B04D98350B06C27E90B08ABCE90B0A957360B0C7F6D20B0E69BBC0B10545F70B123F582,
   0xA9BEC24B0A9DC2EFB0A9F9A0C40AA1717A80AA3493A70AA5214C30AA6F9AFC0AA8D26530AAAAB6C90AAC84C5F0AAE5E7160AB0386EF0AB212BEB0AB3ED60A0AB5C854D0AB7A39B60AB97F3450ABB5B1FA0ABD375D80ABF13EDF0AC0F0D100AC2CE06B0AC4AB8F20AC6896A50AC8679850ACA461940ACC24ED20ACE041400ACFE38DF0AD1C35B00AD3A37B30AD583EEA,
   0xA61B9CF30A638683A0A655387E0A6720DC10A68EE8030A6ABC7460A6C8AB8A0A6E594D00A70283190A71F76660A73C6EB80A7596C0F0A7766E6C0A79375D10A7B0823F0A7CD93B50A7EAAA350A807C5C00A824E6570A8420BFA0A85F36AB0A87C666A0A8999B380A8B6D5160A8D414060A8F158070A90EA11B0A92BEF420A949427E0A9669ACF0A983F8360A9A15AB5]

def expoRows5 : List Nat := [
   0xA28C6B740A2A898C70A2C4CAFD0A2E102150A2FD3E120A3197EF40A335C4BB0A3520F690A36E5EFE0A38AB37C0A3A70CE30A3C36B340A3DFCE700A3FC36980A418A3AC0A43515AE0A4518C9E0A46E087D0A48A894D0A4A70F0D0A4C399BE0A4E029630A4FCBDFB0A51957870A535F6080A552997F0A56F41EE0A58BEF530A5A8A1B20A5C5590A0A5E2155C0A5FED6AA,
   0x9F10C05C09F2C531E09F47EAA709F6386F909F7F281409F9ACDF909FB678A909FD2282509FEDDC6E0A00995840A02553680A041161B0A05CDD9E0A078A9F20A0947B180A0B051100A0CC2BDB0A0E80B7A0A103EFEE0A11FD9380A13BC7590A157BA510A173B2210A18FAECB0A1ABB04E0A1C7B6AC0A1E3C1E60A1FFD1FC0A21BE6F00A23800C20A2541F720A2704303,
   0x9BA8308E09BC32C0F09BDE2C3D09BF9311909C143AA409C2F48DF09C4A5BCB09C65736809C808FB809C9BB0BA09CB6D67009CD200DC09CED2FFC09D0863D309D239C6109D3ED9A709D5A1BA609D75625E09D90ADD109DABFDFF09DC752EA09DE2AC9109DFE0AF509E196E1909E34D5FB09E50429E09E6BB40209E872A2709EA2A51009EBE24BB09ED9A92B09EF53261,
   0x9852533C0986CBAB90988726CA098A1976F098BC0CAA098D6867B098F104E30990B87E2099260F7A099409BAC0995B2C7709975C1DD099905BDF099AAFA7E099C59DB9099E04593099FAF20C09A15A32409A3058DD09A4B133709A65D23309A8095D209A9B5E1509AB62AFD09AD0FC8909AEBD2BC09B06AD9609B218D1709B3C714109B575A1409B72479109B8D39BA]

def expoRows6 : List Nat := [
   0x950EC1D509528987B09542739B0955C533709576374E095901FE3095AA0CF6095C3FE87095DDF497095F7EF2809611EE390962BF1CC09645F9E10966006790967A1796096942D37096AE475E096C8660B096E2893F096FCB0FB09716DD40097310E0E0974B4366097657D4A0977FBBB909799FEB5097B4463E097CE9256097E8E2FC0980338330981D91F909837F052,
   0x91DD17FB091F660E40920FAE2F09228FFDC0924255ED0925BB063092750F3D0928E727E092A7DA25092C14633092DAB6AA092F42B890930DA4D209327228609340A4A40935A2B2F09373B6270938D458B093A6D95F093C071A1093DA0E53093F3AF760940D550A09426FF1009440AD890945A60750947417D60948DD3AD094A793F9094C158BC094DB21F6094F4EFA9,
   0x8EBCF37708ED5B1AC08EEE742C08F073AF608F20060B08F38D56D08F51A91B08F6A811808F835D6308F9C3DFD08FB522E708FCE0C2208FE6F9AE08FFFEB8D09018E1BE09031DC430904ADB1D09063DE4B0907CE5D009095F1AC090AF01DF090C8166A090E12F4E090FA4C8C091136E240912C941809145BE670915EED1409178201E091915786091AA934D091C3D374,
   0x8BADF42D08BC62AA708BDE655408BF6A43508C0EE74908C272E9208C3F7A1008C57C9C408C701DB008C8875D208CA0D22E08CB932C208CD1979008CEA009808D026DDC08D1ADF5B08D33551808D4BCF1208D644D4A08D7CCFC108D95567708DADE16E08DC670A608DDF042008DF79BDD08E1037DD08E28D82008E417CA908E5A257808E72D28C08E8B83E808EA4398B]

def expoRows7 : List Nat := [
   0x88AFBC0E088C76DB7088DF237B088F6DD5B0890E9B58089265D730893E23AB08955EE030896DBC7B089858F130899D65CC089B540A8089CD1FA5089E502C6089FCEA0B08A14D57508A2CC50508A44B8BA08A5CB09608A74AC9A08A8CACC708AA4B11C08ABCB99B08AD4C64508AECD71A08B04EC1B08B1D054908B3522A408B4D442D08B6569E508B7D93CC08B95C1E4,
   0x85C1EF13085D91EC2085F05276086078A2F0861EC5EF0863605B60864D498508664915C0867BDD3C086932D26086AA811A086C1D91A086D93525086F0953E08707F9630871F619708736CDD90874E3E2B08765B28C0877D2AFF08794A783087AC281A087C3ACC3087DB3580087F2C2510880A533808821E834088398147088511E7108868BFB208880650D088980E81,
   0x82E43329082FAE3A80831198150832850720833F0CBF08355CCFD0836C912D08383594F0839A2564083B0F56D083C7C96A083DEA15C083F57D430840C5D210842340F70843A28C40845114890846804480847EF80008495EFB3084ACEB61084C3EB0C084DAEEB2084F1F6560850901F80852011990853725390854E3CD908565587A0857C781C085939BC1085AAC368,
   0x8016302F0802C6437080429C1808058D7D30806F1768080855AD90809BA226080B1ED50080C83C57080DE8F3C080F4E5FF0810B40A2081219F250813801880814E67CD08164D1F40817B3FFD08191B1EA081A827BB081BEA171081D51F0C081EBA08D0820225F408218AF430822F3C7B08245CD9B0825C62A408272FB98082899876082A03940082B6DDF6082CD8699]

/-- The rows of table E, exponential: rne_int(2^32 × 2^(−n/1024)). -/
def expoRows : List Nat :=
  expoRows0 ++ expoRows1 ++ expoRows2 ++ expoRows3 ++ expoRows4 ++ expoRows5 ++ expoRows6 ++ expoRows7

def logarRows0 : List Nat := [
   0xB03D60800AAA2C9600A506D5A009F6984A0099CAD5B00942AC83008E895B60088E68EB008342615007D9CD2B0077F5E2200724D8EF006CA3D860066F8BDE00614C3EB005B9E5A10055EF0F700503E5E2004A8C4550044D8C46003F23DAA00396D8750033B5C9E002DFCA170028420D60022860D0001CC89F9001709C470011497AD000B87C200005C4995000000000,
   0x160D060D015B600A40155EE6B501507B836014B0751E014591D6301401B0FB013AA2FDD0135299FF012FAEF56012A32FD90124B5B7E011F3723B0119B74070114360D6010EB38A001092FB590103AA8F900FE2417400F89C4C200F3132D600ED88BA900E7FCF2E00E26FD5D00DCE162A00D75198B00D1C077600CC2DFE200C69A2C200C10500D00BB6E7B900B5D69BB,
   0x20C43C5F0206FB44F0201B18E201FC66A0F01F71A7CD01F1CD21201EC7E8D701E72EC1101E1DDBB901DC8B7C501D73802B01D1E34E301CC8D5E401C73632501C1DDC9C01BC8424101B72940901B1CD1ED01AC6FBE201A7111DF01A1B13DC019C501CE0196EDBAD01918A16E018C2530A0186BF0750181579A7017BEEE97017684F3A017119B87016BAD37601663F6FB,
   0x2B2E188F02ADBEA6502A89A9EE02A375721029E4F1F6029927A660293FF068028ED53F30289AA50002847E386027F50F7C027A228DB0274F2F9A026FC23B1026A9051802655D3C5026028FB1025AF38D20255BCF22025085296024B4C3270246120CC0240D6B7C023B9A32F02365C7DC02311D97A022BDD80202269C369022159BA8021C160B60216D128902118B11A]

def logarRows1 : List Nat := [
   0x354ED8CF034FEE3F7034AEDDCC0345EC6460340E9D5F033BE630D0336E174A0331DBA0F032CD4B530327CCB0F0322C393B031DB95D00318AE0C60313A1A15030E941B60309857A0030475BCD02FF64E3302FA52ECC02F53FD9002F02BA7602EB1657702E5FFE8B02E0E85AA02DBCFACC02D6B5DE902D19AEFA02CC7EDF602C761AD402C24358F02BD23E1C02B803474,
   0x3F2A645103EDC8ACB03E8EA0D803E40A67203DF29B9203DA4803103D56544703D0817CF03CB9CAC003C6B6D1403C1CFEC303BCE7FC703B7FF01903B314FB103AE29E8903A93DC9803A4509D9039F62643039A731D0039582C79039091636038B9EEFF0386AB6CE0381B6D9C037CC13600377CA8140372D2BB1036DD9E2F0368DFF860363E4FAF035EE8EA40359EBC5B,
   0x48C45458048787A720482C90F6047E097DB047948F1D0474876B5046FC4E9B046B016CA04663CF3C0461777E8045CB10CA0457E99DB045321313044E57C6D04498D5E20444C1F6B043FF5902043B282A0043659C3E04318A5D5042CB9F600427E88D7042316233041E42B6F04196E482041498D67040FC2616040AEAE890406126B9040138E9F03FC5E63403F782D72,
   0x521FFC1A051D608390518C058605141F3FB050F7D393050ADA4470506366120501918EC04FCEBCD204F8451BB04F39D7A304EEF4E8304EA4B65504E5A0F1304E0F58B704DC4933B04D79BE9804D2EDAC904CE3E7C804C98E58E04C4DD41504C02B35604BB7834D04B6C43F104B20F53E04AD5972D04A8A29B704A3EACD7049F32085049A784BD0495BD977049101EAC]

def logarRows2 : List Nat := [
   0x5B406FB305AF84A1A05AB0166605A67D49205A1F8499059D726740598EBA1E059463F92058FDB6C9058B51FC00586C7A6F05823C6D1057DB04E00579234980574955F20570068E8056B76D750566E6393056254B3D055DC246D05592EF1C05549AB460550058E4054B6F7F10546D8867054240A40053DA7D7605390E2040534737E3052FD7F0E052B3B77E05269E12F,
   0x64288A35063E21CDB0639BA2100635519CF0630E8413062C7E0D80628130170623A71CC061F3A5F1061ACCC8106165E5780611EF0CF060D7EE8206090DE8C06049C0E606002958C05FBB5C7905F7415A705F2CC11105EE55EB105E9DEE8305E56708105E0EE4A505DC74AEA05D7FA34B05D37EDC305CF02A4B05CA858DF05C60797905C188C1405BD090AB05B888736,
   0x6CDAF30E06C96297306C51530406C0C6FC006BC77F9F06B82829D06B3D78B706AF861E606AB33E2606A6E0D7206A28CFC6069E3851C0699E2D6F06958C8BB0691356FB068CDD82A068884C4306842B340067FD0D1E067B759D60677199650672BCBC5066E5F0F1066A008E40665A139A06614110C065CE013706587E41506541B9A0064FB81D5064B53CAD0646EEA24,
   0x755A22C407516E9CD074D3A4980749053200744CF561074098B55073C614FA0738292490733F033F072FB67D7072B7C00D072740BDB072304B3E071EC7E31071A8A4B007164BEB507120CC3C070DCCD4107098C1BE07054A9B107010851206FCC53DF06F88161306F43CBA806EFF749A06EBB10E406E76A08306E32237006DED99A706DA9032506D645FE306D1FAFDD]

def logarRows3 : List Nat := [
   0x7DA8672F07D66AD0A07D24E73107CE3159F07CA1385007C5F4F4007C1D5A6B07BDB59CD07B994D6007B57352207B15110E07AD2E11F07A90A55207A4E5DA207A0C0A0A079C9AA88079873F1507944C7AF079024450078BFB4F40787D19980783A7236077F7BECA077B4FF510777233C50772F5C23076EC7865076A98888076668C8707623845E075E070080759D4F81,
   0x85C7E73A085879B3E08547440F08506E1A8084C6740608485FB2408445770008404E794083C44CDD08383A6D808342F57F0830238D0082C170C5082809D5C0823FBE90081FED45D081BDDEBF0817CDDB20813BD132080FAB93C080B995CA0807866D9080372C6507FF5E66A07FB494E407F7337CE07F31CF2507EF05AE407EAEDB0807E6D4F8B07E2BB86B07DEA15A3,
   0x8DBAA63F08D7BB8D308D3CC0AD08CFDBDC808CBEB02108C7F97B408C40747E08C01467C08BC20DA808B82CA0008B437B8008B04222508AC4BDE908A854ECB08A45D4C508A064FD5089C6BFF6089872525089477F5E08907CE9D088C812DE088884C1E088487A59088089D8B087C8B5AF08788C2C408748C4C308708BBAA086C8A775086888820086485DA7086082807,
   0x9582870509544E9890950741C5094C98FB40948BD3530944E0C9E094103B92093D2602C093947A68093568A43093188FB8092DA8AC60929C7B670925E6199092203D58091E20EA1091A3D5700916591C1091274392090E8EADE090AA87A10906C19DA0902DA18208FEF1E9808FB0911808F71F8FE08F33564608EF4A8ED08EB5F0EF08E772E4908E3860F708DF988F5]

def logarRows4 : List Nat := [
   0x9D214E6D09CE4F32909CA88E0609C6C1F0109C2FA61809BF3234609BB6968809B79FFDB09B3D5F3D09B00B4A809AC4001C09A87419309A4A790B09A0DA680099D0C9EF09993E35609956F2AF09919F7F9098DCF3300989FE45109862CB5809825A841097E87B0A097AB43AF0976E022D09730B681096F360A6096B6009B09678965A0963B21E1095FDA32D095C01A3A,
   0xA498A5E30A45D7FEF0A42250820A3E717970A3ABD52B0A370893B0A33533C50A2F9D4C50A2BE6C380A282FA1C0A2477E6C0A20BF9260A1D06A470A194D1CC0A1592FB20A11D83F50A0E1CE920A0A60F870A06A46D00A02E746A09FF2985209FB6B28409F7AC2FE09F3EC9BD09F02C6BD09EC6B9FB09E8AA37409E4E832509E12590A09DD6252009D99E76509D5D9FD5,
   0xABEA1D870ABB020C10AB761ADE0AB3C0BDC0AB01F3B80AAC7D2700AA8DA8000AA5374650AA19379D0A9DEF1A50A9A4A2790A96A4A170A92FE87C0A8F57DA50A8BB09900A8808C380A846059C0A80B75B80A7D0DC890A7963A0D0A75B8E410A720D9200A6E61AAA0A6AB52DA0A67081AD0A635A7210A5FAC3330A5BFD5DF0A584DF230A549DEFC0A50ED5660A4D3C25E,
   0xB3172E280B2DE4F1D0B2A5674F0B26C76BC0B2337D5F0B1FA7B370B1C170410B1885C7B0B14F3FE00B1161A700B0DCEC270B0A3B5020B06A74FE0B0312C190AFF7DA500AFBE7FA10AF851C080AF4BAF830AF123A0E0AED8BBA80AE9F344E0AE65A3FB0AE2C0AAF0ADF268660ADB8BD1C0AD7F08D10AD454B7F0AD0B85260ACD1B5C10AC97DD4F0AC5DFBCC0AC241135]

def logarRows5 : List Nat := [
   0xBA213B060B9E96EEC0B9B19A630B979BD690B941D7FA0B909EA140B8D1F3B40B899F4D90B861ED7E0B829DDA30B7F1C5440B7B9A45E0B7817AF00B74948F50B7110E6D0B6D8CB540B6A07FA70B6682B640B62FCE890B5F769130B5BEFAFE0B58684490B54E04F10B5157CF30B4DCEC4C0B4A452FB0B46BB0FB0B433064B0B3FA52E90B3C196D00B388D1FF0B3500472,
   0xC10993720C0D2D0190C09C049F0C06531030C02E55430BFF7715B0BFC0854A0BF89910C0BF5294A00BF1B90030BEE483330BEAD6E2D0BE7650EF0BE3F2B760BE07FDBF0BDD0C7CA0BD9989920BD6243150BD2AF4520BCF39D450BCBC3DEB0BC84D6440BC4D664B0BC15EDFF0BBDE6D5D0BBA6E4620BB6F530C0BB37B9590BB0017460BAC86CD00BA90B9F50BA58FEB2,
   0xC7D174470C79BB00A0C765E3F90C73010110C6FA344F0C6C450B20C68E65360C65871DA0C622769C0C5EC73780C5B6686D0C58055790C54A3A980C51417CA0C4DDED0A0C4A7BA580C4717FB10C43B3D120C404F2790C3CE9FE40C39845500C361E2BB0C32B78230C2F505860C2BE8AE00C28808300C2517D730C21AEAA60C1E44FC90C1ADACD70C17701CF0C1404EAE,
   0xCE7A09390CE453AFC0CE1065310CDDB87D60CDA6A2E80CD71B6670CD3CC24E0CD07C69E0CCD2C3520CC9DB8690CC68A5E10CC338BB70CBFE69E90CBC940760CB940F5B0CB5ED6950CB2996230CAF44E030CABEFE310CA89A6AC0CA5447720CA1EE0800C9E971D50C9B3FB6D0C97E7D470C948F7610C91369B70C8DDD4490C8A837130C87292140C83CE5490C80730B0]

def logarRows6 : List Nat := [
   0xD5046E130D4D08D310D49CA5050D468B58C0D434BEC40D400C0AC0D3CCBB410D398AE810D3649A6B0D3307EFB0D2FC5C300D2C832090D29400820D25FC7990D22B874E0D1F73F9C0D1C2F0840D18E9A010D15A3C130D125D6B70D0F169EB0D0BCF5AD0D08879FB0D053F6D20D01F6C310CFEADA160CFB6407D0CF819F660CF4CF6CE0CF1846B30CEE38F120CEAECFEB,
   0xDB71AFCC0DB3EB4150DB0BB1530DAD8A7840DAA596A70DA727EBA0DA3F5FBA0DA0C39A50D9D90C7A0D9A5D8370D9729CDA0D93F5A600D90C10C80D8D8C00F0D8A568350D87209360D83EA3110D80B35C40D7D7C14C0D7A445A90D770C2D70D73D38D50D709A7A10D6D60F390D6A26F9A0D66EC8C30D63B1AB20D60765650D5D3A8D90D59FE50D0D56C19FF0D53847AC,
   0xE1C2CD900E190AF3D0E15E8A1C0E12C5E2B0E0FA2B690E0C7F1D20E095B1670E0636A240E0311C080DFFEC7110DFCC6B3D0DF9A088A0DF679EF70DF352E810DF02B7270DED038E60DE9DB3BE0DE6B27AB0DE3894AC0DE05FAC00DDD359E30DDA0B2150DD6E03540DD3B4D9D0DD0890EF0DCD5CD470DCA302A40DC7031040DC3D58650DC0A78C50DBD792220DBA4A47B,
   0xE7F8B9AA0E7C771590E79622730E764CCF70E73370E30E7020E350E6D0A4EC0E69F35060E66DBE810E63C415B0E60ABD930E5D933260E5A7A2140E5760A590E5446BF50E512C6E50E4E11B280E4AF68BD0E47DAFA00E44BEFD00E41A294D0E3E85C130E3B688210E384AD750E352CC0D0E320E3E80E2EEF5030E2BCFF5E0E28B02F50E258FFC80E226F5D40E1F4E517]

def logarRows7 : List Nat := [
   0xEE145A600EDE3E10B0EDB361570ED82DB450ED524ED20ED21BBFC0ECF122C20ECC083220EC8FDD1A0EC5F30A90EC2E7DCD0EBFDC4850EBCD04CE0EB9C3EA70EB6B720E0EB3A9F020EB09C5800EAD8E5880EAA7FF170EA77122B0EA461EC40EA1524DF0E9E4247A0E9B31D940E982102B0E950FC3E0E91FE1CA0E8EEC0CE0E8BD99480E88C6B360E85B36970E829FB69,
   0xF4168ABB0F3E6D9B20F3B722810F38765240F357A19B0F327D7E40F2F807FD0F2C831E40F29855990F26873190F2388A630F2089B750F1D8A64E0F1A8AAEC0F178A94D0F148A1700F11893540F0E87EF50F0B864540F088436D0F0581C410F027EECC0EFF7BB0E0EFC781040EF9740AE0EF66FA080EF36AD130EF0659CC0EED600310EEA5A0410EE7539FA0EE44CD5A,
   0xFA001B3D0F9D12C240F9A237150F9733C0C0F9443B080F91534090F8E6270B0F8B7140F0F887FB110F858DC120F829B70E0F7FA8C050F7CB5AF60F79C23DE0F76CE6BB0F73DA38E0F70E5A530F6DF0B090F6AFB5B00F6805A440F650F8C60F62191320F5F223880F5C2AFC60F59335EB0F563B5F40F5342FE10F504A3AF0F4D5115E0F4A578EB0F475DA550F446359B,
   0xFFD1D28E0FFA39F560FF7566550FF47278B0FF18E2F50FEEA98930FEBC48630FE8DF2640FE5F96940FE3134F10FE02CD7A0FDD4602E0FDA5ED0B0FD7774100FD48F53C0FD1A708C0FCEBE5FF0FCBD55940FC8EBF4A0FC60231E0FC3181100FC02D91E0FBD42B460FBA577870FB76BDE00FB47FE4F0FB1938D20FAEA6D670FABB9C0F0FA8CC4C60FA5DE78C0FA2F045E]

/-- The rows of table T, logarithm: rne_int(2^32 × log2(1 + n/1024)). -/
def logarRows : List Nat :=
  logarRows0 ++ logarRows1 ++ logarRows2 ++ logarRows3 ++ logarRows4 ++ logarRows5 ++ logarRows6 ++ logarRows7

def invNormalRows0 : List Nat := [
   0x11FB5E700118D72900111E0300010AD00D00103A5C1000FC603E000F4FE64000ED7EFD000E5E0C0000DE224A000D64222000CE3EAE000C61636000BDC6DE000B54EA5000ACAB5C000A3DAA40009AD9E500091A64C000883CBD0007E99CC00074B9B30006A98410006030CC000557E1D0004A7A570003F1EDC0003364280002741A10001AAD650000D9BFD000000000,
   0x1D7EAA5001D2EFA5001CDEACA001C8DBDC001C3C2A2001BE9EE0001B97059001B436CC001AEF1F7001A9A194001A4455C0019EDD0400199683E00193E6BA0018E582200188BC200018312570017D5A680017793EF00171BE830016BD9B700165E51A0015FE03200159CA8300153A3890014D6ABA001471F8300140C14C0013A4F7300133C94F0012D2E2C001267D4C,
   0x266D93400262C7CC0025EB0D90025A94450025671FA0025249E10024E1BE400249E7E800245ADD7002416D970023D270D00238DA200023486B3002302CAB0022BCBEB00227645500222F5CA0021E802B0021A0358002157F2F00210F38E0020C605100207C555002032274001FE7787001F9C466001F508E8001F044E2001EB7829001E6A290001E1C3E7001DCDBFF,
   0x2DF398A002DBB685002D82FDD002D4A588002D1177C002CD85AB002C9F00C002C65692002C2B932002BF17DE002BB728B002B7C92C002B41BB4002B06A15002ACB443002A8FA2E002A53BCA002A179080029DB1D900299E62E0029615F70029241260028E67A90028A897200286A66D00282BE8C0027ED1BB0027ADFEA00276E90500272ECFB0026EEBB70026AE526]

def invNormalRows1 : List Nat := [
   0x348F63700345D4FC00342B1270033F8AB10033C61940033935C900336074A00332D60F0032FA2130032C6B4D0032931B800325F54B00322B6010031F73D00031C2EB300318E6A0003159B91003124D7E0030EFC5D0030BA8290030850D700304F65F0030198BA002FE37DE002FAD3C2002F76C5D002F401A6002F09394002ED221D002E9AD38002E634D9002E2B8F8,
   0x3A8409E003A567A4003A28CB10039FAFBE0039CD0C900399EFCE003970CC80039427B200391408A0038E57490038B6BED003887E70003858ECE003829D020037FA9080037CB2DB00379BA7600376BFD400373C2F100370C3C80036DC2530036ABE8D00367B87100364AFFA00361A5220035E97E50035B883C003587622003556191003524A840034F30F50034C14DD,
   0x3FF9F96003FCFEB2003FA5C3E003F7B835003F51297003F26B5F003EFC28B003ED1818003EA6C03003E7BE49003E50EE8003E25DDC003DFAB23003DCF6B8003DA409A003D788C5003D4CF36003D213E9003CF56DB003CC980A003C9D771003C7150E003C450DD003C18ADA003BEC302003BBF952003B92DC5003B66059003B39109003B0BFD3003ADECB1003AB17A1,
   0x450BB630044E479B0044BD28C004495C3400446E491004446BA100441F1620043F75D10043CF8ED0043A7AB400437FB23004357A3900432F7F300430744F0042DEF4B0042B68E500428E11B0042657E900423CD4F0042141490041EB3D60041C24F300419949D0041702D3004146F9100411DAD60040F449F0040CACE90040A13B20040778F700404DCB6004023EEC]

def invNormalRows2 : List Nat := [
   0x49CBB8D0049A6D0B004981D7700495CCD1004937B160049128460048ED45E0048C7F5D0048A294200487D20B0048579B700483204300480C5AF0047E69F90047C0D1F00479AF20004774FF900474EFAA004728E31004702B8B0046DC7B80046B62B500468FC8100466951B004642C7F00461C2AD0045F57A30045CEB5F0045A7DDF004580F21004559F24004532DE5,
   0x4E47770004E24861004E01869004DDE787004DBB5BA004D98301004D74F5B004D51AC6004D2E542004D0AECC004CE7765004CC3F0B004CA05BC004C7CB78004C5903C004C35409004C116DD004BED8B6004BC9993004BA5973004B81855004B5D637004B39319004B14EF8004AF09D3004ACC3AA004AA7C7A004A83443004A5EB03004A3A0B8004A155620049F08FF,
   0x5289193005267D810052468A50052252FF005203C8F0051E25520051C0D4900519F47200517DACC00515C05700513A5110051188FA0050F6C110050D4E540050B2FC400509105E00506F02200504CF0E00502AD23005008A5F004FE66C1004FC4247004FA1CF2004F7F6BF004F5CFAF004F3A7BF004F17EEF004EF553E004ED2AAA004EAFF33004E8D2D8004E6A597,
   0x569881D005678B86005658E3E00563904600561919D0055F92410055D92310055B916F005598FF8005578DCB005558AE90055387500055182FF0054F7DF70054D78350054B71BA005496A840054762940054559E700543507D0054146560053F3B700053D2FCB0053B236600539164100537085900534F9B000532EA4300530DA110052EC91B0052CB7600052AA4DD]

def invNormalRows3 : List Nat := [
   0x5A7BF3C005A5D750005A3EEC9005A205A4005A01BE30059E31840059C46870059A5AEB005986EB00059681D500594945A00592A63D00590B77E0058EC81D0058CD8190058AE77200588F62600587043500585119F005831E63005812A800057F35F50057D40C30057B4AE8005795463005775D3400575655B005736CD60057173A60056F79C80056D7F3D0056B8404,
   0x5E3880D005E1B280005DFDC68005DE05C5005DC2E95005DA56D9005D87E90005D6A5B9005D4CC54005D2F261005D117DE005CF3CCC005CD612A005CB84F8005C9A834005C7CADF005C5ECF8005C40E7E005C22F71005C04FD1005BE6F9C005BC8ED3005BAAD74005B8CB80005B6E8F5005B505D4005B3221B005B13DCA005AF58E1005AD735F005AB8D43005A9A68D,
   0x61D254A0061B6035006199AA300617D494006160E060061446FA006127F6F00610B7650060EEEDB0060D25D20060B5C4700609923C00607C7B000605FCA20060431120060264FF006009869005FECB50005FCFDB3005FB2F91005F960EB005F791C0005F5C20F005F3F1D8005F2211A005F04FD6005EE7E0A005ECABB6005EAD8DA005E90575005E73187005E55D0F,
   0x654CEA100653186B0065161C40064FAAAA0064DF31F0064C3B210064A82B100648C9CD0064710760064556AB006439C6B00641E1B800640268F0063E6AF10063CAEDE0063AF2540063935540063777DE00635B9F000633FB8B006323CAE006307D590062EBD8C0062CFD450062B3C85006297B4C00627B99800625F76A0062434C200622719E00620ADFE0061EE9E2]

def invNormalRows4 : List Nat := [
   0x68AB316006890A6300687614900685B7C7006840DDE00682638C00680B8D10067F0DAE0067D62220067BB62C0067A09CC006785D0300676AFCF00675023000673542600671A5B10066FF6D10066E47850066C97CC0066AE7A700669371500667861600665D4AA0066422D000662708700660BDD00065F0AAB0065D57160065BA31200659EE9E0065839BB006568466,
   0x6BEFAC8006BD5E6F006BBC1B7006BA24A0006B8872A006B6E954006B54B1F006B3AC8A006B20D94006B06E3E006AECE88006AD2E70006AB8DF7006A9ED1C006A84BE0006A6AA41006A50840006A365DD006A1C317006A01FED0069E7C600069CD8700069B341B006998F6200697EA450069644C3006949EDC00692F88F0069151DD0068FAAC50068E03460068C5B62,
   0x6F1C848006F03746006EEA5ED006ED143D006EB8236006E9EFD6006E85D1F006E6CA0F006E536A6006E3A2E5006E20ECB006E07A58006DEE58B006DD5065006DBBAE4006DA250A006D88ED5006D6F846006D5615C006D3CA16006D23276006D09A7A006CF0222006CD696E006CBD05E006CA36F2006C89D29006C70302006C5687F006C3CD9E006C2325F006C096C3,
   0x723399A00721B30F007202C340071EA5080071D1D8C0071B95BE0071A0D9E00718852D00716FC6B00715735600713E9EF00712603600710D62A0070F4BCC0070DC11A0070C36160070AAABD007091F120070793120070606BF007047A1700702ED1B007015FCB006FFD225006FE442B006FCB5DB006FB2736006F9983B006F808EA006F67943006F4E946006F358F2]

def invNormalRows5 : List Nat := [
   0x753690300751EC2A007506F070074EF1990074D73DF0074BF5DA0074A778A00748F8EE007477A0600745FAD2007447B5200742FB86007417B6D0073FFB070073E7A550073CF9550073B780800739F66E00738748600736F250007356FCC00733ECFA0073269DA00730E66B0072F62AE0072DDEA10072C5A460072AD59B0072950A100727CB570072645BD00724BFD3,
   0x7826DA800780F9D30077F85B80077E11570077C9CB10077B27C400779B291007783D1800776C75800775515100773DB0300772646E00770ED920076F766F0076DFF040076C87520076B0F57007699715007681E8B00766A5B8007652C9C00763B33800762398C00760BF960075F45570075DCACF0075C4FFD0075AD4E200759597D00757DDCE0075661D400754E591,
   0x7B05C0B007AEF09E007AD84F0007AC1902007AAACD1007A9405F007A7D3AC007A666B7007A4F980007A38C06007A21E4B007A0B04D0079F420D0079DD38A0079C64C50079AF5BC0079986710079816E200796A7100079536FB00793C6A200792560500790E5250078F74000078E02970078C90EA0078B1EF800789ACC2007883A4700786C78700785548200783E138,
   0x7DD4672007DBE2E4007DA7F18007D91B0F007D7B6C9007D65246007D4ED86007D38887007D2234B007D0BDD1007CF5819007CDF223007CC8BEF007CB257D007C9BECB007C857DC007C6F0AD007C58940007C42194007C2B9A9007C1517E007BFE914007BE806B007BD1782007BBAE59007BA44F0007B8DB47007B7715E007B60735007B49CCC007B33221007B1C737]

def invNormalRows6 : List Nat := [
   0x8093D3C00807E1100080684AA00805280A00803CB31008026E1F0080110D2007FFB34C007FE558C007FCF792007FB995D007FA3AEE007F8DC45007F77D62007F61E43007F4BEEA007F35F56007F1FF87007F09F7D007EF3F38007EDDEB7007EC7DFB007EB1D04007E9BBD1007E85A61007E6F8B7007E596D0007E434AC007E2D24D007E16FB1007E00CD9007DEA9C4,
   0x8344F2400832F9E900831A478008304ED10082EF8F40082DA2E00082C4C970082AF616008299F5F00828487200826F14E0082599F200824426000822EA97008219297008203A5F0081EE1F00081D89490081C306B0081AD755008197E0800818248200816CAC40081570CF0081416A100812BC3A00811619C0081006C50080EABB50080D506C0080BF4EB0080A9930,
   0x85E89780085D3AC90085BEBE80085A9CD3008594D8B00857FE1000856AE62008555E80008540E6B00852BE22008516DA6008501CF50084ECC110084D7AF90084C29AD0084AD82D00849867800848349000846E272008459021008443D9A00842EADF0084197F00084044CB0083EF1710083D9DE20083C4A1E0083AF62500839A1F6008384D9200836F8F900835A429,
   0x887F84A00886AFCC00885671D008841E3E00882D52F008818BEF00880427E0087EF8DD0087DAF0C0087C65090087B1AD600879D0720087885DC008773B1600875F01F00874A4F600873599B008720E1000870C2530086F76640086E2A430086CDDF10086B916D0086A44B700868F7CE00867AAB4008665D67008650FE800863C23700862745300861263D0085FD7F4]

def invNormalRows7 : List Nat := [
   0x8B0A699008AF63F7008AE2126008ACDE28008AB9AFC008AA57A3008A9141B008A7D065008A68C81008A5486F008A4042F008A2BFC0008A17B23008A036570089EF15D0089DAC340089C66DC0089B215600899DBA00089895BC008974FA800896096600894C2F4008937C5300892358200890EE820088FA7530088E5FF30088D18650088BD0A60088A88B7008894099,
   0x8D89E6E008D7615B008D6241C008D4E6B2008D3A91C008D26B5A008D12D6D008CFEF55008CEB110008CD72A0008CC3403008CAF53B008C9B647008C87726008C737D9008C5F860008C4B8BB008C378E9008C238EB008C0F8C0008BFB868008BE77E4008BD3733008BBF655008BAB54A008B97412008B832AE008B6F11B008B5AF5C008B46D70008B32B56008B1E90E,
   0x8FFE8FD008FEB132008FD793D008FC4120008FB08D9008F9D069008F897CF008F75F0B008F6261E008F4ED07008F3B3C7008F27A5C008F140C8008F0070A008EECD22008ED930F008EC58D3008EB1E6C008E9E3DB008E8A91F008E76E3A008E63329008E4F7EE008E3BC89008E280F9008E1453E008E00958008DECD47008DD910C008DC54A5008DB1813008D9DB56,
   0x9268EB9009255BF600924290B00922F5F900921C2BF009208F5E0091F5BD60091E28260091CF44E0091BC04E0091A8C270091957D800918236100916EEC200915B9FB00914850C009134FF5009121AB500910E54E0090FAFBE0090E7A050090D44240090C0E1B0090AD7E900909A18F009086B0C00907346000905FD8B00904C68D009038F6700902581700901209E]

/-- The rows of table H, inverse normal: rne_int(2^24 × Φ^−1(1 − 2^(−n/16 − 1))). -/
def invNormalRows : List Nat :=
  invNormalRows0 ++ invNormalRows1 ++ invNormalRows2 ++ invNormalRows3 ++ invNormalRows4 ++ invNormalRows5 ++ invNormalRows6 ++ invNormalRows7

/-- Entry `n` of a table held in rows, n below 1,024. -/
def tableEntry (rows : List Nat) (n : Nat) : Nat := (rows.getD (n / 32) 0) / 2 ^ (36 * (n % 32)) % 2 ^ 36

/-- S[n] of R81, with S[1024] = 2^32. -/
def tabS (n : Nat) : Nat := if n = 1024 then 2 ^ 32 else tableEntry sigmoidRows n

/-- E[n] of R81, with E[1024] = 2^31. -/
def tabE (n : Nat) : Nat := if n = 1024 then 2 ^ 31 else tableEntry expoRows n

/-- T[n] of R81, with T[1024] = 2^32. -/
def tabT (n : Nat) : Nat := if n = 1024 then 2 ^ 32 else tableEntry logarRows n

/-- H[n] of R81. -/
def tabH (n : Nat) : Nat := tableEntry invNormalRows n

end Sys2Proof.Machine
end

