-- ==== Sys2Proof/Machine/Decide.lean ====
section
/-! DEFINITION. The decision functions of 04: thresholds, the logarithm, the Gumbel noise, the normal variate, and
the decisions of R82 to R91 on their operands. -/

namespace Sys2Proof.Machine

open Sys2Proof

/-! ### Thresholds -/

/-- sigq of R82: P from 0 to 2^32. -/
def sigq (y : Val) : Nat :=
  let a := y.abs
  let pa :=
    if Val.le (.ofInt 16) a then 2 ^ 32
    else
      let big := (a.rneScaled 26).toNat
      if big ≥ 2 ^ 30 then 2 ^ 32
      else
        let n := big / 2 ^ 20
        let f := big % 2 ^ 20
        tabS n + rneShr ((tabS (n + 1) - tabS n) * f) 20
  if y.signBit then 2 ^ 32 - pa else pa

/-- expq of R83: Q from 0 to 2^32, for z not NaN. -/
def expq (z : Val) : Nat :=
  if Val.le z .zero then 2 ^ 32
  else if Val.le (.ofInt 32) z then 0
  else
    let bigZ := (z.rneScaled 20).toNat
    let w := rneShr (bigZ * 1512775) 20
    let k := w / 2 ^ 20
    let n := w / 2 ^ 10 % 1024
    let f := w % 1024
    let v := tabE n - rneShr ((tabE n - tabE (n + 1)) * f) 10
    rneShr v k

/-- lg2_32 of R86: log2 M in units of 2^−32, for 1 ≤ M ≤ 2^63. -/
def lg2x32 (m : Nat) : Nat :=
  let p0 := Nat.log2 m
  let f0 := if p0 ≤ 32 then (m - 2 ^ p0) * 2 ^ (32 - p0) else rneShr (m - 2 ^ p0) (p0 - 32)
  let p := if f0 = 2 ^ 32 then p0 + 1 else p0
  let big := if f0 = 2 ^ 32 then 0 else f0
  let n := big / 2 ^ 22
  let f := big % 2 ^ 22
  p * 2 ^ 32 + (tabT n + rneShr ((tabT (n + 1) - tabT n) * f) 22)

/-- The Gumbel noise g(U) of R87, in units of 2^−32. -/
def gumbelNoise (u : Word) : Int :=
  let a0 := 33 * 2 ^ 32 - lg2x32 (2 * u.toNat + 1)
  let a := if a0 = 0 then 1 else a0
  let g : Int := (32 * 2 ^ 32 : Int) - lg2x32 a
  rneShrInt (g * 2977044472) 32

/-- The standard normal variate of R89. -/
def gaussZ (u0 u1 : Word) : Val :=
  let v := u0.toNat % 2 ^ 31 * 2 ^ 32 + u1.toNat
  let m := 2 ^ 63 - v
  let w := 63 * 2 ^ 32 - lg2x32 m
  let n := w / 2 ^ 28
  let f := w % 2 ^ 28
  let z := tabH n + rneShr ((tabH (n + 1) - tabH n) * f) 28
  let r := valF32 (rneF32 (.fin false z (-24)))
  if u0.toNat ≥ 2 ^ 31 ∧ z ≠ 0 then r.neg else r

/-! ### Decisions -/

/-- What a decision answers: a new state, or the previous one kept because the decision is non-finite (R78) or
because a Gaussian conditional is degenerate (R91). -/
inductive Decision where
  | set (state : Word)
  | nonFinite
  | degenerate
  deriving DecidableEq, Repr

/-- x = rne_f32(β × h) of R82 and R84, as a value. -/
def betaTimes (beta h : Word) : Val := valF32 (rneF32 (Val.mul (valF32 beta) (valF32 h)))

/-- The binary heat bath (R82): the state word is 1 for spin +1 and 0 for spin −1. -/
def binaryHeatBath (beta h u : Word) : Decision :=
  let x := betaTimes beta h
  if x.isNan then .nonFinite
  else
    let y := valF32 (rneF32 (Val.mul (.ofInt 2) x))
    .set (if u.toNat < sigq y then 1 else 0)

/-- The binary Metropolis decision (R84) on the current state word. -/
def binaryMetropolis (beta h u state : Word) : Decision :=
  let x := betaTimes beta h
  if x.isNan then .nonFinite
  else
    let spin : Int := if state.toNat % 2 = 1 then 1 else -1
    let z := valF32 (rneF32 (Val.mul (.ofInt (2 * spin)) x))
    .set (if u.toNat < expq z then BitVec.ofNat 32 (1 - state.toNat % 2) else BitVec.ofNat 32 (state.toNat % 2))

/-- The proposal k' of R85. -/
def catProposal (k u0 K : Nat) : Nat := (k + 1 + u0 * (K - 1) / 2 ^ 32) % K

/-- The categorical Metropolis decision (R85): the scores of the current state and of the proposal. -/
def catMetropolis (beta scoreK scoreP u1 : Word) (k prop : Nat) : Decision :=
  let d := valF32 (rneF32 (Val.sub (valF32 scoreK) (valF32 scoreP)))
  let z := valF32 (rneF32 (Val.mul (valF32 beta) d))
  if d.isNan || z.isNan then .nonFinite
  else .set (BitVec.ofNat 32 (if u1.toNat < expq z then prop else k))

/-- x_k and key_k of R88: none when x_k is NaN. -/
def gumbelKey (beta score u : Word) : Option Word :=
  let x := betaTimes beta score
  if x.isNan then none
  else some (rneF32 (Val.add x (.ofScaled (gumbelNoise u) (-32))))

/-- x / y rounded to F32, with IEEE 754's answers for zeros and infinities (R79). -/
def divF32 (x y : Val) : Word :=
  match x, y with
  | .fin a m e, .fin b k f =>
    if k = 0 then BitVec.ofNat 32 (if m = 0 then f32.nanCode else f32.signed (a != b) 0x7F800000)
    else BitVec.ofNat 32 (f32.roundRat (a != b) m k (e - f))
  | .fin a _ _, .inf b => BitVec.ofNat 32 (f32.signed (a != b) 0)
  | .inf a, .fin b _ _ => BitVec.ofNat 32 (f32.signed (a != b) 0x7F800000)
  | _, _ => BitVec.ofNat 32 f32.nanCode

/-- rne_f32(1 / √p) for a positive finite p = m × 2^e: the candidate with 24 bits and its error are compared by
exact squares. -/
def rsqrtF32 (p : Val) : Word :=
  match p with
  | .fin _ m e =>
    if m = 0 then BitVec.ofNat 32 0x7F800000
    else
      -- 1/√p = √(2^(−e) / m); with s even, 2^(s/2) / √p = √(2^(s−e) / m), of at least 40 bits for every F32
      let s : Int := 2 * ((e + 400) / 2)
      let n := 2 ^ (s - e).toNat
      let root := Nat.sqrt (n / m)
      -- a sticky unit in the last place where the root is not exact keeps the rounding exact
      let exact := root * root * m == n
      BitVec.ofNat 32 (f32.roundRat false (2 * root + (if exact then 0 else 1)) 1 (-1 - s / 2))
  | .inf _ => 0
  | .nan => BitVec.ofNat 32 f32.nanCode

/-- The Gaussian decision (R89 to R91) with field m and precision λ; with p = +∞ the new state is μ itself. -/
def gaussianDecision (beta m lam u0 u1 : Word) : Decision :=
  let mv := valF32 m
  if mv.isNan then .nonFinite
  else
    let mu := valF32 (divF32 mv (valF32 lam))
    let p := valF32 (rneF32 (Val.mul (valF32 beta) (valF32 lam)))
    if p.isZero then .degenerate
    else if p = .inf false then (if mu.isFinite then .set (divF32 mv (valF32 lam)) else .nonFinite)
    else
      let r := valF32 (rsqrtF32 p)
      let x := rneF32 (Val.add mu (Val.mul r (gaussZ u0 u1)))
      if finiteF32 x then .set x else .nonFinite

end Sys2Proof.Machine
end

