-- ==== Sys2Proof/Machine/Arbiter.lean ====
section
/-! DEFINITION. The power arbiter's arithmetic (R301 to R305, R521, R525): grants, the effective budget, and the
lowering and raising of elastic settings. -/

namespace Sys2Proof.Machine

open Sys2Proof

/-- Watts of one die half at setting n (R301). -/
def halfWatts (n : Nat) : Nat := 78 + 10 * n

/-- The standing items of R301. -/
def standingWatts : Nat := 704

/-- A resident job's grant in watts: the higher of the setting it runs at and the one it is being raised to (R303). -/
def Job.grant (j : Job) : Nat := if j.state.resident then j.region.length * halfWatts (max j.setting j.targetSetting) else 0

/-- The grant a job will hold when its lowering has taken effect. -/
def Job.targetGrant (j : Job) : Nat := if j.state.resident then j.region.length * halfWatts j.targetSetting else 0

/-- Standing items plus all grants (GRANTED_W). -/
def State.grantedWatts (s : State) : Nat := standingWatts + (s.jobList.map fun e => e.2.grant).sum

def State.targetWatts (s : State) : Nat := standingWatts + (s.jobList.map fun e => e.2.targetGrant).sum

/-- The single-feed limit (R525): 0.97 × 80 A × the remaining feed's voltage. -/
def State.singleFeedLimit (s : State) : Nat :=
  let mv := if s.power.aPresent then s.power.aMv else s.power.bMv
  97 * 80 * mv / 100000

/-- The effective budget (R521). -/
def State.effectiveBudget (s : State) : Nat :=
  if s.power.singleFeed then min s.journal.settings.budget s.singleFeedLimit else s.journal.settings.budget

/-- Is `a` before `b` in the order of lowering (R303): lowest priority first, then latest admitted. -/
def lowersBefore (a b : Job) : Bool :=
  decide (a.body.priority < b.body.priority) || (a.body.priority == b.body.priority && decide (b.admission < a.admission))

/-- The resident elastic jobs, in the order of lowering. -/
def State.elasticOrder (s : State) : List (Nat × Job) :=
  sortBy (fun a b => lowersBefore a.2 b.2) (s.jobList.filter fun e => e.2.state.resident && !e.2.reserved)

/-- One job's target setting lowered by whole settings, down to 9 at the least, until `excess` watts are freed. The
second part is the excess left. -/
def lowerOne (j : Job) (excess : Nat) : Job × Nat :=
  let per := 10 * j.region.length
  let want := if per = 0 then 0 else (excess + per - 1) / per
  let can := j.targetSetting - 9
  let k := min want can
  ({ j with targetSetting := j.targetSetting - k }, excess - k * per)

/-- Elastic jobs lowered in order until `excess` watts are freed or none can be lowered further (R303). -/
def lowerList : List (Nat × Job) → Nat → State → State
  | [], _, s => s
  | e :: l, excess, s =>
    if excess = 0 then s
    else
      let r := lowerOne e.2 excess
      lowerList l r.2 (s.setJob e.1 r.1)

/-- Settings lowered until what is granted fits the effective budget (R525). -/
def State.rebudget (s : State) : State := lowerList s.elasticOrder (s.targetWatts - s.effectiveBudget) s

/-- Settings of elastic jobs of priority below `p` lowered for a grant of `need` watts (R303). -/
def State.lowerFor (s : State) (p need : Nat) : State :=
  lowerList (s.elasticOrder.filter fun e => decide (e.2.body.priority < p)) (s.targetWatts + need - s.effectiveBudget) s

/-- The watts that lowering every elastic job of priority below `p` to 9 would free. -/
def State.lowerable (s : State) (p : Nat) : Nat :=
  ((s.elasticOrder.filter fun e => decide (e.2.body.priority < p)).map fun e =>
    10 * e.2.region.length * (e.2.targetSetting - 9)).sum

/-- Is a lowering still pending (R303). -/
def State.loweringPending (s : State) : Bool := s.jobList.any fun e => e.2.loweringFor.isSome

/-- Is the arbiter free to raise this job: a hot die keeps the settings of its jobs down (R529). -/
def State.mayRaise (s : State) (j : Job) : Bool := j.region.all fun h => (s.die (h / 2)).thermal == .normal

/-- Elastic jobs raised toward their CLOCK while `free` watts last (R303). -/
def raiseList : List (Nat × Job) → Nat → State → State
  | [], _, s => s
  | e :: l, free, s =>
    let per := 10 * e.2.region.length
    let k := if per = 0 || !s.mayRaise e.2 then 0 else min (free / per) (e.2.body.clock - e.2.targetSetting)
    raiseList l (free - k * per) (s.setJob e.1 { e.2 with targetSetting := e.2.targetSetting + k })

/-- What happens when budget frees and no lowering is pending: highest priority first, then earliest admitted. -/
def State.raiseFree (s : State) : State :=
  if s.loweringPending then s
  else raiseList s.elasticOrder.reverse (s.effectiveBudget - s.grantedWatts) s

/-- Does a job wait that the job engine is to consider before anything else takes what has freed (R306). -/
def State.jobsWait (s : State) : Bool :=
  s.jobList.any fun e => (e.2.state == .waiting || e.2.state == .preempted) && !e.2.heldBySuspend

/-- What frees goes to the waiting jobs first, in the pass that considers them (R306): elastic settings rise at once only where none waits. -/
def State.raiseSettings (s : State) : State := if s.jobsWait then s else s.raiseFree

/-- Watts in reserved and in elastic grants (R327). -/
def State.reservedWatts (s : State) : Nat := ((s.jobList.filter fun e => e.2.reserved).map fun e => e.2.grant).sum
def State.elasticWatts (s : State) : Nat := ((s.jobList.filter fun e => !e.2.reserved).map fun e => e.2.grant).sum

end Sys2Proof.Machine
end

