-- ==== Sys2Proof/Machine/CoreMap.lean ====
section
/-! DEFINITION. The core map of a cluster (07 R204 to R208): how it is built, and how a position moves to another core. -/

namespace Sys2Proof.Machine

open Sys2Proof

/-- The cluster reference with a key. -/
def clusterOf (k : Nat) : ClusterRef := { die := Fin.ofNat 6 (k / 64), num := Fin.ofNat 64 k }

def physOf (k n : Nat) : PhysCore := { cl := clusterOf k, num := Fin.ofNat 66 n }

/-- Is a physical core retired. -/
def State.coreRetired (s : State) (k n : Nat) : Bool := s.journal.retired.contains (.core (physOf k n))

/-- The good physical cores of a cluster: good at shipment, not retired, and not failed by a test (R4, R205, R543). -/
def State.goodCores (s : State) (k : Nat) : List Nat :=
  (List.range 66).filter fun n => s.goodCore k n && !s.coreRetired k n && mget .good (s.cluster k).health n != .notGood

/-- A map of `positions` logical positions: each takes its own core where that is good, the others the good cores left, in ascending
order (DESIGN CHOICE, log entry 95). The positions above have VALID 0. -/
def mapOf (good : List Nat) (positions : Nat) : List (Option Nat) :=
  let own := (List.range positions).filter good.contains
  let rest := good.filter fun n => !own.contains n
  let missing := (List.range positions).filter fun p => !good.contains p
  (List.range 64).map fun p =>
    if positions ≤ p then none
    else if good.contains p then some p
    else rest[missing.findIdx (· == p)]?

/-- Positions that the good cores of a cluster can serve (R2, R465): 64 on a grade-A part with 64 good cores, else 60, else none. -/
def State.mapPositions (s : State) (good : List Nat) : Nat :=
  if s.grade = 0x41 ∧ 64 ≤ good.length then 64 else if 60 ≤ good.length then 60 else 0

/-- The state of a spare under a map. -/
def spareOf (good : List Nat) (m : List (Option Nat)) (n : Nat) : SpareState :=
  if m.contains (some n) then .holding else if good.contains n then .free else .retired

/-- A cluster's map built anew (R205). -/
def State.buildMap (s : State) (k : Nat) : State :=
  let good := s.goodCores k
  let m := mapOf good (s.mapPositions good)
  s.modCluster k fun c => { c with coreMap := m, mapBuilt := true, copy := none, o0 := spareOf good m 64, o1 := spareOf good m 65,
                                   degraded := s.mapPositions good < 64 }

/-- A free spare of a cluster: O0 before O1 (DESIGN CHOICE, log entry 95: R206 says a free spare). -/
def Cluster.freeSpare? (c : Cluster) : Option Nat :=
  if c.o0 == .free then some 64 else if c.o1 == .free then some 65 else none

def Cluster.setSpare (c : Cluster) (n : Nat) (v : SpareState) : Cluster :=
  if n = 64 then { c with o0 := v } else if n = 65 then { c with o1 := v } else c

/-- The state a core is left in when its position has moved away. -/
def leftState (why : CopyWhy) : SpareState :=
  match why with
  | .bist => .underBist
  | .retire => .retired
  | .back => .free

/-- The switch of a position to the core that took its copy (R206): the core's contents go with it. -/
def Cluster.switch (c : Cluster) (q : CoreCopy) : Cluster :=
  let c1 : Cluster :=
    { c with coreMap := c.coreMap.set q.pos (some q.dest), cores := merase (mset {} c.cores q.dest (mget {} c.cores q.source)) q.source,
             swapCount := satAdd 32 c.swapCount 1, copy := none,
             underTest := match q.why with | .bist => some q | .back => none | .retire => c.underTest }
  (c1.setSpare q.dest .holding).setSpare q.source (leftState q.why)

/-- Copies that are complete switch at a STEP mark of the job that holds the half (R206, CORE_MAP_SWITCH). -/
def State.switchCopies (s : State) (region : List Nat) : State :=
  { s with clusters := s.clusters.map fun e =>
      if region.contains (clusterOf e.1).half then
        match e.2.copy with
        | some q => if q.done then (e.1, e.2.switch q) else e
        | none => e
      else e }

/-- A copy begun of a position's core to a free spare (R206, R465). -/
def State.startCopy (s : State) (k n : Nat) (why : CopyWhy) : State :=
  let c := s.cluster k
  match c.freeSpare?, c.coreMap.findIdx? (· == some n), c.copy with
  | some d, some p, none => s.modCluster k fun c => { c with copy := some { pos := p, source := n, dest := d, why := why } }
  | _, _, _ => s

/-! ### Confirmed faults (R464, R465) -/

/-- A retired core leaves service: its position moves to a free spare at the next STEP mark; with no free spare, a preemptible job is
asked to stop at its next preemption point, and the core stays under observation until then. -/
def State.retireCore (s : State) (p : PhysCore) : State :=
  match s.halfJob? p.cl.half with
  | none => s
  | some (slot, j) =>
    let k := p.cl.key
    if ((s.cluster k).freeSpare?).isSome && (s.cluster k).copy.isNone then
      (s.startCopy k p.num.val .retire).modCluster k fun c => { c with copy := c.copy.map fun q => { q with done := true } }
    else if s.preemptible j then s.setJob slot { j with preemptPending := true }
    else s.observe (.core p)

/-- One confirmed fault charged to a unit, and what its retirement brings for a core. -/
def State.chargeUnit (s : State) (u : UnitRef) : State :=
  let s1 := s.charge u
  match u with
  | .core p => if !s.journal.retired.contains u && s1.journal.retired.contains u then s1.retireCore p else s1
  | _ => s1

end Sys2Proof.Machine
end

