-- ==== Sys2Proof/Machine/JobMem.lean ====
section
/-! DEFINITION. A job's memory: where its allocations lie (09 R254, R273, R281), the newest value of a line and its shadows
(R276). -/

namespace Sys2Proof.Machine

open Sys2Proof

/-- The granule of a fixed allocation (R279). -/
def Allocation.granule (a : Allocation) : Nat := 64 * 2 ^ bitField a.placeArg 18 4

/-- Bytes of whole pages that hold `n` bytes. -/
def pagesOf (n : Nat) : Nat := (n + pageBytes - 1) / pageBytes

/-- Pages of stack `i`'s share of a fixed allocation over `n` stacks, in granules of `g` bytes (R279, R281): its granules of the whole rounds,
and what is left of the last one. -/
def sharePages (size g n i : Nat) : Nat :=
  let all := pagesOf size * pageBytes
  if n = 0 then 0 else pagesOf (all / (g * n) * g + min g (all % (g * n) - i * g))

/-- The page and the offset in it of a byte of an allocation (R281 for a fixed one). -/
def Allocation.locate (a : Allocation) (o : Nat) : Option (PageRef × Nat) :=
  if a.fixed then
    let g := a.granule
    let i := o / g % a.named
    let share := o / (g * a.named) * g + o % g
    (a.pages[((List.range i).map (sharePages a.size g a.named)).sum + share / pageBytes]?).map fun p => (p, share % pageBytes)
  else (a.pages[o / pageBytes]?).map fun p => (p, o % pageBytes)

def Job.locate (j : Job) (alloc off : Nat) : Option (PageRef × Nat) := (j.allocs[alloc]?).bind fun a => a.locate off

/-- The page of a byte of an allocation. -/
def Job.page? (j : Job) (alloc off : Nat) : Option PageRef := (j.locate alloc off).map (·.1)

/-- The newest shadow of a line (R276). -/
def Job.shadow? (j : Job) (alloc off : Nat) : Option Shadow :=
  (j.shadows.filter fun x => x.alloc == alloc && x.offset == off).foldl (fun (b : Option Shadow) x =>
    match b with
    | none => some x
    | some y => if y.step ≤ x.step then some x else some y) none

/-- A committed line of an allocation, and its markers. -/
def State.committedLine (s : State) (j : Job) (alloc off : Nat) : BitVec 512 × LineMarks :=
  match j.locate alloc off with
  | some (p, o) => (s.lineAt p o, s.lineMarks p o)
  | none => (0, {})

/-- What a read in a later step sees: the newest shadow, or the committed line (R276). -/
def State.newestLine (s : State) (j : Job) (alloc off : Nat) : BitVec 512 × LineMarks :=
  match j.shadow? alloc off with
  | some x => (x.data, x.marks)
  | none => s.committedLine j alloc off

/-- The value of a line at the end of a step: the newest shadow of that step or an earlier one, or the committed line. -/
def State.lineUpTo (s : State) (j : Job) (step alloc off : Nat) : BitVec 512 × LineMarks :=
  s.newestLine { j with shadows := j.shadows.filter fun x => decide (x.step ≤ step) } alloc off

/-- A line of an uncommitted step changed in its shadow, which is made when the step first touches the line (R276); a later step's
shadow of the line takes the change too. `taken` says that the change brings a marker (R236). -/
def State.shadowLine (s : State) (j : Job) (step alloc off : Nat) (taken : Bool) (f : BitVec 512 × LineMarks → BitVec 512 × LineMarks) : Job :=
  let v := f (s.lineUpTo j step alloc off)
  let on (y : Shadow) : Bool := y.alloc == alloc && y.offset == off
  let had := j.shadows.any fun y => on y && y.step == step && y.taken
  let x : Shadow := { step := step, alloc := alloc, offset := off, data := v.1, marks := v.2, taken := taken || had }
  { j with shadows := (j.shadows.filter fun y => !(on y && y.step == step)).map (fun y =>
      if on y && decide (step < y.step) then let w := f (y.data, y.marks); { y with data := w.1, marks := w.2, taken := y.taken || taken } else y) ++ [x] }

/-- A committed line written at an offset of an allocation. -/
def State.commitLine (s : State) (j : Job) (alloc off : Nat) (v : BitVec 512) (m : LineMarks) : State :=
  match j.locate alloc off with
  | some (p, o) => s.writeLineAt p o v m
  | none => s

/-- `n` committed bytes of an allocation from an offset of whole lines. -/
def State.allocBytes (s : State) (j : Job) (alloc off n : Nat) : Bytes :=
  ((List.range ((n + 63) / 64)).flatMap fun i => leBytes 64 (s.committedLine j alloc (off + 64 * i)).1.toNat).take n

/-- Bytes written into an allocation from offset 0, line by line. -/
def State.fillAlloc (s : State) (j : Job) (alloc : Nat) (bs : Bytes) : State :=
  (List.range ((bs.length + 63) / 64)).foldl (fun t i =>
    t.commitLine j alloc (64 * i) (BitVec.ofNat 512 (leAt bs (64 * i) 64)) {}) s

/-- The lines of an allocation's first `n` bytes copied into another, with their markers (R318). Lines that read as zero, and carry no marker,
stay unwritten there. -/
def State.copyAlloc (s : State) (a b : Allocation) (n : Nat) : State :=
  (List.range ((n + 63) / 64)).foldl (fun t i =>
    match a.locate (64 * i), b.locate (64 * i) with
    | some x, some y => if t.lineAt x.1 x.2 = 0 ∧ (t.lineMarks x.1 x.2).any = false then t else t.copyLine x.1 x.2 y.1 y.2
    | _, _ => t) s

/-! ### The other items of a job's memory (R273) -/

/-- The pages of item `i` among those beside the ALLOCS entries: result area, snapshot area, anchors, context, copies, receive buffers, digest
log, staging (R273; the order of the items in the list is the model's). -/
def sideItem (counts : List Nat) (ps : List PageRef) (i : Nat) : List PageRef := (ps.drop (counts.take i).sum).take (counts.getD i 0)

/-- An item of a job. Receive buffers that a JOIN took after admission are the tenth item, behind the unprotected staging (R431). -/
def Job.sideItem (j : Job) (i : Nat) : List PageRef :=
  Machine.sideItem j.sideCounts j.contextPages (if i = 5 ∧ j.sideCounts.getD 5 0 = 0 then 9 else i)

/-! ### Places -/

/-- The cluster of a preload run in a job's region. -/
def Job.runCluster (j : Job) (r : PreloadRun) : Nat :=
  let h := j.region.getD r.half 0
  64 * (h / 2) + r.cluster / 8 * 8 + r.cluster % 4 + 4 * (h % 2)

end Sys2Proof.Machine
end

