-- ==== Sys2Proof/Machine/Results.lean ====
section
/-! DEFINITION. What a job leaves: states as bytes (11 R341), sweep digests (R340 to R344), the input record and the
certificate (R345 to R347), the result image (13 R408, R581), the logical context (10 R314, R582). -/

namespace Sys2Proof.Machine

open Sys2Proof

/-! ### States as bytes (R66, R341) -/

/-- One block's states of one replica; `enc` encodes a continuous state. -/
def blockBytes (b : BlockEntry) (st : Nat → Word) (enc : Word → Bytes) : Bytes :=
  if b.kind = 0 then
    (List.range ((b.size + 7) / 8)).map fun i =>
      BitVec.ofNat 8 ((List.range 8).foldl (fun a k =>
        if 8 * i + k < b.size then a + (st (b.base + 8 * i + k)).toNat % 2 * 2 ^ k else a) 0)
  else if b.kind = 1 then (List.range b.size).map fun i => BitVec.ofNat 8 (st (b.base + i)).toNat
  else (List.range b.size).flatMap fun i => enc (st (b.base + i))

/-- A replica's states, block by block. -/
def replicaBytes (m : Bytes) (states : SMap Word) (r : Nat) (enc : Word → Bytes) : Bytes :=
  (imgBlockList m).flatMap fun b => blockBytes b (fun v => mget 0 states (stateKey r v)) enc

/-- Bytes of one replica's states with continuous states of a width in bits. -/
def replicaSize (m : Bytes) (bits : Nat) : Nat :=
  ((imgBlockList m).map fun b => if b.kind = 2 then b.size * bits / 8 else b.initBytes).sum

/-- Where a variable's state stands among a replica's states, and the bytes there, as the INIT encoding lays them out (R66) with continuous states
of a width in bits. -/
def varBytes (m : Bytes) (bits : Nat) (st : Nat → Word) (v : Nat) : Nat × Bytes :=
  let a := imgBlockOf m v
  let b := imgBlock m a
  let o := (((imgBlockList m).take a).map fun x => if x.kind = 2 then x.size * bits / 8 else x.initBytes).sum
  let i := v - b.base
  if b.kind = 0 then
    (o + i / 8, [BitVec.ofNat 8 ((List.range 8).foldl (fun acc k =>
      if i / 8 * 8 + k < b.size then acc + (st (b.base + i / 8 * 8 + k)).toNat % 2 * 2 ^ k else acc) 0)])
  else if b.kind = 1 then (o + i, [BitVec.ofNat 8 (st v).toNat])
  else (o + i * bits / 8, leBytes (bits / 8) (st v).toNat)

/-- A continuous state as F32. -/
def encF32 (w : Word) : Bytes := leBytes 4 w.toNat

/-- A continuous state already in a result format. -/
def encFmt (fmt : Nat) (w : Word) : Bytes := leBytes (fmtBits fmt / 8) w.toNat

def padTo (n : Nat) (b : Bytes) : Bytes := b ++ List.replicate (n - b.length) 0

/-- The next 64-byte boundary, in zero bytes. -/
def pad64 (b : Bytes) : Bytes := padTo (align64 b.length) b

/-! ### Sweep digests (R341 to R344) -/

def blockDigest (m : Bytes) (states : SMap Word) (r b : Nat) : DWord :=
  crc64 (blockBytes (imgBlock m b) (fun v => mget 0 states (stateKey r v)) encF32)

def replicaDigest (m : Bytes) (states : SMap Word) (r : Nat) : DWord := crc64 (replicaBytes m states r encF32)

def stepDigest (ds : List DWord) : DWord := crc64 (ds.flatMap fun d => leBytes 8 d.toNat)

/-- The digest record of a step at the job's level. -/
def digestRec (m : Bytes) (j : Job) (states : SMap Word) (t : Nat) : DigestRec :=
  let rs := List.range j.body.replicas
  let ds := rs.map (replicaDigest m states)
  { step := t, stepDigest := stepDigest ds, replicas := if 2 ≤ j.body.digestLevel then ds else [],
    blocks := if j.body.digestLevel = 3 then rs.flatMap fun r => (List.range (imgBlocks m)).map fun b => blockDigest m states r b else [] }

/-- Is a step recorded in the digest log (R343). -/
def Job.logsDigest (j : Job) (t : Nat) : Bool :=
  j.body.digestLevel != 0 && decide (j.body.digestFirst ≤ t) && (t - j.body.digestFirst) % j.body.digestEvery == 0

def digestBytes (d : DigestRec) : Bytes :=
  leBytes 8 d.step ++ leBytes 8 d.stepDigest.toNat ++ (d.replicas ++ d.blocks).flatMap fun x => leBytes 8 x.toNat

/-! ### Input record and certificate (R345, R346) -/

/-- The RESULTS part of a submission, 24 bytes as the packet carries them (R407), with the checking fraction zero. -/
def resultsPart (b : SubmitBody) : Bytes :=
  beBytes 1 b.energyFormat ++ beBytes 1 b.topkSource ++ beBytes 1 b.topkK ++ beBytes 1 b.topkFlags.toNat ++ [0] ++
    beBytes 1 b.digestLevel ++ beBytes 2 b.digestEvery ++ beBytes 8 b.digestFirst ++ beBytes 1 b.stateFormat ++
    beBytes 1 b.resultFlags.toNat ++ List.replicate 6 0

def zeros32 : Bytes := List.replicate 32 0

/-- The context digest of a submission's context object: its last 32 bytes (R336). -/
def State.contextDigest (s : State) (b : SubmitBody) : Bytes :=
  if b.context == zeros32 then zeros32 else let o := s.objectBytes b.context; o.drop (o.length - 32)

def State.inputRecord (s : State) (j : Job) : Bytes :=
  let b := j.body
  leBytes 8 j.seed.toNat ++ leBytes 2 b.replicas ++ leBytes 1 b.beta ++ leBytes 1 b.ensemble ++
    leBytes 2 (if b.ensemble = 1 then b.interval else 0) ++ leBytes 2 0 ++ (b.params.flatMap fun p => leBytes 4 p.toNat) ++
    sha256 (resultsPart b) ++ s.contextDigest b ++ s.objectBytes b.input

/-- The firmware measurement: the digest that a firmware image's signature covers (R496). -/
def firmwareMeasurement (f : Bytes) : Bytes := sha256 (f.take (f.length - 416))

def allOnes64 : Nat := 2 ^ 64 - 1

/-- The 256 bytes of the result certificate (R345). -/
def State.certificate (s : State) (j : Job) (status : Nat) (resultDigest : Bytes) (signed : Bool) : Bytes :=
  ascii "LYRCERTF" ++ leBytes 4 1 ++ leBytes 4 (j.flagWord signed % 512 + 512 * bit j.copyRepaired) ++ leBytes 8 j.id ++
    leBytes 8 j.committed ++ j.body.program ++ j.body.model ++ sha256 (s.inputRecord j) ++ resultDigest ++
    leBytes 8 j.digestNow.toNat ++ leBytes 8 j.cadence ++ leBytes 8 j.seed.toNat ++
    leBytes 8 (if j.retiled then j.retileStep else allOnes64) ++ leBytes 2 status ++ leBytes 1 s.grade.toNat ++ leBytes 1 j.tiling ++
    leBytes 8 (if j.copyRepaired then j.copyRepairStep else allOnes64) ++ List.replicate 20 0 ++ firmwareMeasurement s.security.firmware

/-! ### Result image (R408, R581) -/

/-- Does a program hold an opcode in a slot (F 0, D 1, M 2) of some slice of a tiling. -/
def Tiling.holdsOp (p : Bytes) (t : Tiling) (slot op : Nat) : Bool :=
  (List.range t.numHalves).any fun h => (List.range t.words).any fun w => (List.range 32).any fun k =>
    bitField (t.slice p h w k) (122 - 32 * slot) 6 == op

/-- An entry of the top-k list (R154). -/
def topkBytes (e : TopkEntry) : Bytes :=
  leBytes 8 e.value.toNat ++ leBytes 8 e.step ++ leBytes 8 e.var ++ leBytes 8 e.digest.toNat ++ leBytes 2 e.replica ++
    leBytes 2 e.slot ++ leBytes 4 0

/-- A kept state, in an encoding of continuous states. An entry of source 1 names no replica: its states are all zero (DESIGN CHOICE, log entry
93). -/
def keptBytes (m : Bytes) (e : TopkEntry) (enc : Word → Bytes) : Bytes :=
  (imgBlockList m).flatMap fun b => blockBytes b (fun v => ((e.kept.find? fun k => k.1 == v).map (·.2)).getD 0) enc

/-- KEEP_STATES (R155). -/
def Job.keepsStates (j : Job) : Bool := j.body.flags.getLsbD 2

/-- The kept states of a list entry in STATE_FORMAT. -/
def resultEnc (fmt : Nat) (w : Word) : Bytes := encFmt fmt (BitVec.ofNat 32 (convertTo fmt (valF32 w)).1)

/-- Section 2 (R581): the committed bytes of every allocation that a statistic of the program addresses, as `fillRegion` took them from the
tiling. -/
def State.statSection (s : State) (j : Job) : Bytes :=
  let p := s.program j
  let t := s.tilingOf j
  ((List.range t.numAllocs).filter j.statAllocs.contains).flatMap fun a =>
    let n := (t.alloc p a).size
    leBytes 2 a ++ List.replicate 6 0 ++ leBytes 8 n ++ pad64 (s.allocBytes j a 0 n)

/-- Section 3. -/
def State.topkSection (s : State) (j : Job) : Bytes :=
  if j.body.topkK = 0 then []
  else
    leBytes 8 j.topk.length ++ List.replicate 8 0 ++ j.topk.flatMap topkBytes ++
      (if j.keepsStates then j.topk.flatMap fun e => keptBytes (s.model j) e (resultEnc j.body.stateFormat) else [])

/-- Section 4. -/
def Job.ensembleSection (j : Job) : Bytes :=
  if j.body.ensemble = 1 then ((List.range j.body.replicas).flatMap fun a => leBytes 2 (j.pi a)) ++ j.exchBytes
  else if j.body.ensemble = 2 then
    leBytes 8 j.resamples.length ++ (j.resamples.flatMap fun r => resampleBytes r) ++
      (if j.body.resultFlags.getLsbD 0 then j.resamples.flatMap fun r => r.ancestors.flatMap fun a => leBytes 2 a else [])
  else []

/-- The sections before the certificate. A final state is written at the width of STATE_FORMAT as ST.RES left it: where the FMT of ST.RES differs,
the code that FMT gave, truncated or extended with zeros (DESIGN CHOICE, log entry 92). -/
def State.resultSections (s : State) (j : Job) : List Bytes :=
  let m := s.model j
  let rs := List.range j.body.replicas
  [ if (s.tilingOf j).holdsOp (s.program j) 2 0x20 then rs.flatMap fun r => replicaBytes m j.resultArea r (encFmt j.body.stateFormat) else [],
    j.energyLog.flatMap fun e => e.2.flatMap fun v => leBytes (fmtBits j.body.energyFormat / 8) v.toNat,
    s.statSection j, s.topkSection j, j.ensembleSection, j.digestLog.flatMap digestBytes ]

/-- The directory entries and bodies of sections laid out from an offset. -/
def layOut : Nat → List Bytes → Bytes × Bytes
  | _, [] => ([], [])
  | o, x :: xs =>
    if x.isEmpty then let r := layOut o xs; (List.replicate 16 0 ++ r.1, r.2)
    else
      let r := layOut (o + (pad64 x).length) xs
      (leBytes 8 o ++ leBytes 8 x.length ++ r.1, pad64 x ++ r.2)

/-- Everything of a result image before its certificate section, whose length is given. -/
def resultHead (secs : List Bytes) (certLen : Nat) : Bytes :=
  let r := layOut 192 secs
  let certAt := 192 + r.2.length
  padTo 192 (ascii "LYRRESLT" ++ leBytes 4 1 ++ leBytes 4 7 ++ List.replicate 48 0 ++ r.1 ++ leBytes 8 certAt ++ leBytes 8 certLen) ++ r.2

/-! ### Logical context (R314, R582) -/

/-- The cluster keys of a physical half, in ascending cluster number (R174). -/
def halfClusters (h : Nat) : List Nat :=
  ((List.range 64).filter fun n => (if n % 8 < 4 then 0 else 1) == h % 2).map fun n => 64 * (h / 2) + n

/-- A group as 32 bytes. -/
def groupBytes (g : Group) (fmt : Nat) : Bytes :=
  leBytes 16 g.reg.toNat ++ leBytes 1 (bit g.isOpen) ++ leBytes 1 (bit g.sticky) ++ leBytes 1 fmt ++ List.replicate 13 0

def AuxFmt.code : AuxFmt → Nat
  | .int => 0 | .longsum => 1 | .f32 => 2 | .f64 => 3

/-- The core at a logical position of a cluster. -/
def State.coreAt (s : State) (k pos : Nat) : Core :=
  match (s.cluster k).coreMap.getD pos none with
  | some n => mget {} (s.cluster k).cores n
  | none => {}

/-- The logical cores of a job, half by half: cluster key and position. -/
def State.jobCores (s : State) (j : Job) : List (Nat × Nat) :=
  j.region.flatMap fun h => (halfClusters h).flatMap fun k => (List.range (s.tilingOf j).positions).map fun pos => (k, pos)

def Core.groupsOpen (c : Core) : Bool := c.lanes.any fun e => e.2.statistic.isOpen || e.2.auxiliary.isOpen

/-- GROUPS_OPEN of a job. -/
def State.groupsOpen (s : State) (j : Job) : Bool := (s.jobCores j).any fun e => (s.coreAt e.1 e.2).groupsOpen

def Core.groupsBytes (c : Core) : Bytes :=
  (List.range 32).flatMap fun l =>
    let y := mget {} c.lanes l
    groupBytes y.statistic 0 ++ groupBytes y.auxiliary (AuxFmt.code y.auxiliary.fmt)

/-- Each class's TILE_SHAPE and P. -/
def shapeBytes (p : Bytes) (t : Tiling) : Bytes :=
  (List.range 256).flatMap fun i =>
    if i < t.numClasses then let c := t.classEntry p i; leBytes 1 c.shape ++ leBytes 1 c.parts else [0, 0]

/-- Bytes of a context's fixed sizes: one replica's states, padded. -/
def contextStateBytes (m : Bytes) : Nat := align64 (stateBytes m)

/-- Resamplings that a schedule allows (R582). -/
def maxResamples (m : Bytes) : Nat := imgBetaLen m - 1

/-- The sections of a context in order, each before its padding. -/
def State.contextSections (s : State) (j : Job) : List Bytes :=
  let m := s.model j
  let input := s.objectBytes j.body.input
  let rs := List.range j.body.replicas
  let r' := List.range j.ledgerReplicas
  let k := j.body.topkK
  let c := j.counts
  [ rs.flatMap fun r => pad64 (replicaBytes m j.states r encF32),
    (r'.flatMap fun r => leBytes 8 (j.energyF64 r).toNat) ++ (r'.flatMap fun a => leBytes 2 (j.pi a)) ++
      (r'.flatMap fun a => leBytes 2 (mget 0 j.ancestors a)),
    rs.flatMap fun a => leBytes 4 (j.slotBeta m input a j.step).toNat,
    j.exchBytes,
    if j.body.ensemble = 2 then
      padTo (8 + 24 * maxResamples m + (if j.body.resultFlags.getLsbD 0 then 2 * j.body.replicas * maxResamples m else 0))
        (leBytes 8 j.resamples.length ++ padTo (24 * maxResamples m) (j.resamples.flatMap fun r => resampleBytes r) ++
          (if j.body.resultFlags.getLsbD 0 then j.resamples.flatMap fun r => r.ancestors.flatMap fun a => leBytes 2 a else []))
    else [],
    if k = 0 then []
    else
      leBytes 8 j.topk.length ++ padTo (40 * k) (j.topk.flatMap topkBytes) ++
        (if j.keepsStates then padTo (k * contextStateBytes m) (j.topk.flatMap fun e => pad64 (keptBytes m e encF32)) else []),
    leBytes 8 c.nonfiniteDecisions ++ leBytes 8 c.gaussDegenerate ++ leBytes 8 c.intSaturations ++ leBytes 8 c.longsumWraps ++
      leBytes 8 c.atomicWraps ++ leBytes 8 c.fieldNonfinite ++ leBytes 8 c.conversionSaturations ++
      leBytes 8 (bit j.syncUpdate + 2 * bit j.arrivalFp),
    if s.groupsOpen j then (s.jobCores j).flatMap fun e => (s.coreAt e.1 e.2).groupsBytes else [] ]

/-- The logical context of a job whose steps are all committed (R314). -/
def State.contextBytes (s : State) (j : Job) : Bytes :=
  let p := s.program j
  let t := s.tilingOf j
  let flags := bit (j.fixedNow || j.demoted) + 2 * bit j.demoted + 4 * bit j.retiled + 8 * bit (s.groupsOpen j) + 16 * bit j.copyRepaired
  let head :=
    ascii "LYRCNTXT" ++ leBytes 4 1 ++ leBytes 4 flags ++ leBytes 8 j.step ++ leBytes 8 j.seed.toNat ++ leBytes 4 j.sweepsLeftAtCommit ++
      leBytes 2 j.body.replicas ++ leBytes 1 j.tiling ++ leBytes 1 t.gridGrade ++ j.body.program ++ j.body.model ++
      leBytes 8 j.cadence ++ leBytes 8 j.heldCycles ++ leBytes 8 j.epoch ++ leBytes 8 (if j.demoted then j.demoteStep else allOnes64) ++
      leBytes 8 (if j.retiled then j.retileStep else allOnes64) ++ (j.body.params.flatMap fun x => leBytes 4 x.toNat) ++
      shapeBytes p t ++ leBytes 1 (if j.demoted then j.demoteCause else 0) ++ List.replicate 7 0 ++
      leBytes 8 (if j.copyRepaired then j.copyRepairStep else allOnes64)
  padTo 0x300 head ++ (s.contextSections j).flatMap pad64

end Sys2Proof.Machine
end

