-- ==== Sys2Proof/Machine/JobEnd.lean ====
section
/-! DEFINITION. How a job ends (10 R294, 13 R408 to R411, 11 R345 to R347), and the failures that end or roll back a job (09
R262, 15 R449, R452). -/

namespace Sys2Proof.Machine

open Sys2Proof

/-! ### Images released by the host (R72) -/

/-- Does a job refer to an object. -/
def Job.refersTo (j : Job) (d : Bytes) : Bool := j.body.program == d || j.body.model == d || j.body.input == d || j.body.context == d

/-- Objects that the host released and no job that has not ended refers to are dropped, and their frames freed. -/
def State.dropReleased (s : State) : State :=
  let users := s.jobList.filter fun e => e.2.state != .ended
  let gone (o : HeldObject) : Bool := o.released && !users.any fun e => e.2.refersTo o.digest
  let s1 := s.freePages ((s.objects.held.filter gone).flatMap (·.pages))
  s1.onObjects fun x => { x with held := x.held.filter fun o => !gone o }

/-! ### The end of a job -/

/-- A job as its last commit left it: what an uncommitted step changed is undone. A job that ran to its END keeps what the words
after its last step did. -/
def Job.asCommitted (j : Job) (status : Nat) : Job :=
  if status = 0 then j
  else
    { j with step := j.committed, counts := j.countsAtCommit, states := j.statesAtCommit, perm := j.permAtCommit,
             exchAccepts := j.exchAtCommit, ancestors := j.ancestorsAtCommit, epoch := j.committedEpoch,
             resamples := j.resamples.filter fun r => decide (r.step < j.committed),
             energyLog := j.energyLog.filter fun e => decide (e.1 < j.committed) }

/-- Kept states that a top-k list's section clamps as they are converted to STATE_FORMAT (R40, R155). -/
def Job.keptSaturations (j : Job) (m : Bytes) : Nat :=
  if j.keepsStates then
    ((j.topk.flatMap fun e => e.kept.filter fun k => (imgBlock m (imgBlockOf m k.1)).kind == 2).filter fun k =>
      (convertTo j.body.stateFormat (valF32 k.2)).2).length
  else 0

/-- The result image, result digest, certificate and signature of a job that ends. -/
def State.sealResult (s : State) (j0 : Job) (status : Nat) : State × Job :=
  let j := { j0 with counts := j0.counts.add { conversionSaturations := j0.keptSaturations (s.model j0) } }
  let signed := j.body.flags.getLsbD 3
  let head := resultHead (s.resultSections j) (if signed then 640 else 256)
  let rd := sha256 head
  let cert := s.certificate j status rd signed
  let salt := s.takeRandom 32
  let sig := if signed then Config.identitySign (sha256 cert) salt.1 else []
  (if signed then salt.2 else s,
   { j with resultDigest := rd, certificate := cert ++ sig, resultImage := head ++ cert ++ sig })

/-- The JOB_FINAL record (R409, R411). -/
def State.finalRecord (s : State) (j : Job) (status d0 d1 : Nat) : CompRecord :=
  let r := s.jobRecord j .jobFinal status
  { r with
    req := j.req, detail0 := BitVec.ofNat 64 d0, detail1 := BitVec.ofNat 64 d1,
    flags := BitVec.ofNat 32 (j.flagWord (j.body.flags.getLsbD 3)), digest := j.resultDigest,
    certificate := j.certificate.take 256, ext := r.ext ++ j.certificate.drop 256 }

/-- A job ends with a status (R294): its results are sealed from its committed steps, its halves, grant and memory are given back,
its group hears LEAVE (R442), and its final completion is journaled; a regenerated job sends none (R403). One that is writing its context ends
once that is written, from PREEMPTED (R294, R295). -/
def State.endJob (s : State) (slot status d0 d1 : Nat) : State :=
  match s.job? slot with
  | none => s
  | some j0 =>
    if j0.state == .ended then s
    else if j0.state == .preempting then s.setJob slot { j0 with endAsked := j0.endAsked.or (some (status, d0, d1)) }
    else
      let j1 := { j0.asCommitted status with state := .ended, status := BitVec.ofNat 16 status }
      let r := s.sealResult j1 status
      let j2 := { r.2 with shadows := [], areaWrites := [], checks := [], segments := [], inFlight := [], waiting := .no, hold := none }
      let s1 := (((r.1.freeJobMemory j2).clearRegion j2.region).dropOutward j2.id).dropJob slot
      let j3 := { j2 with region := [], reserved := false, loweringFor := none, waitLimit := false, allocs := [], contextPages := [], sideCounts := [], finalSent := true }
      let s2 := s1.setJob (firstFree (s1.jobs.table.filter fun e => decide (4096 ≤ e.1)) 4096) j3
      let s3 := match j2.group with
        | some g => s2.toNeighbours g (g.barrier 5 (BitVec.ofNat 16 status) j2.epoch)
        | none => s2
      let s4 := if j0.finalSent then s3 else s3.complete j3.owner (some j3.sess) (s3.finalRecord j3 status d0 d1)
      s4.dropReleased.raiseSettings

/-- The poisoned sectors that a job can read: those of its own pages and of the objects that it names, by stack, frame and sector. -/
def State.poisonedFor (s : State) (j : Job) : List (Nat × Nat × Nat) :=
  let ps := (j.allocs.flatMap (·.pages)) ++ j.contextPages ++ (s.objects.held.filter fun o => j.refersTo o.digest).flatMap (·.pages)
  (ps.flatMap fun p =>
    (((s.stack p.stack).tags.filter fun e => decide (e.1 / 65536 = p.frame)).map fun e => (p.stack, p.frame, e.1 % 65536)).filter fun x =>
      s.rawSectorPoison x.1 x.2.1 x.2.2).eraseDups

/-- The sector that a consumed mirage came from (R262): one of the poisoned sectors that the job can read. Which of several it is the marker does
not say, and a free value chooses (log entry 6). -/
def State.mirageSource (s : State) (j : Job) : Nat × Nat × Nat :=
  let l := s.poisonedFor j
  let c := Config.mirageSource s.free
  l.getD (c.1 % l.length) (c.1 % 36, c.2.1 % stackFrames, c.2.2 % 65536)

/-- A job that consumed a poisoned value ends with MIRAGE_CONSUMED; the event names where the value came from (R262). -/
def State.consumeMirage (s : State) (slot : Nat) : State :=
  match s.job? slot with
  | none => s
  | some j =>
    let src := s.mirageSource j
    let s1 : State := { s with free := s.free + 1 }
    let s2 := s1.log (j.event { code := 0x0916, severity := 3, status := 0x0904, kind := 5, unit := unitWord src.1 0xFF 0xFF 0xFF,
                                detail := BitVec.ofNat 64 (src.2.1 * 65536 + src.2.2) })
    s2.endJob slot 0x0904 0 0

/-- How often the last step that failed has failed in succession, for that step; none for any other (R452). -/
def Job.failuresAt (j : Job) (step : Nat) : Nat := if j.failedStep = some step then j.failures else 0

/-- A step that failed (R449, R452, R460): the job rolls back, and the third failure of one step in succession ends it. -/
def State.failStep (s : State) (slot step : Nat) : State :=
  match s.job? slot with
  | none => s
  | some j =>
    if 2 ≤ j.failuresAt step then s.endJob slot 0x0502 0 0
    else (s.rollBack slot).modJob slot fun k => { k with failures := j.failuresAt step + 1, failedStep := some step }

/-- A parity error in a job's primary work, met by an operation (slot and opcode, R473) and charged to the unit of the faulty segment (R448,
R449). -/
def State.parityError (s : State) (slot operation : Nat) (u : UnitRef) : State :=
  match s.job? slot with
  | none => s
  | some j =>
    let s1 := s.onIntegrity fun i => { i with parityErrors := satAdd 32 i.parityErrors 1 }
    let s2 := s1.log (j.event { code := 0x0510, severity := 2, kind := u.event.1, unit := u.event.2, operation := operation })
    (s2.chargeUnit u).failStep slot j.step

end Sys2Proof.Machine
end

