-- ==== Sys2Proof/Machine/Operands.lean ====
section
/-! DEFINITION. The operand forms of the cluster slice (07 R186 to R188, 08 R222 to R228): the cores a cluster's
operation acts in, lane masks, playa lines, state file slots, the state of a lane, coupling elements, unary elements,
descriptors. -/

namespace Sys2Proof.Machine

open Sys2Proof

/-! ### Words of a line -/

/-- Word `w` of a 512-bit line. -/
def lineWord (v : BitVec 512) (w : Nat) : Word := v.extractLsb' (32 * w) 32

/-- A line with word `w` replaced. -/
def setLineWord (v : BitVec 512) (w : Nat) (x : Word) : BitVec 512 :=
  BitVec.ofNat 512 (v.toNat - bitField v.toNat (32 * w) 32 * 2 ^ (32 * w) + x.toNat * 2 ^ (32 * w))

/-- The line of sixteen words given in order. -/
def lineOf (ws : List Word) : BitVec 512 := BitVec.ofNat 512 (ws.foldr (fun w a => w.toNat + 2 ^ 32 * a) 0)

def lineWords (v : BitVec 512) : List Word := (List.range 16).map (lineWord v)

/-! ### Playa and state file of a core -/

def Core.line (c : Core) (l : Nat) : BitVec 512 := readLine c.playa (64 * l)

/-- The poison marker of half-line `h` of line `l`. -/
def Core.linePoison (c : Core) (l h : Nat) : Bool := mget false c.playaPoison (2 * l + h)

/-- The undo log's first entry of a step for a line: its bytes from before (R450). -/
def Core.noteLine (c : Core) (step l : Nat) : Core :=
  if c.undo.any fun e => match e with | .line s k _ _ _ _ _ => s == step && k == l | _ => false then c
  else { c with undo := c.undo ++ [.line step l (c.line l) (c.linePoison l 0) (c.linePoison l 1) (mget [] c.playaExps (2 * l))
                                     (mget [] c.playaExps (2 * l + 1))] }

/-- The words of a state file slot that are not at rest. -/
def Core.slotWords (c : Core) (sl : Nat) : SMap StateWord :=
  (c.slots.filter fun e => e.1 / 16 == sl).map fun e => (e.1 % 16, e.2)

def Core.noteSlot (c : Core) (step sl : Nat) : Core :=
  if c.undo.any fun e => match e with | .slot s k _ => s == step && k == sl | _ => false then c
  else { c with undo := c.undo ++ [.slot step sl (c.slotWords sl)] }

/-- The check digest of a step fed with 32-bit words, least significant byte first (R340, R458). -/
def Core.check (c : Core) (step : Nat) (ws : List Word) : Core :=
  { c with checkCrc := mset (0 : DWord) c.checkCrc step (
      ws.foldl (fun a w => (leBytes 4 w.toNat).foldl crcByte a) (mget (0 : DWord) c.checkCrc step)) }

/-- A write through the playa port of the words of a line named by `ws`, with the half-lines' markers. -/
def Core.writeWords (c : Core) (step l : Nat) (ws : List (Nat × Word)) (poison : Bool) : Core :=
  let c1 := c.noteLine step l
  let v := ws.foldl (fun a e => setLineWord a e.1 e.2) (c1.line l)
  let mark (h : Nat) (m : SMap Bool) : SMap Bool := if ws.any fun e => e.1 / 8 == h then mset false m (2 * l + h) poison else m
  Core.check { c1 with playa := writeLine c1.playa (64 * l) v, playaPoison := mark 1 (mark 0 c1.playaPoison) } step (ws.map (·.2))

/-- A half-line written, with the exponents of the BS16 elements in it. -/
def Core.writeHalf (c : Core) (step l h : Nat) (ws : List Word) (poison : Bool) (exps : List Int := []) : Core :=
  let c1 := c.writeWords step l ((List.range 8).map fun i => (8 * h + i, ws.getD i 0)) poison
  { c1 with playaExps := mset [] c1.playaExps (2 * l + h) exps }

def Core.slotWord (c : Core) (sl w : Nat) : StateWord := mget {} c.slots (16 * sl + w)

/-- A slot filled with current values, and the states that its words hold. -/
def Core.writeSlot (c : Core) (step sl : Nat) (v : BitVec 512) (poison : Bool) (tags : List (Option StateTag) := []) : Core :=
  let c1 := c.noteSlot step sl
  { c1 with slots := (List.range 16).foldl (fun m w => mmod {} m (16 * sl + w) fun (x : StateWord) =>
      { x with cur := lineWord v w, curPoison := poison, curTag := tags.getD w none }) c1.slots }

/-- A state word delivered (R223): pending when it belongs to the current phase, current when its phase has ended. -/
def Core.deliverWord (c : Core) (step sl w : Nat) (x : BeatWord) (current : Bool) : Core :=
  let c1 := c.noteSlot step sl
  { c1 with slots := mmod {} c1.slots (16 * sl + w) fun (v : StateWord) =>
      if current then { v with pend := some x.data, pendPoison := x.poison, pendTag := x.tag }
      else { v with cur := x.data, curPoison := x.poison, curTag := x.tag } }

/-! ### Address generators and lane masks (R186 to R188) -/

/-- The value of generator n in the core with logical index k. -/
def agLine (ags : SMap AddrGen) (n k : Nat) : Nat :=
  let g := mget {} ags n
  (((g.base.toNat : Int) + k * g.stride.toInt) % 2048).toNat

/-- Increment n added to its base. -/
def agStep (ags : SMap AddrGen) (n : Nat) : SMap AddrGen :=
  mmod {} ags n fun (g : AddrGen) => { g with base := BitVec.ofInt 11 (g.base.toNat + g.increment.toInt) }

def Core.mask (c : Core) (lm : Fin 4) : BitVec 32 :=
  match lm.val with
  | 0 => BitVec.allOnes 32
  | 1 => c.lm1
  | 2 => c.lm2
  | _ => c.lm3

def Core.setMask (c : Core) (lm : Fin 4) (v : BitVec 32) : Core :=
  match lm.val with
  | 0 => c
  | 1 => { c with lm1 := v }
  | 2 => { c with lm2 := v }
  | _ => { c with lm3 := v }

/-! ### Lanes -/

def Core.lane (c : Core) (l : Nat) : Lane := mget {} c.lanes l
def Core.setLane (c : Core) (l : Nat) (x : Lane) : Core := { c with lanes := mset {} c.lanes l x }
def Core.modLane (c : Core) (l : Nat) (f : Lane → Lane) : Core := c.setLane l (f (c.lane l))

def Lane.group (x : Lane) : GroupSel → Group
  | .field => x.field
  | .energy => x.energy
  | .statistic => x.statistic
  | .auxiliary => x.auxiliary

def Lane.setGroup (x : Lane) (g : GroupSel) (v : Group) : Lane :=
  match g with
  | .field => { x with field := v }
  | .energy => { x with energy := v }
  | .statistic => { x with statistic := v }
  | .auxiliary => { x with auxiliary := v }

/-! ### Checked cores (R453, R454, R456) -/

/-- n of a checking fraction (R453); none when checking is off. -/
def checkEvery (code : Nat) : Option Nat :=
  match code with
  | 1 => some 64 | 2 => some 16 | 3 => some 4 | 4 => some 1 | _ => none

/-- Is a position in the check set of a step by the job's fraction (R453, R454). -/
def inCheckSet (code t pos : Nat) : Bool :=
  match checkEvery code with
  | some n => t % n == 0 && pos % 4 == t / n % 4
  | none => false

/-! ### Where an operation acts -/

/-- A cluster of a job that issues: the job's table entry, images, input and tiling, the logical half, the cluster, its
generators and core map, the step, the phase bit, whether the word belongs to an energy pass, the job's replicas, its cycle and checking
fraction, and the cores of the cluster that are under observation. -/
structure Site where
  slot : Nat
  p : Bytes
  m : Bytes
  input : Bytes
  t : Tiling
  half : Nat
  cl : Nat
  ags : SMap AddrGen
  coreMap : List (Option Nat)
  step : Nat
  phaseBit : Bool
  epass : Bool
  replicas : Nat
  cycle : Nat
  checkCode : Nat
  observed : List Nat
  deriving DecidableEq, Repr

/-- What an operation changes in one core: the core, its job's values, and whether a poisoned value was consumed. -/
structure Work where
  core : Core
  job : Job
  hit : Bool := false
  deriving DecidableEq, Repr

/-- The site of a cluster, where the job that holds its half issues words. -/
def State.site? (s : State) (cl : ClusterRef) : Option Site :=
  match s.halfJob? cl.half with
  | none => none
  | some (slot, j) =>
    if j.issuing then
      let c := s.cluster cl.key
      let h := j.region.findIdx (· == cl.half)
      let t := s.tilingOf j
      some { slot := slot, p := s.program j, m := s.model j, input := s.objectBytes j.body.input, t := t, half := h, cl := cl.key,
             ags := c.ags, coreMap := c.coreMap, step := j.step, phaseBit := j.phaseBit, epass := ctlEpass (s.controlAt j),
             replicas := j.body.replicas, cycle := j.cycle, checkCode := j.body.checkFraction,
             observed := s.integrity.observed.filterMap fun o => match o.1 with
               | .core q => if q.cl == cl then some q.num.val else none
               | _ => none }
    else none

/-- The physical core that serves a logical position, if it is valid (R187, R204). -/
def Site.phys (x : Site) (pos : Nat) : Option Nat := (x.coreMap.getD pos none)

/-- Does a core belong to the check set of the step under way (R454). -/
def Site.checked (x : Site) (pos : Nat) : Bool :=
  inCheckSet x.checkCode x.step pos || (x.phys pos).any x.observed.contains

/-- One core's part of an operation. -/
def stepCore (x : Site) (f : Site → Nat → Work → Work) (acc : SMap Core × Job × Bool) (pos : Nat) : SMap Core × Job × Bool :=
  match x.phys pos with
  | none => acc
  | some n =>
    let w := f x pos { core := mget {} acc.1 n, job := acc.2.1, hit := acc.2.2 }
    (mset {} acc.1 n w.core, w.job, w.hit)

/-- An operation on the valid cores of a cluster, in ascending logical position, and then on its generators. A poisoned
value consumed ends the job (R236, R262). -/
def State.onCluster (s : State) (cl : ClusterRef) (f : Site → Nat → Work → Work) (g : SMap AddrGen → SMap AddrGen := id) :
    State :=
  match s.site? cl with
  | none => s
  | some x =>
    match s.job? x.slot with
    | none => s
    | some j =>
      let r := (List.range 64).foldl (stepCore x f) ((s.cluster cl.key).cores, j, false)
      let s1 := (s.modCluster cl.key fun c => { c with cores := r.1, ags := g c.ags }).setJob x.slot r.2.1
      if r.2.2 then s1.consumeMirage x.slot else s1

/-- The lanes an operation acts in: those of its mask, none in a position the tiling leaves unused (R187). -/
def Site.lanes (x : Site) (pos : Nat) (c : Core) (lm : Fin 4) : List Nat :=
  if x.t.positions ≤ pos then [] else (List.range 32).filter fun l => (c.mask lm).getLsbD l

/-- Those of them whose replica the job has: the lanes of unused replicas are masked (R97). -/
def Site.lanesOf (x : Site) (pos : Nat) (c : Core) (lm : Fin 4) (rep : Nat → Nat) : List Nat :=
  (x.lanes pos c lm).filter fun l => decide (rep l < x.replicas)

/-- The value of a generator in a core. -/
def Site.line (x : Site) (n pos : Nat) : Nat := agLine x.ags n pos

/-- The slot a generator names (R225). -/
def Site.stateSlot (x : Site) (n pos : Nat) : Nat := x.line n pos % 256

/-- Is this core the ledger core (R231, R248): the cluster is the tiling's, in the half it is placed on. -/
def Site.isLedger (x : Site) (pos : Nat) : Bool :=
  let n := x.t.ledger / 64 % 64
  x.t.ledger / 4096 == x.half && n / 8 == x.cl % 64 / 8 && n % 4 == x.cl % 4 && x.t.ledger % 64 == pos

/-! ### Descriptors (R224) -/

/-- A descriptor read from the 64 bytes of a line. -/
def descOf (b : Bytes) : Descriptor :=
  { var := leAt b 0 8 % 2 ^ 40, varStep := signedOf 32 (leAt b 8 4), laneVstride := leAt b 0xC 2, rep := leAt b 0xE 2,
    cls := leAt b 0x10 1, mode := BitVec.ofNat 8 (leAt b 0x11 1), word := leAt b 0x12 1 % 16, wordStep := leAt b 0x13 1,
    unary := leAt b 0x14 4, unaryStep := leAt b 0x18 4, block := leAt b 0x1C 4, statTgt := leAt b 0x20 2,
    histLow := BitVec.ofNat 32 (leAt b 0x24 4), histWidth := BitVec.ofNat 32 (leAt b 0x28 4), histBins := leAt b 0x2C 4 }

def Core.desc (c : Core) (dd : Fin 4) : Descriptor := mget {} c.descs dd.val
def Core.setDesc (c : Core) (dd : Fin 4) (d : Descriptor) : Core := { c with descs := mset {} c.descs dd.val d }

def Descriptor.spread (d : Descriptor) : Bool := d.mode.getLsbD 0
def Descriptor.part (d : Descriptor) : Bool := d.mode.getLsbD 1
def Descriptor.partIndex (d : Descriptor) : Nat := d.mode.toNat / 4

/-- The replica and the variable that a lane decides (R224). -/
def Descriptor.laneRep (d : Descriptor) (l : Nat) : Nat := if d.spread then d.rep else d.rep + l
def Descriptor.laneVar (d : Descriptor) (l : Nat) : Nat := if d.spread then d.var + l * d.laneVstride else d.var

def Site.cls (x : Site) (d : Descriptor) : ClassEntry := x.t.classEntry x.p d.cls

/-! ### The state of a lane (R228) -/

/-- The value and the poison marker of a word of the state file, its slot modulo 256. -/
def Core.fileWord (c : Core) (sl w : Nat) : StateWord := c.slotWord (sl % 256) (w % 16)

/-- State `l` of the states that stand from (slot, word) on as DRAW writes them, by kind of variable: bit, byte or word `l`. In spread mode a
field reads state G of a neighbour so. -/
def Core.laneState (c : Core) (kind sl w l : Nat) : Word × Bool :=
  match kind with
  | 0 => let v := c.fileWord sl w; (BitVec.ofNat 32 (v.cur.toNat / 2 ^ l % 2), v.curPoison)
  | 1 => let v := c.fileWord sl (w + l / 4); (BitVec.ofNat 32 (v.cur.toNat / 2 ^ (8 * (l % 4)) % 256), v.curPoison)
  | _ => let v := c.fileWord (sl + l / 16) (w + l % 16); (v.cur, v.curPoison)

/-- The state that product `k` of lane `l` takes in replica mode, from a state operand of 1, 8 or 32 slots: word k of 32, 256 or 1,024 bits
(DEDUCED, log entry 46). -/
def Core.operandState (c : Core) (kind sl k l : Nat) : Word × Bool :=
  match kind with
  | 0 => c.laneState 0 sl k l
  | 1 => c.laneState 1 (sl + k / 2) (8 * (k % 2)) l
  | _ => c.laneState 2 (sl + 2 * k) 0 l

/-! ### Unary elements (R225) -/

/-- The raw element `i` of the state file read as a flat array of `w`-bit elements, with its marker. -/
def Core.unaryRaw (c : Core) (w i : Nat) : Nat × Bool :=
  let bit := w * i
  let v := c.slotWord (bit / 512 % 256) (bit / 32 % 16)
  if w = 64 then
    let u := c.slotWord (bit / 512 % 256) (bit / 32 % 16 + 1)
    (v.cur.toNat + 2 ^ 32 * u.cur.toNat, v.curPoison || u.curPoison)
  else (v.cur.toNat / 2 ^ (bit % 32) % 2 ^ w, v.curPoison)

/-- The opening value of a field for a lane and a categorical state k (R118, R225), and its marker. -/
def Site.unary (x : Site) (c : Core) (d : Descriptor) (l k : Nat) : Val × Bool :=
  let b := imgBlock x.m d.block
  match imgUnaryFmt x.m b with
  | none => (.zero, false)
  | some f =>
    let i := d.unary + (if d.spread then l * b.states else 0) + (if b.kind = 1 then k else 0)
    let r := c.unaryRaw (fmtBits f) i
    let v := elemVal f r.1 (imgUnaryExp x.m (d.laneVar l) k)
    (if b.scores && f == 13 then v.neg else v, r.2)

/-! ### Coupling elements (R228) -/

/-- A coupling operand: its bits, its marker, and the exponents of BS16 elements. -/
structure CouplingOperand where
  bits : BitVec 512
  poison : Bool
  exps : List Int
  deriving DecidableEq, Repr

/-- A number for each half-line of a job's playa: logical half, cluster, position, half-line. -/
def Site.place (x : Site) (pos h : Nat) : Nat := ((x.half * 64 + x.cl % 64) * 64 + pos) * 4096 + h

/-- The exponents of the BS16 elements of a half-line: those that a caravan brought, or, of a preloaded line, values that the rules leave open
and that stay what they are (log entry 6), in the range of R36. -/
def Site.halfExps (x : Site) (pos : Nat) (c : Core) (h : Nat) : List Int :=
  let e := mget [] c.playaExps h
  (List.range 16).map fun k => (e[k]?).getD (max (-48) (min 24 (Config.placedExponent x.p (x.place pos h) k)))

/-- The coupling operand of FLD.ACC: a half-line for the 16-bit replica shape, a whole line for the others, or the caravan input. A row of a
full table that is longer than a half-line goes on in the other half of its line (R99; log entry 46). -/
def Site.coupling (x : Site) (pos : Nat) (c : Core) (o : FldAccOps) (shape k : Nat) : CouplingOperand :=
  let h := bit o.half
  match o.src with
  | .caravan => { bits := c.caravan.data, poison := c.caravan.poison, exps := c.caravan.exps }
  | .playa =>
    let l := x.line o.agc.val pos
    let e (i : Nat) : List Int := if imgCoupling x.m = 14 then x.halfExps pos c (2 * l + i) else []
    if shape = 0 then
      let long := o.form == .full && decide (16 < k)
      let v := c.line l >>> (256 * h)
      let w := c.line l <<< (256 * (2 - h))
      { bits := if long then v ||| w else (v.setWidth 256).setWidth 512,
        poison := c.linePoison l h || (long && c.linePoison l (1 - h)), exps := e h ++ (if long then e (1 - h) else []) }
    else { bits := c.line l, poison := c.linePoison l 0 || c.linePoison l 1, exps := e 0 ++ e 1 }

/-- Elements of an operand of a coupling format. -/
def operandElems (fmt : Nat) : Nat := 512 / fmtBits fmt

/-- Element `k` of a coupling operand. -/
def CouplingOperand.elem (q : CouplingOperand) (x : Site) (k : Nat) : Val :=
  let f := imgCoupling x.m
  let k := k % operandElems f
  elemVal f (bitField q.bits.toNat (fmtBits f * k) (fmtBits f)) (q.exps.getD k 0)

end Sys2Proof.Machine
end

