-- ==== Sys2Proof/Machine/Flags.lean ====
section
/-! DEFINITION. Accumulation groups and the flags and counts that follow from them (05 R111 to R126, R130, R133, 04
R78, R91): registers, exact and ordered sums, sticky flags, saturation, closing, and the job's counts. -/

namespace Sys2Proof.Machine

open Sys2Proof

/-! ### Registers of a group -/

/-- The exact sum of an INT register: accumulator plus 2^32 × wrap count (R119). -/
def intOf (r : BitVec 128) : Int := signedOf 32 (bitField r.toNat 0 32) + 2 ^ 32 * signedOf 24 (bitField r.toNat 32 24)

/-- The INT register of an exact sum. -/
def intReg (i : Int) : BitVec 128 :=
  let acc := wrapNat 32 i
  BitVec.ofNat 128 (acc + 2 ^ 32 * wrapNat 24 ((i - signedOf 32 acc) / 2 ^ 32))

/-- The value of a register in a format. -/
def regVal (f : AuxFmt) (r : BitVec 128) : Val :=
  match f with
  | .int => .ofInt (intOf r)
  | .longsum => longsumVal r.toInt
  | .f32 => f32.value (bitField r.toNat 0 32)
  | .f64 => f64.value (bitField r.toNat 0 64)

/-- The register that holds a value in a format; −0 becomes +0 (R118). -/
def regOf (f : AuxFmt) (v : Val) : BitVec 128 :=
  match f with
  | .int => intReg (v.rneScaled 0)
  | .longsum => BitVec.ofInt 128 (longsumOf v)
  | .f32 => BitVec.ofNat 128 (plusZero f32 (f32.round v))
  | .f64 => BitVec.ofNat 128 (plusZero f64 (f64.round v))

/-- A value rounded once to an accumulation format (R117, R129); exact on the INT and LONGSUM paths. -/
def roundAcc (f : AuxFmt) (v : Val) : Val :=
  match f with
  | .f32 => f32.value (plusZero f32 (f32.round v))
  | .f64 => f64.value (plusZero f64 (f64.round v))
  | _ => v

/-- One level of the pair tree of R129. -/
def pairSums (f : AuxFmt) : List Val → List Val
  | a :: b :: l => roundAcc f (Val.add a b) :: pairSums f l
  | l => l

/-- group_sum of R129: `n` levels of pairs. -/
def groupSum (f : AuxFmt) : Nat → List Val → Val
  | 0, l => l.headD .zero
  | n + 1, l => groupSum f n (pairSums f l)

/-- A LONGSUM128 addition modulo 2^128, with the sticky flag of R123. -/
def longsumAdd (r : BitVec 128) (sticky : Bool) (v : Int) : BitVec 128 × Bool :=
  let t := r.toInt + v
  (BitVec.ofInt 128 t, sticky || decide (t < -2 ^ 127 ∨ 2 ^ 127 ≤ t))

/-- The products of one cycle group added to an open group (R119, R123, R129); `levels` is log2 of their number. A product that is no integer, or no
multiple of 2^−48, is rounded to the nearest one where an AUXILIARY group was opened INT or LONGSUM128 (R45 gives those paths no such coupling:
DESIGN CHOICE, log entry 91). -/
def Group.add (g : Group) (levels : Nat) (xs : List Val) (poison : Bool) : Group :=
  let p := g.poison || poison
  match g.fmt with
  | .int => { g with reg := intReg (xs.foldl (fun a x => a + x.rneScaled 0) (intOf g.reg)), poison := p }
  | .longsum =>
    let r := xs.foldl (fun a x => longsumAdd a.1 a.2 (longsumOf x)) (g.reg, g.sticky)
    { g with reg := r.1, sticky := r.2, poison := p }
  | f => { g with reg := regOf f (Val.add (regVal f g.reg) (groupSum f levels xs)), poison := p }

/-- A group opened with a value. -/
def Group.opened (f : AuxFmt) (v : Val) (poison : Bool) : Group :=
  { reg := regOf f v, isOpen := true, fmt := f, poison := poison }

/-! ### Counts (R110, R156) -/

def Work.count (w : Work) (c : Counts) : Work := { w with job := { w.job with counts := w.job.counts.add c } }

/-! ### Closing a group -/

/-- A sum inside the 32-bit range, and whether it had to be moved there (R120). -/
def saturate32 (i : Int) : Int × Bool :=
  if i < -2 ^ 31 then (-2 ^ 31, true) else if 2 ^ 31 - 1 < i then (2 ^ 31 - 1, true) else (i, false)

/-- What closing a group adds to the counts: its wraps (R123) and, where the sum saturates, INT_SATURATIONS (R120). -/
def closeCounts (g : Group) (saturates : Bool) : Counts :=
  { longsumWraps := bit (g.fmt == .longsum && g.sticky),
    intSaturations := bit (saturates && g.fmt == .int && (saturate32 (intOf g.reg)).2) }

/-- A group closed with its value kept readable; `saturates` tells whether an INT sum is saturated (R120). -/
def Group.closed (g : Group) (saturates : Bool) : Group :=
  let s := saturate32 (intOf g.reg)
  if saturates && g.fmt == .int then
    { g with isOpen := false, held := true, reg := intReg s.1, sticky := g.sticky || s.2 }
  else { g with isOpen := false, held := true }

/-- The F32 value a closed field delivers (R120, R125, R126). -/
def Group.deliver (g : Group) : Word := rneF32 (regVal g.fmt g.reg)

/-- A field closed to the decision input, with its counts: the first field of a categorical Metropolis decision is over (R230); an ordered field that is not finite raises FIELD_NONFINITE (R130). -/
def Lane.toDecision (x : Lane) (sel : GroupSel) : Lane × Counts :=
  let g := (x.group sel).closed true
  let v := g.deliver
  let bad := (g.fmt == .f32 || g.fmt == .f64) && !finiteF32 v
  ({ x.setGroup sel g with decIn := v, decValid := true, decPoison := g.poison, scoreSeen := x.scoreSeen || sel == .field },
   (closeCounts (x.group sel) true).add { fieldNonfinite := bit bad })

/-- A group closed to the part output (R133): its whole register, unsaturated. -/
def Lane.toPart (x : Lane) (sel : GroupSel) : Lane × Counts :=
  let g := (x.group sel).closed false
  ({ x.setGroup sel g with partOut := g.reg, partOutFmt := g.fmt, partOutPoison := g.poison, scoreSeen := x.scoreSeen || sel == .field },
   closeCounts (x.group sel) false)

/-- A group closed to hold: a FIELD group keeps its exact sum (R120, R148). -/
def Lane.toHold (x : Lane) (sel : GroupSel) : Lane × Counts :=
  let sat := sel != .field
  (x.setGroup sel ((x.group sel).closed sat), closeCounts (x.group sel) sat)

end Sys2Proof.Machine
end

