-- ==== Sys2Proof/Machine/Fields.lean ====
section
/-! DEFINITION. The meanings of slot F and of NOP: FIELD and REDUCE (08 R216, R225 to R229; 05 R111 to R149). -/

namespace Sys2Proof.Machine

open Sys2Proof

/-! ### Paths -/

/-- The accumulation format of a path. -/
def FieldPath.fmt : FieldPath → AuxFmt
  | .int => .int
  | .longsum => .longsum
  | .f32 => .f32
  | .f64 => .f64

/-- The format of a descriptor's field (R114, R115). -/
def Site.fieldFmt (x : Site) (d : Descriptor) : AuxFmt := (fieldPath x.m d.block (x.cls d).accPath).fmt

/-- Do energies take the exact path (R147): every block's field path is INT or LONGSUM. -/
def energyExact (p m : Bytes) (t : Tiling) : Bool :=
  (List.range (imgBlocks m)).all fun a => !(fieldPath m a (t.blockClass p a).accPath).ordered

def Site.exact (x : Site) : Bool := energyExact x.p x.m x.t

/-- The state k that a lane scores (R117, R230): its own state in an energy pass, the current state and then the proposal under
categorical Metropolis, FK otherwise. -/
def Site.scored (x : Site) (j : Job) (c : Core) (d : Descriptor) (l : Nat) : Nat :=
  let k := x.cls d
  if k.kind ≠ 1 then 0
  else if x.epass then (mget 0 j.states (stateKey (d.laneRep l) (d.laneVar l))).toNat
  else if k.rule = 1 then (let y := c.lane l; if y.scoreSeen then y.proposal else y.bestState)
  else c.fk

/-! ### NOP -/

/-- NOP: with IDLE set, the unit's cycle is offered to replays and known-answer kernels (R217); the cluster counts it. -/
def State.nop (s : State) (cl : ClusterRef) (idle : Bool) : State :=
  if idle then
    match s.site? cl with
    | some _ => s.modCluster cl.key fun c => { c with idleOffered := c.idleOffered + 1 }
    | none => s
  else s

def execNop (cl : ClusterRef) (_slot : UnitSlot) (idle : Bool) (s : State) : Host.Outcome State Fault Refusal :=
  .next (s.nop cl idle)

/-! ### FLD.OPEN -/

/-- A group opened in one lane (R111, R118, R227). -/
def openLane (x : Site) (o : FldOpenOps) (j : Job) (c : Core) (l : Nat) : Lane :=
  let y := c.lane l
  let d := c.desc o.dd
  match o.grp with
  | .field =>
    let u := if o.unary then x.unary c d l (x.scored j c d l) else (Val.zero, false)
    { y with field := Group.opened (x.fieldFmt d) u.1 u.2 }
  | .energy => { y with energy := Group.opened (if x.exact then .longsum else .f64) .zero false }
  | .statistic => { y with statistic := Group.opened .int .zero false }
  | .auxiliary => { y with auxiliary := Group.opened o.fmt .zero false }

def fldOpenCore (o : FldOpenOps) (x : Site) (pos : Nat) (w : Work) : Work :=
  let d := w.core.desc o.dd
  { w with core := { (x.lanesOf pos w.core o.lm d.laneRep).foldl (fun c l => c.setLane l (openLane x o w.job w.core l)) w.core with
      spreadPart := 0 } }

def State.fldOpen (s : State) (o : FldOpenOps) : State := s.onCluster o.cl (fldOpenCore o)

def execFldOpen (o : FldOpenOps) (s : State) : Host.Outcome State Fault Refusal := .next (s.fldOpen o)

/-! ### FLD.ACC -/

/-- Products of one FLD.ACC and log2 of their number (R98, R128): 16 or 8 in the replica shapes, one in spread mode and for a full
categorical tile. -/
def accProducts (shape : Nat) (spread : Bool) (form : TileForm) : Nat × Nat :=
  if spread || form == .full then (1, 0) else if shape = 2 then (8, 3) else (16, 4)

/-- The kind of the neighbour's state (R117, R228): U8 for Potts and full tiles; for scalar ones that of the states which stand in the operand's
first word, the class's own kind where nothing tells (log entry 22). -/
def neighbourKind (form : TileForm) (own : Nat) (held : Option StateTag) : Nat :=
  match form with
  | .scalar => match held.elim own (·.kind) with | 2 => 2 | _ => 0
  | _ => 1

/-- Does a lane take a product of a spread FLD.ACC: all lanes at 16 bits, the running half at 32, the running quarter at 64 (R98). -/
def spreadTakes (shape part l : Nat) : Bool :=
  match shape with
  | 4 => l / 16 == part % 2
  | 5 => l / 8 == part % 4
  | _ => true

/-- Product `k` of a lane, and the marker of the state it takes (R117, R228). In replica mode a full tile takes word G mod 16 of the state operand
(DESIGN CHOICE, log entry 46). -/
def accProduct (x : Site) (c : Core) (o : FldAccOps) (d : Descriptor) (q : CouplingOperand) (own pos l k : Nat) : Val × Bool :=
  let sl := x.stateSlot o.ags.val pos
  let kind := neighbourKind o.form (x.cls d).kind (c.fileWord sl 0).curTag
  let st :=
    if d.spread then c.laneState kind sl 0 o.g.val
    else c.operandState kind sl (if o.form == .full then o.g.val % 16 else k) l
  let el (i : Nat) : Val := q.elem x i
  let v :=
    match o.form with
    | .full => el (if d.spread then l else st.1.toNat)
    | .potts => if st.1.toNat = own then el (if d.spread then l else k) else .zero
    | .scalar =>
      let e := el (if d.spread then l else k)
      if kind = 2 then Val.mul e (valF32 st.1) else if st.1.toNat % 2 = 1 then e else e.neg
  (v, st.2)

/-- FLD.ACC in one lane: FIRST opens FIELD, the products are added, LAST closes FIELD (R227). Only the running half or quarter of the lanes takes
a spread product of 32 or 64 bits (R98). -/
def accLane (x : Site) (o : FldAccOps) (j : Job) (c : Core) (pos l : Nat) : Lane × Counts :=
  let y := c.lane l
  let d := c.desc o.dd
  let own := x.scored j c d l
  let q := x.coupling pos c o (x.cls d).shape ((x.cls d).km1 + 1)
  let y1 :=
    if o.first then
      let u := if d.partIndex = 0 then x.unary c d l own else (Val.zero, false)
      { y with field := Group.opened (x.fieldFmt d) u.1 u.2 }
    else y
  let sel : GroupSel := if o.aux then .auxiliary else .field
  let g := y1.group sel
  let n := accProducts (x.cls d).shape d.spread o.form
  let ps := (List.range n.1).map fun k => accProduct x c o d q own pos l k
  let takes := !d.spread || spreadTakes (x.cls d).shape (if o.first then 0 else c.spreadPart) l
  let g1 := if takes then g.add n.2 (ps.map fun e => roundAcc g.fmt e.1) (q.poison || ps.any (·.2)) else g
  let y2 := y1.setGroup sel g1
  if o.last then (if d.part then y2.toPart .field else y2.toDecision .field) else (y2, {})

/-- What LAST does once in a core: UNARY advances by UNARY_STEP, FK by one with its wrap after K − 1 (R227, R230). -/
def lastCore (x : Site) (dd : Fin 4) (c : Core) : Core :=
  let d := c.desc dd
  let k := x.cls d
  { (c.setDesc dd { d with unary := (d.unary + d.unaryStep) % 2 ^ 32 }) with
    fk := if k.kind = 1 then (if c.fk + 1 ≤ k.km1 then c.fk + 1 else 0) else c.fk }

def fldAccCore (o : FldAccOps) (x : Site) (pos : Nat) (w : Work) : Work :=
  let d := w.core.desc o.dd
  let w1 := (x.lanesOf pos w.core o.lm d.laneRep).foldl (fun (a : Work) l =>
    let r := accLane x o w.job w.core pos l
    Work.count { a with core := a.core.setLane l r.1 } r.2) w
  let c1 := if o.last then lastCore x o.dd w1.core else w1.core
  let c2 : Core := if d.spread then { c1 with spreadPart := ((if o.first then 0 else w.core.spreadPart) + 1) % 4 } else c1
  { w1 with core := if o.src == .caravan then { c2 with caravan := { c2.caravan with valid := false } } else c2 }

/-- FLD.ACC in a cluster; INC adds the increments of AGC and AGS after use. A parity check that fails at a core charges it and
fails the step (R448, R449). -/
def State.fldAcc (s : State) (o : FldAccOps) : State :=
  match o.parity.bind (fun pos => (s.site? o.cl).bind fun x => (x.phys pos.val).map fun n => (x.slot, n)) with
  | some (slot, n) => s.parityError slot 0x0002 (.core { cl := o.cl, num := Fin.ofNat 66 n })
  | none => s.onCluster o.cl (fldAccCore o) fun a =>
      if o.inc then agStep (agStep a o.agc.val) o.ags.val else a

def execFldAcc (o : FldAccOps) (s : State) : Host.Outcome State Fault Refusal := .next (s.fldAcc o)

/-! ### FLD.CLOSE -/

def fldCloseCore (o : FldCloseOps) (x : Site) (pos : Nat) (w : Work) : Work :=
  let sel : GroupSel := if o.aux then .auxiliary else .field
  (x.lanes pos w.core o.lm).foldl (fun (a : Work) l =>
    let y := a.core.lane l
    let r := match o.dest with
      | .decision => y.toDecision sel
      | .partOut => y.toPart sel
      | .hold => y.toHold sel
    Work.count { a with core := a.core.setLane l r.1 } r.2) w

def State.fldClose (s : State) (o : FldCloseOps) : State := s.onCluster o.cl (fldCloseCore o)

def execFldClose (o : FldCloseOps) (s : State) : Host.Outcome State Fault Refusal := .next (s.fldClose o)

/-! ### FLD.ENRG (R148) -/

/-- Twice the energy term of a lane on the exact path, and the term on the F64 path before its rounding: 2U(v) − vG and
U(v) − ½vG, with U of R46 (the unary value enters U with the opposite sign), v the spin, the Gaussian state, or 1 for a
categorical variable. -/
def energyTerm (kind : Nat) (state : Word) (unary g lam : Val) : Val × Val :=
  match kind with
  | 0 =>
    let v : Val := if state.toNat % 2 = 1 then .ofInt 1 else .ofInt (-1)
    let u := (Val.mul unary v).neg
    let vg := Val.mul v g
    (Val.sub (Val.mul (.ofInt 2) u) vg, Val.sub u (Val.mul (.ofScaled 1 (-1)) vg))
  | 1 => (Val.sub (Val.mul (.ofInt 2) unary.neg) g, Val.sub unary.neg (Val.mul (.ofScaled 1 (-1)) g))
  | _ =>
    let v := valF32 state
    let sq := Val.mul (.ofScaled 1 (-1)) (Val.mul lam (Val.mul v v))
    let u := Val.sub sq (Val.mul unary v)
    let vg := Val.mul v g
    (Val.sub (Val.mul (.ofInt 2) u) vg, Val.sub u (Val.mul (.ofScaled 1 (-1)) vg))

/-- The lane whose row buffer and block sum (its ENERGY register) take a lane's terms: its own in replica mode; in spread mode, where the lanes are one
replica's variables, lane 0's (log entry 23). -/
def Descriptor.energyLane (d : Descriptor) (l : Nat) : Nat := if d.spread then 0 else l

def enrgLane (x : Site) (o : FldEnrgOps) (pos : Nat) (c0 : Core) (c : Core) (l : Nat) : Core :=
  let d := c0.desc o.dd
  let kind := (x.cls d).kind
  let y := c0.lane l
  let st := c0.laneState kind (x.stateSlot o.ags.val pos) d.word l
  let u := x.unary c0 d l (if kind = 1 then st.1.toNat else 0)
  let g := y.field
  let t := energyTerm kind st.1 u.1 (regVal g.fmt g.reg) (valF32 (imgPrecision x.m (d.laneVar l)))
  let p := g.poison || st.2 || u.2
  if x.exact then
    c.modLane l fun z =>
      let r := longsumAdd z.energy.reg z.energy.sticky (longsumOf t.1)
      { z with energy := { z.energy with reg := r.1, sticky := r.2, poison := z.energy.poison || p } }
  else
    c.modLane (d.energyLane l) fun z =>
      { z with rowBuf := mset 0 z.rowBuf (d.laneVar l % 32) (BitVec.ofNat 64 (plusZero f64 (f64.round t.2))),
               energy := { z.energy with poison := z.energy.poison || p } }

def fldEnrgCore (o : FldEnrgOps) (x : Site) (pos : Nat) (w : Work) : Work :=
  { w with core := (x.lanesOf pos w.core o.lm (w.core.desc o.dd).laneRep).foldl (enrgLane x o pos w.core) w.core }

def State.fldEnrg (s : State) (o : FldEnrgOps) : State :=
  s.onCluster o.cl (fldEnrgCore o) fun a => if o.inc then agStep a o.ags.val else a

def execFldEnrg (o : FldEnrgOps) (s : State) : Host.Outcome State Fault Refusal := .next (s.fldEnrg o)

/-! ### RED.PART and RED.PADD (R132, R133) -/

/-- The closed part of a lane: the part output for FIELD and AUXILIARY, the ENERGY register for ENERGY, which closes. -/
def Lane.partOf (y : Lane) (sel : GroupSel) : BitVec 128 × Bool :=
  match sel with
  | .energy => (y.energy.reg, y.energy.poison)
  | _ => (y.partOut, y.partOutPoison)

/-- The four 32-bit words of a part. -/
def partWords (v : BitVec 128) : List Word := (List.range 4).map fun i => v.extractLsb' (32 * i) 32

def redPartCore (o : RedPartOps) (x : Site) (pos : Nat) (w : Work) : Work :=
  let ls := x.lanes pos w.core o.lm
  if ls.isEmpty then w
  else
    let parts := ls.map fun l => let r := (w.core.lane l).partOf o.grp; ({ lane := l, value := r.1, poison := r.2 } : LanePart)
    let c1 := if o.grp == .energy then
        ls.foldl (fun c l => c.modLane l fun y => { y with energy := { y.energy with isOpen := false, held := true } }) w.core
      else w.core
    let c2 : Core := { c1 with launch := { kind := .part, parts := parts, partJ := o.j.val, partN := o.nm1.val + 1 } }
    let wraps := if o.grp == .energy then (ls.filter fun l => let g := (w.core.lane l).energy; g.fmt == .longsum && g.sticky).length else 0
    Work.count { w with core := c2.check x.step (parts.flatMap fun e => partWords e.value) } { longsumWraps := wraps }

def State.redPart (s : State) (o : RedPartOps) : State := s.onCluster o.cl (redPartCore o)

def execRedPart (o : RedPartOps) (s : State) : Host.Outcome State Fault Refusal := .next (s.redPart o)

/-- The part in a lane's part input added to its group, when it carries index j: exactly on the INT and LONGSUM paths, by one
rounded addition otherwise (R133). -/
def paddLane (o : RedPaddOps) (y : Lane) : Lane :=
  if y.partInJ ≠ o.j.val then y
  else
    let g := y.group o.grp
    let p := g.poison || y.partInPoison
    let g1 : Group :=
      match g.fmt with
      | .int => { g with reg := intReg (intOf g.reg + intOf y.partIn), poison := p }
      | .longsum =>
        let r := longsumAdd g.reg g.sticky y.partIn.toInt
        { g with reg := r.1, sticky := r.2, poison := p }
      | f => { g with reg := regOf f (Val.add (regVal f g.reg) (regVal f y.partIn)), poison := p }
    y.setGroup o.grp g1

def redPaddCore (o : RedPaddOps) (x : Site) (pos : Nat) (w : Work) : Work :=
  (x.lanes pos w.core o.lm).foldl (fun (a : Work) l =>
    let y := paddLane o (a.core.lane l)
    if o.final then
      let r := y.toDecision .field
      Work.count { a with core := a.core.setLane l r.1 } r.2
    else { a with core := a.core.setLane l y }) w

def State.redPadd (s : State) (o : RedPaddOps) : State := s.onCluster o.cl (redPaddCore o)

def execRedPadd (o : RedPaddOps) (s : State) : Host.Outcome State Fault Refusal := .next (s.redPadd o)

/-! ### RED.ATOM (R136) -/

/-- The atomic format of a TARGETS entry (R245). -/
def atomFmt (code : Nat) : AtomFmt :=
  match code with
  | 0x05 => .i64 | 0x0A => .f32 | 0x0B => .f64 | 0x10 => .longsum | _ => .i32

/-- Bytes of an element. -/
def AtomFmt.bytes : AtomFmt → Nat
  | .i32 | .f32 => 4
  | .i64 | .f64 => 8
  | .longsum => 16

/-- A value as an element of an atomic format (R40). -/
def AtomFmt.ofVal (f : AtomFmt) (v : Val) : Nat :=
  match f with
  | .i32 => (toSigned 32 0 v).1
  | .i64 => (toSigned 64 0 v).1
  | .f32 => FloatFmt.round Machine.f32 v
  | .f64 => FloatFmt.round Machine.f64 v
  | .longsum => wrapNat 128 (longsumOf v)

/-- Does the conversion of a value to an element saturate (R40). -/
def AtomFmt.saturates (f : AtomFmt) (v : Val) : Bool :=
  match f with
  | .i32 => (toSigned 32 0 v).2
  | .i64 => (toSigned 64 0 v).2
  | _ => false

/-- Outward beats that carry one element for each of 32 lanes: beat i holds the lanes from i × (64 / bytes) on, at line offset
64 i; lanes not given are masked off. A beat with no lane is not sent. -/
def laneBeats (f : AtomFmt) (vals : List (Nat × Nat)) (poison : Bool) (mode : CombineMode) (j n tag job step alloc offset : Nat) :
    List Outward :=
  let per := 64 / f.bytes
  (List.range (32 / per)).filterMap fun i =>
    let mine := vals.filter fun e => e.1 / per == i
    if mine.isEmpty then none
    else some
      { op := .atomic f (BitVec.ofNat 16 (mine.foldl (fun a e => a + 2 ^ (e.1 % per)) 0)) mode j n tag,
        job := job, step := step, alloc := alloc, offset := offset + 64 * i,
        data := BitVec.ofNat 512 (mine.foldl (fun a e => a + e.2 * 2 ^ (8 * f.bytes * (e.1 % per))) 0), poison := poison }

/-- The line that a target entry and a generator name. -/
def Site.targetOffset (x : Site) (tgt ago pos : Nat) : Nat := (x.t.target x.p tgt).offset + 64 * x.line ago pos

/-- The round tag of a target in a step (R245). -/
def Site.tag (x : Site) (tgt : Nat) : Nat := ((x.t.target x.p tgt).tag + x.step) % 65536

def redAtomCore (o : RedAtomOps) (x : Site) (pos : Nat) (w : Work) : Work :=
  let ls := x.lanes pos w.core o.lm
  let e := x.t.target x.p o.tgt.val
  let f := atomFmt e.format
  let vals := ls.map fun l => let g := (w.core.lane l).auxiliary; (l, f.ofVal (regVal g.fmt g.reg))
  let poison := ls.any fun l => (w.core.lane l).auxiliary.poison
  let bs := laneBeats f vals poison o.mode o.j.val e.n (x.tag o.tgt.val) w.job.id x.step e.alloc (x.targetOffset o.tgt.val o.ago.val pos)
  Work.count { w with core := { w.core with outQ := w.core.outQ ++ bs }, hit := w.hit || (poison && !bs.isEmpty) }
    { conversionSaturations := (ls.filter fun l => let g := (w.core.lane l).auxiliary; f.saturates (regVal g.fmt g.reg)).length }

def State.redAtom (s : State) (o : RedAtomOps) : State := s.onCluster o.cl (redAtomCore o)

def execRedAtom (o : RedAtomOps) (s : State) : Host.Outcome State Fault Refusal := .next (s.redAtom o)

/-! ### RED.ETOT and the energy unit (R149, R229) -/

/-- A block sum entering a tree in ascending block order: equal neighbours combine at once. `n` is the number of levels that
can combine. -/
def treePush : Nat → List (Nat × DWord) → Nat × DWord → List (Nat × DWord)
  | 0, l, e => e :: l
  | _, [], e => [e]
  | n + 1, a :: l, e => if a.1 = e.1 then treePush n l (2 * e.1, rneF64 (Val.add (valF64 a.2) (valF64 e.2))) else e :: a :: l

/-- A tree closed: the pending sums combined from the most recent upward. -/
def treeClose : List (Nat × DWord) → DWord
  | [] => 0
  | e :: l => l.foldl (fun acc a => rneF64 (Val.add (valF64 a.2) (valF64 acc))) e.2

/-- The energy of a closed tree in the job's energy format, sign-extended to 64 bits for I32, and its conversion count (R147,
R148). -/
def energyOf (fmt : Nat) (exact : Bool) (t : EnergyTree) : DWord × Bool :=
  let v : Val := if exact then .ofScaled t.exact.toInt (-49) else valF64 (treeClose t.partials)
  let r := convertTo fmt v
  (if fmt = 4 then BitVec.ofInt 64 (signedOf 32 r.1) else BitVec.ofNat 64 r.1, r.2)

/-- The energies that a job's trees hold, with their conversion flags. -/
def Job.treeEnergies (j : Job) (exact : Bool) : List (Nat × DWord × Bool) :=
  j.trees.map fun e => (e.1, energyOf j.body.energyFormat exact e.2)

/-- Every tree of a job closed at the last EPASS word: each replica's energy stands in the ledger table (R229). -/
def Job.closeTrees (j : Job) (exact : Bool) : Job :=
  { j with energies := (j.treeEnergies exact).foldl (fun m e => mset 0 m e.1 e.2.1) j.energies }

/-- The trees of a step that ends: closed, logged with the step (R408) and given up; a conversion that saturated is counted once. -/
def Job.endTrees (j : Job) (exact : Bool) : Job :=
  if j.trees.isEmpty then j else
  let j1 := j.closeTrees exact
  { j1 with
    trees := [],
    energyLog := j.energyLog ++ [(j.step, (List.range j.body.replicas).map fun r => mget 0 j1.energies r)],
    counts := j.counts.add { conversionSaturations := ((j.treeEnergies exact).filter fun e => e.2.2).length } }

/-- The sum of a row buffer's 32 positions, by group_sum (R149 step 1). -/
def rowSum (y : Lane) : DWord :=
  rneF64 (groupSum .f64 5 ((List.range 32).map fun i => valF64 (mget 0 y.rowBuf i)))

/-- The lanes whose buffers and sums an energy operation takes. -/
def energyLanes (d : Descriptor) (ls : List Nat) : List Nat := if d.spread then (if ls.isEmpty then [] else [0]) else ls

/-- ROW: the row sum goes into the block sum, which the ENERGY register holds, and the buffer takes the next row (R149 step 2). -/
def etotRow (d : Descriptor) (ls : List Nat) (c : Core) : Core :=
  (energyLanes d ls).foldl (fun c l => c.modLane l fun y =>
    { y with energy := { y.energy with reg := regOf .f64 (Val.add (regVal .f64 y.energy.reg) (valF64 (rowSum y))) }, rowBuf := [] }) c

/-- PUSH of one lane: its block sum, or on the exact path its ENERGY register, goes to the replica's tree and is cleared. -/
def etotPushLane (x : Site) (d : Descriptor) (w : Work) (l : Nat) : Work :=
  let y := w.core.lane l
  let t := mget {} w.job.trees (d.laneRep l)
  let t1 : EnergyTree :=
    if x.exact then { t with exact := t.exact + y.energy.reg, pushed := t.pushed + 1 }
    else { t with partials := treePush 33 t.partials (1, y.energy.reg.setWidth 64), pushed := t.pushed + 1 }
  Work.count
    { w with
      core := w.core.setLane l { y with energy := {} },
      job := { w.job with trees := minsert w.job.trees (d.laneRep l) t1 }, hit := w.hit || y.energy.poison }
    { longsumWraps := bit (x.exact && y.energy.sticky) }

/-- On the exact path every lane of a spread set holds part of its replica's block: they enter as one push. -/
def etotPush (x : Site) (d : Descriptor) (ls : List Nat) (w : Work) : Work :=
  if x.exact && d.spread then
    let w1 := ls.foldl (etotPushLane x d) w
    { w1 with job := { w1.job with trees := mmod {} w1.job.trees d.rep fun (t : EnergyTree) =>
        { t with pushed := t.pushed - (ls.length - 1) } } }
  else (energyLanes d ls).foldl (etotPushLane x d) w

def redEtotCore (o : RedEtotOps) (x : Site) (pos : Nat) (w : Work) : Work :=
  let d := w.core.desc o.dd
  let ls := x.lanesOf pos w.core o.lm d.laneRep
  match o.mode with
  | .row => { w with core := etotRow d ls w.core }
  | .push => etotPush x d ls w

def State.redEtot (s : State) (o : RedEtotOps) : State := s.onCluster o.cl (redEtotCore o)

def execRedEtot (o : RedEtotOps) (s : State) : Host.Outcome State Fault Refusal := .next (s.redEtot o)

end Sys2Proof.Machine
end

