-- ==== Sys2Proof/Machine/Streams.lean ====
section
/-! DEFINITION. The streams of 06: register step, draw, seed state, jumps, stream index, draw positions. A stream's
state is a natural number below 2^127 whose bit i is s[i]. -/

namespace Sys2Proof.Machine

open Sys2Proof

/-- One register step (R158). -/
def streamStep (s : Nat) : Nat := s / 2 + ((s ^^^ (s / 2)) % 2) * 2 ^ 126

/-- The 64 register steps of a draw (R159). -/
def advance64 (s : Nat) : Nat := s / 2 ^ 64 ||| ((s ^^^ (s / 2)) % 2 ^ 64) * 2 ^ 63

def rotl32 (x n : Nat) : Nat := rotr32 x (32 - n)

/-- The output filter (R160). -/
def streamFilter (s : Nat) : Word :=
  let a := s % 2 ^ 32
  let b := s / 2 ^ 32 % 2 ^ 32
  let c := s / 2 ^ 64 % 2 ^ 32
  let d := s / 2 ^ 96 % 2 ^ 32
  let w := a ^^^ rotl32 b 9 ^^^ (rotl32 c 17 &&& (rotl32 d 5 ^^^ 0xFFFFFFFF)) ^^^ (b &&& c)
  let w := w * 0x8F3A5D27 % 2 ^ 32
  BitVec.ofNat 32 (w ^^^ (w / 2 ^ 16))

/-- The seed state S0 of a job's seed (R161). -/
def seedState (seed : BitVec 64) : Nat :=
  let d := sha256 (beBytes 8 seed.toNat ++ ascii "lyaris-stream")
  let s0 := beNat (d.take 16) / 2
  if s0 = 0 then 1 else s0

/-- The carry-less product of `a` and the `n` low bits of `b`. -/
def clmul : Nat → Nat → Nat → Nat
  | 0, _, _ => 0
  | n + 1, a, b => (if b % 2 = 1 then a else 0) ^^^ (2 * clmul n a (b / 2))

/-- Reduction by x^127 + x + 1 of a product of degree below 254 (R165): x^127 is x + 1. -/
def polyReduce (p : Nat) : Nat :=
  let fold (q : Nat) : Nat := let hi := q / 2 ^ 127; (q % 2 ^ 127) ^^^ hi ^^^ (2 * hi)
  fold (fold p)

/-- a·b mod x^127 + x + 1 (R165). -/
def polyMul (a b : Nat) : Nat := polyReduce (clmul 127 a b)

/-- r × g^j for the `n` low bits of `j`. -/
def polyPow : Nat → Nat → Nat → Nat → Nat
  | 0, _, _, r => r
  | n + 1, j, g, r => polyPow n (j / 2) (polyMul g g) (if j % 2 = 1 then polyMul r g else r)

/-- x^J (R165), for J below 2^127. -/
def xpow (j : Nat) : Nat := polyPow 127 j 2 1

/-- c(A) applied to S, the `n` low coefficients of c. -/
def polyApply : Nat → Nat → Nat → Nat
  | 0, _, _ => 0
  | n + 1, c, s => (if c % 2 = 1 then s else 0) ^^^ polyApply n (c / 2) (streamStep s)

/-- jump(S, J) of R165. -/
def streamJump (s j : Nat) : Nat := polyApply 127 (xpow j) s

/-- The stream index (R163). -/
def streamIndex (rho nu purpose : Nat) : Nat := (rho * 2 ^ 40 + nu) * 8 + purpose

/-- start(idx) of R164. -/
def streamStart (s0 idx : Nat) : Nat := streamJump s0 (idx * 2 ^ 72)

/-- Draw p of stream idx under seed state S0 (R159, R164, R166): the two jumps as one. -/
def streamDraw (s0 idx p : Nat) : Word := streamFilter (advance64 (streamJump s0 (idx * 2 ^ 72 + 64 * p)))

/-- Draw p of the stream of a replica (or slot), variable and purpose, from the job's seed (R163 to R166). -/
def jobDraw (seed : BitVec 64) (rho nu purpose p : Nat) : Word :=
  streamDraw (seedState seed) (streamIndex rho nu purpose) p

end Sys2Proof.Machine
end

