-- ==== Sys2Proof/Machine/Draw.lean ====
section
/-! DEFINITION. The meanings of the DRAW operations (08 R230; 04 R74 to R91; 06 R163 to R166). -/

namespace Sys2Proof.Machine

open Sys2Proof

/-! ### Draws and writes of a lane -/

/-- Draw k of a lane's decision: purpose and draws per decision n_b fix its position t × n_b + k (R76, R166). -/
def laneDraw (j : Job) (d : Descriptor) (l purpose nb k : Nat) : Word :=
  jobDraw j.seed (d.laneRep l) (d.laneVar l) purpose (j.step * nb + k)

/-- β of a lane's decision (R95, R222): its register once EXC.BETA has loaded it, else β of its replica at the step (log entry 25). -/
def Site.laneBeta (x : Site) (j : Job) (d : Descriptor) (l : Nat) (y : Lane) : Word :=
  if y.betaLoaded then y.beta else j.betaAt x.m x.input (j.slotOf (d.laneRep l)) j.step

/-- The state a lane's variable holds. -/
def laneOld (j : Job) (d : Descriptor) (l : Nat) : Word := mget 0 j.states (stateKey (d.laneRep l) (d.laneVar l))

/-- The state a decision leaves: a new one, or the previous one kept (R78, R91). -/
def Decision.result (e : Decision) (old : Word) : Word :=
  match e with
  | .set w => w
  | _ => old

/-- The counts a decision raises (R78, R91). -/
def Decision.counts : Decision → Counts
  | .set _ => {}
  | .nonFinite => { nonfiniteDecisions := 1 }
  | .degenerate => { gaussDegenerate := 1 }

/-- A lane's variable takes a state: the job's state table. -/
def Job.setState (j : Job) (d : Descriptor) (l : Nat) (w : Word) : Job :=
  { j with states := mset 0 j.states (stateKey (d.laneRep l) (d.laneVar l)) w }

/-- Words entered in the launch register, tagged SEL and with the phase they belong to (R222, R223, R230), and the states that they hold. -/
def Core.launchWords (c : Core) (sel : Nat) (phase : Bool) (tag : StateTag) (ws : List (Nat × Word)) : Core :=
  { c with launch := { c.launch with
      kind := .state,
      words := ws.foldl (fun m e => mset none m e.1 (some { data := e.2, sel := sel, phase := phase, tag := some tag })) c.launch.words } }

/-- The word of the launch register at a position; 0 where none is there. -/
def Core.launchWord (c : Core) (w : Nat) : Word := ((mget none c.launch.words w).map (·.data)).getD 0

/-- A word with its `b` bits at `lo` replaced. -/
def setField (w : Word) (lo b v : Nat) : Word :=
  BitVec.ofNat 32 (w.toNat - bitField w.toNat lo b * 2 ^ lo + v % 2 ^ b * 2 ^ lo)

/-- New states packed into the word of each, over the words that stand there: `b` bits a state, lane l at bit b·l. -/
def packStates (b base : Nat) (old : Nat → Word) (ns : List (Nat × Word)) : List (Nat × Word) :=
  let ws := (List.range b).filter fun i => ns.any fun e => b * e.1 / 32 == i
  ws.map fun i =>
    (base + i, (ns.filter fun e => b * e.1 / 32 == i).foldl (fun a e => setField a (b * e.1 % 32) b e.2.toNat) (old (base + i)))

/-- The states of a decision written back and launched (R230): `b` bits a state from word `base` of a line. -/
def Core.writeStates (c : Core) (step line b base : Nat) (ns : List (Nat × Word)) : Core :=
  c.writeWords step line (packStates b base (fun w => lineWord (c.line line) w) ns) false

def Core.launchStates (c : Core) (step sel b base : Nat) (phase : Bool) (tag : StateTag) (ns : List (Nat × Word)) : Core :=
  let ws := packStates b base c.launchWord ns
  (c.launchWords sel phase tag ws).check step (ws.map (·.2))

/-- VAR and WORD advanced by INC (R230). -/
def Core.advance (c : Core) (o : DrawOps) : Core :=
  if o.inc then
    let d := c.desc o.dd
    c.setDesc o.dd { d with var := (((d.var : Int) + d.varStep) % 2 ^ 40).toNat, word := (d.word + d.wordStep) % 16 }
  else c

/-- The decisions of the lanes of a core: new states in the table, counts, and whether a poisoned value reached one. -/
def decideLanes (o : DrawOps) (ls : List Nat) (dec : Job → Core → Nat → Decision) (w : Work) : Work × List (Nat × Word) :=
  let d := w.core.desc o.dd
  ls.foldl (fun acc l =>
    let e := dec w.job w.core l
    let n := e.result (laneOld w.job d l)
    (Work.count { acc.1 with job := acc.1.job.setState d l n, hit := acc.1.hit || (w.core.lane l).decPoison } e.counts,
     acc.2 ++ [(l, n)])) (w, [])

/-- The states that a descriptor's decisions give. -/
def Site.tagOf (x : Site) (d : Descriptor) : StateTag := { kind := (x.cls d).kind, km1 := (x.cls d).km1 }

/-- The lanes that a DRAW decides for. -/
def Site.drawLanes (x : Site) (pos : Nat) (c : Core) (o : DrawOps) : List Nat := x.lanesOf pos c o.lm (c.desc o.dd).laneRep

/-- Write-back and launch of the states of one decision. -/
def finishDraw (x : Site) (pos : Nat) (o : DrawOps) (b : Nat) (r : Work × List (Nat × Word)) : Work :=
  if r.2.isEmpty then r.1
  else
    let c := r.1.core
    let d := c.desc o.dd
    let c1 := c.writeStates x.step (x.line o.agw.val pos) b d.word r.2
    let c2 := if o.launch then c1.launchStates x.step o.sel.val b d.word x.phaseBit (x.tagOf d) r.2 else c1
    { r.1 with core := c2.advance o }

/-! ### DRW.BIN (R82 to R84) -/

def decideBin (x : Site) (pos : Nat) (o : DrawOps) (j : Job) (c : Core) (l : Nat) : Decision :=
  let d := c.desc o.dd
  let y := c.lane l
  let u := laneDraw j d l 0 1 0
  if (x.cls d).rule = 1 then
    binaryMetropolis (x.laneBeta j d l y) y.decIn u (c.laneState 0 (x.stateSlot o.ags.val pos) d.word l).1
  else binaryHeatBath (x.laneBeta j d l y) y.decIn u

/-- The current state of a lane at (AGS, WORD), and its marker. -/
def Site.current (x : Site) (pos kind : Nat) (o : DrawOps) (c : Core) (l : Nat) : Word × Bool :=
  c.laneState kind (x.stateSlot o.ags.val pos) (c.desc o.dd).word l

/-- DRW.BIN in a core. Metropolis consumes the current states too (R84, R236). -/
def drwBinCore (o : DrawOps) (x : Site) (pos : Nat) (w : Work) : Work :=
  let ls := x.drawLanes pos w.core o
  let read := (x.cls (w.core.desc o.dd)).rule == 1 && ls.any fun l => (x.current pos 0 o w.core l).2
  finishDraw x pos o 1 (decideLanes o ls (decideBin x pos o) { w with hit := w.hit || read })

def State.drwBin (s : State) (o : DrawOps) : State := s.onCluster o.cl (drwBinCore o)

def execDrwBin (o : DrawOps) (s : State) : Host.Outcome State Fault Refusal := .next (s.drwBin o)

/-! ### DRW.CAT (R87, R88) -/

/-- One key, for state DK: the best so far is kept, the lower index on a tie. -/
def catKey (x : Site) (j : Job) (d : Descriptor) (km1 dk l : Nat) (y : Lane) : Lane :=
  let u := laneDraw j d l 1 (km1 + 1) dk
  let y := if dk = 0 then { y with keyNan := false, bestState := 0, bestKey := 0 } else y
  match gumbelKey (x.laneBeta j d l y) y.decIn u with
  | none => { y with keyNan := true }
  | some k => if dk = 0 || Val.lt (valF32 y.bestKey) (valF32 k) then { y with bestKey := k, bestState := dk } else y

/-- The winner of the K keys. -/
def decideCat (_j : Job) (c : Core) (l : Nat) : Decision :=
  let y := c.lane l
  if y.keyNan then .nonFinite else .set (BitVec.ofNat 32 y.bestState)

def drwCatCore (o : DrawOps) (x : Site) (pos : Nat) (w : Work) : Work :=
  let d := w.core.desc o.dd
  let km1 := (x.cls d).km1
  let ls := x.drawLanes pos w.core o
  let dk := w.core.dk
  let c1 := ls.foldl (fun c l => c.modLane l (catKey x w.job d km1 dk l)) w.core
  let w1 : Work := { w with core := { c1 with dk := if dk < km1 then dk + 1 else 0 },
                            hit := w.hit || ls.any fun l => (w.core.lane l).decPoison }
  if dk < km1 then w1 else finishDraw x pos o 8 (decideLanes o ls decideCat w1)

def State.drwCat (s : State) (o : DrawOps) : State := s.onCluster o.cl (drwCatCore o)

def execDrwCat (o : DrawOps) (s : State) : Host.Outcome State Fault Refusal := .next (s.drwCat o)

/-! ### DRW.CATM (R85) -/

def catmDecide (x : Site) (o : DrawOps) (j : Job) (c : Core) (l : Nat) : Decision :=
  let y := c.lane l
  catMetropolis (x.laneBeta j (c.desc o.dd) l y) y.scoreNow y.decIn (laneDraw j (c.desc o.dd) l 0 2 1) y.bestState y.proposal

/-- STAGE 0 of a lane: U_0 sets the proposal k' from the current state k. -/
def catmPropose (x : Site) (pos : Nat) (o : DrawOps) (j : Job) (c : Core) (l : Nat) (y : Lane) : Lane :=
  let d := c.desc o.dd
  let k := (c.laneState 1 (x.stateSlot o.ags.val pos) d.word l).1.toNat
  { y with bestState := k, proposal := catProposal k (laneDraw j d l 0 2 0).toNat ((x.cls d).km1 + 1), scoreSeen := false }

def drwCatmCore (o : DrawOps) (stage : Nat) (x : Site) (pos : Nat) (w : Work) : Work :=
  let ls := x.drawLanes pos w.core o
  match stage with
  | 0 => { w with core := ls.foldl (fun c l => c.modLane l (catmPropose x pos o w.job w.core l)) w.core,
                  hit := w.hit || ls.any fun l => (x.current pos 1 o w.core l).2 }
  | 1 => { w with core := ls.foldl (fun c l => c.modLane l fun y => { y with scoreNow := y.decIn }) w.core,
                  hit := w.hit || ls.any fun l => (w.core.lane l).decPoison }
  | _ => finishDraw x pos o 8 (decideLanes o ls (catmDecide x o) w)

def State.drwCatm (s : State) (o : DrawOps) (stage : Nat) : State := s.onCluster o.cl (drwCatmCore o stage)

def execDrwCatm (o : DrawOps) (stage : Fin 3) (s : State) : Host.Outcome State Fault Refusal := .next (s.drwCatm o stage.val)

/-! ### DRW.GAU (R89 to R91) -/

def decideGau (x : Site) (o : DrawOps) (j : Job) (c : Core) (l : Nat) : Decision :=
  let d := c.desc o.dd
  let y := c.lane l
  gaussianDecision (x.laneBeta j d l y) y.decIn (imgPrecision x.m (d.laneVar l)) (laneDraw j d l 2 2 0) (laneDraw j d l 2 2 1)

/-- The new states of lanes 16h to 16h + 15 as words of a line. -/
def gauHalf (h : Nat) (ns : List (Nat × Word)) : List (Nat × Word) :=
  (ns.filter fun e => e.1 / 16 == h).map fun e => (e.1 % 16, e.2)

/-- The states fill lines AGW and AGW + 1, and the launch register twice in two half-beats. -/
def finishGau (x : Site) (pos : Nat) (o : DrawOps) (r : Work × List (Nat × Word)) : Work :=
  if r.2.isEmpty then r.1
  else
    let l := x.line o.agw.val pos
    let lo := gauHalf 0 r.2
    let hi := gauHalf 1 r.2
    let c1 := (r.1.core.writeWords x.step l lo false).writeWords x.step ((l + 1) % 2048) hi false
    let c2 :=
      if o.launch then
        let tag := x.tagOf (r.1.core.desc o.dd)
        let c2 := (c1.launchWords o.sel.val x.phaseBit tag lo).check x.step ((lo ++ hi).map (·.2))
        { c2 with launchQ := c2.launchQ ++
            [{ kind := .state, words := hi.map fun e => (e.1, some { data := e.2, sel := o.sel.val, phase := x.phaseBit, tag := some tag }) }] }
      else c1
    { r.1 with core := c2.advance o }

def drwGauCore (o : DrawOps) (x : Site) (pos : Nat) (w : Work) : Work :=
  finishGau x pos o (decideLanes o (x.drawLanes pos w.core o) (decideGau x o) w)

def State.drwGau (s : State) (o : DrawOps) : State := s.onCluster o.cl (drwGauCore o)

def execDrwGau (o : DrawOps) (s : State) : Host.Outcome State Fault Refusal := .next (s.drwGau o)

end Sys2Proof.Machine
end

