-- ==== Sys2Proof/Machine/Exch.lean ====
section
/-! DEFINITION. The meanings of the EXCH operations (08 R231, R232; 04 R95, R103 to R109) and the ledger table. -/

namespace Sys2Proof.Machine

open Sys2Proof

/-! ### The ledger table (R231) -/

/-- The lines of the ledger table: energies, π, ancestors. -/
def Job.ledgerLines (j : Job) : List (BitVec 512) :=
  let r := j.ledgerReplicas
  let pack (w n : Nat) (f : Nat → Nat) (i : Nat) : BitVec 512 :=
    BitVec.ofNat 512 ((List.range n).foldl (fun a k => a + f (n * i + k) % 2 ^ w * 2 ^ (w * k)) 0)
  (List.range (r / 8)).map (pack 64 8 fun k => (j.energyF64 k).toNat) ++
    (List.range (r / 32)).map (pack 16 32 j.pi) ++ (List.range (r / 32)).map (pack 16 32 fun k => mget 0 j.ancestors k)

/-- The ledger table written from a line on. -/
def Core.writeLedger (c : Core) (step first : Nat) (ls : List (BitVec 512)) : Core :=
  ((List.range ls.length).zip ls).foldl (fun c e =>
    let l := (first + e.1) % 2048
    let c1 := c.noteLine step l
    { c1 with playa := writeLine c1.playa (64 * l) e.2, playaPoison := mset false (mset false c1.playaPoison (2 * l) false) (2 * l + 1) false }) c

/-- The lines of the ledger table that an operation finds from a line on. -/
def Core.tableBytes (c : Core) (first replicas : Nat) : Bytes :=
  (List.range (replicas / 8 + 2 * (replicas / 32))).flatMap fun i => leBytes 64 (c.line ((first + i) % 2048)).toNat

/-- The energies that an operation of the ledger core takes: from the table at AGT where it stands, else from the energy unit. -/
def Job.tableEnergy (j : Job) (c : Core) (first r : Nat) : DWord :=
  if j.ledgerLine = some first then BitVec.ofNat 64 (leAt (c.tableBytes first j.ledgerReplicas) (8 * r) 8) else j.energyF64 r

/-- A job with π and the ancestors as the table at AGT gives them, where it stands (R231). -/
def Job.readLedger (j : Job) (c : Core) (first : Nat) : Job :=
  if j.ledgerLine = some first then
    let b := c.tableBytes first j.ledgerReplicas
    let r := j.ledgerReplicas
    { j with perm := (List.range j.body.replicas).map fun a => leAt b (8 * r + 2 * a) 2,
             ancestors := (List.range j.body.replicas).foldl (fun m a => mset 0 m a (leAt b (10 * r + 2 * a) 2)) [] }
  else j

/-- An operation of the ledger core on the table at AGT: other cores of its cluster treat it as NOP, and so does the ledger core in a step in which
the operation has no effect (R231, R232). -/
def ledgerCore (o : ExcOps) (acts : Site → Job → Bool) (f : Site → (Nat → DWord) → List Nat → Work → Work) (x : Site) (pos : Nat) (w : Work) : Work :=
  if x.isLedger pos && acts x w.job then
    let first := x.line o.agt.val pos
    let w1 := f x (w.job.tableEnergy w.core first) (x.lanes pos w.core o.lm) { w with job := w.job.readLedger w.core first }
    { w1 with core := w1.core.writeLedger x.step first w1.job.ledgerLines, job := { w1.job with ledgerLine := some first } }
  else w

/-! ### EXC.PAIR (R103 to R105) -/

/-- The exchange point of a step, if it has one (R103). -/
def Job.exchangePoint? (j : Job) : Option Nat :=
  let n := j.body.interval
  if j.body.ensemble = 1 ∧ n ≠ 0 ∧ (j.step + 1) % n = 0 then some ((j.step + 1) / n - 1) else none

/-- z of a pair of slots (R104), by the energies `en` of the replicas. -/
def pairZ (j : Job) (m input : Bytes) (en : Nat → DWord) (a : Nat) : Val :=
  let db := valF32 (rneF32 (Val.sub (valF32 (j.slotBeta m input a (j.step + 1))) (valF32 (j.slotBeta m input (a + 1) (j.step + 1)))))
  let de := valF64 (rneF64 (Val.sub (valF64 (en (j.pi (a + 1)))) (valF64 (en (j.pi a)))))
  valF32 (rneF32 (Val.mul db de))

/-- π with two neighbouring slots swapped. -/
def Job.swapSlots (j : Job) (a : Nat) : Job :=
  let p := if j.perm.isEmpty then List.range j.body.replicas else j.perm
  { j with perm := (p.set a (j.pi (a + 1))).set (a + 1) (j.pi a),
           exchAccepts := mset 0 j.exchAccepts a (satAdd 32 (mget 0 j.exchAccepts a) 1) }

/-- One slot pair decided. -/
def decidePair (m input : Bytes) (en : Nat → DWord) (e : Nat) (j : Job) (a : Nat) : Job :=
  if j.body.replicas ≤ a + 1 then j
  else
    let z := pairZ j m input en a
    if z.isNan then { j with counts := j.counts.add { nonfiniteDecisions := 1 } }
    else if (jobDraw j.seed a 0 3 e).toNat < expq z then j.swapSlots a
    else j

def excPairLedger (o : ExcOps) (x : Site) (en : Nat → DWord) (ls : List Nat) (w : Work) : Work :=
  match w.job.exchangePoint? with
  | none => w
  | some e => { w with job := ls.foldl (fun j l => decidePair x.m x.input en e j (64 * o.ch.val + 2 * l + e % 2)) w.job }

def State.excPair (s : State) (o : ExcOps) : State := s.onCluster o.cl (ledgerCore o (fun _ j => j.exchangePoint?.isSome) (excPairLedger o))

def execExcPair (o : ExcOps) (s : State) : Host.Outcome State Fault Refusal := .next (s.excPair o)

/-! ### EXC.BETA (R95, R96) -/

/-- Each lane's β register takes β of its replica for the step that is about to be decided (log entry 25). -/
def excBetaCore (lm : Fin 4) (dd : Fin 4) (x : Site) (pos : Nat) (w : Work) : Work :=
  let d := w.core.desc dd
  { w with core := (x.lanesOf pos w.core lm d.laneRep).foldl (fun c l => c.modLane l fun y =>
      { y with betaLoaded := true, beta := w.job.betaAt x.m x.input (w.job.slotOf (d.laneRep l)) w.job.step }) w.core }

def State.excBeta (s : State) (cl : ClusterRef) (lm dd : Fin 4) : State := s.onCluster cl (excBetaCore lm dd)

def execExcBeta (cl : ClusterRef) (lm : Fin 4) (dd : Fin 4) (s : State) : Host.Outcome State Fault Refusal :=
  .next (s.excBeta cl lm dd)

/-! ### EXC.WGT (R106) -/

/-- Is the population resampled after this step. -/
def Job.resamples? (j : Job) (m : Bytes) : Bool :=
  j.body.ensemble == 2 && !Val.eqv (valF32 (imgBeta m (j.step + 1))) (valF32 (imgBeta m j.step))

/-- ℓ_r of a replica. -/
def Job.logWeight (j : Job) (m : Bytes) (en : Nat → DWord) (r : Nat) : DWord :=
  let db := valF32 (rneF32 (Val.sub (valF32 (imgBeta m (j.step + 1))) (valF32 (imgBeta m j.step))))
  rneF64 (Val.mul db (valF64 (en r))).neg

/-- PASS 0 of one replica: ℓ_r, and the running largest that is not NaN. -/
def weighFirst (m : Bytes) (en : Nat → DWord) (j : Job) (r : Nat) : Job :=
  if j.body.replicas ≤ r then j
  else
    let l := j.logWeight m en r
    { j with
      logWeights := mset none j.logWeights r (some l),
      lmax := if (valF64 l).isNan then j.lmax else match j.lmax with
        | none => some l
        | some x => if Val.lt (valF64 x) (valF64 l) then some l else some x }

/-- Q_r of a replica from ℓ_max. -/
def weightOf (lmax : Option DWord) (l : DWord) : Nat :=
  let v := valF64 l
  if v.isNan then 0
  else match lmax with
    | none => 0
    | some x => if Val.eqv v (valF64 x) then 2 ^ 32 else expq (valF32 (rneF32 (Val.sub (valF64 x) v)))

/-- PASS 1 of one replica: its weight; a NaN ℓ_r raises the non-finite count. -/
def weighSecond (j : Job) (r : Nat) : Job :=
  if j.body.replicas ≤ r then j
  else
    let l := (mget none j.logWeights r).getD 0
    { j with weights := mset 0 j.weights r (weightOf j.lmax l),
             counts := j.counts.add { nonfiniteDecisions := bit (valF64 l).isNan } }

def excWgtLedger (o : ExcOps) (pass : Bool) (x : Site) (en : Nat → DWord) (ls : List Nat) (w : Work) : Work :=
  if w.job.resamples? x.m then
    let j0 := if o.ch.val = 0 ∧ pass = false then { w.job with logWeights := [], weights := [], lmax := none, ancestors := [] } else w.job
    { w with job := ls.foldl (fun j l => if pass then weighSecond j (32 * o.ch.val + l) else weighFirst x.m en j (32 * o.ch.val + l)) j0 }
  else w

def State.excWgt (s : State) (o : ExcOps) (pass : Bool) : State := s.onCluster o.cl (ledgerCore o (fun x j => j.resamples? x.m) (excWgtLedger o pass))

def execExcWgt (o : ExcOps) (pass : Bool) (s : State) : Host.Outcome State Fault Refusal := .next (s.excWgt o pass)

/-! ### EXC.RSMP (R107 to R109) -/

/-- The running sums C of the weights. -/
def cumulative : Nat → List Nat → List Nat
  | _, [] => []
  | acc, q :: qs => (acc + q) :: cumulative (acc + q) qs

/-- ancestor[m] of R107; the identity where no weight is above 0 (R106). -/
def ancestorOf (qs : List Nat) (u : Word) (m : Nat) : Nat :=
  let s := qs.sum
  if s = 0 then m
  else
    let pos := (m * 2 ^ 32 + u.toNat) * s / (qs.length * 2 ^ 32)
    (cumulative 0 qs).findIdx fun c => decide (pos < c)

/-- Every replica's states replaced by its ancestor's (R107, R108). -/
def Job.adopt (j : Job) (anc : List Nat) : Job :=
  { j with states := (List.range j.body.replicas).flatMap fun m =>
      (j.states.filter fun e => e.1 / 2 ^ 40 == anc.getD m m).map fun e => (stateKey m (e.1 % 2 ^ 40), e.2) }

/-- A chunk of ancestors; the first chunk makes the record of R109 and gives the replicas their ancestors' states. -/
def excRsmpLedger (o : ExcOps) (x : Site) (_ : Nat → DWord) (ls : List Nat) (w : Work) : Work :=
  if w.job.resamples? x.m then
    let j := w.job
    let qs := (List.range j.body.replicas).map fun r => mget 0 j.weights r
    let u := jobDraw j.seed 0 0 4 j.step
    let anc := (List.range j.body.replicas).map (ancestorOf qs u)
    let j1 :=
      if o.ch.val = 0 then
        { j.adopt anc with resamples := j.resamples ++
            [{ step := j.step, lmax := j.lmax.getD (BitVec.ofNat 64 f64.nanCode), total := qs.sum, ancestors := anc }] }
      else j
    { w with job := { j1 with ancestors := ls.foldl (fun a l =>
        let m := 32 * o.ch.val + l
        if m < j.body.replicas then mset 0 a m (anc.getD m m) else a) j1.ancestors } }
  else w

def State.excRsmp (s : State) (o : ExcOps) : State := s.onCluster o.cl (ledgerCore o (fun x j => j.resamples? x.m) (excRsmpLedger o))

def execExcRsmp (o : ExcOps) (s : State) : Host.Outcome State Fault Refusal := .next (s.excRsmp o)

end Sys2Proof.Machine
end

