-- ==== Sys2Proof/Machine/Stat.lean ====
section
/-! DEFINITION. The meanings of the STAT and TOPK operations (08 R232; 05 R145, R146, R151 to R155). -/

namespace Sys2Proof.Machine

open Sys2Proof

/-! ### Increments of a table in memory -/

/-- Outward beats that add one to each listed element of a table of I32 or I64 elements at a byte offset of a target's allocation:
one beat a line, with the increments of the lanes that share an element added. -/
def incBeats (f : AtomFmt) (els : List Nat) (poison : Bool) (n tag job step alloc base : Nat) : List Outward :=
  let per := 64 / f.bytes
  let lines := (els.map (· / per)).eraseDups
  lines.map fun ln =>
    let mine := (els.filter fun e => e / per == ln).map (· % per)
    { op := .atomic f (BitVec.ofNat 16 (mine.eraseDups.foldl (fun a e => a + 2 ^ e) 0)) .arrival 0 n tag, job := job, step := step,
      alloc := alloc, offset := base + 64 * ln,
      data := BitVec.ofNat 512 (mine.foldl (fun a e => a + 2 ^ (8 * f.bytes * e)) 0), poison := poison }

/-- The increments of a core's lanes sent to a target entry. -/
def sendIncrements (x : Site) (tgt base : Nat) (els : List (Nat × Bool)) (w : Work) : Work :=
  let e := x.t.target x.p tgt
  let poison := els.any (·.2)
  let bs := incBeats (if e.format = 5 then .i64 else .i32) (els.map (·.1)) poison e.n (x.tag tgt) w.job.id x.step e.alloc
    (e.offset + base)
  { w with core := { w.core with outQ := w.core.outQ ++ bs }, hit := w.hit || (poison && !bs.isEmpty) }

/-- ±1 added to the STATISTIC group of a lane. -/
def addStat (l : Nat) (v : Int) (poison : Bool) (c : Core) : Core :=
  c.modLane l fun y => { y with statistic := y.statistic.add 0 [.ofInt v] poison }

def spinOf (w : Word) : Int := if w.toNat % 2 = 1 then 1 else -1

/-! ### STA.SGL -/

def staSglCore (o : StaOps) (x : Site) (pos : Nat) (w : Work) : Work :=
  let d := w.core.desc o.dd
  let kind := (x.cls d).kind
  let ls := x.lanesOf pos w.core o.lm d.laneRep
  let st (l : Nat) := w.core.laneState kind (x.stateSlot o.ags.val pos) o.word.val l
  if kind = 0 then { w with core := ls.foldl (fun c l => addStat l (spinOf (st l).1) (st l).2 c) w.core }
  else if kind = 1 then sendIncrements x d.statTgt 0 (ls.map fun l => ((st l).1.toNat, (st l).2)) w
  else w

def State.staSgl (s : State) (o : StaOps) : State := s.onCluster o.cl (staSglCore o)

def execStaSgl (o : StaOps) (s : State) : Host.Outcome State Fault Refusal := .next (s.staSgl o)

/-! ### STA.PAIR -/

/-- STA.PAIR in a core. A row of the K_i × K_j table has the K of the second variable, which the states at (AGS2, WORD2) give; the class's own where
nothing tells (log entry 22). -/
def staPairCore (o : StaPairOps) (x : Site) (pos : Nat) (w : Work) : Work :=
  let d := w.core.desc o.base.dd
  let k := x.cls d
  let ls := x.lanesOf pos w.core o.base.lm d.laneRep
  let kj := ((w.core.fileWord (x.stateSlot o.ags2.val pos) o.word2.val).curTag.filter fun t => t.kind == 1).elim k.km1 (·.km1) + 1
  let st (l : Nat) := w.core.laneState k.kind (x.stateSlot o.base.ags.val pos) o.base.word.val l
  let su (l : Nat) := w.core.laneState k.kind (x.stateSlot o.ags2.val pos) o.word2.val l
  if k.kind = 0 then
    { w with core := ls.foldl (fun c l => addStat l (spinOf (st l).1 * spinOf (su l).1) ((st l).2 || (su l).2) c) w.core }
  else if k.kind = 1 then
    sendIncrements x d.statTgt (64 * x.line o.ago.val pos)
      (ls.map fun l => ((st l).1.toNat * kj + (su l).1.toNat, (st l).2 || (su l).2)) w
  else w

def State.staPair (s : State) (o : StaPairOps) : State := s.onCluster o.base.cl (staPairCore o)

def execStaPair (o : StaPairOps) (s : State) : Host.Outcome State Fault Refusal := .next (s.staPair o)

/-! ### STA.HIST -/

/-- The bin of a Gaussian state: ⌊(x − low) / width⌋, the nearer end bin outside the bins, the last for NaN (R232). -/
def histBin (d : Descriptor) (w : Word) : Nat :=
  let last := d.histBins - 1
  let t := Val.sub (valF32 w) (valF32 d.histLow)
  match t, valF32 d.histWidth with
  | .fin a m e, .fin b k f =>
    if k = 0 then (if a || m = 0 then 0 else last)
    else if a != b then 0
    else
      let q := if f ≤ e then m * 2 ^ (e - f).toNat / k else m / (k * 2 ^ (f - e).toNat)
      min last q
  | .inf a, .fin b _ _ => if a != b then 0 else last
  | .fin _ _ _, .inf _ => 0
  | _, _ => last

def staHistCore (o : StaOps) (x : Site) (pos : Nat) (w : Work) : Work :=
  let d := w.core.desc o.dd
  if (x.cls d).kind = 2 ∧ d.histBins ≠ 0 then
    sendIncrements x d.statTgt 0 ((x.lanesOf pos w.core o.lm d.laneRep).map fun l =>
      let st := w.core.laneState 2 (x.stateSlot o.ags.val pos) o.word.val l
      (histBin d st.1, st.2)) w
  else w

def State.staHist (s : State) (o : StaOps) : State := s.onCluster o.cl (staHistCore o)

def execStaHist (o : StaOps) (s : State) : Host.Outcome State Fault Refusal := .next (s.staHist o)

/-! ### STA.FLUSH (R146) -/

def staFlushCore (o : StaFlushOps) (x : Site) (pos : Nat) (w : Work) : Work :=
  let ls := x.lanes pos w.core o.lm
  let e := x.t.target x.p o.tgt.val
  let sum (l : Nat) : Int := intOf (w.core.lane l).statistic.reg
  let vals := ls.map fun l => (l, if o.wide then wrapNat 64 (sum l) else wrapNat 32 (saturate32 (sum l)).1)
  let poison := ls.any fun l => (w.core.lane l).statistic.poison
  let bs := laneBeats (if o.wide then .i64 else .i32) vals poison o.mode o.j.val e.n (x.tag o.tgt.val) w.job.id x.step e.alloc
    (x.targetOffset o.tgt.val o.ago.val pos)
  let sat (l : Nat) : Bool := !o.wide && (saturate32 (sum l)).2
  Work.count
    { w with core := { ls.foldl (fun c l => c.modLane l fun y => { y with statistic := { sticky := sat l } }) w.core with outQ := w.core.outQ ++ bs },
             hit := w.hit || (poison && !bs.isEmpty) }
    { intSaturations := (ls.filter sat).length }

def State.staFlush (s : State) (o : StaFlushOps) : State := s.onCluster o.cl (staFlushCore o)

def execStaFlush (o : StaFlushOps) (s : State) : Host.Outcome State Fault Refusal := .next (s.staFlush o)

/-! ### TPK.OFFER and TPK.SCAN (R151) -/

/-- The ladder slot a replica had during the step (R154). -/
def Job.stepSlot (j : Job) (r : Nat) : Nat := if j.permStep.isEmpty then r else j.permStep.findIdx (· == r)

/-- The candidates that a list has not yet, one for each variable (R151). -/
def newCandidates (old es : List TopkEntry) : List TopkEntry :=
  es.foldl (fun l e => if (old ++ l).any fun o => o.var == e.var && o.replica == e.replica && o.step == e.step then l else l ++ [e]) []

/-- The energies of 32 replicas offered as candidates of this step; they enter the list at its commit (R155). The unit takes
them once, from the first valid core of the cluster. -/
def Job.offerEnergies (j : Job) (ch : Nat) : Job :=
  { j with topkOffers := j.topkOffers ++ newCandidates j.topkOffers ((((List.range 32).map (32 * ch + ·)).filter (· < j.body.replicas)).map fun r =>
      { value := mget 0 j.energies r, step := j.step, var := 0, digest := 0, replica := r, slot := j.stepSlot r }) }

def State.tpkOffer (s : State) (cl : ClusterRef) (ch : Nat) : State :=
  match s.site? cl with
  | none => s
  | some x => s.modJob x.slot fun j =>
      if j.body.topkSource = 0 ∧ j.body.topkK ≠ 0 ∧ x.t.hasEpass x.p then j.offerEnergies ch else j

def execTpkOffer (cl : ClusterRef) (ch : Fin 128) (s : State) : Host.Outcome State Fault Refusal := .next (s.tpkOffer cl ch.val)

/-- The statistic values of one line of a target offered, one candidate for each element: the variable is the element's index in
the target (R151, R232). -/
def scanLine (f : AtomFmt) (line : BitVec 512) (rel : Nat) : List TopkEntry :=
  (List.range (64 / f.bytes)).map fun i =>
    { value := BitVec.ofInt 64 (signedOf (8 * f.bytes) (bitField line.toNat (8 * f.bytes * i) (8 * f.bytes))),
      step := 0, var := rel / f.bytes + i, digest := 0, replica := 0, slot := 0xFFFF }

/-- TPK.SCAN: every core at a valid position of the cluster offers the line that its generator names, each variable once (R151, R232; DESIGN
CHOICE, log entry 88). -/
def State.tpkScan (s : State) (cl : ClusterRef) (tgt ago : Nat) : State :=
  match s.site? cl with
  | none => s
  | some x =>
    match s.job? x.slot with
    | none => s
    | some j =>
      if j.body.topkSource ≠ 1 ∨ j.body.topkK = 0 then s
      else
        let e := x.t.target x.p tgt
        let es := ((List.range x.t.positions).filter fun pos => (x.phys pos).isSome).flatMap fun pos =>
          let off := x.targetOffset tgt ago pos
          scanLine (atomFmt e.format) (s.newestLine j e.alloc off).1 (off - e.offset)
        s.setJob x.slot { j with topkOffers := j.topkOffers ++ newCandidates j.topkOffers (es.filter fun e => decide (e.var < imgVars x.m)) }

def execTpkScan (cl : ClusterRef) (tgt : Fin 4096) (ago : Fin 8) (s : State) : Host.Outcome State Fault Refusal :=
  .next (s.tpkScan cl tgt.val ago.val)

end Sys2Proof.Machine
end

