-- ==== Sys2Proof/Machine/Move.lean ====
section
/-! DEFINITION. The meanings of the slot-M operations: MOVE register forms, LOAD, STORE, SYNC (08 R233 to R236; 14 R426 to
R430). -/

namespace Sys2Proof.Machine

open Sys2Proof

/-! ### MOV.MASK, MOV.AG, MOV.DESC, MOV.GRP, MOV.ZERO -/

/-- The pattern P of MOV.MASK in a core (R234). -/
def maskPattern (o : MovMaskOps) (pos : Nat) : BitVec 32 :=
  match o.psel with
  | .halves => BitVec.ofNat 32 (o.imm.toNat * 65537)
  | .upto => BitVec.ofNat 32 (2 ^ (o.imm.toNat % 32 + 1) - 1)
  | .core => if o.imm.toNat % 64 = pos then BitVec.allOnes 32 else 0

def movMaskCore (o : MovMaskOps) (_x : Site) (pos : Nat) (w : Work) : Work :=
  let p := maskPattern o pos
  let m := w.core.mask o.lms
  let v := match o.op with
    | .set => p
    | .and => m &&& p
    | .or => m ||| p
    | .xor => m ^^^ p
  { w with core := w.core.setMask o.lmd v }

def State.movMask (s : State) (o : MovMaskOps) : State := s.onCluster o.cl (movMaskCore o)

def execMovMask (o : MovMaskOps) (s : State) : Host.Outcome State Fault Refusal := .next (s.movMask o)

/-- One field of a generator written. -/
def agWrite (o : MovAgOps) (a : SMap AddrGen) : SMap AddrGen :=
  mmod {} a o.ag.val fun (g : AddrGen) => match o.field with
    | .base => { g with base := o.value }
    | .stride => { g with stride := o.value }
    | .increment => { g with increment := o.value.setWidth 8 }

def State.movAg (s : State) (o : MovAgOps) : State := s.onCluster o.cl (fun _ _ w => w) (agWrite o)

def execMovAg (o : MovAgOps) (s : State) : Host.Outcome State Fault Refusal := .next (s.movAg o)

def movDescCore (o : MovDescOps) (x : Site) (pos : Nat) (w : Work) : Work :=
  let l := (x.line o.ag.val pos + o.ofs.val) % 2048
  { w with core := w.core.setDesc o.dd (descOf (leBytes 64 (w.core.line l).toNat)) }

def State.movDesc (s : State) (o : MovDescOps) : State := s.onCluster o.cl (movDescCore o)

def execMovDesc (o : MovDescOps) (s : State) : Host.Outcome State Fault Refusal := .next (s.movDesc o)

/-- A value moved into an open group, in the group's format. -/
def Group.moveIn (g : Group) (src : Group) : Group :=
  { g with reg := regOf g.fmt (regVal src.fmt src.reg), sticky := g.sticky || src.sticky, poison := src.poison }

def movGrpCore (lm : Fin 4) (src dst : GroupSel) (x : Site) (pos : Nat) (w : Work) : Work :=
  { w with core := (x.lanes pos w.core lm).foldl (fun c l => c.modLane l fun y =>
      y.setGroup dst ((y.group dst).moveIn (y.group src))) w.core }

def State.movGrp (s : State) (cl : ClusterRef) (lm : Fin 4) (src dst : GroupSel) : State := s.onCluster cl (movGrpCore lm src dst)

def execMovGrp (cl : ClusterRef) (lm : Fin 4) (src dst : GroupSel) (s : State) : Host.Outcome State Fault Refusal :=
  .next (s.movGrp cl lm src dst)

/-- The generator's increment, when the operation asks for it (R188). -/
def incAg (inc : Bool) (n : Nat) (a : SMap AddrGen) : SMap AddrGen := if inc then agStep a n else a

def movZeroCore (o : HalfLineOps) (x : Site) (pos : Nat) (w : Work) : Work :=
  { w with core := w.core.writeHalf x.step (x.line o.ag.val pos) (bit o.half) [] false }

def State.movZero (s : State) (o : HalfLineOps) : State := s.onCluster o.cl (movZeroCore o) (incAg o.inc o.ag.val)

def execMovZero (o : HalfLineOps) (s : State) : Host.Outcome State Fault Refusal := .next (s.movZero o)

/-! ### LOAD -/

/-- The caravan input consumed by one load (R240). -/
def Core.takeCaravan (c : Core) : Core := { c with caravan := { c.caravan with valid := false } }

def ldLineCore (o : HalfLineOps) (x : Site) (pos : Nat) (w : Work) : Work :=
  let c := w.core
  { w with core := (c.writeHalf x.step (x.line o.ag.val pos) (bit o.half) ((List.range 8).map (lineWord c.caravan.data))
      c.caravan.poison (c.caravan.exps.take 16)).takeCaravan }

def State.ldLine (s : State) (o : HalfLineOps) : State := s.onCluster o.cl (ldLineCore o) (incAg o.inc o.ag.val)

def execLdLine (o : HalfLineOps) (s : State) : Host.Outcome State Fault Refusal := .next (s.ldLine o)

def ldSlotCore (o : SlotOps) (x : Site) (pos : Nat) (w : Work) : Work :=
  { w with core := (w.core.writeSlot x.step (x.stateSlot o.ags.val pos) w.core.caravan.data w.core.caravan.poison
      w.core.caravan.tags).takeCaravan }

def State.ldSlot (s : State) (o : SlotOps) : State := s.onCluster o.cl (ldSlotCore o) (incAg o.inc o.ags.val)

def execLdSlot (o : SlotOps) (s : State) : Host.Outcome State Fault Refusal := .next (s.ldSlot o)

/-- The four 128-bit anchors of a caravan beat. -/
def anchorsOf (v : BitVec 512) : List (BitVec 128) := (List.range 4).map fun i => v.extractLsb' (128 * i) 128

/-- The anchors of a cluster's leap unit for DD's block, from the cores whose caravan input holds a beat (R170, R234). -/
def State.ldAnch (s : State) (cl : ClusterRef) (dd : Fin 4) : State :=
  match s.site? cl with
  | none => s
  | some x =>
    let cs := (s.cluster cl.key).cores
    let got := ((List.range 64).filterMap x.phys).filterMap fun n =>
      let c := mget {} cs n
      if c.caravan.valid then some ((c.desc dd).block, anchorsOf c.caravan.data) else none
    (s.onCluster cl fun _ _ w => { w with core := w.core.takeCaravan }).modCluster cl.key fun k =>
      { k with anchors := got.foldl (fun m e => mset [] m e.1 e.2) k.anchors }

def execLdAnch (cl : ClusterRef) (dd : Fin 4) (s : State) : Host.Outcome State Fault Refusal := .next (s.ldAnch cl dd)

/-! ### STORE -/

def stLineCore (o : StLineOps) (x : Site) (pos : Nat) (w : Work) : Work :=
  let e := x.t.target x.p o.tgt.val
  let l := x.line o.ag.val pos
  let poison := w.core.linePoison l 0 || w.core.linePoison l 1
  let b : Outward := { op := .store, job := w.job.id, step := x.step, alloc := e.alloc,
                       offset := x.targetOffset o.tgt.val o.ago.val pos, data := w.core.line l, poison := poison }
  { w with core := { w.core with outQ := w.core.outQ ++ [b] }, hit := w.hit || poison }

def State.stLine (s : State) (o : StLineOps) : State := s.onCluster o.cl (stLineCore o) (incAg o.inc o.ag.val)

def execStLine (o : StLineOps) (s : State) : Host.Outcome State Fault Refusal := .next (s.stLine o)

/-- The state of lane l among the states packed from word `base` of a line on, as DRAW writes them (R230). -/
def Core.lineState (c : Core) (kind line base l : Nat) : Word :=
  match kind with
  | 0 => BitVec.ofNat 32 (bitField (lineWord (c.line line) base).toNat l 1)
  | 1 => BitVec.ofNat 32 (bitField (lineWord (c.line line) ((base + l / 4) % 16)).toNat (8 * (l % 4)) 8)
  | _ => lineWord (c.line ((line + l / 16) % 2048)) (l % 16)

/-- A state of a result in a format, with its conversion count (R40, R43): only continuous states are converted. -/
def resultState (kind fmt : Nat) (w : Word) : Nat × Bool :=
  if kind = 2 then convertTo fmt (valF32 w) else (w.toNat, false)

/-- Bits of a result state. -/
def resultBits (kind fmt : Nat) : Nat := if kind = 0 then 1 else if kind = 1 then 8 else fmtBits fmt

/-- The states of a core's lanes sent to the result or snapshot area. -/
def stStateCore (o : StStateOps) (snapshot : Bool) (x : Site) (pos : Nat) (w : Work) : Work :=
  let d := w.core.desc o.dd
  let kind := (x.cls d).kind
  let ls := x.lanesOf pos w.core o.lm d.laneRep
  let line := x.line o.ag.val pos
  let fmt := if snapshot then 10 else o.fmt.val
  let rs := ls.map fun l => (l, resultState kind fmt (w.core.lineState kind line d.word l))
  let lines := if kind = 2 then [line, (line + 1) % 2048] else [line]
  let poison := lines.any fun n => w.core.linePoison n 0 || w.core.linePoison n 1
  let ws : List AreaWrite := rs.map fun e =>
    { step := x.step, snapshot := snapshot, var := d.laneVar e.1, rep := d.laneRep e.1, value := BitVec.ofNat 32 e.2.1,
      bits := resultBits kind fmt }
  if ws.isEmpty then w
  else
    Work.count
      { w with core := { w.core with outQ := w.core.outQ ++
                 [{ op := .area ws, job := w.job.id, step := x.step, alloc := 0, offset := 0, data := 0, poison := poison }] },
               hit := w.hit || poison }
      { conversionSaturations := (rs.filter fun e => e.2.2).length }

def State.stRes (s : State) (o : StStateOps) : State := s.onCluster o.cl (stStateCore o false)

def execStRes (o : StStateOps) (s : State) : Host.Outcome State Fault Refusal := .next (s.stRes o)

def State.stSnap (s : State) (o : StStateOps) : State := s.onCluster o.cl (stStateCore o true)

def execStSnap (o : StStateOps) (s : State) : Host.Outcome State Fault Refusal := .next (s.stSnap o)

/-! ### SYNC (14 R426 to R430) -/

/-- The core whose line a cluster's spine port takes: the lowest valid logical position (log entry 26). -/
def Site.spineCore? (x : Site) : Option (Nat × Nat) :=
  (List.range 64).findSome? fun pos => (x.phys pos).map fun n => (pos, n)

/-- SYN.HOUT: line AG sent as the next halo beat of the current epoch. Until R430 lets the halo go, the word waits as a hold, and a
fixed-cadence job is demoted with cause 6; a poisoned line ends the job first (R471). -/
def State.synHout (s : State) (o : HaloOps) : State :=
  match s.site? o.cl with
  | none => s
  | some x =>
    match s.job? x.slot, x.spineCore? with
    | some j, some (pos, n) =>
      match j.group.bind fun g => ((grpChannelList g.record).find? fun e =>
          e.2.src == g.member && e.2.srcPeer == o.peer.val).map fun c => (g, c) with
      | none => s
      | some (g, c) =>
        let core := mget {} (s.cluster o.cl.key).cores n
        let l := x.line o.ag.val pos
        if core.linePoison l 0 || core.linePoison l 1 then s.consumeMirage x.slot
        else if g.maySend c.2 j.epoch then
          let b : HaloBeat :=
            { channel := c.1, epoch := j.epoch, attempt := g.attempt, data := leBytes 64 (core.line l).toNat,
              beat := (g.sent.filter fun h => h.channel == c.1 && h.epoch == j.epoch && h.attempt == g.attempt).length }
          let g1 := { g with sent := g.sent ++ [b] }
          (s.setJob x.slot { j with group := some g1 }).toNeighbour g1 c.2.dst (g1.haloPacket b)
        else (s.demote x.slot 6).modJob x.slot fun k => k.takeHold 64
    | _, _ => s

def execSynHout (o : HaloOps) (s : State) : Host.Outcome State Fault Refusal := .next (s.synHout o)

/-- SYN.HIN: the next beat of the epoch that R429 names written into slot AGS of every core, as current values. -/
def State.synHin (s : State) (o : HaloOps) : State :=
  match s.site? o.cl with
  | none => s
  | some x =>
    match (s.job? x.slot).bind fun j => j.group.map fun g => (j, g) with
    | none => s
    | some (j, g) =>
      match g.inbound.find? fun e => e.2.kind == 0 && e.2.dstPeer == o.peer.val with
      | none => s
      | some c =>
        let i := mget 0 g.nextIn c.1
        match (g.beatsOf c.1 (g.readEpoch c j.epoch)).find? fun b => b.beat == i with
        | none => s
        | some b =>
          let s1 := s.onCluster o.cl fun x pos w =>
            { w with core := w.core.writeSlot x.step (x.stateSlot o.ag.val pos) (BitVec.ofNat 512 (leNat b.data)) false }
          s1.modJob x.slot fun k => { k with group := some { g with nextIn := mset 0 g.nextIn c.1 (i + 1) } }

def execSynHin (o : HaloOps) (s : State) : Host.Outcome State Fault Refusal := .next (s.synHin o)

/-- SYN.EPOCH: the epoch tag advances; it acts in the ledger core only (R234, R426). -/
def State.synEpoch (s : State) (cl : ClusterRef) : State :=
  match s.site? cl with
  | none => s
  | some x =>
    if (List.range 64).any fun pos => (x.phys pos).isSome && x.isLedger pos then
      s.modJob x.slot fun j => { j with epoch := j.epoch + 1, group := j.group.map fun g => { g with nextIn := [] } }
    else s

def execSynEpoch (cl : ClusterRef) (s : State) : Host.Outcome State Fault Refusal := .next (s.synEpoch cl)

end Sys2Proof.Machine
end

