-- ==== Sys2Proof/Machine/Router.lean ====
section
/-! DEFINITION. The router (08 R237, R238; 07 R189 to R195): the mesh, die links and edge ports, and the meanings of the five
router forms. -/

namespace Sys2Proof.Machine

open Sys2Proof

/-! ### The mesh (R189 to R195) -/

def opposite : Dir → Dir
  | .n => .s | .s => .n | .e => .w | .w => .e

/-- What lies beyond an output of a core. -/
inductive Beyond where
  /-- a core of the same die, with the hop's latency -/
  | core (die col row lat : Nat)
  /-- a core of another die over a die link -/
  | link (die col row : Nat) (site : LinkSite)
  /-- nothing on the mesh -/
  | off
  deriving DecidableEq, Repr

def meshCol (cl pos : Nat) : Nat := 8 * (cl % 8) + pos % 8
def meshRow (cl pos : Nat) : Nat := 8 * (cl % 64 / 8) + pos / 8

/-- Is a mesh column a column of VW or VE; which site. -/
def vSite (col : Nat) : Option LinkSite :=
  if 14 ≤ col ∧ col ≤ 17 then some .vw else if 46 ≤ col ∧ col ≤ 49 then some .ve else none

/-- The output of a core in a direction, for state and part beats. -/
def beyond (d col row : Nat) (dir : Dir) : Beyond :=
  let x := decide (30 ≤ row ∧ row ≤ 33)
  match dir with
  | .e =>
    if col < 63 then .core d (col + 1) row (if col = 31 then 3 else 1)
    else if x ∧ d % 3 < 2 then .link (d + 1) 0 row .xe else .off
  | .w =>
    if 0 < col then .core d (col - 1) row (if col = 32 then 3 else 1)
    else if x ∧ 0 < d % 3 then .link (d - 1) 63 row .xw else .off
  | .s =>
    if row < 63 then .core d col (row + 1) 1
    else match vSite col with
      | some v => if d < 3 then .link (d + 3) col 0 v else .off
      | none => .off
  | .n =>
    if 0 < row then .core d col (row - 1) 1
    else match vSite col with
      | some v => if 3 ≤ d then .link (d - 3) col 63 v else .off
      | none => .off

/-- The cluster key and logical position of a mesh position. -/
def meshCluster (d col row : Nat) : Nat × Nat := (64 * d + 8 * (row / 8) + col / 8, 8 * (row % 8) + col % 8)

/-- The core a beat sent in a direction reaches, inside the region only (R193): cluster, position, latency. -/
def hopTo (region : List Nat) (cl pos : Nat) (dir : Dir) : Option (Nat × Nat × Nat) :=
  let go (d col row lat : Nat) : Option (Nat × Nat × Nat) :=
    if region.contains (2 * d + col / 32) then some ((meshCluster d col row).1, (meshCluster d col row).2, lat) else none
  match beyond (cl / 64) (meshCol cl pos) (meshRow cl pos) dir with
  | .core d c r lat => go d c r lat
  | .link d c r _ => go d c r 12
  | .off => none

/-- Does an output of a core lead off the mesh by a caravan edge (R194, R195): outward beats go to the edge port there. -/
def atEdge (cl pos : Nat) (d : Dir) : Bool :=
  match d with
  | .n => meshRow cl pos == 0
  | .s => meshRow cl pos == 63
  | _ => false

/-! ### Latches -/

def Core.latch (c : Core) : Dir → List Beat
  | .n => c.inN | .e => c.inE | .s => c.inS | .w => c.inW

def Core.setLatch (c : Core) (d : Dir) (l : List Beat) : Core :=
  match d with
  | .n => { c with inN := l }
  | .e => { c with inE := l }
  | .s => { c with inS := l }
  | .w => { c with inW := l }

/-- A beat put into a core's latch from a direction. -/
def State.arrive (s : State) (cl pos : Nat) (dir : Dir) (b : Beat) : State :=
  match (s.cluster cl).coreMap.getD pos none with
  | some n => s.modCluster cl fun k => { k with cores := mmod {} k.cores n fun (c : Core) => c.setLatch dir (c.latch dir ++ [b]) }
  | none => s

/-- A beat on its way: the core and output it leaves by. -/
structure Departure where
  pos : Nat
  dir : Dir
  beat : Beat
  deriving DecidableEq, Repr

/-- The beats that leave a cluster's cores arrive at their neighbours, after the latency of R191. -/
def State.depart (s : State) (region : List Nat) (cl cycle : Nat) (ds : List Departure) : State :=
  ds.foldl (fun t d =>
    match hopTo region cl d.pos d.dir with
    | some (k, p, lat) => t.arrive k p (opposite d.dir) { d.beat with due := cycle + lat }
    | none => t) s

def outDirs (m : OutMask) : List Dir :=
  (if m.n then [.n] else []) ++ (if m.e then [.e] else []) ++ (if m.s then [.s] else []) ++ (if m.w then [.w] else [])

/-- The valid words of a beat. -/
def Beat.valid (b : Beat) : Bool := !b.words.isEmpty || !b.parts.isEmpty

/-- A beat as it is forwarded: words and parts whose TTL is above 0, one lower (R238.1); caravan beats ignore TTL. -/
def Beat.forwarded (b : Beat) : Beat :=
  match b.kind with
  | .state => { b with words := b.words.filterMap fun e => e.2.bind fun w =>
      if w.ttl = 0 then none else some (e.1, some { w with ttl := w.ttl - 1 }) }
  | .part => if b.ttl = 0 then { b with parts := [] } else { b with ttl := b.ttl - 1 }
  | .caravan => b

/-- State beats routed to one output merged into one; part beats go on as they are (R238.2). -/
def mergeBeats (bs : List Beat) : List Beat :=
  let states := bs.filter fun b => b.kind == .state && b.valid
  let rest := bs.filter fun b => b.kind == .part && b.valid
  (if states.isEmpty then [] else
    [{ kind := .state, words := states.foldl (fun m b => b.words.foldl (fun m e => mset none m e.1 e.2) m) [] }]) ++ rest

/-- The words of a delivered beat as the check log records them (R456). -/
def Beat.checkWords (b : Beat) (x : Site) (pos agd : Nat) : List CheckWord :=
  match b.kind with
  | .state => b.words.filterMap fun e => e.2.map fun w =>
      { cycle := x.cycle, part := false, place := 16 * ((x.line agd pos + w.sel) % 256) + e.1, value := BitVec.setWidth 128 w.data }
  | .part => b.parts.map fun p => { cycle := x.cycle, part := true, place := p.lane, value := p.value }
  | .caravan => []

/-- A checked core's log of the step under way with what a beat delivers. -/
def Core.logDelivery (c : Core) (x : Site) (pos agd : Nat) (b : Beat) : Core :=
  if x.checked pos then { c with checkLog := mmod [] c.checkLog x.step (· ++ b.checkWords x pos agd) } else c

/-- A delivered beat (R223, R238.3): state words to slot (value of AGD) + SEL, parts to the part inputs; a checked core's log records them. -/
def Core.deliver (c0 : Core) (x : Site) (pos agd : Nat) (b : Beat) : Core :=
  let c := c0.logDelivery x pos agd b
  match b.kind with
  | .state => b.words.foldl (fun c e => match e.2 with
      | some w => c.deliverWord x.step ((x.line agd pos + w.sel) % 256) e.1 w (w.phase == x.phaseBit)
      | none => c) c
  | .part => b.parts.foldl (fun c p => c.modLane p.lane fun y =>
      { y with partIn := p.value, partInJ := b.partJ, partInN := b.partN, partInPoison := p.poison }) c
  | .caravan => c

/-- The region and cycle of the job at a site. -/
def State.siteJob (s : State) (x : Site) : List Nat × Nat :=
  match s.job? x.slot with
  | some j => (j.region, j.cycle)
  | none => ([], 0)

/-! ### MOV.SEND -/

/-- The launch register's beat as it leaves, with TTL LTTL. -/
def launchBeat (c : Core) (lttl : Nat) : Beat :=
  { c.launch with ttl := lttl, words := c.launch.words.map fun e => (e.1, e.2.map fun w => { w with ttl := lttl }) }

/-- The launch register emptied: a waiting half-beat moves up (R238.4). -/
def Core.emptyLaunch (c : Core) : Core := { c with launch := c.launchQ.headD {}, launchQ := c.launchQ.tail }

def movSendCore (o : SendOps) (x : Site) (pos : Nat) (w : Work) : Work :=
  let c1 := if o.deliver then w.core.deliver x pos o.agd.val (launchBeat w.core o.lttl.val) else w.core
  if o.deliver || !(outDirs o.outL).isEmpty then { w with core := c1.emptyLaunch } else { w with core := c1 }

def State.movSend (s : State) (o : SendOps) : State :=
  match s.site? o.cl with
  | none => s
  | some x =>
    let cs := (s.cluster o.cl.key).cores
    let ds := (List.range 64).flatMap fun pos =>
      match x.phys pos with
      | none => []
      | some n =>
        let b := launchBeat (mget {} cs n) o.lttl.val
        if b.valid then (outDirs o.outL).map fun d => ({ pos := pos, dir := d, beat := b } : Departure) else []
    (s.onCluster o.cl (movSendCore o)).depart (s.siteJob x).1 x.cl (s.siteJob x).2 ds

def execMovSend (o : SendOps) (s : State) : Host.Outcome State Fault Refusal := .next (s.movSend o)

/-! ### MOV.FWD -/

/-- State and part beats that are at the core now, from a direction. -/
def Core.present (c : Core) (cycle : Nat) (d : Dir) : List Beat :=
  (c.latch d).filter fun b => b.kind != .caravan && decide (b.due ≤ cycle)

def fwdOut (o : FwdOps) : Dir → OutMask
  | .n => o.outN | .e => o.outE | .s => o.outS | .w => o.outW

def fwdDelivers (o : FwdOps) : Dir → Bool
  | .n => o.dlv.n | .e => o.dlv.e | .s => o.dlv.s | .w => o.dlv.w

def allDirs : List Dir := [.n, .e, .s, .w]

def movFwdCore (o : FwdOps) (cycle : Nat) (x : Site) (pos : Nat) (w : Work) : Work :=
  let c1 := allDirs.foldl (fun c d =>
    if fwdDelivers o d then (w.core.present cycle d).foldl (fun c b => c.deliver x pos o.agd.val b) c else c) w.core
  { w with core := allDirs.foldl (fun c d =>
      c.setLatch d ((c.latch d).filter fun b => b.kind == .caravan || decide (cycle < b.due))) c1 }

/-- The beats that a core's router forwards by each output. -/
def fwdDepartures (o : FwdOps) (cycle : Nat) (c : Core) (pos : Nat) : List Departure :=
  allDirs.flatMap fun out =>
    (mergeBeats ((allDirs.filter fun d => (outDirs (fwdOut o d)).contains out).flatMap fun d =>
      (c.present cycle d).map Beat.forwarded)).map fun b => ({ pos := pos, dir := out, beat := b } : Departure)

/-- The unit that sent on the hop whose check fails at a core (R448): the core before it, or the bridge or link crossed. -/
def State.hopSender (s : State) (x : Site) (pos : Nat) (c : Core) (cycle : Nat) : Option UnitRef :=
  (allDirs.find? fun d => !(c.present cycle d).isEmpty).bind fun d =>
    let die := Fin.ofNat 6 (x.cl / 64)
    match beyond (x.cl / 64) (meshCol x.cl pos) (meshRow x.cl pos) d with
    | .core dd col row lat =>
      if lat = 3 then some (.seam die)
      else
        let k := meshCluster dd col row
        ((s.cluster k.1).coreMap.getD k.2 none).map fun n =>
          .core { cl := { die := die, num := Fin.ofNat 64 k.1 }, num := Fin.ofNat 66 n }
    | .link _ _ _ site => some (.link die site)
    | .off => none

/-- MOV.FWD in a cluster. A hop check that fails at a core charges the sender and fails the step (R448, R449). -/
def State.movFwd (s : State) (o : FwdOps) : State :=
  match s.site? o.cl with
  | none => s
  | some x =>
    let rc := s.siteJob x
    let cs := (s.cluster o.cl.key).cores
    match o.parity.bind fun pos => (x.phys pos.val).bind fun n => s.hopSender x pos.val (mget {} cs n) rc.2 with
    | some u => s.parityError x.slot 0x0300 u
    | none =>
      let ds := (List.range 64).flatMap fun pos =>
        match x.phys pos with
        | none => []
        | some n => fwdDepartures o rc.2 (mget {} cs n) pos
      (s.onCluster o.cl (movFwdCore o rc.2)).depart rc.1 x.cl rc.2 ds

def execMovFwd (o : FwdOps) (s : State) : Host.Outcome State Fault Refusal := .next (s.movFwd o)

/-! ### Caravan forms -/

/-- What caravan beats that are at a core bring, merged: words of the upper half alone stand for a beat of the port's other half and
are taken from there (R197, R198). -/
def caravanData (bs : List Beat) : CaravanIn :=
  let ws := bs.foldl (fun m b => b.words.foldl (fun m e => mset none m e.1 e.2) m) ([] : SMap (Option BeatWord))
  let upper := ws.all fun e => decide (8 ≤ e.1)
  let l : List BeatWord := (List.range 16).map fun i => (mget none ws (if upper then i + 8 else i)).getD {}
  { data := lineOf (l.map (·.data)), valid := true, poison := l.any (·.poison), tags := l.map (·.tag), exps := l.flatMap (·.exps) }

/-- Caravan beats delivered to the caravan input. -/
def Core.takeBeats (c : Core) (bs : List Beat) : Core := if bs.isEmpty then c else { c with caravan := caravanData bs }

def Core.portBeats (c : Core) (cycle : Nat) : List Beat := c.inPort.filter fun b => decide (b.due ≤ cycle)

/-- CV.RECV: the beat at an edge core's port goes to its caravan input. -/
def State.cvRecv (s : State) (cl : ClusterRef) : State :=
  match s.site? cl with
  | none => s
  | some x =>
    let cycle := (s.siteJob x).2
    s.onCluster cl fun _ _ w =>
      let c := w.core
      { w with core := { c.takeBeats (c.portBeats cycle) with inPort := c.inPort.filter fun b => decide (cycle < b.due) } }

def execCvRecv (cl : ClusterRef) (s : State) : Host.Outcome State Fault Refusal := .next (s.cvRecv cl)

/-- Caravan beats at a core from a direction, or from its own edge port. -/
def Core.caravanBeats (c : Core) (cycle : Nat) (from_ : Option Dir) : List Beat :=
  match from_ with
  | none => c.portBeats cycle
  | some d => (c.latch d).filter fun b => b.kind == .caravan && decide (b.due ≤ cycle)

def Core.dropCaravan (c : Core) (cycle : Nat) (from_ : Option Dir) : Core :=
  match from_ with
  | none => { c with inPort := c.inPort.filter fun b => decide (cycle < b.due) }
  | some d => c.setLatch d ((c.latch d).filter fun b => !(b.kind == .caravan && decide (b.due ≤ cycle)))

/-- CV.FWD: a caravan beat goes on along a chain, and to the caravan input where DLV says so. Past the caravan edge lies the edge port, from which
caravan beats only come (R195). -/
def State.cvFwd (s : State) (o : ChainOps) : State :=
  match s.site? o.cl with
  | none => s
  | some x =>
    let rc := s.siteJob x
    let cs := (s.cluster o.cl.key).cores
    let ds := (List.range 64).flatMap fun pos =>
      match x.phys pos with
      | none => []
      | some n => ((mget {} cs n).caravanBeats rc.2 o.from_).flatMap fun b =>
          ((outDirs o.out).filter fun d => !atEdge x.cl pos d).map fun d => ({ pos := pos, dir := d, beat := b } : Departure)
    let s1 := s.onCluster o.cl fun _ _ w =>
      let bs := w.core.caravanBeats rc.2 o.from_
      { w with core := (if o.dlv then w.core.takeBeats bs else w.core).dropCaravan rc.2 o.from_ }
    s1.depart rc.1 x.cl rc.2 ds

def execCvFwd (o : ChainOps) (s : State) : Host.Outcome State Fault Refusal := .next (s.cvFwd o)

/-! ### CV.OUT -/

def Round.isOn (r : Round) (o : Outward) : Bool := r.job == o.job && r.alloc == o.alloc && r.offset == o.offset

/-- The round tag of an ordered part. -/
def Outward.tag? (o : Outward) : Option Nat :=
  match o.op with
  | .atomic _ _ .ordered _ _ tag => some tag
  | _ => none

def Outward.isOrdered (o : Outward) : Bool := o.tag?.isSome

/-- Is a part one of an open round (R139). -/
def Stack.joins (k : Stack) (o : Outward) : Bool := k.rounds.any fun r => r.isOn o && o.tag? == some r.tag

/-- May a stack's intake take one more operation: a part for an open round always, any other while fewer than 256 wait (R141). -/
def Stack.accepts (k : Stack) (o : Outward) : Bool := k.joins o || decide (k.intake.length + k.waiting.length < 256)

/-- Is an outward beat an atomic operation. -/
def Outward.isAtomic (o : Outward) : Bool := match o.op with | .atomic _ _ _ _ _ _ => true | _ => false

/-- The atomic operations of a fixed-cadence job that went to a die in the present window of 256 cycles (R26). -/
def Job.atomsSent (j : Job) (die : Nat) : Nat := if j.atomWindow = j.cycle / 256 then mget 0 j.atomSent die else 0

/-- May a job send one more operation to a die: a fixed-cadence job keeps within the rate reserved for it (R26). -/
def Job.withinRate (j : Job) (die : Nat) (o : Outward) : Bool := !(j.fixedCadence && o.isAtomic) || decide (j.atomsSent die < j.atomRate)

/-- An operation counted against the reserved rate. -/
def Job.countAtom (j : Job) (die : Nat) (o : Outward) : Job :=
  if j.fixedCadence && o.isAtomic then
    { j with atomWindow := j.cycle / 256,
             atomSent := mset 0 (if j.atomWindow = j.cycle / 256 then j.atomSent else []) die (j.atomsSent die + 1) }
  else j

/-- An outward beat at an edge port: a result or snapshot beat is staged with its job (R234); any other enters the intake of the
stack that serves its line. None where the intake is full, where two earlier steps are uncommitted (R276), or where the operation exceeds the rate
reserved for the job (R26). -/
def State.enterIntake (s : State) (slot : Nat) (o : Outward) : Option State :=
  match s.job? slot with
  | none => some s
  | some j =>
    if j.committed + 2 ≤ o.step then none else
    match o.op with
    | .area ws => some (s.setJob slot { j with areaWrites := j.areaWrites ++ ws })
    | _ =>
      match j.page? o.alloc o.offset with
      | none => some s
      | some p =>
        let t := s.servingStack p
        if (s.stack t).accepts o && j.withinRate (t / 6) o then
          some ((s.setJob slot (j.countAtom (t / 6) o)).modStack t fun k => { k with intake := k.intake ++ [o] })
        else none

/-- Is an outward beat from a direction at its core: the oldest of the direction, its latency over (R191). -/
def Core.outReady (c : Core) (cycle : Nat) (d : Dir) : Bool := (c.outIn.find? fun e => e.1 == d).any fun e => decide (e.2.1 ≤ cycle)

/-- The outward beat a core has to send on. -/
def Core.outHead (c : Core) (cycle : Nat) (from_ : Option Dir) : Option Outward :=
  match from_ with
  | none => c.outQ.head?
  | some d => if c.outReady cycle d then (c.outIn.find? fun e => e.1 == d).map (·.2.2) else none

def Core.dropOut (c : Core) (from_ : Option Dir) : Core :=
  match from_ with
  | none => { c with outQ := c.outQ.tail }
  | some d => { c with outIn := dropFirst (fun e => e.1 == d) c.outIn }

def State.modCore (s : State) (cl n : Nat) (f : Core → Core) : State :=
  s.modCluster cl fun k => { k with cores := mmod {} k.cores n f }

/-- One core's outward beat forwarded by one output. A full intake back-pressures: the beat stays, and the job holds, or is
demoted first when it runs in fixed cadence (R141, R185). -/
def State.sendOut (s : State) (x : Site) (region : List Nat) (cycle : Nat) (o : ChainOps) (e : Nat × Nat × Outward) : State :=
  match (outDirs o.out).head? with
  | none => s
  | some d =>
    if atEdge x.cl e.1 d then
      match s.enterIntake x.slot e.2.2 with
      | some t => t.modCore x.cl e.2.1 fun c => c.dropOut o.from_
      | none => (s.demote x.slot 4).modJob x.slot fun j => j.takeHold 1
    else
      let t := s.modCore x.cl e.2.1 fun c => c.dropOut o.from_
      match hopTo region x.cl e.1 d with
      | some (k, p, lat) =>
        match (t.cluster k).coreMap.getD p none with
        | some n => t.modCore k n fun c => { c with outIn := c.outIn ++ [(opposite d, cycle + lat, e.2.2)] }
        | none => t
      | none => t

/-- CV.OUT: each core's outward beat goes on toward an edge port. -/
def State.cvOut (s : State) (o : ChainOps) : State :=
  match s.site? o.cl with
  | none => s
  | some x =>
    let cs := (s.cluster o.cl.key).cores
    let es := (List.range 64).filterMap fun pos =>
      (x.phys pos).bind fun n => ((mget {} cs n).outHead (s.siteJob x).2 o.from_).map fun b => (pos, n, b)
    es.foldl (fun t e => t.sendOut x (s.siteJob x).1 (s.siteJob x).2 o e) s

def execCvOut (o : ChainOps) (s : State) : Host.Outcome State Fault Refusal := .next (s.cvOut o)

end Sys2Proof.Machine
end

