-- ==== Sys2Proof/Machine/Commit.lean ====
section
/-! DEFINITION. The commit of a step (09 R276, R283; 05 R143, R151 to R155; 11 R341 to R344; 14 R433, R434; 15 R450, R459) and
the end of a program that has run to its END. -/

namespace Sys2Proof.Machine

open Sys2Proof

/-! ### The top-k unit (R151 to R155) -/

/-- The value of a candidate: an energy in the job's format, or a statistic. -/
def Job.topkVal (j : Job) (e : TopkEntry) : Val :=
  if j.body.topkSource = 0 then elemVal j.body.energyFormat (e.value.toNat % 2 ^ fmtBits j.body.energyFormat) 0
  else .ofInt e.value.toInt

/-- Is position (step, replica, variable) lower. -/
def lowerPosition (a b : TopkEntry) : Bool :=
  decide (a.step < b.step) || (a.step == b.step && (decide (a.replica < b.replica) || (a.replica == b.replica && decide (a.var < b.var))))

/-- Does candidate a rank before b (R152): energies lowest first, statistics highest first. -/
def Job.ranksBefore (j : Job) (a b : TopkEntry) : Bool :=
  let x := j.topkVal a
  let y := j.topkVal b
  let better := if j.body.topkSource = 0 then Val.lt x y else Val.lt y x
  better || (Val.eqv x y && lowerPosition a b)

/-- One candidate offered to the list (R151 to R153). -/
def Job.offer (j : Job) (e : TopkEntry) : Job :=
  let v := j.topkVal e
  let same (o : TopkEntry) : Bool := j.body.topkFlags.getLsbD 0 && Val.eqv (j.topkVal o) v && o.digest == e.digest
  if v.isNan ∨ j.topk.any same then j
  else { j with topk := (placeBy (fun a b => j.ranksBefore a b) e j.topk).take j.body.topkK }

/-- The states of a replica in a state table, by variable. -/
def replicaStates (states : SMap Word) (r : Nat) : List (Nat × Word) :=
  (states.filter fun e => e.1 / 2 ^ 40 == r).map fun e => (e.1 % 2 ^ 40, e.2)

/-- A candidate of a step completed with its state digest and, under KEEP_STATES, its states. -/
def Job.fullEntry (j : Job) (m : Bytes) (states : SMap Word) (e : TopkEntry) : TopkEntry :=
  if j.body.topkSource = 0 then
    { e with digest := replicaDigest m states e.replica, kept := if j.keepsStates then replicaStates states e.replica else [] }
  else e

/-- The candidates of a step entered, the rest kept. -/
def Job.commitOffers (j : Job) (m : Bytes) (states : SMap Word) (t : Nat) : Job :=
  let mine := j.topkOffers.filter fun e => e.step ≤ t ∧ j.body.topkSource = 0
  let j1 := mine.foldl (fun a e => a.offer (j.fullEntry m states e)) j
  { j1 with topkOffers := j.topkOffers.filter fun e => !(decide (e.step ≤ t) && j.body.topkSource == 0) }

/-! ### What holds a commit back -/

/-- Outward beats of a step that have not been taken by their base dies. -/
def State.outstanding (s : State) (id step : Nat) : Bool :=
  s.tielux.any fun e =>
    (e.2.intake ++ e.2.waiting).any (fun o => o.job == id && decide (o.step ≤ step)) ||
    e.2.rounds.any fun r => r.job == id && r.held.any fun h => h.2.any fun o => decide (o.step ≤ step)

/-- Outward beats of a step that are still in the fabric. -/
def State.outboundLeft (s : State) (j : Job) (step : Nat) : Bool :=
  s.clusters.any fun e => j.region.contains (clusterOf e.1).half && e.2.cores.any fun c =>
    (c.2.outQ ++ c.2.outIn.map (·.2.2)).any fun o => decide (o.step ≤ step)

/-- Is every check of a step resolved (R459). -/
def Job.checksDone (j : Job) (step : Nat) : Bool := j.checks.all fun c => c.resolved || decide (step < c.step)

/-- Has every halo that a step read been committed by its sender (R434). -/
def GroupState.readsCommitted (g : GroupState) (read : Option Nat) : Bool :=
  g.async || match read with
    | none => true
    | some e => g.inbound.all fun c => g.committed c.2.src e

/-- May the oldest uncommitted step commit. -/
def State.mayCommit (s : State) (j : Job) (e : StepEnd) : Bool :=
  j.state == .running && j.checksDone e.step && !s.outstanding j.id e.step && !s.outboundLeft j e.step &&
    (match j.group with | some g => g.readsCommitted e.read | none => true)

/-! ### The commit -/

/-- The shadows of a step written as committed lines (R276, R283). -/
def State.commitShadows (s : State) (j : Job) (step : Nat) : State :=
  (j.shadows.filter fun x => x.step == step).foldl (fun t x => t.commitLine j x.alloc x.offset x.data x.marks) s

/-- The states of a step placed in the result and snapshot areas (R234, R235). -/
def Job.commitAreas (j : Job) (step : Nat) : Job :=
  let mine := j.areaWrites.filter fun w => w.step == step
  let put (snap : Bool) (m : SMap Word) : SMap Word :=
    (mine.filter fun w => w.snapshot == snap).foldl (fun m w => mset 0 m (stateKey w.rep w.var) w.value) m
  { j with resultArea := put false j.resultArea, snapshotArea := put true j.snapshotArea,
           areaWrites := j.areaWrites.filter fun w => w.step != step }

/-- A state of an area written at its place in the job's frames; `area` holds what it is written from. -/
def State.storeState (s : State) (j : Job) (m : Bytes) (area : SMap Word) (w : AreaWrite) : State :=
  let bits := if w.snapshot then 32 else fmtBits j.body.stateFormat
  let b := varBytes m bits (fun v => mget 0 area (stateKey w.rep v)) w.var
  s.storePages (j.sideItem (if w.snapshot then 1 else 0)) (w.rep * replicaSize m bits + b.1) b.2

/-- The states of a step written into the frames of the result and snapshot areas (R273, R274, R283). `k` is the job with the areas as they
become. -/
def State.storeAreas (s : State) (j k : Job) (step : Nat) : State :=
  (j.areaWrites.filter fun w => w.step == step).foldl (fun t w =>
    t.storeState j (s.model j) (if w.snapshot then k.snapshotArea else k.resultArea) w) s

/-- The kept copies of a top-k list that changed written into their frames (R155, R273). -/
def State.storeCopies (s : State) (j k : Job) : State :=
  let m := s.model j
  if k.keepsStates && k.topk != j.topk then
    ((List.range k.topk.length).zip k.topk).foldl (fun t e => t.storePages (j.sideItem 4) (e.1 * replicaSize m 32) (keptBytes m e.2 encF32)) s
  else s

/-- New records of the digest log written into its frames (R273, R343). -/
def State.storeDigests (s : State) (j k : Job) : State :=
  s.storePages (j.sideItem 6) (j.digestLog.flatMap digestBytes).length ((k.digestLog.drop j.digestLog.length).flatMap digestBytes)

/-- What a commit leaves in the frames beside the ALLOCS lines. -/
def State.storeCommit (s : State) (j k : Job) (step : Nat) : State := ((s.storeAreas j k step).storeCopies j k).storeDigests j k

/-- A core's log of a step dropped, and its groups of that step's end kept as those of the last commit (R450). -/
def Core.commitStep (c : Core) (step : Nat) : Core :=
  { c with
    undo := c.undo.filter fun e => match e with | .line st _ _ _ _ _ _ => decide (step < st) | .slot st _ _ => decide (step < st),
    groupsAtCommit := mget [] c.groupsAtStep step, groupsAtStep := c.groupsAtStep.filter fun e => decide (step < e.1),
    checkCrc := c.checkCrc.filter fun e => decide (step < e.1), checkLog := c.checkLog.filter fun e => decide (step < e.1) }

/-- COMMIT sent for each epoch whose source step has committed (R433); beats that the step read are kept no longer (R431). -/
def State.sendCommits (s : State) (j : Job) (e : StepEnd) : State :=
  match j.group with
  | none => s
  | some g =>
    ((List.range (e.epoch - j.committedEpoch)).map fun i => j.committedEpoch + 1 + i).foldl (fun t x => t.toNeighbours g (g.barrier 3 0 x)) s

def GroupState.dropRead (g : GroupState) (read : Option Nat) : GroupState :=
  match read with
  | some e => { g with readCommitted := some e, rx := if g.async then g.rx else g.rx.filter fun b => decide (e < b.epoch) }
  | none => g

/-- What a job keeps of a step that commits. -/
def Job.commitStep (j : Job) (m : Bytes) (e : StepEnd) : Job :=
  let d := digestRec m j e.states e.step
  let j1 := (j.commitAreas e.step).commitOffers m e.states e.step
  { j1 with
    committed := e.step + 1, committedEpoch := e.epoch, statesAtCommit := e.states, permAtCommit := e.perm, exchAtCommit := e.exch, ancestorsAtCommit := e.ancestors,
    countsAtCommit := e.counts, sweepsLeftAtCommit := e.sweepsLeft, stepEnds := j.stepEnds.tail, lastStepDigest := d.stepDigest,
    digestLog := if j.logsDigest e.step then j.digestLog ++ [d] else j.digestLog,
    failures := if j.failedStep = some e.step then 0 else j.failures, failedStep := if j.failedStep = some e.step then none else j.failedStep,
    shadows := j.shadows.filter fun x => x.step != e.step, checks := j.checks.filter fun c => decide (e.step < c.step),
    group := j.group.map fun g => g.dropRead e.read }

/-- A program that has met END and whose last step has committed: once the base dies have taken what the words after its last STEP mark sent,
these beats take effect (log entry 45), the candidates of the final scan enter the list (energies offered after the last STEP mark belong to no committed step, R155), and the job completes
with success. -/
def State.finish (s : State) (slot : Nat) : State :=
  match s.job? slot with
  | none => s
  | some j =>
    if j.waiting ≠ .finishing ∨ j.committed ≠ j.step ∨ s.outstanding j.id j.step then s
    else if j.shadows.any fun x => x.taken then s.consumeMirage slot
    else
      let j1 := j.commitAreas j.step
      let j2 := { (if j1.body.topkSource = 0 then j1 else j1.topkOffers.foldl Job.offer j1) with topkOffers := [], countsAtCommit := j.counts }
      (((s.commitShadows j j.step).storeCommit j j2 j.step).setJob slot j2).endJob slot 0 0 0

/-- What follows a commit: a pending cancel ends the job (R295), a program past its END completes, and a region holds while the hub is
not READY (R400). -/
def State.afterCommit (s : State) (slot : Nat) : State :=
  match s.job? slot with
  | none => s
  | some j =>
    if j.cancelPending then s.endJob slot 0x020A 0 0
    else if j.waiting = .finishing ∧ j.committed = j.step then s.finish slot
    else if s.config.hubReady then s
    else s.setJob slot (j.takeHold 64)

/-- The oldest ended step of a job commits; with none left, a program past its END completes. An operation that
brought a mirage to a shadow ends the job (R236, R262); a marker that the line had stays with it (R261). -/
def State.stepCommit (s : State) (slot : Nat) : State :=
  match s.job? slot with
  | none => s
  | some j =>
    match j.stepEnds.head? with
    | none => s.finish slot
    | some e =>
      if s.mayCommit j e then
        if j.shadows.any fun x => x.step == e.step && x.taken then s.consumeMirage slot
        else
          let j1 := j.commitStep (s.model j) e
          let s1 := ((s.commitShadows j e.step).storeCommit j j1 e.step).mapRegion j.region fun c => c.commitStep e.step
          ((s1.setJob slot j1).sendCommits j e).afterCommit slot
      else s

def execStepCommit (job : Fin 4096) (s : State) : Host.Outcome State Fault Refusal := .next (s.stepCommit job.val)

end Sys2Proof.Machine
end

