-- ==== Sys2Proof/Machine/Sequencer.lean ====
section
/-! DEFINITION. The control slice (07 R178 to R185; 08 R218, R219): marks, barriers, END, loops; and holds (10 R319, R323,
R324). -/

namespace Sys2Proof.Machine

open Sys2Proof

/-! ### STEP and PHASE (R181, R223) -/

/-- The checks of a step: the cores of its check set, and every core under observation (R454). -/
def State.checksOf (s : State) (j : Job) (t : Nat) : List Check :=
  (s.jobCores j).filterMap fun e =>
    match (s.cluster e.1).coreMap.getD e.2 none with
    | none => none
    | some n =>
      if inCheckSet j.body.checkFraction t e.2 || s.observed (.core (physOf e.1 n)) then
        some { step := t, cluster := clusterOf e.1, pos := e.2 }
      else none

/-- The open groups of a core as a step ends (R450). -/
def Core.openGroups (c : Core) : List OpenGroups :=
  c.lanes.filterMap fun e =>
    if e.2.statistic = {} ∧ e.2.auxiliary = {} then none
    else some { lane := e.1, statistic := e.2.statistic, auxiliary := e.2.auxiliary }

/-- Step-loop iterations left after the step that ends now. -/
def Job.sweepsAfter (j : Job) (loop : Option (Nat × Nat)) : Nat :=
  match loop with
  | some (a, z) =>
    match j.loops.find? fun f => f.first == a && f.last == z with
    | some f => f.left - 1
    | none => j.sweepsLeft
  | none => j.sweepsLeft

/-- The step counter raised at the end of the cycle; what stands then is kept until the step commits. -/
def Job.markStep (j : Job) (loop : Option (Nat × Nat)) (checks : List Check) : Job :=
  { j with
    step := j.step + 1, phase := 0, permStep := j.perm, checks := j.checks ++ checks,
    stepEnds := j.stepEnds ++
      [{ step := j.step, states := j.states, perm := j.perm, exch := j.exchAccepts, ancestors := j.ancestors, counts := j.counts, epoch := j.epoch,
         read := j.group.bind (·.passed), sweepsLeft := j.sweepsAfter loop }] }

/-- Do a job's energies take the exact path. -/
def State.exactOf (s : State) (j : Job) : Bool := energyExact (s.program j) (s.model j) (s.tilingOf j)

/-- The cluster and the logical position of a job's ledger core (R248). -/
def State.ledgerPlace (s : State) (j : Job) : Nat × Nat :=
  let l := (s.tilingOf j).ledger
  let h := j.region.getD (l / 4096) 0
  let n := l / 64 % 64
  (64 * (h / 2) + n / 8 * 8 + n % 4 + 4 * (h % 2), l % 64)

/-- The line that AGT of the ledger cluster's first EXC word names now (R231; log entry 86: the close itself names no line). -/
def Cluster.ledgerFirst? (c : Cluster) (pos : Nat) : Option Nat :=
  (c.slotMem.find? fun e => [0x0D, 0x0F, 0x10].contains (bitField e.2.toNat 90 6)).map fun e => agLine c.ags (bitField e.2.toNat 85 3) pos

/-- The energy unit closes a job's trees and writes the energies into the ledger table, with π and the ancestors where the table does not stand
there yet (R229, R231). -/
def State.closeLedger (s : State) (slot : Nat) : State :=
  match s.job? slot with
  | none => s
  | some j =>
    if j.trees.isEmpty then s
    else
      let j1 := j.closeTrees (s.exactOf j)
      let k := s.ledgerPlace j
      match (s.cluster k.1).ledgerFirst? k.2, (s.cluster k.1).coreMap.getD k.2 none with
      | some first, some n =>
        let ls := if j.ledgerLine = some first then j1.ledgerLines.take (j1.ledgerReplicas / 8) else j1.ledgerLines
        (s.modCluster k.1 fun c => { c with cores := mmod {} c.cores n fun x => x.writeLedger j.step first ls }).setJob slot
          { j1 with ledgerLine := some first }
      | _, _ => s.setJob slot j1

/-- STEP mark (R181), at a word that carries one. Every tree of the energy unit closes (R229), and completed core copies switch (R206). At most
two steps are uncommitted at once: a third ends only after the oldest commit, as a hold (R276). -/
def State.stepMark (s : State) (slot : Nat) : State :=
  match s.job? slot with
  | none => s
  | some j =>
    if j.issuing = false ∨ ctlStep (s.controlAt j) = false then s
    else if 2 ≤ j.stepEnds.length then (s.demote slot 6).modJob slot fun k => k.takeHold 64
    else
      let s0 := (s.closeLedger slot).modJob slot fun k => k.endTrees (s.exactOf j)
      let s1 := (s0.mapRegion j.region fun c => { c with groupsAtStep := mset [] c.groupsAtStep j.step c.openGroups }).switchCopies j.region
      s1.modJob slot fun k => k.markStep ((s.tilingOf j).stepLoop? (s.program j)) (s.checksOf j j.step)

def execStepMark (job : Fin 4096) (s : State) : Host.Outcome State Fault Refusal := .next (s.stepMark job.val)

/-- Every pending word becomes current (R223). -/
def Core.swapPending (c : Core) : Core :=
  { c with slots := c.slots.filterMap fun e =>
      let v : StateWord := match e.2.pend with
        | some w => { cur := w, curPoison := e.2.pendPoison, curTag := e.2.pendTag }
        | none => { cur := e.2.cur, curPoison := e.2.curPoison, curTag := e.2.curTag }
      if v = {} then none else some (e.1, v) }

/-- PHASE mark (R181, R223): the state banks swap at the end of the cycle. -/
def State.phaseMark (s : State) (slot : Nat) : State :=
  match s.job? slot with
  | none => s
  | some j =>
    if j.issuing = false ∨ ctlPhase (s.controlAt j) = false then s
    else
      (s.mapRegion j.region Core.swapPending).setJob slot
        { j with phaseBit := !j.phaseBit, phase := if ctlStep (s.controlAt j) then 0 else j.phase + 1 }

def execPhaseMark (job : Fin 4096) (s : State) : Host.Outcome State Fault Refusal := .next (s.phaseMark job.val)

/-! ### BARRIER (R182, R310, R429, R441 to R443) -/

/-- Is a preemption or suspension requested of a job at its present step (R310, R335). -/
def Job.stopRequested (j : Job) : Bool := j.preemptPending || j.suspendAt.any fun n => decide (n ≤ j.step)

/-- Does the barrier of the current epoch hold (R429): every beat is held, or, in asynchronous mode, the epoch is above 0. -/
def GroupState.epochHolds (g : GroupState) (e : Nat) : Bool :=
  (g.async && e != 0) || g.inbound.all fun c => g.complete c e

/-- A neighbour that left and from which the barrier needs a halo (R443). -/
def GroupState.peerLeft (g : GroupState) (e : Nat) : Bool :=
  !g.epochHolds e && g.inbound.any fun c => !g.complete c e && (g.neighbour? c.2.src).any (·.left)

def State.barrierHolds (s : State) (j : Job) (kind : BarrierKind) : Bool :=
  match kind with
  | .commit => j.committed == j.step
  | .epoch => match j.group with | some g => g.epochHolds j.epoch | none => true
  | .preempt =>
    match (s.tilingOf j).stepLoop? (s.program j) with
    | some (_, z) => j.pc != z || !j.stopRequested
    | none => true

/-- The atomic operation of a beat of a combine channel (R441). -/
def combineOp (p : Bytes) (t : Tiling) (j : Job) (c : Channel) (b : HaloBeat) : Outward :=
  let e := t.target p c.target
  let f := atomFmt e.format
  { op := .atomic f (BitVec.ofNat 16 (2 ^ (64 / f.bytes) - 1)) (if c.mode = 1 then .ordered else .arrival) c.j c.n ((e.tag + j.step) % 65536),
    job := j.id, step := j.step, alloc := e.alloc, offset := e.offset + 64 * b.beat, data := BitVec.ofNat 512 (leNat b.data) }

/-- An epoch barrier passes: the combine beats of the epoch go to the base dies, in channel and beat order (R441). -/
def State.passEpoch (s : State) (slot : Nat) (j : Job) (g : GroupState) : State :=
  let p := s.program j
  let t := s.tilingOf j
  let ops := (g.inbound.filter fun c => c.2.kind == 1).flatMap fun c =>
    (sortBy (fun a b : HaloBeat => decide (a.beat < b.beat)) (g.beatsOf c.1 j.epoch)).map (combineOp p t j c.2)
  let s1 := ops.foldl (fun a o => match j.page? o.alloc o.offset with
    | some q => a.modStack (s.servingStack q) fun k => { k with intake := k.intake ++ [o] }
    | none => a) s
  s1.setJob slot { j with waiting := .no, group := some { g with passed := some j.epoch, nextIn := [] } }

/-- A barrier's condition holds: the word issues. -/
def State.passBarrier (s : State) (slot : Nat) (j : Job) (kind : BarrierKind) : State :=
  match kind, j.group with
  | .epoch, some g => s.passEpoch slot j g
  | _, _ => s.setJob slot { j with waiting := .no }

/-- The BARRIER field of a kind (R218). -/
def barrierCode (kind : BarrierKind) : Nat :=
  match kind with
  | .commit => 1 | .epoch => 2 | .preempt => 3

/-- A BARRIER word issues, or waits until its condition holds. A fixed-cadence job whose commit or epoch barrier waits is demoted with
cause 5 (R323); a job that needs the halo of a member that left ends (R443). -/
def State.barrierWord (s : State) (slot : Nat) (kind : BarrierKind) : State :=
  match s.job? slot with
  | none => s
  | some j =>
    if j.issuing = false ∨ ctlBarrier (s.controlAt j) ≠ barrierCode kind then s
    else if s.barrierHolds j kind then s.passBarrier slot j kind
    else if kind = .epoch ∧ (j.group.any fun g => g.peerLeft j.epoch) then s.endJob slot 0x0A13 0 0
    else (if kind = .preempt then s else s.demote slot 5).modJob slot fun k => { k with waiting := .barrier kind }

def execBarrierWord (job : Fin 4096) (kind : BarrierKind) (s : State) : Host.Outcome State Fault Refusal :=
  .next (s.barrierWord job.val kind)

/-- Held cycles counted for a job and on the dies of its region (R184, R213, R319). Each call is one hold of HOLD_EVENTS, a barrier's wait and a
relock's pause too (DESIGN CHOICE, log entry 94). -/
def State.countHeld (s : State) (slot cycles : Nat) (cadence : Bool) : State :=
  match s.job? slot with
  | none => s
  | some j =>
    let s1 := s.setJob slot { j with heldCycles := j.heldCycles + cycles, cadence := if cadence then j.cadence + cycles else j.cadence }
    (j.region.map (· / 2)).eraseDups.foldl (fun t d => t.modDie d fun x =>
      { x with holdCycles := satAdd 64 x.holdCycles cycles, holdEvents := satAdd 32 x.holdEvents 1 }) s1

/-- The condition a job's barrier waits for now holds: the word issues. The time it waited counts as held cycles; no step carries the
count, which is a free value (log entry 6). A preemption that was asked for changes no cadence count (R332, R333). -/
def State.barrierRelease (s : State) (slot : Nat) : State :=
  match s.job? slot with
  | none => s
  | some j =>
    match j.waiting with
    | .barrier kind =>
      if s.barrierHolds j kind then
        (({ s with free := s.free + 1 } : State).passBarrier slot j kind).countHeld slot (Config.waitCycles s.free) (kind != .preempt)
      else if kind = .epoch ∧ (j.group.any fun g => g.peerLeft j.epoch) then s.endJob slot 0x0A13 0 0
      else s
    | _ => s

def execBarrierRelease (job : Fin 4096) (s : State) : Host.Outcome State Fault Refusal := .next (s.barrierRelease job.val)

/-! ### END (R179, R218) -/

/-- A word's cycle counted. The words before the step loop count once, when the job first starts: a restore issues them again (R319, R332). -/
def Job.tick (j : Job) : Job := { j with cycle := j.cycle + 1, cadence := if j.prelude then j.cadence else j.cadence + 1 }

/-- END: the program ends at the end of this cycle. The job ends when its last step has committed. -/
def State.endWord (s : State) (slot : Nat) : State :=
  match s.job? slot with
  | none => s
  | some j =>
    if j.issuing = false ∨ ctlEnd (s.controlAt j) = false then s
    else
      (s.setJob slot { j.tick with waiting := .finishing }).finish slot

def execEndWord (job : Fin 4096) (s : State) : Host.Outcome State Fault Refusal := .next (s.endWord job.val)

/-! ### Loops (R180, R219) -/

/-- The end tests of the loops that end on a word, innermost first: the open loops after it, and the next word, by its 12-bit address. -/
def endTests (last : Nat) : List LoopFrame → List LoopFrame × Nat
  | [] => ([], (last + 1) % 4096)
  | f :: fs =>
    if f.last = last then
      if 1 < f.left then ({ f with left := f.left - 1 } :: fs, f.first) else endTests last fs
    else (f :: fs, (last + 1) % 4096)

/-- The count of a loop: an immediate, or a job parameter; parameter 0 is the sweeps that are left to run (R218, R318). -/
def Job.loopCount (j : Job) (c : LoopCount) : Nat :=
  match c with
  | .imm n => n.val
  | .param k => if k.val = 0 then j.sweepsLeft else (j.body.params.getD k.val 0).toNat

/-- A loop's opening word (R180, R219). Reached by a jump back, it opens nothing; with a count of 0, its body is skipped. -/
def Job.openLoop (j : Job) (last count : Nat) : Job :=
  if j.loops.head?.any fun f => f.first == j.pc && f.last == last then j
  else if count = 0 then
    let r := endTests last j.loops
    { j.tick with loops := r.1, pc := r.2 }
  else { j with loops := { first := j.pc, last := last, left := count } :: j.loops }

/-- Is a loop count job parameter 0: the step loop's (R309). -/
def countsSweeps (c : LoopCount) : Bool := match c with | .param k => k.val == 0 | .imm _ => false

/-- Does the control slice of a word open the loop named (R218). -/
def opensLoop (c last : Nat) (count : LoopCount) : Bool :=
  ctlLoopOpen c && ctlLoopLast c == last && (match count with
    | .imm n => !ctlCountSrc c && ctlCount c == n.val
    | .param k => ctlCountSrc c && ctlCount c % 8 == k.val)

def State.loopOpen (s : State) (slot last : Nat) (count : LoopCount) : State :=
  s.modJob slot fun j =>
    if j.issuing && opensLoop (s.controlAt j) last count then
      let k := j.openLoop last (j.loopCount count)
      { k with prelude := k.prelude && !countsSweeps count }
    else j

def execLoopOpen (job : Fin 4096) (last : Fin 4096) (count : LoopCount) (s : State) : Host.Outcome State Fault Refusal :=
  .next (s.loopOpen job.val last.val count)

/-- The end of a word's cycle: the program counter takes its next value (R179, R180). -/
def Job.nextWord (j : Job) : Job :=
  let r := endTests j.pc j.loops
  { j.tick with loops := r.1, pc := r.2 }

/-- The end of a word that is not the program's last. When the region leaves the words of an energy pass, the trees close (R229). -/
def State.loopEndTest (s : State) (slot : Nat) : State :=
  match s.job? slot with
  | none => s
  | some j =>
    if j.issuing = false ∨ ctlEnd (s.controlAt j) = true then s
    else
      let s1 := s.setJob slot j.nextWord
      if ctlEpass (s.controlAt j) && !ctlEpass (s.controlAt j.nextWord) then s1.closeLedger slot else s1

def execLoopEndTest (job : Fin 4096) (s : State) : Host.Outcome State Fault Refusal := .next (s.loopEndTest job.val)

/-! ### Holds (R183 to R185, R323, R324) -/

def HoldCause.code : HoldCause → Nat
  | .latency => 1 | .thermal => 2 | .feed => 3 | .atomics => 4 | .barrier => 5 | .other => 6

/-- A hold: the region stops for 1 to 64 cycles. A fixed-cadence job is demoted first (R185, R324). `after` says how many cycles later
than a hold in progress this one starts: the hold is extended to the later of the two ends (R184). -/
def State.holdRequest (s : State) (slot len after : Nat) (cause : Nat) : State :=
  match s.job? slot with
  | none => s
  | some j =>
    if len = 0 ∨ j.state ≠ .running then s
    else
      (s.demote slot cause).modJob slot fun k =>
        match k.hold with
        | some h => { k with hold := some { len := max h.len (after + len) } }
        | none => { k with hold := some { len := len } }

def execHoldRequest (job : Fin 4096) (len : Fin 65) (after : Nat) (cause : HoldCause) (s : State) : Host.Outcome State Fault Refusal :=
  .next (s.holdRequest job.val len.val after (HoldCause.code cause))

/-- A hold ends: its cycles are counted (R184, R213, R319). While the cause lasts another hold follows: a die at 105 °C keeps its jobs
held (R529), and so does a hub that is not READY (R400). -/
def State.holdEnd (s : State) (slot : Nat) : State :=
  match s.job? slot with
  | none => s
  | some j =>
    match j.hold with
    | none => s
    | some h =>
      let stays := !s.config.hubReady || j.region.any fun x => (s.die (x / 2)).thermal == .holding
      (s.setJob slot { j with hold := if stays then some { len := 64 } else none }).countHeld slot h.len true

def execHoldEnd (job : Fin 4096) (s : State) : Host.Outcome State Fault Refusal := .next (s.holdEnd job.val)

end Sys2Proof.Machine
end

