-- ==== Sys2Proof/Machine/StackFail.lean ====
section
/-! DEFINITION. A failed stack (09 R267, R285, R286; 15 R464, R466): the data that is lost, and what the S6 does about it. -/

namespace Sys2Proof.Machine

open Sys2Proof

/-- Every page that a job holds (R273). -/
def Job.pages (j : Job) : List PageRef := (j.allocs.flatMap (·.pages)) ++ j.contextPages

/-- Are the data of a page lost: an unprotected page on a failed stack (R285), or any page of a protected stripe that spans two failed stacks
(R286). -/
def State.pageLost (s : State) (p : PageRef) : Bool :=
  if (s.frameEntry p.stack p.frame).protectedLayout then
    decide (2 ≤ ((groupStacks p.stack).filter fun u => (s.stack u).failed && (s.frameEntry u p.frame).protectedLayout).length)
  else (s.stack p.stack).failed

/-- Images with lost pages marked DAMAGED. -/
def State.damageLost (s : State) : State :=
  s.onObjects fun x => { x with held := x.held.map fun o => if o.pages.any s.pageLost then { o with damaged := true } else o }

/-- Every job that holds a lost page ends with DATA_LOST. -/
def State.endLost (s : State) : State :=
  ((s.jobList.filter fun e => e.2.state != .ended && e.2.pages.any s.pageLost).map (·.1)).foldl (fun t k => t.endJob k 0x0905 0 0) s

/-- The stack that takes over an operation of a failed one, for the job that sent it; none where the job is gone. -/
def State.newHome (s : State) (job alloc off : Nat) : Option Nat :=
  (s.jobById? job).bind fun e => (e.2.page? alloc off).map s.servingStack

/-- The operations and rounds that a failed stack still held, at the stacks that serve its lines from now on (R267, R284). -/
def State.rehome (s : State) (t : Nat) : State :=
  let k := s.stack t
  let s1 := s.modStack t fun x => { x with intake := [], waiting := [], rounds := [] }
  let s2 := k.rounds.foldl (fun a r => match s.newHome r.job r.alloc r.offset with
    | some u => a.modStack u fun x => { x with rounds := x.rounds ++ [r] }
    | none => a) s1
  (k.waiting ++ k.intake).foldl (fun a o => match s.newHome o.job o.alloc o.offset with
    | some u => a.modStack u fun x => { x with intake := x.intake ++ [o] }
    | none => a) s2

/-- A stack fails: the event is logged, images are marked, and jobs end that lost data. Its protected pages are served degraded from
then on (R284, R285). -/
def State.failStack (s : State) (t : Nat) : State :=
  if (s.stack t).failed then s
  else
    ((s.modStack t fun k => { k with failed := true }).log
      { code := 0x0913, severity := 2, kind := 5, unit := unitWord t 0xFF 0xFF 0xFF }).damageLost.endLost.rehome t

/-- A confirmed fault charged to a base die; retired, it fails its stack (R464, R466, R267). -/
def State.chargeBaseDie (s : State) (t : Nat) : State :=
  let s1 := s.charge (.baseDie (Fin.ofNat 36 t))
  if (s1.stack t).baseDieFailed then s1.failStack t else s1

end Sys2Proof.Machine
end

