-- ==== Sys2Proof/Machine/Atomics.lean ====
section
/-! DEFINITION. Base-die line operations (05 R136 to R143): stores, atomic operations in arrival order, and the rounds of ordered
combine. -/

namespace Sys2Proof.Machine

open Sys2Proof

/-! ### Adding elements (R136, R137) -/

/-- One element added: the result, and whether a signed integer left its range. -/
def addElem (f : AtomFmt) (a b : Nat) : Nat × Bool :=
  let w := 8 * f.bytes
  match f with
  | .f32 => (FloatFmt.round Machine.f32 (Val.add (Machine.f32.value a) (Machine.f32.value b)), false)
  | .f64 => (FloatFmt.round Machine.f64 (Val.add (Machine.f64.value a) (Machine.f64.value b)), false)
  | _ =>
    let s := signedOf w a + signedOf w b
    (wrapNat w s, decide (s < -(2 ^ (w - 1) : Int) ∨ (2 ^ (w - 1) : Int) ≤ s))

/-- A line with the masked elements of an operand added, and how many elements wrapped. -/
def addElements (f : AtomFmt) (mask : BitVec 16) (line x : BitVec 512) : BitVec 512 × Nat :=
  let w := 8 * f.bytes
  let es := (List.range (512 / w)).map fun i =>
    let a := bitField line.toNat (w * i) w
    if mask.getLsbD i then addElem f a (bitField x.toNat (w * i) w) else (a, false)
  (BitVec.ofNat 512 (es.foldr (fun e acc => e.1 + 2 ^ w * acc) 0), (es.filter (·.2)).length)

/-- Counts of a step raised: they stand with the job, and with every later step end (R137, R450). -/
def Job.countAt (j : Job) (step : Nat) (c : Counts) : Job :=
  { j with counts := j.counts.add c,
           stepEnds := j.stepEnds.map fun e => if step ≤ e.step then { e with counts := e.counts.add c } else e }

/-- The markers of a line after an operation that may carry a mirage itself: both sectors are poisoned by one that does (R143). -/
def LineMarks.poisonedBy (m : LineMarks) (b : Bool) : LineMarks := { lo := m.lo || b, hi := m.hi || b }

/-- One operation applied to its line's shadow (R143). A part that carries a mirage poisons the line; a store replaces all of it, markers
included (R261). -/
def State.applyOp (s : State) (slot : Nat) (j : Job) (o : Outward) : State :=
  match o.op with
  | .atomic f mask _ _ _ _ =>
    let j1 := s.shadowLine j o.step o.alloc o.offset o.poison fun v => ((addElements f mask v.1 o.data).1, v.2.poisonedBy o.poison)
    let wraps := (addElements f mask (s.lineUpTo j o.step o.alloc o.offset).1 o.data).2
    s.setJob slot (j1.countAt o.step { atomicWraps := wraps })
  | .store => s.setJob slot (s.shadowLine j o.step o.alloc o.offset o.poison fun _ => (o.data, { lo := o.poison, hi := o.poison }))
  | .area _ => s

/-! ### Intake -/

/-- A line operation counted (R287, LINE_OPS). -/
def Stack.countOp (k : Stack) (job : Nat) : Stack := k.countOps job 1

/-- An operation taken from a stack's intake and applied for the job that sent it; the job gone, it is dropped. -/
def State.takeOp (s : State) (t : Nat) (o : Outward) : State :=
  let s1 := s.modStack t fun k => k.countOp o.job
  match s1.jobById? o.job with
  | some (slot, j) => s1.applyOp slot j o
  | none => s1

/-- Would a part open a 65th round: it stays in the intake (R141). -/
def Stack.blocked (k : Stack) (o : Outward) : Bool := o.isOrdered && decide (64 ≤ k.rounds.length) && !k.rounds.any (·.isOn o)

/-- The next operation of the intake, with the rest: the oldest that is not blocked; a part for an open round is always accepted (R141). A stack
that has failed, or is in self-refresh for its temperature, serves none (R267, R529). -/
def Stack.nextOp (k : Stack) : Option (Outward × List Outward) :=
  if k.away then none else (k.intake.find? fun o => !k.blocked o).map fun o => (o, dropFirst (fun x => !k.blocked x) k.intake)

/-- The next operation of the intake, when it is a store or an arrival-order operation: applied, or held while its line has an open
round (R138, R139). -/
def State.atomicOp (s : State) (t : Nat) : State :=
  match (s.stack t).nextOp with
  | none => s
  | some (o, rest) =>
    if o.isOrdered then s
    else if (s.stack t).rounds.any (·.isOn o) then
      s.modStack t fun k => { k with intake := rest, waiting := k.waiting ++ [o] }
    else (s.modStack t fun k => { k with intake := rest }).takeOp t o

def execAtomicOperation (stack : Fin 36) (s : State) : Host.Outcome State Fault Refusal := .next (s.atomicOp stack.val)

/-! ### Ordered combine -/

/-- A combine fault (R140): the job ends, the event names the line, and the base die is charged (R464). No rule gives the event a code
of its own: it carries the status (log entry 29). -/
def State.combineFault (s : State) (t : Nat) (o : Outward) : State :=
  match s.jobById? o.job with
  | none => s
  | some (slot, j) =>
    let s1 := s.log (j.event { code := 0x040A, severity := 3, status := 0x040A, kind := 5, unit := unitWord t 0xFF 0xFF 0xFF,
                               operation := 0xFF83, detail := BitVec.ofNat 64 (o.alloc * 2 ^ 48 + o.offset) })
    (s1.endJob slot 0x040A 0 0).chargeBaseDie t

/-- The parts present in ascending index are applied, `fuel` of them at most: the round and the operations applied. -/
def drainRound : Nat → Round → Round × List Outward
  | 0, r => (r, [])
  | fuel + 1, r =>
    if r.n ≤ r.next then (r, [])
    else match mget none r.held r.next with
      | none => (r, [])
      | some o =>
        let q := drainRound fuel { r with next := r.next + 1, held := mset none r.held r.next none }
        (q.1, o :: q.2)

/-- Is a part one that R140 faults, in the round it enters. -/
def partFaults (r : Round) (j n : Nat) : Bool :=
  n == 0 || decide (64 < n) || n != r.n || decide (n ≤ j) || decide (j < r.next) || (mget none r.held j).isSome

/-- A part entered into its round; the round closes when its last part has been applied. -/
def State.enterPart (s : State) (t : Nat) (o : Outward) (r : Round) (j : Nat) : State :=
  let q := drainRound 64 { r with held := mset none r.held j (some o) }
  let others := (s.stack t).rounds.filter fun x => !x.isOn o
  let s1 := s.modStack t fun k => { k with rounds := if q.1.n ≤ q.1.next then others else others ++ [q.1] }
  q.2.foldl (fun a p => a.takeOp t p) s1

/-- A part at the base die: it opens a round, enters the open one, or waits for a later one (R139). `put` keeps it waiting. -/
def State.partArrives (s : State) (t : Nat) (o : Outward) (put : State → State) : State :=
  match o.op with
  | .atomic _ _ _ j n tag =>
    match (s.stack t).rounds.find? (·.isOn o) with
    | some r => if r.tag ≠ tag then put s else if partFaults r j n then s.combineFault t o else s.enterPart t o r j
    | none =>
      let r : Round := { alloc := o.alloc, job := o.job, offset := o.offset, n := n, tag := tag, next := 0 }
      if partFaults r j n then s.combineFault t o else s.enterPart t o r j
  | _ => s

/-- The next operation of the intake, when it is an ordered part. -/
def State.orderedPart (s : State) (t : Nat) : State :=
  match (s.stack t).nextOp with
  | none => s
  | some (o, rest) =>
    if o.isOrdered = false then s
    else
      (s.modStack t fun k => { k with intake := rest }).partArrives t o fun a =>
        a.modStack t fun k => { k with waiting := k.waiting ++ [o] }

def execOrderedPart (stack : Fin 36) (s : State) : Host.Outcome State Fault Refusal := .next (s.orderedPart stack.val)

/-- The first operation that waits and can enter does, in the order of arrival (R139): its line has no open round, or the open one is its own. At a
stack that is away none does (R267, R529). -/
def State.heldEntry (s : State) (t : Nat) : State :=
  let k := s.stack t
  let ready (o : Outward) : Bool := !k.away && (k.joins o || (!k.rounds.any (·.isOn o) && !k.blocked o))
  match k.waiting.find? ready with
  | none => s
  | some o =>
    let s1 := s.modStack t fun k => { k with waiting := dropFirst ready k.waiting }
    if o.isOrdered then s1.partArrives t o (fun a => a.modStack t fun k => { k with waiting := o :: k.waiting }) else s1.takeOp t o

def execHeldPartEntry (stack : Fin 36) (s : State) : Host.Outcome State Fault Refusal := .next (s.heldEntry stack.val)

end Sys2Proof.Machine
end

