-- ==== Sys2Proof/Machine/Caravan.lean ====
section
/-! DEFINITION. Caravans (07 R194 to R199, 08 R220, R233, R245): triggers, the beats the base dies issue, their arrival at an edge
port. -/

namespace Sys2Proof.Machine

open Sys2Proof

/-! ### Triggers -/

/-- Does the word a job is at trigger a segment, in some half of its region (R218, R220). -/
def State.triggers (s : State) (j : Job) (seg : Nat) : Bool :=
  j.region.any fun h =>
    let c := (mget 0 (s.half h).controlMem (j.pc % 4096)).toNat
    (ctlTrig0 c && ctlSeg0 c == seg) || (ctlTrig1 c && ctlSeg1 c == seg)

/-- A trigger of the word a job is at starts a segment of the tiling (R197). -/
def State.caravanTrigger (s : State) (slot seg : Nat) : State :=
  match s.job? slot with
  | none => s
  | some j =>
    let t := s.tilingOf j
    if j.issuing = false ∨ t.numSegments ≤ seg ∨ !s.triggers j seg then s
    else s.setJob slot { j with segments := j.segments ++ [{ seg := seg, issued := 0, total := (t.segment (s.program j) seg).beats }] }

def execCaravanTrigger (job : Fin 4096) (seg : Fin 4096) (s : State) : Host.Outcome State Fault Refusal :=
  .next (s.caravanTrigger job.val seg.val)

/-! ### The data of a beat -/

/-- Where element `k` of a stream of tiles stands among the stored elements: column-major order turns each 32 × 32 tile (R245). -/
def streamElem (order k : Nat) : Nat := if order = 1 then k / 1024 * 1024 + k % 32 * 32 + k % 1024 / 32 else k

/-- Does a segment read the held model image itself; a fixed-cadence one of SRC 0 reads the placed copy in its allocation (R196). -/
def State.readsImage (s : State) (j : Job) (g : SegmentEntry) : Bool := g.src == 0 && !progFixed (s.program j)

/-- Where sector `i` of a segment's source lies: the page and the sector in it. -/
def State.sourcePlace (s : State) (j : Job) (g : SegmentEntry) (i : Nat) : Option (PageRef × Nat) :=
  if s.readsImage j g then
    (s.object? j.body.model).bind fun o => (o.pages[32 * i / pageBytes]?).map fun p => (p, 32 * i % pageBytes / 32)
  else (j.locate g.alloc (32 * i)).map fun e => (e.1, e.2 / 32)

/-- Sector `i` of a segment's source, and its marker: of the image in its frames, or the newest of an allocation (R276). -/
def State.sourceSector (s : State) (j : Job) (g : SegmentEntry) (i : Nat) : Nat × Bool :=
  if s.readsImage j g then
    match s.sourcePlace j g i with
    | some e => (s.sectorNat e.1.stack e.1.frame e.2, s.sectorPoison e.1.stack e.1.frame e.2)
    | none => (leAt (s.model j) (32 * i) 32, false)
  else
    let l := s.newestLine j g.alloc (64 * (i / 2))
    (bitField l.1.toNat (256 * (i % 2)) 256, if i % 2 = 0 then l.2.lo else l.2.hi)

/-- The sectors that `n` bytes from an offset reach. -/
def sectorsOf (off n : Nat) : List Nat := if n = 0 then [] else (List.range ((off + n - 1) / 32 + 1 - off / 32)).map fun i => off / 32 + i

/-- The source of a segment as bytes from an offset, with the marker of the sectors they come from. -/
def State.sourceBytes (s : State) (j : Job) (g : SegmentEntry) (off n : Nat) : Bytes × Bool :=
  let ss := (sectorsOf off n).map (s.sourceSector j g)
  ((ss.flatMap fun x => leBytes 32 x.1).drop (off % 32) |>.take n, ss.any (·.2))

/-- One 32-bit word built of a replica group's states of a variable, from the snapshot by the ancestor list (R233). -/
def Job.gatherWord (j : Job) (m : Bytes) (v r : Nat) : Word :=
  let st (l : Nat) : Nat := (mget 0 j.snapshotArea (stateKey (mget 0 j.ancestors (r + l)) v)).toNat
  match (imgBlock m (imgBlockOf m v)).kind with
  | 0 => BitVec.ofNat 32 ((List.range 32).foldl (fun a l => a + st l % 2 * 2 ^ l) 0)
  | 1 => BitVec.ofNat 32 ((List.range 4).foldl (fun a l => a + st l % 256 * 2 ^ (8 * l)) 0)
  | _ => BitVec.ofNat 32 (st 0)

/-- The place of a byte of an item of job memory, by page and sector. -/
def itemPlace (ps : List PageRef) (off : Nat) : Option (PageRef × Nat) := (ps[off / pageBytes]?).map fun p => (p, off % pageBytes / 32)

/-- The replicas whose states one gathered word holds, from the first on. -/
def gatherWidth (kind : Nat) : Nat := match kind with | 0 => 32 | 1 => 4 | _ => 1

/-- The sectors that beat `i` of a segment reads, each once: those of its source, of the anchors, or of the snapshot's states that it gathers. -/
def State.beatSectors (s : State) (j : Job) (seg : Nat) (g : SegmentEntry) (i : Nat) : List (PageRef × Nat) :=
  let n := g.beatBits / 8
  let m := s.model j
  (match g.type with
  | 0 =>
    let w := fmtBits (imgCoupling m) / 8
    (List.range (n / w)).flatMap fun k => (sectorsOf (g.sourceOffset + w * streamElem g.order (n / w * i + k)) w).filterMap (s.sourcePlace j g)
  | 2 => (List.range (n / 16)).filterMap fun k =>
      itemPlace (j.sideItem 2) (16 * (Config.anchorPlace (s.program j) j.tiling seg (n / 16 * i + k) % j.anchors.length))
  | 3 => (List.range (n / 4)).flatMap fun k =>
      let a := Config.gatherAt (s.program j) j.tiling seg (n / 4 * i + k)
      (List.range (gatherWidth (imgBlock m (imgBlockOf m a.1)).kind)).filterMap fun l =>
        itemPlace (j.sideItem 1) (mget 0 j.ancestors (a.2 + l) * replicaSize m 32 + (varBytes m 32 (fun _ => 0) a.1).1)
  | _ => (sectorsOf (g.sourceOffset + n * i) n).filterMap (s.sourcePlace j g)).eraseDups

/-- The bytes of beat `i` of a segment, and their marker (R197, R199, R245). -/
def State.beatData (s : State) (j : Job) (seg : Nat) (g : SegmentEntry) (i : Nat) : Bytes × Bool :=
  let n := g.beatBits / 8
  let marked := (s.beatSectors j seg g i).any fun e => s.sectorPoison e.1.stack e.1.frame e.2
  match g.type with
  | 0 =>
    let w := fmtBits (imgCoupling (s.model j)) / 8
    let es := (List.range (n / w)).map fun k => s.sourceBytes j g (g.sourceOffset + w * streamElem g.order (n / w * i + k)) w
    (es.flatMap (·.1), es.any (·.2))
  | 2 =>
    ((List.range (n / 16)).flatMap fun k =>
      leBytes 16 (j.anchors.getD (Config.anchorPlace (s.program j) j.tiling seg (n / 16 * i + k) % j.anchors.length) 0).toNat, marked)
  | 3 =>
    ((List.range (n / 4)).flatMap fun k =>
      let a := Config.gatherAt (s.program j) j.tiling seg (n / 4 * i + k)
      leBytes 4 (j.gatherWord (s.model j) a.1 a.2).toNat, marked)
  | _ => s.sourceBytes j g (g.sourceOffset + n * i) n

/-- The exponents of the elements of a beat of BS16 couplings (R58): by the tile of the model that each is read from, in the image or in its placed
copy; of other data, values that the rules leave open and that stay what they are (log entry 6). -/
def State.beatExps (s : State) (j : Job) (g : SegmentEntry) (i : Nat) : List Int :=
  let m := s.model j
  let p := s.program j
  let n := g.beatBits / 16
  if g.type ≠ 0 ∨ imgCoupling m ≠ 14 then []
  else
    (List.range n).map fun k =>
      let byte := g.sourceOffset + 2 * streamElem g.order (n * i + k)
      (if g.src = 0 then imgCouplingExp m byte else none).getD
        (max (-48) (min 24 (Config.placedExponent p (2 ^ 32 * (g.alloc + 1) + byte / 64) (byte % 64 / 2))))

/-- The states that the words of a beat hold: those of the variable that a gather names. -/
def State.beatTags (s : State) (j : Job) (seg : Nat) (g : SegmentEntry) (i : Nat) : List (Option StateTag) :=
  let m := s.model j
  let n := g.beatBits / 32
  if g.type ≠ 3 then []
  else
    (List.range n).map fun k =>
      let b := imgBlock m (imgBlockOf m (Config.gatherAt (s.program j) j.tiling seg (n * i + k)).1)
      some { kind := b.kind, km1 := b.km1 }

/-! ### Issue -/

/-- A base die issues the next beat of a running segment, and counts what it reads (R284, R287). A beat that will be late raises a hold, after the demotion of a job in
fixed cadence (R183, R185, R197). -/
def State.beatIssue (s : State) (slot seg late : Nat) : State :=
  match s.job? slot with
  | none => s
  | some j =>
    match j.segments.find? fun x => x.seg == seg with
    | none => s
    | some x =>
      let g := (s.tilingOf j).segment (s.program j) seg
      let d := s.beatData j seg g x.issued
      let b : CaravanBeat := { half := g.half, port := g.port, data := BitVec.ofNat 512 (leNat d.1),
                               bits := g.beatBits, poison := d.2, exps := s.beatExps j g x.issued, tags := s.beatTags j seg g x.issued }
      let done := decide (x.total ≤ x.issued + 1)
      let j1 := { j with
        segments := if done then dropFirst (fun y : Segment => y.seg == seg) j.segments
                    else modFirst (fun y : Segment => y.seg == seg) (fun y => { y with issued := y.issued + 1 }) j.segments,
        inFlight := j.inFlight ++ [b] }
      let s1 := (s.setJob slot j1).readSectors slot j.id (s.beatSectors j seg g x.issued)
      if late = 0 then s1 else s1.holdRequest slot (min 64 late) 0 1

def execCaravanBeatIssue (job : Fin 4096) (seg : Fin 4096) (late : Nat) (s : State) : Host.Outcome State Fault Refusal :=
  .next (s.beatIssue job.val seg.val late)

/-! ### Arrival -/

/-- The cluster and the row of cores of a port of a half: ports 0 to 7 in cluster row 0, 8 to 15 in row 7, by column (log entry 28). -/
def portCluster (phys port : Nat) : Nat := 64 * (phys / 2) + 8 * (if port < 8 then 0 else 7) + port % 4 + 4 * (phys % 2)

def portPos (port column : Nat) : Nat := (if port < 8 then 0 else 56) + column

/-- The words of a beat as they stand at an edge core's port: a 256-bit beat takes the half of the port that this cycle leaves free
(R197). -/
def Core.portArrival (c : Core) (b : CaravanBeat) (cycle : Nat) : Core :=
  let taken := c.inPort.any fun x => x.due == cycle && x.words.all fun w => decide (w.1 < 8)
  let lo := if b.bits = 256 ∧ taken then 8 else 0
  let n := if b.bits = 256 then 8 else 16
  let ws : SMap (Option BeatWord) := (List.range n).map fun i =>
    (lo + i, some { data := b.data.extractLsb' (32 * i) 32, poison := b.poison, tag := b.tags.getD i none,
                    exps := (b.exps.drop (2 * i)).take 2 })
  { c with inPort := c.inPort ++ [{ kind := .caravan, words := ws, due := cycle }] }

/-- The oldest beat in flight reaches its edge port, at the core of a column (log entry 13). -/
def State.beatArrival (s : State) (slot column : Nat) : State :=
  match s.job? slot with
  | none => s
  | some j =>
    match j.inFlight with
    | [] => s
    | b :: rest =>
      let s1 := s.setJob slot { j with inFlight := rest }
      match j.region[b.half]? with
      | none => s1
      | some h =>
        match (s.cluster (portCluster h b.port)).coreMap.getD (portPos b.port column) none with
        | none => s1
        | some n => s1.modCluster (portCluster h b.port) fun k => { k with cores := mmod {} k.cores n fun c => c.portArrival b j.cycle }

def execCaravanBeatArrival (job : Fin 4096) (column : Fin 8) (s : State) : Host.Outcome State Fault Refusal :=
  .next (s.beatArrival job.val column.val)

end Sys2Proof.Machine
end

