-- ==== Sys2Proof/Machine/SlotWord.lean ====
section
/-! DEFINITION. The words of a cluster slice (08 R214 to R217, R227, R230, R232, R234, R237): which words of a slot are legal, and the
command that a legal one stands for in a cluster. -/

namespace Sys2Proof.Machine

open Sys2Proof

/-! ### Legal words -/

/-- The lowest operand bit that the tables of R227, R230, R232 and R234 name, by opcode; every bit above it is named. -/
def lowestOperand : List Nat :=
  [1, 17, 2, 20, 18, 10, 15, 2, 20, 12, 12, 10, 12, 15, 22, 13, 14, 15, 5, 15, 1, 17, 9] ++
  [0, 19, 15, 20, 19, 19, 20, 22, 5, 15, 19, 13, 13, 24]

/-- Operand values that an operation's table does not define, and fields it confines to some uses (R217). -/
def operandIllegal (opc o : Nat) : Bool :=
  let f (hi lo : Nat) : Nat := bitField o lo (hi + 1 - lo)
  let g := f 23 22
  match opc with
  | 0x01 => (g != 3 && f 19 18 != 0) || (g != 0 && f 17 17 != 0)
  | 0x02 => f 15 14 == 1 || f 15 14 == 2 || f 13 12 == 3
  | 0x03 => g == 1 || g == 2 || f 21 20 == 3
  | 0x05 => g == 2
  | 0x08 => decide (2 ≤ g)
  | 0x0B => f 11 10 == 3
  | 0x17 => g == 0 || f 17 16 == 3 || (f 17 16 == 1 && f 15 5 != 0) || (f 17 16 == 2 && f 15 6 != 0)
  | 0x18 => f 20 19 == 3 || f 18 11 != 0
  | 0x1A => !(f 21 20 == 3 || (f 21 20 == 0 && g == 3))
  | 0x20 => ([0, 1, 2, 6, 7, 10].contains (f 18 15)) == false
  | _ => false

/-- Operations that act on no lane (R215). -/
def noLaneOp (opc : Nat) : Bool := [0x00, 0x15, 0x16, 0x17, 0x18, 0x19, 0x1B, 0x1C, 0x1D, 0x1E, 0x1F, 0x22, 0x23, 0x24].contains opc

/-- Is a slot's word illegal: slot 0 F, 1 D, 2 M (R214 to R217). -/
def slotIllegal (slot w : Nat) : Bool :=
  let opc := w / 2 ^ 26
  let lm := bitField w 24 2
  let o := w % 2 ^ 24
  let range : Nat × Nat := if slot = 0 then (0x01, 0x08) else if slot = 1 then (0x09, 0x16) else (0x17, 0x24)
  let low := lowestOperand.getD opc 0
  let spare := if opc = 0 then o / 2 != 0 else if opc = 0x18 then false else o % 2 ^ low != 0
  (opc != 0 && !(decide (range.1 ≤ opc) && decide (opc ≤ range.2))) || (noLaneOp opc && lm != 0) || spare || operandIllegal opc o

/-! ### Fields -/

def fieldBool (w i : Nat) : Bool := bitField w i 1 == 1

def group4 (n : Nat) : GroupSel :=
  match n with
  | 0 => .field | 1 => .energy | 2 => .statistic | _ => .auxiliary

def auxFmt4 (n : Nat) : AuxFmt :=
  match n with
  | 0 => .int | 1 => .longsum | 2 => .f32 | _ => .f64

def tileForm4 (n : Nat) : TileForm :=
  match n with
  | 0 => .scalar | 1 => .potts | _ => .full

def closeDest4 (n : Nat) : CloseDest :=
  match n with
  | 0 => .decision | 1 => .partOut | _ => .hold

def maskOp4 (n : Nat) : MaskOp :=
  match n with
  | 0 => .set | 1 => .and | 2 => .or | _ => .xor

def maskPattern4 (n : Nat) : MaskPattern :=
  match n with
  | 0 => .halves | 1 => .upto | _ => .core

def agField4 (n : Nat) : AgField :=
  match n with
  | 0 => .base | 1 => .stride | _ => .increment

def combineBit (b : Bool) : CombineMode := if b then .ordered else .arrival

def wordLm (w : Nat) : Fin 4 := Fin.ofNat 4 (bitField w 24 2)
def dd22 (w : Nat) : Fin 4 := Fin.ofNat 4 (bitField w 22 2)
def dd20 (w : Nat) : Fin 4 := Fin.ofNat 4 (bitField w 20 2)
def ag21 (w : Nat) : Fin 8 := Fin.ofNat 8 (bitField w 21 3)
def ag19 (w : Nat) : Fin 8 := Fin.ofNat 8 (bitField w 19 3)
def ag9 (w : Nat) : Fin 8 := Fin.ofNat 8 (bitField w 9 3)
def tgt12 (w : Nat) : Fin 4096 := Fin.ofNat 4096 (bitField w 12 12)

/-! ### Slot F -/

/-- The command of a legal word of slot F (R227). -/
def commandF (cl : ClusterRef) (w : Nat) : Instr :=
  match w / 2 ^ 26 with
  | 0x01 => .fldOpen { cl := cl, lm := wordLm w, grp := group4 (bitField w 22 2), dd := dd20 w, fmt := auxFmt4 (bitField w 18 2),
                       unary := fieldBool w 17 }
  | 0x02 => .fldAcc { cl := cl, lm := wordLm w, src := if fieldBool w 23 then .caravan else .playa, agc := Fin.ofNat 8 (bitField w 20 3),
                      half := fieldBool w 19, ags := Fin.ofNat 8 (bitField w 16 3), aux := bitField w 14 2 == 3,
                      form := tileForm4 (bitField w 12 2), g := Fin.ofNat 32 (bitField w 7 5), inc := fieldBool w 6,
                      first := fieldBool w 5, last := fieldBool w 4, dd := Fin.ofNat 4 (bitField w 2 2), parity := none }
  | 0x03 => .fldClose { cl := cl, lm := wordLm w, aux := bitField w 22 2 == 3, dest := closeDest4 (bitField w 20 2) }
  | 0x04 => .fldEnrg { cl := cl, lm := wordLm w, dd := dd22 w, ags := ag19 w, inc := fieldBool w 18 }
  | 0x05 => .redPart { cl := cl, lm := wordLm w, grp := group4 (bitField w 22 2), j := Fin.ofNat 64 (bitField w 16 6),
                       nm1 := Fin.ofNat 64 (bitField w 10 6) }
  | 0x06 => .redPadd { cl := cl, lm := wordLm w, grp := group4 (bitField w 22 2), j := Fin.ofNat 64 (bitField w 16 6),
                       final := fieldBool w 15 }
  | 0x07 => .redAtom { cl := cl, lm := wordLm w, tgt := tgt12 w, ago := ag9 w, mode := combineBit (fieldBool w 8),
                       j := Fin.ofNat 64 (bitField w 2 6) }
  | 0x08 => .redEtot { cl := cl, lm := wordLm w, mode := if bitField w 22 2 = 0 then .row else .push, dd := dd20 w }
  | _ => .nop cl .f (fieldBool w 0)

/-! ### Slot D -/

/-- The operands that the DRAW operations share (R230). -/
def drawOps (cl : ClusterRef) (w : Nat) : DrawOps :=
  { cl := cl, lm := wordLm w, dd := dd22 w, agw := ag19 w, launch := fieldBool w 18, sel := Fin.ofNat 4 (bitField w 16 2),
    ags := Fin.ofNat 8 (bitField w 13 3), inc := fieldBool w 12 }

def staOps (cl : ClusterRef) (w : Nat) : StaOps :=
  { cl := cl, lm := wordLm w, dd := dd22 w, ags := ag19 w, word := Fin.ofNat 16 (bitField w 15 4) }

/-- AGT and a seven-bit CH. -/
def excOps (cl : ClusterRef) (w : Nat) : ExcOps :=
  { cl := cl, lm := wordLm w, agt := ag21 w, ch := Fin.ofNat 128 (bitField w 14 7) }

/-- The command of a legal word of slot D (R230, R232). -/
def commandD (cl : ClusterRef) (w : Nat) : Instr :=
  match w / 2 ^ 26 with
  | 0x09 => .drwBin (drawOps cl w)
  | 0x0A => .drwCat (drawOps cl w)
  | 0x0B => .drwCatm (drawOps cl w) (Fin.ofNat 3 (bitField w 10 2))
  | 0x0C => .drwGau (drawOps cl w)
  | 0x0D => .excPair { cl := cl, lm := wordLm w, agt := ag21 w, ch := Fin.ofNat 128 (bitField w 15 6) }
  | 0x0E => .excBeta cl (wordLm w) (dd22 w)
  | 0x0F => .excWgt (excOps cl w) (fieldBool w 13)
  | 0x10 => .excRsmp (excOps cl w)
  | 0x11 => .staSgl (staOps cl w)
  | 0x12 => .staPair { base := staOps cl w, ags2 := Fin.ofNat 8 (bitField w 12 3), word2 := Fin.ofNat 16 (bitField w 8 4),
                       ago := Fin.ofNat 8 (bitField w 5 3) }
  | 0x13 => .staHist (staOps cl w)
  | 0x14 => .staFlush { cl := cl, lm := wordLm w, tgt := tgt12 w, ago := ag9 w, mode := combineBit (fieldBool w 8),
                        j := Fin.ofNat 64 (bitField w 2 6), wide := fieldBool w 1 }
  | 0x15 => .tpkOffer cl (Fin.ofNat 128 (bitField w 17 7))
  | 0x16 => .tpkScan cl (tgt12 w) (ag9 w)
  | _ => .nop cl .d (fieldBool w 0)

/-! ### Slot M -/

def halfLineOps (cl : ClusterRef) (w : Nat) : HalfLineOps :=
  { cl := cl, ag := ag21 w, half := fieldBool w 20, inc := fieldBool w 19 }

def haloOps (cl : ClusterRef) (w : Nat) : HaloOps := { cl := cl, ag := ag21 w, peer := Fin.ofNat 256 (bitField w 13 8) }

def stateOps (cl : ClusterRef) (w : Nat) (fmt : Nat) : StStateOps :=
  { cl := cl, lm := wordLm w, dd := dd22 w, ag := ag19 w, fmt := Fin.ofNat 16 fmt }

/-- The command of a legal word of slot M (R234). -/
def commandM (cl : ClusterRef) (w : Nat) : Instr :=
  match w / 2 ^ 26 with
  | 0x17 => .movMask { cl := cl, lmd := dd22 w, op := maskOp4 (bitField w 20 2), lms := Fin.ofNat 4 (bitField w 18 2),
                       psel := maskPattern4 (bitField w 16 2), imm := BitVec.ofNat 16 w }
  | 0x18 => .movAg { cl := cl, ag := ag21 w, field := agField4 (bitField w 19 2), value := BitVec.ofNat 11 w }
  | 0x19 => .movDesc { cl := cl, dd := dd22 w, ag := ag19 w, ofs := Fin.ofNat 16 (bitField w 15 4) }
  | 0x1A => .movGrp cl (wordLm w) (group4 (bitField w 22 2)) (group4 (bitField w 20 2))
  | 0x1B => .movZero (halfLineOps cl w)
  | 0x1C => .ldLine (halfLineOps cl w)
  | 0x1D => .ldSlot { cl := cl, ags := ag21 w, inc := fieldBool w 20 }
  | 0x1E => .ldAnch cl (dd22 w)
  | 0x1F => .stLine { cl := cl, ag := ag21 w, tgt := Fin.ofNat 4096 (bitField w 9 12), ago := Fin.ofNat 8 (bitField w 6 3),
                      inc := fieldBool w 5 }
  | 0x20 => .stRes (stateOps cl w (bitField w 15 4))
  | 0x21 => .stSnap (stateOps cl w 0)
  | 0x22 => .synHout (haloOps cl w)
  | 0x23 => .synHin (haloOps cl w)
  | 0x24 => .synEpoch cl
  | _ => .nop cl .m (fieldBool w 0)

/-! ### Slots and router word -/

/-- The command that a word of slot F, D or M (0, 1, 2) stands for in a cluster; none for a word that the loader refuses. -/
def slotCommand (slot : Nat) (cl : ClusterRef) (w : Nat) : Option Instr :=
  if slotIllegal slot w then none
  else some (match slot with | 0 => commandF cl w | 1 => commandD cl w | _ => commandM cl w)

/-- A 4-bit output mask, N, E, S, W from bit 3 down (R237). -/
def outMask4 (n : Nat) : OutMask := { n := fieldBool n 3, e := fieldBool n 2, s := fieldBool n 1, w := fieldBool n 0 }

/-- MOV.SEND of a router word. -/
def routerSend (cl : ClusterRef) (w : Nat) : SendOps :=
  { cl := cl, outL := outMask4 (bitField w 28 4), deliver := fieldBool w 11, agd := Fin.ofNat 8 (bitField w 4 3),
    lttl := Fin.ofNat 4 (bitField w 2 2) }

/-- MOV.FWD of a router word. -/
def routerFwd (cl : ClusterRef) (w : Nat) : FwdOps :=
  { cl := cl, outN := outMask4 (bitField w 24 4), outE := outMask4 (bitField w 20 4), outS := outMask4 (bitField w 16 4),
    outW := outMask4 (bitField w 12 4), dlv := outMask4 (bitField w 7 4), agd := Fin.ofNat 8 (bitField w 4 3), parity := none }

end Sys2Proof.Machine
end

