-- ==== Sys2Proof/Machine/DryCore.lean ====
section
/-! DEFINITION. What the loader follows in one core when it walks a schedule (08 R249, R250): no values, but which states stand in which
words, which lanes have which groups open, and in which cycles ports are used and results are ready (08 R223, R227 to R240; 05 R112;
07 R203). Cycles are cycles of the path walked. -/

namespace Sys2Proof.Machine

open Sys2Proof

/-! ### Words and the states in them -/

/-- A state held in a word: its first bit and width, its variable and replica, the step that decided it, and K − 1 of its class. -/
structure HeldState where
  lo : Nat
  bits : Nat
  var : Nat
  rep : Nat
  step : Nat
  km1 : Nat := 0
  deriving DecidableEq, Repr

/-- Words of a core by number: 16 × slot + word in the state file, 4,096 + 16 × line + word in playa. -/
def fileLoc (sl w : Nat) : Nat := 16 * (sl % 256) + w % 16
def playaLoc (l w : Nat) : Nat := 4096 + 16 * (l % 2048) + w % 16

/-- The words where the states of lanes stand from (slot, word) on, as `Core.laneState` reads them. -/
def stateLocs (kind sl w : Nat) (ls : List Nat) : List Nat :=
  match kind with
  | 0 => [fileLoc sl w]
  | 1 => (ls.map fun l => fileLoc sl (w + l / 4)).eraseDups
  | _ => ls.map fun l => fileLoc (sl + l / 16) (w + l % 16)

/-- The words that product `k` takes states from in replica mode, as `Core.operandState` reads them. -/
def operandLocs (kind sl k : Nat) (ls : List Nat) : List Nat :=
  match kind with
  | 0 => stateLocs 0 sl k ls
  | 1 => stateLocs 1 (sl + k / 2) (8 * (k % 2)) ls
  | _ => stateLocs 2 (sl + 2 * k) 0 ls

/-- The words where the states of a line stand, as `Core.lineState` reads them. -/
def lineLocs (kind l w : Nat) (ls : List Nat) : List Nat :=
  match kind with
  | 0 => [playaLoc l w]
  | 1 => (ls.map fun k => playaLoc l (w + k / 4)).eraseDups
  | _ => (ls.map fun k => playaLoc (l + k / 16) (k % 16)).eraseDups

/-- New states over the ones a word held. -/
def mergeHeld (old new : List HeldState) : List HeldState := (old.filter fun e => !new.any fun x => x.lo == e.lo) ++ new

/-- States listed by place, gathered place by place. -/
def byPlace (l : List (Nat × HeldState)) : List (Nat × List HeldState) :=
  (l.map (·.1)).eraseDups.map fun k => (k, (l.filter fun e => e.1 == k).map (·.2))

/-! ### Beats -/

/-- A word of a beat: its position, SEL, TTL and phase, the cycle of its launch, and its states. -/
structure DryWord where
  pos : Nat
  sel : Nat
  ttl : Nat
  phase : Nat
  sent : Nat
  held : List HeldState
  deriving DecidableEq, Repr

inductive DryKind where
  | state | part | outward | caravan
  deriving DecidableEq, Repr

/-- A beat; `half` marks a caravan beat of 256 bits. -/
structure DryBeat where
  kind : DryKind := .state
  half : Bool := false
  ttl : Nat := 0
  words : List DryWord := []
  deriving DecidableEq, Repr

/-- Is there a beat: a state beat without words is none. -/
def DryBeat.valid (b : DryBeat) : Bool := b.kind != .state || !b.words.isEmpty

/-- A beat as it leaves the launch register. -/
def DryBeat.launched (b : DryBeat) (lttl : Nat) : DryBeat := { b with ttl := lttl, words := b.words.map fun w => { w with ttl := lttl } }

/-- A beat as it is forwarded (R238.1). -/
def DryBeat.passed (b : DryBeat) : List DryBeat :=
  match b.kind with
  | .state => [{ b with words := (b.words.filter fun w => w.ttl != 0).map fun w => { w with ttl := w.ttl - 1 } }].filter DryBeat.valid
  | .part => if b.ttl = 0 then [] else [{ b with ttl := b.ttl - 1 }]
  | .outward | .caravan => [b]

/-- Two caravan beats of 256 bits make one of 512 (R197). -/
def joinHalves (bs : List DryBeat) : List DryBeat :=
  if bs.length = 2 ∧ bs.all (·.half) then [{ kind := .caravan }] else bs

/-- The beats of one output merged (R238.2), and whether they conflict: two words at one position, or more than one beat (R190). -/
def mergeDry (bs : List DryBeat) : List DryBeat × Bool :=
  let ws := (bs.filter fun b => b.kind == .state).flatMap (·.words)
  let rest := (bs.filter fun b => b.kind == .part || b.kind == .outward) ++ joinHalves (bs.filter fun b => b.kind == .caravan)
  let l := (if ws.isEmpty then [] else [({ words := ws } : DryBeat)]) ++ rest
  (l, decide (1 < l.length) || decide ((ws.map (·.pos)).eraseDups.length < ws.length))

/-! ### A core -/

/-- What happens in a core at the end of a later cycle; a read happens in its cycle, before the cycle's writes. A store keeps the cycle of its
DRAW's issue. -/
inductive DryAct where
  | read (step : Nat) (locs : List Nat)
  | store (issue : Nat) (states : List (Nat × HeldState))
  | wipe (locs : List Nat)
  | launch (sel phase : Nat) (states : List (Nat × HeldState))
  | enter (kind : DryKind)
  | desc (dd : Nat) (d : Descriptor)
  deriving DecidableEq, Repr

/-- A field on its way to the decision input: the cycle and the word's issue it is timed from, its lanes, its possible latencies. -/
structure DryField where
  last : Nat
  issue : Nat
  lanes : BitVec 32
  latencies : List Nat
  deriving DecidableEq, Repr

/-- A core as the walk sees it. `opened` holds the lanes in which group g is open; `late` an add to a group that lands after its issue:
group, cycle, lanes; `partsAt` and `heldAt` the cycle from which a part output, or a held value of a group, is ready, with its latency and lanes;
`seen` the words read since the last PHASE mark; `caravanAt` the cycle in which a beat is in the caravan input. -/
structure DryCore where
  masks : Core := {}
  descs : SMap Descriptor := []
  lines : List (Nat × Bytes) := []
  words : SMap (List HeldState) := []
  pend : SMap (List HeldState) := []
  launch : DryBeat := {}
  enteredAt : Nat := 0
  acts : List (Nat × DryAct) := []
  opened : SMap (BitVec 32) := []
  late : List (Nat × Nat × BitVec 32) := []
  fields : List DryField := []
  partsAt : List (Nat × Nat × BitVec 32) := []
  heldAt : List (Nat × Nat × Nat × BitVec 32) := []
  seen : List Nat := []
  caravanAt : Option Nat := none
  dk : Nat := 0
  descAt : SMap Nat := []
  rowAt : Nat := 0
  betaAt : Nat := 0
  writeAt : List Nat := []
  launchAt : List Nat := []
  reads : SMap (List HeldState) := []
  wrote : List (Nat × Nat) := []
  deriving DecidableEq, Repr

/-- What a word does in a core beyond it: faults as status and DETAIL1; decisions as variable and replica set; block sums pushed, as block and
replicas; lines touched, as allocation and line; lines of targets added to, as target, first line and count; ordered parts, as target, line and index;
states sent to an area, as snapshot or result, replica and variable; words delivered, as position mod 4 and count; target lines scanned; target entries that statistics add to; whether a
statistic names a Gaussian variable. -/
structure DryOut where
  faults : List (Nat × Nat) := []
  decided : List (Nat × Nat) := []
  pushed : List (Nat × List Nat) := []
  touched : List (Nat × Nat × Nat) := []
  added : List (Nat × Nat × Nat) := []
  parts : List (Nat × Nat × Nat) := []
  areas : List (Bool × Nat × Nat) := []
  scanned : List (Nat × Nat) := []
  logged : List (Nat × Nat) := []
  stats : List Nat := []
  gaussian : Bool := false
  deriving DecidableEq, Repr

/-- A core with what has come out of it. -/
structure DryWork where
  core : DryCore
  out : DryOut := {}
  deriving DecidableEq, Repr

/-- A cluster at a cycle of the walk: the program's tables, the values of its generators, the cycle, step and phase, the word, and whether it
stands before the step loop. -/
structure DrySite where
  coupling : Nat
  positions : Nat
  classes : List ClassEntry
  targets : List TargetEntry
  ags : SMap AddrGen
  cycle : Nat
  step : Nat
  phase : Nat
  word : Nat
  before : Bool
  deriving DecidableEq, Repr

def DrySite.cls (x : DrySite) (d : Descriptor) : ClassEntry := x.classes.getD d.cls ⟨0, 0, 0, 0, 0, 0, 0, false⟩
def DrySite.target (x : DrySite) (n : Nat) : TargetEntry := x.targets.getD n ⟨0, 4, 1, 0, 0⟩
def DrySite.line (x : DrySite) (n pos : Nat) : Nat := agLine x.ags n pos

/-- The lanes an operation acts in (R186, R187). -/
def DrySite.lanes (x : DrySite) (pos : Nat) (c : DryCore) (lm : Fin 4) : BitVec 32 := if x.positions ≤ pos then 0 else c.masks.mask lm

def lanesOf (m : BitVec 32) : List Nat := (List.range 32).filter m.getLsbD

/-- Latencies that a field of a class may have, as far as the program tells (R114, R115, R131). -/
def fieldLatencies (coupling kind accPath : Nat) : List Nat :=
  if coupling = 11 then [6]
  else if coupling = 9 ∨ coupling = 10 ∨ kind = 2 then [5]
  else if accPath ≠ 0 then [4]
  else if coupling = 3 then [3, 4, 5] else [4, 5]

/-- Latencies of a field that no class is named for. -/
def anyLatencies (coupling : Nat) : List Nat :=
  if coupling = 11 then [6] else if coupling = 9 ∨ coupling = 10 then [5] else if coupling = 3 then [3, 4, 5] else [4, 5]

/-! ### Common steps -/

def DryWork.mod (w : DryWork) (f : DryCore → DryCore) : DryWork := { w with core := f w.core }
def DryWork.tell (w : DryWork) (f : DryOut → DryOut) : DryWork := { w with out := f w.out }
def DryWork.fault (w : DryWork) (bad : Bool) (status d1 : Nat) : DryWork :=
  if bad then w.tell fun o => { o with faults := o.faults ++ [(status, d1)] } else w
def DryWork.act (w : DryWork) (due : Nat) (a : DryAct) : DryWork := w.mod fun c => { c with acts := c.acts ++ [(due, a)] }

/-- A descriptor named before its MOV.DESC has loaded it (R239). -/
def DryWork.useDesc (w : DryWork) (x : DrySite) (dd : Fin 4) : DryWork :=
  w.fault (decide (x.cycle < mget 0 w.core.descAt dd.val)) 0x0419 2

/-- A use of the playa write port (R240). -/
def DryWork.useWrite (w : DryWork) (n : Nat) : DryWork :=
  (w.fault (w.core.writeAt.contains n) 0x0417 1).mod fun c => { c with writeAt := n :: c.writeAt.take 15 }

/-- A use of the launch register (R240). -/
def DryWork.useLaunch (w : DryWork) (n : Nat) : DryWork :=
  (w.fault (w.core.launchAt.contains n) 0x0417 2).mod fun c => { c with launchAt := n :: c.launchAt.take 15 }

/-- `n` outward beats, one a cycle from the next on. -/
def DryWork.sendOut (w : DryWork) (x : DrySite) (n : Nat) : DryWork :=
  (List.range n).foldl (fun a i => (a.useLaunch (x.cycle + 1 + i)).act (x.cycle + i) (.enter .outward)) w

def DryCore.open? (c : DryCore) (g : Nat) : BitVec 32 := mget 0 c.opened g

/-- A group opened in lanes; open already in one of them, it breaks R112. -/
def DryWork.openGroup (w : DryWork) (g : Nat) (m : BitVec 32) : DryWork :=
  (w.fault (w.core.open? g &&& m != 0) 0x0416 g).mod fun c => { c with opened := mset 0 c.opened g (c.open? g ||| m) }

/-- Something added to a group in lanes; not open in one of them, it breaks R112. -/
def DryWork.needOpen (w : DryWork) (g : Nat) (m : BitVec 32) : DryWork := w.fault (m &&& ~~~(w.core.open? g) != 0) 0x0416 g

def DryWork.closeGroup (w : DryWork) (g : Nat) (m : BitVec 32) : DryWork :=
  w.mod fun c => { c with opened := mset 0 c.opened g (c.open? g &&& ~~~m) }

/-- An add that lands in a later cycle. -/
def DryWork.lateAdd (w : DryWork) (g n : Nat) (m : BitVec 32) : DryWork := w.mod fun c => { c with late := (g, n, m) :: c.late.take 3 }

/-- A use of a group's held value before it is ready (R239). -/
def DryWork.useHeld (w : DryWork) (x : DrySite) (g : Nat) (m : BitVec 32) : DryWork :=
  let early := w.core.heldAt.find? fun e => e.1 == g && decide (x.cycle < e.2.1) && e.2.2.2 &&& m != 0
  w.fault early.isSome 0x0419 ((early.map (·.2.2.1)).getD 0)

/-- A use of the caravan input in a cycle in which no beat is in it (R222, R239). -/
def DryWork.useCaravan (w : DryWork) (x : DrySite) : DryWork := w.fault (w.core.caravanAt != some x.cycle) 0x0419 1

/-- A field closed in lanes by a word issued now, at the decision input or the part output, or held: its latest add is the one in `n`, or an earlier one
that lands later. -/
def DryWork.closeTo (w : DryWork) (x : DrySite) (dest : CloseDest) (g n : Nat) (m : BitVec 32) (latencies : List Nat) : DryWork :=
  let later := w.core.late.filter fun e => e.1 == g && decide (n < e.2.1)
  let ready (last : Nat) : Nat := last + latencies.foldl min 6
  let add (a : DryWork) (last : Nat) (lanes : BitVec 32) : DryWork :=
    if lanes = 0 then a
    else match dest with
      | .partOut => a.mod fun c => { c with partsAt := (ready last, ready last - x.cycle, lanes) :: c.partsAt.take 7 }
      | .hold => a.mod fun c => { c with heldAt := (g, ready last, ready last - x.cycle, lanes) :: c.heldAt.take 7 }
      | .decision => a.mod fun c => { c with fields := ⟨last, x.cycle, lanes, latencies⟩ :: c.fields.take 31 }
  let r := later.foldl (fun (acc : DryWork × BitVec 32) e => (add acc.1 e.2.1 (e.2.2 &&& acc.2), acc.2 &&& ~~~e.2.2)) (w, m)
  add r.1 n r.2

/-! ### Slot F -/

/-- The words that a FLD.ACC takes states from. -/
def accLocs (x : DrySite) (pos : Nat) (c : DryCore) (o : FldAccOps) (d : Descriptor) (ls : List Nat) : List Nat :=
  let k := x.cls d
  let sl := x.line o.ags.val pos % 256
  let held := ((mget [] c.words (fileLoc sl 0)).head?).map fun e => ({ kind := if e.bits = 1 then 0 else if e.bits = 8 then 1 else 2 } : StateTag)
  let kind := neighbourKind o.form k.kind held
  if d.spread then stateLocs kind sl 0 [o.g.val]
  else if o.form == .full then operandLocs kind sl (o.g.val % 16) ls
  else (List.range (accProducts k.shape d.spread o.form).1).flatMap fun i => operandLocs kind sl i ls

def dryAcc (x : DrySite) (pos : Nat) (c0 : DryCore) (o : FldAccOps) (w0 : DryWork) : DryWork :=
  let m := x.lanes pos c0 o.lm
  if m = 0 then w0
  else
    let w := w0.useDesc x o.dd
    let d := mget {} c0.descs o.dd.val
    let k := x.cls d
    let g := if o.aux then 3 else 0
    let n := x.cycle + (if o.src == .caravan then 1 else 2)
    let w1 := if o.src == .caravan then w.useCaravan x else w
    let w1 := if o.first then w1.openGroup 0 m else w1
    let w2 := ((w1.needOpen g m).act n (.read x.step (accLocs x pos c0 o d (lanesOf m)))).lateAdd g n m
    if o.last then (w2.closeGroup 0 m).closeTo x (if d.part then .partOut else .decision) 0 n m (fieldLatencies x.coupling k.kind k.accPath) else w2

def dryClose (x : DrySite) (pos : Nat) (c0 : DryCore) (o : FldCloseOps) (w : DryWork) : DryWork :=
  let m := x.lanes pos c0 o.lm
  let g := if o.aux then 3 else 0
  (w.closeGroup g m).closeTo x o.dest g x.cycle m (anyLatencies x.coupling)

def groupNum : GroupSel → Nat
  | .field => 0 | .energy => 1 | .statistic => 2 | .auxiliary => 3

def dryPart (x : DrySite) (pos : Nat) (c0 : DryCore) (o : RedPartOps) (w : DryWork) : DryWork :=
  let m := x.lanes pos c0 o.lm
  if m = 0 then w
  else
    let early := c0.partsAt.find? fun e => decide (x.cycle < e.1) && e.2.2 &&& m != 0
    let w := w.useHeld x (groupNum o.grp) m
    let w1 := if o.grp == .energy then w.closeGroup 1 m
      else w.fault early.isSome 0x0419 ((early.map (·.2.1)).getD 0)
    (w1.useLaunch (x.cycle + 1)).act x.cycle (.enter .part)

def dryPadd (x : DrySite) (pos : Nat) (c0 : DryCore) (o : RedPaddOps) (w : DryWork) : DryWork :=
  let m := x.lanes pos c0 o.lm
  if m = 0 then w
  else
    let w1 := (w.needOpen (groupNum o.grp) m).lateAdd (groupNum o.grp) (x.cycle + 2) m
    if o.final then (w1.closeGroup 0 m).closeTo x .decision 0 (x.cycle + 2) m (anyLatencies x.coupling) else w1

/-- Lines of a target that an operation may add to, its parts if it is ordered, and its outward beats. -/
def DryWork.atomics (w : DryWork) (x : DrySite) (tgt first count : Nat) (part : Option Nat) (beats : Nat) : DryWork :=
  let e := x.target tgt
  (w.tell fun o => { o with
    touched := (e.alloc, first, count) :: o.touched, added := (tgt, first, count) :: o.added,
    parts := (match part with | some j => (List.range count).map fun i => (tgt, first + i, j) | none => []) ++ o.parts }).sendOut x beats

/-- Lane elements sent to the lines of a target from its offset and a generator on: the lines that hold a lane, and their span. -/
def DryWork.laneAtomics (w : DryWork) (x : DrySite) (tgt : Nat) (base bytes : Nat) (mode : CombineMode) (j : Nat) (m : BitVec 32) : DryWork :=
  let lines := ((lanesOf m).map fun l => l * bytes / 64).eraseDups
  let w1 := lines.foldl (fun a i =>
    a.atomics x tgt (base + i) 1 (if mode == .ordered then some j else none) 0) w
  w1.sendOut x lines.length

def dryAtom (x : DrySite) (pos : Nat) (c0 : DryCore) (o : RedAtomOps) (w : DryWork) : DryWork :=
  let e := x.target o.tgt.val
  let m := x.lanes pos c0 o.lm
  let bad := o.mode == .ordered && m != 0 && decide (e.n ≤ o.j.val)
  ((w.useHeld x 3 m).fault bad 0x041E o.tgt.val).laneAtomics x o.tgt.val (e.offset / 64 + x.line o.ago.val pos) (atomFmt e.format).bytes o.mode o.j.val m

/-- The replicas that lanes decide. -/
def heldReps (d : Descriptor) (ls : List Nat) : List Nat := if d.spread then (if ls.isEmpty then [] else [d.rep]) else ls.map d.laneRep

def dryEtot (x : DrySite) (pos : Nat) (c0 : DryCore) (o : RedEtotOps) (w : DryWork) : DryWork :=
  let m := x.lanes pos c0 o.lm
  if m = 0 then w
  else
    let w1 := w.useDesc x o.dd
    let d := mget {} c0.descs o.dd.val
    match o.mode with
    | .row => w1.mod fun c => { c with rowAt := x.cycle + 5 }
    | .push =>
      ((w1.fault (decide (x.cycle < c0.rowAt)) 0x0419 5).closeGroup 1 m).tell fun r =>
        { r with pushed := r.pushed ++ [(d.block, heldReps d (lanesOf m))] }

def dryF (x : DrySite) (pos : Nat) (c0 : DryCore) (i : Instr) (w : DryWork) : DryWork :=
  match i with
  | .fldOpen o => if x.lanes pos c0 o.lm = 0 then w else (w.useDesc x o.dd).openGroup (groupNum o.grp) (x.lanes pos c0 o.lm)
  | .fldAcc o => dryAcc x pos c0 o w
  | .fldClose o => dryClose x pos c0 o w
  | .fldEnrg o =>
    let m := x.lanes pos c0 o.lm
    let d := mget {} c0.descs o.dd.val
    if m = 0 then w
    else (((w.useDesc x o.dd).useHeld x 0 m).needOpen 1 m).act (x.cycle + 2) (.read x.step (stateLocs (x.cls d).kind (x.line o.ags.val pos) d.word (lanesOf m)))
  | .redPart o => dryPart x pos c0 o w
  | .redPadd o => dryPadd x pos c0 o w
  | .redAtom o => dryAtom x pos c0 o w
  | .redEtot o => dryEtot x pos c0 o w
  | _ => w

/-! ### Slot D -/

/-- The states of a decision as they stand in the words from `place` on: `b` bits a state. -/
def drawnStates (x : DrySite) (d : Descriptor) (b : Nat) (place : Nat → Nat) (ls : List Nat) : List (Nat × HeldState) :=
  ls.map fun l => (place (b * l / 32), { lo := b * l % 32, bits := b, var := d.laneVar l, rep := d.laneRep l, step := x.step, km1 := (x.cls d).km1 })

/-- The decisions of lanes, as variables and replica sets. -/
def decidedBy (d : Descriptor) (m : BitVec 32) : List (Nat × Nat) :=
  if d.spread then (lanesOf m).map fun l => (d.laneVar l, 2 ^ d.rep) else [(d.var, m.toNat * 2 ^ d.rep)]

/-- A DRAW that takes a field: it is issued in the cycle in which the field of each of its lanes reaches the decision input (R239), the
group closed (R112), with β loaded. -/
def DryWork.takesField (w : DryWork) (x : DrySite) (m : BitVec 32) : DryWork :=
  let here := w.core.fields.foldl (fun (a : BitVec 32) f =>
    if f.latencies.any fun n => f.last + n == x.cycle then a ||| f.lanes else a) 0
  let miss := m &&& ~~~here
  let near := w.core.fields.find? fun f => f.lanes &&& miss != 0
  let ready := (near.map fun f => f.last + f.latencies.foldl min 6 - f.issue).getD 0
  let open0 := w.core.open? 0 &&& miss != 0
  ((w.fault open0 0x0416 0).fault (miss != 0 && !open0) 0x0419 ready).fault (decide (x.cycle < w.core.betaAt)) 0x0419 4

/-- VAR and WORD advanced by INC. -/
def DryWork.advance (w : DryWork) (o : DrawOps) (d : Descriptor) : DryWork :=
  let next : Descriptor := { d with var := (((d.var : Int) + d.varStep) % 2 ^ 40).toNat, word := (d.word + d.wordStep) % 16 }
  if o.inc then w.mod fun c => { c with descs := minsert c.descs o.dd.val next } else w

/-- A decision of `b`-bit states written and launched two cycles after its issue (R230, R239). -/
def DryWork.settle (w : DryWork) (x : DrySite) (pos : Nat) (o : DrawOps) (d : Descriptor) (b : Nat) (m : BitVec 32) : DryWork :=
  let l := x.line o.agw.val pos
  let n := x.cycle + 2
  let w1 := (w.tell fun r => { r with decided := decidedBy d m ++ r.decided }).useWrite n
  let w2 := w1.act n (.store x.cycle (drawnStates x d b (fun i => playaLoc l (d.word + i)) (lanesOf m)))
  let w3 := if o.launch then (w2.useLaunch n).act (n - 1) (.launch o.sel.val x.phase (drawnStates x d b (fun i => (d.word + i) % 16) (lanesOf m)))
    else w2
  w3.advance o d

def dryBin (x : DrySite) (pos : Nat) (o : DrawOps) (d : Descriptor) (m : BitVec 32) (w : DryWork) : DryWork :=
  let w1 := w.takesField x m
  let w2 := if (x.cls d).rule = 1 then w1.act x.cycle (.read x.step (stateLocs 0 (x.line o.ags.val pos) d.word (lanesOf m))) else w1
  w2.settle x pos o d 1 m

/-- DRW.CAT: one key a word; the winner at the wrap of DK. -/
def dryCat (x : DrySite) (pos : Nat) (o : DrawOps) (d : Descriptor) (m : BitVec 32) (w : DryWork) : DryWork :=
  let w1 := w.takesField x m
  if w.core.dk < (x.cls d).km1 then w1.mod fun c => { c with dk := c.dk + 1 }
  else (w1.mod fun c => { c with dk := 0 }).settle x pos o d 8 m

def dryCatm (x : DrySite) (pos stage : Nat) (o : DrawOps) (d : Descriptor) (m : BitVec 32) (w : DryWork) : DryWork :=
  match stage with
  | 0 => w.act x.cycle (.read x.step (stateLocs 1 (x.line o.ags.val pos) d.word (lanesOf m)))
  | 1 => w.takesField x m
  | _ => (w.takesField x m).settle x pos o d 8 m

/-- DRW.GAU: four half-lines in the cycles 1 to 4 after issue, two half-beats from cycle 4 on. -/
def dryGau (x : DrySite) (pos : Nat) (o : DrawOps) (d : Descriptor) (m : BitVec 32) (w : DryWork) : DryWork :=
  let l := x.line o.agw.val pos
  let part (h : Nat) : List Nat := (lanesOf m).filter fun k => k / 16 == h
  let st (place : Nat → Nat) (ls : List Nat) : List (Nat × HeldState) :=
    ls.map fun k => (place k, { lo := 0, bits := 32, var := d.laneVar k, rep := d.laneRep k, step := x.step })
  let w1 := (w.takesField x m).tell fun r => { r with decided := decidedBy d m ++ r.decided }
  let w2 := [1, 2, 3, 4].foldl (fun (a : DryWork) n => a.useWrite (x.cycle + n)) w1
  let w3 := (List.range 4).foldl (fun (a : DryWork) q =>
    a.act (x.cycle + 1 + q) (.store x.cycle (st (fun k => playaLoc (l + k / 16) (k % 16)) ((lanesOf m).filter fun k => k / 8 == q)))) w2
  let w4 := if o.launch then
      [0, 1].foldl (fun (a : DryWork) h =>
        (a.useLaunch (x.cycle + 4 + h)).act (x.cycle + 3 + h) (.launch o.sel.val x.phase (st (· % 16) (part h)))) w3
    else w3
  w4.advance o d

/-- A DRAW operation in the lanes it acts in. -/
def dryDraw (x : DrySite) (pos : Nat) (c0 : DryCore) (o : DrawOps) (f : Descriptor → BitVec 32 → DryWork → DryWork) (w : DryWork) :
    DryWork :=
  let m := x.lanes pos c0 o.lm
  if m = 0 then w else f (mget {} c0.descs o.dd.val) m (w.useDesc x o.dd)

/-- Increments of a categorical statistic or a histogram: the lines of its table, from an offset, `n` elements long. -/
def DryWork.tableAdds (w : DryWork) (x : DrySite) (tgt base n : Nat) : DryWork :=
  let e := x.target tgt
  let bytes := if e.format = 5 then 8 else 4
  (w.tell fun r => { r with stats := tgt :: r.stats }).atomics x tgt ((e.offset + base) / 64) ((n * bytes + 63) / 64) none 1

/-- STA.SGL and STA.PAIR (R145, R232): a binary contribution is added to STATISTIC, a categorical one to a table of `n` entries for the two variables'
numbers of states; the second's is that of the states that stand there, or the first's where none do. -/
def drySta (x : DrySite) (pos : Nat) (c0 : DryCore) (o : StaOps) (locs : Nat → List Nat → List Nat) (base : Nat) (n : Nat → Nat → Nat) (w : DryWork) :
    DryWork :=
  let m := x.lanes pos c0 o.lm
  let d := mget {} c0.descs o.dd.val
  let k := x.cls d
  if m = 0 then w
  else
    let w1 := (w.useDesc x o.dd).act (x.cycle + 1)
      (.read x.step (stateLocs k.kind (x.line o.ags.val pos) o.word.val (lanesOf m) ++ locs k.kind (lanesOf m)))
    match k.kind with
    | 0 => w1.needOpen 2 m
    | 1 => w1.tableAdds x d.statTgt base (n (k.km1 + 1) ((((locs 1 (lanesOf m)).flatMap (mget [] c0.words)).head?.map (·.km1 + 1)).getD (k.km1 + 1)))
    | _ => w1.tell fun r => { r with gaussian := true }

def dryHist (x : DrySite) (pos : Nat) (c0 : DryCore) (o : StaOps) (w : DryWork) : DryWork :=
  let m := x.lanes pos c0 o.lm
  let d := mget {} c0.descs o.dd.val
  if m = 0 then w
  else
    let w1 := (w.useDesc x o.dd).act (x.cycle + 1)
      (.read x.step (stateLocs 2 (x.line o.ags.val pos) o.word.val (lanesOf m)))
    if (x.cls d).kind = 2 ∧ d.histBins ≠ 0 then w1.tableAdds x d.statTgt 0 d.histBins else w1

def dryFlush (x : DrySite) (pos : Nat) (c0 : DryCore) (o : StaFlushOps) (w : DryWork) : DryWork :=
  let e := x.target o.tgt.val
  let m := x.lanes pos c0 o.lm
  let w1 := w.fault (o.mode == .ordered && m != 0 && decide (e.n ≤ o.j.val)) 0x041E o.tgt.val
  let w2 := (w1.closeGroup 2 m).tell fun r => { r with stats := o.tgt.val :: r.stats }
  w2.laneAtomics x o.tgt.val (e.offset / 64 + x.line o.ago.val pos) (if o.wide then 8 else 4) o.mode o.j.val m

def dryD (x : DrySite) (pos : Nat) (c0 : DryCore) (i : Instr) (w : DryWork) : DryWork :=
  match i with
  | .drwBin o => dryDraw x pos c0 o (dryBin x pos o) w
  | .drwCat o => dryDraw x pos c0 o (dryCat x pos o) w
  | .drwCatm o stage => dryDraw x pos c0 o (dryCatm x pos stage.val o) w
  | .drwGau o => dryDraw x pos c0 o (dryGau x pos o) w
  | .excBeta _ lm dd => if x.lanes pos c0 lm = 0 then w else (w.useDesc x dd).mod fun c => { c with betaAt := x.cycle + 4 }
  | .staSgl o => drySta x pos c0 o (fun _ _ => []) 0 (fun k _ => k) w
  | .staPair o => drySta x pos c0 o.base (fun kind ls => stateLocs kind (x.line o.ags2.val pos) o.word2.val ls) (64 * x.line o.ago.val pos) (· * ·) w
  | .staHist o => dryHist x pos c0 o w
  | .staFlush o => dryFlush x pos c0 o w
  | .tpkScan _ tgt ago =>
    let e := x.target tgt.val
    w.tell fun r => { r with scanned := (e.alloc, e.offset / 64 + x.line ago.val pos) :: r.scanned }
  | _ => w

/-! ### Slot M -/

/-- The line of a core as its preload gives it. -/
def DryCore.lineBytes (c : DryCore) (l : Nat) : Bytes :=
  match c.lines.find? fun e => decide (e.1 ≤ l) && decide (64 * (l - e.1) < e.2.length) with
  | some e => slice e.2 (64 * (l - e.1)) 64
  | none => []

def halfLocs (l h : Nat) : List Nat := (List.range 8).map fun i => playaLoc l (8 * h + i)

/-- The FMT codes of ST.RES that R43 makes legal for a kind of class: B1; U8; F32, F8A, F8B and I8. -/
def resultFmts (kind : Nat) : List Nat := match kind with | 0 => [0] | 1 => [1] | _ => [2, 6, 7, 10]

def dryStates (x : DrySite) (pos : Nat) (c0 : DryCore) (o : StStateOps) (snapshot : Bool) (w : DryWork) : DryWork :=
  let m := x.lanes pos c0 o.lm
  let d := mget {} c0.descs o.dd.val
  let ls := lanesOf m
  if m = 0 then w
  else
    (((w.useDesc x o.dd).act x.cycle (.read x.step (lineLocs (x.cls d).kind (x.line o.ag.val pos) d.word ls))).tell fun r =>
      { r with areas := ls.map (fun l => (snapshot, d.laneRep l, d.laneVar l)) ++ r.areas }).sendOut x 1

def dryM (x : DrySite) (pos : Nat) (c0 : DryCore) (i : Instr) (w : DryWork) : DryWork :=
  match i with
  | .movMask o =>
    let p := maskPattern o pos
    let m := c0.masks.mask o.lms
    let v := match o.op with | .set => p | .and => m &&& p | .or => m ||| p | .xor => m ^^^ p
    w.mod fun c => { c with masks := c.masks.setMask o.lmd v }
  | .movDesc o =>
    (w.mod fun c => { c with descAt := minsert c.descAt o.dd.val (x.cycle + 2) }).act (x.cycle + 1)
      (.desc o.dd.val (descOf (c0.lineBytes ((x.line o.ag.val pos + o.ofs.val) % 2048))))
  | .movGrp _ lm src dst => (w.useHeld x (groupNum src) (x.lanes pos c0 lm)).needOpen (groupNum dst) (x.lanes pos c0 lm)
  | .ldLine o => ((w.useCaravan x).useWrite x.cycle).act x.cycle (.wipe (halfLocs (x.line o.ag.val pos) (bit o.half)))
  | .movZero o => (w.useWrite x.cycle).act x.cycle (.wipe (halfLocs (x.line o.ag.val pos) (bit o.half)))
  | .ldAnch _ _ => w.useCaravan x
  | .ldSlot o => (w.useCaravan x).act x.cycle (.wipe ((List.range 16).map (fileLoc (x.line o.ags.val pos))))
  | .synHin o => w.act x.cycle (.wipe ((List.range 16).map (fileLoc (x.line o.ag.val pos))))
  | .stLine o =>
    let e := x.target o.tgt.val
    ((w.act x.cycle (.read x.step ((List.range 16).map (playaLoc (x.line o.ag.val pos))))).tell fun r =>
      { r with touched := (e.alloc, e.offset / 64 + x.line o.ago.val pos, 1) :: r.touched }).sendOut x 1
  | .stRes o =>
    let kind := (x.cls (mget {} c0.descs o.dd.val)).kind
    dryStates x pos c0 o false (w.fault (x.lanes pos c0 o.lm != 0 && !(resultFmts kind).contains o.fmt.val) 0x0413 2)
  | .stSnap o => dryStates x pos c0 o true w
  | .synHout o => if pos = 0 then w.act x.cycle (.read x.step ((List.range 16).map (playaLoc (x.line o.ag.val pos)))) else w
  | _ => w

/-! ### The end of a cycle -/

/-- A read: words whose states an earlier step decided belong to the state map (R312). -/
def DryCore.note (c : DryCore) (step : Nat) (locs : List Nat) : DryCore :=
  locs.foldl (fun a n =>
    let h := mget [] a.words n
    if h.any fun e => decide (e.step < step) then { a with reads := minsert a.reads n h } else a) { c with seen := locs ++ c.seen }

/-- The latency of a DRAW issued before a cycle whose states land after it in one of the words (R239). -/
def DryCore.pendingStore (c : DryCore) (now : Nat) (locs : List Nat) : Option Nat :=
  c.acts.findSome? fun e => match e.2 with
    | .store issue l => if issue < now ∧ now < e.1 ∧ l.any fun v => locs.contains v.1 then some (e.1 - issue) else none
    | _ => none

/-- The words that reads of a cycle take states from. -/
def DryCore.reading (c : DryCore) (now : Nat) : List Nat :=
  c.acts.flatMap fun e => match e.2 with
    | .read _ locs => if e.1 = now then locs else []
    | _ => []

/-- Reads of words whose states a DRAW issued before has not yet written (R239). -/
def DryWork.readsEarly (w : DryWork) (x : DrySite) : DryWork :=
  let late := w.core.pendingStore x.cycle (w.core.reading x.cycle)
  w.fault late.isSome 0x0419 (late.getD 0)

/-- Words written, noted while the walk stands before the step loop. -/
def DryCore.wrotes (c : DryCore) (x : DrySite) (locs : List Nat) : DryCore :=
  if x.before then { c with wrote := locs.map (fun n => (n, x.word)) ++ c.wrote } else c

def DryCore.apply (x : DrySite) (c : DryCore) (a : DryAct) : DryCore :=
  match a with
  | .read step locs => c.note step locs
  | .store _ l => ({ c with words := (byPlace l).foldl (fun m e => mset [] m e.1 (mergeHeld (mget [] m e.1) e.2)) c.words } : DryCore).wrotes x (l.map (·.1)).eraseDups
  | .wipe locs => ({ c with words := locs.foldl (fun m n => merase m n) c.words } : DryCore).wrotes x locs
  | .launch sel phase l =>
    let old := if c.launch.kind = .state then c.launch.words else []
    let ws := (byPlace l).map fun e =>
      ({ pos := e.1, sel := sel, ttl := 0, phase := phase, sent := x.cycle + 1,
         held := mergeHeld (((old.find? fun w => w.pos == e.1).map (·.held)).getD []) e.2 } : DryWord)
    { c with launch := { kind := .state, words := (old.filter fun w => !ws.any fun v => v.pos == w.pos) ++ ws } }
  | .enter k => { c with launch := { kind := k }, enteredAt := x.cycle }
  | .desc dd d => { c with descs := minsert c.descs dd d }

def DryAct.isRead : DryAct → Bool
  | .read _ _ => true
  | _ => false

/-- The acts due in a cycle, reads or writes. -/
def DryWork.due (w : DryWork) (x : DrySite) (reads : Bool) : DryWork :=
  let mine := w.core.acts.filter fun e => e.1 == x.cycle && e.2.isRead == reads
  if mine.isEmpty then w
  else w.mod fun c => mine.foldl (fun a e => a.apply x e.2) { c with acts := c.acts.filter fun e => !(e.1 == x.cycle && e.2.isRead == reads) }

/-! ### The router -/

/-- A beat at a core from a direction. -/
structure DryArrival where
  pos : Nat
  dir : Dir
  beat : DryBeat
  deriving DecidableEq, Repr

/-- The words that LD.SLOT and SYN.HIN write in this cycle. -/
def DryCore.filled (x : DrySite) (c : DryCore) : List Nat :=
  c.acts.flatMap fun e => if e.1 == x.cycle then (match e.2 with | .wipe l => l | _ => []) else []

/-- The state words that beats deliver from a slot on: where each goes, and the word. -/
def deliveries (slot : Nat) (bs : List DryBeat) : List (Nat × DryWord) :=
  bs.flatMap fun b => b.words.map fun v => (fileLoc (slot + v.sel) v.pos, v)

/-- Deliveries of a cycle (R223): late when the phase after a word's own has ended too; two writes of one word break R240. A word of the phase before
whose place has been read since the PHASE mark came too late for that product (R203). -/
def DryWork.deliver (w : DryWork) (x : DrySite) (ds : List (Nat × DryWord)) : DryWork :=
  if ds.isEmpty then w
  else
    let ns := ds.map (·.1) ++ w.core.filled x
    let w1 := w.fault (decide (ns.eraseDups.length < ns.length)) 0x0417 4
    ds.foldl (fun a e =>
      ((a.fault (decide (e.2.phase + 1 < x.phase)) 0x0415 0).fault (e.2.phase != x.phase && a.core.seen.contains e.1) 0x0419
        (x.cycle + 1 - e.2.sent)).mod fun c =>
        (if e.2.phase = x.phase then { c with pend := minsert c.pend e.1 e.2.held } else { c with words := mset [] c.words e.1 e.2.held } : DryCore).wrotes
          x [e.1]) w1

/-- Where a word's router takes its beats from: the launch register, and each direction. -/
structure DryRoute where
  out : OutMask
  deliver : Bool
  beats : List DryBeat

def routesOf (n : Nat) (c0 : DryCore) (here : List DryArrival) (s : SendOps) (f : FwdOps) : List DryRoute :=
  { out := s.outL, deliver := s.deliver, beats := [c0.launch.launched s.lttl.val].filter DryBeat.valid } ::
    allDirs.map fun d =>
      let bs := (here.filter fun a => a.pos == n && a.dir == d).map (·.beat)
      { out := fwdOut f d, deliver := fwdDelivers f d, beats := bs }

/-- The router of a core in a cycle: deliveries, what leaves by each output, the launch register emptied; a word that meets another at one
output breaks R190 or R238, and an outward beat sent in the cycle of another use of the launch register R240; a die-link beat and an edge-port beat that come in together R195. -/
def dryRoute (x : DrySite) (pos place : Nat) (c0 : DryCore) (s : SendOps) (f : FwdOps) (here : List DryArrival) (w : DryWork) :
    DryWork × List (Dir × DryBeat) :=
  let rs := routesOf pos c0 here s f
  let got := (rs.filter (·.deliver)).flatMap (·.beats)
  let w0 := w.fault (allDirs.any fun d => (mergeDry ((here.filter fun a => a.pos == pos && a.dir == d).map (·.beat))).2) 0x0418 place
  let w0 := if got.any fun b => b.kind == .caravan then w0.mod fun c => { c with caravanAt := some (x.cycle + 1) } else w0
  let words := (got.map fun b => if b.kind == .part then 32 else b.words.length).sum
  let w0 := if words = 0 then w0 else w0.tell fun o => { o with logged := (pos % 4, words) :: o.logged }
  let w1 := w0.deliver x (deliveries (x.line s.agd.val pos) got)
  let outs := allDirs.map fun d =>
    (d, mergeDry ((rs.zip (List.range 5)).flatMap fun r => if (outDirs r.1.out).contains d then (if r.2 = 0 then r.1.beats else r.1.beats.flatMap DryBeat.passed) else []))
  let w2 := w1.fault (outs.any fun e => e.2.2) 0x0418 place
  let sends := s.deliver || !(outDirs s.outL).isEmpty
  let w3 := if !(outDirs s.outL).isEmpty && c0.launch.kind == .outward && c0.enteredAt + 1 != x.cycle then w2.useLaunch x.cycle else w2
  (if sends then w3.mod fun c => { c with launch := {} } else w3, outs.flatMap fun e => e.2.1.map fun b => (e.1, b))

end Sys2Proof.Machine
end

