-- ==== Sys2Proof/Machine/Census.lean ====
section
/-! DEFINITION. The loader's walk through a tiling's schedule, and what it gives: the faults that only the whole schedule shows (08 R223,
R229, R232, R238 to R240, R249, R250; 05 R112, R140, R143, R150; 07 R190, R199; 10 R322), the state map (10 R312), and what a job needs
to know of its tiling (05 R145; 09 R276; 13 R581). Log entries 12 and 14. -/

namespace Sys2Proof.Machine

open Sys2Proof

/-- A fault found in a tiling: where it stands for the order of R249, its status, the low bits of DETAIL0, and DETAIL1. -/
structure Found where
  place : Nat
  status : Nat
  low : Nat
  d1 : Nat
  deriving DecidableEq, Repr

def findIf (bad : Bool) (f : Found) : List Found := if bad then [f] else []

/-! ### Sorting -/

/-- Two ordered lists merged; `n` is at least their length together. -/
def mergeBy {α : Type} (le : α → α → Bool) : Nat → List α → List α → List α
  | 0, xs, ys => xs ++ ys
  | _, [], ys => ys
  | _, xs, [] => xs
  | n + 1, x :: xs, y :: ys => if le x y then x :: mergeBy le n xs (y :: ys) else y :: mergeBy le n (x :: xs) ys

def mergePairs {α : Type} (le : α → α → Bool) : List (List α) → List (List α)
  | a :: b :: l => mergeBy le (a.length + b.length) a b :: mergePairs le l
  | l => l

def mergeRounds {α : Type} (le : α → α → Bool) : Nat → List (List α) → List α
  | 0, l => l.flatten
  | _, [] => []
  | _, [a] => a
  | n + 1, l => mergeRounds le n (mergePairs le l)

/-- A list in order, by merging. -/
def mergeSort {α : Type} (le : α → α → Bool) (l : List α) : List α := mergeRounds le 64 (l.map ([·]))

/-- An ordered list of numbers without repeats. -/
def dropRepeats : List Nat → List Nat
  | a :: b :: l => if a = b then dropRepeats (b :: l) else a :: dropRepeats (b :: l)
  | l => l

/-- The cluster number of slice `k` of a half: ascending cluster number (R245). -/
def Tiling.sliceCluster (p : Bytes) (t : Tiling) (h k : Nat) : Nat := 8 * (k / 4) + k % 4 + (if (t.adjacency p h).2.2.2 then 4 else 0)

/-! ### The grid (R192, R245, R297) -/

/-- May two physical halves be partners by a seam, an X link or a V link, all in service. -/
def seamPair (h k : Nat) : Bool := h != k && h / 2 == k / 2
def xPair (h k : Nat) : Bool := min h k % 2 == 1 && max h k == min h k + 1 && decide (min h k / 2 % 3 < 2)
def vPair (h k : Nat) : Bool := h + 6 == k || k + 6 == h

def gridFits (p : Bytes) (t : Tiling) (taken : List Nat) (h : Nat) : Bool :=
  let a := t.adjacency p taken.length
  let near (partner : Option Nat) (joins : Nat → Nat → Bool) : Bool :=
    ((partner.bind fun q => taken[q]?).map (joins h)).getD true
  !taken.contains h && ((a.1.isNone && a.2.1.isNone) || a.2.2.2 == (h % 2 == 1)) && near a.1 seamPair && near a.2.1 xPair && near a.2.2.1 vPair

/-- The first placement of a grid on a module with everything in service; `n` logical halves are left. -/
def gridPlace (p : Bytes) (t : Tiling) : Nat → List Nat → Option (List Nat)
  | 0, taken => some taken
  | n + 1, taken => (List.range 12).findSome? fun h => if gridFits p t taken h then gridPlace p t n (taken ++ [h]) else none

/-! ### The program as it is walked -/

/-- Little-endian numbers of `n` bytes each. -/
def chunks (n : Nat) : Nat → Bytes → List Nat
  | 0, _ => []
  | k + 1, b => leNat (b.take n) :: chunks n k (b.drop n)

/-- Lists of `n` numbers each. -/
def rowsOf (n : Nat) : Nat → List Nat → List (List Nat)
  | 0, _ => []
  | k + 1, l => l.take n :: rowsOf n k (l.drop n)

/-- A tiling's tables read once: `rows` holds the control slice and 32 cluster slices of each half and word, half by half. -/
structure DryProgram where
  image : Bytes
  index : Nat
  t : Tiling
  region : List Nat
  coupling : Nat
  vars : Nat
  classes : List ClassEntry
  targets : List TargetEntry
  segments : List SegmentEntry
  rows : List (List Nat)
  stepFirst : Option Nat
  deriving DecidableEq, Repr

def dryProgram (p : Bytes) (t : Tiling) : DryProgram :=
  let n := t.words * t.numHalves
  { image := p, index := ((List.range (progTilings p)).find? fun i => (progTiling p i).off == t.off).getD 0, t := t, region := (gridPlace p t t.numHalves []).getD (List.range t.numHalves), coupling := progCoupling p, vars := progVars p,
    classes := (List.range t.numClasses).map (t.classEntry p), targets := (List.range t.numTargets).map (t.target p),
    segments := (List.range t.numSegments).map (t.segment p), rows := rowsOf 33 n (chunks 16 (33 * n) (p.drop t.slots)),
    stepFirst := (t.stepLoop? p).map (·.1) }

def DryProgram.row (g : DryProgram) (h w : Nat) : List Nat := g.rows.getD (h * g.t.words + w) []
def DryProgram.control (g : DryProgram) (w : Nat) : Nat := (g.row 0 w).headD 0
def DryProgram.segment (g : DryProgram) (n : Nat) : SegmentEntry := g.segments.getD n ⟨9, 0, 0, 0, 0, 0, 256, 0, 0, 8, 1⟩

/-! ### The state of a walk -/

structure DryCluster where
  half : Nat
  slice : Nat
  key : Nat
  ags : SMap AddrGen := []
  cores : List DryCore
  deriving DecidableEq, Repr

/-- A beat between two cores. -/
structure DryFlight where
  due : Nat
  key : Nat
  arrival : DryArrival
  deriving DecidableEq, Repr

/-- What one step has done: decisions, block sums pushed (the next block a replica may push), lines touched, areas, words delivered to the positions of each
residue mod 4, target lines added to and scanned, segments started, ordered parts; an energy pass or a decision has been seen. -/
structure DryStep where
  decided : List (Nat × Nat) := []
  pushed : SMap Nat := []
  touched : List (Nat × Nat × Nat) := []
  areas : List (Bool × Nat × Nat) := []
  added : List (Nat × Nat × Nat × Nat) := []
  scanned : List (Nat × Nat) := []
  logged : SMap Nat := []
  segments : List Nat := []
  parts : List (Nat × Nat × Nat × Nat × Nat) := []
  epass : Bool := false
  deciding : Bool := false
  deriving DecidableEq, Repr

/-- The walk: the parts of a step are held over while their round is open; `tableAt` is the cycle of the last EXC.PAIR or EXC.RSMP, `weightAt` and `listAt` the cycles from which its weights and its ancestor list are
ready; `past` the steps that have ended, with their last cycles; `triggers` the segments started, with cycle and word. -/
structure Dry where
  clusters : List DryCluster
  flights : List DryFlight := []
  cycle : Nat := 0
  step : Nat := 0
  phase : Nat := 0
  before : Bool := true
  now : DryStep := {}
  past : List (Nat × DryStep) := []
  tableAt : Option Nat := none
  weightAt : Nat := 0
  listAt : Nat := 0
  triggers : List (Nat × Nat × Nat) := []
  stats : List Nat := []
  gaussian : Bool := false
  found : List Found := []
  deriving DecidableEq, Repr

/-- The walk before word 0: descriptors come from the preloaded lines of playa. -/
def dryStart (p : Bytes) (g : DryProgram) : Dry :=
  let runs := (g.t.preloads p).filter fun r => r.kind == 0
  { clusters := (List.range g.t.numHalves).flatMap fun h => (List.range 32).map fun k =>
      let n := g.t.sliceCluster p h k
      let mine := runs.filter fun r => r.half == h && r.cluster == n
      let phys := g.region.getD h 0
      { half := h, slice := k, key := 64 * (phys / 2) + 8 * (k / 4) + k % 4 + 4 * (phys % 2),
        cores := (List.range 64).map fun pos =>
          { lines := (mine.filter fun r => r.core == pos).map fun r => (r.first, r.data) } },
    before := g.stepFirst.isSome }

/-! ### One word in one cluster -/

/-- The generators after a word: writes and increments (R188). -/
def dryAgs (f m : Option Instr) (a : SMap AddrGen) : SMap AddrGen :=
  let a1 := match f with
    | some (.fldAcc o) => if o.inc then agStep (agStep a o.agc.val) o.ags.val else a
    | some (.fldEnrg o) => incAg o.inc o.ags.val a
    | _ => a
  match m with
  | some (.movAg o) => agWrite o a1
  | some (.movZero o) | some (.ldLine o) => incAg o.inc o.ag.val a1
  | some (.ldSlot o) => incAg o.inc o.ags.val a1
  | some (.stLine o) => incAg o.inc o.ag.val a1
  | _ => a1

/-- Has a slice nothing to do: NOP in every slot and an empty router word. -/
def sliceIdle (s : Nat) : Bool := bitField s 122 6 == 0 && bitField s 90 6 == 0 && bitField s 58 6 == 0 && s % 2 ^ 32 == 0

/-- Where a beat goes that leaves a core by an output (R191, R193, R195, R238): to a neighbour, out by an edge port, or, with a fault, off the mesh or
out of the region. -/
def dryDepart (region : List Nat) (x : DrySite) (key pos : Nat) (e : Dir × DryBeat) : List DryFlight × List (Nat × Nat) :=
  let lost : List (Nat × Nat) := [(0x0418, meshRow key pos * 256 + meshCol key pos)]
  let crosses := match beyond (key / 64) (meshCol key pos) (meshRow key pos) e.1 with | .link _ _ _ _ => true | _ => false
  if e.2.kind == .caravan && crosses then ([], lost)
  else if atEdge key pos e.1 && (e.2.kind == .outward || beyond (key / 64) (meshCol key pos) (meshRow key pos) e.1 == .off) then ([], [])
  else match hopTo region key pos e.1 with
    | some (k, q, lat) => ([{ due := x.cycle + lat, key := k, arrival := { pos := q, dir := opposite e.1, beat := e.2 } }], [])
    | none => ([], lost)

structure DryStepped where
  cluster : DryCluster
  outs : List DryOut
  flights : List DryFlight

/-- A cluster in one cycle. -/
def dryCluster (g : DryProgram) (x : DrySite) (s : Nat) (here : List DryArrival) (c : DryCluster) : DryStepped :=
  if sliceIdle s && here.isEmpty && c.cores.all (·.acts.isEmpty) then ⟨c, [], []⟩
  else
    let cl := clusterOf c.key
    let f := slotCommand 0 cl (bitField s 96 32)
    let d := slotCommand 1 cl (bitField s 64 32)
    let m := slotCommand 2 cl (bitField s 32 32)
    let router := bitField s 0 32
    let rs := ((List.range 64).zip c.cores).map fun e =>
      let w0 : DryWork := { core := e.2 }
      let w1 := ((f.map fun i => dryF x e.1 e.2 i w0).getD w0)
      let w2 := ((d.map fun i => dryD x e.1 e.2 i w1).getD w1)
      let w3 := (((m.map fun i => dryM x e.1 e.2 i w2).getD w2).readsEarly x).due x true
      let r := if router = 0 then (w3, []) else
        dryRoute x e.1 (meshRow c.key e.1 * 256 + meshCol c.key e.1) e.2 (routerSend cl router) (routerFwd cl router) here w3
      let outs := r.2.map (dryDepart g.region x c.key e.1)
      ((r.1.due x false).tell fun o => { o with faults := o.faults ++ outs.flatMap (·.2) }, outs.flatMap (·.1))
    ⟨{ c with ags := dryAgs f m c.ags, cores := rs.map fun r => r.1.core }, (rs.map fun r => r.1.out).filter (· != {}), rs.flatMap (·.2)⟩

/-! ### One word in the region -/

/-- The decisions and other outcomes of one core entered in the step. -/
def DryStep.take (n : DryStep) (word : Nat) (o : DryOut) : DryStep :=
  { n with decided := o.decided ++ n.decided, touched := o.touched ++ n.touched, areas := o.areas ++ n.areas,
           added := (o.added.map fun e => (e.1, e.2.1, e.2.2, word)) ++ n.added, scanned := o.scanned ++ n.scanned,
           logged := o.logged.foldl (fun m e => minsert m e.1 (mget 0 m e.1 + e.2)) n.logged }

/-- A block sum pushed for a replica: below the block it pushed before, it is out of order (R229). -/
def Dry.push (d : Dry) (word block rep : Nat) : Dry :=
  { d with found := findIf (decide (block < mget 0 d.now.pushed rep)) ⟨word, 0x041D, word, block⟩ ++ d.found,
           now := { d.now with pushed := minsert d.now.pushed rep block } }

/-- An ordered part on a line: its index present already in the round of its tag (R245), or another n, breaks R140. -/
def Dry.part (d : Dry) (x : DrySite) (word : Nat) (e : Nat × Nat × Nat) : Dry :=
  let t := x.target e.1
  let tag := (t.tag + x.step) % 65536
  let bad := d.now.parts.any fun q => q.1 == t.alloc && q.2.1 == e.2.1 && q.2.2.1 == tag && (q.2.2.2.1 != t.n || q.2.2.2.2 == e.2.2)
  { d with found := findIf bad ⟨word, 0x041E, word, e.1⟩ ++ d.found,
           now := { d.now with parts := (t.alloc, e.2.1, tag, t.n, e.2.2) :: d.now.parts } }

/-- The parts of a step whose rounds are still open at its end. -/
def DryStep.openParts (n : DryStep) : List (Nat × Nat × Nat × Nat × Nat) :=
  n.parts.filter fun q => decide ((n.parts.filter fun r => r.1 == q.1 && r.2.1 == q.2.1 && r.2.2.1 == q.2.2.1).length < q.2.2.2.1)

/-- What a word did in one core, entered in the walk. -/
def Dry.takeOut (x : DrySite) (colour : Nat) (d : Dry) (o : DryOut) : Dry :=
  let fs := o.faults.map fun e => (⟨x.word, e.1, x.word, if e.1 = 0x0415 then colour else e.2⟩ : Found)
  let d1 : Dry := { d with found := fs ++ d.found, now := d.now.take x.word o, stats := o.stats ++ d.stats, gaussian := d.gaussian || o.gaussian }
  let d2 := o.pushed.foldl (fun a e => e.2.foldl (fun a r => a.push x.word e.1 r) a) d1
  o.parts.foldl (fun a e => a.part x x.word e) d2

/-- The uses of exchange and resampling results (R150, R232, R239); `ops` are the slot-D opcodes of the word with their operands. -/
def Dry.exchange (d : Dry) (word : Nat) (ops : List (Nat × Nat)) : Dry :=
  let has (n : Nat) : Bool := ops.any fun e => e.1 == n
  let weight (pass : Bool) : Bool := ops.any fun e => e.1 == 0x0F && e.2.testBit 13 == pass
  let at' (bad : Bool) (status d1 : Nat) : List Found := findIf bad ⟨word, status, word, d1⟩
  let beta := has 0x0E
  let uses := has 0x0D || has 0x0F || has 0x15
  { d with
    found := at' (uses && !d.now.epass) 0x041D 0 ++ at' (beta && d.now.deciding) 0x0419 0 ++
      at' (beta && d.tableAt.any fun n => decide (d.cycle < n + 64)) 0x0419 64 ++
      at' ((weight true || has 0x10) && decide (d.cycle < d.weightAt)) 0x0419 3 ++ d.found,
    tableAt := if has 0x0D || has 0x10 then some d.cycle else d.tableAt,
    weightAt := if has 0x0F then d.cycle + 3 else d.weightAt,
    listAt := if has 0x10 then d.cycle + 12 else d.listAt,
    now := { d.now with deciding := d.now.deciding || [0x09, 0x0A, 0x0B, 0x0C].any has } }

/-- The cluster and the edge core of a port that beat `i` of a segment reaches, and the side it comes in by (R194, R197). -/
def DryProgram.edge (g : DryProgram) (seg i : Nat) : Nat × Nat × Dir :=
  let s := g.segment seg
  (portCluster (g.region.getD s.half 0) s.port, portPos s.port (Config.beatColumn g.image g.index seg i % 8), if s.port < 8 then .n else .s)

/-- The beats of a segment started now, each at its edge port 160 cycles after its issue (R197). -/
def DryProgram.caravan (g : DryProgram) (cycle seg : Nat) : List DryFlight :=
  let s := g.segment seg
  (List.range s.beats).map fun i =>
    let e := g.edge seg i
    { due := cycle + s.issueOffset + s.spacing * i + 160, key := e.1,
      arrival := { pos := e.2.1, dir := e.2.2, beat := { kind := .caravan, half := s.beatBits == 256 } } }

/-- Segments started by a word (R197): one of type 3 takes the ancestor list (R233, R239). -/
def Dry.trigger (g : DryProgram) (word : Nat) (d : Dry) (seg : Nat) : Dry :=
  let s := g.segment seg
  { d with flights := d.flights ++ g.caravan d.cycle seg, found := findIf (s.type == 3 && decide (d.cycle + s.issueOffset < d.listAt)) ⟨word, 0x0419, word, 12⟩ ++ d.found,
           triggers := (seg, d.cycle, word) :: d.triggers, now := { d.now with segments := seg :: d.now.segments } }

/-! ### The end of a step -/

/-- The variables of a step passed in order (R250): the lowest that is not decided exactly once in every replica once one is found, the
variable reached, and the replicas decided of it so far; `whole` is the replicas of variable 0. -/
def coverNext (whole : Nat) (a : Option Nat × Nat × Nat) (e : Nat × Nat) : Option Nat × Nat × Nat :=
  match a with
  | (some v, r) => (some v, r)
  | (none, i, m) =>
    if e.1 = i then (if m &&& e.2 = 0 then (none, i, m ||| e.2) else (some i, i, m))
    else if m ≠ whole then (some i, i, m)
    else if e.1 = i + 1 then (none, i + 1, e.2)
    else (some (i + 1), i, m)

/-- The lowest variable that the decisions of a step leave undecided, or decided twice, in some replica: the replicas are those of variable
0, from replica 0 on. -/
def coverFault (vars : Nat) (l : List (Nat × Nat)) : Option Nat :=
  let whole := (l.filter fun e => e.1 == 0).foldl (fun a e => a ||| e.2) 0
  let r := (mergeSort (fun a b : Nat × Nat => decide (a.1 ≤ b.1)) l).foldl (coverNext whole) (none, 0, 0)
  if whole = 0 ∨ whole &&& (whole + 1) ≠ 0 then some 0
  else r.1.or (if r.2.2 ≠ whole then some r.2.1 else if r.2.1 + 1 < vars then some (r.2.1 + 1) else if vars ≤ r.2.1 then some vars else none)

/-- The lines of its allocation that a segment of couplings or data reads. -/
def SegmentEntry.lines (s : SegmentEntry) : Nat × Nat :=
  (s.sourceOffset / 64, (s.sourceOffset + s.beats * s.beatBits / 8 + 63) / 64)

/-- A target line that the step adds to is read in it, by a segment or a scan (R143). -/
def DryStep.readFaults (n : DryStep) (g : DryProgram) (fixed : Bool) : List Found :=
  let segs := (n.segments.eraseDups.map g.segment).filter fun s => decide (s.type ≤ 1) && (s.src == 1 || fixed)
  if segs.isEmpty && n.scanned.isEmpty then []
  else n.added.flatMap fun e =>
    let a := (g.targets.getD e.1 ⟨0, 4, 1, 0, 0⟩).alloc
    let last := e.2.1 + e.2.2.1
    findIf ((segs.any fun s => s.alloc == a && decide (s.lines.1 < last) && decide (e.2.1 < s.lines.2)) ||
      n.scanned.any fun q => q.1 == a && decide (e.2.1 ≤ q.2) && decide (q.2 < last)) ⟨e.2.2.2, 0x041C, e.2.2.2, e.1⟩

/-- Groups that a step boundary finds open: FIELD and ENERGY may not stay open (R111, R112). -/
def Dry.openFaults (d : Dry) (word : Nat) : List Found :=
  [0, 1].flatMap fun g => findIf (d.clusters.any fun c => c.cores.any fun k => k.open? g != 0) ⟨word, 0x0416, word, g⟩

/-- A step ends at a word. -/
def Dry.endStep (g : DryProgram) (fixed : Bool) (word : Nat) (d : Dry) : Dry :=
  let cover := (coverFault g.vars d.now.decided).map fun v => (⟨word, 0x041F, word, v⟩ : Found)
  { d with step := d.step + 1, past := (d.cycle, d.now) :: d.past, now := { parts := d.now.openParts },
           found := cover.toList ++ d.openFaults word ++ d.now.readFaults g fixed ++ d.found }

/-- A PHASE mark: pending words become current. -/
def DryCore.swap (c : DryCore) : DryCore :=
  { c with words := c.pend.foldl (fun m e => mset [] m e.1 e.2) c.words, pend := [], seen := [] }

/-- One word issued, or passed over as the opening word of a loop that runs no time (R219). -/
def dryWord (g : DryProgram) (fixed : Bool) (word : Nat) (skip : Bool) (d0 : Dry) : Dry :=
  let ctl := if skip then 0 else g.control word
  let d : Dry := { d0 with before := d0.before && g.stepFirst != some word, now := { d0.now with epass := d0.now.epass || ctlEpass ctl } }
  let row (h : Nat) : List Nat := if skip then [] else (g.row h word).drop 1
  let rows := (List.range g.t.numHalves).map row
  let here := d.flights.filter fun f => f.due == d.cycle
  let site (c : DryCluster) : DrySite :=
    { coupling := g.coupling, positions := g.t.positions, classes := g.classes, targets := g.targets, ags := c.ags, cycle := d.cycle,
      step := d.step, phase := d.phase, word := word, before := d.before }
  let rs := d.clusters.map fun c =>
    (site c, dryCluster g (site c) ((rows.getD c.half []).getD c.slice 0) ((here.filter fun f => f.key == c.key).map (·.arrival)) c)
  let d1 : Dry := { d with clusters := rs.map fun r => r.2.cluster,
                           flights := (d.flights.filter fun f => decide (d.cycle < f.due)) ++ rs.flatMap fun r => r.2.flights }
  let d2 := rs.foldl (fun a r => r.2.outs.foldl (Dry.takeOut r.1 (ctlColour ctl)) a) d1
  let d3 := d2.exchange word (rows.flatMap fun l => l.map fun s => (bitField s 90 6, bitField s 64 24))
  let trig (a : Dry) (h : Nat) : Dry :=
    let c := if skip then 0 else (g.row h word).headD 0
    let a1 := if ctlTrig0 c && decide (ctlSeg0 c < g.t.numSegments) then a.trigger g word (ctlSeg0 c) else a
    if ctlTrig1 c && decide (ctlSeg1 c < g.t.numSegments) then a1.trigger g word (ctlSeg1 c) else a1
  let d4 := (List.range g.t.numHalves).foldl trig d3
  let d5 := if ctlStep ctl then d4.endStep g fixed word else d4
  let d6 : Dry := if ctlPhase ctl then
      { d5 with phase := d5.phase + 1, clusters := d5.clusters.map fun c => { c with cores := c.cores.map DryCore.swap } } else d5
  { d6 with cycle := d6.cycle + 1 }

/-! ### The walk -/

/-- The words issued in turn from a word, with the loops' counts given; `fuel` words are left. -/
def dryWalk (g : DryProgram) (fixed : Bool) (cnt : Nat → Nat) : Nat → Nat → List LoopFrame → Dry → Dry
  | 0, _, _, d => d
  | fuel + 1, pc, loops, d =>
    if g.t.words ≤ pc then d
    else
      let v := g.control pc
      let z := ctlLoopLast v
      let opens := ctlLoopOpen v && !(loops.head?.any fun f => f.first == pc && f.last == z)
      if opens && cnt pc == 0 then
        let e := endTests z loops
        dryWalk g fixed cnt fuel e.2 e.1 (dryWord g fixed pc true d)
      else
        let d1 := dryWord g fixed pc false d
        if ctlEnd v then d1
        else
          let e := endTests pc (if opens then { first := pc, last := z, left := cnt pc } :: loops else loops)
          dryWalk g fixed cnt fuel e.2 e.1 d1

/-- The count that a loop is walked with (R219): a parameter of `variant`, two or none; an immediate count in full, at most two where the body ends
steps. -/
def dryCount (g : DryProgram) (variant w : Nat) : Nat :=
  let v := g.control w
  if ctlCountSrc v then (if variant.testBit (ctlCount v % 8) then 2 else 0)
  else if (List.range (ctlLoopLast v + 1 - w)).any fun i => ctlStep (g.control (w + i)) then min 2 (ctlCount v) else ctlCount v

/-- The parameters that loops count with, as a set. -/
def dryParams (p : Bytes) (t : Tiling) : Nat :=
  (t.loops p).foldl (fun a l => if l.2.2.1 then a ||| 2 ^ (l.2.2.2 % 8) else a) 0

/-- The walks of a tiling: every loop counted by a parameter runs or does not. -/
def dryRuns (p : Bytes) (t : Tiling) : List Dry :=
  let g := dryProgram p t
  let used := dryParams p t
  ((List.range 256).filter fun v => v &&& used == v).map fun v =>
    let cnt := dryCount g v
    let fuel := t.words * ((t.loops p).foldl (fun a l => a * max 1 (cnt l.1)) 1) + 1
    dryWalk g (progFixed p) cnt fuel 0 [] (dryStart p g)

/-! ### What the walks give -/

/-- A location of a state map (10 R312): logical half, cluster, logical core, whether it lies in playa, the line or slot, the word, and the
states that it holds. -/
structure StateLoc where
  half : Nat
  cluster : Nat
  core : Nat
  playa : Bool
  line : Nat
  word : Nat
  states : List HeldState
  deriving DecidableEq, Repr

def stateLoc (half cluster core n : Nat) (l : List HeldState) : StateLoc :=
  { half := half, cluster := cluster, core := core, playa := decide (4096 ≤ n), line := if n < 4096 then n / 16 else (n - 4096) / 16,
    word := n % 16, states := l }

/-- The state map of a tiling: the locations from which some word of a later step reads a state. -/
def stateMap (p : Bytes) (t : Tiling) : List StateLoc :=
  (dryRuns p t).flatMap fun d => d.clusters.flatMap fun c => ((List.range 64).zip c.cores).flatMap fun e =>
    e.2.reads.map fun r => stateLoc c.half (t.sliceCluster p c.half c.slice) e.1 r.1 r.2

/-- Words before the step loop that write a location of the map (R312). -/
def Dry.earlyWrites (d : Dry) : List Found :=
  d.clusters.flatMap fun c => c.cores.flatMap fun k => k.wrote.flatMap fun e =>
    findIf (k.reads.any fun r => r.1 == e.1) ⟨e.2, 0x0415, e.2, 0⟩

/-- The lines of job memory of a layout that one step can touch, the result and snapshot areas with the protected ones (R276). -/
def DryStep.lineCount (n : DryStep) (prot : Nat → Bool) (areaLine : Bool × Nat × Nat → Nat) (areas : Bool) : Nat :=
  let ls := (n.touched.filter fun e => prot e.1 == areas).flatMap fun e => (List.range e.2.2).map fun i => 2 ^ 40 * e.1 + e.2.1 + i
  let own := (dropRepeats (mergeSort (fun a b : Nat => decide (a ≤ b)) ls)).length
  let side := if areas then (dropRepeats (mergeSort (fun a b : Nat => decide (a ≤ b)) (n.areas.map areaLine))).length else 0
  own + side

/-- The line of the result area (of states of `bits`) or of the snapshot area that holds a state, the two areas told apart. -/
def areaLine (m : Bytes) (bits : Nat) (e : Bool × Nat × Nat) : Nat :=
  let b := if e.1 then 32 else bits
  let width (k : BlockEntry) : Nat := if k.kind = 2 then b else if k.kind = 1 then 8 else 1
  let size (k : BlockEntry) : Nat := if k.kind = 2 then k.size * b / 8 else k.initBytes
  let a := imgBlockOf m e.2.2
  let k := imgBlock m a
  let whole := ((imgBlockList m).map size).sum
  let off := ((imgBlockList m).take a |>.map size).sum + (e.2.2 - k.base) * width k / 8
  2 * ((e.2.1 * whole + off) / 64) + bit e.1

/-- The most lines of a layout that one step of a tiling can touch. -/
def stepLines (p m : Bytes) (bits : Nat) (t : Tiling) (prot : Bool) : Nat :=
  let layout (i : Nat) : Bool := !(t.alloc p i).unprotectedLayout
  (((dryRuns p t).flatMap fun d => (d.past.map (·.2)) ++ [d.now]).map fun n => n.lineCount layout (areaLine m bits) prot).foldl max 0

/-- The most lines that the check log of one step of a tiling takes: two words with their cycles and places in a line, of the check set that is
delivered most (R454, R456; log entry 60). -/
def checkLines (p : Bytes) (t : Tiling) : Nat :=
  (((dryRuns p t).flatMap fun d => (d.past.map (·.2)) ++ [d.now]).flatMap fun n => n.logged.map fun e => (e.2 + 1) / 2).foldl max 0

/-- Does a statistic of a tiling name a Gaussian variable (R145). -/
def statGaussian (p : Bytes) (t : Tiling) : Bool := (dryRuns p t).any (·.gaussian)

/-- The target entries that statistics of a tiling add to, STAT_TGT of their descriptors among them (R145). -/
def statEntries (p : Bytes) (t : Tiling) : List Nat := (dryRuns p t).flatMap (·.stats)

/-- The allocations of the targets that statistics of a tiling address (R581), in ascending index. -/
def statAllocs (p : Bytes) (t : Tiling) : List Nat :=
  let l := (statEntries p t).map fun n => (t.target p n).alloc
  (List.range t.numAllocs).filter l.contains

/-! ### Refresh windows (R199, R254, R281, R321, R322) -/

/-- The named stacks of a fixed allocation: ascending logical half, then ascending k, each once (R281). -/
def namedStacks (placeArg : Nat) (region : List Nat) : List Nat :=
  (((List.range region.length).filter fun i => bitField placeArg i 1 == 1).flatMap fun i =>
    ((List.range 6).filter fun k => bitField placeArg (12 + k) 1 == 1).map fun k => 6 * (region.getD i 0 / 2) + k).eraseDups

/-- The bank group of a byte of a fixed allocation over `n` stacks. -/
def lineGroup (a : AllocEntry) (n o : Nat) : Nat :=
  let g := 64 * 2 ^ bitField a.placeArg 18 4
  bitField (o / (g * max 1 n) * g + o % g) 11 2

/-- The bytes, as offsets in its allocation, that beat `i` of a segment starts its elements at; `unseen` is that of a segment of anchors or of a
gather. -/
def SegmentEntry.beatOffsets (s : SegmentEntry) (coupling i unseen : Nat) : List Nat :=
  let n := s.beatBits / 8
  match s.type with
  | 0 =>
    let w := fmtBits coupling / 8
    (List.range (n / w)).map fun k => s.sourceOffset + w * streamElem s.order (n / w * i + k)
  | 1 => [s.sourceOffset + n * i]
  | _ => [unseen]

/-- Does a cadence cycle that comes again every `q` cycles lie in a window of bank group `b` at a setting, in some turn (R321). -/
def inWindow (setting q b c : Nat) : Bool :=
  let n := 390 * setting
  let r := ((c : Int) - b * (n / 4 : Nat)) % (Nat.gcd q n : Nat)
  decide (r < 35 * setting)

/-- The segments of a fixed-cadence tiling with a beat from a bank group in its window, as word and segment. The walk's second step stands for all
later ones, which follow at its length. -/
def Dry.windowHits (p : Bytes) (g : DryProgram) (setting : Nat) (d : Dry) : List (Nat × Nat) :=
  let ends := d.past.map (·.1)
  let period := match ends with | a :: b :: _ => a - b | _ => 0
  let first := ends.getLast?.getD 0
  (d.triggers.filter fun e =>
    let s := g.segment e.1
    let a := g.t.alloc p s.alloc
    let n := (namedStacks a.placeArg g.region).length
    (List.range s.beats).any fun i =>
      let c := e.2.1 + s.issueOffset + s.spacing * i
      (s.beatOffsets g.coupling i (Config.unseenOffset p g.index e.1 i)).any fun o => inWindow setting (if e.2.1 ≤ first then 0 else period) (lineGroup a n o) c).map fun e => (e.2.2, e.1)

/-- The refresh conflicts of a tiling at a clock setting. -/
def refreshHits (setting : Nat) (p : Bytes) (t : Tiling) : List Found :=
  if progFixed p then
    let g := dryProgram p t
    (dryRuns p t).flatMap fun d => (d.windowHits p g setting).map fun e => ⟨e.1, 0x041B, e.1, e.2⟩
  else []

/-- The faults that the walks of a tiling find. -/
def dryFound (p : Bytes) (t : Tiling) : List Found := (dryRuns p t).flatMap fun d => d.earlyWrites ++ d.found

end Sys2Proof.Machine
end

