-- ==== Sys2Proof/Machine/Entropy.lean ====
section
/-! DEFINITION. The entropy block (16 R499 to R507): health tests, pool, DRBG instances, alarm and raw mode, and the
meanings of its registers (what also ends or answers a waiting SESSION_OPEN stands in Machine/Session.lean). -/

namespace Sys2Proof.Machine

open Sys2Proof

/-! ### Health tests (R500) -/

/-- ENTROPY_H in 1/65,536, at least the 0.3125 that R499 gives as its least value (log entry 18). -/
def State.entropyH (s : State) : Nat := max 20480 (beAt s.identityBlob 0x3F0 2)

/-- The cutoff of the repetition count test: 1 + ⌈20 / H⌉. -/
def rctCutoff (h : Nat) : Nat := 1 + (20 * 65536 + h - 1) / h

/-- 2^(−H) in units of 2^−256, H in 1/65,536, by repeated square roots from 2^(−1/2); `n` bits are left. -/
def halfPower : Nat → Nat → Nat → Nat → Nat
  | 0, _, _, acc => acc
  | n + 1, h, root, acc =>
    let bitSet := h / 2 ^ n % 2 = 1
    halfPower n h (Nat.sqrt (root * 2 ^ 256)) (if bitSet then acc * root / 2 ^ 256 else acc)

/-- The least c for which the tail from c of a binomial of 1,024 trials is at most 2^−20, from the top down: `k` is the
next count, `term` its probability and `tail` the sum above it, in units of 2^−2300. -/
def aptScan (p q : Nat) : Nat → Nat → Nat → Nat
  | 0, _, _ => 0
  | k + 1, term, tail =>
    if 2 ^ 2280 < tail + term then k + 2
    else aptScan p q k (term * (k + 1) * q / ((1024 - k) * p)) (tail + term)

/-- The cutoff of the adaptive proportion test (R500), evaluated to well beyond the precision the test needs (log entry
18). -/
def aptCutoff (h : Nat) : Nat :=
  let p := halfPower 16 h (Nat.sqrt (2 ^ 511)) (2 ^ 256)
  let q := 2 ^ 256 - p
  aptScan p q 1024 (2 ^ 2300 * p ^ 1024 / 2 ^ (256 * 1024)) 0

/-- The health-test state after one sample, and which tests failed on it. -/
structure HealthRun where
  e : Entropy
  rctFail : Bool := false
  aptFail : Bool := false
  deriving DecidableEq, Repr

def healthSample (rct apt : Nat) (r : HealthRun) (b : Bool) : HealthRun :=
  let e := r.e
  let run := if e.run ≠ 0 ∧ e.lastSample = b then e.run + 1 else 1
  let first := if e.aptPos = 0 then b else e.aptFirst
  let count := if e.aptPos = 0 then 1 else if b = e.aptFirst then e.aptCount + 1 else e.aptCount
  { e := { e with lastSample := b, run := run, aptFirst := first, aptCount := count, aptPos := (e.aptPos + 1) % 1024 },
    rctFail := r.rctFail || decide (rct ≤ run), aptFail := r.aptFail || decide (apt ≤ count) }

/-- A block tested (R500). -/
def State.healthBlock (s : State) (samples : List Bool) : HealthRun :=
  samples.foldl (healthSample (rctCutoff s.entropyH) (aptCutoff s.entropyH)) { e := s.entropy }

/-! ### Start-up, pool and instances (R499, R501 to R503) -/

/-- The block as at start-up (R502); the counts since hub start stay. -/
def Entropy.startOver (e : Entropy) : Entropy :=
  { blocksFailed := e.blocksFailed, restarts := e.restarts, reseeds := e.reseeds, rngWaiting := e.rngWaiting }

/-- The end of raw mode (R507): the block restarts as under R502, but for a fatal alarm, which lasts until it is cleared (R501). -/
def Entropy.leaveRaw (e : Entropy) : Entropy := if e.alarmed then { e with state := .fatal } else e.startOver

/-- Instances of the configuration in force. -/
def State.drbgInstances (s : State) : Nat := if s.journal.settings.drbgShared then 1 else 4

/-- Every instance instantiated from two pool outputs each (R503). -/
def State.instantiate (s : State) : State :=
  s.onEntropy fun e => { e with instantiated := true, requests := [0, 0, 0, 0], pool := e.pool - 2 * s.drbgInstances }

/-- The instance that serves a client (0 TRANSPORT, 1 CIPHER, 2 KEYGEN, 3 SOFTWARE) and its reseed limit (R503). -/
def State.drbgInstance (s : State) (client : Nat) : Nat := if s.journal.settings.drbgShared then 0 else client
def State.reseedLimit (s : State) : Nat := if s.journal.settings.drbgShared then 65536 else 1048576

/-- Does the client's instance await a reseed for which the pool holds nothing (R504). -/
def State.drbgStalls (s : State) (client : Nat) : Bool :=
  decide (s.reseedLimit ≤ s.entropy.requests.getD (s.drbgInstance client) 0) && s.entropy.pool == 0

/-- Why no DRBG output is given: 0x0701 under the fatal alarm (R505), 0x0702 in raw mode (R507), 0 otherwise. -/
def State.drbgStatus (s : State) : Nat :=
  match s.entropy.state with
  | .fatal => 0x0701
  | .raw => 0x0702
  | _ => 0

/-- Is output given now: instantiated, READY once (R502), and no alarm or raw mode. -/
def State.drbgGives (s : State) : Bool := s.entropy.ready && s.entropy.instantiated && s.drbgStatus == 0

/-- `n` bytes of output for a client: a reseed that is due takes one pool output (R503). -/
def State.drbg (s : State) (client n : Nat) : Bytes × State :=
  let i := s.drbgInstance client
  let due := s.reseedLimit ≤ s.entropy.requests.getD i 0 ∧ s.entropy.pool ≠ 0
  let s1 := s.onEntropy fun e =>
    if due then { e with pool := e.pool - 1, reseeds := satAdd 32 e.reseeds 1, requests := modAt (fun _ => 1) i e.requests }
    else { e with requests := modAt (· + 1) i e.requests }
  s1.takeRandom n

/-- Output for roll-call nonces and back-offs: the DRBG's, or the counter-mode values of R506 while it gives none. Both
are free values. -/
def State.transportRandom (s : State) (n : Nat) : Bytes × State := if s.drbgGives then s.drbg 0 n else s.takeRandom n

/-! ### Salts (R280) -/

/-- The salt of a hashed allocation: 64 bits of DRBG output, a request of the TRANSPORT client (R280, R503), and the state after it. -/
def State.drawSalt (s : State) : Nat × State := let r := s.transportRandom 8; (beNat r.1, r.2)

/-- `n` hashed pages under a salt of their own, from page `p` on. -/
def State.takeSalted (s : State) (u : FrameUse) (prot : Bool) (n p : Nat) : Option (State × List PageRef) :=
  let d := s.drawSalt
  d.2.takeHashed u prot d.1 n p

/-! ### RNG_DATA (R504) -/

def rngAddr : Word := 0xB108#32
def rawAddr : Word := 0xB10C#32

/-- A reply to a register access that stands alone: a batch of one entry with TAG 0 (log entry 21). -/
def State.replyOne (s : State) (sess : Nat) (addr : Word) (write : Bool) (data : Word) (status : Nat) : State :=
  s.send sess (.regReply 0 0 [({ addr := addr, write := write, data := data }, BitVec.ofNat 16 status)])

/-- A read of RNG_DATA that can be answered now. -/
def State.rngAnswer (s : State) (sess : Nat) : State :=
  let r := s.drbg 3 4
  r.2.replyOne sess rngAddr false (word (beNat r.1)) 0

/-- Reads that wait answered in turn while the SOFTWARE instance gives output. -/
def rngServe : List Nat → State → State
  | [], s => s
  | id :: ids, s =>
    if s.drbgStalls 3 then s.onEntropy fun e => { e with rngWaiting := id :: ids }
    else rngServe ids (s.rngAnswer id)

def State.serveWaiting (s : State) : State :=
  if s.drbgGives && !s.entropy.rngWaiting.isEmpty then
    rngServe s.entropy.rngWaiting (s.onEntropy fun e => { e with rngWaiting := [] })
  else s

/-- May a session of this role use registers at all (R478). -/
def Session.reads (x : Session) : Bool := x.role != .peer && x.role != .claim

/-- A read of RNG_DATA (R504, R505, R507). -/
def State.rngRead (s : State) (sess : Nat) : State :=
  match s.openSession? sess with
  | none => s
  | some x =>
    let s1 := s.popInbox sess
    if x.reads = false then s1.replyOne sess rngAddr false 0 0x0108
    else if s.drbgStatus ≠ 0 then s1.replyOne sess rngAddr false 0 s.drbgStatus
    else if s.drbgGives && !s.drbgStalls 3 then s1.rngAnswer sess
    else s1.onEntropy fun e => { e with rngWaiting := e.rngWaiting ++ [sess] }

def execRngData (sess : Nat) (s : State) : Host.Outcome State Fault Refusal := .next (s.rngRead sess)

/-- A read of RAW_DATA: 32 raw samples in raw mode, zero outside it (R507, R512). -/
def execRawData (sess : Nat) (samples : Word) (s : State) : Host.Outcome State Fault Refusal :=
  .next (match s.openSession? sess with
    | none => s
    | some x =>
      let s1 := s.popInbox sess
      if x.reads then s1.replyOne sess rawAddr false (if s.entropy.state == .raw then samples else 0) 0
      else s1.replyOne sess rawAddr false 0 0x0108)

/-! ### Blocks (R501, R505) -/

/-- The fatal alarm (R501, R505): every instance is uninstantiated, 0x0712 logged, waiting reads end with 0x0701. -/
def State.entropyFatal (s : State) : State :=
  let waiting := s.entropy.rngWaiting
  let s1 := s.onEntropy fun e => { e with state := .fatal, alarmed := true, ready := false, instantiated := false, rngWaiting := [] }
  let s2 := s1.log { code := 0x0712, severity := 2, unit := unitWord 0xFF 0xFF 0xFF 0xB }
  waiting.foldl (fun t id => t.replyOne id rngAddr false 0 0x0701) s2

/-- A failing block discarded: the source restarts and 4,096 samples are to be discarded; three in a row, or eight within
any 10 s, raise the fatal alarm (R501). -/
def State.blockFails (s : State) (r : HealthRun) : State :=
  let now := s.nowNs
  let times := (s.entropy.failTimes.filter fun t => decide (now < t + 10000000000)) ++ [now]
  let s1 := s.onEntropy fun e =>
    { e with lastSample := r.e.lastSample, run := 0, aptFirst := false, aptCount := 0, aptPos := 0,
             blocksFailed := satAdd 32 e.blocksFailed 1, restarts := satAdd 32 e.restarts 1, discard := 4096,
             failsInRow := e.failsInRow + 1, failTimes := times,
             state := match e.state with | .startUp => .startUp | x => if x = .running then .restarting else x }
  let s2 := s1.log { code := 0x0710, severity := 1, unit := unitWord 0xFF 0xFF 0xFF 0xB,
                     detail := if r.rctFail then 0 else 1 }
  let s3 := s2.log { code := 0x0711, severity := 1, unit := unitWord 0xFF 0xFF 0xFF 0xB }
  if 3 ≤ s3.entropy.failsInRow ∨ 8 ≤ times.length then s3.entropyFatal else s3

/-- A passing block (R499, R502): the first two after start-up only count; then each two give the pool one output, and a
full pool instantiates the DRBG once. -/
def State.blockPasses (s : State) (r : HealthRun) : State :=
  let e0 := { r.e with failsInRow := 0, state := match r.e.state with | .restarting => .running | x => x }
  if e0.state = .startUp ∧ e0.passed < 2 then { s with entropy := { e0 with passed := e0.passed + 1 } }
  else
    let e1 := if e0.halfBlock then { e0 with halfBlock := false, pool := min 8 (e0.pool + 1) } else { e0 with halfBlock := true }
    let s1 : State := { s with entropy := e1 }
    let s2 := if e1.state = .startUp ∧ e1.instantiated = false ∧ e1.pool = 8 then s1.instantiate else s1
    s2.serveWaiting

/-- A block of 512 raw samples (R499 to R501). While samples are to be discarded the block only counts toward them; in raw
mode the tests run and are counted but discard nothing (R507); under the fatal alarm nothing is taken. -/
def State.entropyBlock (s : State) (samples : List Bool) : State :=
  if samples.length ≠ 512 ∨ s.entropy.state = .fatal then s
  else if s.entropy.state = .raw then
    let r := s.healthBlock samples
    { s with entropy := { r.e with
        blocksFailed := if r.rctFail || r.aptFail then satAdd 32 r.e.blocksFailed 1 else r.e.blocksFailed } }
  else if s.entropy.discard ≠ 0 then s.onEntropy fun e => { e with discard := e.discard - 512 }
  else
    let r := s.healthBlock samples
    if r.rctFail || r.aptFail then s.blockFails r else s.blockPasses r

/-- Start-up is complete when the instances stand and the pool is full again (R502). -/
def State.entropyDue (s : State) : Bool := s.entropy.state == .startUp && s.entropy.instantiated && s.entropy.pool == 8

/-- READY is set, and the reads that wait are answered (R502). -/
def State.entropyReady (s : State) : State := (s.onEntropy fun e => { e with state := .running, ready := true }).serveWaiting

/-! ### Alarm, raw mode, configuration -/

/-- ALARM_CLEAR, written by an installer (R501): the audit entry first, then the block restarts as at start-up. -/
def State.alarmClear (s : State) (x : Session) : State :=
  let s1 := s.audit x.role.auditCode 0 0x000F 0 x.fpr (beBytes 4 0xB104 ++ beBytes 4 2)
  if s.entropy.state = .fatal then s1.onEntropy Entropy.startOver else s1.onEntropy fun e => { e with alarmed := false }

/-- DRBG_MODE, written by an installer (R503): the configuration is kept in the journal and instantiated at once. -/
def State.drbgMode (s : State) (x : Session) (shared : Bool) : State :=
  let s1 := s.audit x.role.auditCode 0 0x0005 0 x.fpr (beBytes 4 0xB104 ++ beBytes 4 (bit shared))
  let s2 := s1.onJournal fun j => { j with settings := { j.settings with drbgShared := shared } }
  if s2.entropy.instantiated then s2.instantiate else s2

/-- May the session write a field that only a maker's consent gives (R554), by its ACTIONS bit. -/
def Session.consents (x : Session) (action : Nat) : Bool := x.role == .maker && x.actions.getLsbD action

/-- One register write that has a row of its own: what the role may not write is denied with 0x0108 and has no effect
(R412, R556). -/
def State.ownWrite (s : State) (sess : Nat) (addr data : Word) (may : Session → Bool) (f : State → Session → State) : State :=
  match s.openSession? sess with
  | none => s
  | some x =>
    let s1 := s.popInbox sess
    if may x then (f s1 x).replyOne sess addr true data 0 else s1.replyOne sess addr true data 0x0108

def execAlarmClear (sess : Nat) (s : State) : Host.Outcome State Fault Refusal :=
  .next (s.ownWrite sess 0xB104 2 (·.role == .installer) State.alarmClear)

def execDrbgMode (sess : Nat) (shared : Bool) (s : State) : Host.Outcome State Fault Refusal :=
  .next (s.ownWrite sess 0xB104 (word (bit shared)) (·.role == .installer) fun t x => t.drbgMode x shared)

end Sys2Proof.Machine
end

