-- ==== Sys2Proof/Machine/Power.lean ====
section
/-! DEFINITION. Power, limits, temperature and the analogue checks (17): the meanings of the feed, regulator, stretch,
thermal, sensor and PLL events. -/

namespace Sys2Proof.Machine

open Sys2Proof

/-! ### Names -/

def feedCode : Feed → Nat
  | .a => 0 | .b => 1

/-- UNIT of a rail (R473): the die of VFAB and VSTK, the rail's number in the sub-unit field. -/
def railUnit : Rail → Word
  | .vfab d => unitWord d.val 0xFF 0xFF 0
  | .vstk d => unitWord d.val 0xFF 0xFF 1
  | .vhub => unitWord 0xFF 0xFF 0xFF 2
  | .vopt => unitWord 0xFF 0xFF 0xFF 3
  | .vaon => unitWord 0xFF 0xFF 0xFF 4

/-- Phase groups of a rail (R516). -/
def railGroups : Rail → Nat
  | .vfab _ => 6 | .vstk _ => 4 | .vhub => 3 | .vopt => 2 | .vaon => 2

/-- A number for each PLL (R530, R545). -/
def pllCode : Pll → Nat
  | .half h => h.val | .spine d => 12 + d.val | .stack t => 20 + t.val | .hub => 60 | .serdes => 61

def pllUnit : Pll → Nat × Word
  | .half h => (2, unitWord (h.val / 2) 0xFF 0xFF (h.val % 2))
  | .spine d => (1, unitWord d.val 0xFF 0xFF 0xFF)
  | .stack t => (5, unitWord t.val 0xFF 0xFF 0xFF)
  | .hub => (0, BitVec.allOnes 32)
  | .serdes => (7, unitWord 0xFF 0xFF 0xFF 0)

/-! ### Feeds (R514, R515, R525 to R528) -/

/-- A fixed set of entries of resident fixed-cadence jobs. -/
def State.fixedSlots (s : State) : List Nat := s.residentSlots Job.fixedCadence

/-- The voltage of a present feed measured again (R515, R525): the single-feed limit follows it, and elastic settings with it. -/
def State.measureFeed (s : State) (f : Feed) (mv : Nat) : State :=
  if mv < 47000 ∨ 66000 < mv then s
  else (s.onPower fun p => match f with | .a => { p with aMv := mv } | .b => { p with bMv := mv }).rebudget.raiseSettings

/-- Is a feed present (R515). -/
def Power.has (p : Power) : Feed → Bool
  | .a => p.aPresent | .b => p.bPresent

/-- A feed present (R515): in range for 1 ms. VAON and VHUB come up with the first feed; a lost feed that returns is
restored (R526); a feed that returns while a shed runs or the bank holds VAON waits for the cold start (R528). -/
def State.feedPresent (s : State) (f : Feed) (mv : Nat) : State :=
  if s.power.has f then s.measureFeed f mv
  else if mv < 50000 ∨ 63000 < mv then s
  else
    let p := s.power
    let p1 : Power := match f with
      | .a => { p with aPresent := true, aMv := mv }
      | .b => { p with bPresent := true, bMv := mv }
    let both := p1.aPresent && p1.bPresent
    let restored := both && p.singleFeed && p.wasPresent
    let cold := p.shedding
    let s1 := { s with power := { p1 with
      singleFeed := p1.aPresent != p1.bPresent,
      wasPresent := p.wasPresent || both,
      vaonOn := true,
      vhubOn := if cold then p.vhubOn else true,
      holdupMv := max p1.aMv p1.bMv } }
    let s2 := s1.onClocks fun c =>
      if p.vaonOn then { c with refRunning := true }
      else { c with refRunning := true, aonCycles := 0, wakes := 0 }
    if restored then
      (s2.log { code := 0x0821, severity := 0, kind := 8, unit := unitWord 0xFF 0xFF 0xFF (feedCode f),
                detail := BitVec.ofNat 64 (feedCode f) }).raiseSettings
    else s2

def execFeedPresent (feed : Feed) (mv : Nat) (s : State) : Host.Outcome State Fault Refusal := .next (s.feedPresent feed mv)

/-- What VFAB, VSTK and VOPT keep when they are switched off: fabric, stacks and every object in memory are lost
(R271, R527); open loads end at the next start (R402). Unit health is the journal's and stays. A flash image that was being rewritten
no longer passes its check (R498). -/
def State.losePower (s : State) : State :=
  let off (d : Nat) (t : State) : State := (t.restartDie d).modDie d fun x => { x with railOff := false, powerW := 0 }
  let s1 := (List.range 6).foldl (fun t d => off d t) s
  { s1 with
    mem := [],
    tielux := s1.tielux.map fun e => (e.1, { ({} : Stack) with
      sparedDie := e.2.sparedDie, spareState := e.2.spareState, failed := e.2.failed, baseDieFailed := e.2.baseDieFailed,
      unusable := e.2.unusable, spareRowsLeft := e.2.spareRowsLeft, rowsSpared := e.2.rowsSpared, spareRows := e.2.spareRows, badRegions := e.2.badRegions }),
    objects := { handles := s1.objects.handles.map fun h => { h with pages := [] }, nextHandle := s1.objects.nextHandle },
    port := { training := .dr8, rxDropped := s1.port.rxDropped, preemptions := s1.port.preemptions, fecCorrected := s1.port.fecCorrected,
              fecUncorrectable := s1.port.fecUncorrectable },
    security := { s1.security with flashImage := if s1.security.update == .flashPending then [] else s1.security.flashImage } }

/-- The hub's registers at a load shed: the session table, the replies and the port's frames go, the reset is counted. -/
def State.atShed (s : State) : State :=
  { s with
    power := { s.power with shedding := true, shedPending := true, shedSec := s.timeSec, singleFeed := false, wasPresent := false },
    transport := { s.transport with sessions := [], pendingReplies := [], pendingAssign := none, opens := [], source := {}, express := [], bulk := [], out := [], sent := [] },
    journal := { s.journal with lastReset := .bothFeeds, resetCount := (s.journal.resetCount + 1) % 2 ^ 24 } }

/-- Both feeds lost: the module sheds (R527). Issue stops, VFAB, VSTK and VOPT go off, every hub function but the journal
stops, and every job is an obligation (R296). -/
def State.shed (s : State) : State := s.loseJobs.losePower.atShed

/-- Every fixed-cadence job demoted with cause 3 and every reserved grant made elastic; elastic settings lowered until
the effective budget holds (R525). -/
def State.loseOneFeed (s : State) (f : Feed) : State :=
  let s1 := s.log { code := 0x0820, severity := 1, kind := 8, unit := unitWord 0xFF 0xFF 0xFF (feedCode f),
                    detail := BitVec.ofNat 64 (feedCode f) }
  let s2 := s1.demoteAll s1.fixedSlots 3
  let s3 := s2.onJobs fun e => { e with table := e.table.map fun x => (x.1, x.2.map fun j => { j with reserved := false }) }
  s3.rebudget

/-- A feed lost (R515): below 47 V for 20 µs, or above 66 V. -/
def State.feedLost (s : State) (f : Feed) (mv : Nat) : State :=
  let p := s.power
  let was := match f with | .a => p.aPresent | .b => p.bPresent
  if (47000 ≤ mv ∧ mv ≤ 66000) ∨ was = false then s
  else
    let p1 : Power := match f with
      | .a => { p with aPresent := false, aMv := mv }
      | .b => { p with bPresent := false, bMv := mv }
    let s1 : State := { s with power := { p1 with singleFeed := p1.aPresent != p1.bPresent } }
    if p1.aPresent || p1.bPresent then s1.loseOneFeed f else s1.shed

def execFeedLost (feed : Feed) (mv : Nat) (s : State) : Host.Outcome State Fault Refusal := .next (s.feedLost feed mv)

/-- The last journal write of a shed completes: the journal is marked closed and VHUB switches off (R527). -/
def State.journalClose (s : State) : State :=
  if s.power.shedding then
    { s with power := { s.power with vhubOn := false }, journal := { s.journal with closed := true },
             config := { s.config with hubReady := false } }
  else s

def execJournalClosed (s : State) : Host.Outcome State Fault Refusal := .next s.journalClose

/-- After a shed the bank falls below 40 V: the converters stop and the always-on domain loses VAON (R527). With a feed
present again, the cold start that R528 gives it brings VAON and VHUB back. -/
def State.vaonLose (s : State) : State :=
  if s.power.shedding then
    let back := s.power.aPresent || s.power.bPresent
    { s with
      power := { s.power with shedding := false, vaonOn := back, vhubOn := back, holdupMv := if back then s.power.holdupMv else 0 },
      clocks := { refRunning := back },
      journal := { s.journal with claimUntil := s.journal.claimUntil - s.nowSec },
      ptp := {}, config := { s.config with hubReady := false } }
  else s

def execVaonLost (s : State) : Host.Outcome State Fault Refusal := .next s.vaonLose

/-! ### Regulators and limits (R516, R518, R522 to R524) -/

/-- The failed groups of a rail. -/
def State.railFail (s : State) : Rail → BitVec 6
  | .vfab d => (s.die d.val).phaseFail
  | .vstk d => mget 0 s.power.vstkFail d.val
  | .vhub => s.power.vhubFail
  | .vopt => s.power.voptFail
  | .vaon => s.power.vaonFail

def State.setRailFail (s : State) (r : Rail) (b : BitVec 6) : State :=
  match r with
  | .vfab d => s.modDie d.val fun x => { x with phaseFail := b }
  | .vstk d => s.onPower fun p => { p with vstkFail := mset 0 p.vstkFail d.val b }
  | .vhub => s.onPower fun p => { p with vhubFail := b }
  | .vopt => s.onPower fun p => { p with voptFail := b }
  | .vaon => s.onPower fun p => { p with vaonFail := b }

/-- A phase group that fails its monitor is switched off and logged (R518). A second one lowers the rail's rating, and with
it the die's power limit (`dieLimit`). A group the rail does not have stands. -/
def State.phaseGroupFail (s : State) (r : Rail) (g : Nat) : State :=
  if railGroups r ≤ g then s
  else
    (s.setRailFail r (s.railFail r ||| (1#6 <<< g))).log
      { code := 0x0826, severity := 1, kind := 8, unit := railUnit r, detail := BitVec.ofNat 64 g }

def execPhaseGroupFailed (rail : Rail) (group : Fin 6) (s : State) : Host.Outcome State Fault Refusal :=
  .next (s.phaseGroupFail rail group.val)

/-- The number of failed groups. -/
def failCount (b : BitVec 6) : Nat := ((List.range 6).filter fun i => b.getLsbD i).length

/-- A die's power limit in W (R522), lowered in proportion once two of VFAB's six groups have failed (R518). -/
def State.dieLimit (s : State) (d : Nat) : Nat :=
  let one (h : Nat) : Nat := match s.halfJob? h with | some e => 30 + 10 * e.2.setting | none => 0
  let base := min 420 (40 + one (2 * d) + one (2 * d + 1))
  let n := failCount (s.die d).phaseFail
  if n ≤ 1 then base else min base (420 * (6 - n) / 5)

/-- A die over its limit for 1 µs is stretched (R522, R524), counted, and logged at most once per second per die. -/
def State.currentLimit (s : State) (d n : Nat) : State :=
  let s1 := s.modDie d fun x => { x with stretch := n, stretches := satAdd 32 x.stretches 1 }
  let last := mget 0 s.power.stretchesLogged d
  let s2 := s1.onPower fun p =>
    { p with stretchEvents := satAdd 32 p.stretchEvents 1, stretchesLogged := mset 0 p.stretchesLogged d (s.nowSec + 1) }
  if last = s.nowSec + 1 then s2
  else s2.log { code := 0x0823, severity := 1, kind := 1, unit := unitWord d 0xFF 0xFF 0xFF, detail := BitVec.ofNat 64 n }

def execCurrentLimit (die : Fin 6) (stretch : Fin 17) (s : State) : Host.Outcome State Fault Refusal :=
  .next (s.currentLimit die.val stretch.val)

/-- VFAB droops 25 mV: the die's cycles are stretched (R523, R524). Only wall time changes. -/
def execDroopStretch (die : Fin 6) (stretch : Fin 17) (s : State) : Host.Outcome State Fault Refusal :=
  .next (s.modDie die.val fun x => { x with stretch := stretch.val })

/-- VFAB within 10 mV for 1 µs: the stretch is released (R523). -/
def execDroopRelease (die : Fin 6) (s : State) : Host.Outcome State Fault Refusal :=
  .next (s.modDie die.val fun x => { x with stretch := 0 })

/-! ### Temperature (R529) -/

def thermalUnit : ThermalPart → Nat × Word
  | .die d => (1, unitWord d.val 0xFF 0xFF 0xFF)
  | .stack t => (5, unitWord t.val 0xFF 0xFF 0xFF)
  | .hub => (0, BitVec.allOnes 32)

/-- Is a resident job struck by a response of a part (R323, cause 2): a die or stack of its region. -/
def struckBy (p : ThermalPart) (j : Job) : Bool :=
  match p with
  | .die d => j.hasDie d.val
  | .stack t => j.hasDie (t.val / 6)
  | .hub => false

/-- A step of a thermal response, logged and counted (R529). -/
def State.thermalNote (s : State) (p : ThermalPart) (t16 : Int) : State :=
  (s.log { code := 0x0824, severity := 1, kind := (thermalUnit p).1, unit := (thermalUnit p).2,
           detail := BitVec.ofInt 64 t16 }).onThermal fun x => { x with events := satAdd 32 x.events 1 }

/-- A step of a thermal response; fixed-cadence jobs it strikes are demoted (R529). -/
def State.thermalStep (s : State) (p : ThermalPart) (t16 : Int) : State :=
  let s1 := s.thermalNote p t16
  s1.demoteAll (s1.residentSlots (struckBy p)) 2

/-- A stack at the hot refresh rate from a time on (R268). -/
def Stack.heat (k : Stack) (now : Nat) : Stack := if k.hot then k else { k with hot := true, hotSince := now }

/-- A stack back at the cool rate; the milliseconds it was hot are counted (R268, R291). -/
def Stack.cool (k : Stack) (now : Nat) : Stack :=
  if k.hot then { k with hot := false, hotTimeMs := satAdd 32 k.hotTimeMs ((now - k.hotSince) / 1000000) } else k

/-- A stack goes to the hot refresh rate: the change is logged (R268, R290). -/
def State.heatStack (s : State) (t : Nat) : State :=
  if (s.stack t).hot then s
  else (s.modStack t fun k => k.heat s.nowNs).log { code := 0x0914, severity := 0, kind := 5, unit := unitWord t 0xFF 0xFF 0xFF, detail := 1 }

/-- A die, stack or hub crosses a throttle temperature (R529). Below its least threshold nothing responds. The hot refresh rate changes no
cycle of a fixed-cadence job (R270), so it strikes none. -/
def State.throttle (s : State) (p : ThermalPart) (t16 : Int) : State :=
  match p with
  | .die d =>
    let s1 := s.modDie d.val fun x => { x with temp := t16 }
    if 105 * 16 ≤ t16 then
      let s2 := (s1.modDie d.val fun x => { x with thermal := .holding }).thermalStep p t16
      (s2.residentSlots fun j => j.hasDie d.val).foldl (fun t k => t.modJob k fun j =>
        if j.state == .running then j.takeHold 64 else j) s2
    else if 100 * 16 ≤ t16 then (s1.modDie d.val fun x => { x with thermal := .lowering }).thermalStep p t16
    else s1
  | .stack k =>
    let s1 := s.modStack k.val fun x => { x with temp := t16 }
    if 98 * 16 ≤ t16 then
      ((s1.heatStack k.val).modStack k.val fun x => { x with thermal := .selfRefresh, selfRefresh := true }).thermalStep p t16
    else if 92 * 16 ≤ t16 then ((s1.heatStack k.val).modStack k.val fun x => { x with thermal := .limited }).thermalStep p t16
    else if 85 * 16 ≤ t16 then ((s1.heatStack k.val).modStack k.val fun x => { x with thermal := .hot }).thermalNote p t16
    else s1
  | .hub =>
    let s1 := s.onThermal fun x => { x with hubTemp := t16 }
    if 110 * 16 ≤ t16 then (s1.thermalStep p t16).shed
    else if 100 * 16 ≤ t16 then (s1.onClocks fun c => { c with hubSlow := true }).thermalStep p t16
    else s1

def execThermalThrottle (part : ThermalPart) (sixteenths : Int) (s : State) : Host.Outcome State Fault Refusal :=
  .next (s.throttle part sixteenths)

/-- Every 10 ms while a die is at or above 100 °C, the setting of each job on it drops by one, to 9 at the least. -/
def State.throttleStep (s : State) (d : Nat) : State :=
  if (s.die d).thermal == .normal then s
  else
    let slots := s.residentSlots fun j => j.hasDie d
    let s1 := s.demoteAll slots 2
    slots.foldl (fun t k => t.modJob k fun j => { j with targetSetting := max 9 (j.targetSetting - 1) }) s1

def execThrottleStep (die : Fin 6) (s : State) : Host.Outcome State Fault Refusal := .next (s.throttleStep die.val)

/-- A die at 110 °C is reset and its VFAB gated off; it is unusable until it cools. The hub at 110 °C sheds the module
(R529). A part below its trip temperature stands. -/
def State.trip (s : State) (p : ThermalPart) (t16 : Int) : State :=
  match p with
  | .die d =>
    if t16 < 110 * 16 then s
    else
      let s1 := s.modDie d.val fun x => { x with temp := t16 }
      let s2 := s1.log { code := 0x0825, severity := 2, kind := 1, unit := (thermalUnit p).2, detail := BitVec.ofInt 64 t16 }
      let s3 := (s2.onJournal fun j => { j with trips := satAdd 32 j.trips 1 }).resetDie d.val
      s3.modDie d.val fun x => { x with thermal := .tripped, railOff := true, unusable := true }
  | .hub => if t16 < 110 * 16 then s else (s.throttle p t16)
  | .stack _ => s.throttle p t16

def execThermalTrip (part : ThermalPart) (sixteenths : Int) (s : State) : Host.Outcome State Fault Refusal :=
  .next (s.trip part sixteenths)

/-- A part at its release temperature ends its response (R529): a tripped die at 90 °C, a holding one at 100 °C, a lowering
one at 97 °C after which settings rise by R303; a stack at 90 °C out of self-refresh, at 89 °C out of its limit; the
hub clock at 95 °C. -/
def State.thermalRelease (s : State) (p : ThermalPart) (t16 : Int) : State :=
  match p with
  | .die d =>
    let s1 := s.modDie d.val fun x => { x with temp := t16 }
    match (s.die d.val).thermal with
    | .tripped =>
      if t16 ≤ 90 * 16 then s1.modDie d.val fun x => { x with thermal := .normal, railOff := false, unusable := false } else s1
    | .holding =>
      if t16 ≤ 97 * 16 then (s1.modDie d.val fun x => { x with thermal := .normal }).raiseSettings
      else if t16 ≤ 100 * 16 then s1.modDie d.val fun x => { x with thermal := .lowering } else s1
    | .lowering => if t16 ≤ 97 * 16 then (s1.modDie d.val fun x => { x with thermal := .normal }).raiseSettings else s1
    | .normal => s1
  | .stack k =>
    let s1 := s.modStack k.val fun x => { x with temp := t16 }
    match (s.stack k.val).thermal with
    | .selfRefresh =>
      if t16 ≤ 89 * 16 then s1.modStack k.val fun x => { x with thermal := .hot, selfRefresh := false }
      else if t16 ≤ 90 * 16 then s1.modStack k.val fun x => { x with thermal := .limited, selfRefresh := false } else s1
    | .limited => if t16 ≤ 89 * 16 then s1.modStack k.val fun x => { x with thermal := .hot } else s1
    | _ => s1
  | .hub =>
    let s1 := s.onThermal fun x => { x with hubTemp := t16 }
    if t16 ≤ 95 * 16 then s1.onClocks fun c => { c with hubSlow := false } else s1

def execThermalRelease (part : ThermalPart) (sixteenths : Int) (s : State) : Host.Outcome State Fault Refusal :=
  .next (s.thermalRelease part sixteenths)

/-! ### Analogue checks (R542, R543) -/

/-- A failure of a sensor, ring oscillator or PLL, logged and counted (R543, R564). -/
def State.sensorFail (s : State) (u : Nat × Word) (detail : Nat) : State :=
  let s1 := s.log { code := 0x082A, severity := 2, kind := u.1, unit := u.2, detail := BitVec.ofNat 64 detail }
  (s1.onJournal fun j => { j with bistFailures := satAdd 32 j.bistFailures 1 }).onBist fun b =>
    { b with lastFailUnit := u.2, lastFailItem := 0xF }

/-- The unit a sensor belongs to, by the order of SENSOR_TRIM (R545): dies, stacks, then hub, optical engine and board. -/
def sensorUnit (n : Nat) : Nat × Word :=
  if n < 24 then (1, unitWord (n / 4) 0xFF 0xFF (n % 4))
  else if n < 60 then (5, unitWord (n - 24) 0xFF 0xFF 0xFF)
  else if n = 62 then (7, unitWord 0xFF 0xFF 0xFF 2)
  else (0, unitWord 0xFF 0xFF 0xFF n)

/-- The highest usable reading of a range of sensors, and whether any is usable. -/
def hottest (x : Thermal) (first count : Nat) : Option Int :=
  (List.range count).foldl (fun best i =>
    if mget false x.unusable (first + i) then best
    else match best with
      | none => some (mget 0 x.sensors (first + i))
      | some b => some (max b (mget 0 x.sensors (first + i)))) none

/-- A die's and a stack's temperature and usability after its sensors changed. -/
def State.foldSensor (s : State) (n : Nat) : State :=
  if n < 24 then
    match hottest s.thermal (n / 4 * 4) 4 with
    | some t => s.modDie (n / 4) fun x => { x with temp := t }
    | none => s.modDie (n / 4) fun x => { x with unusable := true }
  else if n < 60 then
    match hottest s.thermal n 1 with
    | some t => s.modStack (n - 24) fun x => { x with temp := t }
    | none => s.modStack (n - 24) fun x => { x with unusable := true }
  else if n < 62 then
    match hottest s.thermal 60 2 with
    | some t => s.onThermal fun x => { x with hubTemp := t }
    | none => s
  else if n = 62 then s.onOptics fun o => { o with engineTemp := mget 0 s.thermal.sensors n }
  else s

/-- A temperature sensor or ring oscillator checked (R542). A sensor that passes gives its reading. A ring oscillator's
second failure in a row marks its die unusable once no job holds it (`dieUsable`). -/
def State.sensorCheck (s : State) (item : SensorItem) (pass : Bool) (reading : Int) : State :=
  match item with
  | .sensor n =>
    if pass then
      if mget false s.thermal.unusable n.val then s
      else (s.onThermal fun x => { x with sensors := mset 0 x.sensors n.val reading }).foldSensor n.val
    else
      ((s.onThermal fun x => { x with sensors := mset 0 x.sensors n.val 0, unusable := mset false x.unusable n.val true }).foldSensor
        n.val).sensorFail (sensorUnit n.val) n.val
  | .ring d =>
    if pass then s.modDie d.val fun x => { x with ringFails := 0 }
    else (s.modDie d.val fun x => { x with ringFails := min 2 (x.ringFails + 1) }).sensorFail (1, unitWord d.val 0xFF 0xFF 0xFF) 64

def execSensorCheck (item : SensorItem) (pass : Bool) (reading : Int) (s : State) : Host.Outcome State Fault Refusal :=
  .next (s.sensorCheck item pass reading)

/-- Is a die usable for placement: not tripped, not marked, its spine's PLL not marked, and not condemned by two ring-oscillator failures. -/
def State.dieUsable (s : State) (d : Nat) : Bool :=
  !(s.die d).unusable && !mget false s.clocks.pllUnusable (12 + d) && !(decide (2 ≤ (s.die d).ringFails) && !s.jobList.any fun e => e.2.state.resident && e.2.hasDie d)

/-- A PLL's domain stopped (R542). -/
def State.stopDomain (s : State) : Pll → State
  | .half h => s.modHalf h.val fun x => { x with clocked := false, ready := false, locked := false, setting := 0 }
  | .spine d => s.modDie d.val fun x => { x with spineClocked := false, spineLocked := false, spineSetting := 0 }
  | .stack t => s.modStack t.val fun x => { x with clocked := false, pllLocked := false, ready := false }
  | .hub => s.onClocks fun c => { c with hubLocked := false }
  | .serdes => { s with clocks := { s.clocks with serdesLocked := false }, port := { s.port with linkUp := false, mode := .down } }

/-- A PLL loses lock (R542): its domain stops, and a die half with a job is reset with its die. -/
def State.pllLose (s : State) (p : Pll) : State :=
  let s1 := s.sensorFail (pllUnit p) (0x100 + pllCode p)
  match p with
  | .half h =>
    match s1.halfJob? h.val with
    | some _ => (s1.resetDie (h.val / 2)).stopDomain p
    | none => s1.stopDomain p
  | _ => s1.stopDomain p

def execPllLockLoss (pll : Pll) (s : State) : Host.Outcome State Fault Refusal := .next (s.pllLose pll)

/-- A PLL's jitter above 3 % (R542): it relocks at its domain's next idle; the second failure within 24 hours marks it
unusable. -/
def State.jitterFail (s : State) (p : Pll) : State :=
  let k := pllCode p
  let s1 := s.sensorFail (pllUnit p) (0x200 + k)
  let last := mget 0 s.clocks.jitterAt k
  let second := last ≠ 0 ∧ s.nowSec + 1 - last ≤ 86400
  if second ∧ mget false s.clocks.pllUnusable k = false then
    (s1.onClocks fun c => { c with pllUnusable := mset false c.pllUnusable k true, jitterAt := mset 0 c.jitterAt k (s.nowSec + 1),
                                   jitterWaits := mset false c.jitterWaits k false }).onJournal fun j =>
      { j with pllsUnusable := satAdd 32 j.pllsUnusable 1 }
  else
    s1.onClocks fun c => { c with jitterAt := mset 0 c.jitterAt k (s.nowSec + 1), jitterWaits := mset false c.jitterWaits k true }

def execPllJitterFail (pll : Pll) (s : State) : Host.Outcome State Fault Refusal := .next (s.jitterFail pll)

end Sys2Proof.Machine
end

