-- ==== Sys2Proof/Machine/Placement.lean ====
section
/-! DEFINITION. Where a job can run and what it needs (10 R297, R298, R303, R305, R307, R315 to R317; 09 R273, R276, R277, R280, R281;
16 R479; 17 R532): placements, memory demand and its reservation, the tilings of a restore. -/

namespace Sys2Proof.Machine

open Sys2Proof

/-! ### Placements (R192, R297) -/

/-- Are two physical halves joined by a seam in service. -/
def State.seamJoins (s : State) (h k : Nat) : Bool := h != k && h / 2 == k / 2 && (s.die (h / 2)).seam == .inService

/-- Is the X link from half E of a die to half W of the next in service, between two halves in either order. -/
def State.xJoins (s : State) (h k : Nat) : Bool :=
  let a := min h k
  let b := max h k
  a % 2 == 1 && b == a + 1 && decide (a / 2 % 3 < 2) && !(s.die (a / 2)).failedLinks.contains .xe && !(s.die (b / 2)).failedLinks.contains .xw

/-- Is the V link between equal halves of two dies of a column in service. -/
def State.vJoins (s : State) (h k : Nat) : Bool :=
  let site := if h % 2 = 0 then LinkSite.vw else .ve
  (h + 6 == k || k + 6 == h) && !(s.die (h / 2)).failedLinks.contains site && !(s.die (k / 2)).failedLinks.contains site

/-- Has every cluster of a half a core for each of the first positions (R204, R297): by its map, or, before that is built, by its good
cores. -/
def State.halfServes (s : State) (h positions : Nat) : Bool :=
  (halfClusters h).all fun k =>
    let c := s.cluster k
    if c.mapBuilt then (List.range positions).all fun q => (c.coreMap.getD q none).isSome
    else decide (positions ≤ s.mapPositions (s.goodCores k))

/-- Does a grid run on the part (R245). -/
def State.gradeRuns (s : State) (t : Tiling) : Bool := t.gridGrade == 0x42 || s.grade == 0x41

/-- Does the physical half `h` suit logical half `i` beside the halves that the earlier ones took. -/
def State.halfFits (s : State) (p : Bytes) (t : Tiling) (taken : List Nat) (i h : Nat) : Bool :=
  let a := t.adjacency p i
  let near (partner : Option Nat) (joins : Nat → Nat → Bool) : Bool :=
    match partner with
    | none => true
    | some q => match taken[q]? with
      | none => true
      | some k => joins h k
  !taken.contains h && ((a.1.isNone && a.2.1.isNone) || a.2.2.2 == (h % 2 == 1)) && near a.1 s.seamJoins && near a.2.1 s.xJoins &&
    near a.2.2.1 s.vJoins && s.halfServes h t.positions

/-- The first mapping in lexicographic order that extends the halves taken (R298) and that is allowed as a whole; `n` logical halves are
left. -/
def State.placeFrom (s : State) (p : Bytes) (t : Tiling) (may : Nat → Bool) (whole : List Nat → Bool) : Nat → List Nat → Option (List Nat)
  | 0, taken => if whole taken then some taken else none
  | n + 1, taken => (List.range 12).findSome? fun h =>
      if may h && s.halfFits p t taken taken.length h then s.placeFrom p t may whole n (taken ++ [h]) else none

def State.place? (s : State) (p : Bytes) (t : Tiling) (may : Nat → Bool) (whole : List Nat → Bool := fun _ => true) : Option (List Nat) :=
  if s.gradeRuns t then s.placeFrom p t may whole t.numHalves [] else none

/-- HALF_MASK of the key that submitted a job (R479). -/
def State.halfMask (s : State) (fpr : Bytes) : BitVec 12 :=
  ((s.journal.keys.find? fun k => k.fpr == fpr).map (·.halfMask)).getD (BitVec.allOnes 12)

/-- A half that could ever serve: not failed, on a die that is not condemned, allowed to the key. -/
def State.halfCould (s : State) (fpr : Bytes) (h : Nat) : Bool := (s.halfMask fpr).getLsbD h && !(s.half h).failed

/-- Is a half unusable: marked so itself, or its PLL is (R540, R542, R565). -/
def State.halfUnusable (s : State) (h : Nat) : Bool := (s.half h).unusable || mget false s.clocks.pllUnusable h

/-- A half that serves now (R299, R529, R540): it could, and neither it nor its die is unusable. -/
def State.halfServing (s : State) (fpr : Bytes) (h : Nat) : Bool := s.halfCould fpr h && !s.halfUnusable h && s.dieUsable (h / 2)

def State.halfFree (s : State) (fpr : Bytes) (h : Nat) : Bool := s.halfServing fpr h && (s.halfJob? h).isNone

/-! ### Fixed allocations (R281, R532) -/

/-- Every stack that a tiling's fixed allocations name. -/
def Tiling.fixedStacks (p : Bytes) (t : Tiling) (region : List Nat) : List Nat :=
  ((List.range t.numAllocs).flatMap fun i => let a := t.alloc p i; if a.fixed then namedStacks a.placeArg region else []).eraseDups

/-- The setting of a stack's clock owner (R532): its bound half's job, else that of the other half of the die. -/
def State.ownerSetting (s : State) (region : List Nat) (n t : Nat) : Option Nat :=
  let bound := 2 * (t / 6) + (if t % 6 < 3 then 0 else 1)
  let other := bound / 2 * 4 + 1 - bound
  let one (h : Nat) : Option Nat := if region.contains h then some n else (s.halfJob? h).map fun e => e.2.setting
  match one bound with
  | some x => some x
  | none => one other

/-- A placement that a fixed-cadence job may try: none of its named stacks has a clock owner at another setting. -/
def State.ownersAgree (s : State) (p : Bytes) (t : Tiling) (region : List Nat) (n : Nat) : Bool :=
  (t.fixedStacks p region).all fun k => match s.ownerSetting region n k with | some x => x == n | none => true

/-! ### Memory demand (R172, R273, R276, R277, R155) -/

/-- Anchors of a job, and its individual start states (R169, R171): 16 bytes each. -/
def anchorBytes (m : Bytes) (b : SubmitBody) : Nat :=
  16 * ((b.replicas + 31) / 32 * ((imgBlockList m).map BlockEntry.tiles).sum + (if b.ensemble = 1 then b.replicas - 1 else 0) +
    (if b.ensemble = 2 then 1 else 0))

/-- The context area: the context with its open groups, and the context digest (R277, R582). -/
def State.contextArea (s : State) (j : Job) (t : Tiling) : Nat :=
  let m := s.model j
  let r := j.body.replicas
  let k := j.body.topkK
  let groups := 2048 * t.positions * 32 * t.numHalves
  let parts := [r * contextStateBytes m, 12 * j.ledgerReplicas, 4 * r, if j.body.ensemble = 1 then 4 * (r - 1) else 0,
    if j.body.ensemble = 2 then 8 + 24 * maxResamples m + (if j.body.resultFlags.getLsbD 0 then 2 * r * maxResamples m else 0) else 0,
    if k = 0 then 0 else 8 + 40 * k + (if j.keepsStates then k * contextStateBytes m else 0), 64, groups]
  0x300 + (parts.map align64).sum + 32

/-- Receive buffers of a group job (R431): two epochs of a channel, one in asynchronous mode. -/
def GroupState.bufferBytes (g : GroupState) : Nat :=
  (g.inbound.map fun c => (if g.async then 1 else 2) * 64 * c.2.beats).sum

def Job.groupPages (j : Job) : Nat := match j.group with | some g => pagesOf g.bufferBytes | none => 0

/-- The steps below `n` that the digest log records (R343). -/
def Job.loggedBelow (j : Job) (n : Nat) : Nat := if n ≤ j.body.digestFirst then 0 else (n - j.body.digestFirst - 1) / j.body.digestEvery + 1

/-- The size of a job's digest log: the records held and those to come, 16 bytes each and its digests (R343, R344). Before the job starts, all
its steps are to come. -/
def Job.digestLogBytes (j : Job) (blocks : Nat) : Nat :=
  let r := j.body.replicas
  let last := if j.committed = 0 ∧ j.sweepsLeftAtCommit = 0 then (j.body.params.getD 0 0).toNat else j.committed + j.sweepsLeftAtCommit
  if j.body.digestLevel = 0 then 0
  else (j.digestLog.length + (j.loggedBelow last - j.loggedBelow j.committed)) *
    (16 + (if 2 ≤ j.body.digestLevel then 8 * r else 0) + if j.body.digestLevel = 3 then 8 * r * blocks else 0)

/-- The protected items of the demand beside the ALLOCS entries, in pages, in the order of `sideItem`. -/
def State.sideList (s : State) (j : Job) (k : Nat) : List Nat :=
  let p := s.program j
  let m := s.model j
  let t := progTiling p k
  let r := j.body.replicas
  [pagesOf (if t.holdsOp p 2 0x20 then r * replicaSize m (fmtBits j.body.stateFormat) else 0),
   pagesOf (if t.holdsOp p 2 0x21 then r * replicaSize m 32 else 0), pagesOf (anchorBytes m j.body), pagesOf (s.contextArea j t),
   pagesOf (if j.keepsStates then j.body.topkK * replicaSize m 32 else 0), j.groupPages, pagesOf (j.digestLogBytes (imgBlocks m)),
   pagesOf (128 * (stepLines p m (fmtBits j.body.stateFormat) t true + if j.body.checkFraction = 0 then 0 else checkLines p t))]

/-- The items of the demand beside the ALLOCS entries, in pages: protected and unprotected. -/
def State.sidePages (s : State) (j : Job) (k : Nat) : Nat × Nat :=
  ((s.sideList j k).sum, pagesOf (128 * stepLines (s.program j) (s.model j) (fmtBits j.body.stateFormat) (progTiling (s.program j) k) false))

/-- The whole demand of a tiling in pages of a layout. A fixed allocation counts over the most stacks its masks can name. -/
def State.demandPages (s : State) (j : Job) (k : Nat) (prot : Bool) : Nat :=
  let p := s.program j
  let t := progTiling p k
  let own := ((List.range t.numAllocs).map fun i =>
    let a := t.alloc p i
    if a.unprotectedLayout == prot then 0 else pagesOf a.size).sum
  own + (if prot then (s.sidePages j k).1 else (s.sidePages j k).2)

/-- Pages of a layout that held images take. -/
def State.imagePages (s : State) (prot : Bool) : Nat :=
  ((s.objects.held.filter fun o => o.protectedLayout == prot).map fun o => o.pages.length).sum

/-- Can the module ever hold a demand (R307). -/
def State.demandPossible (s : State) (j : Job) (k : Nat) : Bool :=
  [true, false].all fun prot => decide (s.demandPages j k prot ≤ s.capacity prot - s.imagePages prot)

/-! ### Reserving memory -/

/-- What a reservation comes to: the memory, a wait for frames, or a named stack that cannot supply its share (R281). -/
inductive Reserved (α : Type) where
  | ok (a : α)
  | short
  | stack

/-- What follows a reservation that succeeded. -/
def Reserved.bind {α β : Type} : Reserved α → (α → Reserved β) → Reserved β
  | .ok a, f => f a
  | .short, _ => .short
  | .stack, _ => .stack

/-- The pages taken, or `why` where there are none. -/
def Reserved.ofOption {α : Type} (why : Reserved α) : Option α → Reserved α
  | some a => .ok a
  | none => why

/-- The three outcomes of a reservation taken apart. -/
def Reserved.elim {α β : Type} (short stack : β) (f : α → β) : Reserved α → β
  | .ok a => f a
  | .short => short
  | .stack => stack

def Reserved.isOk {α : Type} (r : Reserved α) : Bool := r.elim false false fun _ => true

/-- Every named stack with the pages of its share (R281). -/
def shareList (a : AllocEntry) (ts : List Nat) : List (Nat × Nat) :=
  ((List.range ts.length).zip ts).map fun e => (e.2, sharePages a.size (64 * 2 ^ bitField a.placeArg 18 4) ts.length e.1)

/-- One ALLOCS entry reserved anew. A named stack that has failed, or that has not the frames even when all of its own are cleared, refuses it
(R275, R281). -/
def State.reserveAlloc (s : State) (job : Nat) (a : AllocEntry) (region : List Nat) : Reserved (State × Allocation) :=
  let prot := !a.unprotectedLayout
  let base : Allocation := { size := a.size, protectedLayout := prot, fixed := a.fixed, placeArg := a.placeArg, pages := [] }
  if a.fixed then
    let ts := namedStacks a.placeArg region
    let why := if ts.any fun t => decide (0 < (s.stack t).uncleared) then .short else .stack
    if ts.any fun t => (s.stack t).failed then .stack
    else
      (Reserved.ofOption why (s.takeShares (.job job) prot (shareList a ts))).bind fun r =>
        .ok (r.1, { base with named := ts.length, pages := r.2 })
  else
    (Reserved.ofOption .short (s.takeSalted (.job job) prot (pagesOf a.size) 0)).bind fun r => .ok (r.1, { base with pages := r.2 })

/-- An allocation kept from an earlier tiling: hashed, in the same layout (R318). -/
def keptAlloc (old : Option Allocation) (a : AllocEntry) : Option Allocation :=
  old.bind fun o => if o.fixed || a.fixed || o.protectedLayout == a.unprotectedLayout then none else some o

/-- One ALLOCS entry of a new tiling, from the entry of the old one with its index: kept, resized, or copied (R318). -/
def State.remapAlloc (s : State) (j : Job) (i : Nat) (a : AllocEntry) (region : List Nat) : Reserved (State × Allocation) :=
  match keptAlloc j.allocs[i]? a with
  | some o =>
    let n := pagesOf a.size
    if n ≤ o.pages.length then .ok (s.freePages (o.pages.drop n), { o with size := a.size, placeArg := a.placeArg, pages := o.pages.take n })
    else
      (Reserved.ofOption .short (s.takeSalted (.job j.id) o.protectedLayout (n - o.pages.length) o.pages.length)).bind
        fun r => .ok (r.1, { o with size := a.size, placeArg := a.placeArg, pages := o.pages ++ r.2 })
  | none =>
    (s.reserveAlloc j.id a region).bind fun r =>
      match j.allocs[i]? with
      | none => .ok r
      | some o =>
        let s2 := r.1.copyAlloc o r.2 (min o.size r.2.size)
        .ok (s2.freePages o.pages, r.2)

/-- The entries from index `i` on, `n` of them. -/
def State.reserveList (s : State) (one : State → Nat → Reserved (State × Allocation)) : Nat → Nat → Reserved (State × List Allocation)
  | 0, _ => .ok (s, [])
  | n + 1, i => (one s i).bind fun r => (r.1.reserveList one n (i + 1)).bind fun q => .ok (q.1, r.2 :: q.2)

/-- What an item keeps when the memory follows a new tiling: everything but the anchors, which are computed again, and the staging. -/
def carriesItem (i : Nat) : Bool := i != 2 && i != 7

/-- The items beside the ALLOCS entries, placed by hash. -/
def State.reserveSide (s : State) (j : Job) (k : Nat) : Reserved (State × List PageRef) :=
  let d := s.sidePages j k
  (Reserved.ofOption .short (s.takeSalted (.job j.id) true d.1 0)).bind fun r =>
    (Reserved.ofOption .short (r.1.takeSalted (.job j.id) false d.2 d.1)).bind fun q => .ok (q.1, r.2 ++ q.2)

/-- The items of a job that holds memory already, copied with their markers into the pages of a new tiling (R318). -/
def State.carrySide (s : State) (j : Job) (k : Nat) (ps : List PageRef) : State :=
  (List.range 8).foldl (fun t i =>
    if carriesItem i then ((j.sideItem i).zip (sideItem (s.sideList j k) ps i)).foldl (fun u e => u.copyPage e.1 e.2) t else t) s

/-- A job's whole memory on a tiling and region (R273, R307, R318): reserved anew, or, for a job that holds memory already, carried over
from the tiling that it last ran. On its own tiling it keeps what it has. -/
def State.reserveJob (s : State) (j : Job) (k : Nat) (region : List Nat) : Reserved (State × List Allocation × List PageRef) :=
  let p := s.program j
  let t := progTiling p k
  let held := !j.allocs.isEmpty || !j.contextPages.isEmpty
  if held && j.tiling == k then .ok (s, j.allocs, j.contextPages)
  else
    let one (a : State) (i : Nat) : Reserved (State × Allocation) :=
      if held then a.remapAlloc j i (t.alloc p i) region else a.reserveAlloc j.id (t.alloc p i) region
    (s.reserveList one t.numAllocs 0).bind fun r =>
      (r.1.reserveSide j k).bind fun q =>
        .ok ((q.1.carrySide j k q.2).freePages (((j.allocs.drop t.numAllocs).flatMap (·.pages)) ++ j.contextPages), r.2, q.2)

/-! ### Tilings of a restore (R314 to R317) -/

/-- The context that a job starts from: what its preemption wrote, or the object it names; empty for none. -/
def State.contextOf (s : State) (j : Job) : Bytes :=
  if !j.context.isEmpty then j.context
  else if j.body.context == zeros32 then []
  else let o := s.objectBytes j.body.context; o.take (o.length - 32)

def ctxFlag (c : Bytes) (i : Nat) : Bool := bitField (leAt c 0x0C 4) i 1 == 1
def ctxStep (c : Bytes) : Nat := leAt c 0x10 8
def ctxSeed (c : Bytes) : BitVec 64 := BitVec.ofNat 64 (leAt c 0x18 8)
def ctxSweeps (c : Bytes) : Nat := leAt c 0x20 4
def ctxReplicas (c : Bytes) : Nat := leAt c 0x24 2
def ctxTiling (c : Bytes) : Nat := leAt c 0x26 1

/-- Does a restore onto tiling `k` keep the bits of an uninterrupted run (R316). -/
def State.keepsBits (s : State) (j : Job) (c : Bytes) (k : Nat) : Bool :=
  let p := s.program j
  let m := s.model j
  let t := progTiling p k
  let old := progTiling p (ctxTiling c)
  let shape (b : Nat) : Nat := leAt c (0xB0 + 2 * leAt p (old.blockMap + b) 1) 2
  k == ctxTiling c ||
    ((List.range (imgBlocks m)).all fun b => let e := t.blockClass p b; shape b == e.shape + 256 * e.parts) ||
    ((List.range (imgBlocks m)).all (fun b => !(fieldPath m b (t.blockClass p b).accPath).ordered) && energyExact p m t)

/-- The tilings that a job may take: image order, or the one pinned (R292, R298). -/
def State.tilingList (s : State) (j : Job) : List Nat :=
  if j.body.tiling = 0xFF then List.range (progTilings (s.program j)) else [j.body.tiling].filter (· < progTilings (s.program j))

/-- Could a tiling ever be placed on this part. -/
def State.everPlaced (s : State) (j : Job) (k : Nat) : Bool :=
  let p := s.program j
  (s.place? p (progTiling p k) (s.halfCould j.owner)).isSome

/-- The tilings of a job in the order it tries them (R298, R315 to R317). With a context, tilings that keep the bits are the only ones
while any of them can ever be placed; one with open groups takes no other. -/
def State.tilingOrder (s : State) (j : Job) : List Nat :=
  let c := s.contextOf j
  if c.isEmpty then s.tilingList j
  else
    let l := s.tilingList j
    if ctxFlag c 3 then l.filter (· == ctxTiling c)
    else
      let keep := l.filter (s.keepsBits j c)
      if keep.any (s.everPlaced j) then keep else if j.body.flags.getLsbD 0 then keep ++ l.filter fun k => !s.keepsBits j c k else keep

/-! ### Grants (R302, R303, R305) -/

/-- Does a job run in fixed-cadence timing when it is admitted (R320, R525). -/
def State.wantsFixed (s : State) (j : Job) : Bool :=
  progFixed (s.program j) && j.body.timing == 0 && !j.demoted && !s.power.singleFeed && !ctxFlag (s.contextOf j) 1

/-- The highest setting up to `n`, and at least 9, at which `halves` halves fit into `w` watts. -/
def highestSetting (halves w : Nat) : Nat → Option Nat
  | 0 => none
  | n + 1 => if n + 1 < 9 then none else if halves * halfWatts (n + 1) ≤ w then some (n + 1) else highestSetting halves w n

/-- Is an elastic job of lower priority still to take a lower setting. -/
def State.loweringNow (s : State) (p : Nat) : Bool :=
  s.jobList.any fun e => e.2.state.resident && !e.2.reserved && decide (e.2.body.priority < p) && decide (e.2.targetSetting < e.2.setting)

/-- A placement of a tiling on halves that a test allows, as the job engine may try it for a job (R298, R532). -/
def State.placeJob (s : State) (j : Job) (k : Nat) (may : Nat → Bool) : Option (List Nat) :=
  let p := s.program j
  let t := progTiling p k
  let fixed := s.wantsFixed j
  s.place? p t may fun region => !fixed || s.ownersAgree p t region j.body.clock

/-- Can a job be placed on the halves that are free now, on some tiling that it may take. -/
def State.placeable (s : State) (j : Job) : Bool := (s.tilingOrder j).any fun k => (s.placeJob j k (s.halfFree j.owner)).isSome

/-- The watts that lowerings under way are kept for, other than those for an entry: of the jobs that can be placed (R303, R306). -/
def State.aimedWatts (s : State) (slot : Nat) : Nat :=
  ((s.jobList.filter fun e => e.1 != slot && !e.2.state.resident && e.2.loweringFor.isSome && s.placeable e.2).map fun e => e.2.loweringFor.getD 0).sum

/-- The budget that an admission may take now. -/
def State.availWatts (s : State) (slot : Nat) : Nat := s.effectiveBudget - (s.grantedWatts + s.aimedWatts slot)

/-- Does a job's grant ever fit the effective budget with no other job resident (R305). -/
def State.powerPossible (s : State) (j : Job) (k : Nat) : Bool :=
  let n := if s.wantsFixed j then j.body.clock else 9
  decide (standingWatts + (progTiling (s.program j) k).numHalves * halfWatts n ≤ s.effectiveBudget)

end Sys2Proof.Machine
end

