-- ==== Sys2Proof/Machine/ContextLoad.lean ====
section
/-! DEFINITION. How a region is filled before word 0 (08 R222; 10 R308, R312, R314, R318, R582; 03 R67): preload, placed copies, initial
states, and the logical context read back. -/

namespace Sys2Proof.Machine

open Sys2Proof

/-! ### States -/

/-- A state table from a replica's states, for every replica. -/
def tableOf (m : Bytes) (replicas : Nat) (f : Nat → Nat → Word) : SMap Word :=
  (List.range replicas).foldl (fun a r => (List.range (imgVars m)).foldl (fun a v => mset 0 a (stateKey r v) (f r v)) a) []

/-- Bytes of input states in an input object: what follows the per-slot values (R407). -/
def Job.inputStates? (j : Job) (input : Bytes) : Bool := decide (j.betaBytes < input.length)

/-- The initial states of a job (R67). -/
def State.initialStates (s : State) (j : Job) : SMap Word :=
  let m := s.model j
  let input := s.objectBytes j.body.input
  if j.inputStates? input then tableOf m j.body.replicas fun r v => blockState m input (j.betaBytes + r * stateBytes m) v
  else tableOf m j.body.replicas fun _ v => imgInit m v

/-! ### Reading a context (R582) -/

/-- The offsets of a context's eight sections. -/
def ctxOffsets (m : Bytes) (b : SubmitBody) : List Nat :=
  let r := b.replicas
  let r' := (r + 31) / 32 * 32
  let st := contextStateBytes m
  let keeps := b.flags.getLsbD 2
  let lens := [r * st, 12 * r', 4 * r, if b.ensemble = 1 then 4 * (r - 1) else 0,
    if b.ensemble = 2 then 8 + 24 * maxResamples m + (if b.resultFlags.getLsbD 0 then 2 * r * maxResamples m else 0) else 0,
    if b.topkK = 0 then 0 else 8 + 40 * b.topkK + (if keeps then b.topkK * st else 0), 64]
  lens.foldl (fun (acc : List Nat) n => acc ++ [align64 (acc.getLast?.getD 0 + n)]) [0x300]

def ctxResamples (m c : Bytes) (b : SubmitBody) (o : Nat) : List Resample :=
  if b.ensemble = 2 then
    (List.range (leAt c o 8)).map fun i =>
      { step := leAt c (o + 8 + 24 * i) 8, lmax := BitVec.ofNat 64 (leAt c (o + 16 + 24 * i) 8), total := leAt c (o + 24 + 24 * i) 8,
        ancestors := if b.resultFlags.getLsbD 0 then
          (List.range b.replicas).map fun a => leAt c (o + 8 + 24 * maxResamples m + 2 * (b.replicas * i + a)) 2 else [] }
  else []

def ctxTopk (m c : Bytes) (b : SubmitBody) (o : Nat) : List TopkEntry :=
  if b.topkK = 0 then []
  else
    let st := contextStateBytes m
    (List.range (leAt c o 8)).map fun i =>
      let e := o + 8 + 40 * i
      { value := BitVec.ofNat 64 (leAt c e 8), step := leAt c (e + 8) 8, var := leAt c (e + 16) 8, digest := BitVec.ofNat 64 (leAt c (e + 24) 8),
        replica := leAt c (e + 32) 2, slot := leAt c (e + 34) 2,
        kept := if b.flags.getLsbD 2 then
          (List.range (imgVars m)).map fun v => (v, blockState m c (o + 8 + 40 * b.topkK + i * st) v) else [] }

def ctxCounts (c : Bytes) (o : Nat) : Counts :=
  { nonfiniteDecisions := leAt c o 8, gaussDegenerate := leAt c (o + 8) 8, intSaturations := leAt c (o + 16) 8,
    longsumWraps := leAt c (o + 24) 8, atomicWraps := leAt c (o + 32) 8, fieldNonfinite := leAt c (o + 40) 8,
    conversionSaturations := leAt c (o + 48) 8 }

/-- An energy of a context's ledger in the job's format. -/
def ctxEnergy (b : SubmitBody) (c : Bytes) (o r : Nat) : DWord :=
  BitVec.ofNat 64 (convertTo b.energyFormat (valF64 (BitVec.ofNat 64 (leAt c (o + 8 * r) 8)))).1

/-- A job as its context leaves it (R314, R318). The seed and the job parameters are the context's (log entry 33). -/
def Job.loadContext (j : Job) (m c : Bytes) : Job :=
  let b := j.body
  let os := ctxOffsets m b
  let o (i : Nat) : Nat := os.getD i 0
  let r' := j.ledgerReplicas
  let states := tableOf m b.replicas fun r v => blockState m c (o 0 + r * contextStateBytes m) v
  let perm := (List.range b.replicas).map fun a => leAt c (o 1 + 8 * r' + 2 * a) 2
  let exch : SMap Nat := if b.ensemble = 1 then (List.range (b.replicas - 1)).foldl (fun a i => mset 0 a i (leAt c (o 3 + 4 * i) 4)) [] else []
  let counts := ctxCounts c (o 6)
  let flags := leAt c (o 6 + 56) 8
  let demoted := j.demoted || ctxFlag c 1
  let retiled := j.retiled || ctxFlag c 2
  let repaired := j.copyRepaired || ctxFlag c 4
  let anc : SMap Nat := (List.range b.replicas).foldl (fun a r => mset 0 a r (leAt c (o 1 + 10 * r' + 2 * r) 2)) []
  { j with
    prelude := true,
    lastStepDigest := (digestRec m { j with seed := ctxSeed c } states (ctxStep c)).stepDigest,
    startBetas := some (ctxStep c, (List.range b.replicas).map fun a => BitVec.ofNat 32 (leAt c (o 2 + 4 * a) 4)),
    seed := ctxSeed c, body := { b with params := (List.range 8).map fun k => BitVec.ofNat 32 (leAt c (0x90 + 4 * k) 4) },
    step := ctxStep c, committed := ctxStep c, sweepsLeft := ctxSweeps c, sweepsLeftAtCommit := ctxSweeps c,
    cadence := leAt c 0x68 8, heldCycles := leAt c 0x70 8, epoch := leAt c 0x78 8, committedEpoch := leAt c 0x78 8,
    demoted := demoted, demoteStep := if j.demoted then j.demoteStep else if demoted then leAt c 0x80 8 else 0,
    demoteCause := if j.demoted then j.demoteCause else leAt c 0x2B0 1,
    retiled := retiled, retileStep := if j.retiled then j.retileStep else if retiled then leAt c 0x88 8 else 0,
    copyRepaired := repaired, copyRepairStep := if j.copyRepaired then j.copyRepairStep else if repaired then leAt c 0x2B8 8 else 0,
    syncUpdate := j.syncUpdate || flags % 2 == 1, arrivalFp := j.arrivalFp || flags / 2 % 2 == 1,
    states := states, statesAtCommit := states, perm := perm, permAtCommit := perm, permStep := perm, exchAccepts := exch, exchAtCommit := exch,
    energies := (List.range b.replicas).foldl (fun a r => mset 0 a r (ctxEnergy b c (o 1) r)) [],
    ancestors := anc, ancestorsAtCommit := anc,
    resamples := ctxResamples m c b (o 4), topk := ctxTopk m c b (o 5), counts := counts, countsAtCommit := counts }

/-- A group read from 32 bytes of a context. -/
def ctxGroup (c : Bytes) (o : Nat) (fmt : Option AuxFmt) : Group :=
  { reg := BitVec.ofNat 128 (leAt c o 16), isOpen := leAt c (o + 16) 1 == 1, sticky := leAt c (o + 17) 1 == 1,
    fmt := fmt.getD (match leAt c (o + 18) 1 with | 1 => .longsum | 2 => .f32 | 3 => .f64 | _ => .int) }

/-! ### Filling the region (R222, R308) -/

/-- A core of a job's region at a logical position changed by `f`. -/
def State.modAtPos (s : State) (k pos : Nat) (f : Core → Core) : State :=
  match (s.cluster k).coreMap.getD pos none with
  | some n => s.modCluster k fun c => { c with cores := mmod {} c.cores n f }
  | none => s

/-- One preload run written to its core. -/
def State.preloadRun (s : State) (j : Job) (r : PreloadRun) : State :=
  s.modAtPos (j.runCluster r) r.core fun c =>
    if r.kind = 0 then { c with playa := writeBytes c.playa (64 * r.first) r.data }
    else { c with slots := (List.range (r.data.length / 4)).foldl (fun m i =>
      mset {} m (16 * r.first + i) { cur := BitVec.ofNat 32 (leAt r.data (4 * i) 4) }) c.slots }

/-- The word of a location of the state map: the states of the job's replicas that it holds. -/
def Job.locWord (j : Job) (x : StateLoc) : Word :=
  BitVec.ofNat 32 ((x.states.filter fun e => decide (e.rep < j.body.replicas)).foldl (fun a e =>
    a + (mget 0 j.states (stateKey e.rep e.var)).toNat % 2 ^ e.bits * 2 ^ e.lo) 0)

/-- The kind of the states of a location, by the block of a variable in it. -/
def StateLoc.tag (m : Bytes) (x : StateLoc) : Option StateTag :=
  x.states.head?.map fun e => let b := imgBlock m (imgBlockOf m e.var); { kind := b.kind, km1 := b.km1 }

/-- A state placed at its location. -/
def State.placeLoc (s : State) (j : Job) (x : StateLoc) : State :=
  let h := j.region.getD x.half 0
  let k := 64 * (h / 2) + x.cluster / 8 * 8 + x.cluster % 4 + 4 * (h % 2)
  let w := j.locWord x
  s.modAtPos k x.core fun c =>
    if x.playa then { c with playa := writeBytes c.playa (64 * x.line + 4 * x.word) (leBytes 4 w.toNat) }
    else { c with slots := mset {} c.slots (16 * x.line + x.word) { cur := w, curTag := x.tag (s.model j) } }

/-- The cluster at slice `k` of a physical half: ascending cluster number (R245). -/
def halfSliceKey (h k : Nat) : Nat := 64 * (h / 2) + k / 4 * 8 + k % 4 + 4 * (h % 2)

/-- The allocations that hold a placed copy of the model image (R196). -/
def Tiling.placedCopies (p : Bytes) (t : Tiling) : List Nat :=
  if progFixed p then (((List.range t.numSegments).map (t.segment p)).filterMap fun g => if g.src = 0 then some g.alloc else none).eraseDups
  else []

/-- A placed copy made of the model image, read from the frames that hold it, with their markers (R196, R261). -/
def State.placeCopy (s : State) (j : Job) (i : Nat) : State :=
  let m := s.model j
  match (s.object? j.body.model).map (·.pages) with
  | some (p0 :: ps) =>
    (List.range ((imgSize m + 63) / 64)).foldl (fun t n =>
      match (p0 :: ps)[64 * n / pageBytes]?, j.locate i (64 * n) with
      | some p, some q => t.copyLine p (64 * n % pageBytes) q.1 q.2
      | _, _ => t) s
  | _ => s.fillAlloc j i (m.take (imgSize m))

/-- The open groups of a context loaded lane for lane (R317). -/
def State.loadGroups (s : State) (j : Job) (m c : Bytes) : State :=
  if ctxFlag c 3 then
    let o := (ctxOffsets m j.body).getD 7 0
    let cores := s.jobCores j
    ((List.range cores.length).zip cores).foldl (fun t e =>
      t.modAtPos e.2.1 e.2.2 fun x =>
        let gs := (List.range 32).map fun l =>
          (l, ctxGroup c (o + 2048 * e.1 + 64 * l) (some .int), ctxGroup c (o + 2048 * e.1 + 64 * l + 32) none)
        { x with
          lanes := gs.foldl (fun a g => mmod {} a g.1 fun (y : Lane) => { y with statistic := g.2.1, auxiliary := g.2.2 }) x.lanes,
          groupsAtCommit := (gs.filter fun g => g.2.1 != {} || g.2.2 != {}).map fun g =>
            { lane := g.1, statistic := g.2.1, auxiliary := g.2.2 } }) s
  else s

/-- The slot memories of a region filled from its tiling before word 0 (R15, R175 to R177): the control slices of every half, and the slices of its
clusters. -/
def State.fillSlots (s : State) (j : Job) : State :=
  let p := s.program j
  let t := s.tilingOf j
  ((List.range j.region.length).zip j.region).foldl (fun a e =>
    let words (f : Nat → Nat) : SMap (BitVec 128) := (List.range t.words).foldl (fun m w => mset 0 m w (BitVec.ofNat 128 (f w))) []
    let a1 := a.modHalf e.2 fun h => { h with controlMem := words (t.control p e.1) }
    (List.range 32).foldl (fun b k => b.modCluster (halfSliceKey e.2 k) fun c => { c with slotMem := words fun w => t.slice p e.1 w k }) a1) s

/-- A job's sequencer before word 0 (R178, R308, R318). -/
def Job.atWordZero (j : Job) : Job :=
  { j with pc := 0, loops := [], waiting := .no, hold := none, phase := 0, phaseBit := false, stepEnds := [], shadows := [], areaWrites := [],
           checks := [], segments := [], inFlight := [], trees := [], ledgerLine := none, topkOffers := [], failures := 0, failedStep := none, relocking := false,
           seeded := true }

/-- The purpose of the draws of a block (R76, R166). -/
def updatePurpose (k : BlockEntry) (rule : Nat) : Nat := if k.kind = 2 then 2 else if k.kind = 1 ∧ rule ≠ 1 then 1 else 0

/-- The anchors of a job: for each replica group, block and tile row, the start state under the block's purpose (R169). -/
def Job.anchorList (j : Job) (m p : Bytes) (t : Tiling) : List (BitVec 128) :=
  (List.range ((j.body.replicas + 31) / 32)).flatMap fun g => (List.range (imgBlocks m)).flatMap fun a =>
    let k := imgBlock m a
    (List.range ((k.size + 31) / 32)).map fun q =>
      BitVec.ofNat 128 (streamStart (seedState j.seed) (streamIndex (32 * g) (k.base + 32 * q) (updatePurpose k (t.blockClass p a).rule)))

/-- The individual start states: those of the slot pairs' exchange streams, or of the resampling stream (R163, R169). -/
def Job.startList (j : Job) : List (BitVec 128) :=
  let start (rho purpose : Nat) : BitVec 128 := BitVec.ofNat 128 (streamStart (seedState j.seed) (streamIndex rho 0 purpose))
  match j.body.ensemble with
  | 1 => (List.range (j.body.replicas - 1)).map fun a => start a 3
  | 2 => [start 0 4]
  | _ => []

/-- What the stream seeder leaves in a job's memory: anchors and start states still held there are used again (R171, R173). -/
def Job.withAnchors (j : Job) (m p : Bytes) (t : Tiling) : Job :=
  if j.anchors.isEmpty then { j with anchors := j.anchorList m p t, starts := j.startList } else j

def Job.withStats (j : Job) (p : Bytes) (t : Tiling) : Job := { j with statAllocs := Machine.statAllocs p t }

/-- The context that a job starts from, as its frames hold it (R277): that of a preemption is read back from the context area. -/
def State.contextRead (s : State) (j : Job) : Bytes :=
  if j.context.isEmpty || (j.sideItem 3).isEmpty then s.contextOf j else s.readPages (j.sideItem 3) j.context.length

/-- What filling writes into a job's region: cleared, its slot memories, its preload, its placed copies and the state of every location
of the state map. -/
def State.fillData (s : State) (j : Job) (p : Bytes) (t : Tiling) : State :=
  let s1 := (t.preloads p).foldl (fun a r => a.preloadRun j r) ((s.clearRegion j.region).fillSlots j)
  let s2 := (t.placedCopies p).foldl (fun a i => a.placeCopy j i) s1
  (stateMap p t).foldl (fun a x => a.placeLoc j x) s2

/-- A job's stream anchors and start states, written into its memory once (R171, R173): `j0` is the job before it is filled. -/
def State.fillAnchors (s : State) (j0 j : Job) : State :=
  if j0.anchors.isEmpty then s.storePages (j.sideItem 2) 0 ((j.anchors ++ j.starts).flatMap fun x => leBytes 16 x.toNat) else s

/-- The region of a job filled, with the job's own values: preload, placed copies, and the states at every location of the state map,
from the context the job starts from or from its initial states. -/
def State.fillRegion (s : State) (slot : Nat) : State :=
  match s.job? slot with
  | none => s
  | some j0 =>
    let p := s.program j0
    let m := s.model j0
    let t := s.tilingOf j0
    let c := s.contextRead j0
    let j1 :=
      if c.isEmpty then
        let st := s.initialStates j0
        { j0 with states := st, statesAtCommit := st, sweepsLeft := (j0.body.params.getD 0 0).toNat,
                  sweepsLeftAtCommit := (j0.body.params.getD 0 0).toNat }
      else j0.loadContext m c
    let j := (j1.atWordZero.withAnchors m p t).withStats p t
    let s1 := (s.fillData j p t).fillAnchors j0 j
    (if c.isEmpty then s1 else s1.loadGroups j m c).setJob slot j

end Sys2Proof.Machine
end

