-- ==== Sys2Proof/Machine/Admission.lean ====
section
/-! DEFINITION. Admission (10 R299, R303, R306, R307, R311, R315 to R318): the plan for one job, its preemption of others, and the pass
over the waiting jobs. -/

namespace Sys2Proof.Machine

open Sys2Proof

/-! ### The plan for one job -/

/-- What an admission comes to: a tiling, region and setting; a lowering of elastic settings for the watts named; nothing now. -/
inductive Plan where
  | go (tiling : Nat) (region : List Nat) (setting : Nat)
  | lower (watts : Nat)
  | wait
  deriving DecidableEq, Repr

/-- The plan for one tiling on free halves (R298, R303). -/
def State.planTiling (s : State) (slot : Nat) (j : Job) (k : Nat) : Plan :=
  match s.placeJob j k (s.halfFree j.owner) with
  | none => .wait
  | some region =>
    let n := region.length
    let aim := n * halfWatts j.body.clock
    let avail := s.availWatts slot
    if aim ≤ avail then .go k region j.body.clock
    else if s.loweringNow j.body.priority || s.lowerable j.body.priority != 0 then .lower aim
    else if s.wantsFixed j then .wait
    else match highestSetting n avail j.body.clock with
      | some x => .go k region x
      | none => .wait

/-- The first tiling in order with a plan. -/
def State.planJob (s : State) (slot : Nat) (j : Job) : List Nat → Plan
  | [] => .wait
  | k :: ks =>
    match s.planTiling slot j k with
    | .wait => s.planJob slot j ks
    | p => p

/-! ### Entering the region (R299, R302, R307, R315) -/

/-- Does the context of a job bring it onto a tiling that does not keep the bits (R316). -/
def State.retiles (s : State) (j : Job) (k : Nat) : Bool :=
  let c := s.contextOf j
  !c.isEmpty && !s.keepsBits j c k

/-- The halves of a region asked for at a setting: those at another setting relock (R299, R304). -/
def State.wakeHalves (s : State) (region : List Nat) (n : Nat) : State :=
  region.foldl (fun t h => t.modHalf h fun x => if x.setting = n then x else { x with setting := n, locked := false }) s

/-- A job as it enters ADMITTING or RESTORING; a fixed-cadence job's rate of atomic operations is reserved (R26). -/
def Job.entered (j : Job) (k : Nat) (region : List Nat) (n admission : Nat) (fixed retiles : Bool) (step rate : Nat) (allocs : List Allocation)
    (ctx : List PageRef) (counts : List Nat) : Job :=
  { j with
    sideCounts := counts, anchors := if ctx = j.contextPages then j.anchors else [],
    state := if j.state = .preempted then .restoring else .admitting, tiling := k, region := region, setting := n, targetSetting := n,
    reserved := fixed, fixedNow := fixed, atomRate := if fixed then rate else 0, atomSent := [], admission := admission, waitLimit := false, waitedNs := 0, loweringFor := none,
    preemptPending := false, seeded := false, allocs := allocs, contextPages := ctx,
    retiled := j.retiled || retiles, retileStep := if retiles && !j.retiled then step else j.retileStep }

/-- A job admitted: its memory is reserved, its grant taken, its halves woken. Without frames it waits; a named stack that cannot supply
its share ends it (R281). -/
def State.enter (s : State) (slot : Nat) (j : Job) (k : Nat) (region : List Nat) (n : Nat) : State :=
  (s.reserveJob j k region).elim s (s.endJob slot 0x0903 0 0) fun r =>
    let p := s.program j
    let counts := if r.2.2 = j.contextPages then j.sideCounts else s.sideList j k ++ [(s.sidePages j k).2]
    let j1 := (j.entered k region n s.jobs.admissions (s.wantsFixed j) (s.retiles j k) (ctxStep (s.contextOf j)) (progAtomRate p) r.2.1 r.2.2
      counts).withProgram p [progTiling p k]
    ((r.1.onJobs fun e => { e with admissions := e.admissions + 1 }).wakeHalves region n).setJob slot j1

/-! ### Preemption of others (R311) -/

def subsets {α : Type} : List α → List (List α)
  | [] => [[]]
  | a :: l => let r := subsets l; r ++ r.map (a :: ·)

/-- Would the halves of a set of jobs give a job a placement, memory and grant. -/
def State.setGives (s : State) (slot : Nat) (j : Job) (set : List (Nat × Job)) : Bool :=
  let may (h : Nat) : Bool := s.halfServing j.owner h &&
    (match s.halfJob? h with | none => true | some e => set.any fun x => x.1 == e.1)
  let freed := (set.map fun e => e.2.grant).sum
  let others := ((s.elasticOrder.filter fun e => decide (e.2.body.priority < j.body.priority) && !set.any fun x => x.1 == e.1).map fun e =>
    10 * e.2.region.length * (e.2.targetSetting - 9)).sum
  (s.tilingOrder j).any fun k =>
    match s.placeJob j k may with
    | none => false
    | some region =>
      let need := region.length * halfWatts (if s.wantsFixed j then j.body.clock else 9)
      decide (need ≤ s.availWatts slot + freed + others) && (s.reserveJob j k region).isOk

/-- Is a set preferred to another. -/
def preferSet (a b : List (Nat × Job)) : Bool :=
  let top (l : List (Nat × Job)) : Nat := l.foldl (fun m e => max m e.2.body.priority) 0
  let times (l : List (Nat × Job)) : List Nat := sortBy (fun x y : Nat => decide (y < x)) (l.map fun e => e.2.admission)
  let rec later : List Nat → List Nat → Bool
    | x :: xs, y :: ys => decide (y < x) || (x == y && later xs ys)
    | _, _ => false
  decide (top a < top b) ||
    (top a == top b && (decide (a.length < b.length) || (a.length == b.length && later (times a) (times b))))

def bestSet : List (List (Nat × Job)) → Option (List (Nat × Job))
  | [] => none
  | a :: l => match bestSet l with
    | none => some a
    | some b => if preferSet a b || !preferSet b a then some a else some b

/-- The jobs that are on their way out already. -/
def State.leaving (s : State) : List (Nat × Job) :=
  s.jobList.filter fun e => e.2.state == .preempting || (e.2.state == .running && e.2.preemptPending)

/-- The grant that the arbiter aims at for a job: at its CLOCK setting, on the first tiling that it would take (R303). -/
def State.aim (s : State) (j : Job) : Nat := (progTiling (s.program j) ((s.tilingOrder j).getD 0 0)).numHalves * halfWatts j.body.clock

/-- A job that cannot be placed on free halves asks a set of others to stop (R311). While the halves of jobs that are stopping suffice, it
waits for them. What they give back raises no other job's setting meanwhile. -/
def State.preemptFor (s : State) (slot : Nat) (j : Job) : State :=
  let waits (t : State) : State := t.modJob slot fun x => { x with loweringFor := some (s.aim j) }
  if s.setGives slot j s.leaving then waits s
  else
    let may := s.jobList.filter fun e =>
      e.2.state == .running && decide (e.2.body.priority < j.body.priority) && s.preemptible e.2
    match bestSet ((subsets may).filter fun x => !x.isEmpty && s.setGives slot j x) with
    | none => s
    | some set => waits (set.foldl (fun t e => t.modJob e.1 fun x => { x with preemptPending := true }) s)

/-! ### One job considered -/

/-- Why a job with a context can run no more: only tilings that change its bits are left and it did not accept them (R316), or its open
groups need a tiling that can never be placed (R317). -/
def State.contextStuck (s : State) (j : Job) : Option Nat :=
  let c := s.contextOf j
  if c.isEmpty then none
  else
    let l := s.tilingList j
    if ctxFlag c 3 then
      if l.any (s.everPlaced j) && !(l.filter (· == ctxTiling c)).any (s.everPlaced j) then some 0x0208 else none
    else if j.body.flags.getLsbD 0 then none
    else if l.any (s.everPlaced j) && !(l.filter (s.keepsBits j c)).any (s.everPlaced j) then some 0x0206
    else none

/-- One waiting job tried: admitted, settings lowered for it, others asked to stop, or left waiting. A job with an end or a cancel still pending
ends (R294, R295). -/
def State.tryAdmit (s : State) (slot : Nat) (j : Job) : State :=
  match (j.endAsked.or (if j.cancelPending then some (0x020A, 0, 0) else none)).or ((s.contextStuck j).map fun st => (st, 0, 0)) with
  | some e => s.endJob slot e.1 e.2.1 e.2.2
  | none =>
    match s.planJob slot j (s.tilingOrder j) with
    | .go k region n => s.enter slot j k region n
    | .lower w => (s.lowerFor j.body.priority w).modJob slot fun x => { x with loweringFor := some w }
    | .wait =>
      let s1 := s.modJob slot fun x => { x with loweringFor := none }
      if s.placeable j then s1 else s1.preemptFor slot j

/-- The WAITING and PREEMPTED jobs that are not held: descending priority, then ascending sequence number (R306, R335). -/
def State.waitingOrder (s : State) : List (Nat × Job) :=
  sortBy (fun a b : Nat × Job => decide (b.2.body.priority < a.2.body.priority) ||
      (a.2.body.priority == b.2.body.priority && decide (a.2.seq < b.2.seq)))
    (s.jobList.filter fun e => (e.2.state == .waiting || e.2.state == .preempted) && !e.2.heldBySuspend)

/-- Is a job held back by one that has waited 10 s: of equal or lower priority, and later. -/
def heldBack (blockers : List Job) (j : Job) : Bool :=
  blockers.any fun b => decide (j.body.priority ≤ b.body.priority) && decide (b.seq < j.seq)

/-- The waiting jobs considered in turn (R306). -/
def admitPass : List (Nat × Job) → List Job → State → State
  | [], _, s => s
  | e :: es, blockers, s =>
    match s.job? e.1 with
    | none => admitPass es blockers s
    | some j =>
      if heldBack blockers j then admitPass es blockers s
      else
        let s1 := s.tryAdmit e.1 j
        let still := (s1.job? e.1).any fun x => x.id == j.id && !x.state.resident && x.state != .ended
        admitPass es (if still && j.waitLimit then blockers ++ [j] else blockers) s1

/-- The pass, unless the hub is not ready or runs alone (R6). -/
def State.admitJobs (s : State) : State :=
  if s.config.hubReady && !s.config.hubOnly then (admitPass s.waitingOrder [] s).raiseFree else s

end Sys2Proof.Machine
end

