-- ==== Sys2Proof/Machine/Memory.lean ====
section
/-! DEFINITION. The events of the Tielux stacks (09; 10 R321; 17 R533): decoding a sector, write-backs, refresh, sparing, scrub,
clearing, temperature, moves of degraded stripes, imbalance. -/

namespace Sys2Proof.Machine

open Sys2Proof

/-! ### Rows, banks and dies (R252 to R254, R265) -/

/-- The bank of a sector, numbered within its stack: rank, channel, bank group, bank. -/
def bankOf (frame sector : Nat) : Nat :=
  let o := 32 * sector
  let channel := bitField o 6 5 ^^^ bitField o 11 5 ^^^ bitField o 16 5
  ((frame % 3 * 32 + channel) * 4 + bitField o 11 2) * 4 + bitField o 13 2

/-- The row of a sector, numbered within its stack. -/
def rowOf (frame sector : Nat) : Nat := bankOf frame sector * 65536 + frame / 3

/-- The bank group of a bank. -/
def bankGroup (bank : Nat) : Nat := bank / 4 % 4

/-- The data die that holds a bank. -/
def bankDie (bank : Nat) : Nat := 8 * (bank / 512) + bank / 16 % 32 / 4

/-! ### Spare die and spare rows (R265 to R267) -/

/-- A data die lost: G24 starts to replace it, or, in service for another die already, leaves the stack failed. -/
def State.loseDataDie (s : State) (t g : Nat) : State :=
  let k := s.stack t
  if k.spareState = .unused then
    (s.modStack t fun x => { x with sparedDie := g, spareState := .copying, spareCopyFrame := 0 }).log
      { code := 0x0912, severity := 1, kind := 5, unit := unitWord t 0xFF 0xFF 0xFF, detail := BitVec.ofNat 64 g }
  else if k.sparedDie = g then s
  else s.failStack t

/-- The fewest spare rows left in any bank: none where a bank group's region is marked unusable (R543). -/
def Stack.leastLeft (k : Stack) (used : SMap Nat) : Nat :=
  if k.badRegions.isEmpty then used.foldl (fun a e => min a (64 - e.2)) 64 else 0

/-- A row copied to a spare row of its bank and remapped; a region marked unusable gives none. A bank that has used its last one brings the
spare die in for its die, if that is unused. -/
def State.spareRow (s : State) (t row : Nat) : State :=
  let b := row / 65536
  let used := mget 0 (s.stack t).spareRows b
  if 64 ≤ used ∨ (s.stack t).badRegions.contains (bankGroup b) then s
  else
    let m := mset 0 (s.stack t).spareRows b (used + 1)
    let s1 := s.modStack t fun x =>
      { x with spareRows := m, spareRowsLeft := x.leastLeft m, rowsSpared := satAdd 16 x.rowsSpared 1,
               rowErrors := mset [] x.rowErrors row [] }
    let s2 := s1.log { code := 0x0911, severity := 1, kind := 5, unit := unitWord t 0xFF 0xFF 0xFF, detail := BitVec.ofNat 64 row }
    if used + 1 = 64 ∧ (s.stack t).spareState = .unused then s2.loseDataDie t (bankDie b) else s2

/-- A row due for a spare row at its bank group's next window. -/
def Stack.dueRow (k : Stack) (row : Nat) : Stack := { k with rowsToSpare := if k.rowsToSpare.contains row then k.rowsToSpare else k.rowsToSpare ++ [row] }

/-- A corrected error of a row: four of them within 24 hours make it due (R265). -/
def Stack.noteRowError (k : Stack) (row now : Nat) : Stack :=
  let times := ((mget [] k.rowErrors row).filter fun x => decide (now < x + 86400000000000)) ++ [now]
  let k1 := { k with rowErrors := mset [] k.rowErrors row times }
  if 4 ≤ times.length then k1.dueRow row else k1

/-! ### Decoding a sector (R257, R258) -/

/-- The wrong symbols of a codeword: errors at one place add up. -/
def wrongSymbols (es : List SymbolError) : List (Nat × Nat) :=
  ((List.range 20).map fun i => (i, (es.filter fun e => e.place.val == i).foldl (fun a e => a ^^^ e.value.toNat) 0)).filter fun e => e.2 != 0

/-- What the decoder makes of a codeword. -/
inductive Decoded where
  | clean | corrected | detected
  /-- three or more wrong symbols taken for fewer: the word delivered is not the one stored -/
  | miscorrected
  deriving DecidableEq, Repr

/-- The outcome for a number of wrong symbols. What three or more come to is a free value (R257). -/
def State.decodeCount (s : State) (n : Nat) : Decoded × State :=
  if n = 0 then (.clean, s)
  else if n = 1 then (.corrected, s)
  else if n = 2 then (.detected, s)
  else (if (Config.cellByte s.free 0).getLsbD 0 then .miscorrected else .detected, { s with free := s.free + 1 })

/-- A sector's 32 bytes put into a frame, its tag as it stands. -/
def State.putSector (s : State) (t f sector v : Nat) : State :=
  { s with mem := writeBytes s.mem (memKey t f (32 * sector)) (leBytes 32 v) }

def State.setTag (s : State) (t f sector : Nat) (g : SectorTag) : State :=
  s.modStack t fun k => { k with tags := mset {} k.tags (tagKey f sector) g }

/-- A sector that was miscorrected: data and tag are free values, delivered and written back. -/
def State.miscorrect (s : State) (t f sector : Nat) : State :=
  let v := leNat ((List.range 32).map (Config.cellByte s.free))
  let g := leNat ((List.range 2).map fun i => Config.cellByte s.free (32 + i))
  (({ s with free := s.free + 1 } : State).putSector t f sector v).setTag t f sector { mirage := 32768 ≤ g, gen := g % 32768 }

/-- A corrected sector counted, and its write-back pending (R258, R260, R265). -/
def State.noteCorrected (s : State) (t f sector : Nat) : State :=
  s.modStack t fun k =>
    let k1 := { k with ceCount := satAdd 32 k.ceCount 1, writebacks := if k.writebacks.contains (tagKey f sector) then k.writebacks else k.writebacks ++ [tagKey f sector] }
    k1.noteRowError (rowOf f sector) s.nowNs

/-- Can a sector be reconstructed: its frame is one of a protected stripe, whose other frames all give theirs (R258). -/
def State.canReconstruct (s : State) (t f sector : Nat) : Bool := (s.frameEntry t f).protectedLayout && s.matesGive t f sector

/-- A sector reconstructed from its parity group and written back (R258, R277, R284). -/
def State.reconstruct (s : State) (t f sector : Nat) : State :=
  ((s.putSector t f sector (s.mateSum t f sector)).setTag t f sector { gen := (s.frameEntry t f).gen }).modStack t fun k =>
    { k with reconCount := satAdd 32 k.reconCount 1 }

/-- Images with a page in a frame marked DAMAGED (R263). -/
def State.damageFrame (s : State) (t f : Nat) : State :=
  let mark (o : HeldObject) : HeldObject := if o.pages.contains { stack := t, frame := f } then { o with damaged := true } else o
  s.onObjects fun x => { x with held := x.held.map mark }

/-- The data symbols of a sector as read: places 0 to 15 are the data in order, 16 the tag, the others the check symbols (log entry
32). -/
def asRead (v : Nat) (wrong : List (Nat × Nat)) : Nat :=
  wrong.foldl (fun a e => if e.1 < 16 then a ^^^ (e.2 * 2 ^ (16 * e.1)) else a) v

/-- A sector marked with a mirage: the data as read, the marker set, the event logged, an image damaged (R258, R263). One that is marked already
stays so, and is not counted again (R272). -/
def State.markMirage (s : State) (t f sector : Nat) (wrong : List (Nat × Nat)) : State :=
  let s0 := (s.putSector t f sector (asRead (s.rawSector t f sector) wrong)).setTag t f sector { mirage := true, gen := (s.frameEntry t f).gen }
  let s1 := s0.modStack t fun k => { k with mirageCount := satAdd 32 k.mirageCount 1 }
  if s.rawSectorPoison t f sector then s0
  else
    (s1.log { code := 0x0916, severity := 2, kind := 5, unit := unitWord t 0xFF 0xFF 0xFF,
              detail := BitVec.ofNat 64 (f * 65536 + sector) }).damageFrame t f

/-- Two or more wrong symbols: the sector is reread once, and what that does not resolve is reconstructed or marked (R258). The row
has reached the third row of R258 and is spared (R265). -/
def State.reread (s : State) (t f sector : Nat) (again : List (Nat × Nat)) : State :=
  let s1 := s.modStack t fun k => ({ k with retryCount := satAdd 32 k.retryCount 1 } : Stack).dueRow (rowOf f sector)
  let d := s1.decodeCount again.length
  match d.1 with
  | .clean => d.2.modStack t fun k =>
      { k with writebacks := if k.writebacks.contains (tagKey f sector) then k.writebacks else k.writebacks ++ [tagKey f sector] }
  | .corrected => d.2.noteCorrected t f sector
  | .miscorrected => (d.2.miscorrect t f sector).noteCorrected t f sector
  | .detected => if d.2.canReconstruct t f sector then d.2.reconstruct t f sector else d.2.markMirage t f sector again

/-- A sector of a serving stack treated by R258. -/
def State.treatSector (s : State) (t f sector : Nat) (raw : SectorRaw) (job : Option (Fin 4096)) : State :=
  if s.sectorCurrent t f sector = false then s
  else
    let first := wrongSymbols raw.first
    let d := s.decodeCount first.length
    match d.1 with
    | .clean => d.2
    | .corrected => d.2.noteCorrected t f sector
    | .miscorrected => (d.2.miscorrect t f sector).noteCorrected t f sector
    | .detected => (d.2.reread t f sector (wrongSymbols raw.again)).latencyHold job

/-- A read of a sector (R258, R266, R284). On a failed stack a protected sector is served by a degraded read, which is counted and adds
latency; an unprotected one is lost, and nothing is read. -/
def State.sectorRead (s : State) (r : SectorRef) (raw : SectorRaw) (job : Option (Fin 4096)) : State :=
  let t := r.stack.val
  if (s.stack t).failed then
    if (s.frameEntry t r.frame).protectedLayout then
      (s.modStack t fun k => { k with reconCount := satAdd 32 k.reconCount 1 }).latencyHold job
    else s
  else
    let s1 := if raw.dieFailed then s.loseDataDie t (bankDie (bankOf r.frame r.sector.val)) else s
    if (s1.stack t).failed then s1 else s1.treatSector t r.frame r.sector.val raw job

def execSectorRead (r : SectorRef) (raw : SectorRaw) (job : Option (Fin 4096)) (s : State) : Host.Outcome State Fault Refusal :=
  if r.frame < stackFrames then .next (s.sectorRead r raw job) else .fault (.noSuchFrame r.stack.val r.frame)

/-- A pending corrected write-back is made in its bank group's window (R258, R260). The sector holds the corrected data already; one
that a write has superseded is pending no more. -/
def execCorrectedWriteback (r : SectorRef) (s : State) : Host.Outcome State Fault Refusal :=
  if r.frame < stackFrames then
    .next (s.modStack r.stack.val fun k => { k with writebacks := k.writebacks.filter fun w => w != tagKey r.frame r.sector.val })
  else .fault (.noSuchFrame r.stack.val r.frame)

/-! ### Refresh (R265, R268 to R270, R321) -/

/-- One more frame of a copy to G24 under way (R266): the copy goes on in idle slots, which the model counts by the refresh windows (log entry 90). -/
def Stack.copyOn (k : Stack) : Stack :=
  if k.spareState = .copying then { k with spareCopyFrame := min stackFrames (k.spareCopyFrame + 1) } else k

/-- A bank group's window: it is refreshed, and the rows of it that are due are spared. A failed stack, and one in self-refresh, has no
window. -/
def State.refreshWindow (s : State) (t b : Nat) : State :=
  if (s.stack t).failed ∨ (s.stack t).selfRefresh then s
  else
    let due := (s.stack t).rowsToSpare.filter fun r => bankGroup (r / 65536) == b
    due.foldl (fun a r => a.spareRow t r) (s.modStack t fun k =>
      { k.copyOn with refreshes := satAdd 64 k.refreshes 1, rowsToSpare := k.rowsToSpare.filter fun r => bankGroup (r / 65536) != b })

/-- Does a fixed allocation of a job lie on a stack (R196, R281): these are the stacks that its caravans read. -/
def Job.namesStack (j : Job) (t : Nat) : Bool := j.allocs.any fun a => a.fixed && a.pages.any fun p => p.stack == t

/-- Does a stack serve a fixed-cadence job: a fixed allocation of one names it (R270, R281). -/
def State.servesFixed (s : State) (t : Nat) : Bool :=
  s.jobList.any fun e => e.2.state.resident && e.2.fixedCadence && e.2.namesStack t

/-- A window that the base die places (R269); while the stack serves a fixed-cadence job the program places them all (R270). -/
def execRefreshWindow (stack : Fin 36) (bank : Fin 4) (s : State) : Host.Outcome State Fault Refusal :=
  .next (if s.servesFixed stack.val then s else s.refreshWindow stack.val bank.val)

/-- The windows of a fixed-cadence job at its present cadence cycle (R321). -/
def refreshDue (n c b : Nat) : Bool := decide (((c : Int) - b * (390 * n / 4)) % (390 * n) < 35 * n)

/-- A program-placed window falls due on the stacks that serve the job, at a cadence cycle that R321 gives it. -/
def State.fixedRefresh (s : State) (slot b : Nat) : State :=
  match s.job? slot with
  | none => s
  | some j =>
    if j.fixedCadence && j.state == .running && refreshDue j.setting j.cadence b then
      (List.range 36).foldl (fun a t => if j.namesStack t then a.refreshWindow t b else a) s
    else s

def execFixedCadenceRefresh (job : Fin 4096) (bank : Fin 4) (s : State) : Host.Outcome State Fault Refusal :=
  .next (s.fixedRefresh job.val bank.val)

/-! ### Sparing and failure (R266, R267, R285) -/

/-- The copy to G24 completes: it serves in place of its die, with spare rows of its own. -/
def State.dieSpareDone (s : State) (t : Nat) : State :=
  let k := s.stack t
  if k.spareState = .copying then
    let m := k.spareRows.filter fun e => bankDie e.1 != k.sparedDie
    (s.modStack t fun x => { x with spareState := .inService, spareCopyFrame := stackFrames, spareRows := m, spareRowsLeft := x.leastLeft m,
                                    rowErrors := x.rowErrors.filter fun e => bankDie (e.1 / 65536) != k.sparedDie,
                                    rowsToSpare := x.rowsToSpare.filter fun r => bankDie (r / 65536) != k.sparedDie }).log
      { code := 0x0912, severity := 1, kind := 5, unit := unitWord t 0xFF 0xFF 0xFF, detail := BitVec.ofNat 64 k.sparedDie }
  else s

def execDieSpareDone (stack : Fin 36) (s : State) : Host.Outcome State Fault Refusal := .next (s.dieSpareDone stack.val)

def execStackFailed (stack : Fin 36) (s : State) : Host.Outcome State Fault Refusal := .next (s.failStack stack.val)

/-! ### Moves of degraded stripes (R285) -/

/-- Who holds a page that may move: a job's hashed allocation or context, or an image; none for a fixed allocation. -/
def Job.movable (j : Job) (p : PageRef) : Bool := j.contextPages.contains p || j.allocs.any fun a => !a.fixed && a.pages.contains p

def State.movable (s : State) (p : PageRef) : Bool :=
  s.degraded p.stack p.frame && (s.jobList.any (fun e => e.2.movable p) || s.objects.held.any fun o => o.pages.contains p)

def swapPage (a b p : PageRef) : PageRef := if p = a then b else p

/-- The page's translation switched to another frame wherever it is named. -/
def State.retarget (s : State) (a b : PageRef) : State :=
  { s with
    jobs := { s.jobs with table := s.jobs.table.map fun e => (e.1, e.2.map fun j =>
      { j with contextPages := j.contextPages.map (swapPage a b), allocs := j.allocs.map fun x => { x with pages := x.pages.map (swapPage a b) } }) },
    objects := { s.objects with held := s.objects.held.map fun o => { o with pages := o.pages.map (swapPage a b) } } }

/-- The pages of a group's degraded stripes that are still to move. -/
def State.movesLeft (s : State) (t : Nat) : Bool :=
  (groupStacks t).any fun u => (s.stack u).frames.any fun e => s.movable { stack := u, frame := e.1 }

/-- The failed stack of a stack's group. -/
def State.failedOf (s : State) (t : Nat) : Nat := ((groupStacks t).find? fun u => (s.stack u).failed).getD t

/-- A page of a degraded stripe moved into a healthy one; with the group's last page moved, the event is logged. Where no healthy
stripe has room the page stays. -/
def State.stripeMove (s : State) (t f : Nat) : State :=
  let p : PageRef := { stack := t, frame := f }
  if s.movable p then
    match s.takeFrom (s.frameEntry t f).use true (stacksFrom t) with
    | none => s
    | some (s1, q) =>
      let s2 := ((s1.copyPage p q).retarget p q).freeFrame p
      if s2.movesLeft t then s2
      else s2.log { code := 0x0915, severity := 0, kind := 5, unit := unitWord (s.failedOf t) 0xFF 0xFF 0xFF, detail := BitVec.ofNat 64 (t % 6) }
  else s

def execStripeMove (stack : Fin 36) (frame : Nat) (s : State) : Host.Outcome State Fault Refusal :=
  if frame < stackFrames then .next (s.stripeMove stack.val frame) else .fault (.noSuchFrame stack.val frame)

/-! ### Scrub and clearing (R272, R274, R275) -/

/-- The next sector that the scrub reads: one in a frame in use, with its frame's generation. -/
def State.scrubNext? (s : State) (t : Nat) : Option Nat :=
  ((s.stack t).tags.find? fun e =>
    decide ((s.stack t).scrubSector ≤ e.1) && (s.frameEntry t (e.1 / 65536)).use != .free && s.sectorCurrent t (e.1 / 65536) (e.1 % 65536)).map (·.1)

/-- The scrub reads its next sector and treats it; past the last one a pass is complete. -/
def State.scrubRead (s : State) (t : Nat) (raw : SectorRaw) : State :=
  if (s.stack t).failed || !s.unitsMayRun then s
  else match s.scrubNext? t with
    | none => s.modStack t fun k => { k with scrubPasses := (k.scrubPasses + 1) % 256, scrubSector := 0 }
    | some x =>
      let s1 := s.modStack t fun k => { k.countLines 1 with scrubSector := x + 1, selfRefresh := k.selfRefresh && k.thermal == .selfRefresh }
      let s2 := if raw.dieFailed then s1.loseDataDie t (bankDie (bankOf (x / 65536) (x % 65536))) else s1
      if (s2.stack t).failed then s2 else s2.treatSector t (x / 65536) (x % 65536) raw none

def execScrubRead (stack : Fin 36) (raw : SectorRaw) (s : State) : Host.Outcome State Fault Refusal := .next (s.scrubRead stack.val raw)

/-- The bytes of a frame forgotten. -/
def clearBytes (m : List Host.Cell) (t f : Nat) : List Host.Cell :=
  m.filter fun e => decide (e.1 < memKey t f 0) || decide (memKey t (f + 1) 0 ≤ e.1)

/-- A frame cleared in the background, on a stack that serves, and offered for allocation: its sectors are zero and its generation starts again. -/
def State.frameCleared (s : State) (t f : Nat) : State :=
  if (s.frameEntry t f).cleared || (s.frameEntry t f).use != .free || (s.stack t).failed then s
  else
    let s1 : State := { s with mem := clearBytes s.mem t f }
    s1.modStack t fun k =>
      { k with frames := mset {} k.frames f { cleared := true }, tags := k.tags.filter fun e => e.1 / 65536 != f, uncleared := k.uncleared - 1 }

def execFrameCleared (stack : Fin 36) (frame : Nat) (s : State) : Host.Outcome State Fault Refusal :=
  if frame < stackFrames then .next (s.frameCleared stack.val frame) else .fault (.noSuchFrame stack.val frame)

/-! ### Temperature and self-refresh (R268, R533) -/

/-- A stack reaches 85 °C: it refreshes at the hot rate. -/
def State.stackHot (s : State) (t : Nat) : State :=
  if (s.stack t).hot then s
  else (s.heatStack t).modStack t fun k => { k with thermal := if k.thermal = .normal then .hot else k.thermal }

def execStackHot (stack : Fin 36) (s : State) : Host.Outcome State Fault Refusal := .next (s.stackHot stack.val)

/-- A stack has spent 1 ms at or below 82 °C: it returns to the cool rate. -/
def State.stackCool (s : State) (t : Nat) : State :=
  if (s.stack t).hot then
    (s.modStack t fun k => { k.cool s.nowNs with thermal := if k.thermal = .hot then .normal else k.thermal }).log
      { code := 0x0914, severity := 0, kind := 5, unit := unitWord t 0xFF 0xFF 0xFF }
  else s

def execStackCool (stack : Fin 36) (s : State) : Host.Outcome State Fault Refusal := .next (s.stackCool stack.val)

/-- A stack with no access for 100 ms: self-refresh, its clocks stopped. One that has operations to serve is not idle. -/
def execStackSelfRefresh (stack : Fin 36) (s : State) : Host.Outcome State Fault Refusal :=
  .next (s.modStack stack.val fun k =>
    if k.intake.isEmpty && k.waiting.isEmpty then { k with selfRefresh := true, clocked := false } else k)

/-- A stack woken serves again, unless its temperature keeps it in self-refresh (R529). -/
def execStackWake (stack : Fin 36) (s : State) : Host.Outcome State Fault Refusal :=
  .next (s.modStack stack.val fun k => if k.thermal == .selfRefresh || !s.unitsMayRun then k else { k with selfRefresh := false, clocked := true })

/-! ### Imbalance (R287) -/

/-- A job's operations on a stack in the window that closed, over the mean of the stacks that hold its pages: Q8.8, saturating. -/
def State.imbalanceOf (s : State) (t : Nat) (j : Job) : Nat :=
  let held := (List.range 36).filter fun u => j.pages.any fun p => p.stack == u
  let ops (u : Nat) : Nat := mget 0 (s.stack u).windowOps j.id
  let sum := (held.map ops).sum
  if sum = 0 || !held.contains t then 0 else min 65535 (ops t * held.length * 256 / sum)

/-- The largest ratio over the elastic jobs, and whether one exceeds 4 exactly. -/
def State.stackRatio (s : State) (t : Nat) : Nat :=
  (s.jobList.filter fun e => e.2.state.resident && !e.2.fixedCadence).foldl (fun a e => max a (s.imbalanceOf t e.2)) 0

/-- Does a job's ratio on a stack exceed 4. -/
def State.overFour (s : State) (t : Nat) (j : Job) : Bool :=
  let held := (List.range 36).filter fun u => j.pages.any fun p => p.stack == u
  let ops (u : Nat) : Nat := mget 0 (s.stack u).windowOps j.id
  held.contains t && decide (4 * (held.map ops).sum < ops t * held.length)

/-- The window of 1 s closes on every stack at once. -/
def State.closeWindow (s : State) : State :=
  (List.range 36).foldl (fun a u => a.modStack u fun k => { k with windowOps := k.jobOps, jobOps := [], unjudged := true }) s

def imbalanceEvent (t ratio : Nat) : EventSpec :=
  { code := 0x0910, severity := 1, kind := 5, unit := unitWord t 0xFF 0xFF 0xFF, detail := BitVec.ofNat 64 ratio }

/-- A stack's window is judged: the first stack judged closes the window for all. The event is logged when the condition sets in and
when it ends. -/
def State.judgeWindow (s : State) (t : Nat) : State :=
  let s1 := if (s.stack t).unjudged then s else s.closeWindow
  let r := s1.stackRatio t
  let high := s1.jobList.any fun e => e.2.state.resident && !e.2.fixedCadence && s1.overFour t e.2
  let s2 := s1.modStack t fun k => { k with unjudged := false, imbalanced := high, imbalanceRatio := r }
  if high = (s.stack t).imbalanced then s2 else s2.log (imbalanceEvent t r)

def execStackImbalance (stack : Fin 36) (s : State) : Host.Outcome State Fault Refusal := .next (s.judgeWindow stack.val)

/-- While the condition lasts the event is logged again every 10 minutes. -/
def execImbalanceRepeat (stack : Fin 36) (s : State) : Host.Outcome State Fault Refusal :=
  .next (if (s.stack stack.val).imbalanced then s.log (imbalanceEvent stack.val (s.stack stack.val).imbalanceRatio) else s)

end Sys2Proof.Machine
end

