-- ==== Sys2Proof/Machine/JobEngine.lean ====
section
/-! DEFINITION. The job engine's events (10; 17 R531): admission, seeding, preemption, restore, cancel, settings, clocks. -/

namespace Sys2Proof.Machine

open Sys2Proof

def execAdmitJob (s : State) : Host.Outcome State Fault Refusal := .next s.admitJobs

/-- A job's waiting time reaches 10 s (R306). A job that is held, or does not wait, has no such time. -/
def execWaitLimit (job : Fin 4096) (s : State) : Host.Outcome State Fault Refusal :=
  .next (s.modJob job.val fun j =>
    if (j.state == .waiting || j.state == .preempted) && !j.heldBySuspend then { j with waitLimit := true } else j)

/-! ### Word 0 (R178, R308, R318, R419, R442) -/

/-- Is every half of a job's region ready, clocked and locked (R299). -/
def State.regionReady (s : State) (j : Job) : Bool :=
  j.region.all fun h => let x := s.half h; x.ready && x.clocked && x.locked

/-- READY sent to every neighbour whose session is open, and to the host (R423, R442, R444). -/
def State.sendReady (s : State) (slot : Nat) : State :=
  match s.job? slot with
  | none => s
  | some j =>
    match j.group with
    | none => s
    | some g =>
      let s1 := s.toNeighbours g (g.barrier 2 0 j.epoch)
      match s1.recordSession j.owner (some j.sess) with
      | some id => s1.send id (g.barrier 2 0 j.epoch)
      | none => s1

/-- The region issues word 0: the job runs. A job restored onto a tiling that changes its bits reports it (R411). -/
def State.startJob (s : State) (slot : Nat) : State :=
  match s.job? slot with
  | none => s
  | some j =>
    let s1 := s.setJob slot { j with state := .running }
    if s.retiles j j.tiling then s1.jobState { j with state := .running } else s1

/-- Is a job a group job (R419). -/
def State.isGroupJob (s : State) (j : Job) : Bool := isGroupProgram (s.program j) (s.tilingOf j)

/-- Before word 0 of a restored fixed-cadence job, the base dies refresh every bank group of the region's stacks once (R318). -/
def State.refreshRegion (s : State) (j : Job) : State :=
  if j.fixedCadence then
    ((List.range 36).filter fun t => j.hasDie (t / 6)).foldl (fun a t => (List.range 4).foldl (fun a b => a.refreshWindow t b) a) s
  else s

/-- A job that starts from a CONTEXT starts as restored (R318, R337). -/
def State.refreshFor (s : State) (j : Job) : State := if (s.contextOf j).isEmpty then s else s.refreshRegion j

/-- Seeding ends: the region is filled. Word 0 issues, or, in a group job, waits for the start barrier. -/
def State.seedingDone (s : State) (slot : Nat) : State :=
  match s.job? slot with
  | none => s
  | some j =>
    if j.state = .admitting ∧ j.seeded = false ∧ s.regionReady j ∧ s.config.hubReady then
      let s1 := (s.fillRegion slot).refreshFor j
      if s.isGroupJob j then s1.sendReady slot else s1.startJob slot
    else s

def execSeedingDone (job : Fin 4096) (s : State) : Host.Outcome State Fault Refusal := .next (s.seedingDone job.val)

/-- Does a context carry a marker where it lies in its frames. -/
def State.contextMarked (s : State) (j : Job) : Bool := s.pagesMarked (j.sideItem 3) j.context.length

/-- A restored job is placed: it leaves RESTORING, and its neighbours hear READY (R318, R442). One whose context reads poisoned has consumed a
mirage (R262). -/
def State.restoreDone (s : State) (slot : Nat) : State :=
  match s.job? slot with
  | none => s
  | some j =>
    if j.state = .restoring ∧ s.regionReady j then
      if s.contextMarked j then s.consumeMirage slot
      else (((s.fillRegion slot).refreshRegion j).startJob slot).sendReady slot
    else s

def execRestoreDone (job : Fin 4096) (s : State) : Host.Outcome State Fault Refusal := .next (s.restoreDone job.val)

/-! ### Preemption (R310, R313, R335, R442) -/

/-- A step-loop barrier whose request is pending and whose step has committed stops the job; its word has issued (R310, R332). -/
def State.preemptionPoint (s : State) (slot : Nat) : State :=
  match s.job? slot with
  | none => s
  | some j =>
    if j.state = .running ∧ j.waiting = .barrier .preempt ∧ j.committed = j.step ∧ j.stopRequested then
      s.setJob slot { j.tick with state := .preempting, waiting := .no, hold := none }
    else s

def execPreemptionPoint (job : Fin 4096) (s : State) : Host.Outcome State Fault Refusal := .next (s.preemptionPoint job.val)

/-- A job that has written its context: region and grant are given up, memory stays; a job stopped for a suspension is held (R335). -/
def Job.preempted (j : Job) (ctx : Bytes) (now : Nat) : Job :=
  { j with
    state := .preempted, context := ctx, endAsked := none, region := [], reserved := false, fixedNow := false, preemptPending := false,
    heldBySuspend := j.heldBySuspend || j.suspendAt.any (fun n => decide (n ≤ j.step)),
    suspendAt := if j.suspendAt.any (fun n => decide (n ≤ j.step)) then none else j.suspendAt,
    waitedNs := 0, waitSince := now, waitLimit := false, seeded := false }

/-- The context write completes, into the context area (R277). An end or a cancel that came meanwhile ends the job now (R294, R295); neighbours
hear HOLD (R442). -/
def State.contextWritten (s : State) (slot : Nat) : State :=
  match s.job? slot with
  | none => s
  | some j =>
    if j.state = .preempting then
      let c := s.contextBytes j
      let j1 := j.preempted c s.nowNs
      let s1 := (((s.storePages (j.sideItem 3) 0 c).clearRegion j.region).setJob slot j1).jobState j1
      let s2 := match j.group with
        | some g => s1.toNeighbours g (g.barrier 4 0 j.epoch)
        | none => s1
      match j.endAsked with
      | some e => s2.endJob slot e.1 e.2.1 e.2.2
      | none => if j.cancelPending then s2.endJob slot 0x020A 0 0 else s2.raiseSettings
    else s

def execContextWritten (job : Fin 4096) (s : State) : Host.Outcome State Fault Refusal := .next (s.contextWritten job.val)

/-- 1 ms after a cancel, a job that has met no commit ends (R295); one that is writing its context ends when that is written. -/
def State.cancelTimeout (s : State) (slot : Nat) : State :=
  match s.job? slot with
  | none => s
  | some j =>
    if j.cancelPending ∧ j.state ≠ .preempting then s.endJob slot 0x020A 0 0 else s

def execCancelTimeout (job : Fin 4096) (s : State) : Host.Outcome State Fault Refusal := .next (s.cancelTimeout job.val)

/-! ### Settings and clocks (R304, R531) -/

/-- An elastic job's new setting takes effect at its step boundary: its halves relock, and a running job does not issue until they have. -/
def State.settingChange (s : State) (slot : Nat) : State :=
  match s.job? slot with
  | none => s
  | some j =>
    if j.state.resident ∧ j.reserved = false ∧ j.setting ≠ j.targetSetting ∧ j.hold = none then
      (s.wakeHalves j.region j.targetSetting).setJob slot { j with setting := j.targetSetting, relocking := j.state == .running }
    else s

def execSettingChange (job : Fin 4096) (s : State) : Host.Outcome State Fault Refusal := .next (s.settingChange job.val)

/-- The relock pause of a job ends when all its halves are locked: the pause counts as held time, not in the cadence count (R304,
R319). Its length, at most 8 µs, is a free value (log entry 6). -/
def State.endRelock (s : State) (slot : Nat) : State :=
  match s.job? slot with
  | none => s
  | some j =>
    if j.relocking ∧ j.region.all (fun h => (s.half h).locked) then
      (({ s with free := s.free + 1 } : State).setJob slot { j with relocking := false }).countHeld slot
        (Config.waitCycles s.free % (800 * j.setting + 1)) false
    else s

/-- The spine of a die runs at the higher setting of its running halves (R530). -/
def State.spineTarget (s : State) (d : Nat) : Nat := max (s.half (2 * d)).setting (s.half (2 * d + 1)).setting

/-- Does a PLL feed a unit outside the hub that stands still. -/
def State.unitStopped (s : State) : Pll → Bool
  | .half h => !(s.half h.val).clocked
  | .spine d => !(s.die d.val).spineClocked
  | .stack t => !(s.stack t.val).clocked
  | _ => false

/-- A PLL locks or relocks, and its domain runs. A PLL marked unusable does not lock (R542), and no unit starts before a hub start has verified the
configuration record (R5, R6). -/
def State.pllLock (s : State) (p : Pll) : State :=
  if mget false s.clocks.pllUnusable (pllCode p) || (!s.unitsMayRun && s.unitStopped p) then s
  else
    let s0 := s.onClocks fun c =>
      { c with jitterWaits := mset false c.jitterWaits (pllCode p) false,
               jitterRelocks := satAdd 32 c.jitterRelocks (bit (mget false c.jitterWaits (pllCode p))) }
    match p with
    | .half h =>
      let s1 := s0.modHalf h.val fun x => { x with clocked := true, locked := true }
      match s1.halfJob? h.val with
      | some e => s1.endRelock e.1
      | none => s1
    | .spine d => s0.modDie d.val fun x => { x with spineClocked := true, spineLocked := true, spineSetting := s.spineTarget d.val }
    | .stack t => s0.modStack t.val fun x => { x with clocked := true, pllLocked := true }
    | .hub => s0.onClocks fun c => { c with hubLocked := true }
    | .serdes => s0.onClocks fun c => { c with serdesLocked := true }

def execPllLock (pll : Pll) (s : State) : Host.Outcome State Fault Refusal := .next (s.pllLock pll)

/-- A half that no job holds stops its clock after 100 ms without use; the spine stops with the die's last running half (R209, R531). -/
def State.halfStop (s : State) (h : Nat) : State :=
  if (s.halfJob? h).isSome then s
  else
    let s1 := s.modHalf h Half.stopped
    if (s1.half (h / 2 * 2)).clocked || (s1.half (h / 2 * 2 + 1)).clocked then s1
    else s1.modDie (h / 2) fun x => { x with spineClocked := false, spineLocked := false, spineSetting := 0 }

def execHalfClockStop (half : Fin 12) (s : State) : Host.Outcome State Fault Refusal := .next (s.halfStop half.val)

end Sys2Proof.Machine
end

