-- ==== Sys2Proof/Machine/Firmware.lean ====
section
/-! DEFINITION. Firmware images (16 R496), and the audit entries of a command. -/

namespace Sys2Proof.Machine

open Sys2Proof

def fwVersion (f : Bytes) : Nat := leAt f 0x08 4
def fwSecurityVersion (f : Bytes) : Nat := leAt f 0x0C 4

/-- Does a firmware image keep R496 on a module with a least security version: its format, its version, a signature by one of the keys whose
fingerprints the boot ROM holds. -/
def firmwareOk (least : Nat) (f : Bytes) : Bool :=
  let sec := f.drop (f.length - 416)
  decide (24 + 416 ≤ f.length) && slice f 0 8 == ascii "LYRFIRMW" && leAt f 0x10 8 == f.length && decide (least ≤ fwSecurityVersion f) &&
    Config.firmwareKeys.any fun m => fingerprint m == sec.take 32 && pssVerify m (firmwareMeasurement f) (sec.drop 32)

/-- The audit entry of a session's action (R494). -/
def State.auditBy (s : State) (x : Session) (outcome action status : Nat) (detail : Bytes) : State :=
  s.audit x.role.auditCode outcome action status x.fpr detail

end Sys2Proof.Machine
end

