-- ==== Sys2Proof/Machine/ImageCheck.lean ====
section
/-! DEFINITION. What the loader checks of a model image: the five steps of R68, in their order, with the statuses and
the detail words of R69 (log entry 44). Steps 1 to 4 are made as the chunks arrive, step 5 in a pass of its own (R70). -/

namespace Sys2Proof.Machine

open Sys2Proof

/-- A failed load: its status and the two words DETAIL0 and DETAIL1. -/
structure LoadFault where
  status : Nat
  d0 : Nat
  d1 : Nat
  deriving DecidableEq, Repr

/-- The fault of a check that does not hold. -/
def needs (ok : Bool) (status d0 d1 : Nat) : Option LoadFault := if ok then none else some ⟨status, d0, d1⟩

/-- The first fault of checks made in turn. -/
def firstFault (l : List (Option LoadFault)) : Option LoadFault := l.findSome? id

/-! ### Step 1: the header -/

/-- Coupling and bias formats, and score formats (R43). -/
def couplingFmts : List Nat := [3, 4, 8, 9, 10, 11, 12, 14]
def scoreFmts : List Nat := [8, 9, 10, 13]

/-- A count of at least 1 and at most `hi`. -/
def countFault (off v hi : Nat) : Option LoadFault := if v = 0 then some ⟨0x0305, off, 0⟩ else needs (decide (v ≤ hi)) 0x0306 off v

def imageHeaderFault (m : Bytes) : Option LoadFault :=
  if m.length < 288 then some ⟨0x0303, 12, 288⟩
  else firstFault
    [needs (slice m 0 8 == ascii "LYRMODEL") 0x0301 0 0,
     needs (leAt m 8 4 == 1) 0x0302 8 (leAt m 8 4),
     needs (leAt m 0xC 4 == 256) 0x0302 0xC (leAt m 0xC 4),
     needs (imgSize m == m.length) 0x0303 12 m.length,
     countFault 0x18 (imgVars m) (2 ^ 40),
     countFault 0x20 (imgBlocks m) (2 ^ 32 - 1),
     countFault 0x24 (imgColours m) 16,
     needs (decide (imgBetaLen m ≤ 4096)) 0x0306 0x2C (imgBetaLen m),
     needs (couplingFmts.contains (imgCoupling m)) 0x0308 0x25 (imgCoupling m),
     needs (imgDirLength m 2 == 0 || couplingFmts.contains (imgBias m)) 0x0308 0x26 (imgBias m),
     needs (imgDirLength m 3 == 0 || scoreFmts.contains (imgScore m)) 0x0308 0x27 (imgScore m)]

/-! ### Step 2: the digest -/

def imageDigest (m : Bytes) : Bytes := m.drop (m.length - 32)

def imageDigestFault (m : Bytes) : Option LoadFault :=
  needs (sha256 (m.take (m.length - 32)) == imageDigest m) 0x0304 0 0

/-! ### Step 3: the layout -/

/-- The end of the last non-empty section before directory entry `e`, as the directory states it; the header's end where none is. -/
def sectionsEnd (m : Bytes) (e : Nat) : Nat :=
  (List.range e).foldl (fun a k => if imgDirLength m k = 0 then a else imgDirOffset m k + imgDirLength m k) 256

/-- The OFFSET of entry `e` under R51. -/
def offsetDue (m : Bytes) (e : Nat) : Nat := if imgDirLength m e = 0 then 0 else (sectionsEnd m e + 63) / 64 * 64

def hasScores (m : Bytes) : Bool := (imgBlockList m).any (·.scores)

/-- The LENGTH of entries 1 to 9 under R51; none for an entry that may stand empty and does, and for entry 7. -/
def lengthDue (m : Bytes) (e : Nat) : Option Nat :=
  let bs := imgBlockList m
  match e with
  | 0 => some (16 * imgBlocks m)
  | 1 => some ((imgVars m + 1) / 2)
  | 2 => if imgDirLength m 2 = 0 then none else some (arrayBytes (imgBias m) (biasElems m))
  | 3 => some (if hasScores m then arrayBytes (imgScore m) (scoreElems m) else 0)
  | 4 => some (4 * gaussBefore m (imgBlocks m))
  | 5 => some ((bs.map fun b => b.tiles * b.tiles * tileBytes m b b b.intraPotts).sum)
  | 6 => some (16 * imgInterTiles m)
  | 8 => some (4 * imgBetaLen m)
  | 9 => if imgDirLength m 9 = 0 then none else some (stateBytes m)
  | _ => none

/-- One directory entry: its OFFSET, then its LENGTH. -/
def entryFault (m : Bytes) (e : Nat) : Option LoadFault :=
  if 10 ≤ e then needs (imgDirOffset m e == 0 && imgDirLength m e == 0) 0x0303 e 0
  else firstFault
    [needs (imgDirOffset m e == offsetDue m e) 0x0303 e (offsetDue m e),
     needs (e != 3 || !hasScores m || imgDirLength m 3 != 0 || scoreFmts.contains (imgScore m)) 0x0308 0x27 (imgScore m),
     (lengthDue m e).bind fun n => needs (imgDirLength m e == n) 0x0303 e n]

/-- One entry of the block table, whose BASE is to be `base` (R53). A categorical KM1 of 0 is reported with Value 0, that is KM1 (DESIGN CHOICE,
log entry 87). -/
def blockFault (b : BlockEntry) (a base : Nat) : Option LoadFault :=
  firstFault
    [needs (b.base == base) 0x0307 a b.base,
     needs (b.size != 0) 0x0305 a 0,
     needs (decide (b.size ≤ 4096)) 0x0306 a b.size,
     needs (decide (b.kind ≤ 2)) 0x0307 a b.kind,
     needs (b.kind != 1 || b.km1 != 0) 0x0306 a 0,
     needs (b.kind == 1 || b.km1 == 0) 0x030F a 0,
     needs (b.kind == 1 || !(b.scores || b.intraPotts)) 0x030F a 0]

def imageEndFault (m : Bytes) : Option LoadFault :=
  let stop := sectionsEnd m 12 + 32
  needs (imgSize m == stop) 0x0303 13 stop

/-- The block table from block `a` and BASE `base`, with `n` entries left: entries that were received are checked in turn; one that was not ends
the image (R52, R68). A SIZE sum that is not NUM_VARS is reported at the last block with the sum found (DESIGN
CHOICE, log entry 87). -/
def blockTableFault (m : Bytes) : Nat → Nat → Nat → Option LoadFault
  | 0, a, base => needs (base == imgVars m) 0x0307 (a - 1) base
  | n + 1, a, base =>
    if m.length < imgDirOffset m 0 + 32 * (a + 1) then imageEndFault m
    else
      let b := imgBlock m a
      (blockFault b a base).or (blockTableFault m n (a + 1) (base + b.size))

def imageLayoutFault (m : Bytes) : Option LoadFault :=
  firstFault
    [entryFault m 0,
     blockTableFault m (imgBlocks m) 0 0,
     (List.range 11).findSome? fun k => entryFault m (k + 1),
     imageEndFault m]

/-! ### Step 4: the contents, in byte order -/

/-- The elements of an array of `n` (R58): a non-finite element, a padding mantissa, what `bad` says of a nonzero element, then the BS16
exponents; a negative exponent stands in DETAIL1 sign-extended to 64 bits (DESIGN CHOICE, log entry 87). -/
def arrayFault (m : Bytes) (off fmt n : Nat) (bad : Nat → Option LoadFault) : Option LoadFault :=
  let runs := (n + 31) / 32
  let total := if fmt = 14 then 32 * runs else n
  let w := fmtBits fmt / 8
  let elem (i : Nat) : Option LoadFault :=
    let v := elemVal fmt (arrayRaw m off fmt i) 0
    if v.isZero then none
    else if v.isFinite = false then some ⟨0x0309, off + i * w, 0⟩
    else if n ≤ i then some ⟨0x0312, off + i * w, 0⟩
    else bad i
  let expo (r : Nat) : Option LoadFault :=
    let e := arrayExp m off n r
    needs (decide (-48 ≤ e) && decide (e ≤ 24)) 0x030A (off + 64 * runs + r) (wrapNat 64 e)
  ((List.range total).findSome? elem).or (if fmt = 14 then (List.range runs).findSome? expo else none)

def colourFault (m : Bytes) : Option LoadFault :=
  (List.range (imgVars m)).findSome? fun v => needs (decide (imgColour m v < imgColours m)) 0x030C v (imgColour m v)

def precisionFault (m : Bytes) : Option LoadFault :=
  (imgBlockList m).findSome? fun b =>
    if b.kind = 2 then
      (List.range b.size).findSome? fun i =>
        let w := imgPrecision m (b.base + i)
        let o := imgDirOffset m 4 + 4 * (gaussBefore m (imgBlockOf m (b.base + i)) + i)
        if finiteF32 w = false then some ⟨0x0309, o, 0⟩
        else needs (decide (0x00800000 ≤ w.toNat) && decide (w.toNat < 0x80000000)) 0x0313 (b.base + i) w.toNat
    else none

/-- A stored tile: its blocks, its place, its form and where its body stands. -/
structure TileAt where
  a : Nat
  b : Nat
  p : Nat
  q : Nat
  potts : Bool
  off : Nat
  deriving DecidableEq, Repr

/-- The intra tiles of a block, in order, from an offset. -/
def blockTiles (m : Bytes) (a off : Nat) : List TileAt :=
  let b := imgBlock m a
  (List.range (b.tiles * b.tiles)).map fun i =>
    { a := a, b := a, p := i / b.tiles, q := i % b.tiles, potts := b.intraPotts, off := off + i * tileBytes m b b b.intraPotts }

def intraTiles (m : Bytes) : List TileAt := (List.range (imgBlocks m)).flatMap fun a => blockTiles m a (intraOffset m a 0 0)

def interTile (m : Bytes) (i : Nat) : TileAt :=
  let e := imgInter m i
  { a := e.rowBlock, b := e.colBlock, p := e.tileRow, q := e.tileCol, potts := e.potts, off := interOffset m i }

def interTiles (m : Bytes) : List TileAt := (List.range (imgInterTiles m)).map (interTile m)

/-- The pair (i, j) of an element of a tile, as places in the blocks. -/
def TileAt.pair (m : Bytes) (t : TileAt) (i : Nat) : Nat × Nat :=
  let per := tileElems (imgBlock m t.a) (imgBlock m t.b) t.potts / 1024
  (32 * t.p + i / per / 32, 32 * t.q + i / per % 32)

/-- What a nonzero element breaks: R56, R55 or R59. -/
def TileAt.elemFault (m : Bytes) (t : TileAt) (i : Nat) : Option LoadFault :=
  let a := imgBlock m t.a
  let b := imgBlock m t.b
  let io := (t.pair m i).1
  let jo := (t.pair m i).2
  if a.size ≤ io ∨ b.size ≤ jo then some ⟨0x0312, t.off + i * (fmtBits (imgCoupling m) / 8), 0⟩
  else if a.base + io = b.base + jo then some ⟨0x030E, a.base + io, 0⟩
  else needs ((a.syncPermitted && b.syncPermitted) || imgColour m (a.base + io) != imgColour m (b.base + jo)) 0x030D
    (a.base + io) (b.base + jo)

def TileAt.fault (m : Bytes) (t : TileAt) : Option LoadFault :=
  arrayFault m t.off (imgCoupling m) (tileElems (imgBlock m t.a) (imgBlock m t.b) t.potts) (t.elemFault m)

/-- Does an index entry come before another (R61). -/
def InterEntry.before (x y : InterEntry) : Bool :=
  decide (x.rowBlock < y.rowBlock) || (x.rowBlock == y.rowBlock && (decide (x.colBlock < y.colBlock) || (x.colBlock == y.colBlock &&
    (decide (x.tileRow < y.tileRow) || (x.tileRow == y.tileRow && decide (x.tileCol < y.tileCol))))))

/-- One entry of the index (R61). -/
def indexFault (m : Bytes) (i : Nat) : Option LoadFault :=
  let e := imgInter m i
  let a := imgBlock m e.rowBlock
  let b := imgBlock m e.colBlock
  let inside := decide (e.rowBlock < imgBlocks m) && decide (e.colBlock < imgBlocks m)
  let kinds := (a.kind == 1) == (b.kind == 1) && (!e.potts || (a.kind == 1 && a.km1 == b.km1))
  firstFault
    [needs (!inside || kinds) 0x030F i 1,
     needs (inside && e.rowBlock != e.colBlock && decide (e.tileRow < a.tiles) && decide (e.tileCol < b.tiles) &&
       (i == 0 || (imgInter m (i - 1)).before e)) 0x0310 i 0]

/-- The LENGTH of entry 7, against the bodies the index implies. -/
def bodiesFault (m : Bytes) : Option LoadFault :=
  let n := interOffset m (imgInterTiles m) - imgDirOffset m 7
  needs (imgDirLength m 7 == n) 0x0303 7 n

def betaFault (m : Bytes) : Option LoadFault :=
  (List.range (imgBetaLen m)).findSome? fun i =>
    let o := imgDirOffset m 8 + 4 * i
    let w := leAt m o 4
    if finiteF32 (BitVec.ofNat 32 w) = false then some ⟨0x0309, o, 0⟩ else needs (decide (w ≤ 0x80000000)) 0x0314 i w

/-- The initial states of one block (R66). -/
def initFault (m : Bytes) (a : Nat) : Option LoadFault :=
  let b := imgBlock m a
  (List.range b.size).findSome? fun i =>
    let w := imgInit m (b.base + i)
    if b.kind = 1 then needs (decide (w.toNat < b.states)) 0x030B (b.base + i) w.toNat
    else if b.kind = 2 then needs (finiteF32 w) 0x0309 (imgDirOffset m 9 + initBefore m a + 4 * i) 0
    else none

def imageContentFault (m : Bytes) : Option LoadFault :=
  firstFault
    [colourFault m,
     if imgDirLength m 2 = 0 then none else arrayFault m (imgDirOffset m 2) (imgBias m) (biasElems m) fun _ => none,
     if imgDirLength m 3 = 0 then none else arrayFault m (imgDirOffset m 3) (imgScore m) (scoreElems m) fun _ => none,
     precisionFault m,
     (intraTiles m).findSome? (·.fault m),
     (List.range (imgInterTiles m)).findSome? (indexFault m),
     bodiesFault m,
     (interTiles m).findSome? (·.fault m),
     betaFault m,
     if imgDirLength m 9 = 0 then none else (List.range (imgBlocks m)).findSome? (initFault m)]

/-! ### Step 5: the symmetry -/

/-- T[k, l] of the pair in row `r` and column `c` of a tile, or J for blocks of scalar kinds. -/
def TileAt.value (m : Bytes) (t : TileAt) (r c k l : Nat) : Val :=
  let a := imgBlock m t.a
  let b := imgBlock m t.b
  let n := tileElems a b t.potts
  let at_ (i : Nat) : Val := arrayVal m t.off (imgCoupling m) n i
  if n = 1024 then (if k = l then at_ (r * 32 + c) else .zero) else at_ (((r * 32 + c) * a.states + k) * b.states + l)

/-- The tile that holds a tile's transpose. -/
def TileAt.transpose? (m : Bytes) (t : TileAt) : Option TileAt :=
  if t.a = t.b then (blockTiles m t.a (intraOffset m t.a 0 0)).find? fun u => u.p == t.q && u.q == t.p
  else (interTiles m).find? fun u => u.a == t.b && u.b == t.a && u.p == t.q && u.q == t.p

/-- The states (k, l) that element `i` of a tile stands for. -/
def TileAt.statesOf (m : Bytes) (t : TileAt) (i : Nat) : List (Nat × Nat) :=
  let a := imgBlock m t.a
  let b := imgBlock m t.b
  if tileElems a b t.potts = 1024 then (List.range a.states).flatMap fun k => (List.range b.states).map fun l => (k, l)
  else [(i / b.states % a.states, i % b.states)]

/-- The first element of a tile that differs from its transpose. -/
def TileAt.asymmetry (m : Bytes) (t : TileAt) : Option LoadFault :=
  let a := imgBlock m t.a
  let b := imgBlock m t.b
  match t.transpose? m with
  | none => some ⟨0x0311, a.base + 32 * t.p, b.base + 32 * t.q⟩
  | some u =>
    (List.range (tileElems a b t.potts)).findSome? fun i =>
      let io := (t.pair m i).1
      let jo := (t.pair m i).2
      needs (decide (a.size ≤ io) || decide (b.size ≤ jo) || (t.statesOf m i).all fun kl =>
        Val.eqv (t.value m (io % 32) (jo % 32) kl.1 kl.2) (u.value m (jo % 32) (io % 32) kl.2 kl.1)) 0x0311 (a.base + io) (b.base + jo)

def imageSymmetryFault (m : Bytes) : Option LoadFault :=
  if imgAsym m then none else (intraTiles m ++ interTiles m).findSome? (·.asymmetry m)

/-! ### The whole -/

/-- Steps 1 to 4: what is checked in passing. -/
def imageFault (m : Bytes) : Option LoadFault :=
  firstFault [imageHeaderFault m, imageDigestFault m, imageLayoutFault m, imageContentFault m]

/-- Did the loader accept a nonzero coupling between two variables of one colour (R55). -/
def imageSameColour (m : Bytes) : Bool :=
  (intraTiles m ++ interTiles m).any fun t =>
    (List.range (tileElems (imgBlock m t.a) (imgBlock m t.b) t.potts)).any fun i =>
      let u := (imgBlock m t.a).base + (t.pair m i).1
      let v := (imgBlock m t.b).base + (t.pair m i).2
      u != v && imgColour m u == imgColour m v && !(elemVal (imgCoupling m) (arrayRaw m t.off (imgCoupling m) i) 0).isZero

end Sys2Proof.Machine
end

