-- ==== Sys2Proof/Machine/ProgramCheck.lean ====
section
/-! DEFINITION. What the loader checks of a program image: the steps of R249 in their order, with the statuses and the
detail words of R251 (log entries 14 and 44). -/

namespace Sys2Proof.Machine

open Sys2Proof

/-- DETAIL0 of a program fault: tiling 0–3, or 0xFF for the header, and the low 16 bits (R251). -/
def progAt (tiling low : Nat) : Nat := tiling * 2 ^ 56 + low % 65536

/-- The fault at the lowest place, and of those the lowest status. -/
def leastFound (tiling : Nat) (l : List Found) : Option LoadFault :=
  (l.foldl (fun (best : Option Found) f =>
    match best with
    | none => some f
    | some b => if f.place < b.place ∨ (f.place = b.place ∧ f.status < b.status) then some f else some b) none).map
    fun f => ⟨f.status, progAt tiling f.low, f.d1⟩

/-! ### Steps 1 to 4 -/

/-- Bytes from the digest on (R242). -/
def progTail (p : Bytes) : Nat := if progSigned p then 448 else 32

def zeroBytes (p : Bytes) (off n : Nat) : Bool := (slice p off n).all (· == 0)

def programHeaderFault (p : Bytes) : Option LoadFault :=
  let field (off : Nat) (ok : Bool) : Option LoadFault := needs ok 0x0411 (progAt 0xFF off) off
  if p.length < 288 then some ⟨0x040E, progAt 0xFF 0x10, 288⟩
  else firstFault
    [needs (slice p 0 8 == ascii "LYRPROGM") 0x040C (progAt 0xFF 0) 0,
     needs (leAt p 8 4 == 1) 0x040D (progAt 0xFF 8) (leAt p 8 4),
     needs (leAt p 0xC 4 == 256) 0x040D (progAt 0xFF 0xC) (leAt p 0xC 4),
     needs (progSize p == p.length) 0x040E (progAt 0xFF 0x10) p.length,
     needs (decide (256 + progTail p ≤ p.length)) 0x040E (progAt 0xFF 0x10) (256 + progTail p),
     field 0x18 (decide (progFlags p < 32)),
     field 0x1C (decide (1 ≤ progTilings p) && decide (progTilings p ≤ 4)),
     field 0x1D (couplingFmts.contains (progCoupling p)),
     field 0x1E (decide (1 ≤ progColours p) && decide (progColours p ≤ 16)),
     field 0x1F (decide (progParams p ≤ 8)),
     field 0x50 (zeroBytes p 0x50 16),
     field 0xA0 (zeroBytes p 0xA0 96)]

/-- The digest of a program image, which names it (R242). -/
def programDigest (p : Bytes) : Bytes := slice p (p.length - progTail p) 32

def programDigestFault (p : Bytes) : Option LoadFault :=
  needs (sha256 (p.take (p.length - progTail p)) == programDigest p) 0x040F (progAt 0xFF 0) 0

/-- The signature, against PROGRAM_SIGNING and the enrolled keys (R244). -/
def programSignatureFault (setting : Nat) (keys : List KeyRecord) (p : Bytes) : Option LoadFault :=
  let sec := p.drop (p.length - 416)
  let ok :=
    if progSigned p then
      keys.any fun k => k.fpr == sec.take 32 && (setting != 1 || k.role == .installer) &&
        pssVerify k.modulus (programDigest p) (sec.drop 32)
    else setting == 0
  needs ok 0x0410 (progAt 0xFF 0) 0

/-- The end of tiling `e` − 1, or of the header. -/
def tilingsEnd (p : Bytes) : Nat → Nat
  | 0 => 256
  | e + 1 => progTilingOffset p e + progTilingLength p e

/-- One directory entry: a tiling follows the one before it on the next 64-byte boundary; an unused entry is zero. -/
def dirEntryFault (p : Bytes) (e : Nat) : Option LoadFault :=
  let d := progAt 0xFF e
  let off := progTilingOffset p e
  let stop := tilingsEnd p e
  if progTilings p ≤ e then needs (off == 0 && progTilingLength p e == 0) 0x040E d 0
  else firstFault
    [needs (off == align64 stop) 0x040E d (align64 stop),
     needs (decide (128 ≤ progTilingLength p e)) 0x040E d 128,
     needs (zeroBytes p stop (off - stop)) 0x040E d 0]

def directoryFault (p : Bytes) : Option LoadFault :=
  let stop := tilingsEnd p (progTilings p)
  firstFault
    [(List.range 4).findSome? (dirEntryFault p),
     needs (align64 stop + progTail p == p.length) 0x040E (progAt 0xFF 0x10) (align64 stop + progTail p),
     needs (zeroBytes p stop (align64 stop - stop)) 0x040E (progAt 0xFF 0x10) 0]

/-! ### Step 5: a tiling's header -/

/-- Is a partner named in ADJACENCY a partner in turn, and on the side that R192 gives: a seam or an X link joins a W half and an E half, a V
link two of one side. A half with neither seam nor X-link partner is bound to no side (R297). -/
def partnerOk (p : Bytes) (t : Tiling) (h kind : Nat) : Bool :=
  let raw (x : Nat) : Nat := leAt p (t.off + 0x10 + 4 * x + kind) 1
  let east (x : Nat) : Bool := (t.adjacency p x).2.2.2
  let bound (x : Nat) : Bool := (t.adjacency p x).1.isSome || (t.adjacency p x).2.1.isSome
  let q := raw h
  q == 0xFF || (decide (q < t.numHalves) && q != h && raw q == h &&
    (if kind = 2 then (!(bound h && bound q)) || east h == east q else east h != east q))

/-- The halves joined to a set by the adjacency, in `n` rounds (R193). -/
def joinedTo (p : Bytes) (t : Tiling) : Nat → List Nat → List Nat
  | 0, l => l
  | n + 1, l =>
    let near := l.flatMap fun h => let a := t.adjacency p h; [a.1, a.2.1, a.2.2.1].filterMap id
    joinedTo p t n ((List.range t.numHalves).filter fun h => l.contains h || near.contains h)

/-- Is a cluster number one of a half's, W columns 0–3 or E columns 4–7. -/
def clusterInHalf (p : Bytes) (t : Tiling) (h cl : Nat) : Bool := decide (cl < 64) && decide (4 ≤ cl % 8) == (t.adjacency p h).2.2.2

def ledgerOk (p : Bytes) (t : Tiling) : Bool :=
  let h := t.ledger / 4096
  decide (h < t.numHalves) && clusterInHalf p t h (t.ledger / 64 % 64) && decide (t.ledger % 64 < t.positions)

/-- The tiling header's faults (R245, R177, R248). -/
def tilingHeaderFaults (p : Bytes) (t : Tiling) : List Found :=
  let bad (off : Nat) (ok : Bool) : List Found := findIf (!ok) ⟨off, 0x0411, off, t.off + off⟩
  let halvesOk := decide (1 ≤ t.numHalves) && decide (t.numHalves ≤ 12)
  let grid : List Found :=
    ((List.range t.numHalves).flatMap fun h =>
      ((List.range 3).flatMap fun k => bad (0x10 + 4 * h + k) (partnerOk p t h k)) ++
        bad (0x13 + 4 * h) (decide (leAt p (t.off + 0x13 + 4 * h) 1 < 2))) ++
      bad 0x10 ((joinedTo p t t.numHalves [0]).length == t.numHalves) ++ bad 0x0E (ledgerOk p t)
  bad 0x00 halvesOk ++
    bad 0x02 (t.gridGrade == 0x41 || t.gridGrade == 0x42) ++
    bad 0x03 (zeroBytes p (t.off + 3) 1) ++
    bad 0x04 (decide (1 ≤ t.numClasses) && decide (t.numClasses ≤ 256)) ++
    bad 0x06 (decide (t.numTargets ≤ 4096)) ++
    bad 0x08 (decide (t.numSegments ≤ 4096)) ++
    bad 0x0A (decide (t.numAllocs ≤ 256)) ++
    bad 0x0C (t.words != 0) ++
    findIf (decide (4096 < t.words)) ⟨0x0C, 0x0412, 0x0C, t.words⟩ ++
    bad 0x48 (zeroBytes p (t.off + 0x48) 56) ++
    (if halvesOk then grid else [])

/-- NUM_HALVES, GRID_GRADE and ADJACENCY: the grid a tiling is for. -/
def tilingGrid (p : Bytes) (t : Tiling) : Nat × Nat × Bytes := (t.numHalves, t.gridGrade, slice p (t.off + 0x10) (4 * t.numHalves))

/-- The last byte of a tiling's last section, as an offset from its start (R242). -/
def Tiling.lengthDue (t : Tiling) : Nat :=
  (if t.preloadLen = 0 then t.slots + 528 * t.words * t.numHalves else t.preload + t.preloadLen) - t.off

/-- The section starts and the ends before them. -/
def Tiling.gaps (p : Bytes) (t : Tiling) : List (Nat × Nat) :=
  [(t.classes + 16 * t.numClasses, t.blockMap), (t.blockMap + progBlocks p, t.allocs), (t.allocs + 16 * t.numAllocs, t.targets),
   (t.targets + 16 * t.numTargets, t.segments), (t.segments + 32 * t.numSegments, t.slots)] ++
  (if t.preloadLen = 0 then [] else [(t.slots + 528 * t.words * t.numHalves, t.preload)])

/-! ### Step 5: a tiling's sections -/

/-- Width class of a coupling format: 0 for 16 bits, 1 for 32, 2 for 64 (R98). -/
def widthClass (fmt : Nat) : Nat := if fmt = 11 then 2 else if fmt = 4 ∨ fmt = 10 ∨ fmt = 12 then 1 else 0

/-- Does a tile shape serve a class whose full tables have `k` columns, none where it has none (R98, R99). -/
def shapeOk (shape fmt : Nat) (k : Option Nat) : Bool :=
  let w := widthClass fmt
  decide (shape ≤ 5) && shape % 3 == w && (decide (3 ≤ shape) || k.all fun n => decide (n ≤ 32 / 2 ^ w))

/-- A class entry (R246, R99). -/
def classFaults (p : Bytes) (t : Tiling) (i : Nat) : List Found :=
  let o := t.classes + 16 * i
  let c := t.classEntry p i
  let bad (k : Nat) (ok : Bool) : List Found := findIf (!ok) ⟨o + k, 0x0411, i, o + k⟩
  bad 1 (decide (c.sync ≤ 1)) ++
    findIf (!shapeOk c.shape (progCoupling p) (if c.fullTables then some (c.km1 + 1) else none)) ⟨o + 2, 0x041A, i, i⟩ ++
    bad 4 (decide (1 ≤ c.parts) && decide (c.parts ≤ 64)) ++ bad 5 (decide (c.kind ≤ 2)) ++
    bad 7 (decide (leAt p (o + 7) 1 < 2)) ++ bad 8 (zeroBytes p (o + 8) 8)

/-- An ALLOCS entry (R279). -/
def allocFaults (p : Bytes) (t : Tiling) (i : Nat) : List Found :=
  let o := t.allocs + 16 * i
  let arg := leAt p (o + 10) 6
  let mask := arg % 4096
  let fixedOk := mask != 0 && bitField arg 12 6 != 0 && decide (arg < 2 ^ 22) && decide (mask < 2 ^ t.numHalves)
  let ok := leAt p o 8 != 0 && decide (leAt p (o + 8) 1 ≤ 1) &&
    (if leAt p (o + 9) 1 = 0 then arg == 0 else leAt p (o + 9) 1 == 1 && fixedOk)
  findIf (!ok) ⟨o, 0x0902, i, i⟩

/-- A TARGETS entry (R245). -/
def targetFaults (p : Bytes) (t : Tiling) (i : Nat) : List Found :=
  let o := t.targets + 16 * i
  let e := t.target p i
  let bad (k : Nat) (ok : Bool) : List Found := findIf (!ok) ⟨o + k, 0x0411, i, o + k⟩
  bad 0 (decide (e.alloc < t.numAllocs)) ++ bad 1 ([0x04, 0x05, 0x0A, 0x0B, 0x10].contains e.format) ++
    bad 2 (decide (1 ≤ e.n) && decide (e.n ≤ 64)) ++ bad 3 (zeroBytes p (o + 3) 1) ++ bad 6 (zeroBytes p (o + 6) 2) ++
    bad 8 (e.offset % 64 == 0)

/-- A SEGMENTS entry (R245, R196): a fixed-cadence caravan reads only fixed allocations. -/
def segmentFaults (p : Bytes) (t : Tiling) (i : Nat) : List Found :=
  let o := t.segments + 32 * i
  let e := t.segment p i
  let named := decide (e.alloc < t.numAllocs)
  let ok := decide (e.type ≤ 3) && decide (e.src ≤ 1) && decide (e.half < t.numHalves) && decide (e.port ≤ 15) &&
    decide (e.order ≤ 1) && (e.beatBits == 256 || e.beatBits == 512) && decide (8 ≤ e.issueOffset) && decide (1 ≤ e.spacing) &&
    zeroBytes p (o + 24) 8 && (e.src == 0 || named) && (!progFixed p || (named && (t.alloc p e.alloc).fixed))
  findIf (!ok) ⟨o, 0x0420, i, i⟩

/-- The PRELOAD runs, the first of them numbered `i` (R245). -/
def preloadFaults (p : Bytes) (t : Tiling) : Nat → Nat → Nat → List Found
  | 0, _, _ => []
  | fuel + 1, i, o =>
    let stop := t.preload + t.preloadLen
    let bad (k : Nat) (ok : Bool) : List Found := findIf (!ok) ⟨o + k, 0x0411, i, o + k⟩
    let b (k : Nat) : Nat := leAt p (o + k) 1
    let next := o + 16 + 64 * leAt p (o + 6) 2
    if stop ≤ o then []
    else if stop < o + 16 then bad 0 false
    else
      bad 0 (decide (b 0 < t.numHalves)) ++ bad 1 (clusterInHalf p t (b 0) (b 1)) ++ bad 2 (decide (b 2 < t.positions)) ++
        bad 3 (decide (b 3 ≤ 1)) ++
        bad 4 (decide (leAt p (o + 4) 2 + leAt p (o + 6) 2 ≤ (if b 3 = 0 then 2048 else 256))) ++
        bad 8 (zeroBytes p (o + 8) 8) ++
        (if stop < next then bad 6 false else preloadFaults p t fuel (i + 1) next)

def sectionFaults (p : Bytes) (t : Tiling) : List Found :=
  ((List.range t.numClasses).flatMap (classFaults p t)) ++
    ((List.range (progBlocks p)).flatMap fun b =>
      findIf (decide (t.numClasses ≤ leAt p (t.blockMap + b) 1)) ⟨t.blockMap + b, 0x0411, b, t.blockMap + b⟩) ++
    ((List.range t.numAllocs).flatMap (allocFaults p t)) ++ ((List.range t.numTargets).flatMap (targetFaults p t)) ++
    ((List.range t.numSegments).flatMap (segmentFaults p t)) ++ preloadFaults p t (t.preloadLen / 16 + 1) 0 t.preload

/-! ### Step 5: a tiling's words -/

/-- The fields of the control slice that are equal in every half (R221). -/
def sequencing (c : Nat) : List Nat :=
  [bitField c 85 43, ctlColour c, bit' (ctlEpass c)]
where
  bit' (b : Bool) : Nat := if b then 1 else 0

/-- The control slice of word `w` of half `h` (R217, R218, R219, R220, R221). -/
def controlFaults (p : Bytes) (t : Tiling) (h w : Nat) : List Found :=
  let c := t.control p h w
  let bad (ok : Bool) (status d1 : Nat) : List Found := findIf (!ok) ⟨w, status, w, d1⟩
  let joined := match (t.adjacency p h).1 with
    | some q => decide (h ≤ q) || c == t.control p q w
    | none => true
  bad (c % 2 ^ 54 == 0 && (!ctlCountSrc c || decide (ctlCount c < 8))) 0x0413 4 ++
    bad (joined && sequencing c == sequencing (t.control p 0 w)) 0x0413 4 ++
    bad (!ctlLoopOpen c || decide (w ≤ ctlLoopLast c)) 0x0414 1 ++
    bad (!ctlStep c || ctlPhase c) 0x0415 (ctlColour c) ++
    bad (ctlEpass c || decide (ctlColour c < progColours p)) 0x0415 (ctlColour c) ++
    bad (!(ctlTrig0 c && ctlTrig1 c && ctlSeg0 c == ctlSeg1 c)) 0x0417 5

/-- The opcodes of a slice's slots F, D and M, and the operands of F and D. -/
def opF (s : Nat) : Nat := bitField s 122 6
def opD (s : Nat) : Nat := bitField s 90 6
def opM (s : Nat) : Nat := bitField s 58 6
def argF (s : Nat) : Nat := bitField s 96 24
def argD (s : Nat) : Nat := bitField s 64 24

/-- Users of the playa read port in slots F and M, and of the caravan input (R240). -/
def readsPlaya (s : Nat) : Bool := opF s == 0x02 && !(argF s).testBit 23
def readPortMove (s : Nat) : Bool := [0x19, 0x1F, 0x20, 0x21, 0x22].contains (opM s)
def usesCaravan (s : Nat) : Bool := opF s == 0x02 && (argF s).testBit 23
def loadsCaravan (s : Nat) : Bool := opM s == 0x1C || opM s == 0x1D || opM s == 0x1E

/-- Does the router word send a word back out of the direction it came from (R238). -/
def turnsBack (s : Nat) : Bool := s.testBit 27 || s.testBit 22 || s.testBit 17 || s.testBit 12

/-- Mesh row and column of a cluster's first core, as DETAIL1 gives them (log entry 44). -/
def meshPlace (cl : Nat) : Nat := cl / 8 * 8 * 256 + cl % 8 * 8

/-- The slice of cluster `k` in word `w` of half `h` (R214 to R217, R231, R232, R237, R219). -/
def sliceFaults (p : Bytes) (t : Tiling) (h w k : Nat) : List Found :=
  let s := t.slice p h w k
  let bad (ok : Bool) (status d1 : Nat) : List Found := findIf (!ok) ⟨w, status, w, d1⟩
  let d := bitField s 90 6
  let ledger := h == t.ledger / 4096 && t.sliceCluster p h k == t.ledger / 64 % 64
  bad (!slotIllegal 0 (bitField s 96 32)) 0x0413 0 ++ bad (!slotIllegal 1 (bitField s 64 32)) 0x0413 1 ++
    bad (!slotIllegal 2 (bitField s 32 32)) 0x0413 2 ++ bad (bitField s 0 2 == 0) 0x0413 3 ++
    bad (ledger || !(d == 0x0D || d == 0x0F || d == 0x10)) 0x0413 1 ++
    bad (!((d == 0x0D && !progExchange p) || (d == 0x0F && !progResampling p))) 0x0419 0 ++
    bad (!(ctlEpass (t.control p h w) && decide (0x09 ≤ d) && decide (d ≤ 0x0C))) 0x0415 (ctlColour (t.control p h w)) ++
    bad (!(readsPlaya s && readPortMove s)) 0x0417 0 ++ bad (!(usesCaravan s && loadsCaravan s)) 0x0417 3 ++
    bad (!turnsBack s) 0x0418 (meshPlace (t.sliceCluster p h k))

def wordFaults (p : Bytes) (t : Tiling) : List Found :=
  (List.range t.words).flatMap fun w => (List.range t.numHalves).flatMap fun h =>
    controlFaults p t h w ++ (List.range 32).flatMap (sliceFaults p t h w)

/-! ### Step 6: loops and phases -/

/-- The loops that hold word `w`, from a list of loops. -/
def loopsAt (ls : List (Nat × Nat × Bool × Nat)) (w : Nat) : List (Nat × Nat × Bool × Nat) :=
  ls.filter fun l => decide (l.1 ≤ w) && decide (w ≤ l.2.1)

/-- Loops properly nested, at most eight deep (R180). -/
def loopFaults (ls : List (Nat × Nat × Bool × Nat)) (words : Nat) : List Found :=
  ls.flatMap fun l =>
    let depth := (loopsAt ls l.1).length
    let crossed := ls.any fun o => decide (o.1 < l.1) && decide (l.1 ≤ o.2.1) && decide (o.2.1 < l.2.1)
    findIf (decide (words ≤ l.2.1) || decide (8 < depth) || crossed) ⟨l.1, 0x0414, l.1, depth⟩

/-- The words that an issue path reaches, in descending address: every count may be zero or not (R219). -/
def reached (cs : List Nat) : Nat → List Nat
  | 0 => [0]
  | w + 1 =>
    let before := reached cs w
    let skips := before.any fun a => ctlLoopOpen (cs.getD a 0) && ctlLoopLast (cs.getD a 0) == w &&
      (ctlCountSrc (cs.getD a 0) || ctlCount (cs.getD a 0) == 0)
    let falls := before.contains w && !ctlEnd (cs.getD w 0) &&
      !(ctlLoopOpen (cs.getD w 0) && !ctlCountSrc (cs.getD w 0) && ctlCount (cs.getD w 0) == 0)
    if skips || falls then (w + 1) :: before else before

/-- The phase a word says it is in: its colour, or `nc` in the energy pass (R181). -/
def saidPhase (nc c : Nat) : Nat := if ctlEpass c then nc else ctlColour c

/-- The phase after a word; none where its marks break the order of R21 and R181. -/
def phaseAfter (nc c : Nat) : Option Nat :=
  let e := saidPhase nc c
  if ctlStep c then (if e + 1 = nc ∨ e = nc then some 0 else none)
  else if ctlPhase c then (if e < nc then some (e + 1) else none)
  else some e

/-- The words that may follow word `w`, with whether `w` was skipped as the opening word of a loop whose count is 0. -/
def follows (cs : List Nat) (ls : List (Nat × Nat × Bool × Nat)) (w : Nat) : List (Nat × Bool) :=
  let c := cs.getD w 0
  let backs (z : Nat) : List Nat := (ls.filter fun l => l.2.1 == z).map (·.1)
  let zero := ctlLoopOpen c && (ctlCountSrc c || ctlCount c == 0)
  let only := ctlLoopOpen c && !ctlCountSrc c && ctlCount c == 0
  let z := ctlLoopLast c
  (if only || ctlEnd c then [] else ((w + 1) :: backs w).map fun x => (x, false)) ++
    (if zero then ((z + 1) :: (backs z).filter (· < w)).map fun x => (x, true) else [])

/-- Phases in order on every issue path (R21, R181, R219): what each word says agrees with the word before it. -/
def phaseFaults (nc : Nat) (cs : List Nat) (ls : List (Nat × Nat × Bool × Nat)) : List Found :=
  let words := reached cs cs.length
  findIf (saidPhase nc (cs.getD 0 0) != 0) ⟨0, 0x0415, 0, ctlColour (cs.getD 0 0)⟩ ++
  (words.filter (· < cs.length)).flatMap fun w =>
    let c := cs.getD w 0
    (follows cs ls w).flatMap fun e =>
      let d := cs.getD e.1 0
      match (if e.2 then some (saidPhase nc c) else phaseAfter nc c) with
      | none => [⟨w, 0x0415, w, ctlColour c⟩]
      | some x => findIf (decide (e.1 < cs.length) && saidPhase nc d != x) ⟨e.1, 0x0415, e.1, ctlColour d⟩

/-! ### The two steps over a tiling -/

/-- The statuses of the checks that go word by word (step 5), of those that the walk of a schedule makes: formats, phases, ports and timing. -/
def wordStatus (n : Nat) : Bool := n == 0x0413 || n == 0x0415 || n == 0x0417 || n == 0x0419

/-- Has a tiling loops that nest, so that its schedule can be walked. -/
def loopsNest (p : Bytes) (t : Tiling) : Bool := (loopFaults (t.loops p) t.words).isEmpty

/-- Phases, ports and timing along the issue paths. -/
def pathFaults (p : Bytes) (t : Tiling) : List Found :=
  if loopsNest p t then phaseFaults (progColours p) (t.controls p) (t.loops p) ++ (dryFound p t).filter fun f => wordStatus f.status else []

/-- One tiling under step 5; `seen` holds the grids of the tilings before it. -/
def tilingFault (p : Bytes) (i : Nat) : Option LoadFault :=
  let t := progTiling p i
  let seen := (List.range i).map fun k => tilingGrid p (progTiling p k)
  firstFault
    [leastFound i (tilingHeaderFaults p t),
     needs (!seen.contains (tilingGrid p t)) 0x0411 (progAt i 0) t.off,
     needs (progTilingLength p i == t.lengthDue) 0x040E (progAt i i) t.lengthDue,
     (t.gaps p).findSome? fun g => needs (zeroBytes p g.1 (g.2 - g.1)) 0x040E (progAt i (g.1 - t.off)) 0,
     leastFound i (sectionFaults p t),
     leastFound i (wordFaults p t ++ pathFaults p t)]

/-- One tiling under step 6: its loops, and what else the walk finds of groups, the mesh, refresh windows at setting 18, atomics, the energy
pass and coverage. -/
def scheduleFault (p : Bytes) (i : Nat) : Option LoadFault :=
  let t := progTiling p i
  let falls := findIf ((reached (t.controls p) t.words).contains t.words) ⟨t.words - 1, 0x0414, t.words - 1, 0⟩
  firstFault
    [leastFound i (loopFaults (t.loops p) t.words),
     leastFound i (falls ++ ((dryFound p t).filter fun f => !wordStatus f.status) ++ refreshHits 18 p t)]

/-- The whole check of a program image (R249). -/
def programFault (setting : Nat) (keys : List KeyRecord) (p : Bytes) : Option LoadFault :=
  firstFault
    [programHeaderFault p, programDigestFault p, programSignatureFault setting keys p, directoryFault p,
     (List.range (progTilings p)).findSome? (tilingFault p), (List.range (progTilings p)).findSome? (scheduleFault p)]

end Sys2Proof.Machine
end

