-- ==== Sys2Proof/Machine/Peer.lean ====
section
/-! DEFINITION. Sessions between the members of a run group (14 R423, R445; 16 R486, R487): the payload bytes of the phases, opening a
session to a neighbour, and what follows when one opens or ends. -/

namespace Sys2Proof.Machine

open Sys2Proof

/-! ### Payload bytes (R486) -/

def phase1Bytes (p : Phase1) : Bytes :=
  [1, BitVec.ofNat 8 p.role, BitVec.ofNat 8 (bit p.encrypt)] ++ List.replicate 5 0 ++ padTo 32 p.keyFpr ++ padTo 32 p.hostNonce ++
    padTo 32 p.consent ++ p.extra

/-- Bytes 0x000 to 0x1A7 of phase 2. -/
def phase2Head (p : Phase2) : Bytes :=
  [2, BitVec.ofNat 8 (bit p.encrypt + 2 * bit p.noIdentity), 0, 0] ++ beBytes 4 p.sess ++ padTo 32 p.deviceNonce ++ padTo 384 p.wrapped

def phase2Bytes (p : Phase2) : Bytes := phase2Head p ++ padTo 384 p.deviceSig ++ p.responderKey

def phase3Bytes (p : Phase3) : Bytes := [3, 0, 0, 0, 0, 0, 0, 0] ++ padTo 384 p.hostSig ++ padTo 32 p.claimProof

/-- The S6's identity key as PUB_EXP and MODULUS. -/
def State.identityKey (s : State) : Bytes := [0x00, 0x01, 0x00, 0x01] ++ s.identityModulus

def State.ownFpr (s : State) : Bytes := fingerprint s.identityModulus

/-- RSA-OAEP-3072 with SHA-256, MGF1-SHA-256 and an empty label (R486). -/
def oaepWrap (modulus secret seed : Bytes) : Bytes :=
  let db := sha256 [] ++ List.replicate 286 0 ++ [0x01] ++ secret
  let maskedDb := xorBytes db (mgf1 seed 351)
  beBytes 384 (rsaPublic (beNat modulus) (beNat ([0x00] ++ xorBytes seed (mgf1 maskedDb 32) ++ maskedDb)))

/-- One of a session's four keys (R489). -/
def Session.keyOf (x : Session) (info : String) : Bytes := hkdf32 x.master (x.hostNonce ++ x.deviceNonce) (ascii info)

/-- The identifier that the model gives a session which the S6 opens. -/
def openerId (addr sess : Nat) : Nat := 2 ^ 32 * (addr + 1) + sess

/-! ### Run groups that a session serves -/

/-- The groups of jobs that have not ended changed by `f`. -/
def State.mapGroups (s : State) (f : Job → GroupState → GroupState) : State :=
  s.onJobs fun e => { e with table := e.table.map fun x => (x.1, x.2.map fun j =>
    if j.state == .ended then j else { j with group := j.group.map (f j) }) }

/-- The neighbours of a group that a key names. -/
def GroupState.named (g : GroupState) (fpr : Bytes) : List Neighbour := g.neighbours.filter fun n => grpMemberFpr g.record n.member == fpr

/-- What a member owes a neighbour whose session opens (R445): the halo beats of epochs whose reading step the neighbour has not committed
(log entry 40), then the COMMITs of its own epochs. -/
def GroupState.owed (g : GroupState) (n : Neighbour) (committedEpoch : Nat) : List TxBody :=
  let low := n.committed.getD 0
  ((g.sent.filter fun b => (grpChannel g.record b.channel).dst == n.member && decide (low ≤ b.epoch)).map g.haloPacket) ++
    ((List.range (committedEpoch + 1)).filter fun e => decide (1 ≤ e ∧ low ≤ e)).map (g.barrier 3 0 ·)

/-- Has a job's region become ready: READY is then due to every neighbour (R423). -/
def State.regionStands (s : State) (j : Job) : Bool :=
  match j.state with
  | .admitting | .restoring => j.seeded && s.regionReady j
  | .running => true
  | _ => false

/-- READY of a job to one neighbour: once its region is ready, or, restarted, with its current epoch (R423, R442, R444). -/
def State.readyTo (s : State) (j : Job) (g : GroupState) (m : Nat) : State :=
  if s.regionStands j || j.restarted then s.toNeighbour g m (g.barrier 2 0 j.epoch) else s

/-- A session to a neighbour stands: every group that names its key uses it, and what is owed is sent (R423, R445). -/
def State.peerOpened (s : State) (id : Nat) (fpr : Bytes) : State :=
  let s1 := s.mapGroups fun _ g => { g with neighbours := g.neighbours.map fun n =>
    if (grpMemberFpr g.record n.member == fpr) = true then { n with sess := id, sessOpen := true } else n }
  s1.jobList.foldl (fun t e =>
    match e.2.group with
    | some g => if e.2.state == .ended then t else (g.named fpr).foldl (fun a n =>
        (g.owed n e.2.committedEpoch).foldl (fun b p => b.toNeighbour g n.member p) (a.readyTo e.2 g n.member)) t
    | none => t) s1

/-- A session to a neighbour has ended. -/
def State.peerLost (s : State) (id : Nat) : State :=
  s.mapGroups fun _ g => { g with neighbours := g.neighbours.map fun n => if n.sess == id then { n with sessOpen := false } else n }

/-- A session that could not be opened (R423, R487). -/
def State.peerAuth (s : State) (fpr : Bytes) : State :=
  match s.jobList.find? fun e => e.2.state != .ended && e.2.group.any fun g => !(g.named fpr).isEmpty with
  | some e => s.log (e.2.event { code := 0x0A12, severity := 1 })
  | none => s.log { code := 0x0A12, severity := 1 }

/-- Phase 1 of a session to a member of a record (R423, R486, R487). A module without identity, or without DRBG output, opens none; a
session that stands already serves. -/
def State.openPeer (s : State) (record : Bytes) (m : Nat) : State :=
  let addr := grpMemberAddr record m
  let fpr := grpMemberFpr record m
  match s.transport.sessions.find? fun x => x.opener && x.fpr == fpr with
  | some x => if x.opened then s.peerOpened x.id fpr else s
  | none =>
    if s.security.identityOk && s.drbgGives && decide (s.transport.sessions.length < 256) then
      let r := s.drbg 0 32
      let p : Phase1 :=
        { src := s.journal.settings.unitAddr, role := 4, encrypt := s.journal.settings.requireEncryption, keyFpr := s.ownFpr, hostNonce := r.1,
          consent := [], extra := s.identityKey ++ List.replicate 124 0 }
      let x : Session :=
        { id := openerId addr 0, role := .peer, fpr := fpr, peerAddr := addr, opener := true, encrypt := p.encrypt, hostNonce := r.1,
          phase1 := phase1Bytes p }
      (r.2.onTransport fun t => { t with sessions := t.sessions ++ [x] }).emit (.phase1 addr (BitVec.ofNat 128 (grpMemberIp record m)) (phase1Bytes p))
    else s

end Sys2Proof.Machine
end

