-- ==== Sys2Proof/Machine/Session.lean ====
section
/-! DEFINITION. Kenvin sessions (13 R388 to R393, R398, R403; 16 R483 to R489): the four phases, as responder and as opener, the end of a
session, acknowledgements, and the events of a session's clocks. -/

namespace Sys2Proof.Machine

open Sys2Proof

/-! ### Records of a stream (R397 to R399) -/

/-- Records whose session has ended are sent again, with their numbers, in the stream's most recently opened session, if it has one. -/
def State.reroute (s : State) (fpr : Bytes) : State :=
  let lost (h : HeldRecord) : Bool := !(h.sentOn.any fun w => (s.openSession? w).isSome)
  let due := (s.stream fpr).records.filter lost
  if due.isEmpty then s
  else
    match s.recordSession fpr none with
    | none => s
    | some id =>
      (due.foldl (fun t h => t.sendRecord id fpr h.record) s).modStream fpr fun x =>
        { x with records := x.records.map fun h => if lost h then { h with sentOn := some id } else h }

/-- Is a command's last record still to come: its load is open, its firmware is being taken over, or its reset has not completed. -/
def State.moreToCome (s : State) (fpr : Bytes) (req : Nat) : Bool :=
  s.objects.handles.any (fun h => h.owner == fpr && h.req == req) || s.security.fwReq == some (fpr, req) ||
    s.journal.resetDone.contains (fpr, req)

/-- A job's reservation and results given up: it has ended, its final record is acknowledged and RELEASE_RESULT has come (R399). -/
def State.settleJob (s : State) (fpr : Bytes) (job : Nat) : State :=
  match s.jobById? job with
  | some e =>
    let final := (s.stream fpr).records.any fun h => h.record.jobId == job && h.record.kind == .jobFinal
    if e.2.state = .ended ∧ e.2.released ∧ final = false then
      (s.dropJob e.1).onJournal fun j => { j with reservations := j.reservations.filter fun r => !(r.owner == fpr && r.job == job) }
    else s
  | none => s

/-- A record's last packet acknowledged: the record leaves the journal, and the reservation with it where it was the last (R398, R399). -/
def State.recordAcked (s : State) (fpr : Bytes) (seq : Nat) : State :=
  match (s.stream fpr).records.find? fun h => h.record.seq == seq with
  | none => s
  | some h =>
    let s1 := s.modStream fpr fun x => { x with records := x.records.filter fun r => r.record.seq != seq }
    let req := h.record.req
    let last := !(s1.stream fpr).records.any (fun r => r.record.req == req && r.record.kind != .refused) && !s1.moreToCome fpr req
    let s2 :=
      if last then s1.onJournal fun j => { j with reservations := j.reservations.filter fun r => !(r.owner == fpr && r.req == req && r.job == 0) }
      else s1
    if h.record.kind == .jobFinal then s2.settleJob fpr h.record.jobId else s2

def State.packetAcked (s : State) (p : TxPacket) : State :=
  match p.body with
  | .completion fpr seq part parts => if part + 1 = parts then s.recordAcked fpr seq else s
  | _ => s

/-- A cumulative acknowledgement (R391, R398). -/
def State.ackUpTo (s : State) (id n : Nat) : State :=
  match s.openSession? id with
  | none => s
  | some x =>
    (x.tx.filter fun p => decide (p.seq ≤ n)).foldl State.packetAcked
      (s.modSession id fun y => { y with tx := y.tx.filter fun p => decide (n < p.seq) })

/-! ### Obligations (R403, R411) -/

/-- The digests of a job that the S6 does not hold. -/
def State.missingDigests (s : State) (j : Job) : List Bytes :=
  [j.body.program, j.body.model, j.body.input, j.body.context].filter fun d => d != zeros32 && (s.object? d).isNone

/-- JOB_STATE of an obligation: its extension lists the digests that are missing. -/
def State.obligationRecord (s : State) (j : Job) : State :=
  s.complete j.owner none { s.jobRecord j .jobState 0 with ext := (s.missingDigests j).flatten }

def State.tellObligations (s : State) (fpr : Bytes) : State :=
  (s.jobList.filter fun e => e.2.state == .obligation && e.2.owner == fpr).foldl (fun t e => t.obligationRecord e.2) s

/-! ### The end of a session (R393, R507, R555) -/

/-- Raw mode left: the block restarts as at start-up. -/
def State.leaveRaw (s : State) : State :=
  (s.log { code := 0x0713, severity := 0, unit := unitWord 0xFF 0xFF 0xFF 0xB }).onEntropy Entropy.leaveRaw

/-- A session ended, by any cause: no job is cancelled and no accepted work lost. -/
def State.dropSession (s : State) (id : Nat) : State :=
  match s.session? id with
  | none => s
  | some x =>
    let s1 := (s.onTransport fun t => { t with sessions := t.sessions.filter fun y => y.id != id }).onEntropy fun e =>
      { e with rngWaiting := e.rngWaiting.filter (· != id) }
    let s2 := if s.entropy.state = .raw ∧ s.entropy.rawSess = id ∧ x.role = .maker then s1.leaveRaw else s1
    if x.role = .peer then s2.peerLost id else s2.reroute x.fpr

def State.dropSessions (s : State) (ids : List Nat) : State := ids.foldl State.dropSession s

/-! ### Keys and records (R476, R480, R483, R485) -/

def Role.code : Role → Nat
  | .operator => 0 | .installer => 1 | .maker => 2 | .claim => 3 | .peer => 4

def roleOf (n : Nat) : Role :=
  match n with
  | 0 => .operator | 1 => .installer | 2 => .maker | 3 => .claim | _ => .peer

def State.key? (s : State) (r : Role) (fpr : Bytes) : Option KeyRecord := s.journal.keys.find? fun k => k.role == r && k.fpr == fpr

def krRole (b : Bytes) : Nat := leAt b 0x0C 1
def krModulus (b : Bytes) : Bytes := slice b 0x20 384

/-- Does a key record keep R476 and R480. -/
def keyRecordOk (b : Bytes) : Bool :=
  let r := krRole b
  let pri := leAt b 0x0D 1
  let mask := leAt b 0x0E 2
  b.length == 512 && slice b 0 8 == ascii "LYRKEYRC" && leAt b 8 4 == 1 && decide (r ≤ 2) && decide (pri ≤ 7) &&
    (r == 0 || pri == 7) && (if r = 0 then mask != 0 && decide (mask < 4096) else mask == 0xFFF) && beAt b 0x10 4 == 65537 &&
    (krModulus b).headD 0 ≥ 128

def keyOf (b : Bytes) : KeyRecord :=
  { role := roleOf (krRole b), maxPriority := leAt b 0x0D 1, halfMask := BitVec.ofNat 12 (leAt b 0x0E 2), modulus := krModulus b,
    fpr := fingerprint (krModulus b) }

/-- A key enrolled: it has one role, and a record of the same fingerprint is replaced (R476, R481). -/
def State.enrol (s : State) (k : KeyRecord) : State :=
  s.onJournal fun j => { j with keys := (j.keys.filter fun x => x.fpr != k.fpr) ++ [k] }

/-- The consent record that a phase 1 names. -/
def State.consentOf (s : State) (p1 : Bytes) : Bytes := s.objectBytes (slice p1 0x48 32)

/-- May a maker session open under a consent record (R485). -/
def State.consentOk (s : State) (fpr c : Bytes) : Bool :=
  match s.key? .installer (slice c 0x50 32) with
  | none => false
  | some k =>
    c.length == 0x1F0 && slice c 0 8 == ascii "LYRCNSNT" && leAt c 8 4 == 1 && slice c 0x10 16 == s.serial && slice c 0x30 32 == fpr &&
      (s.key? .maker fpr).isSome && pssVerify k.modulus (sha256 (c.take 0x70)) (slice c 0x70 384) && s.ptp.locked &&
      decide (leAt c 0x20 8 ≤ s.timeSec ∧ s.timeSec ≤ leAt c 0x28 8) && decide (leAt c 0x28 8 ≤ leAt c 0x20 8 + 604800)

/-! ### Refusals (R488) -/

def auditRole (role : Nat) : Bool := role == 1 || role == 2 || role == 3

/-- A phase 1 or phase 3 refused with a phase 4; a refused installer or maker authentication, a claim among them, is audited. -/
def State.refuseOpen (s : State) (dst role : Nat) (fpr : Bytes) (status : Nat) : State :=
  let s1 := if auditRole role then s.audit role 1 0x000D status fpr [] else s
  s1.emit (.phase4 dst 0 (BitVec.ofNat 16 status) zeros32)

/-- A failed claim starts its back-off: 1 s, doubled with each failure, at most 3,600 s (R484). -/
def State.claimFailed (s : State) : State :=
  s.onJournal fun j => { j with claimFails := j.claimFails + 1, claimLocked := true, claimUntil := s.nowSec + min 3600 (2 ^ j.claimFails) }

/-! ### Phase 1 (R486 to R488) -/

/-- Why a phase 1's key is refused, 0 when it is not. -/
def State.phase1Key (s : State) (p : Phase1) : Nat :=
  match p.role with
  | 0 => if (s.key? .operator p.keyFpr).isSome then 0 else 0x0603
  | 1 => if (s.key? .installer p.keyFpr).isSome then 0 else 0x0603
  | 2 => if (s.key? .maker p.keyFpr).isNone then 0x0603 else if s.consentOk p.keyFpr (s.consentOf (phase1Bytes p)) then 0 else 0x0607
  | 3 =>
    if s.journal.claimed then 0x0606
    else if s.journal.claimLocked then 0x0605
    else if keyRecordOk p.extra && fingerprint (krModulus p.extra) == p.keyFpr then 0
    else 0x0603
  | 4 =>
    if s.security.identityOk = false then 0x060C
    else if fingerprint (slice p.extra 4 384) == p.keyFpr &&
        s.objects.held.any (fun o => o.kind == 2 && grpValid o.bytes &&
          (List.range (grpMembers o.bytes)).any fun m => grpMemberFpr o.bytes m == p.keyFpr) then 0
    else 0x0603
  | _ => 0x0603

/-- Why a phase 1 is refused, 0 when it is not. The order beyond the single statuses is the model's (log entry 41). -/
def State.phase1Status (s : State) (p : Phase1) : Nat :=
  if 256 ≤ s.transport.sessions.length + s.transport.opens.length then 0x0103
  else if s.config.bootRom ∧ p.role ≠ 1 then 0x060F
  else
    let k := s.phase1Key p
    if k ≠ 0 then k
    else if s.journal.settings.requireEncryption && !p.encrypt then 0x060B
    else s.drbgStatus

def State.phase1Modulus (s : State) (p : Phase1) : Bytes :=
  match p.role with
  | 3 => krModulus p.extra
  | 4 => slice p.extra 4 384
  | r => ((s.key? (roleOf r) p.keyFpr).map (·.modulus)).getD []

/-- The challenge: nonce, wrapped master secret and signature (R486). -/
def State.challenge (s : State) (p : Phase1) : State :=
  let modulus := s.phase1Modulus p
  let nonce := s.drbg 0 32
  let master := nonce.2.drbg 1 32
  let seed := master.2.drbg 2 32
  let salt := seed.2.drbg 2 32
  let id := s.transport.nextSession
  let q : Phase2 :=
    { src := s.journal.settings.unitAddr, sess := id, encrypt := p.encrypt, noIdentity := !s.security.identityOk, deviceNonce := nonce.1,
      wrapped := oaepWrap modulus master.1 seed.1, deviceSig := [], responderKey := if p.role = 4 then s.identityKey else [] }
  let sig := if s.security.identityOk then Config.identitySign (sha256 (phase1Bytes p ++ phase2Head q)) salt.1 else List.replicate 384 0
  let bytes := phase2Bytes { q with deviceSig := sig }
  let x : Session :=
    { id := id, role := roleOf p.role, fpr := p.keyFpr, peerAddr := p.src, encrypt := p.encrypt, hostNonce := p.hostNonce,
      mac := s.transport.source.mac, ip := s.transport.source.ip, deviceNonce := nonce.1, master := master.1, phase1 := phase1Bytes p, phase2 := bytes, peerKey := modulus }
  let s1 := if s.security.identityOk then salt.2 else seed.2
  (s1.onTransport fun t => { t with sessions := t.sessions ++ [x], nextSession := id + 1 }).emit (.phase2 p.src id bytes)

/-- A phase 1 received. An unaddressed unit handles roll call only (R383); before the entropy block is READY the answer waits (R502). -/
def State.phase1In (s : State) (p : Phase1) : State :=
  if s.journal.settings.unitAddr = 0 ∨ s.config.hubReady = false ∧ s.config.bootRom = false ∨ s.security.scan then s
  else
    let st := s.phase1Status p
    if st ≠ 0 then s.refuseOpen p.src p.role p.keyFpr st
    else if s.drbgGives then s.challenge p
    else s.onTransport fun t => { t with opens := t.opens ++ [(p, t.source)] }

def execSessionOpenPhase1 (p : Phase1) (s : State) : Host.Outcome State Fault Refusal := .next (s.phase1In p)

/-! ### Phases 1 that wait for the entropy block (R502, R505, R507) -/

def State.clearOpens (s : State) : State := s.onTransport fun t => { t with opens := [] }

/-- READY: every phase 1 that waited is taken up, in its order. -/
def State.takeOpens (s : State) : State := s.transport.opens.foldl (fun t p => (t.fromSource p.2).phase1In p.1) s.clearOpens

/-- The alarm or raw mode: every phase 1 that waited is refused. -/
def State.refuseOpens (s : State) : State :=
  s.transport.opens.foldl (fun t p => (t.fromSource p.2).refuseOpen p.1.src p.1.role p.1.keyFpr s.drbgStatus) s.clearOpens

/-- A block of raw samples; a fatal alarm that it raises ends what waits for output. -/
def execEntropyBlock (samples : List Bool) (s : State) : Host.Outcome State Fault Refusal :=
  let t := s.entropyBlock samples
  .next (if t.entropy.state = .fatal ∧ s.entropy.state ≠ .fatal then t.refuseOpens else t)

def execEntropyReady (s : State) : Host.Outcome State Fault Refusal :=
  .next (if s.entropyDue then s.entropyReady.takeOpens else s)

/-- Waiting reads of RNG_DATA end with a status and no data. -/
def State.refuseReads (s : State) (status : Nat) : State :=
  s.entropy.rngWaiting.foldl (fun t id => t.replyOne id rngAddr false 0 status) (s.onEntropy fun e => { e with rngWaiting := [] })

/-- RAW_MODE, written by a maker whose consent allows it (R507, R554): every consumer that waits gets 0x0702. -/
def State.rawMode (s : State) (x : Session) (on : Bool) : State :=
  let s1 := s.audit x.role.auditCode 0 0x000A 0 x.fpr (beBytes 4 0xB104 ++ beBytes 4 (4 * bit on))
  let s2 := s1.log { code := 0x0713, severity := 0, unit := unitWord 0xFF 0xFF 0xFF 0xB, detail := BitVec.ofNat 64 (bit on) }
  if on then ((s2.onEntropy fun e => { e with state := .raw, ready := false, rawSess := x.id }).refuseReads 0x0702).refuseOpens
  else if s.entropy.state = .raw then s2.onEntropy Entropy.leaveRaw
  else s2

def execRawMode (sess : Nat) (on : Bool) (s : State) : Host.Outcome State Fault Refusal :=
  .next (s.ownWrite sess 0xB104 (word (4 * bit on)) (·.consents 0) fun t x => t.rawMode x on)

/-! ### Phase 3 (R483 to R489) -/

/-- Why a claim fails, 0 when it does not. -/
def State.claimStatus (s : State) (x : Session) (proof : Bytes) : Nat :=
  if s.journal.claimed then 0x0606
  else if s.journal.claimLocked then 0x0605
  else if proof == hmac s.security.claimKey (x.deviceNonce ++ x.fpr) && krRole (slice x.phase1 0x68 512) == 1 then 0
  else 0x0604

def State.phase3Status (s : State) (x : Session) (p : Phase3) : Nat :=
  if !pssVerify x.peerKey (sha256 (x.phase1 ++ x.phase2)) p.hostSig then 0x0602
  else if s.drbgStatus ≠ 0 then s.drbgStatus
  else match x.role with
    | .claim => s.claimStatus x p.claimProof
    | .maker => if s.consentOk x.fpr (s.consentOf x.phase1) then 0 else 0x0607
    | _ => 0

/-- A claim that succeeds: the key is enrolled as installer, CLAIMED set, the back-off reset, the entry written (R483, R484). -/
def State.claim (s : State) (x : Session) : State :=
  let s1 := (s.enrol (keyOf (slice x.phase1 0x68 512))).onJournal fun j =>
    { j with claimed := true, claimFails := 0, claimLocked := false, claimUntil := 0 }
  s1.audit 3 0 0x0001 0 x.fpr []

/-- What follows the opening of a session: records and obligations of its stream, or what a neighbour is owed. -/
def State.sessionOpened (s : State) (x : Session) : State :=
  if x.role = .peer then s else (s.reroute x.fpr).tellObligations x.fpr

/-- A session opened: its place in the order of openings, its role, the rights of its consent, phase 4. -/
def State.openSession (s : State) (x : Session) (p3 : Bytes) : State :=
  let c := s.consentOf x.phase1
  let role : Role := if x.role = .claim then .installer else x.role
  let maker := decide (x.role = .maker)
  let y : Session :=
    { x with opened := true, order := s.transport.opened + 1, phase3 := p3, role := role,
             actions := if maker then BitVec.ofNat 32 (leAt c 0x0C 4) else 0, notAfter := if maker then leAt c 0x28 8 else 0 }
  let s1 := if x.role = .claim then s.claim x else if maker then s.audit 2 0 0x0009 0 x.fpr (slice x.phase1 0x48 32) else s
  let s2 := s1.onTransport fun t => { t with opened := t.opened + 1, sessions := modFirst (·.id == x.id) (fun _ => y) t.sessions }
  (s2.emit (.phase4 x.peerAddr x.id 0 (hmac (x.keyOf "kenvin auth d2h") (sha256 (x.phase1 ++ x.phase2 ++ p3))))).sessionOpened y

/-- A phase 3 received: one that completes no half-open session is dropped. -/
def State.phase3In (s : State) (p : Phase3) : State :=
  match s.transport.sessions.find? fun x => x.id == p.sess && !x.opened && !x.opener with
  | none => s
  | some x =>
    let st := s.phase3Status x p
    if st = 0 then s.openSession x (phase3Bytes p)
    else
      let s1 := if st = 0x0604 then s.claimFailed else s
      (s1.dropSession x.id).refuseOpen x.peerAddr x.role.code x.fpr st

def execSessionOpenPhase3 (p : Phase3) (s : State) : Host.Outcome State Fault Refusal := .next (s.phase3In p)

/-! ### The S6 as opener (R423, R487) -/

def State.opening? (s : State) (src : Nat) : Option Session :=
  s.transport.sessions.find? fun x => x.opener && !x.opened && x.peerAddr == src

/-- An attempt abandoned, with 0x0A12. -/
def State.abandon (s : State) (x : Session) : State := (s.dropSession x.id).peerAuth x.fpr

/-- A challenge received: the responder's key must be the member's, and its signature must verify. -/
def State.phase2In (s : State) (p : Phase2) : State :=
  match s.opening? p.src with
  | none => s
  | some x =>
    let key := slice p.responderKey 4 384
    if fingerprint key != x.fpr || p.noIdentity || !pssVerify key (sha256 (x.phase1 ++ phase2Head p)) p.deviceSig then s.abandon x
    else
      match Config.identityDecrypt p.wrapped with
      | none => s.abandon x
      | some master =>
        let salt := s.drbg 2 32
        let p3 := phase3Bytes
          { sess := p.sess, hostSig := Config.identitySign (sha256 (x.phase1 ++ phase2Bytes p)) salt.1, claimProof := [] }
        let y : Session :=
          { x with id := openerId p.src p.sess, mac := s.transport.source.mac, ip := s.transport.source.ip, encrypt := p.encrypt, deviceNonce := p.deviceNonce, master := master, phase2 := phase2Bytes p,
                   phase3 := p3, peerKey := key }
        (salt.2.onTransport fun t => { t with sessions := modFirst (·.id == x.id) (fun _ => y) t.sessions }).emit (.phase3 p.src p.sess p3)

def execSessionOpenPhase2 (p : Phase2) (s : State) : Host.Outcome State Fault Refusal := .next (s.phase2In p)

/-- The result received: confirmed, the session stands; refused or false, it is abandoned. -/
def State.phase4In (s : State) (p : Phase4) : State :=
  match s.opening? p.src with
  | none => s
  | some x =>
    if p.status = 0 ∧ p.confirm = hmac (x.keyOf "kenvin auth d2h") (sha256 (x.phase1 ++ x.phase2 ++ x.phase3)) ∧
        x.id = openerId p.src p.sess ∧ p.sess ≠ 0 then
      let y : Session := { x with opened := true, order := s.transport.opened + 1 }
      (s.onTransport fun t => { t with opened := t.opened + 1, sessions := modFirst (·.id == x.id) (fun _ => y) t.sessions }).peerOpened
        x.id x.fpr
    else s.abandon x

def execSessionOpenPhase4 (p : Phase4) (s : State) : Host.Outcome State Fault Refusal := .next (s.phase4In p)

/-! ### Clocks and ends of a session (R388, R391 to R393, R484, R485) -/

/-- A session that has not passed phase 3 within 1 s of phase 2 is abandoned. -/
def State.halfOpenTimeout (s : State) (sess : Nat) : State :=
  if s.transport.sessions.any fun x => x.id == sess && !x.opened && !x.opener then s.dropSession sess else s

def execHalfOpenTimeout (sess : Nat) (s : State) : Host.Outcome State Fault Refusal := .next (s.halfOpenTimeout sess)

/-- Which packets above the cumulative acknowledgement a bare acknowledgement reports (R379, R391). -/
def sacked (b : AckBody) (seq : Nat) : Bool :=
  (decide (b.ack + 2 ≤ seq ∧ seq < b.ack + 18) && b.sackMap.getLsbD (seq - (b.ack + 2))) ||
    (decide (b.ack + 1 ≤ seq ∧ seq ≤ b.ack + 4096) &&
      (let n := seq - (b.ack + 1); BitVec.getLsbD (b.bitmap.getD (n / 8) 0) (7 - n % 8)))

/-- A packet composed again joins the queue of its class. -/
def Transport.again (t : Transport) (id seq : Nat) : Transport :=
  match (t.sessions.find? fun x => x.id == id).bind fun x => x.tx.find? fun p => p.seq == seq with
  | none => t
  | some p => t.queue p.body.express (.packet id seq true)

/-- Packets that a SACK shows missing while a later one is acknowledged are resent (R392). -/
def State.resendMissing (s : State) (b : AckBody) : State :=
  match s.openSession? b.sess with
  | none => s
  | some x =>
    let got := (x.tx.map (·.seq)).filter (sacked b)
    let missing := (x.tx.map (·.seq)).filter fun q => !sacked b q && got.any fun g => decide (q < g)
    s.onTransport fun t => { missing.foldl (fun u q => u.again x.id q) t with retransmits := satAdd 32 t.retransmits missing.length }

def State.ackIn (s : State) (b : AckBody) : State := (s.ackUpTo b.sess b.ack).resendMissing b

def execAck (b : AckBody) (s : State) : Host.Outcome State Fault Refusal := .next (s.ackIn b)

/-- RTO of a packet expires: it is resent, its RTO doubled. -/
def State.retransmit (s : State) (sess seq : Nat) : State :=
  match s.openSession? sess with
  | none => s
  | some x =>
    if x.tx.any fun p => p.seq == seq then
      (s.modSession sess fun y => { y with tx := modFirst (fun p => p.seq == seq) (fun p => { p with retries := p.retries + 1 }) y.tx }).onTransport
        fun t => { t.again sess seq with retransmits := satAdd 32 t.retransmits 1 }
    else s

def execRetransmitTimeout (sess seq : Nat) (s : State) : Host.Outcome State Fault Refusal := .next (s.retransmit sess seq)

/-- 10 s without an acknowledgement of what is outstanding. -/
def State.sessionTimeout (s : State) (sess : Nat) : State :=
  match s.openSession? sess with
  | some x => if x.tx.isEmpty then s else (s.dropSession sess).onTransport fun t => { t with ended := t.ended ++ [(sess, 0x010E)] }
  | none => s

def execSessionTimeout (sess : Nat) (s : State) : Host.Outcome State Fault Refusal := .next (s.sessionTimeout sess)

/-- IDLE_TIMEOUT seconds without an authenticated packet. -/
def State.idleTimeout (s : State) (sess : Nat) : State := if (s.openSession? sess).isSome then s.dropSession sess else s

def execIdleTimeout (sess : Nat) (s : State) : Host.Outcome State Fault Refusal := .next (s.idleTimeout sess)

/-- A SESSION_CLOSE taken and acknowledged: the session ends. -/
def State.sessionClose (s : State) (sess : Nat) : State :=
  match s.openSession? sess with
  | some x => (s.emit (.bareAck sess x.rxAck)).dropSession sess
  | none => s

def execSessionClose (sess : Nat) (s : State) : Host.Outcome State Fault Refusal := .next (s.sessionClose sess)

/-- The claim back-off ends. -/
def State.claimBackoffEnds (s : State) : State := s.onJournal fun j => { j with claimLocked := false, claimUntil := 0 }

def execClaimBackoffExpiry (s : State) : Host.Outcome State Fault Refusal := .next s.claimBackoffEnds

/-- NOT_AFTER of a maker session's consent is reached. -/
def State.consentExpires (s : State) (sess : Nat) : State :=
  match s.openSession? sess with
  | some x => if x.role = .maker then s.dropSession sess else s
  | none => s

def execConsentExpiry (sess : Nat) (s : State) : Host.Outcome State Fault Refusal := .next (s.consentExpires sess)

end Sys2Proof.Machine
end

