-- ==== Sys2Proof/Machine/Loads.lean ====
section
/-! DEFINITION. LOAD, BULK and RELEASE (13 R404 to R406; 03 R68 to R73; 08 R249; 09 R264; 16 R478, R496, R497). -/

namespace Sys2Proof.Machine

open Sys2Proof

/-! ### What every command meets (R399, R478, R498) -/

/-- A refusal for want of space in the job area (R399). -/
def State.roomFault (s : State) (kib : Nat) : Option LoadFault := needs (decide (kib ≤ s.areaFree)) 0x0106 0 0

/-- A command that only operators and installers may issue (R478), on a hub that runs its firmware (R498). -/
def State.roleFault (s : State) (x : Session) : Option LoadFault :=
  firstFault [needs (x.role == .operator || x.role == .installer) 0x0601 0 0, needs (!s.config.bootRom) 0x060F 0 0]

/-- A command refused with the first fault found, or carried out. -/
def State.ruled (s : State) (x : Session) (req : Nat) (f : Option LoadFault) (go : State → State) : State :=
  match f with
  | some e => s.refuse x req e.status e.d0 e.d1
  | none => go s

/-! ### Objects stored -/

/-- A held object of a kind that the host has not released. -/
def State.available? (s : State) (digest : Bytes) (kind : Nat) : Option HeldObject :=
  (s.object? digest).filter fun o => o.kind == kind && !o.released

/-- Obligations whose last missing digest has been loaded enter WAITING (R296, R403). -/
def State.wakeObligations (s : State) : State :=
  s.jobList.foldl (fun t e =>
    if e.2.state = .obligation ∧ (t.missingDigests e.2).isEmpty then
      t.setJob e.1 { e.2 with state := .waiting, waitedNs := 0, waitSince := t.nowNs }
    else t) s

/-- The frames that an open load writes: those taken for it, or, where it repairs a held image, the image's own (R264). -/
def State.loadFrames (s : State) (h : LoadHandle) : List PageRef :=
  if h.repair then ((s.object? h.body.digest).map (·.pages)).getD [] else h.pages

/-- FLAGS of a load's DONE: ASYMMETRIC, SAME_COLOUR_ACCEPTED, ALREADY_HELD (R409). -/
def loadFlags (asym same held : Bool) : BitVec 32 := BitVec.ofNat 32 (2 * bit asym + 1024 * bit same + 4096 * bit held)

/-- A handle closed. -/
def State.closeHandle (s : State) (h : LoadHandle) : State :=
  s.onObjects fun o => { o with handles := o.handles.filter fun x => x.handle != h.handle }

/-- A load that ends with a fault: nothing of the object is kept (R69, R251). -/
def State.failLoad (s : State) (h : LoadHandle) (f : LoadFault) : State :=
  ((s.closeHandle h).freePages h.pages).done h.owner (some h.sess) h.req
    { blankRecord with status := BitVec.ofNat 16 f.status, detail0 := BitVec.ofNat 64 f.d0, detail1 := BitVec.ofNat 64 f.d1 }

/-- A load that completes: the object is held under its digest, once (R71); a damaged image is repaired (R264). -/
def State.holdObject (s : State) (h : LoadHandle) : State :=
  let model := h.body.kind == 0
  let asym := model && imgAsym h.got
  let same := model && imageSameColour h.got
  let o : HeldObject :=
    { kind := h.body.kind, digest := h.body.digest, bytes := h.got, protectedLayout := h.body.layout == 0, owner := h.owner,
      asymmetric := asym, sameColour := same, pages := h.pages }
  let s1 := s.closeHandle h
  let s2 :=
    match s.object? h.body.digest with
    | some old =>
      ((if h.repair then s1 else s1.freePages h.pages).onObjects fun x =>
        { x with held := modFirst (fun y : HeldObject => y.digest == old.digest) (fun y =>
            { y with released := false, damaged := y.damaged && !h.repair }) x.held })
    | none => s1.onObjects fun x => { x with held := x.held ++ [o] }
  (s2.done h.owner (some h.sess) h.req
    { blankRecord with flags := loadFlags asym same (!h.repair && (s.object? h.body.digest).isSome), digest := h.body.digest }).wakeObligations

/-- A firmware image complete in the standby controller: the takeover follows (R497). -/
def State.takeFirmware (s : State) (h : LoadHandle) : State :=
  (s.closeHandle h).onSecurity fun x => { x with update := .handover, newFirmware := h.got, fwReq := some (h.owner, h.req) }

/-- What the checks of a complete object find (R405): the faults of its kind, then its digest. The symmetry of a model is left to its own
pass. -/
def State.objectFault (s : State) (h : LoadHandle) : Option LoadFault :=
  let b := h.got
  match h.body.kind with
  | 0 => (imageFault b).or (needs (imageDigest b == h.body.digest) 0x0304 0 0)
  | 1 => (programFault s.journal.settings.programSigning s.journal.keys b).or (needs (programDigest b == h.body.digest) 0x040F 0 0)
  | 2 => needs (sha256 b == h.body.digest) 0x0112 0 0
  | _ => (needs (sha256 b == h.body.digest) 0x0112 0 0).or (needs (firmwareOk s.journal.settings.minSecurityVersion b) 0x060D 0 0)

/-- A firmware load given up. -/
def State.dropFirmware (s : State) (h : LoadHandle) (f : LoadFault) : State :=
  let s1 := s.audit 1 1 0x0006 f.status h.owner h.body.digest
  (s1.onSecurity fun x => { x with update := .idle }).failLoad h f

/-- An open load that ends before its object is complete, or with a fault. -/
def State.endLoad (s : State) (h : LoadHandle) (f : LoadFault) : State :=
  if h.body.kind = 3 then s.dropFirmware h f else s.failLoad h f

/-- The last byte of an object has arrived. -/
def State.finishLoad (s : State) (h : LoadHandle) : State :=
  match s.objectFault h with
  | some f => s.endLoad h f
  | none =>
    if h.body.kind = 3 then s.takeFirmware h
    else if h.body.kind = 0 ∧ imgAsym h.got = false then
      s.onObjects fun o => { o with handles := modFirst (fun x : LoadHandle => x.handle == h.handle) (fun x => { x with symmetry := true }) o.handles }
    else s.holdObject h

/-! ### LOAD (R404, R405) -/

/-- What a LOAD is refused for at once. -/
def State.loadFault (s : State) (x : Session) (b : LoadBody) : Option LoadFault :=
  let firmware := b.kind == 3
  firstFault
    [needs (x.role == .operator || x.role == .installer) 0x0601 0 0,
     needs (decide (b.kind ≤ 3) && decide (b.layout ≤ 1)) 0x010F 0 0,
     needs (!firmware || x.role == .installer) 0x0601 0 0,
     needs (!s.config.bootRom || firmware) 0x060F 0 0,
     needs (!firmware || !(s.security.update == .loading || s.security.update == .handover)) 0x060E 0 0,
     needs (!firmware || (s.security.m0Ok && s.security.m1Ok)) 0x060E 0 0,
     s.roomFault 1]

/-- The frames of an object whose LOAD is accepted, in the layout it asks for (R73). A damaged image is repaired in its own pages, and
firmware goes to a controller. -/
def State.loadPages (s : State) (b : LoadBody) (repair : Bool) : Option (State × List PageRef) :=
  if b.kind = 3 ∨ repair then some (s, [])
  else s.takeSalted .image (b.layout == 0) (pagesOf b.size) 0

/-- A handle opened and returned in DETAIL0. -/
def State.openHandle (s : State) (x : Session) (req : Nat) (b : LoadBody) (repair : Bool) (ps : List PageRef) : State :=
  let n := s.objects.nextHandle
  let h : LoadHandle := { handle := n, sess := x.id, owner := x.fpr, req := req, body := b, pages := ps, repair := repair }
  let s1 := s.onObjects fun o => { o with handles := o.handles ++ [h], nextHandle := n + 1 }
  let s2 := if b.kind = 3 then (s1.auditBy x 0 0x0006 0 b.digest).onSecurity fun y => { y with update := .loading } else s1
  let s3 := s2.accept x req 0 1 { blankRecord with detail0 := BitVec.ofNat 64 n }
  if b.size = 0 then s3.finishLoad h else s3

/-- An object that is held already: the load completes at once (R71, R405). -/
def State.alreadyHeld (s : State) (x : Session) (req : Nat) (o : HeldObject) : State :=
  let r : CompRecord := { blankRecord with flags := loadFlags o.asymmetric o.sameColour true, digest := o.digest }
  let s1 := s.onObjects fun y => { y with held := modFirst (fun z : HeldObject => z.digest == o.digest) (fun z => { z with released := false }) y.held }
  ((s1.accept x req 0 1 { blankRecord with flags := loadFlags false false true }).done x.fpr (some x.id) req r).wakeObligations

def State.load (s : State) (x : Session) (req : Nat) (b : LoadBody) : State :=
  match s.loadFault x b with
  | some f =>
    let s1 := if f.status = 0x060E then s.auditBy x 1 0x0006 f.status b.digest else s
    s1.refuse x req f.status f.d0 f.d1
  | none =>
    let held := if b.kind = 3 then none else s.object? b.digest
    let repair := held.any (·.damaged)
    match (if repair then none else held) with
    | some o => s.alreadyHeld x req o
    | none =>
      if 64 ≤ s.objects.handles.length then s.refuse x req 0x0107
      else (s.loadPages b repair).elim (s.refuse x req 0x0901) fun r => r.1.openHandle x req b repair r.2

def execLoad (h : CmdHead) (b : LoadBody) (s : State) : Host.Outcome State Fault Refusal :=
  .next (s.command h.sess h.req fun t x => t.load x h.req b)

/-! ### BULK (R406) and the symmetry pass (R70) -/

/-- A host's chunk, written into the frames of its object as it arrives (R264, R274). -/
def State.bulkChunk (s : State) (handle offset : Nat) (data : Bytes) : State :=
  if data.isEmpty then s
  else
    match s.objects.handles.find? fun h => h.handle == handle with
    | none => s.onTransport fun t => { t with bulkDiscarded := satAdd 32 t.bulkDiscarded 1 }
    | some h =>
      if offset ≠ h.got.length then s.endLoad h ⟨0x010A, 0, 0⟩
      else if h.body.size < h.got.length + data.length then s.endLoad h ⟨0x010B, 0, 0⟩
      else
        let h1 := { h with got := h.got ++ data }
        let s1 := (s.storePages (s.loadFrames h) offset data).onObjects fun o =>
          { o with handles := modFirst (fun x : LoadHandle => x.handle == handle) (fun _ => h1) o.handles }
        if h1.got.length = h1.body.size then s1.finishLoad h1 else s1

def execBulk (sess handle offset : Nat) (data : Bytes) (s : State) : Host.Outcome State Fault Refusal :=
  .next (if (s.openSession? sess).isSome then (s.popInbox sess).bulkChunk handle offset data else s)

/-- The pass over the coupling sections of a complete model ends. -/
def State.symmetryDone (s : State) (handle : Nat) : State :=
  match s.objects.handles.find? fun h => h.handle == handle && h.symmetry with
  | none => s
  | some h =>
    match imageSymmetryFault h.got with
    | some f => s.failLoad h f
    | none => s.holdObject h

def execSymmetryCheckDone (handle : Nat) (s : State) : Host.Outcome State Fault Refusal := .next (s.symmetryDone handle)

/-- Every open load ends with LOAD_INTERRUPTED, DETAIL0 the bytes received (R402). -/
def State.interruptLoads (s : State) : State := s.objects.handles.foldl (fun t h => t.endLoad h ⟨0x010C, h.got.length, 0⟩) s

/-! ### RELEASE (R72, R404, R478) -/

def State.releaseFault (s : State) (x : Session) (digest : Bytes) : Option LoadFault :=
  let o := (s.object? digest).filter fun o => !o.released
  firstFault
    [s.roleFault x, needs o.isSome 0x0110 0 0,
     needs (x.role == .installer || o.any fun y => y.owner == x.fpr) 0x0601 0 0, s.roomFault 1]

/-- A released object serves only the jobs that refer to it already, and is dropped with the last of them. -/
def State.releaseObject (s : State) (x : Session) (req : Nat) (digest : Bytes) : State :=
  s.ruled x req (s.releaseFault x digest) fun t =>
    ((t.onObjects fun o => { o with held := modFirst (fun y : HeldObject => y.digest == digest) (fun y => { y with released := true }) o.held }).accept
      x req 0 1 blankRecord).dropReleased

def execRelease (h : CmdHead) (digest : Bytes) (s : State) : Host.Outcome State Fault Refusal :=
  .next (s.command h.sess h.req fun t x => t.releaseObject x h.req digest)

end Sys2Proof.Machine
end

