-- ==== Sys2Proof/Machine/Port.lean ====
section
/-! DEFINITION. The optical port, its lanes, lasers and MAC instances, and PTP (12 R350 to R374). -/

namespace Sys2Proof.Machine

open Sys2Proof

/-! ### IPv6 in UDP/IPv6 mode (R352) -/

/-- The link-local address by modified EUI-64 of the factory MAC address. -/
def linkLocal (mac : BitVec 48) : BitVec 128 :=
  BitVec.ofNat 128 (0xFE80 * 2 ^ 112 + ((mac.toNat / 2 ^ 24) ^^^ 0x020000) * 2 ^ 40 + 0xFFFE * 2 ^ 24 + mac.toNat % 2 ^ 24)

/-- Is an address one of the S6's own: link-local, or the configured one where the installer has set it. -/
def State.ownAddress (s : State) (a : BitVec 128) : Bool :=
  a == linkLocal s.factoryMac || (a == s.journal.settings.ipv6 && a != 0)

def State.neighbour (s : State) (src target : BitVec 128) : State :=
  if s.journal.settings.encapUdp && s.ownAddress target then s.emit (.neighbourAdvert src target) else s

def execNeighbourSolicitation (src target : BitVec 128) (s : State) : Host.Outcome State Fault Refusal := .next (s.neighbour src target)

def State.echo (s : State) (src dst : BitVec 128) (data : Bytes) : State :=
  if s.journal.settings.encapUdp && s.ownAddress dst then s.emit (.echoReply src dst data) else s

def execEchoRequest (src dst : BitVec 128) (data : Bytes) (s : State) : Host.Outcome State Fault Refusal := .next (s.echo src dst data)

/-! ### Express frames (R354 to R356) -/

/-- Does an express frame that becomes ready preempt the bulk frame under way: at least 64 bytes of it sent, at least 128 left. -/
def Port.preempts (p : Port) (bulkSent bulkLeft : Nat) : Bool :=
  p.linkUp && p.preemptActive && !p.bulkPaused && decide (64 ≤ bulkSent) && decide (128 ≤ bulkLeft)

/-- An express frame becomes ready at the MAC: it enters the queue of 32, or waits behind it. -/
def Port.expressReady (p : Port) (bulkSent bulkLeft : Nat) : Port :=
  let q := min 32 (p.expressQueue + 1)
  if p.preempts bulkSent bulkLeft then { p with expressQueue := q, bulkPaused := true, preemptions := satAdd 32 p.preemptions 1 }
  else { p with expressQueue := q }

/-- Does the port compose Sync as a master (R372): SLAVE_ONLY is clear and it follows no master (log entry 84). -/
def State.ptpMaster (s : State) : Bool := !s.journal.settings.slaveOnly && s.ptp.portState != 8 && s.ptp.portState != 9

/-- With every composed express frame at the MAC, the one that becomes ready is a PTP message: Sync of a master, Delay_Req of a slave. -/
def State.composePtp (s : State) : State :=
  if s.port.expressQueue < s.transport.express.length then s
  else
    { s with transport := s.transport.queue true (.ptp s.ptpMaster s.ptp.messages), ptp := { s.ptp with messages := s.ptp.messages + 1 } }

def State.expressReady (s : State) (bulkSent bulkLeft : Nat) : State := s.composePtp.onPort fun p => p.expressReady bulkSent bulkLeft

def execExpressFrameReady (bulkSent bulkLeft : Nat) (s : State) : Host.Outcome State Fault Refusal := .next (s.expressReady bulkSent bulkLeft)

/-- Verification with the partner ends (R356). With PREEMPT_ENABLE clear none is made. -/
def State.verified (s : State) (ok : Bool) : State :=
  if s.port.linkUp && s.journal.settings.preemptEnable then
    if ok then s.onPort fun p => { p with preemptActive := true }
    else
      (s.onPort fun p => { p with preemptActive := false }).log
        { code := 0x0A08, severity := 1, kind := 7, unit := unitWord 0xFF 0xFF 0xFF 0xFF }
  else s

def execPreemptVerify (ok : Bool) (s : State) : Host.Outcome State Fault Refusal := .next (s.verified ok)

/-! ### The link (R361 to R364, R373) -/

def portEvent (code sub detail : Nat) (severity : Nat := 0) : EventSpec :=
  { code := code, severity := severity, kind := 7, unit := unitWord 0xFF 0xFF 0xFF sub, detail := BitVec.ofNat 64 detail }

/-- The port goes down. A link that was up is logged as lost. -/
def State.portDown (s : State) : State :=
  let down := s.onPort fun p => { p with linkUp := false, mode := .down, preemptActive := false, bulkPaused := false }
  if s.port.linkUp then down.log (portEvent 0x0A01 0xFF 0) else down

def lanesLow (b : BitVec 8) : Bool := b &&& 0x0F#8 != 0
def lanesHigh (b : BitVec 8) : Bool := b &&& 0xF0#8 != 0

/-- What the port retrains as, by its failed lanes (R361, R364). -/
def trainTarget (failed : BitVec 8) : PortMode :=
  if lanesLow failed then (if lanesHigh failed then .dr8 else .dr4High) else if lanesHigh failed then .dr4Low else .dr8

/-- The lanes that a mode uses. -/
def PortMode.uses (m : PortMode) (lane : Nat) : Bool :=
  match m with
  | .down => false
  | .dr8 => true
  | .dr4Low => decide (lane < 4)
  | .dr4High => decide (4 ≤ lane)

/-- The mode the port runs, or trains for. -/
def Port.target (p : Port) : PortMode := if p.linkUp then p.mode else p.training

/-- A lane declared failed (R360, R361): none is in the 20 ms after a laser switch. Where the lane carries the link, the port goes down
and retrains on what is left; a lane of the idle group never disturbs the link (R363). -/
def State.laneFail (s : State) (n : Nat) : State :=
  if s.port.laneFailed.getLsbD n || decide (s.nowNs < s.optics.quietUntil) then s
  else
    let s1 := (s.onPort fun p => { p with laneFailed := p.laneFailed ||| (1#8 <<< n) }).log (portEvent 0x0A02 n n 1)
    if s.port.target.uses n then s1.portDown.onPort fun p => { p with training := trainTarget p.laneFailed } else s1

def execLaneFailed (lane : Fin 8) (s : State) : Host.Outcome State Fault Refusal := .next (s.laneFail lane.val)

/-- Are both lasers failed (R368). -/
def Optics.dark (o : Optics) : Bool := o.la == .failed && o.lb == .failed

/-- A link comes up in the mode the port trains for; in fallback that is logged too. It never does with both lasers failed. -/
def State.linkComesUp (s : State) : State :=
  if s.port.linkUp || s.optics.dark || !s.power.vhubOn then s
  else
    let m := s.port.training
    let up := s.onPort fun p => { p with linkUp := true, mode := m, preemptActive := false }
    let s1 := (up.onPtp fun p => { p with portState := if p.locked then 9 else 4 }).log (portEvent 0x0A01 0xFF 1)
    match m with
    | .dr4Low => s1.log (portEvent 0x0A03 0 0 1)
    | .dr4High => s1.log (portEvent 0x0A03 4 1 1)
    | _ => s1

def execLinkUp (s : State) : Host.Outcome State Fault Refusal := .next s.linkComesUp

def execLinkDown (s : State) : Host.Outcome State Fault Refusal := .next s.portDown

/-- With a failed lane in both groups and no link, the next of the three modes is tried after 1 s (R364). -/
def State.fallbackNext (s : State) : State :=
  if s.port.linkUp || !(lanesLow s.port.laneFailed && lanesHigh s.port.laneFailed) then s
  else s.onPort fun p => { p with training := match p.training with | .dr8 => .dr4Low | .dr4Low => .dr4High | _ => .dr8 }

def execFallbackRetry (s : State) : Host.Outcome State Fault Refusal := .next s.fallbackNext

/-! ### Port reset (R362, R369, R374, R400) -/

/-- MAC, PCS, PMA and optics restart: every lane failure is cleared and the port retrains as 800GBASE-DR8 on MAC instance A. Counters
clear at hub start only, and a failed laser stays marked. -/
def State.restartPort (s : State) : State :=
  s.portDown.onPort fun p => { p with laneFailed := 0, macB := false, training := .dr8, expressQueue := 0 }

def State.resetPort (s : State) : State := (s.countReset .port).restartPort

def execPortReset (s : State) : Host.Outcome State Fault Refusal := .next s.resetPort

/-! ### Lasers (R365 to R368) and MAC instances (R369) -/

def laserFaultCode : LaserFault → Nat
  | .monitor => 0 | .bias => 1

/-- The active laser falls out of range: it is marked failed and the standby takes over. With none left, transmission stops and the port
is kept down. -/
def State.laserFails (s : State) (cause : LaserFault) : State :=
  let o := s.optics
  let mine := if o.activeLb then o.lb else o.la
  let other := if o.activeLb then o.la else o.lb
  if mine != .active then s
  else if other == .failed then
    let s1 := s.onOptics fun x => if x.activeLb then { x with lb := .failed } else { x with la := .failed }
    (s1.log (portEvent 0x0A05 (bit o.activeLb) (laserFaultCode cause) 2)).portDown
  else
    let s1 := s.onOptics fun x =>
      { x with la := if x.activeLb then .active else .failed, lb := if x.activeLb then .failed else .active, activeLb := !x.activeLb,
               switches := satAdd 32 x.switches 1, quietUntil := s.nowNs + 20000000 }
    s1.log (portEvent 0x0A04 (bit o.activeLb) (laserFaultCode cause) 1)

def execLaserSwitch (cause : LaserFault) (s : State) : Host.Outcome State Fault Refusal := .next (s.laserFails cause)

/-- The MAC instances part: a parity fault of the active one moves the port to the other without taking the link down; a bare mismatch
resets the port. -/
def State.macParts (s : State) (cause : MacFault) : State :=
  match cause with
  | .parity => (s.onPort fun p => { p with macB := !p.macB }).log (portEvent 0x0A06 (bit s.port.macB) (bit s.port.macB) 1)
  | .mismatch => s.resetPort

def execMacSwitch (cause : MacFault) (s : State) : Host.Outcome State Fault Refusal := .next (s.macParts cause)

/-! ### PTP (R370, R371) -/

/-- A signed number held to 32 bits, and an unsigned one. -/
def clampS32 (v : Int) : Int := max (-2147483648) (min 2147483647 v)
def clampU32 (v : Int) : Nat := (max 0 (min 4294967295 v)).toNat

def State.ptpTxLatency (s : State) : Nat := s.recField 0xDC0 4
def State.ptpRxLatency (s : State) : Nat := s.recField 0xDC4 4
def State.ptpAsymmetry (s : State) : Int := s.journal.settings.asymmetry.toInt

/-- Consecutive Sync messages with |OFFSET| below 8 ns, counted to 16. -/
def Ptp.count (p : Ptp) (offset : Int) : Nat := if decide (-128 < offset ∧ offset < 128) then min 16 (p.goodSyncs + 1) else 0

/-- A Sync: its timestamp is brought to the MDI and corrected for ASYMMETRY, OFFSET follows, and the S6's time follows its master's. The
sixteenth good one in a row locks. -/
def State.sync (s : State) (m : PtpSync) : State :=
  let from_ := m.received - s.ptpRxLatency - m.origin
  let offset := clampS32 (from_ - s.ptpAsymmetry - s.ptp.meanPathDelay)
  let n := s.ptp.count offset
  let locks := !s.ptp.locked && n == 16
  let s1 : State := { s with
    ptp := { s.ptp with fromMaster := from_, offset := offset, goodSyncs := n, locked := s.ptp.locked || locks,
                        portState := if s.ptp.locked || locks then 9 else 8 },
    clocks := { s.clocks with ptpNs := ((s.clocks.ptpNs : Int) - offset / 16).toNat } }
  if locks then s1.log { code := 0x0A07, severity := 0, detail := 1 } else s1

def execPtpSync (m : PtpSync) (s : State) : Host.Outcome State Fault Refusal := .next (s.sync m)

/-- A Delay_Resp: the mean of the two directions. -/
def State.delayResp (s : State) (sent received : Int) : State :=
  s.onPtp fun p => { p with meanPathDelay := (clampU32 ((p.fromMaster + (received - (sent + s.ptpTxLatency))) / 2) : Nat) }

def execPtpDelayResp (sent received : Int) (s : State) : Host.Outcome State Fault Refusal := .next (s.delayResp sent received)

/-- 2 s without a Sync: LOCKED is cleared, the time runs on. -/
def State.unlock (s : State) : State :=
  if s.ptp.locked then
    (s.onPtp fun p => { p with locked := false, goodSyncs := 0, portState := 4 }).log { code := 0x0A07, severity := 1 }
  else s

def execPtpUnlocked (s : State) : Host.Outcome State Fault Refusal := .next s.unlock

end Sys2Proof.Machine
end

