-- ==== Sys2Proof/Machine/Bringup.lean ====
section
/-! DEFINITION. Wakes, bring-up, hub start and the reset classes (13 R400 to R404; 17 R530 to R540; 00 R5, R6; 16 R493, R498). -/

namespace Sys2Proof.Machine

open Sys2Proof

/-! ### Wakes (R531, R533, R537) -/

/-- An asynchronous wake raised (R559). -/
def State.countWake (s : State) : State := s.onClocks fun c => { c with wakes := satAdd 32 c.wakes 1 }

/-- A request for a die's spine: it is clocked. -/
def State.wakeSpine (s : State) (d : Nat) : State :=
  if (s.die d).spineClocked || !s.unitsMayRun then s
  else s.countWake.modDie d fun x => { x with spineClocked := true, spineLocked := true, spineSetting := max 9 (s.spineTarget d) }

/-- A request for a half: it is clocked, and the spine with it (R209, R211). A half that nothing has given a setting runs at 9. -/
def State.wakeHalf (s : State) (h : Nat) : State :=
  if (s.half h).clocked || !s.unitsMayRun then s
  else
    let s1 := s.countWake.modHalf h fun x => { x with clocked := true, locked := true, setting := max 9 x.setting }
    s1.modDie (h / 2) fun x => { x with spineClocked := true, spineLocked := true, spineSetting := max 9 (s1.spineTarget (h / 2)) }

/-- A request for a stack: it leaves self-refresh, unless its temperature keeps it there (R529). -/
def State.wakeStack (s : State) (t : Nat) : State :=
  if (s.stack t).clocked || !s.unitsMayRun then s
  else s.countWake.modStack t fun k => if k.thermal == .selfRefresh then k else { k with selfRefresh := false, clocked := true }

/-- A request for a hub function. -/
def State.wakeHub (s : State) (p : Nat) : State :=
  if s.clocks.hubClocked.getLsbD p then s
  else s.countWake.onClocks fun c => { c with hubClocked := c.hubClocked ||| (1#16 <<< p) }

/-! ### Core maps at bring-up (R205, R465) -/

/-- A cluster's map built, its half failed where too few cores are good. -/
def State.bringMap (s : State) (k : Nat) : State :=
  let s1 := s.buildMap k
  if s.mapPositions (s.goodCores k) = 0 then s1.modHalf (clusterOf k).half fun h => { h with failed := true } else s1

/-- The maps of the clusters that no job holds. -/
def State.bringMaps (s : State) (ks : List Nat) : State :=
  ks.foldl (fun t k => if (t.halfJob? (clusterOf k).half).isSome then t else t.bringMap k) s

/-! ### Hub start (R5, R6, R402, R493, R498, R528, R538, R561) -/

def Stack.clearCounts (k : Stack) (now : Nat) : Stack :=
  { k with ceCount := 0, retryCount := 0, reconCount := 0, mirageCount := 0, rowsSpared := 0, scrubPasses := 0, lineOps := 0, hotTimeMs := 0,
           hotSince := now }

/-- Every count that runs from hub start (R213, R208, R291, R374, R415, R473, R475, R512, R547, R550, R562 to R565). -/
def State.clearHubCounts (s : State) : State :=
  { s with
    tielux := s.tielux.map (fun e => (e.1, e.2.clearCounts s.nowNs)),
    dies := s.dies.map (fun e => (e.1, { e.2 with holdCycles := 0, holdEvents := 0, linkRetries := 0, stretches := 0 })),
    clusters := s.clusters.map (fun e => (e.1, { e.2 with swapCount := 0 })),
    port := { s.port with fecCorrected := 0, fecUncorrectable := 0, rxDropped := 0, preemptions := 0 },
    optics := { s.optics with switches := 0 },
    transport := { s.transport with authFail := 0, windowDrop := 0, retransmits := 0, bulkDiscarded := 0, nextSession := 1 },
    integrity := { s.integrity with replays := 0, disagreements := 0, rollbacks := 0, parityErrors := 0, kakFailed := 0 },
    power := { s.power with stretchEvents := 0 },
    clocks := { s.clocks with jitterRelocks := 0, hubClocked := 0x0033, hubLocked := true, refRunning := true },
    thermal := { s.thermal with events := 0 },
    bist := { s.bist with slices := 0 },
    entropy := {},
    headers := [],
    config := { s.config with eventNext := 0, eventsHeld := 0 } }

/-- Does a configuration record verify (R4, R5). -/
def configVerifies (r : Bytes) : Bool := pssVerify Config.neholtModulus (sha256 (r.take 0x13B8)) (r.drop 0x13B8)

/-- START_FAULT (R560). -/
def startFaultOf (hubOnly bootRom : Bool) : BitVec 16 := if hubOnly then 0x0611 else if bootRom then 0x060F else 0

/-- The configuration record checked: a record written since the last start comes into force first. -/
def State.startConfig (s : State) : State :=
  let r := s.config.next.getD s.config.record
  let ok := configVerifies r
  s.onConfig fun c => { c with record := r, next := none, writing := none, configOk := ok, hubOnly := !ok }

/-- The flash image checked: without one that passes, the hub runs from boot ROM. -/
def State.startFirmware (s : State) : State :=
  let ok := firmwareOk s.journal.settings.minSecurityVersion s.security.flashImage
  let s1 := s.onSecurity fun x =>
    { x with flashOk := ok, firmware := if ok then x.flashImage else [], update := .idle, newFirmware := [], fwReq := none,
             m0Ok := true, m1Ok := true, standbyOk := true, activeM1 := false, scan := false }
  s1.onConfig fun c => { c with bootRom := !ok, startFault := startFaultOf c.hubOnly (!ok), hubStarted := true, hubUnusable := false }

/-- The identity unwrapped. -/
def State.startIdentity (s : State) : State :=
  let ok := Config.identityUnwraps s.identityBlob
  let s1 := s.onSecurity fun x => { x with identityOk := ok, claimKey := if ok then Config.claimKey s.identityBlob else [] }
  if ok then s1 else s1.log { code := 0x0624, severity := 2 }

/-- The journal checked, and the start counted. A journal that a loss of both feeds left is consistent if the shed closed it. -/
def State.startJournal (s : State) : State :=
  s.onJournal fun j => { j with
    cleanStart := j.lastReset != .bothFeeds || j.closed || j.hubStarts == 0, pathsAgree := true, closed := false,
    hubStarts := satAdd 32 j.hubStarts 1 }

/-- SHED, logged at the start after it, naming the second of the second loss. -/
def State.startShed (s : State) : State :=
  if s.power.shedPending then
    (s.log { code := 0x0822, severity := 2, kind := 8, detail := BitVec.ofNat 64 s.power.shedSec }).onPower fun p => { p with shedPending := false }
  else s

/-- The hub starts: at power good, and after a reset of the hub. One that is READY, or has no VHUB, or still sheds, does not. -/
def State.hubStart (s : State) : State :=
  if s.config.hubReady || !s.power.vhubOn || s.power.shedding then s
  else
    let s1 := s.interruptLoads.clearHubCounts.startConfig.startFirmware.startJournal.startIdentity.startShed
    if s1.config.hubOnly then s1 else s1.bringMaps (List.range 384)

def execHubStart (s : State) : Host.Outcome State Fault Refusal := .next s.hubStart

/-! ### READY and its bounds (R299, R538 to R540) -/

/-- RESET commands whose class restarts the hub complete (R404). -/
def State.completeResets (s : State) : State :=
  (s.journal.resetDone.foldl (fun t r => t.done r.1 none r.2 blankRecord) s).onJournal fun j => { j with resetDone := [] }

/-- May a half come up: not failed, its die powered and usable, the record verified at a hub start (R5, R6). -/
def State.halfMayRun (s : State) (h : Nat) : Bool :=
  !(s.half h).failed && !(s.die (h / 2)).railOff && s.dieUsable (h / 2) && s.unitsMayRun

/-- A half ready: clocked, playa initialised, core map built, spine and seam tested. -/
def State.halfReady (s : State) (h : Nat) : State :=
  if s.halfMayRun h && !(s.half h).unusable then
    let s1 := s.bringMaps ((halfClusters h).filter fun k => !(s.cluster k).mapBuilt)
    if (s1.half h).failed then s1
    else (s1.wakeHalf h).modHalf h fun x => { x with ready := true }
  else s

def State.becomeReady (s : State) : ReadyUnit → State
  | .aon => if s.power.vaonOn then s.onClocks fun c => { c with refRunning := true } else s
  | .hub =>
    if s.power.vhubOn && s.config.hubStarted && !s.config.bootRom && !s.config.hubReady then
      (s.onConfig fun c => { c with hubReady := true }).completeResets
    else s
  | .port => if s.port.linkUp then s.onConfig fun c => { c with portUnusable := false } else s
  | .entropy => if s.entropy.ready then s.onConfig fun c => { c with entropyUnusable := false } else s
  | .half h => s.halfReady h.val
  | .stack t =>
    s.modStack t.val fun k =>
      if k.failed || k.unusable || k.thermal == .selfRefresh || !s.unitsMayRun then k
      else { k with ready := true, clocked := true, pllLocked := true, selfRefresh := false }

def execUnitReady (unit : ReadyUnit) (s : State) : Host.Outcome State Fault Refusal := .next (s.becomeReady unit)

/-- Is a function ready. -/
def State.isReady (s : State) : ReadyUnit → Bool
  | .aon => s.power.vaonOn && s.clocks.refRunning
  | .hub => s.config.hubReady
  | .port => s.port.linkUp
  | .entropy => s.entropy.ready
  | .half h => (s.half h.val).ready
  | .stack t => (s.stack t.val).ready

def readyEvent : ReadyUnit → Nat × Word
  | .aon => (0, unitWord 0xFF 0xFF 0xFF 0)
  | .hub => (0, BitVec.allOnes 32)
  | .port => (7, BitVec.allOnes 32)
  | .entropy => (0, unitWord 0xFF 0xFF 0xFF 0xB)
  | .half h => (2, unitWord (h.val / 2) 0xFF 0xFF (h.val % 2))
  | .stack t => (5, unitWord t.val 0xFF 0xFF 0xFF)

/-- The placement of a job that waits for a half is dropped: it looks for another at once, and ends with HALF_STOPPED when no placement
remains. -/
def State.dropPlacement (s : State) (slot : Nat) : State :=
  match s.job? slot with
  | none => s
  | some j =>
    let now := s.nowNs
    let s1 := s.clearRegion j.region
    let s2 :=
      if j.state = .restoring then
        s1.setJob slot { j with state := .preempted, region := [], reserved := false, waitedNs := 0, waitSince := now }
      else (s1.freeJobMemory j).setJob slot { j.fresh with state := .waiting, waitSince := now }
    if (s2.tilingOrder j).any fun k => (s2.place? (s2.program j) (progTiling (s2.program j) k) (s2.halfServing j.owner)).isSome then s2.admitJobs
    else s2.endJob slot 0x0207 0 0

def State.dropPlacements (s : State) (h : Nat) : State :=
  (s.residentSlots fun j => j.region.contains h && (j.state == .admitting || j.state == .restoring)).foldl State.dropPlacement s

/-- A function marked unusable. A hub that misses its bound starts again from the boot ROM (R498). -/
def State.markUnusable (s : State) : ReadyUnit → State
  | .aon => s
  | .hub => (s.onSecurity fun x => { x with firmware := [], flashOk := false }).onConfig fun c =>
      { c with bootRom := true, hubUnusable := true, startFault := startFaultOf c.hubOnly true }
  | .port => s.onConfig fun c => { c with portUnusable := true }
  | .entropy => s.onConfig fun c => { c with entropyUnusable := true }
  | .half h => (s.modHalf h.val fun x => { x with unusable := true }).dropPlacements h.val
  | .stack t => s.modStack t.val fun k => { k with unusable := true }

def State.readyTimeout (s : State) (u : ReadyUnit) : State :=
  if s.isReady u then s
  else (s.log { code := 0x0828, severity := 2, kind := (readyEvent u).1, unit := (readyEvent u).2 }).markUnusable u

def execReadyTimeout (unit : ReadyUnit) (s : State) : Host.Outcome State Fault Refusal := .next (s.readyTimeout unit)

/-! ### Reset classes (R271, R400 to R402) -/

def execDieReset (die : Fin 6) (s : State) : Host.Outcome State Fault Refusal := .next (s.resetDie die.val)

/-- A firmware load that has not completed ends (R402). -/
def State.interruptFirmware (s : State) : State :=
  let got := s.security.newFirmware.length
  let s1 := s.onSecurity fun x => { x with
    flashImage := if x.update == .flashPending then [] else x.flashImage, update := .idle, newFirmware := [], fwReq := none }
  match s.security.fwReq with
  | some (fpr, req) => s1.done fpr none req { blankRecord with status := 0x010C, detail0 := BitVec.ofNat 64 got }
  | none => s1

/-- The hub's own registers when it goes down; a configuration write under way ends in status 0x0003. -/
def State.atHubDown (s : State) : State :=
  { s with
    transport := { s.transport with pendingReplies := [], pendingAssign := none, opens := [], nonceUsed := true, source := {}, express := [], bulk := [], out := [], sent := [] },
    entropy := {}, ptp := {},
    security := { s.security with scan := false },
    bist := { s.bist with item := 0, unit := BitVec.allOnes 32 },
    config := { s.config with hubReady := false, hubStarted := false, writing := none,
                              status := if s.config.writing.isSome then 0x0003 else s.config.status } }

/-- Hub die H goes down, AON and the journal apart: sessions end, loads are interrupted, the port retrains, the entropy block and PTP
start over, stacks rest; the hub is READY again when it has started. -/
def State.hubGoesDown (s : State) : State :=
  ((List.range 6).foldl State.restStacks
    (s.dropSessions (s.transport.sessions.map (·.id))).interruptLoads.interruptFirmware.restartPort).atHubDown

/-- Hub warm reset: regions hold at their next step commit until the hub is READY (R400), and fixed-cadence jobs are demoted. -/
def State.hubWarm (s : State) : State :=
  let s1 := (s.countReset .hubWarm).hubGoesDown
  s1.demoteAll s1.fixedSlots 6

def execHubWarmReset (s : State) : Host.Outcome State Fault Refusal := .next s.hubWarm

/-- What READY_TIMEOUT marked unusable is tried again (R540); a unit without a usable sensor stays as it is (R542). -/
def State.tryUnusable (s : State) : State :=
  { s with halves := s.halves.map (fun e => (e.1, { e.2 with unusable := false })),
           tielux := s.tielux.map fun e => (e.1, { e.2 with unusable := mget false s.thermal.unusable (24 + e.1) }) }

/-- Module warm reset: hub, every compute die and optics restart, and running jobs restart (R401). -/
def State.moduleWarm (s : State) : State :=
  let s1 := (s.countReset .moduleWarm).hubGoesDown
  let s2 := s1.restartJobs (s1.residentSlots fun _ => true)
  ((List.range 6).foldl State.restartDie s2).tryUnusable

def execModuleWarmReset (s : State) : Host.Outcome State Fault Refusal := .next s.moduleWarm

/-! ### RESET (R404, R478, R494) -/

def State.resetFault (s : State) (x : Session) : Option LoadFault :=
  firstFault [needs (x.role == .installer) 0x0601 0 0, needs (!s.config.bootRom) 0x060F 0 0, s.roomFault 1]

def resetCode : ResetClass → Nat × Nat
  | .port => (0, 0) | .hubWarm => (1, 0) | .die d => (2, d.val) | .moduleWarm => (3, 0)

/-- The class carried out; one that restarts the hub completes when the hub is READY again. -/
def State.resetAs (s : State) (fpr : Bytes) (want : Option Nat) (req : Nat) : ResetClass → State
  | .port => s.resetPort.done fpr want req blankRecord
  | .die d => (s.resetDie d.val).done fpr want req blankRecord
  | .hubWarm => (s.onJournal fun j => { j with resetDone := j.resetDone ++ [(fpr, req)] }).hubWarm
  | .moduleWarm => (s.onJournal fun j => { j with resetDone := j.resetDone ++ [(fpr, req)] }).moduleWarm

def State.resetCommand (s : State) (x : Session) (req : Nat) (c : ResetClass) : State :=
  s.ruled x req (s.resetFault x) fun t =>
    ((t.auditBy x 0 0x0008 0 (beBytes 1 (resetCode c).1 ++ beBytes 1 (resetCode c).2)).accept x req 0 1 blankRecord).resetAs x.fpr (some x.id) req c

def execReset (h : CmdHead) (cls : ResetClass) (s : State) : Host.Outcome State Fault Refusal :=
  .next (s.command h.sess h.req fun t x => t.resetCommand x h.req cls)

end Sys2Proof.Machine
end

