-- ==== Sys2Proof/Machine/Bist.lean ====
section
/-! DEFINITION. Self-test slices (07 R207; 12 R363, R365, R367; 17 R520, R541, R543; 18 R564). -/

namespace Sys2Proof.Machine

open Sys2Proof

/-- A slice counted. -/
def State.countSlice (s : State) : State := s.onBist fun b => { b with slices := satAdd 32 b.slices 1 }

/-- A failure logged with BIST_FAIL and kept as the latest. -/
def State.bistFail (s : State) (u : Nat × Word) (item : Nat) : State :=
  let s1 := s.log { code := 0x0829, severity := 2, kind := u.1, unit := u.2, operation := 0xFF86, detail := BitVec.ofNat 64 item }
  (s1.onJournal fun j => { j with bistFailures := satAdd 32 j.bistFailures 1 }).onBist fun b =>
    { b with lastFailUnit := u.2, lastFailItem := item }

/-- The item and the unit that BIST is busy with from one slice to the next. -/
def State.bistBusy (s : State) (item : Nat) (u : Word) : State := s.onBist fun b => { b with item := item, unit := u }

/-- Does a position of a cluster stand on a core. -/
def Cluster.maps (c : Cluster) (n : Nat) : Bool := c.coreMap.contains (some n)

/-- The copy that brings a tested core's position back to it (R207). -/
def Cluster.bringBack (c : Cluster) (n : Nat) : Cluster :=
  match c.underTest, c.copy with
  | some q, none =>
    if q.source = n ∧ c.maps n = false then
      match c.coreMap.getD q.pos none with
      | some d => { c with copy := some { pos := q.pos, source := d, dest := n, why := .back } }
      | none => c
    else c
  | _, _ => c

/-- A core that a job's work stands on is moved to a free spare before its test; without a free spare it is not tested (R207). -/
def State.bistMove (s : State) (p : PhysCore) : State :=
  let k := p.cl.key
  if (s.cluster k).freeSpare?.isSome && (s.cluster k).copy.isNone then
    (s.startCopy k p.num.val .bist).bistBusy 1 (UnitRef.core p).event.2
  else s

/-- A core tested: one that passes takes its position back; one that fails is charged a confirmed fault, and carries no work again. -/
def State.bistTest (s : State) (p : PhysCore) (pass : Bool) : State :=
  let k := p.cl.key
  let u := (UnitRef.core p).event
  let s1 := ((s.wakeHalf p.cl.half).countSlice.bistBusy 0 (BitVec.allOnes 32)).onBist fun b =>
    { b with tested := mset 0 b.tested (UnitRef.core p).code (s.nowSec + 1) }
  if pass then
    s1.modCluster k fun c => (c.setSpare p.num.val (if c.maps p.num.val then .holding else .free)).bringBack p.num.val
  else
    let s2 := s1.modCluster k fun c => { c.setSpare p.num.val .retired with
      health := mset .good c.health p.num.val .notGood, underTest := none, copy := c.copy.filter fun q => q.dest != p.num.val }
    (s2.bistFail u 1).chargeUnit (.core p)

def State.bistCore (s : State) (p : PhysCore) (pass : Bool) : State :=
  let c := s.cluster p.cl.key
  let held := (s.halfJob? p.cl.half).isSome
  if (s.half p.cl.half).failed || !s.unitsMayRun || !(s.goodCores p.cl.key).contains p.num.val then s
  else if held && c.maps p.num.val then s.bistMove p
  else s.bistTest p pass

/-- The region of a bank group, its spare rows and its metadata; one that fails is marked unusable, and no row is moved to its spare rows (R541,
R543). -/
def State.bistStack (s : State) (t g : Nat) (pass : Bool) : State :=
  if (s.stack t).failed || !s.unitsMayRun then s
  else if pass then (s.wakeStack t).countSlice
  else
    ((s.wakeStack t).modStack t fun k => { k with badRegions := k.badRegions.filter (· != g) ++ [g], spareRowsLeft := 0 }).countSlice.bistFail
      (5, unitWord t 0xFF 0xFF 0xFF) 2

/-- The standby laser turned up into the monitor path; one that fails is marked failed (R365, R367). -/
def State.bistLaser (s : State) (pass : Bool) : State :=
  let idle := if s.optics.activeLb then s.optics.la else s.optics.lb
  if idle != .standby then s
  else if pass then s.countSlice
  else
    (s.countSlice.onOptics fun o => if o.activeLb then { o with la := .failed } else { o with lb := .failed }).bistFail
      (7, unitWord 0xFF 0xFF 0xFF (bit (!s.optics.activeLb))) 3

/-- Is a lane idle: one group carries the link, and the lane is of the other (R363). -/
def Port.laneIdle (p : Port) (n : Nat) : Bool :=
  p.linkUp && ((p.mode == .dr4Low && decide (4 ≤ n)) || (p.mode == .dr4High && decide (n < 4)))

def State.bistLane (s : State) (n : Nat) (pass : Bool) : State :=
  if !s.port.laneIdle n then s
  else if pass then s.countSlice
  else (s.countSlice.bistFail (7, unitWord 0xFF 0xFF 0xFF n) 4).laneFail n

/-- HOLDUP_CAP_NOM (R545). -/
def State.holdupNominal (s : State) : Nat := s.recField 0xF54 2

/-- The hold-up bank measured (R520): HOLDUP_OK stands on at least 70 % of the nominal capacitance and 45 V. -/
def State.bistHoldup (s : State) (cap mv : Nat) : State :=
  let ok := decide (7 * s.holdupNominal ≤ 10 * cap) && decide (45000 ≤ mv)
  let s1 := (s.countSlice.onPower fun p => { p with holdupCap := min 65535 cap, holdupMv := min 65535 mv }).onJournal fun j => { j with holdupOk := ok }
  if ok then s1
  else
    let s2 := if s.journal.holdupOk then s1.log { code := 0x0827, severity := 1, kind := 8, operation := 0xFF86, detail := BitVec.ofNat 64 cap } else s1
    s2.bistFail (8, BitVec.allOnes 32) 5

def State.bistSlice (s : State) (item : BistItem) (pass : Bool) : State :=
  match item with
  | .core p => s.bistCore p pass
  | .stackRegion t g => s.bistStack t.val g.val pass
  | .laser => s.bistLaser pass
  | .lane n => s.bistLane n.val pass
  | .holdup cap mv => s.bistHoldup cap mv

def execBistSlice (item : BistItem) (pass : Bool) (s : State) : Host.Outcome State Fault Refusal := .next (s.bistSlice item pass)

end Sys2Proof.Machine
end

