-- ==== Sys2Proof/Machine/Integrity.lean ====
section
/-! DEFINITION. Result integrity (15): checks and their majority, known-answer kernels, observation, coupling digests, hung halves;
oasis copies and degraded clusters (07 R206, 15 R465). -/

namespace Sys2Proof.Machine

open Sys2Proof

/-! ### Candidates for a replay (R455) -/

/-- The slice of a cluster in its half, 0 to 31. -/
def sliceOf (k : Nat) : Nat := k % 64 / 8 * 4 + k % 4

/-- The cluster at slice k of a physical half. -/
def halfSlice (h k : Nat) : Nat := 64 * (h / 2) + k / 4 * 8 + k % 4 + 4 * (h % 2)

/-- The candidate clusters of a cluster of a region, in list order. -/
def candidates (region : List Nat) (cl : Nat) : List Nat :=
  let h := (clusterOf cl).half
  let i := region.findIdx (· == h)
  let k := sliceOf cl
  let others := ((List.range region.length).map fun d => region.getD ((i + 1 + d) % region.length) h).filter fun x => x / 2 != h / 2
  let seam := region.filter fun x => x != h && x / 2 == h / 2
  others.map (halfSlice · k) ++ seam.map (halfSlice · k) ++ [1, 2, 3].map fun x => halfSlice h (k ^^^ x)

/-- The physical core that replays a check: the first candidate for the checker, the second for the third core. -/
def State.replayCore (s : State) (j : Job) (c : Check) (n : Nat) : Option PhysCore :=
  ((candidates j.region c.cluster.key)[n]?).bind fun k => ((s.cluster k).coreMap.getD c.pos none).map fun m => physOf k m

def State.checkedCore (s : State) (c : Check) : Option PhysCore :=
  ((s.cluster c.cluster.key).coreMap.getD c.pos none).map fun m => physOf c.cluster.key m

/-- The primary's check digest of a step (R458). -/
def State.primaryDigest (s : State) (c : Check) : DWord := mget 0 (s.coreAt c.cluster.key c.pos).checkCrc c.step

/-- The held inputs of a check (R456): the core's playa and state file as they stood at the start of the step, from their present values and the
undo log, with the check log of the step. A caravan beat is read again from its source and is not held here. -/
def State.heldInputs (s : State) (c : Check) : Core × List CheckWord :=
  let x := s.coreAt c.cluster.key c.pos
  let back := x.undoTo c.step []
  ({ playa := back.playa, playaPoison := back.playaPoison, playaExps := back.playaExps, slots := back.slots }, mget [] x.checkLog c.step)

/-! ### Retraction (14 R438) -/

/-- A halo that was sent from a step whose check failed is taken back: the attempt rises, RETRACT goes to every neighbour. -/
def State.retractFrom (s : State) (slot epoch : Nat) : State :=
  match s.job? slot with
  | none => s
  | some j =>
    match j.group with
    | none => s
    | some g =>
      if g.sent.any fun b => decide (epoch ≤ b.epoch) then
        let g1 := { g with attempt := g.attempt + 1 }
        ((s.setJob slot { j with group := some g1 }).toNeighbours g1 (.retract g1.groupId g1.member g1.attempt epoch)).log
          (j.event { code := 0x0A18, severity := 1, detail := BitVec.ofNat 64 epoch })
      else s

/-- The halo of a step sent again, at the present attempt, from the states as committed: the halo tail re-issued (R438). -/
def State.resendHalo (s : State) (slot epoch : Nat) : State :=
  match s.job? slot with
  | none => s
  | some j =>
    match j.group with
    | none => s
    | some g =>
      let again := (g.sent.filter fun b => b.epoch == epoch).map fun b => { b with attempt := g.attempt }
      let g1 := { g with sent := (g.sent.filter fun b => decide (b.epoch < epoch)) ++ again }
      again.foldl (fun t b => t.toNeighbour g1 (grpChannel g1.record b.channel).dst (g1.haloPacket b)) (s.setJob slot { j with group := some g1 })

/-- The epoch whose halo a step sends: the first after the one that stood before the step. -/
def Job.haloOf (j : Job) (step : Nat) : Nat :=
  match (j.stepEnds.filter fun e => decide (e.step < step)).getLast? with
  | some e => e.epoch + 1
  | none => j.committedEpoch + 1

/-! ### Checks (R460 to R462, R470) -/

/-- A step's check resolved. -/
def Job.resolve (j : Job) (c : Check) (f : Check → Check) : Job :=
  { j with checks := modFirst (fun x : Check => x.step == c.step && x.cluster == c.cluster && x.pos == c.pos) f j.checks }

/-- A step fails its check: a halo it sent is retracted, and the job rolls back (R438, R451, R452). -/
def State.failCheck (s : State) (slot step : Nat) : State :=
  match s.job? slot with
  | none => s
  | some j => (s.retractFrom slot (j.haloOf step)).failStep slot step

def State.suspect (s : State) (u : Option PhysCore) : State :=
  match u with
  | some p => s.observe (.core p)
  | none => s

def State.suspectAndCharge (s : State) (u : Option PhysCore) : State :=
  match u with
  | some p => (s.observe (.core p)).chargeUnit (.core p)
  | none => s

/-- The checker's replay has completed (R460, R470). -/
def State.checkerDone (s : State) (slot : Nat) (j : Job) (c : Check) (digest : DWord) : State :=
  if digest = s.primaryDigest c then s.setJob slot (j.resolve c fun x => { x with checker := some digest, resolved := true })
  else
    let s1 := s.onIntegrity fun i => { i with disagreements := satAdd 32 i.disagreements 1 }
    let p := s.checkedCore c
    let u := match p with | some q => (UnitRef.core q).event | none => (0, BitVec.allOnes 32)
    let s2 := s1.log (j.event { code := 0x0511, severity := 2, kind := u.1, unit := u.2, operation := 0xFF85, detail := BitVec.ofNat 64 c.step })
    if s.journal.settings.replayMode then (s2.suspectAndCharge p).failCheck slot c.step
    else (s2.demote slot 5).modJob slot fun k => k.resolve c fun x => { x with checker := some digest }

/-- The majority excludes the primary (R461): the step keeps the majority's outputs, which are those the rules give and the state
holds (log entry 30), and every later uncommitted step is rolled back. A second exclusion in one step rolls the step back (R462). -/
def State.majority (s : State) (slot : Nat) (j : Job) (c : Check) (digest : DWord) : State :=
  if j.checks.any fun x => x.step == c.step && x.majority.isSome then s.failCheck slot c.step
  else
    match j.stepEnds.find? fun e => e.step == c.step with
    | none => s.failCheck slot c.step
    | some e =>
      let s1 := (s.setJob slot (j.resolve c fun x => { x with resolved := true, majority := some digest })).retractFrom slot (j.haloOf c.step)
      let s2 := s1.rewindTo slot e.point fun k => mget [] k.groupsAtStep e.step
      ((if j.group.any fun g => g.sent.any fun b => decide (j.haloOf c.step ≤ b.epoch) then s2.resendHalo slot (j.haloOf c.step) else s2)).log
        (j.event { code := 0x0512, severity := 1, operation := 0xFF85, detail := BitVec.ofNat 64 c.step })

/-- The third core's replay has completed (R460). -/
def State.thirdDone (s : State) (slot : Nat) (j : Job) (c : Check) (digest : DWord) : State :=
  let primary := s.checkedCore c
  let checker := s.replayCore j c 0
  if digest = s.primaryDigest c then
    (s.setJob slot (j.resolve c fun x => { x with resolved := true })).suspectAndCharge checker
  else if c.checker = some digest then (s.majority slot j c digest).suspectAndCharge primary
  else ((s.suspect primary).suspect checker).failCheck slot c.step

/-- A replay of a core completes: it is compared with the oldest check of that core that has not resolved (R460). -/
def State.checkResolve (s : State) (slot : Nat) (core : LogicalCore) (stage : ReplayStage) (digest : DWord) : State :=
  match s.job? slot with
  | none => s
  | some j =>
    match j.checks.find? fun c => c.cluster == core.cl && c.pos == core.pos.val && !c.resolved with
    | none => s
    | some c =>
      let s1 := s.onIntegrity fun i => { i with replays := satAdd 64 i.replays 1 }
      match stage with
      | .checker => if c.checker.isNone then s1.checkerDone slot j c digest else s
      | .third => if c.checker.isSome then s1.thirdDone slot j c digest else s

def execCheckResolve (job : Fin 4096) (core : LogicalCore) (stage : ReplayStage) (digest : DWord) (s : State) :
    Host.Outcome State Fault Refusal := .next (s.checkResolve job.val core stage digest)

/-! ### Oasis copies and degraded clusters (R206, R465) -/

/-- The copy to a spare completes: the switch waits for the job's next STEP mark, or is made at once where no job holds the half. -/
def State.copyDone (s : State) (cl : ClusterRef) (n : Nat) : State :=
  match (s.cluster cl.key).copy with
  | none => s
  | some q =>
    if q.dest ≠ n ∧ q.source ≠ n then s
    else if (s.halfJob? cl.half).isSome then s.modCluster cl.key fun c => { c with copy := some { q with done := true } }
    else s.modCluster cl.key fun c => c.switch q

def execOasisCopyDone (cl : ClusterRef) (spare : Bool) (s : State) : Host.Outcome State Fault Refusal :=
  .next (s.copyDone cl (if spare then 65 else 64))

/-- A cluster that no job holds and that lacks a core: its map is built anew (R465). With fewer than 60 good cores its half is failed. -/
def State.clusterDegrade (s : State) (cl : ClusterRef) : State :=
  if (s.halfJob? cl.half).isSome then s
  else
    let n := s.mapPositions (s.goodCores cl.key)
    let s1 := s.buildMap cl.key
    if n = 0 then s1.modHalf cl.half fun h => { h with failed := true }
    else if n = 60 then
      s1.log { code := 0x0519, severity := 1, kind := 3, unit := unitWord cl.die.val cl.num.val 0xFF 0xFF }
    else s1

def execClusterDegraded (cl : ClusterRef) (s : State) : Host.Outcome State Fault Refusal := .next (s.clusterDegrade cl)

/-- A unit's observation ends after 4,096 committed steps: without a confirmed fault in it, the unit's count returns to zero (R463,
R464). -/
def State.observationEnd (s : State) (u : UnitRef) : State :=
  match s.integrity.observed.find? fun o => o.1 == u with
  | none => s
  | some o =>
    let s1 := s.onIntegrity fun i => { i with observed := i.observed.filter fun x => x.1 != u }
    if o.2 then s1 else s1.onJournal fun j => { j with faults := mset 0 j.faults u.code 0 }

def execObservationEnd (unit : UnitRef) (s : State) : Host.Outcome State Fault Refusal := .next (s.observationEnd unit)

/-! ### Known-answer kernels (R467) -/

/-- A core's number within its die. -/
def dieCore (p : PhysCore) : Nat := 66 * p.cl.num.val + p.num.val

/-- The rotation's next core and kernel: cores in ascending order, and the next kernel when they have all run it (log entry 31). -/
def Die.rotate (d : Die) : Die :=
  if d.nextKakCore + 1 < 66 * 64 then { d with nextKakCore := d.nextKakCore + 1, kakCore := some (d.nextKakCore + 1) }
  else { d with nextKakCore := 0, kakCore := some 0, kakKernel := (d.kakKernel + 1) % 16 }

/-- A kernel completes on a core of an awake half: a digest other than the published one is a confirmed fault. -/
def State.kakComplete (s : State) (p : PhysCore) (kernel : Nat) (digest : DWord) : State :=
  if (s.half p.cl.half).clocked = false then s
  else
    let d := s.die p.cl.die.val
    let s1 := if d.nextKakCore = dieCore p ∧ d.kakKernel = kernel then s.modDie p.cl.die.val Die.rotate else s
    if digest = Config.kakDigest kernel then s1
    else
      let u := (UnitRef.core p).event
      let s2 := s1.onIntegrity fun i => { i with kakFailed := satAdd 32 i.kakFailed 1 }
      (s2.log { code := 0x0516, severity := 2, kind := u.1, unit := u.2, operation := 0xFF85, detail := BitVec.ofNat 64 kernel }).chargeUnit (.core p)

def execKakComplete (core : PhysCore) (kernel : Fin 16) (digest : DWord) (s : State) : Host.Outcome State Fault Refusal :=
  .next (s.kakComplete core kernel.val digest)

/-- A kernel that has not finished within 1 s is abandoned; it runs again later, as the rotation's place is kept. -/
def execKakTimeout (die : Fin 6) (s : State) : Host.Outcome State Fault Refusal :=
  .next (s.modDie die.val fun d => { d with kakCore := none })

/-! ### Coupling digests (R468, R469) -/

/-- The copy sets of a tiling: preload runs with equal KIND 0, FIRST, COUNT and bytes in different cores. -/
def copySets (p : Bytes) (t : Tiling) : List (List PreloadRun) :=
  let runs := (t.preloads p).filter fun r => r.kind == 0
  let same (a b : PreloadRun) : Bool := a.first == b.first && a.data == b.data
  let place (a : PreloadRun) : Nat × Nat × Nat := (a.half, a.cluster, a.core)
  ((List.range runs.length).zip runs).filterMap fun e =>
    if (runs.take e.1).any (same e.2) then none
    else
      let set := runs.filter (same e.2)
      if 2 ≤ (set.map place).eraseDups.length then some set else none

/-- The digest of a copy, in line order. -/
def State.copyDigest (s : State) (j : Job) (r : PreloadRun) : Bytes :=
  sha256 (readBytes (s.coreAt (j.runCluster r) r.core).playa r.data.length (64 * r.first))

/-- The digest that more than half of a set's copies have. -/
def majorityOf (ds : List Bytes) : Option Bytes := ds.find? fun d => decide (ds.length < 2 * (ds.filter (· == d)).length)

/-- A copy overwritten from a majority copy, and its core charged (R469). -/
def State.repairCopy (s : State) (j : Job) (from_ r : PreloadRun) : State :=
  let k := j.runCluster r
  match (s.cluster k).coreMap.getD r.core none with
  | none => s
  | some n =>
    let good := readBytes (s.coreAt (j.runCluster from_) from_.core).playa r.data.length (64 * r.first)
    (s.modCluster k fun c => { c with cores := mmod {} c.cores n fun (x : Core) => { x with playa := writeBytes x.playa (64 * r.first) good } }).chargeUnit
      (.core (physOf k n))

/-- One set compared: none when it holds no majority. The flag tells whether a copy was repaired. -/
def State.compareSet (s : State) (j : Job) (set : List PreloadRun) : Option (State × Bool) :=
  let ds := set.map (s.copyDigest j)
  match majorityOf ds with
  | none => none
  | some d =>
    let bad := set.filter fun r => s.copyDigest j r != d
    match set.find? fun r => s.copyDigest j r == d with
    | none => none
    | some g => some (bad.foldl (fun t r => t.repairCopy j g r) s, !bad.isEmpty)

/-- What the comparison of a job's sets found: whether a copy was repaired, and whether a set held no majority. -/
structure SetsCompared where
  repaired : Bool := false
  mismatch : Bool := false
  deriving DecidableEq, Repr

/-- The sets of a job compared in turn; a set without a majority repairs nothing, and the others' repairs stand. -/
def compareSets (j : Job) : List (List PreloadRun) → State → State × SetsCompared
  | [], s => (s, {})
  | x :: xs, s =>
    match s.compareSet j x with
    | none =>
      let r := compareSets j xs s
      (r.1, { r.2 with mismatch := true })
    | some (t, b) =>
      let r := compareSets j xs t
      (r.1, { r.2 with repaired := b || r.2.repaired })

/-- A repaired copy marked: COPY_REPAIRED and COPY_REPAIR_STEP, and event 0x0517 (R469). -/
def State.copyRepaired (s : State) (slot : Nat) (j : Job) (prev : Nat) : State :=
  (s.modJob slot fun x => { x with copyRepaired := true, copyRepairStep := if x.copyRepaired then min x.copyRepairStep prev else prev }).log
    (j.event { code := 0x0517, severity := 2, detail := BitVec.ofNat 64 prev })

/-- The comparison at a step-loop barrier whose commit is due it (R468, R469). -/
def State.copyCompare (s : State) (slot : Nat) : State :=
  match s.job? slot with
  | none => s
  | some j =>
    let k := s.journal.settings.cdigestInterval
    let p := s.program j
    let t := s.tilingOf j
    let at_ := (t.stepLoop? p).any fun l => l.2 == j.pc
    if k = 0 ∨ j.state ≠ .running ∨ j.committed ≠ j.step ∨ j.committed = 0 ∨ j.committed % k ≠ 0 ∨ at_ = false then s
    else
      let r := compareSets j (copySets p t) s
      let s1 := if r.2.repaired then r.1.copyRepaired slot j (j.committed - k) else r.1
      if r.2.mismatch then s1.endJob slot 0x0503 0 0 else s1

def execCopyDigestCompare (job : Fin 4096) (s : State) : Host.Outcome State Fault Refusal := .next (s.copyCompare job.val)

/-! ### Hung halves (R472) -/

/-- A half that for 10 ms neither issues, nor holds, nor waits at a barrier: its die is reset. -/
def State.hangReset (s : State) (h : Nat) : State :=
  match s.halfJob? h with
  | none => s
  | some (_, j) =>
    if j.issuing then
      (s.log (j.event { code := 0x0518, severity := 2, kind := 2, unit := unitWord (h / 2) 0xFF 0xFF (h % 2) })).resetDie (h / 2)
    else s

def execHangReset (half : Fin 12) (s : State) : Host.Outcome State Fault Refusal := .next (s.hangReset half.val)

end Sys2Proof.Machine
end

