-- ==== Sys2Proof/Machine/Group.lean ====
section
/-! DEFINITION. Run groups (14 R419 to R445): JOIN and its checks, the start barrier, and what a member's packets do. -/

namespace Sys2Proof.Machine

open Sys2Proof

/-! ### The schedule of halo words (R422, R435) -/

/-- A SYN word of a slice: opcode and PEER. -/
structure SynWord where
  op : Nat
  peer : Nat
  deriving DecidableEq, Repr

/-- The SYN words of word `w`, over every half and cluster. -/
def Tiling.synWords (p : Bytes) (t : Tiling) (w : Nat) : List SynWord :=
  (List.range t.numHalves).flatMap fun h => (List.range 32).filterMap fun k =>
    let v := t.slice p h w k
    let op := bitField v 58 6
    if op = 0x22 ∨ op = 0x23 ∨ op = 0x24 then some { op := op, peer := bitField v 45 8 } else none

/-- The counts of an epoch so far, by PEER; whether a SYN.EPOCH stands behind the words to come with no halo tail begun since, and whether a
tail has begun. -/
structure HaloCount where
  hout : SMap Nat := []
  hin : SMap Nat := []
  armed : Bool := false
  tail : Bool := false
  ok : Bool := true
  deriving DecidableEq, Repr

/-- Does an epoch's use of one direction match its channels: each channel's BEATS, or no beat at all (log entry 42). -/
def countsMatch (m : SMap Nat) (want : List (Nat × Nat)) : Bool :=
  m.isEmpty || ((want.all fun e => mget 0 m e.1 == e.2) && m.all fun e => want.any fun x => x.1 == e.1)

/-- Channels as (PEER, BEATS): outbound, and inbound halo channels. -/
def outWant (r : Bytes) (me : Nat) : List (Nat × Nat) :=
  ((grpChannelList r).filter fun e => e.2.src == me).map fun e => (e.2.srcPeer, e.2.beats)
def inWant (r : Bytes) (me : Nat) : List (Nat × Nat) :=
  ((grpChannelList r).filter fun e => e.2.dst == me && e.2.kind == 0).map fun e => (e.2.dstPeer, e.2.beats)

/-- May a word stand in a halo tail: SYN.HOUT, MOV.AG, MOV.MASK and NOP alone, and every router word zero (R435). -/
def Tiling.tailWord (p : Bytes) (t : Tiling) (w : Nat) : Bool :=
  (List.range t.numHalves).all fun h => (List.range 32).all fun k =>
    let v := t.slice p h w k
    let f := bitField v 122 6
    let d := bitField v 90 6
    let m := bitField v 58 6
    f == 0 && d == 0 && (m == 0 || m == 0x22 || m == 0x17 || m == 0x18) && bitField v 0 32 == 0

/-- One word issued: its SYN words counted, the epoch closed at SYN.EPOCH, the tail checked. A halo tail begins with the first SYN.HOUT after a
SYN.EPOCH, so the halo that a program sends before its first one is in no tail (R435). -/
def haloWord (r : Bytes) (me : Nat) (p : Bytes) (t : Tiling) (c : HaloCount) (w : Nat) : HaloCount :=
  let ws := t.synWords p w
  let bump (op : Nat) (m : SMap Nat) : SMap Nat := (ws.filter fun x => x.op == op).foldl (fun a x => mmod 0 a x.peer (· + 1)) m
  let out := bump 0x22 c.hout
  let inn := bump 0x23 c.hin
  let tail := c.tail || (c.armed && ws.any fun x => x.op == 0x22)
  let ok := c.ok && (!tail || t.tailWord p w)
  let tail' := tail && !ctlStep (t.control p 0 w)
  if ws.any fun x => x.op == 0x24 then
    { armed := true, ok := ok && countsMatch out (outWant r me) && countsMatch inn (inWant r me) }
  else { hout := out, hin := inn, armed := c.armed && !tail, tail := tail', ok := ok }

/-- The words issued in turn from a word, with the loops' counts given; `fuel` words are left. -/
def haloTrace (r : Bytes) (me : Nat) (p : Bytes) (t : Tiling) (cnt : Nat → Nat) : Nat → Nat → List LoopFrame → HaloCount → HaloCount
  | 0, _, _, c => c
  | fuel + 1, pc, loops, c =>
    if t.words ≤ pc then c
    else
      let v := t.control p 0 pc
      let z := ctlLoopLast v
      let opens := ctlLoopOpen v && !(loops.head?.any fun f => f.first == pc && f.last == z)
      if opens && cnt pc == 0 then
        let e := endTests z loops
        haloTrace r me p t cnt fuel e.2 e.1 c
      else
        let c1 := haloWord r me p t c pc
        if ctlEnd v then { c1 with ok := c1.ok && countsMatch c1.hout (outWant r me) && countsMatch c1.hin (inWant r me) }
        else
          let e := endTests pc (if opens then { first := pc, last := z, left := cnt pc } :: loops else loops)
          haloTrace r me p t cnt fuel e.2 e.1 c1

/-- The count that a loop is traced with: a loop without SYN words runs once, one that holds a whole epoch at most three times, any other in
full. -/
def haloLoopCount (p : Bytes) (t : Tiling) (params : List Word) (w : Nat) : Nat :=
  let v := t.control p 0 w
  let n := if ctlCountSrc v then (params.getD (ctlCount v % 8) 0).toNat else ctlCount v
  let body := (List.range (ctlLoopLast v + 1 - w)).flatMap fun i => t.synWords p (w + i)
  if body.isEmpty then min n 1 else if body.any fun x => x.op == 0x24 then min n 3 else n

/-- Does a tiling's schedule fit a member's channels (R422, R435). -/
def haloScheduleOk (r : Bytes) (me : Nat) (p : Bytes) (t : Tiling) (params : List Word) : Bool :=
  let cnt := haloLoopCount p t params
  let fuel := t.words * ((t.loops p).foldl (fun a l => a * max 1 (cnt l.1)) 1) + 1
  (haloTrace r me p t cnt fuel 0 [] {}).ok

/-! ### JOIN (R419 to R423) -/

/-- The tilings that a JOIN is checked for: the one the job has, or those it may take (log entry 43). -/
def State.joinTilings (s : State) (j : Job) : List Nat := if j.state.resident then [j.tiling] else s.tilingList j

/-- The checks of R422 but for the memory, after that of R493. -/
def State.joinStatus (s : State) (j : Job) (b : JoinBody) : Nat :=
  let r := s.objectBytes b.record
  let p := s.program j
  if s.security.identityOk = false then 0x060C
  else if !((s.object? b.record).any fun o => o.kind == 2) || !grpValid r || grpId r != b.group then 0x0A10
  else if grpMembers r ≤ b.member ∨ grpMemberAddr r b.member ≠ s.journal.settings.unitAddr ∨ grpMemberFpr r b.member ≠ s.ownFpr then 0x0A11
  else if (s.joinTilings j).all fun k =>
      isGroupProgram p (progTiling p k) && haloScheduleOk r b.member p (progTiling p k) j.body.params then 0
  else 0x0A11

/-- A BARRIER answer to the session that sent one (R421). -/
def State.refuseJoin (s : State) (b : JoinBody) (status : Nat) : State :=
  s.send b.sess (.barrier 6 b.group b.member 0 (BitVec.ofNat 16 status) 0)

/-- A member's part as a JOIN gives it. -/
def joinGroup (r : Bytes) (b : JoinBody) : GroupState :=
  { record := r, groupId := b.group, member := b.member, async := grpAsync r, timeoutMs := grpTimeout r, startSec := b.startSec,
    startNs := b.startNs, neighbours := (grpNeighbours r b.member).map fun m => { member := m } }

/-- The receive buffers of a job that holds memory taken, or seen to be there for one that holds none yet (R431). -/
def State.joinMemory (s : State) (j : Job) : Option (State × Job) :=
  (s.takeSalted (.job j.id) true j.groupPages j.contextPages.length).map fun r =>
    if j.contextPages.isEmpty then (s, j) else (r.1, { j with contextPages := j.contextPages ++ r.2, sideCounts := j.sideCounts ++ [j.groupPages] })

/-- PTP time of a START in nanoseconds. -/
def GroupState.startNanos (g : GroupState) : Nat := g.startSec * 1000000000 + g.startNs

/-- The start armed once READY is held from every neighbour; one that arms after START is late (R424). -/
def State.tryArm (s : State) (slot : Nat) : State :=
  s.modJob slot fun j =>
    match j.group with
    | some g =>
      if j.state = .admitting ∧ g.armed = false ∧ g.neighbours.all (·.ready) then
        { j with group := some { g with armed := true, late := decide (g.startNanos < s.clocks.ptpNs) } }
      else j
    | none => j

/-- READY of a job to its host (R423). -/
def State.readyToHost (s : State) (j : Job) : State :=
  match j.group, s.recordSession j.owner (some j.sess) with
  | some g, some id => if s.regionStands j then s.send id (g.barrier 2 0 j.epoch) else s
  | _, _ => s

/-- A JOIN accepted: the group is the job's, a session to each neighbour is opened. -/
def State.joinAccept (s : State) (slot : Nat) (j : Job) (b : JoinBody) : State :=
  let r := s.objectBytes b.record
  let j1 := { j with group := some (joinGroup r b) }
  (s.joinMemory j1).elim (s.refuseJoin b 0x0901) fun q =>
    (((grpNeighbours r b.member).foldl (fun t m => t.openPeer r m) (q.1.setJob slot q.2)).readyToHost q.2).tryArm slot

/-- JOIN on a job that is in a group already: equal fields change nothing, a new START replaces the old one until the job starts, any
other difference is refused (log entry 43). -/
def State.joinAgain (s : State) (slot : Nat) (j : Job) (g : GroupState) (b : JoinBody) : State :=
  if sha256 g.record = b.record ∧ g.member = b.member ∧ g.groupId = b.group then
    if g.started then s
    else s.setJob slot { j with group := some { g with startSec := b.startSec, startNs := b.startNs } }
  else s.refuseJoin b 0x0A11

/-- JOIN (R422): from a session of the job's stream. -/
def State.join (s : State) (b : JoinBody) : State :=
  let s1 := s.popInbox b.sess
  match s.openSession? b.sess with
  | none => s
  | some x =>
    if x.role = .peer then s1
    else
      match s1.jobById? b.job with
      | none => s1.refuseJoin b 0x0110
      | some (slot, j) =>
        if j.owner ≠ x.fpr ∨ x.role = .maker then s1.refuseJoin b 0x0601
        else if j.state = .ended then s1.refuseJoin b 0x0110
        else
          match j.group with
          | some g => s1.joinAgain slot j g b
          | none => let st := s1.joinStatus j b; if st = 0 then s1.joinAccept slot j b else s1.refuseJoin b st

def execJoin (b : JoinBody) (s : State) : Host.Outcome State Fault Refusal := .next (s.join b)

/-! ### What a neighbour sends (R423, R424, R433, R442 to R445) -/

/-- Does a session speak for a member of a record: a peer session under the member's identity key. -/
def State.speaksFor (s : State) (sess : Nat) (g : GroupState) (m : Nat) : Bool :=
  (g.neighbour? m).isSome && (s.openSession? sess).any fun x => x.role == .peer && x.fpr == grpMemberFpr g.record m

/-- A BARRIER packet of a neighbour taken, and what it does to the job it names; any other packet is passed over. -/
def State.onBarrier (s : State) (b : BarrierBody) (f : State → Nat → Job → GroupState → State) : State :=
  let s1 := s.popInbox b.sess
  match s1.groupJob? b.group with
  | some (slot, j) =>
    match j.group with
    | some g => if j.state != .ended && s1.speaksFor b.sess g b.member then f s1 slot j g else s1
    | none => s1
  | none => s1

/-- The epoch of a neighbour's halo that a committed step has read: in asynchronous mode the newest that was there (R429, R444). -/
def GroupState.readFrom (g : GroupState) (m : Nat) : Nat :=
  match g.readCommitted with
  | none => 0
  | some e => ((g.inbound.filter fun c => c.2.src == m).map fun c => g.readEpoch c e).foldl max 0

def State.ready (s : State) (b : BarrierBody) : State :=
  s.onBarrier b fun t slot j g =>
    if b.epoch < g.readFrom b.member then t.toNeighbour g b.member (g.barrier 6 0x0A15 0)
    else
      (t.setJob slot { j with group := some (g.modNeighbour b.member fun n => { n with ready := true, holding := false, epoch := b.epoch }) }).tryArm
        slot

def execReady (b : BarrierBody) (s : State) : Host.Outcome State Fault Refusal := .next (s.ready b)

/-- PTP time has reached START and the start is armed: word 0 issues. A member that armed late logs it, and is demoted (R424). -/
def State.groupStart (s : State) (slot : Nat) : State :=
  match s.job? slot with
  | none => s
  | some j =>
    match j.group with
    | none => s
    | some g =>
      if j.state = .admitting ∧ g.armed ∧ j.seeded ∧ s.regionReady j ∧ g.startNanos ≤ s.clocks.ptpNs then
        let s1 := (s.setJob slot { j with group := some { g with started := true } }).startJob slot
        if g.late then (s1.log (j.event { code := 0x0A17, severity := 1 })).demote slot 6 else s1
      else s

def execGroupStart (job : Fin 4096) (s : State) : Host.Outcome State Fault Refusal := .next (s.groupStart job.val)

/-- A group job has held its region too long: no JOIN came, or START has passed and the start has not armed (R420). -/
def State.groupStartTimeout (s : State) (slot : Nat) : State :=
  match s.job? slot with
  | none => s
  | some j =>
    let tooLong : Bool := match j.group with
      | none => j.seeded && s.isGroupJob j
      | some g => !g.armed && decide (g.startNanos ≤ s.clocks.ptpNs)
    if j.state = .admitting ∧ tooLong then s.endJob slot 0x0A1A 0 0 else s

def execGroupStartTimeout (job : Fin 4096) (s : State) : Host.Outcome State Fault Refusal := .next (s.groupStartTimeout job.val)

/-- In asynchronous mode a newer epoch that is complete and committed replaces the older ones (R431). -/
def GroupState.replaceOld (g : GroupState) : GroupState :=
  if g.async then
    { g with rx := g.rx.filter fun b =>
        let c := grpChannel g.record b.channel
        !(g.rx.any fun x => x.channel == b.channel && decide (b.epoch < x.epoch) && g.complete (x.channel, c) x.epoch && g.committed c.src x.epoch) }
  else g

/-- COMMIT of a neighbour; one with an attempt below the highest seen is ignored (R440). -/
def State.commitIn (s : State) (b : BarrierBody) : State :=
  s.onBarrier b fun t slot j g =>
    if (g.neighbour? b.member).any fun n => decide (b.attempt < n.attempt) then t
    else
      let g1 := g.modNeighbour b.member fun n => { n with committed := some (max (n.committed.getD 0) b.epoch), committedAttempt := b.attempt }
      let g2 := { g1 with sent := g1.sent.filter fun x => !((grpChannel g.record x.channel).dst == b.member && decide (x.epoch < b.epoch)) }
      t.setJob slot { j with group := some g2.replaceOld }

def execCommit (b : BarrierBody) (s : State) : Host.Outcome State Fault Refusal := .next (s.commitIn b)

def State.holdIn (s : State) (b : BarrierBody) : State :=
  s.onBarrier b fun t slot j g =>
    t.setJob slot { j with group := some (g.modNeighbour b.member fun n => { n with holding := true, epoch := b.epoch }) }

def execHold (b : BarrierBody) (s : State) : Host.Outcome State Fault Refusal := .next (s.holdIn b)

def State.leaveIn (s : State) (b : BarrierBody) : State :=
  s.onBarrier b fun t slot j g =>
    t.setJob slot { j with group := some (g.modNeighbour b.member fun n => { n with left := true, epoch := b.epoch }) }

def execLeave (b : BarrierBody) (s : State) : Host.Outcome State Fault Refusal := .next (s.leaveIn b)

/-- A neighbour refuses this member, which ends with that status (R444). -/
def State.refusedIn (s : State) (b : BarrierBody) : State := s.onBarrier b fun t slot _ _ => t.endJob slot b.status.toNat 0 0

def execRefused (b : BarrierBody) (s : State) : Host.Outcome State Fault Refusal := .next (s.refusedIn b)

/-! ### HALO and RETRACT (R427, R428, R436 to R440) -/

/-- One beat buffered: a beat held at this attempt is discarded, one held at a lower attempt gives way. -/
def GroupState.takeBeat (g : GroupState) (b : HaloBeat) : GroupState :=
  let same (x : HaloBeat) : Bool := x.channel == b.channel && x.epoch == b.epoch && x.beat == b.beat
  if b.beat < (grpChannel g.record b.channel).beats ∧ !(g.rx.any fun x => same x && decide (b.attempt ≤ x.attempt)) then
    { g with rx := (g.rx.filter fun x => !same x) ++ [b] }
  else g

/-- The beats of a packet, numbered from FIRST_BEAT. -/
def haloBeats (b : HaloBody) : List HaloBeat :=
  ((List.range b.beats.length).zip b.beats).map fun e =>
    { channel := b.channel, epoch := b.epoch, beat := b.firstBeat + e.1, attempt := b.attempt, data := e.2 }

/-- Where a beat lies in the receive buffers of its channels (R431): two epochs of a channel, one in asynchronous mode. -/
def GroupState.beatPlace (g : GroupState) (b : HaloBeat) : Nat :=
  let n := if g.async then 1 else 2
  64 * ((((g.inbound.filter fun c => decide (c.1 < b.channel)).map fun c => n * c.2.beats).sum) +
    b.epoch % n * (grpChannel g.record b.channel).beats + b.beat)

/-- The beats that a packet brought anew written into the receive buffers (R273, R431). -/
def State.storeBeats (s : State) (j : Job) (old new : GroupState) : State :=
  (new.rx.filter fun b => !old.rx.contains b).foldl (fun t b => t.storePages (j.sideItem 5) (new.beatPlace b) b.data) s

def State.halo (s : State) (b : HaloBody) : State :=
  let s1 := s.popInbox b.sess
  match s1.groupJob? b.group with
  | some (slot, j) =>
    match j.group with
    | none => s1
    | some g =>
      let c := grpChannel g.record b.channel
      if j.state != .ended && decide (b.channel < grpChannels g.record) && c.dst == g.member && s1.speaksFor b.sess g c.src &&
          decide (1 ≤ b.beats.length ∧ b.beats.length ≤ 127) then
        if (g.neighbour? c.src).any fun n => decide (b.attempt < n.attempt) then s1
        else
          let g1 := g.modNeighbour c.src fun n => { n with attempt := b.attempt }
          let g2 := ((haloBeats b).foldl GroupState.takeBeat g1).replaceOld
          (s1.storeBeats j g g2).setJob slot { j with group := some g2 }
      else s1
  | none => s1

def execHalo (b : HaloBody) (s : State) : Host.Outcome State Fault Refusal := .next (s.halo b)

/-- The beats that a RETRACT takes back (R437); in asynchronous mode only provisional ones are discarded (R440). -/
def GroupState.retract (g : GroupState) (m attempt e : Nat) : GroupState :=
  { g.modNeighbour m (fun n => { n with attempt := max n.attempt attempt }) with
    rx := g.rx.filter fun b => !((grpChannel g.record b.channel).src == m && decide (e ≤ b.epoch) && decide (b.attempt < attempt) &&
      !(g.async && g.committed m b.epoch)) }

def State.retract (s : State) (b : RetractBody) : State :=
  let s1 := s.popInbox b.sess
  match s1.groupJob? b.group with
  | some (slot, j) =>
    match j.group with
    | none => s1
    | some g =>
      if j.state != .ended && s1.speaksFor b.sess g b.member then
        if (g.neighbour? b.member).any fun n => n.committed.any (fun c => decide (b.epoch ≤ c)) && decide (b.attempt ≤ n.committedAttempt) then
          s1.endJob slot 0x0A16 0 0
        else
          let s2 := s1.setJob slot { j with group := some (g.retract b.member b.attempt b.epoch) }
          if !g.async && g.passed.any (fun p => decide (b.epoch ≤ p)) then
            (s2.rollBack slot).log (j.event { code := 0x0A19, severity := 1, detail := BitVec.ofNat 64 b.epoch })
          else s2
      else s1
  | none => s1

def execRetract (b : RetractBody) (s : State) : Host.Outcome State Fault Refusal := .next (s.retract b)

/-! ### Clocks of a group (R423, R442) -/

/-- The neighbours that a job's barrier waits for: senders whose halo is incomplete, or, at a commit, those whose COMMIT is missing. -/
def GroupState.missing (g : GroupState) (kind : BarrierKind) (e : Nat) : List Neighbour :=
  g.neighbours.filter fun n => g.inbound.any fun c => c.2.src == n.member &&
    (match kind with | .commit => !g.committed n.member e | _ => !g.complete c e)

/-- A barrier has waited longer than EPOCH_TIMEOUT; time in which a neighbour it waits for holds does not count. -/
def State.groupTimeout (s : State) (slot : Nat) : State :=
  match s.job? slot with
  | none => s
  | some j =>
    match j.group, j.waiting with
    | some g, .barrier kind =>
      if kind = .preempt ∨ g.timeoutMs = 0 ∨ ((g.missing kind j.epoch).any (·.holding)) = true then s else s.endJob slot 0x0A14 0 0
    | _, _ => s

def execGroupTimeout (job : Fin 4096) (s : State) : Host.Outcome State Fault Refusal := .next (s.groupTimeout job.val)

/-- 1 s without a session to a neighbour: a pending attempt has failed, and another starts (R423, R445). -/
def State.peerRetry (s : State) (slot m : Nat) : State :=
  match (s.job? slot).bind fun j => if j.state == .ended then none else j.group with
  | none => s
  | some g =>
    if (g.neighbour? m).any fun n => !n.sessOpen then
      let s1 := match s.transport.sessions.find? fun x => x.opener && !x.opened && x.fpr == grpMemberFpr g.record m with
        | some x => s.abandon x
        | none => s
      s1.openPeer g.record m
    else s

def execPeerSessionRetry (job : Fin 4096) (member : Nat) (s : State) : Host.Outcome State Fault Refusal := .next (s.peerRetry job.val member)

end Sys2Proof.Machine
end

