-- ==== Sys2Proof/Machine/JobCommands.lean ====
section
/-! DEFINITION. The commands on a job (10 R295, R335 to R337; 13 R404, R408, R411; 16 R478, R494): CANCEL, SUSPEND, RESUME, EXPORT, FETCH,
RELEASE_RESULT. -/

namespace Sys2Proof.Machine

open Sys2Proof

/-! ### The job a command names -/

/-- A job command refused: the role, the job, whose it is. `any` lets an installer name any job. -/
def State.jobFault (s : State) (x : Session) (job : Nat) (any : Bool) : Option LoadFault :=
  let e := s.jobById? job
  firstFault
    [s.roleFault x, needs e.isSome 0x0110 0 0,
     needs (e.any fun y => x.ownsJob y.2 || (any && x.role == .installer)) 0x0601 0 0, s.roomFault 1]

/-- A job command that stands: the job's ACCEPT, then what it does to the job's entry. -/
def State.onJobCommand (s : State) (x : Session) (req job : Nat) (f : Option LoadFault) (go : State → Nat → State) : State :=
  s.ruled x req f fun t =>
    match t.jobById? job with
    | none => t
    | some e => go (t.accept x req 0 1 (t.jobRecord e.2 .accept 0)) e.1

/-! ### CANCEL (R295) -/

def State.cancelJob (s : State) (slot : Nat) : State :=
  match s.job? slot with
  | none => s
  | some j =>
    match j.state with
    | .waiting | .preempted | .obligation | .admitting => s.endJob slot 0x020A 0 0
    | .running | .restoring | .preempting => s.setJob slot { j with cancelPending := true }
    | .ended => s

/-- An installer's CANCEL of another stream's job is written to the audit log first. -/
def State.auditCancel (s : State) (x : Session) (job : Nat) : State :=
  match s.jobById? job with
  | some e => if x.ownsJob e.2 then s else s.auditBy x 0 0x000E 0 (beBytes 8 job)
  | none => s

def State.cancel (s : State) (x : Session) (req job : Nat) : State :=
  match s.jobFault x job true with
  | some f => s.refuse x req f.status f.d0 f.d1
  | none => (s.auditCancel x job).onJobCommand x req job none fun t k => t.cancelJob k

def execCancel (h : CmdHead) (job : Nat) (s : State) : Host.Outcome State Fault Refusal :=
  .next (s.command h.sess h.req fun t x => t.cancel x h.req job)

/-! ### SUSPEND and RESUME (R335, R337) -/

/-- Is a job preemptible: on its tiling, or, before it has one, on every tiling that it could run. -/
def State.suspendable (s : State) (j : Job) : Bool :=
  match j.state with
  | .waiting => (s.tilingList j).all fun k => (progTiling (s.program j) k).preemptible (s.program j)
  | .obligation => !j.nonPreemptible
  | .ended => true
  | _ => s.preemptible j

/-- A job that waits is held at once, its waiting time stopped (R306); one that runs stops at the first preemption point from step `n` on. -/
def State.suspendJob (s : State) (slot n : Nat) : State :=
  match s.job? slot with
  | none => s
  | some j =>
    match j.state with
    | .waiting | .preempted | .obligation =>
      let now := s.nowNs
      let j1 :=
        { j with heldBySuspend := true, waitLimit := false, waitSince := now,
                 waitedNs := if j.heldBySuspend || j.state == .obligation then j.waitedNs else j.waitedNs + (now - j.waitSince) }
      (s.setJob slot j1).jobState j1
    | .ended => s
    | _ => s.setJob slot { j with suspendAt := some n }

def State.suspendFault (s : State) (x : Session) (job : Nat) : Option LoadFault :=
  firstFault [s.jobFault x job false, needs ((s.jobById? job).all fun e => s.suspendable e.2) 0x020E 0 0]

def execSuspend (h : CmdHead) (job step : Nat) (s : State) : Host.Outcome State Fault Refusal :=
  .next (s.command h.sess h.req fun t x => t.onJobCommand x h.req job (t.suspendFault x job) fun u k => u.suspendJob k step)

/-- The hold cleared: the waiting time goes on from where it stopped. A suspension still to come is cleared with it. -/
def State.resumeJob (s : State) (slot : Nat) : State :=
  s.modJob slot fun j =>
    { j with heldBySuspend := false, suspendAt := none, waitSince := if j.heldBySuspend then s.nowNs else j.waitSince }

def execResume (h : CmdHead) (job : Nat) (s : State) : Host.Outcome State Fault Refusal :=
  .next (s.command h.sess h.req fun t x => t.onJobCommand x h.req job (t.jobFault x job false) fun u k => u.resumeJob k)

/-! ### EXPORT (R336) -/

/-- The exported object of a context: the context, then its digest. -/
def exportBytes (c : Bytes) : Bytes := c ++ sha256 c

def State.exportFault (s : State) (x : Session) (job : Nat) : Option LoadFault :=
  firstFault
    [s.jobFault x job false, needs ((s.jobById? job).all fun e => e.2.state == .preempted) 0x020F 0 0]

/-- The frames of an object that the S6 makes itself, in the protected layout. -/
def State.objectPages (s : State) (size : Nat) : Option (State × List PageRef) :=
  s.takeSalted .image true (pagesOf size) 0

/-- The data object of an exported context held, once (R71). -/
def State.keepExport (s : State) (owner : Bytes) (o : Bytes) : Option State :=
  let d := sha256 o
  match s.object? d with
  | some _ => some (s.onObjects fun y => { y with held := modFirst (fun z : HeldObject => z.digest == d) (fun z => { z with released := false }) y.held })
  | none => (s.objectPages o.length).map fun r =>
      (r.1.storePages r.2 0 o).onObjects fun y => { y with held := y.held ++ [{ kind := 2, digest := d, bytes := o, protectedLayout := true, owner := owner, pages := r.2 }] }

def State.exportJob (s : State) (x : Session) (req job : Nat) : State :=
  s.ruled x req (s.exportFault x job) fun t =>
    match t.jobById? job with
    | none => t
    | some e =>
      let o := exportBytes e.2.context
      (t.keepExport x.fpr o).elim (t.refuse x req 0x0901) fun u =>
        ((u.accept x req 0 1 (u.jobRecord e.2 .accept 0)).done x.fpr (some x.id) req
          { blankRecord with jobId := job, digest := sha256 o }).wakeObligations

def execExportJob (h : CmdHead) (job : Nat) (s : State) : Host.Outcome State Fault Refusal :=
  .next (s.command h.sess h.req fun t x => t.exportJob x h.req job)

/-! ### FETCH (R404, R408) -/

/-- What a FETCH reads: a result image of the stream's own job, or a data object that the stream loaded or exported; else the status. -/
def State.fetchBytes (s : State) (x : Session) (what : FetchWhat) : Bytes ⊕ Nat :=
  match what with
  | .job id =>
    match s.jobById? id with
    | none => .inr 0x0110
    | some e => if !x.ownsJob e.2 then .inr 0x0601 else if e.2.state == .ended && !e.2.released then .inl e.2.resultImage else .inr 0x0110
  | .object d =>
    match s.available? d 2 with
    | none => .inr 0x0110
    | some o => if o.owner == x.fpr then .inl o.bytes else .inr 0x0601

/-- Data sent as BULK packets of at most 8,160 bytes of data, which keep R378 and R382 in every session (R406; log entry 84), `n` packets left. -/
def State.sendBulk (s : State) (id handle : Nat) : Nat → Nat → Bytes → State
  | 0, _, _ => s
  | n + 1, off, bs => if bs.isEmpty then s else (s.send id (.bulk handle off (bs.take 8160))).sendBulk id handle n (off + 8160) (bs.drop 8160)

/-- A FETCH is not journaled: it reserves nothing, leaves HIGH_MARK as it is, and may be repeated (R404). -/
def State.fetch (s : State) (x : Session) (req : Nat) (what : FetchWhat) (offset length : Nat) : State :=
  match s.roleFault x with
  | some f => s.refuse x req f.status
  | none =>
    match s.fetchBytes x what with
    | .inr status => s.refuse x req status
    | .inl bs =>
      let part := (bs.drop offset).take length
      let job := match what with | .job id => id | .object _ => 0
      (s.sendBulk x.id (req % 2 ^ 32) (part.length / 8160 + 1) offset part).done x.fpr (some x.id) req { blankRecord with jobId := job }

def execFetch (h : CmdHead) (what : FetchWhat) (offset length : Nat) (s : State) : Host.Outcome State Fault Refusal :=
  .next (
    match s.openSession? h.sess with
    | none => s
    | some x => (s.popInbox h.sess).fetch x h.req what offset length)

/-! ### RELEASE_RESULT (R399, R403) -/

/-- A job's result given up; its reservation goes with its final record (R399). -/
def State.releaseResult (s : State) (x : Session) (slot : Nat) : State :=
  match s.job? slot with
  | none => s
  | some j => (s.setJob slot { j with released := true }).settleJob x.fpr j.id

def execReleaseResult (h : CmdHead) (job : Nat) (s : State) : Host.Outcome State Fault Refusal :=
  .next (s.command h.sess h.req fun t x => t.onJobCommand x h.req job (t.jobFault x job false) fun u k => u.releaseResult x k)

end Sys2Proof.Machine
end

