-- ==== Sys2Proof/Machine/Security.lean ====
section
/-! DEFINITION. Keys, firmware, scan, the configuration record and quotes (16 R481, R482, R484, R491 to R498, R508; 18 R554, R561). -/

namespace Sys2Proof.Machine

open Sys2Proof

/-! ### KEY_OP (R476, R481, R482, R554) -/

/-- Eight selector words as 32 bytes. -/
def digestOf (m : SMap Word) : Bytes := (List.range 8).flatMap fun i => beBytes 4 (mget 0 m i).toNat

/-- Records of keys that a role holds at the most. -/
def roleLimit : Role → Nat
  | .operator => 64 | .installer => 8 | _ => 4

/-- Is a role full for a key that it does not hold yet. -/
def State.roleFull (s : State) (k : KeyRecord) : Bool :=
  (s.key? k.role k.fpr).isNone && decide (roleLimit k.role ≤ (s.journal.keys.filter fun x => x.role == k.role).length)

/-- The outcome of a KEY_OP in the session's KEY_STATUS. -/
def State.keyStatus (s : State) (x : Session) (status : Nat) : State :=
  s.modSession x.id fun y => { y with sel := { y.sel with keyStatus := BitVec.ofNat 16 status } }

/-- A KEY_OP decided: its audit entry first, then the effect of one that stands, then KEY_STATUS. -/
def State.keyDecided (s : State) (x : Session) (action status : Nat) (digest : Bytes) (go : State → State) : State :=
  let s1 := s.auditBy x (bit (status != 0)) action status digest
  (if status = 0 then go s1 else s1).keyStatus x status

/-- Is a key the last installer key. -/
def State.lastInstaller (s : State) (fpr : Bytes) : Bool :=
  (s.key? .installer fpr).isSome && !s.journal.keys.any fun k => k.role == .installer && k.fpr != fpr

/-- Why an enrolment is refused, 0 when it is not. An installer enrols no maker key from a bare record, and a maker nothing else. -/
def State.enrolStatus (s : State) (x : Session) (b : Bytes) : Nat :=
  if b.isEmpty then 0x0110
  else if !keyRecordOk b then 0x0608
  else if (krRole b == 2) != (x.role == .maker) then 0x0601
  else if s.roleFull (keyOf b) then 0x0609
  else if krRole b != 1 && s.lastInstaller (keyOf b).fpr then 0x060A
  else 0

/-- The bytes of the data object that KEY_DIGEST names; empty where none is held. -/
def State.namedData (s : State) (digest : Bytes) : Bytes := ((s.available? digest 2).map (·.bytes)).getD []

def State.keyEnrol (s : State) (x : Session) : State :=
  let d := digestOf x.sel.keyDigest
  let b := s.namedData d
  s.keyDecided x 0x0002 (s.enrolStatus x b) d fun t => t.enrol (keyOf b)

/-- Why a removal is refused, 0 when it is not. -/
def State.removeStatus (s : State) (fpr : Bytes) : Nat :=
  if !s.journal.keys.any (·.fpr == fpr) then 0x0603 else if s.lastInstaller fpr then 0x060A else 0

/-- The open sessions of keys that the S6 does not hold in the session's role. -/
def State.orphans (s : State) : List Nat :=
  (s.transport.sessions.filter fun x => x.role != .peer && x.role != .claim && (s.key? x.role x.fpr).isNone).map (·.id)

/-- A key removed, its sessions ended; its jobs and held records stay. -/
def State.removeKey (s : State) (fpr : Bytes) : State :=
  let s1 := s.onJournal fun j => { j with keys := j.keys.filter fun k => k.fpr != fpr }
  s1.dropSessions s1.orphans

def State.keyRemove (s : State) (x : Session) : State :=
  let d := digestOf x.sel.keyDigest
  s.keyDecided x 0x0003 (s.removeStatus d) d fun t => t.removeKey d

/-- Is a maker key certificate signed by a Neholt firmware key of the boot ROM. -/
def certSigned (b : Bytes) : Bool :=
  b.length == 928 && Config.firmwareKeys.any fun m => fingerprint m == slice b 512 32 && pssVerify m (sha256 (b.take 512)) (b.drop 544)

def State.certStatus (s : State) (b : Bytes) : Nat :=
  if b.isEmpty then 0x0110
  else if !certSigned b then 0x0602
  else if !(keyRecordOk (b.take 512) && krRole b == 2) then 0x0608
  else if s.roleFull (keyOf (b.take 512)) then 0x0609
  else if s.lastInstaller (keyOf (b.take 512)).fpr then 0x060A
  else 0

def State.keyCert (s : State) (x : Session) : State :=
  let d := digestOf x.sel.keyDigest
  let b := s.namedData d
  s.keyDecided x 0x0002 (s.certStatus b) d fun t => t.enrol (keyOf (b.take 512))

def keyOpAddr : Word := 0xA10C#32

def execKeyOpEnrol (sess : Nat) (s : State) : Host.Outcome State Fault Refusal :=
  .next (s.ownWrite sess keyOpAddr 1 (fun x => x.role == .installer || x.consents 5) State.keyEnrol)

def execKeyOpRemove (sess : Nat) (s : State) : Host.Outcome State Fault Refusal :=
  .next (s.ownWrite sess keyOpAddr 2 (·.role == .installer) State.keyRemove)

def execKeyOpMakerCert (sess : Nat) (s : State) : Host.Outcome State Fault Refusal :=
  .next (s.ownWrite sess keyOpAddr 3 (·.role == .installer) State.keyCert)

/-! ### Firmware (R496 to R498) -/

/-- The takeover at a quiescent point: the standby controller runs the new firmware, and the LOAD completes. From boot ROM the hub's own
firmware runs from then on. -/
def State.handOver (s : State) : State :=
  match s.security.update, s.security.fwReq with
  | .handover, some (fpr, req) =>
    let s1 := s.audit 0xFF 0 0x0007 0 fpr (firmwareMeasurement s.security.newFirmware)
    let s2 := s1.onSecurity fun x =>
      { x with firmware := x.newFirmware, newFirmware := [], activeM1 := !x.activeM1, update := .flashPending, flashOk := false, fwReq := none }
    let s3 := s2.onConfig fun c => { c with bootRom := false, startFault := startFaultOf c.hubOnly false }
    (s3.log { code := 0x0621, severity := 0, detail := BitVec.ofNat 64 (fwVersion s3.security.firmware) }).done fpr none req blankRecord
  | _, _ => s

def execFirmwareHandover (s : State) : Host.Outcome State Fault Refusal := .next s.handOver

/-- A firmware load that loses its standby controller ends (R497). -/
def State.abandonFirmware (s : State) : State :=
  let hs := s.objects.handles.filter fun h => h.body.kind == 3
  let s1 := hs.foldl (fun t h => t.endLoad h ⟨0x060E, 0, 0⟩) s
  match s1.security.fwReq with
  | some (fpr, req) =>
    (s1.onSecurity fun x => { x with update := .idle, newFirmware := [], fwReq := none }).done fpr none req { blankRecord with status := 0x060E }
  | none => s1

def Controller.isM1 : Controller → Bool
  | .m0 => false | .m1 => true

/-- A management controller fails. The active one's failure hands over to the standby; with both failed, the watchdogs expire and the hub
resets (R400). -/
def State.controllerFails (s : State) (c : Controller) : State :=
  let m1 := Controller.isM1 c
  let active := s.security.activeM1 == m1
  let other := if m1 then s.security.m0Ok else s.security.m1Ok
  let mine := if m1 then s.security.m1Ok else s.security.m0Ok
  if !mine then s
  else
    let s1 := (s.onSecurity fun x =>
      { x with m0Ok := x.m0Ok && m1, m1Ok := x.m1Ok && !m1, standbyOk := false, activeM1 := if active && other then !m1 else x.activeM1 }).abandonFirmware
    let s2 := if active then s1.log { code := 0x0623, severity := 2, detail := BitVec.ofNat 64 (bit m1) } else s1
    if other then s2 else s2.hubWarm

def execControllerFailed (c : Controller) (s : State) : Host.Outcome State Fault Refusal := .next (s.controllerFails c)

/-- The background rewrite of the flash image ends. It waits for a write of the configuration record (R561). A failure is logged, and the
write is tried again in 60 s. -/
def State.rewriteEnds (s : State) (ok : Bool) : State :=
  if s.security.update != .flashPending || s.config.writing.isSome then s
  else if ok then s.onSecurity fun x => { x with flashImage := x.firmware, flashOk := true, update := .idle }
  else s.log { code := 0x0622, severity := 1 }

def execFlashWriteRetry (ok : Bool) (s : State) : Host.Outcome State Fault Refusal := .next (s.rewriteEnds ok)

def execFlashRewriteDone (ok : Bool) (s : State) : Host.Outcome State Fault Refusal := .next (s.rewriteEnds ok)

/-- Once per second from boot ROM. -/
def State.beacon (s : State) : State :=
  if s.config.bootRom then s.emit (.rollRefused 0xFFF 0x060F (List.replicate 16 0)) else s

def execFirmwareMissingBeacon (s : State) : Host.Outcome State Fault Refusal := .next s.beacon

/-! ### Scan (R508, R578) -/

/-- Scan armed: the entry, then every session ends, then every secret is zeroed. -/
def State.armScan (s : State) (x : Session) : State :=
  let s1 := s.auditBy x 0 0x000B 0 (beBytes 8 x.notAfter)
  let s2 := (s1.dropSessions (s1.transport.sessions.map (·.id))).clearOpens
  { s2 with
    entropy := { s2.entropy with ready := false, instantiated := false, pool := 0, halfBlock := false, requests := [0, 0, 0, 0], rngWaiting := [] },
    security := { s2.security with scan := true, scanNotAfter := x.notAfter, identityOk := false, claimKey := [] } }

def State.scanArm (s : State) (sess : Nat) : State :=
  match s.openSession? sess with
  | none => s
  | some x =>
    let s1 := s.popInbox sess
    if !x.consents 1 then s1.replyOne sess 0xA108 true 8 0x0108
    else if s.jobList.any fun e => e.2.state.resident then s1.replyOne sess 0xA108 true 8 0x0610
    else s1.armScan x

def execScanArm (sess : Nat) (s : State) : Host.Outcome State Fault Refusal := .next (s.scanArm sess)

def execScanRelease (s : State) : Host.Outcome State Fault Refusal := .next (if s.security.scan then s.moduleWarm else s)

def execScanTimeout (s : State) : Host.Outcome State Fault Refusal :=
  .next (if s.security.scan && decide (s.security.scanNotAfter ≤ s.timeSec) then s.moduleWarm else s)

/-! ### CFG_OP (R561) -/

/-- PART_NUMBER agrees with GRADE (R2, R4). -/
def partAgrees (r : Bytes) : Bool :=
  (slice r 0x04 8 == ascii "NLS6-A" ++ [0, 0] && slice r 0x0C 1 == [0x41]) || (slice r 0x04 8 == ascii "NLS6-B" ++ [0, 0] && slice r 0x0C 1 == [0x42])

/-- The held object that CFG_DIGEST names, if an installer loaded it. -/
def State.cfgObject? (s : State) (x : Session) : Option HeldObject :=
  (s.available? (digestOf x.sel.cfgDigest) 2).filter fun o => (s.key? .installer o.owner).isSome

def State.cfgStatus (s : State) (x : Session) : Nat :=
  match s.cfgObject? x with
  | none => 0x0110
  | some o =>
    let r := o.bytes
    if r.length == 5432 && configVerifies r && beAt r 0 4 == 1 && slice r 0x10 16 == s.serial && partAgrees r then 0 else 0x0611

/-- A record that passes is audited, and its write to the staging area begins. -/
def State.cfgWrite (s : State) (x : Session) : State :=
  let st := s.cfgStatus x
  if st ≠ 0 then s.onConfig fun c => { c with status := BitVec.ofNat 16 st }
  else
    let d := digestOf x.sel.cfgDigest
    (s.auditBy x 0 0x000C 0 d).onConfig fun c => { c with writing := some (s.namedData d), attempts := 0, status := 0xFFFF }

/-- The unit returned to unclaimed (R484): every operator and installer key goes, and their sessions end. -/
def State.unclaim (s : State) (x : Session) : State :=
  let s1 := (s.auditBy x 0 0x0010 0 []).onJournal fun j => { j with keys := j.keys.filter fun k => k.role == .maker, claimed := false }
  (s1.dropSessions s1.orphans).onConfig fun c => { c with status := 0 }

/-- A CFG_OP written while another is in progress has no effect. -/
def State.cfgOp (s : State) (sess code action : Nat) (go : State → Session → State) : State :=
  match s.openSession? sess with
  | none => s
  | some x =>
    let addr : Word := 0x1150
    let s1 := s.popInbox sess
    if !x.consents action then s1.replyOne sess addr true (word code) 0x0108
    else if s.config.writing.isSome then s1.replyOne sess addr true (word code) 0x0004
    else (go s1 x).replyOne sess addr true (word code) 0

def execCfgOpWriteRecord (sess : Nat) (s : State) : Host.Outcome State Fault Refusal := .next (s.cfgOp sess 1 2 State.cfgWrite)

def execCfgOpUnclaim (sess : Nat) (s : State) : Host.Outcome State Fault Refusal := .next (s.cfgOp sess 2 4 State.unclaim)

/-- An attempt to write the record ends: it comes into force at the next hub start, or, after three failures, the old one stays. -/
def State.cfgWriteEnds (s : State) (ok : Bool) : State :=
  match s.config.writing with
  | none => s
  | some r =>
    if ok then s.onConfig fun c => { c with next := some r, writing := none, status := 0 }
    else if s.config.attempts + 1 < 3 then s.onConfig fun c => { c with attempts := c.attempts + 1 }
    else s.onConfig fun c => { c with writing := none, status := 0x0003 }

def execCfgWriteDone (ok : Bool) (s : State) : Host.Outcome State Fault Refusal := .next (s.cfgWriteEnds ok)

/-! ### Quotes (R491, R493) -/

/-- Is a fingerprint before another, byte by byte. -/
def bytesBefore : Bytes → Bytes → Bool
  | a :: as, b :: bs => decide (a < b) || (a == b && bytesBefore as bs)
  | [], _ :: _ => true
  | _, [] => false

/-- The enrolled keys in ascending role, then fingerprint. -/
def State.quoteKeys (s : State) : List KeyRecord :=
  sortBy (fun a b : KeyRecord => decide (a.role.code < b.role.code) || (a.role == b.role && bytesBefore a.fpr b.fpr)) s.journal.keys

/-- A quote up to its signature. -/
def State.quoteBody (s : State) (nonce : Bytes) : Bytes :=
  let keys := s.quoteKeys
  ascii "LYRQUOTE" ++ beBytes 4 1 ++ [s.grade] ++ beBytes 1 keys.length ++ [0, 0] ++ nonce ++ firmwareMeasurement s.security.firmware ++
    sha256 s.config.record ++ beBytes 8 (s.journal.auditNext - 1) ++ beBytes 8 s.timeSec ++
    ((s.journal.audit.getLast?.map (·.hash)).getD (List.replicate 32 0)) ++ keys.flatMap fun k => beBytes 1 k.role.code ++ k.fpr

/-- Why a QUOTE is refused, 0 when it is not (R493, R498, R505, R507): the alarm and raw mode refuse both forms. -/
def State.quoteStatus (s : State) (x : Session) (signed : Bool) : Nat :=
  if x.role == .peer then 0x0601
  else if s.config.bootRom then 0x060F
  else if s.drbgStatus ≠ 0 then s.drbgStatus
  else if signed && !s.security.identityOk then 0x060C
  else 0

/-- A signed quote; while the DRBG gives nothing yet the answer waits. -/
def State.quoteSigned (s : State) (x : Session) (nonce : Bytes) : State :=
  let st := s.quoteStatus x true
  if st ≠ 0 then (s.popInbox x.id).send x.id (.quote (BitVec.ofNat 16 st) [])
  else if !s.drbgGives then s
  else
    let salt := (s.popInbox x.id).drbg 2 32
    let body := s.quoteBody nonce
    salt.2.send x.id (.quote 0 (body ++ Config.identitySign (sha256 body) salt.1))

def execQuote (sess : Nat) (nonce : Bytes) (s : State) : Host.Outcome State Fault Refusal :=
  .next (match s.openSession? sess with
    | none => s
    | some x => s.quoteSigned x nonce)

def State.quoteRecord (s : State) (x : Session) : State :=
  let st := s.quoteStatus x false
  (s.popInbox x.id).send x.id (if st ≠ 0 then .quote (BitVec.ofNat 16 st) [] else .quote 0 ([1, 0, 0, 0, 0, 0, 0, 0] ++ s.config.record))

def execQuoteConfigRecord (sess : Nat) (_nonce : Bytes) (s : State) : Host.Outcome State Fault Refusal :=
  .next (match s.openSession? sess with
    | none => s
    | some x => s.quoteRecord x)

end Sys2Proof.Machine
end

