-- ==== Sys2Proof/Machine/RegRead.lean ====
section
/-! DEFINITION. What each register reads (07 R208, R213; 09 R291; 10 R327; 12 R375 to R377; 13 R415, R416; 15 R475; 16 R511 to R513;
17 R547; 18 R548 to R566). -/

namespace Sys2Proof.Machine

open Sys2Proof

/-! ### Pages (R549) -/

/-- A register page: a hub function, a die, a cluster by its key 64d + n, a stack. -/
inductive RegPage where
  | hub (p : Nat) | die (d : Nat) | cluster (k : Nat) | stack (t : Nat)
  deriving DecidableEq, Repr

/-- The page with an index. -/
def regPage (i : Nat) : Option RegPage :=
  if i < 0x10 then some (.hub i)
  else if 0x100 ≤ i ∧ i < 0x106 then some (.die (i - 0x100))
  else if 0x200 ≤ i ∧ i < 0x380 then some (.cluster (i - 0x200))
  else if 0x400 ≤ i ∧ i < 0x424 then some (.stack (i - 0x400))
  else none

/-- The half of a cluster's page. -/
def pageHalf (k : Nat) : Nat := (clusterOf k).half

/-- Is the page's unit failed or unusable, or its rail off by a fault response (R556). Under R6 no die or stack runs. -/
def State.unitGone (s : State) : RegPage → Bool
  | .hub _ => false
  | .die d => s.config.hubOnly || !s.dieUsable d || (s.die d).railOff
  | .cluster k =>
    let h := pageHalf k
    s.config.hubOnly || s.halfUnusable h || (s.half h).failed || !s.dieUsable (h / 2) || (s.die (h / 2)).railOff
  | .stack t => s.config.hubOnly || (s.stack t).failed || s.stackUnusable t || (s.stack t).baseDieFailed

/-- The wake that an access to a page makes (R211, R531, R533, R557). -/
def State.wakePage (s : State) : RegPage → State
  | .hub p => s.wakeHub p
  | .die d => s.wakeSpine d
  | .cluster k => s.wakeHalf (pageHalf k)
  | .stack t => s.wakeStack t

/-! ### The common header (R550, R553) -/

/-- KIND and INSTANCE. -/
def pageId : RegPage → Nat
  | .hub p => p * 2 ^ 24
  | .die d => 0x10000000 + d
  | .cluster k => 0x20000000 + k
  | .stack t => 0x40000000 + t

/-- READY, CLOCKED and UNUSABLE of a hub function. -/
def State.hubStatus (s : State) (p : Nat) : Bool × Bool × Bool :=
  if p = 0 then (true, true, false)
  else
    let on := s.clocks.hubClocked.getLsbD p
    if p = 1 then (s.config.hubReady, on, s.config.hubUnusable)
    else if p = 2 then (s.port.linkUp, on, s.config.portUnusable)
    else if p = 0xB then (s.entropy.ready, on, s.config.entropyUnusable)
    else (s.config.hubReady, on, false)

def State.unitStatus (s : State) : RegPage → Bool × Bool × Bool
  | .hub p => s.hubStatus p
  | .die d => ((s.die d).spineClocked, (s.die d).spineClocked, !s.dieUsable d)
  | .cluster k => let h := s.half (pageHalf k); (h.ready, h.clocked, s.halfUnusable (pageHalf k) || h.failed)
  | .stack t => let k := s.stack t; (k.ready, k.clocked, s.stackUnusable t || k.failed)

/-- Pages whose selector fields every role may write. -/
def selectorPage : RegPage → Bool
  | .hub p => p == 1 || p == 6 || p == 0xF
  | _ => false

/-- Index of a page. -/
def pageIndex : RegPage → Nat
  | .hub p => p | .die d => 0x100 + d | .cluster k => 0x200 + k | .stack t => 0x400 + t

def State.readHeader (s : State) (g : RegPage) (off : Nat) : Nat :=
  let h := mget {} s.headers (pageIndex g)
  let u := s.unitStatus g
  match off with
  | 0x000 => pageId g
  | 0x004 => 0x00010000
  | 0x008 => bit u.1 + 2 * bit u.2.1 + 4 * bit u.2.2
  | 0x010 => h.evtStatus.toNat
  | 0x014 => h.evtEnable.toNat
  | 0x01C => h.errCount
  | 0x020 => if selectorPage g then 2 + 4 * 3 + 16 * 2 else 1 + 4 * 3 + 16
  | _ => 0

/-! ### AON (R559), MGMT (R560) -/

/-- The flags of a list of units as a number, bit i for unit i. -/
def maskOf (n : Nat) (f : Nat → Bool) : Nat := ((List.range n).map fun i => bit (f i) * 2 ^ i).sum

def State.readAon (s : State) (off : Nat) : Nat :=
  match off with
  | 0x100 => s.nowSec
  | 0x104 => s.clocks.aonCycles / 2 ^ 32
  | 0x108 => s.clocks.aonCycles
  | 0x10C => maskOf 12 fun h => (s.half h).clocked
  | 0x110 => maskOf 32 fun t => (s.stack t).clocked
  | 0x114 => maskOf 4 fun t => (s.stack (32 + t)).clocked
  | 0x118 => s.clocks.hubClocked.toNat
  | 0x11C => s.clocks.wakes
  | _ => 0

/-- Word m of a byte string, its first byte most significant. -/
def wordAt (b : Bytes) (m : Nat) : Nat := beAt b (4 * m) 4

/-- The selector copies of a session. -/
def State.selOf (s : State) (x : Session) : Selectors := ((s.session? x.id).map (·.sel)).getD x.sel

def State.readMgmt (s : State) (x : Session) (off : Nat) : Nat :=
  let c := s.config
  let sel := s.selOf x
  let r := c.record
  if off = 0x100 then
    bit c.configOk + 2 * bit c.hubOnly + 4 * bit c.next.isSome + 8 * bit s.security.m0Ok + 16 * bit s.security.m1Ok + 32 * bit c.bootRom
  else if off = 0x104 then c.startFault.toNat
  else if off = 0x108 then fwVersion s.security.firmware
  else if off = 0x10C then beAt r 0 4
  else if off = 0x110 then s.grade.toNat
  else if 0x114 ≤ off ∧ off < 0x11C then wordAt s.partNumber ((off - 0x114) / 4)
  else if 0x11C ≤ off ∧ off < 0x12C then wordAt s.serial ((off - 0x11C) / 4)
  else if off = 0x12C then s.journal.hubStarts
  else if 0x130 ≤ off ∧ off < 0x150 then (mget 0 sel.cfgDigest ((off - 0x130) / 4)).toNat
  else if off = 0x154 then c.status.toNat
  else if off = 0x160 then sel.evtSel.toNat
  else if off = 0x164 then c.eventNext - 1
  else if off = 0x168 then c.eventsHeld
  else if 0x200 ≤ off ∧ off < 0x240 then (mget 0 sel.evtLatch ((off - 0x200) / 4)).toNat
  else 0

/-! ### PORT, PTP, OPTICS (R375 to R377) -/

def PortMode.code : PortMode → Nat
  | .down => 0 | .dr8 => 1 | .dr4Low => 2 | .dr4High => 3

def State.readPort (s : State) (off : Nat) : Nat :=
  let p := s.port
  let g := s.journal.settings
  if off = 0x100 then bit p.linkUp + 2 * p.mode.code + 8 * bit p.macB + 16 * bit p.preemptActive + 32 * p.laneFailed.toNat
  else if off = 0x104 then bit g.encapUdp + 2 * bit g.preemptEnable + 65536 * g.udpPort
  else if off = 0x108 then g.vid + 4096 * g.pcpExpress + 65536 * g.pcpBulk
  else if 0x10C ≤ off ∧ off < 0x11C then bitField g.ipv6.toNat (96 - 8 * (off - 0x10C)) 32
  else if off = 0x11C then s.factoryMac.toNat / 2 ^ 32
  else if off = 0x120 then s.factoryMac.toNat
  else if off = 0x124 then p.fecCorrected
  else if off = 0x128 then p.fecUncorrectable
  else if off = 0x12C then p.rxDropped
  else if off = 0x130 then p.preemptions
  else 0

/-- A signed number in a field of w bits. -/
def signedBits (w : Nat) (v : Int) : Nat := (v % (2 ^ w : Nat)).toNat

def State.readPtp (s : State) (off : Nat) : Nat :=
  let p := s.ptp
  let g := s.journal.settings
  match off with
  | 0x100 => p.portState + 16 * bit p.locked
  | 0x104 => bit g.slaveOnly + 2 * bit g.ptpUdp + 256 * g.domain + 65536 * g.priority1 + 2 ^ 24 * g.priority2
  | 0x108 => signedBits 32 p.offset
  | 0x10C => p.meanPathDelay.toNat
  | 0x110 => g.asymmetry.toNat
  | 0x114 => s.timeSec / 2 ^ 32
  | 0x118 => s.timeSec
  | 0x11C => s.timeNs
  | _ => 0

def LaserState.code : LaserState → Nat
  | .active => 0 | .standby => 1 | .failed => 2 | .underBist => 3

def State.readOptics (s : State) (off : Nat) : Nat :=
  let o := s.optics
  if off = 0x100 then bit o.activeLb + 2 * o.la.code + 8 * o.lb.code
  else if off = 0x104 then o.laBias + 65536 * o.lbBias
  else if off = 0x108 then o.laMonitor + 65536 * o.lbMonitor
  else if 0x10C ≤ off ∧ off < 0x12C then mget 0 o.txPower ((off - 0x10C) / 4) + 65536 * mget 0 o.rxPower ((off - 0x10C) / 4)
  else if off = 0x12C then o.switches
  else if off = 0x130 then signedBits 16 o.engineTemp
  else 0

/-! ### TRANSPORT, JOURNAL (R415, R416) -/

def State.readTransport (s : State) (off : Nat) : Nat :=
  let t := s.transport
  match off with
  | 0x100 => s.journal.settings.unitAddr
  | 0x104 => t.sessions.length
  | 0x108 => s.journal.settings.idleTimeout
  | 0x10C => t.authFail
  | 0x110 => t.windowDrop
  | 0x114 => t.retransmits
  | 0x118 => t.bulkDiscarded
  | 0x11C => s.objects.handles.length
  | _ => 0

def LastReset.code : LastReset → Nat
  | .bothFeeds => 0 | .port => 1 | .die => 2 | .hubWarm => 3 | .moduleWarm => 4

/-- How many jobs satisfy `p`, at most 65,535. -/
def State.countJobs (s : State) (p : Job → Bool) : Nat := min 65535 (s.jobList.filter fun e => p e.2).length

def State.readJournal (s : State) (off : Nat) : Nat :=
  let j := s.journal
  match off with
  | 0x100 => bit j.cleanStart + 2 * bit j.pathsAgree + 4 * bit j.holdupOk
  | 0x104 => s.areaFree
  | 0x108 => min 65535 (j.streams.filter fun x => !x.records.isEmpty).length + 65536 * s.countJobs fun x => x.state == .obligation
  | 0x10C => (j.streams.map fun x => x.records.length).sum
  | 0x110 => j.lastReset.code + 256 * j.resetCount
  | 0x114 => j.eventsOverwritten
  | _ => 0

/-! ### JOBS (R327) -/

/-- Halves as bits. -/
def halfBits (l : List Nat) : Nat := maskOf 12 fun h => l.contains h

/-- Seconds of the waiting time of R306, saturating. -/
def State.waitSeconds (s : State) (j : Job) : Nat :=
  if j.state == .waiting || j.state == .preempted then
    min 65535 ((j.waitedNs + (if j.heldBySuspend then 0 else s.nowNs - j.waitSince)) / 1000000000)
  else 0

/-- The SEL fields of a job table entry, by offset. -/
def State.selWords (s : State) (entry : Nat) : SMap Word :=
  match s.job? entry with
  | none => []
  | some j =>
    let head := j.state.code * 2 ^ 28 + j.body.priority % 8 * 2 ^ 25 + bit j.fixedCadence * 2 ^ 24 + bit j.demoted * 2 ^ 23 +
      bit (s.preemptible j) * 2 ^ 22 + j.setting % 32 * 2 ^ 17 + j.tiling % 4 * 2 ^ 15 + halfBits j.region
    [(0x110, head), (0x114, j.id / 2 ^ 32), (0x118, j.id), (0x11C, j.step / 2 ^ 32), (0x120, j.step), (0x124, j.cadence / 2 ^ 32),
     (0x128, j.cadence), (0x12C, j.grant % 65536 * 65536 + s.waitSeconds j)].foldl (fun m e => mset 0 m e.1 (word e.2)) []

def State.readJobs (s : State) (x : Session) (off : Nat) : Nat :=
  let sel := s.selOf x
  if off = 0x100 then maskOf 12 fun h => (s.halfJob? h).isSome
  else if off = 0x104 then
    (s.countJobs fun j => j.state == .waiting || j.state == .obligation) + 65536 * s.countJobs fun j => j.state == .preempted
  else if off = 0x108 then 4096 - (s.jobList.filter fun e => decide (e.1 < 4096)).length
  else if off = 0x10C then sel.jobSel.toNat % 4096
  else if 0x110 ≤ off ∧ off < 0x130 then (mget 0 sel.jobLatch off).toNat
  else if off = 0x130 then s.elasticWatts % 65536 + s.reservedWatts % 65536 * 65536
  else if 0x140 ≤ off ∧ off < 0x170 then
    match s.halfJob? ((off - 0x140) / 4) with
    | some e => 2 ^ 31 + e.1 % 4096
    | none => 0
  else 0

/-! ### POWER (R547), CLOCKS (R562), THERMAL (R563) -/

def State.readPower (s : State) (off : Nat) : Nat :=
  let p := s.power
  if off = 0x100 then s.journal.settings.budget
  else if off = 0x104 then p.aMv % 65536 + p.bMv % 65536 * 65536
  else if off = 0x108 then bit p.aPresent + 2 * bit p.bPresent + 4 * bit p.singleFeed
  else if off = 0x10C then p.inputW % 65536 + p.holdupMv % 65536 * 65536
  else if off = 0x110 then s.effectiveBudget % 65536 + s.grantedWatts % 65536 * 65536
  else if off = 0x114 then p.stretchEvents
  else if off = 0x118 then p.holdupCap % 65536 * 65536
  else if 0x140 ≤ off ∧ off < 0x158 then
    let d := (off - 0x140) / 4
    s.vfabMv d % 1024 + (s.die d).phaseFail.toNat * 2 ^ 14 + (s.die d).powerW % 4096 * 2 ^ 20
  else 0

/-- The clock owner of a stack: its bound half when that runs a job, else the other half of its die when that runs one (R532). -/
def State.clockOwner (s : State) (t : Nat) : Option Nat :=
  let bound := 2 * (t / 6) + (if t % 6 < 3 then 0 else 1)
  let runs (h : Nat) : Bool := (s.halfJob? h).any fun e => e.2.state == .running
  let other := if bound % 2 = 0 then bound + 1 else bound - 1
  if runs bound then some bound else if runs other then some other else none

def State.readClocks (s : State) (off : Nat) : Nat :=
  let c := s.clocks
  if off = 0x100 then bit c.refRunning + 2 * bit c.hubLocked + 4 * bit c.serdesLocked + 8 * bit c.hubSlow
  else if off = 0x104 then c.jitterRelocks
  else if off = 0x108 then s.journal.pllsUnusable
  else if 0x140 ≤ off ∧ off < 0x170 then
    let n := (off - 0x140) / 4
    let h := s.half n
    (if h.clocked then h.setting % 32 else 0) + 32 * bit h.clocked + 64 * bit h.locked + 128 * ((s.die (n / 2)).stretch % 32) +
      4096 * bit (mget false c.pllUnusable n)
  else if 0x180 ≤ off ∧ off < 0x198 then
    let d := s.die ((off - 0x180) / 4)
    (if d.spineClocked then d.spineSetting % 32 else 0) + 32 * bit d.spineClocked + 64 * bit d.spineLocked
  else if 0x1C0 ≤ off ∧ off < 0x250 then
    let t := (off - 0x1C0) / 4
    let k := s.stack t
    let owner := s.clockOwner t
    (if k.clocked then (match owner with | some h => (s.half h).setting % 32 | none => 18) else 0) + 32 * bit k.clocked + 64 * bit k.selfRefresh +
      256 * (owner.getD 0xF)
  else 0

def DieThermal.code : DieThermal → Nat
  | .normal => 0 | .lowering => 1 | .holding => 2 | .tripped => 3

def StackThermal.code : StackThermal → Nat
  | .normal => 0 | .hot => 1 | .limited => 2 | .selfRefresh => 3

def State.readThermal (s : State) (off : Nat) : Nat :=
  let x := s.thermal
  if 0x100 ≤ off ∧ off < 0x200 then
    let n := (off - 0x100) / 4
    if mget false x.unusable n then 65536 else signedBits 16 (mget 0 x.sensors n)
  else if 0x200 ≤ off ∧ off < 0x218 then
    let d := s.die ((off - 0x200) / 4)
    signedBits 16 d.temp + 65536 * d.thermal.code
  else if 0x220 ≤ off ∧ off < 0x22C then
    let m := (off - 0x220) / 4
    ((List.range 16).map fun i => if 16 * m + i < 36 then (s.stack (16 * m + i)).thermal.code * 4 ^ i else 0).sum
  else if off = 0x230 then signedBits 16 x.hubTemp + 65536 * bit s.clocks.hubSlow
  else if off = 0x234 then x.events
  else if off = 0x238 then s.journal.trips
  else 0

/-! ### SECURITY, ENTROPY, AUDIT (R511 to R513) -/

def UpdateState.code : UpdateState → Nat
  | .idle => 0 | .loading => 1 | .handover => 2 | .flashPending => 3

def State.countKeys (s : State) (r : Role) : Nat := (s.journal.keys.filter fun k => k.role == r).length

def State.readSecurity (s : State) (x : Session) (off : Nat) : Nat :=
  let c := s.security
  let g := s.journal.settings
  let sel := s.selOf x
  if off = 0x100 then
    bit s.journal.claimed + 2 * bit c.identityOk + 4 * bit c.activeM1 + 8 * bit c.standbyOk + 16 * c.update.code + 64 * bit c.flashOk +
      128 * bit (s.transport.sessions.any fun y => y.opened && y.role == .maker)
  else if off = 0x104 then s.countKeys .operator + 256 * s.countKeys .installer + 65536 * s.countKeys .maker
  else if off = 0x108 then bit g.requireEncryption + 2 * g.programSigning
  else if 0x110 ≤ off ∧ off < 0x130 then (mget 0 sel.keyDigest ((off - 0x110) / 4)).toNat
  else if off = 0x130 then sel.keyStatus.toNat
  else if off = 0x134 then if s.journal.claimLocked then s.journal.claimUntil - s.nowSec else 0
  else if off = 0x138 then fwSecurityVersion c.firmware
  else if off = 0x13C then g.minSecurityVersion
  else 0

def EntropyState.code : EntropyState → Nat
  | .startUp => 0 | .running => 1 | .restarting => 2 | .fatal => 3 | .raw => 4

def State.readEntropy (s : State) (off : Nat) : Nat :=
  let e := s.entropy
  match off with
  | 0x100 => e.state.code + 8 * bit s.journal.settings.drbgShared
  | 0x104 => bit s.journal.settings.drbgShared + 4 * bit (e.state == .raw)
  | 0x110 => e.blocksFailed
  | 0x114 => e.restarts
  | 0x118 => e.reseeds
  | 0x11C => rctCutoff s.entropyH % 256 + 65536 * (aptCutoff s.entropyH % 2048)
  | _ => 0

def State.readAudit (s : State) (x : Session) (off : Nat) : Nat :=
  let j := s.journal
  let sel := s.selOf x
  let head := (j.audit.getLast?.map (·.hash)).getD []
  if off = 0x100 then (j.auditNext - 1) / 2 ^ 32
  else if off = 0x104 then j.auditNext - 1
  else if off = 0x108 then j.audit.length
  else if off = 0x10C then min (2 ^ 32 - 1) j.auditOverwritten
  else if off = 0x110 then sel.auditHi.toNat
  else if off = 0x114 then sel.auditLo.toNat
  else if 0x120 ≤ off ∧ off < 0x140 then wordAt head ((off - 0x120) / 4)
  else if 0x140 ≤ off ∧ off < 0x160 then wordAt j.anchorHash ((off - 0x140) / 4)
  else if 0x200 ≤ off ∧ off < 0x300 then (mget 0 sel.auditLatch ((off - 0x200) / 4)).toNat
  else 0

/-! ### INTEGRITY (R475), BIST (R564) -/

def State.readIntegrity (s : State) (off : Nat) : Nat :=
  let i := s.integrity
  let g := s.journal.settings
  match off with
  | 0x100 => bit g.replayMode + 65536 * g.cdigestInterval
  | 0x104 => i.replays / 2 ^ 32
  | 0x108 => i.replays
  | 0x10C => i.disagreements
  | 0x110 => i.rollbacks
  | 0x114 => i.parityErrors
  | 0x118 => i.kakFailed
  | 0x11C => min 65535 s.journal.retired.length + 65536 * min 65535 i.observed.length
  | _ => 0

/-- Cores not tested within 7 days whose cluster is held and has no free spare. -/
def State.coresOverdue (s : State) : Nat :=
  ((List.range 384).map fun k =>
    if (s.halfJob? (pageHalf k)).isSome && (s.cluster k).freeSpare?.isNone then
      ((s.goodCores k).filter fun n => decide (mget 0 s.bist.tested (UnitRef.core (physOf k n)).code + 604800 ≤ s.nowSec)).length
    else 0).sum

def State.readBist (s : State) (off : Nat) : Nat :=
  let b := s.bist
  match off with
  | 0x100 => b.item
  | 0x104 => b.unit.toNat
  | 0x108 => b.slices
  | 0x10C => s.journal.bistFailures
  | 0x110 => s.coresOverdue
  | 0x114 => b.lastFailUnit.toNat
  | 0x118 => b.lastFailItem
  | _ => 0

/-! ### Die, cluster and stack pages (R208, R213, R291, R565, R566) -/

/-- Program counter of a half: that of the job that holds it. -/
def State.halfPc (s : State) (h : Nat) : Nat := ((s.halfJob? h).map fun e => e.2.pc % 4096).getD 0

def State.halfRuns (s : State) (h : Nat) : Bool := (s.halfJob? h).any fun e => e.2.issuing

/-- The four state bits of a half. -/
def State.halfState (s : State) (h : Nat) : Nat :=
  let x := s.half h
  bit x.clocked + 2 * bit x.ready + 4 * bit (s.halfUnusable h) + 8 * bit x.failed

/-- Two bits for a link site: not connected, in service, failed (R192, R466). -/
def State.siteBits (s : State) (d : Nat) (site : LinkSite) : Nat :=
  let connected := match site with
    | .xw => d % 3 != 0
    | .xe => d % 3 != 2
    | _ => true
  if !connected then 0 else if (s.die d).failedLinks.contains site then 2 else 1

def State.readDie (s : State) (d off : Nat) : Nat :=
  let x := s.die d
  let w := 2 * d
  let joined := match s.halfJob? w, s.halfJob? (w + 1) with | some a, some b => a.1 == b.1 | _, _ => false
  match off with
  | 0x100 => bit joined + 2 * bit (s.halfRuns w) + 4 * bit (s.halfRuns (w + 1))
  | 0x104 => s.halfPc w
  | 0x108 => s.halfPc (w + 1)
  | 0x10C => x.holdCycles
  | 0x110 => x.holdCycles / 2 ^ 32
  | 0x114 => x.holdEvents
  | 0x118 => bit x.spineClocked + 2 * bit (s.half w).clocked + 4 * bit (s.half (w + 1)).clocked
  | 0x11C => s.halfState w + 16 * s.halfState (w + 1)
  | 0x120 => s.siteBits d .xw + 4 * s.siteBits d .xe + 16 * s.siteBits d .vw + 64 * s.siteBits d .ve + 256 * (if x.seam == .failed then 2 else 1)
  | 0x124 => x.linkRetries
  | 0x128 => x.stretches
  | _ => 0

def SpareState.code : SpareState → Nat
  | .free => 0 | .holding => 1 | .underBist => 2 | .retired => 3

/-- A core map entry: VALID and the physical core. -/
def mapEntry (m : List (Option Nat)) (p : Nat) : Nat :=
  match m.getD p none with
  | some n => 128 + n
  | none => 0

/-- FAULTS and STATE of a physical core. -/
def State.coreHealth (s : State) (k n : Nat) : Nat :=
  let u := UnitRef.core (physOf k n)
  if !s.goodCore k n then 3
  else if s.journal.retired.contains u then 2
  else bit (s.observed u) + 4 * mget 0 s.journal.faults u.code

def State.readCluster (s : State) (k off : Nat) : Nat :=
  let c := s.cluster k
  if 0x100 ≤ off ∧ off < 0x140 then
    ((List.range 4).map fun i => mapEntry c.coreMap ((off - 0x100) + i) * 2 ^ (8 * i)).sum
  else if off = 0x140 then c.o0.code + 4 * c.o1.code
  else if off = 0x144 then c.swapCount
  else if off = 0x148 then
    ((List.range 66).filter fun n => s.goodCore k n && !s.coreRetired k n).length + 256 * bit (c.degraded && s.grade == 0x41) +
      512 * bit c.freeSpare?.isNone
  else if 0x180 ≤ off ∧ off < 0x1A4 then
    ((List.range 8).map fun i => let n := 2 * (off - 0x180) + i; if n < 66 then s.coreHealth k n * 16 ^ i else 0).sum
  else 0

def SpareDie.code : SpareDie → Nat
  | .unused => 0 | .copying => 1 | .inService => 2

def State.readStack (s : State) (t off : Nat) : Nat :=
  let k := s.stack t
  match off with
  | 0x100 =>
    (if k.failed then 2 else if k.spareState == .inService then 1 else 0) + 4 * bit k.hot + 8 * bit k.selfRefresh + 16 * k.spareState.code +
      64 * (k.sparedDie % 32)
  | 0x104 => signedBits 16 k.temp
  | 0x108 => k.framesFree
  | 0x10C => k.allocated
  | 0x110 => k.uncleared
  | 0x114 => k.ceCount
  | 0x118 => k.retryCount
  | 0x11C => k.reconCount
  | 0x120 => k.mirageCount
  | 0x124 => k.rowsSpared % 65536 + 65536 * k.spareRowsLeft
  | 0x128 => k.scrubSector / 65536 + 2 ^ 24 * (k.scrubPasses % 256)
  | 0x12C => k.lineOps
  | 0x130 => k.lineOps / 2 ^ 32
  | 0x134 => min 65535 k.imbalanceRatio + 65536 * bit k.imbalanced
  | 0x138 => satAdd 32 k.hotTimeMs (if k.hot then (s.nowNs - k.hotSince) / 1000000 else 0)
  | 0x13C => k.spareCopyFrame
  | _ => 0

/-! ### Any register -/

def State.readHub (s : State) (x : Session) (p off : Nat) : Nat :=
  match p with
  | 0x0 => s.readAon off
  | 0x1 => s.readMgmt x off
  | 0x2 => s.readPort off
  | 0x3 => s.readPtp off
  | 0x4 => s.readTransport off
  | 0x5 => s.readJournal off
  | 0x6 => s.readJobs x off
  | 0x7 => s.readPower off
  | 0x8 => s.readClocks off
  | 0x9 => s.readThermal off
  | 0xA => s.readSecurity x off
  | 0xB => s.readEntropy off
  | 0xC => s.readIntegrity off
  | 0xD => s.readBist off
  | 0xE => s.readOptics off
  | _ => s.readAudit x off

/-- The word that a register holds, without the latches of 64-bit pairs. -/
def State.liveWord (s : State) (x : Session) (g : RegPage) (off : Nat) : Word :=
  word (if off < 0x100 then s.readHeader g off
    else match g with
      | .hub p => s.readHub x p off
      | .die d => s.readDie d off
      | .cluster k => s.readCluster k off
      | .stack t => s.readStack t off)

/-- The low words that the read of a high word latches (R213, R291, R376, R475, R559). -/
def lowsOf (g : RegPage) (off : Nat) : List Nat :=
  match g with
  | .hub 0x0 => if off = 0x104 then [0x108] else []
  | .hub 0x3 => if off = 0x114 then [0x118, 0x11C] else []
  | .hub 0xC => if off = 0x104 then [0x108] else []
  | .die _ => if off = 0x110 then [0x10C] else []
  | .stack _ => if off = 0x130 then [0x12C] else []
  | _ => []

/-- Is a register such a low word. -/
def isLow (g : RegPage) (off : Nat) : Bool :=
  match g with
  | .hub 0x0 => off == 0x108
  | .hub 0x3 => off == 0x118 || off == 0x11C
  | .hub 0xC => off == 0x108
  | .die _ => off == 0x10C
  | .stack _ => off == 0x12C
  | _ => false

def State.modSel (s : State) (x : Session) (f : Selectors → Selectors) : State := s.modSession x.id fun y => { y with sel := f y.sel }

/-- The latches that a read makes in the session's copies. -/
def State.latchLows (s : State) (x : Session) (g : RegPage) (off : Nat) : State :=
  (lowsOf g off).foldl (fun t o => t.modSel x fun y => { y with low := mset 0 y.low (4096 * pageIndex g + o) (s.liveWord x g o) }) s

/-- A register read: the word, and what the read changes. -/
def State.readReg (s : State) (x : Session) (g : RegPage) (off : Nat) : Word × State :=
  if isLow g off then (mget 0 (s.selOf x).low (4096 * pageIndex g + off), s)
  else (s.liveWord x g off, s.latchLows x g off)

end Sys2Proof.Machine
end

