-- ==== Sys2Proof/Machine/Registers.lean ====
section
/-! DEFINITION. Register access (13 R412; 18 R552 to R558, R560): rights, writes, register batches and the rows of single registers. -/

namespace Sys2Proof.Machine

open Sys2Proof

/-! ### Rights (R553 to R555) -/

/-- Has a hub page's register a field that some role may write, apart from the header. -/
def hubWritable (p off : Nat) : Bool :=
  match p with
  | 0x1 => (decide (0x130 ≤ off ∧ off ≤ 0x150)) || off == 0x160
  | 0x2 => off == 0x104 || off == 0x108 || decide (0x10C ≤ off ∧ off ≤ 0x118)
  | 0x3 => off == 0x104 || off == 0x110
  | 0x4 => off == 0x108
  | 0x6 => off == 0x10C
  | 0x7 => off == 0x100
  | 0xA => off == 0x108 || off == 0x10C || decide (0x110 ≤ off ∧ off < 0x130) || off == 0x13C
  | 0xB => off == 0x104
  | 0xC => off == 0x100
  | 0xF => off == 0x110 || off == 0x114
  | _ => false

def headerWritable (off : Nat) : Bool := off == 0x00C || off == 0x010 || off == 0x014 || off == 0x018

/-- Has a register a field that some role may write. -/
def regWritable (g : RegPage) (off : Nat) : Bool :=
  if off < 0x100 then headerWritable off else match g with | .hub p => hubWritable p off | _ => false

/-- JOB_SEL, EVT_SEL and AUDIT_SEL, which every role may write. -/
def anySelector (p off : Nat) : Bool := (p == 1 && off == 0x160) || (p == 6 && off == 0x10C) || (p == 0xF && (off == 0x110 || off == 0x114))

/-- May the session write a field of a hub page's register with this data (R554: by the bit of its consent that the field names). -/
def Session.mayHub (x : Session) (p off : Nat) (data : Word) : Bool :=
  let inst := x.role == .installer
  let op := data.toNat % 4
  if anySelector p off then true
  else if p = 1 ∧ off = 0x150 then (op != 2 && x.consents 2) || (op != 1 && x.consents 4)
  else if p = 1 then x.consents 2
  else if p = 0xA ∧ off = 0x108 then inst || x.consents 1
  else if p = 0xA ∧ off = 0x10C then inst || (op == 1 && x.consents 5)
  else if p = 0xA ∧ 0x110 ≤ off ∧ off < 0x130 then inst || x.consents 5
  else if p = 0xB then inst || x.consents 0
  else inst

/-- May the session write a field of the register. -/
def Session.may (x : Session) (g : RegPage) (off : Nat) (data : Word) : Bool :=
  if off = 0x018 then x.consents 3
  else if off < 0x100 then x.role == .installer
  else match g with | .hub p => x.mayHub p off data | _ => x.role == .installer

/-! ### Selectors (R327, R513, R555, R560) -/

/-- A record of R473 as its 64 bytes. -/
def eventBytes (e : Event) : Bytes :=
  beBytes 2 e.code.toNat ++ beBytes 1 e.severity ++ beBytes 1 e.unitKind ++ beBytes 4 e.unit.toNat ++ beBytes 8 (e.timeSec % 2 ^ 48) ++
    beBytes 4 e.timeNs ++ beBytes 2 e.operation.toNat ++ beBytes 2 e.status.toNat ++ beBytes 8 e.step.toNat ++ beBytes 8 e.jobId ++
    beBytes 4 e.seq ++ beBytes 2 (signedBits 16 e.temp) ++ beBytes 2 e.railMv ++ beBytes 1 e.rail ++ List.replicate 7 0 ++ beBytes 8 e.detail.toNat

/-- The words of a byte string as a latch. -/
def latchWords (n : Nat) (b : Bytes) : SMap Word := (List.range n).foldl (fun m i => mset 0 m i (word (wordAt b i))) []

/-- JOB_SEL written: every SEL field of the entry is latched. -/
def State.selectJob (s : State) (x : Session) (data : Word) : State :=
  s.modSel x fun y => { y with jobSel := data &&& 0xFFF#32, jobLatch := s.selWords (data.toNat % 4096) }

/-- EVT_SEL written: the event of this hub start with that number is latched, zero when it is no longer held. -/
def State.selectEvent (s : State) (x : Session) (data : Word) : State :=
  let held := s.journal.events.drop (s.journal.events.length - s.config.eventsHeld)
  let b := ((held.find? fun e => e.seq == data.toNat).map eventBytes).getD []
  s.modSel x fun y => { y with evtSel := data, evtLatch := latchWords 16 b }

/-- AUDIT_SEL_LO written: the selected entry is latched, zero when it is no longer held. -/
def State.selectAudit (s : State) (x : Session) (data : Word) : State :=
  let seq := (s.selOf x).auditHi.toNat * 2 ^ 32 + data.toNat
  let b := ((s.journal.audit.find? fun e => e.seq == seq).map fun e => auditBytes e ++ e.hash).getD []
  s.modSel x fun y => { y with auditLo := data, auditLatch := latchWords 64 b }

/-! ### The header's writes (R550 to R552) -/

def State.modHeader (s : State) (g : RegPage) (f : PageHeader → PageHeader) : State :=
  { s with headers := mmod {} s.headers (pageIndex g) f }

/-- EVT_FORCE: one event for each bit set, in ascending order. -/
def State.forceEvents (s : State) (g : RegPage) (data : Word) : State :=
  ((List.range 32).filter data.getLsbD).foldl (fun t i =>
    t.logOn (pageIndex g) i true { code := 0x0001, severity := 0, detail := BitVec.ofNat 64 (pageIndex g * 2 ^ 32 + i) }) s

/-- RETRY: the bring-up of a unit that R540 marked unusable is tried again at once. -/
def State.retryUnit (s : State) : RegPage → State
  | .hub p =>
    if p = 2 then s.onConfig fun c => { c with portUnusable := false }
    else if p = 0xB then s.onConfig fun c => { c with entropyUnusable := false }
    else s
  | .die _ => s
  | .cluster k => if (s.half (pageHalf k)).unusable then (s.modHalf (pageHalf k) fun h => { h with unusable := false }).wakeHalf (pageHalf k) else s
  | .stack t =>
    if (s.stack t).unusable && !mget false s.thermal.unusable (24 + t) then (s.modStack t fun k => { k with unusable := false }).wakeStack t else s

/-- WAKE: a first request for the unit. WAKE and RETRY have no effect on the AON page. -/
def State.wakeRequest (s : State) (g : RegPage) : State := if g = .hub 0 then s else s.wakePage g

def State.writeHeader (s : State) (g : RegPage) (off : Nat) (data : Word) : State :=
  match off with
  | 0x00C =>
    let s1 := if data.getLsbD 0 then s.wakeRequest g else s
    if data.getLsbD 1 then s1.retryUnit g else s1
  | 0x010 => s.modHeader g fun h => { h with evtStatus := h.evtStatus &&& ~~~data }
  | 0x014 => s.modHeader g fun h => { h with evtEnable := data }
  | 0x018 => s.forceEvents g data
  | _ => s

/-! ### Settings (R374, R375, R376, R415, R475, R511, R512, R521) -/

def State.setSettings (s : State) (f : Settings → Settings) : State := s.onJournal fun j => { j with settings := f j.settings }

/-- A field of a register word. -/
def field (data : Word) (lo w : Nat) : Nat := bitField data.toNat lo w

def State.writePort (s : State) (off : Nat) (data : Word) : State :=
  if off = 0x104 then
    let on := data.getLsbD 1
    let s1 := s.setSettings fun g =>
      { g with udpPort := if field data 16 16 = 0 then g.udpPort else field data 16 16, preemptEnable := on, encapUdp := data.getLsbD 0 }
    let s2 := if on then s1 else s1.onPort fun p => { p with preemptActive := false }
    if data.getLsbD 2 then s2.resetPort else s2
  else if off = 0x108 then
    s.setSettings fun g => { g with pcpBulk := field data 16 3, pcpExpress := field data 12 3,
                                    vid := if field data 0 12 = 4095 then g.vid else field data 0 12 }
  else
    let at_ := 96 - 8 * (off - 0x10C)
    s.setSettings fun g =>
      let old := bitField g.ipv6.toNat at_ 32
      { g with ipv6 := BitVec.ofNat 128 (g.ipv6.toNat - old * 2 ^ at_ + data.toNat * 2 ^ at_) }

def State.writePtp (s : State) (off : Nat) (data : Word) : State :=
  if off = 0x104 then
    s.setSettings fun g => { g with priority2 := field data 24 8, priority1 := field data 16 8, domain := field data 8 8, ptpUdp := data.getLsbD 1,
                                    slaveOnly := data.getLsbD 0 }
  else s.setSettings fun g => { g with asymmetry := data }

/-- BUDGET: the arbiter grants against the new budget at once. -/
def State.writeBudget (s : State) (data : Word) : State :=
  let w := field data 0 12
  if 704 ≤ w ∧ w ≤ 3800 then ((s.setSettings fun g => { g with budget := w }).rebudget).raiseSettings else s

/-- The fields of SECURITY 0x108 that an installer writes. -/
def State.writeSigning (s : State) (data : Word) : State :=
  let n := field data 1 2
  s.setSettings fun g => { g with requireEncryption := data.getLsbD 0, programSigning := if n = 3 then g.programSigning else n }

/-- KEY_OP by its code. -/
def State.keyOp (s : State) (x : Session) (data : Word) : State :=
  match field data 0 2 with
  | 1 => s.keyEnrol x
  | 2 => s.keyRemove x
  | 3 => s.keyCert x
  | _ => s

/-- ENTROPY 0x104: RAW_MODE is the maker's field, DRBG_MODE and ALARM_CLEAR the installer's. -/
def State.writeEntropy (s : State) (x : Session) (data : Word) : State :=
  if x.consents 0 then
    if data.getLsbD 2 != (s.entropy.state == .raw) then s.rawMode x (data.getLsbD 2) else s
  else
    let s1 := if data.getLsbD 0 != s.journal.settings.drbgShared then s.drbgMode x (data.getLsbD 0) else s
    if data.getLsbD 1 then s1.alarmClear x else s1

/-- The registers of hub pages that hold a setting, written by an installer. -/
def State.writeSetting (s : State) (p off : Nat) (data : Word) : State :=
  match p with
  | 0x2 => s.writePort off data
  | 0x3 => s.writePtp off data
  | 0x4 =>
    let n := field data 0 16
    if 10 ≤ n ∧ n ≤ 3600 then s.setSettings fun g => { g with idleTimeout := n } else s
  | 0x7 => s.writeBudget data
  | 0xA => if off = 0x13C then s.setSettings fun g => { g with minSecurityVersion := max g.minSecurityVersion data.toNat } else s.writeSigning data
  | 0xC => s.setSettings fun g => { g with cdigestInterval := field data 16 16, replayMode := data.getLsbD 0 }
  | _ => s

/-! ### One write (R556) -/

def State.auditWrite (s : State) (x : Session) (addr data : Word) : State :=
  s.auditBy x 0 0x0005 0 (beBytes 4 addr.toNat ++ beBytes 4 data.toNat)

/-- A CFG_OP written in a batch; one in progress answers REG_BUSY (R561). -/
def State.cfgWriteReg (s : State) (x : Session) (data : Word) : State × Nat :=
  let y := (s.session? x.id).getD x
  match field data 0 2 with
  | 1 => if s.config.writing.isSome then (s, 0x0004) else (s.cfgWrite y, 0)
  | 2 => if s.config.writing.isSome then (s, 0x0004) else (s.unclaim y, 0)
  | _ => (s, 0)

/-- SECURITY 0x108 by role: SCAN_ARM of a maker is refused while a job is resident (R508). -/
def State.writeSecurity (s : State) (x : Session) (addr data : Word) : State × Nat :=
  if x.role == .maker then
    if !data.getLsbD 3 then (s, 0)
    else if s.jobList.any fun e => e.2.state.resident then (s, 0x0610)
    else (s.armScan x, 0)
  else ((s.auditWrite x addr data).writeSetting 0xA 0x108 data, 0)

def State.writeHub (s : State) (x : Session) (p off : Nat) (addr data : Word) : State × Nat :=
  let y := (s.session? x.id).getD x
  if p = 1 then
    if off = 0x160 then (s.selectEvent x data, 0)
    else if off = 0x150 then s.cfgWriteReg x data
    else (s.modSel x fun v => { v with cfgDigest := mset 0 v.cfgDigest ((off - 0x130) / 4) data }, 0)
  else if p = 6 then (s.selectJob x data, 0)
  else if p = 0xF then
    if off = 0x114 then (s.selectAudit x data, 0) else (s.modSel x fun v => { v with auditHi := data }, 0)
  else if p = 0xB then (s.writeEntropy x data, 0)
  else if p = 0xA ∧ off = 0x108 then s.writeSecurity x addr data
  else if p = 0xA ∧ off = 0x10C then (s.keyOp y data, 0)
  else if p = 0xA ∧ off < 0x130 then (s.modSel x fun v => { v with keyDigest := mset 0 v.keyDigest ((off - 0x110) / 4) data }, 0)
  else ((s.auditWrite x addr data).writeSetting p off data, 0)

/-- A write that the session may make, carried out, with the entry's status. -/
def State.writeReg (s : State) (x : Session) (g : RegPage) (off : Nat) (addr data : Word) : State × Nat :=
  if off < 0x100 then ((s.auditWrite x addr data).writeHeader g off data, 0)
  else match g with
    | .hub p => s.writeHub x p off addr data
    | _ => (s, 0)

/-! ### One entry (R556, R557) -/

/-- What an entry comes to: the state after it, its status and the word read; none while it stalls (R504). -/
structure EntryDone where
  state : State
  status : Nat := 0
  data : Word := 0
  deriving DecidableEq, Repr

/-- Reads that the hub answers from its own copy for a unit that is gone. -/
def ownCopy (off : Nat) : Bool := off == 0x000 || off == 0x004 || off == 0x008 || off == 0x01C || off == 0x020

/-- A read of RNG_DATA or RAW_DATA within a batch; none while it stalls. -/
def State.readStream (s : State) (off : Nat) : Option EntryDone :=
  if off = 0x108 then
    if s.drbgStatus ≠ 0 then some { state := s, status := s.drbgStatus }
    else if s.drbgGives && !s.drbgStalls 3 then
      let r := s.drbg 3 4
      some { state := r.2, data := word (beNat r.1) }
    else none
  else if s.entropy.state == .raw then some { state := { s with free := s.free + 1 }, data := Config.rawSamples s.free }
  else some { state := s }

/-- May a write to CTRL reach a unit that R540 marked unusable: one that sets RETRY. -/
def isRetry (s : State) (g : RegPage) (off : Nat) (e : RegEntry) : Bool :=
  e.write && off == 0x00C && e.data.getLsbD 1 &&
    (match g with
      | .cluster k => (s.half (pageHalf k)).unusable && !(s.half (pageHalf k)).failed
      | .stack t => (s.stack t).unusable && !(s.stack t).failed
      | _ => false)

/-- An entry that reaches its register. -/
def State.reachReg (s : State) (x : Session) (g : RegPage) (off : Nat) (e : RegEntry) : Option EntryDone :=
  let s1 := s.wakePage g
  if e.write then
    if regWritable g off then
      let r := s1.writeReg x g off e.addr e.data
      some { state := r.1, status := r.2, data := e.data }
    else some { state := s1, data := e.data }
  else if g = .hub 0xB ∧ (off = 0x108 ∨ off = 0x10C) then s1.readStream off
  else
    let r := s1.readReg x g off
    some { state := r.2, data := r.1 }

/-- One entry of a batch, by the first case that applies. -/
def State.regEntry (s : State) (x : Session) (e : RegEntry) : Option EntryDone :=
  let off := e.addr.toNat % 4096
  let back := if e.write then e.data else 0
  if x.role == .peer || x.role == .claim then some { state := s, status := 0x0108, data := back }
  else if e.addr.toNat % 4 ≠ 0 then some { state := s, status := 0x0109, data := back }
  else
    match regPage (e.addr.toNat / 4096) with
    | none => some { state := s, status := 0x0109, data := back }
    | some g =>
      if e.write && regWritable g off && !x.may g off e.data then some { state := s, status := 0x0108, data := back }
      else if s.unitGone g && !isRetry s g off e then
        if !e.write && ownCopy off then some { state := s, data := s.liveWord x g off } else some { state := s, status := 0x0002, data := back }
      else if s.unitGone g then
        some { state := (s.auditWrite x e.addr e.data).writeHeader g off e.data, data := e.data }
      else s.reachReg x g off e

/-! ### Batches (R412, R558) -/

/-- Entries in order; none while one of them stalls. -/
def State.regEntries (s : State) (x : Session) : List RegEntry → Option (State × List (RegEntry × BitVec 16))
  | [] => some (s, [])
  | e :: es =>
    match s.regEntry x e with
    | none => none
    | some r =>
      match r.state.regEntries x es with
      | none => none
      | some (t, l) => some (t, ({ e with data := r.data }, BitVec.ofNat 16 r.status) :: l)

/-- A batch executed and answered; one of more than 128 entries is answered with BAD_LENGTH and none.
While a read of it stalls, the batch waits. -/
def State.regBatch (s : State) (x : Session) (tag : Nat) (es : List RegEntry) : State :=
  let s1 := s.popInbox x.id
  if 128 < es.length then s1.send x.id (.regReply tag 0x0102 [])
  else
    match s1.regEntries x es with
    | none => s
    | some (t, l) => t.send x.id (.regReply tag 0 l)

def execRegBatch (sess tag : Nat) (entries : List RegEntry) (s : State) : Host.Outcome State Fault Refusal :=
  .next (match s.openSession? sess with
    | none => s
    | some x => s.regBatch x tag entries)

/-- A batch of one entry with TAG 0 (log entry 21). -/
def State.oneEntry (s : State) (sess : Nat) (e : RegEntry) : State :=
  match s.openSession? sess with
  | none => s
  | some x =>
    match (s.popInbox sess).regEntry x e with
    | none => s
    | some r => r.state.replyOne sess e.addr e.write r.data r.status

/-! ### Rows of single registers -/

def execRegisterWrite (sess : Nat) (addr data : Word) (s : State) : Host.Outcome State Fault Refusal :=
  .next (s.oneEntry sess { addr := addr, write := true, data := data })

def execHighWordRead (sess : Nat) (addr : Word) (s : State) : Host.Outcome State Fault Refusal :=
  .next (s.oneEntry sess { addr := addr, write := false, data := 0 })

def execJobSel (sess : Nat) (data : Word) (s : State) : Host.Outcome State Fault Refusal :=
  .next (s.ownWrite sess 0x610C data Session.reads fun t x => t.selectJob x data)

def execAuditSelLo (sess : Nat) (data : Word) (s : State) : Host.Outcome State Fault Refusal :=
  .next (s.ownWrite sess 0xF114 data Session.reads fun t x => t.selectAudit x data)

def execEvtSel (sess : Nat) (data : Word) (s : State) : Host.Outcome State Fault Refusal :=
  .next (s.ownWrite sess 0x1160 data Session.reads fun t x => t.selectEvent x data)

/-- A header register of a page by its index. -/
def State.headerEntry (s : State) (sess page off : Nat) (data : Word) : State :=
  s.oneEntry sess { addr := word (4096 * page + off), write := true, data := data }

def execEvtForce (sess page : Nat) (data : Word) (s : State) : Host.Outcome State Fault Refusal := .next (s.headerEntry sess page 0x018 data)

def execWake (sess page : Nat) (s : State) : Host.Outcome State Fault Refusal := .next (s.headerEntry sess page 0x00C 1)

def execRetry (sess page : Nat) (s : State) : Host.Outcome State Fault Refusal := .next (s.headerEntry sess page 0x00C 2)

/-- DR8_RETRY alone (R362): the other fields of its register keep what they hold. -/
def execDr8Retry (sess : Nat) (s : State) : Host.Outcome State Fault Refusal :=
  .next (s.ownWrite sess 0x2104 4 (·.role == .installer) fun t x => (t.auditWrite x 0x2104 4).resetPort)

end Sys2Proof.Machine
end

