-- ==== Sys2Proof/Machine/Receive.lean ====
section
/-! DEFINITION. A received frame (12 R350 to R352, R359) and a received Kenvin packet (13 R378 to R383, R389 to R391, R404, R406, R412;
16 R490): the filter, authentication, the receive window and delivery in order to the session's inbox (log entry 17). -/

namespace Sys2Proof.Machine

open Sys2Proof

/-! ### The frame filter (R350, R351, R359) -/

/-- Good FCS, 64 to 9,216 bytes, and a tag that the port accepts. -/
def State.frameFits (s : State) (f : Frame) : Bool :=
  f.fcsOk && decide (64 ≤ f.size ∧ f.size ≤ 9216) && !f.otherTag &&
    (match f.vlan with
     | none => s.journal.settings.vid == 0
     | some v => v == 0 || v.toNat == s.journal.settings.vid)

def broadcastMac : BitVec 48 := BitVec.allOnes 48

/-- The Ethernet address of an IPv6 address's solicited-node multicast. -/
def solicitedMac (a : BitVec 128) : BitVec 48 := BitVec.ofNat 48 (0x3333FF * 2 ^ 24 + a.toNat % 2 ^ 24)

/-- The addresses an IPv6 frame may go to: factory, broadcast, and the solicited-node multicast of one of the S6's addresses. -/
def State.ipv6Dest (s : State) (d : BitVec 48) : Bool :=
  d == s.factoryMac || d == broadcastMac || d == solicitedMac (linkLocal s.factoryMac) ||
    (s.journal.settings.ipv6 != 0 && d == solicitedMac s.journal.settings.ipv6)

/-- The next header of an IPv6 packet, the destination port of its UDP datagram, and the type of its ICMPv6 message. -/
def ipNext (b : Bytes) : Nat := beAt b 6 1
def udpDest (b : Bytes) : Nat := beAt b 42 2
def icmpType (b : Bytes) : Nat := beAt b 40 1

/-- What an accepted frame carries. -/
inductive FrameContent where
  | kenvin (packet : Bytes) (source : BitVec 128)
  | other (source : BitVec 128)
  deriving DecidableEq, Repr

/-- The payload of a UDP datagram in an IPv6 packet. -/
def udpPayload (b : Bytes) : Bytes := slice b 48 (beAt b 44 2 - 8)

/-- A frame of one of R351's three kinds, or none. -/
def State.frameKind (s : State) (f : Frame) : Option FrameContent :=
  let g := s.journal.settings
  if f.etherType = 0x88B5#16 then
    if g.encapUdp then none
    else if f.dst = s.factoryMac ∨ f.dst = broadcastMac ∧ beAt f.payload 1 1 = 1 then some (.kenvin f.payload 0)
    else none
  else if f.etherType = 0x88F7#16 then
    if f.dst = 0x011B19000000#48 ∨ f.dst = s.factoryMac then some (.other 0) else none
  else if f.etherType = 0x86DD#16 ∧ g.encapUdp ∧ s.ipv6Dest f.dst ∧ beAt f.payload 0 1 / 16 = 6 then
    let from_ := BitVec.ofNat 128 (beAt f.payload 8 16)
    if ipNext f.payload = 17 then
      if udpDest f.payload = g.udpPort then some (.kenvin (udpPayload f.payload) from_)
      else if udpDest f.payload = 319 ∨ udpDest f.payload = 320 then some (.other from_)
      else none
    else if ipNext f.payload = 58 ∧ (icmpType f.payload = 135 ∨ icmpType f.payload = 128) then some (.other from_)
    else none
  else none

/-! ### A Kenvin packet (R379 to R382, R490) -/

/-- The header and what follows it. -/
structure Packet where
  type : Nat
  flags : Nat
  dest : Nat
  src : Nat
  sess : Nat
  sack : BitVec 16
  seq : Nat
  ack : Nat
  header : Bytes
  payload : Bytes
  trailer : Bytes
  deriving DecidableEq, Repr

/-- A packet of version 1 with no reserved bit set, its payload and trailer whole. -/
def parsePacket (b : Bytes) : Option Packet :=
  let len := beAt b 0x0C 2
  if 48 + len ≤ b.length ∧ len ≤ 8192 ∧ beAt b 0 1 = 1 ∧ beAt b 2 1 < 8 ∧ beAt b 3 1 = 0 ∧ beAt b 4 2 < 4096 ∧ beAt b 6 2 < 4096 then
    some { type := beAt b 1 1, flags := beAt b 2 1, dest := beAt b 4 2, src := beAt b 6 2, sess := beAt b 8 4,
           sack := BitVec.ofNat 16 (beAt b 0x0E 2), seq := beAt b 0x10 8, ack := beAt b 0x18 8,
           header := b.take 32, payload := slice b 32 len, trailer := slice b (32 + len) 16 }
  else none

def Packet.encrypted (p : Packet) : Bool := p.flags.testBit 0
def Packet.ackOnly (p : Packet) : Bool := p.flags.testBit 1

/-- TYPEs that a peer of the S6 sends (R380). -/
def receivedType (t : Nat) : Bool := decide (t ≤ 6) || decide (9 ≤ t ∧ t ≤ 12)

/-- BARRIER and RETRACT: delivered on arrival (R389), at most 128 bytes (R380). -/
def expressType (t : Nat) : Bool := t == 9 || t == 11

/-- ACK_ONLY belongs to TYPE 0 with SEQ 0, and to no other. -/
def Packet.formOk (p : Packet) : Bool :=
  receivedType p.type && (p.ackOnly == (p.type == 0)) && (p.type != 0 || p.seq == 0) && (!expressType p.type || decide (p.payload.length ≤ 128))

/-- The keys of the direction toward the S6 (R489). -/
def Session.keyIn (x : Session) (kind : String) : Bytes := x.keyOf (kind ++ if x.opener then " d2h" else " h2d")

/-- The nonce toward the S6: its direction word, then SEQ (R382). -/
def Session.nonceIn (x : Session) (seq : Nat) : Bytes := beBytes 4 (bit x.opener) ++ beBytes 8 seq

/-- The trailer of a session's packet (R381). -/
def Session.trailerOk (x : Session) (p : Packet) : Bool :=
  p.trailer == (hmac (x.keyIn "kenvin auth") (p.header ++ p.payload)).take 16

/-- The payload in clear: none where R490 or the tag of R382 fails. -/
def Session.openPayload (x : Session) (p : Packet) : Option Bytes :=
  if p.encrypted then (if x.encrypt then gcmOpen (x.keyIn "kenvin enc") (x.nonceIn p.seq) p.header p.payload else none)
  else if x.encrypt && !p.payload.isEmpty then none
  else some p.payload

/-- The open session that authenticates a packet: one the S6 gave its SESSION, or one that the S6 opened to the packet's SRC. -/
def State.packetSession (s : State) (p : Packet) : Option Session :=
  ([p.sess, openerId p.src p.sess].filterMap s.openSession?).find? fun x => x.trailerOk p

/-! ### Delivery (R389, R390) -/

/-- The length of a command's body by CODE, none for a CODE that R404 does not give. -/
def commandBody : Nat → Option Nat
  | 1 => some 48 | 2 => some 32 | 3 => some 0xD0 | 4 => some 8 | 5 => some 16 | 6 => some 8 | 7 => some 8 | 8 => some 56 | 9 => some 8
  | 10 => some 8
  | _ => none

/-- Why a COMMAND cannot be handled at all, 0 when it can: an unknown CODE or reset class, or a body of the wrong length. -/
def commandStatus (b : Bytes) : Nat :=
  let body := b.drop 16
  match commandBody (beAt b 8 2) with
  | none => 0x010F
  | some n =>
    if body.length ≠ n then 0x0102
    else if beAt b 8 2 = 10 ∧ (3 < beAt body 0 1 ∨ beAt body 0 1 = 2 ∧ 5 < beAt body 1 1) then 0x010F
    else 0

/-- COUNT and LENGTH of a REG_BATCH agree. -/
def batchOk (b : Bytes) : Bool := decide (b.length ≥ 16 ∧ beAt b 8 2 ≤ 128 ∧ b.length = 16 + 12 * beAt b 8 2)

/-- A packet handed to the upper layer: one that is no well-formed request is answered at once, any other waits in the inbox. -/
def State.deliver (s : State) (x : Session) (p : RxPacket) : State :=
  let keep := s.modSession x.id fun y => { y with inbox := y.inbox ++ [p] }
  if x.role == .peer then keep
  else match p.type with
  | 4 =>
    let st := commandStatus p.payload
    if p.payload.length < 16 then s.refuse x (beAt p.payload 0 8) 0x0102
    else if st = 0 then keep else s.refuse x (beAt p.payload 0 8) st
  | 5 => if batchOk p.payload then keep else s.send x.id (.regReply (beAt p.payload 0 8) 0x0102 [])
  | 6 => if 16 ≤ p.payload.length then keep else s.onTransport fun t => { t with bulkDiscarded := satAdd 32 t.bulkDiscarded 1 }
  | 12 => if p.payload.length = 40 ∧ beAt p.payload 0 1 ≤ 1 then keep else s.send x.id (.quote 0x0102 [])
  | _ => keep

/-- The packets that may be delivered from `ack` on, the cumulative acknowledgement they leave, and what is still held. -/
def takeReady : Nat → Nat → List RxPacket → List RxPacket × Nat × List RxPacket
  | 0, ack, held => ([], ack, held)
  | fuel + 1, ack, held =>
    match held.find? fun p => p.seq == ack + 1 with
    | none => ([], ack, held)
    | some p =>
      let r := takeReady fuel (ack + 1) (dropFirst (fun q => q.seq == ack + 1) held)
      (if expressType p.type then r.1 else p :: r.1, r.2)

def State.bareAck (s : State) (id : Nat) : State := s.emit (.bareAck id (((s.session? id).map (·.rxAck)).getD 0))

/-- An authenticated sequenced packet at the receive window. -/
def State.windowIn (s : State) (x : Session) (p : RxPacket) : State :=
  if x.rxAck + 4096 < p.seq then s.onTransport fun t => { t with windowDrop := satAdd 32 t.windowDrop 1 }
  else if p.seq ≤ x.rxAck ∨ x.rxHeld.any (fun q => q.seq == p.seq) then s.bareAck x.id
  else
    let s1 := if expressType p.type then s.deliver x p else s
    let r := takeReady (x.rxHeld.length + 1) x.rxAck (x.rxHeld ++ [p])
    let s2 := s1.modSession x.id fun y => { y with rxAck := r.2.1, rxHeld := r.2.2 }
    (r.1.foldl (fun t q => t.deliver x q) s2).bareAck x.id

/-! ### The packet as a whole -/

def State.authFailed (s : State) : State := s.onTransport fun t => { t with authFail := satAdd 32 t.authFail 1 }

/-- A packet of a session whose trailer has been checked. -/
def State.sessionPacket (s : State) (x : Session) (p : Packet) (mac : BitVec 48) (ip : BitVec 128) : State :=
  match x.openPayload p with
  | none => s.authFailed
  | some plain =>
    let s1 := s.modSession x.id fun y => { y with mac := mac, ip := ip }
    if p.type = 0 then s1
    else
      let s2 := s1.ackIn { sess := x.id, ack := p.ack, sackMap := p.sack, bitmap := [] }
      match s2.openSession? x.id with
      | none => s2
      | some y => s2.windowIn y { seq := p.seq, type := p.type, payload := plain }

/-- A packet outside sessions, whose trailer is zero (R381): its answer goes to its source. What it does is its own row's effect. -/
def State.outsideIn (s : State) (p : Packet) (n : NetSource) : State :=
  if p.trailer.all (· == 0) then s.fromSource n else s.authFailed

/-- A Kenvin packet. What a ROLL_CALL, a SESSION_OPEN or a bare acknowledgement does is those commands' effect. -/
def State.packetIn (s : State) (b : Bytes) (mac : BitVec 48) (ip : BitVec 128) : State :=
  match parsePacket b with
  | none => s.authFailed
  | some p =>
    if p.formOk = false then s.authFailed
    else if p.type = 1 ∧ p.dest = 0xFFF then s.outsideIn p { mac := mac, ip := ip }
    else if s.journal.settings.unitAddr = 0 ∨ p.dest ≠ s.journal.settings.unitAddr then s
    else if p.type = 1 ∨ p.type = 2 then s.outsideIn p { mac := mac, ip := ip }
    else match s.packetSession p with
    | none => s.authFailed
    | some x => s.sessionPacket x p mac ip

/-- A frame received: what R351 does not accept is dropped and counted. Nothing is received while the link is down or the hub does not run. -/
def State.frameIn (s : State) (f : Frame) : State :=
  if s.port.linkUp = false ∨ s.config.hubReady = false ∧ s.config.bootRom = false ∨ s.security.scan then s
  else if s.frameFits f = false then s.onPort fun p => { p with rxDropped := satAdd 32 p.rxDropped 1 }
  else match s.frameKind f with
  | none => s.onPort fun p => { p with rxDropped := satAdd 32 p.rxDropped 1 }
  | some (.other ip) => s.fromSource { mac := f.src, ip := ip }
  | some (.kenvin b ip) => s.packetIn b f.src ip

def execFrameReceive (f : Frame) (s : State) : Host.Outcome State Fault Refusal := .next (s.frameIn f)

end Sys2Proof.Machine
end

