-- ==== Sys2Proof/Machine/RollCall.lean ====
section
/-! DEFINITION. Roll call (13 R383 to R387): enumeration with its back-off, probes and the assignment of a unit address. -/

namespace Sys2Proof.Machine

open Sys2Proof

/-- A REPLY, with a fresh UNIT_NONCE (R385, R506). -/
def State.rollReply (s : State) (dst : Nat) (nonce : Bytes) : State :=
  let r := s.transportRandom 16
  (r.2.onTransport fun t => { t with unitNonce := r.1, nonceUsed := false }).emit
    (.rollReply dst s.journal.settings.unitAddr s.journal.claimed nonce r.1)

/-- ENUMERATE: a unit that the filter selects and that is not excluded starts its back-off, 0 to WINDOW_US − 1 µs (R386). -/
def State.enumerate (s : State) (b : EnumerateBody) : State :=
  if (b.filterAll || s.journal.settings.unitAddr == 0) && !b.exclude.contains s.factoryMac then
    let w := if b.windowUs = 0 then 1000 else b.windowUs
    let r := s.transportRandom 4
    r.2.onTransport fun t => { t with pendingReplies := t.pendingReplies ++
      [{ dst := b.src, nonce := b.nonce, due := s.nowNs / 1000 + beNat r.1 % w, from_ := t.source }] }
  else s

def execEnumerate (b : EnumerateBody) (s : State) : Host.Outcome State Fault Refusal := .next (s.enumerate b)

/-- The earliest back-off ends: its REPLY is sent. -/
def State.backoffEnds (s : State) : State :=
  match sortBy (fun a b : PendingReply => decide (a.due < b.due)) s.transport.pendingReplies with
  | [] => s
  | p :: ps => (s.onTransport fun t => { t with pendingReplies := ps, source := p.from_ }).rollReply p.dst p.nonce

def execRollCallBackoff (s : State) : Host.Outcome State Fault Refusal := .next s.backoffEnds

/-- PROBE for this unit's address is answered at once (R386). -/
def State.probed (s : State) (src address : Nat) (nonce : Bytes) : State :=
  if address ≠ 0 ∧ address = s.journal.settings.unitAddr then s.rollReply src nonce else s

def execProbe (src address : Nat) (nonce : Bytes) (s : State) : Host.Outcome State Fault Refusal := .next (s.probed src address nonce)

/-- The audit entry of an ASSIGN; an unsigned one has no acting key. -/
def State.auditAssign (s : State) (signer : Bytes) (address status : Nat) : State :=
  s.audit (if signer.isEmpty then 0xFF else 1) (if status = 0 then 0 else 1) (if status = 0 then 0x0004 else 0x000D) status signer (beBytes 2 address)

/-- The address taken, ASSIGNED sent (R374, R384, R387). -/
def State.takeAddress (s : State) (p : PendingAssign) : State :=
  ((s.auditAssign p.signer p.address 0).onJournal fun j => { j with settings := { j.settings with unitAddr := p.address } }).emit
    (.rollAssigned p.dst p.address p.nonce)

/-- Is an ASSIGN authorised: unsigned on an unclaimed unit, else signed by an installer key over the latest UNIT_NONCE, used once. -/
def State.assignSigned (s : State) (b : AssignBody) : Bool :=
  match s.key? .installer b.signer with
  | some k => !s.transport.nonceUsed &&
      pssVerify k.modulus (sha256 (s.transport.unitNonce ++ beBytes 6 b.mac.toNat ++ beBytes 2 b.address)) b.signature
  | none => false

/-- ASSIGN to this unit (R387). -/
def State.assign (s : State) (b : AssignBody) : State :=
  if b.mac ≠ s.factoryMac then s
  else if s.journal.claimed ∧ s.assignSigned b = false then
    (s.auditAssign b.signer b.address 0x0602).emit (.rollRefused b.src 0x0602 b.nonce)
  else
    let signer := if s.journal.claimed then b.signer else []
    let s1 := if s.journal.claimed then s.onTransport fun t => { t with nonceUsed := true } else s
    let p : PendingAssign := { dst := b.src, address := b.address, nonce := b.nonce, signer := signer, from_ := s.transport.source }
    if b.address = 0 then s1.takeAddress p
    else if 4094 < b.address then s1.emit (.rollRefused b.src 0x0111 b.nonce)
    else (s1.onTransport fun t => { t with pendingAssign := some p }).emit (.rollProbe b.address)

def execAssign (b : AssignBody) (s : State) : Host.Outcome State Fault Refusal := .next (s.assign b)

/-- A REPLY for the address that is being probed (R387). -/
def State.replyIn (s : State) (address : Nat) : State :=
  match s.transport.pendingAssign with
  | some p =>
    if p.address = address then (s.onTransport fun t => { t with pendingAssign := none, source := p.from_ }).emit (.rollRefused p.dst 0x010D p.nonce) else s
  | none => s

def execReply (address : Nat) (s : State) : Host.Outcome State Fault Refusal := .next (s.replyIn address)

/-- 1 ms without a REPLY: the address is taken. -/
def State.probeEnds (s : State) : State :=
  match s.transport.pendingAssign with
  | some p => (s.onTransport fun t => { t with pendingAssign := none, source := p.from_ }).takeAddress p
  | none => s

def execProbeTimeout (s : State) : Host.Outcome State Fault Refusal := .next s.probeEnds

end Sys2Proof.Machine
end

