-- ==== Sys2Proof/Machine/Submit.lean ====
section
/-! DEFINITION. SUBMIT (13 R407; 10 R292, R293, R305, R307, R316, R317; 04 R93, R95, R99, R101; 05 R115, R145, R147, R151; 08 R247; 11
R343; 15 R453; 16 R479, R493, R504): what is checked at once, and the job accepted. -/

namespace Sys2Proof.Machine

open Sys2Proof

/-! ### The checks of a tiling (R247) -/

/-- DETAIL0 of a fault in a tiling: its index in [63:56] and a number below. -/
def tilingAt (k low : Nat) : Nat := k * 2 ^ 56 + low % 2 ^ 32

/-- The full tiles of a model between two blocks: row block, column block and K of the column block. -/
def fullTiles (m : Bytes) : List (Nat × Nat × Nat) :=
  let cat (a : Nat) : Bool := (imgBlock m a).kind == 1
  ((List.range (imgBlocks m)).filterMap fun a => if cat a && !(imgBlock m a).intraPotts then some (a, a, (imgBlock m a).states) else none) ++
    (List.range (imgInterTiles m)).filterMap fun i =>
      let e := imgInter m i
      if cat e.rowBlock && cat e.colBlock && !e.potts then some (e.rowBlock, e.colBlock, (imgBlock m e.colBlock).states) else none

/-- The blocks that hold a variable with a nonzero coupling to a variable of its colour (R93). -/
def sameColourBlocks (m : Bytes) : List Nat :=
  (intraTiles m ++ interTiles m).flatMap fun t =>
    if (List.range (tileElems (imgBlock m t.a) (imgBlock m t.b) t.potts)).any fun i =>
      let u := (imgBlock m t.a).base + (t.pair m i).1
      let v := (imgBlock m t.b).base + (t.pair m i).2
      u != v && imgColour m u == imgColour m v && !(elemVal (imgCoupling m) (arrayRaw m t.off (imgCoupling m) i) 0).isZero
    then [t.a, t.b] else []

/-- MODEL_MISMATCH of a tiling: the header, then each block's KIND, KM1 and FULL_TABLES. -/
def mismatchFault (p m : Bytes) (k : Nat) : Option LoadFault :=
  let t := progTiling p k
  let head (off a b : Nat) : Option LoadFault := needs (a == b) 0x0421 (tilingAt k off) 0
  let full (c : Nat) : Bool := (fullTiles m).any fun e => leAt p (t.blockMap + e.1) 1 == c
  firstFault
    [head 0x1D (progCoupling p) (imgCoupling m), head 0x1E (progColours p) (imgColours m), head 0x20 (progVars p) (imgVars m),
     head 0x28 (progBlocks p) (imgBlocks m), needs (progModel p == zeros32 || progModel p == imageDigest m) 0x0421 (tilingAt k 0x30) 0,
     (List.range (imgBlocks m)).findSome? fun a =>
       let b := imgBlock m a
       let c := t.blockClass p a
       needs (c.kind == b.kind && c.km1 == b.km1 && c.fullTables == full (leAt p (t.blockMap + a) 1)) 0x0421 (tilingAt k a) a]

/-- RULE, SYNC and ACC_PATH of a block (R93, R115). -/
def settingFault (p m : Bytes) (same : List Nat) (k a : Nat) : Option LoadFault :=
  let b := imgBlock m a
  let c := (progTiling p k).blockClass p a
  let d := tilingAt k a
  firstFault
    [needs (decide (c.rule ≤ 1) && !(c.rule == 1 && b.kind == 2)) 0x0401 d c.rule,
     needs (c.sync == 0 || b.syncPermitted) 0x0402 d c.sync,
     needs (c.sync != 0 || !same.contains a) 0x0403 d c.sync,
     needs (c.accPath == 0 || (c.accPath == 1 && !(basePath m a).ordered)) 0x0406 d c.accPath]

/-- TILE_SHAPE of a class against the widest full tile of its rows (R99). -/
def widthFault (p m : Bytes) (k i : Nat) : Option LoadFault :=
  let t := progTiling p k
  let mine := (fullTiles m).filter fun e => leAt p (t.blockMap + e.1) 1 == i
  let widest := mine.foldl (fun a e => max a e.2.2) 0
  needs (shapeOk (t.classEntry p i).shape (progCoupling p) (if mine.isEmpty then none else some widest)) 0x041A (tilingAt k i) i

/-- A model larger than an allocation that is to hold a placed copy of it (R196). -/
def copyFault (p m : Bytes) (k i : Nat) : Option LoadFault :=
  let t := progTiling p k
  let g := t.segment p i
  needs (!(progFixed p && g.src == 0) || decide (imgSize m ≤ (t.alloc p g.alloc).size)) 0x0420 (tilingAt k i) i

/-- The target entries that the statistics of a tiling name: TGT of STA.FLUSH and TPK.SCAN. -/
def statTargets (p : Bytes) (t : Tiling) : List Nat :=
  (List.range t.numHalves).flatMap fun h => (List.range t.words).flatMap fun w => (List.range 32).filterMap fun k =>
    let d := bitField (t.slice p h w k) 64 32
    if d / 2 ^ 26 = 0x14 ∨ d / 2 ^ 26 = 0x16 then some (bitField d 12 12) else none

/-- STAT_ILLEGAL (R145): a statistic target, STAT_TGT of a descriptor among them, of another format than I32 or I64, or a Gaussian variable in a
statistic other than a histogram. -/
def statFault (p : Bytes) (k : Nat) : Option LoadFault :=
  let t := progTiling p k
  let ok (n : Nat) : Bool := (t.target p n).format == 4 || (t.target p n).format == 5
  needs ((statTargets p t ++ statEntries p t).all ok && !statGaussian p t) 0x0408 (tilingAt k 0) 0

/-- ENERGY_FORMAT of a tiling (R147). -/
def energyFault (p m : Bytes) (b : SubmitBody) (k : Nat) : Option LoadFault :=
  let legal := if energyExact p m (progTiling p k) then [4, 5, 10, 11] else [10, 11]
  needs (b.energyFormat == 0xFF || legal.contains b.energyFormat) 0x0407 0 0

/-- REFRESH_CONFLICT of a fixed-cadence job at a clock setting other than the 18 that the loader checked (R199, R322). -/
def refreshFault (p : Bytes) (b : SubmitBody) (k : Nat) : Option LoadFault :=
  if b.timing = 0 ∧ b.clock ≠ 18 then
    (mergeSort (fun x y : Found => decide (x.place ≤ y.place)) (refreshHits b.clock p (progTiling p k))).head?.map fun f => ⟨0x041B, tilingAt k f.low, f.d1⟩
  else none

/-- Every check that a submission's tiling meets. -/
def candidateFault (p m : Bytes) (b : SubmitBody) (same : List Nat) (k : Nat) : Option LoadFault :=
  let t := progTiling p k
  firstFault
    [mismatchFault p m k,
     (List.range (imgBlocks m)).findSome? (settingFault p m same k),
     (List.range t.numClasses).findSome? (widthFault p m k),
     (List.range t.numSegments).findSome? (copyFault p m k),
     statFault p k,
     energyFault p m b k,
     refreshFault p b k]

/-! ### The checks of the fields (R292) -/

/-- States as INIT is checked (R30, R42, R66): `r` replicas from an offset on, `stride` bytes each. -/
def inputStateFault (m input : Bytes) (off stride r : Nat) : Option LoadFault :=
  (List.range r).findSome? fun i => (List.range (imgVars m)).findSome? fun v =>
    let b := imgBlock m (imgBlockOf m v)
    let w := blockState m input (off + i * stride) v
    if b.kind = 1 then needs (decide (w.toNat < b.states)) 0x030B v w.toNat
    else if b.kind = 2 then needs (finiteF32 w) 0x0309 (off + i * stride + initBefore m (imgBlockOf m v) + 4 * (v - b.base)) 0
    else none

/-- The states and the β values of a context (R30, R42). -/
def contextValueFault (m c : Bytes) (b : SubmitBody) : Option LoadFault :=
  let o (i : Nat) : Nat := (ctxOffsets m b).getD i 0
  (inputStateFault m c (o 0) (contextStateBytes m) b.replicas).or
    ((List.range b.replicas).findSome? fun a => needs (finiteF32 (BitVec.ofNat 32 (leAt c (o 2 + 4 * a) 4))) 0x0309 (o 2 + 4 * a) 0)

/-- The context object: held, whole, and made for this submission (R318, R336, R337). -/
def State.contextFault (s : State) (b : SubmitBody) : Option LoadFault :=
  if b.context == zeros32 then none
  else
    match s.available? b.context 2 with
    | none => some ⟨0x020B, 0, 0⟩
    | some o =>
      let c := o.bytes.take (o.bytes.length - 32)
      (needs (sha256 c == o.bytes.drop (o.bytes.length - 32) && slice c 0 8 == ascii "LYRCNTXT" && leAt c 8 4 == 1 &&
        slice c 0x28 32 == b.program && slice c 0x48 32 == b.model && ctxReplicas c == b.replicas) 0x0209 0 0).or
        (contextValueFault (s.objectBytes b.model) c b)

/-- The β source and its values (R95, R101). -/
def betaSourceFault (m input : Bytes) (b : SubmitBody) : Option LoadFault :=
  let own := b.beta == 0 || b.beta == 2
  let value (i : Nat) : Bool := let w := leAt input (4 * i) 4; finiteF32 (BitVec.ofNat 32 w) && decide (w ≤ 0x80000000)
  needs (decide (b.beta ≤ 2) && (b.beta == 0 || imgBetaLen m != 0) && (b.ensemble != 2 || b.beta == 1) &&
    (!own || (b.input != zeros32 && (decide (input.length < 4 * b.replicas) || (List.range b.replicas).all value)))) 0x0404 0 0

/-- The INPUT object (R292, R407). -/
def State.inputFault (s : State) (m : Bytes) (b : SubmitBody) : Option LoadFault :=
  if b.input == zeros32 then none
  else
    match s.available? b.input 2 with
    | none => some ⟨0x020B, 0, 0⟩
    | some o =>
      let own := if b.beta = 0 ∨ b.beta = 2 then 4 * b.replicas else 0
      firstFault
        [needs (o.bytes.length == own || o.bytes.length == own + b.replicas * stateBytes m) 0x0113 0 0,
         if own < o.bytes.length then inputStateFault m o.bytes own (stateBytes m) b.replicas else none]

/-- MAX_PRIORITY of the key that submits (R479). -/
def State.maxPriority (s : State) (x : Session) : Nat := ((s.key? x.role x.fpr).map (·.maxPriority)).getD 7

/-- The result formats (R43, R343, R407). -/
def resultFault (b : SubmitBody) : Option LoadFault :=
  needs (decide (b.digestLevel ≤ 3) && (b.digestLevel == 0 || b.digestEvery != 0) && [2, 6, 7, 10].contains b.stateFormat) 0x0114 0 0

/-- The top-k request (R151). -/
def topkFault (p : Bytes) (b : SubmitBody) : Option LoadFault :=
  let energies := b.topkSource == 0
  let epass := (List.range (progTilings p)).any fun k => (progTiling p k).hasEpass p
  needs (decide (b.topkK ≤ 64) && decide (b.topkSource ≤ 1) && (!energies || (b.energyFormat != 0xFF && (b.topkK == 0 || epass)))) 0x0409 0 0

/-- The steps that a tiling's program runs with given job parameters: each STEP mark as often as the loops around it say (R180). -/
def Tiling.stepTotal (p : Bytes) (t : Tiling) (params : List Word) : Nat :=
  let count (l : Nat × Nat × Bool × Nat) : Nat := if l.2.2.1 then (params.getD (l.2.2.2 % 8) 0).toNat else l.2.2.2
  (((List.range t.words).filter fun w => ctlStep (t.control p 0 w)).map fun w => ((loopsAt (t.loops p) w).map count).foldl (· * ·) 1).foldl (· + ·) 0

/-- The steps of a job at its end: those of its context, and the most that one of its tilings runs (R167, R318). -/
def State.finalSteps (s : State) (b : SubmitBody) (j : Job) : Nat :=
  let p := s.program j
  let c := s.contextOf j
  let params := if c.isEmpty then b.params
    else (BitVec.ofNat 32 (ctxSweeps c)) :: (List.range 7).map fun k => BitVec.ofNat 32 (leAt c (0x94 + 4 * k) 4)
  (if c.isEmpty then 0 else ctxStep c) + ((s.tilingList j).map fun k => (progTiling p k).stepTotal p params).foldl max 0

/-- The fields of a submission whose program and model are held. `j` is the job it would be. -/
def State.fieldsFault (s : State) (x : Session) (b : SubmitBody) (j : Job) : Option LoadFault :=
  let p := s.program j
  let m := s.model j
  let placed := (s.tilingList j).any (s.everPlaced j)
  let served := (s.tilingList j).any fun k => (s.place? p (progTiling p k) fun h => s.halfCould j.owner h && !s.halfUnusable h).isSome
  firstFault
    [s.contextFault b,
     needs (decide (b.priority ≤ 7) && decide (b.priority ≤ s.maxPriority x)) 0x0202 0 0,
     needs (decide (b.timing ≤ 1) && decide (9 ≤ b.clock) && decide (b.clock ≤ 18)) 0x0204 0 0,
     needs placed 0x0203 0 0,
     needs served 0x0207 0 0,
     needs (decide (1 ≤ b.replicas) && decide (b.replicas ≤ 4096)) 0x020D 0 0,
     needs (decide (s.finalSteps b j ≤ 2 ^ 58)) 0x040B 0 0,
     betaSourceFault m (s.objectBytes b.input) b,
     s.inputFault m b,
     needs (decide (b.ensemble ≤ 2) && (b.ensemble == 0 || decide (2 ≤ b.replicas))) 0x0405 0 0,
     needs (decide (b.checkFraction ≤ 4)) 0x0501 0 0,
     resultFault b,
     needs (b.ensemble == 0 || b.energyFormat != 0xFF) 0x0407 0 0,
     (s.contextStuck j).map fun st => ⟨st, 0, 0⟩,
     ((s.tilingList j).filter (s.tilingOrder j).contains).findSome? (candidateFault p m b (sameColourBlocks m)),
     topkFault p b,
     needs ((s.tilingList j).any fun k => s.everPlaced j k && s.powerPossible j k) 0x0205 0 0,
     needs ((s.tilingList j).any fun k => s.everPlaced j k && s.demandPossible j k) 0x0901 0 0]

/-! ### NO_WAIT (R307) and named stacks (R281) -/

def Reserved.isStack {α : Type} (r : Reserved α) : Bool := r.elim false true fun _ => false

/-- The placements that a submission could take at once. -/
def State.triesNow (s : State) (j : Job) : List (Nat × List Nat) :=
  (s.tilingOrder j).filterMap fun k => (s.placeJob j k (s.halfFree j.owner)).map fun r => (k, r)

/-- STACK_UNAVAILABLE: every placement that is to be had needs a named stack that has failed or cannot supply its share (R281, R289). -/
def State.stackFault (s : State) (j : Job) : Option LoadFault :=
  let l := s.triesNow j
  needs (l.isEmpty || !l.all fun e => (s.reserveJob j e.1 e.2).isStack) 0x0903 0 0

/-- The first resource that a submission lacks at once: halves, memory, power. -/
def State.noWaitFault (s : State) (slot : Nat) (j : Job) : Option LoadFault :=
  let tries := s.triesNow j
  let fits := tries.filter fun e => (s.reserveJob j e.1 e.2).isOk
  let power (e : Nat × List Nat) : Bool :=
    let w := s.availWatts slot
    if s.wantsFixed j then decide (e.2.length * halfWatts j.body.clock ≤ w) else (highestSetting e.2.length w j.body.clock).isSome
  if j.body.flags.getLsbD 1 then
    if tries.isEmpty then some ⟨0x0203, 0, 0⟩
    else if fits.isEmpty then some ⟨0x0901, 0, 0⟩
    else if fits.any power then none else some ⟨0x0205, 0, 0⟩
  else none

/-! ### Acceptance (R293, R396, R399) -/

/-- KiB that a submission reserves: 16, and the completion extension that it fixes (R399, R411). -/
def State.submitKib (s : State) (b : SubmitBody) : Nat :=
  let m := s.objectBytes b.model
  let ext := (if b.ensemble = 1 then 4 * (b.replicas - 1) else 0) +
    (if b.ensemble = 2 then 24 * min (b.params.getD 0 0).toNat (maxResamples m) else 0) + (if b.flags.getLsbD 3 then 384 else 0)
  16 + (ext + 1023) / 1024

/-- Does a program combine F32 or F64 elements in arrival order: a RED.ATOM of MODE 0 to a target of such a format, in some tiling (R144). -/
def progArrivals (p : Bytes) : Bool :=
  (List.range (progTilings p)).any fun i =>
    let t := progTiling p i
    (List.range t.numHalves).any fun h => (List.range t.words).any fun w => (List.range 32).any fun k =>
      let f := bitField (t.slice p h w k) 96 32
      f / 2 ^ 26 == 0x07 && bitField f 8 1 == 0 && [10, 11].contains (t.target p (bitField f 12 12)).format

/-- The job that a submission would be, before its seed is drawn. -/
def State.newJob (s : State) (x : Session) (req : Nat) (b : SubmitBody) : Job :=
  let p := s.objectBytes b.program
  let o := s.object? b.model
  let syncs := (List.range (progTilings p)).any fun k =>
    (List.range (progBlocks p)).any fun a => ((progTiling p k).blockClass p a).sync == 1
  { id := s.jobs.nextId, seq := s.jobs.nextSeq, owner := x.fpr, req := req, sess := x.id, body := b, seed := b.seed,
    tiling := if b.tiling = 0xFF then 0 else b.tiling, waitSince := s.nowNs, syncUpdate := syncs,
    asymmetric := o.any (·.asymmetric), sameColour := o.any (·.sameColour), arrivalFp := progArrivalFp p || progArrivals p : Job }.withProgram p
      (((if b.tiling = 0xFF then List.range (progTilings p) else [b.tiling]).filter (· < progTilings p)).map (progTiling p))

/-- What a SUBMIT is refused for. -/
def State.submitFault (s : State) (x : Session) (req : Nat) (b : SubmitBody) : Option LoadFault :=
  let j := s.newJob x req b
  firstFault
    [s.roleFault x,
     needs (s.available? b.program 1).isSome 0x020B 0 0,
     needs (s.available? b.model 0).isSome 0x020B 0 0,
     needs (((s.available? b.model 0).all fun o => !o.damaged) && (s.available? b.program 1).all fun o => !o.damaged) 0x0906 0 0,
     needs (!b.flags.getLsbD 3 || s.security.identityOk) 0x060C 0 0,
     s.fieldsFault x b j,
     needs s.freeSlot?.isSome 0x0201 0 0,
     s.roomFault (s.submitKib b),
     s.stackFault j,
     s.freeSlot?.bind fun k => s.noWaitFault k j,
     needs (!b.flags.getLsbD 4 || b.context != zeros32 || s.drbgStatus == 0) s.drbgStatus 0 0]

/-- Does a submission wait for its seed (R504). -/
def State.seedWaits (s : State) (b : SubmitBody) : Bool :=
  b.flags.getLsbD 4 && b.context == zeros32 && s.drbgStatus == 0 && (!s.drbgGives || s.drbgStalls 3)

/-- A job entered in the table and its ACCEPT sent: the seed is taken first; a restoring job carries what its context holds. -/
def State.acceptJob (s : State) (x : Session) (req : Nat) (b : SubmitBody) (slot : Nat) : State :=
  let draws := b.flags.getLsbD 4 && b.context == zeros32
  let r := if draws then s.drbg 3 8 else ([], s)
  let j0 := s.newJob x req b
  let j1 := if draws then { j0 with seed := BitVec.ofNat 64 (beNat r.1) } else j0
  let c := s.contextOf j0
  let j := if c.isEmpty then j1 else j1.loadContext (s.model j0) c
  let s1 := r.2.onJobs fun e => { e with nextId := e.nextId + 1, nextSeq := e.nextSeq + 1 }
  let s2 := s1.setJob slot j
  s2.accept x req j.id (s.submitKib b) (s2.jobRecord j .accept 0)

def State.submit (s : State) (x : Session) (req : Nat) (b : SubmitBody) : State :=
  s.ruled x req (s.submitFault x req b) fun t =>
    match t.freeSlot? with
    | some k => t.acceptJob x req b k
    | none => t

/-- A SUBMIT whose seed is not to be had yet stays in its session until it is. -/
def execSubmit (h : CmdHead) (b : SubmitBody) (s : State) : Host.Outcome State Fault Refusal :=
  .next (
    match s.openSession? h.sess with
    | none => s
    | some x =>
      if (s.stream x.fpr).highMark < h.req ∧ s.submitFault x h.req b = none ∧ s.seedWaits b then s
      else s.command h.sess h.req fun t y => t.submit y h.req b)

end Sys2Proof.Machine
end

