-- ==== Sys2Proof/Machine/Dispatch.lean ====
section
/-! DEFINITION. The effect of each command: one arm per constructor of `Instr`, one direct call of its meaning. -/

namespace Sys2Proof.Machine

open Sys2Proof

-- The effect of command `i` on everything but the queue.
def exec (i : Instr) (s : State) : Host.Outcome State Fault Refusal :=
  match i with
  | .nop cl slot idle => Sys2Proof.Machine.execNop cl slot idle s
  | .fldOpen o => Sys2Proof.Machine.execFldOpen o s
  | .fldAcc o => Sys2Proof.Machine.execFldAcc o s
  | .fldClose o => Sys2Proof.Machine.execFldClose o s
  | .fldEnrg o => Sys2Proof.Machine.execFldEnrg o s
  | .redPart o => Sys2Proof.Machine.execRedPart o s
  | .redPadd o => Sys2Proof.Machine.execRedPadd o s
  | .redAtom o => Sys2Proof.Machine.execRedAtom o s
  | .redEtot o => Sys2Proof.Machine.execRedEtot o s
  | .drwBin o => Sys2Proof.Machine.execDrwBin o s
  | .drwCat o => Sys2Proof.Machine.execDrwCat o s
  | .drwCatm o stage => Sys2Proof.Machine.execDrwCatm o stage s
  | .drwGau o => Sys2Proof.Machine.execDrwGau o s
  | .excPair o => Sys2Proof.Machine.execExcPair o s
  | .excBeta cl lm dd => Sys2Proof.Machine.execExcBeta cl lm dd s
  | .excWgt o pass => Sys2Proof.Machine.execExcWgt o pass s
  | .excRsmp o => Sys2Proof.Machine.execExcRsmp o s
  | .staSgl o => Sys2Proof.Machine.execStaSgl o s
  | .staPair o => Sys2Proof.Machine.execStaPair o s
  | .staHist o => Sys2Proof.Machine.execStaHist o s
  | .staFlush o => Sys2Proof.Machine.execStaFlush o s
  | .tpkOffer cl ch => Sys2Proof.Machine.execTpkOffer cl ch s
  | .tpkScan cl tgt ago => Sys2Proof.Machine.execTpkScan cl tgt ago s
  | .movMask o => Sys2Proof.Machine.execMovMask o s
  | .movAg o => Sys2Proof.Machine.execMovAg o s
  | .movDesc o => Sys2Proof.Machine.execMovDesc o s
  | .movGrp cl lm src dst => Sys2Proof.Machine.execMovGrp cl lm src dst s
  | .movZero o => Sys2Proof.Machine.execMovZero o s
  | .ldLine o => Sys2Proof.Machine.execLdLine o s
  | .ldSlot o => Sys2Proof.Machine.execLdSlot o s
  | .ldAnch cl dd => Sys2Proof.Machine.execLdAnch cl dd s
  | .stLine o => Sys2Proof.Machine.execStLine o s
  | .stRes o => Sys2Proof.Machine.execStRes o s
  | .stSnap o => Sys2Proof.Machine.execStSnap o s
  | .synHout o => Sys2Proof.Machine.execSynHout o s
  | .synHin o => Sys2Proof.Machine.execSynHin o s
  | .synEpoch cl => Sys2Proof.Machine.execSynEpoch cl s
  | .movSend o => Sys2Proof.Machine.execMovSend o s
  | .movFwd o => Sys2Proof.Machine.execMovFwd o s
  | .cvRecv cl => Sys2Proof.Machine.execCvRecv cl s
  | .cvFwd o => Sys2Proof.Machine.execCvFwd o s
  | .cvOut o => Sys2Proof.Machine.execCvOut o s
  | .stepMark job => Sys2Proof.Machine.execStepMark job s
  | .phaseMark job => Sys2Proof.Machine.execPhaseMark job s
  | .barrierWord job kind => Sys2Proof.Machine.execBarrierWord job kind s
  | .barrierRelease job => Sys2Proof.Machine.execBarrierRelease job s
  | .endWord job => Sys2Proof.Machine.execEndWord job s
  | .loopOpen job last count => Sys2Proof.Machine.execLoopOpen job last count s
  | .loopEndTest job => Sys2Proof.Machine.execLoopEndTest job s
  | .caravanTrigger job seg => Sys2Proof.Machine.execCaravanTrigger job seg s
  | .caravanBeatIssue job seg late => Sys2Proof.Machine.execCaravanBeatIssue job seg late s
  | .caravanBeatArrival job column => Sys2Proof.Machine.execCaravanBeatArrival job column s
  | .holdRequest job len after cause => Sys2Proof.Machine.execHoldRequest job len after cause s
  | .holdEnd job => Sys2Proof.Machine.execHoldEnd job s
  | .atomicOperation stack => Sys2Proof.Machine.execAtomicOperation stack s
  | .orderedPart stack => Sys2Proof.Machine.execOrderedPart stack s
  | .heldPartEntry stack => Sys2Proof.Machine.execHeldPartEntry stack s
  | .stepCommit job => Sys2Proof.Machine.execStepCommit job s
  | .checkResolve job core stage digest => Sys2Proof.Machine.execCheckResolve job core stage digest s
  | .oasisCopyDone cl spare => Sys2Proof.Machine.execOasisCopyDone cl spare s
  | .clusterDegraded cl => Sys2Proof.Machine.execClusterDegraded cl s
  | .observationEnd unit => Sys2Proof.Machine.execObservationEnd unit s
  | .kakComplete core kernel digest => Sys2Proof.Machine.execKakComplete core kernel digest s
  | .kakTimeout die => Sys2Proof.Machine.execKakTimeout die s
  | .copyDigestCompare job => Sys2Proof.Machine.execCopyDigestCompare job s
  | .hangReset half => Sys2Proof.Machine.execHangReset half s
  | .sectorRead at_ raw job => Sys2Proof.Machine.execSectorRead at_ raw job s
  | .correctedWriteback at_ => Sys2Proof.Machine.execCorrectedWriteback at_ s
  | .refreshWindow stack bank => Sys2Proof.Machine.execRefreshWindow stack bank s
  | .fixedCadenceRefresh job bank => Sys2Proof.Machine.execFixedCadenceRefresh job bank s
  | .dieSpareDone stack => Sys2Proof.Machine.execDieSpareDone stack s
  | .stackFailed stack => Sys2Proof.Machine.execStackFailed stack s
  | .stripeMove stack frame => Sys2Proof.Machine.execStripeMove stack frame s
  | .scrubRead stack raw => Sys2Proof.Machine.execScrubRead stack raw s
  | .frameCleared stack frame => Sys2Proof.Machine.execFrameCleared stack frame s
  | .stackHot stack => Sys2Proof.Machine.execStackHot stack s
  | .stackCool stack => Sys2Proof.Machine.execStackCool stack s
  | .stackSelfRefresh stack => Sys2Proof.Machine.execStackSelfRefresh stack s
  | .stackWake stack => Sys2Proof.Machine.execStackWake stack s
  | .stackImbalance stack => Sys2Proof.Machine.execStackImbalance stack s
  | .imbalanceRepeat stack => Sys2Proof.Machine.execImbalanceRepeat stack s
  | .admitJob => Sys2Proof.Machine.execAdmitJob s
  | .waitLimit job => Sys2Proof.Machine.execWaitLimit job s
  | .seedingDone job => Sys2Proof.Machine.execSeedingDone job s
  | .preemptionPoint job => Sys2Proof.Machine.execPreemptionPoint job s
  | .contextWritten job => Sys2Proof.Machine.execContextWritten job s
  | .cancelTimeout job => Sys2Proof.Machine.execCancelTimeout job s
  | .settingChange job => Sys2Proof.Machine.execSettingChange job s
  | .pllLock pll => Sys2Proof.Machine.execPllLock pll s
  | .halfClockStop half => Sys2Proof.Machine.execHalfClockStop half s
  | .unitReady unit => Sys2Proof.Machine.execUnitReady unit s
  | .readyTimeout unit => Sys2Proof.Machine.execReadyTimeout unit s
  | .frameReceive f => Sys2Proof.Machine.execFrameReceive f s
  | .neighbourSolicitation src target => Sys2Proof.Machine.execNeighbourSolicitation src target s
  | .echoRequest src dst data => Sys2Proof.Machine.execEchoRequest src dst data s
  | .expressFrameReady bulkSent bulkLeft => Sys2Proof.Machine.execExpressFrameReady bulkSent bulkLeft s
  | .laneFailed lane => Sys2Proof.Machine.execLaneFailed lane s
  | .linkUp => Sys2Proof.Machine.execLinkUp s
  | .linkDown => Sys2Proof.Machine.execLinkDown s
  | .fallbackRetry => Sys2Proof.Machine.execFallbackRetry s
  | .preemptVerify ok => Sys2Proof.Machine.execPreemptVerify ok s
  | .laserSwitch cause => Sys2Proof.Machine.execLaserSwitch cause s
  | .macSwitch cause => Sys2Proof.Machine.execMacSwitch cause s
  | .ptpSync m => Sys2Proof.Machine.execPtpSync m s
  | .ptpDelayResp sent received => Sys2Proof.Machine.execPtpDelayResp sent received s
  | .ptpUnlocked => Sys2Proof.Machine.execPtpUnlocked s
  | .ack b => Sys2Proof.Machine.execAck b s
  | .retransmitTimeout sess seq => Sys2Proof.Machine.execRetransmitTimeout sess seq s
  | .sessionTimeout sess => Sys2Proof.Machine.execSessionTimeout sess s
  | .idleTimeout sess => Sys2Proof.Machine.execIdleTimeout sess s
  | .sessionOpenPhase1 p => Sys2Proof.Machine.execSessionOpenPhase1 p s
  | .sessionOpenPhase2 p => Sys2Proof.Machine.execSessionOpenPhase2 p s
  | .sessionOpenPhase3 p => Sys2Proof.Machine.execSessionOpenPhase3 p s
  | .sessionOpenPhase4 p => Sys2Proof.Machine.execSessionOpenPhase4 p s
  | .halfOpenTimeout sess => Sys2Proof.Machine.execHalfOpenTimeout sess s
  | .sessionClose sess => Sys2Proof.Machine.execSessionClose sess s
  | .enumerate b => Sys2Proof.Machine.execEnumerate b s
  | .rollCallBackoff => Sys2Proof.Machine.execRollCallBackoff s
  | .probe src address nonce => Sys2Proof.Machine.execProbe src address nonce s
  | .assign b => Sys2Proof.Machine.execAssign b s
  | .reply address => Sys2Proof.Machine.execReply address s
  | .probeTimeout => Sys2Proof.Machine.execProbeTimeout s
  | .load h b => Sys2Proof.Machine.execLoad h b s
  | .release h digest => Sys2Proof.Machine.execRelease h digest s
  | .submit h b => Sys2Proof.Machine.execSubmit h b s
  | .cancel h job => Sys2Proof.Machine.execCancel h job s
  | .suspend h job step => Sys2Proof.Machine.execSuspend h job step s
  | .resume h job => Sys2Proof.Machine.execResume h job s
  | .exportJob h job => Sys2Proof.Machine.execExportJob h job s
  | .fetch h what offset length => Sys2Proof.Machine.execFetch h what offset length s
  | .releaseResult h job => Sys2Proof.Machine.execReleaseResult h job s
  | .reset h cls => Sys2Proof.Machine.execReset h cls s
  | .bulk sess handle offset data => Sys2Proof.Machine.execBulk sess handle offset data s
  | .symmetryCheckDone handle => Sys2Proof.Machine.execSymmetryCheckDone handle s
  | .regBatch sess tag entries => Sys2Proof.Machine.execRegBatch sess tag entries s
  | .quote sess nonce => Sys2Proof.Machine.execQuote sess nonce s
  | .quoteConfigRecord sess nonce => Sys2Proof.Machine.execQuoteConfigRecord sess nonce s
  | .portReset => Sys2Proof.Machine.execPortReset s
  | .dieReset die => Sys2Proof.Machine.execDieReset die s
  | .hubWarmReset => Sys2Proof.Machine.execHubWarmReset s
  | .moduleWarmReset => Sys2Proof.Machine.execModuleWarmReset s
  | .hubStart => Sys2Proof.Machine.execHubStart s
  | .join b => Sys2Proof.Machine.execJoin b s
  | .ready b => Sys2Proof.Machine.execReady b s
  | .groupStart job => Sys2Proof.Machine.execGroupStart job s
  | .groupStartTimeout job => Sys2Proof.Machine.execGroupStartTimeout job s
  | .commit b => Sys2Proof.Machine.execCommit b s
  | .hold b => Sys2Proof.Machine.execHold b s
  | .leave b => Sys2Proof.Machine.execLeave b s
  | .refused b => Sys2Proof.Machine.execRefused b s
  | .halo b => Sys2Proof.Machine.execHalo b s
  | .retract b => Sys2Proof.Machine.execRetract b s
  | .groupTimeout job => Sys2Proof.Machine.execGroupTimeout job s
  | .peerSessionRetry job member => Sys2Proof.Machine.execPeerSessionRetry job member s
  | .claimBackoffExpiry => Sys2Proof.Machine.execClaimBackoffExpiry s
  | .consentExpiry sess => Sys2Proof.Machine.execConsentExpiry sess s
  | .keyOpEnrol sess => Sys2Proof.Machine.execKeyOpEnrol sess s
  | .keyOpRemove sess => Sys2Proof.Machine.execKeyOpRemove sess s
  | .keyOpMakerCert sess => Sys2Proof.Machine.execKeyOpMakerCert sess s
  | .firmwareHandover => Sys2Proof.Machine.execFirmwareHandover s
  | .controllerFailed c => Sys2Proof.Machine.execControllerFailed c s
  | .flashWriteRetry ok => Sys2Proof.Machine.execFlashWriteRetry ok s
  | .firmwareMissingBeacon => Sys2Proof.Machine.execFirmwareMissingBeacon s
  | .scanArm sess => Sys2Proof.Machine.execScanArm sess s
  | .scanRelease => Sys2Proof.Machine.execScanRelease s
  | .scanTimeout => Sys2Proof.Machine.execScanTimeout s
  | .entropyBlock samples => Sys2Proof.Machine.execEntropyBlock samples s
  | .entropyReady => Sys2Proof.Machine.execEntropyReady s
  | .rngData sess => Sys2Proof.Machine.execRngData sess s
  | .rawData sess samples => Sys2Proof.Machine.execRawData sess samples s
  | .rawMode sess on => Sys2Proof.Machine.execRawMode sess on s
  | .alarmClear sess => Sys2Proof.Machine.execAlarmClear sess s
  | .drbgMode sess shared => Sys2Proof.Machine.execDrbgMode sess shared s
  | .feedPresent feed millivolts => Sys2Proof.Machine.execFeedPresent feed millivolts s
  | .feedLost feed millivolts => Sys2Proof.Machine.execFeedLost feed millivolts s
  | .journalClosed => Sys2Proof.Machine.execJournalClosed s
  | .phaseGroupFailed rail group => Sys2Proof.Machine.execPhaseGroupFailed rail group s
  | .currentLimit die stretch => Sys2Proof.Machine.execCurrentLimit die stretch s
  | .droopStretch die stretch => Sys2Proof.Machine.execDroopStretch die stretch s
  | .droopRelease die => Sys2Proof.Machine.execDroopRelease die s
  | .thermalThrottle part sixteenths => Sys2Proof.Machine.execThermalThrottle part sixteenths s
  | .throttleStep die => Sys2Proof.Machine.execThrottleStep die s
  | .thermalTrip part sixteenths => Sys2Proof.Machine.execThermalTrip part sixteenths s
  | .thermalRelease part sixteenths => Sys2Proof.Machine.execThermalRelease part sixteenths s
  | .bistSlice item pass => Sys2Proof.Machine.execBistSlice item pass s
  | .sensorCheck item pass reading => Sys2Proof.Machine.execSensorCheck item pass reading s
  | .pllLockLoss pll => Sys2Proof.Machine.execPllLockLoss pll s
  | .pllJitterFail pll => Sys2Proof.Machine.execPllJitterFail pll s
  | .registerWrite sess addr data => Sys2Proof.Machine.execRegisterWrite sess addr data s
  | .highWordRead sess addr => Sys2Proof.Machine.execHighWordRead sess addr s
  | .jobSel sess data => Sys2Proof.Machine.execJobSel sess data s
  | .auditSelLo sess data => Sys2Proof.Machine.execAuditSelLo sess data s
  | .evtSel sess data => Sys2Proof.Machine.execEvtSel sess data s
  | .evtForce sess page data => Sys2Proof.Machine.execEvtForce sess page data s
  | .wake sess page => Sys2Proof.Machine.execWake sess page s
  | .retry sess page => Sys2Proof.Machine.execRetry sess page s
  | .dr8Retry sess => Sys2Proof.Machine.execDr8Retry sess s
  | .cfgOpWriteRecord sess => Sys2Proof.Machine.execCfgOpWriteRecord sess s
  | .cfgOpUnclaim sess => Sys2Proof.Machine.execCfgOpUnclaim sess s
  | .cfgWriteDone ok => Sys2Proof.Machine.execCfgWriteDone ok s
  | .restoreDone job => Sys2Proof.Machine.execRestoreDone job s
  | .flashRewriteDone ok => Sys2Proof.Machine.execFlashRewriteDone ok s
  | .vaonLost => Sys2Proof.Machine.execVaonLost s

end Sys2Proof.Machine
end

