-- ==== Sys2Proof/Machine/Wire.lean ====
section
/-! DEFINITION. What leaves the port (12 R350, R352, R354 to R356, R359, R370; 13 R378 to R382, R385, R390 to R392, R409 to R413): the bytes of a
packet and its frame, the two classes in their order, and the idle cycle in which they leave. -/

namespace Sys2Proof.Machine

open Sys2Proof

/-! ### Payloads (R378: big-endian) -/

def CompKind.code : CompKind → Nat
  | .accept => 1 | .refused => 2 | .done => 3 | .jobState => 4 | .jobFinal => 5

/-- A completion record (R409), its extension (R411) last. -/
def CompRecord.bytes (r : CompRecord) : Bytes :=
  let c := r.counts
  beBytes 8 r.req ++ beBytes 8 r.seq ++ beBytes 8 r.jobId ++ beBytes 1 r.kind.code ++ beBytes 1 r.state ++ beBytes 2 r.status.toNat ++
    beBytes 4 r.flags.toNat ++ beBytes 8 r.detail0.toNat ++ beBytes 8 r.detail1.toNat ++ beBytes 8 r.step ++ beBytes 8 r.seed.toNat ++
    beBytes 8 r.cadence ++ beBytes 8 r.stepDigest.toNat ++ beBytes 8 c.nonfiniteDecisions ++ beBytes 8 c.gaussDegenerate ++
    beBytes 8 c.intSaturations ++ beBytes 8 c.longsumWraps ++ beBytes 8 c.atomicWraps ++ beBytes 8 c.fieldNonfinite ++
    beBytes 8 c.conversionSaturations ++ beBytes 8 r.retileStep.toNat ++ beBytes 8 r.demoteStep.toNat ++ beBytes 1 r.demoteCause ++
    beBytes 3 0 ++ beBytes 4 r.ext.length ++ padTo 32 r.digest ++ padTo 256 r.certificate ++ r.ext

/-- An event record (R473). -/
def Event.bytes (e : Event) : Bytes :=
  beBytes 2 e.code.toNat ++ beBytes 1 e.severity ++ beBytes 1 e.unitKind ++ beBytes 4 e.unit.toNat ++ beBytes 8 e.timeSec ++
    beBytes 4 e.timeNs ++ beBytes 2 e.operation.toNat ++ beBytes 2 e.status.toNat ++ beBytes 8 e.step.toNat ++ beBytes 8 e.jobId ++
    beBytes 4 e.seq ++ beBytes 2 (e.temp % 65536).toNat ++ beBytes 2 e.railMv ++ beBytes 1 e.rail ++ beBytes 7 0 ++ beBytes 8 e.detail.toNat

/-- An entry of an answered register batch (R412). -/
def regEntryBytes (e : RegEntry × BitVec 16) : Bytes :=
  beBytes 4 e.1.addr.toNat ++ beBytes 1 (bit e.1.write) ++ [0] ++ beBytes 2 e.2.toNat ++ beBytes 4 e.1.data.toNat

/-- TYPE of a sequenced packet of the S6 (R380). -/
def TxBody.type : TxBody → Nat
  | .completion .. => 7 | .regReply .. => 5 | .event .. => 8 | .bulk .. => 6 | .quote .. => 0xC
  | .barrier .. => 9 | .halo .. => 0xA | .retract .. => 0xB

/-- The payload of a sequenced packet in clear (R406, R410, R412, R413; 14 R421, R427, R436; 16 R491), none where its record has left the
journal. -/
def State.txPayload (s : State) : TxBody → Option Bytes
  | .completion owner seq part parts =>
    ((s.stream owner).records.find? fun h => h.record.seq == seq).map fun h =>
      beBytes 2 part ++ beBytes 2 parts ++ slice h.record.bytes (8160 * part) (min 8160 (h.record.bytes.length - 8160 * part))
  | .regReply tag status entries =>
    some (beBytes 8 tag ++ beBytes 2 entries.length ++ beBytes 2 status.toNat ++ beBytes 4 0 ++ entries.flatMap regEntryBytes)
  | .event e => some (beBytes 2 1 ++ beBytes 6 0 ++ e.bytes)
  | .bulk handle offset data => some (beBytes 4 handle ++ beBytes 4 0 ++ beBytes 8 offset ++ data)
  | .quote status bytes => some (if status = 0 then bytes else beBytes 2 status.toNat)
  | .barrier op group member attempt status epoch =>
    some (beBytes 8 group ++ beBytes 1 op ++ beBytes 1 member ++ beBytes 2 attempt ++ beBytes 2 status.toNat ++ beBytes 2 0 ++
      beBytes 8 epoch ++ beBytes 56 0)
  | .halo group epoch channel attempt firstBeat beats =>
    some (beBytes 8 group ++ beBytes 8 epoch ++ beBytes 2 channel ++ beBytes 2 attempt ++ beBytes 4 firstBeat ++ beBytes 2 beats.length ++
      beBytes 6 0 ++ beats.flatten)
  | .retract group member attempt epoch =>
    some (beBytes 8 group ++ beBytes 1 member ++ [0] ++ beBytes 2 attempt ++ beBytes 4 0 ++ beBytes 8 epoch)

/-- A ROLL_CALL payload (R385). -/
def State.rollPayload (s : State) (op address : Nat) (status : BitVec 16) (nonce : Bytes) (mac : Bool) (tail : Bytes := []) : Bytes :=
  padTo 0x50 (beBytes 1 op ++ beBytes 3 0 ++ beBytes 2 address ++ beBytes 6 (if mac then s.factoryMac.toNat else 0) ++
    beBytes 2 status.toNat ++ beBytes 2 0 ++ padTo 16 nonce ++ tail)

/-- A phase 4 (R486). -/
def phase4Bytes (sess : Nat) (status : BitVec 16) (confirm : Bytes) : Bytes :=
  [4, 0] ++ beBytes 2 status.toNat ++ beBytes 4 sess ++ padTo 32 confirm

/-! ### A Kenvin packet (R379 to R382) -/

/-- The 32-byte header. -/
def kenvinHeader (type flags dest src sess len sack seq ack : Nat) : Bytes :=
  beBytes 1 1 ++ beBytes 1 type ++ beBytes 1 flags ++ beBytes 1 0 ++ beBytes 2 dest ++ beBytes 2 src ++ beBytes 4 sess ++ beBytes 2 len ++
    beBytes 2 sack ++ beBytes 8 seq ++ beBytes 8 ack

/-- SACK_MAP: bit `n` where packet ACK + 2 + `n` has been received. -/
def Session.sackMap (x : Session) : Nat :=
  ((List.range 16).map fun n => if x.rxHeld.any fun p => p.seq == x.rxAck + 2 + n then 2 ^ n else 0).sum

/-- The SESSION of its packets: the one that the responder assigned. -/
def Session.wireId (x : Session) : Nat := x.id % 2 ^ 32

/-- The keys and the nonce of the direction away from the S6 (R382, R489). -/
def Session.keyOut (x : Session) (kind : String) : Bytes := x.keyOf (kind ++ if x.opener then " h2d" else " d2h")
def Session.nonceOut (x : Session) (seq : Nat) : Bytes := beBytes 4 (bit (!x.opener)) ++ beBytes 8 seq

/-- A packet of a session: encrypted where the session must, its trailer the MAC over header and payload as sent. -/
def Session.packet (x : Session) (src type seq : Nat) (again : Bool) (plain : Bytes) : Bytes :=
  let seals := x.encrypt && !plain.isEmpty
  let flags := bit seals + 2 * bit (type == 0) + 4 * bit again
  let header := kenvinHeader type flags x.peerAddr src x.wireId (plain.length + if seals then 16 else 0) x.sackMap seq x.rxAck
  let body := if seals then gcmSeal (x.keyOut "kenvin enc") (x.nonceOut seq) header plain else plain
  header ++ body ++ (hmac (x.keyOut "kenvin auth") (header ++ body)).take 16

/-- A packet of ROLL_CALL or SESSION_OPEN: SESSION, SEQ, ACK and trailer zero. -/
def State.outsidePacket (s : State) (type dest : Nat) (payload : Bytes) : Bytes :=
  kenvinHeader type 0 dest s.journal.settings.unitAddr 0 payload.length 0 0 0 ++ payload ++ List.replicate 16 0

/-! ### Ethernet, IPv6 and UDP (R350, R352, R359; log entry 84) -/

/-- The Internet checksum of a payload behind its IPv6 pseudo-header. -/
def ipChecksum (src dst : BitVec 128) (next : Nat) (b : Bytes) : Nat :=
  let all := beBytes 16 src.toNat ++ beBytes 16 dst.toNat ++ beBytes 4 b.length ++ beBytes 4 next ++ b
  let sum := ((List.range ((all.length + 1) / 2)).map fun i => beAt (all ++ [0]) (2 * i) 2).sum
  let r := if sum = 0 then 0 else (sum - 1) % 65535 + 1
  65535 - r

/-- The address that the S6 sends from: the configured one, or the link-local one where none is. -/
def State.ownIp (s : State) : BitVec 128 := if s.journal.settings.ipv6 = 0 then linkLocal s.factoryMac else s.journal.settings.ipv6

def ipPacket (src dst : BitVec 128) (next : Nat) (b : Bytes) : Bytes :=
  beBytes 4 0x60000000 ++ beBytes 2 b.length ++ beBytes 1 next ++ beBytes 1 255 ++ beBytes 16 src.toNat ++ beBytes 16 dst.toNat ++ b

def udpPacket (src dst : BitVec 128) (port : Nat) (b : Bytes) : Bytes :=
  let head (sum : Nat) := beBytes 2 port ++ beBytes 2 port ++ beBytes 2 (8 + b.length) ++ beBytes 2 sum ++ b
  let sum := ipChecksum src dst 17 (head 0)
  ipPacket src dst 17 (head (if sum = 0 then 0xFFFF else sum))

def icmpPacket (src dst : BitVec 128) (type : Nat) (b : Bytes) : Bytes :=
  let head (sum : Nat) := beBytes 1 type ++ beBytes 1 0 ++ beBytes 2 sum ++ b
  ipPacket src dst 58 (head (ipChecksum src dst 58 (head 0)))

/-- An Ethernet frame of the S6, tagged with VID where that is nonzero, of at least 64 bytes. -/
def State.frame (s : State) (express : Bool) (dst : BitVec 48) (etherType : BitVec 16) (b : Bytes) : SentFrame :=
  let g := s.journal.settings
  let tagged := g.vid != 0
  let payload := padTo (if tagged then 42 else 46) b
  { frame := { dst := dst, src := s.factoryMac, vlan := if tagged then some (BitVec.ofNat 12 g.vid) else none, otherTag := false,
               etherType := etherType, payload := payload, size := 18 + 4 * bit tagged + payload.length, fcsOk := true, express := express },
    pcp := if tagged then (if express then g.pcpExpress else g.pcpBulk) else 0 }

/-- The frame of a Kenvin packet under the encapsulation of ENCAP. -/
def State.kenvinFrame (s : State) (express : Bool) (n : NetSource) (packet : Bytes) : SentFrame :=
  if s.journal.settings.encapUdp then s.frame express n.mac 0x86DD#16 (udpPacket s.ownIp n.ip s.journal.settings.udpPort packet)
  else s.frame express n.mac 0x88B5#16 packet

/-! ### PTP (R350, R370, R372; log entry 84) -/

/-- A one-step Sync or a Delay_Req, with the S6's time as origin. -/
def State.ptpBytes (s : State) (sync : Bool) (sequence : Nat) : Bytes :=
  let mac := s.factoryMac.toNat
  beBytes 1 (if sync then 0 else 1) ++ beBytes 1 0x12 ++ beBytes 2 44 ++ beBytes 1 s.journal.settings.domain ++ beBytes 1 0 ++ beBytes 2 0 ++
    beBytes 8 0 ++ beBytes 4 0 ++ beBytes 3 (mac / 2 ^ 24) ++ beBytes 2 0xFFFE ++ beBytes 3 (mac % 2 ^ 24) ++ beBytes 2 1 ++
    beBytes 2 sequence ++ beBytes 1 (if sync then 0 else 1) ++ beBytes 1 (if sync then 0 else 0x7F) ++ beBytes 6 s.timeSec ++
    beBytes 4 s.timeNs

/-- A PTP message under the transport of TRANSPORT. -/
def State.ptpFrame (s : State) (sync : Bool) (sequence : Nat) : SentFrame :=
  let b := s.ptpBytes sync sequence
  if s.journal.settings.ptpUdp then
    let group := BitVec.ofNat 128 (0xFF0E * 2 ^ 112 + 0x181)
    s.frame true 0x333300000181#48 0x86DD#16 (udpPacket s.ownIp group 319 b)
  else s.frame true 0x011B19000000#48 0x88F7#16 b

/-! ### The frame of a composed packet -/

/-- A packet outside sessions as a frame (R352, R385, R391, R486). -/
def State.rawFrame (s : State) (p : RawOut) (n : NetSource) : Option SentFrame :=
  let roll (dst : Nat) (b : Bytes) := some (s.kenvinFrame false n (s.outsidePacket 1 dst b))
  let open_ (dst : Nat) (b : Bytes) := some (s.kenvinFrame false n (s.outsidePacket 2 dst b))
  match p with
  | .rollReply dst address claimed nonce unitNonce =>
    roll dst (s.rollPayload 1 address 0 nonce true (padTo 16 unitNonce ++ padTo 8 s.partNumber ++ padTo 16 s.serial ++ beBytes 1 (bit claimed)))
  | .rollProbe address => roll 0xFFF (s.rollPayload 4 address 0 [] false)
  | .rollAssigned dst address nonce => roll dst (s.rollPayload 3 address 0 nonce true)
  | .rollRefused dst status nonce => roll dst (s.rollPayload 5 0 status nonce true)
  | .phase1 dst _ bytes => open_ dst bytes
  | .phase2 dst _ bytes => open_ dst bytes
  | .phase3 dst _ bytes => open_ dst bytes
  | .phase4 dst sess status confirm => open_ dst (phase4Bytes sess status confirm)
  | .bareAck sess _ => (s.session? sess).map fun x => s.kenvinFrame false n (x.packet s.journal.settings.unitAddr 0 0 false [])
  | .neighbourAdvert dst target =>
    some (s.frame false n.mac 0x86DD#16 (icmpPacket target dst 136 (beBytes 4 0x60000000 ++ beBytes 16 target.toNat ++ beBytes 2 0x0201 ++
      beBytes 6 s.factoryMac.toNat)))
  | .echoReply dst source data => some (s.frame false n.mac 0x86DD#16 (icmpPacket source dst 129 data))

/-- The frame that leaves for a composed one: none where its session has ended or its packet has been acknowledged meanwhile. -/
def State.outFrame (s : State) : OutRef → Option SentFrame
  | .packet sess seq again =>
    match s.session? sess with
    | none => none
    | some x =>
      match x.tx.find? fun p => p.seq == seq with
      | none => none
      | some p => (s.txPayload p.body).map fun b =>
          s.kenvinFrame p.body.express { mac := x.mac, ip := x.ip } (x.packet s.journal.settings.unitAddr p.body.type seq again b)
  | .raw p n => s.rawFrame p n
  | .ptp sync sequence => some (s.ptpFrame sync sequence)

/-! ### Leaving (R354 to R357, R390) -/

/-- May a composed frame leave: a packet more than 4,096 above what its session has unacknowledged waits (R390). -/
def State.mayLeave (s : State) : OutRef → Bool
  | .packet sess seq _ => ((s.session? sess).bind fun x => x.tx.head?).all fun p => decide (seq < p.seq + 4096)
  | _ => true

/-- The frames of a list that leave, in their order. -/
def State.framesOf (s : State) (l : List OutRef) : List SentFrame := l.filterMap s.outFrame

/-- With the link up, the express frames that may leave go in their order, at most the queue's 32 in a cycle; behind the last of them the oldest
bulk frame that may leave goes, and a preempted one goes on (log entry 83). -/
def State.portCycle (s : State) : State :=
  let t := s.transport
  let ready := (t.express.filter s.mayLeave).take 32
  let behind := t.express.filter fun r => !ready.contains r
  let next := if behind.isEmpty then (t.bulk.find? s.mayLeave).toList else []
  { s with
    transport := { t with express := behind, bulk := t.bulk.filter fun r => !next.contains r, sent := t.sent ++ s.framesOf (ready ++ next) },
    port := { s.port with expressQueue := 0, bulkPaused := !behind.isEmpty && s.port.bulkPaused } }

/-- The measured powers refreshed (R547): they are free values. -/
def State.measurePower (s : State) (n : Nat) : State :=
  { s with
    power := { s.power with inputW := (Config.measuredWatts n 6).toNat },
    dies := (List.range 6).foldl (fun m d => mmod {} m d fun (x : Die) => { x with powerW := (Config.measuredWatts n d).toNat }) s.dies }

/-- One idle cycle of the AON domain, 80 ns (R530; log entry 2): the cycle counter advances while VAON runs, and PTP time with it, and frames
leave an open port. Every millisecond the measured powers are refreshed. -/
def idleCycle (s : State) : State :=
  if s.power.vaonOn then
    let n := s.clocks.aonCycles + 1
    let v := if s.port.linkUp then s.portCycle else s
    let u := if n % 12500 = 0 then v.measurePower (n / 12500) else v
    { u with clocks := { s.clocks with aonCycles := s.clocks.aonCycles + 1, ptpNs := s.clocks.ptpNs + 80 } }
  else s

end Sys2Proof.Machine
end

