-- ==== Sys2Proof/Machine/Step.lean ====
section
/-! DEFINITION. One step of the block: the command at the front of the queue, or one idle cycle. -/

namespace Sys2Proof.Machine

open Sys2Proof

/-- One step: take the command at the front of the queue and answer its effect on the state with the queue's
rest; with nothing waiting, one cycle of the AON domain passes (DESIGN CHOICE, log entry 2). -/
def step (s : State) : Host.Outcome State Fault Refusal :=
  match s.pending with
  | [] => .next (idleCycle s)
  | c :: rest => exec c { s with pending := rest }

/-- The command a table word spells, put at the front of the queue; the rows of this table give no bits, so no
word spells one and the state stands (log entry 19). -/
def State.withFetchWord (s : State) (nbits w : Nat) : State :=
  match decodeTableWord nbits w with
  | none => s
  | some c => { s with pending := c :: s.pending }

end Sys2Proof.Machine
end

