-- ==== Sys2Proof/Safety.lean ====
section
/-! DEFINITION. What counts as a safe outcome, the invariants that claims use (canonical memory, the bounded rings of events and of
audit entries, the chain of the audit log), and the parts of the state by which claims say what a command leaves alone. -/

namespace Sys2Proof.Safety

open Sys2Proof Sys2Proof.Machine

/-- The outcome is a next state. -/
def Completes (o : Host.Outcome State Fault Refusal) : Prop := ∃ t, o = .next t

/-- The outcome is a next state that satisfies `P`. -/
def CompletesWith (o : Host.Outcome State Fault Refusal) (P : State → Prop) : Prop := ∃ t, o = .next t ∧ P t

/-- Memory is in canonical form. -/
def MemoryOk (s : State) : Prop := Memory.wf s.mem = true

/-- The job table is in canonical form: one job for each entry it lists. -/
def JobsOk (s : State) : Prop := mwf none s.jobs.table = true

/-- At most 64 loads are open (R404). -/
def HandlesOk (s : State) : Prop := s.objects.handles.length ≤ 64

/-- The job table and the open loads are in order. -/
def SlotsOk (s : State) : Prop := JobsOk s ∧ HandlesOk s

/-- The ring of events holds at most 65,536 records (R413). -/
def EventRingOk (s : State) : Prop := s.journal.events.length ≤ 65536

/-- Entries of the audit log that follow one another: consecutive numbers, each with the hash of the one before it, the last of them
numbered one below `next` (R494). -/
def auditChained (next : Nat) : List AuditEntry → Prop
  | [] => True
  | [e] => e.seq + 1 = next
  | e :: f :: l => f.seq = e.seq + 1 ∧ f.prevHash = e.hash ∧ auditChained next (f :: l)

/-- The audit log is a chain of at most 131,072 entries from number 0, each with the SHA-256 hash of its first 0xE0 bytes; the oldest
entry held follows the anchor, or 32 zero bytes where it is entry 0 (R494, R495). -/
structure AuditOk (s : State) : Prop where
  bounded : s.journal.audit.length ≤ 131072
  hashed : ∀ e ∈ s.journal.audit, e.hash = sha256 (auditBytes e)
  chained : auditChained s.journal.auditNext s.journal.audit
  empty : s.journal.audit = [] → s.journal.auditNext = 0 ∧ s.journal.auditOverwritten = 0
  oldest : ∀ e, s.journal.audit.head? = some e → e.seq = s.journal.auditOverwritten ∧
    e.prevHash = if s.journal.auditOverwritten = 0 then List.replicate 32 0 else s.journal.anchorHash

/-- A core map that names no core twice, with no free spare among its cores; a copy under way leaves the core of its position for one
that serves none (R204, R206). -/
structure MapOk (m : List (Option Nat)) (o0 o1 : SpareState) (q : Option CoreCopy) : Prop where
  once : ∀ a b n : Nat, m[a]? = some (some n) → m[b]? = some (some n) → a = b
  spare0 : o0 = .free → ∀ a : Nat, m[a]? ≠ some (some 64)
  spare1 : o1 = .free → ∀ a : Nat, m[a]? ≠ some (some 65)
  copy : ∀ c, q = some c → (∀ a : Nat, m[a]? ≠ some (some c.dest)) ∧ m[c.pos]? = some (some c.source)

/-- Every cluster's core map is in order. -/
def MapsOk (s : State) : Prop := ∀ e ∈ s.clusters, MapOk e.2.coreMap e.2.o0 e.2.o1 e.2.copy

/-- The parts of the state, as frames name them. -/
inductive Part where
  | clusters | halves | dies | tielux | mem | jobs | objects | transport
  /-- streams, reservations and resets that wait -/
  | streams
  /-- the installer settings -/
  | settings
  /-- the enrolled keys and the claim -/
  | keys
  /-- the audit log -/
  | audit
  /-- the ring of events and its numbers -/
  | events
  /-- fault counts, retired units, failures found, hold-up -/
  | health
  /-- resets and starts -/
  | starts
  | headers | port | ptp | optics | power | clocks | thermal | security | entropy | integrity | bist
  /-- the configuration record and what hub start found -/
  | config
  /-- the model's own counter of free values -/
  | free
  deriving DecidableEq, Repr

/-- A part of two journals agrees. -/
def Part.sameJournal (p : Part) (j k : Journal) : Prop :=
  match p with
  | .streams => (k.streams, k.reservations, k.resetDone) = (j.streams, j.reservations, j.resetDone)
  | .settings => k.settings = j.settings
  | .keys => (k.keys, k.claimed, k.claimFails, k.claimLocked, k.claimUntil) = (j.keys, j.claimed, j.claimFails, j.claimLocked, j.claimUntil)
  | .audit => (k.audit, k.auditNext, k.auditOverwritten, k.anchorHash) = (j.audit, j.auditNext, j.auditOverwritten, j.anchorHash)
  | .events => (k.events, k.eventsOverwritten) = (j.events, j.eventsOverwritten)
  | .health => (k.faults, k.retired, k.bistFailures, k.pllsUnusable, k.trips, k.holdupOk) =
      (j.faults, j.retired, j.bistFailures, j.pllsUnusable, j.trips, j.holdupOk)
  | .starts => (k.pathsAgree, k.cleanStart, k.closed, k.resetCount, k.lastReset, k.hubStarts) =
      (j.pathsAgree, j.cleanStart, j.closed, j.resetCount, j.lastReset, j.hubStarts)
  | _ => True

/-- A part of two configurations agrees: the event numbers belong to the events. -/
def Part.sameConfig (p : Part) (c d : Config) : Prop :=
  match p with
  | .events => (d.eventNext, d.eventsHeld) = (c.eventNext, c.eventsHeld)
  | .config => d = { c with eventNext := d.eventNext, eventsHeld := d.eventsHeld }
  | _ => True

/-- A part of two states agrees. -/
def Part.same (p : Part) (s t : State) : Prop :=
  match p with
  | .clusters => t.clusters = s.clusters
  | .halves => t.halves = s.halves
  | .dies => t.dies = s.dies
  | .tielux => t.tielux = s.tielux
  | .mem => t.mem = s.mem
  | .jobs => t.jobs = s.jobs
  | .objects => t.objects = s.objects
  | .transport => t.transport = s.transport
  | .headers => t.headers = s.headers
  | .port => t.port = s.port
  | .ptp => t.ptp = s.ptp
  | .optics => t.optics = s.optics
  | .power => t.power = s.power
  | .clocks => t.clocks = s.clocks
  | .thermal => t.thermal = s.thermal
  | .security => t.security = s.security
  | .entropy => t.entropy = s.entropy
  | .integrity => t.integrity = s.integrity
  | .bist => t.bist = s.bist
  | .free => t.free = s.free
  | p => p.sameJournal s.journal t.journal ∧ p.sameConfig s.config t.config

/-- Between two states nothing changes outside the listed parts. -/
structure OnlyTouches (parts : List Part) (s t : State) : Prop where
  same : ∀ p, p ∉ parts → p.same s t

/-! ### What each command may touch -/

/-- What the operations of a cluster may touch: the cluster, its job, and, where a poisoned value ends the job (R262), what the end of a job
touches. -/
def Part.issue : List Part := [.clusters, .tielux, .jobs, .objects, .transport, .streams, .events, .headers, .free]

/-- The parts of the state that a command may change; no other part changes. -/
def touches : Instr → List Part
  | .fldOpen .. | .fldClose .. | .fldEnrg .. | .redPart .. | .redPadd .. | .redAtom .. | .redEtot .. | .drwBin .. | .drwCat .. |
    .drwCatm .. | .drwGau .. | .excPair .. | .excBeta .. | .excWgt .. | .excRsmp .. | .staSgl .. | .staPair .. | .staHist .. |
    .staFlush .. | .movMask .. | .movAg .. | .movDesc .. | .movGrp .. | .movZero .. | .ldLine .. | .ldSlot .. | .ldAnch .. | .stLine
    .. | .stRes .. | .stSnap .. | .synHout .. | .synHin .. | .movSend .. | .cvRecv .. | .cvFwd .. | .barrierWord .. | .refreshWindow
    .. | .fixedCadenceRefresh .. | .stackFailed .. => Part.issue
  | .neighbourSolicitation .. | .echoRequest .. | .retransmitTimeout .. | .reply .. | .quoteConfigRecord .. | .firmwareMissingBeacon
    | .rawData .. | .jobSel .. | .auditSelLo .. | .evtSel .. => [.transport]
  | .tpkOffer .. | .tpkScan .. | .synEpoch .. | .loopOpen .. | .caravanTrigger .. | .waitLimit .. | .preemptionPoint .. => [.jobs]
  | .fldAcc .. | .movFwd .. | .orderedPart .. | .heldPartEntry .. | .checkResolve .. | .copyDigestCompare .. => [.clusters, .dies,
    .tielux, .jobs, .objects, .transport, .streams, .events, .health, .headers, .integrity, .free]
  | .sessionTimeout .. | .idleTimeout .. | .sessionOpenPhase4 .. | .halfOpenTimeout .. | .sessionClose .. | .consentExpiry .. =>
    [.jobs, .transport, .streams, .events, .headers, .entropy]
  | .regBatch .. | .registerWrite .. | .highWordRead .. | .evtForce .. | .wake .. | .retry .. => [.halves, .dies, .tielux, .jobs,
    .transport, .streams, .settings, .keys, .audit, .events, .starts, .headers, .port, .clocks, .security, .entropy, .config, .free]
  | .enumerate .. | .rollCallBackoff | .probe .. | .quote .. | .rngData .. => [.transport, .entropy, .free]
  | .endWord .. | .stepCommit .. | .sectorRead .. | .scrubRead .. => [.clusters, .tielux, .mem, .jobs, .objects, .transport,
    .streams, .events, .headers, .free]
  | .dieSpareDone .. | .stackHot .. | .stackCool .. | .stackImbalance .. => [.tielux, .transport, .events, .headers]
  | .cancelTimeout .. | .groupStartTimeout .. | .refused .. | .groupTimeout .. => [.clusters, .tielux, .jobs, .objects, .transport,
    .streams, .free]
  | .ack .. | .suspend .. | .resume .. | .releaseResult .. => [.jobs, .transport, .streams]
  | .reset .. | .moduleWarmReset | .scanRelease | .scanTimeout => [.clusters, .halves, .dies, .tielux, .jobs, .objects, .transport,
    .streams, .audit, .events, .starts, .headers, .port, .ptp, .security, .entropy, .bist, .config]
  | .ready .. | .commit .. | .hold .. | .leave .. => [.jobs, .transport]
  | .phaseMark .. | .loopEndTest .. | .caravanBeatArrival .. => [.clusters, .jobs]
  | .holdRequest .. | .groupStart .. | .throttleStep .. => [.jobs, .transport, .streams, .events, .headers]
  | .kakTimeout .. | .droopStretch .. | .droopRelease .. => [.dies]
  | .correctedWriteback .. | .stackSelfRefresh .. | .stackWake .. => [.tielux]
  | .laneFailed .. | .linkDown | .preemptVerify .. => [.transport, .events, .headers, .port]
  | .nop .. | .oasisCopyDone .. => [.clusters]
  | .seedingDone .. | .restoreDone .. => [.clusters, .halves, .tielux, .mem, .jobs, .objects, .transport, .streams, .events,
    .headers, .free]
  | .macSwitch .. | .portReset => [.transport, .events, .starts, .headers, .port]
  | .sessionOpenPhase1 .. | .entropyReady => [.transport, .audit, .entropy, .free]
  | .sessionOpenPhase2 .. | .peerSessionRetry .. => [.jobs, .transport, .streams, .events, .headers, .entropy, .free]
  | .sessionOpenPhase3 .. | .keyOpRemove .. => [.jobs, .transport, .streams, .keys, .audit, .events, .headers, .entropy]
  | .assign .. | .probeTimeout => [.transport, .settings, .audit]
  | .hubWarmReset | .controllerFailed .. => [.tielux, .jobs, .objects, .transport, .streams, .audit, .events, .starts, .headers,
    .port, .ptp, .security, .entropy, .bist, .config]
  | .keyOpEnrol .. | .keyOpMakerCert .. => [.transport, .keys, .audit]
  | .flashWriteRetry .. | .flashRewriteDone .. => [.transport, .events, .headers, .security]
  | .phaseGroupFailed .. | .currentLimit .. => [.dies, .transport, .events, .headers, .power]
  | .cvOut .. => [.clusters, .tielux, .jobs, .transport, .streams, .events, .headers]
  | .stepMark .. => [.clusters, .jobs, .transport, .streams, .events, .headers]
  | .barrierRelease .. => [.clusters, .dies, .tielux, .jobs, .objects, .transport, .streams, .free]
  | .caravanBeatIssue .. => [.tielux, .jobs, .transport, .streams, .events, .headers, .free]
  | .holdEnd .. => [.dies, .jobs]
  | .atomicOperation .. => [.tielux, .jobs]
  | .clusterDegraded .. => [.clusters, .halves, .transport, .events, .headers]
  | .observationEnd .. => [.health, .integrity]
  | .kakComplete .. => [.clusters, .dies, .tielux, .jobs, .transport, .events, .health, .headers, .integrity]
  | .hangReset .. => [.clusters, .halves, .dies, .tielux, .jobs, .transport, .streams, .events, .starts, .headers]
  | .stripeMove .. => [.tielux, .mem, .jobs, .objects, .transport, .events, .headers]
  | .frameCleared .. => [.tielux, .mem]
  | .imbalanceRepeat .. => [.transport, .events, .headers]
  | .admitJob => [.clusters, .halves, .tielux, .mem, .jobs, .objects, .transport, .streams, .entropy, .free]
  | .contextWritten .. => [.clusters, .tielux, .mem, .jobs, .objects, .transport, .streams, .free]
  | .settingChange .. => [.halves, .jobs]
  | .pllLock .. => [.halves, .dies, .tielux, .jobs, .clocks, .free]
  | .halfClockStop .. => [.halves, .dies]
  | .unitReady .. => [.clusters, .halves, .dies, .tielux, .transport, .streams, .clocks, .config]
  | .readyTimeout .. => [.clusters, .halves, .tielux, .mem, .jobs, .objects, .transport, .streams, .events, .headers, .security,
    .entropy, .config, .free]
  | .frameReceive .. => [.jobs, .transport, .streams, .port]
  | .expressFrameReady .. => [.transport, .port, .ptp]
  | .linkUp => [.transport, .events, .headers, .port, .ptp]
  | .fallbackRetry => [.port]
  | .laserSwitch .. => [.transport, .events, .headers, .port, .optics]
  | .ptpSync .. => [.transport, .events, .headers, .ptp, .clocks]
  | .ptpDelayResp .. => [.ptp]
  | .ptpUnlocked => [.transport, .events, .headers, .ptp]
  | .load .. => [.tielux, .jobs, .objects, .transport, .streams, .audit, .security, .entropy, .free]
  | .release .. => [.tielux, .objects, .transport, .streams]
  | .submit .. => [.jobs, .transport, .streams, .entropy, .free]
  | .cancel .. => [.clusters, .tielux, .jobs, .objects, .transport, .streams, .audit, .free]
  | .exportJob .. => [.tielux, .mem, .jobs, .objects, .transport, .streams, .entropy, .free]
  | .fetch .. => [.transport, .streams]
  | .bulk .. => [.tielux, .mem, .jobs, .objects, .transport, .streams, .audit, .security]
  | .symmetryCheckDone .. => [.tielux, .jobs, .objects, .transport, .streams]
  | .dieReset .. => [.clusters, .halves, .dies, .tielux, .jobs, .transport, .streams, .starts]
  | .hubStart => [.clusters, .halves, .dies, .tielux, .objects, .transport, .streams, .audit, .events, .starts, .headers, .port,
    .optics, .power, .clocks, .thermal, .security, .entropy, .integrity, .bist, .config]
  | .join .. => [.tielux, .jobs, .transport, .entropy, .free]
  | .halo .. => [.tielux, .mem, .jobs, .transport]
  | .retract .. => [.clusters, .tielux, .jobs, .objects, .transport, .streams, .events, .headers, .integrity, .free]
  | .claimBackoffExpiry => [.keys]
  | .firmwareHandover => [.transport, .streams, .audit, .events, .headers, .security, .config]
  | .scanArm .. => [.jobs, .transport, .streams, .audit, .events, .headers, .security, .entropy]
  | .entropyBlock .. => [.transport, .audit, .events, .headers, .entropy, .free]
  | .rawMode .. => [.transport, .audit, .events, .headers, .entropy]
  | .alarmClear .. => [.transport, .audit, .entropy]
  | .drbgMode .. => [.transport, .settings, .audit, .entropy]
  | .feedPresent .. => [.jobs, .transport, .events, .headers, .power, .clocks]
  | .feedLost .. => [.clusters, .halves, .dies, .tielux, .mem, .jobs, .objects, .transport, .streams, .events, .starts, .headers,
    .port, .power, .security]
  | .journalClosed => [.starts, .power, .config]
  | .thermalThrottle .. => [.clusters, .halves, .dies, .tielux, .mem, .jobs, .objects, .transport, .streams, .events, .starts,
    .headers, .port, .power, .clocks, .thermal, .security]
  | .thermalTrip .. => [.clusters, .halves, .dies, .tielux, .mem, .jobs, .objects, .transport, .streams, .events, .health, .starts,
    .headers, .port, .power, .clocks, .thermal, .security]
  | .thermalRelease .. => [.dies, .tielux, .jobs, .clocks, .thermal]
  | .bistSlice .. => [.clusters, .halves, .dies, .tielux, .jobs, .transport, .events, .health, .headers, .port, .optics, .power,
    .clocks, .integrity, .bist]
  | .sensorCheck .. => [.dies, .tielux, .transport, .events, .health, .headers, .optics, .thermal, .bist]
  | .pllLockLoss .. => [.clusters, .halves, .dies, .tielux, .jobs, .transport, .streams, .events, .health, .starts, .headers, .port,
    .clocks, .bist]
  | .pllJitterFail .. => [.transport, .events, .health, .headers, .clocks, .bist]
  | .dr8Retry .. => [.transport, .audit, .events, .starts, .headers, .port]
  | .cfgOpWriteRecord .. => [.transport, .audit, .config]
  | .cfgOpUnclaim .. => [.jobs, .transport, .streams, .keys, .audit, .events, .headers, .entropy, .config]
  | .cfgWriteDone .. => [.config]
  | .vaonLost => [.keys, .ptp, .power, .clocks, .config]

/-! ### What a cluster operation does -/

/-- Core `n` of a cluster. -/
def clusterCore (s : State) (cl : ClusterRef) (n : Nat) : Core := mget {} (s.cluster cl.key).cores n

/-- The cluster belongs to job `j`, which issues words: `x` is where its operations act. -/
def Acts (s : State) (cl : ClusterRef) (x : Site) (j : Job) : Prop := s.site? cl = some x ∧ s.job? x.slot = some j

/-- Logical position `pos` is served by physical core `n`, which serves no other position (R204). -/
def Serves (x : Site) (pos n : Nat) : Prop := pos < 64 ∧ x.phys pos = some n ∧ ∀ q < 64, x.phys q = some n → q = pos

/-- From `s` to `t` each valid core of a cluster changes as `P` says, its generators as `g` says, and no other core, no other cluster
no other job and no other part of the state changes. -/
structure InCluster (s t : State) (cl : ClusterRef) (x : Site) (g : SMap AddrGen → SMap AddrGen) (P : Nat → Core → Core → Prop) : Prop where
  valid : ∀ pos n, Serves x pos n → P pos (clusterCore s cl n) (clusterCore t cl n)
  idle : ∀ n, (∀ pos < 64, x.phys pos ≠ some n) → clusterCore t cl n = clusterCore s cl n
  gens : (t.cluster cl.key).ags = g (s.cluster cl.key).ags
  clusters : ∀ k, k ≠ cl.key → t.cluster k = s.cluster k
  jobs : ∀ k, k ≠ x.slot → t.job? k = s.job? k
  own : t.cluster cl.key = { s.cluster cl.key with cores := (t.cluster cl.key).cores, ags := (t.cluster cl.key).ags }
  rest : OnlyTouches [.clusters, .jobs, .free] s t

/-- A core but for its lanes agrees. -/
def sameButLanes (c d : Core) : Prop := d = { c with lanes := d.lanes }

/-- A core but for its playa, the markers and exponents of its half-lines, its undo log and its check digests agrees. -/
def sameButPlaya (c d : Core) : Prop :=
  d = { c with playa := d.playa, playaPoison := d.playaPoison, playaExps := d.playaExps, undo := d.undo, checkCrc := d.checkCrc }

/-- The lanes of a list change as `P` says; the other lanes of the core, and the core but for its lanes, stay. -/
structure InLanes (ls : List Nat) (c d : Core) (P : Nat → Lane → Lane → Prop) : Prop where
  acting : ∀ l ∈ ls, P l (c.lane l) (d.lane l)
  others : ∀ l, l ∉ ls → d.lane l = c.lane l

/-- No valid core of a cluster has a poisoned decision input in a lane that the operation decides for. -/
def cleanDecisions (s : State) (o : DrawOps) (x : Site) : Prop :=
  ∀ pos < 64, ∀ n, x.phys pos = some n → ∀ l ∈ x.drawLanes pos (clusterCore s o.cl n) o, ((clusterCore s o.cl n).lane l).decPoison = false

/-- No current state that the operation takes for its lanes is poisoned. -/
def cleanCurrents (s : State) (o : DrawOps) (x : Site) (kind : Nat) : Prop :=
  ∀ pos < 64, ∀ n, x.phys pos = some n → ∀ l ∈ x.drawLanes pos (clusterCore s o.cl n) o, (x.current pos kind o (clusterCore s o.cl n) l).2 = false

/-- The place in a job's state table of the variable that a lane of a core decides. -/
def laneKey (c : Core) (dd : Fin 4) (l : Nat) : Nat := stateKey ((c.desc dd).laneRep l) ((c.desc dd).laneVar l)

/-- No other lane that acts in the cluster decides the variable of lane `l` of the core at `pos`. -/
def decidesAlone (s : State) (o : DrawOps) (x : Site) (pos l : Nat) (c : Core) : Prop :=
  ∀ q < 64, ∀ m, x.phys q = some m → ∀ i ∈ x.drawLanes q (clusterCore s o.cl m) o,
    laneKey (clusterCore s o.cl m) o.dd i = laneKey c o.dd l → q = pos ∧ i = l

/-- Every acting lane's variable takes the state of its decision, or keeps its own where the decision sets none; no other variable's state
changes. -/
def statesDecided (s t : State) (o : DrawOps) (x : Site) (j : Job) (dec : Nat → Core → Nat → Decision) : Prop :=
  ∃ k, t.job? x.slot = some k ∧
    (∀ pos n, Serves x pos n → ∀ l ∈ x.drawLanes pos (clusterCore s o.cl n) o, decidesAlone s o x pos l (clusterCore s o.cl n) →
      mget 0 k.states (laneKey (clusterCore s o.cl n) o.dd l) =
        (dec pos (clusterCore s o.cl n) l).result (mget 0 j.states (laneKey (clusterCore s o.cl n) o.dd l))) ∧
    ∀ key, (∀ q < 64, ∀ m, x.phys q = some m → ∀ i ∈ x.drawLanes q (clusterCore s o.cl m) o, laneKey (clusterCore s o.cl m) o.dd i ≠ key) →
      mget 0 k.states key = mget 0 j.states key

/-- No state that an operation takes from its lanes is poisoned. -/
def cleanStates (s : State) (cl : ClusterRef) (x : Site) (dd lm : Fin 4) (ags : Fin 8) (word : Fin 16) : Prop :=
  ∀ pos < 64, ∀ n, x.phys pos = some n →
    let c := clusterCore s cl n
    ∀ l ∈ x.lanesOf pos c lm (c.desc dd).laneRep, (c.laneState (x.cls (c.desc dd)).kind (x.stateSlot ags.val pos) word.val l).2 = false

/-- The job of an entry has ended with a status: it stands among the ended jobs, and its entry of the table is empty. -/
def Ended (t : State) (slot : Nat) (j : Job) (status : BitVec 16) : Prop :=
  t.job? slot = none ∧ ∃ k e, 4096 ≤ e ∧ t.job? e = some k ∧ k.id = j.id ∧ k.state = .ended ∧ k.status = status ∧ k.region = [] ∧ k.finalSent = true

/-- The job of an entry ends with a status: at once, or, where it is writing its context, once that is written (R294); the arbiter may raise its
target meanwhile (R303). -/
def EndsWith (t : State) (slot : Nat) (j : Job) (status : BitVec 16) : Prop :=
  (j.state ≠ .preempting → Ended t slot j status) ∧
  (j.state = .preempting → ∃ d0 d1 w, t.job? slot = some { j with endAsked := j.endAsked.or (some (status.toNat, d0, d1)), targetSetting := w })

/-- Between two states the job of an entry changes by `f`, and no other job changes. -/
def JobBecomes (s t : State) (slot : Nat) (k : Job) : Prop := t.job? slot = some k ∧ ∀ e, e ≠ slot → t.job? e = s.job? e

/-- Packets queued on a session, in order. -/
def Sent (s t : State) (id : Nat) (bs : List TxBody) : Prop :=
  ∃ x y, s.session? id = some x ∧ t.session? id = some y ∧ y.tx.map (·.body) = x.tx.map (·.body) ++ bs

/-- One record put into the stream of a key, with the stream's next number. -/
def Recorded (s t : State) (fpr : Bytes) (P : CompRecord → Prop) : Prop :=
  (t.stream fpr).nextSeq = (s.stream fpr).nextSeq + 1 ∧
    ∃ h ∈ (t.stream fpr).records, h.record.seq = (s.stream fpr).nextSeq ∧ P h.record

/-- A packet waits for its acknowledgement on a session. -/
def Delivers (t : State) (id : Nat) (b : TxBody) : Prop := ∃ y, t.session? id = some y ∧ b ∈ y.tx.map (·.body)

/-- A register access of a row that stands alone is answered with a status. -/
def Answers (t : State) (sess : Nat) (addr : Word) (write : Bool) (data : Word) (status : BitVec 16) : Prop :=
  Delivers t sess (.regReply 0 0 [({ addr := addr, write := write, data := data }, status)])

/-- A record that was not there before stands in the stream of a key, of a request, a kind and a status, as `P` says. -/
def Told (s t : State) (fpr : Bytes) (req : Nat) (kind : CompKind) (status : BitVec 16) (P : CompRecord → Prop := fun _ => True) : Prop :=
  ∃ h ∈ (t.stream fpr).records, (s.stream fpr).nextSeq ≤ h.record.seq ∧ h.record.req = req ∧ h.record.kind = kind ∧ h.record.status = status ∧
    P h.record

/-- An entry stands in the audit log that was not there before. -/
def Audited (s t : State) (role outcome action status : Nat) : Prop :=
  ∃ e ∈ t.journal.audit, s.journal.auditNext ≤ e.seq ∧ e.role = role ∧ e.outcome = outcome ∧ e.action = BitVec.ofNat 16 action ∧
    e.status = BitVec.ofNat 16 status

/-- A command of an open host session whose request identifier is above the stream's HIGH_MARK (R395). -/
def Fresh (s : State) (h : CmdHead) (x : Session) : Prop :=
  s.openSession? h.sess = some x ∧ x.role ≠ .peer ∧ (s.stream x.fpr).highMark < h.req

/-- One packet left, behind those that left before. -/
def Emitted (s t : State) (p : RawOut) : Prop := t.transport.out = s.transport.out ++ [p]

/-- An event stands in the ring. -/
def Logged (t : State) (code : BitVec 16) : Prop := ∃ e ∈ t.journal.events, e.code = code

/-- A session has ended, and no job with it: each stands in its entry in the state it had; a maker's raw mode ends with its session (R393, R507). -/
def SessionGone (s t : State) (id : Nat) (x : Session) : Prop :=
  (∀ y ∈ t.transport.sessions, y.id ≠ id) ∧ t.mem = s.mem ∧ (x.role ≠ .peer → t.jobs = s.jobs) ∧
    (∀ e j, s.job? e = some j → ∃ k, t.job? e = some k ∧ k.id = j.id ∧ k.state = j.state) ∧
    (x.role = .maker → s.entropy.state = .raw → s.entropy.rawSess = id → t.entropy.state = .startUp ∧ Logged t 0x0713)

/-- One confirmed fault charged to a unit: its count rises by one, and the third retires it (R464). A retired unit takes none. -/
def Charged (s t : State) (u : UnitRef) : Prop :=
  if u ∈ s.journal.retired then t.journal.retired = s.journal.retired ∧ t.journal.faults = s.journal.faults
  else if mget 0 s.journal.faults u.code < 2 then
    mget 0 t.journal.faults u.code = mget 0 s.journal.faults u.code + 1 ∧ t.journal.retired = s.journal.retired
  else u ∈ t.journal.retired ∧ mget 0 t.journal.faults u.code = 0

/-- A step of a job has failed: after its third failure in succession the job ends with 0x0502; before it, a preemptible job is back at its
last commit (R451, R452). -/
def StepFailed (s t : State) (slot step : Nat) (j : Job) : Prop :=
  let n := if j.failedStep = some step then j.failures else 0
  (2 ≤ n → EndsWith t slot j 0x0502) ∧
  (n < 2 → ∀ l, (s.tilingOf j).stepLoop? (s.program j) = some l → ∃ k, t.job? slot = some k ∧ k.id = j.id ∧ k.failures = n + 1 ∧
    k.failedStep = some step ∧ k.step = j.committed ∧ k.committed = j.committed ∧ k.states = j.statesAtCommit ∧ k.perm = j.permAtCommit ∧ k.counts = j.countsAtCommit ∧
    k.epoch = j.committedEpoch ∧ ∀ e ∈ k.stepEnds, e.step < j.committed)

/-- A job whose fabric state is lost (R401): it waits again, to run from word 0, or, restoring, stays preempted with its context. -/
def JobRestarted (t : State) (slot : Nat) (j : Job) : Prop :=
  ∃ k, t.job? slot = some k ∧ k.id = j.id ∧ k.seed = j.seed ∧ k.body = j.body ∧ k.region = [] ∧ k.restarted = true ∧
    (j.state = .restoring → k.state = .preempted ∧ k.context = j.context ∧ k.step = j.step ∧ k.allocs = j.allocs) ∧
    (j.state ≠ .restoring → k.state = .waiting ∧ k.step = 0 ∧ k.pc = 0 ∧ k.allocs = [])

/-- A compute die has been reset (R400): its halves and spine are unclocked, its clusters hold nothing, its stacks rest with their contents, its
resident jobs restart, and every other job stands. -/
structure DieRestarted (s t : State) (d : Nat) : Prop where
  halves : ∀ h, h / 2 = d → (t.half h).clocked = false ∧ (t.half h).ready = false
  spine : (t.die d).spineClocked = false
  clusters : ∀ k, k / 64 = d → (t.cluster k).cores = [] ∧ (t.cluster k).coreMap = [] ∧ (t.cluster k).copy = none
  resting : ∀ k, k / 6 = d → (s.stack k).clocked = true → (t.stack k).selfRefresh = true ∧ (t.stack k).clocked = false
  memory : t.mem = s.mem
  restarted : ∀ e j, s.job? e = some j → j.state.resident = true → j.hasDie d = true → JobRestarted t e j
  others : ∀ e, (∀ q ∈ s.jobList, q.1 = e → ¬(q.2.state.resident = true ∧ q.2.hasDie d = true)) → t.job? e = s.job? e

end Sys2Proof.Safety
end

