-- ==== Sys2Proof/Certificates/Slice0/Obligations.lean ====
section
/-! DEFINITION. The obligations of this row: what the commands do, what they leave alone, and what every step keeps. -/

open Sys2Proof Sys2Proof.Machine Sys2Proof.Safety

/-! ### The queue -/

/-- A step takes the command at the front of the queue: it is that command's effect on the state with the queue's rest. -/
def Obligations.StepRunsFront : Prop :=
  ∀ (s : State) (c : Instr) (rest : List Instr), s.pending = c :: rest → step s = exec c { s with pending := rest }

/-- With nothing waiting the step answers the state with one cycle of the AON domain passed (the model's choice, log entry 2): the cycle
counter and PTP time advance while VAON runs; with the link up the frames that may leave go, the express ones in their order and then,
where none of those is left, one bulk frame (log entry 83); every 12,500 cycles, a millisecond, the measured powers are refreshed; and
nothing else changes. -/
def Obligations.IdleCycle : Prop :=
  ∀ s : State, s.pending = [] → ∃ t, step s = .next t ∧ OnlyTouches [.clocks, .port, .transport, .power, .dies] s t ∧ t.pending = [] ∧
    (s.power.vaonOn = false → t = s) ∧
    (s.power.vaonOn = true →
      t.power = { s.power with inputW := t.power.inputW } ∧ (∀ d, t.die d = { s.die d with powerW := (t.die d).powerW }) ∧
      ((s.clocks.aonCycles + 1) % 12500 ≠ 0 → t.power = s.power ∧ t.dies = s.dies) ∧
      t.clocks = { s.clocks with aonCycles := s.clocks.aonCycles + 1, ptpNs := s.clocks.ptpNs + 80 } ∧
      (s.port.linkUp = false → t.port = s.port ∧ t.transport = s.transport) ∧
      (s.port.linkUp = true →
        t.port = { s.port with expressQueue := 0, bulkPaused := t.port.bulkPaused } ∧
        t.transport = { s.transport with express := t.transport.express, bulk := t.transport.bulk, sent := t.transport.sent } ∧
        ∃ fs, t.transport.sent = s.transport.sent ++ fs ∧
          (s.transport.express.length ≤ 32 → (∀ r ∈ s.transport.express, s.mayLeave r = true) →
            t.transport.express = [] ∧ ∀ r, s.transport.bulk.find? s.mayLeave = some r →
              fs = s.framesOf (s.transport.express ++ [r]) ∧ t.transport.bulk = s.transport.bulk.filter fun q => q != r)))

/-! ### Slot M: register forms, loads and stores -/

/-- MOV.MASK, MOV.AG, MOV.DESC, MOV.GRP and MOV.ZERO in a cluster that issues: what each writes in every valid core, and that nothing else
in the module's fabric and no other job changes. LM0 is all ones and is never written. -/
def Obligations.RegisterMoves : Prop :=
  (∀ (s : State) (o : MovMaskOps) (x : Site) (j : Job), Acts s o.cl x j →
    CompletesWith (exec (.movMask o) s) fun t => t.job? x.slot = some j ∧
      InCluster s t o.cl x id fun pos c d =>
        d = c.setMask o.lmd (d.mask o.lmd) ∧
        (o.lmd ≠ 0 → ∀ l < 32,
          let p : Bool := match o.psel with
            | .halves => o.imm.getLsbD (l % 16)
            | .upto => decide (l ≤ o.imm.toNat % 32)
            | .core => decide (o.imm.toNat % 64 = pos)
          (d.mask o.lmd).getLsbD l = match o.op with
            | .set => p
            | .and => (c.mask o.lms).getLsbD l && p
            | .or => (c.mask o.lms).getLsbD l || p
            | .xor => (c.mask o.lms).getLsbD l != p)) ∧
  (∀ (s : State) (o : MovAgOps) (x : Site) (j : Job), Acts s o.cl x j →
    CompletesWith (exec (.movAg o) s) fun t => t.job? x.slot = some j ∧
      InCluster s t o.cl x (fun _ => (t.cluster o.cl.key).ags) (fun _ c d => d = c) ∧
      ∀ n, mget {} (t.cluster o.cl.key).ags n =
        let g : AddrGen := mget {} (s.cluster o.cl.key).ags n
        if n = o.ag.val then
          match o.field with
          | .base => { g with base := o.value }
          | .stride => { g with stride := o.value }
          | .increment => { g with increment := o.value.setWidth 8 }
        else g) ∧
  (∀ (s : State) (o : MovDescOps) (x : Site) (j : Job), Acts s o.cl x j →
    CompletesWith (exec (.movDesc o) s) fun t => t.job? x.slot = some j ∧
      InCluster s t o.cl x id fun pos c d =>
        d = c.setDesc o.dd (d.desc o.dd) ∧
        d.desc o.dd = descOf (leBytes 64 (c.line ((x.line o.ag.val pos + o.ofs.val) % 2048)).toNat)) ∧
  (∀ (s : State) (cl : ClusterRef) (lm : Fin 4) (src dst : GroupSel) (x : Site) (j : Job), Acts s cl x j →
    CompletesWith (exec (.movGrp cl lm src dst) s) fun t => t.job? x.slot = some j ∧
      InCluster s t cl x id fun pos c d => sameButLanes c d ∧
        InLanes (x.lanes pos c lm) c d fun _ y z =>
          let a := y.group src
          let b := y.group dst
          z = y.setGroup dst { b with reg := regOf b.fmt (regVal a.fmt a.reg), sticky := b.sticky || a.sticky, poison := a.poison }) ∧
  (∀ (s : State) (o : HalfLineOps) (x : Site) (j : Job), Acts s o.cl x j →
    CompletesWith (exec (.movZero o) s) fun t => t.job? x.slot = some j ∧
      InCluster s t o.cl x (fun a => if o.inc then agStep a o.ag.val else a) fun pos c d =>
        let l := x.line o.ag.val pos
        sameButPlaya c d ∧ (∀ k, k ≠ l → d.line k = c.line k) ∧
        (∀ w < 16, lineWord (d.line l) w = if w / 8 = bit o.half then 0 else lineWord (c.line l) w) ∧
        ∀ k h, h < 2 → d.linePoison k h = if k = l ∧ h = bit o.half then false else c.linePoison k h)

/-- LD.LINE, LD.SLOT and LD.ANCH in a cluster that issues: the caravan input goes to a half-line with its marker, to a state file slot as
current values, or as four anchors to the cluster's leap unit, and it is consumed. ST.LINE, ST.RES and ST.SNAP in a cluster that issues,
no line they send being poisoned: the outward beat each valid core puts behind its launch register. -/
def Obligations.LoadsAndStores : Prop :=
  (∀ (s : State) (o : HalfLineOps) (x : Site) (j : Job), Acts s o.cl x j →
    CompletesWith (exec (.ldLine o) s) fun t => t.job? x.slot = some j ∧
      InCluster s t o.cl x (fun a => if o.inc then agStep a o.ag.val else a) fun pos c d =>
        let l := x.line o.ag.val pos
        d.caravan = { c.caravan with valid := false } ∧ sameButPlaya { c with caravan := d.caravan } d ∧
        (∀ k, k ≠ l → d.line k = c.line k) ∧
        (∀ w < 16, lineWord (d.line l) w = if w / 8 = bit o.half then lineWord c.caravan.data (w % 8) else lineWord (c.line l) w) ∧
        ∀ k h, h < 2 → d.linePoison k h = if k = l ∧ h = bit o.half then c.caravan.poison else c.linePoison k h) ∧
  (∀ (s : State) (o : SlotOps) (x : Site) (j : Job), Acts s o.cl x j →
    CompletesWith (exec (.ldSlot o) s) fun t => t.job? x.slot = some j ∧
      InCluster s t o.cl x (fun a => if o.inc then agStep a o.ags.val else a) fun pos c d =>
        d = { c with caravan := { c.caravan with valid := false }, slots := d.slots, undo := d.undo } ∧
        ∀ sl w, w < 16 → d.slotWord sl w =
          if sl = x.line o.ags.val pos % 256 then
            { c.slotWord sl w with cur := lineWord c.caravan.data w, curPoison := c.caravan.poison, curTag := c.caravan.tags.getD w none }
          else c.slotWord sl w) ∧
  (∀ (s : State) (cl : ClusterRef) (dd : Fin 4) (x : Site) (j : Job), Acts s cl x j →
    CompletesWith (exec (.ldAnch cl dd) s) fun t => t.job? x.slot = some j ∧
      (InCluster (s.modCluster cl.key fun k => { k with anchors := (t.cluster cl.key).anchors }) t cl x id fun _ c d =>
        d = { c with caravan := { c.caravan with valid := false } }) ∧
      (∀ pos n, Serves x pos n → (clusterCore s cl n).caravan.valid = true →
        (∀ q m, q < 64 → q ≠ pos → x.phys q = some m → (clusterCore s cl m).caravan.valid = true →
          ((clusterCore s cl m).desc dd).block ≠ ((clusterCore s cl n).desc dd).block) →
        mget [] (t.cluster cl.key).anchors ((clusterCore s cl n).desc dd).block =
          (List.range 4).map fun i => (clusterCore s cl n).caravan.data.extractLsb' (128 * i) 128) ∧
      ∀ b, (∀ q m, q < 64 → x.phys q = some m → (clusterCore s cl m).caravan.valid = true → ((clusterCore s cl m).desc dd).block ≠ b) →
        mget [] (t.cluster cl.key).anchors b = mget [] (s.cluster cl.key).anchors b) ∧
  (∀ (s : State) (o : StLineOps) (x : Site) (j : Job), Acts s o.cl x j →
    (∀ pos < 64, ∀ n, x.phys pos = some n → ∀ h < 2, (clusterCore s o.cl n).linePoison (x.line o.ag.val pos) h = false) →
    CompletesWith (exec (.stLine o) s) fun t => t.job? x.slot = some j ∧
      InCluster s t o.cl x (fun a => if o.inc then agStep a o.ag.val else a) fun pos c d =>
        d = { c with outQ := c.outQ ++ [{
          op := .store, job := j.id, step := x.step, alloc := (x.t.target x.p o.tgt.val).alloc,
          offset := (x.t.target x.p o.tgt.val).offset + 64 * x.line o.ago.val pos,
          data := c.line (x.line o.ag.val pos), poison := false }] }) ∧
  (∀ (s : State) (o : StStateOps) (snapshot : Bool) (x : Site) (j : Job), Acts s o.cl x j →
    (∀ pos < 64, ∀ n, x.phys pos = some n → ∀ h < 2, (clusterCore s o.cl n).linePoison (x.line o.ag.val pos) h = false ∧
      (clusterCore s o.cl n).linePoison ((x.line o.ag.val pos + 1) % 2048) h = false) →
    CompletesWith (exec (if snapshot then .stSnap o else .stRes o) s) fun t =>
      InCluster s t o.cl x id fun pos c d =>
        let v := c.desc o.dd
        let kind := (x.cls v).kind
        let fmt := if snapshot then 10 else o.fmt.val
        let ws : List AreaWrite := (x.lanesOf pos c o.lm v.laneRep).map fun l =>
          { step := x.step, snapshot := snapshot, var := v.laneVar l, rep := v.laneRep l,
            value := BitVec.ofNat 32 (resultState kind fmt (c.lineState kind (x.line o.ag.val pos) v.word l)).1,
            bits := resultBits kind fmt }
        d = { c with outQ := c.outQ ++ if ws = [] then [] else
          [{ op := .area ws, job := j.id, step := x.step, alloc := 0, offset := 0, data := 0, poison := false }] })

/-! ### Slot F: FIELD and REDUCE -/

/-- NOP changes nothing; with IDLE set in a cluster that issues it counts the offered cycle of that cluster. FLD.OPEN and FLD.CLOSE in a
cluster that issues, lane by lane: the group an open starts from and its format, and what a close delivers to the decision input, to the
part output or to hold. A close to the decision input saturates an INT sum to 32 bits and rounds once to F32; a FIELD group closed to hold
and a part keep the exact sum. -/
def Obligations.FieldGroups : Prop :=
  (∀ (s : State) (cl : ClusterRef) (slot : UnitSlot) (idle : Bool), CompletesWith (exec (.nop cl slot idle) s) fun t =>
     OnlyTouches [.clusters] s t ∧ (idle = false → t = s) ∧ (s.site? cl = none → t = s) ∧
     ∀ x, idle = true → s.site? cl = some x → ∀ k, t.cluster k =
       if k = cl.key then { s.cluster k with idleOffered := (s.cluster k).idleOffered + 1 } else s.cluster k) ∧
  (∀ (s : State) (o : FldOpenOps) (x : Site) (j : Job), Acts s o.cl x j →
    CompletesWith (exec (.fldOpen o) s) fun t => t.job? x.slot = some j ∧
      InCluster s t o.cl x id fun pos c d => sameButLanes { c with spreadPart := 0 } d ∧
        InLanes (x.lanesOf pos c o.lm (c.desc o.dd).laneRep) c d fun l y z =>
          let v := c.desc o.dd
          let u := if o.unary then x.unary c v l (x.scored j c v l) else (Val.zero, false)
          z = y.setGroup o.grp (match o.grp with
            | .field => { reg := regOf (x.fieldFmt v) u.1, isOpen := true, fmt := x.fieldFmt v, poison := u.2 }
            | .energy => { isOpen := true, fmt := if x.exact then .longsum else .f64 }
            | .statistic => { isOpen := true, fmt := .int }
            | .auxiliary => { isOpen := true, fmt := o.fmt })) ∧
  (∀ (s : State) (o : FldCloseOps) (x : Site) (j : Job), Acts s o.cl x j →
    CompletesWith (exec (.fldClose o) s) fun t => (∃ n, t.job? x.slot = some { j with counts := n }) ∧
      InCluster s t o.cl x id fun pos c d => sameButLanes c d ∧
        InLanes (x.lanes pos c o.lm) c d fun _ y z =>
          let sel : GroupSel := if o.aux then .auxiliary else .field
          let g := y.group sel
          let i := max (-2 ^ 31) (min (2 ^ 31 - 1) (intOf g.reg))
          let y1 := { y with scoreSeen := y.scoreSeen || decide (sel = GroupSel.field) }
          let shut : Group := { g with isOpen := false, held := true }
          let sat : Group := if g.fmt = .int then { shut with reg := intReg i, sticky := g.sticky || decide (intOf g.reg ≠ i) } else shut
          match o.dest with
          | .decision =>
            z = { y1.setGroup sel sat with
                  decIn := rneF32 (if g.fmt = .int then .ofInt i else regVal g.fmt g.reg), decValid := true, decPoison := g.poison }
          | .partOut => z = { y1.setGroup sel shut with partOut := g.reg, partOutFmt := g.fmt, partOutPoison := g.poison }
          | .hold => z = y.setGroup sel (if o.aux then sat else shut))

/-- FLD.ACC with no parity failure in a cluster that issues: FIRST opens FIELD with the unary value of part 0, the products of the cycle
are added to the group, each rounded to the accumulation format (of a spread product of 32 or 64 bits only the running half or quarter of
the lanes adds, R98), and LAST closes FIELD to the decision input or, for a part, to the part output. LAST advances UNARY by UNARY_STEP
and FK with its wrap, a caravan operand is consumed, and INC advances AGC and AGS. -/
def Obligations.FieldAccumulate : Prop :=
  ∀ (s : State) (o : FldAccOps) (x : Site) (j : Job), Acts s o.cl x j → o.parity = none →
    CompletesWith (exec (.fldAcc o) s) fun t => (∃ n, t.job? x.slot = some { j with counts := n }) ∧
      InCluster s t o.cl x (fun a => if o.inc then agStep (agStep a o.agc.val) o.ags.val else a) fun pos c d =>
        let v := c.desc o.dd
        let k := x.cls v
        let own := x.scored j c v
        let q := x.coupling pos c o k.shape (k.km1 + 1)
        let ran := if o.first then 0 else c.spreadPart
        let n := accProducts k.shape v.spread o.form
        let sel : GroupSel := if o.aux then .auxiliary else .field
        d = { c with lanes := d.lanes, descs := d.descs, fk := d.fk, caravan := d.caravan, spreadPart := if v.spread then (ran + 1) % 4 else c.spreadPart } ∧
        d.caravan = { c.caravan with valid := c.caravan.valid && o.src != .caravan } ∧
        d.desc o.dd = (if o.last then { v with unary := (v.unary + v.unaryStep) % 2 ^ 32 } else v) ∧
        (∀ e, e ≠ o.dd → d.desc e = c.desc e) ∧
        d.fk = (if o.last ∧ k.kind = 1 then if c.fk + 1 ≤ k.km1 then c.fk + 1 else 0 else c.fk) ∧
        InLanes (x.lanesOf pos c o.lm v.laneRep) c d fun l y z =>
          let u := if v.partIndex = 0 then x.unary c v l (own l) else (Val.zero, false)
          let y1 := if o.first then { y with field := Group.opened (x.fieldFmt v) u.1 u.2 } else y
          let ps := (List.range n.1).map fun i => accProduct x c o v q (own l) pos l i
          let takes := v.spread = false ∨ (k.shape = 4 → l / 16 = ran % 2) ∧ (k.shape = 5 → l / 8 = ran % 4)
          let y2 := if takes then y1.setGroup sel
              ((y1.group sel).add n.2 (ps.map fun e => roundAcc (y1.group sel).fmt e.1) (q.poison || ps.any (·.2)))
            else y1
          z = if o.last then (if v.part then y2.toPart .field else y2.toDecision .field).1 else y2

/-- FLD.ENRG and RED.ETOT in a cluster that issues. On the exact path FLD.ENRG adds twice the energy term to ENERGY modulo 2^128; on the
ordered path, in replica mode, it puts the rounded term in the lane's row buffer at the variable's place. RED.ETOT ROW adds the row sum to
the block sum in ENERGY and empties the buffer. RED.ETOT PUSH clears what it sends to the tree. RED.PART, RED.PADD and RED.ATOM in a
cluster that issues. RED.PART puts the closed parts of its lanes, tagged j of n, in the launch register and closes ENERGY; RED.PADD adds
the part input that carries index j to its group; RED.ATOM sends the AUXILIARY values of its lanes as atomic operations on the target, no
value being poisoned. -/
def Obligations.EnergyAndReductions : Prop :=
  (∀ (s : State) (o : FldEnrgOps) (x : Site) (j : Job), Acts s o.cl x j →
    CompletesWith (exec (.fldEnrg o) s) fun t => t.job? x.slot = some j ∧
      InCluster s t o.cl x (fun a => if o.inc then agStep a o.ags.val else a) fun pos c d => sameButLanes c d ∧
        (x.exact ∨ (c.desc o.dd).spread = false →
          InLanes (x.lanesOf pos c o.lm (c.desc o.dd).laneRep) c d fun l y z =>
            let v := c.desc o.dd
            let kind := (x.cls v).kind
            let st := c.laneState kind (x.stateSlot o.ags.val pos) v.word l
            let u := x.unary c v l (if kind = 1 then st.1.toNat else 0)
            let e := energyTerm kind st.1 u.1 (regVal y.field.fmt y.field.reg) (valF32 (imgPrecision x.m (v.laneVar l)))
            let p := y.energy.poison || (y.field.poison || st.2 || u.2)
            if x.exact then
              z = { y with energy := { y.energy with
                reg := BitVec.ofInt 128 (y.energy.reg.toInt + longsumOf e.1), poison := p,
                sticky := y.energy.sticky || decide (y.energy.reg.toInt + longsumOf e.1 < -2 ^ 127 ∨ 2 ^ 127 ≤ y.energy.reg.toInt + longsumOf e.1) } }
            else
              z = { y with rowBuf := z.rowBuf, energy := { y.energy with poison := p } } ∧
              ∀ i, mget 0 z.rowBuf i = if i = v.laneVar l % 32 then BitVec.ofNat 64 (plusZero f64 (f64.round e.2)) else mget 0 y.rowBuf i)) ∧
  (∀ (s : State) (o : RedEtotOps) (x : Site) (j : Job), Acts s o.cl x j → o.mode = .row →
    CompletesWith (exec (.redEtot o) s) fun t => t.job? x.slot = some j ∧
      InCluster s t o.cl x id fun pos c d => sameButLanes c d ∧
        InLanes (energyLanes (c.desc o.dd) (x.lanesOf pos c o.lm (c.desc o.dd).laneRep)) c d fun _ y z =>
          z = { y with energy := { y.energy with reg := regOf .f64 (Val.add (regVal .f64 y.energy.reg) (valF64 (rowSum y))) }, rowBuf := [] }) ∧
  (∀ (s : State) (o : RedEtotOps) (x : Site) (j : Job), Acts s o.cl x j → o.mode = .push →
    (∀ pos < 64, ∀ n, x.phys pos = some n → ∀ l, ((clusterCore s o.cl n).lane l).energy.poison = false) →
    CompletesWith (exec (.redEtot o) s) fun t =>
      InCluster s t o.cl x id fun pos c d => sameButLanes c d ∧
        ∀ l, d.lane l =
          let ls := x.lanesOf pos c o.lm (c.desc o.dd).laneRep
          if l ∈ (if x.exact then ls else energyLanes (c.desc o.dd) ls) then
            { c.lane l with energy := {} }
          else c.lane l) ∧
  (∀ (s : State) (o : RedPartOps) (x : Site) (j : Job), Acts s o.cl x j →
    CompletesWith (exec (.redPart o) s) fun t => (∃ n, t.job? x.slot = some { j with counts := n }) ∧
      InCluster s t o.cl x id fun pos c d =>
        let ls := x.lanes pos c o.lm
        (ls = [] → d = c) ∧
        (ls ≠ [] →
          d = { c with lanes := d.lanes, launch := d.launch, checkCrc := d.checkCrc } ∧
          d.launch = { kind := .part, partJ := o.j.val, partN := o.nm1.val + 1,
                       parts := ls.map fun l => { lane := l, value := ((c.lane l).partOf o.grp).1, poison := ((c.lane l).partOf o.grp).2 } } ∧
          InLanes ls c d fun _ y z =>
            z = if o.grp = .energy then { y with energy := { y.energy with isOpen := false, held := true } } else y)) ∧
  (∀ (s : State) (o : RedPaddOps) (x : Site) (j : Job), Acts s o.cl x j →
    CompletesWith (exec (.redPadd o) s) fun t => (∃ n, t.job? x.slot = some { j with counts := n }) ∧
      InCluster s t o.cl x id fun pos c d => sameButLanes c d ∧
        InLanes (x.lanes pos c o.lm) c d fun _ y z =>
          let g := y.group o.grp
          let h : Group := { g with
            reg := (match g.fmt with
              | .int => intReg (intOf g.reg + intOf y.partIn)
              | .longsum => BitVec.ofInt 128 (g.reg.toInt + y.partIn.toInt)
              | .f32 => regOf .f32 (Val.add (regVal .f32 g.reg) (regVal .f32 y.partIn))
              | .f64 => regOf .f64 (Val.add (regVal .f64 g.reg) (regVal .f64 y.partIn))),
            sticky := if g.fmt = .longsum then (longsumAdd g.reg g.sticky y.partIn.toInt).2 else g.sticky,
            poison := g.poison || y.partInPoison }
          let y1 := if y.partInJ = o.j.val then y.setGroup o.grp h else y
          z = if o.final then (y1.toDecision .field).1 else y1) ∧
  (∀ (s : State) (o : RedAtomOps) (x : Site) (j : Job), Acts s o.cl x j →
    (∀ pos < 64, ∀ n, x.phys pos = some n → ∀ l, ((clusterCore s o.cl n).lane l).auxiliary.poison = false) →
    CompletesWith (exec (.redAtom o) s) fun t => (∃ n, t.job? x.slot = some { j with counts := n }) ∧
      InCluster s t o.cl x id fun pos c d =>
        let e := x.t.target x.p o.tgt.val
        let f := atomFmt e.format
        let vs := (x.lanes pos c o.lm).map fun l => (l, f.ofVal (regVal (c.lane l).auxiliary.fmt (c.lane l).auxiliary.reg))
        let bs := laneBeats f vs false o.mode o.j.val e.n ((e.tag + x.step) % 65536) j.id x.step e.alloc
          (e.offset + 64 * x.line o.ago.val pos)
        d = { c with outQ := c.outQ ++ bs })

/-! ### Slot D: DRAW -/

/-- DRW.BIN in a cluster that issues: each lane's spin is decided by R82 or, where its class decides by Metropolis, by R84, on the draw of
purpose 0 at the job's step; the state stands in the job's table, at bit l of the descriptor's word of line AGW, and in the launch
register when LAUNCH is set. DRW.CAT in a cluster that issues: the key of state DK is formed from the draw k = DK of purpose 1 and kept
where it is the best so far, the lower index winning a tie; DK rises, and at the last state the best one is set, or the state kept after a
NaN key. DRW.GAU in a cluster that issues: each lane's state is decided by R89 to R91 on draws 0 and 1 of purpose 2 and fills its word of
lines AGW and AGW + 1. -/
def Obligations.Draws : Prop :=
  (∀ (s : State) (o : DrawOps) (x : Site) (j : Job), Acts s o.cl x j → MapsOk s → cleanDecisions s o x →
     (∀ pos < 64, ∀ n, x.phys pos = some n → (x.cls ((clusterCore s o.cl n).desc o.dd)).rule = 1 →
       ∀ l ∈ x.drawLanes pos (clusterCore s o.cl n) o, (x.current pos 0 o (clusterCore s o.cl n) l).2 = false) →
     CompletesWith (exec (.drwBin o) s) fun t =>
       let dec : Nat → Core → Nat → Decision := fun pos c l =>
         let d := c.desc o.dd
         let y := c.lane l
         let u := jobDraw j.seed (d.laneRep l) (d.laneVar l) 0 j.step
         if (x.cls d).rule = 1 then binaryMetropolis (x.laneBeta j d l y) y.decIn u (c.laneState 0 (x.stateSlot o.ags.val pos) d.word l).1
         else binaryHeatBath (x.laneBeta j d l y) y.decIn u
       statesDecided s t o x j dec ∧
       InCluster s t o.cl x id fun pos c d =>
         let v := c.desc o.dd
         let w (l : Nat) : Word := (dec pos c l).result (mget 0 j.states (laneKey c o.dd l))
         (∀ k, k ≠ x.line o.agw.val pos → d.line k = c.line k) ∧
         (v.word < 16 → ∀ l ∈ x.drawLanes pos c o, decidesAlone s o x pos l c →
           (lineWord (d.line (x.line o.agw.val pos)) v.word).getLsbD l = (w l).getLsbD 0 ∧
           (o.launch = true → ∃ b, mget none d.launch.words v.word = some b ∧ b.sel = o.sel.val ∧ b.phase = x.phaseBit ∧ b.tag = some (x.tagOf v) ∧
             b.data.getLsbD l = (w l).getLsbD 0)) ∧
         (o.launch = false → d.launch = c.launch) ∧
         (o.inc = false ∨ x.drawLanes pos c o = [] → d.descs = c.descs)) ∧
  (∀ (s : State) (o : DrawOps) (x : Site) (j : Job), Acts s o.cl x j → MapsOk s → cleanDecisions s o x →
     CompletesWith (exec (.drwCat o) s) fun t =>
       let key (c : Core) (l : Nat) : Lane :=
         let d := c.desc o.dd
         let y := if c.dk = 0 then { c.lane l with keyNan := false, bestState := 0, bestKey := 0 } else c.lane l
         match gumbelKey (x.laneBeta j d l y) y.decIn (jobDraw j.seed (d.laneRep l) (d.laneVar l) 1 (j.step * ((x.cls d).km1 + 1) + c.dk)) with
         | none => { y with keyNan := true }
         | some b => if c.dk = 0 ∨ Val.lt (valF32 y.bestKey) (valF32 b) = true then { y with bestKey := b, bestState := c.dk } else y
       (InCluster s t o.cl x id fun pos c d =>
         d.dk = (if c.dk < (x.cls (c.desc o.dd)).km1 then c.dk + 1 else 0) ∧
         InLanes (x.drawLanes pos c o) c d fun l _ z => z = key c l) ∧
       ∃ k, t.job? x.slot = some k ∧
         ∀ pos n, Serves x pos n →
           let c := clusterCore s o.cl n
           (x.cls (c.desc o.dd)).km1 ≤ c.dk → ∀ l ∈ x.drawLanes pos c o, decidesAlone s o x pos l c →
             mget 0 k.states (laneKey c o.dd l) =
               if (key c l).keyNan then mget 0 j.states (laneKey c o.dd l) else BitVec.ofNat 32 (key c l).bestState) ∧
  (∀ (s : State) (o : DrawOps) (x : Site) (j : Job), Acts s o.cl x j → MapsOk s → cleanDecisions s o x →
     CompletesWith (exec (.drwGau o) s) fun t =>
       let dec : Core → Nat → Decision := fun c l =>
         let v := c.desc o.dd
         let draw (i : Nat) : Word := jobDraw j.seed (v.laneRep l) (v.laneVar l) 2 (2 * j.step + i)
         gaussianDecision (x.laneBeta j v l (c.lane l)) (c.lane l).decIn (imgPrecision x.m (v.laneVar l)) (draw 0) (draw 1)
       (statesDecided s t o x j fun _ c l => dec c l) ∧
       InCluster s t o.cl x id fun pos c d =>
         let a := x.line o.agw.val pos
         (∀ k, k ≠ a → k ≠ (a + 1) % 2048 → d.line k = c.line k) ∧
         (∀ l ∈ x.drawLanes pos c o, decidesAlone s o x pos l c →
           lineWord (d.line ((a + l / 16) % 2048)) (l % 16) = (dec c l).result (mget 0 j.states (laneKey c o.dd l))) ∧
         (o.launch = false → d.launch = c.launch ∧ d.launchQ = c.launchQ))

/-- DRW.CATM in a cluster that issues: stage 0 proposes k' from the current state and draw 0 of purpose 0, stage 1 keeps the score of the
current state, and stage 2 decides by R85 on draw 1. -/
def Obligations.DrawCategoricalMetropolis : Prop :=
  (∀ (s : State) (o : DrawOps) (x : Site) (j : Job), Acts s o.cl x j → cleanCurrents s o x 1 →
    CompletesWith (exec (.drwCatm o 0) s) fun t => t.job? x.slot = some j ∧
      InCluster s t o.cl x id fun pos c d => sameButLanes c d ∧
        InLanes (x.drawLanes pos c o) c d fun l y z =>
          let v := c.desc o.dd
          let k := (c.laneState 1 (x.stateSlot o.ags.val pos) v.word l).1.toNat
          let n := (x.cls v).km1 + 1
          z = { y with bestState := k, scoreSeen := false,
                       proposal := (k + 1 + (jobDraw j.seed (v.laneRep l) (v.laneVar l) 0 (2 * j.step)).toNat * (n - 1) / 2 ^ 32) % n }) ∧
  (∀ (s : State) (o : DrawOps) (x : Site) (j : Job), Acts s o.cl x j → MapsOk s → cleanDecisions s o x →
    CompletesWith (exec (.drwCatm o 1) s) fun t => t.job? x.slot = some j ∧
      InCluster s t o.cl x id fun pos c d => sameButLanes c d ∧
        InLanes (x.drawLanes pos c o) c d fun _ y z => z = { y with scoreNow := y.decIn }) ∧
  (∀ (s : State) (o : DrawOps) (x : Site) (j : Job), Acts s o.cl x j → MapsOk s → cleanDecisions s o x →
    CompletesWith (exec (.drwCatm o 2) s) fun t =>
      statesDecided s t o x j fun _ c l =>
        let v := c.desc o.dd
        let y := c.lane l
        let d := valF32 (rneF32 (Val.sub (valF32 y.scoreNow) (valF32 y.decIn)))
        let z := valF32 (rneF32 (Val.mul (valF32 (x.laneBeta j v l y)) d))
        if d.isNan ∨ z.isNan then .nonFinite
        else .set (BitVec.ofNat 32
          (if (jobDraw j.seed (v.laneRep l) (v.laneVar l) 0 (2 * j.step + 1)).toNat < expq z then y.proposal else y.bestState)))

/-! ### EXCH -/

/-- EXC.BETA in a cluster that issues: each lane's β register takes β of the slot its replica holds, at the job's step. EXC.PAIR in the
ledger core at an exchange point: every pair that a lane names swaps its slots when U < expq(z), is counted, and keeps them otherwise, π
and the energies being those of the ledger table where it stands at AGT (R231); where the job has no exchange point, the job stands.
EXC.WGT and EXC.RSMP in the ledger core of a population that is resampled: pass 0 forms ℓ of the lanes' replicas, pass 1 their weights,
and EXC.RSMP's first chunk records the resampling and gives every replica its ancestor's states. -/
def Obligations.Exchange : Prop :=
  (∀ (s : State) (cl : ClusterRef) (lm dd : Fin 4) (x : Site) (j : Job), Acts s cl x j →
     CompletesWith (exec (.excBeta cl lm dd) s) fun t => t.job? x.slot = some j ∧
       InCluster s t cl x id fun pos c d => sameButLanes c d ∧
         InLanes (x.lanesOf pos c lm (c.desc dd).laneRep) c d fun l y z =>
           z = { y with betaLoaded := true, beta := j.betaAt x.m x.input (j.slotOf ((c.desc dd).laneRep l)) j.step }) ∧
  (∀ (s : State) (o : ExcOps) (x : Site) (j : Job) (pos n : Nat), Acts s o.cl x j → Serves x pos n → x.isLedger pos = true →
     CompletesWith (exec (.excPair o) s) fun t =>
       let c := clusterCore s o.cl n
       let first := x.line o.agt.val pos
       let i := j.readLedger c first
       ∃ k, t.job? x.slot = some k ∧ k.states = j.states ∧
         (j.exchangePoint? = none → k = j) ∧
         ∀ e, j.exchangePoint? = some e → (i.perm = [] ∨ i.perm.length = j.body.replicas) → k.ledgerLine = some first ∧
           ∀ l ∈ x.lanes pos c o.lm,
             let a := 64 * o.ch.val + 2 * l + e % 2
             a + 1 < j.body.replicas →
               let z := pairZ i x.m x.input (j.tableEnergy c first) a
               let swaps := !z.isNan && decide ((jobDraw j.seed a 0 3 e).toNat < expq z)
               k.pi a = (if swaps then i.pi (a + 1) else i.pi a) ∧ k.pi (a + 1) = (if swaps then i.pi a else i.pi (a + 1)) ∧
               mget 0 k.exchAccepts a = if swaps then min (mget 0 j.exchAccepts a + 1) (2 ^ 32 - 1) else mget 0 j.exchAccepts a) ∧
  (∀ (s : State) (o : ExcOps) (pass : Bool) (x : Site) (j : Job) (pos n : Nat), Acts s o.cl x j → Serves x pos n →
    x.isLedger pos = true → j.resamples? x.m = true →
    CompletesWith (exec (.excWgt o pass) s) fun t =>
      ∃ k, t.job? x.slot = some k ∧ k.states = j.states ∧
        ∀ l ∈ x.lanes pos (clusterCore s o.cl n) o.lm,
          let r := 32 * o.ch.val + l
          r < j.body.replicas →
            if pass then mget 0 k.weights r = weightOf j.lmax ((mget none j.logWeights r).getD 0)
            else mget none k.logWeights r = some (j.logWeight x.m (j.tableEnergy (clusterCore s o.cl n) (x.line o.agt.val pos)) r)) ∧
  (∀ (s : State) (o : ExcOps) (x : Site) (j : Job) (pos n : Nat), Acts s o.cl x j → Serves x pos n →
    x.isLedger pos = true → j.resamples? x.m = true → o.ch.val = 0 →
    CompletesWith (exec (.excRsmp o) s) fun t =>
      ∃ k, t.job? x.slot = some k ∧
        let qs := (List.range j.body.replicas).map fun r => mget 0 j.weights r
        let u := jobDraw j.seed 0 0 4 j.step
        k.resamples = j.resamples ++ [{ step := j.step, lmax := j.lmax.getD (BitVec.ofNat 64 f64.nanCode), total := qs.sum,
                                        ancestors := (List.range j.body.replicas).map (ancestorOf qs u) }] ∧
        (∀ m < j.body.replicas, ∀ v < 2 ^ 40, mget 0 k.states (stateKey m v) = mget 0 j.states (stateKey (ancestorOf qs u m) v)) ∧
        ∀ l ∈ x.lanes pos (clusterCore s o.cl n) o.lm, l < j.body.replicas → mget 0 k.ancestors l = ancestorOf qs u l)

/-! ### EXCH's neighbours: STAT and TOPK -/

/-- STA.SGL, STA.PAIR and STA.HIST in a cluster that issues, on states without a marker. A binary class adds ±1 (for a pair the product of
the two spins) to STATISTIC as INT; a categorical one sends increments of entry k_i, or of entry (k_i, k_j) of the table at line offset
AGO, whose rows have the K of the states at (AGS2, WORD2), and a histogram those of its bins; the job is as before. STA.FLUSH in a cluster
that issues, no STATISTIC group of its lanes being poisoned: the groups leave as atomic operations on the target, in I32 with a sum
outside the range saturated and counted in INT_SATURATIONS, or in I64 exactly; then they are empty, with the sticky flag where the sum was
saturated (R120). TPK.OFFER and TPK.SCAN in a cluster that issues: in a program with an energy pass the energies of 32 replicas are
offered to a job with source 0, each replica once in a step; the I32 or I64 elements of one line of the target for each valid position
that the tiling uses are offered to one with source 1, each variable of the model once. An offer enters the list only when the step
commits. -/
def Obligations.StatisticsAndTopk : Prop :=
  (∀ (s : State) (o : StaOps) (x : Site) (j : Job), Acts s o.cl x j → cleanStates s o.cl x o.dd o.lm o.ags o.word →
    CompletesWith (exec (.staSgl o) s) fun t => t.job? x.slot = some j ∧
      InCluster s t o.cl x id fun pos c d =>
        let v := c.desc o.dd
        let kind := (x.cls v).kind
        let st (l : Nat) : Nat := (c.laneState kind (x.stateSlot o.ags.val pos) o.word.val l).1.toNat
        let e := x.t.target x.p v.statTgt
        (kind = 0 → sameButLanes c d ∧ InLanes (x.lanesOf pos c o.lm v.laneRep) c d fun l y z =>
          y.statistic.fmt = .int →
            z = { y with statistic := { y.statistic with reg := intReg (intOf y.statistic.reg + if st l % 2 = 1 then 1 else -1) } }) ∧
        let bs := incBeats (if e.format = 5 then .i64 else .i32) ((x.lanesOf pos c o.lm v.laneRep).map st) false e.n
          ((e.tag + x.step) % 65536) j.id x.step e.alloc e.offset
        (kind = 1 → d = { c with outQ := c.outQ ++ bs }) ∧
        (1 < kind → d = c)) ∧
  (∀ (s : State) (o : StaPairOps) (x : Site) (j : Job), Acts s o.base.cl x j →
    cleanStates s o.base.cl x o.base.dd o.base.lm o.base.ags o.base.word → cleanStates s o.base.cl x o.base.dd o.base.lm o.ags2 o.word2 →
    CompletesWith (exec (.staPair o) s) fun t => t.job? x.slot = some j ∧
      InCluster s t o.base.cl x id fun pos c d =>
        let v := c.desc o.base.dd
        let k := x.cls v
        let st (l : Nat) : Nat := (c.laneState k.kind (x.stateSlot o.base.ags.val pos) o.base.word.val l).1.toNat
        let su (l : Nat) : Nat := (c.laneState k.kind (x.stateSlot o.ags2.val pos) o.word2.val l).1.toNat
        let e := x.t.target x.p v.statTgt
        (k.kind = 0 → sameButLanes c d ∧ InLanes (x.lanesOf pos c o.base.lm v.laneRep) c d fun l y z =>
          y.statistic.fmt = .int →
            z = { y with statistic := { y.statistic with
              reg := intReg (intOf y.statistic.reg + if st l % 2 = su l % 2 then 1 else -1) } }) ∧
        let kj := match (c.fileWord (x.stateSlot o.ags2.val pos) o.word2.val).curTag with
          | some q => if q.kind = 1 then q.km1 + 1 else k.km1 + 1
          | none => k.km1 + 1
        let bs := incBeats (if e.format = 5 then .i64 else .i32)
          ((x.lanesOf pos c o.base.lm v.laneRep).map fun l => st l * kj + su l) false e.n
          ((e.tag + x.step) % 65536) j.id x.step e.alloc (e.offset + 64 * x.line o.ago.val pos)
        (k.kind = 1 → d = { c with outQ := c.outQ ++ bs }) ∧
        (1 < k.kind → d = c)) ∧
  (∀ (s : State) (o : StaOps) (x : Site) (j : Job), Acts s o.cl x j → cleanStates s o.cl x o.dd o.lm o.ags o.word →
    CompletesWith (exec (.staHist o) s) fun t => t.job? x.slot = some j ∧
      InCluster s t o.cl x id fun pos c d =>
        let v := c.desc o.dd
        let e := x.t.target x.p v.statTgt
        let bins := (x.lanesOf pos c o.lm v.laneRep).map fun l => histBin v (c.laneState 2 (x.stateSlot o.ags.val pos) o.word.val l).1
        let bs := incBeats (if e.format = 5 then .i64 else .i32) bins false e.n ((e.tag + x.step) % 65536) j.id x.step e.alloc e.offset
        ((x.cls v).kind = 2 → v.histBins ≠ 0 → d = { c with outQ := c.outQ ++ bs }) ∧
        ((x.cls v).kind ≠ 2 ∨ v.histBins = 0 → d = c)) ∧
  (∀ (s : State) (o : StaFlushOps) (x : Site) (j : Job), Acts s o.cl x j →
     (∀ pos < 64, ∀ n, x.phys pos = some n → ∀ l, ((clusterCore s o.cl n).lane l).statistic.poison = false) →
     CompletesWith (exec (.staFlush o) s) fun t =>
       let e := x.t.target x.p o.tgt.val
       let sum (c : Core) (l : Nat) : Int := intOf (c.lane l).statistic.reg
       let inRange (i : Int) : Prop := -2 ^ 31 ≤ i ∧ i < 2 ^ 31
       (∃ n, t.job? x.slot = some { j with counts := n } ∧
         (j.counts.intSaturations < 2 ^ 64 →
           (o.wide ∨ ∀ pos < 64, ∀ m, x.phys pos = some m → ∀ l ∈ x.lanes pos (clusterCore s o.cl m) o.lm,
             inRange (sum (clusterCore s o.cl m) l)) →
             n.intSaturations = j.counts.intSaturations)) ∧
       InCluster s t o.cl x id fun pos c d =>
         let ls := x.lanes pos c o.lm
         let vs := ls.map fun l => (l, if o.wide then wrapNat 64 (sum c l) else wrapNat 32 (max (-2 ^ 31) (min (2 ^ 31 - 1) (sum c l))))
         let bs := laneBeats (if o.wide then .i64 else .i32) vs false o.mode o.j.val e.n
           ((e.tag + x.step) % 65536) j.id x.step e.alloc (e.offset + 64 * x.line o.ago.val pos)
         d = { c with lanes := d.lanes, outQ := c.outQ ++ bs } ∧
         InLanes ls c d fun _ y z => z = { y with statistic := { sticky := !o.wide && (saturate32 (intOf y.statistic.reg)).2 } }) ∧
  (∀ (s : State) (cl : ClusterRef) (ch : Fin 128) (x : Site) (j : Job), Acts s cl x j →
    CompletesWith (exec (.tpkOffer cl ch) s) fun t => OnlyTouches [.jobs] s t ∧ ∃ os,
      JobBecomes s t x.slot { j with topkOffers := j.topkOffers ++ os } ∧
      (¬(j.body.topkSource = 0 ∧ j.body.topkK ≠ 0 ∧ x.t.hasEpass x.p = true) → os = []) ∧
      (j.body.topkSource = 0 → j.body.topkK ≠ 0 → x.t.hasEpass x.p = true →
        (∀ e ∈ j.topkOffers, e.step = j.step → e.replica / 32 ≠ ch.val) → os.length = min 32 (j.body.replicas - 32 * ch.val) ∧
        ∀ i (h : i < os.length), os[i].replica = 32 * ch.val + i ∧ os[i].value = mget 0 j.energies (32 * ch.val + i) ∧ os[i].step = j.step)) ∧
  (∀ (s : State) (cl : ClusterRef) (tgt : Fin 4096) (ago : Fin 8) (x : Site) (j : Job), Acts s cl x j →
    CompletesWith (exec (.tpkScan cl tgt ago) s) fun t => OnlyTouches [.jobs] s t ∧ ∃ os,
      JobBecomes s t x.slot { j with topkOffers := j.topkOffers ++ os } ∧
      (j.body.topkSource ≠ 1 ∨ j.body.topkK = 0 → os = []) ∧
      (j.body.topkSource = 1 → j.body.topkK ≠ 0 →
        let e := x.t.target x.p tgt.val
        let w := (atomFmt e.format).bytes
        (os.map (·.var)).Nodup ∧ (∀ q ∈ os, q.var < imgVars x.m) ∧
        ∀ pos n, Serves x pos n → pos < x.t.positions → ∀ i < 64 / w,
          let off := e.offset + 64 * x.line ago.val pos
          let v := bitField (s.newestLine j e.alloc off).1.toNat (8 * w * i) (8 * w)
          let var := (off - e.offset) / w + i
          var < imgVars x.m → (∀ q ∈ j.topkOffers, q.var ≠ var) →
            ∃ q ∈ os, q.value = BitVec.ofInt 64 (signedOf (8 * w) v) ∧ q.var = var))

/-! ### SYNC and run groups -/

/-- SYN.HOUT in a cluster that issues, its line without a marker: when R430 lets halo e go, line AG leaves as the next beat of the epoch
on the channel of PEER, and is kept; until then the word waits as a hold, nothing is sent, and a fixed-cadence job is demoted with cause
6. -/
def Obligations.HaloSend : Prop :=
  ∀ (s : State) (o : HaloOps) (x : Site) (j : Job) (g : GroupState) (c : Nat × Channel) (pos n : Nat), Acts s o.cl x j → j.group = some g →
    ((grpChannelList g.record).find? fun e => e.2.src == g.member && e.2.srcPeer == o.peer.val) = some c →
    x.spineCore? = some (pos, n) → (∀ h < 2, (clusterCore s o.cl n).linePoison (x.line o.ag.val pos) h = false) →
    CompletesWith (exec (.synHout o) s) fun t =>
      let goes := g.async = true ∨ j.epoch = 0 ∨
        ((∀ e ∈ g.inbound, g.committed e.2.src (j.epoch - 1) = true) ∧ g.committed c.2.dst (j.epoch - 1) = true)
      let b : HaloBeat :=
        { channel := c.1, epoch := j.epoch, attempt := g.attempt, data := leBytes 64 ((clusterCore s o.cl n).line (x.line o.ag.val pos)).toNat,
          beat := (g.sent.filter fun h => h.channel == c.1 && h.epoch == j.epoch && h.attempt == g.attempt).length }
      (goes → OnlyTouches [.jobs, .transport] s t ∧ JobBecomes s t x.slot { j with group := some { g with sent := g.sent ++ [b] } } ∧
        ∀ m, g.neighbour? c.2.dst = some m → m.sessOpen = true → (s.session? m.sess).isSome →
          Sent s t m.sess [.halo g.groupId j.epoch c.1 g.attempt b.beat [b.data]]) ∧
      (¬goes → ∃ k, JobBecomes s t x.slot k ∧ k.group = some g ∧ k.pc = j.pc ∧ (∃ h, k.hold = some h ∧ 64 ≤ h.len) ∧ k.fixedCadence = false ∧
        (j.fixedCadence = true → k.demoted = true ∧ k.demoteStep = j.step ∧ k.demoteCause = 6))

/-- SYN.HIN and SYN.EPOCH in a cluster that issues. SYN.HIN writes the next beat of the epoch that R429 names into slot AGS of every valid
core as current values; SYN.EPOCH raises the epoch of a job whose ledger core stands in the cluster, by one, and no other. HALO of a
neighbour on its channel, from its own peer session and not behind its attempt, in epoch-synchronous mode: each beat of the packet is then
held, at this attempt or a later one, in the receive buffers of the job's memory too, and beats of other channels stay; at a lower attempt
nothing changes. A group job tries again to open a session to a neighbour that has none: with its identity key, a DRBG that gives output,
room in the table and no attempt under way, phase 1 leaves for the neighbour's address, and the attempt stands in the session table. -/
def Obligations.HaloBeats : Prop :=
  (∀ (s : State) (o : HaloOps) (x : Site) (j : Job) (g : GroupState) (c : Nat × Channel) (b : HaloBeat), Acts s o.cl x j →
    j.group = some g → (g.inbound.find? fun e => e.2.kind == 0 && e.2.dstPeer == o.peer.val) = some c →
    ((g.beatsOf c.1 (g.readEpoch c j.epoch)).find? fun b => b.beat == mget 0 g.nextIn c.1) = some b →
    CompletesWith (exec (.synHin o) s) fun t =>
      t.job? x.slot = some { j with group := some { g with nextIn := mset 0 g.nextIn c.1 (mget 0 g.nextIn c.1 + 1) } } ∧
      InCluster s t o.cl x id fun pos e d =>
        d = { e with slots := d.slots, undo := d.undo } ∧
        ∀ sl w, w < 16 → d.slotWord sl w =
          if sl = x.line o.ag.val pos % 256 then
            { e.slotWord sl w with cur := lineWord (BitVec.ofNat 512 (leNat b.data)) w, curPoison := false, curTag := none }
          else e.slotWord sl w) ∧
  (∀ (s : State) (cl : ClusterRef) (x : Site) (j : Job), Acts s cl x j →
    CompletesWith (exec (.synEpoch cl) s) fun t => OnlyTouches [.jobs] s t ∧
      ((∃ pos < 64, (x.phys pos).isSome ∧ x.isLedger pos = true) →
        JobBecomes s t x.slot { j with epoch := j.epoch + 1, group := j.group.map fun g => { g with nextIn := [] } }) ∧
      (¬(∃ pos < 64, (x.phys pos).isSome ∧ x.isLedger pos = true) → t = s)) ∧
  (∀ (s : State) (b : HaloBody) (slot : Nat) (j : Job) (g : GroupState), s.groupJob? b.group = some (slot, j) → s.job? slot = some j →
     j.group = some g → j.state ≠ .ended → g.async = false → b.channel < grpChannels g.record →
     (grpChannel g.record b.channel).dst = g.member → s.speaksFor b.sess g (grpChannel g.record b.channel).src = true →
     1 ≤ b.beats.length → b.beats.length ≤ 127 →
     CompletesWith (exec (.halo b) s) fun t => OnlyTouches [.jobs, .transport, .tielux, .mem] s t ∧
       ((∃ n, g.neighbour? (grpChannel g.record b.channel).src = some n ∧ b.attempt < n.attempt) → JobBecomes s t slot j) ∧
       ((∀ n, g.neighbour? (grpChannel g.record b.channel).src = some n → n.attempt ≤ b.attempt) →
         ∃ h, JobBecomes s t slot { j with group := some h } ∧ h.sent = g.sent ∧
           (∀ e, e.channel ≠ b.channel → (e ∈ h.rx ↔ e ∈ g.rx)) ∧
           ∀ i (hi : i < b.beats.length), b.firstBeat + i < (grpChannel g.record b.channel).beats →
             ∃ e ∈ h.rx, e.channel = b.channel ∧ e.epoch = b.epoch ∧ e.beat = b.firstBeat + i ∧ b.attempt ≤ e.attempt ∧
               ((∀ f ∈ g.rx, ¬(f.channel = b.channel ∧ f.epoch = b.epoch ∧ f.beat = b.firstBeat + i)) → e.data = b.beats[i]))) ∧
  (∀ (s : State) (slot : Fin 4096) (m : Nat) (j : Job) (g : GroupState) (n : Neighbour), s.job? slot.val = some j → j.state ≠ .ended →
     j.group = some g → g.neighbour? m = some n → n.sessOpen = false →
     (∀ x ∈ s.transport.sessions, ¬(x.opener = true ∧ x.fpr = grpMemberFpr g.record m)) →
     s.security.identityOk = true → s.drbgGives = true → s.transport.sessions.length < 256 →
     CompletesWith (exec (.peerSessionRetry slot m) s) fun t => t.jobs = s.jobs ∧
       ∃ x bs, t.transport.sessions = s.transport.sessions ++ [x] ∧ x.role = .peer ∧ x.opener = true ∧ x.opened = false ∧
         x.fpr = grpMemberFpr g.record m ∧ x.peerAddr = grpMemberAddr g.record m ∧ x.phase1 = bs ∧
         t.transport.out = s.transport.out ++ [.phase1 (grpMemberAddr g.record m) (BitVec.ofNat 128 (grpMemberIp g.record m)) bs])

/-- READY, COMMIT, HOLD and LEAVE of a neighbour, from its own peer session: what each marks, and that nothing else of any job changes.
READY arms the start of an admitting job once every neighbour has sent it; COMMIT of a lower attempt is ignored, and frees the beats sent
to that neighbour for epochs below it. RETRACT and REFUSED of a neighbour, from its own peer session, for a job in the table; an end waits
for a context that is being written. RETRACT takes the uncommitted beats of the epoch and later out; where the epoch was committed at that
attempt the member ends with 0x0A16; where the member has passed it, in epoch-synchronous mode, it rolls back to its last commit. REFUSED
ends the member with the status it carries. -/
def Obligations.NeighbourPackets : Prop :=
  (∀ (s : State) (b : BarrierBody) (slot : Nat) (j : Job) (g : GroupState), s.groupJob? b.group = some (slot, j) → s.job? slot = some j →
     j.group = some g → j.state ≠ .ended → s.speaksFor b.sess g b.member = true →
     (g.readFrom b.member ≤ b.epoch →
       CompletesWith (exec (.ready b) s) fun t => OnlyTouches [.jobs, .transport] s t ∧
         let h := g.modNeighbour b.member fun n => { n with ready := true, holding := false, epoch := b.epoch }
         let arms := j.state = .admitting ∧ g.armed = false ∧ ∀ n ∈ h.neighbours, n.ready = true
         (arms → JobBecomes s t slot { j with group := some { h with armed := true, late := decide (g.startNanos < s.clocks.ptpNs) } }) ∧
         (¬arms → JobBecomes s t slot { j with group := some h })) ∧
     (CompletesWith (exec (.commit b) s) fun t => OnlyTouches [.jobs, .transport] s t ∧
       let stale := ∃ n, g.neighbour? b.member = some n ∧ b.attempt < n.attempt
       (stale → JobBecomes s t slot j) ∧
       (¬stale → g.async = false → ∃ h, JobBecomes s t slot { j with group := some h } ∧
         h.neighbours = (g.modNeighbour b.member fun n =>
           { n with committed := some (max (n.committed.getD 0) b.epoch), committedAttempt := b.attempt }).neighbours ∧ h.rx = g.rx ∧
         ∀ e, e ∈ h.sent ↔ e ∈ g.sent ∧ ¬((grpChannel g.record e.channel).dst = b.member ∧ e.epoch < b.epoch))) ∧
     (CompletesWith (exec (.hold b) s) fun t => OnlyTouches [.jobs, .transport] s t ∧
       JobBecomes s t slot { j with group := some (g.modNeighbour b.member fun n => { n with holding := true, epoch := b.epoch }) }) ∧
     (CompletesWith (exec (.leave b) s) fun t => OnlyTouches [.jobs, .transport] s t ∧
       JobBecomes s t slot { j with group := some (g.modNeighbour b.member fun n => { n with left := true, epoch := b.epoch }) })) ∧
  (∀ (s : State) (b : RetractBody) (slot : Nat) (j : Job) (g : GroupState), JobsOk s → s.groupJob? b.group = some (slot, j) → s.job? slot = some j →
    slot < 4096 → j.group = some g → j.state ≠ .ended → s.speaksFor b.sess g b.member = true →
    CompletesWith (exec (.retract b) s) fun t =>
      let broken := ∃ n c, g.neighbour? b.member = some n ∧ n.committed = some c ∧ b.epoch ≤ c ∧ b.attempt ≤ n.committedAttempt
      let passed := g.async = false ∧ ∃ p, g.passed = some p ∧ b.epoch ≤ p
      (broken → EndsWith t slot j 0x0A16) ∧
      (¬broken → ¬passed → OnlyTouches [.jobs, .transport] s t ∧ ∃ h, JobBecomes s t slot { j with group := some h } ∧
        ∀ e, e ∈ h.rx ↔ e ∈ g.rx ∧ ¬((grpChannel g.record e.channel).src = b.member ∧ b.epoch ≤ e.epoch ∧ e.attempt < b.attempt ∧
          ¬(g.async = true ∧ g.committed b.member e.epoch = true))) ∧
      (¬broken → passed → ∀ l, (s.tilingOf j).stepLoop? (s.program j) = some l →
        ∃ k, t.job? slot = some k ∧ k.step = j.committed ∧ k.committed = j.committed ∧ k.states = j.statesAtCommit ∧
          k.counts = j.countsAtCommit ∧ k.perm = j.permAtCommit ∧ k.epoch = j.committedEpoch ∧ k.stepEnds.all (fun e => decide (e.step < j.committed)) = true)) ∧
  (∀ (s : State) (b : BarrierBody) (slot : Nat) (j : Job) (g : GroupState), JobsOk s → s.groupJob? b.group = some (slot, j) → s.job? slot = some j →
    slot < 4096 → j.group = some g → j.state ≠ .ended → s.speaksFor b.sess g b.member = true →
    CompletesWith (exec (.refused b) s) fun t => EndsWith t slot j b.status)

/-- JOIN from an operator's or installer's session of the job's stream. A job that no live entry holds is answered 0x0110, another
stream's 0x0601, a failed check with its status; a member that passes the checks of R422, in a job without a group and with its memory
there, takes its part from the record: its identifier, START, and one neighbour for each member it shares a channel with. The start and
the time limits of a group job: word 0 issues when the start is armed, the region seeded and PTP time has reached START, and a member that
armed late is then demoted if it ran in fixed cadence; a start that has not armed ends the job with 0x0A1A, and a barrier that waits too
long for neighbours none of which holds ends it with 0x0A14. -/
def Obligations.GroupJoinAndClocks : Prop :=
  (∀ (s : State) (b : JoinBody) (x : Session), s.openSession? b.sess = some x → s.session? b.sess = some x → x.role ≠ .peer →
    ∀ status : Nat, (s.jobById? b.job = none ∧ status = 0x0110) ∨
        (∃ slot j, s.jobById? b.job = some (slot, j) ∧ (j.owner ≠ x.fpr ∨ x.role = .maker) ∧ status = 0x0601) ∨
        (∃ slot j, s.jobById? b.job = some (slot, j) ∧ j.owner = x.fpr ∧ x.role ≠ .maker ∧ j.state ≠ .ended ∧ j.group = none ∧
          status = s.joinStatus j b ∧ status ≠ 0) →
      CompletesWith (exec (.join b) s) fun t =>
        OnlyTouches [.transport] s t ∧ Sent s t b.sess [.barrier 6 b.group b.member 0 (BitVec.ofNat 16 status) 0]) ∧
  (∀ (s : State) (b : JoinBody) (x : Session) (slot : Nat) (j : Job), s.openSession? b.sess = some x → x.role ≠ .peer → x.role ≠ .maker →
    s.jobById? b.job = some (slot, j) → j.owner = x.fpr → j.state ≠ .ended → j.group = none → s.joinStatus j b = 0 → j.contextPages = [] →
    (s.takeSalted (.job j.id) true
      ({ j with group := some (joinGroup (s.objectBytes b.record) b) }.groupPages) 0).isSome →
    CompletesWith (exec (.join b) s) fun t =>
      let r := s.objectBytes b.record
      ∃ k g, t.job? slot = some k ∧ k.group = some g ∧ g.record = r ∧ g.groupId = b.group ∧ g.member = b.member ∧ g.async = grpAsync r ∧
        g.startSec = b.startSec ∧ g.startNs = b.startNs ∧ g.neighbours.map (·.member) = grpNeighbours r b.member) ∧
  (∀ (s : State) (slot : Fin 4096) (j : Job) (g : GroupState), s.job? slot.val = some j → j.group = some g → j.state = .admitting →
    g.armed = true → j.seeded = true → s.regionReady j = true → g.startNanos ≤ s.clocks.ptpNs →
    CompletesWith (exec (.groupStart slot) s) fun t => ∃ k, JobBecomes s t slot.val k ∧ k.state = .running ∧
      k.group = some { g with started := true } ∧ k.pc = j.pc ∧ (g.late = true → k.fixedCadence = false) ∧
      (g.late = false → k = { j with state := .running, group := some { g with started := true } })) ∧
  (∀ (s : State) (slot : Fin 4096) (j : Job), JobsOk s → s.job? slot.val = some j → j.state = .admitting →
    (j.group = none ∧ j.seeded = true ∧ s.isGroupJob j = true ∨ ∃ g, j.group = some g ∧ g.armed = false ∧ g.startNanos ≤ s.clocks.ptpNs) →
    CompletesWith (exec (.groupStartTimeout slot) s) fun t => Ended t slot.val j 0x0A1A) ∧
  (∀ (s : State) (slot : Fin 4096) (j : Job) (g : GroupState) (kind : BarrierKind), JobsOk s → s.job? slot.val = some j → j.state ≠ .ended →
    j.group = some g → j.waiting = .barrier kind → kind ≠ .preempt → g.timeoutMs ≠ 0 →
    (∀ n ∈ g.missing kind j.epoch, n.holding = false) →
    CompletesWith (exec (.groupTimeout slot) s) fun t => EndsWith t slot.val j 0x0A14)

/-! ### The router and caravans -/

/-- MOV.SEND in a cluster that issues: with OUT_L or DLV[11] the launch register is emptied and a waiting half-beat moves up; its beat,
with TTL LTTL, arrives at each neighbour of the region behind the output's latency, and with DLV[11] it is delivered to the core itself.
MOV.FWD with no hop check that fails, in a cluster that issues: every state and part beat that was at a valid core is delivered where DLV
names its direction, leaves the latch, and, merged by output with TTL one lower, arrives at the neighbour behind the hop. -/
def Obligations.RouterMoves : Prop :=
  (∀ (s : State) (o : SendOps) (x : Site) (j : Job), Acts s o.cl x j →
     CompletesWith (exec (.movSend o) s) fun t => OnlyTouches [.clusters, .jobs, .free] s t ∧ JobBecomes s t x.slot j ∧
       ∀ pos n, Serves x pos n →
         let c := clusterCore s o.cl n
         let d := clusterCore t o.cl n
         let b := launchBeat c o.lttl.val
         let c1 := if o.deliver then c.deliver x pos o.agd.val b else c
         ({ d with inN := c.inN, inE := c.inE, inS := c.inS, inW := c.inW } =
           if o.deliver = true ∨ outDirs o.outL ≠ [] then { c1 with launch := c.launchQ.headD {}, launchQ := c.launchQ.tail } else c1) ∧
         ∀ dir ∈ outDirs o.outL, b.valid = true → ∀ k p lat m, hopTo j.region x.cl pos dir = some (k, p, lat) →
           (s.cluster k).coreMap.getD p none = some m →
             { b with due := j.cycle + lat } ∈ (mget {} (t.cluster k).cores m).latch (opposite dir)) ∧
  (∀ (s : State) (o : FwdOps) (x : Site) (j : Job), Acts s o.cl x j → o.parity = none →
     CompletesWith (exec (.movFwd o) s) fun t => OnlyTouches [.clusters, .jobs, .free] s t ∧ JobBecomes s t x.slot j ∧
       ∀ pos n, Serves x pos n →
         let c := clusterCore s o.cl n
         let d := clusterCore t o.cl n
         ({ d with inN := c.inN, inE := c.inE, inS := c.inS, inW := c.inW } =
           ([Dir.n, .e, .s, .w].filter (fwdDelivers o)).foldl (fun a dir => (c.present j.cycle dir).foldl (fun a b => a.deliver x pos o.agd.val b) a) c) ∧
         (∀ dir, ∀ b ∈ c.latch dir, b.kind ≠ .caravan → b.due ≤ j.cycle → b ∉ d.latch dir) ∧
         (∀ dir, ∀ b ∈ c.latch dir, b.kind = .caravan ∨ j.cycle < b.due → b ∈ d.latch dir) ∧
         ∀ out, ∀ b ∈ mergeBeats (([Dir.n, .e, .s, .w].filter fun i => (outDirs (fwdOut o i)).contains out).flatMap fun i =>
             (c.present j.cycle i).map Beat.forwarded),
           ∀ k p lat m, hopTo j.region x.cl pos out = some (k, p, lat) → (s.cluster k).coreMap.getD p none = some m →
             { b with due := j.cycle + lat } ∈ (mget {} (t.cluster k).cores m).latch (opposite out))

/-- CV.RECV and CV.FWD in a cluster that issues: the caravan beats that are at a core leave its port or latch, go to the caravan input
(for CV.FWD where DLV is set), and, forwarded, arrive at the neighbours, none of them past the caravan edge (R195). CV.OUT in a cluster
that issues: the oldest outward beat of a core moves one hop; at the caravan edge it enters the intake of the base die that serves its
line, an atomic operation of a fixed-cadence job within the rate reserved for it (R26); where two earlier steps are uncommitted it stays,
and the job holds, demoted first with cause 4 if it ran in fixed cadence. Caravans: a trigger of the word under issue starts its segment;
a base die issues the next beat of a running segment and drops the segment behind its last, and what it reads is counted; the oldest beat
in flight arrives at the port of its edge core. A beat that comes late raises a hold (R185 to R197). -/
def Obligations.Caravans : Prop :=
  (∀ (s : State) (cl : ClusterRef) (x : Site) (j : Job), Acts s cl x j →
    CompletesWith (exec (.cvRecv cl) s) fun t => t.job? x.slot = some j ∧
      InCluster s t cl x id fun _ c d =>
        let bs := c.inPort.filter fun b => decide (b.due ≤ j.cycle)
        d = { c with inPort := c.inPort.filter fun b => decide (j.cycle < b.due),
                     caravan := if bs = [] then c.caravan else caravanData bs }) ∧
  (∀ (s : State) (o : ChainOps) (x : Site) (j : Job), Acts s o.cl x j →
    CompletesWith (exec (.cvFwd o) s) fun t => OnlyTouches [.clusters, .jobs, .free] s t ∧ JobBecomes s t x.slot j ∧
      ∀ pos n, Serves x pos n →
        let c := clusterCore s o.cl n
        let d := clusterCore t o.cl n
        let bs := c.caravanBeats j.cycle o.from_
        (d.caravan = if o.dlv = true ∧ bs ≠ [] then caravanData bs else c.caravan) ∧
        ({ d with inN := c.inN, inE := c.inE, inS := c.inS, inW := c.inW, inPort := c.inPort, caravan := c.caravan } = c) ∧
        (match o.from_ with
          | none => d.inPort = c.inPort.filter fun b => decide (j.cycle < b.due)
          | some dir => d.inPort = c.inPort ∧ ∀ b ∈ bs, b ∉ d.latch dir) ∧
        ∀ b ∈ bs, ∀ dir ∈ outDirs o.out, atEdge x.cl pos dir = false → ∀ k p lat m, hopTo j.region x.cl pos dir = some (k, p, lat) →
          (s.cluster k).coreMap.getD p none = some m →
            { b with due := j.cycle + lat } ∈ (mget {} (t.cluster k).cores m).latch (opposite dir)) ∧
  (∀ (s : State) (o : ChainOps) (x : Site) (j : Job) (dir : Dir) (pos n : Nat) (b : Outward), Acts s o.cl x j → MapsOk s → Serves x pos n →
     (outDirs o.out).head? = some dir → (clusterCore s o.cl n).outHead j.cycle o.from_ = some b →
     CompletesWith (exec (.cvOut o) s) fun t =>
       let c := clusterCore s o.cl n
       let d := clusterCore t o.cl n
       let gone : Prop := match o.from_ with
         | none => d.outQ = c.outQ.tail
         | some side => ∃ more, (d.outIn.filter fun i => i.1 == side) = (c.outIn.filter fun i => i.1 == side).tail ++ more
       (atEdge x.cl pos dir = false → gone ∧ ∀ k p lat m, hopTo j.region x.cl pos dir = some (k, p, lat) →
         (s.cluster k).coreMap.getD p none = some m → (opposite dir, j.cycle + lat, b) ∈ (mget {} (t.cluster k).cores m).outIn) ∧
       (atEdge x.cl pos dir = true → b.step < j.committed + 2 → (∀ ws, b.op ≠ .area ws) → ∀ q, j.page? b.alloc b.offset = some q →
         let e := s.servingStack q
         (s.stack e).intake.length + (s.stack e).waiting.length ≤ 192 →
           (j.fixedCadence = true → b.isAtomic = true → j.atomsSent (e / 6) + 64 ≤ j.atomRate) → gone ∧ b ∈ (t.stack e).intake) ∧
       (atEdge x.cl pos dir = true → j.committed + 2 ≤ b.step → d.outHead j.cycle o.from_ = some b ∧
         ∃ k, t.job? x.slot = some k ∧ k.hold.isSome ∧ k.fixedCadence = false ∧ (j.fixedCadence = true → k.demoted = true ∧ k.demoteCause = 4))) ∧
  (∀ (s : State) (slot seg : Fin 4096) (j : Job), s.job? slot.val = some j → j.issuing = true → seg.val < (s.tilingOf j).numSegments → s.triggers j seg.val = true →
    CompletesWith (exec (.caravanTrigger slot seg) s) fun t => OnlyTouches [.jobs] s t ∧
      JobBecomes s t slot.val { j with
        segments := j.segments ++ [{ seg := seg.val, issued := 0, total := ((s.tilingOf j).segment (s.program j) seg.val).beats }] }) ∧
  (∀ (s : State) (slot seg : Fin 4096) (late : Nat) (j : Job) (y : Segment) (a z : List Segment), s.job? slot.val = some j →
    j.segments = a ++ y :: z → (∀ e ∈ a, e.seg ≠ seg.val) → y.seg = seg.val → j.state = .running →
    CompletesWith (exec (.caravanBeatIssue slot seg late) s) fun t =>
      let g := (s.tilingOf j).segment (s.program j) seg.val
      let d := s.beatData j seg.val g y.issued
      ∃ k, JobBecomes s t slot.val k ∧
        k.segments = a ++ (if y.issued + 1 < y.total then [{ y with issued := y.issued + 1 }] else []) ++ z ∧
        k.inFlight = j.inFlight ++ [{ half := g.half, port := g.port, data := BitVec.ofNat 512 (leNat d.1), bits := g.beatBits, poison := d.2,
                                      exps := s.beatExps j g y.issued, tags := s.beatTags j seg.val g y.issued }] ∧
        (late = 0 → (∀ e ∈ s.beatSectors j seg.val g y.issued, s.readsDegraded e.1 = false) →
          k.hold = j.hold ∧ k.fixedCadence = j.fixedCadence ∧ OnlyTouches [.jobs, .tielux] s t) ∧
        (0 < late → (∃ h, k.hold = some h ∧ min 64 late ≤ h.len) ∧ k.fixedCadence = false)) ∧
  (∀ (s : State) (slot : Fin 4096) (column : Fin 8) (j : Job) (b : CaravanBeat) (rest : List CaravanBeat) (h n : Nat),
    s.job? slot.val = some j → j.inFlight = b :: rest → j.region[b.half]? = some h →
    (s.cluster (portCluster h b.port)).coreMap.getD (portPos b.port column.val) none = some n →
    CompletesWith (exec (.caravanBeatArrival slot column) s) fun t => OnlyTouches [.clusters, .jobs] s t ∧
      JobBecomes s t slot.val { j with inFlight := rest } ∧
      (∀ k m, (k ≠ portCluster h b.port ∨ m ≠ n) → mget {} (t.cluster k).cores m = mget {} (s.cluster k).cores m) ∧
      let c : Core := mget {} (s.cluster (portCluster h b.port)).cores n
      mget {} (t.cluster (portCluster h b.port)).cores n = c.portArrival b j.cycle)

/-! ### The control slice -/

/-- STEP and PHASE marks of an issuing job, at a word whose control slice carries them; at any other word they do nothing. A STEP mark
with fewer than two steps uncommitted ends the step: the step counter rises by one and what stands is kept for its commit; with two
uncommitted the job holds and its step stays. A PHASE mark makes every pending state word current in the cores of the region and toggles
the phase bit. A BARRIER word of an issuing job: it issues when its condition holds, else it waits, and a job in fixed cadence that waits
at a commit or epoch barrier is demoted with cause 5. A waiting word issues when its condition holds, and does nothing before. The time it
waited counts as held cycles, a free value (log entry 6), and but for a preemption on the cadence count. A job without a group has its
epoch conditions met. -/
def Obligations.MarksAndBarriers : Prop :=
  (∀ (s : State) (slot : Fin 4096) (j : Job), s.job? slot.val = some j → j.issuing = true → ctlStep (s.controlAt j) = true →
    CompletesWith (exec (.stepMark slot) s) fun t => ∃ k, JobBecomes s t slot.val k ∧
      (j.stepEnds.length < 2 → k.step = j.step + 1 ∧ k.phase = 0 ∧ k.permStep = j.perm ∧ k.committed = j.committed ∧ k.hold = j.hold ∧
        ∃ e, k.stepEnds = j.stepEnds ++ [e] ∧ e.step = j.step ∧ e.states = j.states ∧ e.perm = j.perm ∧ e.epoch = j.epoch ∧
          e.exch = j.exchAccepts) ∧
      (2 ≤ j.stepEnds.length → k.step = j.step ∧ k.stepEnds = j.stepEnds ∧ k.hold.isSome ∧ k.fixedCadence = false)) ∧
  (∀ (s : State) (slot : Fin 4096) (j : Job), s.job? slot.val = some j → j.issuing = true → ctlPhase (s.controlAt j) = true →
    CompletesWith (exec (.phaseMark slot) s) fun t => OnlyTouches [.clusters, .jobs] s t ∧
      JobBecomes s t slot.val { j with phaseBit := !j.phaseBit, phase := if ctlStep (s.controlAt j) then 0 else j.phase + 1 } ∧
      ∀ k n,
        let c : Core := mget {} (s.cluster k).cores n
        let d : Core := mget {} (t.cluster k).cores n
        if j.region.contains (2 * (k / 64) + if k % 8 < 4 then 0 else 1) then d = { c with slots := d.slots } ∧
          ∀ a v, (a, v) ∈ d.slots ↔ v ≠ ({} : StateWord) ∧ ∃ u, (a, u) ∈ c.slots ∧
            v = match u.pend with
              | some w => { cur := w, curPoison := u.pendPoison, curTag := u.pendTag }
              | none => { cur := u.cur, curPoison := u.curPoison, curTag := u.curTag }
        else d = c) ∧
  (∀ (s : State) (slot : Fin 4096) (j : Job), s.job? slot.val = some j →
    (ctlStep (s.controlAt j) = false → exec (.stepMark slot) s = .next s) ∧ (ctlPhase (s.controlAt j) = false → exec (.phaseMark slot) s = .next s)) ∧
  (∀ (s : State) (slot : Fin 4096) (kind : BarrierKind) (j : Job), s.job? slot.val = some j → j.issuing = true →
    ctlBarrier (s.controlAt j) = barrierCode kind → (kind = .epoch → j.group = none) →
    CompletesWith (exec (.barrierWord slot kind) s) fun t => ∃ k, JobBecomes s t slot.val k ∧
      (s.barrierHolds j kind = true → k = { j with waiting := .no } ∧ OnlyTouches [.jobs] s t) ∧
      (s.barrierHolds j kind = false → k.waiting = .barrier kind ∧ k.pc = j.pc ∧ k.step = j.step ∧
        (j.fixedCadence = true → kind ≠ .preempt → k.demoted = true ∧ k.demoteCause = 5 ∧ k.demoteStep = j.step ∧ k.reserved = false) ∧
        (kind = .preempt → k = { j with waiting := .barrier kind }))) ∧
  (∀ (s : State) (slot : Fin 4096) (kind : BarrierKind) (j : Job), s.job? slot.val = some j → j.waiting = .barrier kind →
    (kind = .epoch → j.group = none) →
    CompletesWith (exec (.barrierRelease slot) s) fun t =>
      (s.barrierHolds j kind = false → t = s) ∧
      (s.barrierHolds j kind = true → ∃ h c, (kind = .preempt → c = 0) ∧ JobBecomes s t slot.val { j with waiting := .no, heldCycles := j.heldCycles + h, cadence := j.cadence + c }))

/-- An epoch barrier of a group member: when every beat of the epoch is there it passes, and the epoch read is noted; when one is missing
from a neighbour that has sent LEAVE, the job ends with 0x0A13 (R443), at the word and while it waits. -/
def Obligations.EpochBarrier : Prop :=
  ∀ (s : State) (slot : Fin 4096) (j : Job) (g : GroupState), JobsOk s → s.job? slot.val = some j → j.group = some g → (g.async = false ∨ j.epoch = 0) →
    let holds := ∀ c ∈ g.inbound, ∀ i < c.2.beats, ∃ b ∈ g.rx, b.channel = c.1 ∧ b.epoch = j.epoch ∧ b.beat = i
    let left := ∃ c ∈ g.inbound, (∃ i < c.2.beats, ∀ b ∈ g.rx, ¬(b.channel = c.1 ∧ b.epoch = j.epoch ∧ b.beat = i)) ∧
      ∃ n, g.neighbour? c.2.src = some n ∧ n.left = true
    (j.issuing = true → ctlBarrier (s.controlAt j) = 2 → CompletesWith (exec (.barrierWord slot .epoch) s) fun t =>
      (holds → ∃ k, JobBecomes s t slot.val k ∧ k.waiting = .no ∧ k.group = some { g with passed := some j.epoch, nextIn := [] }) ∧
      (left → Ended t slot.val j 0x0A13)) ∧
    (j.state ≠ .ended → j.waiting = .barrier .epoch → CompletesWith (exec (.barrierRelease slot) s) fun t =>
      (holds → ∃ k, t.job? slot.val = some k ∧ k.waiting = .no ∧ k.group = some { g with passed := some j.epoch, nextIn := [] }) ∧
      (left → EndsWith t slot.val j 0x0A13))

/-- END of an issuing job whose last step has not committed, or whose outward beats of the present step are still in a base die: the
program is past its end, and the job waits to finish. With all of it done and no mirage among its shadows the job completes with success.
Loops of an issuing job, as the control slice of its word gives them (R180, R219). An opening word with a count opens its loop; with a
count of 0 it skips to the word behind the loop; met again after a jump back it opens nothing. The end test on a word goes back to the
first word of the innermost loop that ends there while iterations are left, else on to the next word; each cycle counts one, on the
cadence count too once the step loop has opened. The trees of an energy pass close as its last word is left. A hold of a running job: it
is demoted with the hold's cause if it ran in fixed cadence, and stops for the length, or, where a hold is in progress, until the later of
the two ends (R183 to R185). At its end the cycles are counted on the job and on each die of its region, and another hold follows while
the hub is not READY or a die of the region is held at 105 °C. -/
def Obligations.ControlFlow : Prop :=
  (∀ (s : State) (slot : Fin 4096) (j : Job), JobsOk s → s.job? slot.val = some j → j.issuing = true → ctlEnd (s.controlAt j) = true →
     CompletesWith (exec (.endWord slot) s) fun t =>
       (j.committed ≠ j.step ∨ s.outstanding j.id j.step = true → OnlyTouches [.jobs] s t ∧
         JobBecomes s t slot.val { j with cycle := j.cycle + 1, cadence := if j.prelude then j.cadence else j.cadence + 1, waiting := .finishing }) ∧
       (j.committed = j.step → s.outstanding j.id j.step = false → (∀ x ∈ j.shadows, x.taken = false) → Ended t slot.val j 0)) ∧
  (∀ (s : State) (slot last : Fin 4096) (count : LoopCount) (j : Job), s.job? slot.val = some j → j.issuing = true →
    opensLoop (s.controlAt j) last.val count = true →
    CompletesWith (exec (.loopOpen slot last count) s) fun t => OnlyTouches [.jobs] s t ∧ ∃ k, JobBecomes s t slot.val k ∧
      let again := ∃ f fs, j.loops = f :: fs ∧ f.first = j.pc ∧ f.last = last.val
      let n := match count with
        | .imm n => n.val
        | .param i => if i.val = 0 then j.sweepsLeft else (j.body.params.getD i.val 0).toNat
      let before := j.prelude && !countsSweeps count
      (again → k = { j with prelude := before }) ∧
      (¬again → n ≠ 0 → k = { j with loops := { first := j.pc, last := last.val, left := n } :: j.loops, prelude := before }) ∧
      (¬again → n = 0 → (∀ f ∈ j.loops, f.last ≠ last.val) → k = { j with pc := (last.val + 1) % 4096, cycle := j.cycle + 1, cadence := if j.prelude then j.cadence else j.cadence + 1,
                                                                               prelude := before })) ∧
  (∀ (s : State) (slot : Fin 4096) (j : Job), s.job? slot.val = some j → j.issuing = true → ctlEnd (s.controlAt j) = false →
    CompletesWith (exec (.loopEndTest slot) s) fun t => OnlyTouches [.clusters, .jobs] s t ∧ ∃ k, JobBecomes s t slot.val k ∧
      k = { j with loops := k.loops, pc := k.pc, cycle := j.cycle + 1, cadence := if j.prelude then j.cadence else j.cadence + 1,
                   energies := k.energies, ledgerLine := k.ledgerLine } ∧
      (ctlEpass (s.controlAt j) = false ∨ j.trees = [] → k.energies = j.energies ∧ k.ledgerLine = j.ledgerLine ∧ t.clusters = s.clusters) ∧
      ∀ done fs, j.loops = done ++ fs → (∀ f ∈ done, f.last = j.pc ∧ f.left ≤ 1) →
        (∀ f ∈ fs.head?, f.last ≠ j.pc ∨ 1 < f.left) →
        (∀ f gs, fs = f :: gs → f.last = j.pc → k.pc = f.first ∧ k.loops = { f with left := f.left - 1 } :: gs) ∧
        ((∀ f ∈ fs.head?, f.last ≠ j.pc) → k.pc = (j.pc + 1) % 4096 ∧ k.loops = fs)) ∧
  (∀ (s : State) (slot : Fin 4096) (len : Fin 65) (after : Nat) (cause : HoldCause) (j : Job), s.job? slot.val = some j → j.state = .running →
    1 ≤ len.val →
    CompletesWith (exec (.holdRequest slot len after cause) s) fun t => ∃ k, JobBecomes s t slot.val k ∧
      k.hold = some { len := match j.hold with | some h => max h.len (after + len.val) | none => len.val } ∧ k.fixedCadence = false ∧
      (j.fixedCadence = true → k.demoted = true ∧ k.demoteStep = j.step ∧ k.reserved = false ∧ k.demoteCause = match cause with
        | .latency => 1 | .thermal => 2 | .feed => 3 | .atomics => 4 | .barrier => 5 | .other => 6) ∧
      (j.fixedCadence = false → k = { j with hold := k.hold } ∧ OnlyTouches [.jobs] s t)) ∧
  (∀ (s : State) (slot : Fin 4096) (j : Job) (h : HoldState), s.job? slot.val = some j → j.hold = some h →
    CompletesWith (exec (.holdEnd slot) s) fun t => OnlyTouches [.dies, .jobs] s t ∧
      JobBecomes s t slot.val { j with
        heldCycles := j.heldCycles + h.len, cadence := j.cadence + h.len,
        hold := if s.config.hubReady = false ∨ ∃ x ∈ j.region, (s.die (x / 2)).thermal = .holding then some { len := 64 } else none } ∧
      ∀ d, t.die d = if ∃ x ∈ j.region, x / 2 = d then
          { s.die d with holdCycles := satAdd 64 (s.die d).holdCycles h.len, holdEvents := satAdd 32 (s.die d).holdEvents 1 }
        else s.die d)

/-! ### Base dies and the commit of a step -/

/-- ATOMIC_OPERATION at a base die that serves: the operation at the head of its intake, not an ordered part, on a line without an open
round, is counted and applied to its line's shadow for its step: a store replaces the line, an atomic operation adds each element that the
mask names, modulo its width or rounded once, and leaves the others; no other line of the job changes. On a line with an open round it
waits. ORDERED_PART at a base die that serves: a part that R140 does not fault enters the open round of its tag on its line, or opens one;
parts are applied in ascending index from the next one on while they are present, and the round closes behind its last part. A part of
another tag waits in the intake; a part that R140 faults ends the job with 0x040A and logs an event that names the line. HELD_PART_ENTRY
at a base die that serves: the first waiting operation that is a part of the open round of its line, or whose line has no open round (and
for which a round may open), enters as if it had come to the head of the intake now: the outcome is that of taking it from there. -/
def Obligations.Arrivals : Prop :=
  (∀ (s : State) (stack : Fin 36) (o : Outward) (rest : List Outward) (slot : Nat) (j : Job), (s.stack stack.val).intake = o :: rest →
     (s.stack stack.val).away = false → o.isOrdered = false → s.jobById? o.job = some (slot, j) → s.job? slot = some j →
     CompletesWith (exec (.atomicOperation stack) s) fun t => OnlyTouches [.tielux, .jobs] s t ∧ (t.stack stack.val).intake = rest ∧
       ((s.stack stack.val).rounds.any (·.isOn o) = true →
         (t.stack stack.val).waiting = (s.stack stack.val).waiting ++ [o] ∧ JobBecomes s t slot j) ∧
       ((s.stack stack.val).rounds.any (·.isOn o) = false →
         (t.stack stack.val).waiting = (s.stack stack.val).waiting ∧
         (t.stack stack.val).lineOps = satAdd 64 (s.stack stack.val).lineOps 1 ∧
         ∃ k, JobBecomes s t slot k ∧ k.states = j.states ∧ k.allocs = j.allocs ∧ k.step = j.step ∧
           (∀ st a f, ¬(a = o.alloc ∧ f = o.offset) → t.lineUpTo k st a f = s.lineUpTo j st a f) ∧
           let old := s.lineUpTo j o.step o.alloc o.offset
           let new := t.lineUpTo k o.step o.alloc o.offset
           match o.op with
           | .store => new = (o.data, { lo := o.poison, hi := o.poison })
           | .atomic f mask _ _ _ _ => new.2 = { lo := old.2.lo || o.poison, hi := old.2.hi || o.poison } ∧
               ∀ i < 64 / f.bytes,
                 let e (v : BitVec 512) : Nat := bitField v.toNat (8 * f.bytes * i) (8 * f.bytes)
                 e new.1 = if mask.getLsbD i then (match f with
                     | .f32 => f32.round (Val.add (f32.value (e old.1)) (f32.value (e o.data)))
                     | .f64 => f64.round (Val.add (f64.value (e old.1)) (f64.value (e o.data)))
                     | _ => (e old.1 + e o.data) % 2 ^ (8 * f.bytes))
                   else e old.1
           | .area _ => True)) ∧
  (∀ (s : State) (stack : Fin 36) (o : Outward) (rest : List Outward) (slot : Nat) (j : Job) (f : AtomFmt) (mask : BitVec 16) (i n tag : Nat), JobsOk s →
     (s.stack stack.val).intake = o :: rest → (s.stack stack.val).away = false → o.op = .atomic f mask .ordered i n tag → s.jobById? o.job = some (slot, j) →
     s.job? slot = some j → slot < 4096 → j.state ≠ .ended → (∀ e ∈ s.jobList, e.2.id = o.job → e.1 = slot) →
     ((s.stack stack.val).rounds.any (·.isOn o) = true ∨ (s.stack stack.val).rounds.length < 64) →
     CompletesWith (exec (.orderedPart stack) s) fun t =>
       let r : Round := ((s.stack stack.val).rounds.find? (·.isOn o)).getD
         { alloc := o.alloc, job := o.job, offset := o.offset, n := n, tag := tag, next := 0 }
       let faults := n = 0 ∨ 64 < n ∨ n ≠ r.n ∨ n ≤ i ∨ i < r.next ∨ (mget none r.held i).isSome
       let held (m : Nat) : Option Outward := if m = i then some o else mget none r.held m
       (r.tag ≠ tag → (t.stack stack.val).intake = rest ∧ (t.stack stack.val).waiting = (s.stack stack.val).waiting ++ [o] ∧
         JobBecomes s t slot j ∧ OnlyTouches [.tielux] s t) ∧
       (r.tag = tag → faults → EndsWith t slot j 0x040A ∧ ∃ e ∈ t.journal.events, e.code = 0x040A ∧ e.jobId = j.id) ∧
       (r.tag = tag → ¬faults → ∀ m, r.next ≤ m → m ≤ n → (m = n ∨ held m = none) →
         (∀ a, r.next ≤ a → a < m → ∃ p g w md b c d, held a = some p ∧ p.op = .atomic g w md b c d ∧ p.step = o.step ∧ p.alloc = o.alloc ∧
           p.offset = o.offset ∧ p.job = o.job) →
         OnlyTouches [.tielux, .jobs] s t ∧ (t.stack stack.val).intake = rest ∧
         (m = n → (t.stack stack.val).rounds.any (·.isOn o) = false) ∧
         (m < n → ∃ q ∈ (t.stack stack.val).rounds, q.isOn o = true ∧ q.n = n ∧ q.tag = tag ∧ q.next = m ∧
           ∀ a, m ≤ a → mget none q.held a = held a) ∧
         ∃ k, JobBecomes s t slot k ∧ k.states = j.states ∧ k.allocs = j.allocs ∧
           (t.lineUpTo k o.step o.alloc o.offset).1 =
             ((List.range (m - r.next)).filterMap fun a => held (r.next + a)).foldl (fun v p => match p.op with
               | .atomic g w _ _ _ _ => (addElements g w v p.data).1
               | _ => v) (s.lineUpTo j o.step o.alloc o.offset).1)) ∧
  (∀ (s : State) (stack : Fin 36) (a z : List Outward) (o : Outward), (s.stack stack.val).waiting = a ++ o :: z → (s.stack stack.val).away = false →
     let ready (p : Outward) : Prop := (∃ r ∈ (s.stack stack.val).rounds, r.isOn p = true ∧ p.tag? = some r.tag) ∨ (s.stack stack.val).rounds.any (·.isOn p) = false ∧ (p.isOrdered = true → (s.stack stack.val).rounds.length < 64)
     (∀ p ∈ a, ¬ready p) → ready o →
     let s' := s.modStack stack.val fun k => { k with waiting := a ++ z, intake := o :: k.intake }
     Completes (exec (.heldPartEntry stack) s) ∧
       exec (.heldPartEntry stack) s = if o.isOrdered then exec (.orderedPart stack) s' else exec (.atomicOperation stack) s')

/-- STEP_COMMIT of a step that may commit. A shadow of the step to which an operation brought a mirage ends the job with 0x0904; a pending
cancel ends it with 0x020A after the commit; otherwise what stood at the step's end becomes what the last commit gives, and the step
leaves the queue. A shadow written at a commit (R276, R283): the one shadow of the step, on a stack that serves, becomes the committed
line of its allocation, with its markers (nothing else of the step being stored in the job's memory); in a protected stripe the parity
frame's line takes the XOR of old and new data; every other line of a stack that serves reads as before. -/
def Obligations.StepCommits : Prop :=
  (∀ (s : State) (slot : Fin 4096) (j : Job) (e : StepEnd) (rest : List StepEnd), JobsOk s → s.job? slot.val = some j → j.stepEnds = e :: rest →
     s.mayCommit j e = true →
     CompletesWith (exec (.stepCommit slot) s) fun t =>
       let marked := ∃ x ∈ j.shadows, x.step = e.step ∧ x.taken = true
       (marked → Ended t slot.val j 0x0904 ∧ ∃ v ∈ t.journal.events, v.code = 0x0916 ∧ v.jobId = j.id) ∧
       (¬marked → j.cancelPending = true → Ended t slot.val j 0x020A) ∧
       (¬marked → j.cancelPending = false → (j.waiting ≠ .finishing ∨ e.step + 1 ≠ j.step) → s.config.hubReady = true →
         ∃ k, JobBecomes s t slot.val k ∧ k.committed = e.step + 1 ∧ k.committedEpoch = e.epoch ∧ k.statesAtCommit = e.states ∧
           k.permAtCommit = e.perm ∧ k.exchAtCommit = e.exch ∧ k.countsAtCommit = e.counts ∧ k.stepEnds = rest ∧
           k.failures = (if j.failedStep = some e.step then 0 else j.failures) ∧
           k.step = j.step ∧ k.states = j.states ∧ (∀ x, x ∈ k.shadows ↔ x ∈ j.shadows ∧ x.step ≠ e.step) ∧
           k.lastStepDigest = (digestRec (s.model j) j e.states e.step).stepDigest)) ∧
  (∀ (s : State) (slot : Fin 4096) (j : Job) (e : StepEnd) (rest : List StepEnd) (x : Shadow) (p : PageRef) (o : Nat),
     s.job? slot.val = some j → j.stepEnds = e :: rest → s.mayCommit j e = true → (j.shadows.filter fun y => y.step == e.step) = [x] →
     x.taken = false → (∀ w ∈ j.areaWrites, w.step ≠ e.step) → j.keepsStates = false → j.logsDigest e.step = false → j.cancelPending = false → j.waiting ≠ .finishing → j.locate x.alloc x.offset = some (p, o) → o < pageBytes →
     p.stack < 36 → p.frame < stackFrames → (s.stack p.stack).failed = false →
     CompletesWith (exec (.stepCommit slot) s) fun t =>
       t.lineAt p o = x.data ∧ t.lineMarks p o = x.marks ∧
       (∀ q, (s.frameEntry p.stack p.frame).protectedLayout = true → s.parityOf? p = some q → q.stack ≠ p.stack → (s.stack q.stack).failed = false →
         t.lineAt q o = s.lineAt q o ^^^ (s.lineAt p o ^^^ x.data)) ∧
       ∀ (q : PageRef) (f : Nat), q.stack < 36 → q.frame < stackFrames → f < pageBytes → (s.stack q.stack).failed = false →
         ¬(q = p ∧ f / 64 = o / 64) → ¬((s.frameEntry p.stack p.frame).protectedLayout = true ∧ s.parityOf? p = some q ∧ f / 64 = o / 64) →
         t.lineAt q f = s.lineAt q f ∧ t.lineMarks q f = s.lineMarks q f)

/-! ### Result integrity -/

/-- CHECK_RESOLVE on the first unresolved check of a core of a job in the table, by the rows of R460. The checker equal to the primary
resolves the check; unequal, it is counted and logged, and in replay mode (R470) the step fails at once, otherwise the third core decides.
The third core equal to the primary resolves the check and charges the checker. CHECK_RESOLVE by a third core that does not equal the
primary. Equal to the checker, it excludes the primary, which is charged: the step keeps the majority's outputs (those the rules give, log
entry 30), every later step is rolled back, and 0x0512 is logged. Unequal to both, the step fails, and neither core is charged. -/
def Obligations.Checks : Prop :=
  (∀ (s : State) (slot : Fin 4096) (core : LogicalCore) (digest : DWord) (j : Job) (c : Check), JobsOk s → s.job? slot.val = some j → j.state ≠ .ended →
     (j.checks.find? fun x => x.cluster == core.cl && x.pos == core.pos.val && !x.resolved) = some c →
     (c.checker = none → CompletesWith (exec (.checkResolve slot core .checker digest) s) fun t =>
       t.integrity.replays = satAdd 64 s.integrity.replays 1 ∧
       (digest = s.primaryDigest c → OnlyTouches [.jobs, .integrity] s t ∧
         JobBecomes s t slot.val (j.resolve c fun x => { x with checker := some digest, resolved := true })) ∧
       (digest ≠ s.primaryDigest c → t.integrity.disagreements = satAdd 32 s.integrity.disagreements 1 ∧ Logged t 0x0511 ∧
         (s.journal.settings.replayMode = false → ∃ k, JobBecomes s t slot.val k ∧ k.fixedCadence = false ∧
           (j.fixedCadence = true → k.demoteCause = 5) ∧ k.checks = (j.resolve c fun x => { x with checker := some digest }).checks) ∧
         (s.journal.settings.replayMode = true → j.group = none → StepFailed s t slot.val c.step j ∧
           ∀ p, s.checkedCore c = some p → Charged s t (.core p)))) ∧
     (c.checker ≠ none → digest = s.primaryDigest c → CompletesWith (exec (.checkResolve slot core .third digest) s) fun t =>
       t.integrity.replays = satAdd 64 s.integrity.replays 1 ∧ t.integrity.disagreements = s.integrity.disagreements ∧
       (∃ k, t.job? slot.val = some k ∧ k.step = j.step ∧ k.states = j.states ∧ k.failures = j.failures ∧
         k.checks = (j.resolve c fun x => { x with resolved := true }).checks) ∧
       ∀ p, s.replayCore j c 0 = some p → Charged s t (.core p))) ∧
  (∀ (s : State) (slot : Fin 4096) (core : LogicalCore) (digest : DWord) (j : Job) (c : Check), JobsOk s → s.job? slot.val = some j → j.state ≠ .ended →
     j.group = none → (j.checks.find? fun x => x.cluster == core.cl && x.pos == core.pos.val && !x.resolved) = some c → c.checker ≠ none →
     digest ≠ s.primaryDigest c →
     CompletesWith (exec (.checkResolve slot core .third digest) s) fun t =>
       (c.checker = some digest →
         (∀ p, s.checkedCore c = some p → Charged s t (.core p)) ∧
         ((∃ x ∈ j.checks, x.step = c.step ∧ x.majority ≠ none) → StepFailed s t slot.val c.step j) ∧
         (∀ e, (∀ x ∈ j.checks, x.step = c.step → x.majority = none) → j.stepEnds.find? (fun e => e.step == c.step) = some e →
           Logged t 0x0512 ∧ ∀ l, (s.tilingOf j).stepLoop? (s.program j) = some l →
             ∃ k, t.job? slot.val = some k ∧ k.step = e.step + 1 ∧ k.states = e.states ∧ k.counts = e.counts ∧ k.committed = j.committed ∧
               (∀ f ∈ k.stepEnds, f.step ≤ e.step))) ∧
       (c.checker ≠ some digest → StepFailed s t slot.val c.step j ∧ t.journal.faults = s.journal.faults ∧ t.journal.retired = s.journal.retired))

/-- A parity error that an operation finds (R448, R449): FLD.ACC charges the core that holds the failed storage, MOV.FWD the sender of the
hop; the error is counted and logged, and the step fails. COPY_DIGEST_COMPARE when it is due: a set of copies in which no digest has more
than half ends the job with 0x0503; where every set agrees nothing changes; a copy in the minority of the only set is overwritten from a
majority copy, its core charged, and the job notes the last boundary without repair. -/
def Obligations.ParityAndCopies : Prop :=
  (∀ (s : State) (o : FldAccOps) (x : Site) (j : Job) (pos : Fin 64) (n : Nat), JobsOk s → Acts s o.cl x j → x.slot < 4096 → o.parity = some pos →
    x.phys pos.val = some n →
    CompletesWith (exec (.fldAcc o) s) fun t => t.integrity.parityErrors = satAdd 32 s.integrity.parityErrors 1 ∧ Logged t 0x0510 ∧
      StepFailed s t x.slot j.step j ∧ Charged s t (.core { cl := o.cl, num := Fin.ofNat 66 n })) ∧
  (∀ (s : State) (o : FwdOps) (x : Site) (j : Job) (pos : Fin 64) (n : Nat) (u : UnitRef), JobsOk s → Acts s o.cl x j → x.slot < 4096 → o.parity = some pos →
    x.phys pos.val = some n → s.hopSender x pos.val (clusterCore s o.cl n) j.cycle = some u →
    CompletesWith (exec (.movFwd o) s) fun t => t.integrity.parityErrors = satAdd 32 s.integrity.parityErrors 1 ∧ Logged t 0x0510 ∧
      StepFailed s t x.slot j.step j ∧ Charged s t u) ∧
  (∀ (s : State) (slot : Fin 4096) (j : Job) (l : Nat × Nat), JobsOk s → s.job? slot.val = some j → j.state = .running → j.committed = j.step →
     (s.tilingOf j).stepLoop? (s.program j) = some l → j.pc = l.2 → s.journal.settings.cdigestInterval ≠ 0 → j.committed ≠ 0 →
     j.committed % s.journal.settings.cdigestInterval = 0 →
     let sets := copySets (s.program j) (s.tilingOf j)
     let agrees (set : List PreloadRun) (d : Bytes) : Prop := set.length < 2 * ((set.map (s.copyDigest j)).filter (· == d)).length
     CompletesWith (exec (.copyDigestCompare slot) s) fun t =>
       ((∀ set ∈ sets, set ≠ [] ∧ ∃ d, ∀ r ∈ set, s.copyDigest j r = d) → t = s) ∧
       (∀ set more, sets = set :: more → (∀ d, ¬agrees set d) → Ended t slot.val j 0x0503) ∧
       (∀ set r d n, sets = [set] → agrees set d → (set.filter fun x => s.copyDigest j x != d) = [r] →
         (s.cluster (j.runCluster r)).coreMap.getD r.core none = some n →
         t.copyDigest j r = d ∧ Charged s t (.core (physOf (j.runCluster r) n)) ∧ Logged t 0x0517 ∧
         ∃ k, t.job? slot.val = some k ∧ k.copyRepaired = true ∧
           (j.copyRepaired = false → k.copyRepairStep = j.committed - s.journal.settings.cdigestInterval)))

/-- OASIS_COPY_DONE and CLUSTER_DEGRADED. A complete copy in a cluster that no job holds moves its position to the spare with the core's
contents, and the core left takes the state of R206 or R207; under a job it is marked, to switch at the next STEP mark. A cluster that no
job holds has its map built from its good cores: with fewer than 60 its half is failed, with 60 positions 0x0519 is logged.
OBSERVATION_END, KAK_COMPLETE and KAK_TIMEOUT. Observation of a unit ends, and without a confirmed fault its count returns to zero. A
known-answer kernel on an awake half that does not give the published digest is counted, logged and charged to its core. A kernel that is
abandoned leaves the rotation where it was. -/
def Obligations.CoreMapsAndUnits : Prop :=
  (∀ (s : State) (cl : ClusterRef) (spare : Bool) (q : CoreCopy), MapsOk s → (s.cluster cl.key).copy = some q →
    (q.dest = (if spare then 65 else 64) ∨ q.source = if spare then 65 else 64) →
    CompletesWith (exec (.oasisCopyDone cl spare) s) fun t => OnlyTouches [.clusters] s t ∧
      (∀ k, k ≠ cl.key → t.cluster k = s.cluster k) ∧
      ((s.halfJob? cl.half).isSome → t.cluster cl.key = { s.cluster cl.key with copy := some { q with done := true } }) ∧
      (s.halfJob? cl.half = none →
        (t.cluster cl.key).coreMap = (s.cluster cl.key).coreMap.set q.pos (some q.dest) ∧
        clusterCore t cl q.dest = clusterCore s cl q.source ∧ (t.cluster cl.key).copy = none ∧
        (∀ n, n ≠ q.dest → n ≠ q.source → clusterCore t cl n = clusterCore s cl n) ∧
        (q.dest = 64 → (t.cluster cl.key).o0 = .holding) ∧ (q.dest = 65 → (t.cluster cl.key).o1 = .holding) ∧
        (t.cluster cl.key).swapCount = satAdd 32 (s.cluster cl.key).swapCount 1)) ∧
  (∀ (s : State) (cl : ClusterRef), s.halfJob? cl.half = none →
    CompletesWith (exec (.clusterDegraded cl) s) fun t =>
      let good := s.goodCores cl.key
      let n := if s.grade = 0x41 ∧ 64 ≤ good.length then 64 else if 60 ≤ good.length then 60 else 0
      (t.cluster cl.key).mapBuilt = true ∧ (t.cluster cl.key).copy = none ∧ (t.cluster cl.key).degraded = decide (n < 64) ∧
      (∀ p < 64, ∀ m, (t.cluster cl.key).coreMap[p]? = some (some m) → p < n ∧ m ∈ good ∧ (p ∈ good → m = p)) ∧
      (∀ p < n, ∃ m, (t.cluster cl.key).coreMap[p]? = some (some m)) ∧
      (n = 0 → (t.half cl.half).failed = true) ∧ (n ≠ 0 → t.half cl.half = s.half cl.half) ∧ (n = 60 → Logged t 0x0519)) ∧
  (∀ (s : State) (cl : ClusterRef) (slot : Nat × Job), s.halfJob? cl.half = some slot → exec (.clusterDegraded cl) s = .next s) ∧
  (∀ (s : State) (u : UnitRef) (o : UnitRef × Bool), (s.integrity.observed.find? fun x => x.1 == u) = some o →
    CompletesWith (exec (.observationEnd u) s) fun t => OnlyTouches [.health, .integrity] s t ∧
      t.integrity.observed = (s.integrity.observed.filter fun x => x.1 != u) ∧
      mget 0 t.journal.faults u.code = (if o.2 then mget 0 s.journal.faults u.code else 0) ∧
      ∀ c, c ≠ u.code → mget 0 t.journal.faults c = mget 0 s.journal.faults c) ∧
  (∀ (s : State) (p : PhysCore) (kernel : Fin 16) (digest : DWord), (s.half p.cl.half).clocked = true →
    CompletesWith (exec (.kakComplete p kernel digest) s) fun t =>
      (digest = Config.kakDigest kernel.val → OnlyTouches [.dies] s t) ∧
      (digest ≠ Config.kakDigest kernel.val → t.integrity.kakFailed = satAdd 32 s.integrity.kakFailed 1 ∧ Logged t 0x0516 ∧ Charged s t (.core p)) ∧
      ((s.die p.cl.die.val).nextKakCore = dieCore p → (s.die p.cl.die.val).kakKernel = kernel.val →
        (t.die p.cl.die.val).nextKakCore = (dieCore p + 1) % 4224)) ∧
  (∀ (s : State) (die : Fin 6), CompletesWith (exec (.kakTimeout die) s) fun t => OnlyTouches [.dies] s t ∧
    ∀ d, t.die d = if d = die.val then { s.die d with kakCore := none } else s.die d)

/-! ### Tielux memory -/

/-- SECTOR_READ of a current sector on a serving stack, no data die failing and no job waiting for it, by the rows of R258. One wrong
symbol is corrected and its write-back is pending; two bring a reread, whose outcome is treated in the same way; a reread with two wrong
symbols is reconstructed in a protected stripe where the other frames can be read, and otherwise becomes a mirage, or, a mirage already,
stays one and is not counted again (R272). SECTOR_READ elsewhere. A frame above the last one does not exist (the model's fault). A failed
stack serves a protected sector by a degraded read, counted, and an unprotected one not at all. A data die that fails brings the spare die
in, or, if that serves another die, fails the stack. A job that waits for a reread is held, and demoted first with cause 1 (R259). -/
def Obligations.Sectors : Prop :=
  (∀ (s : State) (r : SectorRef) (raw : SectorRaw), r.frame < stackFrames → (s.stack r.stack.val).failed = false → raw.dieFailed = false →
     s.sectorCurrent r.stack.val r.frame r.sector.val = true →
     CompletesWith (exec (.sectorRead r raw none) s) fun t =>
       let k := s.stack r.stack.val
       let l := t.stack r.stack.val
       let a := (wrongSymbols raw.first).length
       let b := (wrongSymbols raw.again).length
       let key := tagKey r.frame r.sector.val
       (a = 0 → t = s) ∧
       (a = 1 → OnlyTouches [.tielux] s t ∧ l.ceCount = satAdd 32 k.ceCount 1 ∧ l.retryCount = k.retryCount ∧ key ∈ l.writebacks) ∧
       (a = 2 → l.retryCount = satAdd 32 k.retryCount 1 ∧ rowOf r.frame r.sector.val ∈ l.rowsToSpare) ∧
       (a = 2 → b = 0 → OnlyTouches [.tielux] s t ∧ l.ceCount = k.ceCount ∧ key ∈ l.writebacks) ∧
       (a = 2 → b = 1 → OnlyTouches [.tielux] s t ∧ l.ceCount = satAdd 32 k.ceCount 1 ∧ key ∈ l.writebacks) ∧
       (a = 2 → b = 2 → s.canReconstruct r.stack.val r.frame r.sector.val = true → OnlyTouches [.tielux, .mem] s t ∧
         l.reconCount = satAdd 32 k.reconCount 1 ∧ l.mirageCount = k.mirageCount ∧
         t.tagOf r.stack.val r.frame r.sector.val = { gen := (s.frameEntry r.stack.val r.frame).gen }) ∧
       (a = 2 → b = 2 → s.canReconstruct r.stack.val r.frame r.sector.val = false → t.rawSectorPoison r.stack.val r.frame r.sector.val = true ∧
         ((s.tagOf r.stack.val r.frame r.sector.val).mirage = true → OnlyTouches [.tielux, .mem] s t ∧ l.mirageCount = k.mirageCount) ∧
         ((s.tagOf r.stack.val r.frame r.sector.val).mirage = false → l.mirageCount = satAdd 32 k.mirageCount 1 ∧ Logged t 0x0916 ∧
           ∀ o ∈ t.objects.held, { stack := r.stack.val, frame := r.frame } ∈ o.pages → o.damaged = true))) ∧
  (∀ (s : State) (r : SectorRef) (raw : SectorRaw) (job : Option (Fin 4096)), stackFrames ≤ r.frame →
    exec (.sectorRead r raw job) s = .fault (.noSuchFrame r.stack.val r.frame) ∧
    exec (.correctedWriteback r) s = .fault (.noSuchFrame r.stack.val r.frame) ∧
    exec (.stripeMove r.stack r.frame) s = .fault (.noSuchFrame r.stack.val r.frame) ∧
    exec (.frameCleared r.stack r.frame) s = .fault (.noSuchFrame r.stack.val r.frame)) ∧
  (∀ (s : State) (r : SectorRef) (raw : SectorRaw), r.frame < stackFrames → (s.stack r.stack.val).failed = true →
    CompletesWith (exec (.sectorRead r raw none) s) fun t =>
      ((s.frameEntry r.stack.val r.frame).protectedLayout = false → t = s) ∧
      ((s.frameEntry r.stack.val r.frame).protectedLayout = true → OnlyTouches [.tielux] s t ∧
        (t.stack r.stack.val).reconCount = satAdd 32 (s.stack r.stack.val).reconCount 1)) ∧
  (∀ (s : State) (r : SectorRef) (raw : SectorRaw) (job : Option (Fin 4096)), r.frame < stackFrames → (s.stack r.stack.val).failed = false →
    raw.dieFailed = true → s.sectorCurrent r.stack.val r.frame r.sector.val = false →
    CompletesWith (exec (.sectorRead r raw job) s) fun t =>
      let g := bankDie (bankOf r.frame r.sector.val)
      ((s.stack r.stack.val).spareState = .unused → (t.stack r.stack.val).spareState = .copying ∧ (t.stack r.stack.val).sparedDie = g ∧ Logged t 0x0912) ∧
      ((s.stack r.stack.val).spareState ≠ .unused → (s.stack r.stack.val).sparedDie ≠ g → (t.stack r.stack.val).failed = true ∧ Logged t 0x0913)) ∧
  (∀ (s : State) (r : SectorRef) (raw : SectorRaw) (slot : Fin 4096) (j : Job), r.frame < stackFrames → (s.stack r.stack.val).failed = false →
    raw.dieFailed = false → s.sectorCurrent r.stack.val r.frame r.sector.val = true →
    (wrongSymbols raw.first).length = 2 → s.job? slot.val = some j → j.state = .running →
    CompletesWith (exec (.sectorRead r raw (some slot)) s) fun t => ∃ k, JobBecomes s t slot.val k ∧ k.hold.isSome ∧ k.fixedCadence = false ∧
      (j.fixedCadence = true → k.demoted = true ∧ k.demoteCause = 1))

/-- CORRECTED_WRITEBACK, REFRESH_WINDOW and FIXED_CADENCE_REFRESH: a write-back is pending no more; a window on a stack that serves is
counted and takes the due rows of its bank group, each to a spare row of its bank while one is left; a base die places none while its
stack serves a fixed-cadence job, whose program places them at the cadence cycles of R321, on the stacks that its fixed allocations name
(R196, R281). STACK_HOT, STACK_COOL, STACK_SELF_REFRESH and STACK_WAKE. A stack turns hot or cool once, and each change is logged; an idle
stack goes into self-refresh with its clocks stopped, and wakes to serve unless its temperature keeps it there or the S6 is hub-only. No
byte of memory changes. STACK_IMBALANCE and IMBALANCE_REPEAT. A stack's window is judged by the ratio of R287: IMBALANCED says whether an
elastic job's operations on it exceeded four times their mean, and a change of it is logged; while it stands the event is logged again,
and otherwise nothing is. -/
def Obligations.RefreshAndModes : Prop :=
  (∀ (s : State) (r : SectorRef), r.frame < stackFrames → CompletesWith (exec (.correctedWriteback r) s) fun t => OnlyTouches [.tielux] s t ∧
    ∀ k, t.stack k = if k = r.stack.val then
        { s.stack k with writebacks := (s.stack k).writebacks.filter fun w => w != tagKey r.frame r.sector.val }
      else s.stack k) ∧
  (∀ (s : State) (stack : Fin 36) (bank : Fin 4), CompletesWith (exec (.refreshWindow stack bank) s) fun t =>
    let k := s.stack stack.val
    let l := t.stack stack.val
    (s.servesFixed stack.val = true ∨ k.failed = true ∨ k.selfRefresh = true → t = s) ∧
    (s.servesFixed stack.val = false → k.failed = false → k.selfRefresh = false →
      l.refreshes = satAdd 64 k.refreshes 1 ∧ (∀ r, r ∈ l.rowsToSpare ↔ r ∈ k.rowsToSpare ∧ bankGroup (r / 65536) ≠ bank.val) ∧
      ((k.rowsToSpare.filter fun r => bankGroup (r / 65536) == bank.val) = [] → OnlyTouches [.tielux] s t) ∧
      ∀ row, (k.rowsToSpare.filter fun r => bankGroup (r / 65536) == bank.val) = [row] →
        mget 0 k.spareRows (row / 65536) < 64 →
          l.rowsSpared = satAdd 16 k.rowsSpared 1 ∧ mget 0 l.spareRows (row / 65536) = mget 0 k.spareRows (row / 65536) + 1 ∧ Logged t 0x0911)) ∧
  (∀ (s : State) (slot : Fin 4096) (bank : Fin 4) (j : Job), s.job? slot.val = some j → j.fixedCadence = true → j.state = .running →
    (∀ k, (s.stack k).rowsToSpare = []) →
    CompletesWith (exec (.fixedCadenceRefresh slot bank) s) fun t =>
      let due := ((j.cadence : Int) - bank.val * (390 * j.setting / 4)) % (390 * j.setting) < 35 * j.setting
      (¬due → t = s) ∧
      (due → OnlyTouches [.tielux] s t ∧ ∀ k < 36, (t.stack k).refreshes =
        if j.namesStack k = true ∧ (s.stack k).failed = false ∧ (s.stack k).selfRefresh = false then satAdd 64 (s.stack k).refreshes 1
        else (s.stack k).refreshes)) ∧
  (∀ (s : State) (stack : Fin 36),
     let k := s.stack stack.val
     (CompletesWith (exec (.stackHot stack) s) fun t => OnlyTouches [.tielux, .transport, .events, .headers] s t ∧ (t.stack stack.val).hot = true ∧
       (k.hot = true → t = s) ∧ (k.hot = false → (t.stack stack.val).hotSince = s.nowNs ∧ Logged t 0x0914)) ∧
     (CompletesWith (exec (.stackCool stack) s) fun t => OnlyTouches [.tielux, .transport, .events, .headers] s t ∧ (t.stack stack.val).hot = false ∧
       (k.hot = false → t = s) ∧
       (k.hot = true → (t.stack stack.val).hotTimeMs = satAdd 32 k.hotTimeMs ((s.nowNs - k.hotSince) / 1000000) ∧ Logged t 0x0914)) ∧
     (CompletesWith (exec (.stackSelfRefresh stack) s) fun t => OnlyTouches [.tielux] s t ∧
       t.stack stack.val = if k.intake = [] ∧ k.waiting = [] then { k with selfRefresh := true, clocked := false } else k) ∧
     (CompletesWith (exec (.stackWake stack) s) fun t => OnlyTouches [.tielux] s t ∧
       t.stack stack.val = if k.thermal = .selfRefresh ∨ s.unitsMayRun = false then k else { k with selfRefresh := false, clocked := true })) ∧
  (∀ (s : State) (stack : Fin 36), (s.stack stack.val).unjudged = true →
    CompletesWith (exec (.stackImbalance stack) s) fun t => OnlyTouches [.tielux, .transport, .events, .headers] s t ∧
      let high := ∃ e ∈ s.jobList, e.2.state.resident = true ∧ e.2.fixedCadence = false ∧ (∃ p ∈ e.2.pages, p.stack = stack.val) ∧
        4 * (((List.range 36).filter fun u => e.2.pages.any fun p => p.stack == u).map fun u => mget 0 (s.stack u).windowOps e.2.id).sum <
          mget 0 (s.stack stack.val).windowOps e.2.id * ((List.range 36).filter fun u => e.2.pages.any fun p => p.stack == u).length
      ((t.stack stack.val).imbalanced = true ↔ high) ∧ (t.stack stack.val).unjudged = false ∧
      (((s.stack stack.val).imbalanced = true ↔ high) → OnlyTouches [.tielux] s t) ∧
      (¬((s.stack stack.val).imbalanced = true ↔ high) → Logged t 0x0910)) ∧
  (∀ (s : State) (stack : Fin 36), CompletesWith (exec (.imbalanceRepeat stack) s) fun t =>
    ((s.stack stack.val).imbalanced = false → t = s) ∧
    ((s.stack stack.val).imbalanced = true → OnlyTouches [.transport, .events, .headers] s t ∧ Logged t 0x0910))

/-- DIE_SPARE_DONE and STACK_FAILED. The spare die enters service with spare rows of its own. A stack that fails is marked and logged;
every job in the table with an unprotected page on it, or with a protected one in a stripe that spans it and a stack failed before, ends
with 0x0905, and every image with one is marked DAMAGED (R285, R286). STRIPE_MOVE of a page that may move, where a healthy stripe has
room: every place that names the page names its new frame, in which each line that is not zero reads as it read, and the old frame is
free. Where no stripe has room, and for a page that may not move, nothing changes. SCRUB_READ and FRAME_CLEARED on a serving stack. The
scrub goes on behind the next current sector of a frame in use, and past the last one a pass is complete. A free frame that is cleared
holds no written byte, starts a new generation count, and may be offered. -/
def Obligations.SparesAndMoves : Prop :=
  (∀ (s : State) (stack : Fin 36), (s.stack stack.val).spareState = .copying →
    CompletesWith (exec (.dieSpareDone stack) s) fun t =>
      let k := s.stack stack.val
      let l := t.stack stack.val
      l.spareState = .inService ∧ l.spareCopyFrame = stackFrames ∧ l.sparedDie = k.sparedDie ∧ (∀ r ∈ l.rowsToSpare, bankDie (r / 65536) ≠ k.sparedDie) ∧
        (∀ b n, (b, n) ∈ l.spareRows ↔ (b, n) ∈ k.spareRows ∧ bankDie b ≠ k.sparedDie) ∧ Logged t 0x0912 ∧
        ∀ u, u ≠ stack.val → t.stack u = s.stack u) ∧
  (∀ (s : State) (stack : Fin 36), JobsOk s → (s.stack stack.val).failed = false →
    CompletesWith (exec (.stackFailed stack) s) fun t =>
      let lost : PageRef → Prop := fun p => if (s.frameEntry p.stack p.frame).protectedLayout = true then
          stack.val ∈ groupStacks p.stack ∧ (s.frameEntry stack.val p.frame).protectedLayout = true ∧
            ∃ u ∈ groupStacks p.stack, (s.stack u).failed = true ∧ (s.frameEntry u p.frame).protectedLayout = true
        else p.stack = stack.val
      (t.stack stack.val).failed = true ∧ Logged t 0x0913 ∧
      (∀ e < 4096, ∀ j, s.job? e = some j → j.state ≠ .ended → (∃ p ∈ j.pages, lost p) → EndsWith t e j 0x0905) ∧
      ∀ o ∈ t.objects.held, (∃ p ∈ o.pages, lost p) → o.damaged = true) ∧
  (∀ (s : State) (stack : Fin 36) (frame : Nat), frame < stackFrames →
     CompletesWith (exec (.stripeMove stack frame) s) fun t =>
       let p : PageRef := { stack := stack.val, frame := frame }
       (s.movable p = false → t = s) ∧
       (s.movable p = true → s.takeFrom (s.frameEntry stack.val frame).use true (stacksFrom stack.val) = none → t = s) ∧
       ∀ u q, s.movable p = true → s.takeFrom (s.frameEntry stack.val frame).use true (stacksFrom stack.val) = some (u, q) →
         (t.frameEntry p.stack p.frame).use = .free ∧
         (∀ e j, s.job? e = some j → ∃ k, t.job? e = some k ∧
           k = { j with contextPages := j.contextPages.map fun x => if x = p then q else x,
                        allocs := j.allocs.map fun a => { a with pages := a.pages.map fun x => if x = p then q else x } }) ∧
         t.objects.held = s.objects.held.map (fun o => { o with pages := o.pages.map fun x => if x = p then q else x }) ∧
         ∀ i < 32768, s.lineAt p (64 * i) ≠ 0 → t.lineAt q (64 * i) = s.lineAt p (64 * i)) ∧
  (∀ (s : State) (stack : Fin 36) (raw : SectorRaw), CompletesWith (exec (.scrubRead stack raw) s) fun t =>
    ((s.stack stack.val).failed = true ∨ s.unitsMayRun = false → t = s) ∧
    (s.unitsMayRun = true → (s.stack stack.val).failed = false → s.scrubNext? stack.val = none → OnlyTouches [.tielux] s t ∧
      t.stack stack.val = { s.stack stack.val with scrubPasses := ((s.stack stack.val).scrubPasses + 1) % 256, scrubSector := 0 }) ∧
    (∀ x, s.unitsMayRun = true → (s.stack stack.val).failed = false → s.scrubNext? stack.val = some x → (t.stack stack.val).scrubSector = x + 1 ∧
      (raw.dieFailed = false → wrongSymbols raw.first = [] → OnlyTouches [.tielux] s t ∧
        (t.stack stack.val).lineOps = satAdd 64 (s.stack stack.val).lineOps 1))) ∧
  (∀ (s : State) (stack : Fin 36) (frame : Nat), frame < stackFrames → (s.frameEntry stack.val frame).cleared = false →
    (s.stack stack.val).failed = false →
    (s.frameEntry stack.val frame).use = .free →
    CompletesWith (exec (.frameCleared stack frame) s) fun t => OnlyTouches [.tielux, .mem] s t ∧
      t.frameEntry stack.val frame = { cleared := true } ∧ (t.stack stack.val).uncleared = (s.stack stack.val).uncleared - 1 ∧
      (∀ e ∈ t.mem, e.1 < memKey stack.val frame 0 ∨ memKey stack.val (frame + 1) 0 ≤ e.1) ∧
      ∀ e ∈ s.mem, e.1 < memKey stack.val frame 0 ∨ memKey stack.val (frame + 1) 0 ≤ e.1 → e ∈ t.mem)

/-! ### The job engine -/

/-- JOB_ADMISSION and WAIT_LIMIT. While the hub is not READY or runs alone, no job is admitted. The one job that waits enters the region
of its first tiling in order when halves, watts and memory are there: at its CLOCK, with a reserved grant where it runs in fixed cadence;
a named stack that cannot supply its share ends it with 0x0903. A job that has waited 10 s is marked, unless it is held. SEEDING_DONE and
RESTORE_DONE of a job whose halves are ready, clocked and locked. A job without a context starts from its initial states at word 0, or, in
a run group, stays for the start barrier and tells READY to its neighbours. A restored job runs on from its context's step, seed and
sweeps, as its context area holds them (R277). -/
def Obligations.Admission : Prop :=
  (∀ s : State, s.config.hubReady = false ∨ s.config.hubOnly = true → exec .admitJob s = .next s) ∧
  (∀ (s : State) (slot k : Nat) (ks region : List Nat) (j : Job), JobsOk s → s.config.hubReady = true → s.config.hubOnly = false →
    s.waitingOrder = [(slot, j)] → s.job? slot = some j → slot < 4096 → j.endAsked = none → j.cancelPending = false → s.contextStuck j = none → s.tilingOrder j = k :: ks →
    s.placeJob j k (s.halfFree j.owner) = some region → region.length * halfWatts j.body.clock ≤ s.availWatts slot →
    CompletesWith (exec .admitJob s) fun t =>
      (∀ u allocs ctx, s.reserveJob j k region = .ok (u, allocs, ctx) → t.jobs.admissions = s.jobs.admissions + 1 ∧
        (∀ h ∈ region, (t.half h).setting = j.body.clock) ∧
        ∃ q, t.job? slot = some q ∧ q.id = j.id ∧ q.state = (if j.state = .preempted then .restoring else .admitting) ∧ q.tiling = k ∧
          q.region = region ∧ q.setting = j.body.clock ∧ q.reserved = s.wantsFixed j ∧ q.allocs = allocs ∧ q.contextPages = ctx) ∧
      (s.reserveJob j k region = .stack → Ended t slot j 0x0903)) ∧
  (∀ (s : State) (slot : Fin 4096) (j : Job), s.job? slot.val = some j →
    CompletesWith (exec (.waitLimit slot) s) fun t => OnlyTouches [.jobs] s t ∧
      JobBecomes s t slot.val (if (j.state = .waiting ∨ j.state = .preempted) ∧ j.heldBySuspend = false then { j with waitLimit := true } else j)) ∧
  (∀ (s : State) (slot : Fin 4096) (j : Job), s.job? slot.val = some j → j.state = .admitting → j.seeded = false → s.regionReady j = true →
    s.config.hubReady = true → s.contextRead j = [] → s.contextOf j = [] →
    CompletesWith (exec (.seedingDone slot) s) fun t => OnlyTouches [.clusters, .halves, .tielux, .mem, .jobs, .transport] s t ∧
      ∃ k, JobBecomes s t slot.val k ∧ k.id = j.id ∧ k.seeded = true ∧ k.pc = 0 ∧ k.loops = [] ∧ k.waiting = .no ∧ k.hold = none ∧ k.step = j.step ∧
        k.states = s.initialStates j ∧ k.sweepsLeft = (j.body.params.getD 0 0).toNat ∧
        (s.isGroupJob j = false → k.state = .running) ∧
        (s.isGroupJob j = true → k.state = .admitting ∧ ∀ g m n, j.group = some g → g.neighbour? m = some n → n.sessOpen = true →
          (s.session? n.sess).isSome → Delivers t n.sess (.barrier 2 g.groupId g.member 0 0 j.epoch))) ∧
  (∀ (s : State) (slot : Fin 4096) (j : Job), s.job? slot.val = some j → j.state = .restoring → s.regionReady j = true →
    s.contextMarked j = false → s.contextRead j ≠ [] → j.fixedCadence = false →
    CompletesWith (exec (.restoreDone slot) s) fun t =>
      ∃ k, JobBecomes s t slot.val k ∧ k.id = j.id ∧ k.state = .running ∧ k.seeded = true ∧ k.pc = 0 ∧ k.loops = [] ∧
        k.step = ctxStep (s.contextRead j) ∧ k.committed = k.step ∧ k.seed = ctxSeed (s.contextRead j) ∧ k.sweepsLeft = ctxSweeps (s.contextRead j) ∧
        k.statesAtCommit = k.states ∧ k.permAtCommit = k.perm)

/-- PREEMPTION_POINT, CONTEXT_WRITTEN and CANCEL_TIMEOUT (R295, R310, R313, R335). A running job stops at the barrier once a stop is asked
for and its step has committed; its word has issued (R332). With its context written it gives up region and grant, and keeps its memory;
an end or a cancel that came meanwhile ends it (R294). A cancelled job that meets no commit in time ends with 0x020A, one that writes its
context when that is written. SETTING_CHANGE, PLL_LOCK and HALF_CLOCK_STOP. An elastic job's new setting makes its halves relock, and a
running job issues again when the last is locked, the pause (a free value of at most 8 µs, log entry 6) held time outside the cadence. An
unusable PLL does not lock, and none starts a unit while the S6 is hub-only (R5, R6); any other runs its domain. A half that no job holds
stops, and with the die's last running half the spine. -/
def Obligations.PreemptionAndSettings : Prop :=
  (∀ (s : State) (slot : Fin 4096) (j : Job), s.job? slot.val = some j →
    CompletesWith (exec (.preemptionPoint slot) s) fun t =>
      let stops := j.state = .running ∧ j.waiting = .barrier .preempt ∧ j.committed = j.step ∧
        (j.preemptPending = true ∨ ∃ n, j.suspendAt = some n ∧ n ≤ j.step)
      (stops → OnlyTouches [.jobs] s t ∧ JobBecomes s t slot.val { j.tick with state := .preempting, waiting := .no, hold := none }) ∧ (¬stops → t = s)) ∧
  (∀ (s : State) (slot : Fin 4096) (j : Job), JobsOk s → s.job? slot.val = some j → j.state = .preempting →
    CompletesWith (exec (.contextWritten slot) s) fun t =>
      (∀ e, j.endAsked = some e → Ended t slot.val j (BitVec.ofNat 16 e.1)) ∧
      (j.endAsked = none → j.cancelPending = true → Ended t slot.val j 0x020A) ∧
      (j.endAsked = none → j.cancelPending = false → ∃ k, t.job? slot.val = some k ∧ k.id = j.id ∧ k.state = .preempted ∧
        k.context = s.contextBytes j ∧ k.region = [] ∧ k.reserved = false ∧ k.allocs = j.allocs ∧ k.step = j.step ∧ k.committed = j.committed ∧
        k.heldBySuspend = (j.heldBySuspend || j.suspendAt.any fun n => decide (n ≤ j.step)))) ∧
  (∀ (s : State) (slot : Fin 4096) (j : Job), JobsOk s → s.job? slot.val = some j →
    CompletesWith (exec (.cancelTimeout slot) s) fun t =>
      let due := j.cancelPending = true ∧ j.state ≠ .preempting ∧ j.state ≠ .ended
      (due → Ended t slot.val j 0x020A) ∧ (¬due → t = s)) ∧
  (∀ (s : State) (slot : Fin 4096) (j : Job), s.job? slot.val = some j →
    CompletesWith (exec (.settingChange slot) s) fun t =>
      let due := j.state.resident = true ∧ j.reserved = false ∧ j.setting ≠ j.targetSetting ∧ j.hold = none
      (¬due → t = s) ∧
      (due → OnlyTouches [.halves, .jobs] s t ∧
        JobBecomes s t slot.val { j with setting := j.targetSetting, relocking := decide (j.state = .running) } ∧
        ∀ h, t.half h = if h ∈ j.region ∧ (s.half h).setting ≠ j.targetSetting then { s.half h with setting := j.targetSetting, locked := false }
          else s.half h)) ∧
  (∀ (s : State) (p : Pll),
    CompletesWith (exec (.pllLock p) s) fun t =>
      (mget false s.clocks.pllUnusable (pllCode p) = true ∨ (s.unitsMayRun = false ∧ s.unitStopped p = true) → t = s) ∧
      (mget false s.clocks.pllUnusable (pllCode p) = false → (s.unitsMayRun = true ∨ s.unitStopped p = false) →
        mget false t.clocks.jitterWaits (pllCode p) = false ∧
        t.clocks.jitterRelocks = satAdd 32 s.clocks.jitterRelocks (bit (mget false s.clocks.jitterWaits (pllCode p))) ∧
        match p with
        | .half h => t.half h.val = { s.half h.val with clocked := true, locked := true } ∧
            ∀ slot j, s.halfJob? h.val = some (slot, j) → s.job? slot = some j → j.relocking = true →
              ((∀ x ∈ j.region, x = h.val ∨ (s.half x).locked = true) →
                ∃ n, n ≤ 800 * j.setting ∧ JobBecomes s t slot { j with relocking := false, heldCycles := j.heldCycles + n }) ∧
              (¬(∀ x ∈ j.region, x = h.val ∨ (s.half x).locked = true) → JobBecomes s t slot j)
        | .spine d => t.die d.val =
            let n := max (s.half (2 * d.val)).setting (s.half (2 * d.val + 1)).setting
            { s.die d.val with spineClocked := true, spineLocked := true, spineSetting := n }
        | .stack k => t.stack k.val = { s.stack k.val with clocked := true, pllLocked := true }
        | .hub => t.clocks.hubLocked = true
        | .serdes => t.clocks.serdesLocked = true)) ∧
  (∀ (s : State) (half : Fin 12),
    CompletesWith (exec (.halfClockStop half) s) fun t =>
      ((s.halfJob? half.val).isSome → t = s) ∧
      (s.halfJob? half.val = none → OnlyTouches [.halves, .dies] s t ∧
        (∀ h, t.half h = if h = half.val then { unusable := (s.half h).unusable, failed := (s.half h).failed } else s.half h) ∧
        let other := 4 * (half.val / 2) + 1 - half.val
        ∀ d, t.die d = if d = half.val / 2 ∧ (s.half other).clocked = false then
            { s.die d with spineClocked := false, spineLocked := false, spineSetting := 0 }
          else s.die d))

/-! ### Bring-up and resets -/

/-- A bring-up event: a unit becomes ready when its conditions hold, and otherwise the state stands. A hub that becomes READY completes
the RESET commands that waited for it (R404); a half whose maps stand runs; a failed stack, or one that is too hot, does not; neither
comes up before a hub start has verified the configuration record, nor in a hub-only S6 (R5, R6). READY_TIMEOUT of a unit, no job waiting
for it if it is a half: one that is ready stands; one that is not is logged as 0x0828 and marked unusable. A hub that misses its bound
runs from the boot ROM (R498, R540). -/
def Obligations.BringUp : Prop :=
  (∀ (s : State) (u : ReadyUnit), CompletesWith (exec (.unitReady u) s) fun t =>
     match u with
     | .aon => (s.power.vaonOn = true → OnlyTouches [.clocks] s t ∧ t.clocks = { s.clocks with refRunning := true }) ∧ (s.power.vaonOn = false → t = s)
     | .hub =>
       let due := s.power.vhubOn = true ∧ s.config.hubStarted = true ∧ s.config.bootRom = false ∧ s.config.hubReady = false
       (due → OnlyTouches [.transport, .streams, .config] s t ∧ t.config = { s.config with hubReady := true } ∧ t.journal.resetDone = [] ∧
         ∀ r ∈ s.journal.resetDone, Told s t r.1 r.2 .done 0) ∧ (¬due → t = s)
     | .port => (s.port.linkUp = true → t = { s with config := { s.config with portUnusable := false } }) ∧ (s.port.linkUp = false → t = s)
     | .entropy => (s.entropy.ready = true → t = { s with config := { s.config with entropyUnusable := false } }) ∧ (s.entropy.ready = false → t = s)
     | .half h =>
       let may := (s.half h.val).failed = false ∧ (s.half h.val).unusable = false ∧ (s.die (h.val / 2)).railOff = false ∧
         s.dieUsable (h.val / 2) = true ∧ s.unitsMayRun = true
       (¬may → t = s) ∧
       (may → (∀ k ∈ halfClusters h.val, (s.cluster k).mapBuilt = true) → OnlyTouches [.halves, .dies, .clocks] s t ∧
         (t.half h.val).ready = true ∧ (t.half h.val).clocked = true ∧ ∀ x, x ≠ h.val → t.half x = s.half x)
     | .stack k => OnlyTouches [.tielux] s t ∧
       t.stack k.val =
         let x := s.stack k.val
         if x.failed = true ∨ x.unusable = true ∨ x.thermal = .selfRefresh ∨ s.unitsMayRun = false then x
         else { x with ready := true, clocked := true, pllLocked := true, selfRefresh := false }) ∧
  (∀ (s : State) (u : ReadyUnit),
     (∀ h, u = .half h → ∀ e ∈ s.jobList, ¬(e.2.region.contains h.val = true ∧ (e.2.state = .admitting ∨ e.2.state = .restoring))) →
     CompletesWith (exec (.readyTimeout u) s) fun t =>
       (s.isReady u = true → t = s) ∧
       (s.isReady u = false → Logged t 0x0828 ∧ OnlyTouches [.halves, .tielux, .transport, .events, .headers, .security, .config] s t ∧
         match u with
         | .aon => True
         | .hub => t.config.bootRom = true ∧ t.config.hubUnusable = true ∧ t.security.flashOk = false ∧ t.security.firmware = []
         | .port => t.config.portUnusable = true
         | .entropy => t.config.entropyUnusable = true
         | .half h => t.half h.val = { s.half h.val with unusable := true }
         | .stack k => t.stack k.val = { s.stack k.val with unusable := true }))

/-- PORT_RESET, HUB_WARM_RESET and MODULE_WARM_RESET (R271, R400 to R402). A port reset retrains as DR8 on MAC instance A with no failed
lane. Hub and module warm resets end every session and every open load, stop the hub and rest the stacks, and keep every byte of memory;
in a hub warm reset each job outside run groups that does not run in fixed cadence goes on, and in a module warm reset the compute dies
and every resident job start over. HANG_RESET and DIE_RESET: the die of a half whose job issues and hangs is reset, which 0x0518 names; a
die reset restarts the die and the jobs with a half on it, and is counted. RESET (R404, R478): an operator's is refused with 0x0601. An
installer's is audited and accepted, and its class is carried out; a reset of the port or of a die completes at once, and one that
restarts the hub when the hub is READY again. -/
def Obligations.ResetClasses : Prop :=
  (∀ s : State, CompletesWith (exec .portReset s) fun t => OnlyTouches [.transport, .events, .starts, .headers, .port] s t ∧
    t.port.linkUp = false ∧ t.port.mode = .down ∧ t.port.training = .dr8 ∧ t.port.laneFailed = 0 ∧ t.port.macB = false ∧
    t.port.preemptActive = false ∧ t.journal.resetCount = (s.journal.resetCount + 1) % 2 ^ 24 ∧ t.journal.lastReset = .port ∧
    (s.port.linkUp = true → Logged t 0x0A01)) ∧
  (∀ s : State, CompletesWith (exec .hubWarmReset s) fun t => t.mem = s.mem ∧ t.transport.sessions = [] ∧ t.objects.handles = [] ∧
    t.config.hubReady = false ∧ t.config.hubStarted = false ∧ t.port.linkUp = false ∧
    t.journal.resetCount = (s.journal.resetCount + 1) % 2 ^ 24 ∧ t.journal.lastReset = .hubWarm ∧
    (∀ k < 36, (s.stack k).clocked = true → (t.stack k).selfRefresh = true ∧ (t.stack k).clocked = false) ∧
    (∀ e j, s.job? e = some j → j.fixedCadence = false → j.group = none → t.job? e = some j) ∧
    ∀ e j, s.job? e = some j → j.state.resident = true → (e, j) ∈ s.jobList → j.fixedCadence = true → ∃ k, t.job? e = some k ∧
      k.id = j.id ∧ k.demoted = true ∧ k.demoteCause = 6 ∧ k.state = j.state) ∧
  (∀ s : State, JobsOk s → CompletesWith (exec .moduleWarmReset s) fun t => t.mem = s.mem ∧ t.transport.sessions = [] ∧ t.objects.handles = [] ∧
    t.config.hubReady = false ∧ t.journal.resetCount = (s.journal.resetCount + 1) % 2 ^ 24 ∧ t.journal.lastReset = .moduleWarm ∧
    (∀ h < 12, (t.half h).clocked = false ∧ (t.half h).ready = false ∧ (t.half h).unusable = false) ∧
    (∀ k < 384, (t.cluster k).cores = []) ∧
    ∀ e j, s.job? e = some j → j.state.resident = true → JobRestarted t e j) ∧
  (∀ (s : State) (half : Fin 12) (e : Nat × Job), JobsOk s → s.halfJob? half.val = some e → e.2.issuing = true →
    CompletesWith (exec (.hangReset half) s) fun t => Logged t 0x0518 ∧ DieRestarted s t (half.val / 2)) ∧
  (∀ (s : State) (die : Fin 6), JobsOk s → CompletesWith (exec (.dieReset die) s) fun t => DieRestarted s t die.val ∧
    t.journal.resetCount = (s.journal.resetCount + 1) % 2 ^ 24 ∧ t.journal.lastReset = .die) ∧
  (∀ (s : State) (h : CmdHead) (x : Session) (cls : ResetClass), HandlesOk s → Fresh s h x →
     CompletesWith (exec (.reset h cls) s) fun t =>
       (x.role ≠ .installer → Told s t x.fpr h.req .refused 0x0601 ∧ OnlyTouches [.transport, .streams] s t) ∧
       (x.role = .installer → s.config.bootRom = false → 1 ≤ s.areaFree → Told s t x.fpr h.req .accept 0 ∧ Audited s t 1 0 0x0008 0 ∧
         match cls with
         | .port => Told s t x.fpr h.req .done 0 ∧ t.port.laneFailed = 0 ∧ t.port.linkUp = false ∧ t.journal.lastReset = .port
         | .die d => Told s t x.fpr h.req .done 0 ∧ (∀ k, k / 64 = d.val → (t.cluster k).cores = []) ∧ t.journal.lastReset = .die
         | .hubWarm => (x.fpr, h.req) ∈ t.journal.resetDone ∧ t.config.hubReady = false ∧ t.journal.lastReset = .hubWarm
         | .moduleWarm => (x.fpr, h.req) ∈ t.journal.resetDone ∧ t.config.hubReady = false ∧ t.journal.lastReset = .moduleWarm))

/-- HUB_START of a hub that has VHUB, is not READY and does not shed (R5, R402, R498, R561): a record written since the last start comes
into force and is checked, and a module whose record fails is confined to its hub; the flash image that passes its check runs, and
otherwise the boot ROM; open loads have ended, and the counts from hub start begin again. Any other hub stands. -/
def Obligations.HubStarts : Prop :=
  ∀ s : State, CompletesWith (exec .hubStart s) fun t =>
    let starts := s.config.hubReady = false ∧ s.power.vhubOn = true ∧ s.power.shedding = false
    (¬starts → t = s) ∧
    (starts →
      let r := s.config.next.getD s.config.record
      let ok := firmwareOk s.journal.settings.minSecurityVersion s.security.flashImage
      t.config.record = r ∧ t.config.next = none ∧ t.config.hubOnly = !configVerifies r ∧ t.config.bootRom = !ok ∧
      t.config.startFault = (if configVerifies r = false then 0x0611 else if ok = false then 0x060F else 0) ∧
      t.security.firmware = (if ok then s.security.flashImage else []) ∧ t.security.identityOk = Config.identityUnwraps t.identityBlob ∧
      t.config.hubStarted = true ∧ t.config.hubReady = false ∧ t.objects.handles = [] ∧ t.entropy = {} ∧
      t.journal.hubStarts = satAdd 32 s.journal.hubStarts 1 ∧ t.transport.nextSession = 1 ∧ t.port.rxDropped = 0 ∧
      t.mem = s.mem ∧ t.journal.keys = s.journal.keys ∧ t.journal.settings = s.journal.settings)

/-! ### The optical port and PTP -/

/-- FRAME_RECEIVE while the link is up and the hub runs. A frame that R351 does not accept is dropped and counted; a packet that no open
session authenticates is counted in AUTH_FAIL; of a session's packets, one above the window is counted and dropped, one received before is
acknowledged again and changes no inbox, and the next one, a well-formed COMMAND of a key with nothing held, waits in the session's inbox,
acknowledged. NEIGHBOUR_SOLICITATION and ECHO_REQUEST in UDP/IPv6 mode for one of the unit's own addresses are answered, and otherwise
nothing happens (R352). The answer goes to the source of what it answers. EXPRESS_FRAME_READY: the next composed express frame is ready,
or, with none, a PTP message that is composed now (R354); it joins the queue of 32, and preempts a bulk frame only where preemption is
active and the fragments would be long enough (R355). PREEMPT_VERIFY: preemption becomes active, or, failed, inactive with 0x0A08. -/
def Obligations.FramesAndPackets : Prop :=
  (∀ (s : State) (f : Frame), s.port.linkUp = true → (s.config.hubReady = true ∨ s.config.bootRom = true) → s.security.scan = false →
     (s.frameFits f = false ∨ s.frameKind f = none →
       exec (.frameReceive f) s = .next { s with port := { s.port with rxDropped := satAdd 32 s.port.rxDropped 1 } }) ∧
     ∀ b ip p, s.frameFits f = true → s.frameKind f = some (.kenvin b ip) → parsePacket b = some p → p.formOk = true →
       s.journal.settings.unitAddr ≠ 0 → p.dest = s.journal.settings.unitAddr → p.type ≠ 1 → p.type ≠ 2 →
       (s.packetSession p = none →
         exec (.frameReceive f) s = .next { s with transport := { s.transport with authFail := satAdd 32 s.transport.authFail 1 } }) ∧
       ∀ x plain, s.packetSession p = some x → s.session? x.id = some x → x.openPayload p = some plain → p.type ≠ 0 →
         CompletesWith (exec (.frameReceive f) s) fun t => OnlyTouches [.jobs, .transport, .streams] s t ∧
           (x.rxAck + 4096 < p.seq → t.transport.windowDrop = satAdd 32 s.transport.windowDrop 1 ∧
             ∃ y, t.session? x.id = some y ∧ y.inbox = x.inbox ∧ y.rxAck = x.rxAck) ∧
           (p.seq ≤ x.rxAck → Emitted s t (.bareAck x.id x.rxAck) ∧ ∃ y, t.session? x.id = some y ∧ y.inbox = x.inbox ∧ y.rxAck = x.rxAck) ∧
           (p.seq = x.rxAck + 1 → p.type = 4 → x.role ≠ .peer → x.rxHeld = [] → 16 ≤ plain.length → commandStatus plain = 0 →
             Emitted s t (.bareAck x.id p.seq) ∧
             ∃ y, t.session? x.id = some y ∧ y.inbox = x.inbox ++ [{ seq := p.seq, type := p.type, payload := plain }] ∧ y.rxAck = p.seq)) ∧
  (∀ (s : State) (src target : BitVec 128), CompletesWith (exec (.neighbourSolicitation src target) s) fun t =>
    let due := s.journal.settings.encapUdp = true ∧ s.ownAddress target = true
    (due → OnlyTouches [.transport] s t ∧ Emitted s t (.neighbourAdvert src target) ∧
      .raw (.neighbourAdvert src target) s.transport.source ∈ t.transport.bulk) ∧ (¬due → t = s)) ∧
  (∀ (s : State) (src dst : BitVec 128) (data : Bytes), CompletesWith (exec (.echoRequest src dst data) s) fun t =>
    let due := s.journal.settings.encapUdp = true ∧ s.ownAddress dst = true
    (due → OnlyTouches [.transport] s t ∧ Emitted s t (.echoReply src dst data) ∧
      .raw (.echoReply src dst data) s.transport.source ∈ t.transport.bulk) ∧ (¬due → t = s)) ∧
  (∀ (s : State) (sent left : Nat), CompletesWith (exec (.expressFrameReady sent left) s) fun t => OnlyTouches [.port, .transport, .ptp] s t ∧
    (s.port.expressQueue < s.transport.express.length → t.transport = s.transport ∧ t.ptp = s.ptp) ∧
    (s.transport.express.length ≤ s.port.expressQueue → t.ptp = { s.ptp with messages := s.ptp.messages + 1 } ∧
      t.transport = { s.transport with express := s.transport.express ++ [.ptp s.ptpMaster s.ptp.messages] }) ∧
    let cuts := s.port.linkUp = true ∧ s.port.preemptActive = true ∧ s.port.bulkPaused = false ∧ 64 ≤ sent ∧ 128 ≤ left
    let q := min 32 (s.port.expressQueue + 1)
    (cuts → t.port = { s.port with expressQueue := q, bulkPaused := true, preemptions := satAdd 32 s.port.preemptions 1 }) ∧
    (¬cuts → t.port = { s.port with expressQueue := q })) ∧
  (∀ (s : State) (ok : Bool), CompletesWith (exec (.preemptVerify ok) s) fun t =>
    let due := s.port.linkUp = true ∧ s.journal.settings.preemptEnable = true
    (¬due → t = s) ∧
    (due → t.port = { s.port with preemptActive := ok } ∧ OnlyTouches [.transport, .events, .headers, .port] s t ∧ (ok = false → Logged t 0x0A08)))

/-- LANE_FAILED, LINK_UP, LINK_DOWN and FALLBACK_RETRY (R360 to R364). A lane that carries the link takes it down, and the port retrains
on the group that is left; a lane of the idle group only becomes failed. A link comes up in the mode that the port trains for, never with
both lasers failed. With a failed lane in both groups the next mode is tried. LASER_SWITCH and MAC_SWITCH (R365 to R369). The active laser
that fails is replaced by a standby that has not, and the switch is counted; with none left the link goes down. A parity fault moves the
port to the other MAC instance and leaves the link up; a bare mismatch resets the port. -/
def Obligations.LinkAndLasers : Prop :=
  (∀ (s : State) (n : Fin 8), CompletesWith (exec (.laneFailed n) s) fun t =>
    let new := s.port.laneFailed.getLsbD n.val = false ∧ s.optics.quietUntil ≤ s.nowNs
    let mode := if s.port.linkUp then s.port.mode else s.port.training
    let carries := match mode with
      | .down => False | .dr8 => True | .dr4Low => n.val < 4 | .dr4High => 4 ≤ n.val
    (¬new → t = s) ∧
    (new → OnlyTouches [.transport, .events, .headers, .port] s t ∧ Logged t 0x0A02 ∧
      (∀ i < 8, t.port.laneFailed.getLsbD i = (s.port.laneFailed.getLsbD i || decide (i = n.val))) ∧
      (¬carries → t.port.linkUp = s.port.linkUp ∧ t.port.mode = s.port.mode ∧ t.port.training = s.port.training) ∧
      (carries → t.port.linkUp = false ∧ t.port.mode = .down ∧
        ((∀ i < 4, t.port.laneFailed.getLsbD i = false) → t.port.training = .dr4Low) ∧
        ((∀ i < 8, 4 ≤ i → t.port.laneFailed.getLsbD i = false) → t.port.training = .dr4High)))) ∧
  (∀ s : State, CompletesWith (exec .linkUp s) fun t =>
    let comes := s.port.linkUp = false ∧ ¬(s.optics.la = .failed ∧ s.optics.lb = .failed) ∧ s.power.vhubOn = true
    (¬comes → t = s) ∧
    (comes → OnlyTouches [.transport, .events, .headers, .port, .ptp] s t ∧ Logged t 0x0A01 ∧
      t.port = { s.port with linkUp := true, mode := s.port.training, preemptActive := false } ∧
      (s.port.training = .dr4Low ∨ s.port.training = .dr4High → Logged t 0x0A03))) ∧
  (∀ s : State, CompletesWith (exec .linkDown s) fun t => OnlyTouches [.transport, .events, .headers, .port] s t ∧
    t.port = { s.port with linkUp := false, mode := .down, preemptActive := false, bulkPaused := false } ∧ (s.port.linkUp = true → Logged t 0x0A01)) ∧
  (∀ s : State, CompletesWith (exec .fallbackRetry s) fun t =>
    let due := s.port.linkUp = false ∧ (∃ i < 4, s.port.laneFailed.getLsbD i = true) ∧ ∃ i < 8, 4 ≤ i ∧ s.port.laneFailed.getLsbD i = true
    (¬due → t = s) ∧
    (due → t = { s with port := { s.port with training := match s.port.training with
      | .dr8 => .dr4Low | .dr4Low => .dr4High | _ => .dr8 } })) ∧
  (∀ (s : State) (cause : LaserFault), CompletesWith (exec (.laserSwitch cause) s) fun t =>
    let mine := if s.optics.activeLb then s.optics.lb else s.optics.la
    let other := if s.optics.activeLb then s.optics.la else s.optics.lb
    (mine ≠ .active → t = s) ∧
    (mine = .active → other ≠ .failed → OnlyTouches [.optics, .transport, .events, .headers] s t ∧ Logged t 0x0A04 ∧
      t.optics.activeLb = !s.optics.activeLb ∧ t.optics.switches = satAdd 32 s.optics.switches 1 ∧
      (if s.optics.activeLb then t.optics.lb = .failed ∧ t.optics.la = .active else t.optics.la = .failed ∧ t.optics.lb = .active) ∧
      t.port.linkUp = s.port.linkUp) ∧
    (mine = .active → other = .failed → Logged t 0x0A05 ∧ t.optics.la = .failed ∧ t.optics.lb = .failed ∧ t.port.linkUp = false ∧
      t.optics.switches = s.optics.switches)) ∧
  (∀ s : State, CompletesWith (exec (.macSwitch .parity) s) fun t => OnlyTouches [.transport, .events, .headers, .port] s t ∧
    t.port = { s.port with macB := !s.port.macB } ∧ Logged t 0x0A06) ∧
  (∀ s : State, exec (.macSwitch .mismatch) s = exec .portReset s)

/-- PTP_SYNC, PTP_DELAY_RESP and PTP_UNLOCKED (R370, R371). A Sync gives OFFSET, held to 32 bits, and brings the unit's time to its
master's; the sixteenth in a row below 8 ns locks. A Delay_Resp gives MEAN_PATH_DELAY. Without a Sync for 2 s the lock is lost. -/
def Obligations.PtpClock : Prop :=
  (∀ (s : State) (m : PtpSync), CompletesWith (exec (.ptpSync m) s) fun t =>
    OnlyTouches [.transport, .events, .headers, .ptp, .clocks] s t ∧
    let lag := m.received - s.ptpRxLatency - m.origin
    let offset := max (-2 ^ 31) (min (2 ^ 31 - 1) (lag - s.journal.settings.asymmetry.toInt - s.ptp.meanPathDelay))
    let good := -128 < offset ∧ offset < 128
    t.ptp.fromMaster = lag ∧ t.ptp.offset = offset ∧ (¬good → t.ptp.goodSyncs = 0) ∧ (good → t.ptp.goodSyncs = min 16 (s.ptp.goodSyncs + 1)) ∧
    (t.ptp.locked = true ↔ s.ptp.locked = true ∨ good ∧ 15 ≤ s.ptp.goodSyncs) ∧
    (t.ptp.locked = true → s.ptp.locked = false → Logged t 0x0A07) ∧
    t.clocks = { s.clocks with ptpNs := (s.clocks.ptpNs - offset / 16).toNat }) ∧
  (∀ (s : State) (sent received : Int), CompletesWith (exec (.ptpDelayResp sent received) s) fun t => OnlyTouches [.ptp] s t ∧
    let mean := (s.ptp.fromMaster + (received - (sent + s.ptpTxLatency))) / 2
    t.ptp = { s.ptp with meanPathDelay := (max 0 (min (2 ^ 32 - 1) mean)).toNat }) ∧
  (∀ s : State, CompletesWith (exec .ptpUnlocked s) fun t =>
    (s.ptp.locked = false → t = s) ∧
    (s.ptp.locked = true → OnlyTouches [.transport, .events, .headers, .ptp] s t ∧ Logged t 0x0A07 ∧
      t.ptp = { s.ptp with locked := false, goodSyncs := 0, portState := 4 }))

/-! ### Sessions and roll call -/

/-- SESSION_OPEN phases 1 and 3 received (R483 to R488). An accepted phase 1 adds a half-open session and is challenged, or waits until
the entropy block is READY; a refused one is answered with its status and adds none. A phase 3 with a true signature opens its session,
and a claim with the true proof enrols the installer; a false one ends the half-open session, and a false claim starts the back-off.
SESSION_OPEN phases 2 and 4 received in an attempt that the unit has under way (R423, R487). A challenge by the member's key, signed over
both phases, is answered with phase 3; a phase 4 that confirms opens the session, and every group that names its key uses it. What fails
abandons the attempt with 0x0A12. -/
def Obligations.SessionsOpened : Prop :=
  (∀ (s : State) (p : Phase1), CompletesWith (exec (.sessionOpenPhase1 p) s) fun t =>
    let deaf := s.journal.settings.unitAddr = 0 ∨ (s.config.hubReady = false ∧ s.config.bootRom = false) ∨ s.security.scan = true
    let refused (st : Nat) := Emitted s t (.phase4 p.src 0 (BitVec.ofNat 16 st) zeros32) ∧ t.transport.sessions = s.transport.sessions ∧
      (p.role = 1 ∨ p.role = 2 ∨ p.role = 3 → Audited s t p.role 1 0x000D st)
    let held := s.transport.sessions.length + s.transport.opens.length
    let plain := held < 256 ∧ s.config.bootRom = false
    (deaf → t = s) ∧
    (¬deaf → 256 ≤ held → refused 0x0103) ∧
    (¬deaf → plain → p.role = 0 → s.key? .operator p.keyFpr = none → refused 0x0603) ∧
    (¬deaf → plain → p.role = 3 → s.journal.claimed = true → refused 0x0606) ∧
    (¬deaf → plain → p.role = 3 → s.journal.claimed = false → s.journal.claimLocked = true → refused 0x0605) ∧
    (¬deaf → plain → p.role = 0 → (s.key? .operator p.keyFpr).isSome → s.journal.settings.requireEncryption = true → p.encrypt = false →
      refused 0x060B) ∧
    (¬deaf → plain → p.role = 0 → (s.key? .operator p.keyFpr).isSome → (s.journal.settings.requireEncryption = true → p.encrypt = true) →
      s.drbgStatus = 0 →
      (s.drbgGives = false → t = { s with transport := { s.transport with opens := s.transport.opens ++ [(p, s.transport.source)] } }) ∧
      (s.drbgGives = true → t.transport.nextSession = s.transport.nextSession + 1 ∧ ∃ x bs, t.transport.sessions = s.transport.sessions ++ [x] ∧
        x.id = s.transport.nextSession ∧ x.role = .operator ∧ x.fpr = p.keyFpr ∧ x.opened = false ∧ x.encrypt = p.encrypt ∧
        x.phase1 = phase1Bytes p ∧ x.phase2 = bs ∧ Emitted s t (.phase2 p.src x.id bs)))) ∧
  (∀ (s : State) (p : Phase3) (x : Session), s.session? p.sess = some x → x.opened = false → x.opener = false →
    CompletesWith (exec (.sessionOpenPhase3 p) s) fun t =>
      let signed := pssVerify x.peerKey (sha256 (x.phase1 ++ x.phase2)) p.hostSig = true
      let refused (st : Nat) := Emitted s t (.phase4 x.peerAddr 0 (BitVec.ofNat 16 st) zeros32) ∧ ∀ y ∈ t.transport.sessions, y.id ≠ x.id
      let opens (role : Role) := t.transport.opened = s.transport.opened + 1 ∧ (∃ c, Emitted s t (.phase4 x.peerAddr x.id 0 c)) ∧
        ∃ y, t.session? x.id = some y ∧ y.opened = true ∧ y.role = role ∧ y.fpr = x.fpr ∧ y.order = s.transport.opened + 1
      let proven := p.claimProof = hmac s.security.claimKey (x.deviceNonce ++ x.fpr) ∧ krRole (slice x.phase1 0x68 512) = 1
      (¬signed → refused 0x0602) ∧
      (signed → s.drbgStatus = 0 → x.role = .operator ∨ x.role = .installer ∨ x.role = .peer → opens x.role) ∧
      (signed → s.drbgStatus = 0 → x.role = .claim → s.journal.claimed = false → s.journal.claimLocked = false →
        (proven → opens .installer ∧ t.journal.claimed = true ∧ t.journal.claimFails = 0 ∧ keyOf (slice x.phase1 0x68 512) ∈ t.journal.keys ∧
          Audited s t 3 0 0x0001 0) ∧
        (¬proven → refused 0x0604 ∧ t.journal.claimed = false ∧ t.journal.claimFails = s.journal.claimFails + 1 ∧ t.journal.claimLocked = true ∧
          t.journal.claimUntil = s.nowSec + min 3600 (2 ^ s.journal.claimFails)))) ∧
  (∀ (s : State) (p : Phase2) (x : Session), s.opening? p.src = some x → s.session? x.id = some x →
    CompletesWith (exec (.sessionOpenPhase2 p) s) fun t =>
      let key := slice p.responderKey 4 384
      let good := fingerprint key = x.fpr ∧ p.noIdentity = false ∧ pssVerify key (sha256 (x.phase1 ++ phase2Head p)) p.deviceSig = true
      (¬good ∨ Config.identityDecrypt p.wrapped = none → Logged t 0x0A12 ∧ ∀ y ∈ t.transport.sessions, y.id ≠ x.id) ∧
      (∀ master, good → Config.identityDecrypt p.wrapped = some master → t.jobs = s.jobs ∧ ∃ y ∈ t.transport.sessions,
        y.id = openerId p.src p.sess ∧ y.master = master ∧ y.deviceNonce = p.deviceNonce ∧ y.peerKey = key ∧ y.opened = false ∧
        Emitted s t (.phase3 p.src p.sess y.phase3))) ∧
  (∀ (s : State) (p : Phase4) (x : Session), s.opening? p.src = some x → s.session? x.id = some x →
    CompletesWith (exec (.sessionOpenPhase4 p) s) fun t =>
      let good := p.status = 0 ∧ p.confirm = hmac (x.keyOf "kenvin auth d2h") (sha256 (x.phase1 ++ x.phase2 ++ x.phase3)) ∧
        x.id = openerId p.src p.sess ∧ p.sess ≠ 0
      (¬good → Logged t 0x0A12 ∧ ∀ y ∈ t.transport.sessions, y.id ≠ x.id) ∧
      (good → (∃ y, t.session? x.id = some y ∧ y.opened = true ∧ y.fpr = x.fpr) ∧
        ∀ e j g, s.job? e = some j → j.state ≠ .ended → j.group = some g → ∃ k h, t.job? e = some k ∧ k.group = some h ∧
          h.neighbours = g.neighbours.map fun n => if grpMemberFpr g.record n.member = x.fpr then { n with sess := x.id, sessOpen := true } else n))

/-- ACK on an open session completes (R391, R392, R398): packets up to the cumulative acknowledgement leave, and with a completion
record's last packet the record leaves its stream; packets that a SACK shows missing are resent and counted. RETRANSMIT_TIMEOUT of a
packet that is outstanding on an open session completes: it is resent and counted. Of any other packet it changes nothing. Each of these
ends a session and completes: SESSION_TIMEOUT of an open session with something outstanding, IDLE_TIMEOUT and SESSION_CLOSE of an open one
(the last acknowledged first), CONSENT_EXPIRY of a maker's, HALF_OPEN_TIMEOUT of one that a host has opened half (R388, R393, R485). No
job is cancelled, and a maker's raw mode ends with its session. A session with nothing outstanding has no session timeout, and one of
another role no consent. -/
def Obligations.SessionsServed : Prop :=
  (∀ (s : State) (b : AckBody) (x : Session), s.session? b.sess = some x → x.opened = true →
    ∃ t, exec (.ack b) s = .next t ∧ OnlyTouches [.jobs, .transport, .streams] s t ∧
      (∃ y, t.session? b.sess = some y ∧ y.tx = (x.tx.filter fun p => decide (b.ack < p.seq)) ∧ y.inbox = x.inbox) ∧
      (∀ p ∈ x.tx, p.seq ≤ b.ack → ∀ fpr seq part parts, p.body = .completion fpr seq part parts → part + 1 = parts →
        ∀ h ∈ (t.stream fpr).records, h.record.seq ≠ seq) ∧
      let left := (x.tx.map (·.seq)).filter fun q => decide (b.ack < q)
      let missing := left.filter fun q => !sacked b q && left.any fun g => sacked b g && decide (q < g)
      t.transport.retransmits = satAdd 32 s.transport.retransmits missing.length) ∧
  (∀ (s : State) (sess seq : Nat) (x : Session) (p : TxPacket), s.session? sess = some x → x.opened = true →
    x.tx.find? (fun q => q.seq == seq) = some p →
    ∃ t, exec (.retransmitTimeout sess seq) s = .next t ∧ OnlyTouches [.transport] s t ∧
      t.transport.retransmits = satAdd 32 s.transport.retransmits 1 ∧
      ∃ y, t.session? sess = some y ∧ y.tx.find? (fun q => q.seq == seq) = some { p with retries := p.retries + 1 } ∧
        y.tx.map (·.body) = x.tx.map (·.body)) ∧
  (∀ (s : State) (sess seq : Nat) (x : Session), s.session? sess = some x → x.opened = true → (∀ p ∈ x.tx, p.seq ≠ seq) →
     exec (.retransmitTimeout sess seq) s = .next s) ∧
  (∀ (s : State) (id : Nat) (x : Session), s.session? id = some x → x.opened = true → x.tx ≠ [] →
    ∃ t, exec (.sessionTimeout id) s = .next t ∧ SessionGone s t id x) ∧
  (∀ (s : State) (id : Nat) (x : Session), s.session? id = some x → x.opened = true →
    ∃ t, exec (.idleTimeout id) s = .next t ∧ SessionGone s t id x) ∧
  (∀ (s : State) (id : Nat) (x : Session), s.session? id = some x → x.opened = true →
    ∃ t, exec (.sessionClose id) s = .next t ∧ SessionGone s t id x ∧ Emitted s t (.bareAck id x.rxAck)) ∧
  (∀ (s : State) (id : Nat) (x : Session), s.session? id = some x → x.opened = true → x.role = .maker →
    ∃ t, exec (.consentExpiry id) s = .next t ∧ SessionGone s t id x) ∧
  (∀ (s : State) (id : Nat) (x : Session), s.session? id = some x → x.opened = false → x.opener = false →
    ∃ t, exec (.halfOpenTimeout id) s = .next t ∧ SessionGone s t id x) ∧
  (∀ (s : State) (id : Nat) (x : Session), s.session? id = some x → x.opened = true → x.tx = [] → exec (.sessionTimeout id) s = .next s) ∧
  (∀ (s : State) (id : Nat) (x : Session), s.session? id = some x → x.opened = true → x.role ≠ .maker → exec (.consentExpiry id) s = .next s)

/-- Roll call (R383 to R387). A unit that the filter selects and the list does not exclude starts a back-off below the window; at its end,
and for a PROBE of its address, a REPLY with a new UNIT_NONCE leaves. ASSIGN, REPLY and PROBE_TIMEOUT (R387). An ASSIGN for another unit
does nothing; on a claimed unit one that no installer key signed over the latest UNIT_NONCE is refused with 0x0602 and audited. A new
address is probed first: a REPLY for it refuses the assignment with 0x010D, and without one the unit takes the address, keeps it in the
journal and says so. -/
def Obligations.RollCall : Prop :=
  (∀ (s : State) (b : EnumerateBody), CompletesWith (exec (.enumerate b) s) fun t =>
    let chosen := (b.filterAll = true ∨ s.journal.settings.unitAddr = 0) ∧ s.factoryMac ∉ b.exclude
    (¬chosen → t = s) ∧
    (chosen → t.transport.out = s.transport.out ∧ ∃ d, d < (if b.windowUs = 0 then 1000 else b.windowUs) ∧
      t.transport.pendingReplies = s.transport.pendingReplies ++ [{ dst := b.src, nonce := b.nonce, due := s.nowNs / 1000 + d, from_ := s.transport.source }])) ∧
  (∀ s : State, CompletesWith (exec .rollCallBackoff s) fun t =>
    (s.transport.pendingReplies = [] → t = s) ∧
    ∀ p, s.transport.pendingReplies = [p] → t.transport.pendingReplies = [] ∧ t.transport.nonceUsed = false ∧
      Emitted s t (.rollReply p.dst s.journal.settings.unitAddr s.journal.claimed p.nonce t.transport.unitNonce)) ∧
  (∀ (s : State) (src address : Nat) (nonce : Bytes), CompletesWith (exec (.probe src address nonce) s) fun t =>
    let mine := address ≠ 0 ∧ address = s.journal.settings.unitAddr
    (¬mine → t = s) ∧
    (mine → t.transport.nonceUsed = false ∧
      Emitted s t (.rollReply src s.journal.settings.unitAddr s.journal.claimed nonce t.transport.unitNonce))) ∧
  (∀ (s : State) (b : AssignBody), CompletesWith (exec (.assign b) s) fun t =>
    let signed := ∃ k, s.key? .installer b.signer = some k ∧ s.transport.nonceUsed = false ∧
      pssVerify k.modulus (sha256 (s.transport.unitNonce ++ beBytes 6 b.mac.toNat ++ beBytes 2 b.address)) b.signature = true
    let may := s.journal.claimed = false ∨ signed
    (b.mac ≠ s.factoryMac → t = s) ∧
    (b.mac = s.factoryMac → ¬may → Emitted s t (.rollRefused b.src 0x0602 b.nonce) ∧ t.journal.settings = s.journal.settings ∧
      ∃ e ∈ t.journal.audit, s.journal.auditNext ≤ e.seq ∧ e.outcome = 1 ∧ e.action = 0x000D ∧ e.status = 0x0602) ∧
    (b.mac = s.factoryMac → may → b.address = 0 → t.journal.settings.unitAddr = 0 ∧ Emitted s t (.rollAssigned b.src 0 b.nonce)) ∧
    (b.mac = s.factoryMac → may → 4094 < b.address → Emitted s t (.rollRefused b.src 0x0111 b.nonce) ∧ t.journal = s.journal) ∧
    (b.mac = s.factoryMac → may → 1 ≤ b.address → b.address ≤ 4094 → Emitted s t (.rollProbe b.address) ∧ t.journal = s.journal ∧
      ∃ p, t.transport.pendingAssign = some p ∧ p.dst = b.src ∧ p.address = b.address ∧ p.nonce = b.nonce)) ∧
  (∀ (s : State) (address : Nat), CompletesWith (exec (.reply address) s) fun t => OnlyTouches [.transport] s t ∧
    ((∀ p, s.transport.pendingAssign = some p → p.address ≠ address) → t = s) ∧
    ∀ p, s.transport.pendingAssign = some p → p.address = address → t.transport.pendingAssign = none ∧
      Emitted s t (.rollRefused p.dst 0x010D p.nonce)) ∧
  (∀ s : State, CompletesWith (exec .probeTimeout s) fun t => OnlyTouches [.transport, .settings, .audit] s t ∧
    (s.transport.pendingAssign = none → t = s) ∧
    ∀ p, s.transport.pendingAssign = some p → t.transport.pendingAssign = none ∧ t.journal.settings.unitAddr = p.address ∧
      Emitted s t (.rollAssigned p.dst p.address p.nonce) ∧
      ∃ e ∈ t.journal.audit, s.journal.auditNext ≤ e.seq ∧ e.outcome = 0 ∧ e.action = 0x0004)

/-! ### Commands of the host -/

/-- A command whose request identifier the stream has passed has no effect again (R395): while its ACCEPT is held, that record is sent
once more with REPEAT set; otherwise it is refused with 0x0105. A FETCH is not journaled and is not meant here. -/
def Obligations.RepeatedCommands : Prop :=
  ∀ (s : State) (h : CmdHead) (x : Session) (lb : LoadBody) (sb : SubmitBody) (d : Bytes) (job step : Nat) (cls : ResetClass),
    s.openSession? h.sess = some x → x.role ≠ .peer → h.req ≤ (s.stream x.fpr).highMark →
    ∀ c ∈ [Instr.load h lb, .release h d, .submit h sb, .cancel h job, .suspend h job step, .resume h job, .exportJob h job, .releaseResult h job,
        .reset h cls],
      CompletesWith (exec c s) fun t => OnlyTouches [.transport, .streams] s t ∧ (t.stream x.fpr).highMark = (s.stream x.fpr).highMark ∧
        (s.heldAccept? x.fpr h.req = none → Told s t x.fpr h.req .refused 0x0105) ∧
        ∀ r, s.heldAccept? x.fpr h.req = some r → (t.stream x.fpr).nextSeq = (s.stream x.fpr).nextSeq ∧
          ∃ g ∈ (t.stream x.fpr).records, g.record.seq = r.seq ∧ g.record.flags.getLsbD 11 = true

/-- LOAD (R71, R404, R405, R478). An object that is not held gets a handle in DETAIL0 of its ACCEPT, its frames and its reservation; one
that is held completes at once; a maker is refused with 0x0601, an unknown KIND or LAYOUT with 0x010F, a full job area with 0x0106 and a
full handle table with 0x0107. RELEASE: an object that its stream loaded is given up, and is dropped unless a job refers to it (R72). BULK
and SYMMETRY_CHECK_DONE (R70, R405, R406). A chunk that does not follow on ends its load with 0x010A, one past the end with 0x010B, and
one that names no handle is counted; any other is kept. The last one brings the checks: a fault ends the load, and otherwise the object is
held under its digest, a symmetric model after its own pass. -/
def Obligations.ObjectLoads : Prop :=
  (∀ (s : State) (h : CmdHead) (b : LoadBody) (x : Session), Fresh s h x →
    CompletesWith (exec (.load h b) s) fun t =>
      let host := x.role = .operator ∨ x.role = .installer
      let plain := host ∧ b.kind ≤ 2 ∧ b.layout ≤ 1 ∧ s.config.bootRom = false ∧ 1 ≤ s.areaFree
      (¬host → Told s t x.fpr h.req .refused 0x0601) ∧
      (host → 3 < b.kind ∨ 1 < b.layout → Told s t x.fpr h.req .refused 0x010F) ∧
      (host → b.kind ≤ 2 → b.layout ≤ 1 → s.config.bootRom = false → s.areaFree = 0 → Told s t x.fpr h.req .refused 0x0106) ∧
      (plain → s.object? b.digest = none → 64 ≤ s.objects.handles.length → Told s t x.fpr h.req .refused 0x0107) ∧
      (plain → s.object? b.digest = none → s.objects.handles.length < 64 → (s.loadPages b false).isSome → b.size ≠ 0 →
        t.objects.nextHandle = s.objects.nextHandle + 1 ∧ t.objects.held = s.objects.held ∧ (t.stream x.fpr).highMark = h.req ∧
        Told s t x.fpr h.req .accept 0 (fun r => r.detail0 = BitVec.ofNat 64 s.objects.nextHandle) ∧
        t.journal.reservations = s.journal.reservations ++ [{ owner := x.fpr, req := h.req, job := 0, kib := 1 }] ∧
        ∃ g, t.objects.handles = s.objects.handles ++ [g] ∧ g.handle = s.objects.nextHandle ∧ g.owner = x.fpr ∧ g.body = b ∧ g.got = []) ∧
      (∀ o, plain → s.object? b.digest = some o → o.damaged = false → t.objects.handles = s.objects.handles ∧
        Told s t x.fpr h.req .accept 0 ∧ Told s t x.fpr h.req .done 0 (fun r => r.digest = o.digest ∧ r.flags.getLsbD 12 = true) ∧
        t.object? b.digest = some { o with released := false })) ∧
  (∀ (s : State) (h : CmdHead) (d : Bytes) (x : Session) (o : HeldObject), Fresh s h x → x.role = .operator ∨ x.role = .installer →
    s.config.bootRom = false → s.object? d = some o → o.released = false → o.owner = x.fpr ∨ x.role = .installer → 1 ≤ s.areaFree →
    CompletesWith (exec (.release h d) s) fun t => Told s t x.fpr h.req .accept 0 ∧ OnlyTouches [.tielux, .objects, .transport, .streams] s t ∧
      ((∃ e ∈ s.jobList, e.2.state ≠ .ended ∧ e.2.refersTo d = true) → t.object? d = some { o with released := true }) ∧
      ((∀ e ∈ s.jobList, e.2.state ≠ .ended → e.2.refersTo d = false) → ∀ y ∈ t.objects.held, ¬(y.digest = d ∧ y.released = true))) ∧
  (∀ (s : State) (sess n offset : Nat) (data : Bytes) (x : Session), s.openSession? sess = some x → data ≠ [] →
    CompletesWith (exec (.bulk sess n offset data) s) fun t =>
      (s.objects.handles.find? (fun g => g.handle == n) = none → t.transport.bulkDiscarded = satAdd 32 s.transport.bulkDiscarded 1 ∧
        OnlyTouches [.transport] s t) ∧
      ∀ g, s.objects.handles.find? (fun g => g.handle == n) = some g →
        let h : LoadHandle := { g with got := g.got ++ data }
        let ends (status : Nat) := Told s t g.owner g.req .done (BitVec.ofNat 16 status) ∧ (∀ y ∈ t.objects.handles, y.handle ≠ n) ∧
          t.objects.held = s.objects.held
        let fits := offset = g.got.length ∧ h.got.length ≤ g.body.size
        (offset ≠ g.got.length → ends 0x010A) ∧
        (offset = g.got.length → g.body.size < h.got.length → ends 0x010B) ∧
        (fits → h.got.length < g.body.size → OnlyTouches [.tielux, .mem, .objects, .transport] s t ∧ h ∈ t.objects.handles) ∧
        (fits → h.got.length = g.body.size → ∀ f, s.objectFault h = some f → ends f.status) ∧
        (fits → h.got.length = g.body.size → s.objectFault h = none → g.body.kind = 1 ∨ g.body.kind = 2 ∨ g.body.kind = 0 ∧ imgAsym h.got = true →
          s.object? g.body.digest = none → (∀ y ∈ t.objects.handles, y.handle ≠ n) ∧ Told s t g.owner g.req .done 0 ∧
          ∃ o ∈ t.objects.held, o.digest = g.body.digest ∧ o.kind = g.body.kind ∧ o.bytes = h.got ∧ o.released = false) ∧
        (fits → h.got.length = g.body.size → s.objectFault h = none → g.body.kind = 0 → imgAsym h.got = false →
          t.objects.held = s.objects.held ∧ { h with symmetry := true } ∈ t.objects.handles)) ∧
  (∀ (s : State) (n : Nat) (g : LoadHandle), s.objects.handles.find? (fun g => g.handle == n && g.symmetry) = some g →
    CompletesWith (exec (.symmetryCheckDone n) s) fun t => (∀ y ∈ t.objects.handles, y.handle ≠ n) ∧
      (∀ f, imageSymmetryFault g.got = some f → Told s t g.owner g.req .done (BitVec.ofNat 16 f.status) ∧ t.objects.held = s.objects.held) ∧
      (imageSymmetryFault g.got = none → s.object? g.body.digest = none → Told s t g.owner g.req .done 0 ∧
        ∃ o ∈ t.objects.held, o.digest = g.body.digest ∧ o.bytes = g.got))

/-- SUBMIT (R292, R293, R396). A maker is refused with 0x0601, and a program that is not held is refused with 0x020B. A submission that
every check passes, and that need not wait for its seed, takes the lowest free entry with the next job identifier and sequence number, and
is accepted; no other job changes. -/
def Obligations.Submits : Prop :=
  ∀ (s : State) (h : CmdHead) (b : SubmitBody) (x : Session), Fresh s h x →
    CompletesWith (exec (.submit h b) s) fun t =>
      let host := x.role = .operator ∨ x.role = .installer
      (¬host → Told s t x.fpr h.req .refused 0x0601 ∧ t.jobs = s.jobs) ∧
      (host → s.config.bootRom = false → s.available? b.program 1 = none → Told s t x.fpr h.req .refused 0x020B ∧ t.jobs = s.jobs) ∧
      (s.submitFault x h.req b = none → s.seedWaits b = true → t = s) ∧
      ∀ k, s.submitFault x h.req b = none → s.seedWaits b = false → s.freeSlot? = some k →
        t.jobs.nextId = s.jobs.nextId + 1 ∧ t.jobs.nextSeq = s.jobs.nextSeq + 1 ∧ (t.stream x.fpr).highMark = h.req ∧
        Told s t x.fpr h.req .accept 0 (fun r => r.jobId = s.jobs.nextId) ∧
        ∃ j, JobBecomes s t k j ∧ j.id = s.jobs.nextId ∧ j.seq = s.jobs.nextSeq ∧ j.owner = x.fpr ∧ j.req = h.req ∧ j.state = .waiting ∧
          (b.flags.getLsbD 4 = false → s.contextOf (s.newJob x h.req b) = [] → j.seed = b.seed ∧ j.body = b)

/-- A command on a job that no entry holds is refused with 0x0110, and one on another stream's job with 0x0601, but for an installer's
CANCEL (R404, R478). CANCEL, SUSPEND and RESUME of a stream's own job (R295, R335), each accepted. A job that waits, or is being admitted,
ends at once with 0x020A; one that runs ends at a commit. A preemptible job that waits is held, and one that runs stops at the step that
the command names; any other is refused with 0x020E. A resumed job is held no longer. EXPORT, FETCH and RELEASE_RESULT of a stream's own
job (R336, R399, R404). A preempted job's context, with its digest behind it, becomes a data object that DONE names; a job in another
state is refused with 0x020F. A FETCH of an ended job's result sends the bytes asked for, and DONE, and leaves HIGH_MARK. A released
result leaves the table once its final record is acknowledged. -/
def Obligations.JobCommands : Prop :=
  (∀ (s : State) (h : CmdHead) (x : Session) (job step : Nat), Fresh s h x → x.role = .operator ∨ x.role = .installer → s.config.bootRom = false →
     ∀ c ∈ [Instr.cancel h job, .suspend h job step, .resume h job, .exportJob h job, .releaseResult h job],
       CompletesWith (exec c s) fun t => ∀ status : BitVec 16,
         (s.jobById? job = none ∧ status = 0x0110) ∨
           (∃ e, s.jobById? job = some e ∧ e.2.owner ≠ x.fpr ∧ (x.role = .operator ∨ c ≠ .cancel h job) ∧ status = 0x0601) →
         Told s t x.fpr h.req .refused status ∧ OnlyTouches [.transport, .streams] s t) ∧
  (∀ (s : State) (h : CmdHead) (x : Session) (slot : Nat) (j : Job), JobsOk s → Fresh s h x → x.role = .operator ∨ x.role = .installer →
     s.config.bootRom = false → 1 ≤ s.areaFree → s.jobById? j.id = some (slot, j) → j.owner = x.fpr → slot < 4096 →
     (CompletesWith (exec (.cancel h j.id) s) fun t => Told s t x.fpr h.req .accept 0 ∧
       (j.state = .waiting ∨ j.state = .preempted ∨ j.state = .obligation ∨ j.state = .admitting → Ended t slot j 0x020A) ∧
       (j.state = .running ∨ j.state = .restoring ∨ j.state = .preempting → JobBecomes s t slot { j with cancelPending := true })) ∧
     (∀ n, CompletesWith (exec (.suspend h j.id n) s) fun t =>
       (s.suspendable j = false → Told s t x.fpr h.req .refused 0x020E ∧ t.jobs = s.jobs) ∧
       (s.suspendable j = true → Told s t x.fpr h.req .accept 0 ∧ ∃ k, JobBecomes s t slot k ∧ k.id = j.id ∧ k.state = j.state ∧
         (j.state = .waiting ∨ j.state = .preempted ∨ j.state = .obligation → k.heldBySuspend = true) ∧
         (j.state.resident = true → k = { j with suspendAt := some n }))) ∧
     CompletesWith (exec (.resume h j.id) s) fun t => Told s t x.fpr h.req .accept 0 ∧ ∃ k, JobBecomes s t slot k ∧ k.heldBySuspend = false ∧
       k.suspendAt = none ∧ k.id = j.id ∧ k.state = j.state) ∧
  (∀ (s : State) (h : CmdHead) (x : Session) (slot : Nat) (j : Job), JobsOk s → Fresh s h x → x.role = .operator ∨ x.role = .installer →
     s.config.bootRom = false → 1 ≤ s.areaFree → s.jobById? j.id = some (slot, j) → j.owner = x.fpr →
     (CompletesWith (exec (.exportJob h j.id) s) fun t =>
       (j.state ≠ .preempted → Told s t x.fpr h.req .refused 0x020F ∧ t.objects = s.objects) ∧
       (j.state = .preempted → s.object? (sha256 (j.context ++ sha256 j.context)) = none → (s.objectPages (j.context.length + (sha256 j.context).length)).isSome →
         Told s t x.fpr h.req .accept 0 ∧ Told s t x.fpr h.req .done 0 (fun r => r.digest = sha256 (j.context ++ sha256 j.context)) ∧
         ∃ o, t.objects.held = s.objects.held ++ [o] ∧ o.kind = 2 ∧ o.bytes = j.context ++ sha256 j.context ∧ o.owner = x.fpr)) ∧
     (∀ offset length, CompletesWith (exec (.fetch h (.job j.id) offset length) s) fun t => OnlyTouches [.transport, .streams] s t ∧
       (t.stream x.fpr).highMark = (s.stream x.fpr).highMark ∧
       (j.state = .ended → j.released = false → Told s t x.fpr h.req .done 0 ∧
         ((j.resultImage.drop offset).take length ≠ [] → ((j.resultImage.drop offset).take length).length ≤ 8160 → s.session? x.id = some x →
           Delivers t x.id (.bulk (h.req % 2 ^ 32) offset ((j.resultImage.drop offset).take length)))) ∧
       (j.state ≠ .ended ∨ j.released = true → Told s t x.fpr h.req .refused 0x0110)) ∧
     CompletesWith (exec (.releaseResult h j.id) s) fun t => Told s t x.fpr h.req .accept 0 ∧
       let final := ∃ g ∈ (s.stream x.fpr).records, g.record.jobId = j.id ∧ g.record.kind = .jobFinal
       (j.state ≠ .ended ∨ final → JobBecomes s t slot { j with released := true }) ∧
       (j.state = .ended → ¬final → t.job? slot = none ∧ ∀ e, e ≠ slot → t.job? e = s.job? e))

/-! ### Security -/

/-- KEY_OP (R476, R481, R482) and CLAIM_BACKOFF_EXPIRY. Each is audited with its outcome, which KEY_STATUS shows. An enrolled key replaces
the one of its fingerprint; a removed key is gone and its sessions end, but the last installer stays; a maker key needs a certificate. -/
def Obligations.KeyOperations : Prop :=
  (∀ (s : State) (sess : Nat) (x : Session), s.session? sess = some x → x.opened = true →
    let d := digestOf x.sel.keyDigest
    let b := s.namedData d
    let outcome (t : State) (action status : Nat) : Prop :=
      Audited s t x.role.auditCode (if status = 0 then 0 else 1) action status ∧
      ((∃ y ∈ t.transport.sessions, y.id = sess) → ∃ y, t.session? sess = some y ∧ y.sel.keyStatus = BitVec.ofNat 16 status) ∧
      (status ≠ 0 → t.journal.keys = s.journal.keys)
    let adds (t : State) (k : KeyRecord) : Prop :=
      t.journal.keys = (s.journal.keys.filter fun y => y.fpr != k.fpr) ++ [k]
    let full (k : KeyRecord) : Prop := s.key? k.role k.fpr = none ∧ roleLimit k.role ≤ (s.journal.keys.filter fun y => y.role == k.role).length
    let lastOf (fpr : Bytes) : Prop := (s.key? .installer fpr).isSome ∧ ∀ k ∈ s.journal.keys, k.role = .installer → k.fpr = fpr
    (x.role = .installer ∨ (x.role = .maker ∧ x.actions.getLsbD 5 = true) → CompletesWith (exec (.keyOpEnrol sess) s) fun t =>
      let fits := b ≠ [] ∧ keyRecordOk b = true ∧ (krRole b = 2 ↔ x.role = .maker)
      (b = [] → outcome t 0x0002 0x0110) ∧ (b ≠ [] → keyRecordOk b = false → outcome t 0x0002 0x0608) ∧
      (b ≠ [] → keyRecordOk b = true → ¬(krRole b = 2 ↔ x.role = .maker) → outcome t 0x0002 0x0601) ∧
      (fits → full (keyOf b) → outcome t 0x0002 0x0609) ∧ (fits → ¬full (keyOf b) → krRole b ≠ 1 → lastOf (keyOf b).fpr → outcome t 0x0002 0x060A) ∧
      (fits → ¬full (keyOf b) → (krRole b = 1 ∨ ¬lastOf (keyOf b).fpr) → outcome t 0x0002 0 ∧ adds t (keyOf b))) ∧
    (x.role = .installer → CompletesWith (exec (.keyOpRemove sess) s) fun t =>
      let last := lastOf d
      ((∀ k ∈ s.journal.keys, k.fpr ≠ d) → outcome t 0x0003 0x0603) ∧
      ((∃ k ∈ s.journal.keys, k.fpr = d) → last → outcome t 0x0003 0x060A) ∧
      ((∃ k ∈ s.journal.keys, k.fpr = d) → ¬last → outcome t 0x0003 0 ∧ (t.journal.keys = s.journal.keys.filter fun k => k.fpr != d) ∧
        (∀ e j, s.job? e = some j → ∃ k, t.job? e = some k ∧ k.id = j.id ∧ k.state = j.state) ∧ ∀ y ∈ t.transport.sessions, y.fpr = d → y.role = .peer ∨ y.role = .claim)) ∧
    (x.role = .installer → CompletesWith (exec (.keyOpMakerCert sess) s) fun t =>
      let good := certSigned b = true ∧ keyRecordOk (b.take 512) = true ∧ krRole b = 2
      (b = [] → outcome t 0x0002 0x0110) ∧ (b ≠ [] → certSigned b = false → outcome t 0x0002 0x0602) ∧
      (b ≠ [] → good → ¬full (keyOf (b.take 512)) → lastOf (keyOf (b.take 512)).fpr → outcome t 0x0002 0x060A) ∧
      (b ≠ [] → good → ¬full (keyOf (b.take 512)) → ¬lastOf (keyOf (b.take 512)).fpr → outcome t 0x0002 0 ∧ adds t (keyOf (b.take 512))))) ∧
  ∀ s : State, exec .claimBackoffExpiry s = .next { s with journal := { s.journal with claimLocked := false, claimUntil := 0 } }

/-- Firmware (R496 to R498). A takeover that waits runs the new firmware on the other controller, is audited and logged, and completes its
LOAD. The standby takes over from a failed controller, and with both failed the hub resets. The flash image is rewritten unless the
configuration record is being written, and a failure is logged. From boot ROM a beacon leaves. Scan (R508). A maker whose consent allows
it arms scan while no job is resident: the entry is written, every session ends and the secrets are gone; with a job resident it is
refused with 0x0610. Released, or past its end, an armed scan ends in a module warm reset. -/
def Obligations.FirmwareAndScan : Prop :=
  (∀ s : State, CompletesWith (exec .firmwareHandover s) fun t =>
    (s.security.update ≠ .handover ∨ s.security.fwReq = none → t = s) ∧
    ∀ fpr req, s.security.update = .handover → s.security.fwReq = some (fpr, req) →
      t.security.firmware = s.security.newFirmware ∧ t.security.activeM1 = !s.security.activeM1 ∧ t.security.update = .flashPending ∧
      t.security.fwReq = none ∧ t.config.bootRom = false ∧ Told s t fpr req .done 0 ∧ Logged t 0x0621 ∧ Audited s t 0xFF 0 0x0007 0 ∧
      t.mem = s.mem ∧ t.jobs = s.jobs) ∧
  (∀ (s : State) (c : Controller), CompletesWith (exec (.controllerFailed c) s) fun t =>
    let m1 := decide (c = .m1)
    let mine := if m1 then s.security.m1Ok else s.security.m0Ok
    let other := if m1 then s.security.m0Ok else s.security.m1Ok
    (mine = false → t = s) ∧
    (mine = true → other = true → (if m1 then t.security.m1Ok = false else t.security.m0Ok = false) ∧ t.security.standbyOk = false ∧
      t.config.hubReady = s.config.hubReady ∧
      (s.security.activeM1 = m1 → t.security.activeM1 = !m1 ∧ Logged t 0x0623) ∧
      (s.security.activeM1 ≠ m1 → t.security.activeM1 = s.security.activeM1)) ∧
    (mine = true → other = false → t.config.hubReady = false ∧ t.journal.lastReset = .hubWarm)) ∧
  (∀ (s : State) (ok : Bool), CompletesWith (exec (.flashWriteRetry ok) s) fun t =>
    let due := s.security.update = .flashPending ∧ s.config.writing = none
    (¬due → t = s) ∧
    (due → ok = true → t = { s with security := { s.security with flashImage := s.security.firmware, flashOk := true, update := .idle } }) ∧
    (due → ok = false → Logged t 0x0622 ∧ t.security = s.security)) ∧
  (∀ (s : State) (ok : Bool), CompletesWith (exec (.flashRewriteDone ok) s) fun t =>
    let due := s.security.update = .flashPending ∧ s.config.writing = none
    (¬due → t = s) ∧
    (due → ok = true → t = { s with security := { s.security with flashImage := s.security.firmware, flashOk := true, update := .idle } }) ∧
    (due → ok = false → Logged t 0x0622 ∧ t.security = s.security)) ∧
  (∀ s : State, CompletesWith (exec .firmwareMissingBeacon s) fun t =>
     (s.config.bootRom = false → t = s) ∧
     (s.config.bootRom = true → OnlyTouches [.transport] s t ∧ Emitted s t (.rollRefused 0xFFF 0x060F (List.replicate 16 0)))) ∧
  (∀ (s : State) (sess : Nat) (x : Session), s.session? sess = some x → x.opened = true → x.role = .maker → x.actions.getLsbD 1 = true →
    CompletesWith (exec (.scanArm sess) s) fun t =>
      ((∃ e ∈ s.jobList, e.2.state.resident = true) → OnlyTouches [.transport] s t ∧ Answers t sess 0xA108 true 8 0x0610) ∧
      ((∀ e ∈ s.jobList, e.2.state.resident = false) → t.security.scan = true ∧ t.security.scanNotAfter = x.notAfter ∧
        t.transport.sessions = [] ∧ t.security.identityOk = false ∧ t.security.claimKey = [] ∧ t.entropy.instantiated = false ∧
        t.entropy.pool = 0 ∧ Audited s t 2 0 0x000B 0)) ∧
  (∀ s : State, (s.security.scan = true → exec .scanRelease s = exec .moduleWarmReset s) ∧
    (s.security.scan = false → exec .scanRelease s = .next s ∧ exec .scanTimeout s = .next s) ∧
    (s.security.scan = true → s.security.scanNotAfter ≤ s.timeSec → exec .scanTimeout s = exec .moduleWarmReset s) ∧
    (s.timeSec < s.security.scanNotAfter → exec .scanTimeout s = .next s))

/-- QUOTE and QUOTE_CONFIG_RECORD (R491 to R493). A signed quote holds the nonce it answers and is signed by the identity key over all of
it; it waits for the DRBG. The record is sent as it is in force. A peer, and a unit that runs from boot ROM, get a status. CFG_OP and
CFG_WRITE_DONE (R484, R561). A maker's write of a record that passes its checks is audited and begins; while one is in progress another
CFG_OP answers 0x0004. It comes into force at the next hub start, and after three failures the old record stays with 0x0003. UNCLAIM
leaves no key but the makers', and no claim. -/
def Obligations.QuotesAndRecords : Prop :=
  (∀ (s : State) (sess : Nat) (nonce : Bytes) (x : Session), s.session? sess = some x → x.opened = true →
     (CompletesWith (exec (.quote sess nonce) s) fun t =>
       let host := x.role ≠ .peer ∧ s.config.bootRom = false
       (x.role = .peer → Delivers t sess (.quote 0x0601 [])) ∧
       (x.role ≠ .peer → s.config.bootRom = true → Delivers t sess (.quote 0x060F [])) ∧
       (host → s.drbgStatus ≠ 0 → Delivers t sess (.quote (BitVec.ofNat 16 s.drbgStatus) [])) ∧
       (host → s.drbgStatus = 0 → s.security.identityOk = false → Delivers t sess (.quote 0x060C [])) ∧
       (host → s.drbgStatus = 0 → s.security.identityOk = true → s.drbgGives = false → t = s) ∧
       (host → s.security.identityOk = true → s.drbgGives = true → ∃ body salt, Delivers t sess (.quote 0 (body ++ Config.identitySign (sha256 body) salt)) ∧
         slice body 0 8 = ascii "LYRQUOTE" ∧ slice body 16 nonce.length = nonce ∧
         slice body (16 + nonce.length) 32 = firmwareMeasurement s.security.firmware ∧
         slice body (48 + nonce.length) 32 = sha256 s.config.record)) ∧
     CompletesWith (exec (.quoteConfigRecord sess nonce) s) fun t => OnlyTouches [.transport] s t ∧
       (x.role = .peer → Delivers t sess (.quote 0x0601 [])) ∧
       (x.role ≠ .peer → s.config.bootRom = true → Delivers t sess (.quote 0x060F [])) ∧
       (x.role ≠ .peer → s.config.bootRom = false → s.drbgStatus ≠ 0 → Delivers t sess (.quote (BitVec.ofNat 16 s.drbgStatus) [])) ∧
       (x.role ≠ .peer → s.config.bootRom = false → s.drbgStatus = 0 → Delivers t sess (.quote 0 ([1, 0, 0, 0, 0, 0, 0, 0] ++ s.config.record)))) ∧
  (∀ (s : State) (sess : Nat) (x : Session), s.session? sess = some x → x.opened = true → x.role = .maker →
    (x.actions.getLsbD 2 = true → CompletesWith (exec (.cfgOpWriteRecord sess) s) fun t =>
      (s.config.writing.isSome → OnlyTouches [.transport] s t ∧ Answers t sess 0x1150 true 1 0x0004) ∧
      (s.config.writing = none → s.cfgStatus x ≠ 0 → t.config = { s.config with status := BitVec.ofNat 16 (s.cfgStatus x) } ∧
        Answers t sess 0x1150 true 1 0) ∧
      (s.config.writing = none → s.cfgStatus x = 0 → Answers t sess 0x1150 true 1 0 ∧ Audited s t 2 0 0x000C 0 ∧
        t.config = { s.config with writing := some (s.namedData (digestOf x.sel.cfgDigest)), attempts := 0, status := 0xFFFF })) ∧
    (x.actions.getLsbD 4 = true → CompletesWith (exec (.cfgOpUnclaim sess) s) fun t =>
      (s.config.writing.isSome → OnlyTouches [.transport] s t ∧ Answers t sess 0x1150 true 2 0x0004) ∧
      (s.config.writing = none → t.journal.claimed = false ∧ (t.journal.keys = s.journal.keys.filter fun k => k.role == .maker) ∧
        (∀ y ∈ t.transport.sessions, y.role ≠ .operator ∧ y.role ≠ .installer) ∧ t.config.status = 0 ∧ Audited s t 2 0 0x0010 0))) ∧
  (∀ (s : State) (ok : Bool), CompletesWith (exec (.cfgWriteDone ok) s) fun t =>
     (s.config.writing = none → t = s) ∧
     ∀ r, s.config.writing = some r →
       (ok = true → t = { s with config := { s.config with next := some r, writing := none, status := 0 } }) ∧
       (ok = false → s.config.attempts < 2 → t = { s with config := { s.config with attempts := s.config.attempts + 1 } }) ∧
       (ok = false → 2 ≤ s.config.attempts → t = { s with config := { s.config with writing := none, status := 0x0003 } }))

/-! ### The entropy block -/

/-- ENTROPY_BLOCK and ENTROPY_READY (R499 to R502, R505, R507). A block of 512 equal samples fails. A failing block is counted, 4,096
samples are discarded, and the third in a row is the fatal alarm; under the alarm nothing is taken, and in raw mode blocks are tested
only. Of passing blocks the first two count at start-up, and then each two give the pool one output. The block is READY when the instances
stand and the pool is full; a SESSION_OPEN that waited is then answered, and the alarm refuses it. RNG_DATA, RAW_DATA, RAW_MODE,
ALARM_CLEAR and DRBG_MODE (R503 to R507). A read of RNG_DATA ends with 0x0701 under the alarm and with 0x0702 in raw mode, gives DRBG
output when there is some, and waits otherwise; RAW_DATA gives samples in raw mode only. The registers' writes are audited. -/
def Obligations.EntropyBlock : Prop :=
  (∀ (s : State) (samples : List Bool), samples.length = 512 → CompletesWith (exec (.entropyBlock samples) s) fun t =>
    let e := s.entropy
    let r := s.healthBlock samples
    let fails := r.rctFail = true ∨ r.aptFail = true
    let takes := e.state ≠ .fatal ∧ e.state ≠ .raw ∧ e.discard = 0
    (e.state = .fatal → t = s) ∧
    (e.state = .raw → t.entropy.pool = e.pool ∧ t.entropy.state = .raw ∧ OnlyTouches [.entropy] s t) ∧
    (e.state ≠ .fatal → e.state ≠ .raw → e.discard ≠ 0 → t = { s with entropy := { e with discard := e.discard - 512 } }) ∧
    ((∀ b ∈ samples, ∀ c ∈ samples, b = c) → fails) ∧
    (takes → fails → t.entropy.blocksFailed = satAdd 32 e.blocksFailed 1 ∧ t.entropy.discard = 4096 ∧ t.entropy.pool = e.pool ∧
      t.entropy.failsInRow = e.failsInRow + 1 ∧ (2 ≤ e.failsInRow → t.entropy.state = .fatal ∧ t.entropy.instantiated = false ∧ t.transport.opens = [] ∧ Logged t 0x0712)) ∧
    (takes → ¬fails → e.state = .startUp → e.passed < 2 → t.entropy.passed = e.passed + 1 ∧ t.entropy.pool = e.pool) ∧
    (takes → ¬fails → (e.state = .startUp → 2 ≤ e.passed ∧ e.instantiated = true) → e.rngWaiting = [] → t.entropy.failsInRow = 0 ∧
      t.entropy.pool = if e.halfBlock then min 8 (e.pool + 1) else e.pool)) ∧
  (∀ (s : State) (samples : List Bool), samples.length ≠ 512 → exec (.entropyBlock samples) s = .next s) ∧
  (∀ s : State, CompletesWith (exec .entropyReady s) fun t =>
     let due := s.entropy.state = .startUp ∧ s.entropy.instantiated = true ∧ s.entropy.pool = 8
     (¬due → t = s) ∧ (due → t.entropy.state = .running ∧ t.entropy.ready = true ∧ t.transport.opens = [])) ∧
  (∀ (s : State) (sess : Nat) (x : Session), s.session? sess = some x → x.opened = true → x.reads = true →
     (CompletesWith (exec (.rngData sess) s) fun t =>
       (s.entropy.state = .fatal → Answers t sess 0xB108 false 0 0x0701) ∧ (s.entropy.state = .raw → Answers t sess 0xB108 false 0 0x0702) ∧
       (s.drbgGives = true → s.drbgStalls 3 = false → ∃ d, Answers t sess 0xB108 false d 0) ∧
       (s.drbgStatus = 0 → s.drbgGives = false ∨ s.drbgStalls 3 = true → t.entropy.rngWaiting = s.entropy.rngWaiting ++ [sess])) ∧
     (∀ samples, CompletesWith (exec (.rawData sess samples) s) fun t => OnlyTouches [.transport] s t ∧
       Answers t sess 0xB10C false (if s.entropy.state = .raw then samples else 0) 0) ∧
     (x.role = .installer → CompletesWith (exec (.alarmClear sess) s) fun t => Answers t sess 0xB104 true 2 0 ∧ Audited s t 1 0 0x000F 0 ∧
       (s.entropy.state = .fatal → t.entropy.state = .startUp ∧ t.entropy.instantiated = false ∧ t.entropy.pool = 0) ∧
       (s.entropy.state ≠ .fatal → t.entropy = { s.entropy with alarmed := false })) ∧
     (x.role = .maker → x.actions.getLsbD 0 = true → ∀ on, CompletesWith (exec (.rawMode sess on) s) fun t => Logged t 0x0713 ∧
       (s.transport.opens = [] → Audited s t 2 0 0x000A 0) ∧
       (on = true → t.transport.opens = [] ∧ t.entropy.rngWaiting = [] ∧ t.entropy.state = .raw ∧ t.entropy.ready = false ∧ t.entropy.rawSess = sess) ∧
       (on = false → s.entropy.state = .raw → t.entropy.state = if s.entropy.alarmed then .fatal else .startUp)) ∧
     (x.role = .installer → ∀ shared, CompletesWith (exec (.drbgMode sess shared) s) fun t => Audited s t 1 0 0x0005 0 ∧
       t.journal.settings = { s.journal.settings with drbgShared := shared } ∧
       (s.entropy.instantiated = true → t.entropy.requests = [0, 0, 0, 0]) ∧ (s.entropy.instantiated = false → t.entropy = s.entropy)))

/-! ### Power, limits and temperature -/

/-- FEED_PRESENT, FEED_LOST, JOURNAL_CLOSED and VAON_LOST (R296, R515, R525 to R528). The first feed brings VAON and VHUB up. With one of
two feeds lost, fixed-cadence jobs are demoted with cause 3 and no grant stays reserved; with the last lost the module sheds: memory and
sessions are gone, and every job of the table is an obligation. The closed journal ends VHUB, and the bank's end VAON, unless a feed has
come back. PHASE_GROUP_FAILED, CURRENT_LIMIT, DROOP_STRETCH and DROOP_RELEASE (R516 to R524). A group that the rail has is marked failed
and logged. A limit's stretch is set and counted, and logged once a second. A droop changes nothing but its die's stretch. -/
def Obligations.PowerAndStretches : Prop :=
  (∀ (s : State) (f : Feed) (mv : Nat), CompletesWith (exec (.feedPresent f mv) s) fun t =>
    let had : Bool := if f = .a then s.power.aPresent else s.power.bPresent
    let good := had = false ∧ 50000 ≤ mv ∧ mv ≤ 63000
    let a : Bool := s.power.aPresent || decide (f = .a)
    let b : Bool := s.power.bPresent || decide (f = .b)
    (had = true → OnlyTouches [.jobs, .power] s t ∧ (mv < 47000 ∨ 66000 < mv → t = s) ∧
      (47000 ≤ mv → mv ≤ 66000 → t.power = if f = .a then { s.power with aMv := mv } else { s.power with bMv := mv })) ∧
    (had = false → mv < 50000 ∨ 63000 < mv → t = s) ∧
    (good → t.power.aPresent = a ∧ t.power.bPresent = b ∧ t.power.singleFeed = (a != b) ∧ (f = .a → t.power.aMv = mv) ∧ (f = .b → t.power.bMv = mv) ∧
      t.power.vaonOn = true ∧ t.clocks.refRunning = true ∧ t.power.vhubOn = (if s.power.shedding then s.power.vhubOn else true) ∧
      (s.power.vaonOn = false → t.clocks.aonCycles = 0 ∧ t.clocks.wakes = 0) ∧
      (a && b && s.power.singleFeed && s.power.wasPresent → Logged t 0x0821))) ∧
  (∀ (s : State) (f : Feed) (mv : Nat), JobsOk s → CompletesWith (exec (.feedLost f mv) s) fun t =>
    let was := if f = .a then s.power.aPresent else s.power.bPresent
    let other := if f = .a then s.power.bPresent else s.power.aPresent
    let lost := was = true ∧ (mv < 47000 ∨ 66000 < mv)
    (¬lost → t = s) ∧
    (lost → (if f = .a then t.power.aPresent = false else t.power.bPresent = false)) ∧
    (lost → other = true → t.power.singleFeed = true ∧ t.mem = s.mem ∧
      ∀ e j, s.job? e = some j → ∃ k, t.job? e = some k ∧ k.id = j.id ∧ k.state = j.state ∧ k.reserved = false ∧
        (j.state.resident = true → j.fixedCadence = true → k.demoted = true ∧ k.demoteCause = 3) ∧ (j.fixedCadence = false → k.demoted = j.demoted)) ∧
    (lost → other = false → t.power.shedding = true ∧ t.power.shedPending = true ∧ t.mem = [] ∧ t.transport.sessions = [] ∧ t.objects.held = [] ∧
      t.journal.lastReset = .bothFeeds ∧ (∀ k < 384, (t.cluster k).cores = []) ∧
      ∀ e < 4096, ∀ j, s.job? e = some j → ∃ k, t.job? e = some k ∧ k.state = .obligation ∧ k.id = j.id ∧ k.body = j.body ∧ k.seed = j.seed ∧
        k.owner = j.owner)) ∧
  (∀ s : State, CompletesWith (exec .journalClosed s) fun t =>
    (s.power.shedding = false → t = s) ∧
    (s.power.shedding = true → OnlyTouches [.power, .starts, .config] s t ∧ t.power = { s.power with vhubOn := false } ∧ t.journal.closed = true ∧
      t.config = { s.config with hubReady := false })) ∧
  (∀ s : State, CompletesWith (exec .vaonLost s) fun t =>
     let back := s.power.aPresent || s.power.bPresent
     (s.power.shedding = false → t = s) ∧
     (s.power.shedding = true → t.power.shedding = false ∧ t.power.vaonOn = back ∧ t.power.vhubOn = back ∧ t.clocks = { refRunning := back } ∧
       t.config.hubReady = false ∧ t.jobs = s.jobs ∧ t.journal.keys = s.journal.keys)) ∧
  (∀ (s : State) (r : Rail) (g : Fin 6), CompletesWith (exec (.phaseGroupFailed r g) s) fun t =>
    (railGroups r ≤ g.val → t = s) ∧
    (g.val < railGroups r → OnlyTouches [.dies, .power, .transport, .events, .headers] s t ∧ Logged t 0x0826 ∧
      (∀ i < 6, (t.railFail r).getLsbD i = ((s.railFail r).getLsbD i || decide (i = g.val))) ∧ ∀ q, q ≠ r → t.railFail q = s.railFail q)) ∧
  (∀ (s : State) (d : Fin 6) (n : Fin 17), CompletesWith (exec (.currentLimit d n) s) fun t =>
    OnlyTouches [.dies, .power, .transport, .events, .headers] s t ∧
    t.die d.val = { s.die d.val with stretch := n.val, stretches := satAdd 32 (s.die d.val).stretches 1 } ∧
    t.power.stretchEvents = satAdd 32 s.power.stretchEvents 1 ∧ (mget 0 s.power.stretchesLogged d.val ≠ s.nowSec + 1 → Logged t 0x0823) ∧
    (mget 0 s.power.stretchesLogged d.val = s.nowSec + 1 → t.journal.events = s.journal.events)) ∧
  (∀ (s : State) (d : Fin 6),
     (∀ n : Fin 17, CompletesWith (exec (.droopStretch d n) s) fun t => OnlyTouches [.dies] s t ∧
       ∀ k, t.die k = if k = d.val then { s.die k with stretch := n.val } else s.die k) ∧
     CompletesWith (exec (.droopRelease d) s) fun t => OnlyTouches [.dies] s t ∧
       ∀ k, t.die k = if k = d.val then { s.die k with stretch := 0 } else s.die k)

/-- THERMAL_THROTTLE and THROTTLE_STEP, in sixteenths of a degree (R529). A die at 105 °C holds its running jobs, and at 100 °C their
settings fall by one in each step, to 9 at the least; a stack refreshes hot from 85 °C, is limited from 92 °C and rests from 98 °C; the
hub slows at 100 °C, and at 110 °C the module sheds. Each response is counted and demotes the fixed-cadence jobs it strikes with cause 2.
THERMAL_TRIP and THERMAL_RELEASE (R529). A die at 110 °C is reset, its rail goes off and it is unusable, until it has cooled to 90 °C. The
other responses end in turn: a hold at 100 °C, lowering at 97 °C, a stack's rest at 90 °C and its limit at 89 °C, the hub's slow clock at
95 °C. -/
def Obligations.Thermal : Prop :=
  (∀ (s : State) (d : Fin 6) (v : Int), JobsOk s → CompletesWith (exec (.thermalThrottle (.die d) v) s) fun t =>
    let responds := 1600 ≤ v
    (t.die d.val).temp = v ∧ (¬responds → t.thermal = s.thermal ∧ t.jobs = s.jobs ∧ (t.die d.val).thermal = (s.die d.val).thermal) ∧
    (responds → t.thermal.events = satAdd 32 s.thermal.events 1 ∧ (t.die d.val).thermal = (if 1680 ≤ v then .holding else .lowering) ∧
      ∀ e j, s.job? e = some j → j.state.resident = true → j.hasDie d.val = true → ∃ k, t.job? e = some k ∧ k.id = j.id ∧ k.state = j.state ∧
        (j.fixedCadence = true → k.demoted = true ∧ k.demoteCause = 2) ∧
        (1680 ≤ v → j.state = .running → ∃ h, k.hold = some h ∧ 64 ≤ h.len))) ∧
  (∀ (s : State) (u : Fin 36) (v : Int), CompletesWith (exec (.thermalThrottle (.stack u) v) s) fun t =>
    let k := s.stack u.val
    let l := t.stack u.val
    l.temp = v ∧ t.mem = s.mem ∧ (v < 1360 → l = { k with temp := v } ∧ t.thermal = s.thermal) ∧
    (1360 ≤ v → l.hot = true ∧ t.thermal.events = satAdd 32 s.thermal.events 1 ∧
      l.thermal = (if 1568 ≤ v then .selfRefresh else if 1472 ≤ v then .limited else .hot) ∧ (1568 ≤ v → l.selfRefresh = true))) ∧
  (∀ (s : State) (v : Int), CompletesWith (exec (.thermalThrottle .hub v) s) fun t =>
    t.thermal.hubTemp = v ∧ (v < 1600 → OnlyTouches [.thermal] s t) ∧
    (1600 ≤ v → v < 1760 → t.clocks.hubSlow = true ∧ t.thermal.events = satAdd 32 s.thermal.events 1 ∧ t.power = s.power) ∧
    (1760 ≤ v → t.power.shedding = true ∧ t.mem = [] ∧ t.journal.lastReset = .bothFeeds)) ∧
  (∀ (s : State) (d : Fin 6), JobsOk s → CompletesWith (exec (.throttleStep d) s) fun t =>
     ((s.die d.val).thermal = .normal → t = s) ∧
     ((s.die d.val).thermal ≠ .normal → ∀ e j, s.job? e = some j → ∃ k, t.job? e = some k ∧ k.id = j.id ∧ k.setting = j.setting ∧
       (j.state.resident = true → j.hasDie d.val = true → k.targetSetting = max 9 (j.targetSetting - 1) ∧ (j.fixedCadence = true → k.demoted = true)) ∧
       (¬(j.state.resident = true ∧ j.hasDie d.val = true) → k = j))) ∧
  (∀ (s : State) (d : Fin 6) (v : Int), JobsOk s → CompletesWith (exec (.thermalTrip (.die d) v) s) fun t =>
    (v < 1760 → t = s) ∧
    (1760 ≤ v → DieRestarted s t d.val ∧ (t.die d.val).thermal = .tripped ∧ (t.die d.val).railOff = true ∧ (t.die d.val).unusable = true ∧
      t.journal.trips = satAdd 32 s.journal.trips 1 ∧ Logged t 0x0825)) ∧
  (∀ (s : State) (u : Fin 36) (v : Int), exec (.thermalTrip (.stack u) v) s = exec (.thermalThrottle (.stack u) v) s) ∧
  (∀ (s : State) (v : Int), (v < 1760 → exec (.thermalTrip .hub v) s = .next s) ∧
    (1760 ≤ v → exec (.thermalTrip .hub v) s = exec (.thermalThrottle .hub v) s)) ∧
  (∀ (s : State) (d : Fin 6) (v : Int), CompletesWith (exec (.thermalRelease (.die d) v) s) fun t => OnlyTouches [.dies, .jobs] s t ∧
    let x := s.die d.val
    t.die d.val = match x.thermal with
      | .tripped => if v ≤ 1440 then { x with temp := v, thermal := .normal, railOff := false, unusable := false } else { x with temp := v }
      | .holding => { x with temp := v, thermal := if v ≤ 1552 then .normal else if v ≤ 1600 then .lowering else .holding }
      | .lowering => { x with temp := v, thermal := if v ≤ 1552 then .normal else .lowering }
      | .normal => { x with temp := v }) ∧
  (∀ (s : State) (u : Fin 36) (v : Int), CompletesWith (exec (.thermalRelease (.stack u) v) s) fun t => OnlyTouches [.tielux] s t ∧
    let x := s.stack u.val
    t.stack u.val = match x.thermal with
      | .selfRefresh => if v ≤ 1440 then { x with temp := v, selfRefresh := false, thermal := if v ≤ 1424 then .hot else .limited }
        else { x with temp := v }
      | .limited => { x with temp := v, thermal := if v ≤ 1424 then .hot else .limited }
      | _ => { x with temp := v }) ∧
  (∀ (s : State) (v : Int), CompletesWith (exec (.thermalRelease .hub v) s) fun t => OnlyTouches [.thermal, .clocks] s t ∧
     t.thermal = { s.thermal with hubTemp := v } ∧ t.clocks = { s.clocks with hubSlow := s.clocks.hubSlow && !decide (v ≤ 1520) })

/-! ### Self-tests and analogue checks -/

/-- BIST_SLICE (R207, R363, R365, R520, R541). A core that a job's work stands on is moved to a free spare first. A core of a half that no
job holds is tested: one that fails is out of service, charged and logged. Neither a core nor a stack is tested in a hub-only S6 (R6). The
other items are a stack, the standby laser, an idle lane, and the hold-up bank, which stands on 70 % of its capacitance and 45 V.
SENSOR_CHECK, PLL_LOCK_LOSS and PLL_JITTER_FAIL (R542, R543). A failure is counted and logged; a sensor that failed gives no reading
again. A PLL that loses lock stops its domain, and a half's job restarts with its die. Jitter makes a PLL relock at its domain's next
idle, and the second time within a day makes it unusable. -/
def Obligations.SelfTests : Prop :=
  (∀ (s : State) (p : PhysCore) (pass : Bool), CompletesWith (exec (.bistSlice (.core p) pass) s) fun t =>
    let may := (s.half p.cl.half).failed = false ∧ s.unitsMayRun = true ∧ (s.goodCores p.cl.key).contains p.num.val = true
    let mapped := (s.cluster p.cl.key).maps p.num.val = true
    (¬may → t = s) ∧
    (may → (s.halfJob? p.cl.half).isSome → mapped →
      ((s.cluster p.cl.key).freeSpare? = none ∨ (s.cluster p.cl.key).copy ≠ none → t = s) ∧
      ((s.cluster p.cl.key).freeSpare?.isSome → (s.cluster p.cl.key).copy = none → t.bist.slices = s.bist.slices ∧
        ∃ q, (t.cluster p.cl.key).copy = some q ∧ q.source = p.num.val)) ∧
    (may → s.halfJob? p.cl.half = none → t.bist.slices = satAdd 32 s.bist.slices 1 ∧
      mget 0 t.bist.tested (UnitRef.core p).code = s.nowSec + 1 ∧
      (pass = true → t.journal.bistFailures = s.journal.bistFailures ∧ t.journal.faults = s.journal.faults) ∧
      (pass = false → t.journal.bistFailures = satAdd 32 s.journal.bistFailures 1 ∧ Logged t 0x0829 ∧ Charged s t (.core p) ∧
        (t.goodCores p.cl.key).contains p.num.val = false))) ∧
  (∀ (s : State) (u : Fin 36) (g : Fin 4) (pass : Bool), CompletesWith (exec (.bistSlice (.stackRegion u g) pass) s) fun t => t.mem = s.mem ∧
    ((s.stack u.val).failed = true ∨ s.unitsMayRun = false → t = s) ∧
    ((s.stack u.val).failed = false → s.unitsMayRun = true → t.bist.slices = satAdd 32 s.bist.slices 1 ∧ (pass = false → Logged t 0x0829 ∧
      t.bist.lastFailItem = 2 ∧ g.val ∈ (t.stack u.val).badRegions ∧ (t.stack u.val).spareRowsLeft = 0 ∧ t.journal.bistFailures = satAdd 32 s.journal.bistFailures 1))) ∧
  (∀ (s : State) (pass : Bool), CompletesWith (exec (.bistSlice .laser pass) s) fun t =>
    let idle := if s.optics.activeLb then s.optics.la else s.optics.lb
    (idle ≠ .standby → t = s) ∧
    (idle = .standby → t.bist.slices = satAdd 32 s.bist.slices 1 ∧ (pass = true → t.optics = s.optics) ∧
      (pass = false → Logged t 0x0829 ∧ (if s.optics.activeLb then t.optics.la else t.optics.lb) = .failed))) ∧
  (∀ (s : State) (n : Fin 8) (pass : Bool), CompletesWith (exec (.bistSlice (.lane n) pass) s) fun t =>
    let idle := s.port.linkUp = true ∧ (s.port.mode = .dr4Low ∧ 4 ≤ n.val ∨ s.port.mode = .dr4High ∧ n.val < 4)
    (¬idle → t = s) ∧
    (idle → t.bist.slices = satAdd 32 s.bist.slices 1 ∧ t.port.linkUp = true ∧ (pass = true → t.port = s.port) ∧
      (pass = false → Logged t 0x0829 ∧ (s.optics.quietUntil ≤ s.nowNs → t.port.laneFailed.getLsbD n.val = true)))) ∧
  (∀ (s : State) (cap mv : Nat) (pass : Bool), CompletesWith (exec (.bistSlice (.holdup cap mv) pass) s) fun t =>
     let ok := 7 * s.holdupNominal ≤ 10 * cap ∧ 45000 ≤ mv
     t.bist.slices = satAdd 32 s.bist.slices 1 ∧ t.power.holdupCap = min 65535 cap ∧ t.power.holdupMv = min 65535 mv ∧
     (t.journal.holdupOk = true ↔ ok) ∧ (¬ok → Logged t 0x0829) ∧ (¬ok → s.journal.holdupOk = true → Logged t 0x0827)) ∧
  (∀ (s : State) (n : Fin 64) (pass : Bool) (v : Int), CompletesWith (exec (.sensorCheck (.sensor n) pass v) s) fun t =>
    (pass = true → mget false s.thermal.unusable n.val = true → t = s) ∧
    (pass = true → mget false s.thermal.unusable n.val = false → mget 0 t.thermal.sensors n.val = v ∧ t.journal = s.journal ∧
      ∀ k, k ≠ n.val → mget 0 t.thermal.sensors k = mget 0 s.thermal.sensors k) ∧
    (pass = false → mget false t.thermal.unusable n.val = true ∧ Logged t 0x082A ∧ t.journal.bistFailures = satAdd 32 s.journal.bistFailures 1)) ∧
  (∀ (s : State) (d : Fin 6) (pass : Bool) (v : Int), CompletesWith (exec (.sensorCheck (.ring d) pass v) s) fun t =>
    (pass = true → OnlyTouches [.dies] s t ∧ t.die d.val = { s.die d.val with ringFails := 0 }) ∧
    (pass = false → t.die d.val = { s.die d.val with ringFails := min 2 ((s.die d.val).ringFails + 1) } ∧ Logged t 0x082A ∧
      t.journal.bistFailures = satAdd 32 s.journal.bistFailures 1)) ∧
  (∀ (s : State) (p : Pll), JobsOk s → CompletesWith (exec (.pllLockLoss p) s) fun t => Logged t 0x082A ∧
    t.journal.bistFailures = satAdd 32 s.journal.bistFailures 1 ∧
    match p with
    | .half h => (t.half h.val).clocked = false ∧ (t.half h.val).ready = false ∧ (t.half h.val).locked = false ∧
        (s.halfJob? h.val = none → t.jobs = s.jobs) ∧ ∀ e j, s.halfJob? h.val = some (e, j) → JobRestarted t e j
    | .spine d => (t.die d.val).spineClocked = false ∧ (t.die d.val).spineLocked = false ∧ t.jobs = s.jobs
    | .stack k => (t.stack k.val).clocked = false ∧ (t.stack k.val).pllLocked = false ∧ t.jobs = s.jobs
    | .hub => t.clocks.hubLocked = false ∧ t.jobs = s.jobs
    | .serdes => t.clocks.serdesLocked = false ∧ t.port.linkUp = false ∧ t.jobs = s.jobs) ∧
  (∀ (s : State) (p : Pll), CompletesWith (exec (.pllJitterFail p) s) fun t =>
     OnlyTouches [.transport, .events, .health, .headers, .clocks, .bist] s t ∧ Logged t 0x082A ∧
     let last := mget 0 s.clocks.jitterAt (pllCode p)
     let second := last ≠ 0 ∧ s.nowSec + 1 - last ≤ 86400 ∧ mget false s.clocks.pllUnusable (pllCode p) = false
     (second → mget false t.clocks.pllUnusable (pllCode p) = true ∧ t.journal.pllsUnusable = satAdd 32 s.journal.pllsUnusable 1) ∧
     (¬second → mget false t.clocks.jitterWaits (pllCode p) = true ∧ t.clocks.pllUnusable = s.clocks.pllUnusable))

/-! ### Security -/

/-- A register that stands alone as a row, written by a session whose role or consent may not write it, answers 0x0108 and changes nothing
(R412, R554, R556). REGISTER_WRITE and HIGH_WORD_READ, one access of an open session (R412, R552 to R558). A session to a peer has no
registers; an address that is no multiple of 4 or in no page answers 0x0109; a page whose unit is gone answers 0x0002; a write that the
role may not make answers 0x0108. An installer's EVT_ENABLE and EVT_STATUS take effect and are audited; a read gives the word the register
holds, and the read of a high word latches its low word for the session. REG_BATCH: more than 128 entries are answered with 0x0102 and
none of them has an effect; others are answered in one packet, in order and with their TAG, while no read of RNG_DATA stalls and the
session stays. -/
def Obligations.RegisterPages : Prop :=
  (∀ (s : State) (sess : Nat) (x : Session), s.session? sess = some x → x.opened = true →
     let maker (n : Nat) : Prop := x.role = .maker ∧ x.actions.getLsbD n = true
     let inst : Prop := x.role = .installer
     let denied (c : Instr) (addr data : Word) : Prop :=
       CompletesWith (exec c s) fun t => OnlyTouches [.transport] s t ∧ Answers t sess addr true data 0x0108
     (¬inst → ¬maker 5 → denied (.keyOpEnrol sess) 0xA10C 1) ∧
     (¬inst → denied (.keyOpRemove sess) 0xA10C 2 ∧ denied (.keyOpMakerCert sess) 0xA10C 3 ∧ denied (.alarmClear sess) 0xB104 2 ∧
       denied (.dr8Retry sess) 0x2104 4 ∧ ∀ shared : Bool, denied (.drbgMode sess shared) 0xB104 (if shared then 1 else 0)) ∧
     (¬maker 0 → ∀ on : Bool, denied (.rawMode sess on) 0xB104 (if on then 4 else 0)) ∧
     (¬maker 1 → denied (.scanArm sess) 0xA108 8) ∧
     (¬maker 2 → denied (.cfgOpWriteRecord sess) 0x1150 1) ∧
     (¬maker 4 → denied (.cfgOpUnclaim sess) 0x1150 2) ∧
     (x.role = .peer ∨ x.role = .claim → ∀ d : Word, denied (.jobSel sess d) 0x610C d ∧ denied (.auditSelLo sess d) 0xF114 d ∧
       denied (.evtSel sess d) 0x1160 d)) ∧
  (∀ (s : State) (sess : Nat) (addr data : Word) (x : Session), s.session? sess = some x → x.opened = true →
     let off := addr.toNat % 4096
     let page := regPage (addr.toNat / 4096)
     let host := x.role ≠ .peer ∧ x.role ≠ .claim ∧ addr.toNat % 4 = 0
     (CompletesWith (exec (.registerWrite sess addr data) s) fun t =>
       (x.role = .peer → OnlyTouches [.transport] s t ∧ Answers t sess addr true data 0x0108) ∧
       (x.role ≠ .peer → x.role ≠ .claim → addr.toNat % 4 ≠ 0 ∨ page = none → OnlyTouches [.transport] s t ∧ Answers t sess addr true data 0x0109) ∧
       ∀ g, host → page = some g →
         (regWritable g off = true → x.may g off data = false → OnlyTouches [.transport] s t ∧ Answers t sess addr true data 0x0108) ∧
         (s.unitGone g = true → off ≠ 0x00C → (regWritable g off = true → x.may g off data = true) →
           OnlyTouches [.transport] s t ∧ Answers t sess addr true data 0x0002) ∧
         (regWritable g off = false → s.unitGone g = false → Answers t sess addr true data 0 ∧ t.jobs = s.jobs ∧ t.mem = s.mem ∧
           t.journal.settings = s.journal.settings) ∧
         (x.role = .installer → s.unitGone g = false → off = 0x010 → Answers t sess addr true data 0 ∧ Audited s t 1 0 0x0005 0 ∧
           (mget {} t.headers (pageIndex g)).evtStatus = (mget {} s.headers (pageIndex g)).evtStatus &&& ~~~data) ∧
         (x.role = .installer → s.unitGone g = false → off = 0x014 → Answers t sess addr true data 0 ∧ Audited s t 1 0 0x0005 0 ∧
           (mget {} t.headers (pageIndex g)).evtEnable = data)) ∧
     CompletesWith (exec (.highWordRead sess addr) s) fun t =>
       (x.role = .peer → OnlyTouches [.transport] s t ∧ Answers t sess addr false 0 0x0108) ∧
       ∀ g, host → page = some g → s.unitGone g = false → ¬(g = .hub 0xB ∧ (off = 0x108 ∨ off = 0x10C)) → isLow g off = false →
         OnlyTouches [.halves, .dies, .tielux, .clocks, .transport] s t ∧
         Answers t sess addr false ((s.wakePage g).liveWord x g off) 0 ∧
         ∀ o ∈ lowsOf g off, ∃ y, t.session? sess = some y ∧
           mget 0 y.sel.low (4096 * pageIndex g + o) = (s.wakePage g).liveWord x g o) ∧
  (∀ (s : State) (sess tag : Nat) (es : List RegEntry) (x : Session), s.session? sess = some x → x.opened = true →
     CompletesWith (exec (.regBatch sess tag es) s) fun t =>
       (128 < es.length → OnlyTouches [.transport] s t ∧ Delivers t sess (.regReply tag 0x0102 [])) ∧
       (es.length ≤ 128 → (∀ e ∈ es, e.write = false → e.addr ≠ 0xB108) → (∃ y ∈ t.transport.sessions, y.id = sess) →
         ∃ l, Delivers t sess (.regReply tag 0 l) ∧ l.map (fun p => (p.1.addr, p.1.write)) = es.map fun e => (e.addr, e.write)))

/-! ### Register pages -/

/-- Settings (R374, R415, R475, R496, R521): an installer's write of MIN_SECURITY_VERSION raises it or leaves it, IDLE_TIMEOUT and BUDGET
take a value within their ranges and no other, and the write is audited either way. JOB_SEL, EVT_SEL and AUDIT_SEL_LO latch what they
select in the session's own copies, and nothing else changes (R327, R513, R555). DR8_RETRY of an installer is a port reset (R362). WAKE,
RETRY and EVT_FORCE on a page (R533, R540, R552, R557). An installer's WAKE clocks the page's unit; its RETRY tries a unit again that its
bring-up had marked unusable; a maker whose consent allows it forces one event for each bit. -/
def Obligations.RegisterEffects : Prop :=
  (∀ (s : State) (sess : Nat) (data : Word) (x : Session), s.session? sess = some x → x.opened = true → x.role = .installer →
     let g := s.journal.settings
     let write (addr : Word) (P : Settings → Prop) : Prop :=
       CompletesWith (exec (.registerWrite sess addr data) s) fun t => Answers t sess addr true data 0 ∧ Audited s t 1 0 0x0005 0 ∧ P t.journal.settings
     write 0xA13C (fun h => h = { g with minSecurityVersion := max g.minSecurityVersion data.toNat }) ∧
     write 0x4108 (fun h => h = if 10 ≤ data.toNat % 65536 ∧ data.toNat % 65536 ≤ 3600 then { g with idleTimeout := data.toNat % 65536 } else g) ∧
     write 0x7100 (fun h => h = if 704 ≤ data.toNat % 4096 ∧ data.toNat % 4096 ≤ 3800 then { g with budget := data.toNat % 4096 } else g) ∧
     write 0xC100 (fun h => h = { g with cdigestInterval := data.toNat / 65536, replayMode := data.getLsbD 0 })) ∧
  (∀ (s : State) (sess : Nat) (data : Word) (x : Session), s.session? sess = some x → x.opened = true →
     (x.role ≠ .peer → x.role ≠ .claim →
       (CompletesWith (exec (.jobSel sess data) s) fun t => OnlyTouches [.transport] s t ∧ Answers t sess 0x610C true data 0 ∧
         ∃ y, t.session? sess = some y ∧ y.sel = { x.sel with jobSel := data &&& 0xFFF#32, jobLatch := s.selWords (data.toNat % 4096) }) ∧
       (CompletesWith (exec (.evtSel sess data) s) fun t => OnlyTouches [.transport] s t ∧ Answers t sess 0x1160 true data 0 ∧
         ∃ y, t.session? sess = some y ∧ y.sel.evtSel = data ∧
           ((∀ e ∈ s.journal.events.drop (s.journal.events.length - s.config.eventsHeld), e.seq ≠ data.toNat) → y.sel.evtLatch = []) ∧
           ∀ e, (s.journal.events.drop (s.journal.events.length - s.config.eventsHeld)).find? (fun e => e.seq == data.toNat) = some e →
             ∀ i < 16, mget 0 y.sel.evtLatch i = word (beAt (eventBytes e) (4 * i) 4)) ∧
       CompletesWith (exec (.auditSelLo sess data) s) fun t => OnlyTouches [.transport] s t ∧ Answers t sess 0xF114 true data 0 ∧
         ∃ y, t.session? sess = some y ∧ y.sel.auditLo = data ∧
           ∀ e, s.journal.audit.find? (fun e => e.seq == x.sel.auditHi.toNat * 2 ^ 32 + data.toNat) = some e →
             ∀ i < 64, mget 0 y.sel.auditLatch i = word (beAt (auditBytes e ++ e.hash) (4 * i) 4)) ∧
     (x.role = .installer → CompletesWith (exec (.dr8Retry sess) s) fun t => Answers t sess 0x2104 true 4 0 ∧ Audited s t 1 0 0x0005 0 ∧
       t.port.laneFailed = 0 ∧ t.port.training = .dr8 ∧ t.port.linkUp = false ∧ t.journal.lastReset = .port ∧
       t.journal.settings = s.journal.settings)) ∧
  (∀ (s : State) (sess : Nat) (x : Session), s.session? sess = some x → x.opened = true →
     (x.role = .installer → ∀ k : Fin 384,
       let h := pageHalf k.val
       let usable := s.unitsMayRun = true ∧ (s.half h).failed = false ∧ (s.die (h / 2)).unusable = false ∧ (s.die (h / 2)).railOff = false
       (CompletesWith (exec (.wake sess (0x200 + k.val)) s) fun t => usable → (s.half h).unusable = false →
         Answers t sess (word (4096 * (0x200 + k.val) + 0x00C)) true 1 0 ∧ Audited s t 1 0 0x0005 0 ∧ (t.half h).clocked = true) ∧
       CompletesWith (exec (.retry sess (0x200 + k.val)) s) fun t => usable → (s.half h).unusable = true →
         Answers t sess (word (4096 * (0x200 + k.val) + 0x00C)) true 2 0 ∧ (t.half h).unusable = false ∧ (t.half h).clocked = true) ∧
     (x.role = .maker → x.actions.getLsbD 3 = true → ∀ (p : Fin 16) (data : Word),
       CompletesWith (exec (.evtForce sess p.val data) s) fun t => Answers t sess (word (4096 * p.val + 0x018)) true data 0 ∧
         t.config.eventNext = s.config.eventNext + ((List.range 32).filter data.getLsbD).length ∧ (data ≠ 0 → Logged t 0x0001)))

/-! ### Reset, invariants, and what every step keeps -/

/-- What reset leaves by the register tables (R327, R374, R415, R494, R513, R521): no job, no object, no session, no event and no audit entry;
no address; every installer setting at its Reset value; the module unclaimed; no command waiting and no byte of memory written. -/
def Obligations.ResetState : Prop :=
  let s := State.reset
  let g := s.journal.settings
  s.pending = [] ∧ s.mem = [] ∧ s.jobs.table = [] ∧ s.objects.held = [] ∧ s.objects.handles = [] ∧ s.transport.sessions = [] ∧
  s.journal.events = [] ∧ s.journal.audit = [] ∧ s.journal.auditNext = 0 ∧ s.journal.retired = [] ∧ s.journal.streams = [] ∧
  s.journal.claimed = false ∧ s.config.hubReady = false ∧ s.port.linkUp = false ∧ s.ptp.locked = false ∧
  g.unitAddr = 0 ∧ g.budget = 3800 ∧ g.cdigestInterval = 1024 ∧ g.replayMode = false ∧ g.programSigning = 0 ∧ g.requireEncryption = false ∧
  g.drbgShared = false ∧ g.minSecurityVersion = 0 ∧ g.udpPort = 47110 ∧ g.preemptEnable = true ∧ g.encapUdp = false ∧ g.pcpBulk = 0 ∧
  g.pcpExpress = 6 ∧ g.vid = 0 ∧ g.ipv6 = 0 ∧ g.priority1 = 128 ∧ g.priority2 = 128 ∧ g.domain = 0 ∧ g.ptpUdp = false ∧ g.slaveOnly = true ∧
  g.asymmetry = 0 ∧ g.idleTimeout = 60

/-- The state right after reset has every invariant that the steps keep. -/
def Obligations.ResetInvariants : Prop :=
  MemoryOk State.reset ∧ EventRingOk State.reset ∧ AuditOk State.reset ∧ MapsOk State.reset ∧ JobsOk State.reset ∧ HandlesOk State.reset

/-- Every step keeps the form of the state: memory lists each written byte once and no byte that reads as an unlisted one, the ring of events
holds at most 65,536 records (R413), the job table lists each entry once, and at most 64 loads are open (R404). -/
def Obligations.StepKeepsForms : Prop :=
  ∀ s t : State, step s = .next t →
    (MemoryOk s → MemoryOk t) ∧ (EventRingOk s → EventRingOk t) ∧ (JobsOk s ∧ HandlesOk s → JobsOk t ∧ HandlesOk t)

/-- Every step keeps the audit log a chain (R494, R495): consecutive numbers up to the next one, each entry with the hash of its own bytes and
of the entry before it, the oldest entry held following the anchor, at most 131,072 entries. -/
def Obligations.StepKeepsAuditChain : Prop := ∀ s t : State, step s = .next t → AuditOk s → AuditOk t

/-- Every step keeps the core maps in order (R204 to R206): no core of a cluster serves two positions, a free spare serves none, and a copy
under way leaves the core of its position for one that serves none. -/
def Obligations.StepKeepsCoreMaps : Prop := ∀ s t : State, step s = .next t → MapsOk s → MapsOk t

/-- What no step takes back: MIN_SECURITY_VERSION never falls (R496), the number of the next audit entry never falls (R494), job identifiers and
submission sequence numbers are not given twice (R293), and a unit that is retired stays so (R464). -/
def Obligations.StepNeverLowers : Prop :=
  ∀ s t : State, step s = .next t →
    s.journal.settings.minSecurityVersion ≤ t.journal.settings.minSecurityVersion ∧ s.journal.auditNext ≤ t.journal.auditNext ∧
    s.jobs.nextId ≤ t.jobs.nextId ∧ s.jobs.nextSeq ≤ t.jobs.nextSeq ∧ ∀ u ∈ s.journal.retired, u ∈ t.journal.retired

/-- The frame of every command: it changes no part of the state but those that `touches` lists for it (memory, the jobs, the settings, the keys,
the audit log, the entropy block, the port and the others), and it leaves the queue alone. -/
def Obligations.CommandFrame : Prop :=
  ∀ (c : Instr) (s t : State), exec c s = .next t → OnlyTouches (touches c) s t ∧ t.pending = s.pending

/-- The words of the cluster slice stand for their commands, with every operand at every value its field admits (R215, R227, R230, R234, R237):
a FLD.ACC word, a DRW.BIN word, an ST.LINE word, and the two mesh forms of a router word. -/
def Obligations.SlotWordsStandForCommands : Prop :=
  ∀ cl : ClusterRef,
    (∀ o : FldAccOps,
      let src := match o.src with | .playa => 0 | .caravan => 1
      let form := match o.form with | .scalar => 0 | .potts => 1 | .full => 2
      slotCommand 0 cl (0x02 * 2 ^ 26 + o.lm * 2 ^ 24 + src * 2 ^ 23 + o.agc * 2 ^ 20 + bit o.half * 2 ^ 19 + o.ags * 2 ^ 16 +
        3 * bit o.aux * 2 ^ 14 + form * 2 ^ 12 + o.g * 2 ^ 7 + bit o.inc * 2 ^ 6 + bit o.first * 2 ^ 5 + bit o.last * 2 ^ 4 + o.dd * 2 ^ 2) =
          some (.fldAcc { o with cl := cl, parity := none })) ∧
    (∀ o : DrawOps,
      slotCommand 1 cl (0x09 * 2 ^ 26 + o.lm * 2 ^ 24 + o.dd * 2 ^ 22 + o.agw * 2 ^ 19 + bit o.launch * 2 ^ 18 + o.sel * 2 ^ 16 +
        o.ags * 2 ^ 13 + bit o.inc * 2 ^ 12) = some (.drwBin { o with cl := cl })) ∧
    (∀ o : StLineOps,
      slotCommand 2 cl (0x1F * 2 ^ 26 + o.ag * 2 ^ 21 + o.tgt * 2 ^ 9 + o.ago * 2 ^ 6 + bit o.inc * 2 ^ 5) =
        some (.stLine { o with cl := cl })) ∧
    ∀ (s : SendOps) (f : FwdOps), s.agd = f.agd →
      let mask (m : OutMask) : Nat := 8 * bit m.n + 4 * bit m.e + 2 * bit m.s + bit m.w
      let w := mask s.outL * 2 ^ 28 + mask f.outN * 2 ^ 24 + mask f.outE * 2 ^ 20 + mask f.outS * 2 ^ 16 + mask f.outW * 2 ^ 12 +
        bit s.deliver * 2 ^ 11 + mask f.dlv * 2 ^ 7 + f.agd * 2 ^ 4 + s.lttl * 2 ^ 2
      routerSend cl w = { s with cl := cl } ∧ routerFwd cl w = { f with cl := cl, parity := none }
end

