-- ==== Sys2Proof/Laws/SparseMap.lean ====
section
/-! SUPPORT. The laws of sparse maps and of memory: a write is read back, leaves every other key alone, and keeps the canonical form. -/

set_option Elab.async false

namespace Sys2Proof.Machine

open Sys2Proof

section
variable {α : Type}

-- The proofs before this one are checked before the next ones start.
theorem mrising_weaken {a b : Nat} (h : b ≤ a) : ∀ {m : SMap α}, mrising (some a) m = true → mrising (some b) m = true
  | [], _ => rfl
  | (c, _) :: m, hm => by
    simp only [mrising, Bool.and_eq_true, decide_eq_true_eq] at hm ⊢
    exact ⟨by omega, hm.2⟩

theorem mrising_none {a : Nat} : ∀ {m : SMap α}, mrising (some a) m = true → mrising none m = true
  | [], _ => rfl
  | (c, _) :: m, hm => by
    simp only [mrising, Bool.and_eq_true] at hm ⊢
    exact ⟨trivial, hm.2⟩

theorem mrising_tail {lo : Option Nat} {e : Nat × α} {m : SMap α} (h : mrising lo (e :: m) = true) : mrising (some e.1) m = true := by
  simp only [mrising, Bool.and_eq_true] at h
  exact h.2

theorem mget_minsert (d : α) (k : Nat) (x : α) (i : Nat) : ∀ (m : SMap α), mget d (minsert m k x) i = if i = k then x else mget d m i
  | [] => by
    by_cases h : i = k
    · simp [minsert, mget, h]
    · simp [minsert, mget, h, Ne.symm h]
  | (c, v) :: m => by
    have ih := mget_minsert d k x i m
    unfold minsert
    by_cases h1 : k < c
    · rw [if_pos h1]
      by_cases h : i = k
      · simp [mget, h]
      · simp [mget, h, Ne.symm h]
    · rw [if_neg h1]
      by_cases h2 : c = k
      · rw [if_pos h2]
        by_cases h : i = k
        · simp [mget, h]
        · simp [mget, h, Ne.symm h, h2]
      · rw [if_neg h2, mget, ih, mget]
        by_cases h : i = k
        · rw [if_pos h, if_pos h, if_neg (by omega)]
        · rw [if_neg h, if_neg h]

theorem mget_merase (d : α) (k i : Nat) : ∀ (m : SMap α), mget d (merase m k) i = if i = k then d else mget d m i
  | [] => by simp [merase, mget]
  | (c, v) :: m => by
    have ih := mget_merase d k i m
    unfold merase at ih ⊢
    rw [List.filter_cons]
    by_cases h1 : c = k
    · rw [if_neg (by simp [h1]), ih, mget]
      by_cases h : i = k
      · rw [if_pos h, if_pos h]
      · rw [if_neg h, if_neg h, if_neg (by omega)]
    · rw [if_pos (by simp [h1]), mget, ih, mget]
      by_cases h : i = k
      · rw [if_pos h, if_pos h, if_neg (by omega)]
      · rw [if_neg h, if_neg h]

variable [DecidableEq α]

/-- Reading a map after a write: the value written at the key written, and what was there before everywhere else. -/
theorem mget_mset (d : α) (m : SMap α) (k : Nat) (x : α) (i : Nat) : mget d (mset d m k x) i = if i = k then x else mget d m i := by
  unfold mset
  by_cases hx : x = d
  · rw [if_pos hx, mget_merase, hx]
  · rw [if_neg hx, mget_minsert]

@[simp] theorem mget_mset_self (d : α) (m : SMap α) (k : Nat) (x : α) : mget d (mset d m k x) k = x := by
  rw [mget_mset, if_pos rfl]

theorem mget_mset_other (d : α) (m : SMap α) {k i : Nat} (x : α) (hi : i ≠ k) : mget d (mset d m k x) i = mget d m i := by
  rw [mget_mset, if_neg hi]

theorem mget_mmod (d : α) (m : SMap α) (k : Nat) (f : α → α) (i : Nat) :
    mget d (mmod d m k f) i = if i = k then f (mget d m k) else mget d m i := mget_mset d m k _ i

@[simp] theorem mget_mmod_self (d : α) (m : SMap α) (k : Nat) (f : α → α) : mget d (mmod d m k f) k = f (mget d m k) :=
  mget_mset_self d m k _

omit [DecidableEq α] in
theorem minsert_rising {x : α} {k : Nat} :
    ∀ {lo : Option Nat} {m : SMap α}, (∀ b, lo = some b → b < k) → mrising lo m = true → mrising lo (minsert m k x) = true
  | lo, [], hlo, _ => by
    cases lo with
    | none => rfl
    | some b => simp [minsert, mrising, hlo b rfl]
  | lo, (c, v) :: m, hlo, hm => by
    have ht := mrising_tail hm
    unfold minsert
    by_cases h1 : k < c
    · rw [if_pos h1]
      cases lo with
      | none => simp only [mrising, Bool.and_eq_true, decide_eq_true_eq]; exact ⟨trivial, h1, ht⟩
      | some b => simp only [mrising, Bool.and_eq_true, decide_eq_true_eq]; exact ⟨hlo b rfl, h1, ht⟩
    · rw [if_neg h1]
      by_cases h2 : c = k
      · rw [if_pos h2]
        subst h2
        simp only [mrising, Bool.and_eq_true] at hm ⊢
        exact hm
      · rw [if_neg h2]
        simp only [mrising, Bool.and_eq_true] at hm ⊢
        exact ⟨hm.1, minsert_rising (fun b hb => by cases hb; omega) hm.2⟩

omit [DecidableEq α] in
theorem mem_minsert {x : α} {k : Nat} {e : Nat × α} : ∀ {m : SMap α}, e ∈ minsert m k x → e = (k, x) ∨ e ∈ m
  | [], h => by simpa [minsert] using h
  | (c, v) :: m, h => by
    unfold minsert at h
    split at h
    · simpa using h
    · split at h
      · rcases List.mem_cons.1 h with h | h
        · exact .inl h
        · exact .inr (List.mem_cons_of_mem _ h)
      · rcases List.mem_cons.1 h with h | h
        · exact .inr (by simp [h])
        · exact (mem_minsert h).imp id (List.mem_cons_of_mem _)

omit [DecidableEq α] in
theorem mrising_filter (p : Nat × α → Bool) : ∀ {lo : Option Nat} {m : SMap α}, mrising lo m = true → mrising lo (m.filter p) = true
  | _, [], _ => rfl
  | lo, (c, v) :: m, hm => by
    have ih := mrising_filter p (mrising_tail hm)
    rw [List.filter_cons]
    split
    · simp only [mrising, Bool.and_eq_true] at hm ⊢
      exact ⟨hm.1, ih⟩
    · cases lo with
      | none => exact mrising_none ih
      | some b =>
        simp only [mrising, Bool.and_eq_true, decide_eq_true_eq] at hm
        exact mrising_weaken (by omega) ih

theorem mwf_filter {d : α} {m : SMap α} (p : Nat × α → Bool) (h : mwf d m = true) : mwf d (m.filter p) = true := by
  simp only [mwf, Bool.and_eq_true, List.all_eq_true, decide_eq_true_eq] at h ⊢
  exact ⟨mrising_filter p h.1, fun e he => h.2 e (List.mem_filter.1 he).1⟩

/-- A write keeps the canonical form. -/
theorem mwf_mset {d : α} {m : SMap α} (h : mwf d m = true) (k : Nat) (x : α) : mwf d (mset d m k x) = true := by
  unfold mset
  by_cases hx : x = d
  · rw [if_pos hx]
    exact mwf_filter _ h
  · rw [if_neg hx]
    simp only [mwf, Bool.and_eq_true, List.all_eq_true, decide_eq_true_eq] at h ⊢
    refine ⟨minsert_rising (fun b hb => by cases hb) h.1, fun e he => ?_⟩
    rcases mem_minsert he with he | he
    · rw [he]
      exact hx
    · exact h.2 e he

/-- Entries changed where they stand, none of them to the default, keep the canonical form. -/
theorem mwf_mapJobs {β : Type} [DecidableEq β] {f : Nat → β → β} {m : SMap (Option β)} (h : mwf none m = true) :
    mwf none (m.map fun e => (e.1, e.2.map (f e.1))) = true := by
  have hr : ∀ (m : SMap (Option β)) (lo : Option Nat), mrising lo m = true → mrising lo (m.map fun e => (e.1, e.2.map (f e.1))) = true := by
    intro m
    induction m with
    | nil => exact fun _ _ => rfl
    | cons e m ih =>
      intro lo h
      simp only [mrising, List.map_cons, Bool.and_eq_true] at h ⊢
      exact ⟨h.1, ih _ h.2⟩
  simp only [mwf, Bool.and_eq_true, List.all_eq_true, decide_eq_true_eq] at h ⊢
  refine ⟨hr m none h.1, fun e he => ?_⟩
  obtain ⟨a, ha, rfl⟩ := List.mem_map.1 he
  have := h.2 a ha
  cases hx : a.2 with
  | none => exact absurd hx this
  | some v => simp

end

/-- A change of the first entry that satisfies a test keeps the length. -/
theorem length_modFirst {α : Type} (p : α → Bool) (f : α → α) (l : List α) : (modFirst p f l).length = l.length := by
  induction l with
  | nil => rfl
  | cons a l ih =>
    simp only [modFirst]
    split
    · rfl
    · simp only [List.length_cons, ih]

/-! ### Memory -/

theorem Memory.wf_nil : Memory.wf [] = true := rfl

theorem writeByte_wf {m : List Host.Cell} (h : Memory.wf m = true) (a : Nat) (b : Byte) : Memory.wf (writeByte m a b) = true :=
  mwf_mset h a b

theorem readByte_writeByte (m : List Host.Cell) (a : Nat) (b : Byte) (i : Nat) :
    readByte (writeByte m a b) i = if i = a then b else readByte m i := mget_mset 0 m a b i

/-- A byte string written keeps the canonical form. -/
theorem writeBytes_wf : ∀ (bs : Bytes) {m : List Host.Cell} (a : Nat), Memory.wf m = true → Memory.wf (writeBytes m a bs) = true
  | [], _, _, h => h
  | b :: bs, _, a, h => writeBytes_wf bs (a + 1) (writeByte_wf h a b)

/-- A byte string written is read back, and every byte outside it reads as before. -/
theorem readByte_writeBytes : ∀ (bs : Bytes) (m : List Host.Cell) (a i : Nat),
    readByte (writeBytes m a bs) i = if a ≤ i ∧ i < a + bs.length then bs.getD (i - a) 0 else readByte m i
  | [], _, a, i => by
    rw [if_neg (by simp only [List.length_nil]; omega)]
    rfl
  | b :: bs, m, a, i => by
    rw [writeBytes, readByte_writeBytes bs _ (a + 1) i, readByte_writeByte]
    simp only [List.length_cons]
    by_cases h1 : i = a
    · subst h1
      rw [if_neg (by omega), if_pos rfl, if_pos (by omega), Nat.sub_self]
      rfl
    · by_cases h2 : a + 1 ≤ i ∧ i < a + 1 + bs.length
      · rw [if_pos h2, if_pos (by omega)]
        have : i - a = (i - (a + 1)) + 1 := by omega
        rw [this]
        rfl
      · rw [if_neg h2, if_neg h1, if_neg (by omega)]

theorem writeLine_wf {m : List Host.Cell} (h : Memory.wf m = true) (a : Nat) (v : BitVec 512) : Memory.wf (writeLine m a v) = true :=
  writeBytes_wf _ a h

end Sys2Proof.Machine
end

