-- ==== Sys2Proof/Laws/Kept.lean ====
section
/-! SUPPORT. What every operation of the machine keeps, said once: the queue, canonical memory, the bounded ring of events, the chain of
the audit log, the numbers that only rise, and every part of the state outside the listed ones. The lemmas on the operations stand in the
other files of Laws, one for each. -/

set_option Elab.async false

namespace Sys2Proof.Safety

open Sys2Proof Sys2Proof.Machine

-- The proofs before this one are checked before the next ones start.
/-- A smaller list of parts, by a computed test. -/
theorem Part.sub {A B C : List Part} (h : B ⊆ A) (hc : (C.all fun p => B.contains p) = true) : C ⊆ A := by
  intro p hp
  have := List.all_eq_true.1 hc p hp
  exact h (by simpa using this)

theorem Part.sameJournal_trans {p : Part} {i j k : Journal} (h : p.sameJournal i j) (g : p.sameJournal j k) : p.sameJournal i k := by
  cases p <;> first | trivial | exact Eq.trans g h

theorem Part.sameConfig_trans {p : Part} {i j k : Config} (h : p.sameConfig i j) (g : p.sameConfig j k) : p.sameConfig i k := by
  cases p <;> first | trivial | exact Eq.trans g h | (simp only [Part.sameConfig] at h g ⊢; rw [g, h])

theorem Part.same_trans {p : Part} {r s t : State} (h : p.same r s) (g : p.same s t) : p.same r t := by
  cases p <;> first | exact Eq.trans g h | exact ⟨Part.sameJournal_trans h.1 g.1, Part.sameConfig_trans h.2 g.2⟩

theorem Part.same_refl (p : Part) (s : State) : p.same s s := by
  cases p <;> first | exact rfl | exact ⟨rfl, trivial⟩ | exact ⟨rfl, rfl⟩ | exact ⟨trivial, rfl⟩

theorem OnlyTouches.refl (A : List Part) (s : State) : OnlyTouches A s s := ⟨fun p _ => p.same_refl s⟩

theorem OnlyTouches.trans {A : List Part} {r s t : State} (h : OnlyTouches A r s) (g : OnlyTouches A s t) : OnlyTouches A r t :=
  ⟨fun p hp => Part.same_trans (h.same p hp) (g.same p hp)⟩

theorem OnlyTouches.mono {A B : List Part} {s t : State} (h : OnlyTouches A s t) (hs : A ⊆ B) : OnlyTouches B s t := ⟨fun p hp => h.same p fun x => hp (hs x)⟩

end Sys2Proof.Safety

namespace Sys2Proof.Machine

open Sys2Proof Sys2Proof.Safety

/-- A map with no position is in order. -/
theorem mapOk_nil {o0 o1 : SpareState} : MapOk [] o0 o1 none :=
  ⟨fun _ _ _ h => by simp at h, fun _ _ h => by simp at h, fun _ _ h => by simp at h, fun _ h => by cases h⟩

/-- `t` comes after `s` in a run of one command that touches the parts `A`: the queue stands, memory keeps its canonical form, the rings of
events and of audit entries keep their bounds and the chain, MIN_SECURITY_VERSION and the number of the next audit entry do not fall,
and nothing changes outside `A`. -/
structure Kept (A : List Part) (s t : State) : Prop where
  queue : t.pending = s.pending
  memory : MemoryOk s → MemoryOk t
  events : EventRingOk s → EventRingOk t
  audit : AuditOk s → AuditOk t
  security : s.journal.settings.minSecurityVersion ≤ t.journal.settings.minSecurityVersion
  number : s.journal.auditNext ≤ t.journal.auditNext
  maps : MapsOk s → MapsOk t
  jobId : s.jobs.nextId ≤ t.jobs.nextId
  jobSeq : s.jobs.nextSeq ≤ t.jobs.nextSeq
  retired : ∀ u ∈ s.journal.retired, u ∈ t.journal.retired
  slots : SlotsOk s → SlotsOk t
  frame : OnlyTouches A s t

/-- The journal fields that `Kept` speaks of. -/
structure KeptJournal (A : List Part) (j j' : Journal) : Prop where
  events : j'.events = j.events
  audit : j'.audit = j.audit
  next : j'.auditNext = j.auditNext
  overwritten : j'.auditOverwritten = j.auditOverwritten
  anchor : j'.anchorHash = j.anchorHash
  security : j.settings.minSecurityVersion ≤ j'.settings.minSecurityVersion
  retired : ∀ u ∈ j.retired, u ∈ j'.retired
  frame : ∀ p, p ∉ A → p.sameJournal j j'

/-- A configuration changed within the parts `A`. -/
structure KeptConfig (A : List Part) (c c' : Config) : Prop where
  frame : ∀ p, p ∉ A → p.sameConfig c c'

namespace Kept

variable {A : List Part}

theorem refl (s : State) : Kept A s s :=
  ⟨rfl, id, id, id, Nat.le_refl _, Nat.le_refl _, id, Nat.le_refl _, Nat.le_refl _, fun _ h => h, id, OnlyTouches.refl A s⟩

theorem trans {r s t : State} (h : Kept A r s) (k : Kept A s t) : Kept A r t :=
  ⟨k.queue.trans h.queue, fun x => k.memory (h.memory x), fun x => k.events (h.events x), fun x => k.audit (h.audit x),
    Nat.le_trans h.security k.security, Nat.le_trans h.number k.number, fun x => k.maps (h.maps x), Nat.le_trans h.jobId k.jobId,
    Nat.le_trans h.jobSeq k.jobSeq, fun u x => k.retired u (h.retired u x), fun x => k.slots (h.slots x), h.frame.trans k.frame⟩

theorem mono {B : List Part} {s t : State} (h : Kept A s t) (hs : A ⊆ B) : Kept B s t :=
  ⟨h.queue, h.memory, h.events, h.audit, h.security, h.number, h.maps, h.jobId, h.jobSeq, h.retired, h.slots, h.frame.mono hs⟩

theorem audit_of_eq {s t : State} (he : t.journal.audit = s.journal.audit) (hn : t.journal.auditNext = s.journal.auditNext)
    (ho : t.journal.auditOverwritten = s.journal.auditOverwritten) (ha : t.journal.anchorHash = s.journal.anchorHash) (x : AuditOk s) : AuditOk t := by
  refine ⟨?_, ?_, ?_, ?_, ?_⟩
  · rw [he]; exact x.bounded
  · rw [he]; exact x.hashed
  · rw [he, hn]; exact x.chained
  · rw [he, hn, ho]; exact x.empty
  · rw [he, ho, ha]; exact x.oldest

/-- An update that leaves the journal and the job numbers alone and keeps the forms of memory and of the core maps. -/
theorem updAll {s₀ t : State} (h : Kept A s₀ t) (t' : State) (hq : t'.pending = t.pending)
    (hm : Memory.wf t.mem = true → Memory.wf t'.mem = true) (hj : t'.journal = t.journal) (hc : MapsOk t → MapsOk t')
    (hi : t.jobs.nextId ≤ t'.jobs.nextId ∧ t.jobs.nextSeq ≤ t'.jobs.nextSeq) (hf : OnlyTouches A t t')
    (hx : SlotsOk t → SlotsOk t' := by exact fun x => x) : Kept A s₀ t' := by
  refine h.trans ⟨hq, hm, fun x => ?_, fun x => ?_, ?_, ?_, hc, hi.1, hi.2, fun u x => ?_, hx, hf⟩
  · simpa only [EventRingOk, hj] using x
  · exact audit_of_eq (by rw [hj]) (by rw [hj]) (by rw [hj]) (by rw [hj]) x
  · rw [hj]
  · rw [hj]
  · rw [hj]; exact x

/-- An update of memory that keeps its form, the journal, the clusters and the jobs left alone. -/
theorem updMem {s₀ t : State} (h : Kept A s₀ t) (t' : State) (hq : t'.pending = t.pending)
    (hm : Memory.wf t.mem = true → Memory.wf t'.mem = true) (hj : t'.journal = t.journal) (hc : t'.clusters = t.clusters) (ho : t'.jobs = t.jobs)
    (hf : OnlyTouches A t t')
    (hx : SlotsOk t → SlotsOk t' := by exact fun x => x) : Kept A s₀ t' :=
  h.updAll t' hq hm hj (fun x => by unfold MapsOk; rw [hc]; exact x) (by rw [ho]; exact ⟨Nat.le_refl _, Nat.le_refl _⟩) hf hx

/-- An update that leaves the queue, memory and the journal alone. -/
theorem upd {s₀ t : State} (h : Kept A s₀ t) (t' : State) (hq : t'.pending = t.pending) (hm : t'.mem = t.mem)
    (hj : t'.journal = t.journal) (hc : t'.clusters = t.clusters) (ho : t'.jobs.nextId = t.jobs.nextId) (hp : t'.jobs.nextSeq = t.jobs.nextSeq)
    (hf : OnlyTouches A t t')
    (hx : SlotsOk t → SlotsOk t' := by exact fun x => x) : Kept A s₀ t' :=
  h.updAll t' hq (fun x => (congrArg (fun m => Memory.wf m = true) hm).mpr x) hj (fun x => by unfold MapsOk; rw [hc]; exact x)
    ⟨Nat.le_of_eq ho.symm, Nat.le_of_eq hp.symm⟩ hf hx

/-- An update of the clusters that keeps the core maps in order. -/
theorem updMap {s₀ t : State} (h : Kept A s₀ t) (t' : State) (hq : t'.pending = t.pending) (hm : t'.mem = t.mem)
    (hj : t'.journal = t.journal) (hc : MapsOk t → MapsOk t') (ho : t'.jobs = t.jobs) (hf : OnlyTouches A t t')
    (hx : SlotsOk t → SlotsOk t' := by exact fun x => x) : Kept A s₀ t' :=
  h.updAll t' hq (fun x => (congrArg (fun m => Memory.wf m = true) hm).mpr x) hj hc (by rw [ho]; exact ⟨Nat.le_refl _, Nat.le_refl _⟩) hf hx

/-- An update of the journal outside the two rings. -/
theorem updJ {s₀ t : State} (h : Kept A s₀ t) (t' : State) (hq : t'.pending = t.pending) (hm : t'.mem = t.mem)
    (he : t'.journal.events = t.journal.events) (ha : t'.journal.audit = t.journal.audit) (hn : t'.journal.auditNext = t.journal.auditNext)
    (ho : t'.journal.auditOverwritten = t.journal.auditOverwritten) (hh : t'.journal.anchorHash = t.journal.anchorHash)
    (hs : t.journal.settings.minSecurityVersion ≤ t'.journal.settings.minSecurityVersion) (hr : ∀ u ∈ t.journal.retired, u ∈ t'.journal.retired)
    (hc : t'.clusters = t.clusters) (hi : t'.jobs.nextId = t.jobs.nextId) (hk : t'.jobs.nextSeq = t.jobs.nextSeq)
    (hf : OnlyTouches A t t')
    (hx : SlotsOk t → SlotsOk t' := by exact fun x => x) : Kept A s₀ t' := by
  refine h.trans ⟨hq, fun x => ?_, fun x => ?_, audit_of_eq ha hn ho hh, hs, Nat.le_of_eq hn.symm, fun x => ?_, Nat.le_of_eq hi.symm,
    Nat.le_of_eq hk.symm, hr, hx, hf⟩
  · exact (congrArg (fun m => Memory.wf m = true) hm).mpr x
  · simpa only [EventRingOk, he] using x
  · unfold MapsOk
    rw [hc]
    exact x

/-- A whole record put in place of a state, the journal as before it. -/
theorem record {s₀ s : State} (h : Kept A s₀ s) {cl ha di ti me jo ob tr jn po pt op pw ck th se en it bi cf hd fr pe}
    (hq : pe = s.pending) (hm : me = s.mem) (hj : jn = s.journal) (hc : cl = s.clusters) (hi : jo.nextId = s.jobs.nextId)
    (hk : jo.nextSeq = s.jobs.nextSeq)
    (hf : OnlyTouches A s (State.mk cl ha di ti me jo ob tr jn po pt op pw ck th se en it bi cf hd fr pe))
    (hx : SlotsOk s → SlotsOk (State.mk cl ha di ti me jo ob tr jn po pt op pw ck th se en it bi cf hd fr pe) := by exact fun x => x) :
    Kept A s₀ (State.mk cl ha di ti me jo ob tr jn po pt op pw ck th se en it bi cf hd fr pe) :=
  h.upd _ hq hm hj hc hi hk hf hx

/-- The same where the journal changes outside the two rings. -/
theorem recordJ {s₀ s : State} (h : Kept A s₀ s) {cl ha di ti me jo ob tr jn po pt op pw ck th se en it bi cf hd fr pe}
    (hq : pe = s.pending) (hm : me = s.mem) (he : jn.events = s.journal.events) (hu : jn.audit = s.journal.audit)
    (hn : jn.auditNext = s.journal.auditNext) (ho : jn.auditOverwritten = s.journal.auditOverwritten)
    (hh : jn.anchorHash = s.journal.anchorHash) (hs : s.journal.settings.minSecurityVersion ≤ jn.settings.minSecurityVersion)
    (hr : ∀ u ∈ s.journal.retired, u ∈ jn.retired) (hc : cl = s.clusters) (hi : jo.nextId = s.jobs.nextId)
    (hk : jo.nextSeq = s.jobs.nextSeq)
    (hf : OnlyTouches A s (State.mk cl ha di ti me jo ob tr jn po pt op pw ck th se en it bi cf hd fr pe))
    (hx : SlotsOk s → SlotsOk (State.mk cl ha di ti me jo ob tr jn po pt op pw ck th se en it bi cf hd fr pe) := by exact fun x => x) :
    Kept A s₀ (State.mk cl ha di ti me jo ob tr jn po pt op pw ck th se en it bi cf hd fr pe) :=
  h.updJ _ hq hm he hu hn ho hh hs hr hc hi hk hf hx

/-- The entries of a cluster list changed, each keeping its core map in order. -/
theorem mapsOk_map {s t : State} {f : Nat × Cluster → Nat × Cluster} (ht : t.clusters = s.clusters.map f)
    (hf : ∀ e, MapOk e.2.coreMap e.2.o0 e.2.o1 e.2.copy → MapOk (f e).2.coreMap (f e).2.o0 (f e).2.o1 (f e).2.copy) (x : MapsOk s) : MapsOk t := by
  intro e he
  rw [ht] at he
  obtain ⟨a, ha, rfl⟩ := List.mem_map.1 he
  exact hf a (x a ha)

/-- A cluster's entry, listed or not, has its core map in order. -/
theorem mapOk_cluster {s : State} (x : MapsOk s) (k : Nat) :
    MapOk (s.cluster k).coreMap (s.cluster k).o0 (s.cluster k).o1 (s.cluster k).copy := by
  have : ∀ m : SMap Cluster, (∀ e ∈ m, MapOk e.2.coreMap e.2.o0 e.2.o1 e.2.copy) →
      MapOk (mget {} m k).coreMap (mget {} m k).o0 (mget {} m k).o1 (mget {} m k).copy := by
    intro m
    induction m with
    | nil => intro _; exact ⟨fun _ _ _ h => by simp [mget] at h, fun _ _ h => by simp [mget] at h, fun _ _ h => by simp [mget] at h, fun _ h => by simp [mget] at h⟩
    | cons e m ih =>
      intro h
      simp only [mget]
      split
      · exact h e List.mem_cons_self
      · exact ih fun e he => h e (List.mem_cons_of_mem _ he)
  exact this _ x

/-- One cluster changed, its core map kept in order. -/
theorem mapsOk_modCluster {s : State} {k : Nat} {f : Cluster → Cluster}
    (hf : ∀ c, c = s.cluster k → MapOk c.coreMap c.o0 c.o1 c.copy → MapOk (f c).coreMap (f c).o0 (f c).o1 (f c).copy) (x : MapsOk s) :
    MapsOk (s.modCluster k f) := by
  intro e he
  simp only [State.modCluster, mmod, mset] at he
  split at he
  · exact x e (List.mem_filter.1 he).1
  · rcases mem_minsert he with rfl | he
    · exact hf _ rfl (mapOk_cluster x k)
    · exact x e he

/-- One entry of the job table changed. -/
theorem slots_set {s t : State} {k : Nat} {v : Option Job} (hj : t.jobs.table = mset none s.jobs.table k v)
    (hh : t.objects.handles = s.objects.handles) (x : SlotsOk s) : SlotsOk t :=
  ⟨by unfold JobsOk; rw [hj]; exact mwf_mset x.1 _ _, by unfold HandlesOk; rw [hh]; exact x.2⟩

/-- Jobs changed where they stand, or open loads gone or changed where they stand. -/
theorem slots_map {s t : State} {f : Nat → Job → Job} (hj : t.jobs.table = s.jobs.table.map fun e => (e.1, e.2.map (f e.1)))
    (hh : t.objects.handles.length ≤ s.objects.handles.length) (x : SlotsOk s) : SlotsOk t :=
  ⟨by unfold JobsOk; rw [hj]; exact mwf_mapJobs x.1, Nat.le_trans hh x.2⟩

/-- Open loads gone or changed where they stand. -/
theorem slots_len {s t : State} (hj : t.jobs.table = s.jobs.table) (hh : t.objects.handles.length ≤ s.objects.handles.length) (x : SlotsOk s) :
    SlotsOk t :=
  ⟨by unfold JobsOk; rw [hj]; exact x.1, Nat.le_trans hh x.2⟩

/-- A fold of operations that each keep. -/
theorem foldl {s₀ : State} {α : Type} {f : State → α → State} (hf : ∀ t a, Kept A s₀ t → Kept A s₀ (f t a)) :
    ∀ (l : List α) {t : State}, Kept A s₀ t → Kept A s₀ (l.foldl f t)
  | [], _, h => h
  | a :: l, _, h => foldl hf l (hf _ a h)

/-- A choice between states. -/
theorem ite {s₀ t u : State} {p : Prop} [Decidable p] (h : Kept A s₀ t) (k : Kept A s₀ u) : Kept A s₀ (if p then t else u) := by
  split
  · exact h
  · exact k

/-- A choice by an option. -/
theorem elim {s₀ t : State} {α : Type} {o : Option α} {f : α → State} (h : Kept A s₀ t) (k : ∀ a, o = some a → Kept A s₀ (f a)) :
    Kept A s₀ (o.elim t f) := by
  cases o with
  | none => exact h
  | some a => exact k a rfl

end Kept

end Sys2Proof.Machine
end

