-- ==== Sys2Proof/Laws/Ops.lean ====
section
/-! SUPPORT. What the operations of Machine/Ops.lean keep (Laws/Kept.lean). -/

set_option Elab.async false

namespace Sys2Proof.Machine

open Sys2Proof Sys2Proof.Safety

-- The proofs before this one are checked before the next ones start.
theorem State.onJournal_kept {A : List Part} {s₀ s : State} (f : Journal → Journal) (h : Kept A s₀ s)
    (hf : KeptJournal A s.journal (f s.journal)) : Kept A s₀ (State.onJournal s f) := by
  refine h.updJ _ rfl rfl hf.events hf.audit hf.next hf.overwritten hf.anchor hf.security hf.retired rfl rfl rfl ⟨fun p hp => ?_⟩
  have := hf.frame p hp
  cases p <;> first | exact rfl | exact ⟨this, rfl⟩ | exact ⟨this, trivial⟩

theorem State.onTransport_kept {A : List Part} {s₀ s : State} (f : Transport → Transport) (h : Kept A s₀ s) (hA : [.transport] ⊆ A := by exact Part.sub (by assumption) (by decide)) : Kept A s₀ (State.onTransport s f) := by
  unfold State.onTransport
  repeat' first
    | with_reducible assumption
    | fail_if_no_progress refine Kept.record ?_ rfl rfl rfl rfl rfl rfl ⟨fun p hp => by cases p <;> first | exact rfl | exact ⟨rfl, rfl⟩ | exact ⟨rfl, trivial⟩ | exact ⟨trivial, rfl⟩ | exact absurd (hA (by decide)) hp⟩

theorem State.onPower_kept {A : List Part} {s₀ s : State} (f : Power → Power) (h : Kept A s₀ s) (hA : [.power] ⊆ A := by exact Part.sub (by assumption) (by decide)) : Kept A s₀ (State.onPower s f) := by
  unfold State.onPower
  repeat' first
    | with_reducible assumption
    | fail_if_no_progress refine Kept.record ?_ rfl rfl rfl rfl rfl rfl ⟨fun p hp => by cases p <;> first | exact rfl | exact ⟨rfl, rfl⟩ | exact ⟨rfl, trivial⟩ | exact ⟨trivial, rfl⟩ | exact absurd (hA (by decide)) hp⟩

theorem State.onClocks_kept {A : List Part} {s₀ s : State} (f : Clocks → Clocks) (h : Kept A s₀ s) (hA : [.clocks] ⊆ A := by exact Part.sub (by assumption) (by decide)) : Kept A s₀ (State.onClocks s f) := by
  unfold State.onClocks
  repeat' first
    | with_reducible assumption
    | fail_if_no_progress refine Kept.record ?_ rfl rfl rfl rfl rfl rfl ⟨fun p hp => by cases p <;> first | exact rfl | exact ⟨rfl, rfl⟩ | exact ⟨rfl, trivial⟩ | exact ⟨trivial, rfl⟩ | exact absurd (hA (by decide)) hp⟩

theorem State.onSecurity_kept {A : List Part} {s₀ s : State} (f : Security → Security) (h : Kept A s₀ s) (hA : [.security] ⊆ A := by exact Part.sub (by assumption) (by decide)) : Kept A s₀ (State.onSecurity s f) := by
  unfold State.onSecurity
  repeat' first
    | with_reducible assumption
    | fail_if_no_progress refine Kept.record ?_ rfl rfl rfl rfl rfl rfl ⟨fun p hp => by cases p <;> first | exact rfl | exact ⟨rfl, rfl⟩ | exact ⟨rfl, trivial⟩ | exact ⟨trivial, rfl⟩ | exact absurd (hA (by decide)) hp⟩

theorem State.onEntropy_kept {A : List Part} {s₀ s : State} (f : Entropy → Entropy) (h : Kept A s₀ s) (hA : [.entropy] ⊆ A := by exact Part.sub (by assumption) (by decide)) : Kept A s₀ (State.onEntropy s f) := by
  unfold State.onEntropy
  repeat' first
    | with_reducible assumption
    | fail_if_no_progress refine Kept.record ?_ rfl rfl rfl rfl rfl rfl ⟨fun p hp => by cases p <;> first | exact rfl | exact ⟨rfl, rfl⟩ | exact ⟨rfl, trivial⟩ | exact ⟨trivial, rfl⟩ | exact absurd (hA (by decide)) hp⟩

theorem State.onIntegrity_kept {A : List Part} {s₀ s : State} (f : Integrity → Integrity) (h : Kept A s₀ s) (hA : [.integrity] ⊆ A := by exact Part.sub (by assumption) (by decide)) : Kept A s₀ (State.onIntegrity s f) := by
  unfold State.onIntegrity
  repeat' first
    | with_reducible assumption
    | fail_if_no_progress refine Kept.record ?_ rfl rfl rfl rfl rfl rfl ⟨fun p hp => by cases p <;> first | exact rfl | exact ⟨rfl, rfl⟩ | exact ⟨rfl, trivial⟩ | exact ⟨trivial, rfl⟩ | exact absurd (hA (by decide)) hp⟩

theorem State.onBist_kept {A : List Part} {s₀ s : State} (f : Bist → Bist) (h : Kept A s₀ s) (hA : [.bist] ⊆ A := by exact Part.sub (by assumption) (by decide)) : Kept A s₀ (State.onBist s f) := by
  unfold State.onBist
  repeat' first
    | with_reducible assumption
    | fail_if_no_progress refine Kept.record ?_ rfl rfl rfl rfl rfl rfl ⟨fun p hp => by cases p <;> first | exact rfl | exact ⟨rfl, rfl⟩ | exact ⟨rfl, trivial⟩ | exact ⟨trivial, rfl⟩ | exact absurd (hA (by decide)) hp⟩

theorem State.onConfig_kept {A : List Part} {s₀ s : State} (f : Config → Config) (h : Kept A s₀ s)
    (hf : KeptConfig A s.config (f s.config)) : Kept A s₀ (State.onConfig s f) := by
  refine h.upd _ rfl rfl rfl rfl rfl rfl ⟨fun p hp => ?_⟩
  have := hf.frame p hp
  cases p <;> first | exact rfl | exact ⟨rfl, this⟩ | exact ⟨trivial, this⟩

theorem State.onThermal_kept {A : List Part} {s₀ s : State} (f : Thermal → Thermal) (h : Kept A s₀ s) (hA : [.thermal] ⊆ A := by exact Part.sub (by assumption) (by decide)) : Kept A s₀ (State.onThermal s f) := by
  unfold State.onThermal
  repeat' first
    | with_reducible assumption
    | fail_if_no_progress refine Kept.record ?_ rfl rfl rfl rfl rfl rfl ⟨fun p hp => by cases p <;> first | exact rfl | exact ⟨rfl, rfl⟩ | exact ⟨rfl, trivial⟩ | exact ⟨trivial, rfl⟩ | exact absurd (hA (by decide)) hp⟩

theorem State.onPort_kept {A : List Part} {s₀ s : State} (f : Port → Port) (h : Kept A s₀ s) (hA : [.port] ⊆ A := by exact Part.sub (by assumption) (by decide)) : Kept A s₀ (State.onPort s f) := by
  unfold State.onPort
  repeat' first
    | with_reducible assumption
    | fail_if_no_progress refine Kept.record ?_ rfl rfl rfl rfl rfl rfl ⟨fun p hp => by cases p <;> first | exact rfl | exact ⟨rfl, rfl⟩ | exact ⟨rfl, trivial⟩ | exact ⟨trivial, rfl⟩ | exact absurd (hA (by decide)) hp⟩

theorem State.onPtp_kept {A : List Part} {s₀ s : State} (f : Ptp → Ptp) (h : Kept A s₀ s) (hA : [.ptp] ⊆ A := by exact Part.sub (by assumption) (by decide)) : Kept A s₀ (State.onPtp s f) := by
  unfold State.onPtp
  repeat' first
    | with_reducible assumption
    | fail_if_no_progress refine Kept.record ?_ rfl rfl rfl rfl rfl rfl ⟨fun p hp => by cases p <;> first | exact rfl | exact ⟨rfl, rfl⟩ | exact ⟨rfl, trivial⟩ | exact ⟨trivial, rfl⟩ | exact absurd (hA (by decide)) hp⟩

theorem State.onOptics_kept {A : List Part} {s₀ s : State} (f : Optics → Optics) (h : Kept A s₀ s) (hA : [.optics] ⊆ A := by exact Part.sub (by assumption) (by decide)) : Kept A s₀ (State.onOptics s f) := by
  unfold State.onOptics
  repeat' first
    | with_reducible assumption
    | fail_if_no_progress refine Kept.record ?_ rfl rfl rfl rfl rfl rfl ⟨fun p hp => by cases p <;> first | exact rfl | exact ⟨rfl, rfl⟩ | exact ⟨rfl, trivial⟩ | exact ⟨trivial, rfl⟩ | exact absurd (hA (by decide)) hp⟩

theorem State.onObjects_kept {A : List Part} {s₀ s : State} (f : ObjectStore → ObjectStore) (h : Kept A s₀ s)
    (hf : s.objects.handles.length ≤ 64 → (f s.objects).handles.length ≤ 64) (hA : [.objects] ⊆ A := by exact Part.sub (by assumption) (by decide)) : Kept A s₀ (State.onObjects s f) :=
  h.upd _ rfl rfl rfl rfl rfl rfl ⟨fun p hp => by cases p <;> first | exact rfl | exact ⟨rfl, rfl⟩ | exact ⟨rfl, trivial⟩ | exact ⟨trivial, rfl⟩ | exact absurd (hA (by decide)) hp⟩ fun x => ⟨x.1, hf x.2⟩

theorem State.onJobs_kept {A : List Part} {s₀ s : State} (f : JobEngine → JobEngine) (h : Kept A s₀ s)
    (hf : s.jobs.nextId ≤ (f s.jobs).nextId ∧ s.jobs.nextSeq ≤ (f s.jobs).nextSeq)
    (hw : mwf none s.jobs.table = true → mwf none (f s.jobs).table = true) (hA : [.jobs] ⊆ A := by exact Part.sub (by assumption) (by decide)) : Kept A s₀ (State.onJobs s f) :=
  h.updAll _ rfl id rfl id hf ⟨fun p hp => by cases p <;> first | exact rfl | exact ⟨rfl, rfl⟩ | exact ⟨rfl, trivial⟩ | exact ⟨trivial, rfl⟩ | exact absurd (hA (by decide)) hp⟩ fun x => ⟨hw x.1, x.2⟩

theorem State.takeRandom_kept {A : List Part} {s₀ s : State} (n : Nat) (h : Kept A s₀ s) (hA : [.free] ⊆ A := by exact Part.sub (by assumption) (by decide)) : Kept A s₀ (State.takeRandom s n).2 := by
  unfold State.takeRandom
  dsimp only
  repeat' first
    | with_reducible assumption
    | fail_if_no_progress refine Kept.record ?_ rfl rfl rfl rfl rfl rfl ⟨fun p hp => by cases p <;> first | exact rfl | exact ⟨rfl, rfl⟩ | exact ⟨rfl, trivial⟩ | exact ⟨trivial, rfl⟩ | exact absurd (hA (by decide)) hp⟩

theorem State.takeRandom_kept_eq {A : List Part} {s₀ s t : State} {n : Nat} {v : Bytes} (h : Kept A s₀ s) (e : State.takeRandom s n = (v, t)) (hA : [.free] ⊆ A := by exact Part.sub (by assumption) (by decide)) : Kept A s₀ t := by
  have k := State.takeRandom_kept (n := n) h
  rw [e] at k
  exact k

theorem State.modCluster_kept {A : List Part} {s₀ s : State} (xk : Nat) (f : Cluster → Cluster) (h : Kept A s₀ s)
    (hf : ∀ c, c = s.cluster xk → MapOk c.coreMap c.o0 c.o1 c.copy → MapOk (f c).coreMap (f c).o0 (f c).o1 (f c).copy) (hA : [.clusters] ⊆ A := by exact Part.sub (by assumption) (by decide)) :
    Kept A s₀ (State.modCluster s xk f) :=
  h.updMap _ rfl rfl rfl (Kept.mapsOk_modCluster hf) rfl ⟨fun p hp => by cases p <;> first | exact rfl | exact ⟨rfl, rfl⟩ | exact ⟨rfl, trivial⟩ | exact ⟨trivial, rfl⟩ | exact absurd (hA (by decide)) hp⟩

theorem State.modHalf_kept {A : List Part} {s₀ s : State} (xh : Nat) (f : Half → Half) (h : Kept A s₀ s) (hA : [.halves] ⊆ A := by exact Part.sub (by assumption) (by decide)) : Kept A s₀ (State.modHalf s xh f) := by
  unfold State.modHalf
  repeat' first
    | with_reducible assumption
    | fail_if_no_progress refine Kept.record ?_ rfl rfl rfl rfl rfl rfl ⟨fun p hp => by cases p <;> first | exact rfl | exact ⟨rfl, rfl⟩ | exact ⟨rfl, trivial⟩ | exact ⟨trivial, rfl⟩ | exact absurd (hA (by decide)) hp⟩

theorem State.modDie_kept {A : List Part} {s₀ s : State} (d : Nat) (f : Die → Die) (h : Kept A s₀ s) (hA : [.dies] ⊆ A := by exact Part.sub (by assumption) (by decide)) : Kept A s₀ (State.modDie s d f) := by
  unfold State.modDie
  repeat' first
    | with_reducible assumption
    | fail_if_no_progress refine Kept.record ?_ rfl rfl rfl rfl rfl rfl ⟨fun p hp => by cases p <;> first | exact rfl | exact ⟨rfl, rfl⟩ | exact ⟨rfl, trivial⟩ | exact ⟨trivial, rfl⟩ | exact absurd (hA (by decide)) hp⟩

theorem State.modStack_kept {A : List Part} {s₀ s : State} (xt : Nat) (f : Stack → Stack) (h : Kept A s₀ s) (hA : [.tielux] ⊆ A := by exact Part.sub (by assumption) (by decide)) : Kept A s₀ (State.modStack s xt f) := by
  unfold State.modStack
  repeat' first
    | with_reducible assumption
    | fail_if_no_progress refine Kept.record ?_ rfl rfl rfl rfl rfl rfl ⟨fun p hp => by cases p <;> first | exact rfl | exact ⟨rfl, rfl⟩ | exact ⟨rfl, trivial⟩ | exact ⟨trivial, rfl⟩ | exact absurd (hA (by decide)) hp⟩

theorem State.modSession_kept {A : List Part} {s₀ s : State} (id : Nat) (f : Session → Session) (h : Kept A s₀ s) (hA : [.transport] ⊆ A := by exact Part.sub (by assumption) (by decide)) : Kept A s₀ (State.modSession s id f) := by
  unfold State.modSession
  dsimp only
  repeat' first
    | with_reducible assumption
    | fail_if_no_progress refine Kept.record ?_ rfl rfl rfl rfl rfl rfl ⟨fun p hp => by cases p <;> first | exact rfl | exact ⟨rfl, rfl⟩ | exact ⟨rfl, trivial⟩ | exact ⟨trivial, rfl⟩ | exact absurd (hA (by decide)) hp⟩

theorem State.send_kept {A : List Part} {s₀ s : State} (id : Nat) (b : TxBody) (h : Kept A s₀ s) (hA : [.transport] ⊆ A := by exact Part.sub (by assumption) (by decide)) : Kept A s₀ (State.send s id b) := by
  unfold State.send
  repeat' first
    | with_reducible assumption
    | fail_if_no_progress refine Kept.record ?_ rfl rfl rfl rfl rfl rfl ⟨fun p hp => by cases p <;> first | exact rfl | exact ⟨rfl, rfl⟩ | exact ⟨rfl, trivial⟩ | exact ⟨trivial, rfl⟩ | exact absurd (hA (by decide)) hp⟩

theorem State.emit_kept {A : List Part} {s₀ s : State} (o : RawOut) (h : Kept A s₀ s) (hA : [.transport] ⊆ A := by exact Part.sub (by assumption) (by decide)) : Kept A s₀ (State.emit s o) := by
  unfold State.emit
  dsimp only
  repeat' first
    | with_reducible assumption
    | fail_if_no_progress refine Kept.record ?_ rfl rfl rfl rfl rfl rfl ⟨fun p hp => by cases p <;> first | exact rfl | exact ⟨rfl, rfl⟩ | exact ⟨rfl, trivial⟩ | exact ⟨trivial, rfl⟩ | exact absurd (hA (by decide)) hp⟩

theorem State.fromSource_kept {A : List Part} {s₀ s : State} (n : NetSource) (h : Kept A s₀ s) (hA : [.transport] ⊆ A := by exact Part.sub (by assumption) (by decide)) : Kept A s₀ (State.fromSource s n) := by
  unfold State.fromSource
  repeat' first
    | with_reducible assumption
    | fail_if_no_progress refine Kept.record ?_ rfl rfl rfl rfl rfl rfl ⟨fun p hp => by cases p <;> first | exact rfl | exact ⟨rfl, rfl⟩ | exact ⟨rfl, trivial⟩ | exact ⟨trivial, rfl⟩ | exact absurd (hA (by decide)) hp⟩

theorem State.popInbox_kept {A : List Part} {s₀ s : State} (id : Nat) (h : Kept A s₀ s) (hA : [.transport] ⊆ A := by exact Part.sub (by assumption) (by decide)) : Kept A s₀ (State.popInbox s id) := by
  unfold State.popInbox
  repeat' first
    | with_reducible assumption
    | with_reducible apply State.modSession_kept

/-- An event logged: the ring holds one more, or drops its oldest. -/
theorem State.logOn_kept {A : List Part} {s₀ s : State} (page : Nat) (cls : Nat) (forced : Bool) (e : EventSpec) (h : Kept A s₀ s) (hA : [.transport, .events, .headers] ⊆ A := by exact Part.sub (by assumption) (by decide)) :
    Kept A s₀ (State.logOn s page cls forced e) := by
  refine h.trans ⟨rfl, id, fun x => ?_, fun x => ⟨x.bounded, x.hashed, x.chained, x.empty, x.oldest⟩, Nat.le_refl _, Nat.le_refl _, id, Nat.le_refl _, Nat.le_refl _, fun _ h => h, id,
    ⟨fun p hp => by cases p <;> first | exact rfl | exact ⟨rfl, rfl⟩ | exact ⟨rfl, trivial⟩ | exact ⟨trivial, rfl⟩ | exact absurd (hA (by decide)) hp⟩⟩
  have hx : s.journal.events.length ≤ 65536 := x
  simp only [EventRingOk, State.logOn, List.length_append, List.length_cons, List.length_nil]
  split
  · rename_i hf
    have := of_decide_eq_true hf
    rw [List.length_tail]
    omega
  · rename_i hf
    have := of_decide_eq_false (Bool.not_eq_true _ ▸ hf)
    omega

theorem State.log_kept {A : List Part} {s₀ s : State} (xe : EventSpec) (h : Kept A s₀ s) (hA : [.transport, .events, .headers] ⊆ A := by exact Part.sub (by assumption) (by decide)) : Kept A s₀ (State.log s xe) := by
  unfold State.log
  repeat' first
    | with_reducible assumption
    | with_reducible apply State.logOn_kept

theorem State.logAll_kept {A : List Part} {s₀ s : State} (es : List EventSpec) (h : Kept A s₀ s) (hA : [.transport, .events, .headers] ⊆ A := by exact Part.sub (by assumption) (by decide)) : Kept A s₀ (State.logAll s es) := by
  unfold State.logAll
  repeat' first
    | with_reducible assumption
    | with_reducible apply State.log_kept
    | with_reducible refine Kept.foldl ?_ _ ?_
    | intro _

/-- An entry added at the end of a chain. -/
theorem auditChained_append {n : Nat} {e : AuditEntry} (hs : e.seq = n) : ∀ {l : List AuditEntry}, auditChained n l →
    (∀ f, l.getLast? = some f → e.prevHash = f.hash) → auditChained (n + 1) (l ++ [e])
  | [], _, _ => by simp [auditChained, hs]
  | [f], h, hp => by
    simp only [auditChained] at h
    simp only [List.cons_append, List.nil_append, auditChained]
    exact ⟨by omega, hp f rfl, by omega⟩
  | f :: g :: l, h, hp => by
    simp only [auditChained] at h
    simp only [List.cons_append, auditChained]
    refine ⟨h.1, h.2.1, ?_⟩
    have := auditChained_append hs (l := g :: l) h.2.2 (fun x hx => hp x (by rw [List.getLast?_cons_cons]; exact hx))
    simpa only [List.cons_append] using this

theorem auditChained_tail {n : Nat} {e : AuditEntry} {l : List AuditEntry} (h : auditChained n (e :: l)) : auditChained n l := by
  cases l with
  | nil => trivial
  | cons f l => exact h.2.2

/-- An audit entry written: the chain grows by one entry, or drops its oldest and keeps its hash as the anchor. -/
theorem State.audit_kept {A : List Part} {s₀ s : State} (role : Nat) (outcome : Nat) (action : Nat) (status : Nat) (fpr : Bytes) (detail : Bytes)
    (h : Kept A s₀ s) (hA : [.audit] ⊆ A := by exact Part.sub (by assumption) (by decide)) : Kept A s₀ (State.audit s role outcome action status fpr detail) := by
  refine h.trans ⟨rfl, id, id, fun x => ?_, Nat.le_refl _, Nat.le_succ _, id, Nat.le_refl _, Nat.le_refl _, fun _ h => h, id,
    ⟨fun p hp => by cases p <;> first | exact rfl | exact ⟨rfl, rfl⟩ | exact ⟨rfl, trivial⟩ | exact ⟨trivial, rfl⟩ | exact absurd (hA (by decide)) hp⟩⟩
  obtain ⟨hb, hh, hc, he, ho⟩ := x
  by_cases hf : 131072 ≤ s.journal.audit.length
  · cases ha : s.journal.audit with
    | nil => rw [ha] at hf; simp at hf
    | cons a l =>
      cases l with
      | nil => rw [ha] at hf; simp at hf
      | cons b l =>
        rw [ha] at hb hh hc hf ho
        have h0 := ho a rfl
        refine ⟨?_, ?_, ?_, ?_, ?_⟩
        · simp only [State.audit, ha, hf, decide_true, if_true, List.tail_cons, List.length_append]
          simp only [List.length_cons, List.length_nil] at hb ⊢
          omega
        · simp only [State.audit, ha, hf, decide_true, if_true, List.tail_cons, List.mem_append, List.mem_singleton]
          rintro e (h1 | h1)
          · exact hh e (List.mem_cons_of_mem _ h1)
          · rw [h1]
            rfl
        · simp only [State.audit, ha, hf, decide_true, if_true, List.tail_cons]
          refine auditChained_append (n := s.journal.auditNext) rfl hc.2.2 fun f hl => ?_
          rw [List.getLast?_cons_cons, hl]
          rfl
        · simp [State.audit]
        · simp only [State.audit, ha, hf, decide_true, if_true, List.tail_cons, List.cons_append, List.head?_cons, Option.some.injEq]
          rintro e rfl
          simp only [auditChained] at hc
          rw [if_neg (by omega)]
          exact ⟨by rw [hc.1, h0.1], hc.2.1⟩
  · refine ⟨?_, ?_, ?_, ?_, ?_⟩
    · simp only [State.audit, hf, decide_false, Bool.false_eq_true, if_false, List.length_append, List.length_cons, List.length_nil]
      omega
    · simp only [State.audit, hf, decide_false, Bool.false_eq_true, if_false, List.mem_append, List.mem_singleton]
      rintro e (h1 | h1)
      · exact hh e h1
      · rw [h1]
        rfl
    · simp only [State.audit, hf, decide_false, Bool.false_eq_true, if_false]
      refine auditChained_append (n := s.journal.auditNext) rfl hc fun f hl => ?_
      rw [hl]
      rfl
    · simp [State.audit]
    · simp only [State.audit, hf, decide_false, Bool.false_eq_true, if_false]
      cases ha : s.journal.audit with
      | nil =>
        simp only [List.nil_append, List.head?_cons, Option.some.injEq]
        rintro e rfl
        have := he ha
        refine ⟨by rw [this.1, this.2], ?_⟩
        rw [if_pos this.2]
        rfl
      | cons a l =>
        simp only [List.cons_append, List.head?_cons, Option.some.injEq]
        rintro e rfl
        exact ho _ (by rw [ha]; rfl)

theorem State.modStream_kept {A : List Part} {s₀ s : State} (fpr : Bytes) (f : Stream → Stream) (h : Kept A s₀ s) (hA : [.streams] ⊆ A := by exact Part.sub (by assumption) (by decide)) : Kept A s₀ (State.modStream s fpr f) := by
  unfold State.modStream
  dsimp only
  repeat' first
    | with_reducible assumption
    | fail_if_no_progress refine Kept.recordJ ?_ rfl rfl rfl rfl rfl rfl rfl (Nat.le_refl _) (fun _ h => h) rfl rfl rfl ⟨fun p hp => by cases p <;> first | exact rfl | exact ⟨rfl, rfl⟩ | exact ⟨rfl, trivial⟩ | exact ⟨trivial, rfl⟩ | exact absurd (hA (by decide)) hp⟩

theorem State.sendRecord_kept {A : List Part} {s₀ s : State} (id : Nat) (fpr : Bytes) (r : CompRecord) (h : Kept A s₀ s) (hA : [.transport] ⊆ A := by exact Part.sub (by assumption) (by decide)) : Kept A s₀ (State.sendRecord s id fpr r) := by
  unfold State.sendRecord
  repeat' first
    | with_reducible assumption
    | with_reducible apply State.send_kept
    | with_reducible refine Kept.foldl ?_ _ ?_
    | intro _

theorem State.complete_kept {A : List Part} {s₀ s : State} (fpr : Bytes) (want : Option Nat) (r : CompRecord) (h : Kept A s₀ s) (hA : [.transport, .streams] ⊆ A := by exact Part.sub (by assumption) (by decide)) : Kept A s₀ (State.complete s fpr want r) := by
  unfold State.complete
  dsimp only
  repeat' first
    | with_reducible assumption
    | with_reducible apply State.modStream_kept
    | with_reducible apply State.sendRecord_kept
    | exact Part.sub hA (by decide)
    | split

theorem State.refuse_kept {A : List Part} {s₀ s : State} (x : Session) (req : Nat) (status : Nat) (d0 : optParam Nat 0) (d1 : optParam Nat 0) (h : Kept A s₀ s) (hA : [.transport, .streams] ⊆ A := by exact Part.sub (by assumption) (by decide)) : Kept A s₀ (State.refuse s x req status d0 d1) := by
  unfold State.refuse
  dsimp only
  repeat' first
    | with_reducible assumption
    | with_reducible apply State.complete_kept

theorem State.accept_kept {A : List Part} {s₀ s : State} (x : Session) (req : Nat) (job : Nat) (kib : Nat) (r : CompRecord) (h : Kept A s₀ s) (hA : [.transport, .streams] ⊆ A := by exact Part.sub (by assumption) (by decide)) : Kept A s₀ (State.accept s x req job kib r) := by
  unfold State.accept
  dsimp only
  repeat' first
    | with_reducible assumption
    | with_reducible apply State.modStream_kept
    | with_reducible apply State.onJournal_kept
    | exact ⟨rfl, rfl, rfl, rfl, rfl, Nat.le_refl _, fun _ h => h, fun p hp => by cases p <;> first | exact rfl | exact trivial | exact absurd (hA (by decide)) hp⟩
    | with_reducible apply State.complete_kept
    | exact Part.sub hA (by decide)

theorem State.done_kept {A : List Part} {s₀ s : State} (fpr : Bytes) (want : Option Nat) (req : Nat) (r : CompRecord) (h : Kept A s₀ s) (hA : [.transport, .streams] ⊆ A := by exact Part.sub (by assumption) (by decide)) : Kept A s₀ (State.done s fpr want req r) := by
  unfold State.done
  repeat' first
    | with_reducible assumption
    | with_reducible apply State.complete_kept

theorem State.observe_kept {A : List Part} {s₀ s : State} (u : UnitRef) (h : Kept A s₀ s) (hA : [.transport, .events, .headers, .integrity] ⊆ A := by exact Part.sub (by assumption) (by decide)) : Kept A s₀ (State.observe s u) := by
  unfold State.observe
  dsimp only
  repeat' first
    | with_reducible assumption
    | with_reducible apply State.log_kept
    | exact Part.sub hA (by decide)
    | with_reducible refine Kept.ite ?_ ?_
    | fail_if_no_progress refine Kept.record ?_ rfl rfl rfl rfl rfl rfl ⟨fun p hp => by cases p <;> first | exact rfl | exact ⟨rfl, rfl⟩ | exact ⟨rfl, trivial⟩ | exact ⟨trivial, rfl⟩ | exact absurd (hA (by decide)) hp⟩

theorem State.markRetired_kept {A : List Part} {s₀ s : State} (u : UnitRef) (h : Kept A s₀ s) (hA : [.clusters, .dies, .tielux] ⊆ A := by exact Part.sub (by assumption) (by decide)) : Kept A s₀ (State.markRetired s u) := by
  unfold State.markRetired
  repeat' first
    | with_reducible assumption
    | with_reducible apply State.modCluster_kept
    | exact fun _ _ h => h
    | with_reducible apply State.modDie_kept
    | with_reducible apply State.modStack_kept
    | exact Part.sub hA (by decide)
    | split

theorem State.charge_kept {A : List Part} {s₀ s : State} (u : UnitRef) (h : Kept A s₀ s) (hA : [.clusters, .dies, .tielux, .transport, .events, .health, .headers, .integrity] ⊆ A := by exact Part.sub (by assumption) (by decide)) : Kept A s₀ (State.charge s u) := by
  unfold State.charge
  dsimp only
  split
  · exact h
  · split
    · exact State.log_kept _ (State.markRetired_kept _ (Kept.recordJ h rfl rfl rfl rfl rfl rfl rfl (Nat.le_refl _)
        (fun v hv => List.mem_append_left _ hv) rfl rfl rfl ⟨fun p hp => by cases p <;> first | exact rfl | exact ⟨rfl, rfl⟩ | exact ⟨rfl, trivial⟩ | exact ⟨trivial, rfl⟩ | exact absurd (hA (by decide)) hp⟩))
    · exact Kept.recordJ h rfl rfl rfl rfl rfl rfl rfl (Nat.le_refl _) (fun _ h => h) rfl rfl rfl ⟨fun p hp => by cases p <;> first | exact rfl | exact ⟨rfl, rfl⟩ | exact ⟨rfl, trivial⟩ | exact ⟨trivial, rfl⟩ | exact absurd (hA (by decide)) hp⟩

theorem State.setJob_kept {A : List Part} {s₀ s : State} (slot : Nat) (j : Job) (h : Kept A s₀ s) (hA : [.jobs] ⊆ A := by exact Part.sub (by assumption) (by decide)) : Kept A s₀ (State.setJob s slot j) :=
  h.upd _ rfl rfl rfl rfl rfl rfl ⟨fun p hp => by cases p <;> first | exact rfl | exact ⟨rfl, rfl⟩ | exact ⟨rfl, trivial⟩ | exact ⟨trivial, rfl⟩ | exact absurd (hA (by decide)) hp⟩ (Kept.slots_set (k := slot) (v := some j) rfl rfl)

theorem State.modJob_kept {A : List Part} {s₀ s : State} (slot : Nat) (f : Job → Job) (h : Kept A s₀ s) (hA : [.jobs] ⊆ A := by exact Part.sub (by assumption) (by decide)) : Kept A s₀ (State.modJob s slot f) := by
  unfold State.modJob
  repeat' first
    | with_reducible assumption
    | with_reducible apply State.setJob_kept
    | split

theorem State.dropJob_kept {A : List Part} {s₀ s : State} (slot : Nat) (h : Kept A s₀ s) (hA : [.jobs] ⊆ A := by exact Part.sub (by assumption) (by decide)) : Kept A s₀ (State.dropJob s slot) :=
  h.upd _ rfl rfl rfl rfl rfl rfl ⟨fun p hp => by cases p <;> first | exact rfl | exact ⟨rfl, rfl⟩ | exact ⟨rfl, trivial⟩ | exact ⟨trivial, rfl⟩ | exact absurd (hA (by decide)) hp⟩ (Kept.slots_set (k := slot) (v := none) rfl rfl)

end Sys2Proof.Machine
end

