-- ==== Sys2Proof/Laws/Frames.lean ====
section
/-! SUPPORT. What the operations of Machine/Frames.lean keep (Laws/Kept.lean). -/

set_option Elab.async false

namespace Sys2Proof.Machine

open Sys2Proof Sys2Proof.Safety

-- The proofs before this one are checked before the next ones start.
theorem State.modFrame_kept {A : List Part} {s₀ s : State} (xt : Nat) (f : Nat) (g : FrameEntry → FrameEntry) (h : Kept A s₀ s) (hA : [.tielux] ⊆ A := by exact Part.sub (by assumption) (by decide)) : Kept A s₀ (State.modFrame s xt f g) := by
  unfold State.modFrame
  repeat' first
    | with_reducible assumption
    | with_reducible apply State.modStack_kept

theorem State.stampLine_kept {A : List Part} {s₀ s : State} (p : PageRef) (off : Nat) (v : BitVec 512) (m : LineMarks) (h : Kept A s₀ s) (hA : [.tielux, .mem] ⊆ A := by exact Part.sub (by assumption) (by decide)) :
    Kept A s₀ (State.stampLine s p off v m) :=
  State.modStack_kept _ _ (h.updMem _ rfl (fun x => writeLine_wf x _ _) rfl rfl rfl ⟨fun p hp => by cases p <;> first | exact rfl | exact ⟨rfl, rfl⟩ | exact ⟨rfl, trivial⟩ | exact ⟨trivial, rfl⟩ | exact absurd (hA (by decide)) hp⟩)

theorem State.updateParity_kept {A : List Part} {s₀ s : State} (p : PageRef) (off : Nat) (diff : BitVec 512) (h : Kept A s₀ s) (hA : [.tielux, .mem] ⊆ A := by exact Part.sub (by assumption) (by decide)) : Kept A s₀ (State.updateParity s p off diff) := by
  unfold State.updateParity
  repeat' first
    | with_reducible assumption
    | with_reducible apply State.modStack_kept
    | with_reducible apply State.stampLine_kept
    | with_reducible refine Kept.ite ?_ ?_
    | split
    | exact Part.sub hA (by decide)

theorem State.writeLineAt_kept {A : List Part} {s₀ s : State} (p : PageRef) (off : Nat) (v : BitVec 512) (m : LineMarks) (h : Kept A s₀ s) (hA : [.tielux, .mem] ⊆ A := by exact Part.sub (by assumption) (by decide)) : Kept A s₀ (State.writeLineAt s p off v m) := by
  unfold State.writeLineAt
  dsimp only
  repeat' first
    | with_reducible assumption
    | with_reducible apply State.stampLine_kept
    | with_reducible apply State.updateParity_kept
    | with_reducible refine Kept.ite ?_ ?_
    | exact Part.sub hA (by decide)

theorem State.copyLine_kept {A : List Part} {s₀ s : State} (p : PageRef) (off : Nat) (q : PageRef) (dst : Nat) (h : Kept A s₀ s) (hA : [.tielux, .mem] ⊆ A := by exact Part.sub (by assumption) (by decide)) : Kept A s₀ (State.copyLine s p off q dst) := by
  unfold State.copyLine
  repeat' first
    | with_reducible assumption
    | with_reducible apply State.writeLineAt_kept
    | exact Part.sub hA (by decide)

theorem State.copyPage_kept {A : List Part} {s₀ s : State} (a b : PageRef) (h : Kept A s₀ s) (hA : [.tielux, .mem] ⊆ A := by exact Part.sub (by assumption) (by decide)) : Kept A s₀ (State.copyPage s a b) := by
  unfold State.copyPage
  repeat' first
    | with_reducible assumption
    | with_reducible apply State.copyLine_kept
    | exact Part.sub hA (by decide)
    | with_reducible refine Kept.foldl ?_ _ ?_
    | intro _
    | with_reducible refine Kept.ite ?_ ?_
    | split

theorem State.storeLine_kept {A : List Part} {s₀ s : State} (p : PageRef) (line off : Nat) (bs : Bytes) (at_ : Nat) (h : Kept A s₀ s) (hA : [.tielux, .mem] ⊆ A := by exact Part.sub (by assumption) (by decide)) : Kept A s₀ (State.storeLine s p line off bs at_) := by
  unfold State.storeLine
  dsimp only
  repeat' first
    | with_reducible assumption
    | with_reducible apply State.modStack_kept
    | with_reducible apply State.writeLineAt_kept
    | exact Part.sub hA (by decide)

theorem State.storePages_kept {A : List Part} {s₀ s : State} (ps : List PageRef) (off : Nat) (bs : Bytes) (h : Kept A s₀ s) (hA : [.tielux, .mem] ⊆ A := by exact Part.sub (by assumption) (by decide)) : Kept A s₀ (State.storePages s ps off bs) := by
  unfold State.storePages
  dsimp only
  repeat' first
    | with_reducible assumption
    | with_reducible apply State.storeLine_kept
    | with_reducible refine Kept.foldl ?_ _ ?_
    | intro _
    | with_reducible refine Kept.ite ?_ ?_
    | split
    | exact Part.sub hA (by decide)

theorem State.protectStripe_kept {A : List Part} {s₀ s : State} (xt : Nat) (f : Nat) (h : Kept A s₀ s) (hA : [.tielux] ⊆ A := by exact Part.sub (by assumption) (by decide)) : Kept A s₀ (State.protectStripe s xt f) := by
  unfold State.protectStripe
  dsimp only
  repeat' first
    | with_reducible assumption
    | with_reducible apply State.modFrame_kept
    | with_reducible refine Kept.foldl ?_ _ ?_
    | intro _
    | with_reducible refine Kept.ite ?_ ?_

theorem State.takeFrame_kept {A : List Part} {s₀ s : State} (u : FrameUse) (prot : Bool) (xt : Nat) (f : Nat) (h : Kept A s₀ s) (hA : [.tielux] ⊆ A := by exact Part.sub (by assumption) (by decide)) : Kept A s₀ (State.takeFrame s u prot xt f) := by
  unfold State.takeFrame
  repeat' first
    | with_reducible assumption
    | with_reducible apply State.modFrame_kept
    | with_reducible apply State.protectStripe_kept
    | with_reducible refine Kept.ite ?_ ?_

theorem State.takePage_kept {A : List Part} {s₀ s t : State} {u : FrameUse} {prot : Bool} {k : Nat} {v : PageRef} (h : Kept A s₀ s)
    (e : State.takePage s u prot k = some (t, v)) (hA : [.tielux] ⊆ A := by exact Part.sub (by assumption) (by decide)) : Kept A s₀ t := by
  obtain ⟨f, -, he⟩ := Option.map_eq_some_iff.1 e
  cases he
  exact State.takeFrame_kept _ _ _ _ h

theorem State.takeFrom_kept {A : List Part} {s₀ s t : State} {u : FrameUse} {prot : Bool} {l : List Nat} {v : PageRef} (h : Kept A s₀ s)
    (e : State.takeFrom s u prot l = some (t, v)) (hA : [.tielux] ⊆ A := by exact Part.sub (by assumption) (by decide)) : Kept A s₀ t := by
  induction l with
  | nil => exact absurd e (by simp [State.takeFrom])
  | cons k l ih =>
    rw [State.takeFrom] at e
    cases hk : s.takePage u prot k with
    | none =>
      simp only [hk] at e
      exact ih e
    | some r =>
      simp only [hk, Option.some.injEq] at e
      subst e
      exact State.takePage_kept h hk

theorem State.takeHashedAll_kept {A : List Part} {s₀ s t : State} {u : FrameUse} {prot : Bool} {salt n p : Nat} {v : List PageRef} (h : Kept A s₀ s)
    (e : State.takeHashedAll s u prot salt n p = some (t, v)) (hA : [.tielux] ⊆ A := by exact Part.sub (by assumption) (by decide)) : Kept A s₀ t := by
  induction n generalizing s v p with
  | zero =>
    simp only [State.takeHashedAll, Option.some.injEq, Prod.mk.injEq] at e
    obtain ⟨rfl, -⟩ := e
    exact h
  | succ n ih =>
    rw [State.takeHashedAll] at e
    cases hk : s.takeFrom u prot (stacksFrom (hashStack (Config.pageStack salt p))) with
    | none => simp only [hk, reduceCtorEq] at e
    | some r =>
      simp only [hk, Option.map_eq_some_iff] at e
      obtain ⟨q, hq, he⟩ := e
      have h1 : q.1 = t := congrArg Prod.fst he
      subst h1
      exact ih (State.takeFrom_kept (t := r.1) (v := r.2) h hk) hq

theorem State.takeHashed_kept {A : List Part} {s₀ s t : State} {u : FrameUse} {prot : Bool} {salt n p : Nat} {v : List PageRef} (h : Kept A s₀ s)
    (e : State.takeHashed s u prot salt n p = some (t, v)) (hA : [.tielux] ⊆ A := by exact Part.sub (by assumption) (by decide)) : Kept A s₀ t := by
  rw [State.takeHashed] at e
  exact State.takeHashedAll_kept h e

theorem State.takeInAll_kept {A : List Part} {s₀ s t : State} {u : FrameUse} {prot : Bool} {k n : Nat} {v : List PageRef} (h : Kept A s₀ s)
    (e : State.takeInAll s u prot k n = some (t, v)) (hA : [.tielux] ⊆ A := by exact Part.sub (by assumption) (by decide)) : Kept A s₀ t := by
  induction n generalizing s v with
  | zero =>
    simp only [State.takeInAll, Option.some.injEq, Prod.mk.injEq] at e
    obtain ⟨rfl, -⟩ := e
    exact h
  | succ n ih =>
    rw [State.takeInAll] at e
    cases hk : s.takePage u prot k with
    | none => simp only [hk, reduceCtorEq] at e
    | some r =>
      simp only [hk, Option.map_eq_some_iff] at e
      obtain ⟨q, hq, he⟩ := e
      have h1 : q.1 = t := congrArg Prod.fst he
      subst h1
      exact ih (State.takePage_kept (t := r.1) (v := r.2) h hk) hq

theorem State.takeIn_kept {A : List Part} {s₀ s t : State} {u : FrameUse} {prot : Bool} {k n : Nat} {v : List PageRef} (h : Kept A s₀ s)
    (e : State.takeIn s u prot k n = some (t, v)) (hA : [.tielux] ⊆ A := by exact Part.sub (by assumption) (by decide)) : Kept A s₀ t := by
  rw [State.takeIn] at e
  exact State.takeInAll_kept h e

theorem State.takeSharesAll_kept {A : List Part} {s₀ s t : State} {u : FrameUse} {prot : Bool} {l : List (Nat × Nat)} {v : List PageRef} (h : Kept A s₀ s)
    (e : State.takeSharesAll s u prot l = some (t, v)) (hA : [.tielux] ⊆ A := by exact Part.sub (by assumption) (by decide)) : Kept A s₀ t := by
  induction l generalizing s v with
  | nil =>
    simp only [State.takeSharesAll, Option.some.injEq, Prod.mk.injEq] at e
    obtain ⟨rfl, -⟩ := e
    exact h
  | cons k l ih =>
    rw [State.takeSharesAll] at e
    cases hk : s.takeIn u prot k.1 k.2 with
    | none => simp only [hk, reduceCtorEq] at e
    | some r =>
      simp only [hk, Option.map_eq_some_iff] at e
      obtain ⟨q, hq, he⟩ := e
      have h1 : q.1 = t := congrArg Prod.fst he
      subst h1
      exact ih (State.takeIn_kept (t := r.1) (v := r.2) h hk) hq

theorem State.takeShares_kept {A : List Part} {s₀ s t : State} {u : FrameUse} {prot : Bool} {l : List (Nat × Nat)} {v : List PageRef} (h : Kept A s₀ s)
    (e : State.takeShares s u prot l = some (t, v)) (hA : [.tielux] ⊆ A := by exact Part.sub (by assumption) (by decide)) : Kept A s₀ t := by
  rw [State.takeShares] at e
  exact State.takeSharesAll_kept h e

theorem State.giveBack_kept {A : List Part} {s₀ s : State} (xt f : Nat) (h : Kept A s₀ s) (hA : [.tielux] ⊆ A := by exact Part.sub (by assumption) (by decide)) : Kept A s₀ (State.giveBack s xt f) := by
  unfold State.giveBack
  dsimp only
  repeat' first
    | with_reducible assumption
    | with_reducible apply State.modFrame_kept
    | with_reducible apply State.modStack_kept
    | with_reducible refine Kept.ite ?_ ?_
    | exact Part.sub hA (by decide)

theorem State.relaxStripe_kept {A : List Part} {s₀ s : State} (xt f : Nat) (h : Kept A s₀ s) (hA : [.tielux] ⊆ A := by exact Part.sub (by assumption) (by decide)) : Kept A s₀ (State.relaxStripe s xt f) := by
  unfold State.relaxStripe
  dsimp only
  repeat' first
    | with_reducible assumption
    | with_reducible apply State.modFrame_kept
    | with_reducible apply State.giveBack_kept
    | with_reducible refine Kept.foldl ?_ _ ?_
    | intro _
    | with_reducible refine Kept.ite ?_ ?_
    | exact Part.sub hA (by decide)

theorem State.freeFrame_kept {A : List Part} {s₀ s : State} (p : PageRef) (h : Kept A s₀ s) (hA : [.tielux] ⊆ A := by exact Part.sub (by assumption) (by decide)) : Kept A s₀ (State.freeFrame s p) := by
  unfold State.freeFrame
  dsimp only
  repeat' first
    | with_reducible assumption
    | with_reducible apply State.giveBack_kept
    | with_reducible apply State.relaxStripe_kept
    | with_reducible refine Kept.ite ?_ ?_
    | exact Part.sub hA (by decide)

theorem State.freePages_kept {A : List Part} {s₀ s : State} (ps : List PageRef) (h : Kept A s₀ s) (hA : [.tielux] ⊆ A := by exact Part.sub (by assumption) (by decide)) : Kept A s₀ (State.freePages s ps) := by
  unfold State.freePages
  repeat' first
    | with_reducible assumption
    | with_reducible apply State.freeFrame_kept
    | with_reducible refine Kept.foldl ?_ _ ?_
    | intro _

end Sys2Proof.Machine
end

