-- ==== Sys2Proof/Laws/JobOps.lean ====
section
/-! SUPPORT. What the operations of Machine/JobOps.lean keep (Laws/Kept.lean). -/

set_option Elab.async false

namespace Sys2Proof.Machine

open Sys2Proof Sys2Proof.Safety

-- The proofs before this one are checked before the next ones start.
theorem State.jobState_kept {A : List Part} {s₀ s : State} (j : Job) (h : Kept A s₀ s) (hA : [.transport, .streams] ⊆ A := by exact Part.sub (by assumption) (by decide)) : Kept A s₀ (State.jobState s j) := by
  unfold State.jobState
  repeat' first
    | with_reducible assumption
    | with_reducible apply State.complete_kept

theorem State.demote_kept {A : List Part} {s₀ s : State} (slot : Nat) (cause : Nat) (h : Kept A s₀ s) (hA : [.jobs, .transport, .streams, .events, .headers] ⊆ A := by exact Part.sub (by assumption) (by decide)) : Kept A s₀ (State.demote s slot cause) := by
  unfold State.demote
  dsimp only
  repeat' first
    | with_reducible assumption
    | with_reducible apply State.jobState_kept
    | with_reducible apply State.log_kept
    | with_reducible apply State.setJob_kept
    | exact Part.sub hA (by decide)
    | with_reducible refine Kept.ite ?_ ?_
    | split

theorem State.demoteAll_kept {A : List Part} {s₀ s : State} (slots : List Nat) (cause : Nat) (h : Kept A s₀ s) (hA : [.jobs, .transport, .streams, .events, .headers] ⊆ A := by exact Part.sub (by assumption) (by decide)) : Kept A s₀ (State.demoteAll s slots cause) := by
  unfold State.demoteAll
  repeat' first
    | with_reducible assumption
    | with_reducible apply State.demote_kept
    | with_reducible refine Kept.foldl ?_ _ ?_
    | intro _

theorem State.latencyHold_kept {A : List Part} {s₀ s : State} (job : Option (Fin 4096)) (h : Kept A s₀ s) (hA : [.jobs, .transport, .streams, .events, .headers, .free] ⊆ A := by exact Part.sub (by assumption) (by decide)) : Kept A s₀ (State.latencyHold s job) := by
  unfold State.latencyHold
  try dsimp only
  repeat' first
    | with_reducible assumption
    | with_reducible apply State.demote_kept
    | with_reducible apply State.modJob_kept
    | exact Part.sub hA (by decide)
    | intro _
    | with_reducible refine Kept.ite ?_ ?_
    | split
    | fail_if_no_progress refine Kept.record ?_ rfl rfl rfl rfl rfl rfl ⟨fun p hp => by cases p <;> first | exact rfl | exact ⟨rfl, rfl⟩ | exact ⟨rfl, trivial⟩ | exact ⟨trivial, rfl⟩ | exact absurd (hA (by decide)) hp⟩

theorem State.countRead_kept {A : List Part} {s₀ s : State} (p : PageRef) (job lines sectors : Nat) (h : Kept A s₀ s) (hA : [.tielux] ⊆ A := by exact Part.sub (by assumption) (by decide)) : Kept A s₀ (State.countRead s p job lines sectors) := by
  unfold State.countRead
  try dsimp only
  repeat' first
    | with_reducible assumption
    | with_reducible apply State.modStack_kept
    | exact Part.sub hA (by decide)
    | with_reducible refine Kept.foldl ?_ _ ?_
    | intro _
    | with_reducible refine Kept.ite ?_ ?_
    | split
    | fail_if_no_progress refine Kept.record ?_ rfl rfl rfl rfl rfl rfl ⟨fun p hp => by cases p <;> first | exact rfl | exact ⟨rfl, rfl⟩ | exact ⟨rfl, trivial⟩ | exact ⟨trivial, rfl⟩ | exact absurd (hA (by decide)) hp⟩

theorem State.readSectors_kept {A : List Part} {s₀ s : State} (slot job : Nat) (xs : List (PageRef × Nat)) (h : Kept A s₀ s) (hA : [.tielux, .jobs, .transport, .streams, .events, .headers, .free] ⊆ A := by exact Part.sub (by assumption) (by decide)) : Kept A s₀ (State.readSectors s slot job xs) := by
  unfold State.readSectors
  try dsimp only
  repeat' first
    | with_reducible assumption
    | with_reducible apply State.latencyHold_kept
    | with_reducible apply State.countRead_kept
    | exact Part.sub hA (by decide)
    | with_reducible refine Kept.foldl ?_ _ ?_
    | intro _
    | with_reducible refine Kept.ite ?_ ?_
    | split

theorem State.freeJobMemory_kept {A : List Part} {s₀ s : State} (j : Job) (h : Kept A s₀ s) (hA : [.tielux] ⊆ A := by exact Part.sub (by assumption) (by decide)) : Kept A s₀ (State.freeJobMemory s j) := by
  unfold State.freeJobMemory
  repeat' first
    | with_reducible assumption
    | with_reducible apply State.freePages_kept

theorem State.clearRegion_kept {A : List Part} {s₀ s : State} (region : List Nat) (h : Kept A s₀ s) (hA : [.clusters] ⊆ A := by exact Part.sub (by assumption) (by decide)) : Kept A s₀ (State.clearRegion s region) :=
  h.updMap _ rfl rfl rfl (Kept.mapsOk_map rfl fun e x => by
    dsimp only; repeat' split
    all_goals exact x) rfl ⟨fun p hp => by cases p <;> first | exact rfl | exact ⟨rfl, rfl⟩ | exact ⟨rfl, trivial⟩ | exact ⟨trivial, rfl⟩ | exact absurd (hA (by decide)) hp⟩

theorem State.dropOutward_kept {A : List Part} {s₀ s : State} (jobId : Nat) (from_ : optParam Nat 0) (h : Kept A s₀ s) (hA : [.tielux] ⊆ A := by exact Part.sub (by assumption) (by decide)) : Kept A s₀ (State.dropOutward s jobId from_) := by
  unfold State.dropOutward
  dsimp only
  repeat' first
    | with_reducible assumption
    | fail_if_no_progress refine Kept.record ?_ rfl rfl rfl rfl rfl rfl ⟨fun p hp => by cases p <;> first | exact rfl | exact ⟨rfl, rfl⟩ | exact ⟨rfl, trivial⟩ | exact ⟨trivial, rfl⟩ | exact absurd (hA (by decide)) hp⟩

theorem State.restartJob_kept {A : List Part} {s₀ s : State} (slot : Nat) (h : Kept A s₀ s) (hA : [.clusters, .tielux, .jobs, .transport, .streams] ⊆ A := by exact Part.sub (by assumption) (by decide)) : Kept A s₀ (State.restartJob s slot) := by
  unfold State.restartJob
  try dsimp only
  repeat' first
    | with_reducible assumption
    | with_reducible apply State.jobState_kept
    | with_reducible apply State.freeJobMemory_kept
    | with_reducible apply State.clearRegion_kept
    | with_reducible apply State.dropOutward_kept
    | with_reducible apply State.setJob_kept
    | exact Part.sub hA (by decide)
    | split
    | fail_if_no_progress refine Kept.record ?_ rfl rfl rfl rfl rfl rfl ⟨fun p hp => by cases p <;> first | exact rfl | exact ⟨rfl, rfl⟩ | exact ⟨rfl, trivial⟩ | exact ⟨trivial, rfl⟩ | exact absurd (hA (by decide)) hp⟩

theorem State.restartJobs_kept {A : List Part} {s₀ s : State} (slots : List Nat) (h : Kept A s₀ s) (hA : [.clusters, .tielux, .jobs, .transport, .streams] ⊆ A := by exact Part.sub (by assumption) (by decide)) : Kept A s₀ (State.restartJobs s slots) := by
  unfold State.restartJobs
  repeat' first
    | with_reducible assumption
    | with_reducible apply State.restartJob_kept
    | with_reducible refine Kept.foldl ?_ _ ?_
    | intro _

theorem State.mapRegion_kept {A : List Part} {s₀ s : State} (region : List Nat) (f : Core → Core) (h : Kept A s₀ s) (hA : [.clusters] ⊆ A := by exact Part.sub (by assumption) (by decide)) : Kept A s₀ (State.mapRegion s region f) :=
  h.updMap _ rfl rfl rfl (Kept.mapsOk_map rfl fun e x => by
    dsimp only; repeat' split
    all_goals exact x) rfl ⟨fun p hp => by cases p <;> first | exact rfl | exact ⟨rfl, rfl⟩ | exact ⟨rfl, trivial⟩ | exact ⟨trivial, rfl⟩ | exact absurd (hA (by decide)) hp⟩

theorem State.rewindTo_kept {A : List Part} {s₀ s : State} (slot : Nat) (r : RewindPoint) (groups : Core → List OpenGroups) (h : Kept A s₀ s) (hA : [.clusters, .tielux, .jobs, .transport, .streams] ⊆ A := by exact Part.sub (by assumption) (by decide)) : Kept A s₀ (State.rewindTo s slot r groups) := by
  unfold State.rewindTo
  repeat' first
    | with_reducible assumption
    | with_reducible apply State.restartJob_kept
    | with_reducible apply State.modJob_kept
    | with_reducible apply State.dropOutward_kept
    | with_reducible apply State.mapRegion_kept
    | exact Part.sub hA (by decide)
    | split

theorem State.rollBack_kept {A : List Part} {s₀ s : State} (slot : Nat) (h : Kept A s₀ s) (hA : [.clusters, .tielux, .jobs, .transport, .streams, .events, .headers, .integrity] ⊆ A := by exact Part.sub (by assumption) (by decide)) : Kept A s₀ (State.rollBack s slot) := by
  unfold State.rollBack
  dsimp only
  repeat' first
    | with_reducible assumption
    | with_reducible apply State.onIntegrity_kept
    | with_reducible apply State.demote_kept
    | with_reducible apply State.rewindTo_kept
    | with_reducible apply State.log_kept
    | exact Part.sub hA (by decide)
    | split

theorem State.countReset_kept {A : List Part} {s₀ s : State} (c : LastReset) (h : Kept A s₀ s) (hA : [.starts] ⊆ A := by exact Part.sub (by assumption) (by decide)) : Kept A s₀ (State.countReset s c) := by
  unfold State.countReset
  repeat' first
    | with_reducible assumption
    | with_reducible apply State.onJournal_kept
    | exact ⟨rfl, rfl, rfl, rfl, rfl, Nat.le_refl _, fun _ h => h, fun p hp => by cases p <;> first | exact rfl | exact trivial | exact absurd (hA (by decide)) hp⟩

theorem State.restartDie_kept {A : List Part} {s₀ s : State} (d : Nat) (h : Kept A s₀ s) (hA : [.clusters, .halves, .dies] ⊆ A := by exact Part.sub (by assumption) (by decide)) : Kept A s₀ (State.restartDie s d) := by
  unfold State.restartDie
  refine (State.modDie_kept _ _ (State.modHalf_kept _ _ (State.modHalf_kept _ _ h))).updMap _ rfl rfl rfl
    (Kept.mapsOk_map rfl fun e x => ?_) rfl ⟨fun p hp => by cases p <;> first | exact rfl | exact ⟨rfl, rfl⟩ | exact ⟨rfl, trivial⟩ | exact ⟨trivial, rfl⟩ | exact absurd (hA (by decide)) hp⟩
  dsimp only
  split
  · exact mapOk_nil
  · exact x

theorem State.restStacks_kept {A : List Part} {s₀ s : State} (d : Nat) (h : Kept A s₀ s) (hA : [.tielux] ⊆ A := by exact Part.sub (by assumption) (by decide)) : Kept A s₀ (State.restStacks s d) := by
  unfold State.restStacks
  repeat' first
    | with_reducible assumption
    | with_reducible apply State.modStack_kept
    | with_reducible refine Kept.foldl ?_ _ ?_
    | intro _

theorem State.resetDie_kept {A : List Part} {s₀ s : State} (d : Nat) (h : Kept A s₀ s) (hA : [.clusters, .halves, .dies, .tielux, .jobs, .transport, .streams, .starts] ⊆ A := by exact Part.sub (by assumption) (by decide)) : Kept A s₀ (State.resetDie s d) := by
  unfold State.resetDie
  repeat' first
    | with_reducible assumption
    | with_reducible apply State.countReset_kept
    | with_reducible apply State.restStacks_kept
    | with_reducible apply State.restartDie_kept
    | with_reducible apply State.restartJobs_kept
    | exact Part.sub hA (by decide)

theorem State.loseJobs_kept {A : List Part} {s₀ s : State} (h : Kept A s₀ s) (hA : [.jobs] ⊆ A := by exact Part.sub (by assumption) (by decide)) : Kept A s₀ (State.loseJobs s) := by
  unfold State.loseJobs
  repeat' first
    | with_reducible assumption
    | with_reducible apply State.setJob_kept
    | with_reducible apply State.dropJob_kept
    | with_reducible refine Kept.foldl ?_ _ ?_
    | intro _
    | with_reducible refine Kept.ite ?_ ?_
    | split

theorem State.releaseRegion_kept {A : List Part} {s₀ s : State} (slot : Nat) (h : Kept A s₀ s) (hA : [.clusters, .jobs] ⊆ A := by exact Part.sub (by assumption) (by decide)) : Kept A s₀ (State.releaseRegion s slot) := by
  unfold State.releaseRegion
  repeat' first
    | with_reducible assumption
    | with_reducible apply State.setJob_kept
    | with_reducible apply State.clearRegion_kept
    | exact Part.sub hA (by decide)
    | split

theorem State.repeatAccept_kept {A : List Part} {s₀ s : State} (x : Session) (r : CompRecord) (h : Kept A s₀ s) (hA : [.transport, .streams] ⊆ A := by exact Part.sub (by assumption) (by decide)) : Kept A s₀ (State.repeatAccept s x r) := by
  unfold State.repeatAccept
  dsimp only
  repeat' first
    | with_reducible assumption
    | with_reducible apply State.sendRecord_kept
    | with_reducible apply State.modStream_kept
    | exact Part.sub hA (by decide)

theorem State.command_kept {A : List Part} {s₀ s : State} (sess req : Nat) (body : State → Session → State)
    (hb : ∀ t x, Kept A s₀ t → Kept A s₀ (body t x)) (h : Kept A s₀ s) (hA : [.transport, .streams] ⊆ A := by exact Part.sub (by assumption) (by decide)) : Kept A s₀ (State.command s sess req body) := by
  unfold State.command
  dsimp only
  repeat' first
    | with_reducible assumption
    | with_reducible apply hb
    | with_reducible apply State.popInbox_kept
    | with_reducible apply State.repeatAccept_kept
    | with_reducible apply State.refuse_kept
    | exact Part.sub hA (by decide)
    | split

end Sys2Proof.Machine
end

