-- ==== Sys2Proof/Laws/Entropy.lean ====
section
/-! SUPPORT. What the operations of Machine/Entropy.lean keep (Laws/Kept.lean). -/

set_option Elab.async false

namespace Sys2Proof.Machine

open Sys2Proof Sys2Proof.Safety

-- The proofs before this one are checked before the next ones start.
theorem State.instantiate_kept {A : List Part} {s₀ s : State} (h : Kept A s₀ s) (hA : [.entropy] ⊆ A := by exact Part.sub (by assumption) (by decide)) : Kept A s₀ (State.instantiate s) := by
  unfold State.instantiate
  repeat' first
    | with_reducible assumption
    | with_reducible apply State.onEntropy_kept

theorem State.drbg_kept {A : List Part} {s₀ s : State} (client : Nat) (n : Nat) (h : Kept A s₀ s) (hA : [.entropy, .free] ⊆ A := by exact Part.sub (by assumption) (by decide)) : Kept A s₀ (State.drbg s client n).2 := by
  unfold State.drbg
  dsimp only
  repeat' first
    | with_reducible assumption
    | with_reducible apply State.onEntropy_kept
    | with_reducible apply State.takeRandom_kept
    | exact Part.sub hA (by decide)

theorem State.drbg_kept_eq {A : List Part} {s₀ s t : State} {client : Nat} {n : Nat} {v : Bytes} (h : Kept A s₀ s) (e : State.drbg s client n = (v, t)) (hA : [.entropy, .free] ⊆ A := by exact Part.sub (by assumption) (by decide)) : Kept A s₀ t := by
  have k := State.drbg_kept (client := client) (n := n) h
  rw [e] at k
  exact k

theorem State.transportRandom_kept {A : List Part} {s₀ s : State} (n : Nat) (h : Kept A s₀ s) (hA : [.entropy, .free] ⊆ A := by exact Part.sub (by assumption) (by decide)) : Kept A s₀ (State.transportRandom s n).2 := by
  unfold State.transportRandom
  repeat' first
    | with_reducible assumption
    | with_reducible apply State.drbg_kept
    | with_reducible apply State.takeRandom_kept
    | exact Part.sub hA (by decide)
    | split

theorem State.transportRandom_kept_eq {A : List Part} {s₀ s t : State} {n : Nat} {v : Bytes} (h : Kept A s₀ s) (e : State.transportRandom s n = (v, t)) (hA : [.entropy, .free] ⊆ A := by exact Part.sub (by assumption) (by decide)) : Kept A s₀ t := by
  have k := State.transportRandom_kept (n := n) h
  rw [e] at k
  exact k

theorem State.takeSalted_kept {A : List Part} {s₀ s t : State} {u : FrameUse} {prot : Bool} {n p : Nat} {v : List PageRef} (h : Kept A s₀ s)
    (e : State.takeSalted s u prot n p = some (t, v)) (hA : [.tielux, .entropy, .free] ⊆ A := by exact Part.sub (by assumption) (by decide)) : Kept A s₀ t :=
  State.takeHashed_kept (v := v) (State.transportRandom_kept 8 h) e

theorem State.replyOne_kept {A : List Part} {s₀ s : State} (sess : Nat) (addr : Word) (write : Bool) (data : Word) (status : Nat) (h : Kept A s₀ s) (hA : [.transport] ⊆ A := by exact Part.sub (by assumption) (by decide)) : Kept A s₀ (State.replyOne s sess addr write data status) := by
  unfold State.replyOne
  repeat' first
    | with_reducible assumption
    | with_reducible apply State.send_kept

theorem State.rngAnswer_kept {A : List Part} {s₀ s : State} (sess : Nat) (h : Kept A s₀ s) (hA : [.transport, .entropy, .free] ⊆ A := by exact Part.sub (by assumption) (by decide)) : Kept A s₀ (State.rngAnswer s sess) := by
  unfold State.rngAnswer
  dsimp only
  repeat' first
    | with_reducible assumption
    | with_reducible apply State.drbg_kept
    | with_reducible apply State.replyOne_kept
    | exact Part.sub hA (by decide)

theorem rngServe_kept {A : List Part} {s₀ s : State} (l : List Nat) (h : Kept A s₀ s) (hA : [.transport, .entropy, .free] ⊆ A := by exact Part.sub (by assumption) (by decide)) : Kept A s₀ (rngServe l s) := by
  induction l generalizing s with
  | nil => exact h
  | cons e l ih =>
    rw [rngServe]
    exact Kept.ite (State.onEntropy_kept _ h) (ih (State.rngAnswer_kept _ h))

theorem State.serveWaiting_kept {A : List Part} {s₀ s : State} (h : Kept A s₀ s) (hA : [.transport, .entropy, .free] ⊆ A := by exact Part.sub (by assumption) (by decide)) : Kept A s₀ (State.serveWaiting s) := by
  unfold State.serveWaiting
  repeat' first
    | with_reducible assumption
    | with_reducible apply rngServe_kept
    | with_reducible apply State.onEntropy_kept
    | exact Part.sub hA (by decide)
    | with_reducible refine Kept.ite ?_ ?_

theorem State.rngRead_kept {A : List Part} {s₀ s : State} (sess : Nat) (h : Kept A s₀ s) (hA : [.transport, .entropy, .free] ⊆ A := by exact Part.sub (by assumption) (by decide)) : Kept A s₀ (State.rngRead s sess) := by
  unfold State.rngRead
  dsimp only
  repeat' first
    | with_reducible assumption
    | with_reducible apply State.popInbox_kept
    | with_reducible apply State.replyOne_kept
    | with_reducible apply State.rngAnswer_kept
    | with_reducible apply State.onEntropy_kept
    | exact Part.sub hA (by decide)
    | with_reducible refine Kept.ite ?_ ?_
    | split

theorem execRngData_kept {s t : State} (sess : Nat) (e : execRngData sess s = .next t) : Kept [.transport, .entropy, .free] s t := by
  have h := Kept.refl (A := [.transport, .entropy, .free]) s
  have hA := List.Subset.refl ([.transport, .entropy, .free] : List Part)
  unfold execRngData at e
  all_goals first | contradiction | (cases e) | skip
  repeat' first
    | with_reducible assumption
    | with_reducible apply State.rngRead_kept

theorem execRawData_kept {s t : State} (sess : Nat) (samples : Word) (e : execRawData sess samples s = .next t) : Kept [.transport] s t := by
  have h := Kept.refl (A := [.transport]) s
  have hA := List.Subset.refl ([.transport] : List Part)
  unfold execRawData at e
  repeat' split at e
  all_goals first | contradiction | (cases e) | skip
  repeat' first
    | with_reducible assumption
    | with_reducible apply State.replyOne_kept
    | with_reducible apply State.popInbox_kept
    | with_reducible refine Kept.ite ?_ ?_

theorem State.entropyFatal_kept {A : List Part} {s₀ s : State} (h : Kept A s₀ s) (hA : [.transport, .events, .headers, .entropy] ⊆ A := by exact Part.sub (by assumption) (by decide)) : Kept A s₀ (State.entropyFatal s) := by
  unfold State.entropyFatal
  dsimp only
  repeat' first
    | with_reducible assumption
    | with_reducible apply State.onEntropy_kept
    | with_reducible apply State.log_kept
    | with_reducible apply State.replyOne_kept
    | exact Part.sub hA (by decide)
    | with_reducible refine Kept.foldl ?_ _ ?_
    | intro _

theorem State.blockFails_kept {A : List Part} {s₀ s : State} (r : HealthRun) (h : Kept A s₀ s) (hA : [.transport, .events, .headers, .entropy] ⊆ A := by exact Part.sub (by assumption) (by decide)) : Kept A s₀ (State.blockFails s r) := by
  unfold State.blockFails
  dsimp only
  repeat' first
    | with_reducible assumption
    | with_reducible apply State.onEntropy_kept
    | with_reducible apply State.log_kept
    | with_reducible apply State.entropyFatal_kept
    | exact Part.sub hA (by decide)
    | with_reducible refine Kept.ite ?_ ?_

theorem State.blockPasses_kept {A : List Part} {s₀ s : State} (r : HealthRun) (h : Kept A s₀ s) (hA : [.transport, .entropy, .free] ⊆ A := by exact Part.sub (by assumption) (by decide)) : Kept A s₀ (State.blockPasses s r) := by
  unfold State.blockPasses
  dsimp only
  repeat' first
    | with_reducible assumption
    | with_reducible apply State.instantiate_kept
    | with_reducible apply State.serveWaiting_kept
    | exact Part.sub hA (by decide)
    | with_reducible refine Kept.ite ?_ ?_
    | fail_if_no_progress refine Kept.record ?_ rfl rfl rfl rfl rfl rfl ⟨fun p hp => by cases p <;> first | exact rfl | exact ⟨rfl, rfl⟩ | exact ⟨rfl, trivial⟩ | exact ⟨trivial, rfl⟩ | exact absurd (hA (by decide)) hp⟩

theorem State.entropyBlock_kept {A : List Part} {s₀ s : State} (samples : List Bool) (h : Kept A s₀ s) (hA : [.transport, .events, .headers, .entropy, .free] ⊆ A := by exact Part.sub (by assumption) (by decide)) : Kept A s₀ (State.entropyBlock s samples) := by
  unfold State.entropyBlock
  dsimp only
  repeat' first
    | with_reducible assumption
    | with_reducible apply State.onEntropy_kept
    | with_reducible apply State.blockFails_kept
    | with_reducible apply State.blockPasses_kept
    | exact Part.sub hA (by decide)
    | with_reducible refine Kept.ite ?_ ?_
    | fail_if_no_progress refine Kept.record ?_ rfl rfl rfl rfl rfl rfl ⟨fun p hp => by cases p <;> first | exact rfl | exact ⟨rfl, rfl⟩ | exact ⟨rfl, trivial⟩ | exact ⟨trivial, rfl⟩ | exact absurd (hA (by decide)) hp⟩

theorem State.entropyReady_kept {A : List Part} {s₀ s : State} (h : Kept A s₀ s) (hA : [.transport, .entropy, .free] ⊆ A := by exact Part.sub (by assumption) (by decide)) : Kept A s₀ (State.entropyReady s) := by
  unfold State.entropyReady
  repeat' first
    | with_reducible assumption
    | with_reducible apply State.serveWaiting_kept
    | with_reducible apply State.onEntropy_kept
    | exact Part.sub hA (by decide)
    | with_reducible refine Kept.ite ?_ ?_

theorem State.alarmClear_kept {A : List Part} {s₀ s : State} (x : Session) (h : Kept A s₀ s) (hA : [.audit, .entropy] ⊆ A := by exact Part.sub (by assumption) (by decide)) : Kept A s₀ (State.alarmClear s x) := by
  unfold State.alarmClear
  dsimp only
  repeat' first
    | with_reducible assumption
    | with_reducible apply State.audit_kept
    | with_reducible apply State.onEntropy_kept
    | exact Part.sub hA (by decide)
    | with_reducible refine Kept.ite ?_ ?_

theorem State.drbgMode_kept {A : List Part} {s₀ s : State} (x : Session) (shared : Bool) (h : Kept A s₀ s) (hA : [.settings, .audit, .entropy] ⊆ A := by exact Part.sub (by assumption) (by decide)) : Kept A s₀ (State.drbgMode s x shared) := by
  unfold State.drbgMode
  dsimp only
  repeat' first
    | with_reducible assumption
    | with_reducible apply State.audit_kept
    | with_reducible apply State.onJournal_kept
    | exact ⟨rfl, rfl, rfl, rfl, rfl, Nat.le_refl _, fun _ h => h, fun p hp => by cases p <;> first | exact rfl | exact trivial | exact absurd (hA (by decide)) hp⟩
    | with_reducible apply State.instantiate_kept
    | exact Part.sub hA (by decide)
    | with_reducible refine Kept.ite ?_ ?_

theorem State.ownWrite_kept {A : List Part} {s₀ s : State} (sess : Nat) (addr : Word) (data : Word) (may : Session → Bool) (f : State → Session → State) (hf : ∀ a0 a1, Kept A s₀ a0 → Kept A s₀ (f a0 a1)) (h : Kept A s₀ s) (hA : [.transport] ⊆ A := by exact Part.sub (by assumption) (by decide)) : Kept A s₀ (State.ownWrite s sess addr data may f) := by
  unfold State.ownWrite
  dsimp only
  repeat' first
    | with_reducible assumption
    | with_reducible apply hf
    | with_reducible apply State.popInbox_kept
    | with_reducible apply State.replyOne_kept
    | with_reducible refine Kept.ite ?_ ?_
    | split

theorem execAlarmClear_kept {s t : State} (sess : Nat) (e : execAlarmClear sess s = .next t) : Kept [.transport, .audit, .entropy] s t := by
  have h := Kept.refl (A := [.transport, .audit, .entropy]) s
  have hA := List.Subset.refl ([.transport, .audit, .entropy] : List Part)
  unfold execAlarmClear at e
  all_goals first | contradiction | (cases e) | skip
  repeat' first
    | with_reducible assumption
    | with_reducible apply State.ownWrite_kept
    | with_reducible apply State.alarmClear_kept
    | exact Part.sub hA (by decide)
    | intro _

theorem execDrbgMode_kept {s t : State} (sess : Nat) (shared : Bool) (e : execDrbgMode sess shared s = .next t) : Kept [.transport, .settings, .audit, .entropy] s t := by
  have h := Kept.refl (A := [.transport, .settings, .audit, .entropy]) s
  have hA := List.Subset.refl ([.transport, .settings, .audit, .entropy] : List Part)
  unfold execDrbgMode at e
  all_goals first | contradiction | (cases e) | skip
  repeat' first
    | with_reducible assumption
    | with_reducible apply State.ownWrite_kept
    | with_reducible apply State.drbgMode_kept
    | exact Part.sub hA (by decide)
    | intro _

end Sys2Proof.Machine
end

