-- ==== Sys2Proof/Laws/Arbiter.lean ====
section
/-! SUPPORT. What the operations of Machine/Arbiter.lean keep (Laws/Kept.lean). -/

set_option Elab.async false

namespace Sys2Proof.Machine

open Sys2Proof Sys2Proof.Safety

-- The proofs before this one are checked before the next ones start.
theorem lowerList_kept {A : List Part} {s₀ s : State} (l : List (Nat × Job)) (n : Nat) (h : Kept A s₀ s) (hA : [.jobs] ⊆ A := by exact Part.sub (by assumption) (by decide)) : Kept A s₀ (lowerList l n s) := by
  induction l generalizing n s with
  | nil => exact h
  | cons e l ih =>
    rw [lowerList]
    exact Kept.ite h (ih _ (State.setJob_kept _ _ h))

theorem State.rebudget_kept {A : List Part} {s₀ s : State} (h : Kept A s₀ s) (hA : [.jobs] ⊆ A := by exact Part.sub (by assumption) (by decide)) : Kept A s₀ (State.rebudget s) := by
  unfold State.rebudget
  repeat' first
    | with_reducible assumption
    | with_reducible apply lowerList_kept

theorem State.lowerFor_kept {A : List Part} {s₀ s : State} (p : Nat) (need : Nat) (h : Kept A s₀ s) (hA : [.jobs] ⊆ A := by exact Part.sub (by assumption) (by decide)) : Kept A s₀ (State.lowerFor s p need) := by
  unfold State.lowerFor
  repeat' first
    | with_reducible assumption
    | with_reducible apply lowerList_kept

theorem raiseList_kept {A : List Part} {s₀ s : State} (l : List (Nat × Job)) (n : Nat) (h : Kept A s₀ s) (hA : [.jobs] ⊆ A := by exact Part.sub (by assumption) (by decide)) : Kept A s₀ (raiseList l n s) := by
  induction l generalizing n s with
  | nil => exact h
  | cons e l ih =>
    rw [raiseList]
    exact ih _ (State.setJob_kept _ _ h)

theorem State.raiseFree_kept {A : List Part} {s₀ s : State} (h : Kept A s₀ s) (hA : [.jobs] ⊆ A := by exact Part.sub (by assumption) (by decide)) : Kept A s₀ (State.raiseFree s) := by
  unfold State.raiseFree
  repeat' first
    | with_reducible assumption
    | with_reducible apply raiseList_kept
    | exact Part.sub hA (by decide)
    | with_reducible refine Kept.ite ?_ ?_
    | split

theorem State.raiseSettings_kept {A : List Part} {s₀ s : State} (h : Kept A s₀ s) (hA : [.jobs] ⊆ A := by exact Part.sub (by assumption) (by decide)) : Kept A s₀ (State.raiseSettings s) := by
  unfold State.raiseSettings
  repeat' first
    | with_reducible assumption
    | with_reducible apply State.raiseFree_kept
    | exact Part.sub hA (by decide)
    | with_reducible refine Kept.ite ?_ ?_
    | split

end Sys2Proof.Machine
end

