-- ==== Sys2Proof/Laws/CoreMap.lean ====
section
/-! SUPPORT. What the operations of Machine/CoreMap.lean keep (Laws/Kept.lean). -/

set_option Elab.async false

namespace Sys2Proof.Machine

open Sys2Proof Sys2Proof.Safety

-- The proofs before this one are checked before the next ones start.
/-- A map built anew puts no core under two positions (R205). -/
theorem mapOf_once {good : List Nat} (hg : good.Nodup) {n a b v : Nat} (ha : (mapOf good n)[a]? = some (some v)) (hb : (mapOf good n)[b]? = some (some v)) :
    a = b := by
  have hlt : ∀ x v : Nat, (mapOf good n)[x]? = some (some v) → x < n ∧ ((good.contains x = true ∧ v = x) ∨
      (good.contains x = false ∧ (good.filter fun y => !((List.range n).filter good.contains).contains y)[
        ((List.range n).filter fun p => !good.contains p).findIdx (· == x)]? = some v)) := by
    intro x v h
    simp only [mapOf, List.getElem?_map, Option.map_eq_some_iff] at h
    obtain ⟨p, hp, h⟩ := h
    obtain ⟨_, rfl⟩ := List.getElem?_eq_some_iff.1 hp
    simp only [List.getElem_range] at h
    split at h
    · cases h
    · refine ⟨by omega, ?_⟩
      split at h
      · exact .inl ⟨by assumption, by simpa using h.symm⟩
      · rename_i hc
        exact .inr ⟨Bool.not_eq_true _ ▸ hc, h⟩
  obtain ⟨la, ha⟩ := hlt a v ha
  obtain ⟨lb, hb⟩ := hlt b v hb
  have hrest : ∀ x i : Nat, x < n → good.contains x = true →
      (good.filter fun y => !((List.range n).filter good.contains).contains y)[i]? ≠ some x := by
    intro x i hx hc h
    have := List.mem_of_getElem? h
    simp only [List.mem_filter, List.contains_iff_mem, Bool.not_eq_true', List.mem_range, decide_eq_false_iff_not,
      Bool.not_eq_eq_eq_not, Bool.not_true] at this
    have h2 := this.2
    simp_all
  rcases ha with ⟨ca, ea⟩ | ⟨ca, ea⟩ <;> rcases hb with ⟨cb, eb⟩ | ⟨cb, eb⟩
  · omega
  · rw [ea] at eb
    exact absurd eb (hrest a _ la ca)
  · rw [eb] at ea
    exact absurd ea (hrest b _ lb cb)
  · have hi := (List.getElem?_eq_some_iff.1 ea).1
    have key : ∀ x : Nat, x < n → good.contains x = false →
        ∃ h : ((List.range n).filter fun p => !good.contains p).findIdx (· == x) < ((List.range n).filter fun p => !good.contains p).length,
          ((List.range n).filter fun p => !good.contains p)[((List.range n).filter fun p => !good.contains p).findIdx (· == x)] = x := by
      intro x hx hc
      have hm : x ∈ (List.range n).filter fun p => !good.contains p := by
        rw [List.mem_filter]
        exact ⟨List.mem_range.2 hx, by rw [hc]; rfl⟩
      have hl := List.findIdx_lt_length_of_exists (xs := (List.range n).filter fun p => !good.contains p) (p := (· == x)) ⟨x, hm, by simp⟩
      exact ⟨hl, by simpa using List.findIdx_getElem (w := hl)⟩
    have hnd : (good.filter fun y => !((List.range n).filter good.contains).contains y).Nodup := hg.filter _
    have hij := (List.getElem?_inj hi hnd).1 (ea.trans eb.symm)
    obtain ⟨h1, k1⟩ := key a la ca
    obtain ⟨h2, k2⟩ := key b lb cb
    rw [← k1, ← k2]
    simp only [hij]

/-- The good cores of a cluster, each once. -/
theorem State.goodCores_nodup (s : State) (k : Nat) : (s.goodCores k).Nodup := List.nodup_range.filter _

theorem spareOf_free {good : List Nat} {m : List (Option Nat)} {n : Nat} (h : spareOf good m n = .free) (a : Nat) : m[a]? ≠ some (some n) := by
  intro g
  have : m.contains (some n) = true := List.contains_iff_mem.2 (List.mem_of_getElem? g)
  simp only [spareOf, this, if_true] at h
  cases h

theorem State.buildMap_kept {A : List Part} {s₀ s : State} (xk : Nat) (h : Kept A s₀ s) (hA : [.clusters] ⊆ A := by exact Part.sub (by assumption) (by decide)) : Kept A s₀ (State.buildMap s xk) :=
  State.modCluster_kept _ _ h fun _ _ _ =>
    ⟨fun _ _ _ ha hb => mapOf_once (s.goodCores_nodup xk) ha hb, spareOf_free, spareOf_free, fun _ h => by cases h⟩

/-- A position switched to the core that took its copy keeps the map in order. -/
theorem Cluster.switch_mapOk {c : Cluster} {q : CoreCopy} (x : MapOk c.coreMap c.o0 c.o1 c.copy) (hq : c.copy = some q) :
    MapOk (c.switch q).coreMap (c.switch q).o0 (c.switch q).o1 (c.switch q).copy := by
  obtain ⟨hd, hs⟩ := x.copy q hq
  have hl : q.pos < c.coreMap.length := (List.getElem?_eq_some_iff.1 hs).1
  have hne : q.source ≠ q.dest := fun h => hd q.pos (by rw [hs, h])
  have hold : ∀ (n a : Nat), n ≠ q.dest → (c.coreMap.set q.pos (some q.dest))[a]? = some (some n) → a ≠ q.pos ∧ c.coreMap[a]? = some (some n) := by
    intro n a hn h
    rw [List.getElem?_set] at h
    by_cases ha : q.pos = a
    · rw [if_pos ha, if_pos hl] at h
      simp only [Option.some.injEq] at h
      exact absurd h.symm hn
    · rw [if_neg ha] at h
      exact ⟨fun h => ha h.symm, h⟩
  have hgone : ∀ a : Nat, (c.coreMap.set q.pos (some q.dest))[a]? ≠ some (some q.source) := by
    intro a h
    obtain ⟨ha, h⟩ := hold _ _ hne h
    exact ha (x.once _ _ _ h hs)
  have hspare : ∀ (n : Nat) (v : SpareState) (w : SpareState), (v = .free → ∀ a : Nat, c.coreMap[a]? ≠ some (some n)) →
      (if q.source = n then leftState q.why else if q.dest = n then .holding else v) = .free →
      ∀ a : Nat, (c.coreMap.set q.pos (some q.dest))[a]? ≠ some (some n) := by
    intro n v w hv h a g
    by_cases hs : q.source = n
    · exact hgone a (by rw [hs]; exact g)
    · rw [if_neg hs] at h
      by_cases hd : q.dest = n
      · rw [if_pos hd] at h
        cases h
      · rw [if_neg hd] at h
        exact hv h a (hold _ _ (fun h => hd h.symm) g).2
  have e0 : (c.switch q).o0 = if q.source = 64 then leftState q.why else if q.dest = 64 then .holding else c.o0 := by
    simp only [Cluster.switch, Cluster.setSpare]
    repeat' split
    all_goals first | rfl | omega | simp_all
  have e1 : (c.switch q).o1 = if q.source = 65 then leftState q.why else if q.dest = 65 then .holding else c.o1 := by
    simp only [Cluster.switch, Cluster.setSpare]
    repeat' split
    all_goals first | rfl | omega | simp_all
  have em : (c.switch q).coreMap = c.coreMap.set q.pos (some q.dest) := by
    simp only [Cluster.switch, Cluster.setSpare]
    repeat' split
    all_goals rfl
  have ec : (c.switch q).copy = none := by
    simp only [Cluster.switch, Cluster.setSpare]
    repeat' split
    all_goals rfl
  rw [e0, e1, em, ec]
  refine ⟨fun a b n ha hb => ?_, hspare 64 _ .free x.spare0, hspare 65 _ .free x.spare1, fun _ h => by cases h⟩
  by_cases hn : n = q.dest
  · have hpos : ∀ a : Nat, (c.coreMap.set q.pos (some q.dest))[a]? = some (some n) → a = q.pos := by
      intro a h
      rw [List.getElem?_set] at h
      by_cases ha : q.pos = a
      · exact ha.symm
      · rw [if_neg ha, hn] at h
        exact absurd h (hd a)
    rw [hpos a ha, hpos b hb]
  · exact x.once _ _ _ (hold _ _ hn ha).2 (hold _ _ hn hb).2

theorem State.switchCopies_kept {A : List Part} {s₀ s : State} (region : List Nat) (h : Kept A s₀ s) (hA : [.clusters] ⊆ A := by exact Part.sub (by assumption) (by decide)) : Kept A s₀ (State.switchCopies s region) := by
  refine h.updMap _ rfl rfl rfl (Kept.mapsOk_map rfl fun e x => ?_) rfl ⟨fun p hp => by cases p <;> first | exact rfl | exact ⟨rfl, rfl⟩ | exact ⟨rfl, trivial⟩ | exact ⟨trivial, rfl⟩ | exact absurd (hA (by decide)) hp⟩
  split
  · split
    · split
      · exact Cluster.switch_mapOk x (by assumption)
      · exact x
    · exact x
  · exact x

theorem Cluster.freeSpare_spec {c : Cluster} {d : Nat} (h : c.freeSpare? = some d) (x : MapOk c.coreMap c.o0 c.o1 c.copy) (a : Nat) :
    c.coreMap[a]? ≠ some (some d) := by
  simp only [Cluster.freeSpare?] at h
  split at h
  · rename_i h0
    cases h
    exact x.spare0 (eq_of_beq h0) a
  · split at h
    · rename_i h1
      cases h
      exact x.spare1 (eq_of_beq h1) a
    · cases h

theorem State.startCopy_kept {A : List Part} {s₀ s : State} (xk : Nat) (n : Nat) (why : CopyWhy) (h : Kept A s₀ s) (hA : [.clusters] ⊆ A := by exact Part.sub (by assumption) (by decide)) : Kept A s₀ (State.startCopy s xk n why) := by
  unfold State.startCopy
  dsimp only
  split
  · rename_i d p hd hp hc
    refine State.modCluster_kept _ _ h fun c e x => ⟨x.once, x.spare0, x.spare1, fun q hq => ?_⟩
    cases hq
    rw [← e] at hd hp
    refine ⟨Cluster.freeSpare_spec (c := c) hd x, ?_⟩
    obtain ⟨hl, hv, _⟩ := List.findIdx?_eq_some_iff_getElem.1 hp
    dsimp only
    rw [List.getElem?_eq_getElem hl]
    congr 1
    simpa using hv
  · exact h

/-- A copy marked as complete or not says the same of the map. -/
theorem mapOk_mark {m : List (Option Nat)} {o0 o1 : SpareState} {q r : Option CoreCopy} (x : MapOk m o0 o1 q)
    (h : ∀ c, r = some c → ∃ d, q = some d ∧ d.pos = c.pos ∧ d.source = c.source ∧ d.dest = c.dest) : MapOk m o0 o1 r := by
  refine ⟨x.once, x.spare0, x.spare1, fun c hc => ?_⟩
  obtain ⟨d, hd, h1, h2, h3⟩ := h c hc
  rw [← h1, ← h2, ← h3]
  exact x.copy d hd

theorem State.retireCore_kept {A : List Part} {s₀ s : State} (p : PhysCore) (h : Kept A s₀ s) (hA : [.clusters, .jobs, .transport, .events, .headers, .integrity] ⊆ A := by exact Part.sub (by assumption) (by decide)) : Kept A s₀ (State.retireCore s p) := by
  unfold State.retireCore
  dsimp only
  split
  · exact h
  · split
    · refine State.modCluster_kept _ _ (State.startCopy_kept _ _ _ h) fun c _ x => mapOk_mark x fun q hq => ?_
      obtain ⟨d, hd, hq⟩ := Option.map_eq_some_iff.1 hq
      exact ⟨d, hd, by rw [← hq], by rw [← hq], by rw [← hq]⟩
    · split
      · exact State.setJob_kept _ _ h
      · exact State.observe_kept _ h

theorem State.chargeUnit_kept {A : List Part} {s₀ s : State} (u : UnitRef) (h : Kept A s₀ s) (hA : [.clusters, .dies, .tielux, .jobs, .transport, .events, .health, .headers, .integrity] ⊆ A := by exact Part.sub (by assumption) (by decide)) : Kept A s₀ (State.chargeUnit s u) := by
  unfold State.chargeUnit
  dsimp only
  repeat' first
    | with_reducible assumption
    | with_reducible apply State.charge_kept
    | with_reducible apply State.retireCore_kept
    | exact Part.sub hA (by decide)
    | with_reducible refine Kept.ite ?_ ?_
    | split

end Sys2Proof.Machine
end

