-- ==== Sys2Proof/Laws/GroupRec.lean ====
section
/-! SUPPORT. What the operations of Machine/GroupRec.lean keep (Laws/Kept.lean). -/

set_option Elab.async false

namespace Sys2Proof.Machine

open Sys2Proof Sys2Proof.Safety

-- The proofs before this one are checked before the next ones start.
theorem State.toNeighbour_kept {A : List Part} {s₀ s : State} (g : GroupState) (m : Nat) (b : TxBody) (h : Kept A s₀ s) (hA : [.transport] ⊆ A := by exact Part.sub (by assumption) (by decide)) : Kept A s₀ (State.toNeighbour s g m b) := by
  unfold State.toNeighbour
  repeat' first
    | with_reducible assumption
    | with_reducible apply State.send_kept
    | with_reducible refine Kept.ite ?_ ?_
    | split

theorem State.toNeighbours_kept {A : List Part} {s₀ s : State} (g : GroupState) (b : TxBody) (h : Kept A s₀ s) (hA : [.transport] ⊆ A := by exact Part.sub (by assumption) (by decide)) : Kept A s₀ (State.toNeighbours s g b) := by
  unfold State.toNeighbours
  repeat' first
    | with_reducible assumption
    | with_reducible apply State.toNeighbour_kept
    | with_reducible refine Kept.foldl ?_ _ ?_
    | intro _

end Sys2Proof.Machine
end

