-- ==== Sys2Proof/Laws/JobMem.lean ====
section
/-! SUPPORT. What the operations of Machine/JobMem.lean keep (Laws/Kept.lean). -/

set_option Elab.async false

namespace Sys2Proof.Machine

open Sys2Proof Sys2Proof.Safety

-- The proofs before this one are checked before the next ones start.
theorem State.commitLine_kept {A : List Part} {s₀ s : State} (j : Job) (alloc off : Nat) (v : BitVec 512) (m : LineMarks) (h : Kept A s₀ s) (hA : [.tielux, .mem] ⊆ A := by exact Part.sub (by assumption) (by decide)) : Kept A s₀ (State.commitLine s j alloc off v m) := by
  unfold State.commitLine
  try dsimp only
  repeat' first
    | with_reducible assumption
    | with_reducible apply State.writeLineAt_kept
    | exact Part.sub hA (by decide)
    | split

theorem State.fillAlloc_kept {A : List Part} {s₀ s : State} (j : Job) (alloc : Nat) (bs : Bytes) (h : Kept A s₀ s) (hA : [.tielux, .mem] ⊆ A := by exact Part.sub (by assumption) (by decide)) : Kept A s₀ (State.fillAlloc s j alloc bs) := by
  unfold State.fillAlloc
  repeat' first
    | with_reducible assumption
    | with_reducible apply State.commitLine_kept
    | exact Part.sub hA (by decide)
    | with_reducible refine Kept.foldl ?_ _ ?_
    | intro _

theorem State.copyAlloc_kept {A : List Part} {s₀ s : State} (a b : Allocation) (n : Nat) (h : Kept A s₀ s) (hA : [.tielux, .mem] ⊆ A := by exact Part.sub (by assumption) (by decide)) : Kept A s₀ (State.copyAlloc s a b n) := by
  unfold State.copyAlloc
  try dsimp only
  repeat' first
    | with_reducible assumption
    | with_reducible apply State.copyLine_kept
    | exact Part.sub hA (by decide)
    | with_reducible refine Kept.foldl ?_ _ ?_
    | intro _
    | with_reducible refine Kept.ite ?_ ?_
    | split

end Sys2Proof.Machine
end

