-- ==== Sys2Proof/Laws/JobEnd.lean ====
section
/-! SUPPORT. What the operations of Machine/JobEnd.lean keep (Laws/Kept.lean). -/

set_option Elab.async false

namespace Sys2Proof.Machine

open Sys2Proof Sys2Proof.Safety

-- The proofs before this one are checked before the next ones start.
theorem State.dropReleased_kept {A : List Part} {s₀ s : State} (h : Kept A s₀ s) (hA : [.tielux, .objects] ⊆ A := by exact Part.sub (by assumption) (by decide)) : Kept A s₀ (State.dropReleased s) := by
  unfold State.dropReleased
  dsimp only
  repeat' first
    | with_reducible assumption
    | with_reducible apply State.freePages_kept
    | with_reducible apply State.onObjects_kept
    | exact id
    | exact Part.sub hA (by decide)

theorem State.sealResult_kept {A : List Part} {s₀ s : State} (j : Job) (status : Nat) (h : Kept A s₀ s) (hA : [.free] ⊆ A := by exact Part.sub (by assumption) (by decide)) : Kept A s₀ (State.sealResult s j status).1 := by
  unfold State.sealResult
  dsimp only
  repeat' first
    | with_reducible assumption
    | with_reducible apply State.takeRandom_kept
    | with_reducible refine Kept.ite ?_ ?_

theorem State.sealResult_kept_eq {A : List Part} {s₀ s t : State} {j : Job} {status : Nat} {v : Job} (h : Kept A s₀ s) (e : State.sealResult s j status = (t, v)) (hA : [.free] ⊆ A := by exact Part.sub (by assumption) (by decide)) : Kept A s₀ t := by
  have k := State.sealResult_kept (j := j) (status := status) h
  rw [e] at k
  exact k

theorem State.endJob_kept {A : List Part} {s₀ s : State} (slot : Nat) (status : Nat) (d0 : Nat) (d1 : Nat) (h : Kept A s₀ s) (hA : [.clusters, .tielux, .jobs, .objects, .transport, .streams, .free] ⊆ A := by exact Part.sub (by assumption) (by decide)) : Kept A s₀ (State.endJob s slot status d0 d1) := by
  unfold State.endJob
  dsimp only
  repeat' first
    | with_reducible assumption
    | with_reducible apply State.sealResult_kept
    | with_reducible apply State.dropJob_kept
    | with_reducible apply State.dropOutward_kept
    | with_reducible apply State.clearRegion_kept
    | with_reducible apply State.freeJobMemory_kept
    | with_reducible apply State.setJob_kept
    | with_reducible apply State.toNeighbours_kept
    | with_reducible apply State.complete_kept
    | with_reducible apply State.raiseSettings_kept
    | with_reducible apply State.dropReleased_kept
    | exact Part.sub hA (by decide)
    | with_reducible refine Kept.ite ?_ ?_
    | split

theorem State.consumeMirage_kept {A : List Part} {s₀ s : State} (slot : Nat) (h : Kept A s₀ s) (hA : [.clusters, .tielux, .jobs, .objects, .transport, .streams, .events, .headers, .free] ⊆ A := by exact Part.sub (by assumption) (by decide)) : Kept A s₀ (State.consumeMirage s slot) := by
  unfold State.consumeMirage
  dsimp only
  repeat' first
    | with_reducible assumption
    | with_reducible apply State.log_kept
    | with_reducible apply State.endJob_kept
    | exact Part.sub hA (by decide)
    | fail_if_no_progress refine Kept.record ?_ rfl rfl rfl rfl rfl rfl ⟨fun p hp => by cases p <;> first | exact rfl | exact ⟨rfl, rfl⟩ | exact ⟨rfl, trivial⟩ | exact ⟨trivial, rfl⟩ | exact absurd (hA (by decide)) hp⟩
    | split

theorem State.failStep_kept {A : List Part} {s₀ s : State} (slot step : Nat) (h : Kept A s₀ s) (hA : [.clusters, .tielux, .jobs, .objects, .transport, .streams, .events, .headers, .integrity, .free] ⊆ A := by exact Part.sub (by assumption) (by decide)) : Kept A s₀ (State.failStep s slot step) := by
  unfold State.failStep
  repeat' first
    | with_reducible assumption
    | with_reducible apply State.endJob_kept
    | with_reducible apply State.modJob_kept
    | with_reducible apply State.rollBack_kept
    | exact Part.sub hA (by decide)
    | with_reducible refine Kept.ite ?_ ?_
    | split

theorem State.parityError_kept {A : List Part} {s₀ s : State} (slot op : Nat) (u : UnitRef) (h : Kept A s₀ s) (hA : [.clusters, .dies, .tielux, .jobs, .objects, .transport, .streams, .events, .health, .headers, .integrity, .free] ⊆ A := by exact Part.sub (by assumption) (by decide)) : Kept A s₀ (State.parityError s slot op u) := by
  unfold State.parityError
  dsimp only
  repeat' first
    | with_reducible assumption
    | with_reducible apply State.onIntegrity_kept
    | with_reducible apply State.log_kept
    | with_reducible apply State.failStep_kept
    | with_reducible apply State.chargeUnit_kept
    | exact Part.sub hA (by decide)
    | split

end Sys2Proof.Machine
end

