-- ==== Sys2Proof/Laws/Operands.lean ====
section
/-! SUPPORT. What the operations of Machine/Operands.lean keep (Laws/Kept.lean). -/

set_option Elab.async false

namespace Sys2Proof.Machine

open Sys2Proof Sys2Proof.Safety

-- The proofs before this one are checked before the next ones start.
theorem State.onCluster_kept {A : List Part} {s₀ s : State} (cl : ClusterRef) (f : Site → Nat → Work → Work) (g : optParam (SMap AddrGen → SMap AddrGen) id) (h : Kept A s₀ s) (hA : [.clusters, .tielux, .jobs, .objects, .transport, .streams, .events, .headers, .free] ⊆ A := by exact Part.sub (by assumption) (by decide)) : Kept A s₀ (State.onCluster s cl f g) := by
  unfold State.onCluster
  dsimp only
  repeat' first
    | with_reducible assumption
    | with_reducible apply State.setJob_kept
    | with_reducible apply State.modCluster_kept
    | exact fun _ _ h => h
    | with_reducible apply State.consumeMirage_kept
    | exact Part.sub hA (by decide)
    | with_reducible refine Kept.ite ?_ ?_
    | fail_if_no_progress refine Kept.record ?_ rfl rfl rfl rfl rfl rfl ⟨fun p hp => by cases p <;> first | exact rfl | exact ⟨rfl, rfl⟩ | exact ⟨rfl, trivial⟩ | exact ⟨trivial, rfl⟩ | exact absurd (hA (by decide)) hp⟩
    | split

end Sys2Proof.Machine
end

