-- ==== Sys2Proof/Laws/Fields.lean ====
section
/-! SUPPORT. What the operations of Machine/Fields.lean keep (Laws/Kept.lean). -/

set_option Elab.async false

namespace Sys2Proof.Machine

open Sys2Proof Sys2Proof.Safety

-- The proofs before this one are checked before the next ones start.
theorem State.nop_kept {A : List Part} {s₀ s : State} (cl : ClusterRef) (idle : Bool) (h : Kept A s₀ s) (hA : [.clusters] ⊆ A := by exact Part.sub (by assumption) (by decide)) : Kept A s₀ (State.nop s cl idle) := by
  unfold State.nop
  repeat' first
    | with_reducible assumption
    | with_reducible apply State.modCluster_kept
    | exact fun _ _ h => h
    | with_reducible refine Kept.ite ?_ ?_
    | split

theorem execNop_kept {s t : State} (cl : ClusterRef) (_slot : UnitSlot) (idle : Bool) (e : execNop cl _slot idle s = .next t) : Kept [.clusters] s t := by
  have h := Kept.refl (A := [.clusters]) s
  have hA := List.Subset.refl ([.clusters] : List Part)
  unfold execNop at e
  all_goals first | contradiction | (cases e) | skip
  repeat' first
    | with_reducible assumption
    | with_reducible apply State.nop_kept

theorem State.fldOpen_kept {A : List Part} {s₀ s : State} (o : FldOpenOps) (h : Kept A s₀ s) (hA : [.clusters, .tielux, .jobs, .objects, .transport, .streams, .events, .headers, .free] ⊆ A := by exact Part.sub (by assumption) (by decide)) : Kept A s₀ (State.fldOpen s o) := by
  unfold State.fldOpen
  repeat' first
    | with_reducible assumption
    | with_reducible apply State.onCluster_kept

theorem execFldOpen_kept {s t : State} (o : FldOpenOps) (e : execFldOpen o s = .next t) : Kept [.clusters, .tielux, .jobs, .objects, .transport, .streams, .events, .headers, .free] s t := by
  have h := Kept.refl (A := [.clusters, .tielux, .jobs, .objects, .transport, .streams, .events, .headers, .free]) s
  have hA := List.Subset.refl ([.clusters, .tielux, .jobs, .objects, .transport, .streams, .events, .headers, .free] : List Part)
  unfold execFldOpen at e
  all_goals first | contradiction | (cases e) | skip
  repeat' first
    | with_reducible assumption
    | with_reducible apply State.fldOpen_kept

theorem State.fldAcc_kept {A : List Part} {s₀ s : State} (o : FldAccOps) (h : Kept A s₀ s) (hA : [.clusters, .dies, .tielux, .jobs, .objects, .transport, .streams, .events, .health, .headers, .integrity, .free] ⊆ A := by exact Part.sub (by assumption) (by decide)) : Kept A s₀ (State.fldAcc s o) := by
  unfold State.fldAcc
  repeat' first
    | with_reducible assumption
    | with_reducible apply State.parityError_kept
    | with_reducible apply State.onCluster_kept
    | exact Part.sub hA (by decide)
    | split

theorem execFldAcc_kept {s t : State} (o : FldAccOps) (e : execFldAcc o s = .next t) : Kept [.clusters, .dies, .tielux, .jobs, .objects, .transport, .streams, .events, .health, .headers, .integrity, .free] s t := by
  have h := Kept.refl (A := [.clusters, .dies, .tielux, .jobs, .objects, .transport, .streams, .events, .health, .headers, .integrity, .free]) s
  have hA := List.Subset.refl ([.clusters, .dies, .tielux, .jobs, .objects, .transport, .streams, .events, .health, .headers, .integrity, .free] : List Part)
  unfold execFldAcc at e
  all_goals first | contradiction | (cases e) | skip
  repeat' first
    | with_reducible assumption
    | with_reducible apply State.fldAcc_kept

theorem State.fldClose_kept {A : List Part} {s₀ s : State} (o : FldCloseOps) (h : Kept A s₀ s) (hA : [.clusters, .tielux, .jobs, .objects, .transport, .streams, .events, .headers, .free] ⊆ A := by exact Part.sub (by assumption) (by decide)) : Kept A s₀ (State.fldClose s o) := by
  unfold State.fldClose
  repeat' first
    | with_reducible assumption
    | with_reducible apply State.onCluster_kept

theorem execFldClose_kept {s t : State} (o : FldCloseOps) (e : execFldClose o s = .next t) : Kept [.clusters, .tielux, .jobs, .objects, .transport, .streams, .events, .headers, .free] s t := by
  have h := Kept.refl (A := [.clusters, .tielux, .jobs, .objects, .transport, .streams, .events, .headers, .free]) s
  have hA := List.Subset.refl ([.clusters, .tielux, .jobs, .objects, .transport, .streams, .events, .headers, .free] : List Part)
  unfold execFldClose at e
  all_goals first | contradiction | (cases e) | skip
  repeat' first
    | with_reducible assumption
    | with_reducible apply State.fldClose_kept

theorem State.fldEnrg_kept {A : List Part} {s₀ s : State} (o : FldEnrgOps) (h : Kept A s₀ s) (hA : [.clusters, .tielux, .jobs, .objects, .transport, .streams, .events, .headers, .free] ⊆ A := by exact Part.sub (by assumption) (by decide)) : Kept A s₀ (State.fldEnrg s o) := by
  unfold State.fldEnrg
  repeat' first
    | with_reducible assumption
    | with_reducible apply State.onCluster_kept

theorem execFldEnrg_kept {s t : State} (o : FldEnrgOps) (e : execFldEnrg o s = .next t) : Kept [.clusters, .tielux, .jobs, .objects, .transport, .streams, .events, .headers, .free] s t := by
  have h := Kept.refl (A := [.clusters, .tielux, .jobs, .objects, .transport, .streams, .events, .headers, .free]) s
  have hA := List.Subset.refl ([.clusters, .tielux, .jobs, .objects, .transport, .streams, .events, .headers, .free] : List Part)
  unfold execFldEnrg at e
  all_goals first | contradiction | (cases e) | skip
  repeat' first
    | with_reducible assumption
    | with_reducible apply State.fldEnrg_kept

theorem State.redPart_kept {A : List Part} {s₀ s : State} (o : RedPartOps) (h : Kept A s₀ s) (hA : [.clusters, .tielux, .jobs, .objects, .transport, .streams, .events, .headers, .free] ⊆ A := by exact Part.sub (by assumption) (by decide)) : Kept A s₀ (State.redPart s o) := by
  unfold State.redPart
  repeat' first
    | with_reducible assumption
    | with_reducible apply State.onCluster_kept

theorem execRedPart_kept {s t : State} (o : RedPartOps) (e : execRedPart o s = .next t) : Kept [.clusters, .tielux, .jobs, .objects, .transport, .streams, .events, .headers, .free] s t := by
  have h := Kept.refl (A := [.clusters, .tielux, .jobs, .objects, .transport, .streams, .events, .headers, .free]) s
  have hA := List.Subset.refl ([.clusters, .tielux, .jobs, .objects, .transport, .streams, .events, .headers, .free] : List Part)
  unfold execRedPart at e
  all_goals first | contradiction | (cases e) | skip
  repeat' first
    | with_reducible assumption
    | with_reducible apply State.redPart_kept

theorem State.redPadd_kept {A : List Part} {s₀ s : State} (o : RedPaddOps) (h : Kept A s₀ s) (hA : [.clusters, .tielux, .jobs, .objects, .transport, .streams, .events, .headers, .free] ⊆ A := by exact Part.sub (by assumption) (by decide)) : Kept A s₀ (State.redPadd s o) := by
  unfold State.redPadd
  repeat' first
    | with_reducible assumption
    | with_reducible apply State.onCluster_kept

theorem execRedPadd_kept {s t : State} (o : RedPaddOps) (e : execRedPadd o s = .next t) : Kept [.clusters, .tielux, .jobs, .objects, .transport, .streams, .events, .headers, .free] s t := by
  have h := Kept.refl (A := [.clusters, .tielux, .jobs, .objects, .transport, .streams, .events, .headers, .free]) s
  have hA := List.Subset.refl ([.clusters, .tielux, .jobs, .objects, .transport, .streams, .events, .headers, .free] : List Part)
  unfold execRedPadd at e
  all_goals first | contradiction | (cases e) | skip
  repeat' first
    | with_reducible assumption
    | with_reducible apply State.redPadd_kept

theorem State.redAtom_kept {A : List Part} {s₀ s : State} (o : RedAtomOps) (h : Kept A s₀ s) (hA : [.clusters, .tielux, .jobs, .objects, .transport, .streams, .events, .headers, .free] ⊆ A := by exact Part.sub (by assumption) (by decide)) : Kept A s₀ (State.redAtom s o) := by
  unfold State.redAtom
  repeat' first
    | with_reducible assumption
    | with_reducible apply State.onCluster_kept

theorem execRedAtom_kept {s t : State} (o : RedAtomOps) (e : execRedAtom o s = .next t) : Kept [.clusters, .tielux, .jobs, .objects, .transport, .streams, .events, .headers, .free] s t := by
  have h := Kept.refl (A := [.clusters, .tielux, .jobs, .objects, .transport, .streams, .events, .headers, .free]) s
  have hA := List.Subset.refl ([.clusters, .tielux, .jobs, .objects, .transport, .streams, .events, .headers, .free] : List Part)
  unfold execRedAtom at e
  all_goals first | contradiction | (cases e) | skip
  repeat' first
    | with_reducible assumption
    | with_reducible apply State.redAtom_kept

theorem State.redEtot_kept {A : List Part} {s₀ s : State} (o : RedEtotOps) (h : Kept A s₀ s) (hA : [.clusters, .tielux, .jobs, .objects, .transport, .streams, .events, .headers, .free] ⊆ A := by exact Part.sub (by assumption) (by decide)) : Kept A s₀ (State.redEtot s o) := by
  unfold State.redEtot
  repeat' first
    | with_reducible assumption
    | with_reducible apply State.onCluster_kept

theorem execRedEtot_kept {s t : State} (o : RedEtotOps) (e : execRedEtot o s = .next t) : Kept [.clusters, .tielux, .jobs, .objects, .transport, .streams, .events, .headers, .free] s t := by
  have h := Kept.refl (A := [.clusters, .tielux, .jobs, .objects, .transport, .streams, .events, .headers, .free]) s
  have hA := List.Subset.refl ([.clusters, .tielux, .jobs, .objects, .transport, .streams, .events, .headers, .free] : List Part)
  unfold execRedEtot at e
  all_goals first | contradiction | (cases e) | skip
  repeat' first
    | with_reducible assumption
    | with_reducible apply State.redEtot_kept

end Sys2Proof.Machine
end

