-- ==== Sys2Proof/Laws/Power.lean ====
section
/-! SUPPORT. What the operations of Machine/Power.lean keep (Laws/Kept.lean). -/

set_option Elab.async false

namespace Sys2Proof.Machine

open Sys2Proof Sys2Proof.Safety

-- The proofs before this one are checked before the next ones start.
theorem State.measureFeed_kept {A : List Part} {s₀ s : State} (f : Feed) (mv : Nat) (h : Kept A s₀ s) (hA : [.jobs, .power] ⊆ A := by exact Part.sub (by assumption) (by decide)) : Kept A s₀ (State.measureFeed s f mv) := by
  unfold State.measureFeed
  repeat' first
    | with_reducible assumption
    | with_reducible apply State.raiseSettings_kept
    | with_reducible apply State.rebudget_kept
    | with_reducible apply State.onPower_kept
    | exact Part.sub hA (by decide)
    | with_reducible refine Kept.ite ?_ ?_

theorem State.feedPresent_kept {A : List Part} {s₀ s : State} (f : Feed) (mv : Nat) (h : Kept A s₀ s) (hA : [.jobs, .transport, .events, .headers, .power, .clocks] ⊆ A := by exact Part.sub (by assumption) (by decide)) : Kept A s₀ (State.feedPresent s f mv) := by
  unfold State.feedPresent
  try dsimp only
  repeat' first
    | with_reducible assumption
    | with_reducible apply State.measureFeed_kept
    | with_reducible apply State.onClocks_kept
    | with_reducible apply State.log_kept
    | with_reducible apply State.raiseSettings_kept
    | exact Part.sub hA (by decide)
    | intro _
    | with_reducible refine Kept.ite ?_ ?_
    | split
    | fail_if_no_progress refine Kept.record ?_ rfl rfl rfl rfl rfl rfl ⟨fun p hp => by cases p <;> first | exact rfl | exact ⟨rfl, rfl⟩ | exact ⟨rfl, trivial⟩ | exact ⟨trivial, rfl⟩ | exact absurd (hA (by decide)) hp⟩

theorem execFeedPresent_kept {s t : State} (feed : Feed) (mv : Nat) (e : execFeedPresent feed mv s = .next t) : Kept [.jobs, .transport, .events, .headers, .power, .clocks] s t := by
  have h := Kept.refl (A := [.jobs, .transport, .events, .headers, .power, .clocks]) s
  have hA := List.Subset.refl ([.jobs, .transport, .events, .headers, .power, .clocks] : List Part)
  unfold execFeedPresent at e
  all_goals first | contradiction | (cases e) | skip
  repeat' first
    | with_reducible assumption
    | with_reducible apply State.feedPresent_kept

theorem State.losePower_kept {A : List Part} {s₀ s : State} (h : Kept A s₀ s) (hA : [.clusters, .halves, .dies, .tielux, .mem, .objects, .port, .security] ⊆ A := by exact Part.sub (by assumption) (by decide)) : Kept A s₀ (State.losePower s) := by
  unfold State.losePower
  dsimp only
  generalize hs : List.foldl _ s (List.range 6) = s1
  have h1 : Kept A s₀ s1 := by
    rw [← hs]
    exact Kept.foldl (fun t d ht => State.modDie_kept _ _ (State.restartDie_kept _ ht)) _ h
  exact h1.updMem _ rfl (fun _ => rfl) rfl rfl rfl ⟨fun p hp => by cases p <;> first | exact rfl | exact ⟨rfl, rfl⟩ | exact ⟨rfl, trivial⟩ | exact ⟨trivial, rfl⟩ | exact absurd (hA (by decide)) hp⟩ (Kept.slots_len rfl (by simp))

theorem State.atShed_kept {A : List Part} {s₀ s : State} (h : Kept A s₀ s) (hA : [.transport, .starts, .power] ⊆ A := by exact Part.sub (by assumption) (by decide)) : Kept A s₀ (State.atShed s) := by
  unfold State.atShed
  dsimp only
  repeat' first
    | with_reducible assumption
    | fail_if_no_progress refine Kept.recordJ ?_ rfl rfl rfl rfl rfl rfl rfl (Nat.le_refl _) (fun _ h => h) rfl rfl rfl ⟨fun p hp => by cases p <;> first | exact rfl | exact ⟨rfl, rfl⟩ | exact ⟨rfl, trivial⟩ | exact ⟨trivial, rfl⟩ | exact absurd (hA (by decide)) hp⟩

theorem State.shed_kept {A : List Part} {s₀ s : State} (h : Kept A s₀ s) (hA : [.clusters, .halves, .dies, .tielux, .mem, .jobs, .objects, .transport, .starts, .port, .power, .security] ⊆ A := by exact Part.sub (by assumption) (by decide)) : Kept A s₀ (State.shed s) := by
  unfold State.shed
  repeat' first
    | with_reducible assumption
    | with_reducible apply State.atShed_kept
    | with_reducible apply State.losePower_kept
    | with_reducible apply State.loseJobs_kept
    | exact Part.sub hA (by decide)

theorem State.loseOneFeed_kept {A : List Part} {s₀ s : State} (f : Feed) (h : Kept A s₀ s) (hA : [.jobs, .transport, .streams, .events, .headers] ⊆ A := by exact Part.sub (by assumption) (by decide)) : Kept A s₀ (State.loseOneFeed s f) := by
  unfold State.loseOneFeed
  exact State.rebudget_kept (State.onJobs_kept _ (State.demoteAll_kept _ _ (State.log_kept _ h)) ⟨Nat.le_refl _, Nat.le_refl _⟩
    (fun g => mwf_mapJobs (f := fun _ (j : Job) => { j with reserved := false }) g))

theorem State.feedLost_kept {A : List Part} {s₀ s : State} (f : Feed) (mv : Nat) (h : Kept A s₀ s) (hA : [.clusters, .halves, .dies, .tielux, .mem, .jobs, .objects, .transport, .streams, .events, .starts, .headers, .port, .power, .security] ⊆ A := by exact Part.sub (by assumption) (by decide)) : Kept A s₀ (State.feedLost s f mv) := by
  unfold State.feedLost
  dsimp only
  repeat' first
    | with_reducible assumption
    | with_reducible apply State.loseOneFeed_kept
    | with_reducible apply State.shed_kept
    | exact Part.sub hA (by decide)
    | with_reducible refine Kept.ite ?_ ?_
    | fail_if_no_progress refine Kept.record ?_ rfl rfl rfl rfl rfl rfl ⟨fun p hp => by cases p <;> first | exact rfl | exact ⟨rfl, rfl⟩ | exact ⟨rfl, trivial⟩ | exact ⟨trivial, rfl⟩ | exact absurd (hA (by decide)) hp⟩

theorem execFeedLost_kept {s t : State} (feed : Feed) (mv : Nat) (e : execFeedLost feed mv s = .next t) : Kept [.clusters, .halves, .dies, .tielux, .mem, .jobs, .objects, .transport, .streams, .events, .starts, .headers, .port, .power, .security] s t := by
  have h := Kept.refl (A := [.clusters, .halves, .dies, .tielux, .mem, .jobs, .objects, .transport, .streams, .events, .starts, .headers, .port, .power, .security]) s
  have hA := List.Subset.refl ([.clusters, .halves, .dies, .tielux, .mem, .jobs, .objects, .transport, .streams, .events, .starts, .headers, .port, .power, .security] : List Part)
  unfold execFeedLost at e
  all_goals first | contradiction | (cases e) | skip
  repeat' first
    | with_reducible assumption
    | with_reducible apply State.feedLost_kept

theorem State.journalClose_kept {A : List Part} {s₀ s : State} (h : Kept A s₀ s) (hA : [.starts, .power, .config] ⊆ A := by exact Part.sub (by assumption) (by decide)) : Kept A s₀ (State.journalClose s) := by
  unfold State.journalClose
  dsimp only
  repeat' first
    | with_reducible assumption
    | with_reducible refine Kept.ite ?_ ?_
    | fail_if_no_progress refine Kept.recordJ ?_ rfl rfl rfl rfl rfl rfl rfl (Nat.le_refl _) (fun _ h => h) rfl rfl rfl ⟨fun p hp => by cases p <;> first | exact rfl | exact ⟨rfl, rfl⟩ | exact ⟨rfl, trivial⟩ | exact ⟨trivial, rfl⟩ | exact absurd (hA (by decide)) hp⟩

theorem execJournalClosed_kept {s t : State} (e : execJournalClosed s = .next t) : Kept [.starts, .power, .config] s t := by
  have h := Kept.refl (A := [.starts, .power, .config]) s
  have hA := List.Subset.refl ([.starts, .power, .config] : List Part)
  unfold execJournalClosed at e
  all_goals first | contradiction | (cases e) | skip
  repeat' first
    | with_reducible assumption
    | with_reducible apply State.journalClose_kept

theorem State.vaonLose_kept {A : List Part} {s₀ s : State} (h : Kept A s₀ s) (hA : [.keys, .ptp, .power, .clocks, .config] ⊆ A := by exact Part.sub (by assumption) (by decide)) : Kept A s₀ (State.vaonLose s) := by
  unfold State.vaonLose
  dsimp only
  repeat' first
    | with_reducible assumption
    | with_reducible refine Kept.ite ?_ ?_
    | fail_if_no_progress refine Kept.recordJ ?_ rfl rfl rfl rfl rfl rfl rfl (Nat.le_refl _) (fun _ h => h) rfl rfl rfl ⟨fun p hp => by cases p <;> first | exact rfl | exact ⟨rfl, rfl⟩ | exact ⟨rfl, trivial⟩ | exact ⟨trivial, rfl⟩ | exact absurd (hA (by decide)) hp⟩

theorem execVaonLost_kept {s t : State} (e : execVaonLost s = .next t) : Kept [.keys, .ptp, .power, .clocks, .config] s t := by
  have h := Kept.refl (A := [.keys, .ptp, .power, .clocks, .config]) s
  have hA := List.Subset.refl ([.keys, .ptp, .power, .clocks, .config] : List Part)
  unfold execVaonLost at e
  all_goals first | contradiction | (cases e) | skip
  repeat' first
    | with_reducible assumption
    | with_reducible apply State.vaonLose_kept

theorem State.setRailFail_kept {A : List Part} {s₀ s : State} (r : Rail) (b : BitVec 6) (h : Kept A s₀ s) (hA : [.dies, .power] ⊆ A := by exact Part.sub (by assumption) (by decide)) : Kept A s₀ (State.setRailFail s r b) := by
  unfold State.setRailFail
  repeat' first
    | with_reducible assumption
    | with_reducible apply State.modDie_kept
    | with_reducible apply State.onPower_kept
    | exact Part.sub hA (by decide)
    | split

theorem State.phaseGroupFail_kept {A : List Part} {s₀ s : State} (r : Rail) (g : Nat) (h : Kept A s₀ s) (hA : [.dies, .transport, .events, .headers, .power] ⊆ A := by exact Part.sub (by assumption) (by decide)) : Kept A s₀ (State.phaseGroupFail s r g) := by
  unfold State.phaseGroupFail
  repeat' first
    | with_reducible assumption
    | with_reducible apply State.log_kept
    | with_reducible apply State.setRailFail_kept
    | exact Part.sub hA (by decide)
    | with_reducible refine Kept.ite ?_ ?_

theorem execPhaseGroupFailed_kept {s t : State} (rail : Rail) (group : Fin 6) (e : execPhaseGroupFailed rail group s = .next t) : Kept [.dies, .transport, .events, .headers, .power] s t := by
  have h := Kept.refl (A := [.dies, .transport, .events, .headers, .power]) s
  have hA := List.Subset.refl ([.dies, .transport, .events, .headers, .power] : List Part)
  unfold execPhaseGroupFailed at e
  all_goals first | contradiction | (cases e) | skip
  repeat' first
    | with_reducible assumption
    | with_reducible apply State.phaseGroupFail_kept

theorem State.currentLimit_kept {A : List Part} {s₀ s : State} (d : Nat) (n : Nat) (h : Kept A s₀ s) (hA : [.dies, .transport, .events, .headers, .power] ⊆ A := by exact Part.sub (by assumption) (by decide)) : Kept A s₀ (State.currentLimit s d n) := by
  unfold State.currentLimit
  dsimp only
  repeat' first
    | with_reducible assumption
    | with_reducible apply State.modDie_kept
    | with_reducible apply State.onPower_kept
    | with_reducible apply State.log_kept
    | exact Part.sub hA (by decide)
    | with_reducible refine Kept.ite ?_ ?_

theorem execCurrentLimit_kept {s t : State} (die : Fin 6) (stretch : Fin 17) (e : execCurrentLimit die stretch s = .next t) : Kept [.dies, .transport, .events, .headers, .power] s t := by
  have h := Kept.refl (A := [.dies, .transport, .events, .headers, .power]) s
  have hA := List.Subset.refl ([.dies, .transport, .events, .headers, .power] : List Part)
  unfold execCurrentLimit at e
  all_goals first | contradiction | (cases e) | skip
  repeat' first
    | with_reducible assumption
    | with_reducible apply State.currentLimit_kept

theorem execDroopStretch_kept {s t : State} (die : Fin 6) (stretch : Fin 17) (e : execDroopStretch die stretch s = .next t) : Kept [.dies] s t := by
  have h := Kept.refl (A := [.dies]) s
  have hA := List.Subset.refl ([.dies] : List Part)
  unfold execDroopStretch at e
  all_goals first | contradiction | (cases e) | skip
  repeat' first
    | with_reducible assumption
    | with_reducible apply State.modDie_kept

theorem execDroopRelease_kept {s t : State} (die : Fin 6) (e : execDroopRelease die s = .next t) : Kept [.dies] s t := by
  have h := Kept.refl (A := [.dies]) s
  have hA := List.Subset.refl ([.dies] : List Part)
  unfold execDroopRelease at e
  all_goals first | contradiction | (cases e) | skip
  repeat' first
    | with_reducible assumption
    | with_reducible apply State.modDie_kept

theorem State.thermalNote_kept {A : List Part} {s₀ s : State} (p : ThermalPart) (t16 : Int) (h : Kept A s₀ s) (hA : [.transport, .events, .headers, .thermal] ⊆ A := by exact Part.sub (by assumption) (by decide)) : Kept A s₀ (State.thermalNote s p t16) := by
  unfold State.thermalNote
  repeat' first
    | with_reducible assumption
    | with_reducible apply State.onThermal_kept
    | with_reducible apply State.log_kept
    | exact Part.sub hA (by decide)

theorem State.thermalStep_kept {A : List Part} {s₀ s : State} (p : ThermalPart) (t16 : Int) (h : Kept A s₀ s) (hA : [.jobs, .transport, .streams, .events, .headers, .thermal] ⊆ A := by exact Part.sub (by assumption) (by decide)) : Kept A s₀ (State.thermalStep s p t16) := by
  unfold State.thermalStep
  dsimp only
  repeat' first
    | with_reducible assumption
    | with_reducible apply State.thermalNote_kept
    | with_reducible apply State.demoteAll_kept
    | exact Part.sub hA (by decide)

theorem State.heatStack_kept {A : List Part} {s₀ s : State} (t : Nat) (h : Kept A s₀ s) (hA : [.tielux, .transport, .events, .headers] ⊆ A := by exact Part.sub (by assumption) (by decide)) : Kept A s₀ (State.heatStack s t) := by
  unfold State.heatStack
  repeat' first
    | with_reducible assumption
    | with_reducible apply State.modStack_kept
    | with_reducible apply State.log_kept
    | exact Part.sub hA (by decide)
    | intro _
    | with_reducible refine Kept.ite ?_ ?_
    | split

theorem State.throttle_kept {A : List Part} {s₀ s : State} (p : ThermalPart) (t16 : Int) (h : Kept A s₀ s) (hA : [.clusters, .halves, .dies, .tielux, .mem, .jobs, .objects, .transport, .streams, .events, .starts, .headers, .port, .power, .clocks, .thermal, .security] ⊆ A := by exact Part.sub (by assumption) (by decide)) : Kept A s₀ (State.throttle s p t16) := by
  unfold State.throttle
  try dsimp only
  repeat' first
    | with_reducible assumption
    | with_reducible apply State.onClocks_kept
    | with_reducible apply State.onThermal_kept
    | with_reducible apply State.modDie_kept
    | with_reducible apply State.modStack_kept
    | with_reducible apply State.modJob_kept
    | with_reducible apply State.shed_kept
    | with_reducible apply State.thermalNote_kept
    | with_reducible apply State.thermalStep_kept
    | with_reducible apply State.heatStack_kept
    | exact Part.sub hA (by decide)
    | with_reducible refine Kept.foldl ?_ _ ?_
    | intro _
    | with_reducible refine Kept.ite ?_ ?_
    | split
    | fail_if_no_progress refine Kept.record ?_ rfl rfl rfl rfl rfl rfl ⟨fun p hp => by cases p <;> first | exact rfl | exact ⟨rfl, rfl⟩ | exact ⟨rfl, trivial⟩ | exact ⟨trivial, rfl⟩ | exact absurd (hA (by decide)) hp⟩

theorem execThermalThrottle_kept {s t : State} (part : ThermalPart) (sixteenths : Int) (e : execThermalThrottle part sixteenths s = .next t) : Kept [.clusters, .halves, .dies, .tielux, .mem, .jobs, .objects, .transport, .streams, .events, .starts, .headers, .port, .power, .clocks, .thermal, .security] s t := by
  have h := Kept.refl (A := [.clusters, .halves, .dies, .tielux, .mem, .jobs, .objects, .transport, .streams, .events, .starts, .headers, .port, .power, .clocks, .thermal, .security]) s
  have hA := List.Subset.refl ([.clusters, .halves, .dies, .tielux, .mem, .jobs, .objects, .transport, .streams, .events, .starts, .headers, .port, .power, .clocks, .thermal, .security] : List Part)
  unfold execThermalThrottle at e
  all_goals first | contradiction | (cases e) | skip
  repeat' first
    | with_reducible assumption
    | with_reducible apply State.throttle_kept

theorem State.throttleStep_kept {A : List Part} {s₀ s : State} (d : Nat) (h : Kept A s₀ s) (hA : [.jobs, .transport, .streams, .events, .headers] ⊆ A := by exact Part.sub (by assumption) (by decide)) : Kept A s₀ (State.throttleStep s d) := by
  unfold State.throttleStep
  dsimp only
  repeat' first
    | with_reducible assumption
    | with_reducible apply State.demoteAll_kept
    | with_reducible apply State.modJob_kept
    | exact Part.sub hA (by decide)
    | with_reducible refine Kept.foldl ?_ _ ?_
    | intro _
    | with_reducible refine Kept.ite ?_ ?_

theorem execThrottleStep_kept {s t : State} (die : Fin 6) (e : execThrottleStep die s = .next t) : Kept [.jobs, .transport, .streams, .events, .headers] s t := by
  have h := Kept.refl (A := [.jobs, .transport, .streams, .events, .headers]) s
  have hA := List.Subset.refl ([.jobs, .transport, .streams, .events, .headers] : List Part)
  unfold execThrottleStep at e
  all_goals first | contradiction | (cases e) | skip
  repeat' first
    | with_reducible assumption
    | with_reducible apply State.throttleStep_kept

theorem State.trip_kept {A : List Part} {s₀ s : State} (p : ThermalPart) (t16 : Int) (h : Kept A s₀ s) (hA : [.clusters, .halves, .dies, .tielux, .mem, .jobs, .objects, .transport, .streams, .events, .health, .starts, .headers, .port, .power, .clocks, .thermal, .security] ⊆ A := by exact Part.sub (by assumption) (by decide)) : Kept A s₀ (State.trip s p t16) := by
  unfold State.trip
  dsimp only
  repeat' first
    | with_reducible assumption
    | with_reducible apply State.modDie_kept
    | with_reducible apply State.log_kept
    | with_reducible apply State.resetDie_kept
    | with_reducible apply State.onJournal_kept
    | exact ⟨rfl, rfl, rfl, rfl, rfl, Nat.le_refl _, fun _ h => h, fun p hp => by cases p <;> first | exact rfl | exact trivial | exact absurd (hA (by decide)) hp⟩
    | with_reducible apply State.throttle_kept
    | exact Part.sub hA (by decide)
    | with_reducible refine Kept.ite ?_ ?_
    | split

theorem execThermalTrip_kept {s t : State} (part : ThermalPart) (sixteenths : Int) (e : execThermalTrip part sixteenths s = .next t) : Kept [.clusters, .halves, .dies, .tielux, .mem, .jobs, .objects, .transport, .streams, .events, .health, .starts, .headers, .port, .power, .clocks, .thermal, .security] s t := by
  have h := Kept.refl (A := [.clusters, .halves, .dies, .tielux, .mem, .jobs, .objects, .transport, .streams, .events, .health, .starts, .headers, .port, .power, .clocks, .thermal, .security]) s
  have hA := List.Subset.refl ([.clusters, .halves, .dies, .tielux, .mem, .jobs, .objects, .transport, .streams, .events, .health, .starts, .headers, .port, .power, .clocks, .thermal, .security] : List Part)
  unfold execThermalTrip at e
  all_goals first | contradiction | (cases e) | skip
  repeat' first
    | with_reducible assumption
    | with_reducible apply State.trip_kept

theorem State.thermalRelease_kept {A : List Part} {s₀ s : State} (p : ThermalPart) (t16 : Int) (h : Kept A s₀ s) (hA : [.dies, .tielux, .jobs, .clocks, .thermal] ⊆ A := by exact Part.sub (by assumption) (by decide)) : Kept A s₀ (State.thermalRelease s p t16) := by
  unfold State.thermalRelease
  dsimp only
  repeat' first
    | with_reducible assumption
    | with_reducible apply State.modDie_kept
    | with_reducible apply State.raiseSettings_kept
    | with_reducible apply State.modStack_kept
    | with_reducible apply State.onThermal_kept
    | with_reducible apply State.onClocks_kept
    | exact Part.sub hA (by decide)
    | with_reducible refine Kept.ite ?_ ?_
    | split

theorem execThermalRelease_kept {s t : State} (part : ThermalPart) (sixteenths : Int) (e : execThermalRelease part sixteenths s = .next t) : Kept [.dies, .tielux, .jobs, .clocks, .thermal] s t := by
  have h := Kept.refl (A := [.dies, .tielux, .jobs, .clocks, .thermal]) s
  have hA := List.Subset.refl ([.dies, .tielux, .jobs, .clocks, .thermal] : List Part)
  unfold execThermalRelease at e
  all_goals first | contradiction | (cases e) | skip
  repeat' first
    | with_reducible assumption
    | with_reducible apply State.thermalRelease_kept

theorem State.sensorFail_kept {A : List Part} {s₀ s : State} (u : Nat × Word) (detail : Nat) (h : Kept A s₀ s) (hA : [.transport, .events, .health, .headers, .bist] ⊆ A := by exact Part.sub (by assumption) (by decide)) : Kept A s₀ (State.sensorFail s u detail) := by
  unfold State.sensorFail
  dsimp only
  repeat' first
    | with_reducible assumption
    | with_reducible apply State.log_kept
    | with_reducible apply State.onBist_kept
    | with_reducible apply State.onJournal_kept
    | exact ⟨rfl, rfl, rfl, rfl, rfl, Nat.le_refl _, fun _ h => h, fun p hp => by cases p <;> first | exact rfl | exact trivial | exact absurd (hA (by decide)) hp⟩
    | exact Part.sub hA (by decide)

theorem State.foldSensor_kept {A : List Part} {s₀ s : State} (n : Nat) (h : Kept A s₀ s) (hA : [.dies, .tielux, .optics, .thermal] ⊆ A := by exact Part.sub (by assumption) (by decide)) : Kept A s₀ (State.foldSensor s n) := by
  unfold State.foldSensor
  repeat' first
    | with_reducible assumption
    | with_reducible apply State.modDie_kept
    | with_reducible apply State.modStack_kept
    | with_reducible apply State.onThermal_kept
    | with_reducible apply State.onOptics_kept
    | exact Part.sub hA (by decide)
    | with_reducible refine Kept.ite ?_ ?_
    | split

theorem State.sensorCheck_kept {A : List Part} {s₀ s : State} (item : SensorItem) (pass : Bool) (reading : Int) (h : Kept A s₀ s) (hA : [.dies, .tielux, .transport, .events, .health, .headers, .optics, .thermal, .bist] ⊆ A := by exact Part.sub (by assumption) (by decide)) : Kept A s₀ (State.sensorCheck s item pass reading) := by
  unfold State.sensorCheck
  repeat' first
    | with_reducible assumption
    | with_reducible apply State.foldSensor_kept
    | with_reducible apply State.onThermal_kept
    | with_reducible apply State.sensorFail_kept
    | with_reducible apply State.modDie_kept
    | exact Part.sub hA (by decide)
    | with_reducible refine Kept.ite ?_ ?_
    | split

theorem execSensorCheck_kept {s t : State} (item : SensorItem) (pass : Bool) (reading : Int) (e : execSensorCheck item pass reading s = .next t) : Kept [.dies, .tielux, .transport, .events, .health, .headers, .optics, .thermal, .bist] s t := by
  have h := Kept.refl (A := [.dies, .tielux, .transport, .events, .health, .headers, .optics, .thermal, .bist]) s
  have hA := List.Subset.refl ([.dies, .tielux, .transport, .events, .health, .headers, .optics, .thermal, .bist] : List Part)
  unfold execSensorCheck at e
  all_goals first | contradiction | (cases e) | skip
  repeat' first
    | with_reducible assumption
    | with_reducible apply State.sensorCheck_kept

theorem State.stopDomain_kept {A : List Part} {s₀ s : State} (x1 : Pll) (h : Kept A s₀ s) (hA : [.halves, .dies, .tielux, .port, .clocks] ⊆ A := by exact Part.sub (by assumption) (by decide)) : Kept A s₀ (State.stopDomain s x1) := by
  unfold State.stopDomain
  dsimp only
  repeat' first
    | with_reducible assumption
    | with_reducible apply State.modHalf_kept
    | with_reducible apply State.modDie_kept
    | with_reducible apply State.modStack_kept
    | with_reducible apply State.onClocks_kept
    | exact Part.sub hA (by decide)
    | fail_if_no_progress refine Kept.record ?_ rfl rfl rfl rfl rfl rfl ⟨fun p hp => by cases p <;> first | exact rfl | exact ⟨rfl, rfl⟩ | exact ⟨rfl, trivial⟩ | exact ⟨trivial, rfl⟩ | exact absurd (hA (by decide)) hp⟩
    | split

theorem State.pllLose_kept {A : List Part} {s₀ s : State} (p : Pll) (h : Kept A s₀ s) (hA : [.clusters, .halves, .dies, .tielux, .jobs, .transport, .streams, .events, .health, .starts, .headers, .port, .clocks, .bist] ⊆ A := by exact Part.sub (by assumption) (by decide)) : Kept A s₀ (State.pllLose s p) := by
  unfold State.pllLose
  dsimp only
  repeat' first
    | with_reducible assumption
    | with_reducible apply State.sensorFail_kept
    | with_reducible apply State.stopDomain_kept
    | with_reducible apply State.resetDie_kept
    | exact Part.sub hA (by decide)
    | split

theorem execPllLockLoss_kept {s t : State} (pll : Pll) (e : execPllLockLoss pll s = .next t) : Kept [.clusters, .halves, .dies, .tielux, .jobs, .transport, .streams, .events, .health, .starts, .headers, .port, .clocks, .bist] s t := by
  have h := Kept.refl (A := [.clusters, .halves, .dies, .tielux, .jobs, .transport, .streams, .events, .health, .starts, .headers, .port, .clocks, .bist]) s
  have hA := List.Subset.refl ([.clusters, .halves, .dies, .tielux, .jobs, .transport, .streams, .events, .health, .starts, .headers, .port, .clocks, .bist] : List Part)
  unfold execPllLockLoss at e
  all_goals first | contradiction | (cases e) | skip
  repeat' first
    | with_reducible assumption
    | with_reducible apply State.pllLose_kept

theorem State.jitterFail_kept {A : List Part} {s₀ s : State} (p : Pll) (h : Kept A s₀ s) (hA : [.transport, .events, .health, .headers, .clocks, .bist] ⊆ A := by exact Part.sub (by assumption) (by decide)) : Kept A s₀ (State.jitterFail s p) := by
  unfold State.jitterFail
  dsimp only
  repeat' first
    | with_reducible assumption
    | with_reducible apply State.sensorFail_kept
    | with_reducible apply State.onJournal_kept
    | exact ⟨rfl, rfl, rfl, rfl, rfl, Nat.le_refl _, fun _ h => h, fun p hp => by cases p <;> first | exact rfl | exact trivial | exact absurd (hA (by decide)) hp⟩
    | with_reducible apply State.onClocks_kept
    | exact Part.sub hA (by decide)
    | with_reducible refine Kept.ite ?_ ?_

theorem execPllJitterFail_kept {s t : State} (pll : Pll) (e : execPllJitterFail pll s = .next t) : Kept [.transport, .events, .health, .headers, .clocks, .bist] s t := by
  have h := Kept.refl (A := [.transport, .events, .health, .headers, .clocks, .bist]) s
  have hA := List.Subset.refl ([.transport, .events, .health, .headers, .clocks, .bist] : List Part)
  unfold execPllJitterFail at e
  all_goals first | contradiction | (cases e) | skip
  repeat' first
    | with_reducible assumption
    | with_reducible apply State.jitterFail_kept

end Sys2Proof.Machine
end

