-- ==== Sys2Proof/Laws/StackFail.lean ====
section
/-! SUPPORT. What the operations of Machine/StackFail.lean keep (Laws/Kept.lean). -/

set_option Elab.async false

namespace Sys2Proof.Machine

open Sys2Proof Sys2Proof.Safety

-- The proofs before this one are checked before the next ones start.
theorem State.damageLost_kept {A : List Part} {s₀ s : State} (h : Kept A s₀ s) (hA : [.objects] ⊆ A := by exact Part.sub (by assumption) (by decide)) : Kept A s₀ (State.damageLost s) := by
  unfold State.damageLost
  repeat' first
    | with_reducible assumption
    | with_reducible apply State.onObjects_kept
    | exact id

theorem State.endLost_kept {A : List Part} {s₀ s : State} (h : Kept A s₀ s) (hA : [.clusters, .tielux, .jobs, .objects, .transport, .streams, .free] ⊆ A := by exact Part.sub (by assumption) (by decide)) : Kept A s₀ (State.endLost s) := by
  unfold State.endLost
  repeat' first
    | with_reducible assumption
    | with_reducible apply State.endJob_kept
    | with_reducible refine Kept.foldl ?_ _ ?_
    | intro _

theorem State.rehome_kept {A : List Part} {s₀ s : State} (t : Nat) (h : Kept A s₀ s) (hA : [.tielux] ⊆ A := by exact Part.sub (by assumption) (by decide)) : Kept A s₀ (State.rehome s t) := by
  unfold State.rehome
  try dsimp only
  repeat' first
    | with_reducible assumption
    | with_reducible apply State.modStack_kept
    | exact Part.sub hA (by decide)
    | with_reducible refine Kept.foldl ?_ _ ?_
    | intro _
    | split
    | fail_if_no_progress refine Kept.record ?_ rfl rfl rfl rfl rfl rfl ⟨fun p hp => by cases p <;> first | exact rfl | exact ⟨rfl, rfl⟩ | exact ⟨rfl, trivial⟩ | exact ⟨trivial, rfl⟩ | exact absurd (hA (by decide)) hp⟩

theorem State.failStack_kept {A : List Part} {s₀ s : State} (t : Nat) (h : Kept A s₀ s) (hA : [.clusters, .tielux, .jobs, .objects, .transport, .streams, .events, .headers, .free] ⊆ A := by exact Part.sub (by assumption) (by decide)) : Kept A s₀ (State.failStack s t) := by
  unfold State.failStack
  try dsimp only
  repeat' first
    | with_reducible assumption
    | with_reducible apply State.modStack_kept
    | with_reducible apply State.log_kept
    | with_reducible apply State.damageLost_kept
    | with_reducible apply State.endLost_kept
    | with_reducible apply State.rehome_kept
    | exact Part.sub hA (by decide)
    | intro _
    | with_reducible refine Kept.ite ?_ ?_
    | split
    | fail_if_no_progress refine Kept.record ?_ rfl rfl rfl rfl rfl rfl ⟨fun p hp => by cases p <;> first | exact rfl | exact ⟨rfl, rfl⟩ | exact ⟨rfl, trivial⟩ | exact ⟨trivial, rfl⟩ | exact absurd (hA (by decide)) hp⟩

theorem State.chargeBaseDie_kept {A : List Part} {s₀ s : State} (xt : Nat) (h : Kept A s₀ s) (hA : [.clusters, .dies, .tielux, .jobs, .objects, .transport, .streams, .events, .health, .headers, .integrity, .free] ⊆ A := by exact Part.sub (by assumption) (by decide)) : Kept A s₀ (State.chargeBaseDie s xt) := by
  unfold State.chargeBaseDie
  dsimp only
  repeat' first
    | with_reducible assumption
    | with_reducible apply State.charge_kept
    | with_reducible apply State.failStack_kept
    | exact Part.sub hA (by decide)
    | with_reducible refine Kept.ite ?_ ?_

end Sys2Proof.Machine
end

