-- ==== Sys2Proof/Laws/Placement.lean ====
section
/-! SUPPORT. What the operations of Machine/Placement.lean keep (Laws/Kept.lean). -/

set_option Elab.async false

namespace Sys2Proof.Machine

open Sys2Proof Sys2Proof.Safety

-- The proofs before this one are checked before the next ones start.
theorem Reserved.bind_eq_ok {α β : Type} {x : Reserved α} {f : α → Reserved β} {b : β} (e : x.bind f = .ok b) : ∃ a, x = .ok a ∧ f a = .ok b := by
  cases x with
  | ok a => exact ⟨a, rfl, e⟩
  | short => cases e
  | stack => cases e

theorem Reserved.ofOption_eq_ok {α : Type} {why : Reserved α} (hw : ∀ a, why ≠ .ok a) {o : Option α} {a : α}
    (e : Reserved.ofOption why o = .ok a) : o = some a := by
  cases o with
  | none => exact absurd e (hw a)
  | some b =>
    cases e
    rfl

theorem State.reserveAlloc_kept {A : List Part} {s₀ s t : State} {job : Nat} {a : AllocEntry} {region : List Nat} {v : Allocation} (h : Kept A s₀ s)
    (e : State.reserveAlloc s job a region = .ok (t, v)) (hA : [.tielux, .entropy, .free] ⊆ A := by exact Part.sub (by assumption) (by decide)) : Kept A s₀ t := by
  unfold State.reserveAlloc at e
  dsimp only at e
  split at e
  · split at e
    · cases e
    · obtain ⟨r, hr, e⟩ := Reserved.bind_eq_ok e
      have hk := Reserved.ofOption_eq_ok (by intro a; split <;> exact nofun) hr
      cases e
      exact State.takeShares_kept (t := r.1) (v := r.2) h hk
  · obtain ⟨r, hr, e⟩ := Reserved.bind_eq_ok e
    have hk := Reserved.ofOption_eq_ok (by intro a; exact nofun) hr
    cases e
    exact State.takeSalted_kept (t := r.1) (v := r.2) h hk

theorem State.remapAlloc_kept {A : List Part} {s₀ s t : State} {j : Job} {i : Nat} {a : AllocEntry} {region : List Nat} {v : Allocation} (h : Kept A s₀ s)
    (e : State.remapAlloc s j i a region = .ok (t, v)) (hA : [.tielux, .mem, .entropy, .free] ⊆ A := by exact Part.sub (by assumption) (by decide)) : Kept A s₀ t := by
  unfold State.remapAlloc at e
  dsimp only at e
  split at e
  · split at e
    · cases e
      exact State.freePages_kept _ h
    · obtain ⟨r, hr, e⟩ := Reserved.bind_eq_ok e
      have hk := Reserved.ofOption_eq_ok (by intro a; exact nofun) hr
      cases e
      exact State.takeSalted_kept (t := r.1) (v := r.2) h hk
  · obtain ⟨r, hr, e⟩ := Reserved.bind_eq_ok e
    have h1 := State.reserveAlloc_kept (t := r.1) (v := r.2) h hr
    split at e
    · cases e
      exact h1
    · cases e
      exact State.freePages_kept _ (State.copyAlloc_kept _ _ _ h1)

theorem State.reserveList_kept {A : List Part} {s₀ s t : State} {one : State → Nat → Reserved (State × Allocation)} {n i : Nat} {v : List Allocation}
    (ho : ∀ {s t : State} {i : Nat} {a : Allocation}, Kept A s₀ s → one s i = .ok (t, a) → Kept A s₀ t) (h : Kept A s₀ s)
    (e : State.reserveList s one n i = .ok (t, v)) : Kept A s₀ t := by
  induction n generalizing i s v with
  | zero =>
    cases e
    exact h
  | succ n ih =>
    rw [State.reserveList] at e
    obtain ⟨r, hr, e⟩ := Reserved.bind_eq_ok e
    obtain ⟨q, hq, e⟩ := Reserved.bind_eq_ok e
    cases e
    exact ih (ho (t := r.1) (a := r.2) h hr) (v := q.2) hq

theorem State.reserveSide_kept {A : List Part} {s₀ s t : State} {j : Job} {k : Nat} {v : List PageRef} (h : Kept A s₀ s)
    (e : State.reserveSide s j k = .ok (t, v)) (hA : [.tielux, .entropy, .free] ⊆ A := by exact Part.sub (by assumption) (by decide)) : Kept A s₀ t := by
  unfold State.reserveSide at e
  obtain ⟨r, hr, e⟩ := Reserved.bind_eq_ok e
  obtain ⟨q, hq, e⟩ := Reserved.bind_eq_ok e
  have hr := Reserved.ofOption_eq_ok (by intro a; exact nofun) hr
  have hq := Reserved.ofOption_eq_ok (by intro a; exact nofun) hq
  cases e
  exact State.takeSalted_kept (t := q.1) (v := q.2) (State.takeSalted_kept (t := r.1) (v := r.2) h hr) hq

theorem State.carrySide_kept {A : List Part} {s₀ s : State} (j : Job) (k : Nat) (ps : List PageRef) (h : Kept A s₀ s) (hA : [.tielux, .mem] ⊆ A := by exact Part.sub (by assumption) (by decide)) : Kept A s₀ (State.carrySide s j k ps) := by
  unfold State.carrySide
  repeat' first
    | with_reducible assumption
    | with_reducible apply State.copyPage_kept
    | exact Part.sub hA (by decide)
    | with_reducible refine Kept.foldl ?_ _ ?_
    | intro _
    | with_reducible refine Kept.ite ?_ ?_
    | split

theorem State.reserveJob_kept {A : List Part} {s₀ s t : State} {j : Job} {k : Nat} {region : List Nat} {v : List Allocation × List PageRef} (h : Kept A s₀ s)
    (e : State.reserveJob s j k region = .ok (t, v)) (hA : [.tielux, .mem, .entropy, .free] ⊆ A := by exact Part.sub (by assumption) (by decide)) : Kept A s₀ t := by
  unfold State.reserveJob at e
  dsimp only at e
  split at e
  · cases e
    exact h
  · obtain ⟨r, hr, e⟩ := Reserved.bind_eq_ok e
    obtain ⟨q, hq, e⟩ := Reserved.bind_eq_ok e
    cases e
    refine State.freePages_kept _ (State.carrySide_kept _ _ _ (State.reserveSide_kept (t := q.1) (v := q.2) (State.reserveList_kept ?_ (t := r.1) (v := r.2) h hr) hq))
    intro s t i a h e
    split at e
    · exact State.remapAlloc_kept h e
    · exact State.reserveAlloc_kept h e

end Sys2Proof.Machine
end

