-- ==== Sys2Proof/Laws/ContextLoad.lean ====
section
/-! SUPPORT. What the operations of Machine/ContextLoad.lean keep (Laws/Kept.lean). -/

set_option Elab.async false

namespace Sys2Proof.Machine

open Sys2Proof Sys2Proof.Safety

-- The proofs before this one are checked before the next ones start.
theorem State.modAtPos_kept {A : List Part} {s₀ s : State} (xk : Nat) (pos : Nat) (f : Core → Core) (h : Kept A s₀ s) (hA : [.clusters] ⊆ A := by exact Part.sub (by assumption) (by decide)) : Kept A s₀ (State.modAtPos s xk pos f) := by
  unfold State.modAtPos
  repeat' first
    | with_reducible assumption
    | with_reducible apply State.modCluster_kept
    | exact fun _ _ h => h
    | split

theorem State.preloadRun_kept {A : List Part} {s₀ s : State} (j : Job) (r : PreloadRun) (h : Kept A s₀ s) (hA : [.clusters] ⊆ A := by exact Part.sub (by assumption) (by decide)) : Kept A s₀ (State.preloadRun s j r) := by
  unfold State.preloadRun
  repeat' first
    | with_reducible assumption
    | with_reducible apply State.modAtPos_kept

theorem State.placeLoc_kept {A : List Part} {s₀ s : State} (j : Job) (x : StateLoc) (h : Kept A s₀ s) (hA : [.clusters] ⊆ A := by exact Part.sub (by assumption) (by decide)) : Kept A s₀ (State.placeLoc s j x) := by
  unfold State.placeLoc
  dsimp only
  repeat' first
    | with_reducible assumption
    | with_reducible apply State.modAtPos_kept

theorem State.placeCopy_kept {A : List Part} {s₀ s : State} (j : Job) (i : Nat) (h : Kept A s₀ s) (hA : [.tielux, .mem] ⊆ A := by exact Part.sub (by assumption) (by decide)) : Kept A s₀ (State.placeCopy s j i) := by
  unfold State.placeCopy
  try dsimp only
  repeat' first
    | with_reducible assumption
    | with_reducible apply State.fillAlloc_kept
    | with_reducible apply State.copyLine_kept
    | exact Part.sub hA (by decide)
    | with_reducible refine Kept.foldl ?_ _ ?_
    | intro _
    | split

theorem State.loadGroups_kept {A : List Part} {s₀ s : State} (j : Job) (m : Bytes) (c : Bytes) (h : Kept A s₀ s) (hA : [.clusters] ⊆ A := by exact Part.sub (by assumption) (by decide)) : Kept A s₀ (State.loadGroups s j m c) := by
  unfold State.loadGroups
  dsimp only
  repeat' first
    | with_reducible assumption
    | with_reducible apply State.modAtPos_kept
    | with_reducible refine Kept.foldl ?_ _ ?_
    | intro _
    | with_reducible refine Kept.ite ?_ ?_

theorem State.fillSlots_kept {A : List Part} {s₀ s : State} (j : Job) (h : Kept A s₀ s) (hA : [.clusters, .halves] ⊆ A := by exact Part.sub (by assumption) (by decide)) : Kept A s₀ (State.fillSlots s j) := by
  unfold State.fillSlots
  try dsimp only
  repeat' first
    | with_reducible assumption
    | with_reducible apply State.modCluster_kept
    | with_reducible apply State.modHalf_kept
    | exact Part.sub hA (by decide)
    | with_reducible refine Kept.foldl ?_ _ ?_
    | intro _
    | fail_if_no_progress refine Kept.record ?_ rfl rfl rfl rfl rfl rfl ⟨fun p hp => by cases p <;> first | exact rfl | exact ⟨rfl, rfl⟩ | exact ⟨rfl, trivial⟩ | exact ⟨trivial, rfl⟩ | exact absurd (hA (by decide)) hp⟩

theorem State.fillData_kept {A : List Part} {s₀ s : State} (j : Job) (p : Bytes) (t : Tiling) (h : Kept A s₀ s) (hA : [.clusters, .halves, .tielux, .mem, .jobs] ⊆ A := by exact Part.sub (by assumption) (by decide)) : Kept A s₀ (State.fillData s j p t) := by
  unfold State.fillData
  try dsimp only
  repeat' first
    | with_reducible assumption
    | with_reducible apply State.preloadRun_kept
    | with_reducible apply State.placeLoc_kept
    | with_reducible apply State.placeCopy_kept
    | with_reducible apply State.fillSlots_kept
    | with_reducible apply State.clearRegion_kept
    | exact Part.sub hA (by decide)
    | with_reducible refine Kept.foldl ?_ _ ?_
    | intro _
    | with_reducible refine Kept.ite ?_ ?_
    | split

theorem State.fillAnchors_kept {A : List Part} {s₀ s : State} (j0 j : Job) (h : Kept A s₀ s) (hA : [.tielux, .mem] ⊆ A := by exact Part.sub (by assumption) (by decide)) : Kept A s₀ (State.fillAnchors s j0 j) := by
  unfold State.fillAnchors
  try dsimp only
  repeat' first
    | with_reducible assumption
    | with_reducible apply State.storePages_kept
    | exact Part.sub hA (by decide)
    | with_reducible refine Kept.foldl ?_ _ ?_
    | intro _
    | with_reducible refine Kept.ite ?_ ?_
    | split

theorem State.fillRegion_kept {A : List Part} {s₀ s : State} (slot : Nat) (h : Kept A s₀ s) (hA : [.clusters, .halves, .tielux, .mem, .jobs] ⊆ A := by exact Part.sub (by assumption) (by decide)) : Kept A s₀ (State.fillRegion s slot) := by
  unfold State.fillRegion
  try dsimp only
  repeat' first
    | with_reducible assumption
    | with_reducible apply State.fillAnchors_kept
    | with_reducible apply State.fillData_kept
    | with_reducible apply State.loadGroups_kept
    | with_reducible apply State.setJob_kept
    | exact Part.sub hA (by decide)
    | with_reducible refine Kept.foldl ?_ _ ?_
    | intro _
    | with_reducible refine Kept.ite ?_ ?_
    | split

end Sys2Proof.Machine
end

