-- ==== Sys2Proof/Laws/Admission.lean ====
section
/-! SUPPORT. What the operations of Machine/Admission.lean keep (Laws/Kept.lean). -/

set_option Elab.async false

namespace Sys2Proof.Machine

open Sys2Proof Sys2Proof.Safety

-- The proofs before this one are checked before the next ones start.
theorem State.wakeHalves_kept {A : List Part} {s₀ s : State} (region : List Nat) (n : Nat) (h : Kept A s₀ s) (hA : [.halves] ⊆ A := by exact Part.sub (by assumption) (by decide)) : Kept A s₀ (State.wakeHalves s region n) := by
  unfold State.wakeHalves
  repeat' first
    | with_reducible assumption
    | with_reducible apply State.modHalf_kept
    | with_reducible refine Kept.foldl ?_ _ ?_
    | intro _

theorem State.enter_kept {A : List Part} {s₀ s : State} (slot : Nat) (j : Job) (k : Nat) (region : List Nat) (n : Nat) (h : Kept A s₀ s) (hA : [.clusters, .halves, .tielux, .mem, .jobs, .objects, .transport, .streams, .entropy, .free] ⊆ A := by exact Part.sub (by assumption) (by decide)) :
    Kept A s₀ (State.enter s slot j k region n) := by
  unfold State.enter
  cases hk : s.reserveJob j k region with
  | ok r =>
    exact State.setJob_kept _ _ (State.wakeHalves_kept _ _ (State.onJobs_kept _ (State.reserveJob_kept (t := r.1) (v := r.2) h hk)
      ⟨Nat.le_refl _, Nat.le_refl _⟩ id))
  | short => exact h
  | stack => exact State.endJob_kept _ _ _ _ h

theorem State.preemptFor_kept {A : List Part} {s₀ s : State} (slot : Nat) (j : Job) (h : Kept A s₀ s) (hA : [.jobs] ⊆ A := by exact Part.sub (by assumption) (by decide)) : Kept A s₀ (State.preemptFor s slot j) := by
  unfold State.preemptFor
  dsimp only
  repeat' first
    | with_reducible assumption
    | with_reducible apply State.modJob_kept
    | with_reducible refine Kept.foldl ?_ _ ?_
    | intro _
    | with_reducible refine Kept.ite ?_ ?_
    | split

theorem State.tryAdmit_kept {A : List Part} {s₀ s : State} (slot : Nat) (j : Job) (h : Kept A s₀ s) (hA : [.clusters, .halves, .tielux, .mem, .jobs, .objects, .transport, .streams, .entropy, .free] ⊆ A := by exact Part.sub (by assumption) (by decide)) : Kept A s₀ (State.tryAdmit s slot j) := by
  unfold State.tryAdmit
  try dsimp only
  repeat' first
    | with_reducible assumption
    | with_reducible apply State.endJob_kept
    | with_reducible apply State.modJob_kept
    | with_reducible apply State.lowerFor_kept
    | with_reducible apply State.enter_kept
    | with_reducible apply State.preemptFor_kept
    | exact Part.sub hA (by decide)
    | intro _
    | with_reducible refine Kept.ite ?_ ?_
    | split
    | fail_if_no_progress refine Kept.record ?_ rfl rfl rfl rfl rfl rfl ⟨fun p hp => by cases p <;> first | exact rfl | exact ⟨rfl, rfl⟩ | exact ⟨rfl, trivial⟩ | exact ⟨trivial, rfl⟩ | exact absurd (hA (by decide)) hp⟩

theorem admitPass_kept {A : List Part} {s₀ s : State} (l : List (Nat × Job)) (b : List Job) (h : Kept A s₀ s) (hA : [.clusters, .halves, .tielux, .mem, .jobs, .objects, .transport, .streams, .entropy, .free] ⊆ A := by exact Part.sub (by assumption) (by decide)) : Kept A s₀ (admitPass l b s) := by
  induction l generalizing b s with
  | nil => exact h
  | cons e l ih =>
    rw [admitPass]
    split
    · exact ih b h
    · exact Kept.ite (ih b h) (ih _ (State.tryAdmit_kept _ _ h))

theorem State.admitJobs_kept {A : List Part} {s₀ s : State} (h : Kept A s₀ s) (hA : [.clusters, .halves, .tielux, .mem, .jobs, .objects, .transport, .streams, .entropy, .free] ⊆ A := by exact Part.sub (by assumption) (by decide)) : Kept A s₀ (State.admitJobs s) := by
  unfold State.admitJobs
  repeat' first
    | with_reducible assumption
    | with_reducible apply State.raiseFree_kept
    | with_reducible apply admitPass_kept
    | exact Part.sub hA (by decide)
    | with_reducible refine Kept.ite ?_ ?_
    | split

end Sys2Proof.Machine
end

