-- ==== Sys2Proof/Laws/Commit.lean ====
section
/-! SUPPORT. What the operations of Machine/Commit.lean keep (Laws/Kept.lean). -/

set_option Elab.async false

namespace Sys2Proof.Machine

open Sys2Proof Sys2Proof.Safety

-- The proofs before this one are checked before the next ones start.
theorem State.commitShadows_kept {A : List Part} {s₀ s : State} (j : Job) (step : Nat) (h : Kept A s₀ s) (hA : [.tielux, .mem] ⊆ A := by exact Part.sub (by assumption) (by decide)) : Kept A s₀ (State.commitShadows s j step) := by
  unfold State.commitShadows
  repeat' first
    | with_reducible assumption
    | with_reducible apply State.commitLine_kept
    | with_reducible refine Kept.foldl ?_ _ ?_
    | intro _

theorem State.storeState_kept {A : List Part} {s₀ s : State} (j : Job) (m : Bytes) (area : SMap Word) (w : AreaWrite) (h : Kept A s₀ s) (hA : [.tielux, .mem] ⊆ A := by exact Part.sub (by assumption) (by decide)) : Kept A s₀ (State.storeState s j m area w) := by
  unfold State.storeState
  try dsimp only
  repeat' first
    | with_reducible assumption
    | with_reducible apply State.storePages_kept
    | exact Part.sub hA (by decide)
    | intro _
    | with_reducible refine Kept.ite ?_ ?_
    | split

theorem State.storeAreas_kept {A : List Part} {s₀ s : State} (j k : Job) (step : Nat) (h : Kept A s₀ s) (hA : [.tielux, .mem] ⊆ A := by exact Part.sub (by assumption) (by decide)) : Kept A s₀ (State.storeAreas s j k step) := by
  unfold State.storeAreas
  repeat' first
    | with_reducible assumption
    | with_reducible apply State.storeState_kept
    | exact Part.sub hA (by decide)
    | with_reducible refine Kept.foldl ?_ _ ?_
    | intro _
    | with_reducible refine Kept.ite ?_ ?_
    | split

theorem State.storeCopies_kept {A : List Part} {s₀ s : State} (j k : Job) (h : Kept A s₀ s) (hA : [.tielux, .mem] ⊆ A := by exact Part.sub (by assumption) (by decide)) : Kept A s₀ (State.storeCopies s j k) := by
  unfold State.storeCopies
  try dsimp only
  repeat' first
    | with_reducible assumption
    | with_reducible apply State.storePages_kept
    | exact Part.sub hA (by decide)
    | with_reducible refine Kept.foldl ?_ _ ?_
    | intro _
    | with_reducible refine Kept.ite ?_ ?_
    | split

theorem State.storeDigests_kept {A : List Part} {s₀ s : State} (j k : Job) (h : Kept A s₀ s) (hA : [.tielux, .mem] ⊆ A := by exact Part.sub (by assumption) (by decide)) : Kept A s₀ (State.storeDigests s j k) := by
  unfold State.storeDigests
  repeat' first
    | with_reducible assumption
    | with_reducible apply State.storePages_kept
    | exact Part.sub hA (by decide)

theorem State.storeCommit_kept {A : List Part} {s₀ s : State} (j k : Job) (step : Nat) (h : Kept A s₀ s) (hA : [.tielux, .mem] ⊆ A := by exact Part.sub (by assumption) (by decide)) : Kept A s₀ (State.storeCommit s j k step) := by
  unfold State.storeCommit
  repeat' first
    | with_reducible assumption
    | with_reducible apply State.storeAreas_kept
    | with_reducible apply State.storeCopies_kept
    | with_reducible apply State.storeDigests_kept
    | exact Part.sub hA (by decide)

theorem State.sendCommits_kept {A : List Part} {s₀ s : State} (j : Job) (xe : StepEnd) (h : Kept A s₀ s) (hA : [.transport] ⊆ A := by exact Part.sub (by assumption) (by decide)) : Kept A s₀ (State.sendCommits s j xe) := by
  unfold State.sendCommits
  repeat' first
    | with_reducible assumption
    | with_reducible apply State.toNeighbours_kept
    | with_reducible refine Kept.foldl ?_ _ ?_
    | intro _
    | split

theorem State.finish_kept {A : List Part} {s₀ s : State} (slot : Nat) (h : Kept A s₀ s) (hA : [.clusters, .tielux, .mem, .jobs, .objects, .transport, .streams, .events, .headers, .free] ⊆ A := by exact Part.sub (by assumption) (by decide)) : Kept A s₀ (State.finish s slot) := by
  unfold State.finish
  try dsimp only
  repeat' first
    | with_reducible assumption
    | with_reducible apply State.commitShadows_kept
    | with_reducible apply State.storeCommit_kept
    | with_reducible apply State.endJob_kept
    | with_reducible apply State.consumeMirage_kept
    | with_reducible apply State.setJob_kept
    | exact Part.sub hA (by decide)
    | with_reducible refine Kept.foldl ?_ _ ?_
    | intro _
    | with_reducible refine Kept.ite ?_ ?_
    | split

theorem State.afterCommit_kept {A : List Part} {s₀ s : State} (slot : Nat) (h : Kept A s₀ s) (hA : [.clusters, .tielux, .mem, .jobs, .objects, .transport, .streams, .events, .headers, .free] ⊆ A := by exact Part.sub (by assumption) (by decide)) : Kept A s₀ (State.afterCommit s slot) := by
  unfold State.afterCommit
  repeat' first
    | with_reducible assumption
    | with_reducible apply State.endJob_kept
    | with_reducible apply State.finish_kept
    | with_reducible apply State.setJob_kept
    | exact Part.sub hA (by decide)
    | with_reducible refine Kept.ite ?_ ?_
    | split

theorem State.stepCommit_kept {A : List Part} {s₀ s : State} (slot : Nat) (h : Kept A s₀ s) (hA : [.clusters, .tielux, .mem, .jobs, .objects, .transport, .streams, .events, .headers, .free] ⊆ A := by exact Part.sub (by assumption) (by decide)) : Kept A s₀ (State.stepCommit s slot) := by
  unfold State.stepCommit
  try dsimp only
  repeat' first
    | with_reducible assumption
    | with_reducible apply State.commitShadows_kept
    | with_reducible apply State.storeCommit_kept
    | with_reducible apply State.sendCommits_kept
    | with_reducible apply State.finish_kept
    | with_reducible apply State.afterCommit_kept
    | with_reducible apply State.mapRegion_kept
    | with_reducible apply State.consumeMirage_kept
    | with_reducible apply State.setJob_kept
    | exact Part.sub hA (by decide)
    | intro _
    | with_reducible refine Kept.ite ?_ ?_
    | split

theorem execStepCommit_kept {s t : State} (job : Fin 4096) (e : execStepCommit job s = .next t) : Kept [.clusters, .tielux, .mem, .jobs, .objects, .transport, .streams, .events, .headers, .free] s t := by
  have h := Kept.refl (A := [.clusters, .tielux, .mem, .jobs, .objects, .transport, .streams, .events, .headers, .free]) s
  have hA := List.Subset.refl ([.clusters, .tielux, .mem, .jobs, .objects, .transport, .streams, .events, .headers, .free] : List Part)
  unfold execStepCommit at e
  all_goals first | contradiction | (cases e) | skip
  repeat' first
    | with_reducible assumption
    | with_reducible apply State.stepCommit_kept

end Sys2Proof.Machine
end

