-- ==== Sys2Proof/Laws/Sequencer.lean ====
section
/-! SUPPORT. What the operations of Machine/Sequencer.lean keep (Laws/Kept.lean). -/

set_option Elab.async false

namespace Sys2Proof.Machine

open Sys2Proof Sys2Proof.Safety

-- The proofs before this one are checked before the next ones start.
theorem State.closeLedger_kept {A : List Part} {s₀ s : State} (slot : Nat) (h : Kept A s₀ s) (hA : [.clusters, .jobs] ⊆ A := by exact Part.sub (by assumption) (by decide)) : Kept A s₀ (State.closeLedger s slot) := by
  unfold State.closeLedger
  try dsimp only
  repeat' first
    | with_reducible assumption
    | with_reducible apply State.modCluster_kept
    | with_reducible apply State.setJob_kept
    | exact Part.sub hA (by decide)
    | intro _
    | with_reducible refine Kept.ite ?_ ?_
    | split
    | fail_if_no_progress refine Kept.record ?_ rfl rfl rfl rfl rfl rfl ⟨fun p hp => by cases p <;> first | exact rfl | exact ⟨rfl, rfl⟩ | exact ⟨rfl, trivial⟩ | exact ⟨trivial, rfl⟩ | exact absurd (hA (by decide)) hp⟩

theorem State.stepMark_kept {A : List Part} {s₀ s : State} (slot : Nat) (h : Kept A s₀ s) (hA : [.clusters, .jobs, .transport, .streams, .events, .headers] ⊆ A := by exact Part.sub (by assumption) (by decide)) : Kept A s₀ (State.stepMark s slot) := by
  unfold State.stepMark
  try dsimp only
  repeat' first
    | with_reducible assumption
    | with_reducible apply State.switchCopies_kept
    | with_reducible apply State.demote_kept
    | with_reducible apply State.mapRegion_kept
    | with_reducible apply State.modJob_kept
    | with_reducible apply State.closeLedger_kept
    | exact Part.sub hA (by decide)
    | intro _
    | with_reducible refine Kept.ite ?_ ?_
    | split
    | fail_if_no_progress refine Kept.record ?_ rfl rfl rfl rfl rfl rfl ⟨fun p hp => by cases p <;> first | exact rfl | exact ⟨rfl, rfl⟩ | exact ⟨rfl, trivial⟩ | exact ⟨trivial, rfl⟩ | exact absurd (hA (by decide)) hp⟩

theorem execStepMark_kept {s t : State} (job : Fin 4096) (e : execStepMark job s = .next t) : Kept [.clusters, .jobs, .transport, .streams, .events, .headers] s t := by
  have h := Kept.refl (A := [.clusters, .jobs, .transport, .streams, .events, .headers]) s
  have hA := List.Subset.refl ([.clusters, .jobs, .transport, .streams, .events, .headers] : List Part)
  unfold execStepMark at e
  all_goals first | contradiction | (cases e) | skip
  repeat' first
    | with_reducible assumption
    | with_reducible apply State.stepMark_kept

theorem State.phaseMark_kept {A : List Part} {s₀ s : State} (slot : Nat) (h : Kept A s₀ s) (hA : [.clusters, .jobs] ⊆ A := by exact Part.sub (by assumption) (by decide)) : Kept A s₀ (State.phaseMark s slot) := by
  unfold State.phaseMark
  repeat' first
    | with_reducible assumption
    | with_reducible apply State.setJob_kept
    | with_reducible apply State.mapRegion_kept
    | exact Part.sub hA (by decide)
    | with_reducible refine Kept.ite ?_ ?_
    | split

theorem execPhaseMark_kept {s t : State} (job : Fin 4096) (e : execPhaseMark job s = .next t) : Kept [.clusters, .jobs] s t := by
  have h := Kept.refl (A := [.clusters, .jobs]) s
  have hA := List.Subset.refl ([.clusters, .jobs] : List Part)
  unfold execPhaseMark at e
  all_goals first | contradiction | (cases e) | skip
  repeat' first
    | with_reducible assumption
    | with_reducible apply State.phaseMark_kept

theorem State.passEpoch_kept {A : List Part} {s₀ s : State} (slot : Nat) (j : Job) (g : GroupState) (h : Kept A s₀ s) (hA : [.tielux, .jobs] ⊆ A := by exact Part.sub (by assumption) (by decide)) : Kept A s₀ (State.passEpoch s slot j g) := by
  unfold State.passEpoch
  dsimp only
  repeat' first
    | with_reducible assumption
    | with_reducible apply State.modStack_kept
    | with_reducible apply State.setJob_kept
    | exact Part.sub hA (by decide)
    | with_reducible refine Kept.foldl ?_ _ ?_
    | intro _
    | split

theorem State.passBarrier_kept {A : List Part} {s₀ s : State} (slot : Nat) (j : Job) (kind : BarrierKind) (h : Kept A s₀ s) (hA : [.tielux, .jobs] ⊆ A := by exact Part.sub (by assumption) (by decide)) : Kept A s₀ (State.passBarrier s slot j kind) := by
  unfold State.passBarrier
  repeat' first
    | with_reducible assumption
    | with_reducible apply State.passEpoch_kept
    | with_reducible apply State.setJob_kept
    | exact Part.sub hA (by decide)
    | split

theorem State.barrierWord_kept {A : List Part} {s₀ s : State} (slot : Nat) (kind : BarrierKind) (h : Kept A s₀ s) (hA : [.clusters, .tielux, .jobs, .objects, .transport, .streams, .events, .headers, .free] ⊆ A := by exact Part.sub (by assumption) (by decide)) : Kept A s₀ (State.barrierWord s slot kind) := by
  unfold State.barrierWord
  repeat' first
    | with_reducible assumption
    | with_reducible apply State.passBarrier_kept
    | with_reducible apply State.endJob_kept
    | with_reducible apply State.modJob_kept
    | with_reducible apply State.demote_kept
    | exact Part.sub hA (by decide)
    | with_reducible refine Kept.ite ?_ ?_
    | split

theorem execBarrierWord_kept {s t : State} (job : Fin 4096) (kind : BarrierKind) (e : execBarrierWord job kind s = .next t) : Kept [.clusters, .tielux, .jobs, .objects, .transport, .streams, .events, .headers, .free] s t := by
  have h := Kept.refl (A := [.clusters, .tielux, .jobs, .objects, .transport, .streams, .events, .headers, .free]) s
  have hA := List.Subset.refl ([.clusters, .tielux, .jobs, .objects, .transport, .streams, .events, .headers, .free] : List Part)
  unfold execBarrierWord at e
  all_goals first | contradiction | (cases e) | skip
  repeat' first
    | with_reducible assumption
    | with_reducible apply State.barrierWord_kept

theorem State.countHeld_kept {A : List Part} {s₀ s : State} (slot : Nat) (cycles : Nat) (cadence : Bool) (h : Kept A s₀ s) (hA : [.dies, .jobs] ⊆ A := by exact Part.sub (by assumption) (by decide)) : Kept A s₀ (State.countHeld s slot cycles cadence) := by
  unfold State.countHeld
  dsimp only
  repeat' first
    | with_reducible assumption
    | with_reducible apply State.setJob_kept
    | with_reducible apply State.modDie_kept
    | exact Part.sub hA (by decide)
    | with_reducible refine Kept.foldl ?_ _ ?_
    | intro _
    | split

theorem State.barrierRelease_kept {A : List Part} {s₀ s : State} (slot : Nat) (h : Kept A s₀ s) (hA : [.clusters, .dies, .tielux, .jobs, .objects, .transport, .streams, .free] ⊆ A := by exact Part.sub (by assumption) (by decide)) : Kept A s₀ (State.barrierRelease s slot) := by
  unfold State.barrierRelease
  repeat' first
    | with_reducible assumption
    | with_reducible apply State.countHeld_kept
    | with_reducible apply State.passBarrier_kept
    | with_reducible apply State.endJob_kept
    | exact Part.sub hA (by decide)
    | with_reducible refine Kept.ite ?_ ?_
    | fail_if_no_progress refine Kept.record ?_ rfl rfl rfl rfl rfl rfl ⟨fun p hp => by cases p <;> first | exact rfl | exact ⟨rfl, rfl⟩ | exact ⟨rfl, trivial⟩ | exact ⟨trivial, rfl⟩ | exact absurd (hA (by decide)) hp⟩
    | split

theorem execBarrierRelease_kept {s t : State} (job : Fin 4096) (e : execBarrierRelease job s = .next t) : Kept [.clusters, .dies, .tielux, .jobs, .objects, .transport, .streams, .free] s t := by
  have h := Kept.refl (A := [.clusters, .dies, .tielux, .jobs, .objects, .transport, .streams, .free]) s
  have hA := List.Subset.refl ([.clusters, .dies, .tielux, .jobs, .objects, .transport, .streams, .free] : List Part)
  unfold execBarrierRelease at e
  all_goals first | contradiction | (cases e) | skip
  repeat' first
    | with_reducible assumption
    | with_reducible apply State.barrierRelease_kept

theorem State.endWord_kept {A : List Part} {s₀ s : State} (slot : Nat) (h : Kept A s₀ s) (hA : [.clusters, .tielux, .mem, .jobs, .objects, .transport, .streams, .events, .headers, .free] ⊆ A := by exact Part.sub (by assumption) (by decide)) : Kept A s₀ (State.endWord s slot) := by
  unfold State.endWord
  dsimp only
  repeat' first
    | with_reducible assumption
    | with_reducible apply State.setJob_kept
    | with_reducible apply State.finish_kept
    | exact Part.sub hA (by decide)
    | with_reducible refine Kept.ite ?_ ?_
    | split

theorem execEndWord_kept {s t : State} (job : Fin 4096) (e : execEndWord job s = .next t) : Kept [.clusters, .tielux, .mem, .jobs, .objects, .transport, .streams, .events, .headers, .free] s t := by
  have h := Kept.refl (A := [.clusters, .tielux, .mem, .jobs, .objects, .transport, .streams, .events, .headers, .free]) s
  have hA := List.Subset.refl ([.clusters, .tielux, .mem, .jobs, .objects, .transport, .streams, .events, .headers, .free] : List Part)
  unfold execEndWord at e
  all_goals first | contradiction | (cases e) | skip
  repeat' first
    | with_reducible assumption
    | with_reducible apply State.endWord_kept

theorem State.loopOpen_kept {A : List Part} {s₀ s : State} (slot : Nat) (last : Nat) (count : LoopCount) (h : Kept A s₀ s) (hA : [.jobs] ⊆ A := by exact Part.sub (by assumption) (by decide)) : Kept A s₀ (State.loopOpen s slot last count) := by
  unfold State.loopOpen
  repeat' first
    | with_reducible assumption
    | with_reducible apply State.modJob_kept

theorem execLoopOpen_kept {s t : State} (job : Fin 4096) (last : Fin 4096) (count : LoopCount) (e : execLoopOpen job last count s = .next t) : Kept [.jobs] s t := by
  have h := Kept.refl (A := [.jobs]) s
  have hA := List.Subset.refl ([.jobs] : List Part)
  unfold execLoopOpen at e
  all_goals first | contradiction | (cases e) | skip
  repeat' first
    | with_reducible assumption
    | with_reducible apply State.loopOpen_kept

theorem State.loopEndTest_kept {A : List Part} {s₀ s : State} (slot : Nat) (h : Kept A s₀ s) (hA : [.clusters, .jobs] ⊆ A := by exact Part.sub (by assumption) (by decide)) : Kept A s₀ (State.loopEndTest s slot) := by
  unfold State.loopEndTest
  try dsimp only
  repeat' first
    | with_reducible assumption
    | with_reducible apply State.setJob_kept
    | with_reducible apply State.closeLedger_kept
    | exact Part.sub hA (by decide)
    | with_reducible refine Kept.ite ?_ ?_
    | split

theorem execLoopEndTest_kept {s t : State} (job : Fin 4096) (e : execLoopEndTest job s = .next t) : Kept [.clusters, .jobs] s t := by
  have h := Kept.refl (A := [.clusters, .jobs]) s
  have hA := List.Subset.refl ([.clusters, .jobs] : List Part)
  unfold execLoopEndTest at e
  all_goals first | contradiction | (cases e) | skip
  repeat' first
    | with_reducible assumption
    | exact Part.sub hA (by decide)
    | with_reducible apply State.loopEndTest_kept

theorem State.holdRequest_kept {A : List Part} {s₀ s : State} (slot : Nat) (len : Nat) (after : Nat) (cause : Nat) (h : Kept A s₀ s) (hA : [.jobs, .transport, .streams, .events, .headers] ⊆ A := by exact Part.sub (by assumption) (by decide)) : Kept A s₀ (State.holdRequest s slot len after cause) := by
  unfold State.holdRequest
  repeat' first
    | with_reducible assumption
    | with_reducible apply State.modJob_kept
    | with_reducible apply State.demote_kept
    | exact Part.sub hA (by decide)
    | with_reducible refine Kept.ite ?_ ?_
    | split

theorem execHoldRequest_kept {s t : State} (job : Fin 4096) (len : Fin 65) (after : Nat) (cause : HoldCause) (e : execHoldRequest job len after cause s = .next t) : Kept [.jobs, .transport, .streams, .events, .headers] s t := by
  have h := Kept.refl (A := [.jobs, .transport, .streams, .events, .headers]) s
  have hA := List.Subset.refl ([.jobs, .transport, .streams, .events, .headers] : List Part)
  unfold execHoldRequest at e
  all_goals first | contradiction | (cases e) | skip
  repeat' first
    | with_reducible assumption
    | with_reducible apply State.holdRequest_kept

theorem State.holdEnd_kept {A : List Part} {s₀ s : State} (slot : Nat) (h : Kept A s₀ s) (hA : [.dies, .jobs] ⊆ A := by exact Part.sub (by assumption) (by decide)) : Kept A s₀ (State.holdEnd s slot) := by
  unfold State.holdEnd
  dsimp only
  repeat' first
    | with_reducible assumption
    | with_reducible apply State.countHeld_kept
    | with_reducible apply State.setJob_kept
    | exact Part.sub hA (by decide)
    | split

theorem execHoldEnd_kept {s t : State} (job : Fin 4096) (e : execHoldEnd job s = .next t) : Kept [.dies, .jobs] s t := by
  have h := Kept.refl (A := [.dies, .jobs]) s
  have hA := List.Subset.refl ([.dies, .jobs] : List Part)
  unfold execHoldEnd at e
  all_goals first | contradiction | (cases e) | skip
  repeat' first
    | with_reducible assumption
    | with_reducible apply State.holdEnd_kept

end Sys2Proof.Machine
end

