-- ==== Sys2Proof/Laws/Atomics.lean ====
section
/-! SUPPORT. What the operations of Machine/Atomics.lean keep (Laws/Kept.lean). -/

set_option Elab.async false

namespace Sys2Proof.Machine

open Sys2Proof Sys2Proof.Safety

-- The proofs before this one are checked before the next ones start.
theorem State.applyOp_kept {A : List Part} {s₀ s : State} (slot : Nat) (j : Job) (o : Outward) (h : Kept A s₀ s) (hA : [.jobs] ⊆ A := by exact Part.sub (by assumption) (by decide)) : Kept A s₀ (State.applyOp s slot j o) := by
  unfold State.applyOp
  dsimp only
  repeat' first
    | with_reducible assumption
    | with_reducible apply State.setJob_kept
    | split

theorem State.takeOp_kept {A : List Part} {s₀ s : State} (xt : Nat) (o : Outward) (h : Kept A s₀ s) (hA : [.tielux, .jobs] ⊆ A := by exact Part.sub (by assumption) (by decide)) : Kept A s₀ (State.takeOp s xt o) := by
  unfold State.takeOp
  dsimp only
  repeat' first
    | with_reducible assumption
    | with_reducible apply State.modStack_kept
    | with_reducible apply State.applyOp_kept
    | exact Part.sub hA (by decide)
    | split

theorem State.atomicOp_kept {A : List Part} {s₀ s : State} (xt : Nat) (h : Kept A s₀ s) (hA : [.tielux, .jobs] ⊆ A := by exact Part.sub (by assumption) (by decide)) : Kept A s₀ (State.atomicOp s xt) := by
  unfold State.atomicOp
  repeat' first
    | with_reducible assumption
    | with_reducible apply State.modStack_kept
    | with_reducible apply State.takeOp_kept
    | exact Part.sub hA (by decide)
    | with_reducible refine Kept.ite ?_ ?_
    | split

theorem execAtomicOperation_kept {s t : State} (stack : Fin 36) (e : execAtomicOperation stack s = .next t) : Kept [.tielux, .jobs] s t := by
  have h := Kept.refl (A := [.tielux, .jobs]) s
  have hA := List.Subset.refl ([.tielux, .jobs] : List Part)
  unfold execAtomicOperation at e
  all_goals first | contradiction | (cases e) | skip
  repeat' first
    | with_reducible assumption
    | with_reducible apply State.atomicOp_kept

theorem State.combineFault_kept {A : List Part} {s₀ s : State} (xt : Nat) (o : Outward) (h : Kept A s₀ s) (hA : [.clusters, .dies, .tielux, .jobs, .objects, .transport, .streams, .events, .health, .headers, .integrity, .free] ⊆ A := by exact Part.sub (by assumption) (by decide)) : Kept A s₀ (State.combineFault s xt o) := by
  unfold State.combineFault
  dsimp only
  repeat' first
    | with_reducible assumption
    | with_reducible apply State.log_kept
    | with_reducible apply State.endJob_kept
    | with_reducible apply State.chargeBaseDie_kept
    | exact Part.sub hA (by decide)
    | split

theorem State.enterPart_kept {A : List Part} {s₀ s : State} (xt : Nat) (o : Outward) (r : Round) (j : Nat) (h : Kept A s₀ s) (hA : [.tielux, .jobs] ⊆ A := by exact Part.sub (by assumption) (by decide)) : Kept A s₀ (State.enterPart s xt o r j) := by
  unfold State.enterPart
  dsimp only
  repeat' first
    | with_reducible assumption
    | with_reducible apply State.modStack_kept
    | with_reducible apply State.takeOp_kept
    | exact Part.sub hA (by decide)
    | with_reducible refine Kept.foldl ?_ _ ?_
    | intro _

theorem State.partArrives_kept {A : List Part} {s₀ s : State} (xt : Nat) (o : Outward) (put : State → State) (hput : ∀ a0, Kept A s₀ a0 → Kept A s₀ (put a0)) (h : Kept A s₀ s) (hA : [.clusters, .dies, .tielux, .jobs, .objects, .transport, .streams, .events, .health, .headers, .integrity, .free] ⊆ A := by exact Part.sub (by assumption) (by decide)) : Kept A s₀ (State.partArrives s xt o put) := by
  unfold State.partArrives
  dsimp only
  repeat' first
    | with_reducible assumption
    | with_reducible apply hput
    | with_reducible apply State.combineFault_kept
    | with_reducible apply State.enterPart_kept
    | exact Part.sub hA (by decide)
    | with_reducible refine Kept.ite ?_ ?_
    | split

theorem State.orderedPart_kept {A : List Part} {s₀ s : State} (xt : Nat) (h : Kept A s₀ s) (hA : [.clusters, .dies, .tielux, .jobs, .objects, .transport, .streams, .events, .health, .headers, .integrity, .free] ⊆ A := by exact Part.sub (by assumption) (by decide)) : Kept A s₀ (State.orderedPart s xt) := by
  unfold State.orderedPart
  repeat' first
    | with_reducible assumption
    | with_reducible apply State.partArrives_kept
    | with_reducible apply State.modStack_kept
    | exact Part.sub hA (by decide)
    | intro _
    | with_reducible refine Kept.ite ?_ ?_
    | split

theorem execOrderedPart_kept {s t : State} (stack : Fin 36) (e : execOrderedPart stack s = .next t) : Kept [.clusters, .dies, .tielux, .jobs, .objects, .transport, .streams, .events, .health, .headers, .integrity, .free] s t := by
  have h := Kept.refl (A := [.clusters, .dies, .tielux, .jobs, .objects, .transport, .streams, .events, .health, .headers, .integrity, .free]) s
  have hA := List.Subset.refl ([.clusters, .dies, .tielux, .jobs, .objects, .transport, .streams, .events, .health, .headers, .integrity, .free] : List Part)
  unfold execOrderedPart at e
  all_goals first | contradiction | (cases e) | skip
  repeat' first
    | with_reducible assumption
    | with_reducible apply State.orderedPart_kept

theorem State.heldEntry_kept {A : List Part} {s₀ s : State} (xt : Nat) (h : Kept A s₀ s) (hA : [.clusters, .dies, .tielux, .jobs, .objects, .transport, .streams, .events, .health, .headers, .integrity, .free] ⊆ A := by exact Part.sub (by assumption) (by decide)) : Kept A s₀ (State.heldEntry s xt) := by
  unfold State.heldEntry
  dsimp only
  repeat' first
    | with_reducible assumption
    | with_reducible apply State.modStack_kept
    | with_reducible apply State.partArrives_kept
    | with_reducible apply State.takeOp_kept
    | exact Part.sub hA (by decide)
    | intro _
    | with_reducible refine Kept.ite ?_ ?_
    | split

theorem execHeldPartEntry_kept {s t : State} (stack : Fin 36) (e : execHeldPartEntry stack s = .next t) : Kept [.clusters, .dies, .tielux, .jobs, .objects, .transport, .streams, .events, .health, .headers, .integrity, .free] s t := by
  have h := Kept.refl (A := [.clusters, .dies, .tielux, .jobs, .objects, .transport, .streams, .events, .health, .headers, .integrity, .free]) s
  have hA := List.Subset.refl ([.clusters, .dies, .tielux, .jobs, .objects, .transport, .streams, .events, .health, .headers, .integrity, .free] : List Part)
  unfold execHeldPartEntry at e
  all_goals first | contradiction | (cases e) | skip
  repeat' first
    | with_reducible assumption
    | with_reducible apply State.heldEntry_kept

end Sys2Proof.Machine
end

