-- ==== Sys2Proof/Laws/Memory.lean ====
section
/-! SUPPORT. What the operations of Machine/Memory.lean keep (Laws/Kept.lean). -/

set_option Elab.async false

namespace Sys2Proof.Machine

open Sys2Proof Sys2Proof.Safety

-- The proofs before this one are checked before the next ones start.
theorem State.loseDataDie_kept {A : List Part} {s₀ s : State} (xt : Nat) (g : Nat) (h : Kept A s₀ s) (hA : [.clusters, .tielux, .jobs, .objects, .transport, .streams, .events, .headers, .free] ⊆ A := by exact Part.sub (by assumption) (by decide)) : Kept A s₀ (State.loseDataDie s xt g) := by
  unfold State.loseDataDie
  dsimp only
  repeat' first
    | with_reducible assumption
    | with_reducible apply State.log_kept
    | with_reducible apply State.modStack_kept
    | with_reducible apply State.failStack_kept
    | exact Part.sub hA (by decide)
    | with_reducible refine Kept.ite ?_ ?_

theorem State.spareRow_kept {A : List Part} {s₀ s : State} (xt : Nat) (row : Nat) (h : Kept A s₀ s) (hA : [.clusters, .tielux, .jobs, .objects, .transport, .streams, .events, .headers, .free] ⊆ A := by exact Part.sub (by assumption) (by decide)) : Kept A s₀ (State.spareRow s xt row) := by
  unfold State.spareRow
  dsimp only
  repeat' first
    | with_reducible assumption
    | with_reducible apply State.modStack_kept
    | with_reducible apply State.log_kept
    | with_reducible apply State.loseDataDie_kept
    | exact Part.sub hA (by decide)
    | with_reducible refine Kept.ite ?_ ?_

theorem State.decodeCount_kept {A : List Part} {s₀ s : State} (n : Nat) (h : Kept A s₀ s) (hA : [.free] ⊆ A := by exact Part.sub (by assumption) (by decide)) : Kept A s₀ (State.decodeCount s n).2 := by
  unfold State.decodeCount
  repeat' first
    | with_reducible assumption
    | fail_if_no_progress refine Kept.record ?_ rfl rfl rfl rfl rfl rfl ⟨fun p hp => by cases p <;> first | exact rfl | exact ⟨rfl, rfl⟩ | exact ⟨rfl, trivial⟩ | exact ⟨trivial, rfl⟩ | exact absurd (hA (by decide)) hp⟩
    | split

theorem State.decodeCount_kept_eq {A : List Part} {s₀ s t : State} {n : Nat} {v : Decoded} (h : Kept A s₀ s) (e : State.decodeCount s n = (v, t)) (hA : [.free] ⊆ A := by exact Part.sub (by assumption) (by decide)) : Kept A s₀ t := by
  have k := State.decodeCount_kept (n := n) h
  rw [e] at k
  exact k

theorem State.putSector_kept {A : List Part} {s₀ s : State} (t f sector v : Nat) (h : Kept A s₀ s) (hA : [.mem] ⊆ A := by exact Part.sub (by assumption) (by decide)) : Kept A s₀ (State.putSector s t f sector v) :=
  h.updMem _ rfl (fun x => writeBytes_wf _ _ x) rfl rfl rfl ⟨fun p hp => by cases p <;> first | exact rfl | exact ⟨rfl, rfl⟩ | exact ⟨rfl, trivial⟩ | exact ⟨trivial, rfl⟩ | exact absurd (hA (by decide)) hp⟩

theorem State.setTag_kept {A : List Part} {s₀ s : State} (xt : Nat) (f : Nat) (sector : Nat) (g : SectorTag) (h : Kept A s₀ s) (hA : [.tielux] ⊆ A := by exact Part.sub (by assumption) (by decide)) : Kept A s₀ (State.setTag s xt f sector g) := by
  unfold State.setTag
  repeat' first
    | with_reducible assumption
    | with_reducible apply State.modStack_kept

theorem State.miscorrect_kept {A : List Part} {s₀ s : State} (xt : Nat) (f : Nat) (sector : Nat) (h : Kept A s₀ s) (hA : [.tielux, .mem, .free] ⊆ A := by exact Part.sub (by assumption) (by decide)) : Kept A s₀ (State.miscorrect s xt f sector) := by
  unfold State.miscorrect
  dsimp only
  repeat' first
    | with_reducible assumption
    | with_reducible apply State.setTag_kept
    | with_reducible apply State.putSector_kept
    | exact Part.sub hA (by decide)
    | fail_if_no_progress refine Kept.record ?_ rfl rfl rfl rfl rfl rfl ⟨fun p hp => by cases p <;> first | exact rfl | exact ⟨rfl, rfl⟩ | exact ⟨rfl, trivial⟩ | exact ⟨trivial, rfl⟩ | exact absurd (hA (by decide)) hp⟩

theorem State.noteCorrected_kept {A : List Part} {s₀ s : State} (xt : Nat) (f : Nat) (sector : Nat) (h : Kept A s₀ s) (hA : [.tielux] ⊆ A := by exact Part.sub (by assumption) (by decide)) : Kept A s₀ (State.noteCorrected s xt f sector) := by
  unfold State.noteCorrected
  dsimp only
  repeat' first
    | with_reducible assumption
    | with_reducible apply State.modStack_kept

theorem State.reconstruct_kept {A : List Part} {s₀ s : State} (t f sector : Nat) (h : Kept A s₀ s) (hA : [.tielux, .mem] ⊆ A := by exact Part.sub (by assumption) (by decide)) : Kept A s₀ (State.reconstruct s t f sector) := by
  unfold State.reconstruct
  try dsimp only
  repeat' first
    | with_reducible assumption
    | with_reducible apply State.putSector_kept
    | with_reducible apply State.setTag_kept
    | with_reducible apply State.modStack_kept
    | exact Part.sub hA (by decide)
    | intro _
    | fail_if_no_progress refine Kept.record ?_ rfl rfl rfl rfl rfl rfl ⟨fun p hp => by cases p <;> first | exact rfl | exact ⟨rfl, rfl⟩ | exact ⟨rfl, trivial⟩ | exact ⟨trivial, rfl⟩ | exact absurd (hA (by decide)) hp⟩

theorem State.damageFrame_kept {A : List Part} {s₀ s : State} (xt : Nat) (f : Nat) (h : Kept A s₀ s) (hA : [.objects] ⊆ A := by exact Part.sub (by assumption) (by decide)) : Kept A s₀ (State.damageFrame s xt f) := by
  unfold State.damageFrame
  dsimp only
  repeat' first
    | with_reducible assumption
    | with_reducible apply State.onObjects_kept
    | exact id

theorem State.markMirage_kept {A : List Part} {s₀ s : State} (t f sector : Nat) (wrong : List (Nat × Nat)) (h : Kept A s₀ s) (hA : [.tielux, .mem, .objects, .transport, .events, .headers] ⊆ A := by exact Part.sub (by assumption) (by decide)) : Kept A s₀ (State.markMirage s t f sector wrong) := by
  unfold State.markMirage
  try dsimp only
  repeat' first
    | with_reducible assumption
    | with_reducible apply State.putSector_kept
    | with_reducible apply State.setTag_kept
    | with_reducible apply State.damageFrame_kept
    | with_reducible apply State.modStack_kept
    | with_reducible apply State.log_kept
    | exact Part.sub hA (by decide)
    | intro _
    | with_reducible refine Kept.ite ?_ ?_
    | split
    | fail_if_no_progress refine Kept.record ?_ rfl rfl rfl rfl rfl rfl ⟨fun p hp => by cases p <;> first | exact rfl | exact ⟨rfl, rfl⟩ | exact ⟨rfl, trivial⟩ | exact ⟨trivial, rfl⟩ | exact absurd (hA (by decide)) hp⟩

theorem State.reread_kept {A : List Part} {s₀ s : State} (xt : Nat) (f : Nat) (sector : Nat) (again : List (Nat × Nat)) (h : Kept A s₀ s) (hA : [.tielux, .mem, .objects, .transport, .events, .headers, .free] ⊆ A := by exact Part.sub (by assumption) (by decide)) : Kept A s₀ (State.reread s xt f sector again) := by
  unfold State.reread
  dsimp only
  repeat' first
    | with_reducible assumption
    | with_reducible apply State.modStack_kept
    | with_reducible apply State.decodeCount_kept
    | with_reducible apply State.noteCorrected_kept
    | with_reducible apply State.miscorrect_kept
    | with_reducible apply State.reconstruct_kept
    | with_reducible apply State.markMirage_kept
    | exact Part.sub hA (by decide)
    | with_reducible refine Kept.ite ?_ ?_
    | split

theorem State.treatSector_kept {A : List Part} {s₀ s : State} (xt : Nat) (f : Nat) (sector : Nat) (raw : SectorRaw) (job : Option (Fin 4096)) (h : Kept A s₀ s) (hA : [.tielux, .mem, .jobs, .objects, .transport, .streams, .events, .headers, .free] ⊆ A := by exact Part.sub (by assumption) (by decide)) : Kept A s₀ (State.treatSector s xt f sector raw job) := by
  unfold State.treatSector
  dsimp only
  repeat' first
    | with_reducible assumption
    | with_reducible apply State.decodeCount_kept
    | with_reducible apply State.noteCorrected_kept
    | with_reducible apply State.miscorrect_kept
    | with_reducible apply State.latencyHold_kept
    | with_reducible apply State.reread_kept
    | exact Part.sub hA (by decide)
    | with_reducible refine Kept.ite ?_ ?_
    | split

theorem State.sectorRead_kept {A : List Part} {s₀ s : State} (r : SectorRef) (raw : SectorRaw) (job : Option (Fin 4096)) (h : Kept A s₀ s) (hA : [.clusters, .tielux, .mem, .jobs, .objects, .transport, .streams, .events, .headers, .free] ⊆ A := by exact Part.sub (by assumption) (by decide)) : Kept A s₀ (State.sectorRead s r raw job) := by
  unfold State.sectorRead
  dsimp only
  repeat' first
    | with_reducible assumption
    | with_reducible apply State.latencyHold_kept
    | with_reducible apply State.modStack_kept
    | with_reducible apply State.loseDataDie_kept
    | with_reducible apply State.treatSector_kept
    | exact Part.sub hA (by decide)
    | with_reducible refine Kept.ite ?_ ?_

theorem execSectorRead_kept {s t : State} (r : SectorRef) (raw : SectorRaw) (job : Option (Fin 4096)) (e : execSectorRead r raw job s = .next t) : Kept [.clusters, .tielux, .mem, .jobs, .objects, .transport, .streams, .events, .headers, .free] s t := by
  have h := Kept.refl (A := [.clusters, .tielux, .mem, .jobs, .objects, .transport, .streams, .events, .headers, .free]) s
  have hA := List.Subset.refl ([.clusters, .tielux, .mem, .jobs, .objects, .transport, .streams, .events, .headers, .free] : List Part)
  unfold execSectorRead at e
  repeat' split at e
  all_goals first | contradiction | (cases e) | skip
  repeat' first
    | with_reducible assumption
    | with_reducible apply State.sectorRead_kept

theorem execCorrectedWriteback_kept {s t : State} (r : SectorRef) (e : execCorrectedWriteback r s = .next t) : Kept [.tielux] s t := by
  have h := Kept.refl (A := [.tielux]) s
  have hA := List.Subset.refl ([.tielux] : List Part)
  unfold execCorrectedWriteback at e
  repeat' split at e
  all_goals first | contradiction | (cases e) | skip
  repeat' first
    | with_reducible assumption
    | with_reducible apply State.modStack_kept

theorem State.refreshWindow_kept {A : List Part} {s₀ s : State} (xt : Nat) (b : Nat) (h : Kept A s₀ s) (hA : [.clusters, .tielux, .jobs, .objects, .transport, .streams, .events, .headers, .free] ⊆ A := by exact Part.sub (by assumption) (by decide)) : Kept A s₀ (State.refreshWindow s xt b) := by
  unfold State.refreshWindow
  dsimp only
  repeat' first
    | with_reducible assumption
    | with_reducible apply State.spareRow_kept
    | with_reducible apply State.modStack_kept
    | exact Part.sub hA (by decide)
    | with_reducible refine Kept.foldl ?_ _ ?_
    | intro _
    | with_reducible refine Kept.ite ?_ ?_

theorem execRefreshWindow_kept {s t : State} (stack : Fin 36) (bank : Fin 4) (e : execRefreshWindow stack bank s = .next t) : Kept [.clusters, .tielux, .jobs, .objects, .transport, .streams, .events, .headers, .free] s t := by
  have h := Kept.refl (A := [.clusters, .tielux, .jobs, .objects, .transport, .streams, .events, .headers, .free]) s
  have hA := List.Subset.refl ([.clusters, .tielux, .jobs, .objects, .transport, .streams, .events, .headers, .free] : List Part)
  unfold execRefreshWindow at e
  repeat' split at e
  all_goals first | contradiction | (cases e) | skip
  repeat' first
    | with_reducible assumption
    | with_reducible apply State.refreshWindow_kept

theorem State.fixedRefresh_kept {A : List Part} {s₀ s : State} (slot : Nat) (b : Nat) (h : Kept A s₀ s) (hA : [.clusters, .tielux, .jobs, .objects, .transport, .streams, .events, .headers, .free] ⊆ A := by exact Part.sub (by assumption) (by decide)) : Kept A s₀ (State.fixedRefresh s slot b) := by
  unfold State.fixedRefresh
  repeat' first
    | with_reducible assumption
    | with_reducible apply State.refreshWindow_kept
    | with_reducible refine Kept.foldl ?_ _ ?_
    | intro _
    | with_reducible refine Kept.ite ?_ ?_
    | split

theorem execFixedCadenceRefresh_kept {s t : State} (job : Fin 4096) (bank : Fin 4) (e : execFixedCadenceRefresh job bank s = .next t) : Kept [.clusters, .tielux, .jobs, .objects, .transport, .streams, .events, .headers, .free] s t := by
  have h := Kept.refl (A := [.clusters, .tielux, .jobs, .objects, .transport, .streams, .events, .headers, .free]) s
  have hA := List.Subset.refl ([.clusters, .tielux, .jobs, .objects, .transport, .streams, .events, .headers, .free] : List Part)
  unfold execFixedCadenceRefresh at e
  all_goals first | contradiction | (cases e) | skip
  repeat' first
    | with_reducible assumption
    | with_reducible apply State.fixedRefresh_kept

theorem State.dieSpareDone_kept {A : List Part} {s₀ s : State} (xt : Nat) (h : Kept A s₀ s) (hA : [.tielux, .transport, .events, .headers] ⊆ A := by exact Part.sub (by assumption) (by decide)) : Kept A s₀ (State.dieSpareDone s xt) := by
  unfold State.dieSpareDone
  dsimp only
  repeat' first
    | with_reducible assumption
    | with_reducible apply State.log_kept
    | with_reducible apply State.modStack_kept
    | exact Part.sub hA (by decide)
    | with_reducible refine Kept.ite ?_ ?_

theorem execDieSpareDone_kept {s t : State} (stack : Fin 36) (e : execDieSpareDone stack s = .next t) : Kept [.tielux, .transport, .events, .headers] s t := by
  have h := Kept.refl (A := [.tielux, .transport, .events, .headers]) s
  have hA := List.Subset.refl ([.tielux, .transport, .events, .headers] : List Part)
  unfold execDieSpareDone at e
  all_goals first | contradiction | (cases e) | skip
  repeat' first
    | with_reducible assumption
    | with_reducible apply State.dieSpareDone_kept

theorem execStackFailed_kept {s t : State} (stack : Fin 36) (e : execStackFailed stack s = .next t) : Kept [.clusters, .tielux, .jobs, .objects, .transport, .streams, .events, .headers, .free] s t := by
  have h := Kept.refl (A := [.clusters, .tielux, .jobs, .objects, .transport, .streams, .events, .headers, .free]) s
  have hA := List.Subset.refl ([.clusters, .tielux, .jobs, .objects, .transport, .streams, .events, .headers, .free] : List Part)
  unfold execStackFailed at e
  all_goals first | contradiction | (cases e) | skip
  repeat' first
    | with_reducible assumption
    | with_reducible apply State.failStack_kept

theorem State.retarget_kept {A : List Part} {s₀ s : State} (a : PageRef) (b : PageRef) (h : Kept A s₀ s) (hA : [.jobs, .objects] ⊆ A := by exact Part.sub (by assumption) (by decide)) : Kept A s₀ (State.retarget s a b) :=
  h.upd _ rfl rfl rfl rfl rfl rfl ⟨fun p hp => by cases p <;> first | exact rfl | exact ⟨rfl, rfl⟩ | exact ⟨rfl, trivial⟩ | exact ⟨trivial, rfl⟩ | exact absurd (hA (by decide)) hp⟩ (Kept.slots_map (f := fun _ j =>
      { j with contextPages := j.contextPages.map (swapPage a b), allocs := j.allocs.map fun x => { x with pages := x.pages.map (swapPage a b) } })
    rfl (Nat.le_refl _))

theorem State.stripeMove_kept {A : List Part} {s₀ s : State} (t f : Nat) (h : Kept A s₀ s) (hA : [.tielux, .mem, .jobs, .objects, .transport, .events, .headers] ⊆ A := by exact Part.sub (by assumption) (by decide)) : Kept A s₀ (State.stripeMove s t f) := by
  rw [State.stripeMove]
  refine Kept.ite ?_ h
  cases hk : s.takeFrom (s.frameEntry t f).use true (stacksFrom t) with
  | none => exact h
  | some r =>
    have h1 := State.takeFrom_kept (t := r.1) (v := r.2) h hk
    refine Kept.ite ?_ (State.log_kept _ ?_)
    · exact State.freeFrame_kept _ (State.retarget_kept _ _ (State.copyPage_kept _ _ h1))
    · exact State.freeFrame_kept _ (State.retarget_kept _ _ (State.copyPage_kept _ _ h1))

theorem execStripeMove_kept {s t : State} (stack : Fin 36) (frame : Nat) (e : execStripeMove stack frame s = .next t) : Kept [.tielux, .mem, .jobs, .objects, .transport, .events, .headers] s t := by
  have h := Kept.refl (A := [.tielux, .mem, .jobs, .objects, .transport, .events, .headers]) s
  have hA := List.Subset.refl ([.tielux, .mem, .jobs, .objects, .transport, .events, .headers] : List Part)
  unfold execStripeMove at e
  repeat' split at e
  all_goals first | contradiction | (cases e) | skip
  repeat' first
    | with_reducible assumption
    | with_reducible apply State.stripeMove_kept

theorem State.scrubRead_kept {A : List Part} {s₀ s : State} (xt : Nat) (raw : SectorRaw) (h : Kept A s₀ s) (hA : [.clusters, .tielux, .mem, .jobs, .objects, .transport, .streams, .events, .headers, .free] ⊆ A := by exact Part.sub (by assumption) (by decide)) : Kept A s₀ (State.scrubRead s xt raw) := by
  unfold State.scrubRead
  dsimp only
  repeat' first
    | with_reducible assumption
    | with_reducible apply State.modStack_kept
    | with_reducible apply State.loseDataDie_kept
    | with_reducible apply State.treatSector_kept
    | exact Part.sub hA (by decide)
    | with_reducible refine Kept.ite ?_ ?_
    | split

theorem execScrubRead_kept {s t : State} (stack : Fin 36) (raw : SectorRaw) (e : execScrubRead stack raw s = .next t) : Kept [.clusters, .tielux, .mem, .jobs, .objects, .transport, .streams, .events, .headers, .free] s t := by
  have h := Kept.refl (A := [.clusters, .tielux, .mem, .jobs, .objects, .transport, .streams, .events, .headers, .free]) s
  have hA := List.Subset.refl ([.clusters, .tielux, .mem, .jobs, .objects, .transport, .streams, .events, .headers, .free] : List Part)
  unfold execScrubRead at e
  all_goals first | contradiction | (cases e) | skip
  repeat' first
    | with_reducible assumption
    | with_reducible apply State.scrubRead_kept

theorem clearBytes_wf {m : List Host.Cell} (h : Memory.wf m = true) (t f : Nat) : Memory.wf (clearBytes m t f) = true := mwf_filter _ h

theorem State.frameCleared_kept {A : List Part} {s₀ s : State} (t f : Nat) (h : Kept A s₀ s) (hA : [.tielux, .mem] ⊆ A := by exact Part.sub (by assumption) (by decide)) : Kept A s₀ (State.frameCleared s t f) := by
  unfold State.frameCleared
  split
  · exact h
  · exact State.modStack_kept _ _ (h.updMem _ rfl (fun x => clearBytes_wf x _ _) rfl rfl rfl ⟨fun p hp => by cases p <;> first | exact rfl | exact ⟨rfl, rfl⟩ | exact ⟨rfl, trivial⟩ | exact ⟨trivial, rfl⟩ | exact absurd (hA (by decide)) hp⟩)

theorem execFrameCleared_kept {s t : State} (stack : Fin 36) (frame : Nat) (e : execFrameCleared stack frame s = .next t) : Kept [.tielux, .mem] s t := by
  have h := Kept.refl (A := [.tielux, .mem]) s
  have hA := List.Subset.refl ([.tielux, .mem] : List Part)
  unfold execFrameCleared at e
  repeat' split at e
  all_goals first | contradiction | (cases e) | skip
  repeat' first
    | with_reducible assumption
    | with_reducible apply State.frameCleared_kept

theorem State.stackHot_kept {A : List Part} {s₀ s : State} (t : Nat) (h : Kept A s₀ s) (hA : [.tielux, .transport, .events, .headers] ⊆ A := by exact Part.sub (by assumption) (by decide)) : Kept A s₀ (State.stackHot s t) := by
  unfold State.stackHot
  try dsimp only
  repeat' first
    | with_reducible assumption
    | with_reducible apply State.modStack_kept
    | with_reducible apply State.heatStack_kept
    | exact Part.sub hA (by decide)
    | intro _
    | with_reducible refine Kept.ite ?_ ?_
    | split
    | fail_if_no_progress refine Kept.record ?_ rfl rfl rfl rfl rfl rfl ⟨fun p hp => by cases p <;> first | exact rfl | exact ⟨rfl, rfl⟩ | exact ⟨rfl, trivial⟩ | exact ⟨trivial, rfl⟩ | exact absurd (hA (by decide)) hp⟩

theorem execStackHot_kept {s t : State} (stack : Fin 36) (e : execStackHot stack s = .next t) : Kept [.tielux, .transport, .events, .headers] s t := by
  have h := Kept.refl (A := [.tielux, .transport, .events, .headers]) s
  have hA := List.Subset.refl ([.tielux, .transport, .events, .headers] : List Part)
  unfold execStackHot at e
  all_goals first | contradiction | (cases e) | skip
  repeat' first
    | with_reducible assumption
    | with_reducible apply State.stackHot_kept

theorem State.stackCool_kept {A : List Part} {s₀ s : State} (xt : Nat) (h : Kept A s₀ s) (hA : [.tielux, .transport, .events, .headers] ⊆ A := by exact Part.sub (by assumption) (by decide)) : Kept A s₀ (State.stackCool s xt) := by
  unfold State.stackCool
  dsimp only
  repeat' first
    | with_reducible assumption
    | with_reducible apply State.log_kept
    | with_reducible apply State.modStack_kept
    | exact Part.sub hA (by decide)
    | with_reducible refine Kept.ite ?_ ?_

theorem execStackCool_kept {s t : State} (stack : Fin 36) (e : execStackCool stack s = .next t) : Kept [.tielux, .transport, .events, .headers] s t := by
  have h := Kept.refl (A := [.tielux, .transport, .events, .headers]) s
  have hA := List.Subset.refl ([.tielux, .transport, .events, .headers] : List Part)
  unfold execStackCool at e
  all_goals first | contradiction | (cases e) | skip
  repeat' first
    | with_reducible assumption
    | with_reducible apply State.stackCool_kept

theorem execStackSelfRefresh_kept {s t : State} (stack : Fin 36) (e : execStackSelfRefresh stack s = .next t) : Kept [.tielux] s t := by
  have h := Kept.refl (A := [.tielux]) s
  have hA := List.Subset.refl ([.tielux] : List Part)
  unfold execStackSelfRefresh at e
  all_goals first | contradiction | (cases e) | skip
  repeat' first
    | with_reducible assumption
    | with_reducible apply State.modStack_kept

theorem execStackWake_kept {s t : State} (stack : Fin 36) (e : execStackWake stack s = .next t) : Kept [.tielux] s t := by
  have h := Kept.refl (A := [.tielux]) s
  have hA := List.Subset.refl ([.tielux] : List Part)
  unfold execStackWake at e
  all_goals first | contradiction | (cases e) | skip
  repeat' first
    | with_reducible assumption
    | with_reducible apply State.modStack_kept

theorem State.closeWindow_kept {A : List Part} {s₀ s : State} (h : Kept A s₀ s) (hA : [.tielux] ⊆ A := by exact Part.sub (by assumption) (by decide)) : Kept A s₀ (State.closeWindow s) := by
  unfold State.closeWindow
  repeat' first
    | with_reducible assumption
    | with_reducible apply State.modStack_kept
    | with_reducible refine Kept.foldl ?_ _ ?_
    | intro _

theorem State.judgeWindow_kept {A : List Part} {s₀ s : State} (xt : Nat) (h : Kept A s₀ s) (hA : [.tielux, .transport, .events, .headers] ⊆ A := by exact Part.sub (by assumption) (by decide)) : Kept A s₀ (State.judgeWindow s xt) := by
  unfold State.judgeWindow
  dsimp only
  repeat' first
    | with_reducible assumption
    | with_reducible apply State.closeWindow_kept
    | with_reducible apply State.modStack_kept
    | with_reducible apply State.log_kept
    | exact Part.sub hA (by decide)
    | with_reducible refine Kept.ite ?_ ?_

theorem execStackImbalance_kept {s t : State} (stack : Fin 36) (e : execStackImbalance stack s = .next t) : Kept [.tielux, .transport, .events, .headers] s t := by
  have h := Kept.refl (A := [.tielux, .transport, .events, .headers]) s
  have hA := List.Subset.refl ([.tielux, .transport, .events, .headers] : List Part)
  unfold execStackImbalance at e
  all_goals first | contradiction | (cases e) | skip
  repeat' first
    | with_reducible assumption
    | with_reducible apply State.judgeWindow_kept

theorem execImbalanceRepeat_kept {s t : State} (stack : Fin 36) (e : execImbalanceRepeat stack s = .next t) : Kept [.transport, .events, .headers] s t := by
  have h := Kept.refl (A := [.transport, .events, .headers]) s
  have hA := List.Subset.refl ([.transport, .events, .headers] : List Part)
  unfold execImbalanceRepeat at e
  repeat' split at e
  all_goals first | contradiction | (cases e) | skip
  repeat' first
    | with_reducible assumption
    | with_reducible apply State.log_kept

end Sys2Proof.Machine
end

