-- ==== Sys2Proof/Laws/JobEngine.lean ====
section
/-! SUPPORT. What the operations of Machine/JobEngine.lean keep (Laws/Kept.lean). -/

set_option Elab.async false

namespace Sys2Proof.Machine

open Sys2Proof Sys2Proof.Safety

-- The proofs before this one are checked before the next ones start.
theorem execAdmitJob_kept {s t : State} (e : execAdmitJob s = .next t) : Kept [.clusters, .halves, .tielux, .mem, .jobs, .objects, .transport, .streams, .entropy, .free] s t := by
  have h := Kept.refl (A := [.clusters, .halves, .tielux, .mem, .jobs, .objects, .transport, .streams, .entropy, .free]) s
  have hA := List.Subset.refl ([.clusters, .halves, .tielux, .mem, .jobs, .objects, .transport, .streams, .entropy, .free] : List Part)
  unfold execAdmitJob at e
  all_goals first | contradiction | (cases e) | skip
  repeat' first
    | with_reducible assumption
    | exact Part.sub hA (by decide)
    | with_reducible apply State.admitJobs_kept

theorem execWaitLimit_kept {s t : State} (job : Fin 4096) (e : execWaitLimit job s = .next t) : Kept [.jobs] s t := by
  have h := Kept.refl (A := [.jobs]) s
  have hA := List.Subset.refl ([.jobs] : List Part)
  unfold execWaitLimit at e
  all_goals first | contradiction | (cases e) | skip
  repeat' first
    | with_reducible assumption
    | with_reducible apply State.modJob_kept

theorem State.sendReady_kept {A : List Part} {s₀ s : State} (slot : Nat) (h : Kept A s₀ s) (hA : [.transport] ⊆ A := by exact Part.sub (by assumption) (by decide)) : Kept A s₀ (State.sendReady s slot) := by
  unfold State.sendReady
  dsimp only
  repeat' first
    | with_reducible assumption
    | with_reducible apply State.toNeighbours_kept
    | with_reducible apply State.send_kept
    | split

theorem State.startJob_kept {A : List Part} {s₀ s : State} (slot : Nat) (h : Kept A s₀ s) (hA : [.jobs, .transport, .streams] ⊆ A := by exact Part.sub (by assumption) (by decide)) : Kept A s₀ (State.startJob s slot) := by
  unfold State.startJob
  dsimp only
  repeat' first
    | with_reducible assumption
    | with_reducible apply State.setJob_kept
    | with_reducible apply State.jobState_kept
    | exact Part.sub hA (by decide)
    | with_reducible refine Kept.ite ?_ ?_
    | split

theorem State.refreshRegion_kept {A : List Part} {s₀ s : State} (j : Job) (h : Kept A s₀ s) (hA : [.clusters, .tielux, .jobs, .objects, .transport, .streams, .events, .headers, .free] ⊆ A := by exact Part.sub (by assumption) (by decide)) : Kept A s₀ (State.refreshRegion s j) := by
  unfold State.refreshRegion
  repeat' first
    | with_reducible assumption
    | with_reducible apply State.refreshWindow_kept
    | with_reducible refine Kept.foldl ?_ _ ?_
    | intro _
    | with_reducible refine Kept.ite ?_ ?_

theorem State.refreshFor_kept {A : List Part} {s₀ s : State} (j : Job) (h : Kept A s₀ s) (hA : [.clusters, .tielux, .jobs, .objects, .transport, .streams, .events, .headers, .free] ⊆ A := by exact Part.sub (by assumption) (by decide)) : Kept A s₀ (State.refreshFor s j) := by
  unfold State.refreshFor
  repeat' first
    | with_reducible assumption
    | with_reducible apply State.refreshRegion_kept
    | exact Part.sub hA (by decide)
    | with_reducible refine Kept.ite ?_ ?_
    | split

theorem State.seedingDone_kept {A : List Part} {s₀ s : State} (slot : Nat) (h : Kept A s₀ s) (hA : [.clusters, .halves, .tielux, .mem, .jobs, .objects, .transport, .streams, .events, .headers, .free] ⊆ A := by exact Part.sub (by assumption) (by decide)) : Kept A s₀ (State.seedingDone s slot) := by
  unfold State.seedingDone
  try dsimp only
  repeat' first
    | with_reducible assumption
    | with_reducible apply State.fillRegion_kept
    | with_reducible apply State.sendReady_kept
    | with_reducible apply State.startJob_kept
    | with_reducible apply State.refreshFor_kept
    | exact Part.sub hA (by decide)
    | with_reducible refine Kept.ite ?_ ?_
    | split

theorem execSeedingDone_kept {s t : State} (job : Fin 4096) (e : execSeedingDone job s = .next t) : Kept [.clusters, .halves, .tielux, .mem, .jobs, .objects, .transport, .streams, .events, .headers, .free] s t := by
  have h := Kept.refl (A := [.clusters, .halves, .tielux, .mem, .jobs, .objects, .transport, .streams, .events, .headers, .free]) s
  have hA := List.Subset.refl ([.clusters, .halves, .tielux, .mem, .jobs, .objects, .transport, .streams, .events, .headers, .free] : List Part)
  unfold execSeedingDone at e
  all_goals first | contradiction | (cases e) | skip
  repeat' first
    | with_reducible assumption
    | exact Part.sub hA (by decide)
    | with_reducible apply State.seedingDone_kept

theorem State.restoreDone_kept {A : List Part} {s₀ s : State} (slot : Nat) (h : Kept A s₀ s) (hA : [.clusters, .halves, .tielux, .mem, .jobs, .objects, .transport, .streams, .events, .headers, .free] ⊆ A := by exact Part.sub (by assumption) (by decide)) : Kept A s₀ (State.restoreDone s slot) := by
  unfold State.restoreDone
  try dsimp only
  repeat' first
    | with_reducible assumption
    | with_reducible apply State.fillRegion_kept
    | with_reducible apply State.consumeMirage_kept
    | with_reducible apply State.sendReady_kept
    | with_reducible apply State.startJob_kept
    | with_reducible apply State.refreshRegion_kept
    | exact Part.sub hA (by decide)
    | with_reducible refine Kept.ite ?_ ?_
    | split

theorem execRestoreDone_kept {s t : State} (job : Fin 4096) (e : execRestoreDone job s = .next t) : Kept [.clusters, .halves, .tielux, .mem, .jobs, .objects, .transport, .streams, .events, .headers, .free] s t := by
  have h := Kept.refl (A := [.clusters, .halves, .tielux, .mem, .jobs, .objects, .transport, .streams, .events, .headers, .free]) s
  have hA := List.Subset.refl ([.clusters, .halves, .tielux, .mem, .jobs, .objects, .transport, .streams, .events, .headers, .free] : List Part)
  unfold execRestoreDone at e
  all_goals first | contradiction | (cases e) | skip
  repeat' first
    | with_reducible assumption
    | exact Part.sub hA (by decide)
    | with_reducible apply State.restoreDone_kept

theorem State.preemptionPoint_kept {A : List Part} {s₀ s : State} (slot : Nat) (h : Kept A s₀ s) (hA : [.jobs] ⊆ A := by exact Part.sub (by assumption) (by decide)) : Kept A s₀ (State.preemptionPoint s slot) := by
  unfold State.preemptionPoint
  repeat' first
    | with_reducible assumption
    | with_reducible apply State.setJob_kept
    | with_reducible refine Kept.ite ?_ ?_
    | split

theorem execPreemptionPoint_kept {s t : State} (job : Fin 4096) (e : execPreemptionPoint job s = .next t) : Kept [.jobs] s t := by
  have h := Kept.refl (A := [.jobs]) s
  have hA := List.Subset.refl ([.jobs] : List Part)
  unfold execPreemptionPoint at e
  all_goals first | contradiction | (cases e) | skip
  repeat' first
    | with_reducible assumption
    | with_reducible apply State.preemptionPoint_kept

theorem State.contextWritten_kept {A : List Part} {s₀ s : State} (slot : Nat) (h : Kept A s₀ s) (hA : [.clusters, .tielux, .mem, .jobs, .objects, .transport, .streams, .free] ⊆ A := by exact Part.sub (by assumption) (by decide)) : Kept A s₀ (State.contextWritten s slot) := by
  unfold State.contextWritten
  try dsimp only
  repeat' first
    | with_reducible assumption
    | with_reducible apply State.toNeighbours_kept
    | with_reducible apply State.jobState_kept
    | with_reducible apply State.clearRegion_kept
    | with_reducible apply State.endJob_kept
    | with_reducible apply State.setJob_kept
    | with_reducible apply State.raiseSettings_kept
    | with_reducible apply State.storePages_kept
    | exact Part.sub hA (by decide)
    | with_reducible refine Kept.ite ?_ ?_
    | split

theorem execContextWritten_kept {s t : State} (job : Fin 4096) (e : execContextWritten job s = .next t) : Kept [.clusters, .tielux, .mem, .jobs, .objects, .transport, .streams, .free] s t := by
  have h := Kept.refl (A := [.clusters, .tielux, .mem, .jobs, .objects, .transport, .streams, .free]) s
  have hA := List.Subset.refl ([.clusters, .tielux, .mem, .jobs, .objects, .transport, .streams, .free] : List Part)
  unfold execContextWritten at e
  all_goals first | contradiction | (cases e) | skip
  repeat' first
    | with_reducible assumption
    | exact Part.sub hA (by decide)
    | with_reducible apply State.contextWritten_kept

theorem State.cancelTimeout_kept {A : List Part} {s₀ s : State} (slot : Nat) (h : Kept A s₀ s) (hA : [.clusters, .tielux, .jobs, .objects, .transport, .streams, .free] ⊆ A := by exact Part.sub (by assumption) (by decide)) : Kept A s₀ (State.cancelTimeout s slot) := by
  unfold State.cancelTimeout
  repeat' first
    | with_reducible assumption
    | with_reducible apply State.endJob_kept
    | with_reducible refine Kept.ite ?_ ?_
    | split

theorem execCancelTimeout_kept {s t : State} (job : Fin 4096) (e : execCancelTimeout job s = .next t) : Kept [.clusters, .tielux, .jobs, .objects, .transport, .streams, .free] s t := by
  have h := Kept.refl (A := [.clusters, .tielux, .jobs, .objects, .transport, .streams, .free]) s
  have hA := List.Subset.refl ([.clusters, .tielux, .jobs, .objects, .transport, .streams, .free] : List Part)
  unfold execCancelTimeout at e
  all_goals first | contradiction | (cases e) | skip
  repeat' first
    | with_reducible assumption
    | with_reducible apply State.cancelTimeout_kept

theorem State.settingChange_kept {A : List Part} {s₀ s : State} (slot : Nat) (h : Kept A s₀ s) (hA : [.halves, .jobs] ⊆ A := by exact Part.sub (by assumption) (by decide)) : Kept A s₀ (State.settingChange s slot) := by
  unfold State.settingChange
  repeat' first
    | with_reducible assumption
    | with_reducible apply State.setJob_kept
    | with_reducible apply State.wakeHalves_kept
    | exact Part.sub hA (by decide)
    | with_reducible refine Kept.ite ?_ ?_
    | split

theorem execSettingChange_kept {s t : State} (job : Fin 4096) (e : execSettingChange job s = .next t) : Kept [.halves, .jobs] s t := by
  have h := Kept.refl (A := [.halves, .jobs]) s
  have hA := List.Subset.refl ([.halves, .jobs] : List Part)
  unfold execSettingChange at e
  all_goals first | contradiction | (cases e) | skip
  repeat' first
    | with_reducible assumption
    | with_reducible apply State.settingChange_kept

theorem State.endRelock_kept {A : List Part} {s₀ s : State} (slot : Nat) (h : Kept A s₀ s) (hA : [.dies, .jobs, .free] ⊆ A := by exact Part.sub (by assumption) (by decide)) : Kept A s₀ (State.endRelock s slot) := by
  unfold State.endRelock
  repeat' first
    | with_reducible assumption
    | with_reducible apply State.countHeld_kept
    | with_reducible apply State.setJob_kept
    | exact Part.sub hA (by decide)
    | with_reducible refine Kept.ite ?_ ?_
    | fail_if_no_progress refine Kept.record ?_ rfl rfl rfl rfl rfl rfl ⟨fun p hp => by cases p <;> first | exact rfl | exact ⟨rfl, rfl⟩ | exact ⟨rfl, trivial⟩ | exact ⟨trivial, rfl⟩ | exact absurd (hA (by decide)) hp⟩
    | split

theorem State.pllLock_kept {A : List Part} {s₀ s : State} (p : Pll) (h : Kept A s₀ s) (hA : [.halves, .dies, .tielux, .jobs, .clocks, .free] ⊆ A := by exact Part.sub (by assumption) (by decide)) : Kept A s₀ (State.pllLock s p) := by
  unfold State.pllLock
  dsimp only
  repeat' first
    | with_reducible assumption
    | with_reducible apply State.onClocks_kept
    | with_reducible apply State.modHalf_kept
    | with_reducible apply State.endRelock_kept
    | with_reducible apply State.modDie_kept
    | with_reducible apply State.modStack_kept
    | exact Part.sub hA (by decide)
    | with_reducible refine Kept.ite ?_ ?_
    | split

theorem execPllLock_kept {s t : State} (pll : Pll) (e : execPllLock pll s = .next t) : Kept [.halves, .dies, .tielux, .jobs, .clocks, .free] s t := by
  have h := Kept.refl (A := [.halves, .dies, .tielux, .jobs, .clocks, .free]) s
  have hA := List.Subset.refl ([.halves, .dies, .tielux, .jobs, .clocks, .free] : List Part)
  unfold execPllLock at e
  all_goals first | contradiction | (cases e) | skip
  repeat' first
    | with_reducible assumption
    | with_reducible apply State.pllLock_kept

theorem State.halfStop_kept {A : List Part} {s₀ s : State} (xh : Nat) (h : Kept A s₀ s) (hA : [.halves, .dies] ⊆ A := by exact Part.sub (by assumption) (by decide)) : Kept A s₀ (State.halfStop s xh) := by
  unfold State.halfStop
  dsimp only
  repeat' first
    | with_reducible assumption
    | with_reducible apply State.modHalf_kept
    | with_reducible apply State.modDie_kept
    | exact Part.sub hA (by decide)
    | with_reducible refine Kept.ite ?_ ?_

theorem execHalfClockStop_kept {s t : State} (half : Fin 12) (e : execHalfClockStop half s = .next t) : Kept [.halves, .dies] s t := by
  have h := Kept.refl (A := [.halves, .dies]) s
  have hA := List.Subset.refl ([.halves, .dies] : List Part)
  unfold execHalfClockStop at e
  all_goals first | contradiction | (cases e) | skip
  repeat' first
    | with_reducible assumption
    | with_reducible apply State.halfStop_kept

end Sys2Proof.Machine
end

