-- ==== Sys2Proof/Laws/Firmware.lean ====
section
/-! SUPPORT. What the operations of Machine/Firmware.lean keep (Laws/Kept.lean). -/

set_option Elab.async false

namespace Sys2Proof.Machine

open Sys2Proof Sys2Proof.Safety

-- The proofs before this one are checked before the next ones start.
theorem State.auditBy_kept {A : List Part} {s₀ s : State} (x : Session) (outcome : Nat) (action : Nat) (status : Nat) (detail : Bytes) (h : Kept A s₀ s) (hA : [.audit] ⊆ A := by exact Part.sub (by assumption) (by decide)) : Kept A s₀ (State.auditBy s x outcome action status detail) := by
  unfold State.auditBy
  repeat' first
    | with_reducible assumption
    | with_reducible apply State.audit_kept

end Sys2Proof.Machine
end

