-- ==== Sys2Proof/Laws/Peer.lean ====
section
/-! SUPPORT. What the operations of Machine/Peer.lean keep (Laws/Kept.lean). -/

set_option Elab.async false

namespace Sys2Proof.Machine

open Sys2Proof Sys2Proof.Safety

-- The proofs before this one are checked before the next ones start.
theorem State.mapGroups_kept {A : List Part} {s₀ s : State} (f : Job → GroupState → GroupState) (h : Kept A s₀ s) (hA : [.jobs] ⊆ A := by exact Part.sub (by assumption) (by decide)) : Kept A s₀ (State.mapGroups s f) :=
  State.onJobs_kept _ h ⟨Nat.le_refl _, Nat.le_refl _⟩
    (fun g => mwf_mapJobs (f := fun _ (j : Job) => if j.state == .ended then j else { j with group := j.group.map (f j) }) g)

theorem State.readyTo_kept {A : List Part} {s₀ s : State} (j : Job) (g : GroupState) (m : Nat) (h : Kept A s₀ s) (hA : [.transport] ⊆ A := by exact Part.sub (by assumption) (by decide)) : Kept A s₀ (State.readyTo s j g m) := by
  unfold State.readyTo
  repeat' first
    | with_reducible assumption
    | with_reducible apply State.toNeighbour_kept
    | with_reducible refine Kept.ite ?_ ?_

theorem State.peerOpened_kept {A : List Part} {s₀ s : State} (id : Nat) (fpr : Bytes) (h : Kept A s₀ s) (hA : [.jobs, .transport] ⊆ A := by exact Part.sub (by assumption) (by decide)) : Kept A s₀ (State.peerOpened s id fpr) := by
  unfold State.peerOpened
  dsimp only
  repeat' first
    | with_reducible assumption
    | with_reducible apply State.mapGroups_kept
    | with_reducible apply State.toNeighbour_kept
    | with_reducible apply State.readyTo_kept
    | exact Part.sub hA (by decide)
    | with_reducible refine Kept.foldl ?_ _ ?_
    | intro _
    | with_reducible refine Kept.ite ?_ ?_
    | split

theorem State.peerLost_kept {A : List Part} {s₀ s : State} (id : Nat) (h : Kept A s₀ s) (hA : [.jobs] ⊆ A := by exact Part.sub (by assumption) (by decide)) : Kept A s₀ (State.peerLost s id) := by
  unfold State.peerLost
  repeat' first
    | with_reducible assumption
    | with_reducible apply State.mapGroups_kept

theorem State.peerAuth_kept {A : List Part} {s₀ s : State} (fpr : Bytes) (h : Kept A s₀ s) (hA : [.transport, .events, .headers] ⊆ A := by exact Part.sub (by assumption) (by decide)) : Kept A s₀ (State.peerAuth s fpr) := by
  unfold State.peerAuth
  repeat' first
    | with_reducible assumption
    | with_reducible apply State.log_kept
    | split

theorem State.openPeer_kept {A : List Part} {s₀ s : State} (record : Bytes) (m : Nat) (h : Kept A s₀ s) (hA : [.jobs, .transport, .entropy, .free] ⊆ A := by exact Part.sub (by assumption) (by decide)) : Kept A s₀ (State.openPeer s record m) := by
  unfold State.openPeer
  dsimp only
  repeat' first
    | with_reducible assumption
    | with_reducible apply State.peerOpened_kept
    | with_reducible apply State.drbg_kept
    | with_reducible apply State.emit_kept
    | with_reducible apply State.onTransport_kept
    | exact Part.sub hA (by decide)
    | with_reducible refine Kept.ite ?_ ?_
    | split

end Sys2Proof.Machine
end

