-- ==== Sys2Proof/Laws/Session.lean ====
section
/-! SUPPORT. What the operations of Machine/Session.lean keep (Laws/Kept.lean). -/

set_option Elab.async false

namespace Sys2Proof.Machine

open Sys2Proof Sys2Proof.Safety

-- The proofs before this one are checked before the next ones start.
theorem State.reroute_kept {A : List Part} {s₀ s : State} (fpr : Bytes) (h : Kept A s₀ s) (hA : [.transport, .streams] ⊆ A := by exact Part.sub (by assumption) (by decide)) : Kept A s₀ (State.reroute s fpr) := by
  unfold State.reroute
  dsimp only
  repeat' first
    | with_reducible assumption
    | with_reducible apply State.modStream_kept
    | with_reducible apply State.sendRecord_kept
    | exact Part.sub hA (by decide)
    | with_reducible refine Kept.foldl ?_ _ ?_
    | intro _
    | with_reducible refine Kept.ite ?_ ?_
    | split

theorem State.settleJob_kept {A : List Part} {s₀ s : State} (fpr : Bytes) (job : Nat) (h : Kept A s₀ s) (hA : [.jobs, .streams] ⊆ A := by exact Part.sub (by assumption) (by decide)) : Kept A s₀ (State.settleJob s fpr job) := by
  unfold State.settleJob
  dsimp only
  repeat' first
    | with_reducible assumption
    | with_reducible apply State.onJournal_kept
    | exact ⟨rfl, rfl, rfl, rfl, rfl, Nat.le_refl _, fun _ h => h, fun p hp => by cases p <;> first | exact rfl | exact trivial | exact absurd (hA (by decide)) hp⟩
    | with_reducible apply State.dropJob_kept
    | exact Part.sub hA (by decide)
    | with_reducible refine Kept.ite ?_ ?_
    | split

theorem State.recordAcked_kept {A : List Part} {s₀ s : State} (fpr : Bytes) (seq : Nat) (h : Kept A s₀ s) (hA : [.jobs, .streams] ⊆ A := by exact Part.sub (by assumption) (by decide)) : Kept A s₀ (State.recordAcked s fpr seq) := by
  unfold State.recordAcked
  dsimp only
  repeat' first
    | with_reducible assumption
    | with_reducible apply State.modStream_kept
    | with_reducible apply State.onJournal_kept
    | exact ⟨rfl, rfl, rfl, rfl, rfl, Nat.le_refl _, fun _ h => h, fun p hp => by cases p <;> first | exact rfl | exact trivial | exact absurd (hA (by decide)) hp⟩
    | with_reducible apply State.settleJob_kept
    | exact Part.sub hA (by decide)
    | with_reducible refine Kept.ite ?_ ?_
    | split

theorem State.packetAcked_kept {A : List Part} {s₀ s : State} (p : TxPacket) (h : Kept A s₀ s) (hA : [.jobs, .streams] ⊆ A := by exact Part.sub (by assumption) (by decide)) : Kept A s₀ (State.packetAcked s p) := by
  unfold State.packetAcked
  repeat' first
    | with_reducible assumption
    | with_reducible apply State.recordAcked_kept
    | with_reducible refine Kept.ite ?_ ?_
    | split

theorem State.ackUpTo_kept {A : List Part} {s₀ s : State} (id : Nat) (n : Nat) (h : Kept A s₀ s) (hA : [.jobs, .transport, .streams] ⊆ A := by exact Part.sub (by assumption) (by decide)) : Kept A s₀ (State.ackUpTo s id n) := by
  unfold State.ackUpTo
  repeat' first
    | with_reducible assumption
    | with_reducible apply State.packetAcked_kept
    | with_reducible apply State.modSession_kept
    | exact Part.sub hA (by decide)
    | with_reducible refine Kept.foldl ?_ _ ?_
    | intro _
    | split

theorem State.obligationRecord_kept {A : List Part} {s₀ s : State} (j : Job) (h : Kept A s₀ s) (hA : [.transport, .streams] ⊆ A := by exact Part.sub (by assumption) (by decide)) : Kept A s₀ (State.obligationRecord s j) := by
  unfold State.obligationRecord
  dsimp only
  repeat' first
    | with_reducible assumption
    | with_reducible apply State.complete_kept

theorem State.tellObligations_kept {A : List Part} {s₀ s : State} (fpr : Bytes) (h : Kept A s₀ s) (hA : [.transport, .streams] ⊆ A := by exact Part.sub (by assumption) (by decide)) : Kept A s₀ (State.tellObligations s fpr) := by
  unfold State.tellObligations
  repeat' first
    | with_reducible assumption
    | with_reducible apply State.obligationRecord_kept
    | with_reducible refine Kept.foldl ?_ _ ?_
    | intro _

theorem State.leaveRaw_kept {A : List Part} {s₀ s : State} (h : Kept A s₀ s) (hA : [.transport, .events, .headers, .entropy] ⊆ A := by exact Part.sub (by assumption) (by decide)) : Kept A s₀ (State.leaveRaw s) := by
  unfold State.leaveRaw
  repeat' first
    | with_reducible assumption
    | with_reducible apply State.onEntropy_kept
    | with_reducible apply State.log_kept
    | exact Part.sub hA (by decide)

theorem State.dropSession_kept {A : List Part} {s₀ s : State} (id : Nat) (h : Kept A s₀ s) (hA : [.jobs, .transport, .streams, .events, .headers, .entropy] ⊆ A := by exact Part.sub (by assumption) (by decide)) : Kept A s₀ (State.dropSession s id) := by
  unfold State.dropSession
  dsimp only
  repeat' first
    | with_reducible assumption
    | with_reducible apply State.onEntropy_kept
    | with_reducible apply State.onTransport_kept
    | with_reducible apply State.leaveRaw_kept
    | with_reducible apply State.peerLost_kept
    | with_reducible apply State.reroute_kept
    | exact Part.sub hA (by decide)
    | with_reducible refine Kept.ite ?_ ?_
    | split

theorem State.dropSessions_kept {A : List Part} {s₀ s : State} (ids : List Nat) (h : Kept A s₀ s) (hA : [.jobs, .transport, .streams, .events, .headers, .entropy] ⊆ A := by exact Part.sub (by assumption) (by decide)) : Kept A s₀ (State.dropSessions s ids) := by
  unfold State.dropSessions
  repeat' first
    | with_reducible assumption
    | with_reducible apply State.dropSession_kept
    | with_reducible refine Kept.foldl ?_ _ ?_
    | intro _

theorem State.enrol_kept {A : List Part} {s₀ s : State} (xk : KeyRecord) (h : Kept A s₀ s) (hA : [.keys] ⊆ A := by exact Part.sub (by assumption) (by decide)) : Kept A s₀ (State.enrol s xk) := by
  unfold State.enrol
  repeat' first
    | with_reducible assumption
    | with_reducible apply State.onJournal_kept
    | exact ⟨rfl, rfl, rfl, rfl, rfl, Nat.le_refl _, fun _ h => h, fun p hp => by cases p <;> first | exact rfl | exact trivial | exact absurd (hA (by decide)) hp⟩

theorem State.refuseOpen_kept {A : List Part} {s₀ s : State} (dst : Nat) (role : Nat) (fpr : Bytes) (status : Nat) (h : Kept A s₀ s) (hA : [.transport, .audit] ⊆ A := by exact Part.sub (by assumption) (by decide)) : Kept A s₀ (State.refuseOpen s dst role fpr status) := by
  unfold State.refuseOpen
  dsimp only
  repeat' first
    | with_reducible assumption
    | with_reducible apply State.audit_kept
    | with_reducible apply State.emit_kept
    | exact Part.sub hA (by decide)
    | with_reducible refine Kept.ite ?_ ?_

theorem State.claimFailed_kept {A : List Part} {s₀ s : State} (h : Kept A s₀ s) (hA : [.keys] ⊆ A := by exact Part.sub (by assumption) (by decide)) : Kept A s₀ (State.claimFailed s) := by
  unfold State.claimFailed
  repeat' first
    | with_reducible assumption
    | with_reducible apply State.onJournal_kept
    | exact ⟨rfl, rfl, rfl, rfl, rfl, Nat.le_refl _, fun _ h => h, fun p hp => by cases p <;> first | exact rfl | exact trivial | exact absurd (hA (by decide)) hp⟩

theorem State.challenge_kept {A : List Part} {s₀ s : State} (p : Phase1) (h : Kept A s₀ s) (hA : [.transport, .entropy, .free] ⊆ A := by exact Part.sub (by assumption) (by decide)) : Kept A s₀ (State.challenge s p) := by
  unfold State.challenge
  dsimp only
  repeat' first
    | with_reducible assumption
    | with_reducible apply State.drbg_kept
    | with_reducible apply State.emit_kept
    | with_reducible apply State.onTransport_kept
    | exact Part.sub hA (by decide)
    | with_reducible refine Kept.ite ?_ ?_

theorem State.phase1In_kept {A : List Part} {s₀ s : State} (p : Phase1) (h : Kept A s₀ s) (hA : [.transport, .audit, .entropy, .free] ⊆ A := by exact Part.sub (by assumption) (by decide)) : Kept A s₀ (State.phase1In s p) := by
  unfold State.phase1In
  dsimp only
  repeat' first
    | with_reducible assumption
    | with_reducible apply State.refuseOpen_kept
    | with_reducible apply State.challenge_kept
    | with_reducible apply State.onTransport_kept
    | exact Part.sub hA (by decide)
    | with_reducible refine Kept.ite ?_ ?_

theorem execSessionOpenPhase1_kept {s t : State} (p : Phase1) (e : execSessionOpenPhase1 p s = .next t) : Kept [.transport, .audit, .entropy, .free] s t := by
  have h := Kept.refl (A := [.transport, .audit, .entropy, .free]) s
  have hA := List.Subset.refl ([.transport, .audit, .entropy, .free] : List Part)
  unfold execSessionOpenPhase1 at e
  all_goals first | contradiction | (cases e) | skip
  repeat' first
    | with_reducible assumption
    | with_reducible apply State.phase1In_kept

theorem State.clearOpens_kept {A : List Part} {s₀ s : State} (h : Kept A s₀ s) (hA : [.transport] ⊆ A := by exact Part.sub (by assumption) (by decide)) : Kept A s₀ (State.clearOpens s) :=
  State.onTransport_kept _ h hA

theorem State.takeOpens_kept {A : List Part} {s₀ s : State} (h : Kept A s₀ s) (hA : [.transport, .audit, .entropy, .free] ⊆ A := by exact Part.sub (by assumption) (by decide)) : Kept A s₀ (State.takeOpens s) := by
  unfold State.takeOpens
  repeat' first
    | with_reducible assumption
    | with_reducible apply State.phase1In_kept
    | with_reducible apply State.clearOpens_kept
    | with_reducible apply State.fromSource_kept
    | exact Part.sub hA (by decide)
    | with_reducible refine Kept.foldl ?_ _ ?_
    | intro _

theorem State.refuseOpens_kept {A : List Part} {s₀ s : State} (h : Kept A s₀ s) (hA : [.transport, .audit] ⊆ A := by exact Part.sub (by assumption) (by decide)) : Kept A s₀ (State.refuseOpens s) := by
  unfold State.refuseOpens
  repeat' first
    | with_reducible assumption
    | with_reducible apply State.refuseOpen_kept
    | with_reducible apply State.clearOpens_kept
    | with_reducible apply State.fromSource_kept
    | exact Part.sub hA (by decide)
    | with_reducible refine Kept.foldl ?_ _ ?_
    | intro _

theorem execEntropyBlock_kept {s t : State} (samples : List Bool) (e : execEntropyBlock samples s = .next t) : Kept [.transport, .audit, .events, .headers, .entropy, .free] s t := by
  have h := Kept.refl (A := [.transport, .audit, .events, .headers, .entropy, .free]) s
  have hA := List.Subset.refl ([.transport, .audit, .events, .headers, .entropy, .free] : List Part)
  cases e
  exact Kept.ite (State.refuseOpens_kept (State.entropyBlock_kept _ h)) (State.entropyBlock_kept _ h)

theorem execEntropyReady_kept {s t : State} (e : execEntropyReady s = .next t) : Kept [.transport, .audit, .entropy, .free] s t := by
  have h := Kept.refl (A := [.transport, .audit, .entropy, .free]) s
  have hA := List.Subset.refl ([.transport, .audit, .entropy, .free] : List Part)
  cases e
  exact Kept.ite (State.takeOpens_kept (State.entropyReady_kept h)) h

theorem State.refuseReads_kept {A : List Part} {s₀ s : State} (status : Nat) (h : Kept A s₀ s) (hA : [.transport, .entropy] ⊆ A := by exact Part.sub (by assumption) (by decide)) : Kept A s₀ (State.refuseReads s status) :=
  Kept.foldl (fun _ _ k => State.replyOne_kept _ _ _ _ _ k) _ (State.onEntropy_kept _ h)

theorem State.rawMode_kept {A : List Part} {s₀ s : State} (x : Session) (on : Bool) (h : Kept A s₀ s) (hA : [.transport, .audit, .events, .headers, .entropy] ⊆ A := by exact Part.sub (by assumption) (by decide)) : Kept A s₀ (State.rawMode s x on) := by
  unfold State.rawMode
  dsimp only
  repeat' first
    | with_reducible assumption
    | with_reducible apply State.refuseOpens_kept
    | with_reducible apply State.refuseReads_kept
    | with_reducible apply State.audit_kept
    | with_reducible apply State.log_kept
    | with_reducible apply State.onEntropy_kept
    | exact Part.sub hA (by decide)
    | with_reducible refine Kept.ite ?_ ?_

theorem execRawMode_kept {s t : State} (sess : Nat) (on : Bool) (e : execRawMode sess on s = .next t) : Kept [.transport, .audit, .events, .headers, .entropy] s t := by
  have h := Kept.refl (A := [.transport, .audit, .events, .headers, .entropy]) s
  have hA := List.Subset.refl ([.transport, .audit, .events, .headers, .entropy] : List Part)
  unfold execRawMode at e
  all_goals first | contradiction | (cases e) | skip
  repeat' first
    | with_reducible assumption
    | with_reducible apply State.ownWrite_kept
    | with_reducible apply State.rawMode_kept
    | exact Part.sub hA (by decide)
    | intro _

theorem State.claim_kept {A : List Part} {s₀ s : State} (x : Session) (h : Kept A s₀ s) (hA : [.keys, .audit] ⊆ A := by exact Part.sub (by assumption) (by decide)) : Kept A s₀ (State.claim s x) := by
  unfold State.claim
  dsimp only
  repeat' first
    | with_reducible assumption
    | with_reducible apply State.onJournal_kept
    | exact ⟨rfl, rfl, rfl, rfl, rfl, Nat.le_refl _, fun _ h => h, fun p hp => by cases p <;> first | exact rfl | exact trivial | exact absurd (hA (by decide)) hp⟩
    | with_reducible apply State.enrol_kept
    | with_reducible apply State.audit_kept
    | exact Part.sub hA (by decide)

theorem State.sessionOpened_kept {A : List Part} {s₀ s : State} (x : Session) (h : Kept A s₀ s) (hA : [.transport, .streams] ⊆ A := by exact Part.sub (by assumption) (by decide)) : Kept A s₀ (State.sessionOpened s x) := by
  unfold State.sessionOpened
  repeat' first
    | with_reducible assumption
    | with_reducible apply State.tellObligations_kept
    | with_reducible apply State.reroute_kept
    | with_reducible refine Kept.ite ?_ ?_

theorem State.openSession_kept {A : List Part} {s₀ s : State} (x : Session) (p3 : Bytes) (h : Kept A s₀ s) (hA : [.transport, .streams, .keys, .audit] ⊆ A := by exact Part.sub (by assumption) (by decide)) : Kept A s₀ (State.openSession s x p3) := by
  unfold State.openSession
  dsimp only
  repeat' first
    | with_reducible assumption
    | with_reducible apply State.claim_kept
    | with_reducible apply State.audit_kept
    | with_reducible apply State.onTransport_kept
    | with_reducible apply State.sessionOpened_kept
    | with_reducible apply State.emit_kept
    | exact Part.sub hA (by decide)
    | with_reducible refine Kept.ite ?_ ?_

theorem State.phase3In_kept {A : List Part} {s₀ s : State} (p : Phase3) (h : Kept A s₀ s) (hA : [.jobs, .transport, .streams, .keys, .audit, .events, .headers, .entropy] ⊆ A := by exact Part.sub (by assumption) (by decide)) : Kept A s₀ (State.phase3In s p) := by
  unfold State.phase3In
  dsimp only
  repeat' first
    | with_reducible assumption
    | with_reducible apply State.openSession_kept
    | with_reducible apply State.claimFailed_kept
    | with_reducible apply State.refuseOpen_kept
    | with_reducible apply State.dropSession_kept
    | exact Part.sub hA (by decide)
    | with_reducible refine Kept.ite ?_ ?_
    | split

theorem execSessionOpenPhase3_kept {s t : State} (p : Phase3) (e : execSessionOpenPhase3 p s = .next t) : Kept [.jobs, .transport, .streams, .keys, .audit, .events, .headers, .entropy] s t := by
  have h := Kept.refl (A := [.jobs, .transport, .streams, .keys, .audit, .events, .headers, .entropy]) s
  have hA := List.Subset.refl ([.jobs, .transport, .streams, .keys, .audit, .events, .headers, .entropy] : List Part)
  unfold execSessionOpenPhase3 at e
  all_goals first | contradiction | (cases e) | skip
  repeat' first
    | with_reducible assumption
    | with_reducible apply State.phase3In_kept

theorem State.abandon_kept {A : List Part} {s₀ s : State} (x : Session) (h : Kept A s₀ s) (hA : [.jobs, .transport, .streams, .events, .headers, .entropy] ⊆ A := by exact Part.sub (by assumption) (by decide)) : Kept A s₀ (State.abandon s x) := by
  unfold State.abandon
  repeat' first
    | with_reducible assumption
    | with_reducible apply State.peerAuth_kept
    | with_reducible apply State.dropSession_kept
    | exact Part.sub hA (by decide)

theorem State.phase2In_kept {A : List Part} {s₀ s : State} (p : Phase2) (h : Kept A s₀ s) (hA : [.jobs, .transport, .streams, .events, .headers, .entropy, .free] ⊆ A := by exact Part.sub (by assumption) (by decide)) : Kept A s₀ (State.phase2In s p) := by
  unfold State.phase2In
  dsimp only
  repeat' first
    | with_reducible assumption
    | with_reducible apply State.abandon_kept
    | with_reducible apply State.drbg_kept
    | with_reducible apply State.emit_kept
    | with_reducible apply State.onTransport_kept
    | exact Part.sub hA (by decide)
    | with_reducible refine Kept.ite ?_ ?_
    | split

theorem execSessionOpenPhase2_kept {s t : State} (p : Phase2) (e : execSessionOpenPhase2 p s = .next t) : Kept [.jobs, .transport, .streams, .events, .headers, .entropy, .free] s t := by
  have h := Kept.refl (A := [.jobs, .transport, .streams, .events, .headers, .entropy, .free]) s
  have hA := List.Subset.refl ([.jobs, .transport, .streams, .events, .headers, .entropy, .free] : List Part)
  unfold execSessionOpenPhase2 at e
  all_goals first | contradiction | (cases e) | skip
  repeat' first
    | with_reducible assumption
    | with_reducible apply State.phase2In_kept

theorem State.phase4In_kept {A : List Part} {s₀ s : State} (p : Phase4) (h : Kept A s₀ s) (hA : [.jobs, .transport, .streams, .events, .headers, .entropy] ⊆ A := by exact Part.sub (by assumption) (by decide)) : Kept A s₀ (State.phase4In s p) := by
  unfold State.phase4In
  dsimp only
  repeat' first
    | with_reducible assumption
    | with_reducible apply State.peerOpened_kept
    | with_reducible apply State.onTransport_kept
    | with_reducible apply State.abandon_kept
    | exact Part.sub hA (by decide)
    | with_reducible refine Kept.ite ?_ ?_
    | split

theorem execSessionOpenPhase4_kept {s t : State} (p : Phase4) (e : execSessionOpenPhase4 p s = .next t) : Kept [.jobs, .transport, .streams, .events, .headers, .entropy] s t := by
  have h := Kept.refl (A := [.jobs, .transport, .streams, .events, .headers, .entropy]) s
  have hA := List.Subset.refl ([.jobs, .transport, .streams, .events, .headers, .entropy] : List Part)
  unfold execSessionOpenPhase4 at e
  all_goals first | contradiction | (cases e) | skip
  repeat' first
    | with_reducible assumption
    | with_reducible apply State.phase4In_kept

theorem State.halfOpenTimeout_kept {A : List Part} {s₀ s : State} (sess : Nat) (h : Kept A s₀ s) (hA : [.jobs, .transport, .streams, .events, .headers, .entropy] ⊆ A := by exact Part.sub (by assumption) (by decide)) : Kept A s₀ (State.halfOpenTimeout s sess) := by
  unfold State.halfOpenTimeout
  repeat' first
    | with_reducible assumption
    | with_reducible apply State.dropSession_kept
    | with_reducible refine Kept.ite ?_ ?_

theorem execHalfOpenTimeout_kept {s t : State} (sess : Nat) (e : execHalfOpenTimeout sess s = .next t) : Kept [.jobs, .transport, .streams, .events, .headers, .entropy] s t := by
  have h := Kept.refl (A := [.jobs, .transport, .streams, .events, .headers, .entropy]) s
  have hA := List.Subset.refl ([.jobs, .transport, .streams, .events, .headers, .entropy] : List Part)
  unfold execHalfOpenTimeout at e
  all_goals first | contradiction | (cases e) | skip
  repeat' first
    | with_reducible assumption
    | with_reducible apply State.halfOpenTimeout_kept

theorem State.resendMissing_kept {A : List Part} {s₀ s : State} (b : AckBody) (h : Kept A s₀ s) (hA : [.transport] ⊆ A := by exact Part.sub (by assumption) (by decide)) : Kept A s₀ (State.resendMissing s b) := by
  unfold State.resendMissing
  dsimp only
  repeat' first
    | with_reducible assumption
    | with_reducible apply State.onTransport_kept
    | split

theorem State.ackIn_kept {A : List Part} {s₀ s : State} (b : AckBody) (h : Kept A s₀ s) (hA : [.jobs, .transport, .streams] ⊆ A := by exact Part.sub (by assumption) (by decide)) : Kept A s₀ (State.ackIn s b) := by
  unfold State.ackIn
  repeat' first
    | with_reducible assumption
    | with_reducible apply State.resendMissing_kept
    | with_reducible apply State.ackUpTo_kept
    | exact Part.sub hA (by decide)

theorem execAck_kept {s t : State} (b : AckBody) (e : execAck b s = .next t) : Kept [.jobs, .transport, .streams] s t := by
  have h := Kept.refl (A := [.jobs, .transport, .streams]) s
  have hA := List.Subset.refl ([.jobs, .transport, .streams] : List Part)
  unfold execAck at e
  all_goals first | contradiction | (cases e) | skip
  repeat' first
    | with_reducible assumption
    | with_reducible apply State.ackIn_kept

theorem State.retransmit_kept {A : List Part} {s₀ s : State} (sess : Nat) (seq : Nat) (h : Kept A s₀ s) (hA : [.transport] ⊆ A := by exact Part.sub (by assumption) (by decide)) : Kept A s₀ (State.retransmit s sess seq) := by
  unfold State.retransmit
  repeat' first
    | with_reducible assumption
    | with_reducible apply State.onTransport_kept
    | with_reducible apply State.modSession_kept
    | with_reducible refine Kept.ite ?_ ?_
    | split

theorem execRetransmitTimeout_kept {s t : State} (sess : Nat) (seq : Nat) (e : execRetransmitTimeout sess seq s = .next t) : Kept [.transport] s t := by
  have h := Kept.refl (A := [.transport]) s
  have hA := List.Subset.refl ([.transport] : List Part)
  unfold execRetransmitTimeout at e
  all_goals first | contradiction | (cases e) | skip
  repeat' first
    | with_reducible assumption
    | with_reducible apply State.retransmit_kept

theorem State.sessionTimeout_kept {A : List Part} {s₀ s : State} (sess : Nat) (h : Kept A s₀ s) (hA : [.jobs, .transport, .streams, .events, .headers, .entropy] ⊆ A := by exact Part.sub (by assumption) (by decide)) : Kept A s₀ (State.sessionTimeout s sess) := by
  unfold State.sessionTimeout
  try dsimp only
  repeat' first
    | with_reducible assumption
    | with_reducible apply State.dropSession_kept
    | with_reducible apply State.onTransport_kept
    | exact Part.sub hA (by decide)
    | intro _
    | with_reducible refine Kept.ite ?_ ?_
    | split
    | fail_if_no_progress refine Kept.record ?_ rfl rfl rfl rfl rfl rfl ⟨fun p hp => by cases p <;> first | exact rfl | exact ⟨rfl, rfl⟩ | exact ⟨rfl, trivial⟩ | exact ⟨trivial, rfl⟩ | exact absurd (hA (by decide)) hp⟩

theorem execSessionTimeout_kept {s t : State} (sess : Nat) (e : execSessionTimeout sess s = .next t) : Kept [.jobs, .transport, .streams, .events, .headers, .entropy] s t := by
  have h := Kept.refl (A := [.jobs, .transport, .streams, .events, .headers, .entropy]) s
  have hA := List.Subset.refl ([.jobs, .transport, .streams, .events, .headers, .entropy] : List Part)
  unfold execSessionTimeout at e
  all_goals first | contradiction | (cases e) | skip
  repeat' first
    | with_reducible assumption
    | with_reducible apply State.sessionTimeout_kept

theorem State.idleTimeout_kept {A : List Part} {s₀ s : State} (sess : Nat) (h : Kept A s₀ s) (hA : [.jobs, .transport, .streams, .events, .headers, .entropy] ⊆ A := by exact Part.sub (by assumption) (by decide)) : Kept A s₀ (State.idleTimeout s sess) := by
  unfold State.idleTimeout
  repeat' first
    | with_reducible assumption
    | with_reducible apply State.dropSession_kept
    | with_reducible refine Kept.ite ?_ ?_

theorem execIdleTimeout_kept {s t : State} (sess : Nat) (e : execIdleTimeout sess s = .next t) : Kept [.jobs, .transport, .streams, .events, .headers, .entropy] s t := by
  have h := Kept.refl (A := [.jobs, .transport, .streams, .events, .headers, .entropy]) s
  have hA := List.Subset.refl ([.jobs, .transport, .streams, .events, .headers, .entropy] : List Part)
  unfold execIdleTimeout at e
  all_goals first | contradiction | (cases e) | skip
  repeat' first
    | with_reducible assumption
    | with_reducible apply State.idleTimeout_kept

theorem State.sessionClose_kept {A : List Part} {s₀ s : State} (sess : Nat) (h : Kept A s₀ s) (hA : [.jobs, .transport, .streams, .events, .headers, .entropy] ⊆ A := by exact Part.sub (by assumption) (by decide)) : Kept A s₀ (State.sessionClose s sess) := by
  unfold State.sessionClose
  repeat' first
    | with_reducible assumption
    | with_reducible apply State.dropSession_kept
    | with_reducible apply State.emit_kept
    | exact Part.sub hA (by decide)
    | split

theorem execSessionClose_kept {s t : State} (sess : Nat) (e : execSessionClose sess s = .next t) : Kept [.jobs, .transport, .streams, .events, .headers, .entropy] s t := by
  have h := Kept.refl (A := [.jobs, .transport, .streams, .events, .headers, .entropy]) s
  have hA := List.Subset.refl ([.jobs, .transport, .streams, .events, .headers, .entropy] : List Part)
  unfold execSessionClose at e
  all_goals first | contradiction | (cases e) | skip
  repeat' first
    | with_reducible assumption
    | with_reducible apply State.sessionClose_kept

theorem State.claimBackoffEnds_kept {A : List Part} {s₀ s : State} (h : Kept A s₀ s) (hA : [.keys] ⊆ A := by exact Part.sub (by assumption) (by decide)) : Kept A s₀ (State.claimBackoffEnds s) := by
  unfold State.claimBackoffEnds
  repeat' first
    | with_reducible assumption
    | with_reducible apply State.onJournal_kept
    | exact ⟨rfl, rfl, rfl, rfl, rfl, Nat.le_refl _, fun _ h => h, fun p hp => by cases p <;> first | exact rfl | exact trivial | exact absurd (hA (by decide)) hp⟩

theorem execClaimBackoffExpiry_kept {s t : State} (e : execClaimBackoffExpiry s = .next t) : Kept [.keys] s t := by
  have h := Kept.refl (A := [.keys]) s
  have hA := List.Subset.refl ([.keys] : List Part)
  unfold execClaimBackoffExpiry at e
  all_goals first | contradiction | (cases e) | skip
  repeat' first
    | with_reducible assumption
    | with_reducible apply State.claimBackoffEnds_kept

theorem State.consentExpires_kept {A : List Part} {s₀ s : State} (sess : Nat) (h : Kept A s₀ s) (hA : [.jobs, .transport, .streams, .events, .headers, .entropy] ⊆ A := by exact Part.sub (by assumption) (by decide)) : Kept A s₀ (State.consentExpires s sess) := by
  unfold State.consentExpires
  repeat' first
    | with_reducible assumption
    | with_reducible apply State.dropSession_kept
    | with_reducible refine Kept.ite ?_ ?_
    | split

theorem execConsentExpiry_kept {s t : State} (sess : Nat) (e : execConsentExpiry sess s = .next t) : Kept [.jobs, .transport, .streams, .events, .headers, .entropy] s t := by
  have h := Kept.refl (A := [.jobs, .transport, .streams, .events, .headers, .entropy]) s
  have hA := List.Subset.refl ([.jobs, .transport, .streams, .events, .headers, .entropy] : List Part)
  unfold execConsentExpiry at e
  all_goals first | contradiction | (cases e) | skip
  repeat' first
    | with_reducible assumption
    | with_reducible apply State.consentExpires_kept

end Sys2Proof.Machine
end

