-- ==== Sys2Proof/Laws/Loads.lean ====
section
/-! SUPPORT. What the operations of Machine/Loads.lean keep (Laws/Kept.lean). -/

set_option Elab.async false

namespace Sys2Proof.Machine

open Sys2Proof Sys2Proof.Safety

-- The proofs before this one are checked before the next ones start.
theorem State.ruled_kept {A : List Part} {s₀ s : State} (x : Session) (req : Nat) (f : Option LoadFault) (go : State → State) (hgo : ∀ a0, Kept A s₀ a0 → Kept A s₀ (go a0)) (h : Kept A s₀ s) (hA : [.transport, .streams] ⊆ A := by exact Part.sub (by assumption) (by decide)) : Kept A s₀ (State.ruled s x req f go) := by
  unfold State.ruled
  repeat' first
    | with_reducible assumption
    | with_reducible apply hgo
    | with_reducible apply State.refuse_kept
    | split

theorem State.wakeObligations_kept {A : List Part} {s₀ s : State} (h : Kept A s₀ s) (hA : [.jobs] ⊆ A := by exact Part.sub (by assumption) (by decide)) : Kept A s₀ (State.wakeObligations s) := by
  unfold State.wakeObligations
  dsimp only
  repeat' first
    | with_reducible assumption
    | with_reducible apply State.setJob_kept
    | with_reducible refine Kept.foldl ?_ _ ?_
    | intro _
    | with_reducible refine Kept.ite ?_ ?_

theorem State.closeHandle_kept {A : List Part} {s₀ s : State} (xh : LoadHandle) (h : Kept A s₀ s) (hA : [.objects] ⊆ A := by exact Part.sub (by assumption) (by decide)) : Kept A s₀ (State.closeHandle s xh) := by
  unfold State.closeHandle
  repeat' first
    | with_reducible assumption
    | with_reducible apply State.onObjects_kept
    | exact Nat.le_trans (List.length_filter_le _ _)

theorem State.failLoad_kept {A : List Part} {s₀ s : State} (xh : LoadHandle) (f : LoadFault) (h : Kept A s₀ s) (hA : [.tielux, .objects, .transport, .streams] ⊆ A := by exact Part.sub (by assumption) (by decide)) : Kept A s₀ (State.failLoad s xh f) := by
  unfold State.failLoad
  dsimp only
  repeat' first
    | with_reducible assumption
    | with_reducible apply State.done_kept
    | with_reducible apply State.freePages_kept
    | with_reducible apply State.closeHandle_kept
    | exact Part.sub hA (by decide)

theorem State.holdObject_kept {A : List Part} {s₀ s : State} (xh : LoadHandle) (h : Kept A s₀ s) (hA : [.tielux, .jobs, .objects, .transport, .streams] ⊆ A := by exact Part.sub (by assumption) (by decide)) : Kept A s₀ (State.holdObject s xh) := by
  unfold State.holdObject
  dsimp only
  repeat' first
    | with_reducible assumption
    | with_reducible apply State.closeHandle_kept
    | with_reducible apply State.onObjects_kept
    | exact id
    | with_reducible apply State.freePages_kept
    | with_reducible apply State.wakeObligations_kept
    | with_reducible apply State.done_kept
    | exact Part.sub hA (by decide)
    | with_reducible refine Kept.ite ?_ ?_
    | split

theorem State.takeFirmware_kept {A : List Part} {s₀ s : State} (xh : LoadHandle) (h : Kept A s₀ s) (hA : [.objects, .security] ⊆ A := by exact Part.sub (by assumption) (by decide)) : Kept A s₀ (State.takeFirmware s xh) := by
  unfold State.takeFirmware
  repeat' first
    | with_reducible assumption
    | with_reducible apply State.onSecurity_kept
    | with_reducible apply State.closeHandle_kept
    | exact Part.sub hA (by decide)

theorem State.dropFirmware_kept {A : List Part} {s₀ s : State} (xh : LoadHandle) (f : LoadFault) (h : Kept A s₀ s) (hA : [.tielux, .objects, .transport, .streams, .audit, .security] ⊆ A := by exact Part.sub (by assumption) (by decide)) : Kept A s₀ (State.dropFirmware s xh f) := by
  unfold State.dropFirmware
  dsimp only
  repeat' first
    | with_reducible assumption
    | with_reducible apply State.audit_kept
    | with_reducible apply State.failLoad_kept
    | with_reducible apply State.onSecurity_kept
    | exact Part.sub hA (by decide)

theorem State.endLoad_kept {A : List Part} {s₀ s : State} (xh : LoadHandle) (f : LoadFault) (h : Kept A s₀ s) (hA : [.tielux, .objects, .transport, .streams, .audit, .security] ⊆ A := by exact Part.sub (by assumption) (by decide)) : Kept A s₀ (State.endLoad s xh f) := by
  unfold State.endLoad
  repeat' first
    | with_reducible assumption
    | with_reducible apply State.dropFirmware_kept
    | with_reducible apply State.failLoad_kept
    | exact Part.sub hA (by decide)
    | with_reducible refine Kept.ite ?_ ?_

theorem State.finishLoad_kept {A : List Part} {s₀ s : State} (xh : LoadHandle) (h : Kept A s₀ s) (hA : [.tielux, .jobs, .objects, .transport, .streams, .audit, .security] ⊆ A := by exact Part.sub (by assumption) (by decide)) : Kept A s₀ (State.finishLoad s xh) := by
  unfold State.finishLoad
  repeat' first
    | with_reducible assumption
    | with_reducible apply State.endLoad_kept
    | with_reducible apply State.takeFirmware_kept
    | with_reducible apply State.onObjects_kept
    | exact fun g => by rw [length_modFirst]; exact g
    | with_reducible apply State.holdObject_kept
    | exact Part.sub hA (by decide)
    | with_reducible refine Kept.ite ?_ ?_
    | split

theorem State.loadPages_kept {A : List Part} {s₀ s t : State} {b : LoadBody} {repair : Bool} {v : List PageRef} (h : Kept A s₀ s) (e : State.loadPages s b repair = some (t, v)) (hA : [.tielux, .entropy, .free] ⊆ A := by exact Part.sub (by assumption) (by decide)) : Kept A s₀ t := by
  unfold State.loadPages at e
  repeat' split at e
  all_goals first | contradiction | (cases e) | skip
  repeat' first
    | with_reducible assumption
    | refine State.takeSalted_kept ?_ (by assumption)
    | fail_if_no_progress refine Kept.record ?_ rfl rfl rfl rfl rfl rfl ⟨fun p hp => by cases p <;> first | exact rfl | exact ⟨rfl, rfl⟩ | exact ⟨rfl, trivial⟩ | exact ⟨trivial, rfl⟩ | exact absurd (hA (by decide)) hp⟩

theorem State.openHandle_kept {A : List Part} {s₀ s : State} (x : Session) (req : Nat) (b : LoadBody) (repair : Bool) (ps : List PageRef) (h : Kept A s₀ s)
    (hl : s.objects.handles.length < 64) (hA : [.tielux, .jobs, .objects, .transport, .streams, .audit, .security] ⊆ A := by exact Part.sub (by assumption) (by decide)) : Kept A s₀ (State.openHandle s x req b repair ps) := by
  unfold State.openHandle
  dsimp only
  refine Kept.ite (State.finishLoad_kept _ ?_) ?_ <;> refine State.accept_kept _ _ _ _ _ (Kept.ite (State.onSecurity_kept _ (State.auditBy_kept _ _ _ _ _ ?_)) ?_) <;>
    exact State.onObjects_kept _ h fun _ => by simp only [List.length_append, List.length_cons, List.length_nil]; omega

theorem State.alreadyHeld_kept {A : List Part} {s₀ s : State} (x : Session) (req : Nat) (o : HeldObject) (h : Kept A s₀ s) (hA : [.jobs, .objects, .transport, .streams] ⊆ A := by exact Part.sub (by assumption) (by decide)) : Kept A s₀ (State.alreadyHeld s x req o) := by
  unfold State.alreadyHeld
  dsimp only
  repeat' first
    | with_reducible assumption
    | with_reducible apply State.onObjects_kept
    | exact id
    | with_reducible apply State.wakeObligations_kept
    | with_reducible apply State.done_kept
    | with_reducible apply State.accept_kept
    | exact Part.sub hA (by decide)

theorem State.load_kept {A : List Part} {s₀ s : State} (x : Session) (req : Nat) (b : LoadBody) (h : Kept A s₀ s) (hA : [.tielux, .jobs, .objects, .transport, .streams, .audit, .security, .entropy, .free] ⊆ A := by exact Part.sub (by assumption) (by decide)) : Kept A s₀ (State.load s x req b) := by
  unfold State.load
  split
  · refine State.refuse_kept _ _ _ _ _ (Kept.ite ?_ h)
    exact State.auditBy_kept _ _ _ _ _ h
  · dsimp only
    split
    · exact State.alreadyHeld_kept _ _ _ h
    · split
      · exact State.refuse_kept _ _ _ _ _ h
      · refine Kept.elim (State.refuse_kept _ _ _ _ _ h) fun r hr => ?_
        have ho : r.1.objects = s.objects :=
          (State.loadPages_kept (A := [.tielux, .entropy, .free]) (t := r.1) (v := r.2) (Kept.refl s) hr (by exact List.Subset.refl _)).frame.same .objects (by decide)
        exact State.openHandle_kept _ _ _ _ _ (State.loadPages_kept (t := r.1) (v := r.2) h hr) (by rw [ho]; omega)

theorem execLoad_kept {s t : State} (xh : CmdHead) (b : LoadBody) (e : execLoad xh b s = .next t) : Kept [.tielux, .jobs, .objects, .transport, .streams, .audit, .security, .entropy, .free] s t := by
  have h := Kept.refl (A := [.tielux, .jobs, .objects, .transport, .streams, .audit, .security, .entropy, .free]) s
  have hA := List.Subset.refl ([.tielux, .jobs, .objects, .transport, .streams, .audit, .security, .entropy, .free] : List Part)
  unfold execLoad at e
  all_goals first | contradiction | (cases e) | skip
  repeat' first
    | with_reducible assumption
    | with_reducible apply State.command_kept
    | with_reducible apply State.load_kept
    | exact Part.sub hA (by decide)
    | intro _

theorem State.bulkChunk_kept {A : List Part} {s₀ s : State} (handle offset : Nat) (data : Bytes) (h : Kept A s₀ s) (hA : [.tielux, .mem, .jobs, .objects, .transport, .streams, .audit, .security] ⊆ A := by exact Part.sub (by assumption) (by decide)) : Kept A s₀ (State.bulkChunk s handle offset data) := by
  unfold State.bulkChunk
  try dsimp only
  repeat' first
    | with_reducible assumption
    | with_reducible apply State.onTransport_kept
    | with_reducible apply State.onObjects_kept
    | exact fun g => by rw [length_modFirst]; exact g
    | with_reducible apply State.storePages_kept
    | with_reducible apply State.endLoad_kept
    | with_reducible apply State.finishLoad_kept
    | exact Part.sub hA (by decide)
    | intro _
    | with_reducible refine Kept.ite ?_ ?_
    | split
    | fail_if_no_progress refine Kept.record ?_ rfl rfl rfl rfl rfl rfl ⟨fun p hp => by cases p <;> first | exact rfl | exact ⟨rfl, rfl⟩ | exact ⟨rfl, trivial⟩ | exact ⟨trivial, rfl⟩ | exact absurd (hA (by decide)) hp⟩

theorem execBulk_kept {s t : State} (sess : Nat) (handle : Nat) (offset : Nat) (data : Bytes) (e : execBulk sess handle offset data s = .next t) : Kept [.tielux, .mem, .jobs, .objects, .transport, .streams, .audit, .security] s t := by
  have h := Kept.refl (A := [.tielux, .mem, .jobs, .objects, .transport, .streams, .audit, .security]) s
  have hA := List.Subset.refl ([.tielux, .mem, .jobs, .objects, .transport, .streams, .audit, .security] : List Part)
  unfold execBulk at e
  repeat' split at e
  all_goals first | contradiction | (cases e) | skip
  repeat' first
    | with_reducible assumption
    | with_reducible apply State.bulkChunk_kept
    | with_reducible apply State.popInbox_kept
    | exact Part.sub hA (by decide)

theorem State.symmetryDone_kept {A : List Part} {s₀ s : State} (handle : Nat) (h : Kept A s₀ s) (hA : [.tielux, .jobs, .objects, .transport, .streams] ⊆ A := by exact Part.sub (by assumption) (by decide)) : Kept A s₀ (State.symmetryDone s handle) := by
  unfold State.symmetryDone
  repeat' first
    | with_reducible assumption
    | with_reducible apply State.failLoad_kept
    | with_reducible apply State.holdObject_kept
    | exact Part.sub hA (by decide)
    | split

theorem execSymmetryCheckDone_kept {s t : State} (handle : Nat) (e : execSymmetryCheckDone handle s = .next t) : Kept [.tielux, .jobs, .objects, .transport, .streams] s t := by
  have h := Kept.refl (A := [.tielux, .jobs, .objects, .transport, .streams]) s
  have hA := List.Subset.refl ([.tielux, .jobs, .objects, .transport, .streams] : List Part)
  unfold execSymmetryCheckDone at e
  all_goals first | contradiction | (cases e) | skip
  repeat' first
    | with_reducible assumption
    | with_reducible apply State.symmetryDone_kept

theorem State.interruptLoads_kept {A : List Part} {s₀ s : State} (h : Kept A s₀ s) (hA : [.tielux, .objects, .transport, .streams, .audit, .security] ⊆ A := by exact Part.sub (by assumption) (by decide)) : Kept A s₀ (State.interruptLoads s) := by
  unfold State.interruptLoads
  repeat' first
    | with_reducible assumption
    | with_reducible apply State.endLoad_kept
    | with_reducible refine Kept.foldl ?_ _ ?_
    | intro _

theorem State.releaseObject_kept {A : List Part} {s₀ s : State} (x : Session) (req : Nat) (digest : Bytes) (h : Kept A s₀ s) (hA : [.tielux, .objects, .transport, .streams] ⊆ A := by exact Part.sub (by assumption) (by decide)) : Kept A s₀ (State.releaseObject s x req digest) := by
  unfold State.releaseObject
  repeat' first
    | with_reducible assumption
    | with_reducible apply State.ruled_kept
    | with_reducible apply State.dropReleased_kept
    | with_reducible apply State.accept_kept
    | with_reducible apply State.onObjects_kept
    | exact id
    | exact Part.sub hA (by decide)
    | intro _

theorem execRelease_kept {s t : State} (xh : CmdHead) (digest : Bytes) (e : execRelease xh digest s = .next t) : Kept [.tielux, .objects, .transport, .streams] s t := by
  have h := Kept.refl (A := [.tielux, .objects, .transport, .streams]) s
  have hA := List.Subset.refl ([.tielux, .objects, .transport, .streams] : List Part)
  unfold execRelease at e
  all_goals first | contradiction | (cases e) | skip
  repeat' first
    | with_reducible assumption
    | with_reducible apply State.command_kept
    | with_reducible apply State.releaseObject_kept
    | exact Part.sub hA (by decide)
    | intro _

end Sys2Proof.Machine
end

