-- ==== Sys2Proof/Laws/Port.lean ====
section
/-! SUPPORT. What the operations of Machine/Port.lean keep (Laws/Kept.lean). -/

set_option Elab.async false

namespace Sys2Proof.Machine

open Sys2Proof Sys2Proof.Safety

-- The proofs before this one are checked before the next ones start.
theorem State.neighbour_kept {A : List Part} {s₀ s : State} (src : BitVec 128) (target : BitVec 128) (h : Kept A s₀ s) (hA : [.transport] ⊆ A := by exact Part.sub (by assumption) (by decide)) : Kept A s₀ (State.neighbour s src target) := by
  unfold State.neighbour
  repeat' first
    | with_reducible assumption
    | with_reducible apply State.emit_kept
    | with_reducible refine Kept.ite ?_ ?_

theorem execNeighbourSolicitation_kept {s t : State} (src : BitVec 128) (target : BitVec 128) (e : execNeighbourSolicitation src target s = .next t) : Kept [.transport] s t := by
  have h := Kept.refl (A := [.transport]) s
  have hA := List.Subset.refl ([.transport] : List Part)
  unfold execNeighbourSolicitation at e
  all_goals first | contradiction | (cases e) | skip
  repeat' first
    | with_reducible assumption
    | with_reducible apply State.neighbour_kept

theorem State.echo_kept {A : List Part} {s₀ s : State} (src : BitVec 128) (dst : BitVec 128) (data : Bytes) (h : Kept A s₀ s) (hA : [.transport] ⊆ A := by exact Part.sub (by assumption) (by decide)) : Kept A s₀ (State.echo s src dst data) := by
  unfold State.echo
  repeat' first
    | with_reducible assumption
    | with_reducible apply State.emit_kept
    | with_reducible refine Kept.ite ?_ ?_

theorem execEchoRequest_kept {s t : State} (src : BitVec 128) (dst : BitVec 128) (data : Bytes) (e : execEchoRequest src dst data s = .next t) : Kept [.transport] s t := by
  have h := Kept.refl (A := [.transport]) s
  have hA := List.Subset.refl ([.transport] : List Part)
  unfold execEchoRequest at e
  all_goals first | contradiction | (cases e) | skip
  repeat' first
    | with_reducible assumption
    | with_reducible apply State.echo_kept

theorem State.composePtp_kept {A : List Part} {s₀ s : State} (h : Kept A s₀ s) (hA : [.transport, .ptp] ⊆ A := by exact Part.sub (by assumption) (by decide)) : Kept A s₀ (State.composePtp s) := by
  unfold State.composePtp
  try dsimp only
  repeat' first
    | with_reducible assumption
    | exact Part.sub hA (by decide)
    | with_reducible refine Kept.ite ?_ ?_
    | split
    | fail_if_no_progress refine Kept.record ?_ rfl rfl rfl rfl rfl rfl ⟨fun p hp => by cases p <;> first | exact rfl | exact ⟨rfl, rfl⟩ | exact ⟨rfl, trivial⟩ | exact ⟨trivial, rfl⟩ | exact absurd (hA (by decide)) hp⟩

theorem State.expressReady_kept {A : List Part} {s₀ s : State} (bulkSent bulkLeft : Nat) (h : Kept A s₀ s) (hA : [.transport, .port, .ptp] ⊆ A := by exact Part.sub (by assumption) (by decide)) : Kept A s₀ (State.expressReady s bulkSent bulkLeft) := by
  unfold State.expressReady
  repeat' first
    | with_reducible assumption
    | with_reducible apply State.onPort_kept
    | with_reducible apply State.composePtp_kept
    | exact Part.sub hA (by decide)
    | intro _

theorem execExpressFrameReady_kept {s t : State} (bulkSent : Nat) (bulkLeft : Nat) (e : execExpressFrameReady bulkSent bulkLeft s = .next t) : Kept [.transport, .port, .ptp] s t := by
  have h := Kept.refl (A := [.transport, .port, .ptp]) s
  have hA := List.Subset.refl ([.transport, .port, .ptp] : List Part)
  unfold execExpressFrameReady at e
  all_goals first | contradiction | (cases e) | skip
  repeat' first
    | with_reducible assumption
    | exact Part.sub hA (by decide)
    | with_reducible apply State.expressReady_kept
    | with_reducible apply State.onPort_kept

theorem State.verified_kept {A : List Part} {s₀ s : State} (ok : Bool) (h : Kept A s₀ s) (hA : [.transport, .events, .headers, .port] ⊆ A := by exact Part.sub (by assumption) (by decide)) : Kept A s₀ (State.verified s ok) := by
  unfold State.verified
  repeat' first
    | with_reducible assumption
    | with_reducible apply State.onPort_kept
    | with_reducible apply State.log_kept
    | exact Part.sub hA (by decide)
    | with_reducible refine Kept.ite ?_ ?_

theorem execPreemptVerify_kept {s t : State} (ok : Bool) (e : execPreemptVerify ok s = .next t) : Kept [.transport, .events, .headers, .port] s t := by
  have h := Kept.refl (A := [.transport, .events, .headers, .port]) s
  have hA := List.Subset.refl ([.transport, .events, .headers, .port] : List Part)
  unfold execPreemptVerify at e
  all_goals first | contradiction | (cases e) | skip
  repeat' first
    | with_reducible assumption
    | with_reducible apply State.verified_kept

theorem State.portDown_kept {A : List Part} {s₀ s : State} (h : Kept A s₀ s) (hA : [.transport, .events, .headers, .port] ⊆ A := by exact Part.sub (by assumption) (by decide)) : Kept A s₀ (State.portDown s) := by
  unfold State.portDown
  dsimp only
  repeat' first
    | with_reducible assumption
    | with_reducible apply State.onPort_kept
    | with_reducible apply State.log_kept
    | exact Part.sub hA (by decide)
    | with_reducible refine Kept.ite ?_ ?_

theorem State.laneFail_kept {A : List Part} {s₀ s : State} (n : Nat) (h : Kept A s₀ s) (hA : [.transport, .events, .headers, .port] ⊆ A := by exact Part.sub (by assumption) (by decide)) : Kept A s₀ (State.laneFail s n) := by
  unfold State.laneFail
  dsimp only
  repeat' first
    | with_reducible assumption
    | with_reducible apply State.log_kept
    | with_reducible apply State.onPort_kept
    | with_reducible apply State.portDown_kept
    | exact Part.sub hA (by decide)
    | with_reducible refine Kept.ite ?_ ?_

theorem execLaneFailed_kept {s t : State} (lane : Fin 8) (e : execLaneFailed lane s = .next t) : Kept [.transport, .events, .headers, .port] s t := by
  have h := Kept.refl (A := [.transport, .events, .headers, .port]) s
  have hA := List.Subset.refl ([.transport, .events, .headers, .port] : List Part)
  unfold execLaneFailed at e
  all_goals first | contradiction | (cases e) | skip
  repeat' first
    | with_reducible assumption
    | with_reducible apply State.laneFail_kept

theorem State.linkComesUp_kept {A : List Part} {s₀ s : State} (h : Kept A s₀ s) (hA : [.transport, .events, .headers, .port, .ptp] ⊆ A := by exact Part.sub (by assumption) (by decide)) : Kept A s₀ (State.linkComesUp s) := by
  unfold State.linkComesUp
  dsimp only
  repeat' first
    | with_reducible assumption
    | with_reducible apply State.onPort_kept
    | with_reducible apply State.log_kept
    | with_reducible apply State.onPtp_kept
    | exact Part.sub hA (by decide)
    | with_reducible refine Kept.ite ?_ ?_
    | split

theorem execLinkUp_kept {s t : State} (e : execLinkUp s = .next t) : Kept [.transport, .events, .headers, .port, .ptp] s t := by
  have h := Kept.refl (A := [.transport, .events, .headers, .port, .ptp]) s
  have hA := List.Subset.refl ([.transport, .events, .headers, .port, .ptp] : List Part)
  unfold execLinkUp at e
  all_goals first | contradiction | (cases e) | skip
  repeat' first
    | with_reducible assumption
    | with_reducible apply State.linkComesUp_kept

theorem execLinkDown_kept {s t : State} (e : execLinkDown s = .next t) : Kept [.transport, .events, .headers, .port] s t := by
  have h := Kept.refl (A := [.transport, .events, .headers, .port]) s
  have hA := List.Subset.refl ([.transport, .events, .headers, .port] : List Part)
  unfold execLinkDown at e
  all_goals first | contradiction | (cases e) | skip
  repeat' first
    | with_reducible assumption
    | with_reducible apply State.portDown_kept

theorem State.fallbackNext_kept {A : List Part} {s₀ s : State} (h : Kept A s₀ s) (hA : [.port] ⊆ A := by exact Part.sub (by assumption) (by decide)) : Kept A s₀ (State.fallbackNext s) := by
  unfold State.fallbackNext
  repeat' first
    | with_reducible assumption
    | with_reducible apply State.onPort_kept
    | with_reducible refine Kept.ite ?_ ?_

theorem execFallbackRetry_kept {s t : State} (e : execFallbackRetry s = .next t) : Kept [.port] s t := by
  have h := Kept.refl (A := [.port]) s
  have hA := List.Subset.refl ([.port] : List Part)
  unfold execFallbackRetry at e
  all_goals first | contradiction | (cases e) | skip
  repeat' first
    | with_reducible assumption
    | with_reducible apply State.fallbackNext_kept

theorem State.restartPort_kept {A : List Part} {s₀ s : State} (h : Kept A s₀ s) (hA : [.transport, .events, .headers, .port] ⊆ A := by exact Part.sub (by assumption) (by decide)) : Kept A s₀ (State.restartPort s) := by
  unfold State.restartPort
  repeat' first
    | with_reducible assumption
    | with_reducible apply State.onPort_kept
    | with_reducible apply State.portDown_kept
    | exact Part.sub hA (by decide)

theorem State.resetPort_kept {A : List Part} {s₀ s : State} (h : Kept A s₀ s) (hA : [.transport, .events, .starts, .headers, .port] ⊆ A := by exact Part.sub (by assumption) (by decide)) : Kept A s₀ (State.resetPort s) := by
  unfold State.resetPort
  repeat' first
    | with_reducible assumption
    | with_reducible apply State.restartPort_kept
    | with_reducible apply State.countReset_kept
    | exact Part.sub hA (by decide)

theorem execPortReset_kept {s t : State} (e : execPortReset s = .next t) : Kept [.transport, .events, .starts, .headers, .port] s t := by
  have h := Kept.refl (A := [.transport, .events, .starts, .headers, .port]) s
  have hA := List.Subset.refl ([.transport, .events, .starts, .headers, .port] : List Part)
  unfold execPortReset at e
  all_goals first | contradiction | (cases e) | skip
  repeat' first
    | with_reducible assumption
    | with_reducible apply State.resetPort_kept

theorem State.laserFails_kept {A : List Part} {s₀ s : State} (cause : LaserFault) (h : Kept A s₀ s) (hA : [.transport, .events, .headers, .port, .optics] ⊆ A := by exact Part.sub (by assumption) (by decide)) : Kept A s₀ (State.laserFails s cause) := by
  unfold State.laserFails
  dsimp only
  repeat' first
    | with_reducible assumption
    | with_reducible apply State.onOptics_kept
    | with_reducible apply State.portDown_kept
    | with_reducible apply State.log_kept
    | exact Part.sub hA (by decide)
    | with_reducible refine Kept.ite ?_ ?_

theorem execLaserSwitch_kept {s t : State} (cause : LaserFault) (e : execLaserSwitch cause s = .next t) : Kept [.transport, .events, .headers, .port, .optics] s t := by
  have h := Kept.refl (A := [.transport, .events, .headers, .port, .optics]) s
  have hA := List.Subset.refl ([.transport, .events, .headers, .port, .optics] : List Part)
  unfold execLaserSwitch at e
  all_goals first | contradiction | (cases e) | skip
  repeat' first
    | with_reducible assumption
    | with_reducible apply State.laserFails_kept

theorem State.macParts_kept {A : List Part} {s₀ s : State} (cause : MacFault) (h : Kept A s₀ s) (hA : [.transport, .events, .starts, .headers, .port] ⊆ A := by exact Part.sub (by assumption) (by decide)) : Kept A s₀ (State.macParts s cause) := by
  unfold State.macParts
  repeat' first
    | with_reducible assumption
    | with_reducible apply State.log_kept
    | with_reducible apply State.onPort_kept
    | with_reducible apply State.resetPort_kept
    | exact Part.sub hA (by decide)
    | split

theorem execMacSwitch_kept {s t : State} (cause : MacFault) (e : execMacSwitch cause s = .next t) : Kept [.transport, .events, .starts, .headers, .port] s t := by
  have h := Kept.refl (A := [.transport, .events, .starts, .headers, .port]) s
  have hA := List.Subset.refl ([.transport, .events, .starts, .headers, .port] : List Part)
  unfold execMacSwitch at e
  all_goals first | contradiction | (cases e) | skip
  repeat' first
    | with_reducible assumption
    | with_reducible apply State.macParts_kept

theorem State.sync_kept {A : List Part} {s₀ s : State} (m : PtpSync) (h : Kept A s₀ s) (hA : [.transport, .events, .headers, .ptp, .clocks] ⊆ A := by exact Part.sub (by assumption) (by decide)) : Kept A s₀ (State.sync s m) := by
  unfold State.sync
  dsimp only
  repeat' first
    | with_reducible assumption
    | with_reducible apply State.log_kept
    | exact Part.sub hA (by decide)
    | with_reducible refine Kept.ite ?_ ?_
    | fail_if_no_progress refine Kept.record ?_ rfl rfl rfl rfl rfl rfl ⟨fun p hp => by cases p <;> first | exact rfl | exact ⟨rfl, rfl⟩ | exact ⟨rfl, trivial⟩ | exact ⟨trivial, rfl⟩ | exact absurd (hA (by decide)) hp⟩

theorem execPtpSync_kept {s t : State} (m : PtpSync) (e : execPtpSync m s = .next t) : Kept [.transport, .events, .headers, .ptp, .clocks] s t := by
  have h := Kept.refl (A := [.transport, .events, .headers, .ptp, .clocks]) s
  have hA := List.Subset.refl ([.transport, .events, .headers, .ptp, .clocks] : List Part)
  unfold execPtpSync at e
  all_goals first | contradiction | (cases e) | skip
  repeat' first
    | with_reducible assumption
    | with_reducible apply State.sync_kept

theorem State.delayResp_kept {A : List Part} {s₀ s : State} (sent : Int) (received : Int) (h : Kept A s₀ s) (hA : [.ptp] ⊆ A := by exact Part.sub (by assumption) (by decide)) : Kept A s₀ (State.delayResp s sent received) := by
  unfold State.delayResp
  repeat' first
    | with_reducible assumption
    | with_reducible apply State.onPtp_kept

theorem execPtpDelayResp_kept {s t : State} (sent : Int) (received : Int) (e : execPtpDelayResp sent received s = .next t) : Kept [.ptp] s t := by
  have h := Kept.refl (A := [.ptp]) s
  have hA := List.Subset.refl ([.ptp] : List Part)
  unfold execPtpDelayResp at e
  all_goals first | contradiction | (cases e) | skip
  repeat' first
    | with_reducible assumption
    | with_reducible apply State.delayResp_kept

theorem State.unlock_kept {A : List Part} {s₀ s : State} (h : Kept A s₀ s) (hA : [.transport, .events, .headers, .ptp] ⊆ A := by exact Part.sub (by assumption) (by decide)) : Kept A s₀ (State.unlock s) := by
  unfold State.unlock
  repeat' first
    | with_reducible assumption
    | with_reducible apply State.log_kept
    | with_reducible apply State.onPtp_kept
    | exact Part.sub hA (by decide)
    | with_reducible refine Kept.ite ?_ ?_

theorem execPtpUnlocked_kept {s t : State} (e : execPtpUnlocked s = .next t) : Kept [.transport, .events, .headers, .ptp] s t := by
  have h := Kept.refl (A := [.transport, .events, .headers, .ptp]) s
  have hA := List.Subset.refl ([.transport, .events, .headers, .ptp] : List Part)
  unfold execPtpUnlocked at e
  all_goals first | contradiction | (cases e) | skip
  repeat' first
    | with_reducible assumption
    | with_reducible apply State.unlock_kept

end Sys2Proof.Machine
end

