-- ==== Sys2Proof/Laws/Bringup.lean ====
section
/-! SUPPORT. What the operations of Machine/Bringup.lean keep (Laws/Kept.lean). -/

set_option Elab.async false

namespace Sys2Proof.Machine

open Sys2Proof Sys2Proof.Safety

-- The proofs before this one are checked before the next ones start.
theorem State.countWake_kept {A : List Part} {s₀ s : State} (h : Kept A s₀ s) (hA : [.clocks] ⊆ A := by exact Part.sub (by assumption) (by decide)) : Kept A s₀ (State.countWake s) := by
  unfold State.countWake
  repeat' first
    | with_reducible assumption
    | with_reducible apply State.onClocks_kept

theorem State.wakeSpine_kept {A : List Part} {s₀ s : State} (d : Nat) (h : Kept A s₀ s) (hA : [.dies, .clocks] ⊆ A := by exact Part.sub (by assumption) (by decide)) : Kept A s₀ (State.wakeSpine s d) := by
  unfold State.wakeSpine
  repeat' first
    | with_reducible assumption
    | with_reducible apply State.modDie_kept
    | with_reducible apply State.countWake_kept
    | exact Part.sub hA (by decide)
    | with_reducible refine Kept.ite ?_ ?_

theorem State.wakeHalf_kept {A : List Part} {s₀ s : State} (xh : Nat) (h : Kept A s₀ s) (hA : [.halves, .dies, .clocks] ⊆ A := by exact Part.sub (by assumption) (by decide)) : Kept A s₀ (State.wakeHalf s xh) := by
  unfold State.wakeHalf
  dsimp only
  repeat' first
    | with_reducible assumption
    | with_reducible apply State.modHalf_kept
    | with_reducible apply State.countWake_kept
    | with_reducible apply State.modDie_kept
    | exact Part.sub hA (by decide)
    | with_reducible refine Kept.ite ?_ ?_

theorem State.wakeStack_kept {A : List Part} {s₀ s : State} (xt : Nat) (h : Kept A s₀ s) (hA : [.tielux, .clocks] ⊆ A := by exact Part.sub (by assumption) (by decide)) : Kept A s₀ (State.wakeStack s xt) := by
  unfold State.wakeStack
  repeat' first
    | with_reducible assumption
    | with_reducible apply State.modStack_kept
    | with_reducible apply State.countWake_kept
    | exact Part.sub hA (by decide)
    | with_reducible refine Kept.ite ?_ ?_

theorem State.wakeHub_kept {A : List Part} {s₀ s : State} (p : Nat) (h : Kept A s₀ s) (hA : [.clocks] ⊆ A := by exact Part.sub (by assumption) (by decide)) : Kept A s₀ (State.wakeHub s p) := by
  unfold State.wakeHub
  repeat' first
    | with_reducible assumption
    | with_reducible apply State.onClocks_kept
    | with_reducible apply State.countWake_kept
    | with_reducible refine Kept.ite ?_ ?_

theorem State.bringMap_kept {A : List Part} {s₀ s : State} (xk : Nat) (h : Kept A s₀ s) (hA : [.clusters, .halves] ⊆ A := by exact Part.sub (by assumption) (by decide)) : Kept A s₀ (State.bringMap s xk) := by
  unfold State.bringMap
  dsimp only
  repeat' first
    | with_reducible assumption
    | with_reducible apply State.buildMap_kept
    | with_reducible apply State.modHalf_kept
    | exact Part.sub hA (by decide)
    | with_reducible refine Kept.ite ?_ ?_

theorem State.bringMaps_kept {A : List Part} {s₀ s : State} (ks : List Nat) (h : Kept A s₀ s) (hA : [.clusters, .halves] ⊆ A := by exact Part.sub (by assumption) (by decide)) : Kept A s₀ (State.bringMaps s ks) := by
  unfold State.bringMaps
  repeat' first
    | with_reducible assumption
    | with_reducible apply State.bringMap_kept
    | with_reducible refine Kept.foldl ?_ _ ?_
    | intro _
    | with_reducible refine Kept.ite ?_ ?_

theorem State.clearHubCounts_kept {A : List Part} {s₀ s : State} (h : Kept A s₀ s) (hA : [.clusters, .dies, .tielux, .transport, .events, .headers, .port, .optics, .power, .clocks, .thermal, .entropy, .integrity, .bist] ⊆ A := by exact Part.sub (by assumption) (by decide)) : Kept A s₀ (State.clearHubCounts s) :=
  h.updAll _ rfl id rfl (Kept.mapsOk_map rfl fun _ x => x) ⟨Nat.le_refl _, Nat.le_refl _⟩ ⟨fun p hp => by cases p <;> first | exact rfl | exact ⟨rfl, rfl⟩ | exact ⟨rfl, trivial⟩ | exact ⟨trivial, rfl⟩ | exact absurd (hA (by decide)) hp⟩

theorem State.startConfig_kept {A : List Part} {s₀ s : State} (h : Kept A s₀ s) (hA : [.config] ⊆ A := by exact Part.sub (by assumption) (by decide)) : Kept A s₀ (State.startConfig s) := by
  unfold State.startConfig
  dsimp only
  repeat' first
    | with_reducible assumption
    | with_reducible apply State.onConfig_kept
    | exact ⟨fun p hp => by cases p <;> first | exact rfl | exact trivial | exact absurd (hA (by decide)) hp⟩

theorem State.startFirmware_kept {A : List Part} {s₀ s : State} (h : Kept A s₀ s) (hA : [.security, .config] ⊆ A := by exact Part.sub (by assumption) (by decide)) : Kept A s₀ (State.startFirmware s) := by
  unfold State.startFirmware
  dsimp only
  repeat' first
    | with_reducible assumption
    | with_reducible apply State.onSecurity_kept
    | with_reducible apply State.onConfig_kept
    | exact ⟨fun p hp => by cases p <;> first | exact rfl | exact trivial | exact absurd (hA (by decide)) hp⟩
    | exact Part.sub hA (by decide)

theorem State.startIdentity_kept {A : List Part} {s₀ s : State} (h : Kept A s₀ s) (hA : [.transport, .events, .headers, .security] ⊆ A := by exact Part.sub (by assumption) (by decide)) : Kept A s₀ (State.startIdentity s) := by
  unfold State.startIdentity
  dsimp only
  repeat' first
    | with_reducible assumption
    | with_reducible apply State.onSecurity_kept
    | with_reducible apply State.log_kept
    | exact Part.sub hA (by decide)
    | with_reducible refine Kept.ite ?_ ?_

theorem State.startJournal_kept {A : List Part} {s₀ s : State} (h : Kept A s₀ s) (hA : [.starts] ⊆ A := by exact Part.sub (by assumption) (by decide)) : Kept A s₀ (State.startJournal s) := by
  unfold State.startJournal
  repeat' first
    | with_reducible assumption
    | with_reducible apply State.onJournal_kept
    | exact ⟨rfl, rfl, rfl, rfl, rfl, Nat.le_refl _, fun _ h => h, fun p hp => by cases p <;> first | exact rfl | exact trivial | exact absurd (hA (by decide)) hp⟩

theorem State.startShed_kept {A : List Part} {s₀ s : State} (h : Kept A s₀ s) (hA : [.transport, .events, .headers, .power] ⊆ A := by exact Part.sub (by assumption) (by decide)) : Kept A s₀ (State.startShed s) := by
  unfold State.startShed
  repeat' first
    | with_reducible assumption
    | with_reducible apply State.onPower_kept
    | with_reducible apply State.log_kept
    | exact Part.sub hA (by decide)
    | with_reducible refine Kept.ite ?_ ?_

theorem State.hubStart_kept {A : List Part} {s₀ s : State} (h : Kept A s₀ s) (hA : [.clusters, .halves, .dies, .tielux, .objects, .transport, .streams, .audit, .events, .starts, .headers, .port, .optics, .power, .clocks, .thermal, .security, .entropy, .integrity, .bist, .config] ⊆ A := by exact Part.sub (by assumption) (by decide)) : Kept A s₀ (State.hubStart s) := by
  unfold State.hubStart
  dsimp only
  repeat' first
    | with_reducible assumption
    | with_reducible apply State.startShed_kept
    | with_reducible apply State.startIdentity_kept
    | with_reducible apply State.startJournal_kept
    | with_reducible apply State.startFirmware_kept
    | with_reducible apply State.startConfig_kept
    | with_reducible apply State.clearHubCounts_kept
    | with_reducible apply State.interruptLoads_kept
    | with_reducible apply State.bringMaps_kept
    | exact Part.sub hA (by decide)
    | with_reducible refine Kept.ite ?_ ?_

theorem execHubStart_kept {s t : State} (e : execHubStart s = .next t) : Kept [.clusters, .halves, .dies, .tielux, .objects, .transport, .streams, .audit, .events, .starts, .headers, .port, .optics, .power, .clocks, .thermal, .security, .entropy, .integrity, .bist, .config] s t := by
  have h := Kept.refl (A := [.clusters, .halves, .dies, .tielux, .objects, .transport, .streams, .audit, .events, .starts, .headers, .port, .optics, .power, .clocks, .thermal, .security, .entropy, .integrity, .bist, .config]) s
  have hA := List.Subset.refl ([.clusters, .halves, .dies, .tielux, .objects, .transport, .streams, .audit, .events, .starts, .headers, .port, .optics, .power, .clocks, .thermal, .security, .entropy, .integrity, .bist, .config] : List Part)
  unfold execHubStart at e
  all_goals first | contradiction | (cases e) | skip
  repeat' first
    | with_reducible assumption
    | with_reducible apply State.hubStart_kept

theorem State.completeResets_kept {A : List Part} {s₀ s : State} (h : Kept A s₀ s) (hA : [.transport, .streams] ⊆ A := by exact Part.sub (by assumption) (by decide)) : Kept A s₀ (State.completeResets s) := by
  unfold State.completeResets
  repeat' first
    | with_reducible assumption
    | with_reducible apply State.onJournal_kept
    | exact ⟨rfl, rfl, rfl, rfl, rfl, Nat.le_refl _, fun _ h => h, fun p hp => by cases p <;> first | exact rfl | exact trivial | exact absurd (hA (by decide)) hp⟩
    | with_reducible apply State.done_kept
    | with_reducible refine Kept.foldl ?_ _ ?_
    | intro _

theorem State.halfReady_kept {A : List Part} {s₀ s : State} (xh : Nat) (h : Kept A s₀ s) (hA : [.clusters, .halves, .dies, .clocks] ⊆ A := by exact Part.sub (by assumption) (by decide)) : Kept A s₀ (State.halfReady s xh) := by
  unfold State.halfReady
  dsimp only
  repeat' first
    | with_reducible assumption
    | with_reducible apply State.bringMaps_kept
    | with_reducible apply State.modHalf_kept
    | with_reducible apply State.wakeHalf_kept
    | exact Part.sub hA (by decide)
    | with_reducible refine Kept.ite ?_ ?_

theorem State.becomeReady_kept {A : List Part} {s₀ s : State} (x1 : ReadyUnit) (h : Kept A s₀ s) (hA : [.clusters, .halves, .dies, .tielux, .transport, .streams, .clocks, .config] ⊆ A := by exact Part.sub (by assumption) (by decide)) : Kept A s₀ (State.becomeReady s x1) := by
  unfold State.becomeReady
  repeat' first
    | with_reducible assumption
    | with_reducible apply State.onClocks_kept
    | with_reducible apply State.completeResets_kept
    | with_reducible apply State.onConfig_kept
    | exact ⟨fun p hp => by cases p <;> first | exact rfl | exact trivial | exact absurd (hA (by decide)) hp⟩
    | with_reducible apply State.halfReady_kept
    | with_reducible apply State.modStack_kept
    | exact Part.sub hA (by decide)
    | with_reducible refine Kept.ite ?_ ?_
    | split

theorem execUnitReady_kept {s t : State} (unit : ReadyUnit) (e : execUnitReady unit s = .next t) : Kept [.clusters, .halves, .dies, .tielux, .transport, .streams, .clocks, .config] s t := by
  have h := Kept.refl (A := [.clusters, .halves, .dies, .tielux, .transport, .streams, .clocks, .config]) s
  have hA := List.Subset.refl ([.clusters, .halves, .dies, .tielux, .transport, .streams, .clocks, .config] : List Part)
  unfold execUnitReady at e
  all_goals first | contradiction | (cases e) | skip
  repeat' first
    | with_reducible assumption
    | with_reducible apply State.becomeReady_kept

theorem State.dropPlacement_kept {A : List Part} {s₀ s : State} (slot : Nat) (h : Kept A s₀ s) (hA : [.clusters, .halves, .tielux, .mem, .jobs, .objects, .transport, .streams, .entropy, .free] ⊆ A := by exact Part.sub (by assumption) (by decide)) : Kept A s₀ (State.dropPlacement s slot) := by
  unfold State.dropPlacement
  try dsimp only
  repeat' first
    | with_reducible assumption
    | with_reducible apply State.freeJobMemory_kept
    | with_reducible apply State.clearRegion_kept
    | with_reducible apply State.endJob_kept
    | with_reducible apply State.setJob_kept
    | with_reducible apply State.admitJobs_kept
    | exact Part.sub hA (by decide)
    | intro _
    | with_reducible refine Kept.ite ?_ ?_
    | split
    | fail_if_no_progress refine Kept.record ?_ rfl rfl rfl rfl rfl rfl ⟨fun p hp => by cases p <;> first | exact rfl | exact ⟨rfl, rfl⟩ | exact ⟨rfl, trivial⟩ | exact ⟨trivial, rfl⟩ | exact absurd (hA (by decide)) hp⟩

theorem State.dropPlacements_kept {A : List Part} {s₀ s : State} (xh : Nat) (h : Kept A s₀ s) (hA : [.clusters, .halves, .tielux, .mem, .jobs, .objects, .transport, .streams, .entropy, .free] ⊆ A := by exact Part.sub (by assumption) (by decide)) : Kept A s₀ (State.dropPlacements s xh) := by
  unfold State.dropPlacements
  repeat' first
    | with_reducible assumption
    | with_reducible apply State.dropPlacement_kept
    | with_reducible refine Kept.foldl ?_ _ ?_
    | intro _

theorem State.markUnusable_kept {A : List Part} {s₀ s : State} (x1 : ReadyUnit) (h : Kept A s₀ s) (hA : [.clusters, .halves, .tielux, .mem, .jobs, .objects, .transport, .streams, .security, .entropy, .config, .free] ⊆ A := by exact Part.sub (by assumption) (by decide)) : Kept A s₀ (State.markUnusable s x1) := by
  unfold State.markUnusable
  repeat' first
    | with_reducible assumption
    | with_reducible apply State.onConfig_kept
    | exact ⟨fun p hp => by cases p <;> first | exact rfl | exact trivial | exact absurd (hA (by decide)) hp⟩
    | with_reducible apply State.onSecurity_kept
    | with_reducible apply State.dropPlacements_kept
    | with_reducible apply State.modHalf_kept
    | with_reducible apply State.modStack_kept
    | exact Part.sub hA (by decide)
    | split

theorem State.readyTimeout_kept {A : List Part} {s₀ s : State} (u : ReadyUnit) (h : Kept A s₀ s) (hA : [.clusters, .halves, .tielux, .mem, .jobs, .objects, .transport, .streams, .events, .headers, .security, .entropy, .config, .free] ⊆ A := by exact Part.sub (by assumption) (by decide)) : Kept A s₀ (State.readyTimeout s u) := by
  unfold State.readyTimeout
  repeat' first
    | with_reducible assumption
    | with_reducible apply State.log_kept
    | with_reducible apply State.markUnusable_kept
    | exact Part.sub hA (by decide)
    | with_reducible refine Kept.ite ?_ ?_
    | split

theorem execReadyTimeout_kept {s t : State} (unit : ReadyUnit) (e : execReadyTimeout unit s = .next t) : Kept [.clusters, .halves, .tielux, .mem, .jobs, .objects, .transport, .streams, .events, .headers, .security, .entropy, .config, .free] s t := by
  have h := Kept.refl (A := [.clusters, .halves, .tielux, .mem, .jobs, .objects, .transport, .streams, .events, .headers, .security, .entropy, .config, .free]) s
  have hA := List.Subset.refl ([.clusters, .halves, .tielux, .mem, .jobs, .objects, .transport, .streams, .events, .headers, .security, .entropy, .config, .free] : List Part)
  unfold execReadyTimeout at e
  all_goals first | contradiction | (cases e) | skip
  repeat' first
    | with_reducible assumption
    | exact Part.sub hA (by decide)
    | with_reducible apply State.readyTimeout_kept

theorem execDieReset_kept {s t : State} (die : Fin 6) (e : execDieReset die s = .next t) : Kept [.clusters, .halves, .dies, .tielux, .jobs, .transport, .streams, .starts] s t := by
  have h := Kept.refl (A := [.clusters, .halves, .dies, .tielux, .jobs, .transport, .streams, .starts]) s
  have hA := List.Subset.refl ([.clusters, .halves, .dies, .tielux, .jobs, .transport, .streams, .starts] : List Part)
  unfold execDieReset at e
  all_goals first | contradiction | (cases e) | skip
  repeat' first
    | with_reducible assumption
    | with_reducible apply State.resetDie_kept

theorem State.interruptFirmware_kept {A : List Part} {s₀ s : State} (h : Kept A s₀ s) (hA : [.transport, .streams, .security] ⊆ A := by exact Part.sub (by assumption) (by decide)) : Kept A s₀ (State.interruptFirmware s) := by
  unfold State.interruptFirmware
  dsimp only
  repeat' first
    | with_reducible assumption
    | with_reducible apply State.onSecurity_kept
    | with_reducible apply State.done_kept
    | exact Part.sub hA (by decide)
    | split

theorem State.atHubDown_kept {A : List Part} {s₀ s : State} (h : Kept A s₀ s) (hA : [.transport, .ptp, .security, .entropy, .bist, .config] ⊆ A := by exact Part.sub (by assumption) (by decide)) : Kept A s₀ (State.atHubDown s) := by
  unfold State.atHubDown
  dsimp only
  repeat' first
    | with_reducible assumption
    | fail_if_no_progress refine Kept.record ?_ rfl rfl rfl rfl rfl rfl ⟨fun p hp => by cases p <;> first | exact rfl | exact ⟨rfl, rfl⟩ | exact ⟨rfl, trivial⟩ | exact ⟨trivial, rfl⟩ | exact absurd (hA (by decide)) hp⟩

theorem State.hubGoesDown_kept {A : List Part} {s₀ s : State} (h : Kept A s₀ s) (hA : [.tielux, .jobs, .objects, .transport, .streams, .audit, .events, .headers, .port, .ptp, .security, .entropy, .bist, .config] ⊆ A := by exact Part.sub (by assumption) (by decide)) : Kept A s₀ (State.hubGoesDown s) := by
  unfold State.hubGoesDown
  repeat' first
    | with_reducible assumption
    | with_reducible apply State.atHubDown_kept
    | with_reducible apply State.restStacks_kept
    | with_reducible apply State.restartPort_kept
    | with_reducible apply State.interruptFirmware_kept
    | with_reducible apply State.interruptLoads_kept
    | with_reducible apply State.dropSessions_kept
    | exact Part.sub hA (by decide)
    | with_reducible refine Kept.foldl ?_ _ ?_
    | intro _

theorem State.hubWarm_kept {A : List Part} {s₀ s : State} (h : Kept A s₀ s) (hA : [.tielux, .jobs, .objects, .transport, .streams, .audit, .events, .starts, .headers, .port, .ptp, .security, .entropy, .bist, .config] ⊆ A := by exact Part.sub (by assumption) (by decide)) : Kept A s₀ (State.hubWarm s) := by
  unfold State.hubWarm
  dsimp only
  repeat' first
    | with_reducible assumption
    | with_reducible apply State.hubGoesDown_kept
    | with_reducible apply State.countReset_kept
    | with_reducible apply State.demoteAll_kept
    | exact Part.sub hA (by decide)

theorem execHubWarmReset_kept {s t : State} (e : execHubWarmReset s = .next t) : Kept [.tielux, .jobs, .objects, .transport, .streams, .audit, .events, .starts, .headers, .port, .ptp, .security, .entropy, .bist, .config] s t := by
  have h := Kept.refl (A := [.tielux, .jobs, .objects, .transport, .streams, .audit, .events, .starts, .headers, .port, .ptp, .security, .entropy, .bist, .config]) s
  have hA := List.Subset.refl ([.tielux, .jobs, .objects, .transport, .streams, .audit, .events, .starts, .headers, .port, .ptp, .security, .entropy, .bist, .config] : List Part)
  unfold execHubWarmReset at e
  all_goals first | contradiction | (cases e) | skip
  repeat' first
    | with_reducible assumption
    | with_reducible apply State.hubWarm_kept

theorem State.tryUnusable_kept {A : List Part} {s₀ s : State} (h : Kept A s₀ s) (hA : [.halves, .tielux] ⊆ A := by exact Part.sub (by assumption) (by decide)) : Kept A s₀ (State.tryUnusable s) := by
  unfold State.tryUnusable
  dsimp only
  repeat' first
    | with_reducible assumption
    | fail_if_no_progress refine Kept.record ?_ rfl rfl rfl rfl rfl rfl ⟨fun p hp => by cases p <;> first | exact rfl | exact ⟨rfl, rfl⟩ | exact ⟨rfl, trivial⟩ | exact ⟨trivial, rfl⟩ | exact absurd (hA (by decide)) hp⟩

theorem State.moduleWarm_kept {A : List Part} {s₀ s : State} (h : Kept A s₀ s) (hA : [.clusters, .halves, .dies, .tielux, .jobs, .objects, .transport, .streams, .audit, .events, .starts, .headers, .port, .ptp, .security, .entropy, .bist, .config] ⊆ A := by exact Part.sub (by assumption) (by decide)) : Kept A s₀ (State.moduleWarm s) := by
  unfold State.moduleWarm
  dsimp only
  repeat' first
    | with_reducible assumption
    | with_reducible apply State.hubGoesDown_kept
    | with_reducible apply State.countReset_kept
    | with_reducible apply State.restartJobs_kept
    | with_reducible apply State.tryUnusable_kept
    | with_reducible apply State.restartDie_kept
    | exact Part.sub hA (by decide)
    | with_reducible refine Kept.foldl ?_ _ ?_
    | intro _

theorem execModuleWarmReset_kept {s t : State} (e : execModuleWarmReset s = .next t) : Kept [.clusters, .halves, .dies, .tielux, .jobs, .objects, .transport, .streams, .audit, .events, .starts, .headers, .port, .ptp, .security, .entropy, .bist, .config] s t := by
  obtain rfl := Host.Outcome.next.inj e
  exact State.moduleWarm_kept (Kept.refl s) (List.Subset.refl _)

theorem State.resetAs_kept {A : List Part} {s₀ s : State} (fpr : Bytes) (want : Option Nat) (req : Nat) (c : ResetClass) (h : Kept A s₀ s) (hA : [.clusters, .halves, .dies, .tielux, .jobs, .objects, .transport, .streams, .audit, .events, .starts, .headers, .port, .ptp, .security, .entropy, .bist, .config] ⊆ A := by exact Part.sub (by assumption) (by decide)) : Kept A s₀ (State.resetAs s fpr want req c) := by
  cases c with
  | port => exact State.done_kept _ _ _ _ (State.resetPort_kept h)
  | die d => exact State.done_kept _ _ _ _ (State.resetDie_kept _ h)
  | hubWarm => exact State.hubWarm_kept (State.onJournal_kept _ h ⟨rfl, rfl, rfl, rfl, rfl, Nat.le_refl _, fun _ h => h, fun p hp => by cases p <;> first | exact rfl | exact trivial | exact absurd (hA (by decide)) hp⟩)
  | moduleWarm => exact State.moduleWarm_kept (State.onJournal_kept _ h ⟨rfl, rfl, rfl, rfl, rfl, Nat.le_refl _, fun _ h => h, fun p hp => by cases p <;> first | exact rfl | exact trivial | exact absurd (hA (by decide)) hp⟩)

theorem State.resetCommand_kept {A : List Part} {s₀ s : State} (x : Session) (req : Nat) (c : ResetClass) (h : Kept A s₀ s) (hA : [.clusters, .halves, .dies, .tielux, .jobs, .objects, .transport, .streams, .audit, .events, .starts, .headers, .port, .ptp, .security, .entropy, .bist, .config] ⊆ A := by exact Part.sub (by assumption) (by decide)) : Kept A s₀ (State.resetCommand s x req c) := by
  unfold State.resetCommand
  repeat' first
    | with_reducible assumption
    | with_reducible apply State.ruled_kept
    | with_reducible apply State.resetAs_kept
    | with_reducible apply State.accept_kept
    | with_reducible apply State.auditBy_kept
    | exact Part.sub hA (by decide)
    | intro _

theorem execReset_kept {s t : State} (xh : CmdHead) (cls : ResetClass) (e : execReset xh cls s = .next t) : Kept [.clusters, .halves, .dies, .tielux, .jobs, .objects, .transport, .streams, .audit, .events, .starts, .headers, .port, .ptp, .security, .entropy, .bist, .config] s t := by
  have h := Kept.refl (A := [.clusters, .halves, .dies, .tielux, .jobs, .objects, .transport, .streams, .audit, .events, .starts, .headers, .port, .ptp, .security, .entropy, .bist, .config]) s
  have hA := List.Subset.refl ([.clusters, .halves, .dies, .tielux, .jobs, .objects, .transport, .streams, .audit, .events, .starts, .headers, .port, .ptp, .security, .entropy, .bist, .config] : List Part)
  unfold execReset at e
  all_goals first | contradiction | (cases e) | skip
  repeat' first
    | with_reducible assumption
    | with_reducible apply State.command_kept
    | with_reducible apply State.resetCommand_kept
    | exact Part.sub hA (by decide)
    | intro _

end Sys2Proof.Machine
end

