-- ==== Sys2Proof/Laws/Bist.lean ====
section
/-! SUPPORT. What the operations of Machine/Bist.lean keep (Laws/Kept.lean). -/

set_option Elab.async false

namespace Sys2Proof.Machine

open Sys2Proof Sys2Proof.Safety

-- The proofs before this one are checked before the next ones start.
theorem State.countSlice_kept {A : List Part} {s₀ s : State} (h : Kept A s₀ s) (hA : [.bist] ⊆ A := by exact Part.sub (by assumption) (by decide)) : Kept A s₀ (State.countSlice s) := by
  unfold State.countSlice
  repeat' first
    | with_reducible assumption
    | with_reducible apply State.onBist_kept

theorem State.bistFail_kept {A : List Part} {s₀ s : State} (u : Nat × Word) (item : Nat) (h : Kept A s₀ s) (hA : [.transport, .events, .health, .headers, .bist] ⊆ A := by exact Part.sub (by assumption) (by decide)) : Kept A s₀ (State.bistFail s u item) := by
  unfold State.bistFail
  dsimp only
  repeat' first
    | with_reducible assumption
    | with_reducible apply State.log_kept
    | with_reducible apply State.onBist_kept
    | with_reducible apply State.onJournal_kept
    | exact ⟨rfl, rfl, rfl, rfl, rfl, Nat.le_refl _, fun _ h => h, fun p hp => by cases p <;> first | exact rfl | exact trivial | exact absurd (hA (by decide)) hp⟩
    | exact Part.sub hA (by decide)

theorem State.bistBusy_kept {A : List Part} {s₀ s : State} (item : Nat) (u : Word) (h : Kept A s₀ s) (hA : [.bist] ⊆ A := by exact Part.sub (by assumption) (by decide)) : Kept A s₀ (State.bistBusy s item u) := by
  unfold State.bistBusy
  repeat' first
    | with_reducible assumption
    | with_reducible apply State.onBist_kept

theorem State.bistMove_kept {A : List Part} {s₀ s : State} (p : PhysCore) (h : Kept A s₀ s) (hA : [.clusters, .bist] ⊆ A := by exact Part.sub (by assumption) (by decide)) : Kept A s₀ (State.bistMove s p) := by
  unfold State.bistMove
  dsimp only
  repeat' first
    | with_reducible assumption
    | with_reducible apply State.bistBusy_kept
    | with_reducible apply State.startCopy_kept
    | exact Part.sub hA (by decide)
    | with_reducible refine Kept.ite ?_ ?_

theorem Cluster.setSpare_mapOk {c : Cluster} {n : Nat} {v : SpareState} (x : MapOk c.coreMap c.o0 c.o1 c.copy) (h : v = .free → c.maps n = false) :
    MapOk (c.setSpare n v).coreMap (c.setSpare n v).o0 (c.setSpare n v).o1 (c.setSpare n v).copy := by
  have hm : v = .free → ∀ a : Nat, c.coreMap[a]? ≠ some (some n) := fun hv a g => by
    have := h hv
    simp only [Cluster.maps, List.contains_eq_mem, decide_eq_false_iff_not] at this
    exact this (List.mem_of_getElem? g)
  by_cases h0 : n = 64
  · subst h0
    exact ⟨x.once, hm, x.spare1, x.copy⟩
  · by_cases h1 : n = 65
    · subst h1
      exact ⟨x.once, x.spare0, hm, x.copy⟩
    · simp only [Cluster.setSpare, if_neg h0, if_neg h1]
      exact x

theorem Cluster.bringBack_mapOk {c : Cluster} {n : Nat} (x : MapOk c.coreMap c.o0 c.o1 c.copy) :
    MapOk (c.bringBack n).coreMap (c.bringBack n).o0 (c.bringBack n).o1 (c.bringBack n).copy := by
  unfold Cluster.bringBack
  split
  · split
    · rename_i q hu hc h
      split
      · rename_i d hd
        refine ⟨x.once, x.spare0, x.spare1, fun r hr => ?_⟩
        cases hr
        refine ⟨fun a g => ?_, ?_⟩
        · have := h.2
          simp only [Cluster.maps, List.contains_eq_mem, decide_eq_false_iff_not] at this
          exact this (List.mem_of_getElem? g)
        · dsimp only
          simp only [List.getD_eq_getElem?_getD] at hd
          cases hg : c.coreMap[q.pos]? with
          | none => rw [hg] at hd; cases hd
          | some o => rw [hg] at hd; exact congrArg some hd
      · exact x
    · exact x
  · exact x

theorem State.bistTest_kept {A : List Part} {s₀ s : State} (p : PhysCore) (pass : Bool) (h : Kept A s₀ s) (hA : [.clusters, .halves, .dies, .tielux, .jobs, .transport, .events, .health, .headers, .clocks, .integrity, .bist] ⊆ A := by exact Part.sub (by assumption) (by decide)) : Kept A s₀ (State.bistTest s p pass) := by
  unfold State.bistTest
  dsimp only
  have h1 : Kept A s₀ (((s.wakeHalf p.cl.half).countSlice.bistBusy 0 (BitVec.allOnes 32)).onBist fun b =>
      { b with tested := mset 0 b.tested (UnitRef.core p).code (s.nowSec + 1) }) :=
    State.onBist_kept _ (State.bistBusy_kept _ _ (State.countSlice_kept (State.wakeHalf_kept _ h)))
  split
  · refine State.modCluster_kept _ _ h1 fun c _ x => Cluster.bringBack_mapOk (Cluster.setSpare_mapOk x fun hv => ?_)
    split at hv
    · cases hv
    · exact Bool.not_eq_true _ ▸ ‹_›
  · refine State.chargeUnit_kept _ (State.bistFail_kept _ _ (State.modCluster_kept _ _ h1 fun c _ x => ?_))
    have y := Cluster.setSpare_mapOk (n := p.num.val) (v := .retired) x fun hv => by cases hv
    have e : (c.setSpare p.num.val .retired).copy = c.copy := by
      simp only [Cluster.setSpare]
      repeat' split
      all_goals rfl
    refine ⟨y.once, y.spare0, y.spare1, fun r hr => ?_⟩
    refine y.copy r ?_
    rw [e]
    cases hc : c.copy with
    | none => rw [hc] at hr; cases hr
    | some q =>
      rw [hc] at hr
      simp only [Option.filter_some] at hr
      split at hr
      · exact hr
      · cases hr

theorem State.bistCore_kept {A : List Part} {s₀ s : State} (p : PhysCore) (pass : Bool) (h : Kept A s₀ s) (hA : [.clusters, .halves, .dies, .tielux, .jobs, .transport, .events, .health, .headers, .clocks, .integrity, .bist] ⊆ A := by exact Part.sub (by assumption) (by decide)) : Kept A s₀ (State.bistCore s p pass) := by
  unfold State.bistCore
  dsimp only
  repeat' first
    | with_reducible assumption
    | with_reducible apply State.bistMove_kept
    | with_reducible apply State.bistTest_kept
    | exact Part.sub hA (by decide)
    | with_reducible refine Kept.ite ?_ ?_

theorem State.bistStack_kept {A : List Part} {s₀ s : State} (t g : Nat) (pass : Bool) (h : Kept A s₀ s) (hA : [.tielux, .transport, .events, .health, .headers, .clocks, .bist] ⊆ A := by exact Part.sub (by assumption) (by decide)) : Kept A s₀ (State.bistStack s t g pass) := by
  unfold State.bistStack
  try dsimp only
  repeat' first
    | with_reducible assumption
    | with_reducible apply State.modStack_kept
    | with_reducible apply State.wakeStack_kept
    | with_reducible apply State.countSlice_kept
    | with_reducible apply State.bistFail_kept
    | exact Part.sub hA (by decide)
    | intro _
    | with_reducible refine Kept.ite ?_ ?_
    | split
    | fail_if_no_progress refine Kept.record ?_ rfl rfl rfl rfl rfl rfl ⟨fun p hp => by cases p <;> first | exact rfl | exact ⟨rfl, rfl⟩ | exact ⟨rfl, trivial⟩ | exact ⟨trivial, rfl⟩ | exact absurd (hA (by decide)) hp⟩

theorem State.bistLaser_kept {A : List Part} {s₀ s : State} (pass : Bool) (h : Kept A s₀ s) (hA : [.transport, .events, .health, .headers, .optics, .bist] ⊆ A := by exact Part.sub (by assumption) (by decide)) : Kept A s₀ (State.bistLaser s pass) := by
  unfold State.bistLaser
  dsimp only
  repeat' first
    | with_reducible assumption
    | with_reducible apply State.countSlice_kept
    | with_reducible apply State.bistFail_kept
    | with_reducible apply State.onOptics_kept
    | exact Part.sub hA (by decide)
    | with_reducible refine Kept.ite ?_ ?_

theorem State.bistLane_kept {A : List Part} {s₀ s : State} (n : Nat) (pass : Bool) (h : Kept A s₀ s) (hA : [.transport, .events, .health, .headers, .port, .bist] ⊆ A := by exact Part.sub (by assumption) (by decide)) : Kept A s₀ (State.bistLane s n pass) := by
  unfold State.bistLane
  repeat' first
    | with_reducible assumption
    | with_reducible apply State.countSlice_kept
    | with_reducible apply State.laneFail_kept
    | with_reducible apply State.bistFail_kept
    | exact Part.sub hA (by decide)
    | with_reducible refine Kept.ite ?_ ?_

theorem State.bistHoldup_kept {A : List Part} {s₀ s : State} (cap : Nat) (mv : Nat) (h : Kept A s₀ s) (hA : [.transport, .events, .health, .headers, .power, .bist] ⊆ A := by exact Part.sub (by assumption) (by decide)) : Kept A s₀ (State.bistHoldup s cap mv) := by
  unfold State.bistHoldup
  dsimp only
  repeat' first
    | with_reducible assumption
    | with_reducible apply State.onJournal_kept
    | exact ⟨rfl, rfl, rfl, rfl, rfl, Nat.le_refl _, fun _ h => h, fun p hp => by cases p <;> first | exact rfl | exact trivial | exact absurd (hA (by decide)) hp⟩
    | with_reducible apply State.onPower_kept
    | with_reducible apply State.countSlice_kept
    | with_reducible apply State.log_kept
    | with_reducible apply State.bistFail_kept
    | exact Part.sub hA (by decide)
    | with_reducible refine Kept.ite ?_ ?_

theorem State.bistSlice_kept {A : List Part} {s₀ s : State} (item : BistItem) (pass : Bool) (h : Kept A s₀ s) (hA : [.clusters, .halves, .dies, .tielux, .jobs, .transport, .events, .health, .headers, .port, .optics, .power, .clocks, .integrity, .bist] ⊆ A := by exact Part.sub (by assumption) (by decide)) : Kept A s₀ (State.bistSlice s item pass) := by
  unfold State.bistSlice
  try dsimp only
  repeat' first
    | with_reducible assumption
    | with_reducible apply State.bistCore_kept
    | with_reducible apply State.bistStack_kept
    | with_reducible apply State.bistLaser_kept
    | with_reducible apply State.bistLane_kept
    | with_reducible apply State.bistHoldup_kept
    | exact Part.sub hA (by decide)
    | split

theorem execBistSlice_kept {s t : State} (item : BistItem) (pass : Bool) (e : execBistSlice item pass s = .next t) : Kept [.clusters, .halves, .dies, .tielux, .jobs, .transport, .events, .health, .headers, .port, .optics, .power, .clocks, .integrity, .bist] s t := by
  have h := Kept.refl (A := [.clusters, .halves, .dies, .tielux, .jobs, .transport, .events, .health, .headers, .port, .optics, .power, .clocks, .integrity, .bist]) s
  have hA := List.Subset.refl ([.clusters, .halves, .dies, .tielux, .jobs, .transport, .events, .health, .headers, .port, .optics, .power, .clocks, .integrity, .bist] : List Part)
  unfold execBistSlice at e
  all_goals first | contradiction | (cases e) | skip
  repeat' first
    | with_reducible assumption
    | with_reducible apply State.bistSlice_kept

end Sys2Proof.Machine
end

