-- ==== Sys2Proof/Laws/Caravan.lean ====
section
/-! SUPPORT. What the operations of Machine/Caravan.lean keep (Laws/Kept.lean). -/

set_option Elab.async false

namespace Sys2Proof.Machine

open Sys2Proof Sys2Proof.Safety

-- The proofs before this one are checked before the next ones start.
theorem State.caravanTrigger_kept {A : List Part} {s₀ s : State} (slot : Nat) (seg : Nat) (h : Kept A s₀ s) (hA : [.jobs] ⊆ A := by exact Part.sub (by assumption) (by decide)) : Kept A s₀ (State.caravanTrigger s slot seg) := by
  unfold State.caravanTrigger
  dsimp only
  repeat' first
    | with_reducible assumption
    | with_reducible apply State.setJob_kept
    | with_reducible refine Kept.ite ?_ ?_
    | split

theorem execCaravanTrigger_kept {s t : State} (job : Fin 4096) (seg : Fin 4096) (e : execCaravanTrigger job seg s = .next t) : Kept [.jobs] s t := by
  have h := Kept.refl (A := [.jobs]) s
  have hA := List.Subset.refl ([.jobs] : List Part)
  unfold execCaravanTrigger at e
  all_goals first | contradiction | (cases e) | skip
  repeat' first
    | with_reducible assumption
    | with_reducible apply State.caravanTrigger_kept

theorem State.beatIssue_kept {A : List Part} {s₀ s : State} (slot seg late : Nat) (h : Kept A s₀ s) (hA : [.tielux, .jobs, .transport, .streams, .events, .headers, .free] ⊆ A := by exact Part.sub (by assumption) (by decide)) : Kept A s₀ (State.beatIssue s slot seg late) := by
  unfold State.beatIssue
  try dsimp only
  repeat' first
    | with_reducible assumption
    | with_reducible apply State.readSectors_kept
    | with_reducible apply State.setJob_kept
    | with_reducible apply State.holdRequest_kept
    | exact Part.sub hA (by decide)
    | intro _
    | with_reducible refine Kept.ite ?_ ?_
    | split
    | fail_if_no_progress refine Kept.record ?_ rfl rfl rfl rfl rfl rfl ⟨fun p hp => by cases p <;> first | exact rfl | exact ⟨rfl, rfl⟩ | exact ⟨rfl, trivial⟩ | exact ⟨trivial, rfl⟩ | exact absurd (hA (by decide)) hp⟩

theorem execCaravanBeatIssue_kept {s t : State} (job : Fin 4096) (seg : Fin 4096) (late : Nat) (e : execCaravanBeatIssue job seg late s = .next t) : Kept [.tielux, .jobs, .transport, .streams, .events, .headers, .free] s t := by
  have h := Kept.refl (A := [.tielux, .jobs, .transport, .streams, .events, .headers, .free]) s
  have hA := List.Subset.refl ([.tielux, .jobs, .transport, .streams, .events, .headers, .free] : List Part)
  unfold execCaravanBeatIssue at e
  all_goals first | contradiction | (cases e) | skip
  repeat' first
    | with_reducible assumption
    | exact Part.sub hA (by decide)
    | with_reducible apply State.beatIssue_kept

theorem State.beatArrival_kept {A : List Part} {s₀ s : State} (slot : Nat) (column : Nat) (h : Kept A s₀ s) (hA : [.clusters, .jobs] ⊆ A := by exact Part.sub (by assumption) (by decide)) : Kept A s₀ (State.beatArrival s slot column) := by
  unfold State.beatArrival
  dsimp only
  repeat' first
    | with_reducible assumption
    | with_reducible apply State.setJob_kept
    | with_reducible apply State.modCluster_kept
    | exact fun _ _ h => h
    | exact Part.sub hA (by decide)
    | split

theorem execCaravanBeatArrival_kept {s t : State} (job : Fin 4096) (column : Fin 8) (e : execCaravanBeatArrival job column s = .next t) : Kept [.clusters, .jobs] s t := by
  have h := Kept.refl (A := [.clusters, .jobs]) s
  have hA := List.Subset.refl ([.clusters, .jobs] : List Part)
  unfold execCaravanBeatArrival at e
  all_goals first | contradiction | (cases e) | skip
  repeat' first
    | with_reducible assumption
    | with_reducible apply State.beatArrival_kept

end Sys2Proof.Machine
end

