-- ==== Sys2Proof/Laws/Cluster.lean ====
section
/-! SUPPORT. What an operation on a cluster does, core by core (Machine/Operands.lean, `State.onCluster`). -/

set_option Elab.async false

namespace Sys2Proof.Machine

open Sys2Proof Sys2Proof.Safety

-- The proofs before this one are checked before the next ones start.
@[simp] theorem Core.lane_setLane (c : Core) (l k : Nat) (y : Lane) : (c.setLane l y).lane k = if k = l then y else c.lane k :=
  mget_mset _ _ _ _ _

@[simp] theorem Core.lane_modLane (c : Core) (l k : Nat) (f : Lane → Lane) : (c.modLane l f).lane k = if k = l then f (c.lane l) else c.lane k :=
  mget_mset _ _ _ _ _

theorem State.cluster_modCluster (s : State) (k i : Nat) (f : Cluster → Cluster) :
    (s.modCluster k f).cluster i = if i = k then f (s.cluster k) else s.cluster i := mget_mmod _ _ _ _ _

theorem State.job?_setJob (s : State) (k i : Nat) (j : Job) : (s.setJob k j).job? i = if i = k then some j else s.job? i := by
  unfold State.job? State.setJob
  exact mget_mset none _ k (some j) i

theorem State.cluster_setJob (s : State) (k i : Nat) (j : Job) : (s.setJob k j).cluster i = s.cluster i := rfl

/-- A fold over the positions of a list: the core that serves one of them and no other changes by its part of the operation, a core that
serves none stays, and what holds of the job and is kept by every part holds at the end. -/
theorem stepCore_foldl {x : Site} {f : Site → Nat → Work → Work} {I : Job → Prop} {F : Nat → Core → Core}
    (hI : ∀ pos w, I w.job → I (f x pos w).job) (hF : ∀ pos w, I w.job → (f x pos w).core = F pos w.core) :
    ∀ (l : List Nat) (acc : SMap Core × Job × Bool), l.Nodup → I acc.2.1 →
      I (l.foldl (stepCore x f) acc).2.1 ∧
      (∀ pos n, pos ∈ l → x.phys pos = some n → (∀ q ∈ l, x.phys q = some n → q = pos) →
        mget {} (l.foldl (stepCore x f) acc).1 n = F pos (mget {} acc.1 n)) ∧
      ∀ n, (∀ pos ∈ l, x.phys pos ≠ some n) → mget {} (l.foldl (stepCore x f) acc).1 n = mget {} acc.1 n
  | [], acc, _, hi => ⟨hi, fun pos n h => absurd h List.not_mem_nil, fun n _ => rfl⟩
  | p :: l, acc, hn, hi => by
    obtain ⟨hp, hn⟩ := List.nodup_cons.1 hn
    rw [List.foldl_cons]
    cases hx : x.phys p with
    | none =>
      have hs : stepCore x f acc p = acc := by simp only [stepCore, hx]
      rw [hs]
      obtain ⟨h1, h2, h3⟩ := stepCore_foldl hI hF l acc hn hi
      refine ⟨h1, fun pos n hm hq hu => ?_, fun n h => h3 n fun pos hm => h pos (List.mem_cons_of_mem _ hm)⟩
      rcases List.mem_cons.1 hm with rfl | hm
      · rw [hx] at hq
        cases hq
      · exact h2 pos n hm hq fun q hm => hu q (List.mem_cons_of_mem _ hm)
    | some m =>
      have hs : stepCore x f acc p = (mset {} acc.1 m (f x p { core := mget {} acc.1 m, job := acc.2.1, hit := acc.2.2 }).core,
          (f x p { core := mget {} acc.1 m, job := acc.2.1, hit := acc.2.2 }).job,
          (f x p { core := mget {} acc.1 m, job := acc.2.1, hit := acc.2.2 }).hit) := by simp only [stepCore, hx]
      have hi' : I (stepCore x f acc p).2.1 := by
        rw [hs]
        exact hI p _ hi
      obtain ⟨h1, h2, h3⟩ := stepCore_foldl hI hF l _ hn hi'
      refine ⟨h1, fun pos n hm hq hu => ?_, fun n h => ?_⟩
      · rcases List.mem_cons.1 hm with rfl | hm
        · rw [hx] at hq
          cases hq
          rw [h3 m fun q hq he => ?_, hs, mget_mset, if_pos rfl]
          · exact hF pos _ hi
          · have := hu q (List.mem_cons_of_mem _ hq) he
            exact hp (this ▸ hq)
        · rw [h2 pos n hm hq fun q hm => hu q (List.mem_cons_of_mem _ hm), hs, mget_mset, if_neg]
          rintro rfl
          have := hu p List.mem_cons_self hx
          exact hp (this ▸ hm)
      · rw [h3 n fun pos hm => h pos (List.mem_cons_of_mem _ hm), hs, mget_mset, if_neg]
        rintro rfl
        exact h p List.mem_cons_self hx

/-- An operation on a cluster that consumes no poisoned value: what each part does, as `InCluster` says it, and what holds of the job. -/
theorem State.onCluster_spec {s : State} {cl : ClusterRef} {x : Site} {j : Job} {f : Site → Nat → Work → Work} {g : SMap AddrGen → SMap AddrGen}
    {I : Job → Prop} {F : Nat → Core → Core} {P : Nat → Core → Core → Prop} (ha : Acts s cl x j)
    (hI : ∀ pos w, I w.job → I (f x pos w).job) (hF : ∀ pos w, I w.job → (f x pos w).core = F pos w.core) (hj : I j)
    (hh : ((List.range 64).foldl (stepCore x f) ((s.cluster cl.key).cores, j, false)).2.2 = false)
    (hP : ∀ pos c, P pos c (F pos c)) :
    InCluster s (s.onCluster cl f g) cl x g P ∧ ∃ k, (s.onCluster cl f g).job? x.slot = some k ∧ I k := by
  obtain ⟨hs, hjb⟩ := ha
  obtain ⟨h1, h2, h3⟩ := stepCore_foldl hI hF (List.range 64) ((s.cluster cl.key).cores, j, false) List.nodup_range hj
  have he : s.onCluster cl f g = (s.modCluster cl.key fun c =>
      { c with cores := ((List.range 64).foldl (stepCore x f) ((s.cluster cl.key).cores, j, false)).1, ags := g c.ags }).setJob x.slot
        ((List.range 64).foldl (stepCore x f) ((s.cluster cl.key).cores, j, false)).2.1 := by
    simp only [State.onCluster, hs, hjb, hh, Bool.false_eq_true, if_false]
  have hc : ∀ k, (s.onCluster cl f g).cluster k = if k = cl.key then
      { s.cluster cl.key with cores := ((List.range 64).foldl (stepCore x f) ((s.cluster cl.key).cores, j, false)).1, ags := g (s.cluster cl.key).ags }
      else s.cluster k := by
    intro k
    rw [he]
    rw [State.cluster_setJob, State.cluster_modCluster]
  refine ⟨⟨fun pos n hv => ?_, fun n hv => ?_, ?_, fun k hk => ?_, fun k hk => ?_, ?_, ⟨fun p hp => ?_⟩⟩, _, ?_, h1⟩
  · have := h2 pos n (List.mem_range.2 hv.1) hv.2.1 fun q hq => hv.2.2 q (List.mem_range.1 hq)
    unfold clusterCore
    rw [hc, if_pos rfl, this]
    exact hP pos _
  · unfold clusterCore
    rw [hc, if_pos rfl]
    exact h3 n fun pos hp => hv pos (List.mem_range.1 hp)
  · rw [hc, if_pos rfl]
  · rw [hc, if_neg hk]
  · rw [he, State.job?_setJob, if_neg hk]
    rfl
  · rw [hc, if_pos rfl]
  · rw [he]
    cases p <;> first | exact rfl | exact ⟨rfl, rfl⟩ | exact ⟨rfl, trivial⟩ | exact ⟨trivial, rfl⟩ | exact absurd (by decide) hp
  · rw [he, State.job?_setJob, if_pos rfl]

/-- The same for an operation that never consumes one. -/
theorem State.onCluster_clean {s : State} {cl : ClusterRef} {x : Site} {j : Job} {f : Site → Nat → Work → Work} {g : SMap AddrGen → SMap AddrGen}
    {I : Job → Prop} {F : Nat → Core → Core} {P : Nat → Core → Core → Prop} (ha : Acts s cl x j)
    (hI : ∀ pos w, I w.job → I (f x pos w).job) (hF : ∀ pos w, I w.job → (f x pos w).core = F pos w.core) (hj : I j)
    (hh : ∀ pos w, (f x pos w).hit = w.hit) (hP : ∀ pos c, P pos c (F pos c)) :
    InCluster s (s.onCluster cl f g) cl x g P ∧ ∃ k, (s.onCluster cl f g).job? x.slot = some k ∧ I k := by
  refine State.onCluster_spec ha hI hF hj ?_ hP
  have : ∀ (l : List Nat) (acc : SMap Core × Job × Bool), (l.foldl (stepCore x f) acc).2.2 = acc.2.2 := by
    intro l
    induction l with
    | nil => intro acc; rfl
    | cons p l ih =>
      intro acc
      rw [List.foldl_cons, ih]
      simp only [stepCore]
      split
      · rfl
      · exact hh _ _
  exact this _ _

/-- No two valid positions are served by one core. -/
def OneToOne (x : Site) : Prop := ∀ pos < 64, ∀ q < 64, ∀ n, x.phys pos = some n → x.phys q = some n → q = pos

/-- Positions `p` to 63 in turn, under a one-to-one core map: what holds of the job before each position, what each part does to its core,
and that none consumes a poisoned value. -/
theorem stepCore_run {x : Site} {f : Site → Nat → Work → Work} {I : Nat → Job → Prop} {P : Nat → Core → Core → Prop} {c0 : Nat → Core}
    (hone : OneToOne x)
    (hstep : ∀ pos n w, pos < 64 → x.phys pos = some n → w.core = c0 n → I pos w.job → w.hit = false →
      I (pos + 1) (f x pos w).job ∧ P pos w.core (f x pos w).core ∧ (f x pos w).hit = false)
    (hskip : ∀ pos, pos < 64 → x.phys pos = none → ∀ k, I pos k → I (pos + 1) k) :
    ∀ (m p : Nat) (acc : SMap Core × Job × Bool), p + m = 64 → I p acc.2.1 → acc.2.2 = false →
      (∀ pos n, p ≤ pos → pos < 64 → x.phys pos = some n → mget {} acc.1 n = c0 n) →
      I 64 ((List.range' p m).foldl (stepCore x f) acc).2.1 ∧ ((List.range' p m).foldl (stepCore x f) acc).2.2 = false ∧
      (∀ pos n, p ≤ pos → pos < 64 → x.phys pos = some n → P pos (c0 n) (mget {} ((List.range' p m).foldl (stepCore x f) acc).1 n)) ∧
      ∀ n, (∀ pos, p ≤ pos → pos < 64 → x.phys pos ≠ some n) →
        mget {} ((List.range' p m).foldl (stepCore x f) acc).1 n = mget {} acc.1 n
  | 0, p, acc, hp, hi, hh, hc => by
    have : p = 64 := by omega
    subst this
    exact ⟨hi, hh, fun pos n h1 h2 => absurd h2 (by omega), fun n _ => rfl⟩
  | m + 1, p, acc, hp, hi, hh, hc => by
    rw [List.range'_succ, List.foldl_cons]
    cases hx : x.phys p with
    | none =>
      have hs : stepCore x f acc p = acc := by simp only [stepCore, hx]
      rw [hs]
      obtain ⟨h1, h2, h3, h4⟩ := stepCore_run hone hstep hskip m (p + 1) acc (by omega) (hskip p (by omega) hx _ hi) hh
        fun pos n a => hc pos n (by omega)
      refine ⟨h1, h2, fun pos n a b e => ?_, fun n h => h4 n fun pos a => h pos (by omega)⟩
      rcases Nat.lt_or_eq_of_le a with a | rfl
      · exact h3 pos n (by omega) b e
      · rw [hx] at e
        cases e
    | some i =>
      have hs : stepCore x f acc p = (mset {} acc.1 i (f x p { core := mget {} acc.1 i, job := acc.2.1, hit := acc.2.2 }).core,
          (f x p { core := mget {} acc.1 i, job := acc.2.1, hit := acc.2.2 }).job,
          (f x p { core := mget {} acc.1 i, job := acc.2.1, hit := acc.2.2 }).hit) := by simp only [stepCore, hx]
      have hci : mget {} acc.1 i = c0 i := hc p i (Nat.le_refl _) (by omega) hx
      obtain ⟨hj, hP, hf⟩ := hstep p i { core := mget {} acc.1 i, job := acc.2.1, hit := acc.2.2 } (by omega) hx hci hi hh
      obtain ⟨h1, h2, h3, h4⟩ := stepCore_run hone hstep hskip m (p + 1) (stepCore x f acc p) (by omega) (by rw [hs]; exact hj)
        (by rw [hs]; exact hf) (by
          intro pos n a b e
          rw [hs, mget_mset, if_neg]
          · exact hc pos n (by omega) b e
          · rintro rfl
            have := hone p (by omega) pos b n hx e
            omega)
      refine ⟨h1, h2, fun pos n a b e => ?_, fun n h => ?_⟩
      · rcases Nat.lt_or_eq_of_le a with a | rfl
        · exact h3 pos n (by omega) b e
        · rw [hx] at e
          cases e
          rw [h4 i, hs, mget_mset, if_pos rfl]
          · rw [hci] at hP ⊢
            exact hP
          · intro pos a b e
            have := hone p (by omega) pos b i hx e
            omega
      · rw [h4 n fun pos a => h pos (by omega), hs, mget_mset, if_neg]
        rintro rfl
        exact h p (Nat.le_refl _) (by omega) hx

/-- An operation on a cluster with a one-to-one core map, position after position. -/
theorem State.onCluster_run {s : State} {cl : ClusterRef} {x : Site} {j : Job} {f : Site → Nat → Work → Work} {g : SMap AddrGen → SMap AddrGen}
    {I : Nat → Job → Prop} {P : Nat → Core → Core → Prop} (ha : Acts s cl x j) (hone : OneToOne x) (h0 : I 0 j)
    (hstep : ∀ pos n w, pos < 64 → x.phys pos = some n → w.core = clusterCore s cl n → I pos w.job → w.hit = false →
      I (pos + 1) (f x pos w).job ∧ P pos w.core (f x pos w).core ∧ (f x pos w).hit = false)
    (hskip : ∀ pos, pos < 64 → x.phys pos = none → ∀ k, I pos k → I (pos + 1) k) :
    InCluster s (s.onCluster cl f g) cl x g P ∧ ∃ k, (s.onCluster cl f g).job? x.slot = some k ∧ I 64 k := by
  obtain ⟨hs, hjb⟩ := ha
  obtain ⟨h1, hh, h2, h3⟩ := stepCore_run (c0 := fun n => mget {} (s.cluster cl.key).cores n) hone hstep hskip 64 0
    ((s.cluster cl.key).cores, j, false) rfl h0 rfl fun _ _ _ _ _ => rfl
  rw [← List.range_eq_range'] at h1 hh h2 h3
  have he : s.onCluster cl f g = (s.modCluster cl.key fun c =>
      { c with cores := ((List.range 64).foldl (stepCore x f) ((s.cluster cl.key).cores, j, false)).1, ags := g c.ags }).setJob x.slot
        ((List.range 64).foldl (stepCore x f) ((s.cluster cl.key).cores, j, false)).2.1 := by
    simp only [State.onCluster, hs, hjb, hh, Bool.false_eq_true, if_false]
  have hc : ∀ k, (s.onCluster cl f g).cluster k = if k = cl.key then
      { s.cluster cl.key with cores := ((List.range 64).foldl (stepCore x f) ((s.cluster cl.key).cores, j, false)).1, ags := g (s.cluster cl.key).ags }
      else s.cluster k := by
    intro k
    rw [he, State.cluster_setJob, State.cluster_modCluster]
  refine ⟨⟨fun pos n hv => ?_, fun n hv => ?_, ?_, fun k hk => ?_, fun k hk => ?_, ?_, ⟨fun p hp => ?_⟩⟩, _, ?_, h1⟩
  · have := h2 pos n (Nat.zero_le _) hv.1 hv.2.1
    unfold clusterCore
    rw [hc, if_pos rfl]
    exact this
  · unfold clusterCore
    rw [hc, if_pos rfl]
    exact h3 n fun pos _ hp => hv pos hp
  · rw [hc, if_pos rfl]
  · rw [hc, if_neg hk]
  · rw [he, State.job?_setJob, if_neg hk]
    rfl
  · rw [hc, if_pos rfl]
  · rw [he]
    cases p <;> first | exact rfl | exact ⟨rfl, rfl⟩ | exact ⟨rfl, trivial⟩ | exact ⟨trivial, rfl⟩ | exact absurd (by decide) hp
  · rw [he, State.job?_setJob, if_pos rfl]

/-- A fold over lanes, each changed by itself. -/
theorem Core.foldl_lanes {f : Core → Nat → Core} {F : Nat → Lane → Lane}
    (hf : ∀ c l k, (f c l).lane k = if k = l then F l (c.lane l) else c.lane k) :
    ∀ (ls : List Nat) (c : Core), ls.Nodup → ∀ k, (ls.foldl f c).lane k = if k ∈ ls then F k (c.lane k) else c.lane k
  | [], c, _, k => by simp
  | l :: ls, c, hn, k => by
    obtain ⟨hl, hn⟩ := List.nodup_cons.1 hn
    rw [List.foldl_cons, Core.foldl_lanes hf ls _ hn k, hf]
    by_cases hk : k = l
    · subst hk
      rw [if_neg hl, if_pos rfl, if_pos List.mem_cons_self]
    · simp only [List.mem_cons, hk, if_false, false_or]

theorem sameButLanes_refl (c : Core) : sameButLanes c c := rfl

theorem sameButLanes_trans {c d e : Core} (h : sameButLanes c d) (k : sameButLanes d e) : sameButLanes c e := by
  unfold sameButLanes at *
  rw [k, h]

theorem sameButLanes_setLane (c : Core) (l : Nat) (y : Lane) : sameButLanes c (c.setLane l y) := rfl

theorem sameButLanes_modLane (c : Core) (l : Nat) (f : Lane → Lane) : sameButLanes c (c.modLane l f) := rfl

/-- A fold that changes lanes only. -/
theorem sameButLanes_foldl {α : Type} {f : Core → α → Core} (hf : ∀ c a, sameButLanes c (f c a)) :
    ∀ (l : List α) (c : Core), sameButLanes c (l.foldl f c)
  | [], c => sameButLanes_refl c
  | a :: l, c => sameButLanes_trans (hf c a) (sameButLanes_foldl hf l (f c a))

/-- The core of a fold of operations that each change a core alone. -/
theorem Work.foldl_core {α : Type} {f : Work → α → Work} {g : Core → α → Core} (hf : ∀ w a, (f w a).core = g w.core a) :
    ∀ (l : List α) (w : Work), (l.foldl f w).core = l.foldl g w.core
  | [], _ => rfl
  | a :: l, w => by rw [List.foldl_cons, List.foldl_cons, Work.foldl_core hf l, hf]

/-- What a fold keeps of a job. -/
theorem Work.foldl_job {α : Type} {f : Work → α → Work} {I : Job → Prop} (hf : ∀ w a, I w.job → I (f w a).job) :
    ∀ (l : List α) (w : Work), I w.job → I (l.foldl f w).job
  | [], _, h => h
  | a :: l, w, h => Work.foldl_job hf l (f w a) (hf w a h)

/-- A fold that consumes no poisoned value. -/
theorem Work.foldl_hit {α : Type} {f : Work → α → Work} (hf : ∀ w a, (f w a).hit = w.hit) :
    ∀ (l : List α) (w : Work), (l.foldl f w).hit = w.hit
  | [], _ => rfl
  | a :: l, w => (Work.foldl_hit hf l (f w a)).trans (hf w a)

theorem Site.lanes_nodup (x : Site) (pos : Nat) (c : Core) (lm : Fin 4) : (x.lanes pos c lm).Nodup := by
  unfold Site.lanes
  split
  · exact List.nodup_nil
  · exact List.Nodup.filter _ List.nodup_range

end Sys2Proof.Machine
end

