-- ==== Sys2Proof/Laws/Draw.lean ====
section
/-! SUPPORT. What the operations of Machine/Draw.lean keep (Laws/Kept.lean). -/

set_option Elab.async false

namespace Sys2Proof.Machine

open Sys2Proof Sys2Proof.Safety

-- The proofs before this one are checked before the next ones start.
theorem State.drwBin_kept {A : List Part} {s₀ s : State} (o : DrawOps) (h : Kept A s₀ s) (hA : [.clusters, .tielux, .jobs, .objects, .transport, .streams, .events, .headers, .free] ⊆ A := by exact Part.sub (by assumption) (by decide)) : Kept A s₀ (State.drwBin s o) := by
  unfold State.drwBin
  repeat' first
    | with_reducible assumption
    | with_reducible apply State.onCluster_kept

theorem execDrwBin_kept {s t : State} (o : DrawOps) (e : execDrwBin o s = .next t) : Kept [.clusters, .tielux, .jobs, .objects, .transport, .streams, .events, .headers, .free] s t := by
  have h := Kept.refl (A := [.clusters, .tielux, .jobs, .objects, .transport, .streams, .events, .headers, .free]) s
  have hA := List.Subset.refl ([.clusters, .tielux, .jobs, .objects, .transport, .streams, .events, .headers, .free] : List Part)
  unfold execDrwBin at e
  all_goals first | contradiction | (cases e) | skip
  repeat' first
    | with_reducible assumption
    | with_reducible apply State.drwBin_kept

theorem State.drwCat_kept {A : List Part} {s₀ s : State} (o : DrawOps) (h : Kept A s₀ s) (hA : [.clusters, .tielux, .jobs, .objects, .transport, .streams, .events, .headers, .free] ⊆ A := by exact Part.sub (by assumption) (by decide)) : Kept A s₀ (State.drwCat s o) := by
  unfold State.drwCat
  repeat' first
    | with_reducible assumption
    | with_reducible apply State.onCluster_kept

theorem execDrwCat_kept {s t : State} (o : DrawOps) (e : execDrwCat o s = .next t) : Kept [.clusters, .tielux, .jobs, .objects, .transport, .streams, .events, .headers, .free] s t := by
  have h := Kept.refl (A := [.clusters, .tielux, .jobs, .objects, .transport, .streams, .events, .headers, .free]) s
  have hA := List.Subset.refl ([.clusters, .tielux, .jobs, .objects, .transport, .streams, .events, .headers, .free] : List Part)
  unfold execDrwCat at e
  all_goals first | contradiction | (cases e) | skip
  repeat' first
    | with_reducible assumption
    | with_reducible apply State.drwCat_kept

theorem State.drwCatm_kept {A : List Part} {s₀ s : State} (o : DrawOps) (stage : Nat) (h : Kept A s₀ s) (hA : [.clusters, .tielux, .jobs, .objects, .transport, .streams, .events, .headers, .free] ⊆ A := by exact Part.sub (by assumption) (by decide)) : Kept A s₀ (State.drwCatm s o stage) := by
  unfold State.drwCatm
  repeat' first
    | with_reducible assumption
    | with_reducible apply State.onCluster_kept

theorem execDrwCatm_kept {s t : State} (o : DrawOps) (stage : Fin 3) (e : execDrwCatm o stage s = .next t) : Kept [.clusters, .tielux, .jobs, .objects, .transport, .streams, .events, .headers, .free] s t := by
  have h := Kept.refl (A := [.clusters, .tielux, .jobs, .objects, .transport, .streams, .events, .headers, .free]) s
  have hA := List.Subset.refl ([.clusters, .tielux, .jobs, .objects, .transport, .streams, .events, .headers, .free] : List Part)
  unfold execDrwCatm at e
  all_goals first | contradiction | (cases e) | skip
  repeat' first
    | with_reducible assumption
    | with_reducible apply State.drwCatm_kept

theorem State.drwGau_kept {A : List Part} {s₀ s : State} (o : DrawOps) (h : Kept A s₀ s) (hA : [.clusters, .tielux, .jobs, .objects, .transport, .streams, .events, .headers, .free] ⊆ A := by exact Part.sub (by assumption) (by decide)) : Kept A s₀ (State.drwGau s o) := by
  unfold State.drwGau
  repeat' first
    | with_reducible assumption
    | with_reducible apply State.onCluster_kept

theorem execDrwGau_kept {s t : State} (o : DrawOps) (e : execDrwGau o s = .next t) : Kept [.clusters, .tielux, .jobs, .objects, .transport, .streams, .events, .headers, .free] s t := by
  have h := Kept.refl (A := [.clusters, .tielux, .jobs, .objects, .transport, .streams, .events, .headers, .free]) s
  have hA := List.Subset.refl ([.clusters, .tielux, .jobs, .objects, .transport, .streams, .events, .headers, .free] : List Part)
  unfold execDrwGau at e
  all_goals first | contradiction | (cases e) | skip
  repeat' first
    | with_reducible assumption
    | with_reducible apply State.drwGau_kept

end Sys2Proof.Machine
end

