-- ==== Sys2Proof/Laws/Exch.lean ====
section
/-! SUPPORT. What the operations of Machine/Exch.lean keep (Laws/Kept.lean). -/

set_option Elab.async false

namespace Sys2Proof.Machine

open Sys2Proof Sys2Proof.Safety

-- The proofs before this one are checked before the next ones start.
theorem State.excPair_kept {A : List Part} {s₀ s : State} (o : ExcOps) (h : Kept A s₀ s) (hA : [.clusters, .tielux, .jobs, .objects, .transport, .streams, .events, .headers, .free] ⊆ A := by exact Part.sub (by assumption) (by decide)) : Kept A s₀ (State.excPair s o) := by
  unfold State.excPair
  repeat' first
    | with_reducible assumption
    | with_reducible apply State.onCluster_kept

theorem execExcPair_kept {s t : State} (o : ExcOps) (e : execExcPair o s = .next t) : Kept [.clusters, .tielux, .jobs, .objects, .transport, .streams, .events, .headers, .free] s t := by
  have h := Kept.refl (A := [.clusters, .tielux, .jobs, .objects, .transport, .streams, .events, .headers, .free]) s
  have hA := List.Subset.refl ([.clusters, .tielux, .jobs, .objects, .transport, .streams, .events, .headers, .free] : List Part)
  unfold execExcPair at e
  all_goals first | contradiction | (cases e) | skip
  repeat' first
    | with_reducible assumption
    | with_reducible apply State.excPair_kept

theorem State.excBeta_kept {A : List Part} {s₀ s : State} (cl : ClusterRef) (lm : Fin 4) (dd : Fin 4) (h : Kept A s₀ s) (hA : [.clusters, .tielux, .jobs, .objects, .transport, .streams, .events, .headers, .free] ⊆ A := by exact Part.sub (by assumption) (by decide)) : Kept A s₀ (State.excBeta s cl lm dd) := by
  unfold State.excBeta
  repeat' first
    | with_reducible assumption
    | with_reducible apply State.onCluster_kept

theorem execExcBeta_kept {s t : State} (cl : ClusterRef) (lm : Fin 4) (dd : Fin 4) (e : execExcBeta cl lm dd s = .next t) : Kept [.clusters, .tielux, .jobs, .objects, .transport, .streams, .events, .headers, .free] s t := by
  have h := Kept.refl (A := [.clusters, .tielux, .jobs, .objects, .transport, .streams, .events, .headers, .free]) s
  have hA := List.Subset.refl ([.clusters, .tielux, .jobs, .objects, .transport, .streams, .events, .headers, .free] : List Part)
  unfold execExcBeta at e
  all_goals first | contradiction | (cases e) | skip
  repeat' first
    | with_reducible assumption
    | with_reducible apply State.excBeta_kept

theorem State.excWgt_kept {A : List Part} {s₀ s : State} (o : ExcOps) (pass : Bool) (h : Kept A s₀ s) (hA : [.clusters, .tielux, .jobs, .objects, .transport, .streams, .events, .headers, .free] ⊆ A := by exact Part.sub (by assumption) (by decide)) : Kept A s₀ (State.excWgt s o pass) := by
  unfold State.excWgt
  repeat' first
    | with_reducible assumption
    | with_reducible apply State.onCluster_kept

theorem execExcWgt_kept {s t : State} (o : ExcOps) (pass : Bool) (e : execExcWgt o pass s = .next t) : Kept [.clusters, .tielux, .jobs, .objects, .transport, .streams, .events, .headers, .free] s t := by
  have h := Kept.refl (A := [.clusters, .tielux, .jobs, .objects, .transport, .streams, .events, .headers, .free]) s
  have hA := List.Subset.refl ([.clusters, .tielux, .jobs, .objects, .transport, .streams, .events, .headers, .free] : List Part)
  unfold execExcWgt at e
  all_goals first | contradiction | (cases e) | skip
  repeat' first
    | with_reducible assumption
    | with_reducible apply State.excWgt_kept

theorem State.excRsmp_kept {A : List Part} {s₀ s : State} (o : ExcOps) (h : Kept A s₀ s) (hA : [.clusters, .tielux, .jobs, .objects, .transport, .streams, .events, .headers, .free] ⊆ A := by exact Part.sub (by assumption) (by decide)) : Kept A s₀ (State.excRsmp s o) := by
  unfold State.excRsmp
  repeat' first
    | with_reducible assumption
    | with_reducible apply State.onCluster_kept

theorem execExcRsmp_kept {s t : State} (o : ExcOps) (e : execExcRsmp o s = .next t) : Kept [.clusters, .tielux, .jobs, .objects, .transport, .streams, .events, .headers, .free] s t := by
  have h := Kept.refl (A := [.clusters, .tielux, .jobs, .objects, .transport, .streams, .events, .headers, .free]) s
  have hA := List.Subset.refl ([.clusters, .tielux, .jobs, .objects, .transport, .streams, .events, .headers, .free] : List Part)
  unfold execExcRsmp at e
  all_goals first | contradiction | (cases e) | skip
  repeat' first
    | with_reducible assumption
    | with_reducible apply State.excRsmp_kept

end Sys2Proof.Machine
end

