-- ==== Sys2Proof/Laws/Integrity.lean ====
section
/-! SUPPORT. What the operations of Machine/Integrity.lean keep (Laws/Kept.lean). -/

set_option Elab.async false

namespace Sys2Proof.Machine

open Sys2Proof Sys2Proof.Safety

-- The proofs before this one are checked before the next ones start.
theorem State.retractFrom_kept {A : List Part} {s₀ s : State} (slot : Nat) (epoch : Nat) (h : Kept A s₀ s) (hA : [.jobs, .transport, .events, .headers] ⊆ A := by exact Part.sub (by assumption) (by decide)) : Kept A s₀ (State.retractFrom s slot epoch) := by
  unfold State.retractFrom
  dsimp only
  repeat' first
    | with_reducible assumption
    | with_reducible apply State.log_kept
    | with_reducible apply State.toNeighbours_kept
    | with_reducible apply State.setJob_kept
    | exact Part.sub hA (by decide)
    | with_reducible refine Kept.ite ?_ ?_
    | split

theorem State.resendHalo_kept {A : List Part} {s₀ s : State} (slot : Nat) (epoch : Nat) (h : Kept A s₀ s) (hA : [.jobs, .transport] ⊆ A := by exact Part.sub (by assumption) (by decide)) : Kept A s₀ (State.resendHalo s slot epoch) := by
  unfold State.resendHalo
  dsimp only
  repeat' first
    | with_reducible assumption
    | with_reducible apply State.toNeighbour_kept
    | with_reducible apply State.setJob_kept
    | exact Part.sub hA (by decide)
    | with_reducible refine Kept.foldl ?_ _ ?_
    | intro _
    | split

theorem State.failCheck_kept {A : List Part} {s₀ s : State} (slot : Nat) (step : Nat) (h : Kept A s₀ s) (hA : [.clusters, .tielux, .jobs, .objects, .transport, .streams, .events, .headers, .integrity, .free] ⊆ A := by exact Part.sub (by assumption) (by decide)) : Kept A s₀ (State.failCheck s slot step) := by
  unfold State.failCheck
  repeat' first
    | with_reducible assumption
    | with_reducible apply State.failStep_kept
    | with_reducible apply State.retractFrom_kept
    | exact Part.sub hA (by decide)
    | split

theorem State.suspect_kept {A : List Part} {s₀ s : State} (u : Option PhysCore) (h : Kept A s₀ s) (hA : [.transport, .events, .headers, .integrity] ⊆ A := by exact Part.sub (by assumption) (by decide)) : Kept A s₀ (State.suspect s u) := by
  unfold State.suspect
  repeat' first
    | with_reducible assumption
    | with_reducible apply State.observe_kept
    | split

theorem State.suspectAndCharge_kept {A : List Part} {s₀ s : State} (u : Option PhysCore) (h : Kept A s₀ s) (hA : [.clusters, .dies, .tielux, .jobs, .transport, .events, .health, .headers, .integrity] ⊆ A := by exact Part.sub (by assumption) (by decide)) : Kept A s₀ (State.suspectAndCharge s u) := by
  unfold State.suspectAndCharge
  repeat' first
    | with_reducible assumption
    | with_reducible apply State.chargeUnit_kept
    | with_reducible apply State.observe_kept
    | exact Part.sub hA (by decide)
    | split

theorem State.checkerDone_kept {A : List Part} {s₀ s : State} (slot : Nat) (j : Job) (c : Check) (digest : DWord) (h : Kept A s₀ s) (hA : [.clusters, .dies, .tielux, .jobs, .objects, .transport, .streams, .events, .health, .headers, .integrity, .free] ⊆ A := by exact Part.sub (by assumption) (by decide)) : Kept A s₀ (State.checkerDone s slot j c digest) := by
  unfold State.checkerDone
  dsimp only
  repeat' first
    | with_reducible assumption
    | with_reducible apply State.setJob_kept
    | with_reducible apply State.onIntegrity_kept
    | with_reducible apply State.log_kept
    | with_reducible apply State.failCheck_kept
    | with_reducible apply State.suspectAndCharge_kept
    | with_reducible apply State.modJob_kept
    | with_reducible apply State.demote_kept
    | exact Part.sub hA (by decide)
    | with_reducible refine Kept.ite ?_ ?_

theorem State.majority_kept {A : List Part} {s₀ s : State} (slot : Nat) (j : Job) (c : Check) (digest : DWord) (h : Kept A s₀ s) (hA : [.clusters, .tielux, .jobs, .objects, .transport, .streams, .events, .headers, .integrity, .free] ⊆ A := by exact Part.sub (by assumption) (by decide)) : Kept A s₀ (State.majority s slot j c digest) := by
  unfold State.majority
  dsimp only
  repeat' first
    | with_reducible assumption
    | with_reducible apply State.failCheck_kept
    | with_reducible apply State.retractFrom_kept
    | with_reducible apply State.setJob_kept
    | with_reducible apply State.rewindTo_kept
    | with_reducible apply State.log_kept
    | with_reducible apply State.resendHalo_kept
    | exact Part.sub hA (by decide)
    | with_reducible refine Kept.ite ?_ ?_
    | split

theorem State.thirdDone_kept {A : List Part} {s₀ s : State} (slot : Nat) (j : Job) (c : Check) (digest : DWord) (h : Kept A s₀ s) (hA : [.clusters, .dies, .tielux, .jobs, .objects, .transport, .streams, .events, .health, .headers, .integrity, .free] ⊆ A := by exact Part.sub (by assumption) (by decide)) : Kept A s₀ (State.thirdDone s slot j c digest) := by
  unfold State.thirdDone
  dsimp only
  repeat' first
    | with_reducible assumption
    | with_reducible apply State.suspectAndCharge_kept
    | with_reducible apply State.setJob_kept
    | with_reducible apply State.majority_kept
    | with_reducible apply State.failCheck_kept
    | with_reducible apply State.suspect_kept
    | exact Part.sub hA (by decide)
    | with_reducible refine Kept.ite ?_ ?_

theorem State.checkResolve_kept {A : List Part} {s₀ s : State} (slot : Nat) (core : LogicalCore) (stage : ReplayStage) (digest : DWord) (h : Kept A s₀ s) (hA : [.clusters, .dies, .tielux, .jobs, .objects, .transport, .streams, .events, .health, .headers, .integrity, .free] ⊆ A := by exact Part.sub (by assumption) (by decide)) : Kept A s₀ (State.checkResolve s slot core stage digest) := by
  unfold State.checkResolve
  dsimp only
  repeat' first
    | with_reducible assumption
    | with_reducible apply State.onIntegrity_kept
    | with_reducible apply State.checkerDone_kept
    | with_reducible apply State.thirdDone_kept
    | exact Part.sub hA (by decide)
    | with_reducible refine Kept.ite ?_ ?_
    | split

theorem execCheckResolve_kept {s t : State} (job : Fin 4096) (core : LogicalCore) (stage : ReplayStage) (digest : DWord) (e : execCheckResolve job core stage digest s = .next t) : Kept [.clusters, .dies, .tielux, .jobs, .objects, .transport, .streams, .events, .health, .headers, .integrity, .free] s t := by
  have h := Kept.refl (A := [.clusters, .dies, .tielux, .jobs, .objects, .transport, .streams, .events, .health, .headers, .integrity, .free]) s
  have hA := List.Subset.refl ([.clusters, .dies, .tielux, .jobs, .objects, .transport, .streams, .events, .health, .headers, .integrity, .free] : List Part)
  unfold execCheckResolve at e
  all_goals first | contradiction | (cases e) | skip
  repeat' first
    | with_reducible assumption
    | with_reducible apply State.checkResolve_kept

theorem State.copyDone_kept {A : List Part} {s₀ s : State} (cl : ClusterRef) (n : Nat) (h : Kept A s₀ s) (hA : [.clusters] ⊆ A := by exact Part.sub (by assumption) (by decide)) : Kept A s₀ (State.copyDone s cl n) := by
  unfold State.copyDone
  split
  · exact h
  · rename_i q hq
    split
    · exact h
    · split
      · refine State.modCluster_kept _ _ h fun c e x => mapOk_mark x fun r hr => ?_
        cases hr
        exact ⟨q, by rw [e]; exact hq, rfl, rfl, rfl⟩
      · exact State.modCluster_kept _ _ h fun c e x => Cluster.switch_mapOk x (by rw [e]; exact hq)

theorem execOasisCopyDone_kept {s t : State} (cl : ClusterRef) (spare : Bool) (e : execOasisCopyDone cl spare s = .next t) : Kept [.clusters] s t := by
  have h := Kept.refl (A := [.clusters]) s
  have hA := List.Subset.refl ([.clusters] : List Part)
  unfold execOasisCopyDone at e
  repeat' split at e
  all_goals first | contradiction | (cases e) | skip
  repeat' first
    | with_reducible assumption
    | with_reducible apply State.copyDone_kept

theorem State.clusterDegrade_kept {A : List Part} {s₀ s : State} (cl : ClusterRef) (h : Kept A s₀ s) (hA : [.clusters, .halves, .transport, .events, .headers] ⊆ A := by exact Part.sub (by assumption) (by decide)) : Kept A s₀ (State.clusterDegrade s cl) := by
  unfold State.clusterDegrade
  dsimp only
  repeat' first
    | with_reducible assumption
    | with_reducible apply State.buildMap_kept
    | with_reducible apply State.modHalf_kept
    | with_reducible apply State.log_kept
    | exact Part.sub hA (by decide)
    | with_reducible refine Kept.ite ?_ ?_

theorem execClusterDegraded_kept {s t : State} (cl : ClusterRef) (e : execClusterDegraded cl s = .next t) : Kept [.clusters, .halves, .transport, .events, .headers] s t := by
  have h := Kept.refl (A := [.clusters, .halves, .transport, .events, .headers]) s
  have hA := List.Subset.refl ([.clusters, .halves, .transport, .events, .headers] : List Part)
  unfold execClusterDegraded at e
  all_goals first | contradiction | (cases e) | skip
  repeat' first
    | with_reducible assumption
    | with_reducible apply State.clusterDegrade_kept

theorem State.observationEnd_kept {A : List Part} {s₀ s : State} (u : UnitRef) (h : Kept A s₀ s) (hA : [.health, .integrity] ⊆ A := by exact Part.sub (by assumption) (by decide)) : Kept A s₀ (State.observationEnd s u) := by
  unfold State.observationEnd
  dsimp only
  repeat' first
    | with_reducible assumption
    | with_reducible apply State.onIntegrity_kept
    | with_reducible apply State.onJournal_kept
    | exact ⟨rfl, rfl, rfl, rfl, rfl, Nat.le_refl _, fun _ h => h, fun p hp => by cases p <;> first | exact rfl | exact trivial | exact absurd (hA (by decide)) hp⟩
    | exact Part.sub hA (by decide)
    | with_reducible refine Kept.ite ?_ ?_
    | split

theorem execObservationEnd_kept {s t : State} (unit : UnitRef) (e : execObservationEnd unit s = .next t) : Kept [.health, .integrity] s t := by
  have h := Kept.refl (A := [.health, .integrity]) s
  have hA := List.Subset.refl ([.health, .integrity] : List Part)
  unfold execObservationEnd at e
  all_goals first | contradiction | (cases e) | skip
  repeat' first
    | with_reducible assumption
    | with_reducible apply State.observationEnd_kept

theorem State.kakComplete_kept {A : List Part} {s₀ s : State} (p : PhysCore) (kernel : Nat) (digest : DWord) (h : Kept A s₀ s) (hA : [.clusters, .dies, .tielux, .jobs, .transport, .events, .health, .headers, .integrity] ⊆ A := by exact Part.sub (by assumption) (by decide)) : Kept A s₀ (State.kakComplete s p kernel digest) := by
  unfold State.kakComplete
  dsimp only
  repeat' first
    | with_reducible assumption
    | with_reducible apply State.modDie_kept
    | with_reducible apply State.onIntegrity_kept
    | with_reducible apply State.chargeUnit_kept
    | with_reducible apply State.log_kept
    | exact Part.sub hA (by decide)
    | with_reducible refine Kept.ite ?_ ?_

theorem execKakComplete_kept {s t : State} (core : PhysCore) (kernel : Fin 16) (digest : DWord) (e : execKakComplete core kernel digest s = .next t) : Kept [.clusters, .dies, .tielux, .jobs, .transport, .events, .health, .headers, .integrity] s t := by
  have h := Kept.refl (A := [.clusters, .dies, .tielux, .jobs, .transport, .events, .health, .headers, .integrity]) s
  have hA := List.Subset.refl ([.clusters, .dies, .tielux, .jobs, .transport, .events, .health, .headers, .integrity] : List Part)
  unfold execKakComplete at e
  all_goals first | contradiction | (cases e) | skip
  repeat' first
    | with_reducible assumption
    | with_reducible apply State.kakComplete_kept

theorem execKakTimeout_kept {s t : State} (die : Fin 6) (e : execKakTimeout die s = .next t) : Kept [.dies] s t := by
  have h := Kept.refl (A := [.dies]) s
  have hA := List.Subset.refl ([.dies] : List Part)
  unfold execKakTimeout at e
  all_goals first | contradiction | (cases e) | skip
  repeat' first
    | with_reducible assumption
    | with_reducible apply State.modDie_kept

theorem State.repairCopy_kept {A : List Part} {s₀ s : State} (j : Job) (from_ : PreloadRun) (r : PreloadRun) (h : Kept A s₀ s) (hA : [.clusters, .dies, .tielux, .jobs, .transport, .events, .health, .headers, .integrity] ⊆ A := by exact Part.sub (by assumption) (by decide)) : Kept A s₀ (State.repairCopy s j from_ r) := by
  unfold State.repairCopy
  dsimp only
  repeat' first
    | with_reducible assumption
    | with_reducible apply State.chargeUnit_kept
    | with_reducible apply State.modCluster_kept
    | exact fun _ _ h => h
    | exact Part.sub hA (by decide)
    | split

theorem State.compareSet_kept {A : List Part} {s₀ s t : State} {j : Job} {set : List PreloadRun} {v : Bool} (h : Kept A s₀ s) (e : State.compareSet s j set = some (t, v)) (hA : [.clusters, .dies, .tielux, .jobs, .transport, .events, .health, .headers, .integrity] ⊆ A := by exact Part.sub (by assumption) (by decide)) : Kept A s₀ t := by
  unfold State.compareSet at e
  dsimp only at e
  repeat' split at e
  all_goals first | contradiction | (cases e) | skip
  repeat' first
    | with_reducible assumption
    | with_reducible apply State.repairCopy_kept
    | with_reducible refine Kept.foldl ?_ _ ?_
    | intro _

theorem compareSets_kept {A : List Part} {s₀ s : State} {j : Job} {l : List (List PreloadRun)} (h : Kept A s₀ s)
    (hA : [.clusters, .dies, .tielux, .jobs, .transport, .events, .health, .headers, .integrity] ⊆ A := by exact Part.sub (by assumption) (by decide)) :
    Kept A s₀ (compareSets j l s).1 := by
  induction l generalizing s with
  | nil => exact h
  | cons x l ih =>
    rw [compareSets]
    split
    · exact ih h
    · rename_i hk
      exact ih (State.compareSet_kept h hk)

theorem State.copyRepaired_kept {A : List Part} {s₀ s : State} (slot : Nat) (j : Job) (prev : Nat) (h : Kept A s₀ s) (hA : [.jobs, .transport, .events, .headers] ⊆ A := by exact Part.sub (by assumption) (by decide)) : Kept A s₀ (State.copyRepaired s slot j prev) := by
  unfold State.copyRepaired
  repeat' first
    | with_reducible assumption
    | with_reducible apply State.log_kept
    | with_reducible apply State.modJob_kept
    | exact Part.sub hA (by decide)

theorem State.copyCompare_kept {A : List Part} {s₀ s : State} (slot : Nat) (h : Kept A s₀ s) (hA : [.clusters, .dies, .tielux, .jobs, .objects, .transport, .streams, .events, .health, .headers, .integrity, .free] ⊆ A := by exact Part.sub (by assumption) (by decide)) : Kept A s₀ (State.copyCompare s slot) := by
  unfold State.copyCompare
  try dsimp only
  repeat' first
    | with_reducible assumption
    | with_reducible apply State.endJob_kept
    | with_reducible apply compareSets_kept
    | with_reducible apply State.copyRepaired_kept
    | exact Part.sub hA (by decide)
    | intro _
    | with_reducible refine Kept.ite ?_ ?_
    | split

theorem execCopyDigestCompare_kept {s t : State} (job : Fin 4096) (e : execCopyDigestCompare job s = .next t) : Kept [.clusters, .dies, .tielux, .jobs, .objects, .transport, .streams, .events, .health, .headers, .integrity, .free] s t := by
  have h := Kept.refl (A := [.clusters, .dies, .tielux, .jobs, .objects, .transport, .streams, .events, .health, .headers, .integrity, .free]) s
  have hA := List.Subset.refl ([.clusters, .dies, .tielux, .jobs, .objects, .transport, .streams, .events, .health, .headers, .integrity, .free] : List Part)
  unfold execCopyDigestCompare at e
  all_goals first | contradiction | (cases e) | skip
  repeat' first
    | with_reducible assumption
    | with_reducible apply State.copyCompare_kept

theorem State.hangReset_kept {A : List Part} {s₀ s : State} (xh : Nat) (h : Kept A s₀ s) (hA : [.clusters, .halves, .dies, .tielux, .jobs, .transport, .streams, .events, .starts, .headers] ⊆ A := by exact Part.sub (by assumption) (by decide)) : Kept A s₀ (State.hangReset s xh) := by
  unfold State.hangReset
  repeat' first
    | with_reducible assumption
    | with_reducible apply State.resetDie_kept
    | with_reducible apply State.log_kept
    | exact Part.sub hA (by decide)
    | with_reducible refine Kept.ite ?_ ?_
    | split

theorem execHangReset_kept {s t : State} (half : Fin 12) (e : execHangReset half s = .next t) : Kept [.clusters, .halves, .dies, .tielux, .jobs, .transport, .streams, .events, .starts, .headers] s t := by
  have h := Kept.refl (A := [.clusters, .halves, .dies, .tielux, .jobs, .transport, .streams, .events, .starts, .headers]) s
  have hA := List.Subset.refl ([.clusters, .halves, .dies, .tielux, .jobs, .transport, .streams, .events, .starts, .headers] : List Part)
  unfold execHangReset at e
  all_goals first | contradiction | (cases e) | skip
  repeat' first
    | with_reducible assumption
    | with_reducible apply State.hangReset_kept

end Sys2Proof.Machine
end

