-- ==== Sys2Proof/Laws/Group.lean ====
section
/-! SUPPORT. What the operations of Machine/Group.lean keep (Laws/Kept.lean). -/

set_option Elab.async false

namespace Sys2Proof.Machine

open Sys2Proof Sys2Proof.Safety

-- The proofs before this one are checked before the next ones start.
theorem State.refuseJoin_kept {A : List Part} {s₀ s : State} (b : JoinBody) (status : Nat) (h : Kept A s₀ s) (hA : [.transport] ⊆ A := by exact Part.sub (by assumption) (by decide)) : Kept A s₀ (State.refuseJoin s b status) := by
  unfold State.refuseJoin
  repeat' first
    | with_reducible assumption
    | with_reducible apply State.send_kept

theorem State.joinMemory_kept {A : List Part} {s₀ s t : State} {j : Job} {v : Job} (h : Kept A s₀ s) (e : State.joinMemory s j = some (t, v)) (hA : [.tielux, .entropy, .free] ⊆ A := by exact Part.sub (by assumption) (by decide)) : Kept A s₀ t := by
  obtain ⟨r, hr, he⟩ := Option.map_eq_some_iff.1 e
  have h1 := State.takeSalted_kept (t := r.1) (v := r.2) h hr
  split at he
  · cases he
    exact h
  · cases he
    exact h1

theorem State.tryArm_kept {A : List Part} {s₀ s : State} (slot : Nat) (h : Kept A s₀ s) (hA : [.jobs] ⊆ A := by exact Part.sub (by assumption) (by decide)) : Kept A s₀ (State.tryArm s slot) := by
  unfold State.tryArm
  repeat' first
    | with_reducible assumption
    | with_reducible apply State.modJob_kept

theorem State.readyToHost_kept {A : List Part} {s₀ s : State} (j : Job) (h : Kept A s₀ s) (hA : [.transport] ⊆ A := by exact Part.sub (by assumption) (by decide)) : Kept A s₀ (State.readyToHost s j) := by
  unfold State.readyToHost
  repeat' first
    | with_reducible assumption
    | with_reducible apply State.send_kept
    | with_reducible refine Kept.ite ?_ ?_
    | split

theorem State.joinAccept_kept {A : List Part} {s₀ s : State} (slot : Nat) (j : Job) (b : JoinBody) (h : Kept A s₀ s) (hA : [.tielux, .jobs, .transport, .entropy, .free] ⊆ A := by exact Part.sub (by assumption) (by decide)) : Kept A s₀ (State.joinAccept s slot j b) := by
  unfold State.joinAccept
  refine Kept.elim (State.refuseJoin_kept _ _ h) fun q hq => ?_
  refine State.tryArm_kept _ (State.readyToHost_kept _ (Kept.foldl (fun t m ht => State.openPeer_kept _ _ ht) _ (State.setJob_kept _ _ ?_)))
  exact State.joinMemory_kept (t := q.1) (v := q.2) h hq

theorem State.joinAgain_kept {A : List Part} {s₀ s : State} (slot : Nat) (j : Job) (g : GroupState) (b : JoinBody) (h : Kept A s₀ s) (hA : [.jobs, .transport] ⊆ A := by exact Part.sub (by assumption) (by decide)) : Kept A s₀ (State.joinAgain s slot j g b) := by
  unfold State.joinAgain
  repeat' first
    | with_reducible assumption
    | with_reducible apply State.setJob_kept
    | with_reducible apply State.refuseJoin_kept
    | exact Part.sub hA (by decide)
    | with_reducible refine Kept.ite ?_ ?_

theorem State.join_kept {A : List Part} {s₀ s : State} (b : JoinBody) (h : Kept A s₀ s) (hA : [.tielux, .jobs, .transport, .entropy, .free] ⊆ A := by exact Part.sub (by assumption) (by decide)) : Kept A s₀ (State.join s b) := by
  unfold State.join
  dsimp only
  repeat' first
    | with_reducible assumption
    | with_reducible apply State.popInbox_kept
    | with_reducible apply State.refuseJoin_kept
    | with_reducible apply State.joinAgain_kept
    | with_reducible apply State.joinAccept_kept
    | exact Part.sub hA (by decide)
    | with_reducible refine Kept.ite ?_ ?_
    | split

theorem execJoin_kept {s t : State} (b : JoinBody) (e : execJoin b s = .next t) : Kept [.tielux, .jobs, .transport, .entropy, .free] s t := by
  have h := Kept.refl (A := [.tielux, .jobs, .transport, .entropy, .free]) s
  have hA := List.Subset.refl ([.tielux, .jobs, .transport, .entropy, .free] : List Part)
  unfold execJoin at e
  all_goals first | contradiction | (cases e) | skip
  repeat' first
    | with_reducible assumption
    | with_reducible apply State.join_kept

theorem State.onBarrier_kept {A : List Part} {s₀ s : State} (b : BarrierBody) (f : State → Nat → Job → GroupState → State) (hf : ∀ a0 a1 a2 a3, Kept A s₀ a0 → Kept A s₀ (f a0 a1 a2 a3)) (h : Kept A s₀ s) (hA : [.transport] ⊆ A := by exact Part.sub (by assumption) (by decide)) : Kept A s₀ (State.onBarrier s b f) := by
  unfold State.onBarrier
  dsimp only
  repeat' first
    | with_reducible assumption
    | with_reducible apply hf
    | with_reducible apply State.popInbox_kept
    | with_reducible refine Kept.ite ?_ ?_
    | split

theorem State.ready_kept {A : List Part} {s₀ s : State} (b : BarrierBody) (h : Kept A s₀ s) (hA : [.jobs, .transport] ⊆ A := by exact Part.sub (by assumption) (by decide)) : Kept A s₀ (State.ready s b) := by
  unfold State.ready
  repeat' first
    | with_reducible assumption
    | with_reducible apply State.onBarrier_kept
    | with_reducible apply State.toNeighbour_kept
    | with_reducible apply State.tryArm_kept
    | with_reducible apply State.setJob_kept
    | exact Part.sub hA (by decide)
    | intro _
    | with_reducible refine Kept.ite ?_ ?_

theorem execReady_kept {s t : State} (b : BarrierBody) (e : execReady b s = .next t) : Kept [.jobs, .transport] s t := by
  have h := Kept.refl (A := [.jobs, .transport]) s
  have hA := List.Subset.refl ([.jobs, .transport] : List Part)
  unfold execReady at e
  all_goals first | contradiction | (cases e) | skip
  repeat' first
    | with_reducible assumption
    | with_reducible apply State.ready_kept

theorem State.groupStart_kept {A : List Part} {s₀ s : State} (slot : Nat) (h : Kept A s₀ s) (hA : [.jobs, .transport, .streams, .events, .headers] ⊆ A := by exact Part.sub (by assumption) (by decide)) : Kept A s₀ (State.groupStart s slot) := by
  unfold State.groupStart
  dsimp only
  repeat' first
    | with_reducible assumption
    | with_reducible apply State.startJob_kept
    | with_reducible apply State.setJob_kept
    | with_reducible apply State.demote_kept
    | with_reducible apply State.log_kept
    | exact Part.sub hA (by decide)
    | with_reducible refine Kept.ite ?_ ?_
    | split

theorem execGroupStart_kept {s t : State} (job : Fin 4096) (e : execGroupStart job s = .next t) : Kept [.jobs, .transport, .streams, .events, .headers] s t := by
  have h := Kept.refl (A := [.jobs, .transport, .streams, .events, .headers]) s
  have hA := List.Subset.refl ([.jobs, .transport, .streams, .events, .headers] : List Part)
  unfold execGroupStart at e
  all_goals first | contradiction | (cases e) | skip
  repeat' first
    | with_reducible assumption
    | with_reducible apply State.groupStart_kept

theorem State.groupStartTimeout_kept {A : List Part} {s₀ s : State} (slot : Nat) (h : Kept A s₀ s) (hA : [.clusters, .tielux, .jobs, .objects, .transport, .streams, .free] ⊆ A := by exact Part.sub (by assumption) (by decide)) : Kept A s₀ (State.groupStartTimeout s slot) := by
  unfold State.groupStartTimeout
  dsimp only
  repeat' first
    | with_reducible assumption
    | with_reducible apply State.endJob_kept
    | with_reducible refine Kept.ite ?_ ?_
    | split

theorem execGroupStartTimeout_kept {s t : State} (job : Fin 4096) (e : execGroupStartTimeout job s = .next t) : Kept [.clusters, .tielux, .jobs, .objects, .transport, .streams, .free] s t := by
  have h := Kept.refl (A := [.clusters, .tielux, .jobs, .objects, .transport, .streams, .free]) s
  have hA := List.Subset.refl ([.clusters, .tielux, .jobs, .objects, .transport, .streams, .free] : List Part)
  unfold execGroupStartTimeout at e
  all_goals first | contradiction | (cases e) | skip
  repeat' first
    | with_reducible assumption
    | with_reducible apply State.groupStartTimeout_kept

theorem State.commitIn_kept {A : List Part} {s₀ s : State} (b : BarrierBody) (h : Kept A s₀ s) (hA : [.jobs, .transport] ⊆ A := by exact Part.sub (by assumption) (by decide)) : Kept A s₀ (State.commitIn s b) := by
  unfold State.commitIn
  dsimp only
  repeat' first
    | with_reducible assumption
    | with_reducible apply State.onBarrier_kept
    | with_reducible apply State.setJob_kept
    | exact Part.sub hA (by decide)
    | intro _
    | with_reducible refine Kept.ite ?_ ?_

theorem execCommit_kept {s t : State} (b : BarrierBody) (e : execCommit b s = .next t) : Kept [.jobs, .transport] s t := by
  have h := Kept.refl (A := [.jobs, .transport]) s
  have hA := List.Subset.refl ([.jobs, .transport] : List Part)
  unfold execCommit at e
  all_goals first | contradiction | (cases e) | skip
  repeat' first
    | with_reducible assumption
    | with_reducible apply State.commitIn_kept

theorem State.holdIn_kept {A : List Part} {s₀ s : State} (b : BarrierBody) (h : Kept A s₀ s) (hA : [.jobs, .transport] ⊆ A := by exact Part.sub (by assumption) (by decide)) : Kept A s₀ (State.holdIn s b) := by
  unfold State.holdIn
  repeat' first
    | with_reducible assumption
    | with_reducible apply State.onBarrier_kept
    | with_reducible apply State.setJob_kept
    | exact Part.sub hA (by decide)
    | intro _

theorem execHold_kept {s t : State} (b : BarrierBody) (e : execHold b s = .next t) : Kept [.jobs, .transport] s t := by
  have h := Kept.refl (A := [.jobs, .transport]) s
  have hA := List.Subset.refl ([.jobs, .transport] : List Part)
  unfold execHold at e
  all_goals first | contradiction | (cases e) | skip
  repeat' first
    | with_reducible assumption
    | with_reducible apply State.holdIn_kept

theorem State.leaveIn_kept {A : List Part} {s₀ s : State} (b : BarrierBody) (h : Kept A s₀ s) (hA : [.jobs, .transport] ⊆ A := by exact Part.sub (by assumption) (by decide)) : Kept A s₀ (State.leaveIn s b) := by
  unfold State.leaveIn
  repeat' first
    | with_reducible assumption
    | with_reducible apply State.onBarrier_kept
    | with_reducible apply State.setJob_kept
    | exact Part.sub hA (by decide)
    | intro _

theorem execLeave_kept {s t : State} (b : BarrierBody) (e : execLeave b s = .next t) : Kept [.jobs, .transport] s t := by
  have h := Kept.refl (A := [.jobs, .transport]) s
  have hA := List.Subset.refl ([.jobs, .transport] : List Part)
  unfold execLeave at e
  all_goals first | contradiction | (cases e) | skip
  repeat' first
    | with_reducible assumption
    | with_reducible apply State.leaveIn_kept

theorem State.refusedIn_kept {A : List Part} {s₀ s : State} (b : BarrierBody) (h : Kept A s₀ s) (hA : [.clusters, .tielux, .jobs, .objects, .transport, .streams, .free] ⊆ A := by exact Part.sub (by assumption) (by decide)) : Kept A s₀ (State.refusedIn s b) := by
  unfold State.refusedIn
  repeat' first
    | with_reducible assumption
    | with_reducible apply State.onBarrier_kept
    | with_reducible apply State.endJob_kept
    | exact Part.sub hA (by decide)
    | intro _

theorem execRefused_kept {s t : State} (b : BarrierBody) (e : execRefused b s = .next t) : Kept [.clusters, .tielux, .jobs, .objects, .transport, .streams, .free] s t := by
  have h := Kept.refl (A := [.clusters, .tielux, .jobs, .objects, .transport, .streams, .free]) s
  have hA := List.Subset.refl ([.clusters, .tielux, .jobs, .objects, .transport, .streams, .free] : List Part)
  unfold execRefused at e
  all_goals first | contradiction | (cases e) | skip
  repeat' first
    | with_reducible assumption
    | with_reducible apply State.refusedIn_kept

theorem State.storeBeats_kept {A : List Part} {s₀ s : State} (j : Job) (old new : GroupState) (h : Kept A s₀ s) (hA : [.tielux, .mem] ⊆ A := by exact Part.sub (by assumption) (by decide)) : Kept A s₀ (State.storeBeats s j old new) := by
  unfold State.storeBeats
  repeat' first
    | with_reducible assumption
    | with_reducible apply State.storePages_kept
    | exact Part.sub hA (by decide)
    | with_reducible refine Kept.foldl ?_ _ ?_
    | intro _

theorem State.halo_kept {A : List Part} {s₀ s : State} (b : HaloBody) (h : Kept A s₀ s) (hA : [.tielux, .mem, .jobs, .transport] ⊆ A := by exact Part.sub (by assumption) (by decide)) : Kept A s₀ (State.halo s b) := by
  unfold State.halo
  try dsimp only
  repeat' first
    | with_reducible assumption
    | with_reducible apply State.popInbox_kept
    | with_reducible apply State.setJob_kept
    | with_reducible apply State.storeBeats_kept
    | exact Part.sub hA (by decide)
    | with_reducible refine Kept.foldl ?_ _ ?_
    | intro _
    | with_reducible refine Kept.ite ?_ ?_
    | split
    | fail_if_no_progress refine Kept.record ?_ rfl rfl rfl rfl rfl rfl ⟨fun p hp => by cases p <;> first | exact rfl | exact ⟨rfl, rfl⟩ | exact ⟨rfl, trivial⟩ | exact ⟨trivial, rfl⟩ | exact absurd (hA (by decide)) hp⟩

theorem execHalo_kept {s t : State} (b : HaloBody) (e : execHalo b s = .next t) : Kept [.tielux, .mem, .jobs, .transport] s t := by
  have h := Kept.refl (A := [.tielux, .mem, .jobs, .transport]) s
  have hA := List.Subset.refl ([.tielux, .mem, .jobs, .transport] : List Part)
  unfold execHalo at e
  all_goals first | contradiction | (cases e) | skip
  repeat' first
    | with_reducible assumption
    | exact Part.sub hA (by decide)
    | with_reducible apply State.halo_kept

theorem State.retract_kept {A : List Part} {s₀ s : State} (b : RetractBody) (h : Kept A s₀ s) (hA : [.clusters, .tielux, .jobs, .objects, .transport, .streams, .events, .headers, .integrity, .free] ⊆ A := by exact Part.sub (by assumption) (by decide)) : Kept A s₀ (State.retract s b) := by
  unfold State.retract
  dsimp only
  repeat' first
    | with_reducible assumption
    | with_reducible apply State.popInbox_kept
    | with_reducible apply State.endJob_kept
    | with_reducible apply State.setJob_kept
    | with_reducible apply State.log_kept
    | with_reducible apply State.rollBack_kept
    | exact Part.sub hA (by decide)
    | with_reducible refine Kept.ite ?_ ?_
    | split

theorem execRetract_kept {s t : State} (b : RetractBody) (e : execRetract b s = .next t) : Kept [.clusters, .tielux, .jobs, .objects, .transport, .streams, .events, .headers, .integrity, .free] s t := by
  have h := Kept.refl (A := [.clusters, .tielux, .jobs, .objects, .transport, .streams, .events, .headers, .integrity, .free]) s
  have hA := List.Subset.refl ([.clusters, .tielux, .jobs, .objects, .transport, .streams, .events, .headers, .integrity, .free] : List Part)
  unfold execRetract at e
  all_goals first | contradiction | (cases e) | skip
  repeat' first
    | with_reducible assumption
    | with_reducible apply State.retract_kept

theorem State.groupTimeout_kept {A : List Part} {s₀ s : State} (slot : Nat) (h : Kept A s₀ s) (hA : [.clusters, .tielux, .jobs, .objects, .transport, .streams, .free] ⊆ A := by exact Part.sub (by assumption) (by decide)) : Kept A s₀ (State.groupTimeout s slot) := by
  unfold State.groupTimeout
  repeat' first
    | with_reducible assumption
    | with_reducible apply State.endJob_kept
    | with_reducible refine Kept.ite ?_ ?_
    | split

theorem execGroupTimeout_kept {s t : State} (job : Fin 4096) (e : execGroupTimeout job s = .next t) : Kept [.clusters, .tielux, .jobs, .objects, .transport, .streams, .free] s t := by
  have h := Kept.refl (A := [.clusters, .tielux, .jobs, .objects, .transport, .streams, .free]) s
  have hA := List.Subset.refl ([.clusters, .tielux, .jobs, .objects, .transport, .streams, .free] : List Part)
  unfold execGroupTimeout at e
  all_goals first | contradiction | (cases e) | skip
  repeat' first
    | with_reducible assumption
    | with_reducible apply State.groupTimeout_kept

theorem State.peerRetry_kept {A : List Part} {s₀ s : State} (slot : Nat) (m : Nat) (h : Kept A s₀ s) (hA : [.jobs, .transport, .streams, .events, .headers, .entropy, .free] ⊆ A := by exact Part.sub (by assumption) (by decide)) : Kept A s₀ (State.peerRetry s slot m) := by
  unfold State.peerRetry
  dsimp only
  repeat' first
    | with_reducible assumption
    | with_reducible apply State.abandon_kept
    | with_reducible apply State.openPeer_kept
    | exact Part.sub hA (by decide)
    | with_reducible refine Kept.ite ?_ ?_
    | split

theorem execPeerSessionRetry_kept {s t : State} (job : Fin 4096) (member : Nat) (e : execPeerSessionRetry job member s = .next t) : Kept [.jobs, .transport, .streams, .events, .headers, .entropy, .free] s t := by
  have h := Kept.refl (A := [.jobs, .transport, .streams, .events, .headers, .entropy, .free]) s
  have hA := List.Subset.refl ([.jobs, .transport, .streams, .events, .headers, .entropy, .free] : List Part)
  unfold execPeerSessionRetry at e
  all_goals first | contradiction | (cases e) | skip
  repeat' first
    | with_reducible assumption
    | with_reducible apply State.peerRetry_kept

end Sys2Proof.Machine
end

