-- ==== Sys2Proof/Laws/JobCommands.lean ====
section
/-! SUPPORT. What the operations of Machine/JobCommands.lean keep (Laws/Kept.lean). -/

set_option Elab.async false

namespace Sys2Proof.Machine

open Sys2Proof Sys2Proof.Safety

-- The proofs before this one are checked before the next ones start.
theorem State.onJobCommand_kept {A : List Part} {s₀ s : State} (x : Session) (req : Nat) (job : Nat) (f : Option LoadFault) (go : State → Nat → State) (hgo : ∀ a0 a1, Kept A s₀ a0 → Kept A s₀ (go a0 a1)) (h : Kept A s₀ s) (hA : [.transport, .streams] ⊆ A := by exact Part.sub (by assumption) (by decide)) : Kept A s₀ (State.onJobCommand s x req job f go) := by
  unfold State.onJobCommand
  repeat' first
    | with_reducible assumption
    | with_reducible apply hgo
    | with_reducible apply State.ruled_kept
    | with_reducible apply State.accept_kept
    | intro _
    | split

theorem State.cancelJob_kept {A : List Part} {s₀ s : State} (slot : Nat) (h : Kept A s₀ s) (hA : [.clusters, .tielux, .jobs, .objects, .transport, .streams, .free] ⊆ A := by exact Part.sub (by assumption) (by decide)) : Kept A s₀ (State.cancelJob s slot) := by
  unfold State.cancelJob
  repeat' first
    | with_reducible assumption
    | with_reducible apply State.endJob_kept
    | with_reducible apply State.setJob_kept
    | exact Part.sub hA (by decide)
    | split

theorem State.auditCancel_kept {A : List Part} {s₀ s : State} (x : Session) (job : Nat) (h : Kept A s₀ s) (hA : [.audit] ⊆ A := by exact Part.sub (by assumption) (by decide)) : Kept A s₀ (State.auditCancel s x job) := by
  unfold State.auditCancel
  repeat' first
    | with_reducible assumption
    | with_reducible apply State.auditBy_kept
    | with_reducible refine Kept.ite ?_ ?_
    | split

theorem State.cancel_kept {A : List Part} {s₀ s : State} (x : Session) (req : Nat) (job : Nat) (h : Kept A s₀ s) (hA : [.clusters, .tielux, .jobs, .objects, .transport, .streams, .audit, .free] ⊆ A := by exact Part.sub (by assumption) (by decide)) : Kept A s₀ (State.cancel s x req job) := by
  unfold State.cancel
  repeat' first
    | with_reducible assumption
    | with_reducible apply State.refuse_kept
    | with_reducible apply State.onJobCommand_kept
    | with_reducible apply State.auditCancel_kept
    | with_reducible apply State.cancelJob_kept
    | exact Part.sub hA (by decide)
    | intro _
    | split

theorem execCancel_kept {s t : State} (xh : CmdHead) (job : Nat) (e : execCancel xh job s = .next t) : Kept [.clusters, .tielux, .jobs, .objects, .transport, .streams, .audit, .free] s t := by
  have h := Kept.refl (A := [.clusters, .tielux, .jobs, .objects, .transport, .streams, .audit, .free]) s
  have hA := List.Subset.refl ([.clusters, .tielux, .jobs, .objects, .transport, .streams, .audit, .free] : List Part)
  unfold execCancel at e
  all_goals first | contradiction | (cases e) | skip
  repeat' first
    | with_reducible assumption
    | with_reducible apply State.command_kept
    | with_reducible apply State.cancel_kept
    | exact Part.sub hA (by decide)
    | intro _

theorem State.suspendJob_kept {A : List Part} {s₀ s : State} (slot : Nat) (n : Nat) (h : Kept A s₀ s) (hA : [.jobs, .transport, .streams] ⊆ A := by exact Part.sub (by assumption) (by decide)) : Kept A s₀ (State.suspendJob s slot n) := by
  unfold State.suspendJob
  dsimp only
  repeat' first
    | with_reducible assumption
    | with_reducible apply State.jobState_kept
    | with_reducible apply State.setJob_kept
    | exact Part.sub hA (by decide)
    | split

theorem execSuspend_kept {s t : State} (xh : CmdHead) (job : Nat) (step : Nat) (e : execSuspend xh job step s = .next t) : Kept [.jobs, .transport, .streams] s t := by
  have h := Kept.refl (A := [.jobs, .transport, .streams]) s
  have hA := List.Subset.refl ([.jobs, .transport, .streams] : List Part)
  unfold execSuspend at e
  all_goals first | contradiction | (cases e) | skip
  repeat' first
    | with_reducible assumption
    | with_reducible apply State.command_kept
    | with_reducible apply State.onJobCommand_kept
    | with_reducible apply State.suspendJob_kept
    | exact Part.sub hA (by decide)
    | intro _

theorem State.resumeJob_kept {A : List Part} {s₀ s : State} (slot : Nat) (h : Kept A s₀ s) (hA : [.jobs] ⊆ A := by exact Part.sub (by assumption) (by decide)) : Kept A s₀ (State.resumeJob s slot) := by
  unfold State.resumeJob
  repeat' first
    | with_reducible assumption
    | with_reducible apply State.modJob_kept

theorem execResume_kept {s t : State} (xh : CmdHead) (job : Nat) (e : execResume xh job s = .next t) : Kept [.jobs, .transport, .streams] s t := by
  have h := Kept.refl (A := [.jobs, .transport, .streams]) s
  have hA := List.Subset.refl ([.jobs, .transport, .streams] : List Part)
  unfold execResume at e
  all_goals first | contradiction | (cases e) | skip
  repeat' first
    | with_reducible assumption
    | with_reducible apply State.command_kept
    | with_reducible apply State.onJobCommand_kept
    | with_reducible apply State.resumeJob_kept
    | exact Part.sub hA (by decide)
    | intro _

theorem State.objectPages_kept {A : List Part} {s₀ s t : State} {size : Nat} {v : List PageRef} (h : Kept A s₀ s) (e : State.objectPages s size = some (t, v)) (hA : [.tielux, .entropy, .free] ⊆ A := by exact Part.sub (by assumption) (by decide)) : Kept A s₀ t := by
  unfold State.objectPages at e
  all_goals first | contradiction | (cases e) | skip
  repeat' first
    | with_reducible assumption
    | refine State.takeSalted_kept ?_ (by assumption)
    | fail_if_no_progress refine Kept.record ?_ rfl rfl rfl rfl rfl rfl ⟨fun p hp => by cases p <;> first | exact rfl | exact ⟨rfl, rfl⟩ | exact ⟨rfl, trivial⟩ | exact ⟨trivial, rfl⟩ | exact absurd (hA (by decide)) hp⟩

theorem State.keepExport_kept {A : List Part} {s₀ s t : State} {owner : Bytes} {o : Bytes} (h : Kept A s₀ s) (e : State.keepExport s owner o = some t) (hA : [.tielux, .mem, .objects, .entropy, .free] ⊆ A := by exact Part.sub (by assumption) (by decide)) :
    Kept A s₀ t := by
  unfold State.keepExport at e
  dsimp only at e
  split at e
  · cases e
    exact State.onObjects_kept _ h id
  · obtain ⟨r, hr, he⟩ := Option.map_eq_some_iff.1 e
    cases he
    exact State.onObjects_kept _ (State.storePages_kept _ _ _ (State.objectPages_kept (t := r.1) (v := r.2) h hr)) id

theorem State.exportJob_kept {A : List Part} {s₀ s : State} (x : Session) (req : Nat) (job : Nat) (h : Kept A s₀ s) (hA : [.tielux, .mem, .jobs, .objects, .transport, .streams, .entropy, .free] ⊆ A := by exact Part.sub (by assumption) (by decide)) : Kept A s₀ (State.exportJob s x req job) := by
  unfold State.exportJob
  refine State.ruled_kept _ _ _ _ (fun t ht => ?_) h
  split
  · exact ht
  · refine Kept.elim (State.refuse_kept _ _ _ _ _ ht) fun u hu => ?_
    exact State.wakeObligations_kept (State.done_kept _ _ _ _ (State.accept_kept _ _ _ _ _ (State.keepExport_kept ht hu)))

theorem execExportJob_kept {s t : State} (xh : CmdHead) (job : Nat) (e : execExportJob xh job s = .next t) : Kept [.tielux, .mem, .jobs, .objects, .transport, .streams, .entropy, .free] s t := by
  have h := Kept.refl (A := [.tielux, .mem, .jobs, .objects, .transport, .streams, .entropy, .free]) s
  have hA := List.Subset.refl ([.tielux, .mem, .jobs, .objects, .transport, .streams, .entropy, .free] : List Part)
  unfold execExportJob at e
  all_goals first | contradiction | (cases e) | skip
  repeat' first
    | with_reducible assumption
    | with_reducible apply State.command_kept
    | with_reducible apply State.exportJob_kept
    | exact Part.sub hA (by decide)
    | intro _

theorem State.sendBulk_kept {A : List Part} {s₀ s : State} (id handle n off : Nat) (bs : Bytes) (h : Kept A s₀ s) (hA : [.transport] ⊆ A := by exact Part.sub (by assumption) (by decide)) : Kept A s₀ (State.sendBulk s id handle n off bs) := by
  induction n generalizing off bs s with
  | zero => exact h
  | succ n ih =>
    rw [State.sendBulk]
    exact Kept.ite h (ih _ _ (State.send_kept _ _ h))

theorem State.fetch_kept {A : List Part} {s₀ s : State} (x : Session) (req : Nat) (what : FetchWhat) (offset : Nat) (length : Nat) (h : Kept A s₀ s) (hA : [.transport, .streams] ⊆ A := by exact Part.sub (by assumption) (by decide)) : Kept A s₀ (State.fetch s x req what offset length) := by
  unfold State.fetch
  dsimp only
  repeat' first
    | with_reducible assumption
    | with_reducible apply State.refuse_kept
    | with_reducible apply State.done_kept
    | with_reducible apply State.sendBulk_kept
    | exact Part.sub hA (by decide)
    | split

theorem execFetch_kept {s t : State} (xh : CmdHead) (what : FetchWhat) (offset : Nat) (length : Nat) (e : execFetch xh what offset length s = .next t) : Kept [.transport, .streams] s t := by
  have h := Kept.refl (A := [.transport, .streams]) s
  have hA := List.Subset.refl ([.transport, .streams] : List Part)
  unfold execFetch at e
  repeat' split at e
  all_goals first | contradiction | (cases e) | skip
  repeat' first
    | with_reducible assumption
    | with_reducible apply State.fetch_kept
    | with_reducible apply State.popInbox_kept
    | exact Part.sub hA (by decide)

theorem State.releaseResult_kept {A : List Part} {s₀ s : State} (x : Session) (slot : Nat) (h : Kept A s₀ s) (hA : [.jobs, .streams] ⊆ A := by exact Part.sub (by assumption) (by decide)) : Kept A s₀ (State.releaseResult s x slot) := by
  unfold State.releaseResult
  repeat' first
    | with_reducible assumption
    | with_reducible apply State.settleJob_kept
    | with_reducible apply State.setJob_kept
    | exact Part.sub hA (by decide)
    | split

theorem execReleaseResult_kept {s t : State} (xh : CmdHead) (job : Nat) (e : execReleaseResult xh job s = .next t) : Kept [.jobs, .transport, .streams] s t := by
  have h := Kept.refl (A := [.jobs, .transport, .streams]) s
  have hA := List.Subset.refl ([.jobs, .transport, .streams] : List Part)
  unfold execReleaseResult at e
  all_goals first | contradiction | (cases e) | skip
  repeat' first
    | with_reducible assumption
    | with_reducible apply State.command_kept
    | with_reducible apply State.onJobCommand_kept
    | with_reducible apply State.releaseResult_kept
    | exact Part.sub hA (by decide)
    | intro _

end Sys2Proof.Machine
end

