-- ==== Sys2Proof/Laws/Stat.lean ====
section
/-! SUPPORT. What the operations of Machine/Stat.lean keep (Laws/Kept.lean). -/

set_option Elab.async false

namespace Sys2Proof.Machine

open Sys2Proof Sys2Proof.Safety

-- The proofs before this one are checked before the next ones start.
theorem State.staSgl_kept {A : List Part} {s₀ s : State} (o : StaOps) (h : Kept A s₀ s) (hA : [.clusters, .tielux, .jobs, .objects, .transport, .streams, .events, .headers, .free] ⊆ A := by exact Part.sub (by assumption) (by decide)) : Kept A s₀ (State.staSgl s o) := by
  unfold State.staSgl
  repeat' first
    | with_reducible assumption
    | with_reducible apply State.onCluster_kept

theorem execStaSgl_kept {s t : State} (o : StaOps) (e : execStaSgl o s = .next t) : Kept [.clusters, .tielux, .jobs, .objects, .transport, .streams, .events, .headers, .free] s t := by
  have h := Kept.refl (A := [.clusters, .tielux, .jobs, .objects, .transport, .streams, .events, .headers, .free]) s
  have hA := List.Subset.refl ([.clusters, .tielux, .jobs, .objects, .transport, .streams, .events, .headers, .free] : List Part)
  unfold execStaSgl at e
  all_goals first | contradiction | (cases e) | skip
  repeat' first
    | with_reducible assumption
    | with_reducible apply State.staSgl_kept

theorem State.staPair_kept {A : List Part} {s₀ s : State} (o : StaPairOps) (h : Kept A s₀ s) (hA : [.clusters, .tielux, .jobs, .objects, .transport, .streams, .events, .headers, .free] ⊆ A := by exact Part.sub (by assumption) (by decide)) : Kept A s₀ (State.staPair s o) := by
  unfold State.staPair
  repeat' first
    | with_reducible assumption
    | with_reducible apply State.onCluster_kept

theorem execStaPair_kept {s t : State} (o : StaPairOps) (e : execStaPair o s = .next t) : Kept [.clusters, .tielux, .jobs, .objects, .transport, .streams, .events, .headers, .free] s t := by
  have h := Kept.refl (A := [.clusters, .tielux, .jobs, .objects, .transport, .streams, .events, .headers, .free]) s
  have hA := List.Subset.refl ([.clusters, .tielux, .jobs, .objects, .transport, .streams, .events, .headers, .free] : List Part)
  unfold execStaPair at e
  all_goals first | contradiction | (cases e) | skip
  repeat' first
    | with_reducible assumption
    | with_reducible apply State.staPair_kept

theorem State.staHist_kept {A : List Part} {s₀ s : State} (o : StaOps) (h : Kept A s₀ s) (hA : [.clusters, .tielux, .jobs, .objects, .transport, .streams, .events, .headers, .free] ⊆ A := by exact Part.sub (by assumption) (by decide)) : Kept A s₀ (State.staHist s o) := by
  unfold State.staHist
  repeat' first
    | with_reducible assumption
    | with_reducible apply State.onCluster_kept

theorem execStaHist_kept {s t : State} (o : StaOps) (e : execStaHist o s = .next t) : Kept [.clusters, .tielux, .jobs, .objects, .transport, .streams, .events, .headers, .free] s t := by
  have h := Kept.refl (A := [.clusters, .tielux, .jobs, .objects, .transport, .streams, .events, .headers, .free]) s
  have hA := List.Subset.refl ([.clusters, .tielux, .jobs, .objects, .transport, .streams, .events, .headers, .free] : List Part)
  unfold execStaHist at e
  all_goals first | contradiction | (cases e) | skip
  repeat' first
    | with_reducible assumption
    | with_reducible apply State.staHist_kept

theorem State.staFlush_kept {A : List Part} {s₀ s : State} (o : StaFlushOps) (h : Kept A s₀ s) (hA : [.clusters, .tielux, .jobs, .objects, .transport, .streams, .events, .headers, .free] ⊆ A := by exact Part.sub (by assumption) (by decide)) : Kept A s₀ (State.staFlush s o) := by
  unfold State.staFlush
  repeat' first
    | with_reducible assumption
    | with_reducible apply State.onCluster_kept

theorem execStaFlush_kept {s t : State} (o : StaFlushOps) (e : execStaFlush o s = .next t) : Kept [.clusters, .tielux, .jobs, .objects, .transport, .streams, .events, .headers, .free] s t := by
  have h := Kept.refl (A := [.clusters, .tielux, .jobs, .objects, .transport, .streams, .events, .headers, .free]) s
  have hA := List.Subset.refl ([.clusters, .tielux, .jobs, .objects, .transport, .streams, .events, .headers, .free] : List Part)
  unfold execStaFlush at e
  all_goals first | contradiction | (cases e) | skip
  repeat' first
    | with_reducible assumption
    | with_reducible apply State.staFlush_kept

theorem State.tpkOffer_kept {A : List Part} {s₀ s : State} (cl : ClusterRef) (ch : Nat) (h : Kept A s₀ s) (hA : [.jobs] ⊆ A := by exact Part.sub (by assumption) (by decide)) : Kept A s₀ (State.tpkOffer s cl ch) := by
  unfold State.tpkOffer
  repeat' first
    | with_reducible assumption
    | with_reducible apply State.modJob_kept
    | split

theorem execTpkOffer_kept {s t : State} (cl : ClusterRef) (ch : Fin 128) (e : execTpkOffer cl ch s = .next t) : Kept [.jobs] s t := by
  have h := Kept.refl (A := [.jobs]) s
  have hA := List.Subset.refl ([.jobs] : List Part)
  unfold execTpkOffer at e
  all_goals first | contradiction | (cases e) | skip
  repeat' first
    | with_reducible assumption
    | with_reducible apply State.tpkOffer_kept

theorem State.tpkScan_kept {A : List Part} {s₀ s : State} (cl : ClusterRef) (tgt : Nat) (ago : Nat) (h : Kept A s₀ s) (hA : [.jobs] ⊆ A := by exact Part.sub (by assumption) (by decide)) : Kept A s₀ (State.tpkScan s cl tgt ago) := by
  unfold State.tpkScan
  dsimp only
  repeat' first
    | with_reducible assumption
    | with_reducible apply State.setJob_kept
    | with_reducible refine Kept.ite ?_ ?_
    | split

theorem execTpkScan_kept {s t : State} (cl : ClusterRef) (tgt : Fin 4096) (ago : Fin 8) (e : execTpkScan cl tgt ago s = .next t) : Kept [.jobs] s t := by
  have h := Kept.refl (A := [.jobs]) s
  have hA := List.Subset.refl ([.jobs] : List Part)
  unfold execTpkScan at e
  all_goals first | contradiction | (cases e) | skip
  repeat' first
    | with_reducible assumption
    | with_reducible apply State.tpkScan_kept

end Sys2Proof.Machine
end

