-- ==== Sys2Proof/Laws/Move.lean ====
section
/-! SUPPORT. What the operations of Machine/Move.lean keep (Laws/Kept.lean). -/

set_option Elab.async false

namespace Sys2Proof.Machine

open Sys2Proof Sys2Proof.Safety

-- The proofs before this one are checked before the next ones start.
theorem State.movMask_kept {A : List Part} {s₀ s : State} (o : MovMaskOps) (h : Kept A s₀ s) (hA : [.clusters, .tielux, .jobs, .objects, .transport, .streams, .events, .headers, .free] ⊆ A := by exact Part.sub (by assumption) (by decide)) : Kept A s₀ (State.movMask s o) := by
  unfold State.movMask
  repeat' first
    | with_reducible assumption
    | with_reducible apply State.onCluster_kept

theorem execMovMask_kept {s t : State} (o : MovMaskOps) (e : execMovMask o s = .next t) : Kept [.clusters, .tielux, .jobs, .objects, .transport, .streams, .events, .headers, .free] s t := by
  have h := Kept.refl (A := [.clusters, .tielux, .jobs, .objects, .transport, .streams, .events, .headers, .free]) s
  have hA := List.Subset.refl ([.clusters, .tielux, .jobs, .objects, .transport, .streams, .events, .headers, .free] : List Part)
  unfold execMovMask at e
  all_goals first | contradiction | (cases e) | skip
  repeat' first
    | with_reducible assumption
    | with_reducible apply State.movMask_kept

theorem State.movAg_kept {A : List Part} {s₀ s : State} (o : MovAgOps) (h : Kept A s₀ s) (hA : [.clusters, .tielux, .jobs, .objects, .transport, .streams, .events, .headers, .free] ⊆ A := by exact Part.sub (by assumption) (by decide)) : Kept A s₀ (State.movAg s o) := by
  unfold State.movAg
  repeat' first
    | with_reducible assumption
    | with_reducible apply State.onCluster_kept

theorem execMovAg_kept {s t : State} (o : MovAgOps) (e : execMovAg o s = .next t) : Kept [.clusters, .tielux, .jobs, .objects, .transport, .streams, .events, .headers, .free] s t := by
  have h := Kept.refl (A := [.clusters, .tielux, .jobs, .objects, .transport, .streams, .events, .headers, .free]) s
  have hA := List.Subset.refl ([.clusters, .tielux, .jobs, .objects, .transport, .streams, .events, .headers, .free] : List Part)
  unfold execMovAg at e
  all_goals first | contradiction | (cases e) | skip
  repeat' first
    | with_reducible assumption
    | with_reducible apply State.movAg_kept

theorem State.movDesc_kept {A : List Part} {s₀ s : State} (o : MovDescOps) (h : Kept A s₀ s) (hA : [.clusters, .tielux, .jobs, .objects, .transport, .streams, .events, .headers, .free] ⊆ A := by exact Part.sub (by assumption) (by decide)) : Kept A s₀ (State.movDesc s o) := by
  unfold State.movDesc
  repeat' first
    | with_reducible assumption
    | with_reducible apply State.onCluster_kept

theorem execMovDesc_kept {s t : State} (o : MovDescOps) (e : execMovDesc o s = .next t) : Kept [.clusters, .tielux, .jobs, .objects, .transport, .streams, .events, .headers, .free] s t := by
  have h := Kept.refl (A := [.clusters, .tielux, .jobs, .objects, .transport, .streams, .events, .headers, .free]) s
  have hA := List.Subset.refl ([.clusters, .tielux, .jobs, .objects, .transport, .streams, .events, .headers, .free] : List Part)
  unfold execMovDesc at e
  all_goals first | contradiction | (cases e) | skip
  repeat' first
    | with_reducible assumption
    | with_reducible apply State.movDesc_kept

theorem State.movGrp_kept {A : List Part} {s₀ s : State} (cl : ClusterRef) (lm : Fin 4) (src : GroupSel) (dst : GroupSel) (h : Kept A s₀ s) (hA : [.clusters, .tielux, .jobs, .objects, .transport, .streams, .events, .headers, .free] ⊆ A := by exact Part.sub (by assumption) (by decide)) : Kept A s₀ (State.movGrp s cl lm src dst) := by
  unfold State.movGrp
  repeat' first
    | with_reducible assumption
    | with_reducible apply State.onCluster_kept

theorem execMovGrp_kept {s t : State} (cl : ClusterRef) (lm : Fin 4) (src : GroupSel) (dst : GroupSel) (e : execMovGrp cl lm src dst s = .next t) : Kept [.clusters, .tielux, .jobs, .objects, .transport, .streams, .events, .headers, .free] s t := by
  have h := Kept.refl (A := [.clusters, .tielux, .jobs, .objects, .transport, .streams, .events, .headers, .free]) s
  have hA := List.Subset.refl ([.clusters, .tielux, .jobs, .objects, .transport, .streams, .events, .headers, .free] : List Part)
  unfold execMovGrp at e
  all_goals first | contradiction | (cases e) | skip
  repeat' first
    | with_reducible assumption
    | with_reducible apply State.movGrp_kept

theorem State.movZero_kept {A : List Part} {s₀ s : State} (o : HalfLineOps) (h : Kept A s₀ s) (hA : [.clusters, .tielux, .jobs, .objects, .transport, .streams, .events, .headers, .free] ⊆ A := by exact Part.sub (by assumption) (by decide)) : Kept A s₀ (State.movZero s o) := by
  unfold State.movZero
  repeat' first
    | with_reducible assumption
    | with_reducible apply State.onCluster_kept

theorem execMovZero_kept {s t : State} (o : HalfLineOps) (e : execMovZero o s = .next t) : Kept [.clusters, .tielux, .jobs, .objects, .transport, .streams, .events, .headers, .free] s t := by
  have h := Kept.refl (A := [.clusters, .tielux, .jobs, .objects, .transport, .streams, .events, .headers, .free]) s
  have hA := List.Subset.refl ([.clusters, .tielux, .jobs, .objects, .transport, .streams, .events, .headers, .free] : List Part)
  unfold execMovZero at e
  all_goals first | contradiction | (cases e) | skip
  repeat' first
    | with_reducible assumption
    | with_reducible apply State.movZero_kept

theorem State.ldLine_kept {A : List Part} {s₀ s : State} (o : HalfLineOps) (h : Kept A s₀ s) (hA : [.clusters, .tielux, .jobs, .objects, .transport, .streams, .events, .headers, .free] ⊆ A := by exact Part.sub (by assumption) (by decide)) : Kept A s₀ (State.ldLine s o) := by
  unfold State.ldLine
  repeat' first
    | with_reducible assumption
    | with_reducible apply State.onCluster_kept

theorem execLdLine_kept {s t : State} (o : HalfLineOps) (e : execLdLine o s = .next t) : Kept [.clusters, .tielux, .jobs, .objects, .transport, .streams, .events, .headers, .free] s t := by
  have h := Kept.refl (A := [.clusters, .tielux, .jobs, .objects, .transport, .streams, .events, .headers, .free]) s
  have hA := List.Subset.refl ([.clusters, .tielux, .jobs, .objects, .transport, .streams, .events, .headers, .free] : List Part)
  unfold execLdLine at e
  all_goals first | contradiction | (cases e) | skip
  repeat' first
    | with_reducible assumption
    | with_reducible apply State.ldLine_kept

theorem State.ldSlot_kept {A : List Part} {s₀ s : State} (o : SlotOps) (h : Kept A s₀ s) (hA : [.clusters, .tielux, .jobs, .objects, .transport, .streams, .events, .headers, .free] ⊆ A := by exact Part.sub (by assumption) (by decide)) : Kept A s₀ (State.ldSlot s o) := by
  unfold State.ldSlot
  repeat' first
    | with_reducible assumption
    | with_reducible apply State.onCluster_kept

theorem execLdSlot_kept {s t : State} (o : SlotOps) (e : execLdSlot o s = .next t) : Kept [.clusters, .tielux, .jobs, .objects, .transport, .streams, .events, .headers, .free] s t := by
  have h := Kept.refl (A := [.clusters, .tielux, .jobs, .objects, .transport, .streams, .events, .headers, .free]) s
  have hA := List.Subset.refl ([.clusters, .tielux, .jobs, .objects, .transport, .streams, .events, .headers, .free] : List Part)
  unfold execLdSlot at e
  all_goals first | contradiction | (cases e) | skip
  repeat' first
    | with_reducible assumption
    | with_reducible apply State.ldSlot_kept

theorem State.ldAnch_kept {A : List Part} {s₀ s : State} (cl : ClusterRef) (dd : Fin 4) (h : Kept A s₀ s) (hA : [.clusters, .tielux, .jobs, .objects, .transport, .streams, .events, .headers, .free] ⊆ A := by exact Part.sub (by assumption) (by decide)) : Kept A s₀ (State.ldAnch s cl dd) := by
  unfold State.ldAnch
  dsimp only
  repeat' first
    | with_reducible assumption
    | with_reducible apply State.modCluster_kept
    | exact fun _ _ h => h
    | with_reducible apply State.onCluster_kept
    | exact Part.sub hA (by decide)
    | split

theorem execLdAnch_kept {s t : State} (cl : ClusterRef) (dd : Fin 4) (e : execLdAnch cl dd s = .next t) : Kept [.clusters, .tielux, .jobs, .objects, .transport, .streams, .events, .headers, .free] s t := by
  have h := Kept.refl (A := [.clusters, .tielux, .jobs, .objects, .transport, .streams, .events, .headers, .free]) s
  have hA := List.Subset.refl ([.clusters, .tielux, .jobs, .objects, .transport, .streams, .events, .headers, .free] : List Part)
  unfold execLdAnch at e
  all_goals first | contradiction | (cases e) | skip
  repeat' first
    | with_reducible assumption
    | with_reducible apply State.ldAnch_kept

theorem State.stLine_kept {A : List Part} {s₀ s : State} (o : StLineOps) (h : Kept A s₀ s) (hA : [.clusters, .tielux, .jobs, .objects, .transport, .streams, .events, .headers, .free] ⊆ A := by exact Part.sub (by assumption) (by decide)) : Kept A s₀ (State.stLine s o) := by
  unfold State.stLine
  repeat' first
    | with_reducible assumption
    | with_reducible apply State.onCluster_kept

theorem execStLine_kept {s t : State} (o : StLineOps) (e : execStLine o s = .next t) : Kept [.clusters, .tielux, .jobs, .objects, .transport, .streams, .events, .headers, .free] s t := by
  have h := Kept.refl (A := [.clusters, .tielux, .jobs, .objects, .transport, .streams, .events, .headers, .free]) s
  have hA := List.Subset.refl ([.clusters, .tielux, .jobs, .objects, .transport, .streams, .events, .headers, .free] : List Part)
  unfold execStLine at e
  all_goals first | contradiction | (cases e) | skip
  repeat' first
    | with_reducible assumption
    | with_reducible apply State.stLine_kept

theorem State.stRes_kept {A : List Part} {s₀ s : State} (o : StStateOps) (h : Kept A s₀ s) (hA : [.clusters, .tielux, .jobs, .objects, .transport, .streams, .events, .headers, .free] ⊆ A := by exact Part.sub (by assumption) (by decide)) : Kept A s₀ (State.stRes s o) := by
  unfold State.stRes
  repeat' first
    | with_reducible assumption
    | with_reducible apply State.onCluster_kept

theorem execStRes_kept {s t : State} (o : StStateOps) (e : execStRes o s = .next t) : Kept [.clusters, .tielux, .jobs, .objects, .transport, .streams, .events, .headers, .free] s t := by
  have h := Kept.refl (A := [.clusters, .tielux, .jobs, .objects, .transport, .streams, .events, .headers, .free]) s
  have hA := List.Subset.refl ([.clusters, .tielux, .jobs, .objects, .transport, .streams, .events, .headers, .free] : List Part)
  unfold execStRes at e
  all_goals first | contradiction | (cases e) | skip
  repeat' first
    | with_reducible assumption
    | with_reducible apply State.stRes_kept

theorem State.stSnap_kept {A : List Part} {s₀ s : State} (o : StStateOps) (h : Kept A s₀ s) (hA : [.clusters, .tielux, .jobs, .objects, .transport, .streams, .events, .headers, .free] ⊆ A := by exact Part.sub (by assumption) (by decide)) : Kept A s₀ (State.stSnap s o) := by
  unfold State.stSnap
  repeat' first
    | with_reducible assumption
    | with_reducible apply State.onCluster_kept

theorem execStSnap_kept {s t : State} (o : StStateOps) (e : execStSnap o s = .next t) : Kept [.clusters, .tielux, .jobs, .objects, .transport, .streams, .events, .headers, .free] s t := by
  have h := Kept.refl (A := [.clusters, .tielux, .jobs, .objects, .transport, .streams, .events, .headers, .free]) s
  have hA := List.Subset.refl ([.clusters, .tielux, .jobs, .objects, .transport, .streams, .events, .headers, .free] : List Part)
  unfold execStSnap at e
  all_goals first | contradiction | (cases e) | skip
  repeat' first
    | with_reducible assumption
    | with_reducible apply State.stSnap_kept

theorem State.synHout_kept {A : List Part} {s₀ s : State} (o : HaloOps) (h : Kept A s₀ s) (hA : [.clusters, .tielux, .jobs, .objects, .transport, .streams, .events, .headers, .free] ⊆ A := by exact Part.sub (by assumption) (by decide)) : Kept A s₀ (State.synHout s o) := by
  unfold State.synHout
  dsimp only
  repeat' first
    | with_reducible assumption
    | with_reducible apply State.consumeMirage_kept
    | with_reducible apply State.toNeighbour_kept
    | with_reducible apply State.setJob_kept
    | with_reducible apply State.modJob_kept
    | with_reducible apply State.demote_kept
    | exact Part.sub hA (by decide)
    | with_reducible refine Kept.ite ?_ ?_
    | split

theorem execSynHout_kept {s t : State} (o : HaloOps) (e : execSynHout o s = .next t) : Kept [.clusters, .tielux, .jobs, .objects, .transport, .streams, .events, .headers, .free] s t := by
  have h := Kept.refl (A := [.clusters, .tielux, .jobs, .objects, .transport, .streams, .events, .headers, .free]) s
  have hA := List.Subset.refl ([.clusters, .tielux, .jobs, .objects, .transport, .streams, .events, .headers, .free] : List Part)
  unfold execSynHout at e
  all_goals first | contradiction | (cases e) | skip
  repeat' first
    | with_reducible assumption
    | with_reducible apply State.synHout_kept

theorem State.synHin_kept {A : List Part} {s₀ s : State} (o : HaloOps) (h : Kept A s₀ s) (hA : [.clusters, .tielux, .jobs, .objects, .transport, .streams, .events, .headers, .free] ⊆ A := by exact Part.sub (by assumption) (by decide)) : Kept A s₀ (State.synHin s o) := by
  unfold State.synHin
  dsimp only
  repeat' first
    | with_reducible assumption
    | with_reducible apply State.onCluster_kept
    | with_reducible apply State.modJob_kept
    | exact Part.sub hA (by decide)
    | split

theorem execSynHin_kept {s t : State} (o : HaloOps) (e : execSynHin o s = .next t) : Kept [.clusters, .tielux, .jobs, .objects, .transport, .streams, .events, .headers, .free] s t := by
  have h := Kept.refl (A := [.clusters, .tielux, .jobs, .objects, .transport, .streams, .events, .headers, .free]) s
  have hA := List.Subset.refl ([.clusters, .tielux, .jobs, .objects, .transport, .streams, .events, .headers, .free] : List Part)
  unfold execSynHin at e
  all_goals first | contradiction | (cases e) | skip
  repeat' first
    | with_reducible assumption
    | with_reducible apply State.synHin_kept

theorem State.synEpoch_kept {A : List Part} {s₀ s : State} (cl : ClusterRef) (h : Kept A s₀ s) (hA : [.jobs] ⊆ A := by exact Part.sub (by assumption) (by decide)) : Kept A s₀ (State.synEpoch s cl) := by
  unfold State.synEpoch
  repeat' first
    | with_reducible assumption
    | with_reducible apply State.modJob_kept
    | with_reducible refine Kept.ite ?_ ?_
    | split

theorem execSynEpoch_kept {s t : State} (cl : ClusterRef) (e : execSynEpoch cl s = .next t) : Kept [.jobs] s t := by
  have h := Kept.refl (A := [.jobs]) s
  have hA := List.Subset.refl ([.jobs] : List Part)
  unfold execSynEpoch at e
  all_goals first | contradiction | (cases e) | skip
  repeat' first
    | with_reducible assumption
    | with_reducible apply State.synEpoch_kept

end Sys2Proof.Machine
end

