-- ==== Sys2Proof/Laws/Security.lean ====
section
/-! SUPPORT. What the operations of Machine/Security.lean keep (Laws/Kept.lean). -/

set_option Elab.async false

namespace Sys2Proof.Machine

open Sys2Proof Sys2Proof.Safety

-- The proofs before this one are checked before the next ones start.
theorem State.keyStatus_kept {A : List Part} {s₀ s : State} (x : Session) (status : Nat) (h : Kept A s₀ s) (hA : [.transport] ⊆ A := by exact Part.sub (by assumption) (by decide)) : Kept A s₀ (State.keyStatus s x status) := by
  unfold State.keyStatus
  dsimp only
  repeat' first
    | with_reducible assumption
    | with_reducible apply State.modSession_kept

theorem State.keyDecided_kept {A : List Part} {s₀ s : State} (x : Session) (action : Nat) (status : Nat) (digest : Bytes) (go : State → State) (hgo : ∀ a0, Kept A s₀ a0 → Kept A s₀ (go a0)) (h : Kept A s₀ s) (hA : [.transport, .audit] ⊆ A := by exact Part.sub (by assumption) (by decide)) : Kept A s₀ (State.keyDecided s x action status digest go) := by
  unfold State.keyDecided
  dsimp only
  repeat' first
    | with_reducible assumption
    | with_reducible apply hgo
    | with_reducible apply State.auditBy_kept
    | with_reducible apply State.keyStatus_kept
    | exact Part.sub hA (by decide)
    | with_reducible refine Kept.ite ?_ ?_

theorem State.keyEnrol_kept {A : List Part} {s₀ s : State} (x : Session) (h : Kept A s₀ s) (hA : [.transport, .keys, .audit] ⊆ A := by exact Part.sub (by assumption) (by decide)) : Kept A s₀ (State.keyEnrol s x) := by
  unfold State.keyEnrol
  dsimp only
  repeat' first
    | with_reducible assumption
    | with_reducible apply State.keyDecided_kept
    | with_reducible apply State.enrol_kept
    | exact Part.sub hA (by decide)
    | intro _

theorem State.removeKey_kept {A : List Part} {s₀ s : State} (fpr : Bytes) (h : Kept A s₀ s) (hA : [.jobs, .transport, .streams, .keys, .events, .headers, .entropy] ⊆ A := by exact Part.sub (by assumption) (by decide)) : Kept A s₀ (State.removeKey s fpr) := by
  unfold State.removeKey
  dsimp only
  repeat' first
    | with_reducible assumption
    | with_reducible apply State.onJournal_kept
    | exact ⟨rfl, rfl, rfl, rfl, rfl, Nat.le_refl _, fun _ h => h, fun p hp => by cases p <;> first | exact rfl | exact trivial | exact absurd (hA (by decide)) hp⟩
    | with_reducible apply State.clearOpens_kept
    | with_reducible apply State.dropSessions_kept
    | exact Part.sub hA (by decide)

theorem State.keyRemove_kept {A : List Part} {s₀ s : State} (x : Session) (h : Kept A s₀ s) (hA : [.jobs, .transport, .streams, .keys, .audit, .events, .headers, .entropy] ⊆ A := by exact Part.sub (by assumption) (by decide)) : Kept A s₀ (State.keyRemove s x) := by
  unfold State.keyRemove
  dsimp only
  repeat' first
    | with_reducible assumption
    | with_reducible apply State.keyDecided_kept
    | with_reducible apply State.removeKey_kept
    | exact Part.sub hA (by decide)
    | intro _

theorem State.keyCert_kept {A : List Part} {s₀ s : State} (x : Session) (h : Kept A s₀ s) (hA : [.transport, .keys, .audit] ⊆ A := by exact Part.sub (by assumption) (by decide)) : Kept A s₀ (State.keyCert s x) := by
  unfold State.keyCert
  dsimp only
  repeat' first
    | with_reducible assumption
    | with_reducible apply State.keyDecided_kept
    | with_reducible apply State.enrol_kept
    | exact Part.sub hA (by decide)
    | intro _

theorem execKeyOpEnrol_kept {s t : State} (sess : Nat) (e : execKeyOpEnrol sess s = .next t) : Kept [.transport, .keys, .audit] s t := by
  have h := Kept.refl (A := [.transport, .keys, .audit]) s
  have hA := List.Subset.refl ([.transport, .keys, .audit] : List Part)
  unfold execKeyOpEnrol at e
  all_goals first | contradiction | (cases e) | skip
  repeat' first
    | with_reducible assumption
    | with_reducible apply State.ownWrite_kept
    | with_reducible apply State.keyEnrol_kept
    | exact Part.sub hA (by decide)
    | intro _

theorem execKeyOpRemove_kept {s t : State} (sess : Nat) (e : execKeyOpRemove sess s = .next t) : Kept [.jobs, .transport, .streams, .keys, .audit, .events, .headers, .entropy] s t := by
  have h := Kept.refl (A := [.jobs, .transport, .streams, .keys, .audit, .events, .headers, .entropy]) s
  have hA := List.Subset.refl ([.jobs, .transport, .streams, .keys, .audit, .events, .headers, .entropy] : List Part)
  unfold execKeyOpRemove at e
  all_goals first | contradiction | (cases e) | skip
  repeat' first
    | with_reducible assumption
    | with_reducible apply State.ownWrite_kept
    | with_reducible apply State.keyRemove_kept
    | exact Part.sub hA (by decide)
    | intro _

theorem execKeyOpMakerCert_kept {s t : State} (sess : Nat) (e : execKeyOpMakerCert sess s = .next t) : Kept [.transport, .keys, .audit] s t := by
  have h := Kept.refl (A := [.transport, .keys, .audit]) s
  have hA := List.Subset.refl ([.transport, .keys, .audit] : List Part)
  unfold execKeyOpMakerCert at e
  all_goals first | contradiction | (cases e) | skip
  repeat' first
    | with_reducible assumption
    | with_reducible apply State.ownWrite_kept
    | with_reducible apply State.keyCert_kept
    | exact Part.sub hA (by decide)
    | intro _

theorem State.handOver_kept {A : List Part} {s₀ s : State} (h : Kept A s₀ s) (hA : [.transport, .streams, .audit, .events, .headers, .security, .config] ⊆ A := by exact Part.sub (by assumption) (by decide)) : Kept A s₀ (State.handOver s) := by
  unfold State.handOver
  dsimp only
  repeat' first
    | with_reducible assumption
    | with_reducible apply State.audit_kept
    | with_reducible apply State.onSecurity_kept
    | with_reducible apply State.onConfig_kept
    | exact ⟨fun p hp => by cases p <;> first | exact rfl | exact trivial | exact absurd (hA (by decide)) hp⟩
    | with_reducible apply State.done_kept
    | with_reducible apply State.log_kept
    | exact Part.sub hA (by decide)
    | split

theorem execFirmwareHandover_kept {s t : State} (e : execFirmwareHandover s = .next t) : Kept [.transport, .streams, .audit, .events, .headers, .security, .config] s t := by
  have h := Kept.refl (A := [.transport, .streams, .audit, .events, .headers, .security, .config]) s
  have hA := List.Subset.refl ([.transport, .streams, .audit, .events, .headers, .security, .config] : List Part)
  unfold execFirmwareHandover at e
  all_goals first | contradiction | (cases e) | skip
  repeat' first
    | with_reducible assumption
    | with_reducible apply State.handOver_kept

theorem State.abandonFirmware_kept {A : List Part} {s₀ s : State} (h : Kept A s₀ s) (hA : [.tielux, .objects, .transport, .streams, .audit, .security] ⊆ A := by exact Part.sub (by assumption) (by decide)) : Kept A s₀ (State.abandonFirmware s) := by
  unfold State.abandonFirmware
  dsimp only
  repeat' first
    | with_reducible assumption
    | with_reducible apply State.endLoad_kept
    | with_reducible apply State.done_kept
    | with_reducible apply State.onSecurity_kept
    | exact Part.sub hA (by decide)
    | with_reducible refine Kept.foldl ?_ _ ?_
    | intro _
    | split

theorem State.controllerFails_kept {A : List Part} {s₀ s : State} (c : Controller) (h : Kept A s₀ s) (hA : [.tielux, .jobs, .objects, .transport, .streams, .audit, .events, .starts, .headers, .port, .ptp, .security, .entropy, .bist, .config] ⊆ A := by exact Part.sub (by assumption) (by decide)) : Kept A s₀ (State.controllerFails s c) := by
  unfold State.controllerFails
  dsimp only
  repeat' first
    | with_reducible assumption
    | with_reducible apply State.abandonFirmware_kept
    | with_reducible apply State.onSecurity_kept
    | with_reducible apply State.log_kept
    | with_reducible apply State.hubWarm_kept
    | exact Part.sub hA (by decide)
    | with_reducible refine Kept.ite ?_ ?_

theorem execControllerFailed_kept {s t : State} (c : Controller) (e : execControllerFailed c s = .next t) : Kept [.tielux, .jobs, .objects, .transport, .streams, .audit, .events, .starts, .headers, .port, .ptp, .security, .entropy, .bist, .config] s t := by
  have h := Kept.refl (A := [.tielux, .jobs, .objects, .transport, .streams, .audit, .events, .starts, .headers, .port, .ptp, .security, .entropy, .bist, .config]) s
  have hA := List.Subset.refl ([.tielux, .jobs, .objects, .transport, .streams, .audit, .events, .starts, .headers, .port, .ptp, .security, .entropy, .bist, .config] : List Part)
  unfold execControllerFailed at e
  all_goals first | contradiction | (cases e) | skip
  repeat' first
    | with_reducible assumption
    | with_reducible apply State.controllerFails_kept

theorem State.rewriteEnds_kept {A : List Part} {s₀ s : State} (ok : Bool) (h : Kept A s₀ s) (hA : [.transport, .events, .headers, .security] ⊆ A := by exact Part.sub (by assumption) (by decide)) : Kept A s₀ (State.rewriteEnds s ok) := by
  unfold State.rewriteEnds
  repeat' first
    | with_reducible assumption
    | with_reducible apply State.onSecurity_kept
    | with_reducible apply State.log_kept
    | exact Part.sub hA (by decide)
    | with_reducible refine Kept.ite ?_ ?_

theorem execFlashWriteRetry_kept {s t : State} (ok : Bool) (e : execFlashWriteRetry ok s = .next t) : Kept [.transport, .events, .headers, .security] s t := by
  have h := Kept.refl (A := [.transport, .events, .headers, .security]) s
  have hA := List.Subset.refl ([.transport, .events, .headers, .security] : List Part)
  unfold execFlashWriteRetry at e
  all_goals first | contradiction | (cases e) | skip
  repeat' first
    | with_reducible assumption
    | with_reducible apply State.rewriteEnds_kept

theorem execFlashRewriteDone_kept {s t : State} (ok : Bool) (e : execFlashRewriteDone ok s = .next t) : Kept [.transport, .events, .headers, .security] s t := by
  have h := Kept.refl (A := [.transport, .events, .headers, .security]) s
  have hA := List.Subset.refl ([.transport, .events, .headers, .security] : List Part)
  unfold execFlashRewriteDone at e
  all_goals first | contradiction | (cases e) | skip
  repeat' first
    | with_reducible assumption
    | with_reducible apply State.rewriteEnds_kept

theorem State.beacon_kept {A : List Part} {s₀ s : State} (h : Kept A s₀ s) (hA : [.transport] ⊆ A := by exact Part.sub (by assumption) (by decide)) : Kept A s₀ (State.beacon s) := by
  unfold State.beacon
  repeat' first
    | with_reducible assumption
    | with_reducible apply State.emit_kept
    | with_reducible refine Kept.ite ?_ ?_

theorem execFirmwareMissingBeacon_kept {s t : State} (e : execFirmwareMissingBeacon s = .next t) : Kept [.transport] s t := by
  have h := Kept.refl (A := [.transport]) s
  have hA := List.Subset.refl ([.transport] : List Part)
  unfold execFirmwareMissingBeacon at e
  all_goals first | contradiction | (cases e) | skip
  repeat' first
    | with_reducible assumption
    | with_reducible apply State.beacon_kept

theorem State.armScan_kept {A : List Part} {s₀ s : State} (x : Session) (h : Kept A s₀ s) (hA : [.jobs, .transport, .streams, .audit, .events, .headers, .security, .entropy] ⊆ A := by exact Part.sub (by assumption) (by decide)) : Kept A s₀ (State.armScan s x) := by
  unfold State.armScan
  dsimp only
  repeat' first
    | with_reducible assumption
    | with_reducible apply State.auditBy_kept
    | with_reducible apply State.clearOpens_kept
    | with_reducible apply State.dropSessions_kept
    | exact Part.sub hA (by decide)
    | fail_if_no_progress refine Kept.record ?_ rfl rfl rfl rfl rfl rfl ⟨fun p hp => by cases p <;> first | exact rfl | exact ⟨rfl, rfl⟩ | exact ⟨rfl, trivial⟩ | exact ⟨trivial, rfl⟩ | exact absurd (hA (by decide)) hp⟩

theorem State.scanArm_kept {A : List Part} {s₀ s : State} (sess : Nat) (h : Kept A s₀ s) (hA : [.jobs, .transport, .streams, .audit, .events, .headers, .security, .entropy] ⊆ A := by exact Part.sub (by assumption) (by decide)) : Kept A s₀ (State.scanArm s sess) := by
  unfold State.scanArm
  dsimp only
  repeat' first
    | with_reducible assumption
    | with_reducible apply State.popInbox_kept
    | with_reducible apply State.replyOne_kept
    | with_reducible apply State.armScan_kept
    | exact Part.sub hA (by decide)
    | with_reducible refine Kept.ite ?_ ?_
    | split

theorem execScanArm_kept {s t : State} (sess : Nat) (e : execScanArm sess s = .next t) : Kept [.jobs, .transport, .streams, .audit, .events, .headers, .security, .entropy] s t := by
  have h := Kept.refl (A := [.jobs, .transport, .streams, .audit, .events, .headers, .security, .entropy]) s
  have hA := List.Subset.refl ([.jobs, .transport, .streams, .audit, .events, .headers, .security, .entropy] : List Part)
  unfold execScanArm at e
  all_goals first | contradiction | (cases e) | skip
  repeat' first
    | with_reducible assumption
    | with_reducible apply State.scanArm_kept

theorem execScanRelease_kept {s t : State} (e : execScanRelease s = .next t) : Kept [.clusters, .halves, .dies, .tielux, .jobs, .objects, .transport, .streams, .audit, .events, .starts, .headers, .port, .ptp, .security, .entropy, .bist, .config] s t := by
  obtain rfl := Host.Outcome.next.inj e
  split
  · exact State.moduleWarm_kept (Kept.refl s) (List.Subset.refl _)
  · exact Kept.refl s

theorem execScanTimeout_kept {s t : State} (e : execScanTimeout s = .next t) : Kept [.clusters, .halves, .dies, .tielux, .jobs, .objects, .transport, .streams, .audit, .events, .starts, .headers, .port, .ptp, .security, .entropy, .bist, .config] s t := by
  obtain rfl := Host.Outcome.next.inj e
  split
  · exact State.moduleWarm_kept (Kept.refl s) (List.Subset.refl _)
  · exact Kept.refl s

theorem State.cfgWrite_kept {A : List Part} {s₀ s : State} (x : Session) (h : Kept A s₀ s) (hA : [.audit, .config] ⊆ A := by exact Part.sub (by assumption) (by decide)) : Kept A s₀ (State.cfgWrite s x) := by
  unfold State.cfgWrite
  dsimp only
  repeat' first
    | with_reducible assumption
    | with_reducible apply State.onConfig_kept
    | exact ⟨fun p hp => by cases p <;> first | exact rfl | exact trivial | exact absurd (hA (by decide)) hp⟩
    | with_reducible apply State.auditBy_kept
    | exact Part.sub hA (by decide)
    | with_reducible refine Kept.ite ?_ ?_

theorem State.unclaim_kept {A : List Part} {s₀ s : State} (x : Session) (h : Kept A s₀ s) (hA : [.jobs, .transport, .streams, .keys, .audit, .events, .headers, .entropy, .config] ⊆ A := by exact Part.sub (by assumption) (by decide)) : Kept A s₀ (State.unclaim s x) := by
  unfold State.unclaim
  dsimp only
  repeat' first
    | with_reducible assumption
    | with_reducible apply State.onJournal_kept
    | exact ⟨rfl, rfl, rfl, rfl, rfl, Nat.le_refl _, fun _ h => h, fun p hp => by cases p <;> first | exact rfl | exact trivial | exact absurd (hA (by decide)) hp⟩
    | with_reducible apply State.auditBy_kept
    | with_reducible apply State.onConfig_kept
    | exact ⟨fun p hp => by cases p <;> first | exact rfl | exact trivial | exact absurd (hA (by decide)) hp⟩
    | with_reducible apply State.clearOpens_kept
    | with_reducible apply State.dropSessions_kept
    | exact Part.sub hA (by decide)

theorem State.cfgOp_kept {A : List Part} {s₀ s : State} (sess : Nat) (code : Nat) (action : Nat) (go : State → Session → State) (hgo : ∀ a0 a1, Kept A s₀ a0 → Kept A s₀ (go a0 a1)) (h : Kept A s₀ s) (hA : [.transport] ⊆ A := by exact Part.sub (by assumption) (by decide)) : Kept A s₀ (State.cfgOp s sess code action go) := by
  unfold State.cfgOp
  dsimp only
  repeat' first
    | with_reducible assumption
    | with_reducible apply hgo
    | with_reducible apply State.popInbox_kept
    | with_reducible apply State.replyOne_kept
    | with_reducible refine Kept.ite ?_ ?_
    | split

theorem execCfgOpWriteRecord_kept {s t : State} (sess : Nat) (e : execCfgOpWriteRecord sess s = .next t) : Kept [.transport, .audit, .config] s t := by
  have h := Kept.refl (A := [.transport, .audit, .config]) s
  have hA := List.Subset.refl ([.transport, .audit, .config] : List Part)
  unfold execCfgOpWriteRecord at e
  all_goals first | contradiction | (cases e) | skip
  repeat' first
    | with_reducible assumption
    | with_reducible apply State.cfgOp_kept
    | with_reducible apply State.cfgWrite_kept
    | exact Part.sub hA (by decide)
    | intro _

theorem execCfgOpUnclaim_kept {s t : State} (sess : Nat) (e : execCfgOpUnclaim sess s = .next t) : Kept [.jobs, .transport, .streams, .keys, .audit, .events, .headers, .entropy, .config] s t := by
  have h := Kept.refl (A := [.jobs, .transport, .streams, .keys, .audit, .events, .headers, .entropy, .config]) s
  have hA := List.Subset.refl ([.jobs, .transport, .streams, .keys, .audit, .events, .headers, .entropy, .config] : List Part)
  unfold execCfgOpUnclaim at e
  all_goals first | contradiction | (cases e) | skip
  repeat' first
    | with_reducible assumption
    | with_reducible apply State.cfgOp_kept
    | with_reducible apply State.unclaim_kept
    | exact Part.sub hA (by decide)
    | intro _

theorem State.cfgWriteEnds_kept {A : List Part} {s₀ s : State} (ok : Bool) (h : Kept A s₀ s) (hA : [.config] ⊆ A := by exact Part.sub (by assumption) (by decide)) : Kept A s₀ (State.cfgWriteEnds s ok) := by
  unfold State.cfgWriteEnds
  repeat' first
    | with_reducible assumption
    | with_reducible apply State.onConfig_kept
    | exact ⟨fun p hp => by cases p <;> first | exact rfl | exact trivial | exact absurd (hA (by decide)) hp⟩
    | with_reducible refine Kept.ite ?_ ?_
    | split

theorem execCfgWriteDone_kept {s t : State} (ok : Bool) (e : execCfgWriteDone ok s = .next t) : Kept [.config] s t := by
  have h := Kept.refl (A := [.config]) s
  have hA := List.Subset.refl ([.config] : List Part)
  unfold execCfgWriteDone at e
  all_goals first | contradiction | (cases e) | skip
  repeat' first
    | with_reducible assumption
    | with_reducible apply State.cfgWriteEnds_kept

theorem State.quoteSigned_kept {A : List Part} {s₀ s : State} (x : Session) (nonce : Bytes) (h : Kept A s₀ s) (hA : [.transport, .entropy, .free] ⊆ A := by exact Part.sub (by assumption) (by decide)) : Kept A s₀ (State.quoteSigned s x nonce) := by
  unfold State.quoteSigned
  dsimp only
  repeat' first
    | with_reducible assumption
    | with_reducible apply State.send_kept
    | with_reducible apply State.popInbox_kept
    | with_reducible apply State.drbg_kept
    | exact Part.sub hA (by decide)
    | with_reducible refine Kept.ite ?_ ?_

theorem execQuote_kept {s t : State} (sess : Nat) (nonce : Bytes) (e : execQuote sess nonce s = .next t) : Kept [.transport, .entropy, .free] s t := by
  have h := Kept.refl (A := [.transport, .entropy, .free]) s
  have hA := List.Subset.refl ([.transport, .entropy, .free] : List Part)
  unfold execQuote at e
  repeat' split at e
  all_goals first | contradiction | (cases e) | skip
  repeat' first
    | with_reducible assumption
    | with_reducible apply State.quoteSigned_kept

theorem State.quoteRecord_kept {A : List Part} {s₀ s : State} (x : Session) (h : Kept A s₀ s) (hA : [.transport] ⊆ A := by exact Part.sub (by assumption) (by decide)) : Kept A s₀ (State.quoteRecord s x) := by
  unfold State.quoteRecord
  dsimp only
  repeat' first
    | with_reducible assumption
    | with_reducible apply State.send_kept
    | with_reducible apply State.popInbox_kept

theorem execQuoteConfigRecord_kept {s t : State} (sess : Nat) (_nonce : Bytes) (e : execQuoteConfigRecord sess _nonce s = .next t) : Kept [.transport] s t := by
  have h := Kept.refl (A := [.transport]) s
  have hA := List.Subset.refl ([.transport] : List Part)
  unfold execQuoteConfigRecord at e
  repeat' split at e
  all_goals first | contradiction | (cases e) | skip
  repeat' first
    | with_reducible assumption
    | with_reducible apply State.quoteRecord_kept

end Sys2Proof.Machine
end

