-- ==== Sys2Proof/Laws/RegRead.lean ====
section
/-! SUPPORT. What the operations of Machine/RegRead.lean keep (Laws/Kept.lean). -/

set_option Elab.async false

namespace Sys2Proof.Machine

open Sys2Proof Sys2Proof.Safety

-- The proofs before this one are checked before the next ones start.
theorem State.wakePage_kept {A : List Part} {s₀ s : State} (x1 : RegPage) (h : Kept A s₀ s) (hA : [.halves, .dies, .tielux, .clocks] ⊆ A := by exact Part.sub (by assumption) (by decide)) : Kept A s₀ (State.wakePage s x1) := by
  unfold State.wakePage
  repeat' first
    | with_reducible assumption
    | with_reducible apply State.wakeHub_kept
    | with_reducible apply State.wakeSpine_kept
    | with_reducible apply State.wakeHalf_kept
    | with_reducible apply State.wakeStack_kept
    | exact Part.sub hA (by decide)
    | split

theorem State.modSel_kept {A : List Part} {s₀ s : State} (x : Session) (f : Selectors → Selectors) (h : Kept A s₀ s) (hA : [.transport] ⊆ A := by exact Part.sub (by assumption) (by decide)) : Kept A s₀ (State.modSel s x f) := by
  unfold State.modSel
  repeat' first
    | with_reducible assumption
    | with_reducible apply State.modSession_kept

theorem State.latchLows_kept {A : List Part} {s₀ s : State} (x : Session) (g : RegPage) (off : Nat) (h : Kept A s₀ s) (hA : [.transport] ⊆ A := by exact Part.sub (by assumption) (by decide)) : Kept A s₀ (State.latchLows s x g off) := by
  unfold State.latchLows
  repeat' first
    | with_reducible assumption
    | with_reducible apply State.modSel_kept
    | with_reducible refine Kept.foldl ?_ _ ?_
    | intro _

theorem State.readReg_kept {A : List Part} {s₀ s : State} (x : Session) (g : RegPage) (off : Nat) (h : Kept A s₀ s) (hA : [.transport] ⊆ A := by exact Part.sub (by assumption) (by decide)) : Kept A s₀ (State.readReg s x g off).2 := by
  unfold State.readReg
  repeat' first
    | with_reducible assumption
    | with_reducible apply State.latchLows_kept
    | split

theorem State.readReg_kept_eq {A : List Part} {s₀ s t : State} {x : Session} {g : RegPage} {off : Nat} {v : Word} (h : Kept A s₀ s) (e : State.readReg s x g off = (v, t)) (hA : [.transport] ⊆ A := by exact Part.sub (by assumption) (by decide)) : Kept A s₀ t := by
  have k := State.readReg_kept (x := x) (g := g) (off := off) h
  rw [e] at k
  exact k

end Sys2Proof.Machine
end

