-- ==== Sys2Proof/Laws/Registers.lean ====
section
/-! SUPPORT. What the operations of Machine/Registers.lean keep (Laws/Kept.lean). -/

set_option Elab.async false

namespace Sys2Proof.Machine

open Sys2Proof Sys2Proof.Safety

-- The proofs before this one are checked before the next ones start.
theorem State.selectJob_kept {A : List Part} {s₀ s : State} (x : Session) (data : Word) (h : Kept A s₀ s) (hA : [.transport] ⊆ A := by exact Part.sub (by assumption) (by decide)) : Kept A s₀ (State.selectJob s x data) := by
  unfold State.selectJob
  repeat' first
    | with_reducible assumption
    | with_reducible apply State.modSel_kept

theorem State.selectEvent_kept {A : List Part} {s₀ s : State} (x : Session) (data : Word) (h : Kept A s₀ s) (hA : [.transport] ⊆ A := by exact Part.sub (by assumption) (by decide)) : Kept A s₀ (State.selectEvent s x data) := by
  unfold State.selectEvent
  dsimp only
  repeat' first
    | with_reducible assumption
    | with_reducible apply State.modSel_kept

theorem State.selectAudit_kept {A : List Part} {s₀ s : State} (x : Session) (data : Word) (h : Kept A s₀ s) (hA : [.transport] ⊆ A := by exact Part.sub (by assumption) (by decide)) : Kept A s₀ (State.selectAudit s x data) := by
  unfold State.selectAudit
  dsimp only
  repeat' first
    | with_reducible assumption
    | with_reducible apply State.modSel_kept

theorem State.modHeader_kept {A : List Part} {s₀ s : State} (g : RegPage) (f : PageHeader → PageHeader) (h : Kept A s₀ s) (hA : [.headers] ⊆ A := by exact Part.sub (by assumption) (by decide)) : Kept A s₀ (State.modHeader s g f) := by
  unfold State.modHeader
  repeat' first
    | with_reducible assumption
    | fail_if_no_progress refine Kept.record ?_ rfl rfl rfl rfl rfl rfl ⟨fun p hp => by cases p <;> first | exact rfl | exact ⟨rfl, rfl⟩ | exact ⟨rfl, trivial⟩ | exact ⟨trivial, rfl⟩ | exact absurd (hA (by decide)) hp⟩

theorem State.forceEvents_kept {A : List Part} {s₀ s : State} (g : RegPage) (data : Word) (h : Kept A s₀ s) (hA : [.transport, .events, .headers] ⊆ A := by exact Part.sub (by assumption) (by decide)) : Kept A s₀ (State.forceEvents s g data) := by
  unfold State.forceEvents
  repeat' first
    | with_reducible assumption
    | with_reducible apply State.logOn_kept
    | with_reducible refine Kept.foldl ?_ _ ?_
    | intro _

theorem State.retryUnit_kept {A : List Part} {s₀ s : State} (x1 : RegPage) (h : Kept A s₀ s) (hA : [.halves, .dies, .tielux, .clocks, .config] ⊆ A := by exact Part.sub (by assumption) (by decide)) : Kept A s₀ (State.retryUnit s x1) := by
  unfold State.retryUnit
  repeat' first
    | with_reducible assumption
    | with_reducible apply State.onConfig_kept
    | exact ⟨fun p hp => by cases p <;> first | exact rfl | exact trivial | exact absurd (hA (by decide)) hp⟩
    | with_reducible apply State.wakeHalf_kept
    | with_reducible apply State.modHalf_kept
    | with_reducible apply State.wakeStack_kept
    | with_reducible apply State.modStack_kept
    | exact Part.sub hA (by decide)
    | with_reducible refine Kept.ite ?_ ?_
    | split

theorem State.wakeRequest_kept {A : List Part} {s₀ s : State} (g : RegPage) (h : Kept A s₀ s) (hA : [.halves, .dies, .tielux, .clocks] ⊆ A := by exact Part.sub (by assumption) (by decide)) : Kept A s₀ (State.wakeRequest s g) := by
  unfold State.wakeRequest
  repeat' first
    | with_reducible assumption
    | with_reducible apply State.wakePage_kept
    | with_reducible refine Kept.ite ?_ ?_

theorem State.writeHeader_kept {A : List Part} {s₀ s : State} (g : RegPage) (off : Nat) (data : Word) (h : Kept A s₀ s) (hA : [.halves, .dies, .tielux, .transport, .events, .headers, .clocks, .config] ⊆ A := by exact Part.sub (by assumption) (by decide)) : Kept A s₀ (State.writeHeader s g off data) := by
  unfold State.writeHeader
  dsimp only
  repeat' first
    | with_reducible assumption
    | with_reducible apply State.wakeRequest_kept
    | with_reducible apply State.retryUnit_kept
    | with_reducible apply State.modHeader_kept
    | with_reducible apply State.forceEvents_kept
    | exact Part.sub hA (by decide)
    | with_reducible refine Kept.ite ?_ ?_
    | split

theorem State.setSettings_kept {A : List Part} {s₀ s : State} (f : Settings → Settings) (h : Kept A s₀ s)
    (hf : s.journal.settings.minSecurityVersion ≤ (f s.journal.settings).minSecurityVersion)
    (hA : [.settings] ⊆ A := by exact Part.sub (by assumption) (by decide)) : Kept A s₀ (State.setSettings s f) :=
  h.updJ _ rfl rfl rfl rfl rfl rfl rfl hf (fun _ h => h) rfl rfl rfl ⟨fun p hp => by cases p <;> first | exact rfl | exact ⟨rfl, rfl⟩ | exact ⟨rfl, trivial⟩ | exact ⟨trivial, rfl⟩ | exact absurd (hA (by decide)) hp⟩

theorem State.writePort_kept {A : List Part} {s₀ s : State} (off : Nat) (data : Word) (h : Kept A s₀ s) (hA : [.transport, .settings, .events, .starts, .headers, .port] ⊆ A := by exact Part.sub (by assumption) (by decide)) : Kept A s₀ (State.writePort s off data) := by
  unfold State.writePort
  dsimp only
  repeat' first
    | with_reducible assumption
    | with_reducible apply State.setSettings_kept
    | exact Nat.le_refl _
    | with_reducible apply State.onPort_kept
    | with_reducible apply State.resetPort_kept
    | exact Part.sub hA (by decide)
    | with_reducible refine Kept.ite ?_ ?_

theorem State.writePtp_kept {A : List Part} {s₀ s : State} (off : Nat) (data : Word) (h : Kept A s₀ s) (hA : [.settings] ⊆ A := by exact Part.sub (by assumption) (by decide)) : Kept A s₀ (State.writePtp s off data) := by
  unfold State.writePtp
  repeat' first
    | with_reducible assumption
    | with_reducible apply State.setSettings_kept
    | exact Nat.le_refl _
    | with_reducible refine Kept.ite ?_ ?_

theorem State.writeBudget_kept {A : List Part} {s₀ s : State} (data : Word) (h : Kept A s₀ s) (hA : [.jobs, .settings] ⊆ A := by exact Part.sub (by assumption) (by decide)) : Kept A s₀ (State.writeBudget s data) := by
  unfold State.writeBudget
  dsimp only
  repeat' first
    | with_reducible assumption
    | with_reducible apply State.raiseSettings_kept
    | with_reducible apply State.rebudget_kept
    | with_reducible apply State.setSettings_kept
    | exact Nat.le_refl _
    | exact Part.sub hA (by decide)
    | with_reducible refine Kept.ite ?_ ?_

theorem State.writeSigning_kept {A : List Part} {s₀ s : State} (data : Word) (h : Kept A s₀ s) (hA : [.settings] ⊆ A := by exact Part.sub (by assumption) (by decide)) : Kept A s₀ (State.writeSigning s data) := by
  unfold State.writeSigning
  dsimp only
  repeat' first
    | with_reducible assumption
    | with_reducible apply State.setSettings_kept
    | exact Nat.le_refl _

theorem State.keyOp_kept {A : List Part} {s₀ s : State} (x : Session) (data : Word) (h : Kept A s₀ s) (hA : [.jobs, .transport, .streams, .keys, .audit, .events, .headers, .entropy] ⊆ A := by exact Part.sub (by assumption) (by decide)) : Kept A s₀ (State.keyOp s x data) := by
  unfold State.keyOp
  repeat' first
    | with_reducible assumption
    | with_reducible apply State.keyEnrol_kept
    | with_reducible apply State.keyRemove_kept
    | with_reducible apply State.keyCert_kept
    | exact Part.sub hA (by decide)
    | split

theorem State.writeEntropy_kept {A : List Part} {s₀ s : State} (x : Session) (data : Word) (h : Kept A s₀ s) (hA : [.transport, .settings, .audit, .events, .headers, .entropy] ⊆ A := by exact Part.sub (by assumption) (by decide)) : Kept A s₀ (State.writeEntropy s x data) := by
  unfold State.writeEntropy
  dsimp only
  repeat' first
    | with_reducible assumption
    | with_reducible apply State.rawMode_kept
    | with_reducible apply State.drbgMode_kept
    | with_reducible apply State.alarmClear_kept
    | exact Part.sub hA (by decide)
    | with_reducible refine Kept.ite ?_ ?_

theorem State.writeSetting_kept {A : List Part} {s₀ s : State} (p : Nat) (off : Nat) (data : Word) (h : Kept A s₀ s) (hA : [.jobs, .transport, .settings, .events, .starts, .headers, .port] ⊆ A := by exact Part.sub (by assumption) (by decide)) : Kept A s₀ (State.writeSetting s p off data) := by
  unfold State.writeSetting
  dsimp only
  repeat' first
    | with_reducible assumption
    | with_reducible apply State.writePort_kept
    | with_reducible apply State.writePtp_kept
    | with_reducible apply State.setSettings_kept
    | exact Nat.le_refl _
    | exact Nat.le_max_left _ _
    | with_reducible apply State.writeBudget_kept
    | with_reducible apply State.writeSigning_kept
    | exact Part.sub hA (by decide)
    | with_reducible refine Kept.ite ?_ ?_
    | split

theorem State.auditWrite_kept {A : List Part} {s₀ s : State} (x : Session) (addr : Word) (data : Word) (h : Kept A s₀ s) (hA : [.audit] ⊆ A := by exact Part.sub (by assumption) (by decide)) : Kept A s₀ (State.auditWrite s x addr data) := by
  unfold State.auditWrite
  repeat' first
    | with_reducible assumption
    | with_reducible apply State.auditBy_kept

theorem State.cfgWriteReg_kept {A : List Part} {s₀ s : State} (x : Session) (data : Word) (h : Kept A s₀ s) (hA : [.jobs, .transport, .streams, .keys, .audit, .events, .headers, .entropy, .config] ⊆ A := by exact Part.sub (by assumption) (by decide)) : Kept A s₀ (State.cfgWriteReg s x data).1 := by
  unfold State.cfgWriteReg
  dsimp only
  repeat' first
    | with_reducible assumption
    | with_reducible apply State.cfgWrite_kept
    | with_reducible apply State.unclaim_kept
    | exact Part.sub hA (by decide)
    | split

theorem State.cfgWriteReg_kept_eq {A : List Part} {s₀ s t : State} {x : Session} {data : Word} {v : Nat} (h : Kept A s₀ s) (e : State.cfgWriteReg s x data = (t, v)) (hA : [.jobs, .transport, .streams, .keys, .audit, .events, .headers, .entropy, .config] ⊆ A := by exact Part.sub (by assumption) (by decide)) : Kept A s₀ t := by
  have k := State.cfgWriteReg_kept (x := x) (data := data) h
  rw [e] at k
  exact k

theorem State.writeSecurity_kept {A : List Part} {s₀ s : State} (x : Session) (addr : Word) (data : Word) (h : Kept A s₀ s) (hA : [.jobs, .transport, .streams, .settings, .audit, .events, .starts, .headers, .port, .security, .entropy] ⊆ A := by exact Part.sub (by assumption) (by decide)) : Kept A s₀ (State.writeSecurity s x addr data).1 := by
  unfold State.writeSecurity
  repeat' first
    | with_reducible assumption
    | with_reducible apply State.armScan_kept
    | with_reducible apply State.writeSetting_kept
    | with_reducible apply State.auditWrite_kept
    | exact Part.sub hA (by decide)
    | split

theorem State.writeSecurity_kept_eq {A : List Part} {s₀ s t : State} {x : Session} {addr : Word} {data : Word} {v : Nat} (h : Kept A s₀ s) (e : State.writeSecurity s x addr data = (t, v)) (hA : [.jobs, .transport, .streams, .settings, .audit, .events, .starts, .headers, .port, .security, .entropy] ⊆ A := by exact Part.sub (by assumption) (by decide)) : Kept A s₀ t := by
  have k := State.writeSecurity_kept (x := x) (addr := addr) (data := data) h
  rw [e] at k
  exact k

theorem State.writeHub_kept {A : List Part} {s₀ s : State} (x : Session) (p : Nat) (off : Nat) (addr : Word) (data : Word) (h : Kept A s₀ s) (hA : [.jobs, .transport, .streams, .settings, .keys, .audit, .events, .starts, .headers, .port, .security, .entropy, .config] ⊆ A := by exact Part.sub (by assumption) (by decide)) : Kept A s₀ (State.writeHub s x p off addr data).1 := by
  unfold State.writeHub
  dsimp only
  repeat' first
    | with_reducible assumption
    | with_reducible apply State.selectEvent_kept
    | with_reducible apply State.cfgWriteReg_kept
    | with_reducible apply State.modSel_kept
    | with_reducible apply State.selectJob_kept
    | with_reducible apply State.selectAudit_kept
    | with_reducible apply State.writeEntropy_kept
    | with_reducible apply State.writeSecurity_kept
    | with_reducible apply State.keyOp_kept
    | with_reducible apply State.writeSetting_kept
    | with_reducible apply State.auditWrite_kept
    | exact Part.sub hA (by decide)
    | split

theorem State.writeHub_kept_eq {A : List Part} {s₀ s t : State} {x : Session} {p : Nat} {off : Nat} {addr : Word} {data : Word} {v : Nat} (h : Kept A s₀ s) (e : State.writeHub s x p off addr data = (t, v)) (hA : [.jobs, .transport, .streams, .settings, .keys, .audit, .events, .starts, .headers, .port, .security, .entropy, .config] ⊆ A := by exact Part.sub (by assumption) (by decide)) : Kept A s₀ t := by
  have k := State.writeHub_kept (x := x) (p := p) (off := off) (addr := addr) (data := data) h
  rw [e] at k
  exact k

theorem State.writeReg_kept {A : List Part} {s₀ s : State} (x : Session) (g : RegPage) (off : Nat) (addr : Word) (data : Word) (h : Kept A s₀ s) (hA : [.halves, .dies, .tielux, .jobs, .transport, .streams, .settings, .keys, .audit, .events, .starts, .headers, .port, .clocks, .security, .entropy, .config] ⊆ A := by exact Part.sub (by assumption) (by decide)) : Kept A s₀ (State.writeReg s x g off addr data).1 := by
  unfold State.writeReg
  repeat' first
    | with_reducible assumption
    | with_reducible apply State.writeHeader_kept
    | with_reducible apply State.auditWrite_kept
    | with_reducible apply State.writeHub_kept
    | exact Part.sub hA (by decide)
    | split

theorem State.writeReg_kept_eq {A : List Part} {s₀ s t : State} {x : Session} {g : RegPage} {off : Nat} {addr : Word} {data : Word} {v : Nat} (h : Kept A s₀ s) (e : State.writeReg s x g off addr data = (t, v)) (hA : [.halves, .dies, .tielux, .jobs, .transport, .streams, .settings, .keys, .audit, .events, .starts, .headers, .port, .clocks, .security, .entropy, .config] ⊆ A := by exact Part.sub (by assumption) (by decide)) : Kept A s₀ t := by
  have k := State.writeReg_kept (x := x) (g := g) (off := off) (addr := addr) (data := data) h
  rw [e] at k
  exact k

theorem State.readStream_kept {A : List Part} {s₀ s : State} {off : Nat} {r : EntryDone} (h : Kept A s₀ s) (e : State.readStream s off = some r) (hA : [.entropy, .free] ⊆ A := by exact Part.sub (by assumption) (by decide)) : Kept A s₀ r.state := by
  unfold State.readStream at e
  split at e
  · split at e
    · cases e
      exact h
    · split at e
      · cases e
        exact State.drbg_kept 3 4 h
      · cases e
  · split at e
    · cases e
      exact h.upd _ rfl rfl rfl rfl rfl rfl ⟨fun p hp => by cases p <;> first | exact rfl | exact ⟨rfl, rfl⟩ | exact ⟨rfl, trivial⟩ | exact ⟨trivial, rfl⟩ | exact absurd (hA (by decide)) hp⟩
    · cases e
      exact h

theorem State.reachReg_kept {A : List Part} {s₀ s : State} {x : Session} {g : RegPage} {off : Nat} {e : RegEntry} {r : EntryDone} (h : Kept A s₀ s)
    (k : State.reachReg s x g off e = some r) (hA : [.halves, .dies, .tielux, .jobs, .transport, .streams, .settings, .keys, .audit, .events, .starts, .headers, .port, .clocks, .security, .entropy, .config, .free] ⊆ A := by exact Part.sub (by assumption) (by decide)) : Kept A s₀ r.state := by
  unfold State.reachReg at k
  have h1 := State.wakePage_kept g h
  dsimp only at k
  split at k
  · split at k
    · cases k
      exact State.writeReg_kept _ _ _ _ _ h1
    · cases k
      exact h1
  · split at k
    · exact State.readStream_kept h1 k
    · cases k
      exact State.readReg_kept _ _ _ h1

theorem State.regEntry_kept {A : List Part} {s₀ s : State} {x : Session} {e : RegEntry} {r : EntryDone} (h : Kept A s₀ s)
    (k : State.regEntry s x e = some r) (hA : [.halves, .dies, .tielux, .jobs, .transport, .streams, .settings, .keys, .audit, .events, .starts, .headers, .port, .clocks, .security, .entropy, .config, .free] ⊆ A := by exact Part.sub (by assumption) (by decide)) : Kept A s₀ r.state := by
  unfold State.regEntry at k
  dsimp only at k
  repeat' split at k
  all_goals first | exact State.reachReg_kept h k | (cases k; first | exact h | exact State.writeHeader_kept _ _ _ (State.auditWrite_kept _ _ _ h))

theorem State.regEntries_kept {A : List Part} {s₀ s t : State} {x : Session} {l : List RegEntry} {v : List (RegEntry × BitVec 16)} (h : Kept A s₀ s)
    (e : State.regEntries s x l = some (t, v)) (hA : [.halves, .dies, .tielux, .jobs, .transport, .streams, .settings, .keys, .audit, .events, .starts, .headers, .port, .clocks, .security, .entropy, .config, .free] ⊆ A := by exact Part.sub (by assumption) (by decide)) : Kept A s₀ t := by
  induction l generalizing s v with
  | nil =>
    cases e
    exact h
  | cons a l ih =>
    rw [State.regEntries] at e
    cases hk : s.regEntry x a with
    | none =>
      rw [hk] at e
      cases e
    | some r =>
      rw [hk] at e
      dsimp only at e
      cases hq : r.state.regEntries x l with
      | none =>
        rw [hq] at e
        cases e
      | some q =>
        rw [hq] at e
        cases e
        exact ih (v := q.2) (State.regEntry_kept h hk) hq

theorem State.regBatch_kept {A : List Part} {s₀ s : State} (x : Session) (tag : Nat) (es : List RegEntry) (h : Kept A s₀ s) (hA : [.halves, .dies, .tielux, .jobs, .transport, .streams, .settings, .keys, .audit, .events, .starts, .headers, .port, .clocks, .security, .entropy, .config, .free] ⊆ A := by exact Part.sub (by assumption) (by decide)) : Kept A s₀ (State.regBatch s x tag es) := by
  unfold State.regBatch
  dsimp only
  repeat' first
    | with_reducible assumption
    | with_reducible apply State.popInbox_kept
    | with_reducible apply State.send_kept
    | refine State.regEntries_kept ?_ (by assumption)
    | exact Part.sub hA (by decide)
    | with_reducible refine Kept.ite ?_ ?_
    | split

theorem execRegBatch_kept {s t : State} (sess : Nat) (tag : Nat) (entries : List RegEntry) (e : execRegBatch sess tag entries s = .next t) : Kept [.halves, .dies, .tielux, .jobs, .transport, .streams, .settings, .keys, .audit, .events, .starts, .headers, .port, .clocks, .security, .entropy, .config, .free] s t := by
  have h := Kept.refl (A := [.halves, .dies, .tielux, .jobs, .transport, .streams, .settings, .keys, .audit, .events, .starts, .headers, .port, .clocks, .security, .entropy, .config, .free]) s
  have hA := List.Subset.refl ([.halves, .dies, .tielux, .jobs, .transport, .streams, .settings, .keys, .audit, .events, .starts, .headers, .port, .clocks, .security, .entropy, .config, .free] : List Part)
  unfold execRegBatch at e
  repeat' split at e
  all_goals first | contradiction | (cases e) | skip
  repeat' first
    | with_reducible assumption
    | with_reducible apply State.regBatch_kept

theorem State.oneEntry_kept {A : List Part} {s₀ s : State} (sess : Nat) (e : RegEntry) (h : Kept A s₀ s) (hA : [.halves, .dies, .tielux, .jobs, .transport, .streams, .settings, .keys, .audit, .events, .starts, .headers, .port, .clocks, .security, .entropy, .config, .free] ⊆ A := by exact Part.sub (by assumption) (by decide)) : Kept A s₀ (State.oneEntry s sess e) := by
  unfold State.oneEntry
  split
  · exact h
  · split
    · exact h
    · rename_i hk
      exact State.replyOne_kept _ _ _ _ _ (State.regEntry_kept (State.popInbox_kept _ h) hk)

theorem execRegisterWrite_kept {s t : State} (sess : Nat) (addr : Word) (data : Word) (e : execRegisterWrite sess addr data s = .next t) : Kept [.halves, .dies, .tielux, .jobs, .transport, .streams, .settings, .keys, .audit, .events, .starts, .headers, .port, .clocks, .security, .entropy, .config, .free] s t := by
  have h := Kept.refl (A := [.halves, .dies, .tielux, .jobs, .transport, .streams, .settings, .keys, .audit, .events, .starts, .headers, .port, .clocks, .security, .entropy, .config, .free]) s
  have hA := List.Subset.refl ([.halves, .dies, .tielux, .jobs, .transport, .streams, .settings, .keys, .audit, .events, .starts, .headers, .port, .clocks, .security, .entropy, .config, .free] : List Part)
  unfold execRegisterWrite at e
  all_goals first | contradiction | (cases e) | skip
  repeat' first
    | with_reducible assumption
    | with_reducible apply State.oneEntry_kept

theorem execHighWordRead_kept {s t : State} (sess : Nat) (addr : Word) (e : execHighWordRead sess addr s = .next t) : Kept [.halves, .dies, .tielux, .jobs, .transport, .streams, .settings, .keys, .audit, .events, .starts, .headers, .port, .clocks, .security, .entropy, .config, .free] s t := by
  have h := Kept.refl (A := [.halves, .dies, .tielux, .jobs, .transport, .streams, .settings, .keys, .audit, .events, .starts, .headers, .port, .clocks, .security, .entropy, .config, .free]) s
  have hA := List.Subset.refl ([.halves, .dies, .tielux, .jobs, .transport, .streams, .settings, .keys, .audit, .events, .starts, .headers, .port, .clocks, .security, .entropy, .config, .free] : List Part)
  unfold execHighWordRead at e
  all_goals first | contradiction | (cases e) | skip
  repeat' first
    | with_reducible assumption
    | with_reducible apply State.oneEntry_kept

theorem execJobSel_kept {s t : State} (sess : Nat) (data : Word) (e : execJobSel sess data s = .next t) : Kept [.transport] s t := by
  have h := Kept.refl (A := [.transport]) s
  have hA := List.Subset.refl ([.transport] : List Part)
  unfold execJobSel at e
  all_goals first | contradiction | (cases e) | skip
  repeat' first
    | with_reducible assumption
    | with_reducible apply State.ownWrite_kept
    | with_reducible apply State.selectJob_kept
    | intro _

theorem execAuditSelLo_kept {s t : State} (sess : Nat) (data : Word) (e : execAuditSelLo sess data s = .next t) : Kept [.transport] s t := by
  have h := Kept.refl (A := [.transport]) s
  have hA := List.Subset.refl ([.transport] : List Part)
  unfold execAuditSelLo at e
  all_goals first | contradiction | (cases e) | skip
  repeat' first
    | with_reducible assumption
    | with_reducible apply State.ownWrite_kept
    | with_reducible apply State.selectAudit_kept
    | intro _

theorem execEvtSel_kept {s t : State} (sess : Nat) (data : Word) (e : execEvtSel sess data s = .next t) : Kept [.transport] s t := by
  have h := Kept.refl (A := [.transport]) s
  have hA := List.Subset.refl ([.transport] : List Part)
  unfold execEvtSel at e
  all_goals first | contradiction | (cases e) | skip
  repeat' first
    | with_reducible assumption
    | with_reducible apply State.ownWrite_kept
    | with_reducible apply State.selectEvent_kept
    | intro _

theorem State.headerEntry_kept {A : List Part} {s₀ s : State} (sess : Nat) (page : Nat) (off : Nat) (data : Word) (h : Kept A s₀ s) (hA : [.halves, .dies, .tielux, .jobs, .transport, .streams, .settings, .keys, .audit, .events, .starts, .headers, .port, .clocks, .security, .entropy, .config, .free] ⊆ A := by exact Part.sub (by assumption) (by decide)) : Kept A s₀ (State.headerEntry s sess page off data) := by
  unfold State.headerEntry
  repeat' first
    | with_reducible assumption
    | with_reducible apply State.oneEntry_kept

theorem execEvtForce_kept {s t : State} (sess : Nat) (page : Nat) (data : Word) (e : execEvtForce sess page data s = .next t) : Kept [.halves, .dies, .tielux, .jobs, .transport, .streams, .settings, .keys, .audit, .events, .starts, .headers, .port, .clocks, .security, .entropy, .config, .free] s t := by
  have h := Kept.refl (A := [.halves, .dies, .tielux, .jobs, .transport, .streams, .settings, .keys, .audit, .events, .starts, .headers, .port, .clocks, .security, .entropy, .config, .free]) s
  have hA := List.Subset.refl ([.halves, .dies, .tielux, .jobs, .transport, .streams, .settings, .keys, .audit, .events, .starts, .headers, .port, .clocks, .security, .entropy, .config, .free] : List Part)
  unfold execEvtForce at e
  all_goals first | contradiction | (cases e) | skip
  repeat' first
    | with_reducible assumption
    | with_reducible apply State.headerEntry_kept

theorem execWake_kept {s t : State} (sess : Nat) (page : Nat) (e : execWake sess page s = .next t) : Kept [.halves, .dies, .tielux, .jobs, .transport, .streams, .settings, .keys, .audit, .events, .starts, .headers, .port, .clocks, .security, .entropy, .config, .free] s t := by
  have h := Kept.refl (A := [.halves, .dies, .tielux, .jobs, .transport, .streams, .settings, .keys, .audit, .events, .starts, .headers, .port, .clocks, .security, .entropy, .config, .free]) s
  have hA := List.Subset.refl ([.halves, .dies, .tielux, .jobs, .transport, .streams, .settings, .keys, .audit, .events, .starts, .headers, .port, .clocks, .security, .entropy, .config, .free] : List Part)
  unfold execWake at e
  all_goals first | contradiction | (cases e) | skip
  repeat' first
    | with_reducible assumption
    | with_reducible apply State.headerEntry_kept

theorem execRetry_kept {s t : State} (sess : Nat) (page : Nat) (e : execRetry sess page s = .next t) : Kept [.halves, .dies, .tielux, .jobs, .transport, .streams, .settings, .keys, .audit, .events, .starts, .headers, .port, .clocks, .security, .entropy, .config, .free] s t := by
  have h := Kept.refl (A := [.halves, .dies, .tielux, .jobs, .transport, .streams, .settings, .keys, .audit, .events, .starts, .headers, .port, .clocks, .security, .entropy, .config, .free]) s
  have hA := List.Subset.refl ([.halves, .dies, .tielux, .jobs, .transport, .streams, .settings, .keys, .audit, .events, .starts, .headers, .port, .clocks, .security, .entropy, .config, .free] : List Part)
  unfold execRetry at e
  all_goals first | contradiction | (cases e) | skip
  repeat' first
    | with_reducible assumption
    | with_reducible apply State.headerEntry_kept

theorem execDr8Retry_kept {s t : State} (sess : Nat) (e : execDr8Retry sess s = .next t) : Kept [.transport, .audit, .events, .starts, .headers, .port] s t := by
  have h := Kept.refl (A := [.transport, .audit, .events, .starts, .headers, .port]) s
  have hA := List.Subset.refl ([.transport, .audit, .events, .starts, .headers, .port] : List Part)
  unfold execDr8Retry at e
  all_goals first | contradiction | (cases e) | skip
  repeat' first
    | with_reducible assumption
    | with_reducible apply State.ownWrite_kept
    | with_reducible apply State.resetPort_kept
    | with_reducible apply State.auditWrite_kept
    | exact Part.sub hA (by decide)
    | intro _

end Sys2Proof.Machine
end

