-- ==== Sys2Proof/Laws/Receive.lean ====
section
/-! SUPPORT. What the operations of Machine/Receive.lean keep (Laws/Kept.lean). -/

set_option Elab.async false

namespace Sys2Proof.Machine

open Sys2Proof Sys2Proof.Safety

-- The proofs before this one are checked before the next ones start.
theorem State.deliver_kept {A : List Part} {s₀ s : State} (x : Session) (p : RxPacket) (h : Kept A s₀ s) (hA : [.transport, .streams] ⊆ A := by exact Part.sub (by assumption) (by decide)) : Kept A s₀ (State.deliver s x p) := by
  unfold State.deliver
  dsimp only
  repeat' first
    | with_reducible assumption
    | with_reducible apply State.modSession_kept
    | with_reducible apply State.refuse_kept
    | with_reducible apply State.send_kept
    | with_reducible apply State.onTransport_kept
    | exact Part.sub hA (by decide)
    | with_reducible refine Kept.ite ?_ ?_
    | split

theorem State.bareAck_kept {A : List Part} {s₀ s : State} (id : Nat) (h : Kept A s₀ s) (hA : [.transport] ⊆ A := by exact Part.sub (by assumption) (by decide)) : Kept A s₀ (State.bareAck s id) := by
  unfold State.bareAck
  repeat' first
    | with_reducible assumption
    | with_reducible apply State.emit_kept

theorem State.windowIn_kept {A : List Part} {s₀ s : State} (x : Session) (p : RxPacket) (h : Kept A s₀ s) (hA : [.transport, .streams] ⊆ A := by exact Part.sub (by assumption) (by decide)) : Kept A s₀ (State.windowIn s x p) := by
  unfold State.windowIn
  dsimp only
  repeat' first
    | with_reducible assumption
    | with_reducible apply State.onTransport_kept
    | with_reducible apply State.bareAck_kept
    | with_reducible apply State.deliver_kept
    | with_reducible apply State.modSession_kept
    | exact Part.sub hA (by decide)
    | with_reducible refine Kept.foldl ?_ _ ?_
    | intro _
    | with_reducible refine Kept.ite ?_ ?_

theorem State.authFailed_kept {A : List Part} {s₀ s : State} (h : Kept A s₀ s) (hA : [.transport] ⊆ A := by exact Part.sub (by assumption) (by decide)) : Kept A s₀ (State.authFailed s) := by
  unfold State.authFailed
  repeat' first
    | with_reducible assumption
    | with_reducible apply State.onTransport_kept

theorem State.sessionPacket_kept {A : List Part} {s₀ s : State} (x : Session) (p : Packet) (mac : BitVec 48) (ip : BitVec 128) (h : Kept A s₀ s) (hA : [.jobs, .transport, .streams] ⊆ A := by exact Part.sub (by assumption) (by decide)) : Kept A s₀ (State.sessionPacket s x p mac ip) := by
  unfold State.sessionPacket
  dsimp only
  repeat' first
    | with_reducible assumption
    | with_reducible apply State.authFailed_kept
    | with_reducible apply State.modSession_kept
    | with_reducible apply State.ackIn_kept
    | with_reducible apply State.windowIn_kept
    | exact Part.sub hA (by decide)
    | with_reducible refine Kept.ite ?_ ?_
    | split

theorem State.outsideIn_kept {A : List Part} {s₀ s : State} (p : Packet) (n : NetSource) (h : Kept A s₀ s) (hA : [.transport] ⊆ A := by exact Part.sub (by assumption) (by decide)) : Kept A s₀ (State.outsideIn s p n) := by
  unfold State.outsideIn
  repeat' first
    | with_reducible assumption
    | with_reducible apply State.fromSource_kept
    | with_reducible apply State.authFailed_kept
    | exact Part.sub hA (by decide)
    | with_reducible refine Kept.ite ?_ ?_
    | split

theorem State.packetIn_kept {A : List Part} {s₀ s : State} (b : Bytes) (mac : BitVec 48) (ip : BitVec 128) (h : Kept A s₀ s) (hA : [.jobs, .transport, .streams] ⊆ A := by exact Part.sub (by assumption) (by decide)) : Kept A s₀ (State.packetIn s b mac ip) := by
  unfold State.packetIn
  try dsimp only
  repeat' first
    | with_reducible assumption
    | with_reducible apply State.authFailed_kept
    | with_reducible apply State.sessionPacket_kept
    | with_reducible apply State.outsideIn_kept
    | exact Part.sub hA (by decide)
    | with_reducible refine Kept.ite ?_ ?_
    | split

theorem State.frameIn_kept {A : List Part} {s₀ s : State} (f : Frame) (h : Kept A s₀ s) (hA : [.jobs, .transport, .streams, .port] ⊆ A := by exact Part.sub (by assumption) (by decide)) : Kept A s₀ (State.frameIn s f) := by
  unfold State.frameIn
  try dsimp only
  repeat' first
    | with_reducible assumption
    | with_reducible apply State.onPort_kept
    | with_reducible apply State.fromSource_kept
    | with_reducible apply State.packetIn_kept
    | exact Part.sub hA (by decide)
    | intro _
    | with_reducible refine Kept.ite ?_ ?_
    | split
    | fail_if_no_progress refine Kept.record ?_ rfl rfl rfl rfl rfl rfl ⟨fun p hp => by cases p <;> first | exact rfl | exact ⟨rfl, rfl⟩ | exact ⟨rfl, trivial⟩ | exact ⟨trivial, rfl⟩ | exact absurd (hA (by decide)) hp⟩

theorem execFrameReceive_kept {s t : State} (f : Frame) (e : execFrameReceive f s = .next t) : Kept [.jobs, .transport, .streams, .port] s t := by
  have h := Kept.refl (A := [.jobs, .transport, .streams, .port]) s
  have hA := List.Subset.refl ([.jobs, .transport, .streams, .port] : List Part)
  unfold execFrameReceive at e
  all_goals first | contradiction | (cases e) | skip
  repeat' first
    | with_reducible assumption
    | with_reducible apply State.frameIn_kept

end Sys2Proof.Machine
end

