-- ==== Sys2Proof/Laws/RollCall.lean ====
section
/-! SUPPORT. What the operations of Machine/RollCall.lean keep (Laws/Kept.lean). -/

set_option Elab.async false

namespace Sys2Proof.Machine

open Sys2Proof Sys2Proof.Safety

-- The proofs before this one are checked before the next ones start.
theorem State.rollReply_kept {A : List Part} {s₀ s : State} (dst : Nat) (nonce : Bytes) (h : Kept A s₀ s) (hA : [.transport, .entropy, .free] ⊆ A := by exact Part.sub (by assumption) (by decide)) : Kept A s₀ (State.rollReply s dst nonce) := by
  unfold State.rollReply
  dsimp only
  repeat' first
    | with_reducible assumption
    | with_reducible apply State.transportRandom_kept
    | with_reducible apply State.emit_kept
    | with_reducible apply State.onTransport_kept
    | exact Part.sub hA (by decide)

theorem State.enumerate_kept {A : List Part} {s₀ s : State} (b : EnumerateBody) (h : Kept A s₀ s) (hA : [.transport, .entropy, .free] ⊆ A := by exact Part.sub (by assumption) (by decide)) : Kept A s₀ (State.enumerate s b) := by
  unfold State.enumerate
  dsimp only
  repeat' first
    | with_reducible assumption
    | with_reducible apply State.transportRandom_kept
    | with_reducible apply State.onTransport_kept
    | exact Part.sub hA (by decide)
    | with_reducible refine Kept.ite ?_ ?_

theorem execEnumerate_kept {s t : State} (b : EnumerateBody) (e : execEnumerate b s = .next t) : Kept [.transport, .entropy, .free] s t := by
  have h := Kept.refl (A := [.transport, .entropy, .free]) s
  have hA := List.Subset.refl ([.transport, .entropy, .free] : List Part)
  unfold execEnumerate at e
  all_goals first | contradiction | (cases e) | skip
  repeat' first
    | with_reducible assumption
    | with_reducible apply State.enumerate_kept

theorem State.backoffEnds_kept {A : List Part} {s₀ s : State} (h : Kept A s₀ s) (hA : [.transport, .entropy, .free] ⊆ A := by exact Part.sub (by assumption) (by decide)) : Kept A s₀ (State.backoffEnds s) := by
  unfold State.backoffEnds
  repeat' first
    | with_reducible assumption
    | with_reducible apply State.rollReply_kept
    | with_reducible apply State.onTransport_kept
    | exact Part.sub hA (by decide)
    | split

theorem execRollCallBackoff_kept {s t : State} (e : execRollCallBackoff s = .next t) : Kept [.transport, .entropy, .free] s t := by
  have h := Kept.refl (A := [.transport, .entropy, .free]) s
  have hA := List.Subset.refl ([.transport, .entropy, .free] : List Part)
  unfold execRollCallBackoff at e
  all_goals first | contradiction | (cases e) | skip
  repeat' first
    | with_reducible assumption
    | with_reducible apply State.backoffEnds_kept

theorem State.probed_kept {A : List Part} {s₀ s : State} (src : Nat) (address : Nat) (nonce : Bytes) (h : Kept A s₀ s) (hA : [.transport, .entropy, .free] ⊆ A := by exact Part.sub (by assumption) (by decide)) : Kept A s₀ (State.probed s src address nonce) := by
  unfold State.probed
  repeat' first
    | with_reducible assumption
    | with_reducible apply State.rollReply_kept
    | with_reducible refine Kept.ite ?_ ?_

theorem execProbe_kept {s t : State} (src : Nat) (address : Nat) (nonce : Bytes) (e : execProbe src address nonce s = .next t) : Kept [.transport, .entropy, .free] s t := by
  have h := Kept.refl (A := [.transport, .entropy, .free]) s
  have hA := List.Subset.refl ([.transport, .entropy, .free] : List Part)
  unfold execProbe at e
  all_goals first | contradiction | (cases e) | skip
  repeat' first
    | with_reducible assumption
    | with_reducible apply State.probed_kept

theorem State.auditAssign_kept {A : List Part} {s₀ s : State} (signer : Bytes) (address : Nat) (status : Nat) (h : Kept A s₀ s) (hA : [.audit] ⊆ A := by exact Part.sub (by assumption) (by decide)) : Kept A s₀ (State.auditAssign s signer address status) := by
  unfold State.auditAssign
  repeat' first
    | with_reducible assumption
    | with_reducible apply State.audit_kept

theorem State.takeAddress_kept {A : List Part} {s₀ s : State} (p : PendingAssign) (h : Kept A s₀ s) (hA : [.transport, .settings, .audit] ⊆ A := by exact Part.sub (by assumption) (by decide)) : Kept A s₀ (State.takeAddress s p) := by
  unfold State.takeAddress
  dsimp only
  repeat' first
    | with_reducible assumption
    | with_reducible apply State.emit_kept
    | with_reducible apply State.onJournal_kept
    | exact ⟨rfl, rfl, rfl, rfl, rfl, Nat.le_refl _, fun _ h => h, fun p hp => by cases p <;> first | exact rfl | exact trivial | exact absurd (hA (by decide)) hp⟩
    | with_reducible apply State.auditAssign_kept
    | exact Part.sub hA (by decide)

theorem State.assign_kept {A : List Part} {s₀ s : State} (b : AssignBody) (h : Kept A s₀ s) (hA : [.transport, .settings, .audit] ⊆ A := by exact Part.sub (by assumption) (by decide)) : Kept A s₀ (State.assign s b) := by
  unfold State.assign
  dsimp only
  repeat' first
    | with_reducible assumption
    | with_reducible apply State.emit_kept
    | with_reducible apply State.auditAssign_kept
    | with_reducible apply State.onTransport_kept
    | with_reducible apply State.takeAddress_kept
    | exact Part.sub hA (by decide)
    | with_reducible refine Kept.ite ?_ ?_

theorem execAssign_kept {s t : State} (b : AssignBody) (e : execAssign b s = .next t) : Kept [.transport, .settings, .audit] s t := by
  have h := Kept.refl (A := [.transport, .settings, .audit]) s
  have hA := List.Subset.refl ([.transport, .settings, .audit] : List Part)
  unfold execAssign at e
  all_goals first | contradiction | (cases e) | skip
  repeat' first
    | with_reducible assumption
    | with_reducible apply State.assign_kept

theorem State.replyIn_kept {A : List Part} {s₀ s : State} (address : Nat) (h : Kept A s₀ s) (hA : [.transport] ⊆ A := by exact Part.sub (by assumption) (by decide)) : Kept A s₀ (State.replyIn s address) := by
  unfold State.replyIn
  repeat' first
    | with_reducible assumption
    | with_reducible apply State.emit_kept
    | with_reducible apply State.onTransport_kept
    | with_reducible refine Kept.ite ?_ ?_
    | split

theorem execReply_kept {s t : State} (address : Nat) (e : execReply address s = .next t) : Kept [.transport] s t := by
  have h := Kept.refl (A := [.transport]) s
  have hA := List.Subset.refl ([.transport] : List Part)
  unfold execReply at e
  all_goals first | contradiction | (cases e) | skip
  repeat' first
    | with_reducible assumption
    | with_reducible apply State.replyIn_kept

theorem State.probeEnds_kept {A : List Part} {s₀ s : State} (h : Kept A s₀ s) (hA : [.transport, .settings, .audit] ⊆ A := by exact Part.sub (by assumption) (by decide)) : Kept A s₀ (State.probeEnds s) := by
  unfold State.probeEnds
  repeat' first
    | with_reducible assumption
    | with_reducible apply State.takeAddress_kept
    | with_reducible apply State.onTransport_kept
    | exact Part.sub hA (by decide)
    | split

theorem execProbeTimeout_kept {s t : State} (e : execProbeTimeout s = .next t) : Kept [.transport, .settings, .audit] s t := by
  have h := Kept.refl (A := [.transport, .settings, .audit]) s
  have hA := List.Subset.refl ([.transport, .settings, .audit] : List Part)
  unfold execProbeTimeout at e
  all_goals first | contradiction | (cases e) | skip
  repeat' first
    | with_reducible assumption
    | with_reducible apply State.probeEnds_kept

end Sys2Proof.Machine
end

