-- ==== Sys2Proof/Laws/Router.lean ====
section
/-! SUPPORT. What the operations of Machine/Router.lean keep (Laws/Kept.lean). -/

set_option Elab.async false

namespace Sys2Proof.Machine

open Sys2Proof Sys2Proof.Safety

-- The proofs before this one are checked before the next ones start.
theorem State.arrive_kept {A : List Part} {s₀ s : State} (cl : Nat) (pos : Nat) (dir : Dir) (b : Beat) (h : Kept A s₀ s) (hA : [.clusters] ⊆ A := by exact Part.sub (by assumption) (by decide)) : Kept A s₀ (State.arrive s cl pos dir b) := by
  unfold State.arrive
  repeat' first
    | with_reducible assumption
    | with_reducible apply State.modCluster_kept
    | exact fun _ _ h => h
    | split

theorem State.depart_kept {A : List Part} {s₀ s : State} (region : List Nat) (cl : Nat) (cycle : Nat) (ds : List Departure) (h : Kept A s₀ s) (hA : [.clusters] ⊆ A := by exact Part.sub (by assumption) (by decide)) : Kept A s₀ (State.depart s region cl cycle ds) := by
  unfold State.depart
  dsimp only
  repeat' first
    | with_reducible assumption
    | with_reducible apply State.arrive_kept
    | with_reducible refine Kept.foldl ?_ _ ?_
    | intro _
    | split

theorem State.movSend_kept {A : List Part} {s₀ s : State} (o : SendOps) (h : Kept A s₀ s) (hA : [.clusters, .tielux, .jobs, .objects, .transport, .streams, .events, .headers, .free] ⊆ A := by exact Part.sub (by assumption) (by decide)) : Kept A s₀ (State.movSend s o) := by
  unfold State.movSend
  dsimp only
  repeat' first
    | with_reducible assumption
    | with_reducible apply State.depart_kept
    | with_reducible apply State.onCluster_kept
    | exact Part.sub hA (by decide)
    | split

theorem execMovSend_kept {s t : State} (o : SendOps) (e : execMovSend o s = .next t) : Kept [.clusters, .tielux, .jobs, .objects, .transport, .streams, .events, .headers, .free] s t := by
  have h := Kept.refl (A := [.clusters, .tielux, .jobs, .objects, .transport, .streams, .events, .headers, .free]) s
  have hA := List.Subset.refl ([.clusters, .tielux, .jobs, .objects, .transport, .streams, .events, .headers, .free] : List Part)
  unfold execMovSend at e
  all_goals first | contradiction | (cases e) | skip
  repeat' first
    | with_reducible assumption
    | with_reducible apply State.movSend_kept

theorem State.movFwd_kept {A : List Part} {s₀ s : State} (o : FwdOps) (h : Kept A s₀ s) (hA : [.clusters, .dies, .tielux, .jobs, .objects, .transport, .streams, .events, .health, .headers, .integrity, .free] ⊆ A := by exact Part.sub (by assumption) (by decide)) : Kept A s₀ (State.movFwd s o) := by
  unfold State.movFwd
  dsimp only
  repeat' first
    | with_reducible assumption
    | with_reducible apply State.parityError_kept
    | with_reducible apply State.depart_kept
    | with_reducible apply State.onCluster_kept
    | exact Part.sub hA (by decide)
    | split

theorem execMovFwd_kept {s t : State} (o : FwdOps) (e : execMovFwd o s = .next t) : Kept [.clusters, .dies, .tielux, .jobs, .objects, .transport, .streams, .events, .health, .headers, .integrity, .free] s t := by
  have h := Kept.refl (A := [.clusters, .dies, .tielux, .jobs, .objects, .transport, .streams, .events, .health, .headers, .integrity, .free]) s
  have hA := List.Subset.refl ([.clusters, .dies, .tielux, .jobs, .objects, .transport, .streams, .events, .health, .headers, .integrity, .free] : List Part)
  unfold execMovFwd at e
  all_goals first | contradiction | (cases e) | skip
  repeat' first
    | with_reducible assumption
    | with_reducible apply State.movFwd_kept

theorem State.cvRecv_kept {A : List Part} {s₀ s : State} (cl : ClusterRef) (h : Kept A s₀ s) (hA : [.clusters, .tielux, .jobs, .objects, .transport, .streams, .events, .headers, .free] ⊆ A := by exact Part.sub (by assumption) (by decide)) : Kept A s₀ (State.cvRecv s cl) := by
  unfold State.cvRecv
  dsimp only
  repeat' first
    | with_reducible assumption
    | with_reducible apply State.onCluster_kept
    | split

theorem execCvRecv_kept {s t : State} (cl : ClusterRef) (e : execCvRecv cl s = .next t) : Kept [.clusters, .tielux, .jobs, .objects, .transport, .streams, .events, .headers, .free] s t := by
  have h := Kept.refl (A := [.clusters, .tielux, .jobs, .objects, .transport, .streams, .events, .headers, .free]) s
  have hA := List.Subset.refl ([.clusters, .tielux, .jobs, .objects, .transport, .streams, .events, .headers, .free] : List Part)
  unfold execCvRecv at e
  all_goals first | contradiction | (cases e) | skip
  repeat' first
    | with_reducible assumption
    | with_reducible apply State.cvRecv_kept

theorem State.cvFwd_kept {A : List Part} {s₀ s : State} (o : ChainOps) (h : Kept A s₀ s) (hA : [.clusters, .tielux, .jobs, .objects, .transport, .streams, .events, .headers, .free] ⊆ A := by exact Part.sub (by assumption) (by decide)) : Kept A s₀ (State.cvFwd s o) := by
  unfold State.cvFwd
  dsimp only
  repeat' first
    | with_reducible assumption
    | with_reducible apply State.onCluster_kept
    | with_reducible apply State.depart_kept
    | exact Part.sub hA (by decide)
    | split

theorem execCvFwd_kept {s t : State} (o : ChainOps) (e : execCvFwd o s = .next t) : Kept [.clusters, .tielux, .jobs, .objects, .transport, .streams, .events, .headers, .free] s t := by
  have h := Kept.refl (A := [.clusters, .tielux, .jobs, .objects, .transport, .streams, .events, .headers, .free]) s
  have hA := List.Subset.refl ([.clusters, .tielux, .jobs, .objects, .transport, .streams, .events, .headers, .free] : List Part)
  unfold execCvFwd at e
  all_goals first | contradiction | (cases e) | skip
  repeat' first
    | with_reducible assumption
    | with_reducible apply State.cvFwd_kept

theorem State.enterIntake_kept {A : List Part} {s₀ s t : State} {slot : Nat} {o : Outward} (h : Kept A s₀ s) (e : State.enterIntake s slot o = some t) (hA : [.tielux, .jobs] ⊆ A := by exact Part.sub (by assumption) (by decide)) : Kept A s₀ t := by
  unfold State.enterIntake at e
  dsimp only at e
  repeat' split at e
  all_goals first | contradiction | (cases e) | skip
  repeat' first
    | with_reducible assumption
    | with_reducible apply State.setJob_kept
    | with_reducible apply State.modStack_kept
    | exact Part.sub hA (by decide)

theorem State.modCore_kept {A : List Part} {s₀ s : State} (cl : Nat) (n : Nat) (f : Core → Core) (h : Kept A s₀ s) (hA : [.clusters] ⊆ A := by exact Part.sub (by assumption) (by decide)) : Kept A s₀ (State.modCore s cl n f) := by
  unfold State.modCore
  repeat' first
    | with_reducible assumption
    | with_reducible apply State.modCluster_kept
    | exact fun _ _ h => h

theorem State.sendOut_kept {A : List Part} {s₀ s : State} (x : Site) (region : List Nat) (cycle : Nat) (o : ChainOps) (xe : Nat × Nat × Outward) (h : Kept A s₀ s) (hA : [.clusters, .tielux, .jobs, .transport, .streams, .events, .headers] ⊆ A := by exact Part.sub (by assumption) (by decide)) : Kept A s₀ (State.sendOut s x region cycle o xe) := by
  unfold State.sendOut
  try dsimp only
  repeat' first
    | with_reducible assumption
    | with_reducible apply State.demote_kept
    | with_reducible apply State.modJob_kept
    | refine State.enterIntake_kept ?_ (by assumption)
    | with_reducible apply State.modCore_kept
    | exact Part.sub hA (by decide)
    | with_reducible refine Kept.ite ?_ ?_
    | split
    | fail_if_no_progress refine Kept.record ?_ rfl rfl rfl rfl rfl rfl ⟨fun p hp => by cases p <;> first | exact rfl | exact ⟨rfl, rfl⟩ | exact ⟨rfl, trivial⟩ | exact ⟨trivial, rfl⟩ | exact absurd (hA (by decide)) hp⟩

theorem State.cvOut_kept {A : List Part} {s₀ s : State} (o : ChainOps) (h : Kept A s₀ s) (hA : [.clusters, .tielux, .jobs, .transport, .streams, .events, .headers] ⊆ A := by exact Part.sub (by assumption) (by decide)) : Kept A s₀ (State.cvOut s o) := by
  unfold State.cvOut
  try dsimp only
  repeat' first
    | with_reducible assumption
    | with_reducible apply State.sendOut_kept
    | exact Part.sub hA (by decide)
    | with_reducible refine Kept.foldl ?_ _ ?_
    | intro _
    | split

theorem execCvOut_kept {s t : State} (o : ChainOps) (e : execCvOut o s = .next t) : Kept [.clusters, .tielux, .jobs, .transport, .streams, .events, .headers] s t := by
  have h := Kept.refl (A := [.clusters, .tielux, .jobs, .transport, .streams, .events, .headers]) s
  have hA := List.Subset.refl ([.clusters, .tielux, .jobs, .transport, .streams, .events, .headers] : List Part)
  unfold execCvOut at e
  all_goals first | contradiction | (cases e) | skip
  repeat' first
    | with_reducible assumption
    | with_reducible apply State.cvOut_kept

end Sys2Proof.Machine
end

