-- ==== Sys2Proof/Laws/SlotWord.lean ====
section
/-! SUPPORT. What the slot words (Machine/SlotWord.lean) and the loader's walk (Machine/Census.lean) answer. -/

set_option Elab.async false

namespace Sys2Proof.Machine

open Sys2Proof

-- The proofs before this one are checked before the next ones start.
/-- A slot word stands for no command exactly where the loader refuses it (R215). -/
theorem slotCommand_eq_none_iff (slot : Nat) (cl : ClusterRef) (w : Nat) : slotCommand slot cl w = none ↔ slotIllegal slot w = true := by
  unfold slotCommand
  split <;> simp_all

theorem slotCommand_isSome (slot : Nat) (cl : ClusterRef) (w : Nat) (h : slotIllegal slot w = false) : (slotCommand slot cl w).isSome := by
  simp [slotCommand, h]

/-- Only a fixed-cadence program is held against refresh windows (R199). -/
theorem refreshHits_elastic (setting : Nat) (p : Bytes) (t : Tiling) (h : progFixed p = false) : refreshHits setting p t = [] := by
  simp [refreshHits, h]

/-- The allocations of statistics are those of the tiling's table. -/
theorem statAllocs_lt (p : Bytes) (t : Tiling) (a : Nat) (h : a ∈ statAllocs p t) : a < t.numAllocs :=
  List.mem_range.mp (List.mem_filter.mp h).1

theorem mergeBy_length {α : Type} (le : α → α → Bool) (n : Nat) (xs ys : List α) : (mergeBy le n xs ys).length = xs.length + ys.length := by
  induction n generalizing xs ys with
  | zero => simp [mergeBy]
  | succ n ih =>
    match xs, ys with
    | [], ys => simp [mergeBy]
    | x :: xs, [] => simp [mergeBy]
    | x :: xs, y :: ys =>
      simp only [mergeBy]
      split <;> simp [ih] <;> omega

end Sys2Proof.Machine
end

