-- ==== Sys2Proof/Laws/State.lean ====
section
/-! SUPPORT. One lemma per field per update of the state, true by unfolding: what each named update writes, and that it leaves every other
field alone. -/

set_option Elab.async false

namespace Sys2Proof.Machine

open Sys2Proof

variable (s : State)

/-! ### onJournal -/

@[simp] theorem State.onJournal_journal (f : Journal → Journal) : (s.onJournal f).journal = f s.journal := rfl
@[simp] theorem State.onJournal_clusters (f : Journal → Journal) : (s.onJournal f).clusters = s.clusters := rfl
@[simp] theorem State.onJournal_halves (f : Journal → Journal) : (s.onJournal f).halves = s.halves := rfl
@[simp] theorem State.onJournal_dies (f : Journal → Journal) : (s.onJournal f).dies = s.dies := rfl
@[simp] theorem State.onJournal_tielux (f : Journal → Journal) : (s.onJournal f).tielux = s.tielux := rfl
@[simp] theorem State.onJournal_mem (f : Journal → Journal) : (s.onJournal f).mem = s.mem := rfl
@[simp] theorem State.onJournal_jobs (f : Journal → Journal) : (s.onJournal f).jobs = s.jobs := rfl
@[simp] theorem State.onJournal_objects (f : Journal → Journal) : (s.onJournal f).objects = s.objects := rfl
@[simp] theorem State.onJournal_transport (f : Journal → Journal) : (s.onJournal f).transport = s.transport := rfl
@[simp] theorem State.onJournal_port (f : Journal → Journal) : (s.onJournal f).port = s.port := rfl
@[simp] theorem State.onJournal_ptp (f : Journal → Journal) : (s.onJournal f).ptp = s.ptp := rfl
@[simp] theorem State.onJournal_optics (f : Journal → Journal) : (s.onJournal f).optics = s.optics := rfl
@[simp] theorem State.onJournal_power (f : Journal → Journal) : (s.onJournal f).power = s.power := rfl
@[simp] theorem State.onJournal_clocks (f : Journal → Journal) : (s.onJournal f).clocks = s.clocks := rfl
@[simp] theorem State.onJournal_thermal (f : Journal → Journal) : (s.onJournal f).thermal = s.thermal := rfl
@[simp] theorem State.onJournal_security (f : Journal → Journal) : (s.onJournal f).security = s.security := rfl
@[simp] theorem State.onJournal_entropy (f : Journal → Journal) : (s.onJournal f).entropy = s.entropy := rfl
@[simp] theorem State.onJournal_integrity (f : Journal → Journal) : (s.onJournal f).integrity = s.integrity := rfl
@[simp] theorem State.onJournal_bist (f : Journal → Journal) : (s.onJournal f).bist = s.bist := rfl
@[simp] theorem State.onJournal_config (f : Journal → Journal) : (s.onJournal f).config = s.config := rfl
@[simp] theorem State.onJournal_headers (f : Journal → Journal) : (s.onJournal f).headers = s.headers := rfl
@[simp] theorem State.onJournal_free (f : Journal → Journal) : (s.onJournal f).free = s.free := rfl
@[simp] theorem State.onJournal_pending (f : Journal → Journal) : (s.onJournal f).pending = s.pending := rfl

/-! ### onTransport -/

@[simp] theorem State.onTransport_transport (f : Transport → Transport) : (s.onTransport f).transport = f s.transport := rfl
@[simp] theorem State.onTransport_clusters (f : Transport → Transport) : (s.onTransport f).clusters = s.clusters := rfl
@[simp] theorem State.onTransport_halves (f : Transport → Transport) : (s.onTransport f).halves = s.halves := rfl
@[simp] theorem State.onTransport_dies (f : Transport → Transport) : (s.onTransport f).dies = s.dies := rfl
@[simp] theorem State.onTransport_tielux (f : Transport → Transport) : (s.onTransport f).tielux = s.tielux := rfl
@[simp] theorem State.onTransport_mem (f : Transport → Transport) : (s.onTransport f).mem = s.mem := rfl
@[simp] theorem State.onTransport_jobs (f : Transport → Transport) : (s.onTransport f).jobs = s.jobs := rfl
@[simp] theorem State.onTransport_objects (f : Transport → Transport) : (s.onTransport f).objects = s.objects := rfl
@[simp] theorem State.onTransport_journal (f : Transport → Transport) : (s.onTransport f).journal = s.journal := rfl
@[simp] theorem State.onTransport_port (f : Transport → Transport) : (s.onTransport f).port = s.port := rfl
@[simp] theorem State.onTransport_ptp (f : Transport → Transport) : (s.onTransport f).ptp = s.ptp := rfl
@[simp] theorem State.onTransport_optics (f : Transport → Transport) : (s.onTransport f).optics = s.optics := rfl
@[simp] theorem State.onTransport_power (f : Transport → Transport) : (s.onTransport f).power = s.power := rfl
@[simp] theorem State.onTransport_clocks (f : Transport → Transport) : (s.onTransport f).clocks = s.clocks := rfl
@[simp] theorem State.onTransport_thermal (f : Transport → Transport) : (s.onTransport f).thermal = s.thermal := rfl
@[simp] theorem State.onTransport_security (f : Transport → Transport) : (s.onTransport f).security = s.security := rfl
@[simp] theorem State.onTransport_entropy (f : Transport → Transport) : (s.onTransport f).entropy = s.entropy := rfl
@[simp] theorem State.onTransport_integrity (f : Transport → Transport) : (s.onTransport f).integrity = s.integrity := rfl
@[simp] theorem State.onTransport_bist (f : Transport → Transport) : (s.onTransport f).bist = s.bist := rfl
@[simp] theorem State.onTransport_config (f : Transport → Transport) : (s.onTransport f).config = s.config := rfl
@[simp] theorem State.onTransport_headers (f : Transport → Transport) : (s.onTransport f).headers = s.headers := rfl
@[simp] theorem State.onTransport_free (f : Transport → Transport) : (s.onTransport f).free = s.free := rfl
@[simp] theorem State.onTransport_pending (f : Transport → Transport) : (s.onTransport f).pending = s.pending := rfl

/-! ### onPower -/

@[simp] theorem State.onPower_power (f : Power → Power) : (s.onPower f).power = f s.power := rfl
@[simp] theorem State.onPower_clusters (f : Power → Power) : (s.onPower f).clusters = s.clusters := rfl
@[simp] theorem State.onPower_halves (f : Power → Power) : (s.onPower f).halves = s.halves := rfl
@[simp] theorem State.onPower_dies (f : Power → Power) : (s.onPower f).dies = s.dies := rfl
@[simp] theorem State.onPower_tielux (f : Power → Power) : (s.onPower f).tielux = s.tielux := rfl
@[simp] theorem State.onPower_mem (f : Power → Power) : (s.onPower f).mem = s.mem := rfl
@[simp] theorem State.onPower_jobs (f : Power → Power) : (s.onPower f).jobs = s.jobs := rfl
@[simp] theorem State.onPower_objects (f : Power → Power) : (s.onPower f).objects = s.objects := rfl
@[simp] theorem State.onPower_transport (f : Power → Power) : (s.onPower f).transport = s.transport := rfl
@[simp] theorem State.onPower_journal (f : Power → Power) : (s.onPower f).journal = s.journal := rfl
@[simp] theorem State.onPower_port (f : Power → Power) : (s.onPower f).port = s.port := rfl
@[simp] theorem State.onPower_ptp (f : Power → Power) : (s.onPower f).ptp = s.ptp := rfl
@[simp] theorem State.onPower_optics (f : Power → Power) : (s.onPower f).optics = s.optics := rfl
@[simp] theorem State.onPower_clocks (f : Power → Power) : (s.onPower f).clocks = s.clocks := rfl
@[simp] theorem State.onPower_thermal (f : Power → Power) : (s.onPower f).thermal = s.thermal := rfl
@[simp] theorem State.onPower_security (f : Power → Power) : (s.onPower f).security = s.security := rfl
@[simp] theorem State.onPower_entropy (f : Power → Power) : (s.onPower f).entropy = s.entropy := rfl
@[simp] theorem State.onPower_integrity (f : Power → Power) : (s.onPower f).integrity = s.integrity := rfl
@[simp] theorem State.onPower_bist (f : Power → Power) : (s.onPower f).bist = s.bist := rfl
@[simp] theorem State.onPower_config (f : Power → Power) : (s.onPower f).config = s.config := rfl
@[simp] theorem State.onPower_headers (f : Power → Power) : (s.onPower f).headers = s.headers := rfl
@[simp] theorem State.onPower_free (f : Power → Power) : (s.onPower f).free = s.free := rfl
@[simp] theorem State.onPower_pending (f : Power → Power) : (s.onPower f).pending = s.pending := rfl

/-! ### onClocks -/

@[simp] theorem State.onClocks_clocks (f : Clocks → Clocks) : (s.onClocks f).clocks = f s.clocks := rfl
@[simp] theorem State.onClocks_clusters (f : Clocks → Clocks) : (s.onClocks f).clusters = s.clusters := rfl
@[simp] theorem State.onClocks_halves (f : Clocks → Clocks) : (s.onClocks f).halves = s.halves := rfl
@[simp] theorem State.onClocks_dies (f : Clocks → Clocks) : (s.onClocks f).dies = s.dies := rfl
@[simp] theorem State.onClocks_tielux (f : Clocks → Clocks) : (s.onClocks f).tielux = s.tielux := rfl
@[simp] theorem State.onClocks_mem (f : Clocks → Clocks) : (s.onClocks f).mem = s.mem := rfl
@[simp] theorem State.onClocks_jobs (f : Clocks → Clocks) : (s.onClocks f).jobs = s.jobs := rfl
@[simp] theorem State.onClocks_objects (f : Clocks → Clocks) : (s.onClocks f).objects = s.objects := rfl
@[simp] theorem State.onClocks_transport (f : Clocks → Clocks) : (s.onClocks f).transport = s.transport := rfl
@[simp] theorem State.onClocks_journal (f : Clocks → Clocks) : (s.onClocks f).journal = s.journal := rfl
@[simp] theorem State.onClocks_port (f : Clocks → Clocks) : (s.onClocks f).port = s.port := rfl
@[simp] theorem State.onClocks_ptp (f : Clocks → Clocks) : (s.onClocks f).ptp = s.ptp := rfl
@[simp] theorem State.onClocks_optics (f : Clocks → Clocks) : (s.onClocks f).optics = s.optics := rfl
@[simp] theorem State.onClocks_power (f : Clocks → Clocks) : (s.onClocks f).power = s.power := rfl
@[simp] theorem State.onClocks_thermal (f : Clocks → Clocks) : (s.onClocks f).thermal = s.thermal := rfl
@[simp] theorem State.onClocks_security (f : Clocks → Clocks) : (s.onClocks f).security = s.security := rfl
@[simp] theorem State.onClocks_entropy (f : Clocks → Clocks) : (s.onClocks f).entropy = s.entropy := rfl
@[simp] theorem State.onClocks_integrity (f : Clocks → Clocks) : (s.onClocks f).integrity = s.integrity := rfl
@[simp] theorem State.onClocks_bist (f : Clocks → Clocks) : (s.onClocks f).bist = s.bist := rfl
@[simp] theorem State.onClocks_config (f : Clocks → Clocks) : (s.onClocks f).config = s.config := rfl
@[simp] theorem State.onClocks_headers (f : Clocks → Clocks) : (s.onClocks f).headers = s.headers := rfl
@[simp] theorem State.onClocks_free (f : Clocks → Clocks) : (s.onClocks f).free = s.free := rfl
@[simp] theorem State.onClocks_pending (f : Clocks → Clocks) : (s.onClocks f).pending = s.pending := rfl

/-! ### onSecurity -/

@[simp] theorem State.onSecurity_security (f : Security → Security) : (s.onSecurity f).security = f s.security := rfl
@[simp] theorem State.onSecurity_clusters (f : Security → Security) : (s.onSecurity f).clusters = s.clusters := rfl
@[simp] theorem State.onSecurity_halves (f : Security → Security) : (s.onSecurity f).halves = s.halves := rfl
@[simp] theorem State.onSecurity_dies (f : Security → Security) : (s.onSecurity f).dies = s.dies := rfl
@[simp] theorem State.onSecurity_tielux (f : Security → Security) : (s.onSecurity f).tielux = s.tielux := rfl
@[simp] theorem State.onSecurity_mem (f : Security → Security) : (s.onSecurity f).mem = s.mem := rfl
@[simp] theorem State.onSecurity_jobs (f : Security → Security) : (s.onSecurity f).jobs = s.jobs := rfl
@[simp] theorem State.onSecurity_objects (f : Security → Security) : (s.onSecurity f).objects = s.objects := rfl
@[simp] theorem State.onSecurity_transport (f : Security → Security) : (s.onSecurity f).transport = s.transport := rfl
@[simp] theorem State.onSecurity_journal (f : Security → Security) : (s.onSecurity f).journal = s.journal := rfl
@[simp] theorem State.onSecurity_port (f : Security → Security) : (s.onSecurity f).port = s.port := rfl
@[simp] theorem State.onSecurity_ptp (f : Security → Security) : (s.onSecurity f).ptp = s.ptp := rfl
@[simp] theorem State.onSecurity_optics (f : Security → Security) : (s.onSecurity f).optics = s.optics := rfl
@[simp] theorem State.onSecurity_power (f : Security → Security) : (s.onSecurity f).power = s.power := rfl
@[simp] theorem State.onSecurity_clocks (f : Security → Security) : (s.onSecurity f).clocks = s.clocks := rfl
@[simp] theorem State.onSecurity_thermal (f : Security → Security) : (s.onSecurity f).thermal = s.thermal := rfl
@[simp] theorem State.onSecurity_entropy (f : Security → Security) : (s.onSecurity f).entropy = s.entropy := rfl
@[simp] theorem State.onSecurity_integrity (f : Security → Security) : (s.onSecurity f).integrity = s.integrity := rfl
@[simp] theorem State.onSecurity_bist (f : Security → Security) : (s.onSecurity f).bist = s.bist := rfl
@[simp] theorem State.onSecurity_config (f : Security → Security) : (s.onSecurity f).config = s.config := rfl
@[simp] theorem State.onSecurity_headers (f : Security → Security) : (s.onSecurity f).headers = s.headers := rfl
@[simp] theorem State.onSecurity_free (f : Security → Security) : (s.onSecurity f).free = s.free := rfl
@[simp] theorem State.onSecurity_pending (f : Security → Security) : (s.onSecurity f).pending = s.pending := rfl

/-! ### onEntropy -/

@[simp] theorem State.onEntropy_entropy (f : Entropy → Entropy) : (s.onEntropy f).entropy = f s.entropy := rfl
@[simp] theorem State.onEntropy_clusters (f : Entropy → Entropy) : (s.onEntropy f).clusters = s.clusters := rfl
@[simp] theorem State.onEntropy_halves (f : Entropy → Entropy) : (s.onEntropy f).halves = s.halves := rfl
@[simp] theorem State.onEntropy_dies (f : Entropy → Entropy) : (s.onEntropy f).dies = s.dies := rfl
@[simp] theorem State.onEntropy_tielux (f : Entropy → Entropy) : (s.onEntropy f).tielux = s.tielux := rfl
@[simp] theorem State.onEntropy_mem (f : Entropy → Entropy) : (s.onEntropy f).mem = s.mem := rfl
@[simp] theorem State.onEntropy_jobs (f : Entropy → Entropy) : (s.onEntropy f).jobs = s.jobs := rfl
@[simp] theorem State.onEntropy_objects (f : Entropy → Entropy) : (s.onEntropy f).objects = s.objects := rfl
@[simp] theorem State.onEntropy_transport (f : Entropy → Entropy) : (s.onEntropy f).transport = s.transport := rfl
@[simp] theorem State.onEntropy_journal (f : Entropy → Entropy) : (s.onEntropy f).journal = s.journal := rfl
@[simp] theorem State.onEntropy_port (f : Entropy → Entropy) : (s.onEntropy f).port = s.port := rfl
@[simp] theorem State.onEntropy_ptp (f : Entropy → Entropy) : (s.onEntropy f).ptp = s.ptp := rfl
@[simp] theorem State.onEntropy_optics (f : Entropy → Entropy) : (s.onEntropy f).optics = s.optics := rfl
@[simp] theorem State.onEntropy_power (f : Entropy → Entropy) : (s.onEntropy f).power = s.power := rfl
@[simp] theorem State.onEntropy_clocks (f : Entropy → Entropy) : (s.onEntropy f).clocks = s.clocks := rfl
@[simp] theorem State.onEntropy_thermal (f : Entropy → Entropy) : (s.onEntropy f).thermal = s.thermal := rfl
@[simp] theorem State.onEntropy_security (f : Entropy → Entropy) : (s.onEntropy f).security = s.security := rfl
@[simp] theorem State.onEntropy_integrity (f : Entropy → Entropy) : (s.onEntropy f).integrity = s.integrity := rfl
@[simp] theorem State.onEntropy_bist (f : Entropy → Entropy) : (s.onEntropy f).bist = s.bist := rfl
@[simp] theorem State.onEntropy_config (f : Entropy → Entropy) : (s.onEntropy f).config = s.config := rfl
@[simp] theorem State.onEntropy_headers (f : Entropy → Entropy) : (s.onEntropy f).headers = s.headers := rfl
@[simp] theorem State.onEntropy_free (f : Entropy → Entropy) : (s.onEntropy f).free = s.free := rfl
@[simp] theorem State.onEntropy_pending (f : Entropy → Entropy) : (s.onEntropy f).pending = s.pending := rfl

/-! ### onIntegrity -/

@[simp] theorem State.onIntegrity_integrity (f : Integrity → Integrity) : (s.onIntegrity f).integrity = f s.integrity := rfl
@[simp] theorem State.onIntegrity_clusters (f : Integrity → Integrity) : (s.onIntegrity f).clusters = s.clusters := rfl
@[simp] theorem State.onIntegrity_halves (f : Integrity → Integrity) : (s.onIntegrity f).halves = s.halves := rfl
@[simp] theorem State.onIntegrity_dies (f : Integrity → Integrity) : (s.onIntegrity f).dies = s.dies := rfl
@[simp] theorem State.onIntegrity_tielux (f : Integrity → Integrity) : (s.onIntegrity f).tielux = s.tielux := rfl
@[simp] theorem State.onIntegrity_mem (f : Integrity → Integrity) : (s.onIntegrity f).mem = s.mem := rfl
@[simp] theorem State.onIntegrity_jobs (f : Integrity → Integrity) : (s.onIntegrity f).jobs = s.jobs := rfl
@[simp] theorem State.onIntegrity_objects (f : Integrity → Integrity) : (s.onIntegrity f).objects = s.objects := rfl
@[simp] theorem State.onIntegrity_transport (f : Integrity → Integrity) : (s.onIntegrity f).transport = s.transport := rfl
@[simp] theorem State.onIntegrity_journal (f : Integrity → Integrity) : (s.onIntegrity f).journal = s.journal := rfl
@[simp] theorem State.onIntegrity_port (f : Integrity → Integrity) : (s.onIntegrity f).port = s.port := rfl
@[simp] theorem State.onIntegrity_ptp (f : Integrity → Integrity) : (s.onIntegrity f).ptp = s.ptp := rfl
@[simp] theorem State.onIntegrity_optics (f : Integrity → Integrity) : (s.onIntegrity f).optics = s.optics := rfl
@[simp] theorem State.onIntegrity_power (f : Integrity → Integrity) : (s.onIntegrity f).power = s.power := rfl
@[simp] theorem State.onIntegrity_clocks (f : Integrity → Integrity) : (s.onIntegrity f).clocks = s.clocks := rfl
@[simp] theorem State.onIntegrity_thermal (f : Integrity → Integrity) : (s.onIntegrity f).thermal = s.thermal := rfl
@[simp] theorem State.onIntegrity_security (f : Integrity → Integrity) : (s.onIntegrity f).security = s.security := rfl
@[simp] theorem State.onIntegrity_entropy (f : Integrity → Integrity) : (s.onIntegrity f).entropy = s.entropy := rfl
@[simp] theorem State.onIntegrity_bist (f : Integrity → Integrity) : (s.onIntegrity f).bist = s.bist := rfl
@[simp] theorem State.onIntegrity_config (f : Integrity → Integrity) : (s.onIntegrity f).config = s.config := rfl
@[simp] theorem State.onIntegrity_headers (f : Integrity → Integrity) : (s.onIntegrity f).headers = s.headers := rfl
@[simp] theorem State.onIntegrity_free (f : Integrity → Integrity) : (s.onIntegrity f).free = s.free := rfl
@[simp] theorem State.onIntegrity_pending (f : Integrity → Integrity) : (s.onIntegrity f).pending = s.pending := rfl

/-! ### onBist -/

@[simp] theorem State.onBist_bist (f : Bist → Bist) : (s.onBist f).bist = f s.bist := rfl
@[simp] theorem State.onBist_clusters (f : Bist → Bist) : (s.onBist f).clusters = s.clusters := rfl
@[simp] theorem State.onBist_halves (f : Bist → Bist) : (s.onBist f).halves = s.halves := rfl
@[simp] theorem State.onBist_dies (f : Bist → Bist) : (s.onBist f).dies = s.dies := rfl
@[simp] theorem State.onBist_tielux (f : Bist → Bist) : (s.onBist f).tielux = s.tielux := rfl
@[simp] theorem State.onBist_mem (f : Bist → Bist) : (s.onBist f).mem = s.mem := rfl
@[simp] theorem State.onBist_jobs (f : Bist → Bist) : (s.onBist f).jobs = s.jobs := rfl
@[simp] theorem State.onBist_objects (f : Bist → Bist) : (s.onBist f).objects = s.objects := rfl
@[simp] theorem State.onBist_transport (f : Bist → Bist) : (s.onBist f).transport = s.transport := rfl
@[simp] theorem State.onBist_journal (f : Bist → Bist) : (s.onBist f).journal = s.journal := rfl
@[simp] theorem State.onBist_port (f : Bist → Bist) : (s.onBist f).port = s.port := rfl
@[simp] theorem State.onBist_ptp (f : Bist → Bist) : (s.onBist f).ptp = s.ptp := rfl
@[simp] theorem State.onBist_optics (f : Bist → Bist) : (s.onBist f).optics = s.optics := rfl
@[simp] theorem State.onBist_power (f : Bist → Bist) : (s.onBist f).power = s.power := rfl
@[simp] theorem State.onBist_clocks (f : Bist → Bist) : (s.onBist f).clocks = s.clocks := rfl
@[simp] theorem State.onBist_thermal (f : Bist → Bist) : (s.onBist f).thermal = s.thermal := rfl
@[simp] theorem State.onBist_security (f : Bist → Bist) : (s.onBist f).security = s.security := rfl
@[simp] theorem State.onBist_entropy (f : Bist → Bist) : (s.onBist f).entropy = s.entropy := rfl
@[simp] theorem State.onBist_integrity (f : Bist → Bist) : (s.onBist f).integrity = s.integrity := rfl
@[simp] theorem State.onBist_config (f : Bist → Bist) : (s.onBist f).config = s.config := rfl
@[simp] theorem State.onBist_headers (f : Bist → Bist) : (s.onBist f).headers = s.headers := rfl
@[simp] theorem State.onBist_free (f : Bist → Bist) : (s.onBist f).free = s.free := rfl
@[simp] theorem State.onBist_pending (f : Bist → Bist) : (s.onBist f).pending = s.pending := rfl

/-! ### onConfig -/

@[simp] theorem State.onConfig_config (f : Config → Config) : (s.onConfig f).config = f s.config := rfl
@[simp] theorem State.onConfig_clusters (f : Config → Config) : (s.onConfig f).clusters = s.clusters := rfl
@[simp] theorem State.onConfig_halves (f : Config → Config) : (s.onConfig f).halves = s.halves := rfl
@[simp] theorem State.onConfig_dies (f : Config → Config) : (s.onConfig f).dies = s.dies := rfl
@[simp] theorem State.onConfig_tielux (f : Config → Config) : (s.onConfig f).tielux = s.tielux := rfl
@[simp] theorem State.onConfig_mem (f : Config → Config) : (s.onConfig f).mem = s.mem := rfl
@[simp] theorem State.onConfig_jobs (f : Config → Config) : (s.onConfig f).jobs = s.jobs := rfl
@[simp] theorem State.onConfig_objects (f : Config → Config) : (s.onConfig f).objects = s.objects := rfl
@[simp] theorem State.onConfig_transport (f : Config → Config) : (s.onConfig f).transport = s.transport := rfl
@[simp] theorem State.onConfig_journal (f : Config → Config) : (s.onConfig f).journal = s.journal := rfl
@[simp] theorem State.onConfig_port (f : Config → Config) : (s.onConfig f).port = s.port := rfl
@[simp] theorem State.onConfig_ptp (f : Config → Config) : (s.onConfig f).ptp = s.ptp := rfl
@[simp] theorem State.onConfig_optics (f : Config → Config) : (s.onConfig f).optics = s.optics := rfl
@[simp] theorem State.onConfig_power (f : Config → Config) : (s.onConfig f).power = s.power := rfl
@[simp] theorem State.onConfig_clocks (f : Config → Config) : (s.onConfig f).clocks = s.clocks := rfl
@[simp] theorem State.onConfig_thermal (f : Config → Config) : (s.onConfig f).thermal = s.thermal := rfl
@[simp] theorem State.onConfig_security (f : Config → Config) : (s.onConfig f).security = s.security := rfl
@[simp] theorem State.onConfig_entropy (f : Config → Config) : (s.onConfig f).entropy = s.entropy := rfl
@[simp] theorem State.onConfig_integrity (f : Config → Config) : (s.onConfig f).integrity = s.integrity := rfl
@[simp] theorem State.onConfig_bist (f : Config → Config) : (s.onConfig f).bist = s.bist := rfl
@[simp] theorem State.onConfig_headers (f : Config → Config) : (s.onConfig f).headers = s.headers := rfl
@[simp] theorem State.onConfig_free (f : Config → Config) : (s.onConfig f).free = s.free := rfl
@[simp] theorem State.onConfig_pending (f : Config → Config) : (s.onConfig f).pending = s.pending := rfl

/-! ### onThermal -/

@[simp] theorem State.onThermal_thermal (f : Thermal → Thermal) : (s.onThermal f).thermal = f s.thermal := rfl
@[simp] theorem State.onThermal_clusters (f : Thermal → Thermal) : (s.onThermal f).clusters = s.clusters := rfl
@[simp] theorem State.onThermal_halves (f : Thermal → Thermal) : (s.onThermal f).halves = s.halves := rfl
@[simp] theorem State.onThermal_dies (f : Thermal → Thermal) : (s.onThermal f).dies = s.dies := rfl
@[simp] theorem State.onThermal_tielux (f : Thermal → Thermal) : (s.onThermal f).tielux = s.tielux := rfl
@[simp] theorem State.onThermal_mem (f : Thermal → Thermal) : (s.onThermal f).mem = s.mem := rfl
@[simp] theorem State.onThermal_jobs (f : Thermal → Thermal) : (s.onThermal f).jobs = s.jobs := rfl
@[simp] theorem State.onThermal_objects (f : Thermal → Thermal) : (s.onThermal f).objects = s.objects := rfl
@[simp] theorem State.onThermal_transport (f : Thermal → Thermal) : (s.onThermal f).transport = s.transport := rfl
@[simp] theorem State.onThermal_journal (f : Thermal → Thermal) : (s.onThermal f).journal = s.journal := rfl
@[simp] theorem State.onThermal_port (f : Thermal → Thermal) : (s.onThermal f).port = s.port := rfl
@[simp] theorem State.onThermal_ptp (f : Thermal → Thermal) : (s.onThermal f).ptp = s.ptp := rfl
@[simp] theorem State.onThermal_optics (f : Thermal → Thermal) : (s.onThermal f).optics = s.optics := rfl
@[simp] theorem State.onThermal_power (f : Thermal → Thermal) : (s.onThermal f).power = s.power := rfl
@[simp] theorem State.onThermal_clocks (f : Thermal → Thermal) : (s.onThermal f).clocks = s.clocks := rfl
@[simp] theorem State.onThermal_security (f : Thermal → Thermal) : (s.onThermal f).security = s.security := rfl
@[simp] theorem State.onThermal_entropy (f : Thermal → Thermal) : (s.onThermal f).entropy = s.entropy := rfl
@[simp] theorem State.onThermal_integrity (f : Thermal → Thermal) : (s.onThermal f).integrity = s.integrity := rfl
@[simp] theorem State.onThermal_bist (f : Thermal → Thermal) : (s.onThermal f).bist = s.bist := rfl
@[simp] theorem State.onThermal_config (f : Thermal → Thermal) : (s.onThermal f).config = s.config := rfl
@[simp] theorem State.onThermal_headers (f : Thermal → Thermal) : (s.onThermal f).headers = s.headers := rfl
@[simp] theorem State.onThermal_free (f : Thermal → Thermal) : (s.onThermal f).free = s.free := rfl
@[simp] theorem State.onThermal_pending (f : Thermal → Thermal) : (s.onThermal f).pending = s.pending := rfl

/-! ### onPort -/

@[simp] theorem State.onPort_port (f : Port → Port) : (s.onPort f).port = f s.port := rfl
@[simp] theorem State.onPort_clusters (f : Port → Port) : (s.onPort f).clusters = s.clusters := rfl
@[simp] theorem State.onPort_halves (f : Port → Port) : (s.onPort f).halves = s.halves := rfl
@[simp] theorem State.onPort_dies (f : Port → Port) : (s.onPort f).dies = s.dies := rfl
@[simp] theorem State.onPort_tielux (f : Port → Port) : (s.onPort f).tielux = s.tielux := rfl
@[simp] theorem State.onPort_mem (f : Port → Port) : (s.onPort f).mem = s.mem := rfl
@[simp] theorem State.onPort_jobs (f : Port → Port) : (s.onPort f).jobs = s.jobs := rfl
@[simp] theorem State.onPort_objects (f : Port → Port) : (s.onPort f).objects = s.objects := rfl
@[simp] theorem State.onPort_transport (f : Port → Port) : (s.onPort f).transport = s.transport := rfl
@[simp] theorem State.onPort_journal (f : Port → Port) : (s.onPort f).journal = s.journal := rfl
@[simp] theorem State.onPort_ptp (f : Port → Port) : (s.onPort f).ptp = s.ptp := rfl
@[simp] theorem State.onPort_optics (f : Port → Port) : (s.onPort f).optics = s.optics := rfl
@[simp] theorem State.onPort_power (f : Port → Port) : (s.onPort f).power = s.power := rfl
@[simp] theorem State.onPort_clocks (f : Port → Port) : (s.onPort f).clocks = s.clocks := rfl
@[simp] theorem State.onPort_thermal (f : Port → Port) : (s.onPort f).thermal = s.thermal := rfl
@[simp] theorem State.onPort_security (f : Port → Port) : (s.onPort f).security = s.security := rfl
@[simp] theorem State.onPort_entropy (f : Port → Port) : (s.onPort f).entropy = s.entropy := rfl
@[simp] theorem State.onPort_integrity (f : Port → Port) : (s.onPort f).integrity = s.integrity := rfl
@[simp] theorem State.onPort_bist (f : Port → Port) : (s.onPort f).bist = s.bist := rfl
@[simp] theorem State.onPort_config (f : Port → Port) : (s.onPort f).config = s.config := rfl
@[simp] theorem State.onPort_headers (f : Port → Port) : (s.onPort f).headers = s.headers := rfl
@[simp] theorem State.onPort_free (f : Port → Port) : (s.onPort f).free = s.free := rfl
@[simp] theorem State.onPort_pending (f : Port → Port) : (s.onPort f).pending = s.pending := rfl

/-! ### onPtp -/

@[simp] theorem State.onPtp_ptp (f : Ptp → Ptp) : (s.onPtp f).ptp = f s.ptp := rfl
@[simp] theorem State.onPtp_clusters (f : Ptp → Ptp) : (s.onPtp f).clusters = s.clusters := rfl
@[simp] theorem State.onPtp_halves (f : Ptp → Ptp) : (s.onPtp f).halves = s.halves := rfl
@[simp] theorem State.onPtp_dies (f : Ptp → Ptp) : (s.onPtp f).dies = s.dies := rfl
@[simp] theorem State.onPtp_tielux (f : Ptp → Ptp) : (s.onPtp f).tielux = s.tielux := rfl
@[simp] theorem State.onPtp_mem (f : Ptp → Ptp) : (s.onPtp f).mem = s.mem := rfl
@[simp] theorem State.onPtp_jobs (f : Ptp → Ptp) : (s.onPtp f).jobs = s.jobs := rfl
@[simp] theorem State.onPtp_objects (f : Ptp → Ptp) : (s.onPtp f).objects = s.objects := rfl
@[simp] theorem State.onPtp_transport (f : Ptp → Ptp) : (s.onPtp f).transport = s.transport := rfl
@[simp] theorem State.onPtp_journal (f : Ptp → Ptp) : (s.onPtp f).journal = s.journal := rfl
@[simp] theorem State.onPtp_port (f : Ptp → Ptp) : (s.onPtp f).port = s.port := rfl
@[simp] theorem State.onPtp_optics (f : Ptp → Ptp) : (s.onPtp f).optics = s.optics := rfl
@[simp] theorem State.onPtp_power (f : Ptp → Ptp) : (s.onPtp f).power = s.power := rfl
@[simp] theorem State.onPtp_clocks (f : Ptp → Ptp) : (s.onPtp f).clocks = s.clocks := rfl
@[simp] theorem State.onPtp_thermal (f : Ptp → Ptp) : (s.onPtp f).thermal = s.thermal := rfl
@[simp] theorem State.onPtp_security (f : Ptp → Ptp) : (s.onPtp f).security = s.security := rfl
@[simp] theorem State.onPtp_entropy (f : Ptp → Ptp) : (s.onPtp f).entropy = s.entropy := rfl
@[simp] theorem State.onPtp_integrity (f : Ptp → Ptp) : (s.onPtp f).integrity = s.integrity := rfl
@[simp] theorem State.onPtp_bist (f : Ptp → Ptp) : (s.onPtp f).bist = s.bist := rfl
@[simp] theorem State.onPtp_config (f : Ptp → Ptp) : (s.onPtp f).config = s.config := rfl
@[simp] theorem State.onPtp_headers (f : Ptp → Ptp) : (s.onPtp f).headers = s.headers := rfl
@[simp] theorem State.onPtp_free (f : Ptp → Ptp) : (s.onPtp f).free = s.free := rfl
@[simp] theorem State.onPtp_pending (f : Ptp → Ptp) : (s.onPtp f).pending = s.pending := rfl

/-! ### onOptics -/

@[simp] theorem State.onOptics_optics (f : Optics → Optics) : (s.onOptics f).optics = f s.optics := rfl
@[simp] theorem State.onOptics_clusters (f : Optics → Optics) : (s.onOptics f).clusters = s.clusters := rfl
@[simp] theorem State.onOptics_halves (f : Optics → Optics) : (s.onOptics f).halves = s.halves := rfl
@[simp] theorem State.onOptics_dies (f : Optics → Optics) : (s.onOptics f).dies = s.dies := rfl
@[simp] theorem State.onOptics_tielux (f : Optics → Optics) : (s.onOptics f).tielux = s.tielux := rfl
@[simp] theorem State.onOptics_mem (f : Optics → Optics) : (s.onOptics f).mem = s.mem := rfl
@[simp] theorem State.onOptics_jobs (f : Optics → Optics) : (s.onOptics f).jobs = s.jobs := rfl
@[simp] theorem State.onOptics_objects (f : Optics → Optics) : (s.onOptics f).objects = s.objects := rfl
@[simp] theorem State.onOptics_transport (f : Optics → Optics) : (s.onOptics f).transport = s.transport := rfl
@[simp] theorem State.onOptics_journal (f : Optics → Optics) : (s.onOptics f).journal = s.journal := rfl
@[simp] theorem State.onOptics_port (f : Optics → Optics) : (s.onOptics f).port = s.port := rfl
@[simp] theorem State.onOptics_ptp (f : Optics → Optics) : (s.onOptics f).ptp = s.ptp := rfl
@[simp] theorem State.onOptics_power (f : Optics → Optics) : (s.onOptics f).power = s.power := rfl
@[simp] theorem State.onOptics_clocks (f : Optics → Optics) : (s.onOptics f).clocks = s.clocks := rfl
@[simp] theorem State.onOptics_thermal (f : Optics → Optics) : (s.onOptics f).thermal = s.thermal := rfl
@[simp] theorem State.onOptics_security (f : Optics → Optics) : (s.onOptics f).security = s.security := rfl
@[simp] theorem State.onOptics_entropy (f : Optics → Optics) : (s.onOptics f).entropy = s.entropy := rfl
@[simp] theorem State.onOptics_integrity (f : Optics → Optics) : (s.onOptics f).integrity = s.integrity := rfl
@[simp] theorem State.onOptics_bist (f : Optics → Optics) : (s.onOptics f).bist = s.bist := rfl
@[simp] theorem State.onOptics_config (f : Optics → Optics) : (s.onOptics f).config = s.config := rfl
@[simp] theorem State.onOptics_headers (f : Optics → Optics) : (s.onOptics f).headers = s.headers := rfl
@[simp] theorem State.onOptics_free (f : Optics → Optics) : (s.onOptics f).free = s.free := rfl
@[simp] theorem State.onOptics_pending (f : Optics → Optics) : (s.onOptics f).pending = s.pending := rfl

/-! ### onObjects -/

@[simp] theorem State.onObjects_objects (f : ObjectStore → ObjectStore) : (s.onObjects f).objects = f s.objects := rfl
@[simp] theorem State.onObjects_clusters (f : ObjectStore → ObjectStore) : (s.onObjects f).clusters = s.clusters := rfl
@[simp] theorem State.onObjects_halves (f : ObjectStore → ObjectStore) : (s.onObjects f).halves = s.halves := rfl
@[simp] theorem State.onObjects_dies (f : ObjectStore → ObjectStore) : (s.onObjects f).dies = s.dies := rfl
@[simp] theorem State.onObjects_tielux (f : ObjectStore → ObjectStore) : (s.onObjects f).tielux = s.tielux := rfl
@[simp] theorem State.onObjects_mem (f : ObjectStore → ObjectStore) : (s.onObjects f).mem = s.mem := rfl
@[simp] theorem State.onObjects_jobs (f : ObjectStore → ObjectStore) : (s.onObjects f).jobs = s.jobs := rfl
@[simp] theorem State.onObjects_transport (f : ObjectStore → ObjectStore) : (s.onObjects f).transport = s.transport := rfl
@[simp] theorem State.onObjects_journal (f : ObjectStore → ObjectStore) : (s.onObjects f).journal = s.journal := rfl
@[simp] theorem State.onObjects_port (f : ObjectStore → ObjectStore) : (s.onObjects f).port = s.port := rfl
@[simp] theorem State.onObjects_ptp (f : ObjectStore → ObjectStore) : (s.onObjects f).ptp = s.ptp := rfl
@[simp] theorem State.onObjects_optics (f : ObjectStore → ObjectStore) : (s.onObjects f).optics = s.optics := rfl
@[simp] theorem State.onObjects_power (f : ObjectStore → ObjectStore) : (s.onObjects f).power = s.power := rfl
@[simp] theorem State.onObjects_clocks (f : ObjectStore → ObjectStore) : (s.onObjects f).clocks = s.clocks := rfl
@[simp] theorem State.onObjects_thermal (f : ObjectStore → ObjectStore) : (s.onObjects f).thermal = s.thermal := rfl
@[simp] theorem State.onObjects_security (f : ObjectStore → ObjectStore) : (s.onObjects f).security = s.security := rfl
@[simp] theorem State.onObjects_entropy (f : ObjectStore → ObjectStore) : (s.onObjects f).entropy = s.entropy := rfl
@[simp] theorem State.onObjects_integrity (f : ObjectStore → ObjectStore) : (s.onObjects f).integrity = s.integrity := rfl
@[simp] theorem State.onObjects_bist (f : ObjectStore → ObjectStore) : (s.onObjects f).bist = s.bist := rfl
@[simp] theorem State.onObjects_config (f : ObjectStore → ObjectStore) : (s.onObjects f).config = s.config := rfl
@[simp] theorem State.onObjects_headers (f : ObjectStore → ObjectStore) : (s.onObjects f).headers = s.headers := rfl
@[simp] theorem State.onObjects_free (f : ObjectStore → ObjectStore) : (s.onObjects f).free = s.free := rfl
@[simp] theorem State.onObjects_pending (f : ObjectStore → ObjectStore) : (s.onObjects f).pending = s.pending := rfl

/-! ### onJobs -/

@[simp] theorem State.onJobs_jobs (f : JobEngine → JobEngine) : (s.onJobs f).jobs = f s.jobs := rfl
@[simp] theorem State.onJobs_clusters (f : JobEngine → JobEngine) : (s.onJobs f).clusters = s.clusters := rfl
@[simp] theorem State.onJobs_halves (f : JobEngine → JobEngine) : (s.onJobs f).halves = s.halves := rfl
@[simp] theorem State.onJobs_dies (f : JobEngine → JobEngine) : (s.onJobs f).dies = s.dies := rfl
@[simp] theorem State.onJobs_tielux (f : JobEngine → JobEngine) : (s.onJobs f).tielux = s.tielux := rfl
@[simp] theorem State.onJobs_mem (f : JobEngine → JobEngine) : (s.onJobs f).mem = s.mem := rfl
@[simp] theorem State.onJobs_objects (f : JobEngine → JobEngine) : (s.onJobs f).objects = s.objects := rfl
@[simp] theorem State.onJobs_transport (f : JobEngine → JobEngine) : (s.onJobs f).transport = s.transport := rfl
@[simp] theorem State.onJobs_journal (f : JobEngine → JobEngine) : (s.onJobs f).journal = s.journal := rfl
@[simp] theorem State.onJobs_port (f : JobEngine → JobEngine) : (s.onJobs f).port = s.port := rfl
@[simp] theorem State.onJobs_ptp (f : JobEngine → JobEngine) : (s.onJobs f).ptp = s.ptp := rfl
@[simp] theorem State.onJobs_optics (f : JobEngine → JobEngine) : (s.onJobs f).optics = s.optics := rfl
@[simp] theorem State.onJobs_power (f : JobEngine → JobEngine) : (s.onJobs f).power = s.power := rfl
@[simp] theorem State.onJobs_clocks (f : JobEngine → JobEngine) : (s.onJobs f).clocks = s.clocks := rfl
@[simp] theorem State.onJobs_thermal (f : JobEngine → JobEngine) : (s.onJobs f).thermal = s.thermal := rfl
@[simp] theorem State.onJobs_security (f : JobEngine → JobEngine) : (s.onJobs f).security = s.security := rfl
@[simp] theorem State.onJobs_entropy (f : JobEngine → JobEngine) : (s.onJobs f).entropy = s.entropy := rfl
@[simp] theorem State.onJobs_integrity (f : JobEngine → JobEngine) : (s.onJobs f).integrity = s.integrity := rfl
@[simp] theorem State.onJobs_bist (f : JobEngine → JobEngine) : (s.onJobs f).bist = s.bist := rfl
@[simp] theorem State.onJobs_config (f : JobEngine → JobEngine) : (s.onJobs f).config = s.config := rfl
@[simp] theorem State.onJobs_headers (f : JobEngine → JobEngine) : (s.onJobs f).headers = s.headers := rfl
@[simp] theorem State.onJobs_free (f : JobEngine → JobEngine) : (s.onJobs f).free = s.free := rfl
@[simp] theorem State.onJobs_pending (f : JobEngine → JobEngine) : (s.onJobs f).pending = s.pending := rfl

/-! ### modCluster -/

@[simp] theorem State.modCluster_clusters (k : Nat) (f : Cluster → Cluster) : (s.modCluster k f).clusters = mmod {} s.clusters k f := rfl
@[simp] theorem State.modCluster_halves (k : Nat) (f : Cluster → Cluster) : (s.modCluster k f).halves = s.halves := rfl
@[simp] theorem State.modCluster_dies (k : Nat) (f : Cluster → Cluster) : (s.modCluster k f).dies = s.dies := rfl
@[simp] theorem State.modCluster_tielux (k : Nat) (f : Cluster → Cluster) : (s.modCluster k f).tielux = s.tielux := rfl
@[simp] theorem State.modCluster_mem (k : Nat) (f : Cluster → Cluster) : (s.modCluster k f).mem = s.mem := rfl
@[simp] theorem State.modCluster_jobs (k : Nat) (f : Cluster → Cluster) : (s.modCluster k f).jobs = s.jobs := rfl
@[simp] theorem State.modCluster_objects (k : Nat) (f : Cluster → Cluster) : (s.modCluster k f).objects = s.objects := rfl
@[simp] theorem State.modCluster_transport (k : Nat) (f : Cluster → Cluster) : (s.modCluster k f).transport = s.transport := rfl
@[simp] theorem State.modCluster_journal (k : Nat) (f : Cluster → Cluster) : (s.modCluster k f).journal = s.journal := rfl
@[simp] theorem State.modCluster_port (k : Nat) (f : Cluster → Cluster) : (s.modCluster k f).port = s.port := rfl
@[simp] theorem State.modCluster_ptp (k : Nat) (f : Cluster → Cluster) : (s.modCluster k f).ptp = s.ptp := rfl
@[simp] theorem State.modCluster_optics (k : Nat) (f : Cluster → Cluster) : (s.modCluster k f).optics = s.optics := rfl
@[simp] theorem State.modCluster_power (k : Nat) (f : Cluster → Cluster) : (s.modCluster k f).power = s.power := rfl
@[simp] theorem State.modCluster_clocks (k : Nat) (f : Cluster → Cluster) : (s.modCluster k f).clocks = s.clocks := rfl
@[simp] theorem State.modCluster_thermal (k : Nat) (f : Cluster → Cluster) : (s.modCluster k f).thermal = s.thermal := rfl
@[simp] theorem State.modCluster_security (k : Nat) (f : Cluster → Cluster) : (s.modCluster k f).security = s.security := rfl
@[simp] theorem State.modCluster_entropy (k : Nat) (f : Cluster → Cluster) : (s.modCluster k f).entropy = s.entropy := rfl
@[simp] theorem State.modCluster_integrity (k : Nat) (f : Cluster → Cluster) : (s.modCluster k f).integrity = s.integrity := rfl
@[simp] theorem State.modCluster_bist (k : Nat) (f : Cluster → Cluster) : (s.modCluster k f).bist = s.bist := rfl
@[simp] theorem State.modCluster_config (k : Nat) (f : Cluster → Cluster) : (s.modCluster k f).config = s.config := rfl
@[simp] theorem State.modCluster_headers (k : Nat) (f : Cluster → Cluster) : (s.modCluster k f).headers = s.headers := rfl
@[simp] theorem State.modCluster_free (k : Nat) (f : Cluster → Cluster) : (s.modCluster k f).free = s.free := rfl
@[simp] theorem State.modCluster_pending (k : Nat) (f : Cluster → Cluster) : (s.modCluster k f).pending = s.pending := rfl

/-! ### modHalf -/

@[simp] theorem State.modHalf_halves (k : Nat) (f : Half → Half) : (s.modHalf k f).halves = mmod {} s.halves k f := rfl
@[simp] theorem State.modHalf_clusters (k : Nat) (f : Half → Half) : (s.modHalf k f).clusters = s.clusters := rfl
@[simp] theorem State.modHalf_dies (k : Nat) (f : Half → Half) : (s.modHalf k f).dies = s.dies := rfl
@[simp] theorem State.modHalf_tielux (k : Nat) (f : Half → Half) : (s.modHalf k f).tielux = s.tielux := rfl
@[simp] theorem State.modHalf_mem (k : Nat) (f : Half → Half) : (s.modHalf k f).mem = s.mem := rfl
@[simp] theorem State.modHalf_jobs (k : Nat) (f : Half → Half) : (s.modHalf k f).jobs = s.jobs := rfl
@[simp] theorem State.modHalf_objects (k : Nat) (f : Half → Half) : (s.modHalf k f).objects = s.objects := rfl
@[simp] theorem State.modHalf_transport (k : Nat) (f : Half → Half) : (s.modHalf k f).transport = s.transport := rfl
@[simp] theorem State.modHalf_journal (k : Nat) (f : Half → Half) : (s.modHalf k f).journal = s.journal := rfl
@[simp] theorem State.modHalf_port (k : Nat) (f : Half → Half) : (s.modHalf k f).port = s.port := rfl
@[simp] theorem State.modHalf_ptp (k : Nat) (f : Half → Half) : (s.modHalf k f).ptp = s.ptp := rfl
@[simp] theorem State.modHalf_optics (k : Nat) (f : Half → Half) : (s.modHalf k f).optics = s.optics := rfl
@[simp] theorem State.modHalf_power (k : Nat) (f : Half → Half) : (s.modHalf k f).power = s.power := rfl
@[simp] theorem State.modHalf_clocks (k : Nat) (f : Half → Half) : (s.modHalf k f).clocks = s.clocks := rfl
@[simp] theorem State.modHalf_thermal (k : Nat) (f : Half → Half) : (s.modHalf k f).thermal = s.thermal := rfl
@[simp] theorem State.modHalf_security (k : Nat) (f : Half → Half) : (s.modHalf k f).security = s.security := rfl
@[simp] theorem State.modHalf_entropy (k : Nat) (f : Half → Half) : (s.modHalf k f).entropy = s.entropy := rfl
@[simp] theorem State.modHalf_integrity (k : Nat) (f : Half → Half) : (s.modHalf k f).integrity = s.integrity := rfl
@[simp] theorem State.modHalf_bist (k : Nat) (f : Half → Half) : (s.modHalf k f).bist = s.bist := rfl
@[simp] theorem State.modHalf_config (k : Nat) (f : Half → Half) : (s.modHalf k f).config = s.config := rfl
@[simp] theorem State.modHalf_headers (k : Nat) (f : Half → Half) : (s.modHalf k f).headers = s.headers := rfl
@[simp] theorem State.modHalf_free (k : Nat) (f : Half → Half) : (s.modHalf k f).free = s.free := rfl
@[simp] theorem State.modHalf_pending (k : Nat) (f : Half → Half) : (s.modHalf k f).pending = s.pending := rfl

/-! ### modDie -/

@[simp] theorem State.modDie_dies (k : Nat) (f : Die → Die) : (s.modDie k f).dies = mmod {} s.dies k f := rfl
@[simp] theorem State.modDie_clusters (k : Nat) (f : Die → Die) : (s.modDie k f).clusters = s.clusters := rfl
@[simp] theorem State.modDie_halves (k : Nat) (f : Die → Die) : (s.modDie k f).halves = s.halves := rfl
@[simp] theorem State.modDie_tielux (k : Nat) (f : Die → Die) : (s.modDie k f).tielux = s.tielux := rfl
@[simp] theorem State.modDie_mem (k : Nat) (f : Die → Die) : (s.modDie k f).mem = s.mem := rfl
@[simp] theorem State.modDie_jobs (k : Nat) (f : Die → Die) : (s.modDie k f).jobs = s.jobs := rfl
@[simp] theorem State.modDie_objects (k : Nat) (f : Die → Die) : (s.modDie k f).objects = s.objects := rfl
@[simp] theorem State.modDie_transport (k : Nat) (f : Die → Die) : (s.modDie k f).transport = s.transport := rfl
@[simp] theorem State.modDie_journal (k : Nat) (f : Die → Die) : (s.modDie k f).journal = s.journal := rfl
@[simp] theorem State.modDie_port (k : Nat) (f : Die → Die) : (s.modDie k f).port = s.port := rfl
@[simp] theorem State.modDie_ptp (k : Nat) (f : Die → Die) : (s.modDie k f).ptp = s.ptp := rfl
@[simp] theorem State.modDie_optics (k : Nat) (f : Die → Die) : (s.modDie k f).optics = s.optics := rfl
@[simp] theorem State.modDie_power (k : Nat) (f : Die → Die) : (s.modDie k f).power = s.power := rfl
@[simp] theorem State.modDie_clocks (k : Nat) (f : Die → Die) : (s.modDie k f).clocks = s.clocks := rfl
@[simp] theorem State.modDie_thermal (k : Nat) (f : Die → Die) : (s.modDie k f).thermal = s.thermal := rfl
@[simp] theorem State.modDie_security (k : Nat) (f : Die → Die) : (s.modDie k f).security = s.security := rfl
@[simp] theorem State.modDie_entropy (k : Nat) (f : Die → Die) : (s.modDie k f).entropy = s.entropy := rfl
@[simp] theorem State.modDie_integrity (k : Nat) (f : Die → Die) : (s.modDie k f).integrity = s.integrity := rfl
@[simp] theorem State.modDie_bist (k : Nat) (f : Die → Die) : (s.modDie k f).bist = s.bist := rfl
@[simp] theorem State.modDie_config (k : Nat) (f : Die → Die) : (s.modDie k f).config = s.config := rfl
@[simp] theorem State.modDie_headers (k : Nat) (f : Die → Die) : (s.modDie k f).headers = s.headers := rfl
@[simp] theorem State.modDie_free (k : Nat) (f : Die → Die) : (s.modDie k f).free = s.free := rfl
@[simp] theorem State.modDie_pending (k : Nat) (f : Die → Die) : (s.modDie k f).pending = s.pending := rfl

/-! ### modStack -/

@[simp] theorem State.modStack_tielux (k : Nat) (f : Stack → Stack) : (s.modStack k f).tielux = mmod {} s.tielux k f := rfl
@[simp] theorem State.modStack_clusters (k : Nat) (f : Stack → Stack) : (s.modStack k f).clusters = s.clusters := rfl
@[simp] theorem State.modStack_halves (k : Nat) (f : Stack → Stack) : (s.modStack k f).halves = s.halves := rfl
@[simp] theorem State.modStack_dies (k : Nat) (f : Stack → Stack) : (s.modStack k f).dies = s.dies := rfl
@[simp] theorem State.modStack_mem (k : Nat) (f : Stack → Stack) : (s.modStack k f).mem = s.mem := rfl
@[simp] theorem State.modStack_jobs (k : Nat) (f : Stack → Stack) : (s.modStack k f).jobs = s.jobs := rfl
@[simp] theorem State.modStack_objects (k : Nat) (f : Stack → Stack) : (s.modStack k f).objects = s.objects := rfl
@[simp] theorem State.modStack_transport (k : Nat) (f : Stack → Stack) : (s.modStack k f).transport = s.transport := rfl
@[simp] theorem State.modStack_journal (k : Nat) (f : Stack → Stack) : (s.modStack k f).journal = s.journal := rfl
@[simp] theorem State.modStack_port (k : Nat) (f : Stack → Stack) : (s.modStack k f).port = s.port := rfl
@[simp] theorem State.modStack_ptp (k : Nat) (f : Stack → Stack) : (s.modStack k f).ptp = s.ptp := rfl
@[simp] theorem State.modStack_optics (k : Nat) (f : Stack → Stack) : (s.modStack k f).optics = s.optics := rfl
@[simp] theorem State.modStack_power (k : Nat) (f : Stack → Stack) : (s.modStack k f).power = s.power := rfl
@[simp] theorem State.modStack_clocks (k : Nat) (f : Stack → Stack) : (s.modStack k f).clocks = s.clocks := rfl
@[simp] theorem State.modStack_thermal (k : Nat) (f : Stack → Stack) : (s.modStack k f).thermal = s.thermal := rfl
@[simp] theorem State.modStack_security (k : Nat) (f : Stack → Stack) : (s.modStack k f).security = s.security := rfl
@[simp] theorem State.modStack_entropy (k : Nat) (f : Stack → Stack) : (s.modStack k f).entropy = s.entropy := rfl
@[simp] theorem State.modStack_integrity (k : Nat) (f : Stack → Stack) : (s.modStack k f).integrity = s.integrity := rfl
@[simp] theorem State.modStack_bist (k : Nat) (f : Stack → Stack) : (s.modStack k f).bist = s.bist := rfl
@[simp] theorem State.modStack_config (k : Nat) (f : Stack → Stack) : (s.modStack k f).config = s.config := rfl
@[simp] theorem State.modStack_headers (k : Nat) (f : Stack → Stack) : (s.modStack k f).headers = s.headers := rfl
@[simp] theorem State.modStack_free (k : Nat) (f : Stack → Stack) : (s.modStack k f).free = s.free := rfl
@[simp] theorem State.modStack_pending (k : Nat) (f : Stack → Stack) : (s.modStack k f).pending = s.pending := rfl

/-! ### modSession -/

@[simp] theorem State.modSession_transport (id : Nat) (f : Session → Session) : (s.modSession id f).transport = { s.transport with sessions := modFirst (·.id == id) f s.transport.sessions } := rfl
@[simp] theorem State.modSession_clusters (id : Nat) (f : Session → Session) : (s.modSession id f).clusters = s.clusters := rfl
@[simp] theorem State.modSession_halves (id : Nat) (f : Session → Session) : (s.modSession id f).halves = s.halves := rfl
@[simp] theorem State.modSession_dies (id : Nat) (f : Session → Session) : (s.modSession id f).dies = s.dies := rfl
@[simp] theorem State.modSession_tielux (id : Nat) (f : Session → Session) : (s.modSession id f).tielux = s.tielux := rfl
@[simp] theorem State.modSession_mem (id : Nat) (f : Session → Session) : (s.modSession id f).mem = s.mem := rfl
@[simp] theorem State.modSession_jobs (id : Nat) (f : Session → Session) : (s.modSession id f).jobs = s.jobs := rfl
@[simp] theorem State.modSession_objects (id : Nat) (f : Session → Session) : (s.modSession id f).objects = s.objects := rfl
@[simp] theorem State.modSession_journal (id : Nat) (f : Session → Session) : (s.modSession id f).journal = s.journal := rfl
@[simp] theorem State.modSession_port (id : Nat) (f : Session → Session) : (s.modSession id f).port = s.port := rfl
@[simp] theorem State.modSession_ptp (id : Nat) (f : Session → Session) : (s.modSession id f).ptp = s.ptp := rfl
@[simp] theorem State.modSession_optics (id : Nat) (f : Session → Session) : (s.modSession id f).optics = s.optics := rfl
@[simp] theorem State.modSession_power (id : Nat) (f : Session → Session) : (s.modSession id f).power = s.power := rfl
@[simp] theorem State.modSession_clocks (id : Nat) (f : Session → Session) : (s.modSession id f).clocks = s.clocks := rfl
@[simp] theorem State.modSession_thermal (id : Nat) (f : Session → Session) : (s.modSession id f).thermal = s.thermal := rfl
@[simp] theorem State.modSession_security (id : Nat) (f : Session → Session) : (s.modSession id f).security = s.security := rfl
@[simp] theorem State.modSession_entropy (id : Nat) (f : Session → Session) : (s.modSession id f).entropy = s.entropy := rfl
@[simp] theorem State.modSession_integrity (id : Nat) (f : Session → Session) : (s.modSession id f).integrity = s.integrity := rfl
@[simp] theorem State.modSession_bist (id : Nat) (f : Session → Session) : (s.modSession id f).bist = s.bist := rfl
@[simp] theorem State.modSession_config (id : Nat) (f : Session → Session) : (s.modSession id f).config = s.config := rfl
@[simp] theorem State.modSession_headers (id : Nat) (f : Session → Session) : (s.modSession id f).headers = s.headers := rfl
@[simp] theorem State.modSession_free (id : Nat) (f : Session → Session) : (s.modSession id f).free = s.free := rfl
@[simp] theorem State.modSession_pending (id : Nat) (f : Session → Session) : (s.modSession id f).pending = s.pending := rfl

/-! ### send -/

@[simp] theorem State.send_transport (id : Nat) (b : TxBody) : (s.send id b).transport = s.transport.sendOn id b := rfl
@[simp] theorem State.send_clusters (id : Nat) (b : TxBody) : (s.send id b).clusters = s.clusters := rfl
@[simp] theorem State.send_halves (id : Nat) (b : TxBody) : (s.send id b).halves = s.halves := rfl
@[simp] theorem State.send_dies (id : Nat) (b : TxBody) : (s.send id b).dies = s.dies := rfl
@[simp] theorem State.send_tielux (id : Nat) (b : TxBody) : (s.send id b).tielux = s.tielux := rfl
@[simp] theorem State.send_mem (id : Nat) (b : TxBody) : (s.send id b).mem = s.mem := rfl
@[simp] theorem State.send_jobs (id : Nat) (b : TxBody) : (s.send id b).jobs = s.jobs := rfl
@[simp] theorem State.send_objects (id : Nat) (b : TxBody) : (s.send id b).objects = s.objects := rfl
@[simp] theorem State.send_journal (id : Nat) (b : TxBody) : (s.send id b).journal = s.journal := rfl
@[simp] theorem State.send_port (id : Nat) (b : TxBody) : (s.send id b).port = s.port := rfl
@[simp] theorem State.send_ptp (id : Nat) (b : TxBody) : (s.send id b).ptp = s.ptp := rfl
@[simp] theorem State.send_optics (id : Nat) (b : TxBody) : (s.send id b).optics = s.optics := rfl
@[simp] theorem State.send_power (id : Nat) (b : TxBody) : (s.send id b).power = s.power := rfl
@[simp] theorem State.send_clocks (id : Nat) (b : TxBody) : (s.send id b).clocks = s.clocks := rfl
@[simp] theorem State.send_thermal (id : Nat) (b : TxBody) : (s.send id b).thermal = s.thermal := rfl
@[simp] theorem State.send_security (id : Nat) (b : TxBody) : (s.send id b).security = s.security := rfl
@[simp] theorem State.send_entropy (id : Nat) (b : TxBody) : (s.send id b).entropy = s.entropy := rfl
@[simp] theorem State.send_integrity (id : Nat) (b : TxBody) : (s.send id b).integrity = s.integrity := rfl
@[simp] theorem State.send_bist (id : Nat) (b : TxBody) : (s.send id b).bist = s.bist := rfl
@[simp] theorem State.send_config (id : Nat) (b : TxBody) : (s.send id b).config = s.config := rfl
@[simp] theorem State.send_headers (id : Nat) (b : TxBody) : (s.send id b).headers = s.headers := rfl
@[simp] theorem State.send_free (id : Nat) (b : TxBody) : (s.send id b).free = s.free := rfl
@[simp] theorem State.send_pending (id : Nat) (b : TxBody) : (s.send id b).pending = s.pending := rfl

/-! ### popInbox -/

@[simp] theorem State.popInbox_transport (id : Nat) : (s.popInbox id).transport = { s.transport with sessions := modFirst (·.id == id) (fun x => { x with inbox := x.inbox.tail }) s.transport.sessions } := rfl
@[simp] theorem State.popInbox_clusters (id : Nat) : (s.popInbox id).clusters = s.clusters := rfl
@[simp] theorem State.popInbox_halves (id : Nat) : (s.popInbox id).halves = s.halves := rfl
@[simp] theorem State.popInbox_dies (id : Nat) : (s.popInbox id).dies = s.dies := rfl
@[simp] theorem State.popInbox_tielux (id : Nat) : (s.popInbox id).tielux = s.tielux := rfl
@[simp] theorem State.popInbox_mem (id : Nat) : (s.popInbox id).mem = s.mem := rfl
@[simp] theorem State.popInbox_jobs (id : Nat) : (s.popInbox id).jobs = s.jobs := rfl
@[simp] theorem State.popInbox_objects (id : Nat) : (s.popInbox id).objects = s.objects := rfl
@[simp] theorem State.popInbox_journal (id : Nat) : (s.popInbox id).journal = s.journal := rfl
@[simp] theorem State.popInbox_port (id : Nat) : (s.popInbox id).port = s.port := rfl
@[simp] theorem State.popInbox_ptp (id : Nat) : (s.popInbox id).ptp = s.ptp := rfl
@[simp] theorem State.popInbox_optics (id : Nat) : (s.popInbox id).optics = s.optics := rfl
@[simp] theorem State.popInbox_power (id : Nat) : (s.popInbox id).power = s.power := rfl
@[simp] theorem State.popInbox_clocks (id : Nat) : (s.popInbox id).clocks = s.clocks := rfl
@[simp] theorem State.popInbox_thermal (id : Nat) : (s.popInbox id).thermal = s.thermal := rfl
@[simp] theorem State.popInbox_security (id : Nat) : (s.popInbox id).security = s.security := rfl
@[simp] theorem State.popInbox_entropy (id : Nat) : (s.popInbox id).entropy = s.entropy := rfl
@[simp] theorem State.popInbox_integrity (id : Nat) : (s.popInbox id).integrity = s.integrity := rfl
@[simp] theorem State.popInbox_bist (id : Nat) : (s.popInbox id).bist = s.bist := rfl
@[simp] theorem State.popInbox_config (id : Nat) : (s.popInbox id).config = s.config := rfl
@[simp] theorem State.popInbox_headers (id : Nat) : (s.popInbox id).headers = s.headers := rfl
@[simp] theorem State.popInbox_free (id : Nat) : (s.popInbox id).free = s.free := rfl
@[simp] theorem State.popInbox_pending (id : Nat) : (s.popInbox id).pending = s.pending := rfl

/-! ### emit -/

@[simp] theorem State.emit_transport (o : RawOut) : (s.emit o).transport = { s.transport with out := s.transport.out ++ [o], bulk := s.transport.bulk ++ [.raw o (s.rawTo o)] } := rfl
@[simp] theorem State.emit_clusters (o : RawOut) : (s.emit o).clusters = s.clusters := rfl
@[simp] theorem State.emit_halves (o : RawOut) : (s.emit o).halves = s.halves := rfl
@[simp] theorem State.emit_dies (o : RawOut) : (s.emit o).dies = s.dies := rfl
@[simp] theorem State.emit_tielux (o : RawOut) : (s.emit o).tielux = s.tielux := rfl
@[simp] theorem State.emit_mem (o : RawOut) : (s.emit o).mem = s.mem := rfl
@[simp] theorem State.emit_jobs (o : RawOut) : (s.emit o).jobs = s.jobs := rfl
@[simp] theorem State.emit_objects (o : RawOut) : (s.emit o).objects = s.objects := rfl
@[simp] theorem State.emit_journal (o : RawOut) : (s.emit o).journal = s.journal := rfl
@[simp] theorem State.emit_port (o : RawOut) : (s.emit o).port = s.port := rfl
@[simp] theorem State.emit_ptp (o : RawOut) : (s.emit o).ptp = s.ptp := rfl
@[simp] theorem State.emit_optics (o : RawOut) : (s.emit o).optics = s.optics := rfl
@[simp] theorem State.emit_power (o : RawOut) : (s.emit o).power = s.power := rfl
@[simp] theorem State.emit_clocks (o : RawOut) : (s.emit o).clocks = s.clocks := rfl
@[simp] theorem State.emit_thermal (o : RawOut) : (s.emit o).thermal = s.thermal := rfl
@[simp] theorem State.emit_security (o : RawOut) : (s.emit o).security = s.security := rfl
@[simp] theorem State.emit_entropy (o : RawOut) : (s.emit o).entropy = s.entropy := rfl
@[simp] theorem State.emit_integrity (o : RawOut) : (s.emit o).integrity = s.integrity := rfl
@[simp] theorem State.emit_bist (o : RawOut) : (s.emit o).bist = s.bist := rfl
@[simp] theorem State.emit_config (o : RawOut) : (s.emit o).config = s.config := rfl
@[simp] theorem State.emit_headers (o : RawOut) : (s.emit o).headers = s.headers := rfl
@[simp] theorem State.emit_free (o : RawOut) : (s.emit o).free = s.free := rfl
@[simp] theorem State.emit_pending (o : RawOut) : (s.emit o).pending = s.pending := rfl

/-! ### setJob -/

@[simp] theorem State.setJob_clusters (slot : Nat) (j : Job) : (s.setJob slot j).clusters = s.clusters := rfl
@[simp] theorem State.setJob_halves (slot : Nat) (j : Job) : (s.setJob slot j).halves = s.halves := rfl
@[simp] theorem State.setJob_dies (slot : Nat) (j : Job) : (s.setJob slot j).dies = s.dies := rfl
@[simp] theorem State.setJob_tielux (slot : Nat) (j : Job) : (s.setJob slot j).tielux = s.tielux := rfl
@[simp] theorem State.setJob_mem (slot : Nat) (j : Job) : (s.setJob slot j).mem = s.mem := rfl
@[simp] theorem State.setJob_objects (slot : Nat) (j : Job) : (s.setJob slot j).objects = s.objects := rfl
@[simp] theorem State.setJob_transport (slot : Nat) (j : Job) : (s.setJob slot j).transport = s.transport := rfl
@[simp] theorem State.setJob_journal (slot : Nat) (j : Job) : (s.setJob slot j).journal = s.journal := rfl
@[simp] theorem State.setJob_port (slot : Nat) (j : Job) : (s.setJob slot j).port = s.port := rfl
@[simp] theorem State.setJob_ptp (slot : Nat) (j : Job) : (s.setJob slot j).ptp = s.ptp := rfl
@[simp] theorem State.setJob_optics (slot : Nat) (j : Job) : (s.setJob slot j).optics = s.optics := rfl
@[simp] theorem State.setJob_power (slot : Nat) (j : Job) : (s.setJob slot j).power = s.power := rfl
@[simp] theorem State.setJob_clocks (slot : Nat) (j : Job) : (s.setJob slot j).clocks = s.clocks := rfl
@[simp] theorem State.setJob_thermal (slot : Nat) (j : Job) : (s.setJob slot j).thermal = s.thermal := rfl
@[simp] theorem State.setJob_security (slot : Nat) (j : Job) : (s.setJob slot j).security = s.security := rfl
@[simp] theorem State.setJob_entropy (slot : Nat) (j : Job) : (s.setJob slot j).entropy = s.entropy := rfl
@[simp] theorem State.setJob_integrity (slot : Nat) (j : Job) : (s.setJob slot j).integrity = s.integrity := rfl
@[simp] theorem State.setJob_bist (slot : Nat) (j : Job) : (s.setJob slot j).bist = s.bist := rfl
@[simp] theorem State.setJob_config (slot : Nat) (j : Job) : (s.setJob slot j).config = s.config := rfl
@[simp] theorem State.setJob_headers (slot : Nat) (j : Job) : (s.setJob slot j).headers = s.headers := rfl
@[simp] theorem State.setJob_free (slot : Nat) (j : Job) : (s.setJob slot j).free = s.free := rfl
@[simp] theorem State.setJob_pending (slot : Nat) (j : Job) : (s.setJob slot j).pending = s.pending := rfl

end Sys2Proof.Machine
end

