-- ==== Sys2Proof/Laws/Submit.lean ====
section
/-! SUPPORT. What the operations of Machine/Submit.lean keep (Laws/Kept.lean). -/

set_option Elab.async false

namespace Sys2Proof.Machine

open Sys2Proof Sys2Proof.Safety

-- The proofs before this one are checked before the next ones start.
theorem State.acceptJob_kept {A : List Part} {s₀ s : State} (x : Session) (req : Nat) (b : SubmitBody) (slot : Nat) (h : Kept A s₀ s) (hA : [.jobs, .transport, .streams, .entropy, .free] ⊆ A := by exact Part.sub (by assumption) (by decide)) : Kept A s₀ (State.acceptJob s x req b slot) := by
  unfold State.acceptJob
  dsimp only
  repeat' first
    | with_reducible assumption
    | with_reducible apply State.drbg_kept
    | with_reducible apply State.onJobs_kept
    | exact ⟨Nat.le_succ _, Nat.le_succ _⟩
    | exact id
    | with_reducible apply State.setJob_kept
    | with_reducible apply State.accept_kept
    | exact Part.sub hA (by decide)
    | split

theorem State.submit_kept {A : List Part} {s₀ s : State} (x : Session) (req : Nat) (b : SubmitBody) (h : Kept A s₀ s) (hA : [.jobs, .transport, .streams, .entropy, .free] ⊆ A := by exact Part.sub (by assumption) (by decide)) : Kept A s₀ (State.submit s x req b) := by
  unfold State.submit
  repeat' first
    | with_reducible assumption
    | with_reducible apply State.ruled_kept
    | with_reducible apply State.acceptJob_kept
    | exact Part.sub hA (by decide)
    | intro _
    | split

theorem execSubmit_kept {s t : State} (xh : CmdHead) (b : SubmitBody) (e : execSubmit xh b s = .next t) : Kept [.jobs, .transport, .streams, .entropy, .free] s t := by
  have h := Kept.refl (A := [.jobs, .transport, .streams, .entropy, .free]) s
  have hA := List.Subset.refl ([.jobs, .transport, .streams, .entropy, .free] : List Part)
  unfold execSubmit at e
  repeat' split at e
  all_goals first | contradiction | (cases e) | skip
  repeat' first
    | with_reducible assumption
    | with_reducible apply State.command_kept
    | with_reducible apply State.submit_kept
    | exact Part.sub hA (by decide)
    | intro _

end Sys2Proof.Machine
end

