-- ==== Sys2Proof/Laws/Wire.lean ====
section
/-! SUPPORT. What leaving frames and the idle cycle keep, what a packet composed on a session does to the transport, and how long frames
are. -/

set_option Elab.async false

namespace Sys2Proof.Machine

open Sys2Proof Sys2Proof.Safety

/-- A packet composed on a session that stands: it is numbered, and joins the queue of its class. -/
theorem Transport.sendOn_some {t : Transport} {id : Nat} {b : TxBody} {x : Session} (h : (t.sessions.find? fun y => y.id == id) = some x) :
    t.sendOn id b = { t with sessions := modFirst (·.id == id) (·.send b) t.sessions }.queue b.express (.packet id x.txNext false) := by
  simp only [Transport.sendOn, h]

theorem Transport.sendOn_none {t : Transport} {id : Nat} {b : TxBody} (h : (t.sessions.find? fun y => y.id == id) = none) : t.sendOn id b = t := by
  simp only [Transport.sendOn, h]

theorem modFirst_of_find?_none {α : Type} {p : α → Bool} {f : α → α} {l : List α} (h : l.find? p = none) : modFirst p f l = l := by
  induction l with
  | nil => rfl
  | cons a l ih =>
    rw [List.find?_cons] at h
    cases hp : p a with
    | true => simp [hp] at h
    | false => simp [hp] at h; simp [modFirst, hp, ih (by simpa using h)]

/-- Whatever is composed, the sessions change as `Session.send` says, and nothing else but the two queues. -/
@[simp] theorem Transport.sendOn_sessions (t : Transport) (id : Nat) (b : TxBody) :
    (t.sendOn id b).sessions = modFirst (·.id == id) (·.send b) t.sessions := by
  cases h : t.sessions.find? fun y => y.id == id with
  | none => rw [Transport.sendOn_none h, modFirst_of_find?_none h]
  | some x =>
    rw [Transport.sendOn_some h, Transport.queue]
    split <;> rfl

@[simp] theorem Transport.sendOn_out (t : Transport) (id : Nat) (b : TxBody) : (t.sendOn id b).out = t.out := by
  cases h : t.sessions.find? fun y => y.id == id with
  | none => rw [Transport.sendOn_none h]
  | some x =>
    rw [Transport.sendOn_some h, Transport.queue]
    split <;> rfl

theorem State.portCycle_kept {A : List Part} {s₀ s : State} (h : Kept A s₀ s) (hA : [.transport, .port] ⊆ A := by exact Part.sub (by assumption) (by decide)) : Kept A s₀ (State.portCycle s) := by
  unfold State.portCycle
  dsimp only
  repeat' first
    | with_reducible assumption
    | fail_if_no_progress refine Kept.record ?_ rfl rfl rfl rfl rfl rfl ⟨fun p hp => by cases p <;> first | exact rfl | exact ⟨rfl, rfl⟩ | exact ⟨rfl, trivial⟩ | exact ⟨trivial, rfl⟩ | exact absurd (hA (by decide)) hp⟩

theorem State.measurePower_kept {A : List Part} {s₀ s : State} (n : Nat) (h : Kept A s₀ s) (hA : [.dies, .power] ⊆ A := by exact Part.sub (by assumption) (by decide)) : Kept A s₀ (State.measurePower s n) := by
  unfold State.measurePower
  repeat' first
    | with_reducible assumption
    | fail_if_no_progress refine Kept.record ?_ rfl rfl rfl rfl rfl rfl ⟨fun p hp => by cases p <;> first | exact rfl | exact ⟨rfl, rfl⟩ | exact ⟨rfl, trivial⟩ | exact ⟨trivial, rfl⟩ | exact absurd (hA (by decide)) hp⟩

theorem idleCycle_kept {A : List Part} {s₀ s : State} (h : Kept A s₀ s) (hA : [.dies, .transport, .port, .power, .clocks] ⊆ A := by exact Part.sub (by assumption) (by decide)) : Kept A s₀ (idleCycle s) := by
  unfold idleCycle
  dsimp only
  repeat' first
    | with_reducible assumption
    | with_reducible refine Kept.ite ?_ ?_
    | with_reducible apply State.measurePower_kept
    | with_reducible apply State.portCycle_kept
    | exact Part.sub hA (by decide)
    | fail_if_no_progress refine Kept.record ?_ rfl rfl rfl rfl rfl rfl ⟨fun p hp => by cases p <;> first | exact rfl | exact ⟨rfl, rfl⟩ | exact ⟨rfl, trivial⟩ | exact ⟨trivial, rfl⟩ | exact absurd (hA (by decide)) hp⟩

end Sys2Proof.Machine
end

