-- ==== Sys2Proof/Laws/Words.lean ====
section
/-! SUPPORT. Bytes, words and lines as they are written and read back (Machine/Num.lean, Ops.lean, Operands.lean). -/

set_option Elab.async false

namespace Sys2Proof.Machine

open Sys2Proof

-- The proofs before this one are checked before the next ones start.
theorem leBytes_length : ∀ (n v : Nat), (leBytes n v).length = n
  | 0, _ => rfl
  | n + 1, v => by simp only [leBytes, List.length_cons, leBytes_length n]

theorem leNat_leBytes : ∀ (n v : Nat), leNat (leBytes n v) = v % 256 ^ n
  | 0, v => by simp [leBytes, leNat, Nat.mod_one]
  | n + 1, v => by
    have h : (BitVec.ofNat 8 v).toNat = v % 256 := rfl
    rw [leBytes, leNat, leNat_leBytes n, h, pow_succ, Nat.mul_comm (256 ^ n) 256, Nat.mod_mul]

/-- Bytes that a write does not reach. -/
theorem readBytes_writeBytes_other : ∀ (n : Nat) (bs : Bytes) (m : List Host.Cell) (a b : Nat),
    a + bs.length ≤ b ∨ b + n ≤ a → readBytes (writeBytes m a bs) n b = readBytes m n b
  | 0, _, _, _, _, _ => rfl
  | n + 1, bs, m, a, b, h => by
    have hb : ¬ (a ≤ b ∧ b < a + bs.length) := by omega
    simp only [readBytes, readByte_writeBytes, if_neg hb]
    rw [readBytes_writeBytes_other n bs m a (b + 1) (by omega)]

/-- Bytes written read back. -/
theorem readBytes_writeBytes : ∀ (bs : Bytes) (m : List Host.Cell) (a : Nat), readBytes (writeBytes m a bs) bs.length a = bs
  | [], _, _ => rfl
  | b :: bs, m, a => by
    simp only [List.length_cons, readBytes]
    congr 1
    · simp [readByte_writeBytes]
    · exact readBytes_writeBytes bs (writeByte m a b) (a + 1)

theorem readLine_writeLine (m : List Host.Cell) (a : Nat) (v : BitVec 512) : readLine (writeLine m a v) a = v := by
  unfold readLine writeLine
  have h := readBytes_writeBytes (leBytes 64 v.toNat) m a
  rw [leBytes_length] at h
  rw [h, leNat_leBytes]
  apply BitVec.eq_of_toNat_eq
  rw [BitVec.toNat_ofNat]
  have := v.isLt
  omega

theorem readLine_writeLine_other (m : List Host.Cell) (a b : Nat) (v : BitVec 512) (h : a + 64 ≤ b ∨ b + 64 ≤ a) :
    readLine (writeLine m a v) b = readLine m b := by
  unfold readLine writeLine
  rw [readBytes_writeBytes_other _ _ _ _ _ (by rw [leBytes_length]; omega)]

/-- A line of a playa written: that line holds the value, every other line stays. -/
theorem Core.line_write (c : Core) (l k : Nat) (v : BitVec 512) :
    Core.line { c with playa := writeLine c.playa (64 * l) v } k = if k = l then v else c.line k := by
  by_cases h : k = l
  · subst h
    rw [if_pos rfl]
    exact readLine_writeLine _ _ _
  · rw [if_neg h]
    exact readLine_writeLine_other _ _ _ _ (by omega)

theorem mod_of_split {a b m : Nat} (hb : b < m) : (a * m + b) % m = b ∧ (a * m + b) / m = a := by
  refine ⟨?_, ?_⟩
  · rw [Nat.add_comm, Nat.add_mul_mod_self_right, Nat.mod_eq_of_lt hb]
  · rw [Nat.mul_comm, Nat.mul_add_div (by omega), Nat.div_eq_of_lt hb, Nat.add_zero]

theorem lineWord_setLineWord (v : BitVec 512) (w k : Nat) (x : Word) (hw : w < 16) :
    lineWord (setLineWord v w x) k = if k = w then x else lineWord v k := by
  apply BitVec.eq_of_toNat_eq
  have hv := v.isLt
  have hx := x.isLt
  -- the value cut at the word
  generalize hp : 2 ^ (32 * w) = p
  have hp0 : 0 < p := by rw [← hp]; exact Nat.pos_of_ne_zero (by simp)
  have h1 : v.toNat = v.toNat / p / 2 ^ 32 * (p * 2 ^ 32) + (v.toNat / p % 2 ^ 32 * p + v.toNat % p) := by
    have a1 := Nat.div_add_mod v.toNat p
    have a2 := Nat.div_add_mod (v.toNat / p) (2 ^ 32)
    generalize v.toNat / p / 2 ^ 32 = hi at *
    generalize v.toNat / p % 2 ^ 32 = mi at *
    generalize v.toNat % p = lo at *
    rw [← a2] at a1
    rw [← a1]
    ring
  have hset : (setLineWord v w x).toNat = v.toNat / p / 2 ^ 32 * (p * 2 ^ 32) + (x.toNat * p + v.toNat % p) := by
    have : v.toNat - bitField v.toNat (32 * w) 32 * 2 ^ (32 * w) + x.toNat * 2 ^ (32 * w) =
        v.toNat / p / 2 ^ 32 * (p * 2 ^ 32) + (x.toNat * p + v.toNat % p) := by
      unfold bitField
      rw [hp]
      omega
    unfold setLineWord
    rw [BitVec.toNat_ofNat, this]
    apply Nat.mod_eq_of_lt
    have b1 : v.toNat % p < p := Nat.mod_lt _ hp0
    have b2 : x.toNat * p + v.toNat % p < p * 2 ^ 32 := by nlinarith
    have b3 : v.toNat / p / 2 ^ 32 < 2 ^ (480 - 32 * w) := by
      rw [Nat.div_div_eq_div_mul, Nat.div_lt_iff_lt_mul (Nat.mul_pos hp0 (by decide : 0 < 2 ^ 32)), ← hp]
      rw [← Nat.pow_add, ← Nat.pow_add, show 480 - 32 * w + (32 * w + 32) = 512 by omega]
      exact hv
    have b4 : (v.toNat / p / 2 ^ 32 + 1) * (p * 2 ^ 32) ≤ 2 ^ (480 - 32 * w) * (p * 2 ^ 32) := Nat.mul_le_mul_right _ b3
    have b5 : 2 ^ (480 - 32 * w) * (p * 2 ^ 32) = 2 ^ 512 := by
      rw [← hp, ← Nat.pow_add, ← Nat.pow_add, show 480 - 32 * w + (32 * w + 32) = 512 by omega]
    rw [b5] at b4
    generalize (2 : Nat) ^ 512 = big at b4 ⊢
    have b6 : (v.toNat / p / 2 ^ 32 + 1) * (p * 2 ^ 32) = v.toNat / p / 2 ^ 32 * (p * 2 ^ 32) + p * 2 ^ 32 := by ring
    omega
  by_cases hkw : k = w
  · subst hkw
    rw [if_pos rfl]
    unfold lineWord
    rw [BitVec.extractLsb'_toNat, Nat.shiftRight_eq_div_pow, hset, hp]
    have c1 : v.toNat / p / 2 ^ 32 * (p * 2 ^ 32) + (x.toNat * p + v.toNat % p) =
        (v.toNat / p / 2 ^ 32 * 2 ^ 32 + x.toNat) * p + v.toNat % p := by ring
    rw [c1, (mod_of_split (Nat.mod_lt _ hp0)).2]
    rw [(mod_of_split hx).1]
  · rw [if_neg hkw]
    unfold lineWord
    rw [BitVec.extractLsb'_toNat, BitVec.extractLsb'_toNat, Nat.shiftRight_eq_div_pow, Nat.shiftRight_eq_div_pow, hset]
    rcases Nat.lt_or_gt_of_ne hkw with h | h
    · -- a lower word
      have d1 : p = 2 ^ (32 * k) * 2 ^ 32 * 2 ^ (32 * (w - k - 1)) := by
        rw [← hp, ← Nat.pow_add, ← Nat.pow_add]
        congr 1
        omega
      have e1 : v.toNat / p / 2 ^ 32 * (p * 2 ^ 32) + (x.toNat * p + v.toNat % p) =
          (v.toNat / p / 2 ^ 32 * 2 ^ 32 + x.toNat) * p + v.toNat % p := by ring
      have e2 : v.toNat = (v.toNat / p) * p + v.toNat % p := by rw [Nat.mul_comm, Nat.div_add_mod]
      have key : ∀ a r, (a * p + r) / 2 ^ (32 * k) % 2 ^ 32 = r / 2 ^ (32 * k) % 2 ^ 32 := by
        intro a r
        rw [d1, show a * (2 ^ (32 * k) * 2 ^ 32 * 2 ^ (32 * (w - k - 1))) + r = r + 2 ^ (32 * k) * (2 ^ 32 * (a * 2 ^ (32 * (w - k - 1)))) by ring,
          Nat.add_mul_div_left _ _ (by positivity), Nat.add_mul_mod_self_left]
      rw [e1, key]
      conv_rhs => rw [e2, key]
    · -- a higher word
      have d1 : 2 ^ (32 * k) = p * 2 ^ 32 * 2 ^ (32 * (k - w - 1)) := by
        rw [← hp, ← Nat.pow_add, ← Nat.pow_add]
        congr 1
        omega
      have key : ∀ a r, r < p * 2 ^ 32 → (a * (p * 2 ^ 32) + r) / 2 ^ (32 * k) = a / 2 ^ (32 * (k - w - 1)) := by
        intro a r hr
        rw [d1, ← Nat.div_div_eq_div_mul, (mod_of_split hr).2]
      have b1 : v.toNat % p < p := Nat.mod_lt _ hp0
      have b2 : v.toNat / p % 2 ^ 32 < 2 ^ 32 := Nat.mod_lt _ (by positivity)
      rw [key _ _ (by nlinarith)]
      conv_rhs => rw [h1, key _ _ (by nlinarith)]

/-- Words of a line set one after another: the last word given for a place stands there. -/
theorem lineWord_setAll : ∀ (ws : List (Nat × Word)) (v : BitVec 512) (k : Nat), (∀ e ∈ ws, e.1 < 16) →
    lineWord (ws.foldl (fun a e => setLineWord a e.1 e.2) v) k = ((ws.reverse.find? fun e => e.1 == k).map (·.2)).getD (lineWord v k)
  | [], _, _, _ => rfl
  | e :: ws, v, k, h => by
    rw [List.foldl_cons, lineWord_setAll ws _ k fun x hx => h x (List.mem_cons_of_mem _ hx), List.reverse_cons, List.find?_append]
    cases ws.reverse.find? fun e => e.1 == k with
    | some x => rfl
    | none =>
      rw [lineWord_setLineWord _ _ _ _ (h e List.mem_cons_self)]
      by_cases hk : k = e.1
      · simp [hk]
      · simp [hk, Ne.symm hk]

theorem Core.noteLine_eq (c : Core) (step l : Nat) : ∃ u, c.noteLine step l = { c with undo := u } := by
  unfold Core.noteLine
  split
  · exact ⟨_, rfl⟩
  · exact ⟨_, rfl⟩

theorem Core.noteSlot_eq (c : Core) (step l : Nat) : ∃ u, c.noteSlot step l = { c with undo := u } := by
  unfold Core.noteSlot
  split
  · exact ⟨_, rfl⟩
  · exact ⟨_, rfl⟩

/-- A write through the playa port: the words of one line, its half-lines' markers, and nothing else but the undo log and the check
digest. -/
theorem Core.writeWords_spec (c : Core) (step l : Nat) (ws : List (Nat × Word)) (poison : Bool) :
    (∀ k, (c.writeWords step l ws poison).line k =
      if k = l then ws.foldl (fun a e => setLineWord a e.1 e.2) (c.line l) else c.line k) ∧
    (∀ k h, h < 2 → (c.writeWords step l ws poison).linePoison k h =
      if k = l ∧ (ws.any fun e => e.1 / 8 == h) = true then poison else c.linePoison k h) ∧
    Safety.sameButPlaya c (c.writeWords step l ws poison) := by
  obtain ⟨u, hu⟩ := c.noteLine_eq step l
  refine ⟨fun k => ?_, fun k h hh => ?_, ?_⟩
  · unfold Core.writeWords
    rw [hu]
    exact Core.line_write { c with undo := u } l k _
  · unfold Core.writeWords
    rw [hu]
    simp only [Core.linePoison, Core.check]
    have hh : h = 0 ∨ h = 1 := by omega
    have e0 : 2 * k + 0 = 2 * l + 0 ↔ k = l := by omega
    have e1 : 2 * k + 1 = 2 * l + 1 ↔ k = l := by omega
    have n0 : ¬ 2 * k + 0 = 2 * l + 1 := by omega
    have n1 : ¬ 2 * k + 1 = 2 * l + 0 := by omega
    rcases hh with rfl | rfl
    · cases (ws.any fun e => e.1 / 8 == 0) <;> cases (ws.any fun e => e.1 / 8 == 1) <;>
        simp only [Bool.false_eq_true, if_false, if_true, mget_mset, e0, n0, and_false, and_true]
    · cases (ws.any fun e => e.1 / 8 == 0) <;> cases (ws.any fun e => e.1 / 8 == 1) <;>
        simp only [Bool.false_eq_true, if_false, if_true, mget_mset, e1, n1, and_false, and_true]
  · unfold Core.writeWords
    rw [hu]
    rfl

end Sys2Proof.Machine
end

