-- ==== Sys2Proof/WellFormed.lean ====
section
/-! DEFINITION. Well-formed commands: the lengths, ranges and encodings that the packets and steps of the spec fix for their operands and
that the types of `Instr` leave open. The machine answers an ill-formed command all the same. -/

namespace Sys2Proof

/-- Frames of a stack (R255): 0 to 183,104. -/
def frameOk (f : Nat) : Bool := decide (f < 183105)

/-- Unit addresses are 12 bits (R383). -/
def addressOk (a : Nat) : Bool := decide (a < 4096)

def lengthIs (n : Nat) (b : Bytes) : Bool := b.length == n

/-- The symbol errors of a codeword stand at different places, and each changes its symbol (R257). -/
def symbolsOk (l : List SymbolError) : Bool :=
  (l.map (·.place)).eraseDups.length == l.length && l.all fun e => e.value != 0

def SectorRaw.wf (r : SectorRaw) : Bool := symbolsOk r.first && symbolsOk r.again

/-- The fields of R407, each in its width. -/
def SubmitBody.wf (b : SubmitBody) : Bool :=
  lengthIs 32 b.program && lengthIs 32 b.model && lengthIs 32 b.input && lengthIs 32 b.context && b.params.length == 8 &&
    [b.priority, b.timing, b.clock, b.tiling, b.beta, b.ensemble, b.energyFormat, b.topkSource, b.topkK, b.checkFraction, b.digestLevel,
      b.stateFormat].all (fun x => decide (x < 256)) &&
    [b.replicas, b.interval, b.digestEvery].all (fun x => decide (x < 65536)) && decide (b.digestFirst < 2 ^ 64)

/-- KIND, LAYOUT and SIZE in their widths, a digest of 32 bytes (R404). -/
def LoadBody.wf (b : LoadBody) : Bool :=
  decide (b.kind < 256) && decide (b.layout < 256) && decide (b.size < 2 ^ 64) && lengthIs 32 b.digest

/-- The payload of phase 1 (R486): the 512-byte field stands for ROLE 3 and ROLE 4 alone. -/
def Phase1.wf (p : Phase1) : Bool :=
  addressOk p.src && decide (p.role < 256) && lengthIs 32 p.keyFpr && lengthIs 32 p.hostNonce && lengthIs 32 p.consent &&
    lengthIs (if p.role = 3 ∨ p.role = 4 then 512 else 0) p.extra

def Phase2.wf (p : Phase2) : Bool :=
  addressOk p.src && lengthIs 32 p.deviceNonce && lengthIs 384 p.wrapped && lengthIs 384 p.deviceSig &&
    (p.responderKey.isEmpty || lengthIs 388 p.responderKey)

def Phase3.wf (p : Phase3) : Bool := lengthIs 384 p.hostSig && lengthIs 32 p.claimProof

def Phase4.wf (p : Phase4) : Bool := addressOk p.src && lengthIs 32 p.confirm

/-- ENUMERATE (R385): WINDOW_US of 16 bits, at most 512 excluded addresses. -/
def EnumerateBody.wf (b : EnumerateBody) : Bool :=
  addressOk b.src && decide (b.windowUs < 65536) && decide (b.exclude.length ≤ 512) && lengthIs 16 b.nonce

/-- ASSIGN (R385): a fingerprint and a signature, or neither. -/
def AssignBody.wf (b : AssignBody) : Bool :=
  addressOk b.src && decide (b.address < 65536) && lengthIs 16 b.nonce &&
    ((b.signer.isEmpty && b.signature.isEmpty) || (lengthIs 32 b.signer && lengthIs 384 b.signature))

/-- A bare acknowledgement carries no payload or a bitmap of 512 bytes (R391). -/
def AckBody.wf (b : AckBody) : Bool := b.bitmap.isEmpty || lengthIs 512 b.bitmap

/-- JOIN (R421). -/
def JoinBody.wf (b : JoinBody) : Bool :=
  decide (b.member < 256) && decide (b.startSec < 2 ^ 48) && decide (b.startNs < 1000000000) && lengthIs 32 b.record

/-- HALO (R427): whole beats of 64 bytes. -/
def HaloBody.wf (b : HaloBody) : Bool := b.beats.all (lengthIs 64)

/-- The commands as the spec's packets and steps can carry them. -/
def Instr.wf : Instr → Bool
  | .sectorRead a raw _ => frameOk a.frame && raw.wf
  | .correctedWriteback a => frameOk a.frame
  | .stripeMove _ f => frameOk f
  | .frameCleared _ f => frameOk f
  | .scrubRead _ raw => raw.wf
  | .sessionOpenPhase1 p => p.wf
  | .sessionOpenPhase2 p => p.wf
  | .sessionOpenPhase3 p => p.wf
  | .sessionOpenPhase4 p => p.wf
  | .ack b => b.wf
  | .enumerate b => b.wf
  | .probe src a n => addressOk src && decide (a < 65536) && lengthIs 16 n
  | .assign b => b.wf
  | .reply a => decide (a < 65536)
  | .load _ b => b.wf
  | .release _ d => lengthIs 32 d
  | .submit _ b => b.wf
  | .fetch _ (.object d) _ _ => lengthIs 32 d
  | .bulk _ _ _ d => decide (d.length ≤ 8176)
  | .regBatch _ _ l => decide (l.length ≤ 681)
  | .quote _ n => lengthIs 32 n
  | .quoteConfigRecord _ n => lengthIs 32 n
  | .join b => b.wf
  | .halo b => b.wf
  | .nop _ _ _ | .fldOpen _ | .fldAcc _ | .fldClose _ | .fldEnrg _ | .redPart _ | .redPadd _ | .redAtom _ | .redEtot _ | .drwBin _
  | .drwCat _ | .drwCatm _ _ | .drwGau _ | .excPair _ | .excBeta _ _ _ | .excWgt _ _ | .excRsmp _ | .staSgl _ | .staPair _ | .staHist _
  | .staFlush _ | .tpkOffer _ _ | .tpkScan _ _ _ | .movMask _ | .movAg _ | .movDesc _ | .movGrp _ _ _ _ | .movZero _ | .ldLine _
  | .ldSlot _ | .ldAnch _ _ | .stLine _ | .stRes _ | .stSnap _ | .synHout _ | .synHin _ | .synEpoch _ | .movSend _ | .movFwd _ | .cvRecv _
  | .cvFwd _ | .cvOut _ | .stepMark _ | .phaseMark _ | .barrierWord _ _ | .barrierRelease _ | .endWord _ | .loopOpen _ _ _
  | .loopEndTest _ | .caravanTrigger _ _ | .caravanBeatIssue _ _ _ | .caravanBeatArrival _ _ | .holdRequest _ _ _ _ | .holdEnd _
  | .atomicOperation _ | .orderedPart _ | .heldPartEntry _ | .stepCommit _ | .checkResolve _ _ _ _ | .oasisCopyDone _ _
  | .clusterDegraded _ | .observationEnd _ | .kakComplete _ _ _ | .kakTimeout _ | .copyDigestCompare _ | .hangReset _ | .refreshWindow _ _
  | .fixedCadenceRefresh _ _ | .dieSpareDone _ | .stackFailed _ | .stackHot _ | .stackCool _ | .stackSelfRefresh _ | .stackWake _
  | .stackImbalance _ | .imbalanceRepeat _ | .admitJob | .waitLimit _ | .seedingDone _ | .preemptionPoint _ | .contextWritten _
  | .cancelTimeout _ | .settingChange _ | .pllLock _ | .halfClockStop _ | .unitReady _ | .readyTimeout _ | .frameReceive _
  | .neighbourSolicitation _ _ | .echoRequest _ _ _ | .expressFrameReady _ _ | .laneFailed _ | .linkUp | .linkDown | .fallbackRetry
  | .preemptVerify _ | .laserSwitch _ | .macSwitch _ | .ptpSync _ | .ptpDelayResp _ _ | .ptpUnlocked | .retransmitTimeout _ _
  | .sessionTimeout _ | .idleTimeout _ | .halfOpenTimeout _ | .sessionClose _ | .rollCallBackoff | .probeTimeout | .cancel _ _
  | .suspend _ _ _ | .resume _ _ | .exportJob _ _ | .releaseResult _ _ | .reset _ _ | .symmetryCheckDone _ | .portReset | .dieReset _
  | .hubWarmReset | .moduleWarmReset | .hubStart | .ready _ | .groupStart _ | .groupStartTimeout _ | .commit _ | .hold _ | .leave _
  | .refused _ | .retract _ | .groupTimeout _ | .peerSessionRetry _ _ | .claimBackoffExpiry | .consentExpiry _ | .keyOpEnrol _
  | .keyOpRemove _ | .keyOpMakerCert _ | .firmwareHandover | .controllerFailed _ | .flashWriteRetry _ | .firmwareMissingBeacon
  | .scanArm _ | .scanRelease | .scanTimeout | .entropyBlock _ | .entropyReady | .rngData _ | .rawData _ _ | .rawMode _ _ | .alarmClear _
  | .drbgMode _ _ | .feedPresent _ _ | .feedLost _ _ | .journalClosed | .phaseGroupFailed _ _ | .currentLimit _ _ | .droopStretch _ _
  | .droopRelease _ | .thermalThrottle _ _ | .throttleStep _ | .thermalTrip _ _ | .thermalRelease _ _ | .bistSlice _ _
  | .sensorCheck _ _ _ | .pllLockLoss _ | .pllJitterFail _ | .registerWrite _ _ _ | .highWordRead _ _ | .jobSel _ _ | .auditSelLo _ _
  | .evtSel _ _ | .evtForce _ _ _ | .wake _ _ | .retry _ _ | .dr8Retry _ | .cfgOpWriteRecord _ | .cfgOpUnclaim _ | .cfgWriteDone _
  | .restoreDone _ | .flashRewriteDone _ | .vaonLost | .fetch _ (.job _) _ _ => true

end Sys2Proof
end

