-- ==== Sys2Proof/Tests/Slice0.lean ====
section
/-! SUPPORT. The author's own tests: an ill-formed command for each check of WellFormed; for each statement of the obligations a witness, small
states and operands that meet all its hypotheses together; and single steps whose outcome the spec gives. -/

set_option Elab.async false

namespace Sys2Proof.Tests

open Sys2Proof Sys2Proof.Machine Sys2Proof.Safety

/-! ### Small states -/

/-- A digest or fingerprint. -/
def key (n : Nat) : Bytes := List.replicate 32 (BitVec.ofNat 8 n)

/-- A submission of program 2 on model 3 with 2 replicas. -/
def body : SubmitBody :=
  { program := key 2, model := key 3, input := key 4, context := zeros32, seed := 7, priority := 1, timing := 0, clock := 9, tiling := 0,
    replicas := 2, beta := 1, ensemble := 2, interval := 0, flags := 0, params := List.replicate 8 0, energyFormat := 0, topkSource := 0,
    topkK := 1, topkFlags := 0, checkFraction := 0, digestLevel := 0, digestEvery := 0, digestFirst := 0, stateFormat := 0, resultFlags := 0 }

/-- A program of one tiling at byte 128, of one half and one word, with that word's control slice, one target, one segment and one allocation
(R243 to R247). -/
def programOf (control : Nat) : Bytes :=
  List.replicate 28 0 ++ [1] ++ List.replicate 67 0 ++ leBytes 8 128 ++ List.replicate 24 0 ++
    (leBytes 2 1 ++ leBytes 2 0x41 ++ leBytes 2 0 ++ leBytes 2 1 ++ leBytes 2 1 ++ leBytes 2 1 ++ leBytes 2 1 ++ leBytes 2 0 ++ [0xFF, 0xFF, 0xFF, 0] ++
      List.replicate 108 0) ++
    (leBytes 8 4096 ++ List.replicate 56 0) ++ List.replicate 64 0 ++ (List.replicate 16 0 ++ leBytes 4 2 ++ List.replicate 44 0) ++
    (leBytes 16 control ++ List.replicate 512 0)

/-- Its word opens the step loop on itself, with a STEP mark and BARRIER 3. -/
def program : Bytes := programOf (2 ^ 127 + 3 * 2 ^ 124 + 2 ^ 122 + 2 ^ 109)

def job : Job := { id := 5, seq := 1, owner := key 1, req := 1, sess := 1, body := body, state := .running, region := [0], setting := 9 }

def operator : Session := { id := 1, role := .operator, fpr := key 1, peerAddr := 2, opened := true, order := 1 }

/-- A module whose hub runs, with one job in entry 0 on half 0 and one valid core in cluster 0 of die 0. -/
def withJob (j : Job) (c : Core := {}) : State :=
  { State.reset with
    jobs := { table := [(0, some j)], nextId := 6, nextSeq := 2 },
    clusters := [(0, { coreMap := [some 0], cores := [(0, c)] })],
    halves := [(0, { clocked := true, ready := true, locked := true, setting := 9 })],
    objects := { held := [{ kind := 1, digest := key 2, bytes := program, protectedLayout := true, owner := key 1 }] },
    transport := { sessions := [operator], nextSession := 2, opened := 1 },
    config := { State.reset.config with hubReady := true, hubStarted := true } }

def cl0 : ClusterRef := { die := 0, num := 0 }

/-- Where cluster 0 of die 0 acts for a job of half 0. -/
def siteOf (s : State) : Site := (s.site? cl0).getD
  { slot := 0, p := [], m := [], input := [], t := progTiling [] 0, half := 0, cl := 0, ags := [], coreMap := [], step := 0, phaseBit := false,
    epass := false, replicas := 0, cycle := 0, checkCode := 0, observed := [] }

theorem actsOf {s : State} {j : Job} {n : Nat} (hh : s.halfJob? 0 = some (n, j)) (hi : j.issuing = true) (hj : s.job? n = some j) :
    Acts s cl0 (siteOf s) j := by
  have hh' : s.halfJob? cl0.half = some (n, j) := hh
  have h : (s.site? cl0).isSome = true := by simp only [State.site?, hh', hi, if_true, Option.isSome_some]
  obtain ⟨x, hx⟩ := Option.isSome_iff_exists.1 h
  refine ⟨by simp only [siteOf, hx, Option.getD_some], ?_⟩
  have : (siteOf s).slot = n := by simp only [siteOf, State.site?, hh', hi, if_true, Option.getD_some]
  rw [this]
  exact hj

/-- A cluster whose map has one valid position. -/
theorem physOf {s : State} {j : Job} {n : Nat} (hh : s.halfJob? 0 = some (n, j)) (hi : j.issuing = true)
    (hm : (s.cluster 0).coreMap = [some 0]) {pos m : Nat} (h : (siteOf s).phys pos = some m) : pos = 0 ∧ m = 0 := by
  have hh' : s.halfJob? cl0.half = some (n, j) := hh
  have hx : (siteOf s).coreMap = [some 0] := by simp only [siteOf, State.site?, hh', hi, if_true, Option.getD_some]; exact hm
  simp only [Site.phys, hx] at h
  match pos, h with
  | 0, h => simp at h; exact ⟨rfl, h.symm⟩
  | k + 1, h => simp at h

/-- The same machine where the word under issue has control slice `w` (R216). -/
def atWord (w : Nat) (s : State) : State :=
  { s with halves := [(0, { clocked := true, ready := true, locked := true, setting := 9, controlMem := [(0, BitVec.ofNat 128 w)] })] }

def s0 : State := withJob job
def x0 : Site := siteOf s0

theorem acts0 : Acts s0 cl0 x0 job := actsOf (n := 0) rfl rfl rfl

theorem serves0 : Serves x0 0 0 := ⟨by decide, rfl, fun _ _ h => (physOf (s := s0) (n := 0) rfl rfl rfl h).1⟩

theorem maps0 : MapsOk s0 := by
  intro e he
  simp only [s0, withJob, List.mem_singleton] at he
  subst he
  have hm : ∀ (a n : Nat), [some 0][a]? = some (some n) → a = 0 ∧ n = 0 := by
    intro a n h
    match a, h with
    | 0, h => simp at h; exact ⟨rfl, h.symm⟩
    | k + 1, h => simp at h
  refine ⟨fun a b n ha hb => ?_, fun _ a ha => ?_, fun _ a ha => ?_, fun c hc => by cases hc⟩
  · rw [(hm a n ha).1, (hm b n hb).1]
  · exact absurd (hm a _ ha).2 (by decide)
  · exact absurd (hm a _ ha).2 (by decide)

theorem core0 (n : Nat) : clusterCore s0 cl0 n = {} := by
  show mget {} [(0, ({} : Core))] n = {}
  by_cases h : n = 0
  · subst h; rfl
  · simp [mget, Ne.symm h]

theorem clean0 (o : DrawOps) (h : o.cl = cl0) : cleanDecisions s0 o x0 := by
  intro pos _ n _ l _
  rw [h, core0]
  rfl

theorem current0 (o : DrawOps) (h : o.cl = cl0) (kind : Nat) : cleanCurrents s0 o x0 kind := by
  intro pos _ n _ l _
  rw [h, core0]
  simp only [Site.current, Core.laneState]
  split <;> rfl

/-! ### Witnesses: the fabric -/

theorem wit_StepRunsFront : ∃ (s : State) (c : Instr) (rest : List Instr), s.pending = c :: rest :=
  ⟨{ State.reset with pending := [.linkDown, .ptpUnlocked] }, .linkDown, [.ptpUnlocked], rfl⟩

theorem wit_IdleCycle : ∃ s : State, s.pending = [] ∧ s.power.vaonOn = true := ⟨{ State.reset with power := { vaonOn := true } }, rfl, rfl⟩

theorem wit_RegisterMoves : ∃ (s : State) (cl : ClusterRef) (x : Site) (j : Job) (pos n : Nat), Acts s cl x j ∧ Serves x pos n :=
  ⟨s0, cl0, x0, job, 0, 0, acts0, serves0⟩

theorem wit_LoadsAndStores : ∃ (s : State) (o : StLineOps) (x : Site) (j : Job), Acts s o.cl x j ∧
    (∀ pos < 64, ∀ n, x.phys pos = some n → ∀ h < 2, (clusterCore s o.cl n).linePoison (x.line o.ag.val pos) h = false ∧
      (clusterCore s o.cl n).linePoison ((x.line o.ag.val pos + 1) % 2048) h = false) :=
  ⟨s0, { cl := cl0, ag := 0, tgt := 0, ago := 0, inc := true }, x0, job, acts0, fun _ _ n _ h _ => by rw [core0]; exact ⟨rfl, rfl⟩⟩

theorem wit_FieldGroups : ∃ (s : State) (cl : ClusterRef) (x : Site) (j : Job), Acts s cl x j ∧ s.site? cl = some x :=
  ⟨s0, cl0, x0, job, acts0, acts0.1⟩

theorem wit_FieldAccumulate : ∃ (s : State) (o : FldAccOps) (x : Site) (j : Job), Acts s o.cl x j ∧ o.parity = none ∧ o.first = true ∧ o.last = true :=
  ⟨s0, { cl := cl0, lm := 0, src := .playa, agc := 0, half := false, ags := 1, aux := false, form := .scalar, g := 31, inc := true, first := true,
         last := true, dd := 0, parity := none }, x0, job, acts0, rfl, rfl, rfl⟩

theorem wit_EnergyAndReductions : ∃ (s : State) (cl : ClusterRef) (x : Site) (j : Job) (p q : RedEtotOps), Acts s cl x j ∧ p.cl = cl ∧ q.cl = cl ∧
    p.mode = .row ∧ q.mode = .push ∧
    (∀ pos < 64, ∀ n, x.phys pos = some n → ∀ l, ((clusterCore s cl n).lane l).energy.poison = false) ∧
    (∀ pos < 64, ∀ n, x.phys pos = some n → ∀ l, ((clusterCore s cl n).lane l).auxiliary.poison = false) :=
  ⟨s0, cl0, x0, job, { cl := cl0, lm := 0, mode := .row, dd := 0 }, { cl := cl0, lm := 0, mode := .push, dd := 0 }, acts0, rfl, rfl, rfl, rfl,
    fun _ _ n _ l => by rw [core0]; rfl, fun _ _ n _ l => by rw [core0]; rfl⟩

theorem wit_Draws : ∃ (s : State) (o : DrawOps) (x : Site) (j : Job), Acts s o.cl x j ∧ MapsOk s ∧ cleanDecisions s o x ∧
    ∀ kind, cleanCurrents s o x kind :=
  ⟨s0, { cl := cl0, lm := 0, dd := 3, agw := 7, launch := true, sel := 3, ags := 7, inc := true }, x0, job, acts0, maps0, clean0 _ rfl,
    current0 _ rfl⟩

theorem wit_DrawCategoricalMetropolis : ∃ (s : State) (o : DrawOps) (x : Site) (j : Job), Acts s o.cl x j ∧ MapsOk s ∧
    cleanDecisions s o x ∧ o.lm = 3 :=
  ⟨s0, { cl := cl0, lm := 3, dd := 0, agw := 0, launch := false, sel := 0, ags := 0, inc := false }, x0, job, acts0, maps0, clean0 _ rfl, rfl⟩

/-- A model whose β rises from 1 to 2 after step 0 (R95): the β array is its directory entry 8. -/
def annealing : Bytes :=
  List.replicate 44 0 ++ leBytes 4 2 ++ List.replicate 144 0 ++ leBytes 8 256 ++ List.replicate 56 0 ++ leBytes 4 0x3F800000 ++
    leBytes 4 0x40000000

def annealed : State :=
  { s0 with objects := { s0.objects with held := s0.objects.held ++
      [{ kind := 0, digest := key 3, bytes := annealing, protectedLayout := true, owner := key 1 }] } }

theorem actsA : Acts annealed cl0 (siteOf annealed) job := actsOf (n := 0) rfl rfl rfl

theorem servesA : Serves (siteOf annealed) 0 0 := ⟨by decide, rfl, fun _ _ h => (physOf (s := annealed) (n := 0) rfl rfl rfl h).1⟩

theorem wit_Exchange : ∃ (s : State) (o : ExcOps) (x : Site) (j : Job) (pos n : Nat), Acts s o.cl x j ∧ Serves x pos n ∧ x.isLedger pos = true ∧
    j.resamples? x.m = true ∧ o.ch.val = 0 :=
  ⟨annealed, { cl := cl0, lm := 0, ch := 0, agt := 0 }, siteOf annealed, job, 0, 0, actsA, servesA, by decide +kernel, by decide +kernel,
    rfl⟩

theorem clean_states (dd lm : Fin 4) (ags : Fin 8) (word : Fin 16) : cleanStates s0 cl0 x0 dd lm ags word := by
  intro pos _ n _
  rw [core0]
  intro _ l _
  simp only [Core.laneState]
  split <;> rfl

theorem wit_StatisticsAndTopk : ∃ (s : State) (o : StaOps) (q : StaPairOps) (x : Site) (j : Job), Acts s o.cl x j ∧ q.base = o ∧
    cleanStates s o.cl x o.dd o.lm o.ags o.word ∧ cleanStates s o.cl x o.dd o.lm q.ags2 q.word2 ∧
    (∀ pos < 64, ∀ n, x.phys pos = some n → ∀ l, ((clusterCore s o.cl n).lane l).statistic.poison = false) :=
  let o : StaOps := { cl := cl0, lm := 0, dd := 0, ags := 0, word := 15 }
  ⟨s0, o, { base := o, ags2 := 7, word2 := 0, ago := 0 }, x0, job, acts0, rfl, @clean_states _ _ _ _, @clean_states _ _ _ _, fun _ _ n _ l => by rw [core0]; rfl⟩

/-! ### Witnesses: groups -/

/-- A group record of two members and the first `n` of two halo channels of one beat, member 0 to member 1 and back (R416, R417): header,
members, channels. Member 0 has address 2 and key fingerprint `fpr`. -/
def record (n : Nat) (fpr : Bytes) : Bytes :=
  ascii "LYRGROUP" ++ leBytes 4 1 ++ leBytes 2 2 ++ leBytes 2 n ++ leBytes 8 7 ++ leBytes 4 0 ++ leBytes 4 5 ++ List.replicate 32 0 ++
    (leBytes 32 2 ++ fpr) ++ (leBytes 32 3 ++ key 9) ++
    (([0, 1, 1, 1, 0, 0, 0, 0] ++ leBytes 4 1 ++ leBytes 4 0) ++ ([1, 1, 0, 1, 0, 0, 0, 0] ++ leBytes 4 1 ++ leBytes 4 0)).take (16 * n)

def beat0 : HaloBeat := { channel := 1, epoch := 0, beat := 0, attempt := 0, data := List.replicate 64 0 }

/-- Member 0's part in it, with one neighbour, whose first halo has arrived. -/
def member0 : GroupState :=
  { record := record 2 (key 1), groupId := 7, member := 0, async := false, timeoutMs := 5, startSec := 0, startNs := 0,
    neighbours := [{ member := 1, sess := 3, sessOpen := true }], rx := [beat0] }

def grouped : Job := { job with group := some member0 }

def peer : Session := { id := 3, role := .peer, fpr := key 9, peerAddr := 3, opened := true, order := 2 }

/-- The small machine with that job, in some state of its own, and the neighbour's session. -/
def withGroup (j : Job) : State := { withJob j with transport := { sessions := [operator, peer], nextSession := 4, opened := 2 } }

def sG : State := withGroup grouped
def xG : Site := siteOf sG

theorem actsG : Acts sG cl0 xG grouped := actsOf (n := 0) rfl rfl rfl

theorem wit_HaloSend : ∃ (s : State) (o : HaloOps) (x : Site) (j : Job) (g : GroupState) (c : Nat × Channel) (pos n : Nat), Acts s o.cl x j ∧
    j.group = some g ∧ ((grpChannelList g.record).find? fun e => e.2.src == g.member && e.2.srcPeer == o.peer.val) = some c ∧
    x.spineCore? = some (pos, n) ∧ (∀ h < 2, (clusterCore s o.cl n).linePoison (x.line o.ag.val pos) h = false) ∧ g.maySend c.2 j.epoch = true :=
  ⟨sG, { cl := cl0, ag := 0, peer := 1 }, xG, grouped, member0, (0, grpChannel (record 2 (key 1)) 0), 0, 0, actsG, rfl, by decide +kernel,
    by decide +kernel, by decide +kernel, by decide +kernel⟩

/-- In epoch 2, with no COMMIT of epoch 1, the same halo waits. -/
theorem wit_HaloSend_waits : ∃ (s : State) (o : HaloOps) (x : Site) (j : Job) (g : GroupState) (c : Nat × Channel) (pos n : Nat), Acts s o.cl x j ∧
    j.group = some g ∧ ((grpChannelList g.record).find? fun e => e.2.src == g.member && e.2.srcPeer == o.peer.val) = some c ∧
    x.spineCore? = some (pos, n) ∧ (∀ h < 2, (clusterCore s o.cl n).linePoison (x.line o.ag.val pos) h = false) ∧ g.maySend c.2 j.epoch = false :=
  let j : Job := { grouped with epoch := 2 }
  ⟨withGroup j, { cl := cl0, ag := 0, peer := 1 }, siteOf (withGroup j), j, member0, (0, grpChannel (record 2 (key 1)) 0), 0, 0,
    actsOf (n := 0) rfl rfl rfl, rfl, by decide +kernel, by decide +kernel, by decide +kernel, by decide +kernel⟩

theorem wit_HaloBeats : ∃ (s : State) (o : HaloOps) (x : Site) (j : Job) (g : GroupState) (c : Nat × Channel) (b : HaloBeat) (q : HaloBody)
    (slot : Nat), Acts s o.cl x j ∧ j.group = some g ∧ (g.inbound.find? fun e => e.2.kind == 0 && e.2.dstPeer == o.peer.val) = some c ∧
    ((g.beatsOf c.1 (g.readEpoch c j.epoch)).find? fun b => b.beat == mget 0 g.nextIn c.1) = some b ∧
    s.groupJob? q.group = some (slot, j) ∧ s.job? slot = some j ∧ j.state ≠ .ended ∧ g.async = false ∧ q.channel < grpChannels g.record ∧
    (grpChannel g.record q.channel).dst = g.member ∧ s.speaksFor q.sess g (grpChannel g.record q.channel).src = true ∧
    1 ≤ q.beats.length ∧ q.beats.length ≤ 127 :=
  ⟨sG, { cl := cl0, ag := 7, peer := 1 }, xG, grouped, member0, (1, grpChannel (record 2 (key 1)) 1), beat0,
    { sess := 3, group := 7, epoch := 1, channel := 1, attempt := 0, firstBeat := 0, beats := [List.replicate 64 1] }, 0, actsG, rfl,
    by decide +kernel, by decide +kernel, rfl, rfl, by decide, rfl, by decide +kernel, by decide +kernel, by decide +kernel, by decide, by decide⟩

/-- A neighbour whose session is not open yet is called by the S6. -/
theorem wit_HaloBeats_opens : ∃ (s : State) (slot : Fin 4096) (m : Nat) (j : Job) (g : GroupState) (n : Neighbour), s.job? slot.val = some j ∧
    j.state ≠ .ended ∧ j.group = some g ∧ g.neighbour? m = some n ∧ n.sessOpen = false ∧
    (∀ x ∈ s.transport.sessions, ¬(x.opener = true ∧ x.fpr = grpMemberFpr g.record m)) ∧ s.security.identityOk = true ∧ s.drbgGives = true ∧
    s.transport.sessions.length < 256 :=
  let g : GroupState := { member0 with neighbours := [{ member := 1 }] }
  let j : Job := { job with group := some g }
  ⟨{ withJob j with security := { identityOk := true }, entropy := { ready := true, instantiated := true } }, 0, 1, j, g, { member := 1 }, rfl,
    by decide, rfl, rfl, rfl, by decide +kernel, rfl, rfl, by decide⟩

theorem wit_NeighbourPackets : ∃ (s : State) (b : BarrierBody) (q : RetractBody) (slot : Nat) (j : Job) (g : GroupState), JobsOk s ∧
    s.groupJob? b.group = some (slot, j) ∧ q.group = b.group ∧ s.job? slot = some j ∧ slot < 4096 ∧ j.group = some g ∧ j.state ≠ .ended ∧
    s.speaksFor b.sess g b.member = true ∧ s.speaksFor q.sess g q.member = true :=
  ⟨sG, { sess := 3, group := 7, member := 1, attempt := 0, status := 0, epoch := 0 }, { sess := 3, group := 7, member := 1, attempt := 1, epoch := 0 },
    0, grouped, member0, rfl, rfl, rfl, rfl, by decide, rfl, by decide, by decide +kernel, by decide +kernel⟩

/-- The three refusals of a JOIN: no such job; another owner's job; a record that is not held. -/
theorem wit_GroupJoinAndClocks_refused :
    (∃ (s : State) (b : JoinBody) (x : Session), s.openSession? b.sess = some x ∧ x.role ≠ .peer ∧ s.jobById? b.job = none) ∧
    (∃ (s : State) (b : JoinBody) (x : Session) (slot : Nat) (j : Job), s.openSession? b.sess = some x ∧ x.role ≠ .peer ∧
      s.jobById? b.job = some (slot, j) ∧ j.owner ≠ x.fpr) ∧
    (∃ (s : State) (b : JoinBody) (x : Session) (slot : Nat) (j : Job), s.openSession? b.sess = some x ∧ s.session? b.sess = some x ∧
      x.role ≠ .peer ∧ s.jobById? b.job = some (slot, j) ∧ j.owner = x.fpr ∧ x.role ≠ .maker ∧ j.state ≠ .ended ∧ j.group = none ∧
      s.joinStatus j b ≠ 0) :=
  let b (n : Nat) : JoinBody := { sess := 1, group := 7, member := 0, job := n, startSec := 0, startNs := 0, record := key 6 }
  let j : Job := { job with owner := key 8 }
  ⟨⟨s0, b 6, operator, rfl, by decide, rfl⟩, ⟨withJob j, b 5, operator, 0, j, rfl, by decide, rfl, by decide⟩,
    ⟨s0, b 5, operator, 0, job, rfl, rfl, by decide, rfl, rfl, by decide, by decide, rfl, by decide +kernel⟩⟩

/-- A machine that may join: a program whose one word carries BARRIER 2 and END, a record whose one channel leads away, in which it is member 0. -/
def joining : State :=
  { s0 with
    journal := { s0.journal with settings := { s0.journal.settings with unitAddr := 2 } },
    security := { identityOk := true },
    objects := { held := [{ kind := 1, digest := key 2, bytes := programOf (2 ^ 125 + 2 ^ 123), protectedLayout := true, owner := key 1 },
      { kind := 2, digest := key 6, bytes := record 1 State.reset.ownFpr, protectedLayout := true, owner := key 1 }] } }

theorem wit_GroupJoinAndClocks_joins : ∃ (s : State) (b : JoinBody) (x : Session) (slot : Nat) (j : Job), s.openSession? b.sess = some x ∧
    x.role ≠ .peer ∧ x.role ≠ .maker ∧ s.jobById? b.job = some (slot, j) ∧ j.owner = x.fpr ∧ j.state ≠ .ended ∧ j.group = none ∧
    s.joinStatus j b = 0 ∧ j.contextPages = [] ∧
    (s.takeSalted (.job j.id) true ({ j with group := some (joinGroup (s.objectBytes b.record) b) }.groupPages) 0).isSome = true :=
  ⟨joining, { sess := 1, group := 7, member := 0, job := 5, startSec := 0, startNs := 0, record := key 6 }, operator, 0, job, rfl, by decide,
    by decide, rfl, rfl, by decide, rfl, by decide +kernel, rfl, by decide +kernel⟩

/-- A group start whose time has come, armed and not armed; a barrier that waits for a neighbour. -/
theorem wit_GroupJoinAndClocks_clocks :
    (∃ (s : State) (slot : Fin 4096) (j : Job) (g : GroupState), s.job? slot.val = some j ∧ j.group = some g ∧ j.state = .admitting ∧
      g.armed = true ∧ j.seeded = true ∧ s.regionReady j = true ∧ g.startNanos ≤ s.clocks.ptpNs) ∧
    (∃ (s : State) (slot : Fin 4096) (j : Job) (g : GroupState), JobsOk s ∧ s.job? slot.val = some j ∧ j.state = .admitting ∧ j.group = some g ∧
      g.armed = false ∧ g.startNanos ≤ s.clocks.ptpNs) ∧
    (∃ (s : State) (slot : Fin 4096) (j : Job), JobsOk s ∧ s.job? slot.val = some j ∧ j.state = .admitting ∧ j.group = none ∧ j.seeded = true ∧
      s.isGroupJob j = true) ∧
    ∃ (s : State) (slot : Fin 4096) (j : Job) (g : GroupState) (kind : BarrierKind), JobsOk s ∧ s.job? slot.val = some j ∧ j.state ≠ .ended ∧
      j.group = some g ∧ j.waiting = .barrier kind ∧ kind ≠ .preempt ∧ g.timeoutMs ≠ 0 ∧ (∀ n ∈ g.missing kind j.epoch, n.holding = false) :=
  let g1 : GroupState := { member0 with armed := true }
  let j1 : Job := { job with state := .admitting, seeded := true, group := some g1 }
  let j2 : Job := { job with state := .admitting, group := some member0 }
  let j3 : Job := { job with state := .admitting, seeded := true }
  let j4 : Job := { grouped with waiting := .barrier .epoch, epoch := 3 }
  ⟨⟨withGroup j1, 0, j1, g1, rfl, rfl, rfl, rfl, rfl, by decide +kernel, by decide⟩,
    ⟨withGroup j2, 0, j2, member0, rfl, rfl, rfl, rfl, rfl, by decide⟩,
    ⟨{ joining with jobs := (withJob j3).jobs }, 0, j3, rfl, rfl, rfl, rfl, rfl, by decide +kernel⟩,
    ⟨withGroup j4, 0, j4, member0, .epoch, rfl, rfl, by decide, rfl, rfl, by decide, by decide, by decide +kernel⟩⟩

/-! ### Witnesses: router, caravans, sequencing -/

def nOut : OutMask := { n := true, e := false, s := false, w := false }

theorem wit_RouterMoves : ∃ (s : State) (o : FwdOps) (x : Site) (j : Job), Acts s o.cl x j ∧ o.parity = none :=
  ⟨s0, { cl := cl0, outN := nOut, outE := nOut, outS := nOut, outW := nOut, dlv := nOut, agd := 0, parity := none }, x0, job, acts0, rfl⟩

/-- A beat for stack memory. -/
def out0 : Outward := { op := .store, job := 5, step := 0, alloc := 0, offset := 0, data := 1 }

/-- A core with an outward beat in its launch register. -/
def sO : State := withJob job { outQ := [out0] }

theorem mapsOk_one (s : State) (c : Core) (h : s.clusters = [(0, { coreMap := [some 0], cores := [(0, c)] })]) : MapsOk s := by
  intro e he
  rw [h, List.mem_singleton] at he
  subst he
  have hm : ∀ (a n : Nat), [some 0][a]? = some (some n) → a = 0 ∧ n = 0 := by
    intro a n h
    match a, h with
    | 0, h => simp at h; exact ⟨rfl, h.symm⟩
    | k + 1, h => simp at h
  refine ⟨fun a b n ha hb => ?_, fun _ a ha => ?_, fun _ a ha => ?_, fun c hc => by cases hc⟩
  · rw [(hm a n ha).1, (hm b n hb).1]
  · exact absurd (hm a _ ha).2 (by decide)
  · exact absurd (hm a _ ha).2 (by decide)

theorem wit_Caravans : ∃ (s : State) (o : ChainOps) (x : Site) (j : Job) (dir : Dir) (pos n : Nat) (b : Outward), Acts s o.cl x j ∧ MapsOk s ∧
    Serves x pos n ∧ (outDirs o.out).head? = some dir ∧ (clusterCore s o.cl n).outHead j.cycle o.from_ = some b :=
  ⟨sO, { cl := cl0, from_ := none, out := nOut, dlv := false }, siteOf sO, job, .n, 0, 0, out0, actsOf (n := 0) rfl rfl rfl, mapsOk_one _ _ rfl,
    ⟨by decide, rfl, fun _ _ h => (physOf (s := sO) (n := 0) rfl rfl rfl h).1⟩, rfl, rfl⟩

/-- A segment that exists; one that is late; a beat that reaches its port. -/
theorem wit_Caravans_segments :
    (∃ (s : State) (slot seg : Fin 4096) (j : Job), s.job? slot.val = some j ∧ j.issuing = true ∧ seg.val < (s.tilingOf j).numSegments ∧
      s.triggers j seg.val = true) ∧
    (∃ (s : State) (slot seg : Fin 4096) (j : Job) (y : Segment) (a z : List Segment), s.job? slot.val = some j ∧ j.segments = a ++ y :: z ∧
      (∀ e ∈ a, e.seg ≠ seg.val) ∧ y.seg = seg.val ∧ j.state = .running) ∧
    ∃ (s : State) (slot : Fin 4096) (column : Fin 8) (j : Job) (b : CaravanBeat) (rest : List CaravanBeat) (h n : Nat), s.job? slot.val = some j ∧
      j.inFlight = b :: rest ∧ j.region[b.half]? = some h ∧
      (s.cluster (portCluster h b.port)).coreMap.getD (portPos b.port column.val) none = some n :=
  let y (n : Nat) : Segment := { seg := n, issued := 0, total := 4 }
  let j1 : Job := { job with segments := [y 1, y 0] }
  let b : CaravanBeat := { half := 0, port := 0, data := 5, bits := 512, poison := false }
  let j2 : Job := { job with inFlight := [b] }
  ⟨⟨atWord (2 ^ 84) s0, 0, 0, job, rfl, rfl, by decide +kernel, by decide +kernel⟩, ⟨withJob j1, 0, 0, j1, y 0, [y 1], [], rfl, rfl, by decide, rfl, rfl⟩,
    ⟨withJob j2, 0, 0, j2, b, [], 0, 0, rfl, rfl, rfl, by decide +kernel⟩⟩

/-- A word with a STEP mark, a PHASE mark and BARRIER 2. -/
theorem wit_MarksAndBarriers : ∃ (s : State) (slot : Fin 4096) (kind : BarrierKind) (j : Job), s.job? slot.val = some j ∧ j.issuing = true ∧
    ctlStep (s.controlAt j) = true ∧ ctlPhase (s.controlAt j) = true ∧ ctlBarrier (s.controlAt j) = barrierCode kind ∧
    (kind = .epoch → j.group = none) :=
  ⟨atWord (2 ^ 127 + 2 ^ 126 + 2 ^ 125) s0, 0, .epoch, job, rfl, rfl, by decide +kernel, by decide +kernel, by decide +kernel, fun _ => rfl⟩

theorem wit_MarksAndBarriers_none : ∃ (s : State) (slot : Fin 4096) (j : Job), s.job? slot.val = some j ∧ ctlStep (s.controlAt j) = false ∧
    ctlPhase (s.controlAt j) = false := ⟨s0, 0, job, rfl, rfl, rfl⟩

theorem wit_MarksAndBarriers_waits : ∃ (s : State) (slot : Fin 4096) (kind : BarrierKind) (j : Job), s.job? slot.val = some j ∧
    j.waiting = .barrier kind ∧ (kind = .epoch → j.group = none) :=
  let j : Job := { job with waiting := .barrier .commit }
  ⟨withJob j, 0, .commit, j, rfl, rfl, fun _ => rfl⟩

theorem wit_EpochBarrier : ∃ (s : State) (slot : Fin 4096) (j : Job) (g : GroupState), JobsOk s ∧ s.job? slot.val = some j ∧ j.group = some g ∧
    (g.async = false ∨ j.epoch = 0) ∧ j.issuing = true ∧ ctlBarrier (s.controlAt j) = 2 :=
  ⟨atWord (2 ^ 125) sG, 0, grouped, member0, rfl, rfl, rfl, .inl rfl, rfl, by decide +kernel⟩

/-- END; a word that opens the step loop on itself; a word behind which the program goes on. -/
theorem wit_ControlFlow :
    (∃ (s : State) (slot : Fin 4096) (j : Job), JobsOk s ∧ s.job? slot.val = some j ∧ j.issuing = true ∧ ctlEnd (s.controlAt j) = true) ∧
    (∃ (s : State) (slot last : Fin 4096) (count : LoopCount) (j : Job), s.job? slot.val = some j ∧ j.issuing = true ∧
      opensLoop (s.controlAt j) last.val count = true) ∧
    ∃ (s : State) (slot : Fin 4096) (j : Job), s.job? slot.val = some j ∧ j.issuing = true ∧ ctlEnd (s.controlAt j) = false :=
  ⟨⟨atWord (2 ^ 123) s0, 0, job, rfl, rfl, rfl, by decide +kernel⟩,
    ⟨atWord (2 ^ 122 + 2 ^ 109) s0, 0, 0, .param 0, job, rfl, rfl, by decide +kernel⟩, ⟨s0, 0, job, rfl, rfl, rfl⟩⟩

theorem wit_ControlFlow_holds :
    (∃ (s : State) (slot : Fin 4096) (len : Fin 65) (j : Job), s.job? slot.val = some j ∧ j.state = .running ∧ 1 ≤ len.val) ∧
    ∃ (s : State) (slot : Fin 4096) (j : Job) (h : HoldState), s.job? slot.val = some j ∧ j.hold = some h :=
  let j : Job := { job with hold := some { len := 64 } }
  ⟨⟨s0, 0, 64, job, rfl, rfl, by decide⟩, ⟨withJob j, 0, j, { len := 64 }, rfl, rfl⟩⟩

/-- Beats at a stack: a plain line, an ordered atomic, one taken back. -/
theorem wit_Arrivals :
    (∃ (s : State) (stack : Fin 36) (o : Outward) (rest : List Outward) (slot : Nat) (j : Job), (s.stack stack.val).intake = o :: rest ∧
      (s.stack stack.val).away = false ∧ o.isOrdered = false ∧ s.jobById? o.job = some (slot, j) ∧ s.job? slot = some j) ∧
    (∃ (s : State) (stack : Fin 36) (o : Outward) (rest : List Outward) (slot : Nat) (j : Job) (f : AtomFmt) (mask : BitVec 16) (i n tag : Nat),
      JobsOk s ∧ (s.stack stack.val).intake = o :: rest ∧ (s.stack stack.val).away = false ∧ o.op = .atomic f mask .ordered i n tag ∧ s.jobById? o.job = some (slot, j) ∧
      s.job? slot = some j ∧ slot < 4096 ∧ j.state ≠ .ended ∧ (∀ e ∈ s.jobList, e.2.id = o.job → e.1 = slot) ∧
      ((s.stack stack.val).rounds.any (·.isOn o) = true ∨ (s.stack stack.val).rounds.length < 64)) ∧
    ∃ (s : State) (stack : Fin 36) (a z : List Outward) (o : Outward), (s.stack stack.val).waiting = a ++ o :: z ∧
      (s.stack stack.val).away = false :=
  let o : Outward := { out0 with op := .atomic .i64 1 .ordered 0 2 1 }
  ⟨⟨{ s0 with tielux := [(0, { intake := [out0] })] }, 0, out0, [], 0, job, rfl, by decide +kernel, rfl, rfl, rfl⟩,
    ⟨{ s0 with tielux := [(0, { intake := [o] })] }, 0, o, [], 0, job, .i64, 1, 0, 2, 1, rfl, rfl, by decide +kernel, rfl, rfl, rfl, by decide, by decide,
      by decide +kernel, .inr (by decide)⟩,
    ⟨{ s0 with tielux := [(35, { waiting := [out0, o] })] }, 35, [out0], [], o, rfl, by decide +kernel⟩⟩

/-! ### Witnesses: commits, checks, copies -/

def stepEnd0 : StepEnd := { step := 0, states := [], perm := [], exch := [], ancestors := [], counts := {}, epoch := 0, sweepsLeft := 1 }

/-- A step that may commit, with one line to write. -/
theorem wit_StepCommits : ∃ (s : State) (slot : Fin 4096) (j : Job) (e : StepEnd) (rest : List StepEnd) (x : Shadow) (p : PageRef) (o : Nat),
    JobsOk s ∧ s.job? slot.val = some j ∧ j.stepEnds = e :: rest ∧ s.mayCommit j e = true ∧ (j.shadows.filter fun y => y.step == e.step) = [x] ∧
    x.taken = false ∧ (∀ w ∈ j.areaWrites, w.step ≠ e.step) ∧ j.keepsStates = false ∧ j.logsDigest e.step = false ∧ j.cancelPending = false ∧
    j.waiting ≠ .finishing ∧ j.locate x.alloc x.offset = some (p, o) ∧ o < pageBytes ∧
    p.stack < 36 ∧ p.frame < stackFrames ∧ (s.stack p.stack).failed = false :=
  let x : Shadow := { step := 0, alloc := 0, offset := 64, data := 3 }
  let p : PageRef := { stack := 35, frame := 183104 }
  let j : Job := { job with
    stepEnds := [stepEnd0], shadows := [x],
    allocs := [{ size := 128, protectedLayout := true, fixed := false, placeArg := 0, pages := [p] }] }
  ⟨withJob j, 0, j, stepEnd0, [], x, p, 64, rfl, rfl, rfl, by decide +kernel, rfl, rfl, fun _ h => (List.not_mem_nil h).elim, by decide +kernel, by decide +kernel, rfl, by decide, by decide +kernel, by decide, by decide,
    by decide, rfl⟩

theorem wit_Checks : ∃ (s : State) (slot : Fin 4096) (core : LogicalCore) (digest : DWord) (j : Job) (c : Check), JobsOk s ∧
    s.job? slot.val = some j ∧ j.state ≠ .ended ∧ j.group = none ∧
    (j.checks.find? fun x => x.cluster == core.cl && x.pos == core.pos.val && !x.resolved) = some c ∧ c.checker ≠ none ∧
    digest ≠ s.primaryDigest c :=
  let c : Check := { step := 0, cluster := cl0, pos := 0, checker := some 4 }
  let j : Job := { job with checks := [c] }
  ⟨withJob j, 0, { cl := cl0, pos := 0 }, 9, j, c, rfl, rfl, by decide, rfl, rfl, by decide, by decide +kernel⟩

/-- A beat from the core east of it waits at the core of position 0. -/
def sP : State :=
  { s0 with clusters := [(0, { coreMap := [some 0, some 1], cores := [(0, { inE := [{}] }), (1, {})] })] }

theorem wit_ParityAndCopies : ∃ (s : State) (o : FwdOps) (x : Site) (j : Job) (pos : Fin 64) (n : Nat) (u : UnitRef), JobsOk s ∧ Acts s o.cl x j ∧
    x.slot < 4096 ∧ o.parity = some pos ∧ x.phys pos.val = some n ∧ s.hopSender x pos.val (clusterCore s o.cl n) j.cycle = some u :=
  ⟨sP, { cl := cl0, outN := nOut, outE := nOut, outS := nOut, outW := nOut, dlv := nOut, agd := 0, parity := some 0 }, siteOf sP, job, 0, 0,
    .core { cl := cl0, num := 1 }, rfl, actsOf (n := 0) rfl rfl rfl, by decide, rfl, rfl, by decide +kernel⟩

theorem wit_ParityAndCopies_field : ∃ (s : State) (o : FldAccOps) (x : Site) (j : Job) (pos : Fin 64) (n : Nat), JobsOk s ∧ Acts s o.cl x j ∧
    x.slot < 4096 ∧ o.parity = some pos ∧ x.phys pos.val = some n :=
  ⟨s0, { cl := cl0, lm := 0, src := .playa, agc := 0, half := false, ags := 1, aux := false, form := .scalar, g := 31, inc := true, first := true,
         last := true, dd := 0, parity := some 0 }, x0, job, 0, 0, rfl, acts0, by decide, rfl, rfl⟩

/-- A job whose committed step is due for a comparison of its copies. -/
theorem wit_ParityAndCopies_compare : ∃ (s : State) (slot : Fin 4096) (j : Job) (l : Nat × Nat), JobsOk s ∧ s.job? slot.val = some j ∧
    j.state = .running ∧ j.committed = j.step ∧ (s.tilingOf j).stepLoop? (s.program j) = some l ∧ j.pc = l.2 ∧
    s.journal.settings.cdigestInterval ≠ 0 ∧ j.committed ≠ 0 ∧ j.committed % s.journal.settings.cdigestInterval = 0 :=
  let j : Job := { job with committed := 2048, step := 2048 }
  ⟨withJob j, 0, j, (0, 0), rfl, rfl, rfl, rfl, by decide +kernel, rfl, by decide, by decide, by decide⟩

/-! ### Witnesses: cores, stacks -/

/-- A cluster whose position 0 moves to spare O0 (core 64). -/
def sM : State :=
  { s0 with clusters := [(0, { coreMap := [some 0], cores := [(0, {})], copy := some { pos := 0, source := 0, dest := 64, why := .retire } })] }

theorem wit_CoreMapsAndUnits : ∃ (s : State) (cl : ClusterRef) (spare : Bool) (q : CoreCopy), MapsOk s ∧ (s.cluster cl.key).copy = some q ∧
    (q.dest = (if spare then 65 else 64) ∨ q.source = if spare then 65 else 64) := by
  refine ⟨sM, cl0, false, { pos := 0, source := 0, dest := 64, why := .retire }, ?_, rfl, .inl rfl⟩
  intro e he
  simp only [sM, List.mem_singleton] at he
  subst he
  have hm : ∀ (a n : Nat), [some 0][a]? = some (some n) → a = 0 ∧ n = 0 := by
    intro a n h
    match a, h with
    | 0, h => simp at h; exact ⟨rfl, h.symm⟩
    | k + 1, h => simp at h
  refine ⟨fun a b n ha hb => ?_, fun _ a ha => ?_, fun _ a ha => ?_, fun c hc => ?_⟩
  · rw [(hm a n ha).1, (hm b n hb).1]
  · exact absurd (hm a _ ha).2 (by decide)
  · exact absurd (hm a _ ha).2 (by decide)
  · cases hc
    exact ⟨fun a ha => absurd (hm a _ ha).2 (by decide), rfl⟩

theorem wit_CoreMapsAndUnits_others :
    (∃ (s : State) (cl : ClusterRef), s.halfJob? cl.half = none) ∧ (∃ (s : State) (cl : ClusterRef) (e : Nat × Job), s.halfJob? cl.half = some e) ∧
    (∃ (s : State) (u : UnitRef) (o : UnitRef × Bool), (s.integrity.observed.find? fun x => x.1 == u) = some o) ∧
    ∃ (s : State) (p : PhysCore), (s.half p.cl.half).clocked = true :=
  ⟨⟨State.reset, cl0, rfl⟩, ⟨s0, cl0, (0, job), rfl⟩,
    ⟨{ s0 with integrity := { observed := [(.seam 0, false)] } }, .seam 0, (.seam 0, false), by decide⟩, ⟨s0, { cl := cl0, num := 65 }, rfl⟩⟩

def clearRaw : SectorRaw := { first := [], again := [], dieFailed := false }
def lastSector : SectorRef := { stack := 35, frame := 183104, sector := 65535 }

theorem wit_Sectors :
    (∃ (s : State) (r : SectorRef) (raw : SectorRaw), r.frame < stackFrames ∧ (s.stack r.stack.val).failed = false ∧ raw.dieFailed = false ∧
      s.sectorCurrent r.stack.val r.frame r.sector.val = true) ∧
    (∃ r : SectorRef, stackFrames ≤ r.frame) ∧
    (∃ (s : State) (r : SectorRef), r.frame < stackFrames ∧ (s.stack r.stack.val).failed = true) ∧
    (∃ (s : State) (r : SectorRef) (raw : SectorRaw), r.frame < stackFrames ∧ (s.stack r.stack.val).failed = false ∧ raw.dieFailed = true ∧
      s.sectorCurrent r.stack.val r.frame r.sector.val = false) ∧
    ∃ (s : State) (r : SectorRef) (raw : SectorRaw) (slot : Fin 4096) (j : Job), r.frame < stackFrames ∧ (s.stack r.stack.val).failed = false ∧
      raw.dieFailed = false ∧ s.sectorCurrent r.stack.val r.frame r.sector.val = true ∧
      (wrongSymbols raw.first).length = 2 ∧ s.job? slot.val = some j ∧ j.state = .running :=
  ⟨⟨s0, lastSector, clearRaw, by decide, rfl, rfl, rfl⟩, ⟨{ lastSector with frame := 183105 }, by decide⟩,
    ⟨{ s0 with tielux := [(35, { failed := true })] }, lastSector, by decide, rfl⟩,
    ⟨{ s0 with tielux := [(35, { frames := [(183104, { gen := 1 })] })] }, lastSector, { clearRaw with dieFailed := true }, by decide, rfl, rfl,
      by decide +kernel⟩,
    ⟨s0, lastSector, { clearRaw with first := [{ place := 0, value := 1 }, { place := 19, value := 2 }] }, 0, job, by decide, rfl, rfl, rfl,
      by decide +kernel, rfl, rfl⟩⟩

theorem wit_RefreshAndModes :
    (∃ r : SectorRef, r.frame < stackFrames) ∧
    (∃ (s : State) (slot : Fin 4096) (j : Job), s.job? slot.val = some j ∧ j.fixedCadence = true ∧ j.state = .running ∧
      (∀ k, (s.stack k).rowsToSpare = [])) ∧ ∃ (s : State) (stack : Fin 36), (s.stack stack.val).unjudged = true :=
  let j : Job := { job with fixedNow := true }
  ⟨⟨lastSector, by decide⟩, ⟨withJob j, 0, j, rfl, by decide, rfl, fun _ => rfl⟩, ⟨{ s0 with tielux := [(35, { unjudged := true })] }, 35, rfl⟩⟩

theorem wit_SparesAndMoves :
    (∃ (s : State) (stack : Fin 36), (s.stack stack.val).spareState = .copying) ∧
    (∃ (s : State) (stack : Fin 36), JobsOk s ∧ (s.stack stack.val).failed = false) ∧
    ∃ (s : State) (stack : Fin 36) (frame : Nat), frame < stackFrames ∧ (s.frameEntry stack.val frame).cleared = false ∧
      (s.stack stack.val).failed = false ∧ (s.frameEntry stack.val frame).use = .free :=
  ⟨⟨{ s0 with tielux := [(35, { spareState := .copying })] }, 35, rfl⟩, ⟨s0, 35, rfl, rfl⟩, ⟨s0, 35, 183104, by decide, rfl, rfl, rfl⟩⟩

/-! ### Witnesses: jobs and resets -/

/-- One job that waits, and every half free. -/
def sW : State := withJob { job with state := .waiting, region := [], setting := 0 }

theorem wit_Admission : ∃ (s : State) (slot k : Nat) (ks region : List Nat) (j : Job), JobsOk s ∧ s.config.hubReady = true ∧
    s.config.hubOnly = false ∧ s.waitingOrder = [(slot, j)] ∧ s.job? slot = some j ∧ slot < 4096 ∧ j.endAsked = none ∧
    j.cancelPending = false ∧ s.contextStuck j = none ∧
    s.tilingOrder j = k :: ks ∧ s.placeJob j k (s.halfFree j.owner) = some region ∧
    region.length * halfWatts j.body.clock ≤ s.availWatts slot :=
  ⟨sW, 0, 0, [], [0], { job with state := .waiting, region := [], setting := 0 }, rfl, rfl, rfl, rfl, rfl, by decide, rfl, rfl, by decide +kernel,
    by decide +kernel, by decide +kernel, by decide +kernel⟩

/-- A context of a job, whose digest of 32 bytes follows. -/
def contextBytes : Bytes := List.replicate 64 0

theorem wit_Admission_others :
    (∃ s : State, s.config.hubReady = false ∨ s.config.hubOnly = true) ∧
    (∃ (s : State) (slot : Fin 4096) (j : Job), s.job? slot.val = some j ∧ j.state = .admitting ∧ j.seeded = false ∧ s.regionReady j = true ∧
      s.config.hubReady = true ∧ s.contextRead j = [] ∧ s.contextOf j = []) ∧
    ∃ (s : State) (slot : Fin 4096) (j : Job), s.job? slot.val = some j ∧ j.state = .restoring ∧ s.regionReady j = true ∧
      s.contextMarked j = false ∧ s.contextRead j ≠ [] ∧ j.fixedCadence = false :=
  let j1 : Job := { job with state := .admitting }
  let j2 : Job := { job with state := .restoring, context := contextBytes }
  ⟨⟨State.reset, .inl rfl⟩, ⟨withJob j1, 0, j1, rfl, rfl, rfl, by decide +kernel, rfl, by decide +kernel, by decide +kernel⟩,
    ⟨withJob j2, 0, j2, rfl, rfl, by decide +kernel, by decide +kernel, by decide +kernel, rfl⟩⟩

theorem wit_PreemptionAndSettings : ∃ (s : State) (slot : Fin 4096) (j : Job), JobsOk s ∧ s.job? slot.val = some j ∧ j.state = .preempting :=
  let j : Job := { job with state := .preempting }
  ⟨withJob j, 0, j, rfl, rfl, rfl⟩

theorem wit_BringUp : ∃ (s : State) (u : ReadyUnit), ∀ h, u = .half h → ∀ e ∈ s.jobList,
    ¬(e.2.region.contains h.val = true ∧ (e.2.state = .admitting ∨ e.2.state = .restoring)) :=
  ⟨s0, .half 0, fun h _ e he => by
    have : e = (0, job) := by simpa [State.jobList, s0, withJob] using he
    subst this
    intro c
    exact absurd c.2 (by decide)⟩

theorem fresh0 : Fresh s0 { sess := 1, req := 1 } operator := ⟨rfl, by decide, by decide⟩

theorem wit_ResetClasses :
    (∃ (s : State) (half : Fin 12) (e : Nat × Job), JobsOk s ∧ s.halfJob? half.val = some e ∧ e.2.issuing = true) ∧
    ∃ (s : State) (h : CmdHead) (x : Session), HandlesOk s ∧ Fresh s h x :=
  ⟨⟨s0, 0, (0, job), rfl, rfl, rfl⟩, ⟨s0, { sess := 1, req := 1 }, operator, Nat.zero_le _, fresh0⟩⟩

/-! ### Witnesses: sessions and commands -/

theorem wit_RepeatedCommands : ∃ (s : State) (h : CmdHead) (x : Session), s.openSession? h.sess = some x ∧ x.role ≠ .peer ∧
    h.req ≤ (s.stream x.fpr).highMark :=
  ⟨{ s0 with journal := { s0.journal with streams := [{ fpr := key 1, highMark := 4 }] } }, { sess := 1, req := 4 }, operator, rfl, by decide,
    by decide⟩

/-- A fresh command of an operator while the module runs, with room in the completion area; the object it names. -/
theorem wit_ObjectLoads : ∃ (s : State) (h : CmdHead) (d : Bytes) (x : Session) (o : HeldObject), Fresh s h x ∧
    (x.role = .operator ∨ x.role = .installer) ∧ s.config.bootRom = false ∧ s.object? d = some o ∧ o.released = false ∧
    (o.owner = x.fpr ∨ x.role = .installer) ∧ 1 ≤ s.areaFree :=
  ⟨s0, { sess := 1, req := 1 }, key 2, operator, { kind := 1, digest := key 2, bytes := program, protectedLayout := true, owner := key 1 }, fresh0,
    .inl rfl, rfl, rfl, rfl, .inl rfl, by decide +kernel⟩

theorem wit_ObjectLoads_others :
    (∃ (s : State) (sess : Nat) (data : Bytes) (x : Session), s.openSession? sess = some x ∧ data ≠ []) ∧
    ∃ (s : State) (n : Nat) (g : LoadHandle), s.objects.handles.find? (fun g => g.handle == n && g.symmetry) = some g :=
  let b : LoadBody := { kind := 0, layout := 0, size := 1, digest := key 3 }
  let g : LoadHandle := { handle := 1, sess := 1, owner := key 1, req := 1, body := b, symmetry := true }
  ⟨⟨s0, 1, [0], operator, rfl, by decide⟩, ⟨{ s0 with objects := { handles := [g], nextHandle := 2 } }, 1, g, by decide⟩⟩

theorem wit_Submits : ∃ (s : State) (h : CmdHead) (x : Session), Fresh s h x := ⟨s0, { sess := 1, req := 1 }, operator, fresh0⟩

theorem wit_JobCommands : ∃ (s : State) (h : CmdHead) (x : Session) (slot : Nat) (j : Job), JobsOk s ∧ Fresh s h x ∧
    (x.role = .operator ∨ x.role = .installer) ∧ s.config.bootRom = false ∧ 1 ≤ s.areaFree ∧ s.jobById? j.id = some (slot, j) ∧
    j.owner = x.fpr ∧ slot < 4096 :=
  ⟨s0, { sess := 1, req := 1 }, operator, 0, job, rfl, fresh0, .inl rfl, rfl, by decide +kernel, rfl, rfl, by decide⟩

/-- An open session: of KEY_OP, QUOTE, the register commands and ENTROPY reads. -/
theorem wit_KeyOperations : ∃ (s : State) (sess : Nat) (x : Session), s.session? sess = some x ∧ x.opened = true := ⟨s0, 1, operator, rfl, rfl⟩

/-- The last installer key is to be removed. -/
theorem wit_KeyOperations_last : ∃ (s : State) (sess : Nat) (x : Session), s.session? sess = some x ∧ x.opened = true ∧ x.role = .installer ∧
    (∃ k ∈ s.journal.keys, k.fpr = digestOf x.sel.keyDigest) ∧ (s.key? .installer (digestOf x.sel.keyDigest)).isSome ∧
    ∀ k ∈ s.journal.keys, k.role = .installer → k.fpr = digestOf x.sel.keyDigest :=
  let k : KeyRecord := { role := .installer, maxPriority := 7, halfMask := BitVec.allOnes 12, modulus := [], fpr := digestOf [] }
  let x : Session := { operator with role := .installer }
  ⟨{ s0 with journal := { s0.journal with keys := [k] }, transport := { s0.transport with sessions := [x] } }, 1, x, rfl, rfl, rfl,
    ⟨k, List.mem_singleton.2 rfl, rfl⟩, by decide, fun _ hy _ => List.mem_singleton.1 hy ▸ rfl⟩
theorem wit_QuotesAndRecords : ∃ (s : State) (sess : Nat) (x : Session), s.session? sess = some x ∧ x.opened = true ∧ x.role = .maker :=
  ⟨{ s0 with transport := { sessions := [{ operator with role := .maker }] } }, 1, { operator with role := .maker }, rfl, rfl, rfl⟩
theorem wit_EntropyBlock : ∃ (s : State) (sess : Nat) (samples : List Bool) (x : Session), s.session? sess = some x ∧ x.opened = true ∧
    x.reads = true ∧ samples.length = 512 := ⟨s0, 1, List.replicate 512 true, operator, rfl, rfl, rfl, List.length_replicate⟩
theorem wit_EntropyBlock_short : ∃ samples : List Bool, samples.length ≠ 512 := ⟨[], by decide⟩
theorem wit_RegisterPages : ∃ (s : State) (sess : Nat) (x : Session), s.session? sess = some x ∧ x.opened = true := ⟨s0, 1, operator, rfl, rfl⟩
theorem wit_RegisterEffects : ∃ (s : State) (sess : Nat) (x : Session), s.session? sess = some x ∧ x.opened = true ∧ x.role = .installer :=
  ⟨{ s0 with transport := { sessions := [{ operator with role := .installer }] } }, 1, { operator with role := .installer }, rfl, rfl, rfl⟩
theorem wit_FirmwareAndScan : ∃ (s : State) (sess : Nat) (x : Session), s.session? sess = some x ∧ x.opened = true ∧ x.role = .maker ∧
    x.actions.getLsbD 1 = true :=
  ⟨{ s0 with transport := { sessions := [{ operator with role := .maker, actions := 2 }] } }, 1, { operator with role := .maker, actions := 2 },
    rfl, rfl, rfl, by decide⟩
theorem wit_PowerAndStretches : ∃ s : State, JobsOk s := ⟨s0, rfl⟩
theorem wit_Thermal : ∃ s : State, JobsOk s := ⟨s0, rfl⟩
theorem wit_SelfTests : ∃ s : State, JobsOk s := ⟨s0, rfl⟩

/-- A session that the host opens, after phase 2; one that the S6 opens, after phase 1. -/
theorem wit_SessionsOpened :
    (∃ (s : State) (p : Phase3) (x : Session), s.session? p.sess = some x ∧ x.opened = false ∧ x.opener = false) ∧
    (∃ (s : State) (p : Phase2) (x : Session), s.opening? p.src = some x ∧ s.session? x.id = some x) ∧
    ∃ (s : State) (p : Phase4) (x : Session), s.opening? p.src = some x ∧ s.session? x.id = some x :=
  let h : Session := { operator with opened := false }
  let d : Session := { peer with opened := false, opener := true }
  let s (x : Session) : State := { s0 with transport := { sessions := [x], nextSession := 4 } }
  ⟨⟨s h, { sess := 1, hostSig := [], claimProof := [] }, h, rfl, rfl, rfl⟩,
    ⟨s d, { src := 3, sess := 1, encrypt := false, noIdentity := false, deviceNonce := key 0, wrapped := [], deviceSig := [], responderKey := [] }, d,
      rfl, rfl⟩,
    ⟨s d, { src := 3, sess := 1, status := 0, confirm := key 0 }, d, rfl, rfl⟩⟩

/-- An acknowledgement; a packet outstanding on an open session, which may time out and be resent; an idle session; a maker's; one opened half. -/
theorem wit_SessionsServed :
    (∃ (s : State) (b : AckBody) (x : Session), s.session? b.sess = some x ∧ x.opened = true) ∧
    (∃ (s : State) (sess seq : Nat) (x : Session) (p : TxPacket), s.session? sess = some x ∧ x.opened = true ∧
      x.tx.find? (fun q => q.seq == seq) = some p ∧ x.tx ≠ []) ∧
    (∃ (s : State) (sess seq : Nat) (x : Session), s.session? sess = some x ∧ x.opened = true ∧ (∀ p ∈ x.tx, p.seq ≠ seq) ∧ x.tx = [] ∧
      x.role ≠ .maker) ∧
    (∃ (s : State) (id : Nat) (x : Session), s.session? id = some x ∧ x.opened = true ∧ x.role = .maker) ∧
    ∃ (s : State) (id : Nat) (x : Session), s.session? id = some x ∧ x.opened = false ∧ x.opener = false :=
  let s (x : Session) : State := { s0 with transport := { sessions := [x], nextSession := 2 } }
  let p : TxPacket := { seq := 1, body := .retract 7 0 0 0 }
  let out : Session := { operator with tx := [p] }
  let maker : Session := { operator with role := .maker }
  let half : Session := { operator with opened := false }
  ⟨⟨s0, { sess := 1, ack := 0, sackMap := 0, bitmap := [] }, operator, rfl, rfl⟩, ⟨s out, 1, 1, out, p, rfl, rfl, rfl, by decide⟩,
    ⟨s0, 1, 1, operator, rfl, rfl, fun _ h => (List.not_mem_nil h).elim, rfl, by decide⟩, ⟨s maker, 1, maker, rfl, rfl, rfl⟩,
    ⟨s half, 1, half, rfl, rfl, rfl⟩⟩

/-- The hub has verified its configuration record, and the S6 is not hub-only. -/
theorem wit_UnitsMayRun : ∃ s : State, s.unitsMayRun = true := ⟨s0, rfl⟩

theorem wit_StepKeepsForms : ∃ s t : State, step s = .next t ∧ MemoryOk s ∧ EventRingOk s ∧ JobsOk s ∧ HandlesOk s :=
  ⟨{ State.reset with pending := [.linkDown] }, _, rfl, rfl, Nat.zero_le _, rfl, Nat.zero_le _⟩
theorem wit_StepKeepsAuditChain : ∃ s t : State, step s = .next t ∧ AuditOk s :=
  ⟨{ State.reset with pending := [.linkDown] }, _, rfl, ⟨Nat.zero_le _, fun e h => (List.not_mem_nil h).elim, trivial, fun _ => ⟨rfl, rfl⟩, fun e h => by cases h⟩⟩
theorem wit_StepKeepsCoreMaps : ∃ s t : State, step s = .next t ∧ MapsOk s := ⟨{ State.reset with pending := [.linkDown] }, _, rfl, fun _ h => (List.not_mem_nil h).elim⟩
theorem wit_StepNeverLowers : ∃ s t : State, step s = .next t := ⟨{ State.reset with pending := [.linkDown] }, _, rfl⟩
theorem wit_CommandFrame : ∃ (c : Instr) (s t : State), exec c s = .next t := ⟨.linkDown, s0, _, rfl⟩

/-- A CANCEL of job 5 as request 1 in packet 1 of session 1: header and payload (R381, R394, R404). -/
def cancelBytes : Bytes :=
  [1, 4, 0, 0] ++ beBytes 2 2 ++ beBytes 2 2 ++ beBytes 4 1 ++ beBytes 2 24 ++ beBytes 2 0 ++ beBytes 8 1 ++ beBytes 8 0 ++
    (beBytes 8 1 ++ beBytes 2 4 ++ List.replicate 6 0 ++ beBytes 8 5)

/-- A module with address 2 whose link is up. -/
def sF : State :=
  { s0 with port := { s0.port with linkUp := true }, journal := { s0.journal with settings := { s0.journal.settings with unitAddr := 2 } } }

def frameOf (trailer : Bytes) : Frame :=
  { dst := sF.factoryMac, src := 0, vlan := none, otherTag := false, etherType := 0x88B5, payload := cancelBytes ++ trailer, size := 100,
    fcsOk := true, express := true }

def cancelTrailer : Bytes := (hmac (operator.keyIn "kenvin auth") cancelBytes).take 16
def cancelPacket : Packet :=
  { type := 4, flags := 0, dest := 2, src := 2, sess := 1, sack := 0, seq := 1, ack := 0, header := cancelBytes.take 32,
    payload := cancelBytes.drop 32, trailer := cancelTrailer }

/-- A frame that nothing takes; one whose packet its session authenticates and that is the next of its session. -/
theorem wit_FramesAndPackets :
    (∃ (s : State) (f : Frame), s.port.linkUp = true ∧ s.config.hubReady = true ∧ s.security.scan = false ∧ s.frameFits f = false) ∧
    ∃ (s : State) (f : Frame) (b : Bytes) (ip : BitVec 128) (p : Packet) (x : Session) (plain : Bytes), s.port.linkUp = true ∧
      s.config.hubReady = true ∧ s.security.scan = false ∧ s.frameFits f = true ∧ s.frameKind f = some (.kenvin b ip) ∧ parsePacket b = some p ∧
      p.formOk = true ∧ s.journal.settings.unitAddr ≠ 0 ∧ p.dest = s.journal.settings.unitAddr ∧ p.type = 4 ∧ s.packetSession p = some x ∧
      s.session? x.id = some x ∧ x.openPayload p = some plain ∧ p.seq = x.rxAck + 1 ∧ x.role ≠ .peer ∧ x.rxHeld = [] ∧ 16 ≤ plain.length ∧
      commandStatus plain = 0 :=
  ⟨⟨sF, { frameOf [] with fcsOk := false }, rfl, rfl, rfl, rfl⟩,
    ⟨sF, frameOf cancelTrailer, cancelBytes ++ cancelTrailer, 0, cancelPacket, operator, cancelBytes.drop 32, rfl, rfl, rfl, rfl, by decide +kernel,
      by decide +kernel, by decide +kernel, by decide, rfl, rfl, by decide +kernel, rfl, by decide +kernel, rfl, by decide, rfl, by decide +kernel,
      by decide +kernel⟩⟩

/-- The same frame with another trailer is authenticated by no session. -/
theorem wit_FramesAndPackets_refused : ∃ p : Packet, p.type = 4 ∧ p.dest = 2 ∧ p.formOk = true ∧ sF.packetSession p = none :=
  ⟨{ cancelPacket with trailer := List.replicate 16 0 }, rfl, rfl, by decide +kernel, by decide +kernel⟩

/-! ### Ill-formed commands are refused by WellFormed -/

theorem test_wf_frame : (Instr.stripeMove 0 183104).wf = true ∧ (Instr.stripeMove 0 183105).wf = false := by decide
theorem test_wf_clear : (Instr.frameCleared 0 183105).wf = false := by decide
theorem test_wf_writeback : (Instr.correctedWriteback { lastSector with frame := 183105 }).wf = false := by decide
theorem test_wf_sector : (Instr.sectorRead { lastSector with frame := 183105 } clearRaw none).wf = false := by decide
theorem test_wf_symbol_place : (Instr.scrubRead 0 { clearRaw with first := [{ place := 3, value := 1 }, { place := 3, value := 2 }] }).wf = false := by
  decide
theorem test_wf_symbol_value : (Instr.scrubRead 0 { clearRaw with again := [{ place := 3, value := 0 }] }).wf = false := by decide
theorem test_wf_submit : (Instr.submit { sess := 1, req := 1 } body).wf = true ∧
    (Instr.submit { sess := 1, req := 1 } { body with program := [] }).wf = false ∧
    (Instr.submit { sess := 1, req := 1 } { body with params := [] }).wf = false ∧
    (Instr.submit { sess := 1, req := 1 } { body with clock := 256 }).wf = false ∧
    (Instr.submit { sess := 1, req := 1 } { body with replicas := 65536 }).wf = false ∧
    (Instr.submit { sess := 1, req := 1 } { body with digestFirst := 2 ^ 64 }).wf = false := by decide +kernel
theorem test_wf_load : (Instr.load { sess := 1, req := 1 } { kind := 256, layout := 0, size := 1, digest := key 1 }).wf = false ∧
    (Instr.load { sess := 1, req := 1 } { kind := 0, layout := 0, size := 1, digest := [] }).wf = false := by decide
def phase1 : Phase1 := { src := 2, role := 1, encrypt := false, keyFpr := key 1, hostNonce := key 2, consent := key 0, extra := [] }
theorem test_wf_phase1 : (Instr.sessionOpenPhase1 phase1).wf = true ∧ (Instr.sessionOpenPhase1 { phase1 with src := 4096 }).wf = false ∧
    (Instr.sessionOpenPhase1 { phase1 with role := 3 }).wf = false := by decide
def phase2 : Phase2 :=
  { src := 2, sess := 1, encrypt := false, noIdentity := true, deviceNonce := key 1, wrapped := [], deviceSig := [], responderKey := [] }
theorem test_wf_phase2 : (Instr.sessionOpenPhase2 phase2).wf = false := by decide
theorem test_wf_phase3 : (Instr.sessionOpenPhase3 { sess := 1, hostSig := [], claimProof := key 0 }).wf = false := by decide
theorem test_wf_phase4 : (Instr.sessionOpenPhase4 { src := 2, sess := 1, status := 0, confirm := [] }).wf = false := by decide
theorem test_wf_enumerate : (Instr.enumerate { src := 1, filterAll := false, windowUs := 65536, exclude := [], nonce := List.replicate 16 0 }).wf = false :=
  by decide
theorem test_wf_probe : (Instr.probe 4096 17 (List.replicate 16 0)).wf = false ∧ (Instr.reply 65536).wf = false := by decide
theorem test_wf_assign : (Instr.assign { src := 1, mac := 0, address := 17, nonce := List.replicate 16 0, signer := key 1, signature := [] }).wf = false :=
  by decide
theorem test_wf_ack : (Instr.ack { sess := 1, ack := 0, sackMap := 0, bitmap := [0] }).wf = false := by decide
theorem test_wf_release : (Instr.release { sess := 1, req := 1 } []).wf = false := by decide
theorem test_wf_fetch : (Instr.fetch { sess := 1, req := 1 } (.object []) 0 1).wf = false := by decide
theorem test_wf_bulk : (Instr.bulk 1 1 0 (List.replicate 8177 0)).wf = false := by decide +kernel
theorem test_wf_batch : (Instr.regBatch 1 0 (List.replicate 682 { addr := 0, write := false, data := 0 })).wf = false := by decide +kernel
theorem test_wf_quote : (Instr.quote 1 []).wf = false ∧ (Instr.quoteConfigRecord 1 []).wf = false := by decide
theorem test_wf_join : (Instr.join { sess := 1, group := 7, member := 256, job := 5, startSec := 0, startNs := 0, record := key 6 }).wf = false := by decide
theorem test_wf_halo : (Instr.halo { sess := 3, group := 7, epoch := 0, channel := 1, attempt := 0, firstBeat := 0, beats := [[0]] }).wf = false := by
  decide

/-- No row of the table gives bits, so no word spells a command. -/
theorem test_no_words : ∀ n w : Nat, decodeTableWord n w = none := fun _ _ => rfl

/-! ### Values that the spec's tables and worked examples, or the standards it cites, give -/

/-- The entries of R81 that a compatible part may test its tables against. -/
theorem test_tables : tabS 0 = 2147483648 ∧ tabS 1 = 2164260523 ∧ tabS 64 = 3139872687 ∧ tabS 128 = 3782994644 ∧ tabE 0 = 4294967296 ∧
    tabE 512 = 3037000500 ∧ tabT 512 = 2512394810 ∧ tabH 0 = 0 ∧ tabH 16 = 11316060 := by decide +kernel

/-- Chapter 04, one sweep of the chequerboard: β = 0.25 and h = −4 decide with P = 511,972,652. -/
theorem test_heat_bath : (binaryHeatBath 0x3E800000 0xC0800000 0x0F000000, binaryHeatBath 0x3E800000 0xC0800000 0x1E840000,
    binaryHeatBath 0x3E800000 0xC0800000 0x1E850000, binaryHeatBath 0x3E800000 0xC0800000 0xC0000000) =
    (.set 1, .set 1, .set 0, .set 0) := by decide +kernel

/-- Chapter 02, a BS16 block. -/
theorem test_bs16 : encodeBs16 ([.fin false 13 (-2), .fin true 1 (-10), .fin false 2001 (-1)] ++ List.replicate 29 .zero) =
    (-5, [104, 0, 32016] ++ List.replicate 29 0) := by decide +kernel

/-- R40: 464 is a tie and goes to 448 uncounted, 470 gives 448 counted; I8 127.5 gives 127 counted. -/
theorem test_conversions : (convertTo 6 (.ofInt 450), convertTo 6 (.ofInt 464), convertTo 6 (.ofInt 470), convertTo 2 (.fin false 255 (-1))) =
    ((0x7E, false), (0x7E, false), (0x7E, true), (127, true)) := by decide +kernel

/-- Chapter 05, a cancellation: the LONGSUM terms, and the F32 group sum of tile A, 2^15 + 2^−8. -/
theorem test_longsum : longsumOf (.fin false 1 15) = 2 ^ 63 ∧ longsumOf (.fin false 1 (-10)) = 2 ^ 38 := by decide +kernel
theorem test_group_sum : Val.eqv (groupSum .f32 4 ([.fin false 1 15] ++ List.replicate 8 (.fin false 1 (-10)) ++ List.replicate 7 .zero))
    (.fin false (2 ^ 23 + 1) (-8)) = true := by decide +kernel

/-- Chapter 06, a stream index. -/
theorem test_stream_index : streamIndex 5 1234567 1 = 43980474987577 := by decide

/-- R158 and R159: 64 register steps one by one, and at once. -/
theorem test_advance64 : (List.range 64).foldl (fun s _ => streamStep s) (2 ^ 126 + 0x0123456789ABCDEF) = advance64 (2 ^ 126 + 0x0123456789ABCDEF) := by
  decide +kernel

/-- Chapter 10, an admission that lowers an elastic job: four halves at setting 18 lowered by 84 W stand at 15. -/
theorem test_arbiter : halfWatts 18 = 258 ∧ ((lowerOne { job with region := [4, 5, 6, 7], targetSetting := 18 } 84).1.targetSetting) = 15 := by decide

/-- Chapter 17, one feed: at 54 V the single-feed limit is 4,190 W, so the budget of 3,800 W stays. -/
theorem test_single_feed : { s0 with power := { bMv := 54000, bPresent := true, singleFeed := true } : State }.singleFeedLimit = 4190 ∧
    { s0 with power := { bMv := 54000, bPresent := true, singleFeed := true } : State }.effectiveBudget = 3800 := by decide

def after (c : Instr) (s : State) : State :=
  match exec c s with
  | .next t => t
  | _ => s

/-- Chapter 16, a fatal alarm: the third block in a row that fails raises it, with event 0x0712. -/
theorem test_fatal_alarm :
    let t := after (.entropyBlock (List.replicate 512 true)) { s0 with entropy := { state := .running, failsInRow := 2, discard := 0 } }
    t.entropy.state = .fatal ∧ (t.journal.events.any fun e => e.code == 0x0712) = true := by decide +kernel

/-- R501, R507: a fatal alarm outlives raw mode. -/
theorem test_alarm_outlives_raw : ({ state := .raw, alarmed := true } : Entropy).leaveRaw.state = .fatal ∧
    ({ state := .raw } : Entropy).leaveRaw.state = .startUp := ⟨rfl, rfl⟩

/-- R452: only failures of one step in succession count. -/
theorem test_failures_of_one_step : ({ job with failedStep := some 4, failures := 2 } : Job).failuresAt 4 = 2 ∧
    ({ job with failedStep := some 4, failures := 2 } : Job).failuresAt 5 = 0 := ⟨rfl, rfl⟩

/-- R525: the one feed that is present sags to 48 V and stays present; the single-feed limit falls to 3,724 W. -/
theorem test_feed_measured :
    let t := after (.feedPresent .b 48000) { s0 with power := { bMv := 54000, bPresent := true, singleFeed := true } }
    t.power.bPresent = true ∧ t.effectiveBudget = 3724 := by decide +kernel

/-- Chapter 13, a roll call: the second ASSIGN finds its address answered for and is refused with 0x010D; the unit keeps its address. -/
theorem test_address_in_use :
    let t := after (.reply 17) { s0 with transport := { s0.transport with pendingAssign := some { dst := 1, address := 17, nonce := [] } } }
    t.transport.pendingAssign = none ∧ t.journal.settings.unitAddr = 0 := by decide +kernel

/-- FIPS 180-4, RFC 4231 (case 2), the GCM specification (case 13) and CRC-64 of ECMA-182. -/
theorem test_sha256 : beNat (sha256 (ascii "abc")) = 0xba7816bf8f01cfea414140de5dae2223b00361a396177a9cb410ff61f20015ad := by decide +kernel
theorem test_hmac : beNat (hmac (ascii "Jefe") (ascii "what do ya want for nothing?")) =
    0x5bdcc146bf60754e6a042426089575c75a003f089d2739839dec58b964ec3843 := by decide +kernel
theorem test_gcm : beNat (gcmTag (List.replicate 32 0) (List.replicate 12 0) [] []) = 0x530f8afbc74536b9a963b4f1c4cb738b := by decide +kernel
theorem test_crc64 : crc64 (ascii "123456789") = 0x6C40DF5F0B497347 := by decide +kernel

/-- Chapter 08, the assembled example: two words of slot F and D and the router word of cycle 8. -/
theorem test_slot_words (cl : ClusterRef) :
    slotCommand 0 cl 0x08020030 = some (.fldAcc
      { cl := cl, lm := 0, src := .playa, agc := 0, half := false, ags := 2, aux := false, form := .scalar, g := 0, inc := false, first := true,
        last := true, dd := 0, parity := none }) ∧
    slotCommand 1 cl 0x247D0000 = some (.drwBin { cl := cl, lm := 0, dd := 1, agw := 7, launch := true, sel := 1, ags := 0, inc := false }) ∧
    slotCommand 0 cl 0x08020031 = none ∧
    routerSend cl 0xF2184FC4 = { cl := cl, outL := ⟨true, true, true, true⟩, deliver := true, agd := 4, lttl := 1 } ∧
    (routerFwd cl 0xF2184FC4).outE = ⟨false, false, false, true⟩ := ⟨rfl, rfl, rfl, rfl, rfl⟩

/-- Both mesh forms of a router word take AGD from one field. -/
theorem witness_SlotWordsStandForCommands : (routerSend ⟨0, 0⟩ 0xF2184FC4).agd = (routerFwd ⟨0, 0⟩ 0xF2184FC4).agd := rfl

/-- R250: the lowest variable that is missing, or decided twice, in a step. -/
theorem test_coverage : coverFault 2 [(1, 3), (0, 1), (0, 2)] = none ∧ coverFault 3 [(1, 3), (0, 3)] = some 2 ∧
    coverFault 2 [(1, 3), (0, 1), (0, 3)] = some 0 ∧ coverFault 2 [(1, 1), (0, 3)] = some 1 := by decide

/-- R321 at setting 18: windows of 630 cycles every 7,020, bank group 1 from cycle 1,755 on. -/
theorem test_windows : inWindow 18 0 0 629 = true ∧ inWindow 18 0 0 630 = false ∧ inWindow 18 0 1 1755 = true ∧ inWindow 18 0 1 7021 = false := by decide

/-- R189, R193: a beat east from the last column of half W needs half E. -/
theorem test_region_edge : hopTo [0] 3 7 .e = none ∧ hopTo [0, 1] 3 7 .e = some (4, 0, 3) := by decide

end Sys2Proof.Tests
end

/-! PROOF of O33: what a hub start loads, checks and clears. Each stage of the start has its equations; what a later stage leaves alone comes
from the frames of Laws/Kept.lean. -/

namespace Sys2Proof.Machine

open Sys2Proof Sys2Proof.Safety

/-! ### Loads that end (R402) -/

section Loads

variable (s : State) (h : LoadHandle) (f : LoadFault)

theorem State.failLoad_security : (s.failLoad h f).security = s.security :=
  (State.failLoad_kept h f (Kept.refl s) (List.Subset.refl _)).frame.same .security (by decide)

theorem State.failLoad_handles : (s.failLoad h f).objects.handles = s.objects.handles.filter fun x => x.handle != h.handle := by
  have closed : Kept [.tielux, .transport, .streams] (s.closeHandle h) (s.failLoad h f) :=
    State.done_kept _ _ _ _ (State.freePages_kept _ (Kept.refl _) (by decide)) (by decide)
  exact congrArg ObjectStore.handles (closed.frame.same .objects (by decide))

theorem State.endLoad_handles : (s.endLoad h f).objects.handles = s.objects.handles.filter fun x => x.handle != h.handle := by
  unfold State.endLoad
  split
  · exact State.failLoad_handles _ h f
  · exact State.failLoad_handles s h f

/-- A load that ends leaves the flash alone, also where it would have replaced the firmware. -/
theorem State.endLoad_flashImage : (s.endLoad h f).security.flashImage = s.security.flashImage := by
  unfold State.endLoad
  split
  · rw [State.dropFirmware, State.failLoad_security]
    rfl
  · rw [State.failLoad_security]

/-- Loads ended one after another leave no load open that carries one of their numbers. -/
theorem State.foldl_endLoad_handles (fault : LoadHandle → LoadFault) (hs : List LoadHandle) :
    (hs.foldl (fun t h => t.endLoad h (fault h)) s).objects.handles =
      s.objects.handles.filter fun x => hs.all fun h => x.handle != h.handle := by
  induction hs generalizing s with
  | nil => exact (List.filter_true _).symm
  | cons h hs ih =>
    rw [List.foldl_cons, ih, State.endLoad_handles, List.filter_filter]
    exact List.filter_congr fun x _ => by rw [List.all_cons, Bool.and_comm]

theorem State.interruptLoads_handles : s.interruptLoads.objects.handles = [] := by
  rw [State.interruptLoads, State.foldl_endLoad_handles, List.filter_eq_nil_iff]
  intro x hx kept
  exact absurd (List.all_eq_true.1 kept x hx) (by simp)

theorem State.interruptLoads_flashImage : s.interruptLoads.security.flashImage = s.security.flashImage :=
  List.foldlRecOn (motive := fun t : State => t.security.flashImage = s.security.flashImage) _ _ rfl
    fun t ht h _ => (t.endLoad_flashImage h _).trans ht

theorem State.interruptLoads_touches :
    OnlyTouches [.tielux, .objects, .transport, .streams, .audit, .security] s s.interruptLoads :=
  (State.interruptLoads_kept (Kept.refl s) (List.Subset.refl _)).frame

theorem State.interruptLoads_settings : s.interruptLoads.journal.settings = s.journal.settings :=
  (s.interruptLoads_touches.same .settings (by decide)).1

theorem State.interruptLoads_config : s.interruptLoads.config = s.config := by
  have numbers := (s.interruptLoads_touches.same .events (by decide)).2
  have others := (s.interruptLoads_touches.same .config (by decide)).2
  simp only [Part.sameConfig, Prod.mk.injEq] at numbers
  rw [others, numbers.1, numbers.2]

theorem State.interruptLoads_hubStarts : s.interruptLoads.journal.hubStarts = s.journal.hubStarts :=
  congrArg (fun x => x.2.2.2.2.2) (s.interruptLoads_touches.same .starts (by decide)).1

end Loads

/-! ### What is loaded, checked and cleared (R5, R498) -/

section Stages

variable (s : State)

/-- The hub start up to its verdicts on the record and on the firmware. -/
def State.loadAndCheck : State := s.interruptLoads.clearHubCounts.startConfig.startFirmware

/-- What follows the verdicts: the journal, the identity, SHED. -/
def State.openJournal : State := s.startJournal.startIdentity.startShed

/-- The record in force after a hub start: the one written last (R561). -/
def State.recordDue : Bytes := s.config.next.getD s.config.record

/-- Does the flash image pass the boot ROM's check (R496). -/
def State.flashPasses : Bool := firmwareOk s.journal.settings.minSecurityVersion s.security.flashImage

/-- The configuration once the record and the flash image are checked: the rest of it stands. -/
theorem State.loadAndCheck_config : s.loadAndCheck.config =
    { s.config with
      record := s.recordDue, next := none, writing := none, configOk := configVerifies s.recordDue, hubOnly := !configVerifies s.recordDue,
      bootRom := !s.flashPasses, startFault := startFaultOf (!configVerifies s.recordDue) (!s.flashPasses),
      hubStarted := true, hubUnusable := false, eventNext := 0, eventsHeld := 0 } := by
  rw [State.recordDue, State.flashPasses, ← s.interruptLoads_config, ← s.interruptLoads_settings, ← s.interruptLoads_flashImage]
  rfl

theorem State.loadAndCheck_firmware : s.loadAndCheck.security.firmware = if s.flashPasses then s.security.flashImage else [] := by
  rw [State.flashPasses, ← s.interruptLoads_settings, ← s.interruptLoads_flashImage]
  rfl

theorem State.loadAndCheck_handles : s.loadAndCheck.objects.handles = [] := s.interruptLoads_handles

theorem State.loadAndCheck_hubStarts : s.loadAndCheck.journal.hubStarts = s.journal.hubStarts := s.interruptLoads_hubStarts

theorem State.loadAndCheck_entropy : s.loadAndCheck.entropy = {} := rfl

theorem State.loadAndCheck_nextSession : s.loadAndCheck.transport.nextSession = 1 := rfl

theorem State.loadAndCheck_rxDropped : s.loadAndCheck.port.rxDropped = 0 := rfl

/-! ### The journal, the identity and SHED -/

/-- The identity and the claim key come from the record in force; an event of an identity that fails leaves both as they are (R493). -/
theorem State.startIdentity_security : s.startIdentity.security =
    { s.security with
      identityOk := Config.identityUnwraps s.identityBlob,
      claimKey := if Config.identityUnwraps s.identityBlob then Config.claimKey s.identityBlob else [] } := by
  unfold State.startIdentity
  dsimp only
  split <;> rfl

/-- An event's packets open no session. -/
theorem State.log_nextSession (e : EventSpec) : (s.log e).transport.nextSession = s.transport.nextSession := rfl

theorem State.startIdentity_nextSession : s.startIdentity.transport.nextSession = s.transport.nextSession := by
  unfold State.startIdentity
  dsimp only
  split
  · rfl
  · exact State.log_nextSession _ _

theorem State.startShed_nextSession : s.startShed.transport.nextSession = s.transport.nextSession := by
  unfold State.startShed
  split
  · rw [State.onPower_transport, State.log_nextSession]
  · rfl

theorem State.startShed_security : s.startShed.security = s.security :=
  (State.startShed_kept (Kept.refl s) (List.Subset.refl _)).frame.same .security (by decide)

theorem State.openJournal_touches : OnlyTouches [.transport, .events, .starts, .headers, .power, .security] s s.openJournal :=
  (State.startShed_kept (State.startIdentity_kept (State.startJournal_kept (Kept.refl s) (by decide)) (by decide)) (by decide)).frame

theorem State.openJournal_nextSession : s.openJournal.transport.nextSession = s.transport.nextSession :=
  (State.startShed_nextSession _).trans (State.startIdentity_nextSession _)

theorem State.openJournal_firmware : s.openJournal.security.firmware = s.security.firmware := by
  rw [State.openJournal, State.startShed_security, State.startIdentity_security]
  rfl

theorem State.openJournal_identityOk : s.openJournal.security.identityOk = Config.identityUnwraps s.identityBlob := by
  rw [State.openJournal, State.startShed_security, State.startIdentity_security]
  rfl

/-- The start is counted once: the events of the identity and of SHED leave the count alone. -/
theorem State.openJournal_hubStarts : s.openJournal.journal.hubStarts = satAdd 32 s.journal.hubStarts 1 := by
  have counted : Kept [.transport, .events, .headers, .power, .security] s.startJournal s.openJournal :=
    State.startShed_kept (State.startIdentity_kept (Kept.refl _) (by decide)) (by decide)
  exact congrArg (fun x => x.2.2.2.2.2) (counted.frame.same .starts (by decide)).1

/-! ### The start as a whole -/

/-- The hub may start: it has VHUB, is not READY and does not shed. -/
def State.Starts : Prop := s.config.hubReady = false ∧ s.power.vhubOn = true ∧ s.power.shedding = false

variable {s}

theorem State.hubStart_of_not_starts (h : ¬s.Starts) : s.hubStart = s := by
  unfold State.hubStart
  refine if_pos ?_
  by_contra idle
  exact h (by simpa [State.Starts, and_assoc] using idle)

/-- After the journal only the core maps are built, on a module whose record verified. -/
theorem State.hubStart_touches_of_starts (h : s.Starts) : OnlyTouches [.clusters, .halves] s.loadAndCheck.openJournal s.hubStart := by
  obtain ⟨ready, vhub, shed⟩ := h
  have run : s.hubStart = if s.loadAndCheck.openJournal.config.hubOnly then s.loadAndCheck.openJournal
      else s.loadAndCheck.openJournal.bringMaps (List.range 384) := by
    rw [State.hubStart, ready, vhub, shed]
    rfl
  rw [run]
  split
  · exact OnlyTouches.refl _ _
  · exact (State.bringMaps_kept _ (Kept.refl _) (List.Subset.refl _)).frame

/-- From the verdicts on, memory, the open loads, the counters of the port, the entropy block and the configuration stand. -/
theorem State.hubStart_touches_loadAndCheck (h : s.Starts) :
    OnlyTouches [.clusters, .halves, .transport, .events, .starts, .headers, .power, .security] s.loadAndCheck s.hubStart :=
  (s.loadAndCheck.openJournal_touches.mono (by decide)).trans ((State.hubStart_touches_of_starts h).mono (by decide))

/-- The configuration after a start: events logged during it take numbers, the rest stands as it was checked. -/
theorem State.hubStart_config (h : s.Starts) : s.hubStart.config =
    { s.config with
      record := s.recordDue, next := none, writing := none, configOk := configVerifies s.recordDue, hubOnly := !configVerifies s.recordDue,
      bootRom := !s.flashPasses, startFault := startFaultOf (!configVerifies s.recordDue) (!s.flashPasses),
      hubStarted := true, hubUnusable := false,
      eventNext := s.hubStart.config.eventNext, eventsHeld := s.hubStart.config.eventsHeld } := by
  have stands := ((State.hubStart_touches_loadAndCheck h).same .config (by decide)).2
  exact stands.trans (by rw [State.loadAndCheck_config])

theorem State.hubStart_security (h : s.Starts) : s.hubStart.security = s.loadAndCheck.openJournal.security :=
  (State.hubStart_touches_of_starts h).same .security (by decide)

theorem State.hubStart_firmware (h : s.Starts) : s.hubStart.security.firmware = if s.flashPasses then s.security.flashImage else [] := by
  rw [State.hubStart_security h, State.openJournal_firmware, State.loadAndCheck_firmware]

/-- The identity is unwrapped from the record that is in force after the start. -/
theorem State.hubStart_identityOk (h : s.Starts) : s.hubStart.security.identityOk = Config.identityUnwraps s.hubStart.identityBlob := by
  rw [State.hubStart_security h, State.openJournal_identityOk, State.identityBlob, State.identityBlob, State.hubStart_config h,
    State.loadAndCheck_config]

theorem State.hubStart_hubStarts (h : s.Starts) : s.hubStart.journal.hubStarts = satAdd 32 s.journal.hubStarts 1 := by
  have stands : s.hubStart.journal.hubStarts = s.loadAndCheck.openJournal.journal.hubStarts :=
    congrArg (fun x => x.2.2.2.2.2) ((State.hubStart_touches_of_starts h).same .starts (by decide)).1
  rw [stands, State.openJournal_hubStarts, State.loadAndCheck_hubStarts]

theorem State.hubStart_nextSession (h : s.Starts) : s.hubStart.transport.nextSession = 1 := by
  have stands : s.hubStart.transport = s.loadAndCheck.openJournal.transport :=
    (State.hubStart_touches_of_starts h).same .transport (by decide)
  rw [stands, State.openJournal_nextSession, State.loadAndCheck_nextSession]

theorem State.hubStart_handles (h : s.Starts) : s.hubStart.objects.handles = [] :=
  (congrArg ObjectStore.handles ((State.hubStart_touches_loadAndCheck h).same .objects (by decide))).trans s.loadAndCheck_handles

theorem State.hubStart_entropy (h : s.Starts) : s.hubStart.entropy = {} :=
  ((State.hubStart_touches_loadAndCheck h).same .entropy (by decide)).trans s.loadAndCheck_entropy

theorem State.hubStart_rxDropped (h : s.Starts) : s.hubStart.port.rxDropped = 0 :=
  (congrArg Port.rxDropped ((State.hubStart_touches_loadAndCheck h).same .port (by decide))).trans s.loadAndCheck_rxDropped

/-- START_FAULT names the record's failure before the firmware's (log entry 69). -/
theorem startFaultOf_not (record flash : Bool) :
    startFaultOf (!record) (!flash) = if record = false then 0x0611 else if flash = false then 0x060F else 0 := by
  cases record <;> cases flash <;> rfl

end Stages

/-- The parts that HUB_START may touch. -/
theorem State.hubStart_touches (s : State) : OnlyTouches (touches .hubStart) s s.hubStart :=
  (State.hubStart_kept (Kept.refl s) (List.Subset.refl _)).frame

/-- Settles O33: what a start leaves alone comes from the frames of its stages, what it sets from their equations. When HUB_START acts, and
that 0x0611 comes before 0x060F in START_FAULT, is log entry 69 of the model. -/
theorem hubStarts : Obligations.HubStarts := by
  intro s
  refine ⟨s.hubStart, rfl, State.hubStart_of_not_starts, fun h : s.Starts => ?_⟩
  have config := State.hubStart_config h
  have frame := s.hubStart_touches
  exact ⟨congrArg Config.record config, congrArg Config.next config, congrArg Config.hubOnly config, congrArg Config.bootRom config,
    (congrArg Config.startFault config).trans (startFaultOf_not _ _), State.hubStart_firmware h, State.hubStart_identityOk h,
    congrArg Config.hubStarted config, (congrArg Config.hubReady config).trans h.1, State.hubStart_handles h, State.hubStart_entropy h,
    State.hubStart_hubStarts h, State.hubStart_nextSession h, State.hubStart_rxDropped h, frame.same .mem (by decide),
    congrArg Prod.fst (frame.same .keys (by decide)).1, (frame.same .settings (by decide)).1⟩

/-! ### A hub that starts, and one that stands -/

/-- A module with VHUB whose hub is not READY, with a record written for the next start and two loads open under one number. -/
def startDue : State :=
  let load : LoadHandle := { handle := 1, sess := 1, owner := [], req := 1, body := { kind := 1, layout := 0, size := 4, digest := [] }, got := [0] }
  { State.reset with
    power := { State.reset.power with vhubOn := true }, config := { State.reset.config with next := some [1] },
    objects := { handles := [load, { load with body := { load.body with kind := 3 } }] } }

theorem startDue_starts : startDue.Starts := ⟨rfl, rfl, rfl⟩

/-- The start of that hub takes the new record and ends both loads. -/
theorem startDue_hubStart : startDue.hubStart.config.record = [1] ∧ startDue.hubStart.config.next = none ∧
    startDue.hubStart.objects.handles = [] :=
  ⟨congrArg Config.record (State.hubStart_config startDue_starts), congrArg Config.next (State.hubStart_config startDue_starts),
    State.hubStart_handles startDue_starts⟩

/-- Without VHUB the same hub stands, and its loads stay open. -/
theorem startDue_stands_without_vhub :
    let s : State := { startDue with power := { startDue.power with vhubOn := false } }
    s.hubStart = s ∧ s.objects.handles.length = 2 :=
  ⟨State.hubStart_of_not_starts fun h => absurd h.2.1 (by decide), rfl⟩

end Sys2Proof.Machine

/-! PROOF of O41: LOAD, RELEASE, BULK and the symmetry pass. Each operation of Machine/Loads.lean has an equation for each of its cases; what a
record says comes from the rule of the stream that takes it, and what an operation leaves alone from the frames of Laws/Kept.lean. -/

namespace Sys2Proof.Safety

open Sys2Proof Sys2Proof.Machine

variable {A : List Part} {s t : State}

theorem OnlyTouches.stream (h : OnlyTouches A s t) (hA : .streams ∉ A) (fpr : Bytes) : t.stream fpr = s.stream fpr := by
  have streams : t.journal.streams = s.journal.streams := congrArg (·.1) (h.same .streams hA).1
  rw [State.stream, State.stream, streams]

theorem OnlyTouches.reservations (h : OnlyTouches A s t) (hA : .streams ∉ A) : t.journal.reservations = s.journal.reservations :=
  congrArg (·.2.1) (h.same .streams hA).1

end Sys2Proof.Safety

namespace Sys2Proof.Machine

open Sys2Proof Sys2Proof.Safety

/-! ### The first entry that satisfies a test -/

/-- An entry changed in place, so that it still satisfies the test, is found where it was. -/
theorem find?_modFirst {α : Type} {p : α → Bool} {f : α → α} (hf : ∀ a, p a = true → p (f a) = true) (l : List α) :
    (modFirst p f l).find? p = (l.find? p).map f := by
  induction l with
  | nil => rfl
  | cons a l ih =>
    cases ha : p a with
    | true => simp [modFirst, ha, hf a ha]
    | false => simp [modFirst, ha, ih]

/-! ### The stream that takes a record (R396 to R398) -/

section Streams

variable (s : State) (fpr : Bytes)

/-- A stream changed is read back changed, also where the journal had none. -/
theorem State.stream_modStream {f : Stream → Stream} (hf : ∀ x, (f x).fpr = x.fpr) : (s.modStream fpr f).stream fpr = f (s.stream fpr) := by
  have keeps : ∀ x : Stream, (x.fpr == fpr) = true → ((f x).fpr == fpr) = true := fun x hx => by rw [hf]; exact hx
  unfold State.stream State.modStream
  dsimp only
  split
  case isTrue held =>
    obtain ⟨x, hx⟩ := Option.isSome_iff_exists.1 (List.find?_isSome.2 (List.any_eq_true.1 held))
    rw [find?_modFirst keeps, hx]
    rfl
  case isFalse new =>
    have absent : s.journal.streams.find? (fun x => x.fpr == fpr) = none :=
      List.find?_eq_none.2 fun x hx h => new (List.any_eq_true.2 ⟨x, hx, h⟩)
    rw [List.find?_append, absent]
    simp [hf]

variable (want : Option Nat) (r : CompRecord)

theorem State.sendRecord_touches (id : Nat) : OnlyTouches [.transport] s (s.sendRecord id fpr r) :=
  (State.sendRecord_kept id fpr r (Kept.refl s) (List.Subset.refl _)).frame

/-- A completed record is the last of its stream, under the stream's next number. -/
theorem State.stream_complete : (s.complete fpr want r).stream fpr =
    { s.stream fpr with
      nextSeq := (s.stream fpr).nextSeq + 1,
      records := (s.stream fpr).records ++ [{ record := { r with seq := (s.stream fpr).nextSeq }, sentOn := s.recordSession fpr want }] } := by
  unfold State.complete
  dsimp only
  split
  · exact ((State.sendRecord_touches _ _ _ _).stream (by decide) fpr).trans (s.stream_modStream fpr (by exact fun _ => rfl))
  · exact s.stream_modStream fpr (by exact fun _ => rfl)

theorem State.complete_reservations : (s.complete fpr want r).journal.reservations = s.journal.reservations := by
  unfold State.complete
  dsimp only
  split
  · exact (State.sendRecord_touches _ _ _ _).reservations (by decide)
  · rfl

end Streams

section Accept

variable (s : State) (x : Session) (req job kib : Nat) (r : CompRecord)

/-- What an ACCEPT journals before its record: HIGH_MARK and the reservation. -/
def State.admitRequest : State :=
  (s.modStream x.fpr fun st => { st with highMark := req }).onJournal fun j =>
    { j with reservations := j.reservations ++ [{ owner := x.fpr, req := req, job := job, kib := kib }] }

theorem State.accept_eq : s.accept x req job kib r =
    (s.admitRequest x req job kib).complete x.fpr (some x.id) { r with req := req, kind := .accept } := rfl

theorem State.stream_admitRequest : (s.admitRequest x req job kib).stream x.fpr = { s.stream x.fpr with highMark := req } :=
  s.stream_modStream x.fpr (f := fun st => { st with highMark := req }) fun _ => rfl

theorem State.accept_highMark : ((s.accept x req job kib r).stream x.fpr).highMark = req := by
  rw [State.accept_eq, State.stream_complete, State.stream_admitRequest]

theorem State.accept_nextSeq : ((s.accept x req job kib r).stream x.fpr).nextSeq = (s.stream x.fpr).nextSeq + 1 := by
  rw [State.accept_eq, State.stream_complete, State.stream_admitRequest]

theorem State.accept_reservations : (s.accept x req job kib r).journal.reservations =
    s.journal.reservations ++ [{ owner := x.fpr, req := req, job := job, kib := kib }] := by
  rw [State.accept_eq, State.complete_reservations]
  rfl

theorem State.accept_touches : OnlyTouches [.transport, .streams] s (s.accept x req job kib r) :=
  (State.accept_kept x req job kib r (Kept.refl s) (List.Subset.refl _)).frame

end Accept

end Sys2Proof.Machine

/-! ### Records that tell -/

namespace Sys2Proof.Safety

open Sys2Proof Sys2Proof.Machine

variable {A : List Part} {s t u : State} {fpr : Bytes} {req : Nat} {kind : CompKind} {status : BitVec 16} {P : CompRecord → Prop}

/-- A record is still new to a state before the one it was new to. -/
theorem Told.of_le (h : Told s t fpr req kind status P) (hs : (u.stream fpr).nextSeq ≤ (s.stream fpr).nextSeq) :
    Told u t fpr req kind status P := by
  obtain ⟨r, held, new, rest⟩ := h
  exact ⟨r, held, Nat.le_trans hs new, rest⟩

/-- A record still stands while its stream drops none. -/
theorem Told.of_subset (h : Told s t fpr req kind status P) (ht : (t.stream fpr).records ⊆ (u.stream fpr).records) :
    Told s u fpr req kind status P := by
  obtain ⟨r, held, rest⟩ := h
  exact ⟨r, ht held, rest⟩

theorem Told.before (h : Told s t fpr req kind status P) (hs : OnlyTouches A u s) (hA : .streams ∉ A) : Told u t fpr req kind status P :=
  h.of_le (by rw [hs.stream hA])

theorem Told.after (h : Told s t fpr req kind status P) (ht : OnlyTouches A t u) (hA : .streams ∉ A) : Told s u fpr req kind status P :=
  h.of_subset (by rw [ht.stream hA]; exact List.Subset.refl _)

/-- A further record of the stream leaves the earlier ones there. -/
theorem Told.complete {want : Option Nat} {r : CompRecord} (h : Told s t fpr req kind status P) :
    Told s (t.complete fpr want r) fpr req kind status P :=
  h.of_subset (by rw [State.stream_complete]; exact List.subset_append_left _ _)

/-- The next record of a stream tells what it says. -/
theorem told_complete {want : Option Nat} {r : CompRecord} (hP : P { r with seq := (s.stream fpr).nextSeq }) :
    Told s (s.complete fpr want r) fpr r.req r.kind r.status P := by
  refine ⟨{ record := { r with seq := (s.stream fpr).nextSeq }, sentOn := s.recordSession fpr want }, ?_, Nat.le_refl _, rfl, rfl, rfl, hP⟩
  rw [State.stream_complete]
  exact List.mem_append_right _ (List.mem_singleton.2 rfl)

theorem told_refuse (x : Session) (req status d0 d1 : Nat) :
    Told s (s.refuse x req status d0 d1) x.fpr req .refused (BitVec.ofNat 16 status) :=
  told_complete (r := { blankRecord with req := req, kind := .refused, status := BitVec.ofNat 16 status, detail0 := BitVec.ofNat 64 d0,
                                         detail1 := BitVec.ofNat 64 d1 }) trivial

theorem told_done {want : Option Nat} (r : CompRecord) (hP : P { r with req := req, kind := .done, seq := (s.stream fpr).nextSeq }) :
    Told s (s.done fpr want req r) fpr req .done r.status P :=
  told_complete (r := { r with req := req, kind := .done }) hP

theorem told_accept {x : Session} {job kib : Nat} (r : CompRecord)
    (hP : P { r with req := req, kind := .accept, seq := (s.stream x.fpr).nextSeq }) :
    Told s (s.accept x req job kib r) x.fpr req .accept r.status P := by
  refine Told.of_le (s := s.admitRequest x req job kib) (told_complete ?_) ?_
  · rw [State.stream_admitRequest]
    exact hP
  · rw [State.stream_admitRequest]

end Sys2Proof.Safety

namespace Sys2Proof.Machine

open Sys2Proof Sys2Proof.Safety

/-! ### Frames are taken whatever waits in the transport (R280) -/

section Frames

variable (s : State) (g : Transport → Transport) (u : FrameUse) (prot : Bool)

theorem State.protectStripe_onTransport (t f : Nat) : (s.onTransport g).protectStripe t f = (s.protectStripe t f).onTransport g := by
  unfold State.protectStripe
  rw [show (s.onTransport g).stripeProtected t f = s.stripeProtected t f from rfl]
  split
  · rfl
  · exact congrArg (fun a : State => a.modFrame (s.parityStack t f) f fun e => e.taken .parity true)
      (List.foldl_hom (f := fun a : State => a.onTransport g) fun _ _ => rfl)

theorem State.takeFrame_onTransport (t f : Nat) : (s.onTransport g).takeFrame u prot t f = (s.takeFrame u prot t f).onTransport g := by
  unfold State.takeFrame
  cases prot with
  | true => exact congrArg (fun a : State => a.modFrame t f fun e => e.taken u true) (s.protectStripe_onTransport g t f)
  | false => rfl

theorem State.takePage_onTransport (t : Nat) :
    (s.onTransport g).takePage u prot t = (s.takePage u prot t).map fun r => (r.1.onTransport g, r.2) := by
  unfold State.takePage
  rw [Option.map_map, show (s.onTransport g).canTake prot t = s.canTake prot t from rfl]
  exact congrArg (fun k => (allFrames.find? fun f => s.canTake prot t f).map k)
    (funext fun f => congrArg (fun a : State => (a, ({ stack := t, frame := f } : PageRef))) (s.takeFrame_onTransport g u prot t f))

theorem State.takeFrom_onTransport (ts : List Nat) :
    (s.onTransport g).takeFrom u prot ts = (s.takeFrom u prot ts).map fun r => (r.1.onTransport g, r.2) := by
  induction ts with
  | nil => simp [State.takeFrom]
  | cons t ts ih =>
    rw [State.takeFrom, State.takeFrom, State.takePage_onTransport]
    cases s.takePage u prot t with
    | none => exact ih
    | some r => rfl

theorem State.takeHashedAll_onTransport (salt n p : Nat) :
    (s.onTransport g).takeHashedAll u prot salt n p = (s.takeHashedAll u prot salt n p).map fun r => (r.1.onTransport g, r.2) := by
  induction n generalizing s p with
  | zero => rfl
  | succ n ih =>
    rw [State.takeHashedAll, State.takeHashedAll, State.takeFrom_onTransport]
    cases s.takeFrom u prot (stacksFrom (hashStack (Config.pageStack salt p))) with
    | none => rfl
    | some r =>
      dsimp only [Option.map_some]
      rw [ih, Option.map_map, Option.map_map]
      rfl

theorem State.drawSalt_onTransport : (s.onTransport g).drawSalt = (s.drawSalt.1, s.drawSalt.2.onTransport g) := by
  unfold State.drawSalt State.transportRandom
  rw [show (s.onTransport g).drbgGives = s.drbgGives from rfl]
  split <;> rfl

/-- The frames of a load do not turn on what the transport holds. -/
theorem State.loadPages_onTransport (b : LoadBody) (repair : Bool) :
    (s.onTransport g).loadPages b repair = (s.loadPages b repair).map fun r => (r.1.onTransport g, r.2) := by
  unfold State.loadPages
  split
  · rfl
  · simp only [State.takeSalted, State.takeHashed, State.drawSalt_onTransport, State.takeHashedAll_onTransport]

theorem State.loadPages_popInbox_isSome (sess : Nat) (b : LoadBody) (repair : Bool) :
    ((s.popInbox sess).loadPages b repair).isSome = (s.loadPages b repair).isSome :=
  (congrArg Option.isSome (s.loadPages_onTransport (fun _ => (s.popInbox sess).transport) b repair)).trans Option.isSome_map

end Frames

/-! ### A fresh command (R395, R478) -/

section Commands

variable {s : State}

theorem State.command_of_fresh {h : CmdHead} {x : Session} (fresh : Fresh s h x) (body : State → Session → State) :
    s.command h.sess h.req body = body (s.popInbox h.sess) x := by
  obtain ⟨session, role, above⟩ := fresh
  simp [State.command, session, role, Nat.not_le.2 above]

end Commands

/-! ### LOAD (R71, R404, R405, R478) -/

section Load

variable {s : State} {x : Session} {req : Nat} {b : LoadBody}

/-- The roles that may load, release and submit (R478). -/
def Session.IsHost (x : Session) : Prop := x.role = .operator ∨ x.role = .installer

theorem Session.IsHost.checked (h : x.IsHost) : (x.role == .operator || x.role == .installer) = true := by
  simpa [Session.IsHost] using h

theorem State.loadFault_of_role (h : ¬x.IsHost) : s.loadFault x b = some ⟨0x0601, 0, 0⟩ := by
  obtain ⟨operator, installer⟩ := not_or.1 h
  simp [State.loadFault, firstFault, needs, operator, installer]

theorem State.loadFault_of_form (h : x.IsHost) (hb : 3 < b.kind ∨ 1 < b.layout) : s.loadFault x b = some ⟨0x010F, 0, 0⟩ := by
  have form : ¬(b.kind ≤ 3 ∧ b.layout ≤ 1) := by omega
  simp [State.loadFault, firstFault, needs, h.checked, form]

/-- Once a plain load keeps role and form and the firmware runs, only the room in the job area is left to check. -/
theorem State.loadFault_of_plain (h : x.IsHost) (kind : b.kind ≤ 2) (layout : b.layout ≤ 1) (runs : s.config.bootRom = false) :
    s.loadFault x b = s.roomFault 1 := by
  have form : b.kind ≤ 3 ∧ b.layout ≤ 1 := ⟨by omega, layout⟩
  have plain : (b.kind == 3) = false := beq_false_of_ne (by omega)
  simp [State.loadFault, firstFault, needs, h.checked, form, plain, runs]

theorem State.loadFault_of_full (h : x.IsHost) (kind : b.kind ≤ 2) (layout : b.layout ≤ 1) (runs : s.config.bootRom = false)
    (full : s.areaFree = 0) : s.loadFault x b = some ⟨0x0106, 0, 0⟩ := by
  rw [State.loadFault_of_plain h kind layout runs]
  simp [State.roomFault, needs, full]

theorem State.load_of_fault {status : Nat} (hf : s.loadFault x b = some ⟨status, 0, 0⟩) (hs : status ≠ 0x060E) :
    s.load x req b = s.refuse x req status := by
  simp [State.load, hf, hs]

/-- A LOAD of a model, a program or a data object that every check passes. -/
structure State.PlainLoad (s : State) (x : Session) (b : LoadBody) : Prop where
  kind : b.kind ≤ 2
  accepted : s.loadFault x b = none

theorem State.plainLoad_of (h : x.IsHost) (kind : b.kind ≤ 2) (layout : b.layout ≤ 1) (runs : s.config.bootRom = false)
    (room : 1 ≤ s.areaFree) : s.PlainLoad x b :=
  ⟨kind, by rw [State.loadFault_of_plain h kind layout runs]; simp [State.roomFault, needs, room]⟩

theorem State.PlainLoad.not_firmware (p : s.PlainLoad x b) : b.kind ≠ 3 := by
  have := p.kind
  omega

theorem State.load_of_full (p : s.PlainLoad x b) (new : s.object? b.digest = none) (full : 64 ≤ s.objects.handles.length) :
    s.load x req b = s.refuse x req 0x0107 := by
  simp [State.load, p.accepted, new, full, p.not_firmware]

theorem State.load_of_held (p : s.PlainLoad x b) {o : HeldObject} (held : s.object? b.digest = some o) (whole : o.damaged = false) :
    s.load x req b = s.alreadyHeld x req o := by
  simp [State.load, p.accepted, held, p.not_firmware, whole]

/-- The load that a new handle opens. -/
def State.newLoad (s : State) (x : Session) (req : Nat) (b : LoadBody) (ps : List PageRef) : LoadHandle :=
  { handle := s.objects.nextHandle, sess := x.id, owner := x.fpr, req := req, body := b, pages := ps }

/-- A load put among the open ones. -/
def State.withLoad (s : State) (h : LoadHandle) : State :=
  s.onObjects fun o => { o with handles := o.handles ++ [h], nextHandle := h.handle + 1 }

/-- The ACCEPT of a load: its handle stands in DETAIL0. -/
def LoadHandle.acceptRecord (h : LoadHandle) : CompRecord := { blankRecord with detail0 := BitVec.ofNat 64 h.handle }

/-- The load opened and its command accepted. -/
def State.acceptLoad (s : State) (x : Session) (h : LoadHandle) : State := (s.withLoad h).accept x h.req 0 1 h.acceptRecord

theorem State.openHandle_of_plain (plain : b.kind ≠ 3) (size : b.size ≠ 0) (ps : List PageRef) :
    s.openHandle x req b false ps = s.acceptLoad x (s.newLoad x req b ps) := by
  unfold State.openHandle
  dsimp only
  rw [if_neg plain, if_neg size]
  rfl

theorem State.loadPages_touches {r : State × List PageRef} (pages : s.loadPages b false = some r) :
    OnlyTouches [.tielux, .entropy, .free] s r.1 :=
  (State.loadPages_kept (v := r.2) (Kept.refl s) pages (List.Subset.refl _)).frame

/-- A new object's load takes its frames, its handle and its reservation. -/
theorem State.load_of_new (p : s.PlainLoad x b) (new : s.object? b.digest = none) (free : s.objects.handles.length < 64) (size : b.size ≠ 0)
    (pages : (s.loadPages b false).isSome) :
    ∃ t ps, OnlyTouches [.tielux, .entropy, .free] s t ∧ s.load x req b = t.acceptLoad x (s.newLoad x req b ps) := by
  obtain ⟨r, taken⟩ := Option.isSome_iff_exists.1 pages
  have touches := State.loadPages_touches taken
  have handle : r.1.newLoad x req b r.2 = s.newLoad x req b r.2 := by rw [State.newLoad, touches.same .objects (by decide)]; rfl
  refine ⟨r.1, r.2, touches, ?_⟩
  rw [← handle, ← State.openHandle_of_plain p.not_firmware size]
  simp [State.load, p.accepted, new, p.not_firmware, Nat.not_le.2 free, taken]

theorem State.acceptLoad_objects (h : LoadHandle) : (s.acceptLoad x h).objects = (s.withLoad h).objects :=
  ((s.withLoad h).accept_touches x h.req 0 1 h.acceptRecord).same .objects (by decide)

theorem told_acceptLoad (h : LoadHandle) :
    Told s (s.acceptLoad x h) x.fpr h.req .accept 0 fun r => r.detail0 = BitVec.ofNat 64 h.handle := by
  have accepted : Told (s.withLoad h) (s.acceptLoad x h) x.fpr h.req .accept 0 fun r => r.detail0 = BitVec.ofNat 64 h.handle :=
    told_accept h.acceptRecord rfl
  exact accepted

/-- A held object marked as released by the host, or as wanted again (R71, R72). -/
def State.markReleased (s : State) (d : Bytes) (released : Bool) : State :=
  s.onObjects fun o => { o with held := modFirst (fun y => y.digest == d) (fun y => { y with released := released }) o.held }

theorem State.markReleased_object? (d : Bytes) (released : Bool) :
    (s.markReleased d released).object? d = (s.object? d).map fun o => { o with released := released } :=
  find?_modFirst (p := fun y : HeldObject => y.digest == d) (f := fun y => { y with released := released }) (fun _ h => h) s.objects.held

theorem State.alreadyHeld_eq (o : HeldObject) : s.alreadyHeld x req o =
    (((s.markReleased o.digest false).accept x req 0 1 { blankRecord with flags := loadFlags false false true }).done x.fpr (some x.id) req
      { blankRecord with flags := loadFlags o.asymmetric o.sameColour true, digest := o.digest }).wakeObligations := rfl

theorem State.alreadyHeld_objects (o : HeldObject) : (s.alreadyHeld x req o).objects = (s.markReleased o.digest false).objects := by
  have kept : Kept [.jobs, .transport, .streams] (s.markReleased o.digest false) (s.alreadyHeld x req o) :=
    State.wakeObligations_kept (State.done_kept _ _ _ _ (State.accept_kept _ _ _ _ _ (Kept.refl _) (by decide)) (by decide)) (by decide)
  exact kept.frame.same .objects (by decide)

theorem State.wakeObligations_touches : OnlyTouches [.jobs] s s.wakeObligations :=
  (State.wakeObligations_kept (Kept.refl s) (List.Subset.refl _)).frame

theorem told_alreadyHeld_accept (o : HeldObject) : Told s (s.alreadyHeld x req o) x.fpr req .accept 0 := by
  have accepted : Told (s.markReleased o.digest false) _ x.fpr req .accept 0 :=
    told_accept (job := 0) (kib := 1) { blankRecord with flags := loadFlags false false true } trivial
  exact accepted.complete.after State.wakeObligations_touches (by decide)

theorem loadFlags_alreadyHeld (asym same : Bool) : (loadFlags asym same true).getLsbD 12 = true := by
  cases asym <;> cases same <;> decide

theorem told_alreadyHeld_done (o : HeldObject) :
    Told s (s.alreadyHeld x req o) x.fpr req .done 0 fun r => r.digest = o.digest ∧ r.flags.getLsbD 12 = true := by
  rw [State.alreadyHeld_eq]
  refine Told.after (Told.of_le (told_done _ ⟨rfl, loadFlags_alreadyHeld _ _⟩) ?_) State.wakeObligations_touches (by decide)
  rw [State.accept_nextSeq]
  exact Nat.le_succ (s.stream x.fpr).nextSeq

theorem State.digest_of_object? {d : Bytes} {o : HeldObject} (held : s.object? d = some o) : o.digest = d := by
  simpa using List.find?_some held

theorem State.alreadyHeld_object? {d : Bytes} {o : HeldObject} (held : s.object? d = some o) :
    (s.alreadyHeld x req o).object? d = some { o with released := false } := by
  have marked : (s.alreadyHeld x req o).object? d = (s.markReleased d false).object? d := by
    rw [State.object?, State.alreadyHeld_objects, State.digest_of_object? held, State.object?]
  rw [marked, State.markReleased_object?, held]
  rfl

end Load

/-! ### RELEASE (R72, R404, R478) -/

section Release

variable {s : State} {x : Session} {req : Nat} {d : Bytes} {o : HeldObject}

/-- A job that has not ended refers to an object. -/
def State.InUse (s : State) (d : Bytes) : Prop := ∃ e ∈ s.jobList, e.2.state ≠ .ended ∧ e.2.refersTo d = true

/-- A released object that no job needs any more (R72). -/
def State.unused (s : State) (o : HeldObject) : Bool :=
  o.released && !(s.jobList.filter fun e => e.2.state != .ended).any fun e => e.2.refersTo o.digest

theorem State.unused_iff : s.unused o = true ↔ o.released = true ∧ ¬s.InUse o.digest := by
  simp [State.unused, State.InUse]

theorem State.dropReleased_held : s.dropReleased.objects.held = s.objects.held.filter fun o => !s.unused o := by
  have objects := ((State.freePages_kept ((s.objects.held.filter s.unused).flatMap (·.pages)) (Kept.refl s) (List.Subset.refl _)).frame).same
    .objects (by decide)
  exact congrArg (fun y : ObjectStore => y.held.filter fun o => !s.unused o) objects

theorem State.dropReleased_touches : OnlyTouches [.tielux, .objects] s s.dropReleased :=
  (State.dropReleased_kept (Kept.refl s) (List.Subset.refl _)).frame

/-- An object that a job needs is still found under its digest. -/
theorem State.dropReleased_object? (used : s.InUse d) : s.dropReleased.object? d = s.object? d := by
  rw [State.object?, State.dropReleased_held, List.find?_filter, State.object?]
  refine congrArg (fun p => s.objects.held.find? p) (funext fun o => ?_)
  cases same : o.digest == d with
  | false => simp
  | true =>
    have kept : s.unused o = false := Bool.eq_false_iff.2 fun h => (State.unused_iff.1 h).2 ((beq_iff_eq.1 same) ▸ used)
    simp [kept]

theorem State.dropReleased_unused (free : ¬s.InUse d) : ∀ y ∈ s.dropReleased.objects.held, ¬(y.digest = d ∧ y.released = true) := by
  rintro y hy ⟨rfl, released⟩
  rw [State.dropReleased_held] at hy
  have kept : s.unused y = false := by simpa using (List.mem_filter.1 hy).2
  exact absurd (State.unused_iff.2 ⟨released, free⟩) (by simp [kept])

theorem State.releaseFault_none (role : x.IsHost) (runs : s.config.bootRom = false) (held : s.object? d = some o) (wanted : o.released = false)
    (own : o.owner = x.fpr ∨ x.role = .installer) (room : 1 ≤ s.areaFree) : s.releaseFault x d = none := by
  have may : (x.role == .installer || o.owner == x.fpr) = true := by simpa [or_comm] using own
  simp [State.releaseFault, State.roleFault, State.roomFault, firstFault, needs, role.checked, runs, held, wanted, may, room]

/-- An object given up and its command accepted, before what is unused is dropped. -/
def State.giveUp (s : State) (x : Session) (req : Nat) (d : Bytes) : State := (s.markReleased d true).accept x req 0 1 blankRecord

theorem State.releaseObject_of_may (may : s.releaseFault x d = none) : s.releaseObject x req d = (s.giveUp x req d).dropReleased := by
  rw [State.releaseObject, may]
  rfl

theorem State.giveUp_object? : (s.giveUp x req d).object? d = (s.object? d).map fun o => { o with released := true } := by
  rw [← State.markReleased_object?, State.object?, State.object?, State.giveUp,
    ((s.markReleased d true).accept_touches x req 0 1 blankRecord).same .objects (by decide)]

theorem State.giveUp_inUse : (s.giveUp x req d).InUse d ↔ s.InUse d := by
  have jobs : (s.giveUp x req d).jobs = s.jobs := ((s.markReleased d true).accept_touches x req 0 1 blankRecord).same .jobs (by decide)
  rw [State.InUse, State.InUse, State.jobList, State.jobList, jobs]

theorem told_releaseObject (may : s.releaseFault x d = none) : Told s (s.releaseObject x req d) x.fpr req .accept 0 := by
  have accepted : Told (s.markReleased d true) (s.giveUp x req d) x.fpr req .accept 0 := told_accept blankRecord trivial
  rw [State.releaseObject_of_may may]
  exact accepted.after State.dropReleased_touches (by decide)

theorem State.releaseObject_of_inUse (may : s.releaseFault x d = none) (held : s.object? d = some o) (used : s.InUse d) :
    (s.releaseObject x req d).object? d = some { o with released := true } := by
  rw [State.releaseObject_of_may may, State.dropReleased_object? (State.giveUp_inUse.2 used), State.giveUp_object?, held]
  rfl

theorem State.releaseObject_of_unused (may : s.releaseFault x d = none) (free : ¬s.InUse d) :
    ∀ y ∈ (s.releaseObject x req d).objects.held, ¬(y.digest = d ∧ y.released = true) := by
  rw [State.releaseObject_of_may may]
  exact State.dropReleased_unused fun used => free (State.giveUp_inUse.1 used)

end Release

/-! ### A load that ends, and one that completes (R69, R71, R251, R405) -/

section Ends

variable {s : State} {h : LoadHandle} {f : LoadFault}

theorem State.closeHandle_handles : ∀ y ∈ (s.closeHandle h).objects.handles, y.handle ≠ h.handle := by
  intro y hy
  simpa using (List.mem_filter.1 hy).2

/-- A load ends with a status: its DONE says so, its handle is closed, and no object is held for it. -/
structure LoadEnds (s t : State) (h : LoadHandle) (status : Nat) : Prop where
  told : Told s t h.owner h.req .done (BitVec.ofNat 16 status)
  closed : ∀ y ∈ t.objects.handles, y.handle ≠ h.handle
  held : t.objects.held = s.objects.held

theorem LoadEnds.parts {t : State} {status : Nat} (e : LoadEnds s t h status) :
    Told s t h.owner h.req .done (BitVec.ofNat 16 status) ∧ (∀ y ∈ t.objects.handles, y.handle ≠ h.handle) ∧ t.objects.held = s.objects.held :=
  ⟨e.told, e.closed, e.held⟩

theorem LoadEnds.before {A : List Part} {t u : State} {status : Nat} (e : LoadEnds s t h status) (touches : OnlyTouches A u s)
    (streams : .streams ∉ A) (held : s.objects.held = u.objects.held) : LoadEnds u t h status :=
  ⟨e.told.before touches streams, e.closed, e.held.trans held⟩

theorem State.failLoad_ends : LoadEnds s (s.failLoad h f) h f.status := by
  have freed : OnlyTouches [.tielux] (s.closeHandle h) ((s.closeHandle h).freePages h.pages) :=
    (State.freePages_kept _ (Kept.refl _) (List.Subset.refl _)).frame
  have failed : OnlyTouches [.tielux, .transport, .streams] (s.closeHandle h) (s.failLoad h f) :=
    (State.done_kept _ _ _ _ (State.freePages_kept _ (Kept.refl _) (by decide)) (by decide)).frame
  have told : Told (s.closeHandle h) (s.failLoad h f) h.owner h.req .done (BitVec.ofNat 16 f.status) :=
    (told_done { blankRecord with status := BitVec.ofNat 16 f.status, detail0 := BitVec.ofNat 64 f.d0, detail1 := BitVec.ofNat 64 f.d1 }
      trivial).before freed (by decide)
  have objects : (s.failLoad h f).objects = (s.closeHandle h).objects := failed.same .objects (by decide)
  exact ⟨told, objects ▸ State.closeHandle_handles, by rw [objects]; rfl⟩

/-- Firmware given up is audited first; the load ends as any other. -/
theorem State.endLoad_ends : LoadEnds s (s.endLoad h f) h f.status := by
  unfold State.endLoad
  split
  · have audited : OnlyTouches [.audit, .security] s
        ((s.audit 1 1 0x0006 f.status h.owner h.body.digest).onSecurity fun x => { x with update := .idle }) :=
      (State.onSecurity_kept _ (State.audit_kept _ _ _ _ _ _ (Kept.refl s) (by decide)) (by decide)).frame
    exact State.failLoad_ends.before audited (by decide) rfl
  · exact State.failLoad_ends

/-- A load completes: its DONE says so, its handle is closed, and its bytes are held under its digest. -/
structure LoadHeld (s t : State) (h : LoadHandle) : Prop where
  closed : ∀ y ∈ t.objects.handles, y.handle ≠ h.handle
  told : Told s t h.owner h.req .done 0
  held : ∃ o ∈ t.objects.held, o.digest = h.body.digest ∧ o.kind = h.body.kind ∧ o.bytes = h.got ∧ o.released = false

theorem LoadHeld.parts {t : State} (e : LoadHeld s t h) :
    (∀ y ∈ t.objects.handles, y.handle ≠ h.handle) ∧ Told s t h.owner h.req .done 0 ∧
      ∃ o ∈ t.objects.held, o.digest = h.body.digest ∧ o.kind = h.body.kind ∧ o.bytes = h.got ∧ o.released = false :=
  ⟨e.closed, e.told, e.held⟩

theorem LoadHeld.before {A : List Part} {t u : State} (e : LoadHeld s t h) (touches : OnlyTouches A u s) (streams : .streams ∉ A) :
    LoadHeld u t h :=
  ⟨e.closed, e.told.before touches streams, e.held⟩

/-- The object that a complete load becomes. -/
def LoadHandle.object (h : LoadHandle) : HeldObject :=
  { kind := h.body.kind, digest := h.body.digest, bytes := h.got, protectedLayout := h.body.layout == 0, owner := h.owner,
    asymmetric := h.body.kind == 0 && imgAsym h.got, sameColour := h.body.kind == 0 && imageSameColour h.got, pages := h.pages }

/-- What is held once a load completes: its object, or, where one is held under its digest, that one, wanted again and, after a repair,
whole (R71, R264). -/
def State.shelve (s : State) (h : LoadHandle) : State :=
  match s.object? h.body.digest with
  | some old =>
    (if h.repair then s.closeHandle h else (s.closeHandle h).freePages h.pages).onObjects fun x =>
      { x with held := modFirst (fun y => y.digest == old.digest) (fun y => { y with released := false, damaged := y.damaged && !h.repair }) x.held }
  | none => (s.closeHandle h).onObjects fun x => { x with held := x.held ++ [h.object] }

/-- The DONE of a load that completes. -/
def State.heldRecord (s : State) (h : LoadHandle) : CompRecord :=
  { blankRecord with
    flags := loadFlags h.object.asymmetric h.object.sameColour (!h.repair && (s.object? h.body.digest).isSome), digest := h.body.digest }

theorem State.holdObject_eq :
    s.holdObject h = ((s.shelve h).done h.owner (some h.sess) h.req (s.heldRecord h)).wakeObligations := rfl

theorem State.holdObject_objects : (s.holdObject h).objects = (s.shelve h).objects := by
  have kept : Kept [.jobs, .transport, .streams] (s.shelve h) (s.holdObject h) := by
    rw [State.holdObject_eq]
    exact State.wakeObligations_kept (State.done_kept _ _ _ _ (Kept.refl _) (by decide)) (by decide)
  exact kept.frame.same .objects (by decide)

theorem State.shelve_touches : OnlyTouches [.tielux, .objects] s (s.shelve h) := by
  unfold State.shelve
  have closed : Kept [.tielux, .objects] s (s.closeHandle h) := State.closeHandle_kept h (Kept.refl s) (by decide)
  split
  · exact (State.onObjects_kept _ (Kept.ite closed (State.freePages_kept _ closed (by decide))) id (by decide)).frame
  · exact (State.onObjects_kept _ closed id (by decide)).frame

theorem State.shelve_handles : (s.shelve h).objects.handles = (s.closeHandle h).objects.handles := by
  have freed : ((s.closeHandle h).freePages h.pages).objects.handles = (s.closeHandle h).objects.handles :=
    congrArg ObjectStore.handles ((State.freePages_kept (A := [.tielux]) _ (Kept.refl _) (by decide)).frame.same .objects (by decide))
  unfold State.shelve
  split
  · split
    · rfl
    · exact freed
  · rfl

theorem State.holdObject_closed : ∀ y ∈ (s.holdObject h).objects.handles, y.handle ≠ h.handle := by
  rw [State.holdObject_objects, State.shelve_handles]
  exact State.closeHandle_handles

theorem told_holdObject : Told s (s.holdObject h) h.owner h.req .done 0 := by
  have told : Told (s.shelve h) _ h.owner h.req .done 0 := told_done (want := some h.sess) (s.heldRecord h) trivial
  rw [State.holdObject_eq]
  exact (told.before State.shelve_touches (by decide)).after State.wakeObligations_touches (by decide)

theorem State.object_mem_holdObject (new : s.object? h.body.digest = none) : h.object ∈ (s.holdObject h).objects.held := by
  rw [State.holdObject_objects, State.shelve, new]
  exact List.mem_append_right _ (List.mem_singleton.2 rfl)

theorem State.holdObject_held (new : s.object? h.body.digest = none) : LoadHeld s (s.holdObject h) h :=
  ⟨State.holdObject_closed, told_holdObject, h.object, State.object_mem_holdObject new, rfl, rfl, rfl, rfl⟩

end Ends

/-! ### The last byte of an object (R70, R405) -/

section Finish

variable {s : State} {h : LoadHandle}

theorem State.finishLoad_of_fault {f : LoadFault} (fault : s.objectFault h = some f) : s.finishLoad h = s.endLoad h f := by
  rw [State.finishLoad, fault]

/-- A load of a model whose symmetry waits for its own pass. -/
def State.awaitSymmetry (s : State) (h : LoadHandle) : State :=
  s.onObjects fun o => { o with handles := modFirst (fun x => x.handle == h.handle) (fun x => { x with symmetry := true }) o.handles }

theorem State.finishLoad_of_symmetric (sound : s.objectFault h = none) (model : h.body.kind = 0) (sym : imgAsym h.got = false) :
    s.finishLoad h = s.awaitSymmetry h := by
  simp [State.finishLoad, State.awaitSymmetry, sound, model, sym]

theorem State.finishLoad_of_complete (sound : s.objectFault h = none)
    (kind : h.body.kind = 1 ∨ h.body.kind = 2 ∨ h.body.kind = 0 ∧ imgAsym h.got = true) : s.finishLoad h = s.holdObject h := by
  rcases kind with kind | kind | ⟨kind, asym⟩
  · simp [State.finishLoad, sound, kind]
  · simp [State.finishLoad, sound, kind]
  · simp [State.finishLoad, sound, kind, asym]

/-- The checks of an object turn on the settings and the keys alone. -/
theorem State.objectFault_of_touches {A : List Part} {t : State} (touches : OnlyTouches A s t) (settings : .settings ∉ A) (keys : .keys ∉ A) :
    t.objectFault h = s.objectFault h := by
  have enrolled : t.journal.keys = s.journal.keys := congrArg (·.1) (touches.same .keys keys).1
  have inForce : t.journal.settings = s.journal.settings := (touches.same .settings settings).1
  rw [State.objectFault, State.objectFault, enrolled, inForce]

end Finish

/-! ### BULK (R406) -/

section Bulk

variable {s : State} {g : LoadHandle} {n offset : Nat} {data : Bytes}

/-- The open load that a handle names. -/
def State.loadOf? (s : State) (n : Nat) : Option LoadHandle := s.objects.handles.find? fun g => g.handle == n

theorem State.handle_of_loadOf? (named : s.loadOf? n = some g) : g.handle = n := by
  simpa using List.find?_some named

/-- A load with a further chunk. -/
def LoadHandle.grow (g : LoadHandle) (data : Bytes) : LoadHandle := { g with got := g.got ++ data }

/-- A chunk kept: in the frames of its object, and in its load. -/
def State.keepChunk (s : State) (g : LoadHandle) (offset : Nat) (data : Bytes) : State :=
  (s.storePages (s.loadFrames g) offset data).onObjects fun o =>
    { o with handles := modFirst (fun x => x.handle == g.handle) (fun _ => g.grow data) o.handles }

theorem State.storePages_touches (ps : List PageRef) : OnlyTouches [.tielux, .mem] s (s.storePages ps offset data) :=
  (State.storePages_kept ps offset data (Kept.refl s) (List.Subset.refl _)).frame

theorem State.keepChunk_objects : (s.keepChunk g offset data).objects =
    { s.objects with handles := modFirst (fun x => x.handle == g.handle) (fun _ => g.grow data) s.objects.handles } :=
  congrArg (fun o : ObjectStore => { o with handles := modFirst (fun x => x.handle == g.handle) (fun _ => g.grow data) o.handles })
    ((State.storePages_touches _).same .objects (by decide))

theorem State.keepChunk_touches : OnlyTouches [.tielux, .mem, .objects] s (s.keepChunk g offset data) :=
  (State.onObjects_kept _ (State.storePages_kept _ _ _ (Kept.refl s) (by decide)) (fun x => by rwa [length_modFirst])
    (by decide)).frame

theorem State.keepChunk_loadOf? (named : s.loadOf? n = some g) : (s.keepChunk g offset data).loadOf? n = some (g.grow data) := by
  obtain rfl := State.handle_of_loadOf? named
  rw [State.loadOf?, State.keepChunk_objects]
  exact (find?_modFirst (p := fun x : LoadHandle => x.handle == g.handle) (f := fun _ => g.grow data) (fun _ _ => beq_self_eq_true g.handle)
    _).trans (congrArg _ named)

theorem State.awaitSymmetry_loadOf? (named : s.loadOf? n = some g) : (s.awaitSymmetry g).loadOf? n = some { g with symmetry := true } := by
  obtain rfl := State.handle_of_loadOf? named
  exact (find?_modFirst (p := fun x : LoadHandle => x.handle == g.handle) (f := fun x => { x with symmetry := true }) (fun _ same => same) _).trans
    (congrArg _ named)

theorem State.bulkChunk_of_unnamed (bytes : data ≠ []) (named : s.loadOf? n = none) :
    s.bulkChunk n offset data = s.onTransport fun t => { t with bulkDiscarded := satAdd 32 t.bulkDiscarded 1 } := by
  rw [State.loadOf?] at named
  simp [State.bulkChunk, bytes, named]

theorem State.bulkChunk_of_gap (bytes : data ≠ []) (named : s.loadOf? n = some g) (gap : offset ≠ g.got.length) :
    s.bulkChunk n offset data = s.endLoad g ⟨0x010A, 0, 0⟩ := by
  rw [State.loadOf?] at named
  simp [State.bulkChunk, bytes, named, gap]

theorem State.bulkChunk_of_excess (bytes : data ≠ []) (named : s.loadOf? n = some g) (next : offset = g.got.length)
    (excess : g.body.size < (g.grow data).got.length) : s.bulkChunk n offset data = s.endLoad g ⟨0x010B, 0, 0⟩ := by
  rw [State.loadOf?] at named
  rw [LoadHandle.grow, List.length_append] at excess
  simp [State.bulkChunk, bytes, named, next, excess]

theorem State.bulkChunk_of_fits (bytes : data ≠ []) (named : s.loadOf? n = some g) (next : offset = g.got.length)
    (fits : (g.grow data).got.length ≤ g.body.size) :
    s.bulkChunk n offset data =
      if (g.grow data).got.length = g.body.size then (s.keepChunk g offset data).finishLoad (g.grow data) else s.keepChunk g offset data := by
  have room : ¬g.body.size < g.got.length + data.length := by
    rw [LoadHandle.grow, List.length_append] at fits
    omega
  obtain rfl := State.handle_of_loadOf? named
  rw [State.loadOf?] at named
  simp [State.bulkChunk, bytes, named, next, room, State.keepChunk, LoadHandle.grow]

theorem State.keepChunk_objectFault : (s.keepChunk g offset data).objectFault (g.grow data) = s.objectFault (g.grow data) :=
  State.objectFault_of_touches State.keepChunk_touches (by decide) (by decide)

theorem State.keepChunk_held : (s.keepChunk g offset data).objects.held = s.objects.held := by
  rw [State.keepChunk_objects]

theorem State.bulkChunk_gap_ends (bytes : data ≠ []) (named : s.loadOf? n = some g) (gap : offset ≠ g.got.length) :
    LoadEnds s (s.bulkChunk n offset data) g 0x010A := by
  rw [State.bulkChunk_of_gap bytes named gap]
  exact State.endLoad_ends (f := ⟨0x010A, 0, 0⟩)

theorem State.bulkChunk_excess_ends (bytes : data ≠ []) (named : s.loadOf? n = some g) (next : offset = g.got.length)
    (excess : g.body.size < (g.grow data).got.length) : LoadEnds s (s.bulkChunk n offset data) g 0x010B := by
  rw [State.bulkChunk_of_excess bytes named next excess]
  exact State.endLoad_ends (f := ⟨0x010B, 0, 0⟩)

/-- A chunk that leaves its object short changes nothing but the load and its frames. -/
theorem State.bulkChunk_of_part (bytes : data ≠ []) (named : s.loadOf? n = some g) (next : offset = g.got.length)
    (part : (g.grow data).got.length < g.body.size) : s.bulkChunk n offset data = s.keepChunk g offset data :=
  (State.bulkChunk_of_fits bytes named next part.le).trans (if_neg part.ne)

section Last

variable (bytes : data ≠ []) (named : s.loadOf? n = some g) (next : offset = g.got.length) (last : (g.grow data).got.length = g.body.size)
include bytes named next last

theorem State.bulkChunk_of_last : s.bulkChunk n offset data = (s.keepChunk g offset data).finishLoad (g.grow data) :=
  (State.bulkChunk_of_fits bytes named next last.le).trans (if_pos last)

theorem State.bulkChunk_fault_ends {f : LoadFault} (fault : s.objectFault (g.grow data) = some f) :
    LoadEnds s (s.bulkChunk n offset data) (g.grow data) f.status := by
  rw [State.bulkChunk_of_last bytes named next last, State.finishLoad_of_fault (State.keepChunk_objectFault.trans fault)]
  exact State.endLoad_ends.before State.keepChunk_touches (by decide) State.keepChunk_held

variable (sound : s.objectFault (g.grow data) = none)
include sound

theorem State.bulkChunk_complete_held (kind : g.body.kind = 1 ∨ g.body.kind = 2 ∨ g.body.kind = 0 ∧ imgAsym (g.grow data).got = true)
    (new : s.object? g.body.digest = none) : LoadHeld s (s.bulkChunk n offset data) (g.grow data) := by
  have absent : (s.keepChunk g offset data).object? g.body.digest = none := by rwa [State.object?, State.keepChunk_held]
  rw [State.bulkChunk_of_last bytes named next last, State.finishLoad_of_complete (State.keepChunk_objectFault.trans sound) kind]
  exact (State.holdObject_held (h := g.grow data) absent).before State.keepChunk_touches (by decide)

theorem State.bulkChunk_of_symmetric (model : g.body.kind = 0) (sym : imgAsym (g.grow data).got = false) :
    s.bulkChunk n offset data = (s.keepChunk g offset data).awaitSymmetry (g.grow data) := by
  rw [State.bulkChunk_of_last bytes named next last, State.finishLoad_of_symmetric (State.keepChunk_objectFault.trans sound) model sym]

end Last

theorem State.mem_of_loadOf? (named : s.loadOf? n = some g) : g ∈ s.objects.handles := List.mem_of_find?_eq_some named

end Bulk

/-! ### SYMMETRY_CHECK_DONE (R70) -/

section Symmetry

variable {s : State} {n : Nat} {g : LoadHandle}

theorem State.handle_of_symmetryDue (due : s.objects.handles.find? (fun g => g.handle == n && g.symmetry) = some g) : g.handle = n := by
  have named := List.find?_some due
  rw [Bool.and_eq_true] at named
  exact beq_iff_eq.1 named.1

theorem State.symmetryDone_fault_ends (due : s.objects.handles.find? (fun g => g.handle == n && g.symmetry) = some g) {f : LoadFault}
    (fault : imageSymmetryFault g.got = some f) : LoadEnds s (s.symmetryDone n) g f.status := by
  rw [State.symmetryDone, due]
  dsimp only
  rw [fault]
  exact State.failLoad_ends

theorem State.symmetryDone_of_sound (due : s.objects.handles.find? (fun g => g.handle == n && g.symmetry) = some g)
    (sound : imageSymmetryFault g.got = none) : s.symmetryDone n = s.holdObject g := by
  rw [State.symmetryDone, due]
  dsimp only
  rw [sound]

end Symmetry

/-! ### The four commands -/

section Settled

variable {s : State} {h : CmdHead} {x : Session}

theorem State.popInbox_touches (id : Nat) : OnlyTouches [.transport] s (s.popInbox id) :=
  (State.popInbox_kept id (Kept.refl s) (List.Subset.refl _)).frame

theorem execLoad_of_fresh (fresh : Fresh s h x) (b : LoadBody) : exec (.load h b) s = .next ((s.popInbox h.sess).load x h.req b) :=
  congrArg Host.Outcome.next (State.command_of_fresh fresh _)

theorem execRelease_of_fresh (fresh : Fresh s h x) (d : Bytes) :
    exec (.release h d) s = .next ((s.popInbox h.sess).releaseObject x h.req d) :=
  congrArg Host.Outcome.next (State.command_of_fresh fresh _)

theorem execBulk_of_open {sess : Nat} (session : s.openSession? sess = some x) (n offset : Nat) (data : Bytes) :
    exec (.bulk sess n offset data) s = .next ((s.popInbox sess).bulkChunk n offset data) :=
  congrArg Host.Outcome.next (if_pos (by rw [session]; rfl))

variable {req : Nat} {b : LoadBody}

/-- What an accepted LOAD of a new object leaves: one more handle, in DETAIL0 of the ACCEPT, and its reservation. -/
theorem State.load_opens (p : s.PlainLoad x b) (new : s.object? b.digest = none) (free : s.objects.handles.length < 64)
    (pages : (s.loadPages b false).isSome) (size : b.size ≠ 0) :
    let t := s.load x req b
    t.objects.nextHandle = s.objects.nextHandle + 1 ∧ t.objects.held = s.objects.held ∧ (t.stream x.fpr).highMark = req ∧
      Told s t x.fpr req .accept 0 (fun r => r.detail0 = BitVec.ofNat 64 s.objects.nextHandle) ∧
      t.journal.reservations = s.journal.reservations ++ [{ owner := x.fpr, req := req, job := 0, kib := 1 }] ∧
      ∃ g, t.objects.handles = s.objects.handles ++ [g] ∧ g.handle = s.objects.nextHandle ∧ g.owner = x.fpr ∧ g.body = b ∧ g.got = [] := by
  obtain ⟨a, ps, touches, accepted⟩ := State.load_of_new (req := req) p new free size pages
  have objects : (a.acceptLoad x (s.newLoad x req b ps)).objects = (s.withLoad (s.newLoad x req b ps)).objects := by
    rw [State.acceptLoad_objects, State.withLoad, State.onObjects_objects, touches.same .objects (by decide)]
    rfl
  dsimp only
  rw [accepted, objects]
  refine ⟨rfl, rfl, State.accept_highMark .., (told_acceptLoad _).before touches (by decide), ?_, s.newLoad x req b ps, rfl, rfl, rfl, rfl, rfl⟩
  exact (State.accept_reservations ..).trans (congrArg (· ++ _) (touches.reservations (by decide)))

theorem told_load_of_fault {status : Nat} (fault : s.loadFault x b = some ⟨status, 0, 0⟩) (other : status ≠ 0x060E) :
    Told s (s.load x req b) x.fpr req .refused (BitVec.ofNat 16 status) := by
  rw [State.load_of_fault fault other]
  exact told_refuse x req status 0 0

theorem told_load_of_full (p : s.PlainLoad x b) (new : s.object? b.digest = none) (full : 64 ≤ s.objects.handles.length) :
    Told s (s.load x req b) x.fpr req .refused 0x0107 := by
  rw [State.load_of_full p new full]
  exact told_refuse x req 0x0107 0 0

/-- What a LOAD of an object that is held leaves: no handle, an ACCEPT and a DONE, and the object wanted again. -/
theorem State.load_completes (p : s.PlainLoad x b) {o : HeldObject} (held : s.object? b.digest = some o) (whole : o.damaged = false) :
    let t := s.load x req b
    t.objects.handles = s.objects.handles ∧ Told s t x.fpr req .accept 0 ∧
      Told s t x.fpr req .done 0 (fun r => r.digest = o.digest ∧ r.flags.getLsbD 12 = true) ∧
      t.object? b.digest = some { o with released := false } := by
  dsimp only
  rw [State.load_of_held p held whole]
  exact ⟨by rw [State.alreadyHeld_objects]; rfl, told_alreadyHeld_accept o, told_alreadyHeld_done o,
    State.alreadyHeld_object? held⟩

theorem State.bulkChunk_discarded {n offset : Nat} {data : Bytes} (bytes : data ≠ []) (unnamed : s.loadOf? n = none) :
    (s.bulkChunk n offset data).transport.bulkDiscarded = satAdd 32 s.transport.bulkDiscarded 1 ∧
      OnlyTouches [.transport] s (s.bulkChunk n offset data) := by
  rw [State.bulkChunk_of_unnamed bytes unnamed]
  exact ⟨rfl, (State.onTransport_kept _ (Kept.refl s) (List.Subset.refl _)).frame⟩

end Settled

/-- Settles O41: each command from the equation of its case. A chunk or a command first leaves its session's inbox, which no check reads. That
an unknown KIND or LAYOUT is refused with 0x010F is log entry 37 of the model, that the frames are taken at LOAD log entry 38. -/
theorem objectLoads : Obligations.ObjectLoads := by
  unfold Obligations.ObjectLoads
  refine ⟨fun s h b x fresh => ?load, fun s h d x o fresh role runs held wanted own room => ?release,
    fun s sess n offset data x session bytes => ?bulk, fun s n g due => ?symmetry⟩
  case load =>
    let a := s.popInbox h.sess
    refine ⟨a.load x h.req b, execLoad_of_fresh fresh b, fun role => told_load_of_fault (s := a) (State.loadFault_of_role role) (by decide),
      fun role form => told_load_of_fault (s := a) (State.loadFault_of_form role form) (by decide),
      fun role kind layout runs full => told_load_of_fault (s := a) (State.loadFault_of_full role kind layout runs full) (by decide), ?_, ?_, ?_⟩
    · rintro ⟨role, kind, layout, runs, room⟩ new full
      exact told_load_of_full (s := a) (State.plainLoad_of role kind layout runs room) new full
    · rintro ⟨role, kind, layout, runs, room⟩ new free pages size
      exact State.load_opens (s := a) (State.plainLoad_of role kind layout runs room) new free
        ((s.loadPages_popInbox_isSome _ _ _).trans pages) size
    · rintro o ⟨role, kind, layout, runs, room⟩ held whole
      exact State.load_completes (s := a) (State.plainLoad_of role kind layout runs room) held whole
  case release =>
    have may := State.releaseFault_none (s := s.popInbox h.sess) role runs held wanted own room
    refine ⟨_, execRelease_of_fresh fresh d, told_releaseObject may, (execRelease_kept h d (execRelease_of_fresh fresh d)).frame,
      State.releaseObject_of_inUse may held, fun unused => State.releaseObject_of_unused may ?_⟩
    rintro ⟨e, he, running, refers⟩
    exact Bool.false_ne_true ((unused e he running).symm.trans refers)
  case bulk =>
    let a := s.popInbox sess
    have popped : OnlyTouches [.transport] s a := s.popInbox_touches sess
    refine ⟨a.bulkChunk n offset data, execBulk_of_open session n offset data, fun unnamed => ?_, fun g (named : a.loadOf? n = some g) => ?_⟩
    · obtain ⟨counted, touches⟩ := State.bulkChunk_discarded (s := a) (offset := offset) bytes unnamed
      exact ⟨counted, popped.trans touches⟩
    · obtain rfl := State.handle_of_loadOf? named
      refine ⟨fun gap => (State.bulkChunk_gap_ends bytes named gap).parts,
        fun next excess => (State.bulkChunk_excess_ends bytes named next excess).parts,
        fun fits part => ?_, fun fits last f fault => (State.bulkChunk_fault_ends bytes named fits.1 last fault).parts,
        fun fits last sound kind new => (State.bulkChunk_complete_held bytes named fits.1 last sound kind new).parts,
        fun fits last sound model sym => ?_⟩
      · rw [State.bulkChunk_of_part bytes named fits.1 part]
        exact ⟨(popped.mono (by decide)).trans (State.keepChunk_touches.mono (by decide)), State.mem_of_loadOf? (State.keepChunk_loadOf? named)⟩
      · rw [State.bulkChunk_of_symmetric bytes named fits.1 last sound model sym]
        exact ⟨State.keepChunk_held, State.mem_of_loadOf? (State.awaitSymmetry_loadOf? (State.keepChunk_loadOf? named))⟩
  case symmetry =>
    obtain rfl := State.handle_of_symmetryDue due
    cases fault : imageSymmetryFault g.got with
    | some f =>
      have ended := State.symmetryDone_fault_ends due fault
      exact ⟨_, rfl, ended.closed, fun _ same => Option.some.inj same ▸ ⟨ended.told, ended.held⟩, nofun⟩
    | none =>
      rw [show exec (.symmetryCheckDone g.handle) s = .next (s.holdObject g) from
        congrArg Host.Outcome.next (State.symmetryDone_of_sound due fault)]
      exact ⟨_, rfl, State.holdObject_closed, nofun, fun _ new => ⟨told_holdObject, g.object, State.object_mem_holdObject new, rfl, rfl⟩⟩

/-! ### A load under way -/

/-- A data object of four bytes, two of which have come. -/
def halfLoad : LoadHandle :=
  { handle := 1, sess := 1, owner := [], req := 1, body := { kind := 2, layout := 0, size := 4, digest := [] }, got := [7, 7] }

/-- A module at reset with that load open. -/
def loadDue : State := { State.reset with objects := { handles := [halfLoad], nextHandle := 2 } }

/-- A chunk that skips a byte ends it; one that goes beyond its end does too. -/
theorem loadDue_ends : LoadEnds loadDue (loadDue.bulkChunk 1 3 [7]) halfLoad 0x010A ∧
    LoadEnds loadDue (loadDue.bulkChunk 1 2 [7, 7, 7]) halfLoad 0x010B :=
  ⟨State.bulkChunk_gap_ends (by decide) rfl (by decide), State.bulkChunk_excess_ends (by decide) rfl rfl (by decide)⟩

/-- The next byte is kept. -/
theorem loadDue_keeps : (loadDue.bulkChunk 1 2 [7]).loadOf? 1 = some { halfLoad with got := [7, 7, 7] } := by
  have kept : loadDue.bulkChunk 1 2 [7] = loadDue.keepChunk halfLoad 2 [7] :=
    State.bulkChunk_of_part (by decide) rfl rfl (by decide)
  rw [kept]
  exact State.keepChunk_loadOf? rfl

/-- The last two bytes bring the check of its digest, which is not that of the bytes. -/
theorem loadDue_checked : LoadEnds loadDue (loadDue.bulkChunk 1 2 [7, 7]) (halfLoad.grow [7, 7]) 0x0112 :=
  State.bulkChunk_fault_ends (s := loadDue) (g := halfLoad) (data := [7, 7]) (f := ⟨0x0112, 0, 0⟩) (by decide) rfl rfl rfl (by decide +kernel)

end Sys2Proof.Machine

/-! PROOF of O8 and O9: the DRAW operations. A decision depends on neither the states nor the counts of its job, and under core maps in order
(R204) each core acts once; so every lane decides on what stood before, and a variable that one lane alone decides takes just that decision. -/

namespace Sys2Proof.Machine

open Sys2Proof Sys2Proof.Safety

/-! ### Writes one after another -/

section

variable {α β γ : Type} {f : α → β → α} {read : α → Nat → γ} {key : β → Nat} {val : β → γ} {ls : List β}

/-- Writes each at its own place, what each place then reads: a place that none of them names reads as before. -/
theorem read_foldl_of_unnamed (writes : ∀ a, ∀ e ∈ ls, ∀ k, read (f a e) k = if k = key e then val e else read a k) {k : Nat}
    (unnamed : ∀ e ∈ ls, key e ≠ k) (a : α) : read (ls.foldl f a) k = read a k := by
  induction ls generalizing a with
  | nil => rfl
  | cons b ls ih =>
    rw [List.foldl_cons, ih (fun a e m => writes a e (.tail _ m)) (fun e m => unnamed e (.tail _ m)), writes a b (.head _),
      if_neg (Ne.symm (unnamed b (.head _)))]

/-- A place at which all writes agree reads what they write. -/
theorem read_foldl_of_named (writes : ∀ a, ∀ e ∈ ls, ∀ k, read (f a e) k = if k = key e then val e else read a k) {e : β} (named : e ∈ ls)
    (agree : ∀ i ∈ ls, key i = key e → val i = val e) (a : α) : read (ls.foldl f a) (key e) = val e := by
  induction ls generalizing a e with
  | nil => cases named
  | cons b ls ih =>
    have rest : ∀ a, ∀ e ∈ ls, ∀ k, read (f a e) k = if k = key e then val e else read a k := fun a e m => writes a e (.tail _ m)
    rw [List.foldl_cons]
    by_cases later : ∃ i ∈ ls, key i = key e
    · obtain ⟨i, mem, same⟩ := later
      have value := agree i (.tail _ mem) same
      rw [← same, ← value]
      exact ih rest mem (fun i' m h => (agree i' (.tail _ m) (h.trans same)).trans value.symm) _
    · have last : e = b := (List.mem_cons.1 named).resolve_right fun m => later ⟨e, m, rfl⟩
      subst last
      rw [read_foldl_of_unnamed rest (fun i m h => later ⟨i, m, h⟩), writes a e (.head _), if_pos rfl]

end

/-! ### Bits of a word -/

/-- One bit of a word replaced: it reads as the new value's lowest bit, the others as before. -/
theorem getLsbD_setField (w : Word) {lo : Nat} (place : lo < 32) (v k : Nat) :
    (setField w lo 1 v).getLsbD k = if k = lo then v.testBit 0 else w.getLsbD k := by
  have split : w.toNat - bitField w.toNat lo 1 * 2 ^ lo + v % 2 ^ 1 * 2 ^ lo =
      2 ^ lo * (2 * (w.toNat / 2 ^ lo / 2) + v % 2) + w.toNat % 2 ^ lo := by
    have low := Nat.div_add_mod w.toNat (2 ^ lo)
    have high := Nat.div_add_mod (w.toNat / 2 ^ lo) 2
    unfold bitField
    generalize w.toNat / 2 ^ lo / 2 = hi at *
    generalize w.toNat / 2 ^ lo % 2 = mid at *
    generalize w.toNat % 2 ^ lo = r at *
    rw [← high] at low
    have : w.toNat = 2 ^ lo * (2 * hi) + r + mid * 2 ^ lo := by rw [← low]; ring
    rw [this, pow_one, Nat.add_sub_cancel, Nat.mul_add]
    ring
  have small : w.toNat % 2 ^ lo < 2 ^ lo := Nat.mod_lt _ (by positivity)
  unfold setField
  rw [split, BitVec.getLsbD_ofNat, Nat.testBit_two_pow_mul_add _ small]
  rcases Nat.lt_trichotomy k lo with below | rfl | above
  · rw [if_pos below, if_neg (by omega), Nat.testBit_mod_two_pow, decide_eq_true (by omega : k < 32), decide_eq_true below]
    rfl
  · rw [if_neg (lt_irrefl k), if_pos rfl, decide_eq_true place, Nat.sub_self, Nat.testBit_zero, Nat.testBit_zero, Bool.true_and]
    congr 2
    omega
  · rw [if_neg (by omega), if_neg (by omega)]
    obtain ⟨m, rfl⟩ := Nat.exists_eq_add_of_lt above
    have : (2 * (w.toNat / 2 ^ lo / 2) + v % 2) / 2 = w.toNat / 2 ^ (lo + 1) := by
      rw [pow_succ, ← Nat.div_div_eq_div_mul]
      omega
    rw [show lo + m + 1 - lo = m + 1 by omega, Nat.testBit_succ, this, Nat.testBit_div_two_pow, show m + (lo + 1) = lo + m + 1 by omega]
    by_cases inside : lo + m + 1 < 32
    · rw [decide_eq_true inside, Bool.true_and]
      rfl
    · rw [decide_eq_false inside, BitVec.getLsbD_of_ge _ _ (by omega)]
      rfl

/-- States of one bit are packed into one word, each at its lane's bit. -/
theorem packStates_one {ns : List (Nat × Word)} (lanes : ∀ e ∈ ns, e.1 < 32) (filled : ns ≠ []) (base : Nat) (old : Nat → Word) :
    packStates 1 base old ns = [(base, ns.foldl (fun a e => setField a e.1 1 e.2.toNat) (old base))] := by
  have word : ∀ e ∈ ns, 1 * e.1 / 32 = 0 := fun e m => by have := lanes e m; omega
  have place : ∀ e ∈ ns, 1 * e.1 % 32 = e.1 := fun e m => by have := lanes e m; omega
  have all : (ns.filter fun e => 1 * e.1 / 32 == 0) = ns := List.filter_eq_self.2 fun e m => beq_iff_eq.2 (word e m)
  have any : (ns.any fun e => 1 * e.1 / 32 == 0) = true := by
    obtain ⟨e, m⟩ := List.exists_mem_of_ne_nil _ filled
    exact List.any_eq_true.2 ⟨e, m, beq_iff_eq.2 (word e m)⟩
  simp only [packStates, List.range_one, List.filter_cons, any, if_true, List.filter_nil, List.map_cons, List.map_nil, all, Nat.add_zero]
  congr 2
  exact List.foldl_ext _ _ _ fun a e m => by rw [place e m]

/-- What the bit of each lane then is. -/
theorem getLsbD_foldl_setField {ls : List Nat} (lanes : ∀ l ∈ ls, l < 32) {l : Nat} (mem : l ∈ ls) (n : Nat → Word) (w : Word) :
    ((ls.map fun l => (l, n l)).foldl (fun a e => setField a e.1 1 e.2.toNat) w).getLsbD l = (n l).getLsbD 0 := by
  rw [List.foldl_map]
  exact read_foldl_of_named (read := BitVec.getLsbD) (key := id) (val := fun l => (n l).getLsbD 0)
    (fun a e m k => getLsbD_setField a (lanes e m) _ k) mem (fun i _ h => by rw [show i = l from h]) w

/-- What a word of a line then is, of words given for places that differ. -/
theorem lineWord_foldl_map {β : Type} {ls : List β} {place : β → Nat} (inside : ∀ i ∈ ls, place i < 16) {l : β} (mem : l ∈ ls)
    (once : ∀ i ∈ ls, place i = place l → i = l) (n : β → Word) (v : BitVec 512) :
    lineWord ((ls.map fun l => (place l, n l)).foldl (fun a e => setLineWord a e.1 e.2) v) (place l) = n l := by
  rw [List.foldl_map]
  exact read_foldl_of_named (read := lineWord) (key := place) (val := n) (fun a e m k => lineWord_setLineWord a _ k _ (inside e m)) mem
    (fun i m h => by rw [once i m h]) v

/-! ### Where a DRAW acts -/

theorem Site.coreMap_of_site {s : State} {cl : ClusterRef} {x : Site} (site : s.site? cl = some x) :
    x.coreMap = (s.cluster cl.key).coreMap := by
  unfold State.site? at site
  split at site
  · cases site
  · split at site
    · cases site
      rfl
    · cases site

/-- Core maps in order name no core of a cluster twice. -/
theorem Site.oneToOne {s : State} {cl : ClusterRef} {x : Site} (site : s.site? cl = some x) (maps : MapsOk s) : OneToOne x := by
  have entry : ∀ pos n, x.phys pos = some n → (s.cluster cl.key).coreMap[pos]? = some (some n) := by
    intro pos n h
    rw [Site.phys, Site.coreMap_of_site site, List.getD_eq_getElem?_getD] at h
    cases e : (s.cluster cl.key).coreMap[pos]? with
    | none => simp [e] at h
    | some v => rw [e, Option.getD_some] at h; rw [h]
  intro pos _ q _ n hp hq
  exact (Kept.mapOk_cluster maps cl.key).once q pos n (entry q n hq) (entry pos n hp)

theorem Site.drawLanes_nodup (x : Site) (pos : Nat) (c : Core) (o : DrawOps) : (x.drawLanes pos c o).Nodup :=
  (x.lanes_nodup pos c o.lm).filter _

theorem Site.lt_of_mem_drawLanes {x : Site} {pos l : Nat} {c : Core} {o : DrawOps} (mem : l ∈ x.drawLanes pos c o) : l < 32 := by
  have mem := (List.mem_filter.1 mem).1
  unfold Site.lanes at mem
  split at mem
  · cases mem
  · exact List.mem_range.1 (List.mem_filter.1 mem).1

/-! ### The decisions of a core's lanes -/

/-- Two jobs agree but for their states and counts, which no decision depends on. -/
def sameButStates (j k : Job) : Prop := k = { j with states := k.states, counts := k.counts }

theorem sameButStates_refl (j : Job) : sameButStates j j := rfl

theorem sameButStates_trans {j k m : Job} (h : sameButStates j k) (h' : sameButStates k m) : sameButStates j m := by
  unfold sameButStates at *
  rw [h', h]

/-- The state that a lane's variable has after its decision. -/
def Work.newState (w : Work) (o : DrawOps) (dec : Job → Core → Nat → Decision) (l : Nat) : Word :=
  (dec w.job w.core l).result (mget 0 w.job.states (laneKey w.core o.dd l))

/-- The decision of one lane, behind those of others. -/
def decideLane (o : DrawOps) (dec : Job → Core → Nat → Decision) (w : Work) (acc : Work × List (Nat × Word)) (l : Nat) :
    Work × List (Nat × Word) :=
  (Work.count { acc.1 with job := acc.1.job.setState (w.core.desc o.dd) l (w.newState o dec l), hit := acc.1.hit || (w.core.lane l).decPoison }
    (dec w.job w.core l).counts, acc.2 ++ [(l, w.newState o dec l)])

theorem decideLanes_eq_foldl (o : DrawOps) (ls : List Nat) (dec : Job → Core → Nat → Decision) (w : Work) :
    decideLanes o ls dec w = ls.foldl (decideLane o dec w) (w, []) := rfl

section

variable {o : DrawOps} {dec : Job → Core → Nat → Decision} {w : Work} (ls : List Nat) (acc : Work × List (Nat × Word))

theorem foldl_decideLane_core : (ls.foldl (decideLane o dec w) acc).1.core = acc.1.core := by
  induction ls generalizing acc with
  | nil => rfl
  | cons l ls ih =>
    rw [List.foldl_cons, ih]
    rfl

theorem foldl_decideLane_hit (clean : ∀ l ∈ ls, (w.core.lane l).decPoison = false) :
    (ls.foldl (decideLane o dec w) acc).1.hit = acc.1.hit := by
  induction ls generalizing acc with
  | nil => rfl
  | cons l ls ih =>
    rw [List.foldl_cons, ih _ fun l m => clean l (.tail _ m)]
    show (acc.1.hit || (w.core.lane l).decPoison) = acc.1.hit
    rw [clean l (.head _), Bool.or_false]

theorem foldl_decideLane_same : sameButStates acc.1.job (ls.foldl (decideLane o dec w) acc).1.job := by
  induction ls generalizing acc with
  | nil => exact sameButStates_refl _
  | cons l ls ih =>
    have first : sameButStates acc.1.job (decideLane o dec w acc l).1.job := rfl
    rw [List.foldl_cons]
    exact sameButStates_trans first (ih _)

theorem foldl_decideLane_states : (ls.foldl (decideLane o dec w) acc).1.job.states =
    ls.foldl (fun m l => mset 0 m (laneKey w.core o.dd l) (w.newState o dec l)) acc.1.job.states := by
  induction ls generalizing acc with
  | nil => rfl
  | cons l ls ih =>
    rw [List.foldl_cons, ih]
    rfl

theorem foldl_decideLane_written : (ls.foldl (decideLane o dec w) acc).2 = acc.2 ++ ls.map fun l => (l, w.newState o dec l) := by
  induction ls generalizing acc with
  | nil => exact (List.append_nil _).symm
  | cons l ls ih =>
    rw [List.foldl_cons, ih]
    exact List.append_assoc _ _ _

end

@[simp] theorem decideLanes_core (o : DrawOps) (ls : List Nat) (dec : Job → Core → Nat → Decision) (w : Work) :
    (decideLanes o ls dec w).1.core = w.core := foldl_decideLane_core ls _

theorem decideLanes_hit {ls : List Nat} {w : Work} (clean : ∀ l ∈ ls, (w.core.lane l).decPoison = false) (o : DrawOps)
    (dec : Job → Core → Nat → Decision) : (decideLanes o ls dec w).1.hit = w.hit := foldl_decideLane_hit ls _ clean

@[simp] theorem decideLanes_written (o : DrawOps) (ls : List Nat) (dec : Job → Core → Nat → Decision) (w : Work) :
    (decideLanes o ls dec w).2 = ls.map fun l => (l, w.newState o dec l) := foldl_decideLane_written ls _

/-- From `k` to `k'` the variables of the lanes of a list take what is decided for them; `due` says whether the decision is made. -/
structure LanesDecided (due : Prop) (ls : List Nat) (key : Nat → Nat) (e : Nat → Decision) (k k' : Job) : Prop where
  same : sameButStates k k'
  acting : due → ∀ l ∈ ls, (∀ i ∈ ls, key i = key l → i = l) → mget 0 k'.states (key l) = (e l).result (mget 0 k.states (key l))
  others : ∀ a, (∀ i ∈ ls, key i ≠ a) → mget 0 k'.states a = mget 0 k.states a

theorem LanesDecided.not_due {due : Prop} (h : ¬due) (ls : List Nat) (key : Nat → Nat) (e : Nat → Decision) (k : Job) :
    LanesDecided due ls key e k k := ⟨sameButStates_refl k, fun d => absurd d h, fun _ _ => rfl⟩

theorem decideLanes_decided {due : Prop} (o : DrawOps) (ls : List Nat) (dec : Job → Core → Nat → Decision) (w : Work) :
    LanesDecided due ls (laneKey w.core o.dd) (dec w.job w.core) w.job (decideLanes o ls dec w).1.job := by
  have states : (decideLanes o ls dec w).1.job.states =
      ls.foldl (fun m l => mset 0 m (laneKey w.core o.dd l) (w.newState o dec l)) w.job.states := foldl_decideLane_states ls _
  have writes : ∀ (m : SMap Word), ∀ l ∈ ls, ∀ k, mget 0 (mset 0 m (laneKey w.core o.dd l) (w.newState o dec l)) k =
      if k = laneKey w.core o.dd l then w.newState o dec l else mget 0 m k := fun m l _ k => mget_mset _ _ _ _ _
  refine ⟨foldl_decideLane_same ls _, fun _ l mem once => ?_, fun a unnamed => ?_⟩
  · rw [states]
    exact read_foldl_of_named writes mem (fun i m h => by rw [once i m h]) _
  · rw [states]
    exact read_foldl_of_unnamed writes unnamed _

/-! ### The decisions of a cluster -/

/-- The job after the decisions of the positions below `p`: each variable that one lane alone decides has its decision, and what none decides
stays. -/
structure DecidedBelow (s : State) (o : DrawOps) (x : Site) (j : Job) (due : Core → Prop) (dec : Nat → Job → Core → Nat → Decision) (p : Nat)
    (k : Job) : Prop where
  same : sameButStates j k
  acting : ∀ pos < p, ∀ n, x.phys pos = some n → due (clusterCore s o.cl n) → ∀ l ∈ x.drawLanes pos (clusterCore s o.cl n) o,
    decidesAlone s o x pos l (clusterCore s o.cl n) → mget 0 k.states (laneKey (clusterCore s o.cl n) o.dd l) =
      (dec pos j (clusterCore s o.cl n) l).result (mget 0 j.states (laneKey (clusterCore s o.cl n) o.dd l))
  others : ∀ key, (∀ q < p, ∀ m, x.phys q = some m → ∀ i ∈ x.drawLanes q (clusterCore s o.cl m) o, laneKey (clusterCore s o.cl m) o.dd i ≠ key) →
    mget 0 k.states key = mget 0 j.states key

namespace DecidedBelow

variable {s : State} {o : DrawOps} {x : Site} {j k k' : Job} {due : Core → Prop} {dec : Nat → Job → Core → Nat → Decision} {pos n : Nat}

theorem zero : DecidedBelow s o x j due dec 0 j := ⟨sameButStates_refl j, fun _ h => absurd h (Nat.not_lt_zero _), fun _ _ => rfl⟩

/-- A variable that a lane of a position decides alone has its old state until then. -/
theorem old (b : DecidedBelow s o x j due dec pos k) (inside : pos < 64) {c : Core} {l : Nat} (alone : decidesAlone s o x pos l c) :
    mget 0 k.states (laneKey c o.dd l) = mget 0 j.states (laneKey c o.dd l) :=
  b.others _ fun q hq m served i mem same => absurd (alone q (by omega) m served i mem same).1 (by omega)

theorem unserved (b : DecidedBelow s o x j due dec pos k) (unserved : x.phys pos = none) : DecidedBelow s o x j due dec (pos + 1) k := by
  refine ⟨b.same, fun q hq n served => b.acting q ?_ n served, fun key untouched => b.others key fun q hq => untouched q (by omega)⟩
  have : q ≠ pos := by rintro rfl; rw [unserved] at served; cases served
  omega

theorem served (b : DecidedBelow s o x j due dec pos k) (inside : pos < 64) (served : x.phys pos = some n)
    (decided : LanesDecided (due (clusterCore s o.cl n)) (x.drawLanes pos (clusterCore s o.cl n) o) (laneKey (clusterCore s o.cl n) o.dd)
      (dec pos j (clusterCore s o.cl n)) k k') : DecidedBelow s o x j due dec (pos + 1) k' := by
  refine ⟨sameButStates_trans b.same decided.same, fun q hq m served' isDue l mem alone => ?_, fun key untouched => ?_⟩
  · rcases Nat.lt_succ_iff_lt_or_eq.1 hq with before | rfl
    · rw [decided.others _ fun i mem' same => absurd (alone pos inside n served i mem' same).1 (by omega), b.acting q before m served' isDue l mem alone]
    · obtain rfl : n = m := Option.some.inj (served.symm.trans served')
      rw [decided.acting isDue l mem fun i mem' same => (alone q inside n served i mem' same).2, b.old inside alone]
  · rw [decided.others key (untouched pos (by omega) n served), b.others key fun q hq => untouched q (by omega)]

end DecidedBelow

/-- A decision that depends on neither states nor counts. -/
def Steady (dec : Nat → Job → Core → Nat → Decision) : Prop := ∀ pos j k c l, sameButStates j k → dec pos k c l = dec pos j c l

/-- A DRAW under core maps in order: what each part does to its core and to the job's states, and what holds of both at the end. -/
theorem State.onCluster_decides {s : State} {o : DrawOps} {x : Site} {j : Job} {f : Site → Nat → Work → Work} {due : Core → Prop}
    {dec : Nat → Job → Core → Nat → Decision} {P : Nat → Core → Core → Prop} (acts : Acts s o.cl x j) (maps : MapsOk s) (steady : Steady dec)
    (part : ∀ pos n k, pos < 64 → x.phys pos = some n → sameButStates j k →
      (∀ l, decidesAlone s o x pos l (clusterCore s o.cl n) →
        mget 0 k.states (laneKey (clusterCore s o.cl n) o.dd l) = mget 0 j.states (laneKey (clusterCore s o.cl n) o.dd l)) →
      let c := clusterCore s o.cl n
      let w := f x pos { core := c, job := k }
      w.hit = false ∧ P pos c w.core ∧ LanesDecided (due c) (x.drawLanes pos c o) (laneKey c o.dd) (dec pos k c) k w.job) :
    InCluster s (s.onCluster o.cl f) o.cl x id P ∧
      ∃ k, (s.onCluster o.cl f).job? x.slot = some k ∧ DecidedBelow s o x j due dec 64 k := by
  refine State.onCluster_run acts (Site.oneToOne acts.1 maps) DecidedBelow.zero (fun pos n w inside served core below clean => ?_)
    fun pos _ unserved k below => below.unserved unserved
  obtain ⟨c, k, hit⟩ := w
  subst core clean
  obtain ⟨hit, core, job⟩ := part pos n k inside served below.same fun l alone => below.old inside alone
  have decision : dec pos k (clusterCore s o.cl n) = dec pos j (clusterCore s o.cl n) := funext fun l => steady pos j k _ l below.same
  exact ⟨below.served inside served (decision ▸ job), core, hit⟩

/-- The new state of a lane that decides its variable alone, in the part of its position. -/
theorem Work.newState_of_old {o : DrawOps} {dec : Nat → Job → Core → Nat → Decision} (steady : Steady dec) {pos l : Nat} {j k : Job} {c : Core}
    (same : sameButStates j k) (old : mget 0 k.states (laneKey c o.dd l) = mget 0 j.states (laneKey c o.dd l)) :
    Work.newState { core := c, job := k } o (dec pos) l = (dec pos j c l).result (mget 0 j.states (laneKey c o.dd l)) := by
  rw [← old, ← steady pos j k c l same]
  rfl

theorem DecidedBelow.statesDecided {s t : State} {o : DrawOps} {x : Site} {j k : Job} {dec : Nat → Job → Core → Nat → Decision}
    (b : DecidedBelow s o x j (fun _ => True) dec 64 k) (job : t.job? x.slot = some k) : statesDecided s t o x j fun pos => dec pos j :=
  ⟨k, job, fun pos n serves => b.acting pos serves.1 n serves.2.1 trivial, b.others⟩

/-! ### Write-back and launch -/

section

variable {x : Site} {pos b : Nat} {o : DrawOps} {r : Work × List (Nat × Word)}

theorem Core.advance_eq (c : Core) (o : DrawOps) : c.advance o = { c with descs := (c.advance o).descs } := by
  unfold Core.advance
  split <;> rfl

theorem Core.advance_of_stays {o : DrawOps} (stays : o.inc = false) (c : Core) : c.advance o = c := by
  rw [Core.advance, if_neg (by simp [stays])]

/-- The core of a DRAW that has decided, before its descriptor advances. -/
def Core.writeBack (c : Core) (x : Site) (pos : Nat) (o : DrawOps) (b : Nat) (ns : List (Nat × Word)) : Core :=
  let c1 := c.writeStates x.step (x.line o.agw.val pos) b (c.desc o.dd).word ns
  if o.launch then c1.launchStates x.step o.sel.val b (c.desc o.dd).word x.phaseBit (x.tagOf (c.desc o.dd)) ns else c1

theorem finishDraw_nil (none : r.2 = []) : finishDraw x pos o b r = r.1 := by simp [finishDraw, none]

theorem finishDraw_of_decided (decided : r.2 ≠ []) :
    finishDraw x pos o b r = { r.1 with core := (r.1.core.writeBack x pos o b r.2).advance o } := by
  rw [finishDraw, if_neg (by simp [decided])]
  rfl

@[simp] theorem finishDraw_job : (finishDraw x pos o b r).job = r.1.job := by
  unfold finishDraw
  split <;> rfl

@[simp] theorem finishDraw_hit : (finishDraw x pos o b r).hit = r.1.hit := by
  unfold finishDraw
  split <;> rfl

theorem Core.sameButPlaya_writeStates (c : Core) (step line b base : Nat) (ns : List (Nat × Word)) :
    sameButPlaya c (c.writeStates step line b base ns) := (c.writeWords_spec step line _ false).2.2

/-- What a write-back may change in a core. -/
theorem Core.writeBack_eq (c : Core) (ns : List (Nat × Word)) : ∃ d : Core, c.writeBack x pos o b ns = { c with
    playa := d.playa, playaPoison := d.playaPoison, playaExps := d.playaExps, undo := d.undo, checkCrc := d.checkCrc, launch := d.launch } := by
  refine ⟨c.writeBack x pos o b ns, ?_⟩
  have playa := c.sameButPlaya_writeStates x.step (x.line o.agw.val pos) b (c.desc o.dd).word ns
  unfold Core.writeBack
  split
  · simp only [Core.launchStates, Core.launchWords, Core.check]
    rw [playa]
  · rw [playa]

/-- What a DRAW may change in a core when it has decided. -/
theorem finishDraw_core_eq : ∃ d : Core, (finishDraw x pos o b r).core = { r.1.core with
    playa := d.playa, playaPoison := d.playaPoison, playaExps := d.playaExps, undo := d.undo, checkCrc := d.checkCrc, launch := d.launch,
    descs := d.descs } := by
  refine ⟨(finishDraw x pos o b r).core, ?_⟩
  by_cases none : r.2 = []
  · rw [finishDraw_nil none]
  · obtain ⟨d, h⟩ := r.1.core.writeBack_eq (x := x) (pos := pos) (o := o) (b := b) r.2
    rw [finishDraw_of_decided none, Core.advance_eq, h]

theorem finishDraw_lanes : (finishDraw x pos o b r).core.lanes = r.1.core.lanes := by
  obtain ⟨d, h⟩ := finishDraw_core_eq (x := x) (pos := pos) (o := o) (b := b) (r := r)
  rw [h]

theorem finishDraw_dk : (finishDraw x pos o b r).core.dk = r.1.core.dk := by
  obtain ⟨d, h⟩ := finishDraw_core_eq (x := x) (pos := pos) (o := o) (b := b) (r := r)
  rw [h]

theorem finishDraw_descs (stays : o.inc = false ∨ r.2 = []) : (finishDraw x pos o b r).core.descs = r.1.core.descs := by
  by_cases none : r.2 = []
  · rw [finishDraw_nil none]
  · obtain ⟨d, h⟩ := r.1.core.writeBack_eq (x := x) (pos := pos) (o := o) (b := b) r.2
    rw [finishDraw_of_decided none, Core.advance_of_stays (stays.resolve_right none), h]

/-- The line at AGW takes the packed states, launched or not. -/
theorem Core.line_writeBack (c : Core) (ns : List (Nat × Word)) (k : Nat) : (c.writeBack x pos o b ns).line k =
    if k = x.line o.agw.val pos then
      (packStates b (c.desc o.dd).word (fun w => lineWord (c.line (x.line o.agw.val pos)) w) ns).foldl (fun a e => setLineWord a e.1 e.2)
        (c.line (x.line o.agw.val pos))
    else c.line k := by
  have written := (c.writeWords_spec x.step (x.line o.agw.val pos)
    (packStates b (c.desc o.dd).word (fun w => lineWord (c.line (x.line o.agw.val pos)) w) ns) false).1 k
  rw [← written]
  unfold Core.writeBack
  split <;> rfl

theorem finishDraw_line_same (decided : r.2 ≠ []) : (finishDraw x pos o b r).core.line (x.line o.agw.val pos) =
    (packStates b (r.1.core.desc o.dd).word (fun w => lineWord (r.1.core.line (x.line o.agw.val pos)) w) r.2).foldl
      (fun a e => setLineWord a e.1 e.2) (r.1.core.line (x.line o.agw.val pos)) := by
  rw [finishDraw_of_decided decided, Core.advance_eq]
  exact (r.1.core.line_writeBack r.2 _).trans (if_pos rfl)

theorem finishDraw_line_other {k : Nat} (other : k ≠ x.line o.agw.val pos) : (finishDraw x pos o b r).core.line k = r.1.core.line k := by
  by_cases none : r.2 = []
  · rw [finishDraw_nil none]
  · rw [finishDraw_of_decided none, Core.advance_eq]
    exact (r.1.core.line_writeBack r.2 k).trans (if_neg other)

theorem finishDraw_launch_of_quiet (quiet : o.launch = false) : (finishDraw x pos o b r).core.launch = r.1.core.launch := by
  by_cases none : r.2 = []
  · rw [finishDraw_nil none]
  · have playa := r.1.core.sameButPlaya_writeStates x.step (x.line o.agw.val pos) b (r.1.core.desc o.dd).word r.2
    rw [finishDraw_of_decided none, Core.advance_eq, Core.writeBack, if_neg (by simp [quiet]), playa]

theorem finishDraw_launch_words (launches : o.launch = true) (decided : r.2 ≠ []) : (finishDraw x pos o b r).core.launch.words =
    (packStates b (r.1.core.desc o.dd).word r.1.core.launchWord r.2).foldl (fun m e => mset none m e.1
      (some { data := e.2, sel := o.sel.val, phase := x.phaseBit, tag := some (x.tagOf (r.1.core.desc o.dd)) })) r.1.core.launch.words := by
  have playa := r.1.core.sameButPlaya_writeStates x.step (x.line o.agw.val pos) b (r.1.core.desc o.dd).word r.2
  rw [finishDraw_of_decided decided, Core.advance_eq, Core.writeBack, if_pos launches, playa]
  rfl

end

/-! ### DRW.BIN -/

theorem decideBin_eq (x : Site) (pos : Nat) (o : DrawOps) (j : Job) (c : Core) (l : Nat) : decideBin x pos o j c l =
    let d := c.desc o.dd
    let y := c.lane l
    let u := jobDraw j.seed (d.laneRep l) (d.laneVar l) 0 j.step
    if (x.cls d).rule = 1 then binaryMetropolis (x.laneBeta j d l y) y.decIn u (c.laneState 0 (x.stateSlot o.ags.val pos) d.word l).1
    else binaryHeatBath (x.laneBeta j d l y) y.decIn u := by
  simp only [decideBin, laneDraw, Nat.mul_one, Nat.add_zero]

theorem steady_decideBin (x : Site) (o : DrawOps) : Steady fun pos => decideBin x pos o := by
  intro pos j k c l same
  rw [same]
  rfl

/-- One core's part of DRW.BIN where no value that it consumes is poisoned. -/
theorem drwBinCore_eq {x : Site} {pos : Nat} {o : DrawOps} {w : Work}
    (read : (x.cls (w.core.desc o.dd)).rule = 1 → ∀ l ∈ x.drawLanes pos w.core o, (x.current pos 0 o w.core l).2 = false) :
    drwBinCore o x pos w = finishDraw x pos o 1 (decideLanes o (x.drawLanes pos w.core o) (decideBin x pos o) w) := by
  have clear : ((x.cls (w.core.desc o.dd)).rule == 1 && (x.drawLanes pos w.core o).any fun l => (x.current pos 0 o w.core l).2) = false := by
    by_cases metropolis : (x.cls (w.core.desc o.dd)).rule = 1
    · rw [Bool.and_eq_false_iff]
      exact .inr (List.any_eq_false.2 fun l m => by rw [read metropolis l m]; exact Bool.false_ne_true)
    · rw [Bool.and_eq_false_iff]
      exact .inl (beq_eq_false_iff_ne.2 metropolis)
  simp only [drwBinCore, clear, Bool.or_false]

section

variable {x : Site} {pos l : Nat} {o : DrawOps} {w : Work} {ls : List Nat} (lanes : ∀ l ∈ ls, l < 32) (mem : l ∈ ls)
  (dec : Job → Core → Nat → Decision)

include lanes mem

theorem decideLanes_packed (base : Nat) (old : Nat → Word) : ∃ v : Word, v.getLsbD l = (w.newState o dec l).getLsbD 0 ∧
    packStates 1 base old (decideLanes o ls dec w).2 = [(base, v)] := by
  have named : ∀ e ∈ ls.map fun l => (l, w.newState o dec l), e.1 < 32 := by
    intro e m
    obtain ⟨i, acts, rfl⟩ := List.mem_map.1 m
    exact lanes i acts
  rw [decideLanes_written]
  exact ⟨_, getLsbD_foldl_setField lanes mem _ _, packStates_one named (List.ne_nil_of_mem (List.mem_map_of_mem mem)) base old⟩

omit lanes in
theorem decideLanes_ne_nil : (decideLanes o ls dec w).2 ≠ [] := by
  rw [decideLanes_written]
  exact List.ne_nil_of_mem (List.mem_map_of_mem mem)

/-- The new spin of a lane stands at its bit of the descriptor's word. -/
theorem lineWord_finishDraw_bit (word : (w.core.desc o.dd).word < 16) :
    (lineWord ((finishDraw x pos o 1 (decideLanes o ls dec w)).core.line (x.line o.agw.val pos)) (w.core.desc o.dd).word).getLsbD l =
      (w.newState o dec l).getLsbD 0 := by
  obtain ⟨v, bit, packed⟩ := decideLanes_packed (w := w) (o := o) lanes mem dec (w.core.desc o.dd).word
    fun i => lineWord (w.core.line (x.line o.agw.val pos)) i
  rw [finishDraw_line_same (decideLanes_ne_nil mem dec), decideLanes_core, packed, List.foldl_cons, List.foldl_nil,
    lineWord_setLineWord _ _ _ _ word, if_pos rfl, bit]

/-- With LAUNCH it stands there in the launch register too. -/
theorem launch_finishDraw_bit (launches : o.launch = true) :
    ∃ b, mget none (finishDraw x pos o 1 (decideLanes o ls dec w)).core.launch.words (w.core.desc o.dd).word = some b ∧ b.sel = o.sel.val ∧
      b.phase = x.phaseBit ∧ b.tag = some (x.tagOf (w.core.desc o.dd)) ∧ b.data.getLsbD l = (w.newState o dec l).getLsbD 0 := by
  obtain ⟨v, bit, packed⟩ := decideLanes_packed (w := w) (o := o) lanes mem dec (w.core.desc o.dd).word w.core.launchWord
  rw [finishDraw_launch_words launches (decideLanes_ne_nil mem dec), decideLanes_core, packed, List.foldl_cons, List.foldl_nil,
    mget_mset_self]
  exact ⟨_, rfl, rfl, rfl, rfl, bit⟩

end

/-! ### DRW.CAT -/

/-- A fold that changes the lanes of a list, each by itself. -/
theorem inLanes_foldl_modLane {ls : List Nat} (nodup : ls.Nodup) (F : Nat → Lane → Lane) (c : Core) :
    InLanes ls c (ls.foldl (fun c l => c.modLane l (F l)) c) fun l y z => z = F l y := by
  have lane := Core.foldl_lanes (f := fun c l => c.modLane l (F l)) (F := F) (fun c l k => c.lane_modLane l k (F l)) ls c nodup
  exact ⟨fun l m => by rw [lane, if_pos m], fun l m => by rw [lane, if_neg m]⟩

theorem sameButLanes_foldl_modLane (ls : List Nat) (F : Nat → Lane → Lane) (c : Core) :
    sameButLanes c (ls.foldl (fun c l => c.modLane l (F l)) c) :=
  sameButLanes_foldl (fun c l => sameButLanes_modLane c l (F l)) ls c

/-- A lane as the key of state DK finds it: at the first state nothing is kept. -/
def Lane.startKeys (y : Lane) (dk : Nat) : Lane := if dk = 0 then { y with keyNan := false, bestState := 0, bestKey := 0 } else y

/-- A lane that takes the key of state DK, none being a NaN. -/
def Lane.takeKey (y : Lane) (dk : Nat) : Option Word → Lane
  | none => { y with keyNan := true }
  | some b => if dk = 0 ∨ Val.lt (valF32 y.bestKey) (valF32 b) = true then { y with bestKey := b, bestState := dk } else y

theorem catKey_eq (x : Site) (j : Job) (d : Descriptor) (km1 dk l : Nat) (y : Lane) : catKey x j d km1 dk l y =
    (y.startKeys dk).takeKey dk (gumbelKey (x.laneBeta j d l (y.startKeys dk)) (y.startKeys dk).decIn
      (jobDraw j.seed (d.laneRep l) (d.laneVar l) 1 (j.step * (km1 + 1) + dk))) := by
  unfold catKey laneDraw
  simp only [Bool.or_eq_true, decide_eq_true_eq]
  rfl

@[simp] theorem Lane.startKeys_decPoison (y : Lane) (dk : Nat) : (y.startKeys dk).decPoison = y.decPoison := by
  unfold Lane.startKeys
  split <;> rfl

@[simp] theorem Lane.takeKey_decPoison (y : Lane) (dk : Nat) (b : Option Word) : (y.takeKey dk b).decPoison = y.decPoison := by
  cases b with
  | none => rfl
  | some b =>
    simp only [Lane.takeKey]
    split <;> rfl

@[simp] theorem catKey_decPoison (x : Site) (j : Job) (d : Descriptor) (km1 dk l : Nat) (y : Lane) :
    (catKey x j d km1 dk l y).decPoison = y.decPoison := by
  rw [catKey_eq, Lane.takeKey_decPoison, Lane.startKeys_decPoison]

theorem catKey_of_same {j k : Job} (same : sameButStates j k) (x : Site) (d : Descriptor) (km1 dk l : Nat) (y : Lane) :
    catKey x k d km1 dk l y = catKey x j d km1 dk l y := by
  rw [same]
  rfl

/-- The decision of a lane's keys once that of state DK is formed. -/
def decideKeys (x : Site) (o : DrawOps) (j : Job) (c : Core) (l : Nat) : Decision :=
  let y := catKey x j (c.desc o.dd) (x.cls (c.desc o.dd)).km1 c.dk l (c.lane l)
  if y.keyNan then .nonFinite else .set (BitVec.ofNat 32 y.bestState)

theorem decideKeys_result (x : Site) (o : DrawOps) (j : Job) (c : Core) (l : Nat) (old : Word) : (decideKeys x o j c l).result old =
    let y := catKey x j (c.desc o.dd) (x.cls (c.desc o.dd)).km1 c.dk l (c.lane l)
    if y.keyNan then old else BitVec.ofNat 32 y.bestState := by
  unfold decideKeys
  dsimp only
  split <;> rfl

theorem steady_decideKeys (x : Site) (o : DrawOps) : Steady fun _ => decideKeys x o := by
  intro _ j k c l same
  rw [same]
  rfl

/-- A core in which the keys of state DK are formed. -/
def Core.keyed (c : Core) (x : Site) (pos : Nat) (o : DrawOps) (j : Job) : Core :=
  { (x.drawLanes pos c o).foldl (fun d l => d.modLane l (catKey x j (c.desc o.dd) (x.cls (c.desc o.dd)).km1 c.dk l)) c with
    dk := if c.dk < (x.cls (c.desc o.dd)).km1 then c.dk + 1 else 0 }

section

variable (c : Core) (x : Site) (pos : Nat) (o : DrawOps) (j : Job)

theorem Core.keyed_inLanes : InLanes (x.drawLanes pos c o) c (c.keyed x pos o j)
    fun l y z => z = catKey x j (c.desc o.dd) (x.cls (c.desc o.dd)).km1 c.dk l y :=
  let lanes := inLanes_foldl_modLane (x.drawLanes_nodup pos c o) (catKey x j (c.desc o.dd) (x.cls (c.desc o.dd)).km1 c.dk) c
  ⟨lanes.acting, lanes.others⟩

theorem Core.keyed_descs : (c.keyed x pos o j).descs = c.descs := by
  show ((x.drawLanes pos c o).foldl _ c).descs = c.descs
  rw [sameButLanes_foldl_modLane (x.drawLanes pos c o) (catKey x j (c.desc o.dd) (x.cls (c.desc o.dd)).km1 c.dk) c]

theorem Core.keyed_laneKey : laneKey (c.keyed x pos o j) o.dd = laneKey c o.dd := by
  unfold laneKey Core.desc
  rw [Core.keyed_descs]

end

/-- One core's part of DRW.CAT where no decision input is poisoned. -/
theorem drwCatCore_eq {x : Site} {pos : Nat} {o : DrawOps} {w : Work}
    (clean : ∀ l ∈ x.drawLanes pos w.core o, (w.core.lane l).decPoison = false) : drwCatCore o x pos w =
      let w1 : Work := { w with core := w.core.keyed x pos o w.job }
      if w.core.dk < (x.cls (w.core.desc o.dd)).km1 then w1
      else finishDraw x pos o 8 (decideLanes o (x.drawLanes pos w.core o) decideCat w1) := by
  have clear : ((x.drawLanes pos w.core o).any fun l => (w.core.lane l).decPoison) = false :=
    List.any_eq_false.2 fun l m => by rw [clean l m]; exact Bool.false_ne_true
  simp only [drwCatCore, clear, Bool.or_false, Core.keyed]

section

variable {x : Site} {pos : Nat} {o : DrawOps} {w : Work}
  (clean : ∀ l ∈ x.drawLanes pos w.core o, (w.core.lane l).decPoison = false)

include clean

theorem Core.keyed_clean (l : Nat) (mem : l ∈ x.drawLanes pos w.core o) : ((w.core.keyed x pos o w.job).lane l).decPoison = false := by
  rw [(w.core.keyed_inLanes x pos o w.job).acting l mem, catKey_decPoison, clean l mem]

theorem drwCatCore_hit : (drwCatCore o x pos w).hit = w.hit := by
  rw [drwCatCore_eq clean]
  dsimp only
  split
  · rfl
  · rw [finishDraw_hit, decideLanes_hit (Core.keyed_clean clean)]

theorem drwCatCore_lanes : (drwCatCore o x pos w).core.lanes = (w.core.keyed x pos o w.job).lanes := by
  rw [drwCatCore_eq clean]
  dsimp only
  split
  · rfl
  · rw [finishDraw_lanes, decideLanes_core]

theorem drwCatCore_dk : (drwCatCore o x pos w).core.dk = if w.core.dk < (x.cls (w.core.desc o.dd)).km1 then w.core.dk + 1 else 0 := by
  rw [drwCatCore_eq clean]
  dsimp only
  split
  case isTrue h => exact if_pos h
  case isFalse h =>
    rw [finishDraw_dk, decideLanes_core]
    exact if_neg h

theorem drwCatCore_inLanes : InLanes (x.drawLanes pos w.core o) w.core (drwCatCore o x pos w).core
    fun l y z => z = catKey x w.job (w.core.desc o.dd) (x.cls (w.core.desc o.dd)).km1 w.core.dk l y := by
  have lanes := w.core.keyed_inLanes x pos o w.job
  have lane : ∀ l, (drwCatCore o x pos w).core.lane l = (w.core.keyed x pos o w.job).lane l := fun l => by
    unfold Core.lane
    rw [drwCatCore_lanes clean]
  exact ⟨fun l m => (lane l).trans (lanes.acting l m), fun l m => (lane l).trans (lanes.others l m)⟩

/-- The states are set at the last state's key, and only then. -/
theorem drwCatCore_decided : LanesDecided ((x.cls (w.core.desc o.dd)).km1 ≤ w.core.dk) (x.drawLanes pos w.core o) (laneKey w.core o.dd)
    (decideKeys x o w.job w.core) w.job (drwCatCore o x pos w).job := by
  rw [drwCatCore_eq clean]
  dsimp only
  split
  case isTrue h => exact LanesDecided.not_due (by omega) _ _ _ _
  case isFalse h =>
    have decided := decideLanes_decided (due := (x.cls (w.core.desc o.dd)).km1 ≤ w.core.dk) o (x.drawLanes pos w.core o) decideCat
      { w with core := w.core.keyed x pos o w.job }
    rw [Core.keyed_laneKey] at decided
    rw [finishDraw_job]
    refine ⟨decided.same, fun due l mem once => ?_, decided.others⟩
    rw [decided.acting due l mem once, decideCat, decideKeys, (w.core.keyed_inLanes x pos o w.job).acting l mem]

end

/-! ### DRW.CATM -/

theorem catmPropose_eq (x : Site) (pos : Nat) (o : DrawOps) (j : Job) (c : Core) (l : Nat) (y : Lane) : catmPropose x pos o j c l y =
    let v := c.desc o.dd
    let k := (c.laneState 1 (x.stateSlot o.ags.val pos) v.word l).1.toNat
    let n := (x.cls v).km1 + 1
    { y with bestState := k, scoreSeen := false,
             proposal := (k + 1 + (jobDraw j.seed (v.laneRep l) (v.laneVar l) 0 (2 * j.step)).toNat * (n - 1) / 2 ^ 32) % n } := by
  simp only [catmPropose, catProposal, laneDraw, Nat.add_zero, Nat.mul_comm j.step 2]

theorem catmDecide_eq (x : Site) (o : DrawOps) (j : Job) (c : Core) (l : Nat) : catmDecide x o j c l =
    let v := c.desc o.dd
    let y := c.lane l
    let d := valF32 (rneF32 (Val.sub (valF32 y.scoreNow) (valF32 y.decIn)))
    let z := valF32 (rneF32 (Val.mul (valF32 (x.laneBeta j v l y)) d))
    if d.isNan ∨ z.isNan then .nonFinite
    else .set (BitVec.ofNat 32
      (if (jobDraw j.seed (v.laneRep l) (v.laneVar l) 0 (2 * j.step + 1)).toNat < expq z then y.proposal else y.bestState)) := by
  simp only [catmDecide, catMetropolis, laneDraw, Nat.mul_comm j.step 2, Bool.or_eq_true]

theorem steady_catmDecide (x : Site) (o : DrawOps) : Steady fun _ => catmDecide x o := by
  intro _ j k c l same
  rw [same]
  rfl

/-- A DRAW whose parts change lanes only and leave the job consumes no poisoned value where none stands before it, whichever cores its
positions share. -/
theorem stepCore_foldl_hit {x : Site} {f : Site → Nat → Work → Work} {j : Job} {c : Nat → Core}
    (part : ∀ pos < 64, ∀ n, x.phys pos = some n → ∀ d, sameButLanes (c n) d →
      let w := f x pos { core := d, job := j }
      w.job = j ∧ w.hit = false ∧ sameButLanes d w.core) :
    ∀ (ps : List Nat) (m : SMap Core), (∀ p ∈ ps, p < 64) → (∀ n, sameButLanes (c n) (mget {} m n)) →
      (ps.foldl (stepCore x f) (m, j, false)).2.2 = false
  | [], _, _, _ => rfl
  | p :: ps, m, inside, same => by
    rw [List.foldl_cons]
    cases served : x.phys p with
    | none =>
      have stays : stepCore x f (m, j, false) p = (m, j, false) := by simp only [stepCore, served]
      rw [stays]
      exact stepCore_foldl_hit part ps m (fun q h => inside q (.tail _ h)) same
    | some n =>
      obtain ⟨job, hit, lanes⟩ := part p (inside p (.head _)) n served (mget {} m n) (same n)
      have goes : stepCore x f (m, j, false) p = (mset {} m n (f x p { core := mget {} m n, job := j }).core, j, false) := by
        simp only [stepCore, served, job, hit]
      rw [goes]
      refine stepCore_foldl_hit part ps _ (fun q h => inside q (.tail _ h)) fun i => ?_
      rw [mget_mset]
      split
      case isTrue here =>
        subst here
        exact sameButLanes_trans (same i) lanes
      case isFalse => exact same i

theorem sameButLanes_drawLanes {c d : Core} (same : sameButLanes c d) (x : Site) (pos : Nat) (o : DrawOps) :
    x.drawLanes pos d o = x.drawLanes pos c o := by
  rw [same]
  rfl

theorem sameButLanes_current {c d : Core} (same : sameButLanes c d) (x : Site) (pos kind : Nat) (o : DrawOps) (l : Nat) :
    x.current pos kind o d l = x.current pos kind o c l := by
  rw [same]
  rfl

/-! ### DRW.GAU -/

theorem steady_decideGau (x : Site) (o : DrawOps) : Steady fun _ => decideGau x o := by
  intro _ j k c l same
  rw [same]
  rfl

theorem decideGau_eq (x : Site) (o : DrawOps) (j : Job) (c : Core) (l : Nat) : decideGau x o j c l =
    let v := c.desc o.dd
    let draw (i : Nat) : Word := jobDraw j.seed (v.laneRep l) (v.laneVar l) 2 (2 * j.step + i)
    gaussianDecision (x.laneBeta j v l (c.lane l)) (c.lane l).decIn (imgPrecision x.m (v.laneVar l)) (draw 0) (draw 1) := by
  simp only [decideGau, laneDraw, Nat.mul_comm j.step 2]

theorem Site.line_lt (x : Site) (n pos : Nat) : x.line n pos < 2048 := by
  unfold Site.line agLine
  dsimp only
  omega

theorem gauHalf_map (h : Nat) (ls : List Nat) (n : Nat → Word) :
    gauHalf h (ls.map fun l => (l, n l)) = (ls.filter fun l => l / 16 == h).map fun l => (l % 16, n l) := by
  rw [gauHalf, List.filter_map, List.map_map]
  rfl

/-- A core whose line `a` and the one behind it take the states of the lower and the upper lanes. -/
def Core.writePair (c : Core) (step a : Nat) (ns : List (Nat × Word)) : Core :=
  (c.writeWords step a (gauHalf 0 ns) false).writeWords step ((a + 1) % 2048) (gauHalf 1 ns) false

section

variable {c : Core} {step a : Nat} {ns : List (Nat × Word)}

theorem Core.sameButPlaya_writePair : sameButPlaya c (c.writePair step a ns) := by
  have lower := (c.writeWords_spec step a (gauHalf 0 ns) false).2.2
  have upper := ((c.writeWords step a (gauHalf 0 ns) false).writeWords_spec step ((a + 1) % 2048) (gauHalf 1 ns) false).2.2
  unfold sameButPlaya Core.writePair at *
  rw [upper, lower]

theorem Core.line_writePair_other {k : Nat} (lower : k ≠ a) (upper : k ≠ (a + 1) % 2048) : (c.writePair step a ns).line k = c.line k := by
  rw [Core.writePair, (Core.writeWords_spec _ _ _ _ _).1, if_neg upper, (Core.writeWords_spec _ _ _ _ _).1, if_neg lower]

/-- Lane `l`'s word of the pair. -/
theorem Core.lineWord_writePair (inside : a < 2048) {ls : List Nat} (lanes : ∀ l ∈ ls, l < 32) {l : Nat} (mem : l ∈ ls) (n : Nat → Word) :
    lineWord ((c.writePair step a (ls.map fun l => (l, n l))).line ((a + l / 16) % 2048)) (l % 16) = n l := by
  have bound := lanes l mem
  have word : ∀ h v, l / 16 = h → lineWord ((gauHalf h (ls.map fun l => (l, n l))).foldl (fun a e => setLineWord a e.1 e.2) v) (l % 16) = n l := by
    intro h v half
    have kept : l ∈ ls.filter fun l => l / 16 == h := List.mem_filter.2 ⟨mem, beq_iff_eq.2 half⟩
    rw [gauHalf_map]
    refine lineWord_foldl_map (place := fun l => l % 16) (fun i _ => Nat.mod_lt _ (by decide)) kept (fun i m same => ?_) n v
    have := beq_iff_eq.1 (List.mem_filter.1 m).2
    omega
  rw [Core.writePair, (Core.writeWords_spec _ _ _ _ _).1]
  by_cases upper : 16 ≤ l
  · have half : l / 16 = 1 := by omega
    rw [half, if_pos rfl]
    exact word 1 _ half
  · have half : l / 16 = 0 := by omega
    rw [half, Nat.add_zero, Nat.mod_eq_of_lt inside, if_neg (by omega), (Core.writeWords_spec _ _ _ _ _).1, if_pos rfl]
    exact word 0 _ half

end

section

variable {x : Site} {pos : Nat} {o : DrawOps} {r : Work × List (Nat × Word)}

@[simp] theorem finishGau_job : (finishGau x pos o r).job = r.1.job := by
  unfold finishGau
  split <;> rfl

@[simp] theorem finishGau_hit : (finishGau x pos o r).hit = r.1.hit := by
  unfold finishGau
  split <;> rfl

theorem finishGau_nil (none : r.2 = []) : finishGau x pos o r = r.1 := by simp [finishGau, none]

/-- Launched or not, the lines are those of the pair. -/
theorem finishGau_line (decided : r.2 ≠ []) (k : Nat) :
    (finishGau x pos o r).core.line k = (r.1.core.writePair x.step (x.line o.agw.val pos) r.2).line k := by
  unfold finishGau Core.writePair
  rw [if_neg (by simp [decided])]
  dsimp only
  rw [Core.advance_eq]
  generalize (r.1.core.writeWords x.step (x.line o.agw.val pos) (gauHalf 0 r.2) false).writeWords x.step
    ((x.line o.agw.val pos + 1) % 2048) (gauHalf 1 r.2) false = c1
  split <;> rfl

theorem finishGau_line_other {k : Nat} (lower : k ≠ x.line o.agw.val pos) (upper : k ≠ (x.line o.agw.val pos + 1) % 2048) :
    (finishGau x pos o r).core.line k = r.1.core.line k := by
  by_cases none : r.2 = []
  · rw [finishGau_nil none]
  · rw [finishGau_line none, Core.line_writePair_other lower upper]

/-- The new state of a lane stands in its word of the pair of lines at AGW. -/
theorem lineWord_finishGau {w : Work} {ls : List Nat} (lanes : ∀ l ∈ ls, l < 32) {l : Nat} (mem : l ∈ ls) (dec : Job → Core → Nat → Decision) :
    lineWord ((finishGau x pos o (decideLanes o ls dec w)).core.line ((x.line o.agw.val pos + l / 16) % 2048)) (l % 16) =
      w.newState o dec l := by
  rw [finishGau_line (decideLanes_ne_nil mem dec), decideLanes_written]
  exact Core.lineWord_writePair (x.line_lt _ _) lanes mem _

theorem finishGau_of_quiet (quiet : o.launch = false) :
    (finishGau x pos o r).core.launch = r.1.core.launch ∧ (finishGau x pos o r).core.launchQ = r.1.core.launchQ := by
  by_cases none : r.2 = []
  · rw [finishGau_nil none]
    exact ⟨rfl, rfl⟩
  · have core : (finishGau x pos o r).core = (r.1.core.writePair x.step (x.line o.agw.val pos) r.2).advance o := by
      simp only [finishGau, List.isEmpty_iff, none, if_false, quiet, Bool.false_eq_true, Core.writePair]
    rw [core, Core.advance_eq, Core.sameButPlaya_writePair (c := r.1.core)]
    exact ⟨rfl, rfl⟩

end

/-- The same for a DRAW that decides in every core, its decisions in the job's terms being `e`. -/
theorem State.onCluster_statesDecided {s : State} {o : DrawOps} {x : Site} {j : Job} {f : Site → Nat → Work → Work}
    {dec : Nat → Job → Core → Nat → Decision} {e : Nat → Core → Nat → Decision} {P : Nat → Core → Core → Prop} (acts : Acts s o.cl x j)
    (maps : MapsOk s) (steady : Steady dec) (agree : ∀ pos c l, dec pos j c l = e pos c l)
    (part : ∀ pos n k, pos < 64 → x.phys pos = some n → sameButStates j k →
      (∀ l, decidesAlone s o x pos l (clusterCore s o.cl n) →
        mget 0 k.states (laneKey (clusterCore s o.cl n) o.dd l) = mget 0 j.states (laneKey (clusterCore s o.cl n) o.dd l)) →
      let c := clusterCore s o.cl n
      let w := f x pos { core := c, job := k }
      w.hit = false ∧ P pos c w.core ∧ LanesDecided True (x.drawLanes pos c o) (laneKey c o.dd) (dec pos k c) k w.job) :
    statesDecided s (s.onCluster o.cl f) o x j e ∧ InCluster s (s.onCluster o.cl f) o.cl x id P := by
  obtain ⟨cluster, k, job, below⟩ := State.onCluster_decides (due := fun _ => True) acts maps steady part
  obtain rfl : (fun pos => dec pos j) = e := funext fun pos => funext fun c => funext fun l => agree pos c l
  exact ⟨below.statesDecided job, cluster⟩

/-- DRW.CAT in a cluster, the lane with its key of state DK being `key`. -/
theorem State.drwCat_spec {s : State} {o : DrawOps} {x : Site} {j : Job} {key : Core → Nat → Lane} (acts : Acts s o.cl x j) (maps : MapsOk s)
    (clean : cleanDecisions s o x)
    (keys : ∀ c l, catKey x j (c.desc o.dd) (x.cls (c.desc o.dd)).km1 c.dk l (c.lane l) = key c l) :
    (InCluster s (s.drwCat o) o.cl x id fun pos c d => d.dk = (if c.dk < (x.cls (c.desc o.dd)).km1 then c.dk + 1 else 0) ∧
      InLanes (x.drawLanes pos c o) c d fun l _ z => z = key c l) ∧
    ∃ k, (s.drwCat o).job? x.slot = some k ∧ ∀ pos n, Serves x pos n →
      let c := clusterCore s o.cl n
      (x.cls (c.desc o.dd)).km1 ≤ c.dk → ∀ l ∈ x.drawLanes pos c o, decidesAlone s o x pos l c →
        mget 0 k.states (laneKey c o.dd l) =
          if (key c l).keyNan then mget 0 j.states (laneKey c o.dd l) else BitVec.ofNat 32 (key c l).bestState := by
  refine And.imp_right ?states (State.onCluster_decides (f := drwCatCore o) (due := fun c => (x.cls (c.desc o.dd)).km1 ≤ c.dk) acts maps
    (steady_decideKeys x o) fun pos n k inside served same _ => ?part)
  case states =>
    rintro ⟨k, job, below⟩
    refine ⟨k, job, fun pos n serves due l mem alone => ?_⟩
    rw [← keys]
    exact (below.acting pos serves.1 n serves.2.1 due l mem alone).trans (decideKeys_result x o j _ l _)
  case part =>
    have clean := clean pos inside n served
    let w : Work := { core := clusterCore s o.cl n, job := k }
    have lanes := drwCatCore_inLanes (w := w) clean
    refine ⟨drwCatCore_hit (w := w) clean, ⟨drwCatCore_dk (w := w) clean, fun l mem => ?_, lanes.others⟩, drwCatCore_decided (w := w) clean⟩
    rw [lanes.acting l mem, catKey_of_same same, keys]

/-- STAGE 0 in a cluster: the proposals are set in the lanes, and the job stands. -/
theorem State.drwCatm_propose {s : State} {o : DrawOps} {x : Site} {j : Job} (acts : Acts s o.cl x j) (clean : cleanCurrents s o x 1) :
    (InCluster s (s.drwCatm o 0) o.cl x id fun pos c d => sameButLanes c d ∧
      InLanes (x.drawLanes pos c o) c d fun l y z => z = catmPropose x pos o j c l y) ∧
    (s.drwCatm o 0).job? x.slot = some j := by
  have hit : ((List.range 64).foldl (stepCore x (drwCatmCore o 0)) ((s.cluster o.cl.key).cores, j, false)).2.2 = false := by
    refine stepCore_foldl_hit (c := clusterCore s o.cl) (fun pos inside n served d same => ⟨rfl, ?_, ?_⟩) _ _ (fun p => List.mem_range.1)
      fun n => sameButLanes_refl _
    · show ((x.drawLanes pos d o).any fun l => (x.current pos 1 o d l).2) = false
      rw [sameButLanes_drawLanes same]
      exact List.any_eq_false.2 fun l m => by rw [sameButLanes_current same, clean pos inside n served l m]; exact Bool.false_ne_true
    · exact sameButLanes_foldl_modLane _ (catmPropose x pos o j d) d
  refine And.imp_right (fun ⟨_, job, eq⟩ => eq ▸ job) (State.onCluster_spec (f := drwCatmCore o 0) (I := fun k => k = j)
    (F := fun pos c => (x.drawLanes pos c o).foldl (fun d l => d.modLane l (catmPropose x pos o j c l)) c)
    acts (fun pos w same => same) (fun pos w same => by rw [← same]; rfl) rfl hit fun pos c => ⟨?_, ?_⟩)
  · exact sameButLanes_foldl_modLane _ (catmPropose x pos o j c) c
  · exact inLanes_foldl_modLane (x.drawLanes_nodup pos c o) (catmPropose x pos o j c) c

/-- STAGE 1 in a cluster: the score of each lane's current state is kept, and the job stands. -/
theorem State.drwCatm_keep {s : State} {o : DrawOps} {x : Site} {j : Job} (acts : Acts s o.cl x j) (maps : MapsOk s)
    (clean : cleanDecisions s o x) :
    (InCluster s (s.drwCatm o 1) o.cl x id fun pos c d => sameButLanes c d ∧
      InLanes (x.drawLanes pos c o) c d fun _ y z => z = { y with scoreNow := y.decIn }) ∧
    (s.drwCatm o 1).job? x.slot = some j := by
  refine And.imp_right (fun ⟨_, job, eq⟩ => eq ▸ job) (State.onCluster_run (f := drwCatmCore o 1) (I := fun _ k => k = j) acts
    (Site.oneToOne acts.1 maps) rfl (fun pos n w inside served core job hit => ⟨job, ⟨?_, ?_⟩, ?_⟩) fun _ _ _ _ same => same)
  · exact sameButLanes_foldl_modLane _ (fun _ y => { y with scoreNow := y.decIn }) w.core
  · exact inLanes_foldl_modLane (x.drawLanes_nodup pos w.core o) (fun _ y => { y with scoreNow := y.decIn }) w.core
  · show (w.hit || (x.drawLanes pos w.core o).any fun l => (w.core.lane l).decPoison) = false
    rw [hit, core, Bool.false_or]
    exact List.any_eq_false.2 fun l m => by rw [clean pos inside n served l m]; exact Bool.false_ne_true

/-- Settles O8. The parts of a cluster act on cores of their own (R204), so each lane decides on the core that stood before; a variable that one
lane alone decides has its old state until then. What each operation writes back is said by the rules of its part. -/
theorem draws : Obligations.Draws := by
  unfold Obligations.Draws
  refine ⟨fun s o x j acts maps clean read => ⟨_, rfl, ?bin⟩, fun s o x j acts maps clean => ⟨_, rfl, ?cat⟩,
    fun s o x j acts maps clean => ⟨_, rfl, ?gau⟩⟩
  case bin =>
    refine State.onCluster_statesDecided (f := drwBinCore o) acts maps (steady_decideBin x o) (fun pos => decideBin_eq x pos o j)
      fun pos n k inside served same old => ?_
    have lanes : ∀ l ∈ x.drawLanes pos (clusterCore s o.cl n) o, l < 32 := fun l => Site.lt_of_mem_drawLanes
    dsimp only
    rw [drwBinCore_eq (w := { core := clusterCore s o.cl n, job := k }) (read pos inside n served)]
    refine ⟨?_, ⟨fun i other => ?_, fun word l mem alone => ?_, fun quiet => ?_, fun stays => ?_⟩, ?_⟩
    · rw [finishDraw_hit, decideLanes_hit (clean pos inside n served)]
    · rw [finishDraw_line_other other, decideLanes_core]
    · have state := Work.newState_of_old (pos := pos) (steady_decideBin x o) same (old l alone)
      rw [decideBin_eq] at state
      rw [← state]
      exact ⟨lineWord_finishDraw_bit lanes mem _ word, launch_finishDraw_bit lanes mem _⟩
    · rw [finishDraw_launch_of_quiet quiet, decideLanes_core]
    · rw [finishDraw_descs (stays.imp id fun none => by rw [decideLanes_written]; simp [none]), decideLanes_core]
    · rw [finishDraw_job]
      exact decideLanes_decided o _ (decideBin x pos o) { core := clusterCore s o.cl n, job := k }
  case cat =>
    refine State.drwCat_spec acts maps clean fun c l => ?_
    rw [catKey_eq]
    rfl
  case gau =>
    refine State.onCluster_statesDecided (f := drwGauCore o) acts maps (steady_decideGau x o) (fun _ => decideGau_eq x o j)
      fun pos n k inside served same old => ?_
    dsimp only
    unfold drwGauCore
    refine ⟨?_, ⟨fun i lower upper => ?_, fun l mem alone => ?_, fun quiet => ?_⟩, ?_⟩
    · rw [finishGau_hit, decideLanes_hit (clean pos inside n served)]
    · rw [finishGau_line_other lower upper, decideLanes_core]
    · have state := Work.newState_of_old (pos := pos) (steady_decideGau x o) same (old l alone)
      rw [decideGau_eq] at state
      rw [← state]
      exact lineWord_finishGau (fun l => Site.lt_of_mem_drawLanes) mem _
    · obtain ⟨launch, queue⟩ := finishGau_of_quiet (x := x) (pos := pos)
        (r := decideLanes o (x.drawLanes pos (clusterCore s o.cl n) o) (decideGau x o) { core := clusterCore s o.cl n, job := k }) quiet
      exact ⟨launch.trans (congrArg Core.launch (decideLanes_core ..)), queue.trans (congrArg Core.launchQ (decideLanes_core ..))⟩
    · rw [finishGau_job]
      exact decideLanes_decided o _ (decideGau x o) { core := clusterCore s o.cl n, job := k }

/-- Settles O9. Stages 0 and 1 change lanes only and leave the job; stage 2 decides as every DRAW does. -/
theorem drawCategoricalMetropolis : Obligations.DrawCategoricalMetropolis := by
  unfold Obligations.DrawCategoricalMetropolis
  refine ⟨fun s o x j acts clean => ⟨_, rfl, ?propose⟩, fun s o x j acts maps clean => ⟨_, rfl, ?keep⟩,
    fun s o x j acts maps clean => ⟨_, rfl, ?decide⟩⟩
  case propose =>
    have spec := State.drwCatm_propose acts clean
    simp only [catmPropose_eq] at spec
    exact spec.symm
  case keep => exact (State.drwCatm_keep acts maps clean).symm
  case decide =>
    refine (State.onCluster_statesDecided (f := drwCatmCore o 2) (P := fun _ _ _ => True) acts maps (steady_catmDecide x o)
      (fun _ => catmDecide_eq x o j) fun pos n k inside served same _ => ⟨?_, trivial, ?_⟩).1
    · exact finishDraw_hit.trans (decideLanes_hit (clean pos inside n served) o _)
    · show LanesDecided _ _ _ _ _ (finishDraw x pos o 8 _).job
      rw [finishDraw_job]
      exact decideLanes_decided o _ (catmDecide x o) { core := clusterCore s o.cl n, job := k }

/-! ### Spins that their fields decide -/

def spinDraw : DrawOps := { cl := { die := 0, num := 0 }, lm := 0, dd := 0, agw := 0, launch := true, sel := 0, ags := 0, inc := false }

/-- A cluster of one valid core and two replicas. -/
def spinSite : Site :=
  { slot := 0, p := [], m := [], input := [], t := progTiling [] 0, half := 0, cl := 0, ags := [], coreMap := [some 0],
    step := 0, phaseBit := false, epass := false, replicas := 2, cycle := 0, checkCode := 0, observed := [] }

/-- Its core: at β = 1, the field of lane 0 is 1000, that of lane 1 is −1000. -/
def spinCore : Core :=
  (Core.setLane {} 0 { decIn := 0x447A0000, betaLoaded := true, beta := 0x3F800000 }).setLane 1
    { decIn := 0xC47A0000, betaLoaded := true, beta := 0x3F800000 }

def spinState : State := { State.reset with clusters := [(0, { coreMap := [some 0], cores := [(0, spinCore)] })] }

theorem spinSite_drawLanes : spinSite.drawLanes 0 spinCore spinDraw = [0, 1] := by decide

/-- Each lane decides its variable alone. -/
theorem spinDraw_alone (l : Nat) : decidesAlone spinState spinDraw spinSite 0 l spinCore := by
  intro q _ m served i _ same
  obtain ⟨rfl, rfl⟩ : q = 0 ∧ m = 0 := by
    cases q with
    | zero => exact ⟨rfl, (Option.some.inj served).symm⟩
    | succ q => cases served
  have keys : (0 + i) * 2 ^ 40 + 0 = (0 + l) * 2 ^ 40 + 0 := same
  exact ⟨rfl, by omega⟩

/-- Whatever is drawn, lane 0 takes spin +1 and lane 1 spin −1. -/
theorem spinCore_decides (j : Job) :
    decideBin spinSite 0 spinDraw j spinCore 0 = .set 1 ∧ decideBin spinSite 0 spinDraw j spinCore 1 = .set 0 := by
  have up : ∀ u, binaryHeatBath 0x3F800000 0x447A0000 u = .set 1 := fun u => by
    have sure : sigq (valF32 (rneF32 (Val.mul (.ofInt 2) (betaTimes 0x3F800000 0x447A0000)))) = 2 ^ 32 := by decide +kernel
    have number : (betaTimes 0x3F800000 0x447A0000).isNan = false := by decide +kernel
    simp only [binaryHeatBath, number, sure, u.isLt, if_true, Bool.false_eq_true, if_false]
  have down : ∀ u, binaryHeatBath 0x3F800000 0xC47A0000 u = .set 0 := fun u => by
    have never : sigq (valF32 (rneF32 (Val.mul (.ofInt 2) (betaTimes 0x3F800000 0xC47A0000)))) = 0 := by decide +kernel
    have number : (betaTimes 0x3F800000 0xC47A0000).isNan = false := by decide +kernel
    simp only [binaryHeatBath, number, never, Nat.not_lt_zero, Bool.false_eq_true, if_false]
  have rule : (spinSite.cls (spinCore.desc spinDraw.dd)).rule ≠ 1 := by decide +kernel
  rw [decideBin_eq, decideBin_eq]
  dsimp only
  rw [if_neg rule, if_neg rule]
  exact ⟨up _, down _⟩

end Sys2Proof.Machine

/-! PROOF of O7: FLD.ENRG and the reductions of slot F. An operation acts part by part on the cores of its cluster; what each part makes of its
core and of its job is said once for each operation, and put together by one rule for clusters. -/

namespace Sys2Proof.Machine

open Sys2Proof Sys2Proof.Safety

/-! ### The parts of an operation, core by core -/

section

variable {x : Site} {f : Site → Nat → Work → Work} {I : Job → Prop} {R : Nat → Core → Prop} {P : Nat → Core → Core → Prop} {c₀ : Nat → Core}

theorem stepCore_unserved {acc : SMap Core × Job × Bool} {pos : Nat} (unserved : x.phys pos = none) : stepCore x f acc pos = acc := by
  simp only [stepCore, unserved]

theorem stepCore_served {acc : SMap Core × Job × Bool} {pos n : Nat} (served : x.phys pos = some n) :
    stepCore x f acc pos = let w := f x pos { core := mget {} acc.1 n, job := acc.2.1, hit := acc.2.2 }
      (mset {} acc.1 n w.core, w.job, w.hit) := by
  simp only [stepCore, served]

/-- What the part of an operation for position `pos` makes of core `n` and its job: it keeps `I` of the job and `R` of the core, consumes no
poisoned value, and on the core as it stood before the operation does `P`. -/
structure PartDoes (I : Job → Prop) (R : Nat → Core → Prop) (P : Nat → Core → Core → Prop) (c₀ : Nat → Core) (pos n : Nat) (w w' : Work) :
    Prop where
  job : I w'.job
  core : R n w'.core
  clean : w'.hit = false
  acts : w.core = c₀ n → P pos (c₀ n) w'.core

/-- Such parts one after another: a core that one position alone serves changes by `P` from what stood there before. -/
theorem stepCore_parts
    (part : ∀ pos < 64, ∀ n, x.phys pos = some n → ∀ w, I w.job → R n w.core → w.hit = false → PartDoes I R P c₀ pos n w (f x pos w))
    (ps : List Nat) (acc : SMap Core × Job × Bool) (once : ps.Nodup) (inside : ∀ p ∈ ps, p < 64) (job : I acc.2.1)
    (cores : ∀ p < 64, ∀ n, x.phys p = some n → R n (mget {} acc.1 n)) (clean : acc.2.2 = false) :
    let r := ps.foldl (stepCore x f) acc
    I r.2.1 ∧ r.2.2 = false ∧ (∀ n, (∀ p ∈ ps, x.phys p ≠ some n) → mget {} r.1 n = mget {} acc.1 n) ∧
      ∀ pos ∈ ps, ∀ n, x.phys pos = some n → (∀ q ∈ ps, x.phys q = some n → q = pos) → mget {} acc.1 n = c₀ n → P pos (c₀ n) (mget {} r.1 n) := by
  induction ps generalizing acc with
  | nil => exact ⟨job, clean, fun _ _ => rfl, fun _ m => absurd m List.not_mem_nil⟩
  | cons p ps ih =>
    obtain ⟨fresh, once⟩ := List.nodup_cons.1 once
    have inside' : ∀ q ∈ ps, q < 64 := fun q m => inside q (.tail _ m)
    rw [List.foldl_cons]
    cases served : x.phys p with
    | none =>
      rw [stepCore_unserved served]
      obtain ⟨hI, hit, idle, acting⟩ := ih acc once inside' job cores clean
      refine ⟨hI, hit, fun n h => idle n fun q m => h q (.tail _ m), fun pos m n at_ alone old => ?_⟩
      have later : pos ∈ ps := (List.mem_cons.1 m).resolve_left fun e => by rw [e, served] at at_; cases at_
      exact acting pos later n at_ (fun q mq => alone q (.tail _ mq)) old
    | some i =>
      have does := part p (inside p (.head _)) i served { core := mget {} acc.1 i, job := acc.2.1, hit := acc.2.2 } job
        (cores p (inside p (.head _)) i served) clean
      rw [stepCore_served served]
      generalize f x p { core := mget {} acc.1 i, job := acc.2.1, hit := acc.2.2 } = w at does
      have written : ∀ n, mget {} (mset {} acc.1 i w.core) n = if n = i then w.core else mget {} acc.1 n := mget_mset _ _ _ _
      obtain ⟨hI, hit, idle, acting⟩ := ih (mset {} acc.1 i w.core, w.job, w.hit) once inside' does.job
        (fun q hq n at_ => by
          rw [written]
          split
          case isTrue same => exact same ▸ does.core
          case isFalse => exact cores q hq n at_) does.clean
      refine ⟨hI, hit, fun n h => ?_, fun pos m n at_ alone old => ?_⟩
      · rw [idle n fun q m => h q (.tail _ m), written, if_neg fun same : n = i => h p (.head _) (same ▸ served)]
      · by_cases here : n = i
        · subst here
          obtain rfl : p = pos := alone p (.head _) served
          rw [idle n fun q mq served' => fresh (alone q (.tail _ mq) served' ▸ mq), written, if_pos rfl]
          exact does.acts old
        · have later : pos ∈ ps := (List.mem_cons.1 m).resolve_left fun e => here (Option.some.inj (at_.symm.trans (e ▸ served)))
          exact acting pos later n at_ (fun q mq => alone q (.tail _ mq)) (by rw [written, if_neg here]; exact old)

end

section

variable {s : State} {cl : ClusterRef} {x : Site} {g : SMap AddrGen → SMap AddrGen} {P : Nat → Core → Core → Prop}

/-- What an operation on a cluster leaves: the cores of the cluster replaced, its generators stepped, the job set. -/
def State.putCores (s : State) (cl : ClusterRef) (slot : Nat) (g : SMap AddrGen → SMap AddrGen) (cores : SMap Core) (k : Job) : State :=
  (s.modCluster cl.key fun c => { c with cores := cores, ags := g c.ags }).setJob slot k

theorem State.cluster_putCores (slot : Nat) (cores : SMap Core) (k : Job) (i : Nat) : (s.putCores cl slot g cores k).cluster i =
    if i = cl.key then { s.cluster cl.key with cores := cores, ags := g (s.cluster cl.key).ags } else s.cluster i :=
  s.cluster_modCluster cl.key i fun c => { c with cores := cores, ags := g c.ags }

theorem State.job?_putCores (slot : Nat) (cores : SMap Core) (k : Job) (i : Nat) :
    (s.putCores cl slot g cores k).job? i = if i = slot then some k else s.job? i :=
  State.job?_setJob _ slot i k

theorem clusterCore_putCores (slot : Nat) (cores : SMap Core) (k : Job) (n : Nat) :
    clusterCore (s.putCores cl slot g cores k) cl n = mget {} cores n := by
  rw [clusterCore, State.cluster_putCores, if_pos rfl]

theorem State.putCores_touches (slot : Nat) (cores : SMap Core) (k : Job) :
    OnlyTouches [.clusters, .jobs, .free] s (s.putCores cl slot g cores k) :=
  Kept.frame (State.setJob_kept slot k (State.modCluster_kept cl.key _ (Kept.refl s) (fun _ _ ok => ok) (by decide)) (by decide))

theorem inCluster_putCores {cores : SMap Core} {k : Job} (valid : ∀ pos n, Serves x pos n → P pos (clusterCore s cl n) (mget {} cores n))
    (idle : ∀ n, (∀ pos < 64, x.phys pos ≠ some n) → mget {} cores n = clusterCore s cl n) :
    InCluster s (s.putCores cl x.slot g cores k) cl x g P where
  valid pos n serves := by rw [clusterCore_putCores]; exact valid pos n serves
  idle n unserved := by rw [clusterCore_putCores]; exact idle n unserved
  gens := by rw [State.cluster_putCores, if_pos rfl]
  clusters i other := by rw [State.cluster_putCores, if_neg other]
  jobs i other := by rw [State.job?_putCores, if_neg other]
  own := by rw [State.cluster_putCores, if_pos rfl]
  rest := State.putCores_touches _ _ _

/-- An operation on a cluster, part by part, where no part consumes a poisoned value. -/
theorem State.onCluster_parts {j : Job} {f : Site → Nat → Work → Work} {I : Job → Prop} {R : Nat → Core → Prop} (acts : Acts s cl x j) (job : I j)
    (cores : ∀ pos < 64, ∀ n, x.phys pos = some n → R n (clusterCore s cl n))
    (part : ∀ pos < 64, ∀ n, x.phys pos = some n → ∀ w, I w.job → R n w.core → w.hit = false →
      PartDoes I R P (clusterCore s cl) pos n w (f x pos w)) :
    (∃ k, (s.onCluster cl f g).job? x.slot = some k ∧ I k) ∧ InCluster s (s.onCluster cl f g) cl x g P := by
  obtain ⟨hI, hit, idle, acting⟩ := stepCore_parts part (List.range 64) ((s.cluster cl.key).cores, j, false) List.nodup_range
    (fun p m => List.mem_range.1 m) job cores rfl
  have run : s.onCluster cl f g = s.putCores cl x.slot g ((List.range 64).foldl (stepCore x f) ((s.cluster cl.key).cores, j, false)).1
      ((List.range 64).foldl (stepCore x f) ((s.cluster cl.key).cores, j, false)).2.1 := by
    simp only [State.onCluster, acts.1, acts.2, hit, Bool.false_eq_true, if_false]
    rfl
  rw [run]
  refine ⟨⟨_, by rw [State.job?_putCores, if_pos rfl], hI⟩, inCluster_putCores (fun pos n serves => ?_) fun n unserved => ?_⟩
  · exact acting pos (List.mem_range.2 serves.1) n serves.2.1 (fun q m => serves.2.2 q (List.mem_range.1 m)) rfl
  · exact idle n fun p m => unserved p (List.mem_range.1 m)

end

end Sys2Proof.Machine

namespace Sys2Proof.Safety

open Sys2Proof Sys2Proof.Machine

theorem InCluster.imp {s t : State} {cl : ClusterRef} {x : Site} {g : SMap AddrGen → SMap AddrGen} {P Q : Nat → Core → Core → Prop}
    (h : InCluster s t cl x g P) (imp : ∀ pos c d, P pos c d → Q pos c d) : InCluster s t cl x g Q :=
  { h with valid := fun pos n serves => imp pos _ _ (h.valid pos n serves) }

theorem InLanes.imp {ls : List Nat} {c d : Core} {P Q : Nat → Lane → Lane → Prop} (h : InLanes ls c d P)
    (imp : ∀ l ∈ ls, P l (c.lane l) (d.lane l) → Q l (c.lane l) (d.lane l)) : InLanes ls c d Q :=
  { h with acting := fun l mem => imp l mem (h.acting l mem) }

end Sys2Proof.Safety

namespace Sys2Proof.Machine

open Sys2Proof Sys2Proof.Safety

/-! ### A job of which only counts change -/

/-- Two jobs agree but for their counts. -/
def sameButCounts (j k : Job) : Prop := ∃ n, k = { j with counts := n }

theorem sameButCounts_refl (j : Job) : sameButCounts j j := ⟨j.counts, rfl⟩

theorem sameButCounts_count {j : Job} {w : Work} (same : sameButCounts j w.job) (c : Counts) : sameButCounts j (w.count c).job := by
  obtain ⟨n, same⟩ := same
  exact ⟨n.add c, by rw [Work.count, same]⟩

theorem sameButCounts_id {j k : Job} (same : sameButCounts j k) : k.id = j.id := by
  obtain ⟨n, same⟩ := same
  rw [same]

/-! ### Lanes of a core -/

theorem Site.lanesOf_nodup (x : Site) (pos : Nat) (c : Core) (lm : Fin 4) (rep : Nat → Nat) : (x.lanesOf pos c lm rep).Nodup :=
  (x.lanes_nodup pos c lm).filter _

theorem energyLanes_nodup (d : Descriptor) {ls : List Nat} (once : ls.Nodup) : (energyLanes d ls).Nodup := by
  unfold energyLanes
  split
  · split
    · exact List.nodup_nil
    · exact List.nodup_singleton 0
  · exact once

/-! ### FLD.ENRG -/

/-- What FLD.ENRG makes of the lane that takes the term of lane `l` of core `c` (R148): on the exact path twice the term is added to ENERGY, on
the ordered one the rounded term stands at the variable's place in the row buffer. -/
def takeEnergy (x : Site) (o : FldEnrgOps) (pos : Nat) (c : Core) (l : Nat) (z : Lane) : Lane :=
  let d := c.desc o.dd
  let kind := (x.cls d).kind
  let y := c.lane l
  let st := c.laneState kind (x.stateSlot o.ags.val pos) d.word l
  let u := x.unary c d l (if kind = 1 then st.1.toNat else 0)
  let t := energyTerm kind st.1 u.1 (regVal y.field.fmt y.field.reg) (valF32 (imgPrecision x.m (d.laneVar l)))
  let p := z.energy.poison || (y.field.poison || st.2 || u.2)
  if x.exact then
    let r := longsumAdd z.energy.reg z.energy.sticky (longsumOf t.1)
    { z with energy := { z.energy with reg := r.1, sticky := r.2, poison := p } }
  else
    { z with rowBuf := mset 0 z.rowBuf (d.laneVar l % 32) (BitVec.ofNat 64 (plusZero f64 (f64.round t.2))), energy := { z.energy with poison := p } }

/-- The term of a lane goes to the lane itself, but on the ordered path of a spread set to lane 0 (log entry 23). -/
theorem enrgLane_eq (x : Site) (o : FldEnrgOps) (pos : Nat) (c d : Core) (l : Nat) : enrgLane x o pos c d l =
    d.modLane (if x.exact then l else (c.desc o.dd).energyLane l) (takeEnergy x o pos c l) := by
  unfold enrgLane
  by_cases exact : x.exact
  · rw [if_pos exact, if_pos exact]
    exact congrArg (d.modLane l) (funext fun z => (if_pos exact).symm)
  · rw [if_neg exact, if_neg exact]
    exact congrArg (d.modLane _) (funext fun z => (if_neg exact).symm)

section

variable {x : Site} {o : FldEnrgOps} {pos : Nat} {c : Core}

theorem sameButLanes_fldEnrg (ls : List Nat) : sameButLanes c (ls.foldl (enrgLane x o pos c) c) :=
  sameButLanes_foldl (fun d l => by rw [enrgLane_eq]; exact sameButLanes_modLane d _ _) ls c

theorem inLanes_fldEnrg (own : x.exact = true ∨ (c.desc o.dd).spread = false) {ls : List Nat} (once : ls.Nodup) :
    InLanes ls c (ls.foldl (enrgLane x o pos c) c) fun l y z => z = takeEnergy x o pos c l y := by
  have place : ∀ l, (if x.exact then l else (c.desc o.dd).energyLane l) = l := fun l => by
    rcases own with exact | replicas
    · rw [if_pos exact]
    · rw [Descriptor.energyLane, replicas, if_neg Bool.false_ne_true, ite_self]
  have parts : enrgLane x o pos c = fun d l => d.modLane l (takeEnergy x o pos c l) :=
    funext fun d => funext fun l => by rw [enrgLane_eq, place]
  rw [parts]
  exact inLanes_foldl_modLane once (takeEnergy x o pos c) c

end


/-- FLD.ENRG in a cluster. -/
theorem fldEnrg_spec {s : State} {o : FldEnrgOps} {x : Site} {j : Job} (acts : Acts s o.cl x j) :
    (s.fldEnrg o).job? x.slot = some j ∧
      InCluster s (s.fldEnrg o) o.cl x (fun a => if o.inc then agStep a o.ags.val else a) fun pos c d => sameButLanes c d ∧
        (x.exact = true ∨ (c.desc o.dd).spread = false →
          InLanes (x.lanesOf pos c o.lm (c.desc o.dd).laneRep) c d fun l y z => z = takeEnergy x o pos c l y) := by
  refine And.imp_left (fun ⟨_, job, eq⟩ => eq ▸ job) (State.onCluster_parts (I := fun k => k = j) (R := fun _ _ => True) acts rfl
    (fun _ _ _ _ => trivial) fun pos inside n served w job _ clean => ⟨job, trivial, clean, fun old => ?_⟩)
  rw [← old]
  exact ⟨sameButLanes_fldEnrg _, fun own => inLanes_fldEnrg own (x.lanesOf_nodup _ _ _ _)⟩

/-! ### RED.ETOT -/

/-- ROW in one lane (R149): the row sum enters the block sum in ENERGY, and the buffer is empty (log entry 16). -/
def Lane.takeRow (y : Lane) : Lane :=
  { y with energy := { y.energy with reg := regOf .f64 (Val.add (regVal .f64 y.energy.reg) (valF64 (rowSum y))) }, rowBuf := [] }

/-- ROW in a cluster. -/
theorem redEtot_row_spec {s : State} {o : RedEtotOps} {x : Site} {j : Job} (acts : Acts s o.cl x j) (row : o.mode = .row) :
    (s.redEtot o).job? x.slot = some j ∧ InCluster s (s.redEtot o) o.cl x id fun pos c d => sameButLanes c d ∧
      InLanes (energyLanes (c.desc o.dd) (x.lanesOf pos c o.lm (c.desc o.dd).laneRep)) c d fun _ y z => z = y.takeRow := by
  have parts : redEtotCore o = fun x pos w =>
      { w with core := etotRow (w.core.desc o.dd) (x.lanesOf pos w.core o.lm (w.core.desc o.dd).laneRep) w.core } := by
    unfold redEtotCore
    rw [row]
  rw [State.redEtot, parts]
  refine And.imp_left (fun ⟨_, job, eq⟩ => eq ▸ job) (State.onCluster_parts (I := fun k => k = j) (R := fun _ _ => True) acts rfl
    (fun _ _ _ _ => trivial) fun pos inside n served w job _ clean => ⟨job, trivial, clean, fun old => ?_⟩)
  rw [← old]
  exact ⟨sameButLanes_foldl_modLane _ (fun _ => Lane.takeRow) w.core,
    inLanes_foldl_modLane (energyLanes_nodup _ (x.lanesOf_nodup _ _ _ _)) (fun _ => Lane.takeRow) w.core⟩

/-- The lanes whose ENERGY registers PUSH sends to the trees (log entry 16). -/
def Site.pushLanes (x : Site) (d : Descriptor) (ls : List Nat) : List Nat := if x.exact then ls else energyLanes d ls

theorem Site.pushLanes_nodup (x : Site) (d : Descriptor) {ls : List Nat} (once : ls.Nodup) : (x.pushLanes d ls).Nodup := by
  unfold Site.pushLanes
  split
  · exact once
  · exact energyLanes_nodup d once

/-- A lane whose ENERGY has gone to a tree. -/
def Lane.pushed (y : Lane) : Lane := { y with energy := {} }

section

variable (x : Site) (d : Descriptor) (ls : List Nat) (w : Work)

/-- Core and hit of a PUSH: the lanes' pushes one after another. The count of pushes of a spread set changes neither. -/
theorem etotPush_eq_foldl : (etotPush x d ls w).core = ((x.pushLanes d ls).foldl (etotPushLane x d) w).core ∧
    (etotPush x d ls w).hit = ((x.pushLanes d ls).foldl (etotPushLane x d) w).hit := by
  unfold etotPush Site.pushLanes
  cases exact : x.exact <;> cases spread : d.spread <;> simp [energyLanes, spread]

theorem etotPush_core : (etotPush x d ls w).core = (x.pushLanes d ls).foldl (fun c l => c.modLane l Lane.pushed) w.core :=
  (etotPush_eq_foldl x d ls w).1.trans (Work.foldl_core (fun _ _ => rfl) _ w)

variable {w}

/-- No lane of a core holds a poisoned energy. -/
def cleanEnergies (c : Core) : Prop := ∀ l, (c.lane l).energy.poison = false

theorem cleanEnergies_push {c : Core} (clean : cleanEnergies c) (l : Nat) : cleanEnergies (c.modLane l Lane.pushed) := by
  intro k
  rw [Core.lane_modLane]
  split
  · rfl
  · exact clean k

theorem cleanEnergies_foldl_push (ls : List Nat) {c : Core} (clean : cleanEnergies c) :
    cleanEnergies (ls.foldl (fun c l => c.modLane l Lane.pushed) c) :=
  List.foldlRecOn ls _ clean fun _ clean l _ => cleanEnergies_push clean l

theorem foldl_etotPushLane_hit (clean : cleanEnergies w.core) : (ls.foldl (etotPushLane x d) w).hit = w.hit := by
  induction ls generalizing w with
  | nil => rfl
  | cons l ls ih =>
    rw [List.foldl_cons, ih (cleanEnergies_push clean l)]
    show (w.hit || (w.core.lane l).energy.poison) = w.hit
    rw [clean, Bool.or_false]

end

/-- PUSH in a cluster of which no ENERGY is poisoned. -/
theorem redEtot_push_spec {s : State} {o : RedEtotOps} {x : Site} {j : Job} (acts : Acts s o.cl x j) (push : o.mode = .push)
    (clean : ∀ pos < 64, ∀ n, x.phys pos = some n → cleanEnergies (clusterCore s o.cl n)) :
    InCluster s (s.redEtot o) o.cl x id fun pos c d => sameButLanes c d ∧
      InLanes (x.pushLanes (c.desc o.dd) (x.lanesOf pos c o.lm (c.desc o.dd).laneRep)) c d fun _ y z => z = y.pushed := by
  have parts : redEtotCore o = fun x pos w => etotPush x (w.core.desc o.dd) (x.lanesOf pos w.core o.lm (w.core.desc o.dd).laneRep) w := by
    unfold redEtotCore
    rw [push]
  rw [State.redEtot, parts]
  refine (State.onCluster_parts (I := fun _ => True) (R := fun _ => cleanEnergies) acts trivial clean
    fun pos inside n served w _ clean hit => ⟨trivial, ?_, ?_, fun old => ?_⟩).2
  · rw [etotPush_core]
    exact cleanEnergies_foldl_push _ clean
  · rw [(etotPush_eq_foldl _ _ _ _).2, foldl_etotPushLane_hit _ _ _ clean, hit]
  · rw [← old, etotPush_core]
    exact ⟨sameButLanes_foldl_modLane _ (fun _ => Lane.pushed) w.core,
      inLanes_foldl_modLane (x.pushLanes_nodup _ (x.lanesOf_nodup _ _ _ _)) (fun _ => Lane.pushed) w.core⟩

/-! ### RED.PART and RED.PADD -/

/-- The parts of the lanes of a list, as RED.PART launches them. -/
def Core.partsOf (c : Core) (g : GroupSel) (ls : List Nat) : List LanePart :=
  ls.map fun l => { lane := l, value := ((c.lane l).partOf g).1, poison := ((c.lane l).partOf g).2 }

/-- A lane of which RED.PART has sent the part: ENERGY is closed, the other groups stand. -/
def Lane.parted (g : GroupSel) (y : Lane) : Lane :=
  if g = .energy then { y with energy := { y.energy with isOpen := false, held := true } } else y

/-- A core whose lanes RED.PART has sent. -/
def Core.parted (c : Core) (g : GroupSel) (ls : List Nat) : Core :=
  if g = .energy then ls.foldl (fun c l => c.modLane l (Lane.parted .energy)) c else c

theorem Core.parted_inLanes (c : Core) (g : GroupSel) {ls : List Nat} (once : ls.Nodup) :
    InLanes ls c (c.parted g ls) fun _ y z => z = y.parted g := by
  unfold Core.parted
  split
  case isTrue energy => exact energy ▸ inLanes_foldl_modLane once (fun _ => Lane.parted .energy) c
  case isFalse other => exact ⟨fun _ _ => (if_neg other).symm, fun _ _ => rfl⟩

theorem Core.sameButLanes_parted (c : Core) (g : GroupSel) (ls : List Nat) : sameButLanes c (c.parted g ls) := by
  unfold Core.parted
  split
  · exact sameButLanes_foldl_modLane ls (fun _ => Lane.parted .energy) c
  · exact sameButLanes_refl c

theorem redPartCore_nil {o : RedPartOps} {x : Site} {pos : Nat} {w : Work} (none : x.lanes pos w.core o.lm = []) : redPartCore o x pos w = w := by
  rw [redPartCore, none]
  rfl

/-- One core's part of RED.PART with lanes to send. -/
theorem redPartCore_of_lanes {o : RedPartOps} {x : Site} {pos : Nat} {w : Work} (some : x.lanes pos w.core o.lm ≠ []) : ∃ n,
    redPartCore o x pos w =
      let c := w.core
      let ls := x.lanes pos c o.lm
      let sent : Beat := { kind := .part, partJ := o.j.val, partN := o.nm1.val + 1, parts := c.partsOf o.grp ls }
      Work.count { w with core := Core.check { c.parted o.grp ls with launch := sent } x.step (sent.parts.flatMap fun e => partWords e.value) } n := by
  unfold redPartCore
  dsimp only
  rw [if_neg (by simpa using some)]
  refine ⟨_, congrArg (fun c : Core => Work.count { w with core := Core.check { c with launch := _ } x.step _ } _) ?_⟩
  unfold Core.parted
  simp only [beq_iff_eq]
  rfl

/-- RED.PART in a cluster. -/
theorem redPart_spec {s : State} {o : RedPartOps} {x : Site} {j : Job} (acts : Acts s o.cl x j) :
    (∃ k, (s.redPart o).job? x.slot = some k ∧ sameButCounts j k) ∧ InCluster s (s.redPart o) o.cl x id fun pos c d =>
      let ls := x.lanes pos c o.lm
      (ls = [] → d = c) ∧
      (ls ≠ [] → d = { c with lanes := d.lanes, launch := d.launch, checkCrc := d.checkCrc } ∧
        d.launch = { kind := .part, partJ := o.j.val, partN := o.nm1.val + 1, parts := c.partsOf o.grp ls } ∧
        InLanes ls c d fun _ y z => z = y.parted o.grp) := by
  refine State.onCluster_parts (I := sameButCounts j) (R := fun _ _ => True) acts (sameButCounts_refl j) (fun _ _ _ _ => trivial)
    fun pos inside n served w same _ clean => ?_
  by_cases none : x.lanes pos w.core o.lm = []
  · rw [redPartCore_nil none]
    exact ⟨same, trivial, clean, fun old => old ▸ ⟨fun _ => rfl, fun some => absurd none some⟩⟩
  · obtain ⟨n, part⟩ := redPartCore_of_lanes none
    rw [part]
    refine ⟨sameButCounts_count same n, trivial, clean, fun old => old ▸ ⟨fun empty => absurd empty none, fun _ => ⟨?_, rfl, ?_⟩⟩⟩
    · have lanes := w.core.sameButLanes_parted o.grp (x.lanes pos w.core o.lm)
      dsimp only [Work.count, Core.check]
      rw [lanes]
    · have lanes := w.core.parted_inLanes o.grp (x.lanes_nodup pos w.core o.lm)
      exact ⟨lanes.acting, lanes.others⟩

/-- A group with a part added, on every path (R133): exactly on the INT and LONGSUM paths, by one rounded addition on the others. -/
def Group.addPart (g : Group) (y : Lane) : Group :=
  { g with
    reg := (match g.fmt with
      | .int => intReg (intOf g.reg + intOf y.partIn)
      | .longsum => BitVec.ofInt 128 (g.reg.toInt + y.partIn.toInt)
      | .f32 => regOf .f32 (Val.add (regVal .f32 g.reg) (regVal .f32 y.partIn))
      | .f64 => regOf .f64 (Val.add (regVal .f64 g.reg) (regVal .f64 y.partIn))),
    sticky := if g.fmt = .longsum then (longsumAdd g.reg g.sticky y.partIn.toInt).2 else g.sticky,
    poison := g.poison || y.partInPoison }

theorem paddLane_eq (o : RedPaddOps) (y : Lane) :
    paddLane o y = if y.partInJ = o.j.val then y.setGroup o.grp ((y.group o.grp).addPart y) else y := by
  unfold paddLane
  rw [ite_not]
  refine congrArg (fun g => if y.partInJ = o.j.val then y.setGroup o.grp g else y) ?_
  unfold Group.addPart
  cases fmt : (y.group o.grp).fmt <;> simp [longsumAdd]

/-- What RED.PADD makes of one lane: FINAL closes the field to the decision input. -/
def Lane.padded (o : RedPaddOps) (y : Lane) : Lane := if o.final then ((paddLane o y).toDecision .field).1 else paddLane o y

/-- RED.PADD in one lane of a core, behind others. -/
def paddStep (o : RedPaddOps) (a : Work) (l : Nat) : Work :=
  let y := paddLane o (a.core.lane l)
  if o.final then
    let r := y.toDecision .field
    Work.count { a with core := a.core.setLane l r.1 } r.2
  else { a with core := a.core.setLane l y }

theorem redPaddCore_eq_foldl (o : RedPaddOps) (x : Site) (pos : Nat) (w : Work) :
    redPaddCore o x pos w = (x.lanes pos w.core o.lm).foldl (paddStep o) w := rfl

section

variable (o : RedPaddOps) (a : Work) (l : Nat)

theorem paddStep_core : (paddStep o a l).core = a.core.modLane l (Lane.padded o) := by
  unfold paddStep Core.modLane Lane.padded
  split <;> rfl

theorem paddStep_hit : (paddStep o a l).hit = a.hit := by
  unfold paddStep
  split <;> rfl

theorem paddStep_job {j : Job} (same : sameButCounts j a.job) : sameButCounts j (paddStep o a l).job := by
  unfold paddStep
  split
  · exact sameButCounts_count same _
  · exact same

end

/-- RED.PADD in a cluster. -/
theorem redPadd_spec {s : State} {o : RedPaddOps} {x : Site} {j : Job} (acts : Acts s o.cl x j) :
    (∃ k, (s.redPadd o).job? x.slot = some k ∧ sameButCounts j k) ∧ InCluster s (s.redPadd o) o.cl x id fun pos c d =>
      sameButLanes c d ∧ InLanes (x.lanes pos c o.lm) c d fun _ y z => z = y.padded o := by
  refine State.onCluster_parts (I := sameButCounts j) (R := fun _ _ => True) acts (sameButCounts_refl j) (fun _ _ _ _ => trivial)
    fun pos inside n served w same _ clean => ?_
  rw [redPaddCore_eq_foldl]
  refine ⟨Work.foldl_job (fun a l => paddStep_job o a l) _ w same, trivial, ?_, fun old => ?_⟩
  · rw [Work.foldl_hit (paddStep_hit o), clean]
  · rw [← old, Work.foldl_core (g := fun c l => c.modLane l (Lane.padded o)) (paddStep_core o)]
    exact ⟨sameButLanes_foldl_modLane _ (fun _ => Lane.padded o) w.core,
      inLanes_foldl_modLane (x.lanes_nodup pos w.core o.lm) (fun _ => Lane.padded o) w.core⟩

/-! ### RED.ATOM -/

/-- No lane of a core holds a poisoned AUXILIARY value. -/
def cleanAuxiliaries (c : Core) : Prop := ∀ l, (c.lane l).auxiliary.poison = false

/-- A core with beats put behind its launch register. -/
def Core.send (c : Core) (bs : List Outward) : Core := { c with outQ := c.outQ ++ bs }

/-- The atomic operations of a core's AUXILIARY values (R136). -/
def auxiliaryBeats (x : Site) (o : RedAtomOps) (job pos : Nat) (c : Core) : List Outward :=
  let e := x.t.target x.p o.tgt.val
  let f := atomFmt e.format
  let vs := (x.lanes pos c o.lm).map fun l => (l, f.ofVal (regVal (c.lane l).auxiliary.fmt (c.lane l).auxiliary.reg))
  laneBeats f vs false o.mode o.j.val e.n ((e.tag + x.step) % 65536) job x.step e.alloc (e.offset + 64 * x.line o.ago.val pos)

/-- One core's part of RED.ATOM with no poisoned value. -/
theorem redAtomCore_of_clean {o : RedAtomOps} {w : Work} (clean : cleanAuxiliaries w.core) (x : Site) (pos : Nat) : ∃ n,
    redAtomCore o x pos w = Work.count { w with core := w.core.send (auxiliaryBeats x o w.job.id pos w.core) } n := by
  have clear : ((x.lanes pos w.core o.lm).any fun l => (w.core.lane l).auxiliary.poison) = false :=
    List.any_eq_false.2 fun l _ => by rw [clean l]; exact Bool.false_ne_true
  unfold redAtomCore
  simp only [clear, Bool.false_and, Bool.or_false]
  exact ⟨_, rfl⟩

/-- RED.ATOM in a cluster of which no AUXILIARY value is poisoned. -/
theorem redAtom_spec {s : State} {o : RedAtomOps} {x : Site} {j : Job} (acts : Acts s o.cl x j)
    (clean : ∀ pos < 64, ∀ n, x.phys pos = some n → cleanAuxiliaries (clusterCore s o.cl n)) :
    (∃ k, (s.redAtom o).job? x.slot = some k ∧ sameButCounts j k) ∧ InCluster s (s.redAtom o) o.cl x id fun pos c d =>
      d = c.send (auxiliaryBeats x o j.id pos c) := by
  refine State.onCluster_parts (I := sameButCounts j) (R := fun _ => cleanAuxiliaries) acts (sameButCounts_refl j) clean
    fun pos inside n served w same clean hit => ?_
  obtain ⟨n, part⟩ := redAtomCore_of_clean (o := o) clean x pos
  rw [part]
  exact ⟨sameButCounts_count same n, clean, hit, fun old => by rw [← old, ← sameButCounts_id same]; rfl⟩

/-! ### The obligation -/

/-- Settles O7, by what each operation does in a cluster. That ROW empties the row buffer and what PUSH clears is log entry 16 of the model; that
lane 0 keeps a spread set's terms on the ordered path is log entry 23. -/
theorem energyAndReductions : Obligations.EnergyAndReductions := by
  unfold Obligations.EnergyAndReductions
  refine ⟨fun s o x j acts => ⟨_, rfl, ?enrg⟩, fun s o x j acts row => ⟨_, rfl, redEtot_row_spec acts row⟩,
    fun s o x j acts push clean => ⟨_, rfl, (redEtot_push_spec acts push clean).imp fun pos c d => ?push⟩,
    fun s o x j acts => ⟨_, rfl, ?part⟩, fun s o x j acts => ⟨_, rfl, ?padd⟩, fun s o x j acts clean => ⟨_, rfl, ?atom⟩⟩
  case enrg =>
    obtain ⟨job, cluster⟩ := fldEnrg_spec acts
    refine ⟨job, cluster.imp fun pos c d => fun ⟨lanes, terms⟩ => ⟨lanes, fun own => (terms own).imp fun l mem taken => ?_⟩⟩
    dsimp only
    split
    case isTrue exact => exact taken.trans (if_pos exact)
    case isFalse ordered =>
      rw [taken.trans (if_neg ordered)]
      exact ⟨rfl, fun i => mget_mset _ _ _ _ _⟩
  case push =>
    rintro ⟨lanes, pushed⟩
    refine ⟨lanes, fun l => ?_⟩
    by_cases mem : l ∈ x.pushLanes (c.desc o.dd) (x.lanesOf pos c o.lm (c.desc o.dd).laneRep)
    · exact (pushed.acting l mem).trans (if_pos mem).symm
    · exact (pushed.others l mem).trans (if_neg mem).symm
  case part =>
    obtain ⟨⟨k, job, n, counts⟩, cluster⟩ := redPart_spec acts
    exact ⟨⟨n, counts ▸ job⟩, cluster⟩
  case padd =>
    obtain ⟨⟨k, job, n, counts⟩, cluster⟩ := redPadd_spec acts
    refine ⟨⟨n, counts ▸ job⟩, cluster.imp fun pos c d => fun ⟨lanes, padded⟩ => ⟨lanes, padded.imp fun l mem eq => ?_⟩⟩
    rw [eq, Lane.padded, paddLane_eq]
    rfl
  case atom =>
    obtain ⟨⟨k, job, n, counts⟩, cluster⟩ := redAtom_spec acts clean
    exact ⟨⟨n, counts ▸ job⟩, cluster⟩

end Sys2Proof.Machine

/-! PROOF of O11: the statistics and the top-k list. STA.SGL, STA.PAIR and STA.HIST go part by part over the cores of the cluster, as the
operations of O7 do; STA.FLUSH needs its job only for its counters; a top-k offer is a fold over candidates, read by what it takes. -/

namespace Sys2Proof.Machine

open Sys2Proof Sys2Proof.Safety

/-! ### Cores that agree with what stood before the operation -/

/-- A core but for its lanes and its outward beats agrees. -/
def sameButSent (c d : Core) : Prop := d = { c with lanes := d.lanes, outQ := d.outQ }

theorem sameButSent_refl (c : Core) : sameButSent c c := rfl

theorem sameButSent_trans {c d e : Core} (h : sameButSent c d) (k : sameButSent d e) : sameButSent c e := by
  unfold sameButSent at *
  rw [k, h]

theorem sameButSent_of_lanes {c d : Core} (h : sameButLanes c d) : sameButSent c d := by
  unfold sameButLanes at h
  unfold sameButSent
  rw [h]

theorem sameButSent_send (c : Core) (bs : List Outward) : sameButSent c (c.send bs) := rfl

section

variable {c d : Core} (same : sameButSent c d)

include same

theorem sameButSent_desc (dd : Fin 4) : d.desc dd = c.desc dd := by
  rw [same]
  rfl

theorem sameButSent_lanes (x : Site) (pos : Nat) (lm : Fin 4) : x.lanes pos d lm = x.lanes pos c lm := by
  rw [same]
  rfl

theorem sameButSent_lanesOf (x : Site) (pos : Nat) (lm : Fin 4) (rep : Nat → Nat) : x.lanesOf pos d lm rep = x.lanesOf pos c lm rep := by
  rw [same]
  rfl

theorem sameButSent_laneState (kind sl w l : Nat) : d.laneState kind sl w l = c.laneState kind sl w l := by
  rw [same]
  rfl

end

/-! ### Increments of a table -/

/-- The target entry's increments that a core sends, none being poisoned (R145). -/
def increments (x : Site) (tgt base job : Nat) (els : List Nat) : List Outward :=
  let e := x.t.target x.p tgt
  incBeats (if e.format = 5 then .i64 else .i32) els false e.n ((e.tag + x.step) % 65536) job x.step e.alloc (e.offset + base)

theorem sendIncrements_of_clean {ls : List Nat} {p : Nat → Bool} (clean : ∀ l ∈ ls, p l = false) (x : Site) (tgt base : Nat)
    (element : Nat → Nat) (w : Work) : sendIncrements x tgt base (ls.map fun l => (element l, p l)) w =
      { w with core := w.core.send (increments x tgt base w.job.id (ls.map element)) } := by
  have clear : (ls.map fun l => (element l, p l)).any (·.2) = false := by
    rw [List.any_map]
    exact List.any_eq_false.2 fun l m => by rw [Function.comp, clean l m]; exact Bool.false_ne_true
  unfold sendIncrements
  simp only [clear, List.map_map, Bool.false_and, Bool.or_false]
  rfl

/-! ### Spins -/

/-- A lane with `v` added to STATISTIC. -/
def Lane.addStatistic (y : Lane) (v : Int) : Lane := { y with statistic := y.statistic.add 0 [.ofInt v] false }

theorem rneScaled_ofInt (v : Int) : (Val.ofInt v).rneScaled 0 = v := by
  simp only [Val.ofInt, Val.rneScaled, add_zero, le_refl, if_true, Int.toNat_zero, pow_zero, Nat.mul_one, decide_eq_true_eq]
  split <;> omega

/-- An INT group takes the sum exactly (R119). -/
theorem Lane.addStatistic_of_int {y : Lane} (int : y.statistic.fmt = .int) (v : Int) :
    y.addStatistic v = { y with statistic := { y.statistic with reg := intReg (intOf y.statistic.reg + v) } } := by
  simp only [Lane.addStatistic, Group.add, int, List.foldl_cons, List.foldl_nil, rneScaled_ofInt, Bool.or_false]

theorem spinOf_mul_spinOf (v w : Word) : spinOf v * spinOf w = if v.toNat % 2 = w.toNat % 2 then 1 else -1 := by
  rcases Nat.mod_two_eq_zero_or_one v.toNat with hv | hv <;> rcases Nat.mod_two_eq_zero_or_one w.toNat with hw | hw <;>
    simp [spinOf, hv, hw]

/-! ### STA.SGL, STA.PAIR and STA.HIST -/

/-- One core's part of a statistic by kind of variable: a spin for each lane, or an element of the target's table, or nothing. -/
def statPart (x : Site) (kind tgt base : Nat) (ls : List Nat) (spin : Nat → Int) (element : Nat → Nat) (w : Work) : Work :=
  if kind = 0 then { w with core := ls.foldl (fun c l => c.modLane l fun y => y.addStatistic (spin l)) w.core }
  else if kind = 1 then { w with core := w.core.send (increments x tgt base w.job.id (ls.map element)) }
  else w

/-- What such a part makes of its core. -/
structure StatTaken (kind : Nat) (ls : List Nat) (spin : Nat → Int) (bs : List Outward) (c d : Core) : Prop where
  spins : kind = 0 → sameButLanes c d ∧ InLanes ls c d fun l y z => z = y.addStatistic (spin l)
  elements : kind = 1 → d = c.send bs
  others : 1 < kind → d = c

section

variable {x : Site} {kind tgt base : Nat} {ls : List Nat} {spin : Nat → Int} {element : Nat → Nat} {w : Work}

theorem statPart_taken (once : ls.Nodup) : StatTaken kind ls spin (increments x tgt base w.job.id (ls.map element)) w.core
    (statPart x kind tgt base ls spin element w).core := by
  unfold statPart
  refine ⟨fun binary => ?_, fun categorical => ?_, fun other => ?_⟩
  · rw [if_pos binary]
    exact ⟨sameButLanes_foldl_modLane ls (fun l y => y.addStatistic (spin l)) w.core,
      inLanes_foldl_modLane once (fun l y => y.addStatistic (spin l)) w.core⟩
  · rw [if_neg (by omega), if_pos categorical]
  · rw [if_neg (by omega), if_neg (by omega)]

theorem statPart_job : (statPart x kind tgt base ls spin element w).job = w.job := by
  unfold statPart
  split
  · rfl
  · split <;> rfl

theorem statPart_hit : (statPart x kind tgt base ls spin element w).hit = w.hit := by
  unfold statPart
  split
  · rfl
  · split <;> rfl

theorem sameButSent_statPart : sameButSent w.core (statPart x kind tgt base ls spin element w).core := by
  unfold statPart
  split
  · exact sameButSent_of_lanes (sameButLanes_foldl_modLane ls (fun l y => y.addStatistic (spin l)) w.core)
  · split
    · exact sameButSent_send _ _
    · exact sameButSent_refl _

end

/-- Spins added with markers that none of the lanes has. -/
theorem foldl_addStat_of_clean {ls : List Nat} {p : Nat → Bool} (clean : ∀ l ∈ ls, p l = false) (spin : Nat → Int) (c : Core) :
    ls.foldl (fun c l => addStat l (spin l) (p l) c) c = ls.foldl (fun c l => c.modLane l fun y => y.addStatistic (spin l)) c :=
  List.foldl_ext _ _ _ fun c l m => by
    rw [clean l m]
    rfl

/-- A statistic in a cluster, its part being `statPart` on every core that agrees but for lanes and beats with what stood before. -/
theorem State.onCluster_stat {s : State} {cl : ClusterRef} {x : Site} {j : Job} {f : Site → Nat → Work → Work} {kind tgt : Core → Nat}
    {base : Nat → Nat} {ls : Nat → Core → List Nat} {spin : Nat → Core → Nat → Int} {element : Nat → Core → Nat → Nat} (acts : Acts s cl x j)
    (once : ∀ pos c, (ls pos c).Nodup)
    (part : ∀ pos < 64, ∀ n, x.phys pos = some n → ∀ w, sameButSent (clusterCore s cl n) w.core →
      f x pos w = statPart x (kind w.core) (tgt w.core) (base pos) (ls pos w.core) (spin pos w.core) (element pos w.core) w) :
    (s.onCluster cl f).job? x.slot = some j ∧ InCluster s (s.onCluster cl f) cl x id fun pos c d =>
      StatTaken (kind c) (ls pos c) (spin pos c) (increments x (tgt c) (base pos) j.id ((ls pos c).map (element pos c))) c d := by
  refine And.imp_left (fun ⟨_, job, eq⟩ => eq ▸ job) (State.onCluster_parts (I := fun k => k = j) (R := fun n => sameButSent (clusterCore s cl n))
    acts rfl (fun _ _ _ _ => sameButSent_refl _) fun pos inside n served w job same hit => ?_)
  rw [part pos inside n served w same]
  exact ⟨statPart_job.trans job, sameButSent_trans same sameButSent_statPart, statPart_hit.trans hit,
    fun old => by rw [← old, ← job]; exact statPart_taken (once pos w.core)⟩

/-- The states that an operation reads from the lanes of a core bear no marker. -/
def laneStatesClean (x : Site) (c : Core) (dd lm : Fin 4) (ags word pos : Nat) : Prop :=
  ∀ l ∈ x.lanesOf pos c lm (c.desc dd).laneRep, (c.laneState (x.cls (c.desc dd)).kind (x.stateSlot ags pos) word l).2 = false

theorem laneStatesClean_of_same {c d : Core} (same : sameButSent c d) {x : Site} {dd lm : Fin 4} {ags word pos : Nat}
    (clean : laneStatesClean x c dd lm ags word pos) : laneStatesClean x d dd lm ags word pos := by
  intro l mem
  rw [sameButSent_laneState same, sameButSent_desc same]
  rw [sameButSent_lanesOf same, sameButSent_desc same] at mem
  exact clean l mem

/-- The state of lane `l` that a statistic reads at (AGS, WORD). -/
def Core.statState (c : Core) (x : Site) (dd : Fin 4) (ags word pos l : Nat) : Word :=
  (c.laneState (x.cls (c.desc dd)).kind (x.stateSlot ags pos) word l).1

/-- STA.SGL in a cluster. -/
theorem staSgl_spec {s : State} {o : StaOps} {x : Site} {j : Job} (acts : Acts s o.cl x j) (clean : cleanStates s o.cl x o.dd o.lm o.ags o.word) :
    (s.staSgl o).job? x.slot = some j ∧ InCluster s (s.staSgl o) o.cl x id fun pos c d =>
      let v := c.desc o.dd
      let ls := x.lanesOf pos c o.lm v.laneRep
      let st := c.statState x o.dd o.ags.val o.word.val pos
      StatTaken (x.cls v).kind ls (fun l => spinOf (st l)) (increments x v.statTgt 0 j.id (ls.map fun l => (st l).toNat)) c d := by
  refine State.onCluster_stat (f := staSglCore o) (kind := fun c => (x.cls (c.desc o.dd)).kind) (tgt := fun c => (c.desc o.dd).statTgt)
    (base := fun _ => 0) (ls := fun pos c => x.lanesOf pos c o.lm (c.desc o.dd).laneRep)
    (spin := fun pos c l => spinOf (c.statState x o.dd o.ags.val o.word.val pos l))
    (element := fun pos c l => (c.statState x o.dd o.ags.val o.word.val pos l).toNat) acts (fun pos c => x.lanesOf_nodup _ _ _ _)
    fun pos inside n served w same => ?_
  have clean : laneStatesClean x w.core o.dd o.lm o.ags.val o.word.val pos := laneStatesClean_of_same same (clean pos inside n served)
  unfold staSglCore statPart
  dsimp only
  rw [foldl_addStat_of_clean clean, sendIncrements_of_clean clean]
  rfl

/-- The states of one value of the second variable, a row of the table of STA.PAIR: its K, or the class's own where no tag tells (log entry
22). -/
def Core.pairRow (c : Core) (x : Site) (o : StaPairOps) (pos : Nat) : Nat :=
  match (c.fileWord (x.stateSlot o.ags2.val pos) o.word2.val).curTag with
  | some q => if q.kind = 1 then q.km1 + 1 else (x.cls (c.desc o.base.dd)).km1 + 1
  | none => (x.cls (c.desc o.base.dd)).km1 + 1

theorem Core.pairRow_eq (c : Core) (x : Site) (o : StaPairOps) (pos : Nat) : c.pairRow x o pos =
    ((c.fileWord (x.stateSlot o.ags2.val pos) o.word2.val).curTag.filter fun t => t.kind == 1).elim (x.cls (c.desc o.base.dd)).km1 (·.km1) + 1 := by
  unfold Core.pairRow
  cases (c.fileWord (x.stateSlot o.ags2.val pos) o.word2.val).curTag with
  | none => rfl
  | some q =>
    by_cases categorical : q.kind = 1
    · simp [Option.filter, categorical]
    · simp [Option.filter, categorical]

/-- STA.PAIR in a cluster. -/
theorem staPair_spec {s : State} {o : StaPairOps} {x : Site} {j : Job} (acts : Acts s o.base.cl x j)
    (clean : cleanStates s o.base.cl x o.base.dd o.base.lm o.base.ags o.base.word)
    (clean2 : cleanStates s o.base.cl x o.base.dd o.base.lm o.ags2 o.word2) :
    (s.staPair o).job? x.slot = some j ∧ InCluster s (s.staPair o) o.base.cl x id fun pos c d =>
      let v := c.desc o.base.dd
      let ls := x.lanesOf pos c o.base.lm v.laneRep
      let st := c.statState x o.base.dd o.base.ags.val o.base.word.val pos
      let su := c.statState x o.base.dd o.ags2.val o.word2.val pos
      StatTaken (x.cls v).kind ls (fun l => spinOf (st l) * spinOf (su l))
        (increments x v.statTgt (64 * x.line o.ago.val pos) j.id (ls.map fun l => (st l).toNat * c.pairRow x o pos + (su l).toNat)) c d := by
  refine State.onCluster_stat (f := staPairCore o) (kind := fun c => (x.cls (c.desc o.base.dd)).kind) (tgt := fun c => (c.desc o.base.dd).statTgt)
    (base := fun pos => 64 * x.line o.ago.val pos) (ls := fun pos c => x.lanesOf pos c o.base.lm (c.desc o.base.dd).laneRep)
    (spin := fun pos c l => spinOf (c.statState x o.base.dd o.base.ags.val o.base.word.val pos l) *
      spinOf (c.statState x o.base.dd o.ags2.val o.word2.val pos l))
    (element := fun pos c l => (c.statState x o.base.dd o.base.ags.val o.base.word.val pos l).toNat * c.pairRow x o pos +
      (c.statState x o.base.dd o.ags2.val o.word2.val pos l).toNat) acts (fun pos c => x.lanesOf_nodup _ _ _ _)
    fun pos inside n served w same => ?_
  have clean : laneStatesClean x w.core o.base.dd o.base.lm o.base.ags.val o.base.word.val pos :=
    laneStatesClean_of_same same (clean pos inside n served)
  have clean2 : laneStatesClean x w.core o.base.dd o.base.lm o.ags2.val o.word2.val pos :=
    laneStatesClean_of_same same (clean2 pos inside n served)
  have both := fun l mem => Bool.or_eq_false_iff.2 ⟨clean l mem, clean2 l mem⟩
  unfold staPairCore statPart
  dsimp only
  rw [foldl_addStat_of_clean both, sendIncrements_of_clean both, Core.pairRow_eq]
  rfl

/-- STA.HIST in a cluster: with bins a Gaussian variable's states are counted as a categorical one's, and nothing is counted without. -/
theorem staHist_spec {s : State} {o : StaOps} {x : Site} {j : Job} (acts : Acts s o.cl x j) (clean : cleanStates s o.cl x o.dd o.lm o.ags o.word) :
    (s.staHist o).job? x.slot = some j ∧ InCluster s (s.staHist o) o.cl x id fun pos c d =>
      let v := c.desc o.dd
      let ls := x.lanesOf pos c o.lm v.laneRep
      StatTaken (if (x.cls v).kind = 2 ∧ v.histBins ≠ 0 then 1 else 2) ls (fun _ => 0)
        (increments x v.statTgt 0 j.id (ls.map fun l => histBin v (c.laneState 2 (x.stateSlot o.ags.val pos) o.word.val l).1)) c d := by
  refine State.onCluster_stat (f := staHistCore o) (kind := fun c => if (x.cls (c.desc o.dd)).kind = 2 ∧ (c.desc o.dd).histBins ≠ 0 then 1 else 2)
    (tgt := fun c => (c.desc o.dd).statTgt) (base := fun _ => 0) (ls := fun pos c => x.lanesOf pos c o.lm (c.desc o.dd).laneRep)
    (spin := fun _ _ _ => 0) (element := fun pos c l => histBin (c.desc o.dd) (c.laneState 2 (x.stateSlot o.ags.val pos) o.word.val l).1) acts
    (fun pos c => x.lanesOf_nodup _ _ _ _) fun pos inside n served w same => ?_
  have clean : laneStatesClean x w.core o.dd o.lm o.ags.val o.word.val pos := laneStatesClean_of_same same (clean pos inside n served)
  unfold staHistCore statPart
  dsimp only
  by_cases bins : (x.cls (w.core.desc o.dd)).kind = 2 ∧ (w.core.desc o.dd).histBins ≠ 0
  · have clean : ∀ l ∈ x.lanesOf pos w.core o.lm (w.core.desc o.dd).laneRep,
        (w.core.laneState 2 (x.stateSlot o.ags.val pos) o.word.val l).2 = false := bins.1 ▸ clean
    rw [if_pos bins, if_pos bins, sendIncrements_of_clean clean]
    rfl
  · rw [if_neg bins, if_neg bins]
    rfl

end Sys2Proof.Machine

namespace Sys2Proof.Machine

open Sys2Proof Sys2Proof.Safety

/-! ### STA.FLUSH -/

theorem saturate32_eq (i : Int) : (saturate32 i).1 = max (-2 ^ 31) (min (2 ^ 31 - 1) i) := by
  unfold saturate32
  split
  · simp only; omega
  · split <;> simp only <;> omega

theorem saturate32_of_inRange {i : Int} (low : -2 ^ 31 ≤ i) (high : i < 2 ^ 31) : (saturate32 i).2 = false := by
  rw [saturate32, if_neg (by omega), if_neg (by omega)]

/-- A lane whose STATISTIC has been flushed: empty, with the sticky flag where the sum was saturated (R120). -/
def Lane.flushed (wide : Bool) (y : Lane) : Lane := { y with statistic := { sticky := !wide && (saturate32 (intOf y.statistic.reg)).2 } }

/-- The atomic operations of a core's STATISTIC groups (R146). -/
def flushBeats (x : Site) (o : StaFlushOps) (job pos : Nat) (c : Core) : List Outward :=
  let e := x.t.target x.p o.tgt.val
  let sum (l : Nat) : Int := intOf (c.lane l).statistic.reg
  let vs := (x.lanes pos c o.lm).map fun l =>
    (l, if o.wide then wrapNat 64 (sum l) else wrapNat 32 (max (-2 ^ 31) (min (2 ^ 31 - 1) (sum l))))
  laneBeats (if o.wide then .i64 else .i32) vs false o.mode o.j.val e.n ((e.tag + x.step) % 65536) job x.step e.alloc
    (e.offset + 64 * x.line o.ago.val pos)

/-- The lanes of a core whose sums saturate in a flush. -/
def saturatedLanes (x : Site) (o : StaFlushOps) (pos : Nat) (c : Core) : List Nat :=
  (x.lanes pos c o.lm).filter fun l => !o.wide && (saturate32 (intOf (c.lane l).statistic.reg)).2

/-- A core of which lanes are flushed, its beats sent. -/
def Core.flush (c : Core) (x : Site) (o : StaFlushOps) (job pos : Nat) : Core :=
  { (x.lanes pos c o.lm).foldl (fun d l => d.modLane l fun y =>
      { y with statistic := { sticky := !o.wide && (saturate32 (intOf (c.lane l).statistic.reg)).2 } }) c with
    outQ := c.outQ ++ flushBeats x o job pos c }

/-- One core's part of STA.FLUSH with no poisoned group. -/
theorem staFlushCore_of_clean {o : StaFlushOps} {w : Work} (clean : ∀ l, (w.core.lane l).statistic.poison = false) (x : Site) (pos : Nat) :
    staFlushCore o x pos w = Work.count { w with core := w.core.flush x o w.job.id pos } { intSaturations := (saturatedLanes x o pos w.core).length } := by
  have clear : ((x.lanes pos w.core o.lm).any fun l => (w.core.lane l).statistic.poison) = false :=
    List.any_eq_false.2 fun l _ => by rw [clean l]; exact Bool.false_ne_true
  unfold staFlushCore
  simp only [clear, Bool.false_and, Bool.or_false, saturate32_eq]
  rfl

section

variable (c : Core) (x : Site) (o : StaFlushOps) (job pos : Nat)

theorem Core.flush_inLanes : InLanes (x.lanes pos c o.lm) c (c.flush x o job pos) fun _ y z => z = y.flushed o.wide := by
  have lanes := inLanes_foldl_modLane (x.lanes_nodup pos c o.lm)
    (fun l y => { y with statistic := { sticky := !o.wide && (saturate32 (intOf (c.lane l).statistic.reg)).2 } }) c
  exact ⟨lanes.acting, lanes.others⟩

theorem Core.flush_eq : c.flush x o job pos =
    { c with lanes := (c.flush x o job pos).lanes, outQ := c.outQ ++ flushBeats x o job pos c } := by
  have lanes := sameButLanes_foldl_modLane (x.lanes pos c o.lm)
    (fun l y => { y with statistic := { sticky := !o.wide && (saturate32 (intOf (c.lane l).statistic.reg)).2 } }) c
  unfold Core.flush
  rw [lanes]

end

/-- A core as flushes leave it: it agrees but for lanes and beats, and each STATISTIC group is the one it was or an empty one. -/
structure FlushedFrom (c d : Core) : Prop where
  same : sameButSent c d
  groups : ∀ l, (d.lane l).statistic = (c.lane l).statistic ∨ ∃ b, (d.lane l).statistic = { sticky := b }

theorem flushedFrom_refl (c : Core) : FlushedFrom c c := ⟨sameButSent_refl c, fun _ => .inl rfl⟩

theorem FlushedFrom.flush {c d : Core} (h : FlushedFrom c d) (x : Site) (o : StaFlushOps) (job pos : Nat) : FlushedFrom c (d.flush x o job pos) := by
  refine ⟨sameButSent_trans h.same ?_, fun l => ?_⟩
  · have eq := d.flush_eq x o job pos
    unfold sameButSent
    rw [eq]
  · by_cases mem : l ∈ x.lanes pos d o.lm
    · rw [(d.flush_inLanes x o job pos).acting l mem]
      exact .inr ⟨_, rfl⟩
    · rw [(d.flush_inLanes x o job pos).others l mem]
      exact h.groups l

theorem FlushedFrom.clean {c d : Core} (h : FlushedFrom c d) (clean : ∀ l, (c.lane l).statistic.poison = false) (l : Nat) :
    (d.lane l).statistic.poison = false := by
  rcases h.groups l with old | ⟨b, empty⟩
  · rw [old, clean l]
  · rw [empty]

/-- A flush of 64-bit elements saturates no sum, and one of 32-bit elements none that is in range: an empty group holds the sum 0. -/
theorem FlushedFrom.saturatedLanes_nil {c d : Core} (h : FlushedFrom c d) {x : Site} {o : StaFlushOps} {pos : Nat}
    (inRange : o.wide = true ∨ ∀ l ∈ x.lanes pos c o.lm, -2 ^ 31 ≤ intOf (c.lane l).statistic.reg ∧ intOf (c.lane l).statistic.reg < 2 ^ 31) :
    saturatedLanes x o pos d = [] := by
  refine List.filter_eq_nil_iff.2 fun l mem => ?_
  rcases inRange with wide | inRange
  · simp [wide]
  · obtain ⟨low, high⟩ := inRange l (sameButSent_lanes h.same x pos o.lm ▸ mem)
    have fits : (saturate32 (intOf (d.lane l).statistic.reg)).2 = false := by
      rcases h.groups l with old | ⟨b, empty⟩
      · rw [old, saturate32_of_inRange low high]
      · rw [empty]
        exact saturate32_of_inRange (i := intOf 0) (by decide) (by decide)
    simp [fits]

/-- A job of which counts alone change, INT_SATURATIONS only where `due` does not hold. -/
def countsUnless (due : Prop) (j k : Job) : Prop :=
  ∃ n, k = { j with counts := n } ∧ (j.counts.intSaturations < 2 ^ 64 → due → n.intSaturations = j.counts.intSaturations)

theorem countsUnless_refl (due : Prop) (j : Job) : countsUnless due j j := ⟨j.counts, rfl, fun _ _ => rfl⟩

theorem countsUnless_count {due : Prop} {j : Job} {w : Work} (same : countsUnless due j w.job) {m : Nat} (none : due → m = 0) :
    countsUnless due j (w.count { intSaturations := m }).job := by
  obtain ⟨n, same, stands⟩ := same
  refine ⟨n.add { intSaturations := m }, by rw [Work.count, same], fun small isDue => ?_⟩
  have saturated : (n.add { intSaturations := m }).intSaturations = min (n.intSaturations + m) (2 ^ 64 - 1) := rfl
  rw [saturated, stands small isDue, none isDue]
  omega

/-- STA.FLUSH in a cluster of which no STATISTIC group is poisoned. -/
theorem staFlush_spec {s : State} {o : StaFlushOps} {x : Site} {j : Job} (acts : Acts s o.cl x j)
    (clean : ∀ pos < 64, ∀ n, x.phys pos = some n → ∀ l, ((clusterCore s o.cl n).lane l).statistic.poison = false) :
    (∃ k, (s.staFlush o).job? x.slot = some k ∧ countsUnless (o.wide = true ∨ ∀ pos < 64, ∀ m, x.phys pos = some m →
      ∀ l ∈ x.lanes pos (clusterCore s o.cl m) o.lm, -2 ^ 31 ≤ intOf ((clusterCore s o.cl m).lane l).statistic.reg ∧
        intOf ((clusterCore s o.cl m).lane l).statistic.reg < 2 ^ 31) j k) ∧
    InCluster s (s.staFlush o) o.cl x id fun pos c d => d = c.flush x o j.id pos := by
  refine State.onCluster_parts (f := staFlushCore o) (I := countsUnless _ j) (R := fun n => FlushedFrom (clusterCore s o.cl n)) acts
    (countsUnless_refl _ j) (fun _ _ _ _ => flushedFrom_refl _) fun pos inside n served w same flushed hit => ?_
  rw [staFlushCore_of_clean (flushed.clean (clean pos inside n served))]
  refine ⟨countsUnless_count same fun due => ?_, flushed.flush x o _ pos, hit, fun old => ?_⟩
  · rw [flushed.saturatedLanes_nil (due.imp_right fun inRange => inRange pos inside n served)]
    rfl
  · obtain ⟨m, same, -⟩ := same
    rw [← old, same]
    rfl

end Sys2Proof.Machine

namespace Sys2Proof.Machine

open Sys2Proof Sys2Proof.Safety

/-! ### Candidates of the top-k list (R151) -/

/-- Two entries are one candidate: of one variable, replica and step. -/
def sameCandidate (a b : TopkEntry) : Prop := a.var = b.var ∧ a.replica = b.replica ∧ a.step = b.step

/-- A candidate taken behind others, unless one of them or of an older list is the same. -/
def takeCandidate (old l : List TopkEntry) (e : TopkEntry) : List TopkEntry :=
  if (old ++ l).any fun o => o.var == e.var && o.replica == e.replica && o.step == e.step then l else l ++ [e]

theorem newCandidates_eq_foldl (old es : List TopkEntry) : newCandidates old es = es.foldl (takeCandidate old) [] := rfl

section

variable {old : List TopkEntry}

theorem takeCandidate_of_held {l : List TopkEntry} {e : TopkEntry} (held : ∃ o ∈ old ++ l, sameCandidate o e) : takeCandidate old l e = l := by
  obtain ⟨o, mem, var, replica, step⟩ := held
  exact if_pos (List.any_eq_true.2 ⟨o, mem, by simp [var, replica, step]⟩)

theorem takeCandidate_of_new {l : List TopkEntry} {e : TopkEntry} (new : ∀ o ∈ old ++ l, ¬sameCandidate o e) :
    takeCandidate old l e = l ++ [e] := by
  refine if_neg fun held => ?_
  obtain ⟨o, mem, same⟩ := List.any_eq_true.1 held
  simp only [Bool.and_eq_true, beq_iff_eq] at same
  exact new o mem ⟨same.1.1, same.1.2, same.2⟩

/-- Candidates that differ from one another and from those held are all taken, in their order. -/
theorem foldl_takeCandidate_of_new {es l : List TopkEntry} (new : ∀ e ∈ es, ∀ o ∈ old ++ l, ¬sameCandidate o e)
    (once : es.Pairwise fun a b => ¬sameCandidate a b) : es.foldl (takeCandidate old) l = l ++ es := by
  induction es generalizing l with
  | nil => exact (List.append_nil l).symm
  | cons e es ih =>
    obtain ⟨first, once⟩ := List.pairwise_cons.1 once
    rw [List.foldl_cons, takeCandidate_of_new (new e (.head _)), ih ?_ once, List.append_assoc, List.singleton_append]
    intro b mem o held
    rw [← List.append_assoc, List.mem_append, List.mem_singleton] at held
    rcases held with held | rfl
    · exact new b (.tail _ mem) o held
    · exact first b mem

/-- What of a list of candidates is taken, behind those of `l`. -/
structure CandidatesTaken (old l es r : List TopkEntry) : Prop where
  grows : l ⊆ r
  source : ∀ q ∈ r, q ∈ l ∨ q ∈ es
  covers : ∀ e ∈ es, ∃ q ∈ old ++ r, sameCandidate q e
  once : (l.Pairwise fun a b => ¬sameCandidate a b) → r.Pairwise fun a b => ¬sameCandidate a b

theorem foldl_takeCandidate_taken (es l : List TopkEntry) : CandidatesTaken old l es (es.foldl (takeCandidate old) l) := by
  induction es generalizing l with
  | nil => exact ⟨fun _ m => m, fun _ m => .inl m, fun _ m => absurd m List.not_mem_nil, id⟩
  | cons e es ih =>
    rw [List.foldl_cons]
    by_cases held : ∃ o ∈ old ++ l, sameCandidate o e
    · rw [takeCandidate_of_held held]
      obtain ⟨grows, source, covers, once⟩ := ih l
      refine ⟨grows, fun q m => (source q m).imp_right (.tail _), fun b m => ?_, once⟩
      rcases List.mem_cons.1 m with rfl | m
      · obtain ⟨o, mem, same⟩ := held
        exact ⟨o, (List.mem_append.1 mem).elim (List.mem_append_left _) fun h => List.mem_append_right _ (grows h), same⟩
      · exact covers b m
    · have new : ∀ o ∈ old ++ l, ¬sameCandidate o e := fun o m same => held ⟨o, m, same⟩
      rw [takeCandidate_of_new new]
      obtain ⟨grows, source, covers, once⟩ := ih (l ++ [e])
      refine ⟨fun q m => grows (List.mem_append_left _ m), fun q m => ?_, fun b m => ?_, fun distinct => once ?_⟩
      · rcases source q m with m | m
        · exact (List.mem_append.1 m).imp_right fun h => by rw [List.mem_singleton.1 h]; exact .head _
        · exact .inr (.tail _ m)
      · rcases List.mem_cons.1 m with rfl | m
        · exact ⟨b, List.mem_append_right _ (grows (List.mem_append_right _ (List.mem_singleton.2 rfl))), rfl, rfl, rfl⟩
        · exact covers b m
      · exact List.pairwise_append.2 ⟨distinct, List.pairwise_singleton _ _, fun a m b mb =>
          List.mem_singleton.1 mb ▸ new a (List.mem_append_right _ m)⟩

end

theorem newCandidates_of_new {old es : List TopkEntry} (new : ∀ e ∈ es, ∀ o ∈ old, ¬sameCandidate o e)
    (once : es.Pairwise fun a b => ¬sameCandidate a b) : newCandidates old es = es := by
  rw [newCandidates_eq_foldl, foldl_takeCandidate_of_new (fun e m o h => new e m o (by rwa [List.append_nil] at h)) once, List.nil_append]

theorem newCandidates_taken (old es : List TopkEntry) : CandidatesTaken old [] es (newCandidates old es) :=
  newCandidates_eq_foldl old es ▸ foldl_takeCandidate_taken es []

/-! ### Offers -/

/-- A job with candidates offered behind those that it has. -/
def Job.offered (j : Job) (os : List TopkEntry) : Job := { j with topkOffers := j.topkOffers ++ os }

theorem Job.offered_nil (j : Job) : j.offered [] = j := by rw [Job.offered, List.append_nil]

theorem jobBecomes_setJob (s : State) (slot : Nat) (k : Job) : JobBecomes s (s.setJob slot k) slot k :=
  ⟨by rw [State.job?_setJob, if_pos rfl], fun e other => by rw [State.job?_setJob, if_neg other]⟩

/-- The candidates of the energies of the 32 replicas of a chunk (R154). -/
def Job.energyCandidates (j : Job) (ch : Nat) : List TopkEntry :=
  (List.range' (32 * ch) (min 32 (j.body.replicas - 32 * ch))).map fun r =>
    { value := mget 0 j.energies r, step := j.step, var := 0, digest := 0, replica := r, slot := j.stepSlot r }

/-- The replicas of a chunk that the job has. -/
theorem chunk_filter_eq (ch n : Nat) :
    ((List.range 32).map (32 * ch + ·)).filter (· < n) = List.range' (32 * ch) (min 32 (n - 32 * ch)) := by
  have chunk : (List.range 32).map (32 * ch + ·) = List.Ico (32 * ch) (32 * ch + 32) := by
    rw [List.Ico, Nat.add_sub_cancel_left, List.range'_eq_map_range]
  rw [chunk, List.Ico.filter_lt, List.Ico]
  congr 1
  omega

theorem Job.offerEnergies_eq (j : Job) (ch : Nat) : j.offerEnergies ch = j.offered (newCandidates j.topkOffers (j.energyCandidates ch)) := by
  rw [Job.offerEnergies, chunk_filter_eq]
  rfl

theorem Job.energyCandidates_once (j : Job) (ch : Nat) : (j.energyCandidates ch).Pairwise fun a b => ¬sameCandidate a b := by
  rw [Job.energyCandidates, List.pairwise_map]
  exact List.Pairwise.imp (fun differ same => differ same.2.1) (List.nodup_range' (step := 1))

/-- Energies of a chunk that were not offered in this step are all new. -/
theorem Job.newCandidates_energies {j : Job} {ch : Nat} (fresh : ∀ e ∈ j.topkOffers, e.step = j.step → e.replica / 32 ≠ ch) :
    newCandidates j.topkOffers (j.energyCandidates ch) = j.energyCandidates ch := by
  refine newCandidates_of_new (fun e mem o held same => ?_) (j.energyCandidates_once ch)
  obtain ⟨r, inChunk, rfl⟩ := List.mem_map.1 mem
  obtain ⟨-, replica, step⟩ := same
  refine fresh o held step ?_
  obtain ⟨low, high⟩ := List.mem_range'_1.1 inChunk
  have replica : o.replica = r := replica
  omega

/-- TPK.OFFER in a cluster that issues. -/
theorem tpkOffer_eq {s : State} {cl : ClusterRef} {x : Site} {j : Job} (acts : Acts s cl x j) (ch : Nat) : s.tpkOffer cl ch =
    s.setJob x.slot (j.offered (if j.body.topkSource = 0 ∧ j.body.topkK ≠ 0 ∧ x.t.hasEpass x.p = true then
      newCandidates j.topkOffers (j.energyCandidates ch) else [])) := by
  simp only [State.tpkOffer, acts.1, State.modJob, acts.2]
  refine congrArg (s.setJob x.slot) ?_
  split
  · exact j.offerEnergies_eq ch
  · exact j.offered_nil.symm

/-! ### Lines scanned -/

/-- The candidate that element `i` of a target's line gives (R151, R232). -/
def scanned (f : AtomFmt) (v : BitVec 512) (line i : Nat) : TopkEntry :=
  { value := BitVec.ofInt 64 (signedOf (8 * f.bytes) (bitField v.toNat (8 * f.bytes * i) (8 * f.bytes))),
    step := 0, var := 64 * line / f.bytes + i, digest := 0, replica := 0, slot := 0xFFFF }

theorem scanLine_eq (f : AtomFmt) (v : BitVec 512) (line : Nat) :
    scanLine f v (64 * line) = (List.range (64 / f.bytes)).map (scanned f v line) := rfl

/-- An element's variable tells its line and its place there. -/
theorem scanned_var_inj {f : AtomFmt} {v w : BitVec 512} {l k i m : Nat} (hi : i < 64 / f.bytes) (hm : m < 64 / f.bytes)
    (var : (scanned f v l i).var = (scanned f w k m).var) : l = k ∧ i = m := by
  have var : 64 * l / f.bytes + i = 64 * k / f.bytes + m := var
  cases f <;> simp only [AtomFmt.bytes] at hi hm var <;> omega

/-- The candidates of a TPK.SCAN: each element of the line that each valid position names. -/
def scanCandidates (s : State) (x : Site) (j : Job) (tgt ago : Nat) : List TopkEntry :=
  let e := x.t.target x.p tgt
  (((List.range x.t.positions).filter fun pos => (x.phys pos).isSome).flatMap fun pos =>
    scanLine (atomFmt e.format) (s.newestLine j e.alloc (x.targetOffset tgt ago pos)).1 (64 * x.line ago pos)).filter
      fun q => decide (q.var < imgVars x.m)

/-- The candidate of element `i` of the line that a position names. -/
def scanCandidate (s : State) (x : Site) (j : Job) (tgt ago pos i : Nat) : TopkEntry :=
  let e := x.t.target x.p tgt
  scanned (atomFmt e.format) (s.newestLine j e.alloc (x.targetOffset tgt ago pos)).1 (x.line ago pos) i

/-- Its variable, by the line's place behind the target's own offset. -/
theorem scanCandidate_var (s : State) (x : Site) (j : Job) (tgt ago pos i : Nat) : (scanCandidate s x j tgt ago pos i).var =
    (x.targetOffset tgt ago pos - (x.t.target x.p tgt).offset) / (atomFmt (x.t.target x.p tgt).format).bytes + i := by
  simp [scanCandidate, scanned, Site.targetOffset]

theorem mem_scanCandidates {s : State} {x : Site} {j : Job} {tgt ago : Nat} {q : TopkEntry} : q ∈ scanCandidates s x j tgt ago ↔
    (∃ pos < x.t.positions, (x.phys pos).isSome ∧
      ∃ i < 64 / (atomFmt (x.t.target x.p tgt).format).bytes, scanCandidate s x j tgt ago pos i = q) ∧
      q.var < imgVars x.m := by
  simp only [scanCandidates, scanLine_eq, List.mem_filter, List.mem_flatMap, List.mem_map, List.mem_range, decide_eq_true_eq, and_assoc]
  rfl

/-- One variable, one candidate: positions that name the same element offer the same value. -/
theorem scanCandidate_of_var {s : State} {x : Site} {j : Job} {tgt ago p q i m : Nat}
    (hi : i < 64 / (atomFmt (x.t.target x.p tgt).format).bytes) (hm : m < 64 / (atomFmt (x.t.target x.p tgt).format).bytes)
    (var : (scanCandidate s x j tgt ago p i).var = (scanCandidate s x j tgt ago q m).var) :
    scanCandidate s x j tgt ago p i = scanCandidate s x j tgt ago q m := by
  obtain ⟨line, rfl⟩ := scanned_var_inj hi hm var
  unfold scanCandidate Site.targetOffset
  rw [line]

/-- TPK.SCAN in a cluster that issues. -/
theorem tpkScan_eq {s : State} {cl : ClusterRef} {x : Site} {j : Job} (acts : Acts s cl x j) (tgt ago : Nat) : s.tpkScan cl tgt ago =
    if j.body.topkSource ≠ 1 ∨ j.body.topkK = 0 then s
    else s.setJob x.slot (j.offered (newCandidates j.topkOffers (scanCandidates s x j tgt ago))) := by
  simp only [State.tpkScan, acts.1, acts.2, Site.targetOffset, Nat.add_sub_cancel_left]
  rfl

/-- What a scan offers: each variable of the model once, and every element of a line scanned whose variable was not offered before. -/
theorem newCandidates_scan (s : State) (x : Site) (j : Job) (tgt ago : Nat) :
    let os := newCandidates j.topkOffers (scanCandidates s x j tgt ago)
    (os.map (·.var)).Nodup ∧ (∀ q ∈ os, q.var < imgVars x.m) ∧
      ∀ pos < x.t.positions, (x.phys pos).isSome → ∀ i < 64 / (atomFmt (x.t.target x.p tgt).format).bytes,
        let q := scanCandidate s x j tgt ago pos i
        q.var < imgVars x.m → (∀ o ∈ j.topkOffers, o.var ≠ q.var) → q ∈ os := by
  obtain ⟨-, source, covers, once⟩ := newCandidates_taken j.topkOffers (scanCandidates s x j tgt ago)
  have offered : ∀ q ∈ newCandidates j.topkOffers (scanCandidates s x j tgt ago), q ∈ scanCandidates s x j tgt ago :=
    fun q m => (source q m).resolve_left List.not_mem_nil
  refine ⟨?_, fun q m => (mem_scanCandidates.1 (offered q m)).2, fun pos inside served i place small fresh => ?_⟩
  · refine List.pairwise_map.2 ((once List.Pairwise.nil).imp_of_mem fun {a b} ma mb differ var => differ ⟨var, ?_⟩)
    obtain ⟨⟨_, -, -, _, -, rfl⟩, -⟩ := mem_scanCandidates.1 (offered a ma)
    obtain ⟨⟨_, -, -, _, -, rfl⟩, -⟩ := mem_scanCandidates.1 (offered b mb)
    exact ⟨rfl, rfl⟩
  · obtain ⟨q, mem, var, -⟩ := covers _ (mem_scanCandidates.2 ⟨⟨pos, inside, served, i, place, rfl⟩, small⟩)
    have mem := (List.mem_append.1 mem).resolve_left fun held => fresh q held var
    obtain ⟨⟨p, -, -, m, place', rfl⟩, -⟩ := mem_scanCandidates.1 (offered q mem)
    exact scanCandidate_of_var place' place var ▸ mem

end Sys2Proof.Machine

namespace Sys2Proof.Machine

open Sys2Proof Sys2Proof.Safety

/-! ### The obligation -/

theorem StatTaken.spins_of_int {kind : Nat} {ls : List Nat} {spin : Nat → Int} {bs : List Outward} {c d : Core}
    (h : StatTaken kind ls spin bs c d) (binary : kind = 0) : sameButLanes c d ∧ InLanes ls c d fun l y z => y.statistic.fmt = .int →
      z = { y with statistic := { y.statistic with reg := intReg (intOf y.statistic.reg + spin l) } } := by
  obtain ⟨same, lanes⟩ := h.spins binary
  exact ⟨same, lanes.imp fun l mem taken int => taken.trans (Lane.addStatistic_of_int int _)⟩

/-- Settles O11. Which lines a TPK.SCAN offers, each variable once, is log entry 88 of the model; a row of STA.PAIR's table is log entry 22. -/
theorem statisticsAndTopk : Obligations.StatisticsAndTopk := by
  unfold Obligations.StatisticsAndTopk
  refine ⟨fun s o x j acts clean => ⟨_, rfl, ?sgl⟩, fun s o x j acts clean clean2 => ⟨_, rfl, ?pair⟩,
    fun s o x j acts clean => ⟨_, rfl, ?hist⟩, fun s o x j acts clean => ⟨_, rfl, ?flush⟩, fun s cl ch x j acts => ⟨_, rfl, ?offer⟩,
    fun s cl tgt ago x j acts => ⟨_, rfl, ?scan⟩⟩
  case sgl =>
    obtain ⟨job, cluster⟩ := staSgl_spec acts clean
    exact ⟨job, cluster.imp fun pos c d taken => ⟨taken.spins_of_int, taken.elements, taken.others⟩⟩
  case pair =>
    obtain ⟨job, cluster⟩ := staPair_spec acts clean clean2
    refine ⟨job, cluster.imp fun pos c d taken => ?_⟩
    simp only [spinOf_mul_spinOf] at taken
    exact ⟨taken.spins_of_int, taken.elements, taken.others⟩
  case hist =>
    obtain ⟨job, cluster⟩ := staHist_spec acts clean
    refine ⟨job, cluster.imp fun pos c d taken => ⟨fun gaussian bins => taken.elements (if_pos ⟨gaussian, bins⟩), fun none => ?_⟩⟩
    have none : ¬((x.cls (c.desc o.dd)).kind = 2 ∧ (c.desc o.dd).histBins ≠ 0) := by tauto
    exact taken.others (by rw [if_neg none]; decide)
  case flush =>
    obtain ⟨⟨k, job, n, counts, stands⟩, cluster⟩ := staFlush_spec acts clean
    refine ⟨⟨n, counts ▸ job, stands⟩, cluster.imp fun pos c d flushed => ?_⟩
    rw [flushed]
    exact ⟨c.flush_eq x o j.id pos, c.flush_inLanes x o j.id pos⟩
  case offer =>
    refine ⟨Kept.frame (State.tpkOffer_kept cl ch.val (Kept.refl s) (List.Subset.refl _)), _,
      tpkOffer_eq acts ch.val ▸ jobBecomes_setJob s _ _, ?_, ?_⟩
    · exact fun other => if_neg other
    · intro source list pass fresh
      rw [if_pos ⟨source, list, pass⟩, Job.newCandidates_energies fresh]
      refine ⟨by simp [Job.energyCandidates], fun i h => ?_⟩
      simp [Job.energyCandidates]
  case scan =>
    refine ⟨Kept.frame (State.tpkScan_kept cl tgt.val ago.val (Kept.refl s) (List.Subset.refl _)), ?_⟩
    by_cases none : j.body.topkSource ≠ 1 ∨ j.body.topkK = 0
    · rw [tpkScan_eq acts, if_pos none]
      exact ⟨[], ⟨acts.2.trans (congrArg some j.offered_nil.symm), fun _ _ => rfl⟩, fun _ => rfl,
        fun source list => absurd none (not_or.2 ⟨not_not.2 source, list⟩)⟩
    · obtain ⟨once, small, covers⟩ := newCandidates_scan s x j tgt.val ago.val
      rw [tpkScan_eq acts, if_neg none]
      refine ⟨_, jobBecomes_setJob s _ _, fun other => absurd other none, fun _ _ => ⟨once, small, fun pos n serves inside i place => ?_⟩⟩
      intro off v var var_small fresh
      have var_eq : (scanCandidate s x j tgt.val ago.val pos i).var = var := scanCandidate_var s x j tgt.val ago.val pos i
      exact ⟨_, covers pos inside (by rw [serves.2.1]; rfl) i place (var_eq.symm ▸ var_small)
        (fun q m => var_eq.symm ▸ fresh q m), rfl, var_eq⟩

end Sys2Proof.Machine

/-! REFUTATION of O21: the clause on HELD_PART_ENTRY does not assume that a line has one open round, as R139 gives it (`rnd[L]`). With a second
round on the line a part can be ready for the one and be held up by the other; then it is put back where it waited, while a part that comes to
the head of the intake would wait behind the others. -/

namespace Sys2Proof.Machine

open Sys2Proof Sys2Proof.Safety

/-! ### Two rounds on one line -/

/-- Part 0 of 2 of the round with tag 2. -/
def partOfTag2 : Outward := { op := .atomic .i64 1 .ordered 0 2 2, job := 5, step := 0, alloc := 0, offset := 0, data := 1 }

/-- A store to the next line of the same allocation. -/
def nextLineStore : Outward := { op := .store, job := 5, step := 0, alloc := 0, offset := 64, data := 0 }

/-- A round open on the part's line. -/
def roundOfTag (tag : Nat) : Round := { alloc := 0, job := 5, offset := 0, n := 2, tag := tag, next := 0 }

/-- Both operations wait at stack 0, where rounds of tags 1 and 2 are open on the part's line. -/
def twoRounds : State :=
  { State.reset with tielux := [(0, { waiting := [partOfTag2, nextLineStore], rounds := [roundOfTag 1, roundOfTag 2] })] }

/-- The same with the part at the head of the intake. -/
def twoRoundsTaken : State :=
  twoRounds.modStack 0 fun k => { k with waiting := [nextLineStore], intake := partOfTag2 :: k.intake }

/-- The part joins the round of tag 2, so it is ready to enter; but the first round on its line has tag 1, so it is put back, in front of what
waits. -/
theorem heldEntry_twoRounds_waiting : ((twoRounds.heldEntry 0).stack 0).waiting = [partOfTag2, nextLineStore] := by
  decide +kernel

/-- Taken from the intake it waits behind the store. -/
theorem orderedPart_twoRoundsTaken_waiting : ((twoRoundsTaken.orderedPart 0).stack 0).waiting = [nextLineStore, partOfTag2] := by
  decide +kernel

/-- Refutes O21, in its clause on HELD_PART_ENTRY: where two rounds are open on one line the outcome is not that of taking the part from the head
of the intake. The other two clauses are not touched. -/
theorem not_arrivals : ¬ Obligations.Arrivals := by
  rintro ⟨-, -, held⟩
  have joined : roundOfTag 2 ∈ (twoRounds.stack 0).rounds := .tail _ (.head _)
  obtain ⟨-, same⟩ := held twoRounds 0 [] [nextLineStore] partOfTag2 rfl (by decide) (fun p m => absurd m List.not_mem_nil)
    (.inl ⟨roundOfTag 2, joined, rfl, rfl⟩)
  have states : twoRounds.heldEntry 0 = twoRoundsTaken.orderedPart 0 := Host.Outcome.next.inj same
  have waiting := congrArg (fun s : State => (s.stack 0).waiting) states
  rw [heldEntry_twoRounds_waiting, orderedPart_twoRoundsTaken_waiting] at waiting
  exact absurd waiting (by decide)

end Sys2Proof.Machine

/-! PROOF of O57 and O54: what every command keeps, and with it the core maps. Each command is one operation of the machine, and what that
operation keeps stands in Laws; here the operations are put together, once, for every command at the parts that `touches` lists for it. -/

namespace Sys2Proof.Machine

open Sys2Proof Sys2Proof.Safety

/-! ### The outcomes of a command -/

theorem Kept.of_next {A : List Part} {s t u : State} (k : Kept A s u) (h : (.next u : Host.Outcome State Fault Refusal) = .next t) :
    Kept A s t :=
  Host.Outcome.next.inj h ▸ k

/-- A command that faults where its frame does not exist. -/
theorem Kept.of_next_or_fault {A : List Part} {s t u : State} {p : Prop} [Decidable p] {f : Fault} (k : Kept A s u)
    (h : (if p then .next u else .fault f : Host.Outcome State Fault Refusal) = .next t) : Kept A s t := by
  split at h
  · exact k.of_next h
  · cases h

/-- A command of a session, which does nothing where the session is not open. -/
theorem Kept.onSession {A : List Part} {s u : State} {o : Option Session} {f : Session → State} (r : Kept A s u)
    (k : ∀ x, Kept A s (f x)) : Kept A s (match o with | none => u | some x => f x) := by
  cases o with
  | none => exact r
  | some x => exact k x

/-- Parts among those that a command may touch, by a computed test. -/
theorem sub_touches {c : Instr} {C : List Part} (h : (C.all fun p => (touches c).contains p) = true) : C ⊆ touches c :=
  Part.sub (List.Subset.refl _) h

/-! ### Every command -/

/-- A command keeps the forms of the state, and changes no part of it but those that `touches` lists. -/
theorem exec_kept {c : Instr} {s t : State} (h : exec c s = .next t) : Kept (touches c) s t := by
  have r : Kept (touches c) s s := Kept.refl s
  have all : touches c ⊆ touches c := List.Subset.refl _
  cases c with
  | nop => exact .of_next (State.nop_kept _ _ r all) h
  | fldOpen => exact .of_next (State.fldOpen_kept _ r all) h
  | fldAcc => exact .of_next (State.fldAcc_kept _ r all) h
  | fldClose => exact .of_next (State.fldClose_kept _ r all) h
  | fldEnrg => exact .of_next (State.fldEnrg_kept _ r all) h
  | redPart => exact .of_next (State.redPart_kept _ r all) h
  | redPadd => exact .of_next (State.redPadd_kept _ r all) h
  | redAtom => exact .of_next (State.redAtom_kept _ r all) h
  | redEtot => exact .of_next (State.redEtot_kept _ r all) h
  | drwBin => exact .of_next (State.drwBin_kept _ r all) h
  | drwCat => exact .of_next (State.drwCat_kept _ r all) h
  | drwCatm => exact .of_next (State.drwCatm_kept _ _ r all) h
  | drwGau => exact .of_next (State.drwGau_kept _ r all) h
  | excPair => exact .of_next (State.excPair_kept _ r all) h
  | excBeta => exact .of_next (State.excBeta_kept _ _ _ r all) h
  | excWgt => exact .of_next (State.excWgt_kept _ _ r all) h
  | excRsmp => exact .of_next (State.excRsmp_kept _ r all) h
  | staSgl => exact .of_next (State.staSgl_kept _ r all) h
  | staPair => exact .of_next (State.staPair_kept _ r all) h
  | staHist => exact .of_next (State.staHist_kept _ r all) h
  | staFlush => exact .of_next (State.staFlush_kept _ r all) h
  | tpkOffer => exact .of_next (State.tpkOffer_kept _ _ r all) h
  | tpkScan => exact .of_next (State.tpkScan_kept _ _ _ r all) h
  | movMask => exact .of_next (State.movMask_kept _ r all) h
  | movAg => exact .of_next (State.movAg_kept _ r all) h
  | movDesc => exact .of_next (State.movDesc_kept _ r all) h
  | movGrp => exact .of_next (State.movGrp_kept _ _ _ _ r all) h
  | movZero => exact .of_next (State.movZero_kept _ r all) h
  | ldLine => exact .of_next (State.ldLine_kept _ r all) h
  | ldSlot => exact .of_next (State.ldSlot_kept _ r all) h
  | ldAnch => exact .of_next (State.ldAnch_kept _ _ r all) h
  | stLine => exact .of_next (State.stLine_kept _ r all) h
  | stRes => exact .of_next (State.stRes_kept _ r all) h
  | stSnap => exact .of_next (State.stSnap_kept _ r all) h
  | synHout => exact .of_next (State.synHout_kept _ r all) h
  | synHin => exact .of_next (State.synHin_kept _ r all) h
  | synEpoch => exact .of_next (State.synEpoch_kept _ r all) h
  | movSend => exact .of_next (State.movSend_kept _ r all) h
  | movFwd => exact .of_next (State.movFwd_kept _ r all) h
  | cvRecv => exact .of_next (State.cvRecv_kept _ r all) h
  | cvFwd => exact .of_next (State.cvFwd_kept _ r all) h
  | cvOut => exact .of_next (State.cvOut_kept _ r all) h
  | stepMark => exact .of_next (State.stepMark_kept _ r all) h
  | phaseMark => exact .of_next (State.phaseMark_kept _ r all) h
  | barrierWord => exact .of_next (State.barrierWord_kept _ _ r all) h
  | barrierRelease => exact .of_next (State.barrierRelease_kept _ r all) h
  | endWord => exact .of_next (State.endWord_kept _ r all) h
  | loopOpen => exact .of_next (State.loopOpen_kept _ _ _ r all) h
  | loopEndTest => exact .of_next (State.loopEndTest_kept _ r all) h
  | caravanTrigger => exact .of_next (State.caravanTrigger_kept _ _ r all) h
  | caravanBeatIssue => exact .of_next (State.beatIssue_kept _ _ _ r all) h
  | caravanBeatArrival => exact .of_next (State.beatArrival_kept _ _ r all) h
  | holdRequest => exact .of_next (State.holdRequest_kept _ _ _ _ r all) h
  | holdEnd => exact .of_next (State.holdEnd_kept _ r all) h
  | atomicOperation => exact .of_next (State.atomicOp_kept _ r all) h
  | orderedPart => exact .of_next (State.orderedPart_kept _ r all) h
  | heldPartEntry => exact .of_next (State.heldEntry_kept _ r all) h
  | stepCommit => exact .of_next (State.stepCommit_kept _ r all) h
  | checkResolve => exact .of_next (State.checkResolve_kept _ _ _ _ r all) h
  | oasisCopyDone => exact .of_next (State.copyDone_kept _ _ r all) h
  | clusterDegraded => exact .of_next (State.clusterDegrade_kept _ r all) h
  | observationEnd => exact .of_next (State.observationEnd_kept _ r all) h
  | kakComplete => exact .of_next (State.kakComplete_kept _ _ _ r all) h
  | kakTimeout => exact .of_next (State.modDie_kept _ _ r all) h
  | copyDigestCompare => exact .of_next (State.copyCompare_kept _ r all) h
  | hangReset => exact .of_next (State.hangReset_kept _ r all) h
  | sectorRead => exact .of_next_or_fault (State.sectorRead_kept _ _ _ r all) h
  | correctedWriteback => exact .of_next_or_fault (State.modStack_kept _ _ r all) h
  | refreshWindow => exact .of_next (.ite r (State.refreshWindow_kept _ _ r all)) h
  | fixedCadenceRefresh => exact .of_next (State.fixedRefresh_kept _ _ r all) h
  | dieSpareDone => exact .of_next (State.dieSpareDone_kept _ r all) h
  | stackFailed => exact .of_next (State.failStack_kept _ r all) h
  | stripeMove => exact .of_next_or_fault (State.stripeMove_kept _ _ r all) h
  | scrubRead => exact .of_next (State.scrubRead_kept _ _ r all) h
  | frameCleared => exact .of_next_or_fault (State.frameCleared_kept _ _ r all) h
  | stackHot => exact .of_next (State.stackHot_kept _ r all) h
  | stackCool => exact .of_next (State.stackCool_kept _ r all) h
  | stackSelfRefresh => exact .of_next (State.modStack_kept _ _ r all) h
  | stackWake => exact .of_next (State.modStack_kept _ _ r all) h
  | stackImbalance => exact .of_next (State.judgeWindow_kept _ r all) h
  | imbalanceRepeat => exact .of_next (.ite (State.log_kept _ r all) r) h
  | admitJob => exact .of_next (State.admitJobs_kept r all) h
  | waitLimit => exact .of_next (State.modJob_kept _ _ r all) h
  | seedingDone => exact .of_next (State.seedingDone_kept _ r all) h
  | preemptionPoint => exact .of_next (State.preemptionPoint_kept _ r all) h
  | contextWritten => exact .of_next (State.contextWritten_kept _ r all) h
  | cancelTimeout => exact .of_next (State.cancelTimeout_kept _ r all) h
  | settingChange => exact .of_next (State.settingChange_kept _ r all) h
  | pllLock => exact .of_next (State.pllLock_kept _ r all) h
  | halfClockStop => exact .of_next (State.halfStop_kept _ r all) h
  | unitReady => exact .of_next (State.becomeReady_kept _ r all) h
  | readyTimeout => exact .of_next (State.readyTimeout_kept _ r all) h
  | frameReceive => exact .of_next (State.frameIn_kept _ r all) h
  | neighbourSolicitation => exact .of_next (State.neighbour_kept _ _ r all) h
  | echoRequest => exact .of_next (State.echo_kept _ _ _ r all) h
  | expressFrameReady => exact .of_next (State.expressReady_kept _ _ r all) h
  | laneFailed => exact .of_next (State.laneFail_kept _ r all) h
  | linkUp => exact .of_next (State.linkComesUp_kept r all) h
  | linkDown => exact .of_next (State.portDown_kept r all) h
  | fallbackRetry => exact .of_next (State.fallbackNext_kept r all) h
  | preemptVerify => exact .of_next (State.verified_kept _ r all) h
  | laserSwitch => exact .of_next (State.laserFails_kept _ r all) h
  | macSwitch => exact .of_next (State.macParts_kept _ r all) h
  | ptpSync => exact .of_next (State.sync_kept _ r all) h
  | ptpDelayResp => exact .of_next (State.delayResp_kept _ _ r all) h
  | ptpUnlocked => exact .of_next (State.unlock_kept r all) h
  | ack => exact .of_next (State.ackIn_kept _ r all) h
  | retransmitTimeout => exact .of_next (State.retransmit_kept _ _ r all) h
  | sessionTimeout => exact .of_next (State.sessionTimeout_kept _ r all) h
  | idleTimeout => exact .of_next (State.idleTimeout_kept _ r all) h
  | sessionOpenPhase1 => exact .of_next (State.phase1In_kept _ r all) h
  | sessionOpenPhase2 => exact .of_next (State.phase2In_kept _ r all) h
  | sessionOpenPhase3 => exact .of_next (State.phase3In_kept _ r all) h
  | sessionOpenPhase4 => exact .of_next (State.phase4In_kept _ r all) h
  | halfOpenTimeout => exact .of_next (State.halfOpenTimeout_kept _ r all) h
  | sessionClose => exact .of_next (State.sessionClose_kept _ r all) h
  | enumerate => exact .of_next (State.enumerate_kept _ r all) h
  | rollCallBackoff => exact .of_next (State.backoffEnds_kept r all) h
  | probe => exact .of_next (State.probed_kept _ _ _ r all) h
  | assign => exact .of_next (State.assign_kept _ r all) h
  | reply => exact .of_next (State.replyIn_kept _ r all) h
  | probeTimeout => exact .of_next (State.probeEnds_kept r all) h
  | load => exact .of_next (State.command_kept _ _ _ (fun t x k => State.load_kept _ _ _ k all) r (sub_touches rfl)) h
  | release => exact .of_next (State.command_kept _ _ _ (fun t x k => State.releaseObject_kept _ _ _ k all) r (sub_touches rfl)) h
  | submit =>
    exact .of_next (Kept.onSession r fun x => .ite r
      (State.command_kept _ _ _ (fun t y k => State.submit_kept _ _ _ k all) r (sub_touches rfl))) h
  | cancel => exact .of_next (State.command_kept _ _ _ (fun t x k => State.cancel_kept _ _ _ k all) r (sub_touches rfl)) h
  | suspend =>
    exact .of_next (State.command_kept _ _ _ (fun t x k =>
      State.onJobCommand_kept _ _ _ _ _ (fun u i k => State.suspendJob_kept _ _ k all) k (sub_touches rfl)) r (sub_touches rfl)) h
  | resume =>
    exact .of_next (State.command_kept _ _ _ (fun t x k =>
      State.onJobCommand_kept _ _ _ _ _ (fun u i k => State.resumeJob_kept _ k (sub_touches rfl)) k (sub_touches rfl)) r
      (sub_touches rfl)) h
  | exportJob => exact .of_next (State.command_kept _ _ _ (fun t x k => State.exportJob_kept _ _ _ k all) r (sub_touches rfl)) h
  | fetch => exact .of_next (Kept.onSession r fun x => State.fetch_kept _ _ _ _ _ (State.popInbox_kept _ r (sub_touches rfl)) all) h
  | releaseResult =>
    exact .of_next (State.command_kept _ _ _ (fun t x k =>
      State.onJobCommand_kept _ _ _ _ _ (fun u i k => State.releaseResult_kept _ _ k (sub_touches rfl)) k (sub_touches rfl)) r
      (sub_touches rfl)) h
  | reset => exact .of_next (State.command_kept _ _ _ (fun t x k => State.resetCommand_kept _ _ _ k all) r (sub_touches rfl)) h
  | bulk => exact .of_next (.ite (State.bulkChunk_kept _ _ _ (State.popInbox_kept _ r (sub_touches rfl)) all) r) h
  | symmetryCheckDone => exact .of_next (State.symmetryDone_kept _ r all) h
  | regBatch => exact .of_next (Kept.onSession r fun x => State.regBatch_kept _ _ _ r all) h
  | quote => exact .of_next (Kept.onSession r fun x => State.quoteSigned_kept _ _ r (sub_touches rfl)) h
  | quoteConfigRecord => exact .of_next (Kept.onSession r fun x => State.quoteRecord_kept _ r all) h
  | portReset => exact .of_next (State.resetPort_kept r all) h
  | dieReset => exact .of_next (State.resetDie_kept _ r all) h
  | hubWarmReset => exact .of_next (State.hubWarm_kept r all) h
  | moduleWarmReset => exact .of_next (State.moduleWarm_kept r all) h
  | hubStart => exact .of_next (State.hubStart_kept r all) h
  | join => exact .of_next (State.join_kept _ r all) h
  | ready => exact .of_next (State.ready_kept _ r all) h
  | groupStart => exact .of_next (State.groupStart_kept _ r all) h
  | groupStartTimeout => exact .of_next (State.groupStartTimeout_kept _ r all) h
  | commit => exact .of_next (State.commitIn_kept _ r all) h
  | hold => exact .of_next (State.holdIn_kept _ r all) h
  | leave => exact .of_next (State.leaveIn_kept _ r all) h
  | refused => exact .of_next (State.refusedIn_kept _ r all) h
  | halo => exact .of_next (State.halo_kept _ r all) h
  | retract => exact .of_next (State.retract_kept _ r all) h
  | groupTimeout => exact .of_next (State.groupTimeout_kept _ r all) h
  | peerSessionRetry => exact .of_next (State.peerRetry_kept _ _ r all) h
  | claimBackoffExpiry => exact .of_next (State.claimBackoffEnds_kept r all) h
  | consentExpiry => exact .of_next (State.consentExpires_kept _ r all) h
  | keyOpEnrol => exact .of_next (State.ownWrite_kept _ _ _ _ _ (fun t x k => State.keyEnrol_kept _ k all) r (sub_touches rfl)) h
  | keyOpRemove => exact .of_next (State.ownWrite_kept _ _ _ _ _ (fun t x k => State.keyRemove_kept _ k all) r (sub_touches rfl)) h
  | keyOpMakerCert => exact .of_next (State.ownWrite_kept _ _ _ _ _ (fun t x k => State.keyCert_kept _ k all) r (sub_touches rfl)) h
  | firmwareHandover => exact .of_next (State.handOver_kept r all) h
  | controllerFailed => exact .of_next (State.controllerFails_kept _ r all) h
  | flashWriteRetry => exact .of_next (State.rewriteEnds_kept _ r all) h
  | firmwareMissingBeacon => exact .of_next (State.beacon_kept r all) h
  | scanArm => exact .of_next (State.scanArm_kept _ r all) h
  | scanRelease => exact .of_next (.ite (State.moduleWarm_kept r all) r) h
  | scanTimeout => exact .of_next (.ite (State.moduleWarm_kept r all) r) h
  | entropyBlock samples =>
    have block := State.entropyBlock_kept samples r (sub_touches rfl)
    exact .of_next (.ite (State.refuseOpens_kept block (sub_touches rfl)) block) h
  | entropyReady => exact .of_next (.ite (State.takeOpens_kept (State.entropyReady_kept r (sub_touches rfl)) (sub_touches rfl)) r) h
  | rngData => exact .of_next (State.rngRead_kept _ r all) h
  | rawData =>
    have taken := fun id => State.popInbox_kept id r (sub_touches rfl)
    exact .of_next (Kept.onSession r fun x => .ite (State.replyOne_kept _ _ _ _ _ (taken _) (sub_touches rfl))
      (State.replyOne_kept _ _ _ _ _ (taken _) (sub_touches rfl))) h
  | rawMode => exact .of_next (State.ownWrite_kept _ _ _ _ _ (fun t x k => State.rawMode_kept _ _ k all) r (sub_touches rfl)) h
  | alarmClear =>
    exact .of_next (State.ownWrite_kept _ _ _ _ _ (fun t x k => State.alarmClear_kept _ k (sub_touches rfl)) r (sub_touches rfl)) h
  | drbgMode =>
    exact .of_next (State.ownWrite_kept _ _ _ _ _ (fun t x k => State.drbgMode_kept _ _ k (sub_touches rfl)) r (sub_touches rfl)) h
  | feedPresent => exact .of_next (State.feedPresent_kept _ _ r all) h
  | feedLost => exact .of_next (State.feedLost_kept _ _ r all) h
  | journalClosed => exact .of_next (State.journalClose_kept r all) h
  | phaseGroupFailed => exact .of_next (State.phaseGroupFail_kept _ _ r all) h
  | currentLimit => exact .of_next (State.currentLimit_kept _ _ r all) h
  | droopStretch => exact .of_next (State.modDie_kept _ _ r all) h
  | droopRelease => exact .of_next (State.modDie_kept _ _ r all) h
  | thermalThrottle => exact .of_next (State.throttle_kept _ _ r all) h
  | throttleStep => exact .of_next (State.throttleStep_kept _ r all) h
  | thermalTrip => exact .of_next (State.trip_kept _ _ r all) h
  | thermalRelease => exact .of_next (State.thermalRelease_kept _ _ r all) h
  | bistSlice => exact .of_next (State.bistSlice_kept _ _ r all) h
  | sensorCheck => exact .of_next (State.sensorCheck_kept _ _ _ r all) h
  | pllLockLoss => exact .of_next (State.pllLose_kept _ r all) h
  | pllJitterFail => exact .of_next (State.jitterFail_kept _ r all) h
  | registerWrite => exact .of_next (State.oneEntry_kept _ _ r all) h
  | highWordRead => exact .of_next (State.oneEntry_kept _ _ r all) h
  | jobSel => exact .of_next (State.ownWrite_kept _ _ _ _ _ (fun t x k => State.selectJob_kept _ _ k all) r (sub_touches rfl)) h
  | auditSelLo => exact .of_next (State.ownWrite_kept _ _ _ _ _ (fun t x k => State.selectAudit_kept _ _ k all) r (sub_touches rfl)) h
  | evtSel => exact .of_next (State.ownWrite_kept _ _ _ _ _ (fun t x k => State.selectEvent_kept _ _ k all) r (sub_touches rfl)) h
  | evtForce => exact .of_next (State.headerEntry_kept _ _ _ _ r all) h
  | wake => exact .of_next (State.headerEntry_kept _ _ _ _ r all) h
  | retry => exact .of_next (State.headerEntry_kept _ _ _ _ r all) h
  | dr8Retry =>
    exact .of_next (State.ownWrite_kept _ _ _ _ _ (fun t x k =>
      State.resetPort_kept (State.auditWrite_kept _ _ _ k (sub_touches rfl)) (sub_touches rfl)) r (sub_touches rfl)) h
  | cfgOpWriteRecord =>
    exact .of_next (State.cfgOp_kept _ _ _ _ (fun t x k => State.cfgWrite_kept _ k (sub_touches rfl)) r (sub_touches rfl)) h
  | cfgOpUnclaim => exact .of_next (State.cfgOp_kept _ _ _ _ (fun t x k => State.unclaim_kept _ k all) r (sub_touches rfl)) h
  | cfgWriteDone => exact .of_next (State.cfgWriteEnds_kept _ r all) h
  | restoreDone => exact .of_next (State.restoreDone_kept _ r all) h
  | flashRewriteDone => exact .of_next (State.rewriteEnds_kept _ r all) h
  | vaonLost => exact .of_next (State.vaonLose_kept r all) h

/-- Settles O57: a command keeps the core maps in order, as every operation that moves a position does, and an idle cycle leaves them
alone. -/
theorem stepKeepsCoreMaps : Obligations.StepKeepsCoreMaps := by
  intro s t h
  unfold step at h
  split at h
  · exact ((idleCycle_kept (Kept.refl s) (List.Subset.refl _)).of_next h).maps
  · exact (exec_kept h).maps

/-- Settles O54: after reset every list that an invariant speaks of is empty. -/
theorem resetInvariants : Obligations.ResetInvariants :=
  ⟨rfl, Nat.zero_le _, ⟨Nat.zero_le _, fun _ h => absurd h List.not_mem_nil, trivial, fun _ => ⟨rfl, rfl⟩, fun _ h => nomatch h⟩,
    fun _ h => absurd h List.not_mem_nil, rfl, Nat.zero_le _⟩

end Sys2Proof.Machine

/-! PROOF, the rules that O18, O20, O25 and O50 share: what a job becomes under the updates of its entry, which job an entry of the table lists,
how a job ends (R294), and which events the ring holds after a log. -/

namespace Sys2Proof.Machine

open Sys2Proof Sys2Proof.Safety

/-! ### Maps changed entry by entry -/

/-- A map whose values change entry by entry, the default kept. -/
theorem mget_map_values {α : Type} {d : α} {F : Nat → α → α} (default : ∀ k, F k d = d) (m : SMap α) (k : Nat) :
    mget d (m.map fun e => (e.1, F e.1 e.2)) k = F k (mget d m k) := by
  induction m with
  | nil => exact (default k).symm
  | cons e m ih =>
    simp only [List.map_cons, mget, ih]
    split
    · rename_i same
      rw [same]
    · rfl

theorem mget_of_mem_rising {α : Type} {d : α} : ∀ {m : SMap α} {lo : Option Nat} {e : Nat × α}, mrising lo m = true → e ∈ m →
    (∀ b, lo = some b → b < e.1) ∧ mget d m e.1 = e.2
  | (a, v) :: m, lo, e, rising, mem => by
    simp only [mrising, Bool.and_eq_true] at rising
    obtain ⟨above, tail⟩ := rising
    have low : ∀ b, lo = some b → b < a := by
      rintro b rfl
      exact of_decide_eq_true above
    rcases List.mem_cons.1 mem with rfl | mem
    · exact ⟨low, if_pos rfl⟩
    · obtain ⟨more, value⟩ := mget_of_mem_rising (d := d) tail mem
      have more := more a rfl
      refine ⟨fun b h => (low b h).trans more, ?_⟩
      rw [mget, if_neg (by omega), value]

/-- A map in canonical form reads at a listed key what it lists there. -/
theorem mget_of_mem {α : Type} [DecidableEq α] {d : α} {m : SMap α} (ok : mwf d m = true) {e : Nat × α} (mem : e ∈ m) : mget d m e.1 = e.2 := by
  simp only [mwf, Bool.and_eq_true] at ok
  exact (mget_of_mem_rising ok.1 mem).2

theorem mem_of_mget {α : Type} {d : α} {k : Nat} : ∀ {m : SMap α}, mget d m k ≠ d → (k, mget d m k) ∈ m
  | [], h => absurd rfl h
  | (a, v) :: m, h => by
    rw [mget] at h ⊢
    split
    · rename_i same
      exact same ▸ .head _
    · rename_i other
      rw [if_neg other] at h
      exact .tail _ (mem_of_mget h)

/-! ### The job table -/

/-- What a table in order lists is what its entries hold (R293). -/
theorem State.job?_of_mem {s : State} (ok : JobsOk s) {e : Nat × Job} (mem : e ∈ s.jobList) : s.job? e.1 = some e.2 := by
  obtain ⟨⟨k, o⟩, listed, taken⟩ := List.mem_filterMap.1 mem
  obtain ⟨j, rfl, rfl⟩ := Option.map_eq_some_iff.1 taken
  exact mget_of_mem ok listed

theorem State.mem_jobList {s : State} {k : Nat} {j : Job} (job : s.job? k = some j) : (k, j) ∈ s.jobList := by
  have listed : (k, s.job? k) ∈ s.jobs.table := mem_of_mget (by rw [← State.job?, job]; exact Option.some_ne_none j)
  exact List.mem_filterMap.2 ⟨_, listed, by rw [job]; rfl⟩

theorem State.halfJob?_spec {s : State} (ok : JobsOk s) {h : Nat} {e : Nat × Job} (holds : s.halfJob? h = some e) :
    s.job? e.1 = some e.2 ∧ e.2.state.resident = true ∧ h ∈ e.2.region := by
  have resident := List.find?_some holds
  simp only [Bool.and_eq_true, List.contains_iff_mem] at resident
  exact ⟨State.job?_of_mem ok (List.mem_of_find?_eq_some holds), resident⟩

section Jobs

variable {s t : State} {slot : Nat} {j : Job}

theorem State.job?_of_jobs (same : t.jobs = s.jobs) (e : Nat) : t.job? e = s.job? e := by rw [State.job?, State.job?, same]

theorem jobsOk_of_jobs (same : t.jobs = s.jobs) (ok : JobsOk s) : JobsOk t := by rwa [JobsOk, same]

theorem jobsOk_setJob (ok : JobsOk s) (slot : Nat) (k : Job) : JobsOk (s.setJob slot k) := mwf_mset (d := none) (m := s.jobs.table) ok slot (some k)

theorem Kept.jobs {A : List Part} (kept : Kept A s t) (other : Part.jobs ∉ A := by decide) : t.jobs = s.jobs := kept.frame.same .jobs other

theorem State.modJob_eq (job : s.job? slot = some j) (f : Job → Job) : s.modJob slot f = s.setJob slot (f j) := by
  rw [State.modJob, job]

end Jobs

end Sys2Proof.Machine

namespace Sys2Proof.Safety

open Sys2Proof Sys2Proof.Machine

section Jobs

variable {s t u : State} {slot : Nat} {j : Job}

theorem JobBecomes.refl (job : s.job? slot = some j) : JobBecomes s s slot j := ⟨job, fun _ _ => rfl⟩

theorem JobBecomes.of_jobs (b : JobBecomes s t slot j) (same : u.jobs = t.jobs) : JobBecomes s u slot j :=
  ⟨(State.job?_of_jobs same slot).trans b.1, fun e other => (State.job?_of_jobs same e).trans (b.2 e other)⟩

theorem JobBecomes.trans {k : Job} (b : JobBecomes s t slot j) (c : JobBecomes t u slot k) : JobBecomes s u slot k :=
  ⟨c.1, fun e other => (c.2 e other).trans (b.2 e other)⟩

theorem JobBecomes.setJob (b : JobBecomes s t slot j) (k : Job) : JobBecomes s (t.setJob slot k) slot k := by
  refine ⟨(State.job?_setJob t slot slot k).trans (if_pos rfl), fun e other => ?_⟩
  rw [State.job?_setJob, if_neg other, b.2 e other]

theorem JobBecomes.modJob (b : JobBecomes s t slot j) (f : Job → Job) : JobBecomes s (t.modJob slot f) slot (f j) := by
  rw [State.modJob_eq b.1]
  exact b.setJob _

end Jobs

end Sys2Proof.Safety

namespace Sys2Proof.Machine

open Sys2Proof Sys2Proof.Safety

section Jobs

variable {s : State} {slot : Nat} {j : Job}

theorem Job.issuing_running (issues : j.issuing = true) : j.state = .running := by
  simp only [Job.issuing, Bool.and_eq_true] at issues
  exact eq_of_beq issues.1.1.1

/-! ### Demotion (R324) -/

/-- A job after a demotion with a cause: in fixed cadence it becomes elastic, any other stands. -/
def Job.demotedFor (j : Job) (cause : Nat) : Job :=
  if j.fixedCadence then
    { j with demoted := true, demoteStep := j.step, demoteCause := cause, fixedNow := false, reserved := false, atomRate := 0 }
  else j

theorem Job.demotedFor_of_fixed (fixed : j.fixedCadence = true) (cause : Nat) : j.demotedFor cause =
    { j with demoted := true, demoteStep := j.step, demoteCause := cause, fixedNow := false, reserved := false, atomRate := 0 } := if_pos fixed

theorem Job.demotedFor_of_elastic (elastic : j.fixedCadence = false) (cause : Nat) : j.demotedFor cause = j :=
  if_neg (Bool.eq_false_iff.1 elastic)

theorem Job.demotedFor_eq (j : Job) (cause : Nat) : ∃ d n c f r a, j.demotedFor cause =
    { j with demoted := d, demoteStep := n, demoteCause := c, fixedNow := f, reserved := r, atomRate := a } := by
  unfold Job.demotedFor
  split
  · exact ⟨_, _, _, _, _, _, rfl⟩
  · exact ⟨_, _, _, _, _, _, rfl⟩

theorem Job.demotedFor_elastic (j : Job) (cause : Nat) : (j.demotedFor cause).fixedCadence = false := by
  cases h : j.fixedCadence with
  | true => rw [Job.demotedFor_of_fixed h]; rfl
  | false => rw [Job.demotedFor_of_elastic h, h]

theorem State.demote_of_elastic (job : s.job? slot = some j) (elastic : j.fixedCadence = false) (cause : Nat) : s.demote slot cause = s := by
  rw [State.demote, job]
  exact if_neg (Bool.eq_false_iff.1 elastic)

theorem State.jobState_jobs (s : State) (j : Job) : (s.jobState j).jobs = s.jobs :=
  (State.complete_kept (A := [.transport, .streams]) _ _ _ (Kept.refl s) (List.Subset.refl _)).jobs

theorem State.demote_becomes (job : s.job? slot = some j) (cause : Nat) : JobBecomes s (s.demote slot cause) slot (j.demotedFor cause) := by
  cases fixed : j.fixedCadence with
  | true =>
    rw [Job.demotedFor_of_fixed fixed, State.demote, job]
    simp only [fixed, if_true]
    exact ((JobBecomes.refl job).setJob _).of_jobs (State.jobState_jobs _ _)
  | false =>
    rw [Job.demotedFor_of_elastic fixed, State.demote_of_elastic job fixed]
    exact JobBecomes.refl job

end Jobs

/-! ### Settings raised (R303) -/

/-- From `s` to `t` an entry of the table stands, or the arbiter has set the target of the resident job in it. -/
def Retargeted (s t : State) (e : Nat) : Prop :=
  t.job? e = s.job? e ∨ ∃ j w, s.job? e = some j ∧ j.state.resident = true ∧ t.job? e = some { j with targetSetting := w }

theorem raiseList_retargets {s : State} {e : Nat} : ∀ {l : List (Nat × Job)} {free : Nat} {t : State},
    (∀ x ∈ l, s.job? x.1 = some x.2 ∧ x.2.state.resident = true) → Retargeted s t e → Retargeted s (raiseList l free t) e
  | [], _, _, _, h => h
  | x :: l, _, t, listed, h => by
    rw [raiseList]
    refine raiseList_retargets (fun y mem => listed y (.tail _ mem)) ?_
    rw [Retargeted, State.job?_setJob]
    obtain ⟨job, resident⟩ := listed x (.head _)
    split
    · rename_i same
      exact .inr ⟨x.2, _, same ▸ job, resident, rfl⟩
    · exact h

theorem mem_placeBy {α : Type} {before : α → α → Bool} {a x : α} : ∀ {l : List α}, x ∈ placeBy before a l → x = a ∨ x ∈ l
  | [], mem => .inl (List.mem_singleton.1 mem)
  | b :: l, mem => by
    rw [placeBy] at mem
    split at mem
    · rcases List.mem_cons.1 mem with rfl | mem
      · exact .inr (.head _)
      · exact (mem_placeBy mem).imp_right (.tail _)
    · exact List.mem_cons.1 mem

theorem mem_of_mem_sortBy {α : Type} {before : α → α → Bool} {x : α} {l : List α} (mem : x ∈ sortBy before l) : x ∈ l := by
  have placed : ∀ (l acc : List α), x ∈ l.foldl (fun acc a => placeBy before a acc) acc → x ∈ l ∨ x ∈ acc := by
    intro l
    induction l with
    | nil => exact fun _ mem => .inr mem
    | cons a l ih =>
      intro acc mem
      rcases ih _ mem with mem | mem
      · exact .inl (.tail _ mem)
      · exact (mem_placeBy mem).imp_left fun same => List.mem_cons.2 (.inl same)
  rcases placed _ _ mem with mem | mem
  · exact List.mem_reverse.1 mem
  · exact absurd mem List.not_mem_nil

theorem State.mem_elasticOrder {s : State} {x : Nat × Job} (mem : x ∈ s.elasticOrder) : x ∈ s.jobList ∧ x.2.state.resident = true := by
  obtain ⟨listed, elastic⟩ := List.mem_filter.1 (mem_of_mem_sortBy mem)
  exact ⟨listed, (Bool.and_eq_true _ _ ▸ elastic).1⟩

theorem State.raiseSettings_retargets {s : State} (ok : JobsOk s) (e : Nat) : Retargeted s s.raiseSettings e := by
  unfold State.raiseSettings State.raiseFree
  split
  · exact .inl rfl
  · split
    · exact .inl rfl
    · refine raiseList_retargets (fun x mem => ?_) (.inl rfl)
      obtain ⟨listed, resident⟩ := State.mem_elasticOrder (List.mem_reverse.1 mem)
      exact ⟨State.job?_of_mem ok listed, resident⟩

/-! ### The end of a job (R294) -/

theorem le_firstFree {α : Type} : ∀ (m : SMap α) (k : Nat), k ≤ firstFree m k
  | [], _ => Nat.le_refl _
  | (a, _) :: m, k => by
    rw [firstFree]
    split
    · exact (Nat.le_succ k).trans (le_firstFree m (k + 1))
    · split
      · exact Nat.le_refl _
      · exact le_firstFree m k

section EndJob

variable {s : State} {slot : Nat} {j : Job}

/-- A job taken from its entry and put among the ended ones, whatever the arbiter raises then. -/
theorem ended_of_moved {t : State} {k : Job} {e : Nat} (ok : JobsOk s) (place : slot < 4096) (above : 4096 ≤ e)
    (table : t.jobs.table = mset none (mset none s.jobs.table slot none) e (some k)) (id : k.id = j.id) (state : k.state = .ended)
    (region : k.region = []) (final : k.finalSent = true) : Ended t.raiseSettings slot j k.status := by
  have okT : JobsOk t := by
    rw [JobsOk, table]
    exact mwf_mset (mwf_mset ok _ _) _ _
  have moved : t.job? e = some k := by rw [State.job?, table, mget_mset_self]
  have left : t.job? slot = none := by rw [State.job?, table, mget_mset_other _ _ _ (by omega), mget_mset_self]
  have stands : ∀ i, (∀ l, t.job? i = some l → l.state.resident = false) → t.raiseSettings.job? i = t.job? i := by
    intro i idle
    rcases State.raiseSettings_retargets okT i with same | ⟨l, w, job, resident, -⟩
    · exact same
    · exact absurd resident (by rw [idle l job]; decide)
  refine ⟨(stands slot fun l h => ?_).trans left, k, e, above, (stands e fun l h => ?_).trans moved, id, state, rfl, region, final⟩
  · rw [left] at h
    cases h
  · rw [moved] at h
    cases h
    rw [state]
    rfl

/-- The result sealed of a job that ends with a status (R294). -/
def State.sealedEnd (s : State) (j : Job) (status : Nat) : State × Job :=
  s.sealResult { j.asCommitted status with state := .ended, status := BitVec.ofNat 16 status } status

/-- The job with its run over. -/
def Job.stopped (j : Job) : Job :=
  { j with shadows := [], areaWrites := [], checks := [], segments := [], inFlight := [], waiting := .no, hold := none }

/-- The job as it stands among the ended ones: it holds nothing any more. -/
def State.endedJob (s : State) (j : Job) (status : Nat) : Job :=
  { (s.sealedEnd j status).2.stopped with
    region := [], reserved := false, loweringFor := none, waitLimit := false, allocs := [], contextPages := [], sideCounts := [], finalSent := true }

/-- The state without the job: its frames, its region, its beats and its entry are given up. -/
def State.withoutJob (s : State) (slot : Nat) (j : Job) (status : Nat) : State :=
  let j2 := (s.sealedEnd j status).2.stopped
  ((((s.sealedEnd j status).1.freeJobMemory j2).clearRegion j2.region).dropOutward j2.id).dropJob slot

/-- The first place that is free above the table. -/
def State.endedPlace (s : State) : Nat := firstFree (s.jobs.table.filter fun e => decide (4096 ≤ e.1)) 4096

/-- What the neighbours and the submitter of an ended job hear (R294, R442). -/
def State.tellEnd (s : State) (j : Job) (silent : Bool) (status d0 d1 : Nat) : State :=
  let t := match j.group with
    | some g => s.toNeighbours g (g.barrier 5 (BitVec.ofNat 16 status) j.epoch)
    | none => s
  if silent then t else t.complete j.owner (some j.sess) (t.finalRecord j status d0 d1)

theorem State.le_endedPlace (s : State) : 4096 ≤ s.endedPlace := le_firstFree _ _

theorem State.tellEnd_jobs (s : State) (j : Job) (silent : Bool) (status d0 d1 : Nat) : (s.tellEnd j silent status d0 d1).jobs = s.jobs := by
  refine Kept.jobs (A := [.transport, .streams]) ?_
  have group : Kept [.transport, .streams] s (match j.group with
      | some g => s.toNeighbours g (g.barrier 5 (BitVec.ofNat 16 status) j.epoch)
      | none => s) := by
    split
    · exact State.toNeighbours_kept _ _ (Kept.refl s) (by decide)
    · exact Kept.refl s
  exact .ite group (State.complete_kept _ _ _ group (by decide))

theorem State.dropReleased_jobs (s : State) : s.dropReleased.jobs = s.jobs :=
  (State.dropReleased_kept (A := [.tielux, .objects]) (Kept.refl s) (by decide)).jobs

theorem State.withoutJob_table (s : State) (slot : Nat) (j : Job) (status : Nat) :
    (s.withoutJob slot j status).jobs.table = mset none s.jobs.table slot none := by
  have sealed : Kept [.clusters, .tielux, .free] s (s.sealedEnd j status).1 := State.sealResult_kept _ status (Kept.refl s) (by decide)
  have freed := State.dropOutward_kept (s.sealedEnd j status).2.stopped.id 0 (State.clearRegion_kept (s.sealedEnd j status).2.stopped.region
    (State.freeJobMemory_kept (s.sealedEnd j status).2.stopped sealed (by decide)) (by decide)) (by decide)
  exact congrArg (fun x : JobEngine => mset none x.table slot none) freed.jobs

theorem Job.asCommitted_id (j : Job) (status : Nat) : (j.asCommitted status).id = j.id := by
  rw [Job.asCommitted]
  split <;> rfl

/-- The end of a job: it moves out of the table, its end is told, and what it held goes to others. -/
theorem State.endJob_eq (job : s.job? slot = some j) (live : j.state ≠ .ended) (idle : j.state ≠ .preempting) (status d0 d1 : Nat) :
    s.endJob slot status d0 d1 =
      (((s.withoutJob slot j status).setJob (s.withoutJob slot j status).endedPlace (s.endedJob j status)).tellEnd (s.endedJob j status)
        j.finalSent status d0 d1).dropReleased.raiseSettings := by
  rw [State.endJob, job]
  exact (if_neg (by simpa using live)).trans (if_neg (by simpa using idle))

/-- A job that ends stands among the ended ones, and its entry of the table is empty; what the end frees may raise the settings of others. -/
theorem State.endJob_ended (ok : JobsOk s) (place : slot < 4096) (job : s.job? slot = some j) (live : j.state ≠ .ended)
    (idle : j.state ≠ .preempting) (status d0 d1 : Nat) : Ended (s.endJob slot status d0 d1) slot j (BitVec.ofNat 16 status) := by
  rw [State.endJob_eq job live idle]
  refine ended_of_moved (k := s.endedJob j status) ok place (State.le_endedPlace (s.withoutJob slot j status)) ?_ (j.asCommitted_id status) rfl rfl rfl
  rw [State.dropReleased_jobs, State.tellEnd_jobs, ← State.withoutJob_table s slot j status]
  rfl

end EndJob
end Sys2Proof.Machine

/-! PROOF of O18 and O20: the control slice. -/

namespace Sys2Proof.Machine

open Sys2Proof Sys2Proof.Safety

section Control

variable {s : State} {slot : Nat} {j : Job}

/-! ### Trees that close (R229) -/

/-- A job whose energies and whose ledger line may have changed. -/
def sameButLedger (j k : Job) : Prop := k = { j with energies := k.energies, ledgerLine := k.ledgerLine }

/-- A job whose energies, and the trees and counts that go into them, may have changed. -/
def sameButEnergies (j k : Job) : Prop :=
  k = { j with energies := k.energies, trees := k.trees, energyLog := k.energyLog, counts := k.counts, ledgerLine := k.ledgerLine }

theorem sameButLedger.energies {j k : Job} (h : sameButLedger j k) : sameButEnergies j k :=
  h.trans (by rw [h])

theorem sameButEnergies.trans {j k m : Job} (h : sameButEnergies j k) (h' : sameButEnergies k m) : sameButEnergies j m :=
  Eq.trans h' (by rw [h])

theorem Job.endTrees_same (j : Job) (exact : Bool) : sameButEnergies j (j.endTrees exact) := by
  rw [Job.endTrees]
  split
  · rfl
  · rfl

/-- The energy unit closes the trees of a job: its energies and its ledger line change, no other of its registers and no other job. -/
theorem State.closeLedger_becomes (job : s.job? slot = some j) : ∃ k, sameButLedger j k ∧ JobBecomes s (s.closeLedger slot) slot k := by
  rw [State.closeLedger, job]
  dsimp only
  split
  · exact ⟨j, rfl, JobBecomes.refl job⟩
  · split
    · refine ⟨_, ?_, JobBecomes.setJob (JobBecomes.of_jobs (JobBecomes.refl job) ?_) _⟩ <;> rfl
    · refine ⟨_, ?_, JobBecomes.setJob (JobBecomes.refl job) _⟩
      rfl

theorem State.closeLedger_of_none (job : s.job? slot = some j) (none : j.trees = []) : s.closeLedger slot = s := by
  rw [State.closeLedger, job]
  exact if_pos (by rw [none]; rfl)

/-! ### STEP (R181, R276) -/

theorem State.mapRegion_jobs (s : State) (region : List Nat) (f : Core → Core) : (s.mapRegion region f).jobs = s.jobs := rfl

theorem State.stepMark_of_unmarked (job : s.job? slot = some j) (unmarked : ctlStep (s.controlAt j) = false) : s.stepMark slot = s := by
  rw [State.stepMark, job]
  exact if_pos (.inr unmarked)

/-- A step that may end: what stands is kept for its commit, once the trees have closed. -/
theorem State.stepMark_ends (job : s.job? slot = some j) (issues : j.issuing = true) (marked : ctlStep (s.controlAt j) = true)
    (few : j.stepEnds.length < 2) : ∃ k loop checks, sameButEnergies j k ∧ JobBecomes s (s.stepMark slot) slot (k.markStep loop checks) := by
  obtain ⟨k, same, closed⟩ := State.closeLedger_becomes job
  have ended := closed.modJob fun k => k.endTrees (s.exactOf j)
  refine ⟨k.endTrees (s.exactOf j), (s.tilingOf j).stepLoop? (s.program j), s.checksOf j j.step, same.energies.trans (k.endTrees_same _), ?_⟩
  rw [State.stepMark, job]
  simp only [issues, marked, Bool.true_eq_false, or_self, if_false, if_neg (Nat.not_le.2 few)]
  refine JobBecomes.modJob (JobBecomes.of_jobs ended ?_) _
  rfl

theorem State.stepMark_holds (job : s.job? slot = some j) (issues : j.issuing = true) (marked : ctlStep (s.controlAt j) = true)
    (full : 2 ≤ j.stepEnds.length) : JobBecomes s (s.stepMark slot) slot ((j.demotedFor 6).takeHold 64) := by
  rw [State.stepMark, job]
  simp only [issues, marked, Bool.true_eq_false, or_self, if_false, if_pos full]
  exact (State.demote_becomes job 6).modJob _

/-! ### PHASE (R181, R223) -/

theorem State.phaseMark_of_unmarked (job : s.job? slot = some j) (unmarked : ctlPhase (s.controlAt j) = false) : s.phaseMark slot = s := by
  rw [State.phaseMark, job]
  exact if_pos (.inr unmarked)

theorem State.phaseMark_eq (job : s.job? slot = some j) (issues : j.issuing = true) (marked : ctlPhase (s.controlAt j) = true) :
    s.phaseMark slot = (s.mapRegion j.region Core.swapPending).setJob slot
      { j with phaseBit := !j.phaseBit, phase := if ctlStep (s.controlAt j) then 0 else j.phase + 1 } := by
  rw [State.phaseMark, job]
  exact if_neg (by simp [issues, marked])

/-- A cluster with its cores changed. -/
def Cluster.mapCores (c : Cluster) (f : Core → Core) : Cluster := { c with cores := c.cores.map fun e => (e.1, f e.2) }

/-- Does a region hold the half of the cluster with a key. -/
def inRegion (region : List Nat) (k : Nat) : Bool := region.contains (2 * (k / 64) + if k % 8 < 4 then 0 else 1)

theorem State.mapRegion_cluster (s : State) (region : List Nat) (f : Core → Core) (k : Nat) :
    (s.mapRegion region f).cluster k = if inRegion region k then (s.cluster k).mapCores f else s.cluster k := by
  have entries : (s.mapRegion region f).clusters =
      s.clusters.map fun e => (e.1, if inRegion region e.1 then e.2.mapCores f else e.2) := by
    refine List.map_congr_left fun e _ => ?_
    change (if inRegion region e.1 = true then _ else _) = _
    split <;> rfl
  rw [State.cluster, entries]
  exact mget_map_values (d := ({} : Cluster)) (F := fun k c => if inRegion region k then c.mapCores f else c) (fun k => by split <;> rfl)
    s.clusters k

theorem State.mapRegion_core (s : State) (region : List Nat) {f : Core → Core} (default : f {} = {}) (k n : Nat) :
    mget {} ((s.mapRegion region f).cluster k).cores n =
      if inRegion region k then f (mget {} (s.cluster k).cores n) else mget {} (s.cluster k).cores n := by
  rw [State.mapRegion_cluster]
  split
  · exact mget_map_values (F := fun _ => f) (fun _ => default) _ n
  · rfl

/-- A state word whose pending value, where it has one, has become current. -/
def StateWord.swapped (u : StateWord) : StateWord :=
  match u.pend with
  | some w => { cur := w, curPoison := u.pendPoison, curTag := u.pendTag }
  | none => { cur := u.cur, curPoison := u.curPoison, curTag := u.curTag }

theorem Core.swapPending_eq (c : Core) :
    c.swapPending = { c with slots := c.slots.filterMap fun e => if e.2.swapped = {} then none else some (e.1, e.2.swapped) } := rfl

theorem Core.mem_swapPending {c : Core} {a : Nat} {v : StateWord} :
    (a, v) ∈ c.swapPending.slots ↔ v ≠ ({} : StateWord) ∧ ∃ u, (a, u) ∈ c.slots ∧ v = u.swapped := by
  simp only [Core.swapPending_eq, List.mem_filterMap]
  constructor
  · rintro ⟨⟨b, u⟩, mem, kept⟩
    split at kept
    · cases kept
    · rename_i filled
      cases kept
      exact ⟨filled, u, mem, rfl⟩
  · rintro ⟨filled, u, mem, rfl⟩
    exact ⟨(a, u), mem, if_neg filled⟩

/-! ### BARRIER (R182, R323) -/

/-- The epoch barrier alone looks at a group: without one, a barrier that passes lets its word issue. -/
theorem State.passBarrier_eq {kind : BarrierKind} (alone : kind = .epoch → j.group = none) (s : State) (slot : Nat) :
    s.passBarrier slot j kind = s.setJob slot { j with waiting := .no } := by
  cases kind with
  | epoch =>
    unfold State.passBarrier
    rw [alone rfl]
  | commit => rfl
  | preempt => rfl

theorem no_peer_left {kind : BarrierKind} (alone : kind = .epoch → j.group = none) : ¬(kind = .epoch ∧ (j.group.any fun g => g.peerLeft j.epoch) = true) := by
  rintro ⟨epoch, left⟩
  rw [alone epoch] at left
  cases left

section Barrier

variable {kind : BarrierKind}

theorem State.barrierWord_of_holds (job : s.job? slot = some j) (issues : j.issuing = true) (word : ctlBarrier (s.controlAt j) = barrierCode kind)
    (alone : kind = .epoch → j.group = none) (holds : s.barrierHolds j kind = true) :
    s.barrierWord slot kind = s.setJob slot { j with waiting := .no } := by
  rw [State.barrierWord, job]
  simp only [issues, word, holds, Bool.true_eq_false, ne_eq, not_true_eq_false, or_self, if_false, if_true]
  exact State.passBarrier_eq alone s slot

theorem State.barrierWord_of_waits (job : s.job? slot = some j) (issues : j.issuing = true) (word : ctlBarrier (s.controlAt j) = barrierCode kind)
    (alone : kind = .epoch → j.group = none) (waits : s.barrierHolds j kind = false) :
    JobBecomes s (s.barrierWord slot kind) slot
      { (if kind = .preempt then j else j.demotedFor 5) with waiting := .barrier kind } := by
  rw [State.barrierWord, job]
  simp only [issues, word, waits, Bool.true_eq_false, ne_eq, not_true_eq_false, or_self, if_false, Bool.false_eq_true, if_neg (no_peer_left alone)]
  split
  · exact (JobBecomes.refl job).modJob _
  · exact (State.demote_becomes job 5).modJob _

/-! ### Held cycles (R184, R213) -/

theorem nodup_eraseDups : ∀ l : List Nat, l.eraseDups.Nodup
  | [] => List.nodup_nil
  | a :: l => by
    rw [List.eraseDups_cons, List.nodup_cons]
    refine ⟨fun mem => ?_, nodup_eraseDups _⟩
    simp at mem
  termination_by l => l.length
  decreasing_by exact Nat.lt_succ_of_le (List.length_filter_le _ _)

/-- A die with cycles of a hold counted on it. -/
def Die.countHeld (x : Die) (cycles : Nat) : Die :=
  { x with holdCycles := satAdd 64 x.holdCycles cycles, holdEvents := satAdd 32 x.holdEvents 1 }

theorem foldl_modDie_jobs (f : Die → Die) (ds : List Nat) (s : State) : (ds.foldl (fun t d => t.modDie d f) s).jobs = s.jobs := by
  induction ds generalizing s with
  | nil => rfl
  | cons d ds ih => exact ih _

theorem foldl_modDie_die {ds : List Nat} (once : ds.Nodup) (f : Die → Die) (s : State) (d : Nat) :
    (ds.foldl (fun t d => t.modDie d f) s).die d = if d ∈ ds then f (s.die d) else s.die d := by
  induction ds generalizing s with
  | nil => rfl
  | cons a ds ih =>
    obtain ⟨fresh, once⟩ := List.nodup_cons.1 once
    have first : (s.modDie a f).die d = if d = a then f (s.die a) else s.die d := mget_mmod _ _ _ _ _
    rw [List.foldl_cons, ih once, first]
    by_cases same : d = a
    · subst same
      simp [fresh]
    · simp [same]

/-- The held cycles of a job counted on the job and on the dies of its region. -/
theorem State.countHeld_eq (job : s.job? slot = some j) (cycles : Nat) (cadence : Bool) : s.countHeld slot cycles cadence =
    (j.region.map (· / 2)).eraseDups.foldl (fun t d => t.modDie d fun x => x.countHeld cycles) (s.setJob slot
      { j with heldCycles := j.heldCycles + cycles, cadence := if cadence then j.cadence + cycles else j.cadence }) := by
  rw [State.countHeld, job]
  rfl

theorem State.countHeld_becomes (job : s.job? slot = some j) (cycles : Nat) (cadence : Bool) :
    JobBecomes s (s.countHeld slot cycles cadence) slot
      { j with heldCycles := j.heldCycles + cycles, cadence := if cadence then j.cadence + cycles else j.cadence } := by
  rw [State.countHeld_eq job]
  exact ((JobBecomes.refl job).setJob _).of_jobs (foldl_modDie_jobs _ _ _)

theorem State.countHeld_die (job : s.job? slot = some j) (cycles : Nat) (cadence : Bool) (d : Nat) :
    (s.countHeld slot cycles cadence).die d = if ∃ x ∈ j.region, x / 2 = d then (s.die d).countHeld cycles else s.die d := by
  rw [State.countHeld_eq job, foldl_modDie_die (nodup_eraseDups _)]
  simp only [List.mem_eraseDups, List.mem_map]
  rfl

/-- A word that waits issues once its barrier's condition holds; the time it waited is counted. -/
theorem State.barrierRelease_of_holds (job : s.job? slot = some j) (waits : j.waiting = .barrier kind) (alone : kind = .epoch → j.group = none)
    (holds : s.barrierHolds j kind = true) : ∃ h, JobBecomes s (s.barrierRelease slot) slot
      { j with waiting := .no, heldCycles := j.heldCycles + h, cadence := if kind != .preempt then j.cadence + h else j.cadence } := by
  refine ⟨Config.waitCycles s.free, ?_⟩
  rw [State.barrierRelease, job]
  simp only [waits, holds, if_true]
  rw [State.passBarrier_eq alone]
  have issued := ((JobBecomes.refl job).of_jobs (u := { s with free := s.free + 1 }) rfl).setJob { j with waiting := .no }
  exact JobBecomes.trans issued (State.countHeld_becomes issued.1 _ _)

theorem State.barrierRelease_of_waits (job : s.job? slot = some j) (waits : j.waiting = .barrier kind) (alone : kind = .epoch → j.group = none)
    (still : s.barrierHolds j kind = false) : s.barrierRelease slot = s := by
  rw [State.barrierRelease, job]
  simp only [waits, still, Bool.false_eq_true, if_false]
  exact if_neg (no_peer_left alone)

end Barrier

/-! ### END (R179, R218) -/

theorem State.endWord_eq (job : s.job? slot = some j) (issues : j.issuing = true) (word : ctlEnd (s.controlAt j) = true) :
    s.endWord slot = (s.setJob slot { j.tick with waiting := .finishing }).finish slot := by
  rw [State.endWord, job]
  exact if_neg (by simp [issues, word])

/-- A program whose last step is not committed, or whose last beats are not taken, waits to finish. -/
theorem State.finish_of_unready (job : s.job? slot = some j) (unready : j.committed ≠ j.step ∨ s.outstanding j.id j.step = true) :
    s.finish slot = s := by
  rw [State.finish, job]
  exact if_pos (.inr unready)

theorem Job.foldl_offer_eq (es : List TopkEntry) (j : Job) : ∃ l, es.foldl Job.offer j = { j with topk := l } := by
  induction es generalizing j with
  | nil => exact ⟨_, rfl⟩
  | cons e es ih =>
    obtain ⟨l, offered⟩ : ∃ l, j.offer e = { j with topk := l } := by
      rw [Job.offer]
      split <;> exact ⟨_, rfl⟩
    rw [List.foldl_cons, offered]
    obtain ⟨m, rest⟩ := ih { j with topk := l }
    exact ⟨m, rest⟩

/-- A job with the areas and candidates of its last step entered. -/
def Job.finished (j : Job) : Job :=
  let j1 := j.commitAreas j.step
  { (if j1.body.topkSource = 0 then j1 else j1.topkOffers.foldl Job.offer j1) with topkOffers := [], countsAtCommit := j.counts }

theorem Job.finished_same (j : Job) : j.finished.id = j.id ∧ j.finished.state = j.state := by
  unfold Job.finished
  dsimp only
  split
  · exact ⟨rfl, rfl⟩
  · obtain ⟨l, offered⟩ := Job.foldl_offer_eq (j.commitAreas j.step).topkOffers (j.commitAreas j.step)
    rw [offered]
    exact ⟨rfl, rfl⟩

/-- A finished program ends with success, once what its last words did is stored. -/
theorem State.finish_ended (ok : JobsOk s) (place : slot < 4096) (job : s.job? slot = some j) (running : j.state = .running)
    (finishing : j.waiting = .finishing) (committed : j.committed = j.step) (taken : s.outstanding j.id j.step = false)
    (clean : ∀ x ∈ j.shadows, x.taken = false) : Ended (s.finish slot) slot j 0 := by
  have run : s.finish slot = (((s.commitShadows j j.step).storeCommit j j.finished j.step).setJob slot j.finished).endJob slot 0 0 0 := by
    rw [State.finish, job]
    refine (if_neg (by simp [finishing, committed, taken])).trans (if_neg ?_)
    simpa using clean
  have stored : ((s.commitShadows j j.step).storeCommit j j.finished j.step).jobs = s.jobs :=
    Kept.jobs (A := [.tielux, .mem]) (State.storeCommit_kept _ _ _ (State.commitShadows_kept _ _ (Kept.refl s) (by decide)) (by decide))
  obtain ⟨id, state⟩ := j.finished_same
  have table := jobsOk_setJob (jobsOk_of_jobs stored ok) slot j.finished
  obtain ⟨left, k, e, above, at_, same⟩ := State.endJob_ended table place ((State.job?_setJob _ _ _ _).trans (if_pos rfl))
    (by rw [state, running]; decide) (by rw [state, running]; decide) 0 0 0
  rw [run]
  exact ⟨left, k, e, above, at_, by rw [← id]; exact same⟩

/-! ### Loops (R180, R219) -/

theorem endTests_of_none {last : Nat} {fs : List LoopFrame} (none : ∀ f ∈ fs.head?, f.last ≠ last) : endTests last fs = (fs, (last + 1) % 4096) := by
  cases fs with
  | nil => rfl
  | cons f fs => exact if_neg (none f rfl)

theorem endTests_of_left {last : Nat} {f : LoopFrame} {fs : List LoopFrame} (ends : f.last = last) (left : 1 < f.left) :
    endTests last (f :: fs) = ({ f with left := f.left - 1 } :: fs, f.first) := (if_pos ends).trans (if_pos left)

/-- Loops that end on a word with no iteration left are done. -/
theorem endTests_append {last : Nat} {done fs : List LoopFrame} (spent : ∀ f ∈ done, f.last = last ∧ f.left ≤ 1) :
    endTests last (done ++ fs) = endTests last fs := by
  induction done with
  | nil => rfl
  | cons f done ih =>
    obtain ⟨ends, one⟩ := spent f (.head _)
    exact ((if_pos ends).trans (if_neg (by omega))).trans (ih fun g mem => spent g (.tail _ mem))

/-- A word that opens its loop already opened before a jump back. -/
def Job.opensAgain (j : Job) (last : Nat) : Prop := ∃ f fs, j.loops = f :: fs ∧ f.first = j.pc ∧ f.last = last

theorem Job.opensAgain_iff {last : Nat} : j.opensAgain last ↔ (j.loops.head?.any fun f => f.first == j.pc && f.last == last) = true := by
  rw [Job.opensAgain]
  cases j.loops with
  | nil => simp
  | cons f fs => simp

theorem Job.openLoop_of_again {last : Nat} (again : j.opensAgain last) (count : Nat) : j.openLoop last count = j :=
  if_pos (Job.opensAgain_iff.1 again)

theorem Job.openLoop_of_count {last count : Nat} (fresh : ¬j.opensAgain last) (some : count ≠ 0) :
    j.openLoop last count = { j with loops := { first := j.pc, last := last, left := count } :: j.loops } :=
  (if_neg fun h => fresh (Job.opensAgain_iff.2 h)).trans (if_neg some)

/-- A loop with a count of 0 is skipped, by the end tests of the loops that end on its last word. -/
theorem Job.openLoop_of_zero {last : Nat} (fresh : ¬j.opensAgain last) (alone : ∀ f ∈ j.loops, f.last ≠ last) :
    j.openLoop last 0 = { j.tick with pc := (last + 1) % 4096 } := by
  refine ((if_neg fun h => fresh (Job.opensAgain_iff.2 h)).trans (if_pos rfl)).trans ?_
  rw [endTests_of_none fun f head => alone f (List.mem_of_mem_head? head)]
  rfl

theorem State.loopOpen_eq {last : Nat} {count : LoopCount} (job : s.job? slot = some j) (issues : j.issuing = true)
    (opens : opensLoop (s.controlAt j) last count = true) : s.loopOpen slot last count =
      s.setJob slot { j.openLoop last (j.loopCount count) with
        prelude := (j.openLoop last (j.loopCount count)).prelude && !countsSweeps count } := by
  rw [State.loopOpen, State.modJob_eq job, issues, opens]
  rfl

/-- The end of a word: the job goes to its next word, and trees that close change its energies only. -/
theorem State.loopEndTest_becomes (job : s.job? slot = some j) (issues : j.issuing = true) (more : ctlEnd (s.controlAt j) = false) :
    ∃ k, sameButLedger j.nextWord k ∧ JobBecomes s (s.loopEndTest slot) slot k := by
  have word := (JobBecomes.refl job).setJob j.nextWord
  rw [State.loopEndTest, job]
  simp only [issues, more, Bool.true_eq_false, or_self, if_false, Bool.false_eq_true]
  split
  · obtain ⟨k, same, closed⟩ := State.closeLedger_becomes word.1
    exact ⟨k, same, JobBecomes.trans word closed⟩
  · exact ⟨j.nextWord, rfl, word⟩

/-- Where no energy pass ends, or no tree is open, the job goes to its next word and nothing else changes. -/
theorem State.loopEndTest_of_closed (job : s.job? slot = some j) (issues : j.issuing = true) (more : ctlEnd (s.controlAt j) = false)
    (closed : ctlEpass (s.controlAt j) = false ∨ j.trees = []) : s.loopEndTest slot = s.setJob slot j.nextWord := by
  rw [State.loopEndTest, job]
  simp only [issues, more, Bool.true_eq_false, or_self, if_false, Bool.false_eq_true]
  split
  · rename_i pass
    have none : j.nextWord.trees = [] := closed.resolve_left (by simp_all)
    exact State.closeLedger_of_none ((State.job?_setJob _ _ _ _).trans (if_pos rfl)) none
  · rfl

/-! ### Holds (R183 to R185) -/

/-- A hold of some cycles that starts `after` cycles later than the hold in progress, which it extends. -/
def Job.held (j : Job) (len after : Nat) : Option HoldState :=
  some { len := match j.hold with | some h => max h.len (after + len) | none => len }

theorem Job.demotedFor_held (j : Job) (cause len after : Nat) : (j.demotedFor cause).held len after = j.held len after := by
  obtain ⟨_, _, _, _, _, _, eq⟩ := j.demotedFor_eq cause
  rw [eq]
  rfl

theorem State.holdRequest_eq (job : s.job? slot = some j) (running : j.state = .running) {len : Nat} (length : 1 ≤ len) (after cause : Nat) :
    s.holdRequest slot len after cause = (s.demote slot cause).modJob slot fun k => { k with hold := k.held len after } := by
  rw [State.holdRequest, job]
  refine (if_neg (by simp [running]; omega)).trans (congrArg (State.modJob _ slot) (funext fun k => ?_))
  rw [Job.held]
  cases k.hold <;> rfl

theorem State.holdRequest_becomes (job : s.job? slot = some j) (running : j.state = .running) {len : Nat} (length : 1 ≤ len) (after cause : Nat) :
    JobBecomes s (s.holdRequest slot len after cause) slot { j.demotedFor cause with hold := j.held len after } := by
  rw [State.holdRequest_eq job running length, ← j.demotedFor_held cause]
  exact (State.demote_becomes job cause).modJob _

theorem State.holdRequest_of_elastic (job : s.job? slot = some j) (running : j.state = .running) {len : Nat} (length : 1 ≤ len) (after cause : Nat)
    (elastic : j.fixedCadence = false) : s.holdRequest slot len after cause = s.setJob slot { j with hold := j.held len after } := by
  rw [State.holdRequest_eq job running length, State.demote_of_elastic job elastic, State.modJob_eq job]

/-- Does the cause of a hold last: the hub is not READY, or a die of the region is at its holding temperature (R400, R529). -/
def State.staysHeld (s : State) (j : Job) : Bool := !s.config.hubReady || j.region.any fun x => (s.die (x / 2)).thermal == .holding

theorem State.staysHeld_iff {s : State} : s.staysHeld j = true ↔ s.config.hubReady = false ∨ ∃ x ∈ j.region, (s.die (x / 2)).thermal = .holding := by
  simp [State.staysHeld]

theorem State.holdEnd_eq {h : HoldState} (job : s.job? slot = some j) (held : j.hold = some h) : s.holdEnd slot =
    (s.setJob slot { j with hold := if s.staysHeld j then some { len := 64 } else none }).countHeld slot h.len true := by
  rw [State.holdEnd, job]
  simp only [held]
  rfl

end Control

end Sys2Proof.Machine

namespace Sys2Proof.Machine

open Sys2Proof Sys2Proof.Safety

/-- Settles O18, from the equations of the marks and of the two barrier commands. The time a word waited is a free value (log entry 6). -/
theorem marksAndBarriers : Obligations.MarksAndBarriers := by
  unfold Obligations.MarksAndBarriers
  refine ⟨fun s slot j job issues marked => ⟨_, rfl, ?step⟩, fun s slot j job issues marked => ⟨_, rfl, ?phase⟩,
    fun s slot j job => ⟨fun unmarked => congrArg Host.Outcome.next (State.stepMark_of_unmarked job unmarked),
      fun unmarked => congrArg Host.Outcome.next (State.phaseMark_of_unmarked job unmarked)⟩,
    fun s slot kind j job issues word alone => ⟨_, rfl, ?barrier⟩, fun s slot kind j job waits alone => ⟨_, rfl, ?release⟩⟩
  case step =>
    by_cases few : j.stepEnds.length < 2
    · obtain ⟨k, loop, checks, same, ends⟩ := State.stepMark_ends job issues marked few
      rw [same] at ends
      exact ⟨_, ends, fun _ => ⟨rfl, rfl, rfl, rfl, rfl, _, rfl, rfl, rfl, rfl, rfl, rfl⟩, fun full => absurd full (Nat.not_le.2 few)⟩
    · obtain ⟨_, _, _, _, _, _, eq⟩ := j.demotedFor_eq 6
      have elastic := j.demotedFor_elastic 6
      have holds := State.stepMark_holds job issues marked (Nat.le_of_not_lt few)
      rw [eq] at holds elastic
      exact ⟨_, holds, fun h => absurd h few, fun _ => ⟨rfl, rfl, rfl, elastic⟩⟩
  case phase =>
    rw [State.phaseMark_eq job issues marked]
    refine ⟨(State.setJob_kept _ _ (State.mapRegion_kept _ _ (Kept.refl s) (by decide)) (by decide)).frame,
      (JobBecomes.of_jobs (JobBecomes.refl job) (s.mapRegion_jobs _ _)).setJob _, fun k n => ?_⟩
    have core := s.mapRegion_core j.region (f := Core.swapPending) rfl k n
    change if inRegion j.region k = true then _ else _
    rw [State.cluster_setJob, core]
    cases inRegion j.region k with
    | true => exact ⟨rfl, fun a v => Core.mem_swapPending⟩
    | false => rfl
  case barrier =>
    cases holds : s.barrierHolds j kind with
    | true =>
      rw [State.barrierWord_of_holds job issues word alone holds]
      exact ⟨_, (JobBecomes.refl job).setJob _, fun _ => ⟨rfl, (State.setJob_kept _ _ (Kept.refl s) (by decide)).frame⟩, nofun⟩
    | false =>
      refine ⟨_, State.barrierWord_of_waits job issues word alone holds, nofun, fun _ => ?_⟩
      by_cases preempt : kind = .preempt
      · rw [if_pos preempt]
        exact ⟨rfl, rfl, rfl, fun _ other => absurd preempt other, fun _ => rfl⟩
      · rw [if_neg preempt]
        obtain ⟨_, _, _, _, _, _, eq⟩ := j.demotedFor_eq 5
        refine ⟨rfl, by rw [eq], by rw [eq], fun fixed _ => ?_, fun same => absurd same preempt⟩
        rw [Job.demotedFor_of_fixed fixed]
        exact ⟨rfl, rfl, rfl, rfl⟩
  case release =>
    cases holds : s.barrierHolds j kind with
    | true =>
      obtain ⟨h, becomes⟩ := State.barrierRelease_of_holds job waits alone holds
      refine ⟨nofun, fun _ => ⟨h, if kind != .preempt then h else 0, fun preempt => by rw [preempt]; rfl, ?_⟩⟩
      convert becomes using 2
      split <;> rfl
    | false => exact ⟨fun _ => State.barrierRelease_of_waits job waits alone holds, nofun⟩

end Sys2Proof.Machine

namespace Sys2Proof.Machine

open Sys2Proof Sys2Proof.Safety

/-- The end tests of the loops that end on a word: the innermost one with iterations left goes back, the others are done. -/
theorem endTests_spec {last : Nat} {loops done fs : List LoopFrame} (split : loops = done ++ fs) (spent : ∀ f ∈ done, f.last = last ∧ f.left ≤ 1)
    (live : ∀ f ∈ fs.head?, f.last ≠ last ∨ 1 < f.left) :
    (∀ f gs, fs = f :: gs → f.last = last → (endTests last loops).2 = f.first ∧ (endTests last loops).1 = { f with left := f.left - 1 } :: gs) ∧
    ((∀ f ∈ fs.head?, f.last ≠ last) → (endTests last loops).2 = (last + 1) % 4096 ∧ (endTests last loops).1 = fs) := by
  rw [split, endTests_append spent]
  refine ⟨fun f gs eq ends => ?_, fun none => ?_⟩
  · subst eq
    rw [endTests_of_left ends ((live f rfl).resolve_left (not_not.2 ends))]
    exact ⟨rfl, rfl⟩
  · rw [endTests_of_none none]
    exact ⟨rfl, rfl⟩

/-- Settles O20, from the equations of END, of the two loop commands and of the two commands of a hold. -/
theorem controlFlow : Obligations.ControlFlow := by
  unfold Obligations.ControlFlow
  refine ⟨fun s slot j ok job issues word => ⟨_, rfl, ?finish⟩, fun s slot last count j job issues opens => ⟨_, rfl, ?loop⟩,
    fun s slot j job issues more => ⟨_, rfl, ?next⟩, fun s slot len after cause j job running length => ⟨_, rfl, ?hold⟩,
    fun s slot j h job held => ⟨_, rfl, ?release⟩⟩
  case finish =>
    have past : JobBecomes s (s.setJob slot { j.tick with waiting := .finishing }) slot { j.tick with waiting := .finishing } :=
      JobBecomes.setJob (JobBecomes.refl job) _
    rw [State.endWord_eq job issues word]
    refine ⟨fun unready => ?_, fun committed taken clean => ?_⟩
    · rw [State.finish_of_unready (j := { j.tick with waiting := .finishing }) past.1 unready]
      exact ⟨(State.setJob_kept _ _ (Kept.refl s) (by decide)).frame, past⟩
    · exact State.finish_ended (j := { j.tick with waiting := .finishing })
        (jobsOk_setJob ok _ _) slot.isLt past.1 (Job.issuing_running (j := j) issues) rfl committed taken clean
  case loop =>
    rw [State.loopOpen_eq job issues opens]
    refine ⟨(State.setJob_kept _ _ (Kept.refl s) (by decide)).frame, _, (JobBecomes.refl job).setJob _, fun again => ?_, fun fresh some => ?_,
      fun fresh zero alone => ?_⟩
    · have same := Job.openLoop_of_again again (j.loopCount count)
      simp only [same]
    · have opened := Job.openLoop_of_count fresh (count := j.loopCount count) some
      simp only [opened]
      rfl
    · have none : j.loopCount count = 0 := zero
      have skipped := Job.openLoop_of_zero fresh alone
      simp only [none, skipped]
      rfl
  case next =>
    obtain ⟨k, same, becomes⟩ := State.loopEndTest_becomes job issues more
    have loops : k.loops = (endTests j.pc j.loops).1 ∧ k.pc = (endTests j.pc j.loops).2 := by
      rw [same]
      exact ⟨rfl, rfl⟩
    refine ⟨(State.loopEndTest_kept _ (Kept.refl s) (by decide)).frame, k, becomes, ?_, fun closed => ?_, fun done fs split spent live => ?_⟩
    · rw [loops.1, loops.2]
      exact same
    · have word := State.loopEndTest_of_closed job issues more closed
      rw [word] at becomes ⊢
      obtain rfl : k = j.nextWord := Option.some.inj (becomes.1.symm.trans ((State.job?_setJob _ _ _ _).trans (if_pos rfl)))
      exact ⟨rfl, rfl, rfl⟩
    · rw [loops.1, loops.2]
      exact endTests_spec split spent live
  case hold =>
    have becomes := State.holdRequest_becomes job running length after (HoldCause.code cause)
    refine ⟨_, becomes, rfl, j.demotedFor_elastic _, fun fixed => ?_, fun elastic => ?_⟩
    · rw [Job.demotedFor_of_fixed fixed]
      refine ⟨rfl, rfl, rfl, ?_⟩
      cases cause <;> rfl
    · rw [Job.demotedFor_of_elastic elastic, State.holdRequest_of_elastic job running length _ _ elastic]
      exact ⟨rfl, (State.setJob_kept _ _ (Kept.refl s) (by decide)).frame⟩
  case release =>
    have past := (JobBecomes.refl job).setJob { j with hold := if s.staysHeld j then some { len := 64 } else none }
    have counted := State.countHeld_becomes past.1 h.len true
    refine ⟨(State.holdEnd_kept _ (Kept.refl s) (by decide)).frame, ?_, fun d => ?_⟩
    · rw [State.holdEnd_eq job held]
      simp only [← State.staysHeld_iff]
      exact JobBecomes.trans past counted
    · rw [State.holdEnd_eq job held]
      exact State.countHeld_die past.1 h.len true d

end Sys2Proof.Machine

/-! PROOF, the rules that O25 and O50 share: events that the ring still holds after later ones, and one confirmed fault charged (R464). -/

namespace Sys2Proof.Machine

open Sys2Proof Sys2Proof.Safety

/-- An event with this code stands in the ring, and at most `n` younger ones. -/
def LoggedLately (s : State) (code : BitVec 16) (n : Nat) : Prop :=
  ∃ older e later, s.journal.events = older ++ e :: later ∧ e.code = code ∧ later.length ≤ n

section Events

variable {s t : State} {code : BitVec 16} {n m : Nat}

theorem LoggedLately.logged (lately : LoggedLately s code n) : Logged s code := by
  obtain ⟨older, e, later, events, same, _⟩ := lately
  exact ⟨e, by simp [events], same⟩

theorem LoggedLately.mono (lately : LoggedLately s code n) (le : n ≤ m) : LoggedLately s code m := by
  obtain ⟨older, e, later, events, same, few⟩ := lately
  exact ⟨older, e, later, events, same, few.trans le⟩

theorem LoggedLately.of_events (lately : LoggedLately s code n) (same : t.journal.events = s.journal.events) : LoggedLately t code n := by
  rwa [LoggedLately, same]

theorem LoggedLately.of_log (s : State) (x : EventSpec) : LoggedLately (s.log x) (BitVec.ofNat 16 x.code) 0 :=
  ⟨_, _, [], rfl, rfl, Nat.le_refl 0⟩

/-- A full ring drops its oldest event only: one with few younger ones stays. -/
theorem LoggedLately.log (lately : LoggedLately s code n) (few : n < 65535) (x : EventSpec) : LoggedLately (s.log x) code (n + 1) := by
  obtain ⟨older, e, later, events, same, young⟩ := lately
  have ring : ∃ r, (s.log x).journal.events = (if 65536 ≤ s.journal.events.length then s.journal.events.tail else s.journal.events) ++ [r] :=
    ⟨_, by simp only [State.log, State.logOn, decide_eq_true_eq]; rfl⟩
  obtain ⟨r, ring⟩ := ring
  rw [events] at ring
  cases older with
  | nil =>
    refine ⟨[], e, later ++ [r], ?_, same, by simpa using young⟩
    rw [ring, if_neg (by simp only [List.nil_append, List.length_cons]; omega)]
    simp
  | cons o older =>
    refine ⟨if 65536 ≤ (o :: older ++ e :: later).length then older else o :: older, e, later ++ [r], ?_, same, by simpa using young⟩
    rw [ring]
    split <;> simp

end Events

section Units

theorem State.half_modHalf (s : State) (h i : Nat) (f : Half → Half) : (s.modHalf h f).half i = if i = h then f (s.half h) else s.half i := mget_mmod _ _ _ _ _

theorem State.die_modDie (s : State) (d i : Nat) (f : Die → Die) : (s.modDie d f).die i = if i = d then f (s.die d) else s.die i := mget_mmod _ _ _ _ _

theorem State.stack_modStack (s : State) (k i : Nat) (f : Stack → Stack) : (s.modStack k f).stack i = if i = k then f (s.stack k) else s.stack i :=
  mget_mmod _ _ _ _ _

end Units

section Charges

variable {s t u : State} {x : UnitRef} {p : PhysCore}

/-- Whether a unit was charged is told by its count and by the list of retired units. -/
theorem Charged.congr (charged : Charged s t x) (retired : u.journal.retired = s.journal.retired) (faults : u.journal.faults = s.journal.faults)
    {v : State} (retired' : v.journal.retired = t.journal.retired) (faults' : v.journal.faults = t.journal.faults) : Charged u v x := by
  rwa [Charged, retired, faults, retired', faults']

theorem State.charge_of_retired (gone : x ∈ s.journal.retired) : s.charge x = s := if_pos (List.contains_iff_mem.2 gone)

theorem State.markRetired_journal (s : State) (x : UnitRef) : (s.markRetired x).journal = s.journal := by cases x <;> rfl

/-- The journal with the count of a unit's confirmed faults changed. -/
def Journal.countFaults (j : Journal) (x : UnitRef) (n : Nat) : Journal := { j with faults := mset 0 j.faults x.code n }

/-- What a charge does to a unit in service: it counts, or it retires the unit, clears its count and logs. -/
theorem State.charge_cases (serves : x ∉ s.journal.retired) :
    (mget 0 s.journal.faults x.code < 2 ∧ ∃ o, s.charge x =
      { s with journal := s.journal.countFaults x (mget 0 s.journal.faults x.code + 1), integrity := { s.integrity with observed := o } }) ∨
    (2 ≤ mget 0 s.journal.faults x.code ∧ ∃ o e, s.charge x =
      (State.markRetired { s with journal := { s.journal.countFaults x 0 with retired := s.journal.retired ++ [x] },
                                  integrity := { s.integrity with observed := o } } x).log e) := by
  have run : s.charge x = _ := if_neg (mt List.contains_iff_mem.1 serves)
  rw [run]
  dsimp only
  by_cases few : mget 0 s.journal.faults x.code < 2
  · have low : ¬3 ≤ mget 0 s.journal.faults x.code + 1 := by omega
    simp only [ge_iff_le, low, if_false]
    exact .inl ⟨few, _, rfl⟩
  · have third : 3 ≤ mget 0 s.journal.faults x.code + 1 := by omega
    simp only [ge_iff_le, third, if_true]
    exact .inr ⟨by omega, _, _, rfl⟩

theorem State.charge_charged (s : State) (x : UnitRef) : Charged s (s.charge x) x := by
  rw [Charged]
  by_cases gone : x ∈ s.journal.retired
  · rw [if_pos gone, State.charge_of_retired gone]
    exact ⟨rfl, rfl⟩
  · rw [if_neg gone]
    obtain ⟨few, _, run⟩ | ⟨third, _, _, run⟩ := State.charge_cases gone
    · rw [if_pos few, run]
      exact ⟨mget_mset_self 0 s.journal.faults x.code (mget 0 s.journal.faults x.code + 1), rfl⟩
    · rw [if_neg (by omega), run]
      simp [State.log, State.logOn, State.markRetired_journal, Journal.countFaults]

theorem State.observe_eq (s : State) (x : UnitRef) : s.observe x = s ∨ ∃ i e, s.observe x = State.log { s with integrity := i } e := by
  rw [State.observe]
  split
  · exact .inl rfl
  · exact .inr ⟨_, _, rfl⟩

theorem State.startCopy_journal (s : State) (k n : Nat) (why : CopyWhy) : (s.startCopy k n why).journal = s.journal := by
  rw [State.startCopy]
  split <;> rfl

/-- What the retirement of a core can do: nothing, a job's or a cluster's mark, or the core is under observation. -/
theorem State.retireCore_cases (s : State) (p : PhysCore) :
    (s.retireCore p).journal = s.journal ∨ s.retireCore p = s.observe (.core p) := by
  rw [State.retireCore]
  split
  · exact .inl rfl
  · dsimp only
    split
    · exact .inl (State.startCopy_journal ..)
    · split
      · exact .inl rfl
      · exact .inr rfl

theorem State.retireCore_lately {code : BitVec 16} {n : Nat} (lately : LoggedLately s code n) (few : n < 65535) : LoggedLately (s.retireCore p) code (n + 1) := by
  obtain same | observes := s.retireCore_cases p
  · exact (lately.of_events (by rw [same])).mono (Nat.le_succ n)
  · rw [observes]
    obtain same | ⟨i, e, logs⟩ := s.observe_eq (.core p)
    · rw [same]
      exact lately.mono (Nat.le_succ n)
    · rw [logs]
      exact LoggedLately.log (lately.of_events rfl) few e

theorem State.charge_lately {code : BitVec 16} {n : Nat} (lately : LoggedLately s code n) (few : n < 65535) : LoggedLately (s.charge x) code (n + 1) := by
  by_cases gone : x ∈ s.journal.retired
  · rw [State.charge_of_retired gone]
    exact lately.mono (Nat.le_succ n)
  · obtain ⟨_, _, run⟩ | ⟨_, _, _, run⟩ := State.charge_cases gone
    · rw [run]
      exact (lately.of_events rfl).mono (Nat.le_succ n)
    · rw [run]
      refine LoggedLately.log (lately.of_events ?_) few _
      rw [State.markRetired_journal]
      rfl

theorem State.retireCore_health (s : State) (p : PhysCore) :
    (s.retireCore p).journal.retired = s.journal.retired ∧ (s.retireCore p).journal.faults = s.journal.faults ∧
    (s.retireCore p).journal.bistFailures = s.journal.bistFailures := by
  obtain same | observes := s.retireCore_cases p
  · rw [same]
    exact ⟨rfl, rfl, rfl⟩
  · rw [observes]
    obtain same | ⟨i, e, logs⟩ := s.observe_eq (.core p)
    · rw [same]
      exact ⟨rfl, rfl, rfl⟩
    · rw [logs]
      exact ⟨rfl, rfl, rfl⟩

/-- The charge of a core: its count first, and where that has retired it, what the retirement brings. -/
theorem State.chargeUnit_core (s : State) (p : PhysCore) :
    s.chargeUnit (.core p) = s.charge (.core p) ∨
    .core p ∈ (s.charge (.core p)).journal.retired ∧ s.chargeUnit (.core p) = (s.charge (.core p)).retireCore p := by
  rw [State.chargeUnit]
  by_cases retires : (!s.journal.retired.contains (.core p) && (s.charge (.core p)).journal.retired.contains (.core p)) = true
  · exact .inr ⟨List.contains_iff_mem.1 (Bool.and_eq_true_iff.1 retires).2, if_pos retires⟩
  · exact .inl (if_neg retires)

theorem State.chargeUnit_charged (s : State) (p : PhysCore) : Charged s (s.chargeUnit (.core p)) (.core p) := by
  have charged := s.charge_charged (.core p)
  obtain same | ⟨_, retires⟩ := s.chargeUnit_core p
  · rwa [same]
  · obtain ⟨retired, faults, _⟩ := (s.charge (.core p)).retireCore_health p
    rw [retires]
    exact Charged.congr charged rfl rfl retired faults

theorem State.chargeUnit_lately {code : BitVec 16} {n : Nat} (lately : LoggedLately s code n) (few : n < 65534) :
    LoggedLately (s.chargeUnit (.core p)) code (n + 2) := by
  have charged : LoggedLately (s.charge (.core p)) code (n + 1) := State.charge_lately lately (by omega)
  obtain same | ⟨_, retires⟩ := s.chargeUnit_core p
  · rw [same]
    exact charged.mono (by omega)
  · rw [retires]
    exact State.retireCore_lately charged (by omega)

/-- The charge of a core, before its retirement brings anything, leaves the dies and the counts of the tests. -/
theorem State.charge_core_same (s : State) (p : PhysCore) :
    (s.charge (.core p)).dies = s.dies ∧ (s.charge (.core p)).integrity.kakFailed = s.integrity.kakFailed ∧
    (s.charge (.core p)).journal.bistFailures = s.journal.bistFailures := by
  by_cases gone : .core p ∈ s.journal.retired
  · rw [State.charge_of_retired gone]
    exact ⟨rfl, rfl, rfl⟩
  · obtain ⟨_, _, run⟩ | ⟨_, _, _, run⟩ := State.charge_cases gone <;> rw [run] <;> exact ⟨rfl, rfl, rfl⟩

theorem State.observe_core_kakFailed (s : State) (p : PhysCore) : (s.observe (.core p)).integrity.kakFailed = s.integrity.kakFailed := by
  rw [State.observe]
  split <;> rfl

theorem State.retireCore_kakFailed (s : State) (p : PhysCore) : (s.retireCore p).integrity.kakFailed = s.integrity.kakFailed := by
  rw [State.retireCore]
  split
  · rfl
  · dsimp only
    split
    · exact congrArg Integrity.kakFailed ((State.startCopy_kept (A := [.clusters]) _ _ _ (Kept.refl s) (by decide)).frame.same .integrity (by decide))
    · split
      · rfl
      · exact s.observe_core_kakFailed p

/-- The charge of a core changes no die and no count of the tests. -/
theorem State.chargeUnit_core_same (s : State) (p : PhysCore) :
    (s.chargeUnit (.core p)).dies = s.dies ∧ (s.chargeUnit (.core p)).integrity.kakFailed = s.integrity.kakFailed ∧
    (s.chargeUnit (.core p)).journal.bistFailures = s.journal.bistFailures := by
  obtain ⟨dies, kak, tests⟩ := s.charge_core_same p
  obtain same | ⟨_, retires⟩ := s.chargeUnit_core p
  · rw [same]
    exact ⟨dies, kak, tests⟩
  · have kept : Kept [.clusters, .jobs, .transport, .events, .headers, .integrity] _ ((s.charge (.core p)).retireCore p) :=
      State.retireCore_kept p (Kept.refl _) (by decide)
    rw [retires, ← dies, ← kak, ← tests]
    exact ⟨kept.frame.same .dies (by decide), State.retireCore_kakFailed _ p, (State.retireCore_health _ p).2.2⟩

/-- A charge retires the core, or leaves its cluster as it is. -/
theorem State.chargeUnit_core_out (s : State) (p : PhysCore) :
    .core p ∈ (s.chargeUnit (.core p)).journal.retired ∨ (s.chargeUnit (.core p)).clusters = s.clusters := by
  obtain same | ⟨out, retires⟩ := s.chargeUnit_core p
  · rw [same]
    by_cases gone : .core p ∈ s.journal.retired
    · exact .inl (by rwa [State.charge_of_retired gone])
    · obtain ⟨_, _, run⟩ | ⟨_, _, _, run⟩ := State.charge_cases gone <;> rw [run]
      · exact .inr rfl
      · exact .inl (List.mem_append_right _ List.mem_cons_self)
  · rw [retires, (State.retireCore_health _ p).1]
    exact .inl out

end Charges

end Sys2Proof.Machine

/-! PROOF of O25: maps that are built and positions that move, and the known-answer kernels. -/

namespace Sys2Proof.Machine

open Sys2Proof Sys2Proof.Safety

section Maps

variable {s : State} {good : List Nat} {n p m : Nat}

/-- The good cores that no position takes as its own. -/
def spareCores (good : List Nat) (n : Nat) : List Nat := good.filter fun m => !((List.range n).filter good.contains).contains m

/-- The positions whose own core is not good. -/
def orphans (good : List Nat) (n : Nat) : List Nat := (List.range n).filter fun p => !good.contains p

theorem mapOf_getElem? (place : p < 64) : (mapOf good n)[p]? =
    some (if n ≤ p then none else if good.contains p then some p else (spareCores good n)[(orphans good n).findIdx (· == p)]?) := by
  rw [mapOf, List.getElem?_map, List.getElem?_range place]
  rfl

/-- Each valid position of a built map has a good core, its own where that is good. -/
theorem mapOf_good (place : p < 64) (serves : (mapOf good n)[p]? = some (some m)) : p < n ∧ m ∈ good ∧ (p ∈ good → m = p) := by
  rw [mapOf_getElem? place, Option.some_inj] at serves
  split at serves
  · cases serves
  · refine ⟨by omega, ?_⟩
    split at serves
    next own =>
      obtain rfl := Option.some.inj serves
      exact ⟨List.contains_iff_mem.1 own, fun _ => rfl⟩
    next orphan =>
      exact ⟨List.mem_of_mem_filter (List.mem_of_getElem? serves), fun own => absurd (List.contains_iff_mem.2 own) orphan⟩

/-- The good cores that are no position's own suffice for the positions without one. -/
theorem orphans_le_spareCores (once : good.Nodup) (enough : n ≤ good.length) : (orphans good n).length ≤ (spareCores good n).length := by
  let own := (List.range n).filter good.contains
  have positions : own.length + (orphans good n).length = n :=
    (List.length_eq_length_filter_add _).symm.trans List.length_range
  have cores : (good.filter own.contains).length + (spareCores good n).length = good.length := (List.length_eq_length_filter_add _).symm
  have taken : (good.filter own.contains).length ≤ own.length :=
    ((once.filter _).subperm fun m mem => List.contains_iff_mem.1 (List.mem_filter.1 mem).2).length_le
  omega

/-- With enough good cores a built map serves every position asked for. -/
theorem mapOf_total (once : good.Nodup) (enough : n ≤ good.length) (places : n ≤ 64) (position : p < n) : ∃ m, (mapOf good n)[p]? = some (some m) := by
  rw [mapOf_getElem? (by omega), if_neg (by omega)]
  split
  · exact ⟨p, rfl⟩
  next orphan =>
    have mem : p ∈ orphans good n := List.mem_filter.2 ⟨List.mem_range.2 position, by simpa using orphan⟩
    have index : (orphans good n).findIdx (· == p) < (orphans good n).length := List.findIdx_lt_length_of_exists ⟨p, mem, by simp⟩
    exact ⟨_, congrArg some (List.getElem?_eq_getElem (index.trans_le (orphans_le_spareCores once enough)))⟩

theorem State.mapPositions_le (s : State) (good : List Nat) : s.mapPositions good ≤ good.length ∧ s.mapPositions good ≤ 64 := by
  rw [State.mapPositions]
  split
  · omega
  · split <;> omega

/-- A cluster with the map of its good cores. -/
def Cluster.mapped (c : Cluster) (good : List Nat) (n : Nat) : Cluster :=
  { c with coreMap := mapOf good n, mapBuilt := true, copy := none, o0 := spareOf good (mapOf good n) 64, o1 := spareOf good (mapOf good n) 65,
           degraded := n < 64 }

theorem State.buildMap_cluster (s : State) (k : Nat) :
    (s.buildMap k).cluster k = (s.cluster k).mapped (s.goodCores k) (s.mapPositions (s.goodCores k)) :=
  (s.cluster_modCluster k k _).trans (if_pos rfl)

/-- The degraded cluster: its map, the half that fails with no position and the event of a cluster with 60. -/
theorem State.clusterDegrade_same {cl : ClusterRef} (free : s.halfJob? cl.half = none) :
    (s.clusterDegrade cl).clusters = (s.buildMap cl.key).clusters ∧
    (s.mapPositions (s.goodCores cl.key) = 0 → ((s.clusterDegrade cl).half cl.half).failed = true) ∧
    (s.mapPositions (s.goodCores cl.key) ≠ 0 → (s.clusterDegrade cl).halves = s.halves) ∧
    (s.mapPositions (s.goodCores cl.key) = 60 → Logged (s.clusterDegrade cl) 0x0519) := by
  have run : s.clusterDegrade cl = _ := if_neg (by simp [free])
  rw [run]
  dsimp only
  split
  next dead => exact ⟨rfl, fun _ => by rw [State.half_modHalf, if_pos rfl], fun some => absurd dead some, fun some => by omega⟩
  next some =>
    split
    next => exact ⟨rfl, fun dead => absurd dead some, fun _ => rfl, fun _ => (LoggedLately.of_log _ _).logged⟩
    next other => exact ⟨rfl, fun dead => absurd dead some, fun _ => rfl, fun sixty => absurd sixty other⟩

end Maps

section Switch

variable {s : State} {c : Cluster} {q : CoreCopy} {n : Nat} {v : SpareState}

theorem Cluster.setSpare_same (c : Cluster) (n : Nat) (v : SpareState) :
    (c.setSpare n v).coreMap = c.coreMap ∧ (c.setSpare n v).cores = c.cores ∧ (c.setSpare n v).copy = c.copy ∧ (c.setSpare n v).swapCount = c.swapCount := by
  rw [Cluster.setSpare]
  split
  · exact ⟨rfl, rfl, rfl, rfl⟩
  · split <;> exact ⟨rfl, rfl, rfl, rfl⟩

theorem Cluster.setSpare_o0 (c : Cluster) (n : Nat) (v : SpareState) : (c.setSpare n v).o0 = if n = 64 then v else c.o0 := by
  rw [Cluster.setSpare]
  split
  · rfl
  · split <;> rfl

theorem Cluster.setSpare_o1 (c : Cluster) (n : Nat) (v : SpareState) : (c.setSpare n v).o1 = if n = 65 then v else c.o1 := by
  rw [Cluster.setSpare]
  split
  next first => rw [if_neg (by omega)]
  next => split <;> rfl

theorem Cluster.switch_same (c : Cluster) (q : CoreCopy) :
    (c.switch q).coreMap = c.coreMap.set q.pos (some q.dest) ∧
    (c.switch q).cores = merase (mset {} c.cores q.dest (mget {} c.cores q.source)) q.source ∧
    (c.switch q).copy = none ∧ (c.switch q).swapCount = satAdd 32 c.swapCount 1 := by
  simp [Cluster.switch, Cluster.setSpare_same]

theorem Cluster.switch_core (c : Cluster) (q : CoreCopy) (n : Nat) : mget {} (c.switch q).cores n =
    if n = q.source then {} else if n = q.dest then mget {} c.cores q.source else mget {} c.cores n := by
  rw [(c.switch_same q).2.1, mget_merase, mget_mset]

theorem Cluster.switch_spares (c : Cluster) (moves : q.source ≠ q.dest) :
    (q.dest = 64 → (c.switch q).o0 = .holding) ∧ (q.dest = 65 → (c.switch q).o1 = .holding) := by
  constructor <;> intro dest <;>
    simp [Cluster.switch, Cluster.setSpare_o0, Cluster.setSpare_o1, dest, show q.source ≠ _ from dest ▸ moves]

/-- A copy under way leaves a core for another one. -/
theorem MapsOk.copy_moves (ok : MapsOk s) {k : Nat} (copies : (s.cluster k).copy = some q) : q.source ≠ q.dest := by
  obtain ⟨unserved, serves⟩ := (Kept.mapOk_cluster ok k).copy q copies
  exact fun same => unserved q.pos (same ▸ serves)

theorem State.copyDone_eq {cl : ClusterRef} (copies : (s.cluster cl.key).copy = some q) (concerns : q.dest = n ∨ q.source = n) :
    s.copyDone cl n = s.modCluster cl.key fun c =>
      if (s.halfJob? cl.half).isSome then { c with copy := some { q with done := true } } else c.switch q := by
  rw [State.copyDone, copies]
  refine (if_neg (by tauto)).trans ?_
  split <;> rfl

end Switch

section Kernels

variable {s : State}

theorem State.observationEnd_eq {u : UnitRef} {o : UnitRef × Bool} (observed : (s.integrity.observed.find? fun x => x.1 == u) = some o) :
    (s.observationEnd u).integrity.observed = (s.integrity.observed.filter fun x => x.1 != u) ∧
    ∀ c, mget 0 (s.observationEnd u).journal.faults c = if c = u.code ∧ o.2 = false then 0 else mget 0 s.journal.faults c := by
  rw [State.observationEnd, observed]
  dsimp only
  split
  next found => exact ⟨rfl, fun c => by simp [found, State.onIntegrity]⟩
  next clean => exact ⟨rfl, fun c => by simpa [clean, State.onIntegrity, State.onJournal] using mget_mset ..⟩

/-- The rotation moves on to the next of the die's 4,224 cores. -/
theorem Die.rotate_next {d : Die} (place : d.nextKakCore < 4224) : d.rotate.nextKakCore = (d.nextKakCore + 1) % 4224 := by
  rw [Die.rotate]
  split
  · exact (Nat.mod_eq_of_lt (by omega)).symm
  · rw [show d.nextKakCore + 1 = 4224 by omega]

theorem dieCore_lt (p : PhysCore) : dieCore p < 4224 := by
  have := p.cl.num.isLt
  have := p.num.isLt
  rw [dieCore]
  omega

/-- The state in which a kernel's digest is compared: the rotation has moved on where the kernel was its next. -/
def State.kakRotated (s : State) (p : PhysCore) (kernel : Nat) : State :=
  if (s.die p.cl.die.val).nextKakCore = dieCore p ∧ (s.die p.cl.die.val).kakKernel = kernel then s.modDie p.cl.die.val Die.rotate else s

theorem State.kakRotated_kept (s : State) (p : PhysCore) (kernel : Nat) : Kept [.dies] s (s.kakRotated p kernel) := by
  rw [State.kakRotated]
  split
  · exact State.modDie_kept _ _ (Kept.refl s) (by decide)
  · exact Kept.refl s

theorem State.kakRotated_same (s : State) (p : PhysCore) (kernel : Nat) :
    (s.kakRotated p kernel).journal = s.journal ∧ (s.kakRotated p kernel).integrity = s.integrity := by
  rw [State.kakRotated]
  split <;> exact ⟨rfl, rfl⟩

theorem State.kakRotated_next {p : PhysCore} {kernel : Nat} (core : (s.die p.cl.die.val).nextKakCore = dieCore p)
    (runs : (s.die p.cl.die.val).kakKernel = kernel) : ((s.kakRotated p kernel).die p.cl.die.val).nextKakCore = (dieCore p + 1) % 4224 := by
  rw [State.kakRotated, if_pos ⟨core, runs⟩, ← core]
  rw [State.die_modDie, if_pos rfl]
  exact Die.rotate_next (core ▸ dieCore_lt p)

/-- The failure of a known-answer kernel, before its core is charged. -/
def State.kakFail (s : State) (p : PhysCore) (kernel : Nat) : State :=
  (s.onIntegrity fun i => { i with kakFailed := satAdd 32 i.kakFailed 1 }).log
    { code := 0x0516, severity := 2, kind := (UnitRef.core p).event.1, unit := (UnitRef.core p).event.2, operation := 0xFF85,
      detail := BitVec.ofNat 64 kernel }

theorem State.kakFail_health (s : State) (p : PhysCore) (kernel : Nat) :
    (s.kakFail p kernel).journal.retired = s.journal.retired ∧ (s.kakFail p kernel).journal.faults = s.journal.faults := ⟨rfl, rfl⟩

theorem State.kakFail_charged (s : State) (p : PhysCore) (kernel : Nat) :
    Charged s (((s.kakRotated p kernel).kakFail p kernel).chargeUnit (.core p)) (.core p) := by
  obtain ⟨retired, faults⟩ := (s.kakRotated p kernel).kakFail_health p kernel
  rw [(s.kakRotated_same p kernel).1] at retired faults
  exact Charged.congr (State.chargeUnit_charged _ p) retired.symm faults.symm rfl rfl

theorem State.kakComplete_eq {p : PhysCore} (awake : (s.half p.cl.half).clocked = true) (kernel : Nat) (digest : DWord) :
    s.kakComplete p kernel digest = if digest = Config.kakDigest kernel then s.kakRotated p kernel
      else ((s.kakRotated p kernel).kakFail p kernel).chargeUnit (.core p) := if_neg (by simp [awake])

end Kernels

/-- Settles O25, from the switch of a position (R206), the map of the good cores (R205) and the charge of a core (R464). -/
theorem coreMapsAndUnits : Obligations.CoreMapsAndUnits := by
  unfold Obligations.CoreMapsAndUnits
  refine ⟨fun s cl spare q ok copies concerns => ⟨_, rfl, ?copy⟩, fun s cl free => ⟨_, rfl, ?degraded⟩, fun s cl e holds => ?held,
    fun s u o observed => ⟨_, rfl, ?observation⟩, fun s p kernel digest awake => ⟨_, rfl, ?kernel⟩, fun s die => ⟨_, rfl, ?timeout⟩⟩
  case copy =>
    have run := State.copyDone_eq copies concerns
    have moves := MapsOk.copy_moves ok copies
    refine ⟨(State.copyDone_kept (A := [.clusters]) _ _ (Kept.refl s) (by decide)).frame, fun k other => ?_, fun busy => ?_, fun free => ?_⟩
    · rw [run, State.cluster_modCluster, if_neg other]
    · rw [run, State.cluster_modCluster, if_pos rfl, if_pos busy]
    · have switched : (s.copyDone cl (if spare then 65 else 64)).cluster cl.key = (s.cluster cl.key).switch q := by
        rw [run, State.cluster_modCluster, if_pos rfl, free]
        rfl
      obtain ⟨map, -, copy, count⟩ := (s.cluster cl.key).switch_same q
      obtain ⟨first, second⟩ := (s.cluster cl.key).switch_spares moves
      simp only [clusterCore, switched]
      refine ⟨map, ?_, copy, fun n dest source => ?_, first, second, count⟩
      · rw [Cluster.switch_core, if_neg moves.symm, if_pos rfl]
      · rw [Cluster.switch_core, if_neg source, if_neg dest]
  case degraded =>
    obtain ⟨clusters, dead, halves, logs⟩ := State.clusterDegrade_same free
    obtain ⟨enough, places⟩ := s.mapPositions_le (s.goodCores cl.key)
    have cluster : (s.clusterDegrade cl).cluster cl.key = (s.buildMap cl.key).cluster cl.key := by rw [State.cluster, clusters, State.cluster]
    rw [cluster, s.buildMap_cluster]
    exact ⟨rfl, rfl, rfl, fun p place m serves => mapOf_good place serves,
      fun p position => mapOf_total (s.goodCores_nodup cl.key) enough places position, dead,
      fun some => by rw [State.half, halves some, State.half], logs⟩
  case held => exact congrArg Host.Outcome.next (if_pos (by rw [holds]; rfl))
  case observation =>
    obtain ⟨list, faults⟩ := State.observationEnd_eq observed
    refine ⟨(State.observationEnd_kept (A := [.health, .integrity]) _ (Kept.refl s) (by decide)).frame, list, ?_, fun c other => ?_⟩
    · rw [faults]
      cases o.2 <;> simp
    · rw [faults, if_neg fun h => other h.1]
  case kernel =>
    have rotated := s.kakRotated_kept p kernel.val
    rw [State.kakComplete_eq awake]
    refine ⟨fun answers => ?_, fun fails => ?_, fun core runs => ?_⟩
    · rw [if_pos answers]
      exact rotated.frame
    · rw [if_neg fails]
      obtain ⟨journal, integrity⟩ := s.kakRotated_same p kernel.val
      refine ⟨?_, (State.chargeUnit_lately (LoggedLately.of_log _ _) (by decide)).logged, ?_⟩
      · rw [← integrity]
        exact (State.chargeUnit_core_same _ p).2.1
      · exact s.kakFail_charged p kernel.val
    · have next := State.kakRotated_next core runs
      split
      · exact next
      · rwa [State.die, (State.chargeUnit_core_same _ p).1]
  case timeout =>
    refine ⟨(State.modDie_kept (A := [.dies]) _ _ (Kept.refl s) (by decide)).frame, fun d => (s.die_modDie die.val d _).trans ?_⟩
    split
    next same => rw [same]
    next => rfl

end Sys2Proof.Machine

/-! PROOF, the restart of the jobs of a die (R400, R401), for O50. -/

namespace Sys2Proof.Machine

open Sys2Proof Sys2Proof.Safety

section Restarts

variable {s t : State} {slot e d : Nat} {j k : Job} {slots : List Nat}

/-- What a job becomes whose fabric state is lost (R401). -/
def Job.RestartsAs (j k : Job) : Prop :=
  k.id = j.id ∧ k.seed = j.seed ∧ k.body = j.body ∧ k.region = [] ∧ k.restarted = true ∧
  (j.state = .restoring → k.state = .preempted ∧ k.context = j.context ∧ k.step = j.step ∧ k.allocs = j.allocs) ∧
  (j.state ≠ .restoring → k.state = .waiting ∧ k.step = 0 ∧ k.pc = 0 ∧ k.allocs = [])

theorem Job.RestartsAs.idle (restarts : j.RestartsAs k) : k.state.resident = false := by
  obtain ⟨_, _, _, _, _, restoring, other⟩ := restarts
  by_cases stands : j.state = .restoring
  · rw [(restoring stands).1]
    rfl
  · rw [(other stands).1]
    rfl

theorem State.freeJobMemory_jobs (s : State) (j : Job) (region : List Nat) : (((s.freeJobMemory j).clearRegion region).dropOutward j.id).jobs = s.jobs :=
  (State.freeJobMemory_kept (A := [.tielux]) j (Kept.refl s) (by decide)).jobs

/-- A resident job's restart writes its entry only, as far as the table is concerned. -/
theorem State.restartJob_of_resident (job : s.job? slot = some j) (resident : j.state.resident = true) :
    ∃ (t : State) (k : Job), s.restartJob slot = (t.setJob slot k).jobState k ∧ t.jobs = s.jobs ∧ j.RestartsAs k := by
  rw [State.restartJob, job]
  cases stands : j.state <;> rw [stands] at resident <;> simp only [stands]
  case restoring => exact ⟨_, _, rfl, rfl, rfl, rfl, rfl, rfl, rfl, fun _ => ⟨rfl, rfl, rfl, rfl⟩, fun other => absurd stands other⟩
  case admitting | running | preempting =>
    exact ⟨_, _, rfl, s.freeJobMemory_jobs j j.region, rfl, rfl, rfl, rfl, rfl, fun waits => absurd (stands.symm.trans waits) nofun,
      fun _ => ⟨rfl, rfl, rfl, rfl⟩⟩
  case waiting | preempted | obligation | ended => cases resident

theorem State.restartJob_of_idle (job : s.job? slot = some j) (idle : j.state.resident = false) : s.restartJob slot = s := by
  rw [State.restartJob, job]
  cases stands : j.state <;> rw [stands] at idle <;> simp only [stands]
  all_goals cases idle

theorem State.restartJob_restarts (job : s.job? slot = some j) (resident : j.state.resident = true) :
    ∃ k, (s.restartJob slot).job? slot = some k ∧ j.RestartsAs k := by
  obtain ⟨t, k, run, -, restarts⟩ := State.restartJob_of_resident job resident
  rw [run, State.job?_of_jobs (State.jobState_jobs _ _), State.job?_setJob, if_pos rfl]
  exact ⟨k, rfl, restarts⟩

theorem State.restartJob_other (other : e ≠ slot) : (s.restartJob slot).job? e = s.job? e := by
  cases job : s.job? slot with
  | none => rw [State.restartJob, job]
  | some j =>
    cases resident : j.state.resident with
    | false => rw [State.restartJob_of_idle job resident]
    | true =>
      obtain ⟨t, k, run, same, -⟩ := State.restartJob_of_resident job resident
      rw [run, State.job?_of_jobs (State.jobState_jobs _ _), State.job?_setJob, if_neg other, State.job?_of_jobs same]

/-- A job without fabric state is left alone by every restart. -/
theorem State.restartJobs_of_idle (job : s.job? e = some k) (idle : k.state.resident = false) : (s.restartJobs slots).job? e = some k := by
  induction slots generalizing s with
  | nil => exact job
  | cons a slots ih =>
    refine ih (s := s.restartJob a) ?_
    by_cases same : e = a
    · rwa [← same, State.restartJob_of_idle job idle]
    · rwa [State.restartJob_other same]

theorem State.restartJobs_restarts (job : s.job? e = some j) (resident : j.state.resident = true) (listed : e ∈ slots) :
    ∃ k, (s.restartJobs slots).job? e = some k ∧ j.RestartsAs k := by
  induction slots generalizing s with
  | nil => cases listed
  | cons a slots ih =>
    by_cases same : e = a
    · obtain ⟨k, restarted, restarts⟩ := State.restartJob_restarts job resident
      exact ⟨k, State.restartJobs_of_idle (s := s.restartJob a) (same ▸ restarted) restarts.idle, restarts⟩
    · exact ih (s := s.restartJob a) (by rwa [State.restartJob_other same]) ((List.mem_cons.1 listed).resolve_left same)

theorem State.mem_residentSlots {p : Job → Bool} (job : s.job? e = some j) (resident : j.state.resident = true) (holds : p j = true) :
    e ∈ s.residentSlots p :=
  List.mem_map.2 ⟨(e, j), List.mem_filter.2 ⟨State.mem_jobList job, by simp [resident, holds]⟩, rfl⟩

theorem State.resetDie_jobs (s : State) (d : Nat) : (s.resetDie d).jobs = (s.restartJobs (s.residentSlots fun j => j.hasDie d)).jobs :=
  Kept.jobs (A := [.clusters, .halves, .dies, .tielux, .starts])
    (State.countReset_kept _ (State.restStacks_kept _ (State.restartDie_kept _ (Kept.refl _) (by decide)) (by decide)) (by decide))

/-- A die reset restarts each job with a half on the die (R400). -/
theorem State.resetDie_restarts (job : s.job? e = some j) (resident : j.state.resident = true) (there : j.hasDie d = true)
    (same : t.jobs = (s.resetDie d).jobs) : JobRestarted t e j := by
  obtain ⟨k, restarted, restarts⟩ := State.restartJobs_restarts job resident (State.mem_residentSlots (p := fun j => j.hasDie d) job resident there)
  exact ⟨k, (State.job?_of_jobs (same.trans (s.resetDie_jobs d)) e).trans restarted, restarts⟩

end Restarts

end Sys2Proof.Machine

/-! PROOF of O50: the slices of the background self-test, the sensors and the PLLs. -/

namespace Sys2Proof.Machine

open Sys2Proof Sys2Proof.Safety

section Failures

variable {s : State} {code : BitVec 16} {n : Nat}

theorem State.bistFail_lately (s : State) (u : Nat × Word) (item : Nat) : LoggedLately (s.bistFail u item) 0x0829 0 :=
  (LoggedLately.of_log s _).of_events rfl

theorem State.bistFail_after (lately : LoggedLately s code n) (few : n < 65535) (u : Nat × Word) (item : Nat) :
    LoggedLately (s.bistFail u item) code (n + 1) := (lately.log few _).of_events rfl

theorem State.sensorFail_lately (s : State) (u : Nat × Word) (detail : Nat) : LoggedLately (s.sensorFail u detail) 0x082A 0 :=
  (LoggedLately.of_log s _).of_events rfl

/-- What a failed test's record leaves of the units. -/
theorem State.bistFail_units (s : State) (u : Nat × Word) (item k : Nat) : (s.bistFail u item).stack k = s.stack k ∧
    (s.bistFail u item).port = s.port ∧ (s.bistFail u item).optics = s.optics ∧ (s.bistFail u item).clocks = s.clocks := by
  simp only [State.bistFail, State.log, State.logOn, State.onJournal, State.onBist, State.stack, and_self]

theorem State.countSlice_units (s : State) (k : Nat) : s.countSlice.stack k = s.stack k ∧ s.countSlice.port = s.port ∧
    s.countSlice.optics = s.optics ∧ s.countSlice.clocks = s.clocks := ⟨rfl, rfl, rfl, rfl⟩

/-- What the record of a failed test leaves: all but the events and the latest failure. -/
theorem State.bistFail_same (s : State) (u : Nat × Word) (item : Nat) : (s.bistFail u item).clusters = s.clusters ∧
    (s.bistFail u item).bist.slices = s.bist.slices ∧ (s.bistFail u item).bist.tested = s.bist.tested ∧
    (s.bistFail u item).journal.retired = s.journal.retired ∧ (s.bistFail u item).journal.faults = s.journal.faults ∧
    (s.bistFail u item).journal.bistFailures = satAdd 32 s.journal.bistFailures 1 := ⟨rfl, rfl, rfl, rfl, rfl, rfl⟩

/-- What the record of a failed sensor or PLL leaves. -/
theorem State.sensorFail_same (s : State) (u : Nat × Word) (detail : Nat) : (s.sensorFail u detail).dies = s.dies ∧
    (s.sensorFail u detail).clocks = s.clocks ∧ (s.sensorFail u detail).thermal = s.thermal ∧ (s.sensorFail u detail).jobs = s.jobs ∧
    (s.sensorFail u detail).journal.pllsUnusable = s.journal.pllsUnusable ∧
    (s.sensorFail u detail).journal.bistFailures = satAdd 32 s.journal.bistFailures 1 := ⟨rfl, rfl, rfl, rfl, rfl, rfl⟩

end Failures

section Cores

variable {s : State} {p : PhysCore} {k n : Nat}

theorem physOf_key (p : PhysCore) : physOf p.cl.key p.num.val = p := by
  have die : (64 * p.cl.die.val + p.cl.num.val) / 64 = p.cl.die.val := by omega
  have num : Fin.ofNat 64 (64 * p.cl.die.val + p.cl.num.val) = p.cl.num := Fin.ext (by simp [Fin.ofNat])
  simp only [physOf, clusterOf, ClusterRef.key, die, num, Fin.ofNat_val_eq_self]

/-- A core that is retired, or that a test has found bad, is none of the good cores. -/
theorem State.goodCores_without (bad : s.coreRetired k n = true ∨ mget .good (s.cluster k).health n = .notGood) : (s.goodCores k).contains n = false := by
  rw [← Bool.not_eq_true, List.contains_iff_mem, State.goodCores, List.mem_filter]
  rintro ⟨-, serves⟩
  simp only [Bool.and_eq_true, Bool.not_eq_true', bne_iff_ne] at serves
  obtain ⟨⟨-, stands⟩, good⟩ := serves
  exact bad.elim (fun retired => absurd (retired.symm.trans stands) nofun) good

theorem State.wakeHalf_same (s : State) (h : Nat) : (s.wakeHalf h).bist = s.bist ∧ (s.wakeHalf h).journal = s.journal := by
  rw [State.wakeHalf]
  split <;> exact ⟨rfl, rfl⟩

theorem State.wakeStack_same (s : State) (k : Nat) : (s.wakeStack k).bist = s.bist ∧ (s.wakeStack k).journal = s.journal := by
  rw [State.wakeStack]
  split <;> exact ⟨rfl, rfl⟩

/-- A core under test: its half awake, the slice counted and its time noted. -/
def State.bistBegin (s : State) (p : PhysCore) : State :=
  ((s.wakeHalf p.cl.half).countSlice.bistBusy 0 (BitVec.allOnes 32)).onBist fun b =>
    { b with tested := mset 0 b.tested (UnitRef.core p).code (s.nowSec + 1) }

theorem State.bistBegin_same (s : State) (p : PhysCore) : (s.bistBegin p).bist.slices = satAdd 32 s.bist.slices 1 ∧
    mget 0 (s.bistBegin p).bist.tested (UnitRef.core p).code = s.nowSec + 1 ∧ (s.bistBegin p).journal = s.journal := by
  obtain ⟨bist, journal⟩ := s.wakeHalf_same p.cl.half
  have tested : (s.bistBegin p).bist.tested = mset 0 s.bist.tested (UnitRef.core p).code (s.nowSec + 1) := by rw [← bist]; rfl
  rw [tested, mget_mset_self]
  have slices : (s.bistBegin p).bist.slices = satAdd 32 (s.wakeHalf p.cl.half).bist.slices 1 := rfl
  have kept : (s.bistBegin p).journal = (s.wakeHalf p.cl.half).journal := by
    simp only [State.bistBegin, State.bistBusy, State.countSlice, State.onBist]
  exact ⟨by rw [slices, bist], rfl, kept.trans journal⟩

/-- The cluster of a core that has failed its test. -/
def Cluster.without (c : Cluster) (n : Nat) : Cluster :=
  { c.setSpare n .retired with
    health := mset .good c.health n .notGood, underTest := none, copy := c.copy.filter fun q => q.dest != n }

/-- A core that has failed its test, before it is charged. -/
def State.bistOut (s : State) (p : PhysCore) : State :=
  ((s.bistBegin p).modCluster p.cl.key (Cluster.without · p.num.val)).bistFail (UnitRef.core p).event 1

theorem State.bistTest_of_fail (s : State) (p : PhysCore) : s.bistTest p false = (s.bistOut p).chargeUnit (.core p) := rfl

theorem State.bistOut_same (s : State) (p : PhysCore) : (s.bistOut p).clusters = ((s.bistBegin p).modCluster p.cl.key (Cluster.without · p.num.val)).clusters ∧
    (s.bistOut p).bist.slices = (s.bistBegin p).bist.slices ∧ (s.bistOut p).bist.tested = (s.bistBegin p).bist.tested ∧
    (s.bistOut p).journal.retired = s.journal.retired ∧ (s.bistOut p).journal.faults = s.journal.faults ∧
    (s.bistOut p).journal.bistFailures = satAdd 32 s.journal.bistFailures 1 := by
  have same := State.bistFail_same ((s.bistBegin p).modCluster p.cl.key (Cluster.without · p.num.val)) (UnitRef.core p).event 1
  have journal : ((s.bistBegin p).modCluster p.cl.key (Cluster.without · p.num.val)).journal = s.journal := (s.bistBegin_same p).2.2
  rwa [journal] at same

/-- A test changes the counts of BIST by its slice alone; a charge that follows leaves them. -/
theorem State.bistTest_counts (s : State) (p : PhysCore) (pass : Bool) : (s.bistTest p pass).bist.slices = satAdd 32 s.bist.slices 1 ∧
    mget 0 (s.bistTest p pass).bist.tested (UnitRef.core p).code = s.nowSec + 1 := by
  obtain ⟨slices, tested, -⟩ := s.bistBegin_same p
  cases pass with
  | true => exact ⟨slices, tested⟩
  | false =>
    obtain ⟨-, slices', tested', -⟩ := s.bistOut_same p
    have kept : Kept [.clusters, .dies, .tielux, .jobs, .transport, .events, .health, .headers, .integrity] _ ((s.bistOut p).chargeUnit (.core p)) :=
      State.chargeUnit_kept _ (Kept.refl _) (by decide)
    have bist : ((s.bistOut p).chargeUnit (.core p)).bist = (s.bistOut p).bist := kept.frame.same .bist (by decide)
    rw [State.bistTest_of_fail, bist, slices', tested']
    exact ⟨slices, tested⟩

theorem State.bistTest_passes (s : State) (p : PhysCore) : (s.bistTest p true).journal = s.journal := (s.bistBegin_same p).2.2

theorem State.bistOut_health (s : State) (p : PhysCore) : mget .good ((s.bistOut p).cluster p.cl.key).health p.num.val = .notGood := by
  rw [State.cluster, (s.bistOut_same p).1, ← State.cluster, State.cluster_modCluster, if_pos rfl, Cluster.without]
  exact mget_mset_self .good ((s.bistBegin p).cluster p.cl.key).health p.num.val .notGood

theorem State.bistTest_fails (s : State) (p : PhysCore) : (s.bistTest p false).journal.bistFailures = satAdd 32 s.journal.bistFailures 1 ∧
    Logged (s.bistTest p false) 0x0829 ∧ Charged s (s.bistTest p false) (.core p) ∧
    ((s.bistTest p false).goodCores p.cl.key).contains p.num.val = false := by
  obtain ⟨-, -, -, retired, faults, failures⟩ := s.bistOut_same p
  rw [State.bistTest_of_fail]
  refine ⟨(State.chargeUnit_core_same _ p).2.2.trans failures, (State.chargeUnit_lately (State.bistFail_lately ..) (by decide)).logged,
    Charged.congr (State.chargeUnit_charged _ p) retired.symm faults.symm rfl rfl, State.goodCores_without ?_⟩
  obtain out | same := State.chargeUnit_core_out (s.bistOut p) p
  · exact .inl (by rwa [State.coreRetired, physOf_key, List.contains_iff_mem])
  · exact .inr (by rw [State.cluster, same]; exact s.bistOut_health p)

/-- May a core be tested: its half has not failed, the units run (R6), and it is in service. -/
def State.mayTest (s : State) (p : PhysCore) : Prop :=
  (s.half p.cl.half).failed = false ∧ s.unitsMayRun = true ∧ (s.goodCores p.cl.key).contains p.num.val = true

theorem State.bistCore_of_not (unfit : ¬s.mayTest p) (pass : Bool) : s.bistCore p pass = s :=
  if_pos (by simpa [State.mayTest, imp_iff_not_or, or_assoc] using unfit)

theorem State.bistCore_of_may (may : s.mayTest p) (pass : Bool) : s.bistCore p pass =
    if ((s.halfJob? p.cl.half).isSome && (s.cluster p.cl.key).maps p.num.val) = true then s.bistMove p else s.bistTest p pass := by
  obtain ⟨half, runs, good⟩ := may
  exact if_neg (by rw [half, runs, good]; decide)

theorem State.bistMove_stays (stays : (s.cluster p.cl.key).freeSpare? = none ∨ (s.cluster p.cl.key).copy ≠ none) : s.bistMove p = s := by
  refine if_neg fun moves => ?_
  obtain ⟨free, copies⟩ := Bool.and_eq_true_iff.1 moves
  exact stays.elim (fun none => by simp [none] at free) fun busy => busy (Option.isNone_iff_eq_none.1 copies)

/-- A position under test leaves for a free spare, by a copy from its core. -/
theorem State.bistMove_copies (mapped : (s.cluster p.cl.key).maps p.num.val = true) (free : (s.cluster p.cl.key).freeSpare?.isSome)
    (idle : (s.cluster p.cl.key).copy = none) :
    (s.bistMove p).bist.slices = s.bist.slices ∧ ∃ q, ((s.bistMove p).cluster p.cl.key).copy = some q ∧ q.source = p.num.val := by
  obtain ⟨d, spare⟩ := Option.isSome_iff_exists.1 free
  have serves : ((s.cluster p.cl.key).coreMap.findIdx? (· == some p.num.val)).isSome = true := by
    rw [List.findIdx?_isSome]
    exact List.any_eq_true.2 ⟨_, List.contains_iff_mem.1 mapped, beq_self_eq_true _⟩
  obtain ⟨i, position⟩ := Option.isSome_iff_exists.1 serves
  have moves : s.bistMove p = (s.startCopy p.cl.key p.num.val .bist).bistBusy 1 (UnitRef.core p).event.2 := if_pos (by rw [free, idle]; rfl)
  have copy : s.startCopy p.cl.key p.num.val .bist = s.modCluster p.cl.key fun c =>
      { c with copy := some { pos := i, source := p.num.val, dest := d, why := .bist } } := by
    simp only [State.startCopy, spare, position, idle]
  rw [moves, copy]
  have cluster := (s.cluster_modCluster p.cl.key p.cl.key fun c =>
    { c with copy := some { pos := i, source := p.num.val, dest := d, why := .bist } }).trans (if_pos rfl)
  exact ⟨rfl, _, congrArg Cluster.copy cluster, rfl⟩

end Cores

section Others

variable {s : State} {n : Nat}

theorem Port.laneIdle_iff {p : Port} : p.laneIdle n = true ↔ p.linkUp = true ∧ (p.mode = .dr4Low ∧ 4 ≤ n ∨ p.mode = .dr4High ∧ n < 4) := by
  simp [Port.laneIdle]

/-- The mode that carries the link does not use an idle lane. -/
theorem Port.uses_of_laneIdle {p : Port} (idle : p.laneIdle n = true) : p.target.uses n = false := by
  obtain ⟨up, ⟨mode, high⟩ | ⟨mode, low⟩⟩ := Port.laneIdle_iff.1 idle <;> simp only [Port.target, up, if_true, mode, PortMode.uses] <;> simpa

/-- An idle lane that fails is marked, out of the quiet time of a laser switch, and the link stays (R361, R363). -/
theorem State.laneFail_idle (idle : s.port.laneIdle n = true) (place : n < 8) : (s.laneFail n).port.linkUp = true ∧
    (s.optics.quietUntil ≤ s.nowNs → (s.laneFail n).port.laneFailed.getLsbD n = true) ∧
    ∀ code, LoggedLately s code 0 → Logged (s.laneFail n) code := by
  obtain ⟨up, -⟩ := Port.laneIdle_iff.1 idle
  rw [State.laneFail]
  split
  next stands =>
    refine ⟨up, fun loud => ?_, fun _ lately => lately.logged⟩
    simpa [Nat.not_lt.2 loud] using stands
  next =>
    simp only [Port.uses_of_laneIdle idle, Bool.false_eq_true, if_false]
    refine ⟨up, fun _ => ?_, fun _ lately => (LoggedLately.log (lately.of_events rfl) (by decide) _).logged⟩
    change (s.port.laneFailed ||| 1#8 <<< n).getLsbD n = true
    simp [place]

theorem State.foldSensor_same (s : State) (n : Nat) : (s.foldSensor n).thermal.sensors = s.thermal.sensors ∧
    (s.foldSensor n).thermal.unusable = s.thermal.unusable ∧ (s.foldSensor n).journal = s.journal := by
  rw [State.foldSensor]
  repeat' split
  all_goals exact ⟨rfl, rfl, rfl⟩

end Others

end Sys2Proof.Machine

/-! PROOF of O50, its theorem: the items of BIST_SLICE, SENSOR_CHECK and the two failures of a PLL. -/

namespace Sys2Proof.Machine

open Sys2Proof Sys2Proof.Safety

section Items

variable {s : State} {n : Nat}

/-- A stack with a region that has failed its test. -/
def Stack.without (k : Stack) (g : Nat) : Stack := { k with badRegions := k.badRegions.filter (· != g) ++ [g], spareRowsLeft := 0 }

theorem State.bistStack_of_fail (serves : (s.stack n).failed = false) (runs : s.unitsMayRun = true) (g : Nat) : s.bistStack n g false =
    ((s.wakeStack n).modStack n (Stack.without · g)).countSlice.bistFail (5, unitWord n 0xFF 0xFF 0xFF) 2 := if_neg (by simp [serves, runs])

theorem State.bistStack_of_pass (serves : (s.stack n).failed = false) (runs : s.unitsMayRun = true) (g : Nat) :
    s.bistStack n g true = (s.wakeStack n).countSlice := if_neg (by simp [serves, runs])

theorem State.bistStack_stays {g : Nat} {pass : Bool} (stays : (s.stack n).failed = true ∨ s.unitsMayRun = false) : s.bistStack n g pass = s :=
  if_pos (by simpa using stays)

/-- A region of a stack in service tested: the slice counts, and a failure marks the region. -/
theorem State.bistStack_tests (serves : (s.stack n).failed = false) (runs : s.unitsMayRun = true) (g : Nat) (pass : Bool) :
    (s.bistStack n g pass).bist.slices = satAdd 32 s.bist.slices 1 ∧ (pass = false → Logged (s.bistStack n g pass) 0x0829 ∧
      (s.bistStack n g pass).bist.lastFailItem = 2 ∧ g ∈ ((s.bistStack n g pass).stack n).badRegions ∧
      ((s.bistStack n g pass).stack n).spareRowsLeft = 0 ∧ (s.bistStack n g pass).journal.bistFailures = satAdd 32 s.journal.bistFailures 1) := by
  obtain ⟨bist, journal⟩ := s.wakeStack_same n
  have slices : satAdd 32 (s.wakeStack n).bist.slices 1 = satAdd 32 s.bist.slices 1 := by rw [bist]
  cases pass with
  | true =>
    rw [State.bistStack_of_pass serves runs]
    exact ⟨slices, nofun⟩
  | false =>
    have stack : (((s.wakeStack n).modStack n (Stack.without · g)).countSlice.bistFail (5, unitWord n 0xFF 0xFF 0xFF) 2).stack n =
        ((s.wakeStack n).stack n).without g := by
      rw [(State.bistFail_units _ _ _ n).1, (State.countSlice_units _ n).1, State.stack_modStack, if_pos rfl]
    rw [State.bistStack_of_fail serves runs, stack, ← journal]
    exact ⟨slices, fun _ => ⟨(State.bistFail_lately ..).logged, rfl, List.mem_append_right _ List.mem_cons_self, rfl, rfl⟩⟩

/-- The standby laser tested. -/
theorem State.bistLaser_tests (idle : (if s.optics.activeLb then s.optics.la else s.optics.lb) = .standby) (pass : Bool) :
    (s.bistLaser pass).bist.slices = satAdd 32 s.bist.slices 1 ∧ (pass = true → (s.bistLaser pass).optics = s.optics) ∧
    (pass = false → Logged (s.bistLaser pass) 0x0829 ∧
      (if s.optics.activeLb then (s.bistLaser pass).optics.la else (s.bistLaser pass).optics.lb) = .failed) := by
  have run : s.bistLaser pass = _ := if_neg (by rw [idle]; decide)
  rw [run]
  cases pass with
  | true => exact ⟨rfl, fun _ => rfl, nofun⟩
  | false =>
    refine ⟨rfl, nofun, fun _ => ⟨(State.bistFail_lately ..).logged, ?_⟩⟩
    cases active : s.optics.activeLb <;> simp [State.bistFail, State.log, State.logOn, State.onJournal, State.onBist, State.onOptics, State.countSlice, active]

/-- An idle lane tested: one that fails is treated as any failed lane, which leaves the link. -/
theorem State.bistLane_tests (idle : s.port.laneIdle n = true) (place : n < 8) (pass : Bool) :
    (s.bistLane n pass).bist.slices = satAdd 32 s.bist.slices 1 ∧ (s.bistLane n pass).port.linkUp = true ∧
    (pass = true → (s.bistLane n pass).port = s.port) ∧ (pass = false → Logged (s.bistLane n pass) 0x0829 ∧
      (s.optics.quietUntil ≤ s.nowNs → (s.bistLane n pass).port.laneFailed.getLsbD n = true)) := by
  have run : s.bistLane n pass = _ := if_neg (by simp [idle])
  rw [run]
  cases pass with
  | true => exact ⟨rfl, (Port.laneIdle_iff.1 idle).1, fun _ => rfl, nofun⟩
  | false =>
    let t := s.countSlice.bistFail (7, unitWord 0xFF 0xFF 0xFF n) 4
    have lately : LoggedLately t 0x0829 0 := State.bistFail_lately ..
    obtain ⟨-, port, optics, clocks⟩ := s.countSlice.bistFail_units (7, unitWord 0xFF 0xFF 0xFF n) 4 0
    have quiet : t.optics.quietUntil ≤ t.nowNs ↔ s.optics.quietUntil ≤ s.nowNs := by
      rw [optics, State.nowNs, clocks]
      rfl
    have stands : t.port.laneIdle n = true := by rwa [port]
    obtain ⟨up, marked, logs⟩ := State.laneFail_idle stands place
    rw [quiet] at marked
    refine ⟨?_, up, nofun, fun _ => ⟨logs _ lately, marked⟩⟩
    have kept : Kept [.transport, .events, .headers, .port] t (t.laneFail n) := State.laneFail_kept n (Kept.refl t) (by decide)
    have bist : (t.laneFail n).bist = t.bist := kept.frame.same .bist (by decide)
    show (t.laneFail n).bist.slices = _
    obtain ⟨-, slices, -⟩ := s.countSlice.bistFail_same (7, unitWord 0xFF 0xFF 0xFF n) 4
    rw [bist, slices]
    rfl

/-- The hold-up bank measured (R520). -/
theorem State.bistHoldup_measures (s : State) (cap mv : Nat) : (s.bistHoldup cap mv).bist.slices = satAdd 32 s.bist.slices 1 ∧
    (s.bistHoldup cap mv).power.holdupCap = min 65535 cap ∧ (s.bistHoldup cap mv).power.holdupMv = min 65535 mv ∧
    ((s.bistHoldup cap mv).journal.holdupOk = true ↔ 7 * s.holdupNominal ≤ 10 * cap ∧ 45000 ≤ mv) ∧
    (¬(7 * s.holdupNominal ≤ 10 * cap ∧ 45000 ≤ mv) → Logged (s.bistHoldup cap mv) 0x0829 ∧
      (s.journal.holdupOk = true → Logged (s.bistHoldup cap mv) 0x0827)) := by
  rw [State.bistHoldup]
  dsimp only
  split
  next stands =>
    have ok : 7 * s.holdupNominal ≤ 10 * cap ∧ 45000 ≤ mv := by simpa using stands
    exact ⟨rfl, rfl, rfl, ⟨fun _ => ok, fun _ => stands⟩, fun fails => absurd ok fails⟩
  next fails =>
    have low : ¬(7 * s.holdupNominal ≤ 10 * cap ∧ 45000 ≤ mv) := by simpa using fails
    cases stood : s.journal.holdupOk with
    | false => exact ⟨rfl, rfl, rfl, ⟨fun ok => absurd ok fails, fun ok => absurd ok low⟩, fun _ => ⟨(State.bistFail_lately ..).logged, nofun⟩⟩
    | true =>
      exact ⟨rfl, rfl, rfl, ⟨fun ok => absurd ok fails, fun ok => absurd ok low⟩, fun _ => ⟨(State.bistFail_lately ..).logged,
        fun _ => (State.bistFail_after (LoggedLately.of_log _ _) (by decide) _ _).logged⟩⟩

end Items

section Analogue

variable {s : State} {n : Nat}

theorem State.sensorCheck_passes {n : Fin 64} (usable : mget false s.thermal.unusable n.val = false) (v : Int) :
    mget 0 (s.sensorCheck (.sensor n) true v).thermal.sensors n.val = v ∧ (s.sensorCheck (.sensor n) true v).journal = s.journal ∧
    ∀ k, k ≠ n.val → mget 0 (s.sensorCheck (.sensor n) true v).thermal.sensors k = mget 0 s.thermal.sensors k := by
  have run : s.sensorCheck (.sensor n) true v = (s.onThermal fun x => { x with sensors := mset 0 x.sensors n.val v }).foldSensor n.val :=
    if_neg (by simp [usable])
  obtain ⟨sensors, -, journal⟩ := (s.onThermal fun x => { x with sensors := mset 0 x.sensors n.val v }).foldSensor_same n.val
  rw [run, sensors]
  exact ⟨mget_mset_self 0 s.thermal.sensors n.val v, journal, fun k other => mget_mset_other 0 s.thermal.sensors v other⟩

theorem State.sensorCheck_fails (s : State) (n : Fin 64) (v : Int) : mget false (s.sensorCheck (.sensor n) false v).thermal.unusable n.val = true ∧
    Logged (s.sensorCheck (.sensor n) false v) 0x082A ∧
    (s.sensorCheck (.sensor n) false v).journal.bistFailures = satAdd 32 s.journal.bistFailures 1 := by
  let t := s.onThermal fun x => { x with sensors := mset 0 x.sensors n.val 0, unusable := mset false x.unusable n.val true }
  have run : s.sensorCheck (.sensor n) false v = (t.foldSensor n.val).sensorFail (sensorUnit n.val) n.val := rfl
  obtain ⟨-, unusable, journal⟩ := t.foldSensor_same n.val
  rw [run]
  obtain ⟨-, -, thermal, -, -, failures⟩ := (t.foldSensor n.val).sensorFail_same (sensorUnit n.val) n.val
  rw [thermal, failures, unusable, journal]
  exact ⟨mget_mset_self false s.thermal.unusable n.val true, (State.sensorFail_lately ..).logged, rfl⟩

/-- The loss of a half's PLL is its record, the reset of the die where the half has a job, and its domain stopped (R542). -/
theorem State.pllLose_of_free {h : Fin 12} (free : s.halfJob? h.val = none) :
    s.pllLose (.half h) = (s.sensorFail (pllUnit (.half h)) (0x100 + pllCode (.half h))).stopDomain (.half h) := by
  have free' : (s.sensorFail (pllUnit (.half h)) (0x100 + pllCode (.half h))).halfJob? h.val = none := free
  simp only [State.pllLose, free']

theorem State.pllLose_of_held {h : Fin 12} {e : Nat × Job} (held : s.halfJob? h.val = some e) :
    s.pllLose (.half h) = ((s.sensorFail (pllUnit (.half h)) (0x100 + pllCode (.half h))).resetDie (h.val / 2)).stopDomain (.half h) := by
  have held' : (s.sensorFail (pllUnit (.half h)) (0x100 + pllCode (.half h))).halfJob? h.val = some e := held
  simp only [State.pllLose, held']

theorem State.pllLose_half_stops (s : State) (h : Fin 12) : ((s.pllLose (.half h)).half h.val).clocked = false ∧
    ((s.pllLose (.half h)).half h.val).ready = false ∧ ((s.pllLose (.half h)).half h.val).locked = false := by
  have stops (t : State) : (t.stopDomain (.half h)).half h.val = { t.half h.val with clocked := false, ready := false, locked := false, setting := 0 } :=
    (t.half_modHalf h.val h.val _).trans (if_pos rfl)
  cases holds : s.halfJob? h.val with
  | none =>
    rw [State.pllLose_of_free holds, stops]
    exact ⟨rfl, rfl, rfl⟩
  | some e =>
    rw [State.pllLose_of_held holds, stops]
    exact ⟨rfl, rfl, rfl⟩

theorem State.stopDomain_same (s : State) (p : Pll) : (s.stopDomain p).jobs = s.jobs ∧ (s.stopDomain p).journal = s.journal := by
  cases p <;> exact ⟨rfl, rfl⟩

/-- A reset of a die leaves the events and the counts of failures. -/
theorem State.resetDie_same (s : State) (d : Nat) : (s.resetDie d).journal.events = s.journal.events ∧
    (s.resetDie d).journal.bistFailures = s.journal.bistFailures := by
  have frame := (State.resetDie_kept (A := [.clusters, .halves, .dies, .tielux, .jobs, .transport, .streams, .starts]) d (Kept.refl s) (by decide)).frame
  obtain ⟨events, -⟩ := frame.same .events (by decide)
  obtain ⟨health, -⟩ := frame.same .health (by decide)
  exact ⟨congrArg Prod.fst events, congrArg (·.2.2.1) health⟩

theorem State.pllLose_logs (s : State) (p : Pll) : Logged (s.pllLose p) 0x082A ∧ (s.pllLose p).journal.bistFailures = satAdd 32 s.journal.bistFailures 1 := by
  let t := s.sensorFail (pllUnit p) (0x100 + pllCode p)
  have failed : LoggedLately t 0x082A 0 := State.sensorFail_lately ..
  suffices same : (s.pllLose p).journal.events = t.journal.events ∧ (s.pllLose p).journal.bistFailures = t.journal.bistFailures from
    ⟨(failed.of_events same.1).logged, same.2⟩
  cases p with
  | half h =>
    cases holds : s.halfJob? h.val with
    | none =>
      rw [State.pllLose_of_free holds]
      exact ⟨rfl, rfl⟩
    | some e =>
      rw [State.pllLose_of_held holds, (State.stopDomain_same _ _).2]
      exact t.resetDie_same (h.val / 2)
  | spine | stack | hub | serdes => exact ⟨rfl, rfl⟩

theorem State.pllLose_half_restarts (ok : JobsOk s) {h : Fin 12} {e : Nat} {j : Job} (holds : s.halfJob? h.val = some (e, j)) :
    JobRestarted (s.pllLose (.half h)) e j := by
  obtain ⟨job, resident, there⟩ := State.halfJob?_spec ok holds
  have die : j.hasDie (h.val / 2) = true := List.any_eq_true.2 ⟨h.val, there, beq_self_eq_true _⟩
  rw [State.pllLose_of_held holds]
  exact State.resetDie_restarts (s := s.sensorFail (pllUnit (.half h)) (0x100 + pllCode (.half h))) job resident die
    (State.stopDomain_same _ (.half h)).1

/-- Does the jitter of a PLL fail for the second time within a day, and is the PLL still usable. -/
def State.jitterSecond (s : State) (p : Pll) : Prop :=
  mget 0 s.clocks.jitterAt (pllCode p) ≠ 0 ∧ s.nowSec + 1 - mget 0 s.clocks.jitterAt (pllCode p) ≤ 86400 ∧
  mget false s.clocks.pllUnusable (pllCode p) = false

theorem State.jitterFail_marks (s : State) (p : Pll) : Logged (s.jitterFail p) 0x082A ∧
    (s.jitterSecond p → mget false (s.jitterFail p).clocks.pllUnusable (pllCode p) = true ∧
      (s.jitterFail p).journal.pllsUnusable = satAdd 32 s.journal.pllsUnusable 1) ∧
    (¬s.jitterSecond p → mget false (s.jitterFail p).clocks.jitterWaits (pllCode p) = true ∧
      (s.jitterFail p).clocks.pllUnusable = s.clocks.pllUnusable) := by
  have failed : LoggedLately (s.sensorFail (pllUnit p) (0x200 + pllCode p)) 0x082A 0 := State.sensorFail_lately ..
  rw [State.jitterFail]
  split
  next second =>
    refine ⟨(failed.of_events rfl).logged, fun _ => ⟨mget_mset_self false s.clocks.pllUnusable (pllCode p) true, rfl⟩, fun first => absurd ?_ first⟩
    exact ⟨second.1.1, second.1.2, second.2⟩
  next first =>
    refine ⟨(failed.of_events rfl).logged, fun second => absurd ?_ first,
      fun _ => ⟨mget_mset_self false s.clocks.jitterWaits (pllCode p) true, rfl⟩⟩
    exact ⟨⟨second.1, second.2.1⟩, second.2.2⟩

end Analogue

/-- Settles O50, from the rules of each item's test and of the failures of sensors and PLLs. -/
theorem selfTests : Obligations.SelfTests := by
  unfold Obligations.SelfTests
  refine ⟨fun s p pass => ⟨_, rfl, ?core⟩, fun s u g pass => ⟨_, rfl, ?stack⟩, fun s pass => ⟨_, rfl, ?laser⟩, fun s n pass => ⟨_, rfl, ?lane⟩,
    fun s cap mv pass => ⟨_, rfl, ?holdup⟩, fun s n pass v => ⟨_, rfl, ?sensor⟩, fun s d pass v => ⟨_, rfl, ?ring⟩, fun s p ok => ⟨_, rfl, ?loss⟩,
    fun s p => ⟨_, rfl, ?jitter⟩⟩
  case core =>
    refine ⟨fun unfit => State.bistCore_of_not unfit pass, fun may held mapped => ?_, fun may free => ?_⟩
    · have moves : s.bistCore p pass = s.bistMove p := by rw [State.bistCore_of_may may, if_pos (by rw [held, mapped]; rfl)]
      exact ⟨fun stays => moves.trans (State.bistMove_stays stays), fun spare idle => by
        show (s.bistCore p pass).bist.slices = _ ∧ ∃ q, ((s.bistCore p pass).cluster _).copy = _ ∧ _
        rw [moves]
        exact State.bistMove_copies mapped spare idle⟩
    · have tests : s.bistSlice (.core p) pass = s.bistTest p pass := (State.bistCore_of_may may pass).trans (if_neg (by simp [free]))
      obtain ⟨slices, tested⟩ := s.bistTest_counts p pass
      rw [tests]
      refine ⟨slices, tested, fun passes => ?_, fun fails => ?_⟩
      · rw [passes, s.bistTest_passes]
        exact ⟨rfl, rfl⟩
      · rw [fails]
        exact s.bistTest_fails p
  case stack =>
    have kept : Kept [.tielux, .transport, .events, .health, .headers, .clocks, .bist] s (s.bistStack u.val g.val pass) :=
      State.bistStack_kept _ _ _ (Kept.refl s) (by decide)
    exact ⟨kept.frame.same .mem (by decide), State.bistStack_stays, fun serves runs => State.bistStack_tests serves runs g.val pass⟩
  case laser => exact ⟨fun busy => if_pos (by simpa using busy), fun idle => State.bistLaser_tests idle pass⟩
  case lane =>
    simp only [← Port.laneIdle_iff]
    exact ⟨fun busy => if_pos (by simpa using busy), fun idle => State.bistLane_tests idle n.isLt pass⟩
  case holdup =>
    obtain ⟨slices, capacity, volts, stands, fails⟩ := s.bistHoldup_measures cap mv
    exact ⟨slices, capacity, volts, stands, fun low => (fails low).1, fun low => (fails low).2⟩
  case sensor =>
    refine ⟨fun passes unusable => ?_, fun passes usable => ?_, fun fails => ?_⟩
    · rw [passes]
      exact if_pos unusable
    · rw [passes]
      exact State.sensorCheck_passes usable v
    · rw [fails]
      exact s.sensorCheck_fails n v
  case ring =>
    refine ⟨fun passes => ?_, fun fails => ?_⟩
    · rw [passes]
      exact ⟨(State.modDie_kept (A := [.dies]) _ _ (Kept.refl s) (by decide)).frame, (s.die_modDie d.val d.val _).trans (if_pos rfl)⟩
    · have die := (s.die_modDie d.val d.val fun x => { x with ringFails := min 2 (x.ringFails + 1) }).trans (if_pos rfl)
      rw [fails]
      exact ⟨die, (State.sensorFail_lately ..).logged, rfl⟩
  case loss =>
    obtain ⟨logs, failures⟩ := s.pllLose_logs p
    refine ⟨logs, failures, ?_⟩
    cases p with
    | half h =>
      obtain ⟨clocked, ready, locked⟩ := s.pllLose_half_stops h
      exact ⟨clocked, ready, locked, fun free => (congrArg State.jobs (State.pllLose_of_free free)).trans rfl, fun e j holds => State.pllLose_half_restarts ok holds⟩
    | spine d =>
      have die := (s.die_modDie d.val d.val fun x => { x with spineClocked := false, spineLocked := false, spineSetting := 0 }).trans (if_pos rfl)
      exact ⟨congrArg Die.spineClocked die, congrArg Die.spineLocked die, rfl⟩
    | stack k =>
      have stack := (s.stack_modStack k.val k.val fun x => { x with clocked := false, pllLocked := false, ready := false }).trans (if_pos rfl)
      exact ⟨congrArg Stack.clocked stack, congrArg Stack.pllLocked stack, rfl⟩
    | hub => exact ⟨rfl, rfl⟩
    | serdes => exact ⟨rfl, rfl, rfl⟩
  case jitter =>
    obtain ⟨logs, second, first⟩ := s.jitterFail_marks p
    exact ⟨(State.jitterFail_kept (A := [.transport, .events, .health, .headers, .clocks, .bist]) p (Kept.refl s) (by decide)).frame, logs, second, first⟩

end Sys2Proof.Machine

/-! PROOF of O59, the frame of every command. -/

namespace Sys2Proof.Machine

open Sys2Proof Sys2Proof.Safety

/-- Settles O59: what a command keeps includes its frame and the queue (`exec_kept`). -/
theorem commandFrame : Obligations.CommandFrame := fun _ _ _ h => ⟨(exec_kept h).frame, (exec_kept h).queue⟩

end Sys2Proof.Machine

/-! PROOF of O3: the register forms of slot M. Each changes the cores of its cluster one by one, or its generators, and neither the job nor
another core has a part in it. -/

namespace Sys2Proof.Machine

open Sys2Proof Sys2Proof.Safety

/-! ### Operations on the cores alone -/

/-- An operation of which each part changes its core alone, as it would whatever the other parts do. -/
theorem State.onCluster_cores {s : State} {cl : ClusterRef} {x : Site} {j : Job} {f : Site → Nat → Work → Work} {g : SMap AddrGen → SMap AddrGen}
    {F : Nat → Core → Core} {P : Nat → Core → Core → Prop} (acts : Acts s cl x j)
    (part : ∀ pos w, w.job = j → f x pos w = { w with core := F pos w.core }) (does : ∀ pos c, P pos c (F pos c)) :
    (s.onCluster cl f g).job? x.slot = some j ∧ InCluster s (s.onCluster cl f g) cl x g P := by
  refine And.imp_left (fun ⟨_, job, eq⟩ => eq ▸ job) (State.onCluster_parts (I := fun k => k = j) (R := fun _ _ => True) acts rfl
    (fun _ _ _ _ => trivial) fun pos inside n served w job _ clean => ?_)
  rw [part pos w job]
  exact ⟨job, trivial, clean, fun old => old ▸ does pos w.core⟩

/-! ### MOV.MASK -/

/-- A mask written reads back, but for LM0, which is all ones (R186). -/
theorem Core.setMask_mask (c : Core) (lm : Fin 4) (v : BitVec 32) : (c.setMask lm v).mask lm = if lm = 0 then BitVec.allOnes 32 else v := by
  match lm with
  | 0 => rfl
  | 1 => rfl
  | 2 => rfl
  | 3 => rfl

/-- A core changes with a mask written only by what that mask then reads. -/
theorem Core.setMask_eq (c : Core) (lm : Fin 4) (v : BitVec 32) : c.setMask lm v = c.setMask lm ((c.setMask lm v).mask lm) := by
  rw [Core.setMask_mask]
  split
  case isTrue zero => subst zero; rfl
  case isFalse => rfl

/-- Bit `l` of the pattern of MOV.MASK (R234). -/
def maskPatternBit (o : MovMaskOps) (pos l : Nat) : Bool :=
  match o.psel with
  | .halves => o.imm.getLsbD (l % 16)
  | .upto => decide (l ≤ o.imm.toNat % 32)
  | .core => decide (o.imm.toNat % 64 = pos)

/-- A 16-bit number doubled into a word stands in both halves of it. -/
theorem testBit_doubled {v l : Nat} (small : v < 2 ^ 16) (inside : l < 32) : (v * 65537).testBit l = v.testBit (l % 16) := by
  rw [show v * 65537 = 2 ^ 16 * v + v by omega, Nat.testBit_two_pow_mul_add _ small]
  split
  case isTrue low => rw [Nat.mod_eq_of_lt low]
  case isFalse high => rw [show l % 16 = l - 16 by omega]

theorem maskPattern_getLsbD (o : MovMaskOps) (pos : Nat) {l : Nat} (inside : l < 32) :
    (maskPattern o pos).getLsbD l = maskPatternBit o pos l := by
  unfold maskPattern maskPatternBit
  cases o.psel with
  | halves =>
    simp only [BitVec.getLsbD_ofNat, inside, decide_true, Bool.true_and, testBit_doubled o.imm.isLt inside]
    rfl
  | upto =>
    simp only [BitVec.getLsbD_ofNat, inside, decide_true, Bool.true_and, Nat.testBit_two_pow_sub_one, Nat.lt_succ_iff]
  | core =>
    dsimp only
    split
    case isTrue same => rw [BitVec.getLsbD_allOnes, decide_eq_true inside, decide_eq_true same]
    case isFalse other => simp [other]

/-- The mask that MOV.MASK writes in a core. -/
def maskWritten (o : MovMaskOps) (pos : Nat) (c : Core) : BitVec 32 :=
  match o.op with
  | .set => maskPattern o pos
  | .and => c.mask o.lms &&& maskPattern o pos
  | .or => c.mask o.lms ||| maskPattern o pos
  | .xor => c.mask o.lms ^^^ maskPattern o pos

theorem maskWritten_getLsbD (o : MovMaskOps) (pos : Nat) (c : Core) {l : Nat} (inside : l < 32) :
    (maskWritten o pos c).getLsbD l = match o.op with
      | .set => maskPatternBit o pos l
      | .and => (c.mask o.lms).getLsbD l && maskPatternBit o pos l
      | .or => (c.mask o.lms).getLsbD l || maskPatternBit o pos l
      | .xor => (c.mask o.lms).getLsbD l != maskPatternBit o pos l := by
  unfold maskWritten
  cases o.op with
  | set => exact maskPattern_getLsbD o pos inside
  | and => exact (BitVec.getLsbD_and ..).trans (by rw [maskPattern_getLsbD o pos inside])
  | or => exact (BitVec.getLsbD_or ..).trans (by rw [maskPattern_getLsbD o pos inside])
  | xor => exact (BitVec.getLsbD_xor ..).trans (by rw [maskPattern_getLsbD o pos inside])

theorem movMaskCore_eq (o : MovMaskOps) (x : Site) (pos : Nat) (w : Work) :
    movMaskCore o x pos w = { w with core := w.core.setMask o.lmd (maskWritten o pos w.core) } := rfl

/-- MOV.MASK in a cluster. -/
theorem movMask_spec {s : State} {o : MovMaskOps} {x : Site} {j : Job} (acts : Acts s o.cl x j) :
    (s.movMask o).job? x.slot = some j ∧
      InCluster s (s.movMask o) o.cl x id fun pos c d => d = c.setMask o.lmd (maskWritten o pos c) :=
  State.onCluster_cores acts (fun pos w _ => movMaskCore_eq o x pos w) fun _ _ => rfl

/-! ### MOV.AG, MOV.DESC and MOV.GRP -/

theorem agWrite_get (o : MovAgOps) (a : SMap AddrGen) (n : Nat) : mget {} (agWrite o a) n =
    let g : AddrGen := mget {} a n
    if n = o.ag.val then
      match o.field with
      | .base => { g with base := o.value }
      | .stride => { g with stride := o.value }
      | .increment => { g with increment := o.value.setWidth 8 }
    else g := by
  unfold agWrite
  rw [mget_mmod]
  split
  case isTrue named => subst named; rfl
  case isFalse => rfl

/-- MOV.AG in a cluster. -/
theorem movAg_spec {s : State} {o : MovAgOps} {x : Site} {j : Job} (acts : Acts s o.cl x j) :
    (s.movAg o).job? x.slot = some j ∧ InCluster s (s.movAg o) o.cl x (agWrite o) fun _ c d => d = c :=
  State.onCluster_cores (F := fun _ c => c) acts (fun _ _ _ => rfl) fun _ _ => rfl

@[simp] theorem Core.desc_setDesc (c : Core) (dd e : Fin 4) (d : Descriptor) : (c.setDesc dd d).desc e = if e = dd then d else c.desc e :=
  (mget_mset _ _ _ _ _).trans (if_congr Fin.ext_iff.symm rfl rfl)

/-- MOV.DESC in a cluster. -/
theorem movDesc_spec {s : State} {o : MovDescOps} {x : Site} {j : Job} (acts : Acts s o.cl x j) :
    (s.movDesc o).job? x.slot = some j ∧ InCluster s (s.movDesc o) o.cl x id fun pos c d =>
      d = c.setDesc o.dd (descOf (leBytes 64 (c.line ((x.line o.ag.val pos + o.ofs.val) % 2048)).toNat)) :=
  State.onCluster_cores acts (fun _ _ _ => rfl) fun _ _ => rfl

/-- MOV.GRP in a cluster. -/
theorem movGrp_spec {s : State} {cl : ClusterRef} {x : Site} {j : Job} (acts : Acts s cl x j) (lm : Fin 4) (src dst : GroupSel) :
    (s.movGrp cl lm src dst).job? x.slot = some j ∧ InCluster s (s.movGrp cl lm src dst) cl x id fun pos c d =>
      sameButLanes c d ∧ InLanes (x.lanes pos c lm) c d fun _ y z => z = y.setGroup dst ((y.group dst).moveIn (y.group src)) :=
  let moved : Nat → Lane → Lane := fun _ y => y.setGroup dst ((y.group dst).moveIn (y.group src))
  State.onCluster_cores acts (fun _ _ _ => rfl) fun pos c =>
    ⟨sameButLanes_foldl_modLane (x.lanes pos c lm) moved c, inLanes_foldl_modLane (x.lanes_nodup pos c lm) moved c⟩

/-! ### Half-lines written (R234) -/

/-- A half-line written: its eight words and its marker, and nothing else but what a write through the playa port leaves. -/
theorem Core.writeHalf_spec (c : Core) (step l : Nat) {h : Nat} (half : h < 2) (ws : List Word) (poison : Bool) (exps : List Int) :
    let d := c.writeHalf step l h ws poison exps
    sameButPlaya c d ∧ (∀ k, k ≠ l → d.line k = c.line k) ∧
      (∀ w < 16, lineWord (d.line l) w = if w / 8 = h then ws.getD (w % 8) 0 else lineWord (c.line l) w) ∧
      ∀ k i, i < 2 → d.linePoison k i = if k = l ∧ i = h then poison else c.linePoison k i := by
  obtain ⟨lines, marks, same⟩ := c.writeWords_spec step l ((List.range 8).map fun i => (8 * h + i, ws.getD i 0)) poison
  refine ⟨?_, fun k other => (lines k).trans (if_neg other), fun w inside => ?_, fun k i inside => (marks k i inside).trans ?_⟩
  · show sameButPlaya c { c.writeWords step l _ poison with playaExps := _ }
    rw [same]
    rfl
  · rw [show (c.writeHalf step l h ws poison exps).line l = _ from (lines l).trans (if_pos rfl)]
    have place : ∀ i ∈ List.range 8, 8 * h + i < 16 := fun i m => by have := List.mem_range.1 m; omega
    split
    case isTrue here =>
      have word := lineWord_foldl_map place (List.mem_range.2 (show w % 8 < 8 by omega)) (fun i _ same => by omega)
        (fun i => ws.getD i 0) (c.line l)
      rwa [show 8 * h + w % 8 = w by omega] at word
    case isFalse elsewhere =>
      rw [List.foldl_map]
      exact read_foldl_of_unnamed (read := lineWord) (key := fun i => 8 * h + i) (val := fun i => ws.getD i 0)
        (fun a i m k => lineWord_setLineWord a _ k _ (place i m)) (fun i m same => elsewhere (by have := List.mem_range.1 m; omega)) _
  · refine if_congr (and_congr_right fun _ => ?_) rfl rfl
    simp only [List.any_map, List.any_eq_true, List.mem_range, Function.comp, beq_iff_eq]
    exact ⟨fun ⟨n, _, place⟩ => by omega, fun same => ⟨0, by omega, by omega⟩⟩

theorem bit_lt_two (b : Bool) : bit b < 2 := by cases b <;> decide

/-- MOV.ZERO in a cluster. -/
theorem movZero_spec {s : State} {o : HalfLineOps} {x : Site} {j : Job} (acts : Acts s o.cl x j) :
    (s.movZero o).job? x.slot = some j ∧ InCluster s (s.movZero o) o.cl x (incAg o.inc o.ag.val) fun pos c d =>
      d = c.writeHalf x.step (x.line o.ag.val pos) (bit o.half) [] false :=
  State.onCluster_cores acts (fun _ _ _ => rfl) fun _ _ => rfl

/-! ### The obligation -/

/-- Settles O3, by what each operation writes in a core. -/
theorem registerMoves : Obligations.RegisterMoves := by
  unfold Obligations.RegisterMoves
  refine ⟨fun s o x j acts => ⟨_, rfl, (movMask_spec acts).imp_right fun cluster => cluster.imp ?mask⟩,
    fun s o x j acts => ⟨_, rfl, ?ag⟩,
    fun s o x j acts => ⟨_, rfl, (movDesc_spec acts).imp_right fun cluster => cluster.imp ?desc⟩,
    fun s cl lm src dst x j acts => ⟨_, rfl, movGrp_spec acts lm src dst⟩,
    fun s o x j acts => ⟨_, rfl, (movZero_spec acts).imp_right fun cluster => cluster.imp ?zero⟩⟩
  case mask =>
    rintro pos c _ rfl
    refine ⟨c.setMask_eq _ _, fun stored l inside => ?_⟩
    rw [Core.setMask_mask, if_neg stored, maskWritten_getLsbD o pos c inside]
    rfl
  case ag =>
    obtain ⟨job, cluster⟩ := movAg_spec acts
    exact ⟨job, { cluster with gens := rfl }, fun n => by rw [cluster.gens]; exact agWrite_get o _ n⟩
  case desc =>
    rintro pos c _ rfl
    simp only [Core.desc_setDesc, if_true, and_self]
  case zero =>
    rintro pos c _ rfl
    obtain ⟨same, lines, words, marks⟩ := c.writeHalf_spec x.step (x.line o.ag.val pos) (bit_lt_two o.half) [] false []
    exact ⟨same, lines, words, marks⟩

end Sys2Proof.Machine

/-! PROOF of O4: LOAD and STORE. A load takes the caravan input core by core; a store reads markers that no store changes, so what was clean
before the operation is clean at each part of it. -/

namespace Sys2Proof.Machine

open Sys2Proof Sys2Proof.Safety

/-! ### LD.LINE -/

/-- LD.LINE in a cluster. -/
theorem ldLine_spec {s : State} {o : HalfLineOps} {x : Site} {j : Job} (acts : Acts s o.cl x j) :
    (s.ldLine o).job? x.slot = some j ∧ InCluster s (s.ldLine o) o.cl x (incAg o.inc o.ag.val) fun pos c d =>
      d = (c.writeHalf x.step (x.line o.ag.val pos) (bit o.half) ((List.range 8).map (lineWord c.caravan.data)) c.caravan.poison
        (c.caravan.exps.take 16)).takeCaravan :=
  State.onCluster_cores acts (fun _ _ _ => rfl) fun _ _ => rfl

/-! ### LD.SLOT -/

/-- Words `b + w` of a map changed for the `w` of a list, each once. -/
theorem mget_foldl_mmod {α : Type} [DecidableEq α] (d : α) (b : Nat) (f : Nat → α → α) {ls : List Nat} (once : ls.Nodup) (m : SMap α) (w : Nat) :
    mget d (ls.foldl (fun m w => mmod d m (b + w) (f w)) m) (b + w) = if w ∈ ls then f w (mget d m (b + w)) else mget d m (b + w) := by
  induction ls generalizing m with
  | nil => rfl
  | cons v ls ih =>
    obtain ⟨fresh, once⟩ := List.nodup_cons.1 once
    rw [List.foldl_cons, ih once, mget_mmod]
    by_cases here : w = v
    · subst here
      rw [if_neg fresh, if_pos rfl, if_pos (.head _)]
    · simp only [Nat.add_left_cancel_iff, here, if_false, List.mem_cons, false_or]

/-- Words that lie elsewhere stay. -/
theorem mget_foldl_mmod_other {α : Type} [DecidableEq α] (d : α) (b : Nat) (f : Nat → α → α) (ls : List Nat) (m : SMap α) {k : Nat}
    (elsewhere : ∀ w ∈ ls, k ≠ b + w) : mget d (ls.foldl (fun m w => mmod d m (b + w) (f w)) m) k = mget d m k := by
  induction ls generalizing m with
  | nil => rfl
  | cons v ls ih => rw [List.foldl_cons, ih _ fun w m => elsewhere w (.tail _ m), mget_mmod, if_neg (elsewhere v (.head _))]

/-- A slot filled: its sixteen words take current values, pending ones stay, and so do the other slots. -/
theorem Core.slotWord_writeSlot (c : Core) (step sl : Nat) (v : BitVec 512) (poison : Bool) (tags : List (Option StateTag)) (k : Nat) {w : Nat}
    (inside : w < 16) : (c.writeSlot step sl v poison tags).slotWord k w =
      if k = sl then { c.slotWord k w with cur := lineWord v w, curPoison := poison, curTag := tags.getD w none } else c.slotWord k w := by
  obtain ⟨u, noted⟩ := c.noteSlot_eq step sl
  unfold Core.writeSlot Core.slotWord
  rw [noted]
  split
  case isTrue here =>
    subst here
    exact (mget_foldl_mmod ({} : StateWord) (16 * k) _ List.nodup_range c.slots w).trans (if_pos (List.mem_range.2 inside))
  case isFalse other =>
    exact mget_foldl_mmod_other _ _ _ _ _ fun i m same => other (by have := List.mem_range.1 m; omega)

/-- What filling a slot may change in a core. -/
theorem Core.writeSlot_eq (c : Core) (step sl : Nat) (v : BitVec 512) (poison : Bool) (tags : List (Option StateTag)) :
    c.writeSlot step sl v poison tags =
      { c with slots := (c.writeSlot step sl v poison tags).slots, undo := (c.writeSlot step sl v poison tags).undo } := by
  obtain ⟨u, noted⟩ := c.noteSlot_eq step sl
  unfold Core.writeSlot
  rw [noted]

/-- LD.SLOT in a cluster. -/
theorem ldSlot_spec {s : State} {o : SlotOps} {x : Site} {j : Job} (acts : Acts s o.cl x j) :
    (s.ldSlot o).job? x.slot = some j ∧ InCluster s (s.ldSlot o) o.cl x (incAg o.inc o.ags.val) fun pos c d =>
      d = (c.writeSlot x.step (x.stateSlot o.ags.val pos) c.caravan.data c.caravan.poison c.caravan.tags).takeCaravan :=
  State.onCluster_cores acts (fun _ _ _ => rfl) fun _ _ => rfl

/-! ### LD.ANCH -/

/-- A state whose cluster's leap unit holds given anchors (R170). -/
def State.setAnchors (s : State) (k : Nat) (a : SMap (List (BitVec 128))) : State := s.modCluster k fun c => { c with anchors := a }

theorem State.cluster_setAnchors (s : State) (k i : Nat) (a : SMap (List (BitVec 128))) :
    (s.setAnchors k a).cluster i = if i = k then { s.cluster k with anchors := a } else s.cluster i :=
  s.cluster_modCluster k i fun c => { c with anchors := a }

theorem clusterCore_setAnchors (s : State) (cl : ClusterRef) (a : SMap (List (BitVec 128))) (n : Nat) :
    clusterCore (s.setAnchors cl.key a) cl n = clusterCore s cl n := by
  rw [clusterCore, State.cluster_setAnchors, if_pos rfl]
  rfl

/-- The anchors that the cores of a cluster bring, by block: those of each valid core whose caravan input holds a beat. -/
def State.anchorsBrought (s : State) (cl : ClusterRef) (x : Site) (dd : Fin 4) : List (Nat × List (BitVec 128)) :=
  ((List.range 64).filterMap x.phys).filterMap fun n =>
    if (clusterCore s cl n).caravan.valid then
      some (((clusterCore s cl n).desc dd).block, anchorsOf (clusterCore s cl n).caravan.data)
    else none

theorem State.mem_anchorsBrought {s : State} {cl : ClusterRef} {x : Site} {dd : Fin 4} {e : Nat × List (BitVec 128)} :
    e ∈ s.anchorsBrought cl x dd ↔ ∃ q < 64, ∃ m, x.phys q = some m ∧ (clusterCore s cl m).caravan.valid = true ∧
      (((clusterCore s cl m).desc dd).block, anchorsOf (clusterCore s cl m).caravan.data) = e := by
  simp only [State.anchorsBrought, List.mem_filterMap, List.mem_range, Option.ite_none_right_eq_some, Option.some.injEq]
  exact ⟨fun ⟨m, ⟨q, inside, served⟩, brings⟩ => ⟨q, inside, m, served, brings⟩,
    fun ⟨q, inside, m, served, brings⟩ => ⟨m, ⟨q, inside, served⟩, brings⟩⟩

/-- The anchors of a cluster's leap unit after LD.ANCH. -/
def State.anchorsTaken (s : State) (cl : ClusterRef) (x : Site) (dd : Fin 4) : SMap (List (BitVec 128)) :=
  (s.anchorsBrought cl x dd).foldl (fun m e => mset [] m e.1 e.2) (s.cluster cl.key).anchors

section

variable {s : State} {cl : ClusterRef} {x : Site} {j : Job} (dd : Fin 4)

/-- A block for which one core alone brings anchors has those. -/
theorem State.anchorsTaken_of_alone {pos n : Nat} (inside : pos < 64) (served : x.phys pos = some n)
    (brings : (clusterCore s cl n).caravan.valid = true)
    (alone : ∀ q m, q < 64 → q ≠ pos → x.phys q = some m → (clusterCore s cl m).caravan.valid = true →
      ((clusterCore s cl m).desc dd).block ≠ ((clusterCore s cl n).desc dd).block) :
    mget [] (s.anchorsTaken cl x dd) ((clusterCore s cl n).desc dd).block = anchorsOf (clusterCore s cl n).caravan.data := by
  have writes : ∀ (m : SMap (List (BitVec 128))), ∀ e ∈ s.anchorsBrought cl x dd, ∀ k, mget [] (mset [] m e.1 e.2) k =
      if k = e.1 then e.2 else mget [] m k := fun m e _ k => mget_mset _ _ _ _ _
  refine read_foldl_of_named writes (State.mem_anchorsBrought.2 ⟨pos, inside, n, served, brings, rfl⟩) (fun i mem same => ?_) _
  obtain ⟨q, insideQ, m, servedQ, bringsQ, rfl⟩ := State.mem_anchorsBrought.1 mem
  by_cases here : q = pos
  · subst here
    rw [Option.some.inj (servedQ.symm.trans served)]
  · exact absurd same (alone q m insideQ here servedQ bringsQ)

/-- A block for which no core brings anchors keeps what it has. -/
theorem State.anchorsTaken_of_none {b : Nat}
    (none : ∀ q m, q < 64 → x.phys q = some m → (clusterCore s cl m).caravan.valid = true → ((clusterCore s cl m).desc dd).block ≠ b) :
    mget [] (s.anchorsTaken cl x dd) b = mget [] (s.cluster cl.key).anchors b := by
  have writes : ∀ (m : SMap (List (BitVec 128))), ∀ e ∈ s.anchorsBrought cl x dd, ∀ k, mget [] (mset [] m e.1 e.2) k =
      if k = e.1 then e.2 else mget [] m k := fun m e _ k => mget_mset _ _ _ _ _
  refine read_foldl_of_unnamed writes (fun e mem => ?_) _
  obtain ⟨q, inside, m, served, brings, rfl⟩ := State.mem_anchorsBrought.1 mem
  exact none q m inside served brings

/-- LD.ANCH consumes the caravan inputs, and sets the anchors they bring. -/
theorem State.ldAnch_eq (acts : Acts s cl x j) :
    let taken := s.onCluster cl fun _ _ w => { w with core := w.core.takeCaravan }
    s.ldAnch cl dd = taken.setAnchors cl.key
      ((s.anchorsBrought cl x dd).foldl (fun m e => mset [] m e.1 e.2) (taken.cluster cl.key).anchors) := by
  simp only [State.ldAnch, acts.1]
  rfl

end

end Sys2Proof.Machine

namespace Sys2Proof.Safety

open Sys2Proof Sys2Proof.Machine

/-- The same anchors set before and after an operation on a cluster. -/
theorem InCluster.setAnchors {s t : State} {cl : ClusterRef} {x : Site} {g : SMap AddrGen → SMap AddrGen} {P : Nat → Core → Core → Prop}
    (h : InCluster s t cl x g P) (a : SMap (List (BitVec 128))) : InCluster (s.setAnchors cl.key a) (t.setAnchors cl.key a) cl x g P where
  valid pos n serves := by
    rw [clusterCore_setAnchors, clusterCore_setAnchors]
    exact h.valid pos n serves
  idle n unserved := by
    rw [clusterCore_setAnchors, clusterCore_setAnchors]
    exact h.idle n unserved
  gens := by
    rw [State.cluster_setAnchors, State.cluster_setAnchors, if_pos rfl, if_pos rfl]
    exact h.gens
  clusters k other := by
    rw [State.cluster_setAnchors, State.cluster_setAnchors, if_neg other, if_neg other]
    exact h.clusters k other
  jobs := h.jobs
  own := by
    rw [State.cluster_setAnchors, State.cluster_setAnchors, if_pos rfl, if_pos rfl]
    exact congrArg (fun c : Cluster => { c with anchors := a }) h.own
  rest := ⟨fun p other => match p with
    | .clusters => absurd (by decide) other
    | .halves | .dies | .tielux | .mem | .jobs | .objects | .transport | .streams | .settings | .keys | .audit | .events | .health
    | .starts | .headers | .port | .ptp | .optics | .power | .clocks | .thermal | .security | .entropy | .integrity | .bist | .config
    | .free => h.rest.same _ other⟩

end Sys2Proof.Safety

namespace Sys2Proof.Machine

open Sys2Proof Sys2Proof.Safety

/-- LD.ANCH in a cluster. -/
theorem ldAnch_spec {s : State} {cl : ClusterRef} {x : Site} {j : Job} (acts : Acts s cl x j) (dd : Fin 4) :
    (s.ldAnch cl dd).job? x.slot = some j ∧ ((s.ldAnch cl dd).cluster cl.key).anchors = s.anchorsTaken cl x dd ∧
      InCluster (s.setAnchors cl.key (s.anchorsTaken cl x dd)) (s.ldAnch cl dd) cl x id fun _ c d => d = c.takeCaravan := by
  obtain ⟨job, cluster⟩ := State.onCluster_cores (g := id) (F := fun _ c => c.takeCaravan) (P := fun _ c d => d = c.takeCaravan) acts
    (f := fun _ _ w => { w with core := w.core.takeCaravan }) (fun _ _ _ => rfl) fun _ _ => rfl
  have anchors : ((s.onCluster cl fun _ _ w => { w with core := w.core.takeCaravan }).cluster cl.key).anchors = (s.cluster cl.key).anchors := by
    rw [cluster.own]
  rw [State.ldAnch_eq dd acts, anchors]
  refine ⟨job, ?_, cluster.setAnchors _⟩
  rw [State.cluster_setAnchors, if_pos rfl]
  rfl

/-! ### ST.LINE -/

/-- The beat of a core's ST.LINE (R234). -/
def lineBeat (x : Site) (o : StLineOps) (job pos : Nat) (c : Core) : Outward :=
  { op := .store, job := job, step := x.step, alloc := (x.t.target x.p o.tgt.val).alloc,
    offset := (x.t.target x.p o.tgt.val).offset + 64 * x.line o.ago.val pos, data := c.line (x.line o.ag.val pos), poison := false }

/-- A line of a core bears no marker. -/
def Core.cleanLine (c : Core) (l : Nat) : Prop := ∀ h < 2, c.linePoison l h = false

theorem Core.cleanLine_of_same {c d : Core} (same : d.playaPoison = c.playaPoison) {l : Nat} (clean : c.cleanLine l) : d.cleanLine l :=
  fun h half => by rw [← clean h half, Core.linePoison, Core.linePoison, same]

theorem Core.cleanLine.marks {c : Core} {l : Nat} (clean : c.cleanLine l) : (c.linePoison l 0 || c.linePoison l 1) = false := by
  rw [clean 0 (by decide), clean 1 (by decide)]
  rfl

theorem stLineCore_of_clean {o : StLineOps} {x : Site} {pos : Nat} {w : Work} (clean : w.core.cleanLine (x.line o.ag.val pos)) :
    stLineCore o x pos w = { w with core := w.core.send [lineBeat x o w.job.id pos w.core] } := by
  simp only [stLineCore, clean.marks, Bool.or_false]
  rfl

/-- ST.LINE in a cluster of which no line is poisoned that it sends. -/
theorem stLine_spec {s : State} {o : StLineOps} {x : Site} {j : Job} (acts : Acts s o.cl x j)
    (clean : ∀ pos < 64, ∀ n, x.phys pos = some n → (clusterCore s o.cl n).cleanLine (x.line o.ag.val pos)) :
    (s.stLine o).job? x.slot = some j ∧ InCluster s (s.stLine o) o.cl x (incAg o.inc o.ag.val) fun pos c d =>
      d = c.send [lineBeat x o j.id pos c] := by
  refine And.imp_left (fun ⟨_, job, eq⟩ => eq ▸ job) (State.onCluster_parts (I := fun k => k = j)
    (R := fun n c => c.playaPoison = (clusterCore s o.cl n).playaPoison) acts rfl (fun _ _ _ _ => rfl)
    fun pos inside n served w job marks hit => ?_)
  rw [stLineCore_of_clean (Core.cleanLine_of_same marks (clean pos inside n served))]
  exact ⟨job, marks, hit, fun old => by rw [← old, ← job]⟩

/-! ### ST.RES and ST.SNAP -/

/-- The states that a core's ST.RES or ST.SNAP sends (R234). -/
def areaWrites (x : Site) (o : StStateOps) (snapshot : Bool) (pos : Nat) (c : Core) : List AreaWrite :=
  let v := c.desc o.dd
  let kind := (x.cls v).kind
  let fmt := if snapshot then 10 else o.fmt.val
  (x.lanesOf pos c o.lm v.laneRep).map fun l =>
    { step := x.step, snapshot := snapshot, var := v.laneVar l, rep := v.laneRep l,
      value := BitVec.ofNat 32 (resultState kind fmt (c.lineState kind (x.line o.ag.val pos) v.word l)).1, bits := resultBits kind fmt }

/-- The beat that carries them; a core without a lane sends none. -/
def areaBeats (x : Site) (job : Nat) (ws : List AreaWrite) : List Outward :=
  if ws = [] then [] else [{ op := .area ws, job := job, step := x.step, alloc := 0, offset := 0, data := 0, poison := false }]

/-- The results that a core's ST.RES or ST.SNAP converts, by lane (R40, R43). -/
def stateResults (x : Site) (o : StStateOps) (snapshot : Bool) (pos : Nat) (c : Core) : List (Nat × Nat × Bool) :=
  let v := c.desc o.dd
  (x.lanesOf pos c o.lm v.laneRep).map fun l =>
    (l, resultState (x.cls v).kind (if snapshot then 10 else o.fmt.val) (c.lineState (x.cls v).kind (x.line o.ag.val pos) v.word l))

/-- A lane's result as it goes to the area. -/
def areaWriteOf (x : Site) (o : StStateOps) (snapshot : Bool) (c : Core) (e : Nat × Nat × Bool) : AreaWrite :=
  let v := c.desc o.dd
  { step := x.step, snapshot := snapshot, var := v.laneVar e.1, rep := v.laneRep e.1, value := BitVec.ofNat 32 e.2.1,
    bits := resultBits (x.cls v).kind (if snapshot then 10 else o.fmt.val) }

theorem areaWrites_eq (x : Site) (o : StStateOps) (snapshot : Bool) (pos : Nat) (c : Core) :
    areaWrites x o snapshot pos c = (stateResults x o snapshot pos c).map (areaWriteOf x o snapshot c) := by
  rw [stateResults, List.map_map]
  rfl

/-- The lines that a store of states reads: two for continuous variables. -/
def Core.stateLines (c : Core) (x : Site) (o : StStateOps) (pos : Nat) : List Nat :=
  if (x.cls (c.desc o.dd)).kind = 2 then [x.line o.ag.val pos, (x.line o.ag.val pos + 1) % 2048] else [x.line o.ag.val pos]

theorem Core.stateLines_marks {c : Core} {x : Site} {o : StStateOps} {pos : Nat} (clean : c.cleanLine (x.line o.ag.val pos))
    (next : c.cleanLine ((x.line o.ag.val pos + 1) % 2048)) :
    ((c.stateLines x o pos).any fun n => c.linePoison n 0 || c.linePoison n 1) = false := by
  unfold Core.stateLines
  split
  · simp only [List.any_cons, List.any_nil, clean.marks, next.marks, Bool.or_false]
  · simp only [List.any_cons, List.any_nil, clean.marks, Bool.or_false]

theorem stStateCore_eq (o : StStateOps) (snapshot : Bool) (x : Site) (pos : Nat) (w : Work) :
    let ws := (stateResults x o snapshot pos w.core).map (areaWriteOf x o snapshot w.core)
    let poison := (w.core.stateLines x o pos).any fun n => w.core.linePoison n 0 || w.core.linePoison n 1
    stStateCore o snapshot x pos w = if ws.isEmpty then w else
      Work.count { w with
        core := w.core.send [{ op := .area ws, job := w.job.id, step := x.step, alloc := 0, offset := 0, data := 0, poison := poison }],
        hit := w.hit || poison } { conversionSaturations := ((stateResults x o snapshot pos w.core).filter fun e => e.2.2).length } := rfl

theorem Core.send_nil (c : Core) : c.send [] = c := congrArg (fun q => { c with outQ := q }) (List.append_nil _)

/-- One core's part of ST.RES or ST.SNAP, its lines being clean. -/
theorem stStateCore_of_clean {o : StStateOps} {snapshot : Bool} {x : Site} {j : Job} {pos : Nat} {w : Work}
    (clean : w.core.cleanLine (x.line o.ag.val pos)) (next : w.core.cleanLine ((x.line o.ag.val pos + 1) % 2048))
    (same : sameButCounts j w.job) :
    (stStateCore o snapshot x pos w).core = w.core.send (areaBeats x w.job.id (areaWrites x o snapshot pos w.core)) ∧
      (stStateCore o snapshot x pos w).hit = w.hit ∧ sameButCounts j (stStateCore o snapshot x pos w).job := by
  rw [stStateCore_eq, Core.stateLines_marks clean next, ← areaWrites_eq, areaBeats]
  by_cases none : areaWrites x o snapshot pos w.core = []
  · rw [none, if_pos rfl, if_pos List.isEmpty_nil, Core.send_nil]
    exact ⟨rfl, rfl, same⟩
  · rw [if_neg none, if_neg (by rwa [List.isEmpty_iff])]
    exact ⟨rfl, Bool.or_false _, sameButCounts_count (w := { w with core := _, hit := _ }) same _⟩

/-- ST.RES and ST.SNAP in a cluster of which no line is poisoned that they send. -/
theorem stState_spec {s : State} {o : StStateOps} (snapshot : Bool) {x : Site} {j : Job} (acts : Acts s o.cl x j)
    (clean : ∀ pos < 64, ∀ n, x.phys pos = some n → (clusterCore s o.cl n).cleanLine (x.line o.ag.val pos))
    (next : ∀ pos < 64, ∀ n, x.phys pos = some n → (clusterCore s o.cl n).cleanLine ((x.line o.ag.val pos + 1) % 2048)) :
    InCluster s (s.onCluster o.cl (stStateCore o snapshot)) o.cl x id fun pos c d =>
      d = c.send (areaBeats x j.id (areaWrites x o snapshot pos c)) := by
  refine (State.onCluster_parts (I := sameButCounts j) (R := fun n c => c.playaPoison = (clusterCore s o.cl n).playaPoison) acts
    (sameButCounts_refl j) (fun _ _ _ _ => rfl) fun pos inside n served w same marks hit => ?_).2
  obtain ⟨core, clear, counts⟩ := stStateCore_of_clean (snapshot := snapshot) (Core.cleanLine_of_same marks (clean pos inside n served))
    (Core.cleanLine_of_same marks (next pos inside n served)) same
  exact ⟨counts, by rw [core]; exact marks, clear.trans hit, fun old => by rw [core, ← old, ← sameButCounts_id same]⟩

/-! ### The obligation -/

/-- Settles O4, by what each operation takes and sends. -/
theorem loadsAndStores : Obligations.LoadsAndStores := by
  unfold Obligations.LoadsAndStores
  refine ⟨fun s o x j acts => ⟨_, rfl, (ldLine_spec acts).imp_right fun cluster => cluster.imp ?line⟩,
    fun s o x j acts => ⟨_, rfl, (ldSlot_spec acts).imp_right fun cluster => cluster.imp ?slot⟩,
    fun s cl dd x j acts => ⟨_, rfl, ?anchors⟩,
    fun s o x j acts clean => ⟨_, rfl, stLine_spec acts clean⟩,
    fun s o snapshot x j acts clean => ?state⟩
  case line =>
    rintro pos c _ rfl
    obtain ⟨same, lines, words, marks⟩ := c.writeHalf_spec x.step (x.line o.ag.val pos) (bit_lt_two o.half)
      ((List.range 8).map (lineWord c.caravan.data)) c.caravan.poison (c.caravan.exps.take 16)
    refine ⟨by rw [same]; rfl, by rw [same]; rfl, lines, fun w inside => (words w inside).trans (if_congr Iff.rfl ?_ rfl), marks⟩
    rw [List.getD_eq_getElem _ _ (by simp; omega)]
    simp
  case slot =>
    rintro pos c _ rfl
    refine ⟨by rw [Core.writeSlot_eq]; rfl, fun sl w inside => ?_⟩
    exact c.slotWord_writeSlot _ _ _ _ _ sl inside
  case anchors =>
    obtain ⟨job, anchors, cluster⟩ := ldAnch_spec acts dd
    refine ⟨job, ?_, ?_, ?_⟩
    · rw [anchors]
      exact cluster
    · intro pos n serves brings alone
      rw [anchors]
      exact State.anchorsTaken_of_alone dd serves.1 serves.2.1 brings alone
    · intro b none
      rw [anchors]
      exact State.anchorsTaken_of_none dd none
  case state =>
    have spec := stState_spec snapshot acts (fun pos inside n served h half => (clean pos inside n served h half).1)
      (fun pos inside n served h half => (clean pos inside n served h half).2)
    cases snapshot with
    | false => exact ⟨_, rfl, spec⟩
    | true => exact ⟨_, rfl, spec⟩

end Sys2Proof.Machine

/-! PROOF of O5: NOP and the opening and closing of groups. A lane's new group depends on its core as the operation finds it, so the lanes of a
core change each by itself; an INT sum that is delivered fits 32 bits, and its register reads back as it was written. -/

namespace Sys2Proof.Machine

open Sys2Proof Sys2Proof.Safety

/-! ### NOP -/

theorem State.nop_of_not_idle (s : State) (cl : ClusterRef) : s.nop cl false = s := rfl

theorem State.nop_of_no_site {s : State} {cl : ClusterRef} (none : s.site? cl = none) (idle : Bool) : s.nop cl idle = s := by
  cases idle with
  | false => rfl
  | true => simp only [State.nop, none, if_true]

theorem State.nop_of_site {s : State} {cl : ClusterRef} {x : Site} (site : s.site? cl = some x) :
    s.nop cl true = s.modCluster cl.key fun c => { c with idleOffered := c.idleOffered + 1 } := by
  simp only [State.nop, site, if_true]

/-! ### Registers -/

/-- An INT register reads back a sum of 32 bits. -/
theorem intOf_intReg {i : Int} (low : -2 ^ 31 ≤ i) (high : i ≤ 2 ^ 31 - 1) : intOf (intReg i) = i := by
  have small : wrapNat 32 i < 2 ^ 32 := by unfold wrapNat; omega
  have acc : signedOf 32 (wrapNat 32 i) = i := by
    unfold signedOf wrapNat
    split <;> omega
  have reg : (intReg i).toNat = wrapNat 32 i := by
    have wraps : wrapNat 24 ((i - i) / 2 ^ 32) = 0 := by rw [sub_self]; rfl
    rw [intReg, acc, wraps, BitVec.toNat_ofNat]
    exact Nat.mod_eq_of_lt (by unfold wrapNat; omega)
  have value : bitField (wrapNat 32 i) 0 32 = wrapNat 32 i := by
    rw [bitField, pow_zero, Nat.div_one]
    exact Nat.mod_eq_of_lt small
  have wraps : bitField (wrapNat 32 i) 32 24 = 0 := by rw [bitField, Nat.div_eq_of_lt small, Nat.zero_mod]
  rw [intOf, reg, value, wraps, acc, show signedOf 24 0 = 0 from rfl, mul_zero, add_zero]

/-- A register of value zero is empty in every format (R118). -/
theorem regOf_zero (f : AuxFmt) : regOf f .zero = 0 := by
  cases f <;> decide +kernel

/-! ### FLD.OPEN -/

/-- The group that FLD.OPEN starts in lane `l` of a core (R111, R118). -/
def openGroup (x : Site) (o : FldOpenOps) (j : Job) (c : Core) (l : Nat) : Group :=
  let v := c.desc o.dd
  let u := if o.unary then x.unary c v l (x.scored j c v l) else (Val.zero, false)
  match o.grp with
  | .field => { reg := regOf (x.fieldFmt v) u.1, isOpen := true, fmt := x.fieldFmt v, poison := u.2 }
  | .energy => { isOpen := true, fmt := if x.exact then .longsum else .f64 }
  | .statistic => { isOpen := true, fmt := .int }
  | .auxiliary => { isOpen := true, fmt := o.fmt }

theorem Group.opened_zero (f : AuxFmt) : Group.opened f .zero false = { isOpen := true, fmt := f } := by
  rw [Group.opened, regOf_zero]

theorem openLane_eq (x : Site) (o : FldOpenOps) (j : Job) (c : Core) (l : Nat) :
    openLane x o j c l = (c.lane l).setGroup o.grp (openGroup x o j c l) := by
  unfold openLane openGroup
  cases o.grp with
  | field => rfl
  | energy => simp only [Group.opened_zero, Lane.setGroup]
  | statistic => simp only [Group.opened_zero, Lane.setGroup]
  | auxiliary => simp only [Group.opened_zero, Lane.setGroup]

/-- Lanes replaced, each by itself. -/
theorem inLanes_foldl_setLane {ls : List Nat} (once : ls.Nodup) (F : Nat → Lane) (c : Core) :
    InLanes ls c (ls.foldl (fun c l => c.setLane l (F l)) c) fun l _ z => z = F l :=
  inLanes_foldl_modLane once (fun l _ => F l) c

theorem sameButLanes_foldl_setLane (ls : List Nat) (F : Nat → Lane) (c : Core) : sameButLanes c (ls.foldl (fun c l => c.setLane l (F l)) c) :=
  sameButLanes_foldl_modLane ls (fun l _ => F l) c

/-- FLD.OPEN in a cluster. -/
theorem fldOpen_spec {s : State} {o : FldOpenOps} {x : Site} {j : Job} (acts : Acts s o.cl x j) :
    (s.fldOpen o).job? x.slot = some j ∧ InCluster s (s.fldOpen o) o.cl x id fun pos c d => sameButLanes { c with spreadPart := 0 } d ∧
      InLanes (x.lanesOf pos c o.lm (c.desc o.dd).laneRep) c d fun l y z => z = y.setGroup o.grp (openGroup x o j c l) := by
  refine State.onCluster_cores (F := fun pos c =>
    { (x.lanesOf pos c o.lm (c.desc o.dd).laneRep).foldl (fun d l => d.setLane l (openLane x o j c l)) c with spreadPart := 0 })
    acts (fun pos w job => by subst job; rfl) fun pos c => ⟨?_, ?_⟩
  · have same := sameButLanes_foldl_setLane (x.lanesOf pos c o.lm (c.desc o.dd).laneRep) (openLane x o j c) c
    rw [same]
    rfl
  · have lanes := inLanes_foldl_setLane (x.lanesOf_nodup pos c o.lm (c.desc o.dd).laneRep) (openLane x o j c) c
    exact ⟨fun l mem => (lanes.acting l mem).trans (openLane_eq x o j c l), lanes.others⟩

/-! ### FLD.CLOSE -/

/-- A group closed as it is. -/
def Group.shut (g : Group) : Group := { g with isOpen := false, held := true }

/-- A group closed with an INT sum saturated to 32 bits (R120). -/
def Group.saturated (g : Group) : Group :=
  if g.fmt = .int then
    { g.shut with reg := intReg (saturate32 (intOf g.reg)).1, sticky := g.sticky || (saturate32 (intOf g.reg)).2 }
  else g.shut

theorem Group.closed_eq (g : Group) (saturates : Bool) : g.closed saturates = if saturates then g.saturated else g.shut := by
  unfold Group.closed Group.saturated Group.shut
  cases saturates with
  | false => rfl
  | true => simp only [Bool.true_and, beq_iff_eq, if_true]

/-- A sum is moved just where it is outside the range. -/
theorem saturate32_moves (i : Int) : (saturate32 i).2 = decide (i ≠ (saturate32 i).1) := by
  unfold saturate32
  split
  case isTrue low => exact (decide_eq_true (by dsimp only; omega)).symm
  case isFalse =>
    split
    case isTrue high => exact (decide_eq_true (by dsimp only; omega)).symm
    case isFalse => exact (decide_eq_false (not_not.2 rfl)).symm

/-- What a closed group delivers: one rounding to F32, of the saturated sum on the INT path (R120, R125, R126). -/
theorem Group.deliver_saturated (g : Group) :
    g.saturated.deliver = rneF32 (if g.fmt = .int then .ofInt (saturate32 (intOf g.reg)).1 else regVal g.fmt g.reg) := by
  unfold Group.deliver Group.saturated
  split
  case isTrue int =>
    have reads : intOf (intReg (saturate32 (intOf g.reg)).1) = (saturate32 (intOf g.reg)).1 := by
      rw [saturate32_eq]
      exact intOf_intReg (by omega) (by omega)
    simp only [Group.shut, int, regVal, reads]
  case isFalse => rfl

/-- A lane of which a group is closed (R227). -/
def closeLane (sel : GroupSel) (dest : CloseDest) (y : Lane) : Lane × Counts :=
  match dest with
  | .decision => y.toDecision sel
  | .partOut => y.toPart sel
  | .hold => y.toHold sel

/-- The group that FLD.CLOSE closes. -/
def closedGroup (o : FldCloseOps) : GroupSel := if o.aux then .auxiliary else .field

/-- FLD.CLOSE in one lane of a core, behind others. -/
def closeStep (o : FldCloseOps) (a : Work) (l : Nat) : Work :=
  Work.count { a with core := a.core.setLane l (closeLane (closedGroup o) o.dest (a.core.lane l)).1 } (closeLane (closedGroup o) o.dest (a.core.lane l)).2

theorem fldCloseCore_eq_foldl (o : FldCloseOps) (x : Site) (pos : Nat) (w : Work) :
    fldCloseCore o x pos w = (x.lanes pos w.core o.lm).foldl (closeStep o) w := rfl

theorem closeStep_job {o : FldCloseOps} {j : Job} {a : Work} (l : Nat) (same : sameButCounts j a.job) : sameButCounts j (closeStep o a l).job :=
  sameButCounts_count (w := { a with core := a.core.setLane l (closeLane (closedGroup o) o.dest (a.core.lane l)).1 }) same _

/-- FLD.CLOSE in a cluster. -/
theorem fldClose_spec {s : State} {o : FldCloseOps} {x : Site} {j : Job} (acts : Acts s o.cl x j) :
    (∃ k, (s.fldClose o).job? x.slot = some k ∧ sameButCounts j k) ∧ InCluster s (s.fldClose o) o.cl x id fun pos c d =>
      sameButLanes c d ∧ InLanes (x.lanes pos c o.lm) c d fun _ y z => z = (closeLane (closedGroup o) o.dest y).1 := by
  refine State.onCluster_parts (I := sameButCounts j) (R := fun _ _ => True) acts (sameButCounts_refl j) (fun _ _ _ _ => trivial)
    fun pos inside n served w same _ clean => ?_
  rw [fldCloseCore_eq_foldl]
  refine ⟨Work.foldl_job (fun _ l => closeStep_job l) _ w same, trivial, ?_, fun old => ?_⟩
  · exact (Work.foldl_hit (f := closeStep o) (fun _ _ => rfl) _ w).trans clean
  · rw [← old, Work.foldl_core (g := fun c l => c.modLane l fun y => (closeLane (closedGroup o) o.dest y).1) (fun _ _ => rfl)]
    exact ⟨sameButLanes_foldl_modLane _ (fun _ y => (closeLane (closedGroup o) o.dest y).1) w.core,
      inLanes_foldl_modLane (x.lanes_nodup pos w.core o.lm) (fun _ y => (closeLane (closedGroup o) o.dest y).1) w.core⟩

/-- A lane whose group is closed to hold (R120, R148). -/
theorem Lane.toHold_fst (y : Lane) (sel : GroupSel) :
    (y.toHold sel).1 = y.setGroup sel (if sel = .field then (y.group sel).shut else (y.group sel).saturated) := by
  cases sel <;> simp [Lane.toHold, Group.closed_eq]

/-- A lane whose group is closed to the decision input. -/
theorem Lane.toDecision_fst (y : Lane) (sel : GroupSel) :
    (y.toDecision sel).1 = { y.setGroup sel (y.group sel).saturated with
      decIn := (y.group sel).saturated.deliver, decValid := true, decPoison := (y.group sel).saturated.poison,
      scoreSeen := y.scoreSeen || decide (sel = .field) } := by
  simp only [Lane.toDecision, Group.closed_eq, if_true]
  rfl

/-- A lane whose group is closed to the part output (R133). -/
theorem Lane.toPart_fst (y : Lane) (sel : GroupSel) :
    (y.toPart sel).1 = { y.setGroup sel (y.group sel).shut with
      partOut := (y.group sel).reg, partOutFmt := (y.group sel).fmt, partOutPoison := (y.group sel).poison,
      scoreSeen := y.scoreSeen || decide (sel = .field) } := by
  simp only [Lane.toPart, Group.closed_eq, Bool.false_eq_true, if_false]
  rfl

theorem Group.saturated_poison (g : Group) : g.saturated.poison = g.poison := by
  unfold Group.saturated
  split <;> rfl

/-- The saturated group, by the bounds of the range. -/
theorem Group.saturated_eq (g : Group) :
    g.saturated =
      let i := max (-2 ^ 31) (min (2 ^ 31 - 1) (intOf g.reg))
      let shut : Group := { g with isOpen := false, held := true }
      if g.fmt = .int then { shut with reg := intReg i, sticky := g.sticky || decide (intOf g.reg ≠ i) } else shut := by
  simp only [Group.saturated, saturate32_moves, saturate32_eq]
  rfl

/-! ### The obligation -/

/-- Settles O5, by what an open starts from and what a close delivers. -/
theorem fieldGroups : Obligations.FieldGroups := by
  unfold Obligations.FieldGroups
  refine ⟨fun s cl slot idle => ⟨_, rfl, (State.nop_kept (A := [.clusters]) cl idle (Kept.refl s) (List.Subset.refl _)).frame, ?still, fun none => State.nop_of_no_site none idle, ?idle⟩,
    fun s o x j acts => ⟨_, rfl, fldOpen_spec acts⟩, fun s o x j acts => ⟨_, rfl, ?close⟩⟩
  case still =>
    rintro rfl
    exact s.nop_of_not_idle cl
  case idle =>
    rintro x rfl site k
    rw [State.nop_of_site site, State.cluster_modCluster]
    split
    case isTrue own => subst own; rfl
    case isFalse => rfl
  case close =>
    obtain ⟨⟨k, job, n, counts⟩, cluster⟩ := fldClose_spec acts
    refine ⟨⟨n, counts ▸ job⟩, cluster.imp fun pos c d => fun ⟨same, lanes⟩ => ⟨same, lanes.imp fun l mem closed => ?_⟩⟩
    generalize c.lane l = y at closed
    rw [closed]
    unfold closeLane closedGroup
    dsimp only
    generalize sel : (if o.aux then GroupSel.auxiliary else .field) = g
    cases o.dest with
    | decision =>
      dsimp only
      rw [Lane.toDecision_fst, Group.deliver_saturated, Group.saturated_poison, saturate32_eq, Group.saturated_eq]
      cases g <;> rfl
    | partOut =>
      dsimp only
      rw [Lane.toPart_fst]
      cases g <;> rfl
    | hold =>
      dsimp only
      rw [Lane.toHold_fst, ← sel, Group.saturated_eq]
      cases o.aux <;> rfl

end Sys2Proof.Machine

/-! PROOF of O6: FLD.ACC. Every lane adds its products from the core as the word finds it, so the lanes change each by itself; what the word does
once in a core comes after them. -/

namespace Sys2Proof.Machine

open Sys2Proof Sys2Proof.Safety

/-! ### One lane -/

/-- The lane of a core as FIRST leaves it: FIELD opened with the unary value of part 0 (R227). -/
def accOpened (x : Site) (o : FldAccOps) (j : Job) (c : Core) (l : Nat) : Lane :=
  let v := c.desc o.dd
  let u := if v.partIndex = 0 then x.unary c v l (x.scored j c v l) else (Val.zero, false)
  if o.first then { c.lane l with field := Group.opened (x.fieldFmt v) u.1 u.2 } else c.lane l

/-- The half or quarter of the lanes that runs in a core (R98). -/
def accRun (o : FldAccOps) (c : Core) : Nat := if o.first then 0 else c.spreadPart

/-- A lane takes a product of a spread word only where its half or quarter runs (R98). -/
theorem takes_iff (spread : Bool) (shape ran l : Nat) : (!spread || spreadTakes shape ran l) = true ↔
    spread = false ∨ (shape = 4 → l / 16 = ran % 2) ∧ (shape = 5 → l / 8 = ran % 4) := by
  rw [Bool.or_eq_true, Bool.not_eq_true']
  refine or_congr_right ?_
  unfold spreadTakes
  split
  case h_1 => simp
  case h_2 => simp
  case h_3 four five => exact ⟨fun _ => ⟨fun h => absurd h four, fun h => absurd h five⟩, fun _ => rfl⟩

theorem Lane.setGroup_group (y : Lane) (sel : GroupSel) : y.setGroup sel (y.group sel) = y := by cases sel <;> rfl

/-- The lane of a core with the products of the word added to the group that AUX names (R98, R117, R228). -/
def accAdded (x : Site) (o : FldAccOps) (j : Job) (c : Core) (pos l : Nat) : Lane :=
  let v := c.desc o.dd
  let k := x.cls v
  let q := x.coupling pos c o k.shape (k.km1 + 1)
  let n := accProducts k.shape v.spread o.form
  let sel : GroupSel := if o.aux then .auxiliary else .field
  let y := accOpened x o j c l
  let ps := (List.range n.1).map fun i => accProduct x c o v q (x.scored j c v l) pos l i
  if v.spread = false ∨ (k.shape = 4 → l / 16 = accRun o c % 2) ∧ (k.shape = 5 → l / 8 = accRun o c % 4) then
    y.setGroup sel ((y.group sel).add n.2 (ps.map fun e => roundAcc (y.group sel).fmt e.1) (q.poison || ps.any (·.2)))
  else y

/-- One lane's part of FLD.ACC: FIRST, the products, LAST. -/
theorem accLane_eq (x : Site) (o : FldAccOps) (j : Job) (c : Core) (pos l : Nat) : accLane x o j c pos l =
    let y := accAdded x o j c pos l
    if o.last then (if (c.desc o.dd).part then y.toPart .field else y.toDecision .field) else (y, {}) := by
  have added : ∀ (y : Lane) (sel : GroupSel) (t : Bool) (g : Group),
      y.setGroup sel (if t then g else y.group sel) = if t = true then y.setGroup sel g else y := by
    intro y sel t g
    cases t with
    | false => exact y.setGroup_group sel
    | true => rfl
  unfold accLane
  dsimp only
  rw [added, if_congr (takes_iff _ _ _ _) rfl rfl]
  rfl

/-- The counts of a job play no part in it. -/
theorem accLane_sameButCounts {j k : Job} (same : sameButCounts j k) (x : Site) (o : FldAccOps) (c : Core) (pos l : Nat) :
    accLane x o k c pos l = accLane x o j c pos l := by
  obtain ⟨n, rfl⟩ := same
  rfl

/-! ### One core -/

/-- FLD.ACC in one lane of a core that was `c`, behind others. -/
def accStep (x : Site) (o : FldAccOps) (j : Job) (c : Core) (pos : Nat) (a : Work) (l : Nat) : Work :=
  Work.count { a with core := a.core.setLane l (accLane x o j c pos l).1 } (accLane x o j c pos l).2

/-- The lanes of a core after FLD.ACC. -/
def Core.accLanes (c : Core) (x : Site) (o : FldAccOps) (j : Job) (pos : Nat) : Core :=
  (x.lanesOf pos c o.lm (c.desc o.dd).laneRep).foldl (fun d l => d.setLane l (accLane x o j c pos l).1) c

/-- What FLD.ACC does once in a core, its lanes done: LAST advances UNARY and FK, a spread word the running lanes, and a caravan operand is
consumed (R98, R222, R227, R230). -/
def Core.accFinish (c : Core) (x : Site) (o : FldAccOps) : Core :=
  let v := c.desc o.dd
  let k := x.cls v
  { c with
    descs := if o.last then (c.setDesc o.dd { v with unary := (v.unary + v.unaryStep) % 2 ^ 32 }).descs else c.descs
    fk := if o.last ∧ k.kind = 1 then (if c.fk + 1 ≤ k.km1 then c.fk + 1 else 0) else c.fk
    spreadPart := if v.spread then (accRun o c + 1) % 4 else c.spreadPart
    caravan := if o.src = .caravan then { c.caravan with valid := false } else c.caravan }

section

variable (c : Core) (x : Site) (o : FldAccOps) (j : Job) (pos : Nat)

theorem Core.sameButLanes_accLanes : sameButLanes c (c.accLanes x o j pos) :=
  sameButLanes_foldl_setLane _ (fun l => (accLane x o j c pos l).1) c

theorem Core.inLanes_accLanes :
    InLanes (x.lanesOf pos c o.lm (c.desc o.dd).laneRep) c (c.accLanes x o j pos) fun l _ z => z = (accLane x o j c pos l).1 :=
  inLanes_foldl_setLane (x.lanesOf_nodup _ _ _ _) (fun l => (accLane x o j c pos l).1) c

end

/-- What stands at the end of a core's part of FLD.ACC, by the model's three steps. -/
theorem Core.accFinish_eq (c : Core) (x : Site) (o : FldAccOps) :
    let c1 := if o.last then lastCore x o.dd c else c
    let c2 : Core := if (c.desc o.dd).spread then { c1 with spreadPart := (accRun o c + 1) % 4 } else c1
    (if o.src == .caravan then { c2 with caravan := { c2.caravan with valid := false } } else c2) = c.accFinish x o := by
  dsimp only
  unfold Core.accFinish lastCore
  cases last : o.last <;> cases spread : (c.desc o.dd).spread <;> cases src : o.src <;> simp [spread, Core.setDesc]

theorem Core.desc_accFinish (c : Core) (x : Site) (o : FldAccOps) (i : Fin 4) : (c.accFinish x o).desc i =
    if i = o.dd then (if o.last then { c.desc o.dd with unary := ((c.desc o.dd).unary + (c.desc o.dd).unaryStep) % 2 ^ 32 } else c.desc o.dd)
    else c.desc i := by
  show mget {} (if o.last then (c.setDesc o.dd _).descs else c.descs) i.val = _
  cases o.last with
  | true => exact c.desc_setDesc o.dd i _
  | false =>
    simp only [Bool.false_eq_true, if_false]
    split
    case isTrue own => rw [own]; rfl
    case isFalse => rfl

theorem fldAccCore_eq (o : FldAccOps) (x : Site) (pos : Nat) (w : Work) :
    let r := (x.lanesOf pos w.core o.lm (w.core.desc o.dd).laneRep).foldl (accStep x o w.job w.core pos) w
    fldAccCore o x pos w = { r with core := (w.core.accLanes x o w.job pos).accFinish x o } := by
  have core : ((x.lanesOf pos w.core o.lm (w.core.desc o.dd).laneRep).foldl (accStep x o w.job w.core pos) w).core =
      w.core.accLanes x o w.job pos :=
    Work.foldl_core (g := fun d l => d.setLane l (accLane x o w.job w.core pos l).1) (fun _ _ => rfl) _ w
  have same := w.core.sameButLanes_accLanes x o w.job pos
  have desc : (w.core.accLanes x o w.job pos).desc o.dd = w.core.desc o.dd := by rw [same]; rfl
  have part : (w.core.accLanes x o w.job pos).spreadPart = w.core.spreadPart := by rw [same]
  dsimp only
  rw [← Core.accFinish_eq, ← core]
  rw [← core] at desc part
  rw [desc, accRun, part]
  rfl

/-- FLD.ACC in a cluster, with no parity failure. -/
theorem fldAcc_spec {s : State} {o : FldAccOps} {x : Site} {j : Job} (acts : Acts s o.cl x j) (parity : o.parity = none) :
    (∃ k, (s.fldAcc o).job? x.slot = some k ∧ sameButCounts j k) ∧
      InCluster s (s.fldAcc o) o.cl x (fun a => if o.inc then agStep (agStep a o.agc.val) o.ags.val else a) fun pos c d =>
        d = (c.accLanes x o j pos).accFinish x o := by
  have run : s.fldAcc o = s.onCluster o.cl (fldAccCore o) fun a => if o.inc then agStep (agStep a o.agc.val) o.ags.val else a := by
    simp only [State.fldAcc, parity, Option.bind_none]
  rw [run]
  refine State.onCluster_parts (I := sameButCounts j) (R := fun _ _ => True) acts (sameButCounts_refl j) (fun _ _ _ _ => trivial)
    fun pos inside n served w same _ clean => ?_
  rw [fldAccCore_eq]
  refine ⟨?_, trivial, ?_, fun old => ?_⟩
  · exact Work.foldl_job (f := accStep x o w.job w.core pos) (fun a l same => sameButCounts_count (w := { a with core := _ }) same _) _ w same
  · exact (Work.foldl_hit (f := accStep x o w.job w.core pos) (fun _ _ => rfl) _ w).trans clean
  · have lanes : ∀ c, Core.accLanes c x o w.job pos = c.accLanes x o j pos := fun c => by
      simp only [Core.accLanes, accLane_sameButCounts same]
    rw [← old, lanes]

/-! ### The obligation -/

/-- Settles O6: the lanes' sums, and what LAST, a spread word and a caravan operand do once in a core. Which half or quarter of the lanes takes the
first product of a spread tile is log entry 102 of the model. -/
theorem fieldAccumulate : Obligations.FieldAccumulate := by
  unfold Obligations.FieldAccumulate
  intro s o x j acts parity
  obtain ⟨⟨k, job, n, counts⟩, cluster⟩ := fldAcc_spec acts parity
  refine ⟨_, rfl, ⟨n, counts ▸ job⟩, cluster.imp ?_⟩
  rintro pos c _ rfl
  have same := c.sameButLanes_accLanes x o j pos
  have lanes := c.inLanes_accLanes x o j pos
  generalize c.accLanes x o j pos = e at same lanes
  have desc : ∀ i, e.desc i = c.desc i := fun i => by rw [same]; rfl
  refine ⟨?_, ?_, ?_, fun i other => ?_, ?_, fun l mem => ?_, lanes.others⟩
  · rw [same]
    rfl
  · rw [show (e.accFinish x o).caravan = if o.src = .caravan then { e.caravan with valid := false } else e.caravan from rfl, same]
    cases o.src with
    | playa => exact congrArg (fun b => { c.caravan with valid := b }) (Bool.and_true _).symm
    | caravan => exact congrArg (fun b => { c.caravan with valid := b }) (Bool.and_false _).symm
  · rw [Core.desc_accFinish, if_pos rfl, desc]
  · rw [Core.desc_accFinish, if_neg other, desc]
  · rw [same]
    rfl
  · have taken := lanes.acting l mem
    rw [accLane_eq] at taken
    refine taken.trans ?_
    split <;> rfl

end Sys2Proof.Machine

/-! PROOF of O10: the exchange operations. EXC.BETA changes lanes by themselves; the others act in the ledger core alone, where they fold over the
lanes: two pairs of one exchange have no slot in common (R103), and each weight and each ancestor stands at its own replica. -/

namespace Sys2Proof.Machine

open Sys2Proof Sys2Proof.Safety

/-! ### EXC.BETA -/

/-- A lane with its β loaded (R95). -/
def betaLane (x : Site) (j : Job) (dd : Fin 4) (c : Core) (l : Nat) (y : Lane) : Lane :=
  { y with betaLoaded := true, beta := j.betaAt x.m x.input (j.slotOf ((c.desc dd).laneRep l)) j.step }

/-- EXC.BETA in a cluster. -/
theorem excBeta_spec {s : State} {cl : ClusterRef} {x : Site} {j : Job} (acts : Acts s cl x j) (lm dd : Fin 4) :
    (s.excBeta cl lm dd).job? x.slot = some j ∧ InCluster s (s.excBeta cl lm dd) cl x id fun pos c d =>
      sameButLanes c d ∧ InLanes (x.lanesOf pos c lm (c.desc dd).laneRep) c d fun l y z => z = betaLane x j dd c l y :=
  State.onCluster_cores (F := fun pos c => (x.lanesOf pos c lm (c.desc dd).laneRep).foldl (fun d l => d.modLane l (betaLane x j dd c l)) c) acts
    (fun pos w job => by subst job; rfl) fun pos c =>
    ⟨sameButLanes_foldl_modLane _ (betaLane x j dd c) c, inLanes_foldl_modLane (x.lanesOf_nodup _ _ _ _) (betaLane x j dd c) c⟩

/-! ### Operations of the ledger core (R231) -/

section

variable {x : Site} {f : Site → Nat → Work → Work}

/-- Positions at which an operation does nothing. -/
theorem stepCore_idle {ps : List Nat} (idle : ∀ q ∈ ps, ∀ w, f x q w = w) (acc : SMap Core × Job × Bool) :
    (ps.foldl (stepCore x f) acc).2 = acc.2 ∧ ∀ n, mget {} (ps.foldl (stepCore x f) acc).1 n = mget {} acc.1 n := by
  induction ps generalizing acc with
  | nil => exact ⟨rfl, fun _ => rfl⟩
  | cons p ps ih =>
    obtain ⟨job, cores⟩ := ih (fun q mem => idle q (.tail _ mem)) (stepCore x f acc p)
    rw [List.foldl_cons]
    cases served : x.phys p with
    | none =>
      rw [stepCore_unserved served] at job cores ⊢
      exact ⟨job, cores⟩
    | some n =>
      rw [stepCore_served served, idle p (.head _)] at job cores ⊢
      refine ⟨job, fun m => (cores m).trans ?_⟩
      rw [mget_mset]
      split
      case isTrue same => rw [same]
      case isFalse => rfl

/-- An operation that acts at one position alone: what becomes of its job. -/
theorem State.onCluster_at {s : State} {cl : ClusterRef} {j : Job} {pos n : Nat} (acts : Acts s cl x j) (inside : pos < 64)
    (served : x.phys pos = some n) (others : ∀ q, q ≠ pos → ∀ w, f x q w = w)
    (clean : (f x pos { core := clusterCore s cl n, job := j }).hit = false) :
    (s.onCluster cl f).job? x.slot = some (f x pos { core := clusterCore s cl n, job := j }).job := by
  obtain ⟨before, after, split⟩ := List.append_of_mem (List.mem_range.2 inside)
  have once : (before ++ pos :: after).Nodup := split ▸ List.nodup_range
  obtain ⟨_, fresh, apart⟩ := List.nodup_append.1 once
  have fresh := (List.nodup_cons.1 fresh).1
  obtain ⟨start, cores⟩ := stepCore_idle (fun q mem => others q fun same => apart q mem pos (.head _) same)
    ((s.cluster cl.key).cores, j, false)
  have finish := (stepCore_idle (fun q mem => others q fun same => fresh (same ▸ mem))
    (stepCore x f (before.foldl (stepCore x f) ((s.cluster cl.key).cores, j, false)) pos)).1
  have result : ((List.range 64).foldl (stepCore x f) ((s.cluster cl.key).cores, j, false)).2 =
      ((f x pos { core := clusterCore s cl n, job := j }).job, (f x pos { core := clusterCore s cl n, job := j }).hit) := by
    rw [split, List.foldl_append, List.foldl_cons, finish, stepCore_served served, cores n, start]
    rfl
  simp only [State.onCluster, acts.1, acts.2, result, clean, Bool.false_eq_true, if_false]
  rw [State.job?_setJob, if_pos rfl]

end

/-- A cluster has one ledger core at most. -/
theorem Site.isLedger_unique {x : Site} {pos q : Nat} (here : x.isLedger pos = true) (there : x.isLedger q = true) : q = pos := by
  simp only [Site.isLedger, Bool.and_eq_true, beq_iff_eq] at here there
  exact there.2.symm.trans here.2

/-- π and the ancestors are all that an operation of the ledger core takes from the table into its job. -/
theorem Job.readLedger_eq (j : Job) (c : Core) (first : Nat) :
    j.readLedger c first = { j with perm := (j.readLedger c first).perm, ancestors := (j.readLedger c first).ancestors } := by
  unfold Job.readLedger
  split <;> rfl

section

variable (j : Job) (c : Core) (first : Nat)

@[simp] theorem Job.readLedger_body : (j.readLedger c first).body = j.body := by rw [Job.readLedger_eq]

@[simp] theorem Job.readLedger_step : (j.readLedger c first).step = j.step := by rw [Job.readLedger_eq]

@[simp] theorem Job.readLedger_seed : (j.readLedger c first).seed = j.seed := by rw [Job.readLedger_eq]

@[simp] theorem Job.readLedger_states : (j.readLedger c first).states = j.states := by rw [Job.readLedger_eq]

@[simp] theorem Job.readLedger_exchAccepts : (j.readLedger c first).exchAccepts = j.exchAccepts := by rw [Job.readLedger_eq]

@[simp] theorem Job.readLedger_logWeights : (j.readLedger c first).logWeights = j.logWeights := by rw [Job.readLedger_eq]

@[simp] theorem Job.readLedger_lmax : (j.readLedger c first).lmax = j.lmax := by rw [Job.readLedger_eq]

@[simp] theorem Job.readLedger_weights : (j.readLedger c first).weights = j.weights := by rw [Job.readLedger_eq]

@[simp] theorem Job.readLedger_resamples : (j.readLedger c first).resamples = j.resamples := by rw [Job.readLedger_eq]

@[simp] theorem Job.readLedger_logWeight (m : Bytes) (en : Nat → DWord) (r : Nat) :
    (j.readLedger c first).logWeight m en r = j.logWeight m en r := by
  rw [Job.readLedger_eq]
  rfl

end

section

variable {s : State} {o : ExcOps} {x : Site} {j : Job} {pos n : Nat} {acts : Site → Job → Bool}
  {f : Site → (Nat → DWord) → List Nat → Work → Work}

theorem ledgerCore_idle {w : Work} (idle : (x.isLedger pos && acts x w.job) = false) : ledgerCore o acts f x pos w = w :=
  if_neg (ne_true_of_eq_false idle)

theorem ledgerCore_acting {w : Work} (acting : (x.isLedger pos && acts x w.job) = true) :
    let first := x.line o.agt.val pos
    let r := f x (w.job.tableEnergy w.core first) (x.lanes pos w.core o.lm) { w with job := w.job.readLedger w.core first }
    ledgerCore o acts f x pos w =
      { r with core := r.core.writeLedger x.step first r.job.ledgerLines, job := { r.job with ledgerLine := some first } } :=
  if_pos acting

/-- Every other core of the cluster stands (R231). -/
theorem ledgerCore_other (ledger : x.isLedger pos = true) (q : Nat) (other : q ≠ pos) (w : Work) : ledgerCore o acts f x q w = w := by
  have plain : x.isLedger q = false := Bool.eq_false_iff.2 fun there => other (Site.isLedger_unique ledger there)
  exact ledgerCore_idle (by rw [plain, Bool.false_and])

/-- The job after an operation of the ledger core that has an effect in the step. -/
theorem State.onCluster_ledger (site : Acts s o.cl x j) (serves : Serves x pos n) (ledger : x.isLedger pos = true) (effect : acts x j = true)
    (clean : ∀ en ls w, (f x en ls w).hit = w.hit) :
    let c := clusterCore s o.cl n
    let first := x.line o.agt.val pos
    (s.onCluster o.cl (ledgerCore o acts f)).job? x.slot = some
      { (f x (j.tableEnergy c first) (x.lanes pos c o.lm) { core := c, job := j.readLedger c first }).job with ledgerLine := some first } := by
  have acting := fun w (job : w.job = j) => ledgerCore_acting (o := o) (acts := acts) (f := f) (x := x) (pos := pos) (w := w)
    (by rw [job, ledger, effect, Bool.and_self])
  have run := State.onCluster_at site serves.1 serves.2.1 (ledgerCore_other ledger) (by rw [acting _ rfl]; exact clean _ _ _)
  rw [acting _ rfl] at run
  exact run

/-- In a step in which it has none, the job stands. -/
theorem State.onCluster_ledger_idle (site : Acts s o.cl x j) (serves : Serves x pos n) (ledger : x.isLedger pos = true) (idle : acts x j = false) :
    (s.onCluster o.cl (ledgerCore o acts f)).job? x.slot = some j := by
  have here := fun w (job : w.job = j) => ledgerCore_idle (o := o) (acts := acts) (f := f) (x := x) (pos := pos) (w := w)
    (by rw [job, idle, Bool.and_false])
  have run := State.onCluster_at site serves.1 serves.2.1 (ledgerCore_other ledger) (by rw [here _ rfl])
  rw [here _ rfl] at run
  exact run

end

/-! ### EXC.PAIR (R103 to R105) -/

/-- Two jobs agree but for π, the counts of accepted exchanges and the others. -/
def sameButPairs (j k : Job) : Prop := k = { j with perm := k.perm, exchAccepts := k.exchAccepts, counts := k.counts }

theorem sameButPairs_refl (j : Job) : sameButPairs j j := rfl

theorem sameButPairs_trans {i j k : Job} (h : sameButPairs i j) (g : sameButPairs j k) : sameButPairs i k := by
  unfold sameButPairs at *
  rw [g, h]

/-- π is the identity, or has a place for each slot. -/
def permFits (j : Job) : Prop := j.perm = [] ∨ j.perm.length = j.body.replicas

theorem Job.pi_swapSlots {j : Job} (fits : permFits j) {a : Nat} (inside : a + 1 < j.body.replicas) (b : Nat) :
    (j.swapSlots a).pi b = if b = a then j.pi (a + 1) else if b = a + 1 then j.pi a else j.pi b := by
  have full : (if j.perm.isEmpty then List.range j.body.replicas else j.perm).length = j.body.replicas ∧
      (if j.perm.isEmpty then List.range j.body.replicas else j.perm).getD b b = j.pi b := by
    rcases fits with none | length
    · rw [none, if_pos List.isEmpty_nil, Job.pi, none, List.getD_nil]
      refine ⟨List.length_range, ?_⟩
      rw [List.getD_eq_getElem?_getD]
      by_cases small : b < j.body.replicas
      · rw [List.getElem?_range small, Option.getD_some]
      · rw [List.getElem?_eq_none (by rw [List.length_range]; omega), Option.getD_none]
    · have filled : j.perm.isEmpty = false := by
        rw [List.isEmpty_eq_false_iff]
        rintro none
        rw [none, List.length_nil] at length
        omega
      rw [filled, if_neg Bool.false_ne_true]
      exact ⟨length, rfl⟩
  obtain ⟨length, value⟩ := full
  unfold Job.swapSlots Job.pi
  dsimp only
  generalize (if j.perm.isEmpty then List.range j.body.replicas else j.perm) = p at length value ⊢
  simp only [List.getD_eq_getElem?_getD, List.getElem?_set, List.length_set, length] at value ⊢
  by_cases upper : b = a + 1
  · subst upper
    rw [if_pos rfl, if_pos inside, if_neg (by omega), if_pos rfl]
    rfl
  · rw [if_neg (Ne.symm upper), if_neg upper]
    by_cases lower : b = a
    · subst lower
      rw [if_pos rfl, if_pos (by omega), if_pos rfl]
      rfl
    · rw [if_neg (Ne.symm lower), if_neg lower]
      exact value

/-- A pair of slots swaps (R104, R105). -/
def Job.swaps (j : Job) (m input : Bytes) (en : Nat → DWord) (e a : Nat) : Bool :=
  let z := pairZ j m input en a
  !z.isNan && decide ((jobDraw j.seed a 0 3 e).toNat < expq z)

/-- Whether a pair swaps depends on the replicas of its two slots alone. -/
theorem Job.swaps_congr {j k : Job} (same : sameButPairs j k) {a : Nat} (lower : k.pi a = j.pi a) (upper : k.pi (a + 1) = j.pi (a + 1))
    (m input : Bytes) (en : Nat → DWord) (e : Nat) : k.swaps m input en e a = j.swaps m input en e a := by
  have body : k.body = j.body := by rw [same]
  have step : k.step = j.step := by rw [same]
  have seed : k.seed = j.seed := by rw [same]
  have beta : ∀ b t, k.slotBeta m input b t = j.slotBeta m input b t := fun b t => by unfold Job.slotBeta; rw [body]
  have z : pairZ k m input en a = pairZ j m input en a := by unfold pairZ; rw [beta, beta, step, lower, upper]
  unfold Job.swaps
  rw [z, seed]

/-- From `j` to `k` a pair of slots, the lower one `a`, is decided. -/
structure PairDecided (swaps : Bool) (a : Nat) (j k : Job) : Prop where
  lower : k.pi a = if swaps then j.pi (a + 1) else j.pi a
  upper : k.pi (a + 1) = if swaps then j.pi a else j.pi (a + 1)
  accepts : mget 0 k.exchAccepts a = if swaps then min (mget 0 j.exchAccepts a + 1) (2 ^ 32 - 1) else mget 0 j.exchAccepts a

/-- From `j` to `k` slots other than those of the pairs `as` keep their replicas, and the other pairs their counts. -/
structure PairsApart (as : List Nat) (j k : Job) : Prop where
  same : sameButPairs j k
  fits : permFits j → permFits k
  pi : ∀ b, (∀ a ∈ as, b ≠ a ∧ b ≠ a + 1) → k.pi b = j.pi b
  accepts : ∀ b, b ∉ as → mget 0 k.exchAccepts b = mget 0 j.exchAccepts b

theorem PairsApart.refl (as : List Nat) (j : Job) : PairsApart as j j := ⟨sameButPairs_refl j, id, fun _ _ => rfl, fun _ _ => rfl⟩

theorem PairsApart.cons {a : Nat} {as : List Nat} {i j k : Job} (h : PairsApart [a] i j) (g : PairsApart as j k) : PairsApart (a :: as) i k where
  same := sameButPairs_trans h.same g.same
  fits := fun f => g.fits (h.fits f)
  pi b apart := (g.pi b fun _ mem => apart _ (.tail _ mem)).trans (h.pi b fun _ mem => List.mem_singleton.1 mem ▸ apart a (.head _))
  accepts b apart := (g.accepts b fun mem => apart (.tail _ mem)).trans (h.accepts b fun mem => apart (List.mem_singleton.1 mem ▸ .head _))

section

variable {m input : Bytes} {en : Nat → DWord} {e : Nat}

/-- One pair decided. -/
theorem decidePair_apart (j : Job) (fits : permFits j) (a : Nat) : PairsApart [a] j (decidePair m input en e j a) := by
  unfold decidePair
  split
  case isTrue => exact .refl _ j
  case isFalse inside =>
    dsimp only
    split
    case isTrue => exact ⟨rfl, id, fun _ _ => rfl, fun _ _ => rfl⟩
    case isFalse =>
      split
      case isTrue =>
        refine ⟨rfl, fun _ => .inr ?_, fun b apart => ?_, fun b apart => ?_⟩
        · show ((List.set _ _ _).set _ _).length = j.body.replicas
          rw [List.length_set, List.length_set]
          split
          case isTrue => exact List.length_range
          case isFalse filled => exact fits.resolve_left fun none => filled (by rw [none]; rfl)
        · obtain ⟨lower, upper⟩ := apart a (.head _)
          rw [Job.pi_swapSlots fits (by omega), if_neg lower, if_neg upper]
        · exact mget_mset_other _ _ _ fun same => apart (same ▸ .head _)
      case isFalse => exact .refl _ j

theorem decidePair_decided (j : Job) (fits : permFits j) {a : Nat} (inside : a + 1 < j.body.replicas) :
    PairDecided (j.swaps m input en e a) a j (decidePair m input en e j a) := by
  unfold decidePair Job.swaps
  rw [if_neg (by omega)]
  dsimp only
  cases nan : (pairZ j m input en a).isNan with
  | true => exact ⟨rfl, rfl, rfl⟩
  | false =>
    simp only [Bool.false_eq_true, if_false, Bool.not_false, Bool.true_and]
    split
    case isTrue swaps =>
      refine ⟨?_, ?_, ?_⟩
      · rw [Job.pi_swapSlots fits inside, if_pos rfl, if_pos (decide_eq_true swaps)]
      · rw [Job.pi_swapSlots fits inside, if_neg (by omega), if_pos rfl, if_pos (decide_eq_true swaps)]
      · rw [if_pos (decide_eq_true swaps)]
        exact mget_mset_self _ _ _ _
    case isFalse stays =>
      have stays := mt of_decide_eq_true stays
      exact ⟨(if_neg stays).symm, (if_neg stays).symm, (if_neg stays).symm⟩

theorem foldl_decidePair_states (ls : List Nat) (b : Nat) (j : Job) :
    (ls.foldl (fun k l => decidePair m input en e k (b + 2 * l)) j).states = j.states :=
  List.foldlRecOn ls _ (motive := fun k : Job => k.states = j.states) rfl fun k same l _ => by
    unfold decidePair
    split
    case isTrue => exact same
    case isFalse =>
      dsimp only
      split
      case isTrue => exact same
      case isFalse => split <;> exact same

/-- The pairs of a list of lanes, no two with a slot in common, decided one after another: each as if it were decided alone. -/
theorem foldl_decidePair {ls : List Nat} (once : ls.Nodup) (b : Nat) (j : Job) (fits : permFits j) :
    let k := ls.foldl (fun k l => decidePair m input en e k (b + 2 * l)) j
    PairsApart (ls.map fun l => b + 2 * l) j k ∧
      ∀ l ∈ ls, b + 2 * l + 1 < j.body.replicas → PairDecided (j.swaps m input en e (b + 2 * l)) (b + 2 * l) j k := by
  induction ls generalizing j with
  | nil => exact ⟨.refl _ j, fun _ mem => absurd mem List.not_mem_nil⟩
  | cons l ls ih =>
    obtain ⟨fresh, once⟩ := List.nodup_cons.1 once
    have first := decidePair_apart (m := m) (input := input) (en := en) (e := e) j fits (b + 2 * l)
    have decided := fun inside => decidePair_decided (m := m) (input := input) (en := en) (e := e) j fits (a := b + 2 * l) inside
    rw [List.foldl_cons, List.map_cons]
    generalize decidePair m input en e j (b + 2 * l) = i at first decided
    obtain ⟨rest, later⟩ := ih once i (first.fits fits)
    have other : ∀ c ∈ ls.map fun l => b + 2 * l, c ≠ b + 2 * l ∧ c + 1 ≠ b + 2 * l ∧ c ≠ b + 2 * l + 1 := fun c mem => by
      obtain ⟨l', mem', rfl⟩ := List.mem_map.1 mem
      have differ : l' ≠ l := fun same => fresh (same ▸ mem')
      omega
    refine ⟨first.cons rest, fun l' mem inside => ?_⟩
    rcases List.mem_cons.1 mem with rfl | mem
    · have decided := decided inside
      refine ⟨(rest.pi _ fun c mem => ⟨(other c mem).1.symm, (other c mem).2.1.symm⟩).trans decided.lower,
        (rest.pi _ fun c mem => ⟨(other c mem).2.2.symm, fun same => (other c mem).1 (by omega)⟩).trans decided.upper,
        (rest.accepts _ fun mem => (other _ mem).1 rfl).trans decided.accepts⟩
    · have apart := other _ (List.mem_map_of_mem mem)
      have body : i.body = j.body := by rw [first.same]
      have lower : i.pi (b + 2 * l') = j.pi (b + 2 * l') := first.pi _ fun c mem => by
        rw [List.mem_singleton.1 mem]; exact ⟨apart.1, apart.2.2⟩
      have upper : i.pi (b + 2 * l' + 1) = j.pi (b + 2 * l' + 1) := first.pi _ fun c mem => by
        rw [List.mem_singleton.1 mem]; exact ⟨apart.2.1, fun same => apart.1 (by omega)⟩
      have accepts := first.accepts (b + 2 * l') fun mem => apart.1 (List.mem_singleton.1 mem)
      obtain ⟨l1, l2, l3⟩ := later l' mem (by rw [body]; exact inside)
      rw [Job.swaps_congr first.same lower upper, lower, upper] at l1 l2
      rw [Job.swaps_congr first.same lower upper, accepts] at l3
      exact ⟨l1, l2, l3⟩

end

theorem excPairLedger_hit (o : ExcOps) (x : Site) (en : Nat → DWord) (ls : List Nat) (w : Work) : (excPairLedger o x en ls w).hit = w.hit := by
  unfold excPairLedger
  split <;> rfl

/-- EXC.PAIR in the ledger core at an exchange point: the pairs that its lanes name, decided on the table. -/
theorem excPair_spec {s : State} {o : ExcOps} {x : Site} {j : Job} {pos n e : Nat} (acts : Acts s o.cl x j) (serves : Serves x pos n)
    (ledger : x.isLedger pos = true) (point : j.exchangePoint? = some e) :
    let c := clusterCore s o.cl n
    let first := x.line o.agt.val pos
    (s.excPair o).job? x.slot = some
      { (x.lanes pos c o.lm).foldl (fun k l => decidePair x.m x.input (j.tableEnergy c first) e k (64 * o.ch.val + e % 2 + 2 * l))
          (j.readLedger c first) with ledgerLine := some first } := by
  have run := State.onCluster_ledger (acts := fun _ j => j.exchangePoint?.isSome) (f := excPairLedger o) acts serves ledger
    (by rw [point]; rfl) fun en ls w => excPairLedger_hit o x en ls w
  have still : ∀ c first, (j.readLedger c first).exchangePoint? = some e := fun c first => by rw [Job.readLedger_eq]; exact point
  have place : ∀ l, 64 * o.ch.val + 2 * l + e % 2 = 64 * o.ch.val + e % 2 + 2 * l := fun l => by omega
  simp only [excPairLedger, still, place] at run
  exact run

theorem excPair_idle {s : State} {o : ExcOps} {x : Site} {j : Job} {pos n : Nat} (acts : Acts s o.cl x j) (serves : Serves x pos n)
    (ledger : x.isLedger pos = true) (point : j.exchangePoint? = none) : (s.excPair o).job? x.slot = some j :=
  State.onCluster_ledger_idle acts serves ledger (by rw [point]; rfl)

/-! ### Values that stand each at its own key -/

/-- A map written at `b + l` for the lanes of a list, below a bound. -/
theorem mget_foldl_below {α : Type} [DecidableEq α] (d : α) (b bound : Nat) (v : Nat → α) {ls : List Nat} {l : Nat} (mem : l ∈ ls)
    (below : b + l < bound) (m : SMap α) :
    mget d (ls.foldl (fun m l => if b + l < bound then mset d m (b + l) (v l) else m) m) (b + l) = v l := by
  have kept : l ∈ ls.filter fun l => decide (b + l < bound) := List.mem_filter.2 ⟨mem, decide_eq_true below⟩
  have written := read_foldl_of_named (read := mget d) (f := fun m l => mset d m (b + l) (v l)) (key := fun l => b + l) (val := v)
    (fun m l _ k => mget_mset d m (b + l) (v l) k) kept (fun i _ same => by rw [Nat.add_left_cancel same]) m
  rw [List.foldl_filter] at written
  simpa only [decide_eq_true_eq] using written

/-! ### EXC.WGT (R106) -/

section

variable (m : Bytes) (en : Nat → DWord) (j : Job) (r : Nat)

theorem weighFirst_eq : weighFirst m en j r = { j with
    logWeights := if r < j.body.replicas then mset none j.logWeights r (some (j.logWeight m en r)) else j.logWeights,
    lmax := (weighFirst m en j r).lmax } := by
  unfold weighFirst
  split
  case isTrue above => rw [if_neg (by omega)]
  case isFalse below => rw [if_pos (by omega)]

theorem weighSecond_eq : weighSecond j r = { j with
    weights := if r < j.body.replicas then mset 0 j.weights r (weightOf j.lmax ((mget none j.logWeights r).getD 0)) else j.weights,
    counts := (weighSecond j r).counts } := by
  unfold weighSecond
  split
  case isTrue above => rw [if_neg (by omega)]
  case isFalse below => rw [if_pos (by omega)]

end

section

variable (b : Nat) (ls : List Nat) (j : Job)

theorem foldl_weighFirst_logWeights (m : Bytes) (en : Nat → DWord) : (ls.foldl (fun k l => weighFirst m en k (b + l)) j).logWeights =
    ls.foldl (fun a l => if b + l < j.body.replicas then mset none a (b + l) (some (j.logWeight m en (b + l))) else a) j.logWeights := by
  induction ls generalizing j with
  | nil => rfl
  | cons l ls ih =>
    have body : (weighFirst m en j (b + l)).body = j.body := by rw [weighFirst_eq]
    have step : ∀ r, (weighFirst m en j (b + l)).logWeight m en r = j.logWeight m en r := fun r => by rw [weighFirst_eq]; rfl
    have first : (weighFirst m en j (b + l)).logWeights =
        if b + l < j.body.replicas then mset none j.logWeights (b + l) (some (j.logWeight m en (b + l))) else j.logWeights := by
      rw [weighFirst_eq]
    simp only [List.foldl_cons, ih, body, step, first]

theorem foldl_weighSecond_weights : (ls.foldl (fun k l => weighSecond k (b + l)) j).weights =
    ls.foldl (fun a l => if b + l < j.body.replicas then
      mset 0 a (b + l) (weightOf j.lmax ((mget none j.logWeights (b + l)).getD 0)) else a) j.weights := by
  induction ls generalizing j with
  | nil => rfl
  | cons l ls ih =>
    have body : (weighSecond j (b + l)).body = j.body := by rw [weighSecond_eq]
    have lmax : (weighSecond j (b + l)).lmax = j.lmax := by rw [weighSecond_eq]
    have logs : (weighSecond j (b + l)).logWeights = j.logWeights := by rw [weighSecond_eq]
    have first : (weighSecond j (b + l)).weights = if b + l < j.body.replicas then
        mset 0 j.weights (b + l) (weightOf j.lmax ((mget none j.logWeights (b + l)).getD 0)) else j.weights := by
      rw [weighSecond_eq]
    simp only [List.foldl_cons, ih, body, lmax, logs, first]

theorem foldl_weighFirst_states (m : Bytes) (en : Nat → DWord) : (ls.foldl (fun k l => weighFirst m en k (b + l)) j).states = j.states :=
  List.foldlRecOn ls _ (motive := fun k : Job => k.states = j.states) rfl fun k same l _ => by rw [weighFirst_eq]; exact same

theorem foldl_weighSecond_states : (ls.foldl (fun k l => weighSecond k (b + l)) j).states = j.states :=
  List.foldlRecOn ls _ (motive := fun k : Job => k.states = j.states) rfl fun k same l _ => by rw [weighSecond_eq]; exact same

end

/-- A job as pass 0 finds it: at its first chunk nothing of the resampling before is kept. -/
def Job.startWeights (j : Job) (ch : Nat) : Job :=
  if ch = 0 then { j with logWeights := [], weights := [], lmax := none, ancestors := [] } else j

theorem Job.startWeights_eq (j : Job) (ch : Nat) : j.startWeights ch = { j with
    logWeights := (j.startWeights ch).logWeights, weights := (j.startWeights ch).weights, lmax := (j.startWeights ch).lmax,
    ancestors := (j.startWeights ch).ancestors } := by
  unfold Job.startWeights
  split <;> rfl

/-- The job of a pass of EXC.WGT over lanes. -/
def Job.weighed (j : Job) (x : Site) (o : ExcOps) (pass : Bool) (en : Nat → DWord) (ls : List Nat) : Job :=
  if pass then ls.foldl (fun k l => weighSecond k (32 * o.ch.val + l)) j
  else ls.foldl (fun k l => weighFirst x.m en k (32 * o.ch.val + l)) (j.startWeights o.ch.val)

theorem excWgtLedger_of_resamples {x : Site} {w : Work} (resamples : w.job.resamples? x.m = true) (o : ExcOps) (pass : Bool)
    (en : Nat → DWord) (ls : List Nat) : excWgtLedger o pass x en ls w = { w with job := w.job.weighed x o pass en ls } := by
  unfold excWgtLedger Job.weighed Job.startWeights
  rw [if_pos resamples]
  cases pass with
  | false => simp only [and_true, Bool.false_eq_true, if_false]
  | true => simp only [Bool.true_eq_false, and_false, if_true, if_false]

theorem excWgtLedger_hit (o : ExcOps) (pass : Bool) (x : Site) (en : Nat → DWord) (ls : List Nat) (w : Work) :
    (excWgtLedger o pass x en ls w).hit = w.hit := by
  unfold excWgtLedger
  split <;> rfl

theorem Job.weighed_states (j : Job) (x : Site) (o : ExcOps) (pass : Bool) (en : Nat → DWord) (ls : List Nat) :
    (j.weighed x o pass en ls).states = j.states := by
  unfold Job.weighed
  split
  · exact foldl_weighSecond_states _ ls j
  · rw [foldl_weighFirst_states, Job.startWeights_eq]

/-- Pass 0 leaves ℓ of each lane's replica. -/
theorem Job.weighed_logWeight (j : Job) (x : Site) (o : ExcOps) (en : Nat → DWord) {ls : List Nat} {l : Nat} (mem : l ∈ ls)
    (below : 32 * o.ch.val + l < j.body.replicas) :
    mget none (j.weighed x o false en ls).logWeights (32 * o.ch.val + l) = some (j.logWeight x.m en (32 * o.ch.val + l)) := by
  have body : (j.startWeights o.ch.val).body = j.body := by rw [Job.startWeights_eq]
  have weight : ∀ r, (j.startWeights o.ch.val).logWeight x.m en r = j.logWeight x.m en r := fun r => by rw [Job.startWeights_eq]; rfl
  rw [Job.weighed, if_neg Bool.false_ne_true, foldl_weighFirst_logWeights, body]
  simp only [weight]
  exact mget_foldl_below none _ _ (fun l => some (j.logWeight x.m en (32 * o.ch.val + l))) mem below _

/-- Pass 1 leaves the weight of each lane's replica. -/
theorem Job.weighed_weight (j : Job) (x : Site) (o : ExcOps) (en : Nat → DWord) {ls : List Nat} {l : Nat} (mem : l ∈ ls)
    (below : 32 * o.ch.val + l < j.body.replicas) : mget 0 (j.weighed x o true en ls).weights (32 * o.ch.val + l) =
      weightOf j.lmax ((mget none j.logWeights (32 * o.ch.val + l)).getD 0) := by
  rw [Job.weighed, if_pos rfl, foldl_weighSecond_weights]
  exact mget_foldl_below 0 _ _ (fun l => weightOf j.lmax ((mget none j.logWeights (32 * o.ch.val + l)).getD 0)) mem below _

section

variable {s : State} {o : ExcOps} {x : Site} {j : Job} {pos n : Nat} (acts : Acts s o.cl x j) (serves : Serves x pos n)
  (ledger : x.isLedger pos = true) (resamples : j.resamples? x.m = true)

include acts serves ledger resamples

/-- EXC.WGT in the ledger core of a population that is resampled. -/
theorem excWgt_spec (pass : Bool) :
    let c := clusterCore s o.cl n
    let first := x.line o.agt.val pos
    (s.excWgt o pass).job? x.slot = some
      { (j.readLedger c first).weighed x o pass (j.tableEnergy c first) (x.lanes pos c o.lm) with ledgerLine := some first } := by
  have run := State.onCluster_ledger (acts := fun x j => j.resamples? x.m) (f := excWgtLedger o pass) acts serves ledger resamples
    fun en ls w => excWgtLedger_hit o pass x en ls w
  have still : ∀ c first, (j.readLedger c first).resamples? x.m = true := fun c first => by rw [Job.readLedger_eq]; exact resamples
  have passed := fun c first => excWgtLedger_of_resamples (w := { core := c, job := j.readLedger c first }) (still c first) o pass
  simp only [passed] at run
  exact run

end

/-! ### EXC.RSMP (R107 to R109) -/

section

variable {α : Type} (d : α) {k : Nat}

theorem mget_of_absent {b : SMap α} (absent : ∀ e ∈ b, e.1 ≠ k) : mget d b k = d := by
  induction b with
  | nil => rfl
  | cons e b ih => exact (if_neg (absent e (.head _))).trans (ih fun e mem => absent e (.tail _ mem))

theorem mget_append_left (a : SMap α) {b : SMap α} (absent : ∀ e ∈ b, e.1 ≠ k) : mget d (a ++ b) k = mget d a k := by
  induction a with
  | nil => exact mget_of_absent d absent
  | cons e a ih => exact congrArg (fun rest => if e.1 = k then e.2 else rest) ih

theorem mget_append_right {a : SMap α} (absent : ∀ e ∈ a, e.1 ≠ k) (b : SMap α) : mget d (a ++ b) k = mget d b k := by
  induction a with
  | nil => rfl
  | cons e a ih => exact (if_neg (absent e (.head _))).trans (ih fun e mem => absent e (.tail _ mem))

end

theorem stateKey_eq_iff {r v i : Nat} (small : v < 2 ^ 40) : i = stateKey r v ↔ i / 2 ^ 40 = r ∧ i % 2 ^ 40 = v := by
  unfold stateKey
  omega

/-- The states of one replica, given to another. -/
def statesOf (m : SMap Word) (r q : Nat) : SMap Word :=
  (m.filter fun e => e.1 / 2 ^ 40 == r).map fun e => (stateKey q (e.1 % 2 ^ 40), e.2)

theorem mget_statesOf (m : SMap Word) (r q : Nat) {v : Nat} (small : v < 2 ^ 40) :
    mget 0 (statesOf m r q) (stateKey q v) = mget 0 m (stateKey r v) := by
  induction m with
  | nil => rw [statesOf, List.filter_nil, List.map_nil, mget, mget]
  | cons e m ih =>
    rw [mget, ← ih, statesOf, List.filter_cons]
    by_cases own : e.1 / 2 ^ 40 = r
    · rw [if_pos (beq_iff_eq.2 own), List.map_cons, mget]
      have key : stateKey q (e.1 % 2 ^ 40) = stateKey q v ↔ e.1 = stateKey r v := by
        rw [stateKey_eq_iff small]
        unfold stateKey
        omega
      simp only [key]
      rfl
    · rw [if_neg (by simpa using own), if_neg fun same => own ((stateKey_eq_iff small).1 same).1]
      rfl

theorem key_of_mem_statesOf {m : SMap Word} {r q : Nat} {e : Nat × Word} (mem : e ∈ statesOf m r q) : e.1 / 2 ^ 40 = q := by
  obtain ⟨i, _, rfl⟩ := List.mem_map.1 mem
  dsimp only [stateKey]
  omega

/-- A replica's states after the population's replacement are its ancestor's. -/
theorem Job.adopt_states (j : Job) (anc : List Nat) {m v : Nat} (inside : m < j.body.replicas) (small : v < 2 ^ 40) :
    mget 0 (j.adopt anc).states (stateKey m v) = mget 0 j.states (stateKey (anc.getD m m) v) := by
  obtain ⟨before, after, split⟩ := List.append_of_mem (List.mem_range.2 inside)
  have once : (before ++ m :: after).Nodup := split ▸ List.nodup_range
  obtain ⟨_, fresh, apart⟩ := List.nodup_append.1 once
  have fresh := (List.nodup_cons.1 fresh).1
  have absent : ∀ rs : List Nat, m ∉ rs → ∀ e ∈ rs.flatMap fun r => statesOf j.states (anc.getD r r) r, e.1 ≠ stateKey m v := by
    intro rs missing e mem same
    obtain ⟨r, named, mem⟩ := List.mem_flatMap.1 mem
    have here := ((stateKey_eq_iff small).1 same).1
    rw [key_of_mem_statesOf mem] at here
    exact missing (here ▸ named)
  show mget 0 ((List.range j.body.replicas).flatMap fun r => statesOf j.states (anc.getD r r) r) (stateKey m v) = _
  rw [split, List.flatMap_append, List.flatMap_cons, mget_append_right 0 (absent before fun mem => apart m mem m (.head _) rfl),
    mget_append_left 0 _ (absent after fresh)]
  exact mget_statesOf j.states _ m small

/-- The ancestors of a population (R107). -/
def Job.ancestorList (j : Job) : List Nat :=
  (List.range j.body.replicas).map
    (ancestorOf ((List.range j.body.replicas).map fun r => mget 0 j.weights r) (jobDraw j.seed 0 0 4 j.step))

theorem Job.ancestorList_getD (j : Job) {m : Nat} (inside : m < j.body.replicas) : j.ancestorList.getD m m =
    ancestorOf ((List.range j.body.replicas).map fun r => mget 0 j.weights r) (jobDraw j.seed 0 0 4 j.step) m := by
  rw [Job.ancestorList, List.getD_eq_getElem _ _ (by rwa [List.length_map, List.length_range]), List.getElem_map, List.getElem_range]

@[simp] theorem Job.readLedger_ancestorList (j : Job) (c : Core) (first : Nat) : (j.readLedger c first).ancestorList = j.ancestorList := by
  unfold Job.ancestorList
  rw [Job.readLedger_body, Job.readLedger_weights, Job.readLedger_seed, Job.readLedger_step]

/-- The job of EXC.RSMP's first chunk over lanes: the record of R109, the ancestors' states, and the ancestors of the lanes' replicas. -/
def Job.resampled (j : Job) (ls : List Nat) : Job :=
  { j.adopt j.ancestorList with
    resamples := j.resamples ++ [{ step := j.step, lmax := j.lmax.getD (BitVec.ofNat 64 f64.nanCode),
                                   total := ((List.range j.body.replicas).map fun r => mget 0 j.weights r).sum, ancestors := j.ancestorList }],
    ancestors := ls.foldl (fun a l => if 0 + l < j.body.replicas then mset 0 a (0 + l) (j.ancestorList.getD (0 + l) (0 + l)) else a) j.ancestors }

theorem Job.resampled_ancestors (j : Job) {ls : List Nat} {l : Nat} (mem : l ∈ ls) (below : l < j.body.replicas) :
    mget 0 (j.resampled ls).ancestors l = j.ancestorList.getD l l := by
  have written := mget_foldl_below 0 0 j.body.replicas (fun l => j.ancestorList.getD (0 + l) (0 + l)) mem (by rwa [Nat.zero_add]) j.ancestors
  simpa only [Job.resampled, Nat.zero_add] using written

theorem excRsmpLedger_of_resamples {x : Site} {w : Work} {o : ExcOps} (resamples : w.job.resamples? x.m = true) (chunk : o.ch.val = 0)
    (en : Nat → DWord) (ls : List Nat) : excRsmpLedger o x en ls w = { w with job := w.job.resampled ls } := by
  unfold excRsmpLedger
  rw [if_pos resamples]
  simp only [chunk, if_true, Nat.mul_zero]
  rfl

theorem excRsmpLedger_hit (o : ExcOps) (x : Site) (en : Nat → DWord) (ls : List Nat) (w : Work) : (excRsmpLedger o x en ls w).hit = w.hit := by
  unfold excRsmpLedger
  split <;> rfl

/-- EXC.RSMP's first chunk in the ledger core of a population that is resampled. -/
theorem excRsmp_spec {s : State} {o : ExcOps} {x : Site} {j : Job} {pos n : Nat} (acts : Acts s o.cl x j) (serves : Serves x pos n)
    (ledger : x.isLedger pos = true) (resamples : j.resamples? x.m = true) (chunk : o.ch.val = 0) :
    let c := clusterCore s o.cl n
    let first := x.line o.agt.val pos
    (s.excRsmp o).job? x.slot = some { (j.readLedger c first).resampled (x.lanes pos c o.lm) with ledgerLine := some first } := by
  have run := State.onCluster_ledger (acts := fun x j => j.resamples? x.m) (f := excRsmpLedger o) acts serves ledger resamples
    fun en ls w => excRsmpLedger_hit o x en ls w
  have still : ∀ c first, (j.readLedger c first).resamples? x.m = true := fun c first => by rw [Job.readLedger_eq]; exact resamples
  have passed := fun c first => excRsmpLedger_of_resamples (w := { core := c, job := j.readLedger c first }) (still c first) chunk
  simp only [passed] at run
  exact run

/-! ### The obligation -/

/-- Settles O10, by the lanes' βs and by what each operation of the ledger core makes of its job. That EXC.BETA loads β at the step about to be
decided is log entry 25 of the model. -/
theorem exchange : Obligations.Exchange := by
  unfold Obligations.Exchange
  refine ⟨fun s cl lm dd x j acts => ⟨_, rfl, excBeta_spec acts lm dd⟩, fun s o x j pos n acts serves ledger => ⟨_, rfl, ?pair⟩,
    fun s o pass x j pos n acts serves ledger resamples => ⟨_, rfl, _, excWgt_spec acts serves ledger resamples pass, ?states, fun l mem below => ?weight⟩,
    fun s o x j pos n acts serves ledger resamples chunk =>
      ⟨_, rfl, _, excRsmp_spec acts serves ledger resamples chunk, ?record, ?adopted, fun l mem below => ?ancestor⟩⟩
  case pair =>
    cases point : j.exchangePoint? with
    | none => exact ⟨j, excPair_idle acts serves ledger point, rfl, fun _ => rfl, fun e other => nomatch other⟩
    | some e =>
      refine ⟨_, excPair_spec acts serves ledger point, ?_, nofun, ?_⟩
      · exact (foldl_decidePair_states _ _ _).trans (Job.readLedger_states ..)
      · rintro _ ⟨⟩ fits
        refine ⟨rfl, fun l mem => ?_⟩
        have place : 64 * o.ch.val + 2 * l + e % 2 = 64 * o.ch.val + e % 2 + 2 * l := by omega
        dsimp only
        rw [place]
        intro inside
        have decided := (foldl_decidePair (m := x.m) (input := x.input) (en := j.tableEnergy (clusterCore s o.cl n) (x.line o.agt.val pos)) (e := e)
          (x.lanes_nodup pos (clusterCore s o.cl n) o.lm) (64 * o.ch.val + e % 2) (j.readLedger (clusterCore s o.cl n) (x.line o.agt.val pos))
          (by rw [permFits, Job.readLedger_body]; exact fits)).2 l mem (by rw [Job.readLedger_body]; exact inside)
        obtain ⟨lower, upper, accepts⟩ := decided
        rw [Job.readLedger_exchAccepts] at accepts
        unfold Job.swaps at lower upper accepts
        rw [Job.readLedger_seed] at lower upper accepts
        exact ⟨lower, upper, accepts⟩
  case states => exact (Job.weighed_states ..).trans (Job.readLedger_states ..)
  case weight =>
    have inside : 32 * o.ch.val + l < (j.readLedger (clusterCore s o.cl n) (x.line o.agt.val pos)).body.replicas := by rwa [Job.readLedger_body]
    cases pass with
    | true => simpa only [if_true, Job.readLedger_lmax, Job.readLedger_logWeights] using Job.weighed_weight _ x o _ mem inside
    | false => simpa only [Bool.false_eq_true, if_false, Job.readLedger_logWeight] using Job.weighed_logWeight _ x o _ mem inside
  case record =>
    unfold Job.resampled
    simp only [Job.readLedger_resamples, Job.readLedger_step, Job.readLedger_lmax, Job.readLedger_body, Job.readLedger_weights,
      Job.readLedger_ancestorList]
    rfl
  case adopted =>
    intro m inside v small
    have adopted := Job.adopt_states (j.readLedger (clusterCore s o.cl n) (x.line o.agt.val pos)) j.ancestorList
      (by rwa [Job.readLedger_body]) small
    rw [Job.ancestorList_getD j inside, Job.readLedger_states] at adopted
    dsimp only [Job.resampled]
    rw [Job.readLedger_ancestorList]
    exact adopted
  case ancestor =>
    have named := Job.resampled_ancestors (j.readLedger (clusterCore s o.cl n) (x.line o.agt.val pos)) mem (by rwa [Job.readLedger_body])
    rw [Job.readLedger_ancestorList, Job.ancestorList_getD j below] at named
    exact named

end Sys2Proof.Machine

/-! PROOF of O16: the mesh forms of the router. A beat that leaves a core arrives behind its hop, later than the cycle of the word; so arrivals
only add to the latches, and never a beat that the word finds at a core. -/

namespace Sys2Proof.Machine

open Sys2Proof Sys2Proof.Safety

/-! ### Latches -/

/-- A core with the latches of another. -/
def Core.withLatches (d c : Core) : Core := { d with inN := c.inN, inE := c.inE, inS := c.inS, inW := c.inW }

/-- A core but for what a delivery writes agrees: its lanes' part inputs, its state file, its undo log and its check log. -/
def sameButDelivered (c d : Core) : Prop := d = { c with lanes := d.lanes, slots := d.slots, undo := d.undo, checkLog := d.checkLog }

theorem sameButDelivered_refl (c : Core) : sameButDelivered c c := rfl

theorem sameButDelivered_trans {c d e : Core} (h : sameButDelivered c d) (k : sameButDelivered d e) : sameButDelivered c e := by
  unfold sameButDelivered at *
  rw [k, h]

theorem sameButDelivered_foldl {α : Type} {f : Core → α → Core} (step : ∀ c a, sameButDelivered c (f c a)) (l : List α) (c : Core) :
    sameButDelivered c (l.foldl f c) :=
  List.foldlRecOn l f (sameButDelivered_refl c) fun d same a _ => sameButDelivered_trans same (step d a)

theorem sameButDelivered.withLatches {c d : Core} (same : sameButDelivered c d) : d.withLatches c = d := by
  rw [same]
  rfl

theorem sameButDelivered.latch {c d : Core} (same : sameButDelivered c d) (dir : Dir) : d.latch dir = c.latch dir := by
  rw [same]
  cases dir <;> rfl

theorem sameButDelivered_deliverWord (c : Core) (step sl w : Nat) (b : BeatWord) (current : Bool) :
    sameButDelivered c (c.deliverWord step sl w b current) := by
  obtain ⟨u, noted⟩ := c.noteSlot_eq step sl
  unfold Core.deliverWord
  rw [noted]
  rfl

theorem sameButDelivered_logDelivery (c : Core) (x : Site) (pos agd : Nat) (b : Beat) : sameButDelivered c (c.logDelivery x pos agd b) := by
  unfold Core.logDelivery
  split <;> rfl

/-- What a delivered beat may change (R223, R238.3). -/
theorem sameButDelivered_deliver (c : Core) (x : Site) (pos agd : Nat) (b : Beat) : sameButDelivered c (c.deliver x pos agd b) := by
  refine sameButDelivered_trans (sameButDelivered_logDelivery c x pos agd b) ?_
  unfold Core.deliver
  dsimp only
  cases b.kind with
  | state =>
    refine sameButDelivered_foldl (fun d e => ?_) _ _
    split
    · exact sameButDelivered_deliverWord _ _ _ _ _ _
    · exact sameButDelivered_refl d
  | part =>
    refine sameButDelivered_foldl (fun d p => ?_) _ _
    rfl
  | caravan => exact sameButDelivered_refl _

/-- From `c` to `d` beats that come after a cycle enter the latches, and nothing else changes. -/
structure LatchesGrow (cycle : Nat) (c d : Core) : Prop where
  same : d.withLatches c = c
  old : ∀ dir, ∀ b ∈ c.latch dir, b ∈ d.latch dir
  new : ∀ dir, ∀ b ∈ d.latch dir, b ∈ c.latch dir ∨ cycle < b.due

theorem LatchesGrow.refl (cycle : Nat) (c : Core) : LatchesGrow cycle c c := ⟨rfl, fun _ _ mem => mem, fun _ _ mem => .inl mem⟩

theorem LatchesGrow.trans {cycle : Nat} {c d e : Core} (h : LatchesGrow cycle c d) (k : LatchesGrow cycle d e) : LatchesGrow cycle c e where
  same := by
    calc e.withLatches c = (e.withLatches d).withLatches c := rfl
      _ = c := by rw [k.same, h.same]
  old dir b mem := k.old dir b (h.old dir b mem)
  new dir b mem := (k.new dir b mem).elim (h.new dir b) .inr

theorem Core.latch_setLatch (c : Core) (d dir : Dir) (l : List Beat) : (c.setLatch d l).latch dir = if dir = d then l else c.latch dir := by
  cases d <;> cases dir <;> rfl

theorem latchesGrow_setLatch {cycle : Nat} (c : Core) (d : Dir) {b : Beat} (later : cycle < b.due) :
    LatchesGrow cycle c (c.setLatch d (c.latch d ++ [b])) where
  same := by cases d <;> rfl
  old dir e mem := by
    rw [Core.latch_setLatch]
    split
    case isTrue same => subst same; exact List.mem_append_left _ mem
    case isFalse => exact mem
  new dir e mem := by
    rw [Core.latch_setLatch] at mem
    split at mem
    case isTrue same =>
      subst same
      exact (List.mem_append.1 mem).imp_right fun last => by rw [List.mem_singleton.1 last]; exact later
    case isFalse => exact .inl mem

/-! ### Arrivals -/

/-- A core of a cluster, by the cluster's key. -/
def State.physCoreOf (s : State) (k n : Nat) : Core := mget {} (s.cluster k).cores n

/-- From `s` to `t` beats that come after a cycle arrive at cores, and nothing else of the cores and of the core maps changes. -/
structure Arrived (cycle : Nat) (s t : State) : Prop where
  maps : ∀ k, (t.cluster k).coreMap = (s.cluster k).coreMap
  cores : ∀ k n, LatchesGrow cycle (s.physCoreOf k n) (t.physCoreOf k n)

theorem Arrived.refl (cycle : Nat) (s : State) : Arrived cycle s s := ⟨fun _ => rfl, fun _ _ => .refl cycle _⟩

theorem Arrived.trans {cycle : Nat} {r s t : State} (h : Arrived cycle r s) (k : Arrived cycle s t) : Arrived cycle r t :=
  ⟨fun i => (k.maps i).trans (h.maps i), fun i n => (h.cores i n).trans (k.cores i n)⟩

section

variable {s : State} {cl pos n : Nat} (served : (s.cluster cl).coreMap.getD pos none = some n) (dir : Dir) (b : Beat)

include served

theorem State.arrive_eq : s.arrive cl pos dir b = s.modCluster cl fun k =>
    { k with cores := mmod {} k.cores n fun (c : Core) => c.setLatch dir (c.latch dir ++ [b]) } := by
  unfold State.arrive
  rw [served]

theorem State.physCoreOf_arrive (k m : Nat) : (s.arrive cl pos dir b).physCoreOf k m =
    if k = cl ∧ m = n then (s.physCoreOf cl n).setLatch dir ((s.physCoreOf cl n).latch dir ++ [b]) else s.physCoreOf k m := by
  rw [State.arrive_eq served, State.physCoreOf, State.cluster_modCluster]
  by_cases here : k = cl
  · subst here
    rw [if_pos rfl, mget_mmod]
    simp only [true_and]
    rfl
  · rw [if_neg here, if_neg fun both => here both.1]
    rfl

theorem State.arrive_mem : b ∈ ((s.arrive cl pos dir b).physCoreOf cl n).latch dir := by
  rw [State.physCoreOf_arrive served, if_pos ⟨rfl, rfl⟩, Core.latch_setLatch, if_pos rfl]
  exact List.mem_append_right _ (List.mem_singleton.2 rfl)

end

/-- One beat arrives. -/
theorem State.arrive_arrived (s : State) (cl pos : Nat) (dir : Dir) {cycle : Nat} {b : Beat} (later : cycle < b.due) :
    Arrived cycle s (s.arrive cl pos dir b) := by
  cases served : (s.cluster cl).coreMap.getD pos none with
  | none =>
    rw [State.arrive, served]
    exact .refl cycle s
  | some n =>
    refine ⟨fun k => ?_, fun k m => ?_⟩
    · rw [State.arrive_eq served, State.cluster_modCluster]
      split
      case isTrue here => rw [here]
      case isFalse => rfl
    · rw [State.physCoreOf_arrive served]
      split
      case isTrue here =>
        rw [here.1, here.2]
        exact latchesGrow_setLatch _ dir later
      case isFalse => exact .refl cycle _

theorem beyond_core_latency {d col row : Nat} {dir : Dir} {e c r lat : Nat} (h : beyond d col row dir = .core e c r lat) : 0 < lat := by
  unfold beyond at h
  cases dir with
  | n =>
    dsimp only at h
    split at h
    · cases h; decide
    · split at h
      · split at h <;> cases h
      · cases h
  | e =>
    dsimp only at h
    split at h
    · cases h; split <;> decide
    · split at h <;> cases h
  | s =>
    dsimp only at h
    split at h
    · cases h; decide
    · split at h
      · split at h <;> cases h
      · cases h
  | w =>
    dsimp only at h
    split at h
    · cases h; split <;> decide
    · split at h <;> cases h

/-- No hop takes no time (R191). -/
theorem hopTo_latency {region : List Nat} {cl pos : Nat} {dir : Dir} {k p lat : Nat} (hop : hopTo region cl pos dir = some (k, p, lat)) :
    0 < lat := by
  unfold hopTo at hop
  dsimp only at hop
  split at hop
  case h_1 e c r l core =>
    split at hop
    · cases hop
      exact beyond_core_latency core
    · cases hop
  case h_2 =>
    split at hop
    · cases hop
      decide
    · cases hop
  case h_3 => cases hop

/-- One departure. -/
def State.departOne (region : List Nat) (cl cycle : Nat) (t : State) (d : Departure) : State :=
  match hopTo region cl d.pos d.dir with
  | some (k, p, lat) => t.arrive k p (opposite d.dir) { d.beat with due := cycle + lat }
  | none => t

theorem State.depart_eq_foldl (s : State) (region : List Nat) (cl cycle : Nat) (ds : List Departure) :
    s.depart region cl cycle ds = ds.foldl (State.departOne region cl cycle) s := rfl

section

variable (region : List Nat) (cl cycle : Nat)

theorem State.departOne_of_hop (t : State) {d : Departure} {k p lat : Nat} (hop : hopTo region cl d.pos d.dir = some (k, p, lat)) :
    State.departOne region cl cycle t d = t.arrive k p (opposite d.dir) { d.beat with due := cycle + lat } := by
  simp only [State.departOne, hop]

theorem State.departOne_arrived (t : State) (d : Departure) : Arrived cycle t (State.departOne region cl cycle t d) := by
  unfold State.departOne
  split
  case h_1 k p lat hop =>
    exact State.arrive_arrived t k p (opposite d.dir) (Nat.lt_add_of_pos_right (hopTo_latency hop))
  case h_2 => exact .refl cycle t

theorem State.depart_arrived (s : State) (ds : List Departure) : Arrived cycle s (s.depart region cl cycle ds) := by
  rw [State.depart_eq_foldl]
  exact List.foldlRecOn ds _ (.refl cycle s) fun t arrived d _ => arrived.trans (State.departOne_arrived region cl cycle t d)

/-- Each beat that departs arrives at the neighbour behind its hop. -/
theorem State.depart_mem {s : State} {ds : List Departure} {d : Departure} (departs : d ∈ ds) {k p lat m : Nat}
    (hop : hopTo region cl d.pos d.dir = some (k, p, lat)) (served : (s.cluster k).coreMap.getD p none = some m) :
    { d.beat with due := cycle + lat } ∈ ((s.depart region cl cycle ds).physCoreOf k m).latch (opposite d.dir) := by
  obtain ⟨before, after, rfl⟩ := List.append_of_mem departs
  rw [State.depart_eq_foldl, List.foldl_append, List.foldl_cons]
  have first := State.depart_arrived region cl cycle s before
  rw [State.depart_eq_foldl] at first
  generalize before.foldl (State.departOne region cl cycle) s = t at first
  have rest := State.depart_arrived region cl cycle (State.departOne region cl cycle t d) after
  rw [State.depart_eq_foldl] at rest
  refine (rest.cores k m).old _ _ ?_
  rw [State.departOne_of_hop region cl cycle t hop]
  exact State.arrive_mem (by rw [first.maps, served]) _ _

end

/-! ### Departures of a cluster -/

/-- The departures of the valid cores of a cluster, in ascending position. -/
def Site.departures (x : Site) (f : Nat → Nat → List Departure) : List Departure :=
  (List.range 64).flatMap fun pos => match x.phys pos with
    | none => []
    | some n => f pos n

theorem Site.mem_departures {x : Site} {f : Nat → Nat → List Departure} {pos n : Nat} (inside : pos < 64) (served : x.phys pos = some n)
    {d : Departure} (mem : d ∈ f pos n) : d ∈ x.departures f :=
  List.mem_flatMap.2 ⟨pos, List.mem_range.2 inside, by simpa only [served] using mem⟩

theorem State.siteJob_of_acts {s : State} {cl : ClusterRef} {x : Site} {j : Job} (acts : Acts s cl x j) : s.siteJob x = (j.region, j.cycle) := by
  simp only [State.siteJob, acts.2]

/-- An operation on the cores of a cluster, and then beats that leave it: the frame, the job, what each core becomes, and what arrives. -/
structure Routed (s t : State) (cl : ClusterRef) (x : Site) (j : Job) (ds : List Departure) (F : Nat → Core → Core) : Prop where
  frame : OnlyTouches [.clusters, .jobs, .free] s t
  job : JobBecomes s t x.slot j
  cores : ∀ pos n, Serves x pos n → LatchesGrow j.cycle (F pos (clusterCore s cl n)) (clusterCore t cl n)
  arrivals : ∀ d ∈ ds, ∀ k p lat m, hopTo j.region x.cl d.pos d.dir = some (k, p, lat) → (s.cluster k).coreMap.getD p none = some m →
    { d.beat with due := j.cycle + lat } ∈ (t.physCoreOf k m).latch (opposite d.dir)

theorem State.onCluster_routed {s : State} {cl : ClusterRef} {x : Site} {j : Job} {f : Site → Nat → Work → Work} {F : Nat → Core → Core}
    (acts : Acts s cl x j) (part : ∀ pos w, w.job = j → f x pos w = { w with core := F pos w.core }) (ds : List Departure) :
    Routed s ((s.onCluster cl f).depart j.region x.cl j.cycle ds) cl x j ds F := by
  obtain ⟨job, cluster⟩ := State.onCluster_cores (g := id) (P := fun pos c d => d = F pos c) acts part fun _ _ => rfl
  have departs := State.depart_kept (A := [.clusters]) j.region x.cl j.cycle ds (Kept.refl (s.onCluster cl f)) (List.Subset.refl _)
  refine ⟨cluster.rest.trans (departs.frame.mono (by decide)), JobBecomes.of_jobs ⟨job, cluster.jobs⟩ departs.jobs, fun pos n serves => ?_,
    fun d mem k p lat m hop served => State.depart_mem j.region x.cl j.cycle mem hop ?_⟩
  · rw [← cluster.valid pos n serves]
    exact (State.depart_arrived j.region x.cl j.cycle (s.onCluster cl f) ds).cores cl.key n
  · by_cases own : k = cl.key
    · subst own
      rw [cluster.own]
      exact served
    · rw [cluster.clusters k own]
      exact served

/-! ### MOV.SEND -/

/-- The core of a MOV.SEND: its launch beat delivered to itself where DLV[11] says so, and the launch register emptied where the beat goes anywhere
(R238.3, R238.4). -/
def Core.afterSend (c : Core) (x : Site) (o : SendOps) (pos : Nat) : Core :=
  let c1 := if o.deliver then c.deliver x pos o.agd.val (launchBeat c o.lttl.val) else c
  if o.deliver = true ∨ outDirs o.outL ≠ [] then c1.emptyLaunch else c1

/-- The beats that leave a core by MOV.SEND. -/
def sendDepartures (o : SendOps) (c : Core) (pos : Nat) : List Departure :=
  let b := launchBeat c o.lttl.val
  if b.valid then (outDirs o.outL).map fun d => { pos := pos, dir := d, beat := b } else []

theorem movSendCore_eq (o : SendOps) (x : Site) (pos : Nat) (w : Work) :
    movSendCore o x pos w = { w with core := w.core.afterSend x o pos } := by
  have goes : (o.deliver || !(outDirs o.outL).isEmpty) = true ↔ o.deliver = true ∨ outDirs o.outL ≠ [] := by
    rw [Bool.or_eq_true, Bool.not_eq_true', List.isEmpty_eq_false_iff]
  unfold movSendCore Core.afterSend
  dsimp only
  rw [if_congr goes rfl rfl]
  split <;> rfl

theorem sameButDelivered_self (c : Core) (x : Site) (o : SendOps) (pos : Nat) :
    sameButDelivered c (if o.deliver then c.deliver x pos o.agd.val (launchBeat c o.lttl.val) else c) := by
  split
  · exact sameButDelivered_deliver _ _ _ _ _
  · exact sameButDelivered_refl c

/-- MOV.SEND in a cluster. -/
theorem movSend_spec {s : State} {o : SendOps} {x : Site} {j : Job} (acts : Acts s o.cl x j) :
    Routed s (s.movSend o) o.cl x j (x.departures fun pos n => sendDepartures o (clusterCore s o.cl n) pos) fun pos c => c.afterSend x o pos := by
  have run : s.movSend o = (s.onCluster o.cl (movSendCore o)).depart j.region x.cl j.cycle
      (x.departures fun pos n => sendDepartures o (clusterCore s o.cl n) pos) := by
    simp only [State.movSend, acts.1, State.siteJob_of_acts acts]
    rfl
  rw [run]
  exact State.onCluster_routed acts (fun pos w _ => movSendCore_eq o x pos w) _

/-! ### MOV.FWD -/

/-- The core of a MOV.FWD with the beats that are at it delivered, where DLV names their direction (R238.3). -/
def Core.fwdDelivered (c : Core) (x : Site) (o : FwdOps) (cycle pos : Nat) : Core :=
  (allDirs.filter (fwdDelivers o)).foldl (fun a dir => (c.present cycle dir).foldl (fun a b => a.deliver x pos o.agd.val b) a) c

/-- A core whose latches the beats that are at it have left. -/
def Core.dropPresent (c : Core) (cycle : Nat) : Core :=
  allDirs.foldl (fun c d => c.setLatch d ((c.latch d).filter fun b => b.kind == .caravan || decide (cycle < b.due))) c

theorem Core.latch_dropPresent (c : Core) (cycle : Nat) (dir : Dir) :
    (c.dropPresent cycle).latch dir = (c.latch dir).filter fun b => b.kind == .caravan || decide (cycle < b.due) := by
  cases dir <;> rfl

theorem Core.dropPresent_withLatches (c : Core) (cycle : Nat) (e : Core) : (c.dropPresent cycle).withLatches e = c.withLatches e := rfl

theorem movFwdCore_eq (o : FwdOps) (cycle : Nat) (x : Site) (pos : Nat) (w : Work) :
    movFwdCore o cycle x pos w = { w with core := (w.core.fwdDelivered x o cycle pos).dropPresent cycle } := by
  rw [Core.fwdDelivered, List.foldl_filter]
  rfl

theorem sameButDelivered_fwdDelivered (c : Core) (x : Site) (o : FwdOps) (cycle pos : Nat) : sameButDelivered c (c.fwdDelivered x o cycle pos) :=
  sameButDelivered_foldl (fun a _ => sameButDelivered_foldl (fun e b => sameButDelivered_deliver e _ _ _ b) _ a) _ c

/-- MOV.FWD in a cluster, with no hop check that fails. -/
theorem movFwd_spec {s : State} {o : FwdOps} {x : Site} {j : Job} (acts : Acts s o.cl x j) (parity : o.parity = none) :
    Routed s (s.movFwd o) o.cl x j (x.departures fun pos n => fwdDepartures o j.cycle (clusterCore s o.cl n) pos)
      fun pos c => (c.fwdDelivered x o j.cycle pos).dropPresent j.cycle := by
  have run : s.movFwd o = (s.onCluster o.cl (movFwdCore o j.cycle)).depart j.region x.cl j.cycle
      (x.departures fun pos n => fwdDepartures o j.cycle (clusterCore s o.cl n) pos) := by
    simp only [State.movFwd, acts.1, State.siteJob_of_acts acts, parity, Option.bind_none]
    rfl
  rw [run]
  exact State.onCluster_routed acts (fun pos w _ => movFwdCore_eq o j.cycle x pos w) _

section

variable {c d : Core} {x : Site} {o : FwdOps} {cycle pos : Nat} (grow : LatchesGrow cycle ((c.fwdDelivered x o cycle pos).dropPresent cycle) d)

include grow

theorem LatchesGrow.fwd_core : d.withLatches c = c.fwdDelivered x o cycle pos := by
  have delivered := sameButDelivered_fwdDelivered c x o cycle pos
  calc d.withLatches c = (d.withLatches ((c.fwdDelivered x o cycle pos).dropPresent cycle)).withLatches c := rfl
    _ = (c.fwdDelivered x o cycle pos).withLatches c := by rw [grow.same, Core.dropPresent_withLatches]
    _ = c.fwdDelivered x o cycle pos := delivered.withLatches

/-- A beat that was at the core has left its latch: what arrives comes later. -/
theorem LatchesGrow.fwd_left {dir : Dir} {b : Beat} (kind : b.kind ≠ .caravan) (due : b.due ≤ cycle) : b ∉ d.latch dir := by
  intro mem
  rcases grow.new dir b mem with stays | later
  · rw [Core.latch_dropPresent, List.mem_filter, Bool.or_eq_true, beq_iff_eq, decide_eq_true_eq] at stays
    exact stays.2.elim kind (by omega)
  · omega

theorem LatchesGrow.fwd_stays {dir : Dir} {b : Beat} (mem : b ∈ c.latch dir) (stays : b.kind = .caravan ∨ cycle < b.due) : b ∈ d.latch dir := by
  refine grow.old dir b ?_
  rw [Core.latch_dropPresent, List.mem_filter, Bool.or_eq_true, beq_iff_eq, decide_eq_true_eq,
    (sameButDelivered_fwdDelivered c x o cycle pos).latch]
  exact ⟨mem, stays⟩

end

theorem mem_fwdDepartures {o : FwdOps} {cycle pos : Nat} {c : Core} {out : Dir} {b : Beat}
    (merged : b ∈ mergeBeats ((allDirs.filter fun i => (outDirs (fwdOut o i)).contains out).flatMap fun i => (c.present cycle i).map Beat.forwarded)) :
    { pos := pos, dir := out, beat := b } ∈ fwdDepartures o cycle c pos :=
  List.mem_flatMap.2 ⟨out, by cases out <;> decide, List.mem_map.2 ⟨b, merged, rfl⟩⟩

/-! ### The obligation -/

/-- Settles O16, by what each core becomes and what arrives. -/
theorem routerMoves : Obligations.RouterMoves := by
  unfold Obligations.RouterMoves
  refine ⟨fun s o x j acts => ⟨_, rfl, ?send⟩, fun s o x j acts parity => ⟨_, rfl, ?forward⟩⟩
  case send =>
    obtain ⟨frame, job, cores, arrivals⟩ := movSend_spec acts
    refine ⟨frame, job, fun pos n serves => ⟨?_, fun dir out valid k p lat m hop served => ?_⟩⟩
    · have grow := cores pos n serves
      generalize clusterCore s o.cl n = c at grow
      have same := sameButDelivered_self c x o pos
      calc (clusterCore (s.movSend o) o.cl n).withLatches c
          = ((clusterCore (s.movSend o) o.cl n).withLatches (c.afterSend x o pos)).withLatches c := rfl
        _ = (c.afterSend x o pos).withLatches c := by rw [grow.same]
        _ = _ := by
          unfold Core.afterSend
          dsimp only
          generalize (if o.deliver then c.deliver x pos o.agd.val (launchBeat c o.lttl.val) else c) = c1 at same
          split
          · rw [same]; rfl
          · exact same.withLatches
    · refine arrivals _ (Site.mem_departures serves.1 serves.2.1 (d := ⟨pos, dir, launchBeat (clusterCore s o.cl n) o.lttl.val⟩) ?_) k p lat m hop
        served
      rw [sendDepartures, if_pos valid]
      exact List.mem_map.2 ⟨dir, out, rfl⟩
  case forward =>
    obtain ⟨frame, job, cores, arrivals⟩ := movFwd_spec acts parity
    refine ⟨frame, job, fun pos n serves => ?_⟩
    have grow := cores pos n serves
    exact ⟨grow.fwd_core, fun _ _ _ kind due => grow.fwd_left kind due, fun _ _ mem stays => grow.fwd_stays mem stays,
      fun out b merged k p lat m hop served =>
        arrivals _ (Site.mem_departures serves.1 serves.2.1 (mem_fwdDepartures merged)) k p lat m hop served⟩

end Sys2Proof.Machine

/-! PROOF of O60: the words of the slots and of the router. A word is its fields one above another, so each field is read back from its bits, and
the command is put together from them. -/

namespace Sys2Proof.Machine

open Sys2Proof Sys2Proof.Safety

/-! ### Fields of a word -/

theorem fieldBool_of_bit {w i : Nat} {b : Bool} (field : bitField w i 1 = bit b) : fieldBool w i = b := by
  rw [fieldBool, field]
  cases b <;> rfl

theorem fin_ofNat_of_eq {n v : Nat} [NeZero n] {i : Fin n} (field : v = i.val) : Fin.ofNat n v = i := by
  subst field
  exact Fin.ext (Nat.mod_eq_of_lt i.isLt)

/-- A field of a word's operand is that of the word. -/
theorem bitField_mod {lo n m : Nat} (inside : lo + n ≤ m) (w : Nat) : bitField (w % 2 ^ m) lo n = bitField w lo n := by
  obtain ⟨k, rfl⟩ := Nat.exists_eq_add_of_le inside
  rw [bitField, bitField, pow_add, pow_add, Nat.mul_assoc, Nat.mod_mul_right_div_self, Nat.mod_mul_right_mod]

/-- The word of fields one above another, the lowest first: each has a width in bits and a value. -/
def packed : List (Nat × Nat) → Nat
  | [] => 0
  | f :: fs => f.2 + 2 ^ f.1 * packed fs

/-- Bits that fields take. -/
def widthOf (fs : List (Nat × Nat)) : Nat := (fs.map (·.1)).sum

/-- Each field's value has its width. -/
def Fits (fs : List (Nat × Nat)) : Prop := ∀ f ∈ fs, f.2 < 2 ^ f.1

/-- What stands above the lowest fields. -/
theorem packed_div {fs : List (Nat × Nat)} (fits : Fits fs) (i : Nat) : packed fs / 2 ^ widthOf (fs.take i) = packed (fs.drop i) := by
  induction i generalizing fs with
  | zero => exact Nat.div_one _
  | succ i ih =>
    cases fs with
    | nil => exact Nat.zero_div _
    | cons f fs =>
      have small := fits f (.head _)
      rw [List.take_succ_cons, List.drop_succ_cons, ← ih fun g mem => fits g (.tail _ mem), packed]
      simp only [widthOf, List.map_cons, List.sum_cons, pow_add]
      rw [← Nat.div_div_eq_div_mul, Nat.add_mul_div_left _ _ (Nat.two_pow_pos _), Nat.div_eq_of_lt small, Nat.zero_add]

/-- Each field is read back. -/
theorem bitField_packed {fs : List (Nat × Nat)} (fits : Fits fs) (i : Nat) (inside : i < fs.length := by exact of_decide_eq_true rfl) :
    bitField (packed fs) (widthOf (fs.take i)) fs[i].1 = fs[i].2 := by
  rw [bitField, packed_div fits, List.drop_eq_getElem_cons inside, packed, Nat.add_mul_mod_self_left]
  exact Nat.mod_eq_of_lt (fits _ (List.getElem_mem inside))

/-! ### FLD.ACC -/

/-- The SRC bit of a FLD.ACC word (R227). -/
def srcBit : AccSrc → Nat
  | .playa => 0
  | .caravan => 1

/-- The FORM field of a FLD.ACC word (R227). -/
def formCode : TileForm → Nat
  | .scalar => 0
  | .potts => 1
  | .full => 2

theorem tileForm4_formCode (f : TileForm) : tileForm4 (formCode f) = f := by cases f <;> rfl

/-- The fields of a FLD.ACC word, the lowest first (R227). -/
def fldAccLayout (o : FldAccOps) : List (Nat × Nat) :=
  [(2, 0), (2, o.dd), (1, bit o.last), (1, bit o.first), (1, bit o.inc), (5, o.g), (2, formCode o.form), (2, 3 * bit o.aux), (3, o.ags),
    (1, bit o.half), (3, o.agc), (1, srcBit o.src), (2, o.lm), (6, 0x02)]

theorem fldAccLayout_fits (o : FldAccOps) : Fits (fldAccLayout o) := by
  have src : srcBit o.src < 2 := by cases o.src <;> decide
  have form : formCode o.form < 3 := by cases o.form <;> decide
  have half := bit_lt_two o.half
  have aux := bit_lt_two o.aux
  have inc := bit_lt_two o.inc
  have first := bit_lt_two o.first
  have last := bit_lt_two o.last
  simp only [Fits, fldAccLayout, List.forall_mem_cons, List.not_mem_nil, false_imp_iff, implies_true, and_true]
  omega

/-- What a FLD.ACC word says. -/
structure FldAccFields (o : FldAccOps) (w : Nat) : Prop where
  opcode : w / 2 ^ 26 = 0x02
  spare : bitField w 0 2 = 0
  lm : bitField w 24 2 = o.lm
  src : bitField w 23 1 = srcBit o.src
  agc : bitField w 20 3 = o.agc
  half : bitField w 19 1 = bit o.half
  ags : bitField w 16 3 = o.ags
  aux : bitField w 14 2 = 3 * bit o.aux
  form : bitField w 12 2 = formCode o.form
  g : bitField w 7 5 = o.g
  inc : bitField w 6 1 = bit o.inc
  first : bitField w 5 1 = bit o.first
  last : bitField w 4 1 = bit o.last
  dd : bitField w 2 2 = o.dd

theorem fldAcc_fields (o : FldAccOps) : FldAccFields o (packed (fldAccLayout o)) :=
  have fits := fldAccLayout_fits o
  { opcode := packed_div fits 13, spare := bitField_packed fits 0, lm := bitField_packed fits 12, src := bitField_packed fits 11,
    agc := bitField_packed fits 10, half := bitField_packed fits 9, ags := bitField_packed fits 8, aux := bitField_packed fits 7,
    form := bitField_packed fits 6, g := bitField_packed fits 5, inc := bitField_packed fits 4, first := bitField_packed fits 3,
    last := bitField_packed fits 2, dd := bitField_packed fits 1 }

section

variable {o : FldAccOps} {w : Nat}

/-- Its operands are legal: AUX is 0 or 3, FORM below 3 (R217). -/
theorem FldAccFields.legal (f : FldAccFields o w) : slotIllegal 0 w = false := by
  have aux : (bitField w 14 2 == 1 || bitField w 14 2 == 2) = false := by
    rw [f.aux]
    cases o.aux <;> rfl
  have form : (bitField w 12 2 == 3) = false := by
    rw [f.form]
    cases o.form <;> rfl
  have operand : operandIllegal 0x02 (w % 2 ^ 24) = false := by
    simp only [operandIllegal, bitField_mod (show 14 + (15 + 1 - 14) ≤ 24 by decide), bitField_mod (show 12 + (13 + 1 - 12) ≤ 24 by decide)]
    exact Bool.or_eq_false_iff.2 ⟨aux, form⟩
  have spare : (w % 2 ^ 24 % 2 ^ lowestOperand.getD 0x02 0 != 0) = false := by
    have low := (bitField_mod (show 0 + 2 ≤ 24 by decide) w).trans f.spare
    rw [bitField, pow_zero, Nat.div_one] at low
    rw [show lowestOperand.getD 0x02 0 = 2 from rfl, low]
    rfl
  simp only [slotIllegal, f.opcode, operand, spare]
  rfl

theorem FldAccFields.command (f : FldAccFields o w) (cl : ClusterRef) : commandF cl w = .fldAcc { o with cl := cl, parity := none } := by
  have src : (if fieldBool w 23 then AccSrc.caravan else .playa) = o.src := by
    rw [fieldBool, f.src]
    cases o.src <;> rfl
  have aux : (bitField w 14 2 == 3) = o.aux := by
    rw [f.aux]
    cases o.aux <;> rfl
  simp only [commandF, f.opcode, wordLm, src, aux, f.form, tileForm4_formCode, fin_ofNat_of_eq f.lm, fin_ofNat_of_eq f.agc,
    fieldBool_of_bit f.half, fin_ofNat_of_eq f.ags, fin_ofNat_of_eq f.g, fieldBool_of_bit f.inc, fieldBool_of_bit f.first,
    fieldBool_of_bit f.last, fin_ofNat_of_eq f.dd]

end

/-! ### Legal words -/

section

variable {w : Nat} (cl : ClusterRef)

theorem slotCommand_F (legal : slotIllegal 0 w = false) : slotCommand 0 cl w = some (commandF cl w) := if_neg (ne_true_of_eq_false legal)

theorem slotCommand_D (legal : slotIllegal 1 w = false) : slotCommand 1 cl w = some (commandD cl w) := if_neg (ne_true_of_eq_false legal)

theorem slotCommand_M (legal : slotIllegal 2 w = false) : slotCommand 2 cl w = some (commandM cl w) := if_neg (ne_true_of_eq_false legal)

end

/-! ### DRW.BIN -/

/-- The fields of a DRW.BIN word, the lowest first (R230). -/
def drwBinLayout (o : DrawOps) : List (Nat × Nat) :=
  [(12, 0), (1, bit o.inc), (3, o.ags), (2, o.sel), (1, bit o.launch), (3, o.agw), (2, o.dd), (2, o.lm), (6, 0x09)]

theorem drwBinLayout_fits (o : DrawOps) : Fits (drwBinLayout o) := by
  have launch := bit_lt_two o.launch
  have inc := bit_lt_two o.inc
  simp only [Fits, drwBinLayout, List.forall_mem_cons, List.not_mem_nil, false_imp_iff, implies_true, and_true]
  omega

/-- What a DRW.BIN word says. -/
structure DrwBinFields (o : DrawOps) (w : Nat) : Prop where
  opcode : w / 2 ^ 26 = 0x09
  spare : bitField w 0 12 = 0
  lm : bitField w 24 2 = o.lm
  dd : bitField w 22 2 = o.dd
  agw : bitField w 19 3 = o.agw
  launch : bitField w 18 1 = bit o.launch
  sel : bitField w 16 2 = o.sel
  ags : bitField w 13 3 = o.ags
  inc : bitField w 12 1 = bit o.inc

theorem drwBin_fields (o : DrawOps) : DrwBinFields o (packed (drwBinLayout o)) :=
  have fits := drwBinLayout_fits o
  { opcode := packed_div fits 8, spare := bitField_packed fits 0, lm := bitField_packed fits 7, dd := bitField_packed fits 6,
    agw := bitField_packed fits 5, launch := bitField_packed fits 4, sel := bitField_packed fits 3, ags := bitField_packed fits 2,
    inc := bitField_packed fits 1 }

section

variable {o : DrawOps} {w : Nat}

theorem DrwBinFields.legal (f : DrwBinFields o w) : slotIllegal 1 w = false := by
  have spare : (w % 2 ^ 24 % 2 ^ lowestOperand.getD 0x09 0 != 0) = false := by
    have low := (bitField_mod (show 0 + 12 ≤ 24 by decide) w).trans f.spare
    rw [bitField, pow_zero, Nat.div_one] at low
    rw [show lowestOperand.getD 0x09 0 = 12 from rfl, low]
    rfl
  simp only [slotIllegal, f.opcode, spare, operandIllegal]
  rfl

theorem DrwBinFields.command (f : DrwBinFields o w) (cl : ClusterRef) : commandD cl w = .drwBin { o with cl := cl } := by
  simp only [commandD, f.opcode, drawOps, wordLm, dd22, ag19, fin_ofNat_of_eq f.lm, fin_ofNat_of_eq f.dd, fin_ofNat_of_eq f.agw,
    fieldBool_of_bit f.launch, fin_ofNat_of_eq f.sel, fin_ofNat_of_eq f.ags, fieldBool_of_bit f.inc]

end

/-! ### ST.LINE -/

/-- The fields of an ST.LINE word, the lowest first (R234). -/
def stLineLayout (o : StLineOps) : List (Nat × Nat) :=
  [(5, 0), (1, bit o.inc), (3, o.ago), (12, o.tgt), (3, o.ag), (2, 0), (6, 0x1F)]

theorem stLineLayout_fits (o : StLineOps) : Fits (stLineLayout o) := by
  have inc := bit_lt_two o.inc
  simp only [Fits, stLineLayout, List.forall_mem_cons, List.not_mem_nil, false_imp_iff, implies_true, and_true]
  omega

/-- What an ST.LINE word says; it acts on no lane. -/
structure StLineFields (o : StLineOps) (w : Nat) : Prop where
  opcode : w / 2 ^ 26 = 0x1F
  spare : bitField w 0 5 = 0
  lm : bitField w 24 2 = 0
  ag : bitField w 21 3 = o.ag
  tgt : bitField w 9 12 = o.tgt
  ago : bitField w 6 3 = o.ago
  inc : bitField w 5 1 = bit o.inc

theorem stLine_fields (o : StLineOps) : StLineFields o (packed (stLineLayout o)) :=
  have fits := stLineLayout_fits o
  { opcode := packed_div fits 6, spare := bitField_packed fits 0, lm := bitField_packed fits 5, ag := bitField_packed fits 4,
    tgt := bitField_packed fits 3, ago := bitField_packed fits 2, inc := bitField_packed fits 1 }

section

variable {o : StLineOps} {w : Nat}

theorem StLineFields.legal (f : StLineFields o w) : slotIllegal 2 w = false := by
  have spare : (w % 2 ^ 24 % 2 ^ lowestOperand.getD 0x1F 0 != 0) = false := by
    have low := (bitField_mod (show 0 + 5 ≤ 24 by decide) w).trans f.spare
    rw [bitField, pow_zero, Nat.div_one] at low
    rw [show lowestOperand.getD 0x1F 0 = 5 from rfl, low]
    rfl
  simp only [slotIllegal, f.opcode, spare, f.lm, operandIllegal]
  rfl

theorem StLineFields.command (f : StLineFields o w) (cl : ClusterRef) : commandM cl w = .stLine { o with cl := cl } := by
  simp only [commandM, f.opcode, ag21, fin_ofNat_of_eq f.ag, fin_ofNat_of_eq f.tgt, fin_ofNat_of_eq f.ago, fieldBool_of_bit f.inc]

end

/-! ### Router words -/

/-- An output mask as it stands in a word (R237). -/
def maskCode (m : OutMask) : Nat := 8 * bit m.n + 4 * bit m.e + 2 * bit m.s + bit m.w

theorem maskCode_lt (m : OutMask) : maskCode m < 16 := by
  rcases m with ⟨n, e, s, w⟩
  cases n <;> cases e <;> cases s <;> cases w <;> decide

theorem outMask4_of_eq {v : Nat} {m : OutMask} (field : v = maskCode m) : outMask4 v = m := by
  subst field
  rcases m with ⟨n, e, s, w⟩
  cases n <;> cases e <;> cases s <;> cases w <;> rfl

/-- The fields of a router word of the mesh forms, the lowest first (R237). -/
def meshLayout (s : SendOps) (f : FwdOps) : List (Nat × Nat) :=
  [(2, 0), (2, s.lttl), (3, f.agd), (4, maskCode f.dlv), (1, bit s.deliver), (4, maskCode f.outW), (4, maskCode f.outS), (4, maskCode f.outE),
    (4, maskCode f.outN), (4, maskCode s.outL)]

theorem meshLayout_fits (s : SendOps) (f : FwdOps) : Fits (meshLayout s f) := by
  have outL := maskCode_lt s.outL
  have outN := maskCode_lt f.outN
  have outE := maskCode_lt f.outE
  have outS := maskCode_lt f.outS
  have outW := maskCode_lt f.outW
  have deliver := bit_lt_two s.deliver
  have dlv := maskCode_lt f.dlv
  simp only [Fits, meshLayout, List.forall_mem_cons, List.not_mem_nil, false_imp_iff, implies_true, and_true]
  omega

/-- What a router word says. -/
structure MeshFields (s : SendOps) (f : FwdOps) (w : Nat) : Prop where
  outL : bitField w 28 4 = maskCode s.outL
  outN : bitField w 24 4 = maskCode f.outN
  outE : bitField w 20 4 = maskCode f.outE
  outS : bitField w 16 4 = maskCode f.outS
  outW : bitField w 12 4 = maskCode f.outW
  deliver : bitField w 11 1 = bit s.deliver
  dlv : bitField w 7 4 = maskCode f.dlv
  agd : bitField w 4 3 = f.agd
  lttl : bitField w 2 2 = s.lttl

theorem mesh_fields (s : SendOps) (f : FwdOps) : MeshFields s f (packed (meshLayout s f)) :=
  have fits := meshLayout_fits s f
  { outL := bitField_packed fits 9, outN := bitField_packed fits 8, outE := bitField_packed fits 7, outS := bitField_packed fits 6,
    outW := bitField_packed fits 5, deliver := bitField_packed fits 4, dlv := bitField_packed fits 3, agd := bitField_packed fits 2,
    lttl := bitField_packed fits 1 }

section

variable {s : SendOps} {f : FwdOps} {w : Nat}

theorem MeshFields.send (m : MeshFields s f w) (cl : ClusterRef) (agd : s.agd = f.agd) : routerSend cl w = { s with cl := cl } := by
  simp only [routerSend, outMask4_of_eq m.outL, fieldBool_of_bit m.deliver, fin_ofNat_of_eq m.agd, fin_ofNat_of_eq m.lttl, agd]

theorem MeshFields.forward (m : MeshFields s f w) (cl : ClusterRef) : routerFwd cl w = { f with cl := cl, parity := none } := by
  simp only [routerFwd, outMask4_of_eq m.outN, outMask4_of_eq m.outE, outMask4_of_eq m.outS, outMask4_of_eq m.outW, outMask4_of_eq m.dlv,
    fin_ofNat_of_eq m.agd]

end

/-! ### The obligation -/

/-- Settles O60, by the fields of each word. -/
theorem slotWordsStandForCommands : Obligations.SlotWordsStandForCommands := by
  unfold Obligations.SlotWordsStandForCommands
  refine fun cl => ⟨fun o => ?acc, fun o => ?bin, fun o => ?line, fun s f agd => ?mesh⟩
  case acc =>
    intro src form
    have source : src = srcBit o.src := rfl
    have tile : form = formCode o.form := rfl
    have fields := fldAcc_fields o
    rw [← fields.command cl, ← slotCommand_F cl fields.legal]
    refine congrArg (slotCommand 0 cl) ?_
    simp only [fldAccLayout, packed]
    omega
  case bin =>
    have fields := drwBin_fields o
    rw [← fields.command cl, ← slotCommand_D cl fields.legal]
    refine congrArg (slotCommand 1 cl) ?_
    simp only [drwBinLayout, packed]
    omega
  case line =>
    have fields := stLine_fields o
    rw [← fields.command cl, ← slotCommand_M cl fields.legal]
    refine congrArg (slotCommand 2 cl) ?_
    simp only [stLineLayout, packed]
    omega
  case mesh =>
    have fields := mesh_fields s f
    rw [← fields.send cl agd, ← fields.forward cl]
    intro mask w
    have word : w = packed (meshLayout s f) := by
      simp only [w, mask, meshLayout, maskCode, packed]
      omega
    exact ⟨congrArg (routerSend cl) word, congrArg (routerFwd cl) word⟩

end Sys2Proof.Machine

/-! REFUTATION of O27: a window takes a due row to a spare row of its bank, but the spare rows of a bank group's region that a self-test has marked
unusable (R543) serve no more; the clause on REFRESH_WINDOW does not leave such a region out. -/

namespace Sys2Proof.Machine

open Sys2Proof Sys2Proof.Safety

/-! ### A row of a region marked unusable (R543) -/

theorem State.spareRow_of_badRegion {s : State} {t row : Nat} (bad : (s.stack t).badRegions.contains (bankGroup (row / 65536)) = true) :
    s.spareRow t row = s := if_pos (.inr bad)

/-- Stack 0 serves; row 0 is due for a spare row, and a self-test has marked the spare rows of its bank group unusable. -/
def dueInBadRegion : State := { State.reset with tielux := [(0, { rowsToSpare := [0], badRegions := [0] })] }

/-- Its window spares no row. -/
theorem refreshWindow_dueInBadRegion_rowsSpared : ((dueInBadRegion.refreshWindow 0 0).stack 0).rowsSpared = 0 := by
  decide +kernel

/-- Refutes O27, in its clause on REFRESH_WINDOW: the one due row of the window's bank group lies in a region marked unusable, so it is not spared
while its bank has 64 spare rows left. The other clauses are not touched. -/
theorem not_refreshAndModes : ¬ Obligations.RefreshAndModes := by
  rintro ⟨-, windows, -⟩
  obtain ⟨t, run, -, serves⟩ := windows dueInBadRegion 0 0
  obtain ⟨-, -, -, spared⟩ := serves rfl rfl rfl
  obtain ⟨counted, -⟩ := spared 0 rfl (by decide)
  have zero := refreshWindow_dueInBadRegion_rowsSpared
  have same : dueInBadRegion.refreshWindow 0 0 = t := Host.Outcome.next.inj run
  rw [← same] at counted
  exact absurd (zero.symm.trans counted) (by decide +kernel)

end Sys2Proof.Machine

/-! REFUTATION of O22 and O28, on one fact: `rawSector` gives `readBytes` its two numbers in the other order, so it reads as many bytes as the
sector's address says, from byte 32 of the module on. What a write stores is therefore not what its line reads as. -/

namespace Sys2Proof.Machine

open Sys2Proof Sys2Proof.Safety

/-! ### The first sector of the module -/

/-- Frame 0 of stack 0, whose first byte has address 0. -/
def firstFrame : PageRef := { stack := 0, frame := 0 }

/-- The sector at address 0 reads as no bytes at all, whatever has been written there. -/
theorem State.rawSector_first (s : State) : s.rawSector 0 0 0 = 0 := by
  rw [State.rawSector]
  split <;> rfl

/-- So the low half of its line reads 0. -/
theorem State.lineAt_first_low {s : State} (serves : (s.stack 0).failed = false) : (s.lineAt firstFrame 0).toNat % 2 ^ 256 = 0 := by
  have low : s.sectorNat 0 0 0 = 0 := by rw [State.sectorNat, serves, Bool.false_and, if_neg nofun, State.rawSector_first]
  simp only [State.lineAt, firstFrame, Nat.zero_div, Nat.zero_mul, low, Nat.zero_add, BitVec.toNat_ofNat]
  omega

/-! ### A step that commits one line of that frame -/

/-- A job that runs. -/
def plainJob : Job :=
  { id := 5, seq := 1, owner := [1], req := 1, state := .running,
    body := { program := [], model := [], input := [], context := [], seed := 7, priority := 1, timing := 0, clock := 9, tiling := 0, replicas := 2,
              beta := 1, ensemble := 2, interval := 0, flags := 0, params := [], energyFormat := 0, topkSource := 0, topkK := 1, topkFlags := 0,
              checkFraction := 0, digestLevel := 0, digestEvery := 0, digestFirst := 0, stateFormat := 0, resultFlags := 0 } }

/-- The line at the start of the job's one page, as the step leaves it. -/
def firstLine : Shadow := { step := 0, alloc := 0, offset := 0, data := 3 }

/-- The end of step 0. -/
def firstStepEnd : StepEnd := { step := 0, states := [], perm := [], exch := [], ancestors := [], counts := {}, epoch := 0, sweepsLeft := 1 }

/-- A job with that step to commit. -/
def jobOnFirstFrame : Job := { plainJob with
  stepEnds := [firstStepEnd], shadows := [firstLine],
  allocs := [{ size := 64, protectedLayout := false, fixed := false, placeArg := 0, pages := [firstFrame] }] }

/-- The S6 with this job, its page taken once since stack 0 was cleared. -/
def commitsFirstLine : State := { State.reset with
  jobs := { table := [(0, some jobOnFirstFrame)], nextId := 6, nextSeq := 2 },
  tielux := [(0, { frames := [(0, { use := .job 5, gen := 1, cleared := true })] })] }

theorem stepCommit_commitsFirstLine_serves : ((commitsFirstLine.stepCommit 0).stack 0).failed = false := by decide +kernel

/-- Refutes O22, in its clause on the shadow written at a commit: the line of the one shadow is in the frame at address 0, and its first sector
reads 0 after the commit. The clause on the commit itself is not touched. -/
theorem not_stepCommits : ¬ Obligations.StepCommits := by
  rintro ⟨-, writes⟩
  obtain ⟨t, run, line, -⟩ := writes commitsFirstLine 0 jobOnFirstFrame firstStepEnd [] firstLine firstFrame 0 rfl rfl (by decide +kernel) rfl rfl
    (fun w mem => absurd mem List.not_mem_nil) (by decide +kernel) (by decide +kernel) rfl (by decide) (by decide +kernel) (by decide) (by decide)
    (by decide) rfl
  have same : commitsFirstLine.stepCommit 0 = t := Host.Outcome.next.inj run
  have low := State.lineAt_first_low stepCommit_commitsFirstLine_serves
  rw [same, line] at low
  exact absurd low (by decide +kernel)

/-! ### What a later sector reads -/

section Reads

variable {s : State} {m : List Host.Cell}

theorem leNat_readBytes_of_zero : ∀ (n a : Nat), (∀ i, a ≤ i → readByte m i = 0) → leNat (readBytes m n a) = 0
  | 0, _, _ => rfl
  | n + 1, a, zero => by
    rw [readBytes, leNat, zero a (Nat.le_refl a), leNat_readBytes_of_zero n (a + 1) fun i low => zero i (by omega)]
    rfl

/-- Where byte 32 alone is written, any bytes from there on are the number 1. -/
theorem leNat_readBytes_of_byte32 {n : Nat} (positive : 0 < n) : leNat (readBytes [(32, 1)] n 32) = 1 := by
  obtain ⟨k, rfl⟩ := Nat.exists_eq_add_of_lt positive
  rw [Nat.zero_add, readBytes, leNat, leNat_readBytes_of_zero k 33 fun i low => by rw [readByte, mget, if_neg (by omega), mget]]
  rfl

theorem leNat_readBytes_low {n : Nat} (positive : 0 < n) (a : Nat) : leNat (readBytes m n a) % 256 = (readByte m a).toNat := by
  obtain ⟨k, rfl⟩ := Nat.exists_eq_add_of_lt positive
  rw [Nat.zero_add, readBytes, leNat]
  have := (readByte m a).isLt
  omega

/-- A current sector of a serving stack: its address is the number of bytes that are read. -/
theorem State.sectorNat_of_current {t f n : Nat} (serves : (s.stack t).failed = false) (current : s.sectorCurrent t f n = true) :
    s.sectorNat t f n = leNat (readBytes s.mem (memKey t f (32 * n)) 32) := by
  rw [State.sectorNat, serves, Bool.false_and, if_neg nofun, State.rawSector, if_pos current]

/-- So the low byte of every current line but the first one is byte 32 of the module. -/
theorem State.lineAt_low {p : PageRef} {off : Nat} (serves : (s.stack p.stack).failed = false)
    (current : s.sectorCurrent p.stack p.frame (off / 64 * 2) = true) (above : 0 < memKey p.stack p.frame (32 * (off / 64 * 2))) :
    (s.lineAt p off).toNat % 256 = (readByte s.mem 32).toNat := by
  have low := leNat_readBytes_low (m := s.mem) above 32
  simp only [State.lineAt, State.sectorNat_of_current serves current, BitVec.toNat_ofNat]
  omega

theorem State.line_of_stale {p : PageRef} {off : Nat} (serves : (s.stack p.stack).failed = false)
    (lo : s.sectorCurrent p.stack p.frame (off / 64 * 2) = false) (hi : s.sectorCurrent p.stack p.frame (off / 64 * 2 + 1) = false) :
    s.lineAt p off = 0 ∧ (s.lineMarks p off).any = false := by
  simp [State.lineAt, State.lineMarks, LineMarks.any, State.sectorNat, State.sectorPoison, State.rawSector, State.rawSectorPoison, serves, lo, hi]

theorem State.lineAt_log (s : State) (e : EventSpec) (p : PageRef) (off : Nat) : (s.log e).lineAt p off = s.lineAt p off := rfl

theorem foldl_of_fixed {α β : Type} {f : α → β → α} {a : α} : ∀ {l : List β}, (∀ b ∈ l, f a b = a) → l.foldl f a = a
  | [], _ => rfl
  | b :: l, fixed => by
    rw [List.foldl_cons, fixed b (.head l)]
    exact foldl_of_fixed fun c mem => fixed c (.tail b mem)

/-- A page of which only the first line is written: its copy copies that line. -/
theorem State.copyPage_of_firstLine {a b : PageRef} (first : s.lineAt a 0 ≠ 0)
    (rest : ∀ i, 0 < i → i < 32768 → (s.copyLine a 0 b 0).lineAt a (64 * i) = 0 ∧ ((s.copyLine a 0 b 0).lineMarks a (64 * i)).any = false) :
    s.copyPage a b = s.copyLine a 0 b 0 := by
  have lines : List.range (pageBytes / 64) = 0 :: (List.range 32767).map (· + 1) := List.range_succ_eq_map
  rw [State.copyPage, lines, List.foldl_cons, Nat.mul_zero, if_neg fun idle => first idle.1]
  refine foldl_of_fixed fun i mem => if_pos ?_
  obtain ⟨n, range, rfl⟩ := List.mem_map.1 mem
  have := List.mem_range.1 range
  exact rest (n + 1) (by omega) (by omega)

end Reads

/-! ### A page that moves to a stripe with its parity in that frame -/

/-- The page of the context, in a degraded stripe. -/
def movedPage : PageRef := { stack := 12, frame := 1 }

/-- The frame that it moves to. -/
def newPage : PageRef := { stack := 12, frame := 0 }

/-- Stack 6 has failed, and stripe 1 of its group spans it; stripe 0, with its parity in the frame at address 0, does not. The context of a job
lies in stripe 1, its first line written with zeros, and one byte of the parity of stripe 0 is 1. -/
def degradedContext : State := { State.reset with
  jobs := { table := [(0, some { plainJob with contextPages := [movedPage] })], nextId := 6, nextSeq := 2 },
  mem := [(32, 1)],
  tielux := [(0, { frames := [(0, { use := .parity, protectedLayout := true, cleared := true })] }),
    (6, { failed := true, frames := [(1, { use := .job 5, protectedLayout := true, cleared := true })] }),
    (12, { frames := [(0, { protectedLayout := true, cleared := true }), (1, { use := .job 5, protectedLayout := true, gen := 1, cleared := true })],
           tags := [(65536, { gen := 1 }), (65537, { gen := 1 })] })] }

/-- Frame 0 of stack 12 taken for the page. -/
def contextTaken : State := degradedContext.takeFrame (.job 5) true 12 0

/-- What every line that is current reads as while byte 32 alone is written. -/
def byte32Line : BitVec 512 := BitVec.ofNat 512 (1 + 2 ^ 256 * 1)

/-- The written line of the page copied. -/
def contextCopied : State := contextTaken.writeLineAt newPage 0 byte32Line {}

theorem takeFrom_degradedContext : degradedContext.takeFrom (.job 5) true (stacksFrom 12) = some (contextTaken, newPage) := by
  have first : allFrames.find? (fun f => degradedContext.canTake true 12 f) = some 0 := by decide +kernel
  have page : degradedContext.takePage (.job 5) true 12 = some (contextTaken, newPage) := by
    rw [State.takePage, first]
    rfl
  have order : stacksFrom 12 = 12 :: (List.range 35).map fun i => (13 + i) % 36 := by decide +kernel
  rw [order, State.takeFrom, page]

theorem lineAt_movedPage {s : State} (mem : s.mem = [(32, 1)]) (serves : (s.stack 12).failed = false)
    (lo : s.sectorCurrent 12 1 0 = true) (hi : s.sectorCurrent 12 1 1 = true) : s.lineAt movedPage 0 = byte32Line := by
  have below : 0 < memKey 12 1 (32 * 0) ∧ 0 < memKey 12 1 (32 * 1) := by decide
  simp only [State.lineAt, movedPage, Nat.zero_div, Nat.zero_mul, Nat.zero_add, State.sectorNat_of_current serves lo,
    State.sectorNat_of_current serves hi, mem, leNat_readBytes_of_byte32 below.1, leNat_readBytes_of_byte32 below.2, byte32Line]

theorem copyLine_contextTaken : contextTaken.copyLine movedPage 0 newPage 0 = contextCopied := by
  have line : contextTaken.lineAt movedPage 0 = byte32Line := lineAt_movedPage rfl rfl (by decide +kernel) (by decide +kernel)
  have marks : contextTaken.lineMarks movedPage 0 = {} := by decide +kernel
  rw [State.copyLine, line, marks, contextCopied]

theorem contextCopied_rest {i : Nat} (later : 0 < i) :
    contextCopied.lineAt movedPage (64 * i) = 0 ∧ (contextCopied.lineMarks movedPage (64 * i)).any = false := by
  have serves : (contextCopied.stack 12).failed = false := by decide +kernel
  have gen : (contextCopied.frameEntry 12 1).gen = 1 := by decide +kernel
  have tags : (contextCopied.stack 12).tags = [(0, { gen := 1 }), (1, { gen := 1 }), (65536, { gen := 1 }), (65537, { gen := 1 })] := by
    decide +kernel
  have stale (n : Nat) (low : 1 < n) : contextCopied.sectorCurrent 12 1 n = false := by
    have above : 65537 < tagKey 1 n := by rw [tagKey]; omega
    rw [State.sectorCurrent, gen, State.tagOf, tags, mget, if_neg (by omega), mget, if_neg (by omega), mget, if_neg (by omega), mget,
      if_neg (by omega), mget]
    rfl
  exact State.line_of_stale serves (stale _ (by omega)) (stale _ (by omega))

/-- The context moved, its new frame named and its old one free. -/
def contextMoved : State := (contextCopied.retarget movedPage newPage).freeFrame movedPage

/-- The move has updated the parity of the new line, and with it byte 32. -/
theorem lineAt_contextMoved : (contextMoved.lineAt newPage 0).toNat % 256 = 0 := by
  have serves : (contextMoved.stack 12).failed = false := by decide +kernel
  have current : contextMoved.sectorCurrent 12 0 0 = true := by decide +kernel
  have overwritten : readByte contextMoved.mem 32 = 0 := by decide +kernel
  have low := State.lineAt_low (p := newPage) (off := 0) serves current (by decide)
  rwa [overwritten] at low

theorem stripeMove_degradedContext : ((degradedContext.stripeMove 12 1).lineAt newPage 0).toNat % 256 = 0 := by
  have moves : degradedContext.movable { stack := 12, frame := 1 } = true := by decide +kernel
  have use : (degradedContext.frameEntry 12 1).use = .job 5 := by decide +kernel
  have copies : contextTaken.copyPage movedPage newPage = contextCopied := by
    rw [← copyLine_contextTaken]
    refine State.copyPage_of_firstLine ?_ fun i low _ => ?_
    · rw [lineAt_movedPage rfl rfl (by decide +kernel) (by decide +kernel)]
      decide +kernel
    · rw [copyLine_contextTaken]
      exact contextCopied_rest low
  rw [State.stripeMove]
  simp only [moves, if_true, use, takeFrom_degradedContext]
  rw [← movedPage, copies, ← contextMoved]
  split
  · exact lineAt_contextMoved
  · rw [State.lineAt_log]
    exact lineAt_contextMoved

/-- Refutes O28, in its clause on STRIPE_MOVE: the written line of the page does not read in the new frame as it read in the old one. The other
clauses are not touched. -/
theorem not_sparesAndMoves : ¬ Obligations.SparesAndMoves := by
  rintro ⟨-, -, moves, -⟩
  obtain ⟨t, run, -, -, moved⟩ := moves degradedContext 12 1 (by decide)
  obtain ⟨-, -, -, lines⟩ := moved contextTaken newPage (by decide +kernel) takeFrom_degradedContext
  have held : degradedContext.lineAt movedPage 0 = byte32Line := lineAt_movedPage rfl rfl (by decide +kernel) (by decide +kernel)
  have written : byte32Line ≠ 0 := by decide +kernel
  have line : t.lineAt newPage 0 = byte32Line := (lines 0 (by decide) (held.trans_ne written)).trans held
  have same : degradedContext.stripeMove 12 1 = t := Host.Outcome.next.inj run
  have low := stripeMove_degradedContext
  rw [same, line] at low
  exact absurd low (by decide +kernel)

end Sys2Proof.Machine

/-! PROOF, the rules that O26 and O32 share: freeing frames, moving operations and ending jobs leave the modes of every stack as they are. -/

namespace Sys2Proof.Machine

open Sys2Proof Sys2Proof.Safety

/-- Has a stack failed, is it clocked, and does it refresh itself. -/
def Stack.modes (k : Stack) : Bool × Bool × Bool := (k.failed, k.clocked, k.selfRefresh)

/-- Every stack has the modes that it had. -/
def SameModes (s t : State) : Prop := ∀ u, (t.stack u).modes = (s.stack u).modes

section Modes

variable {s t u : State}

theorem SameModes.refl (s : State) : SameModes s s := fun _ => rfl

theorem SameModes.trans (a : SameModes s t) (b : SameModes t u) : SameModes s u := fun k => (b k).trans (a k)

theorem SameModes.of_tielux (same : t.tielux = s.tielux) : SameModes s t := fun k => by rw [State.stack, same, ← State.stack]

theorem Kept.sameModes {A : List Part} (kept : Kept A s t) (other : Part.tielux ∉ A := by decide) : SameModes s t :=
  .of_tielux (kept.frame.same .tielux other)

theorem SameModes.foldl {α : Type} {f : State → α → State} (keeps : ∀ t a, SameModes t (f t a)) : ∀ (l : List α) {s : State}, SameModes s (l.foldl f s)
  | [], s => .refl s
  | a :: l, s => (keeps s a).trans (SameModes.foldl keeps l)

theorem State.modStack_sameModes (s : State) (k : Nat) {f : Stack → Stack} (keeps : ∀ x, (f x).modes = x.modes) : SameModes s (s.modStack k f) := by
  intro u
  rw [State.stack_modStack]
  split
  · rename_i same
    rw [keeps, same]
  · rfl

theorem State.modFrame_sameModes (s : State) (k f : Nat) (g : FrameEntry → FrameEntry) : SameModes s (s.modFrame k f g) :=
  s.modStack_sameModes k fun _ => rfl

theorem State.giveBack_sameModes (s : State) (k f : Nat) : SameModes s (s.giveBack k f) := by
  rw [State.giveBack]
  split
  · exact (s.modFrame_sameModes k f _).trans (State.modStack_sameModes _ k fun _ => rfl)
  · exact s.modFrame_sameModes k f _

theorem State.relaxStripe_sameModes (s : State) (k f : Nat) : SameModes s (s.relaxStripe k f) := by
  rw [State.relaxStripe]
  split
  · exact .foldl (fun t u => (t.giveBack_sameModes u f).trans (State.modFrame_sameModes _ u f _)) _
  · exact .refl s

theorem State.freeFrame_sameModes (s : State) (p : PageRef) : SameModes s (s.freeFrame p) := by
  rw [State.freeFrame]
  split
  · exact (s.giveBack_sameModes _ _).trans (State.relaxStripe_sameModes _ _ _)
  · exact s.giveBack_sameModes _ _

theorem State.freePages_sameModes (s : State) (ps : List PageRef) : SameModes s (s.freePages ps) :=
  .foldl (fun t p => t.freeFrame_sameModes p) ps

theorem State.dropOutward_sameModes (s : State) (id step : Nat) : SameModes s (s.dropOutward id step) := by
  intro u
  exact (congrArg Stack.modes (mget_map_values (d := ({} : Stack)) (F := fun _ k => { k with
    intake := k.intake.filter fun o => o.job != id || decide (o.step < step),
    waiting := k.waiting.filter fun o => o.job != id || decide (o.step < step),
    rounds := k.rounds.filter fun r => r.job != id || (r.held.any fun h => h.2.any fun o => decide (o.step < step)) })
    (fun _ => rfl) s.tielux u)).trans rfl

theorem State.dropReleased_sameModes (s : State) : SameModes s s.dropReleased :=
  (s.freePages_sameModes _).trans (.of_tielux rfl)

/-! ### The end of a job -/

theorem State.withoutJob_sameModes (s : State) (slot : Nat) (j : Job) (status : Nat) : SameModes s (s.withoutJob slot j status) := by
  have sealed : Kept [.free] s (s.sealedEnd j status).1 := State.sealResult_kept _ status (Kept.refl s) (by decide)
  exact sealed.sameModes.trans ((State.freePages_sameModes _ _).trans (State.dropOutward_sameModes _ _ _))

theorem State.tellEnd_sameModes (s : State) (j : Job) (silent : Bool) (status d0 d1 : Nat) : SameModes s (s.tellEnd j silent status d0 d1) := by
  have told (t : State) : SameModes t (t.complete j.owner (some j.sess) (t.finalRecord j status d0 d1)) :=
    (State.complete_kept (A := [.transport, .streams]) _ _ _ (Kept.refl t) (by decide)).sameModes
  have heard (g : GroupState) : SameModes s (s.toNeighbours g (g.barrier 5 (BitVec.ofNat 16 status) j.epoch)) :=
    (State.toNeighbours_kept (A := [.transport]) _ _ (Kept.refl s) (by decide)).sameModes
  rw [State.tellEnd]
  split <;> split
  · exact heard _
  · exact .refl s
  · exact (heard _).trans (told _)
  · exact told s

theorem State.raiseSettings_sameModes (s : State) : SameModes s s.raiseSettings :=
  (State.raiseSettings_kept (A := [.jobs]) (Kept.refl s) (by decide)).sameModes

theorem State.endJob_sameModes (s : State) (slot status d0 d1 : Nat) : SameModes s (s.endJob slot status d0 d1) := by
  cases job : s.job? slot with
  | none =>
    rw [State.endJob, job]
    exact .refl s
  | some j =>
    by_cases done : j.state = .ended
    · rw [State.endJob, job]
      dsimp only
      rw [if_pos (by simp [done])]
      exact .refl s
    · by_cases writes : j.state = .preempting
      · rw [State.endJob, job]
        dsimp only
        rw [if_neg (by simp [done]), if_pos (by simp [writes])]
        exact .of_tielux rfl
      · rw [State.endJob_eq job done writes]
        have moved : SameModes (s.withoutJob slot j status)
            ((s.withoutJob slot j status).setJob (s.withoutJob slot j status).endedPlace (s.endedJob j status)) :=
          .of_tielux (State.setJob_tielux _ _ _)
        have told := moved.trans (State.tellEnd_sameModes _ (s.endedJob j status) j.finalSent status d0 d1)
        exact (s.withoutJob_sameModes slot j status).trans (told.trans ((State.dropReleased_sameModes _).trans (State.raiseSettings_sameModes _)))

end Modes

end Sys2Proof.Machine


/-! PROOF of O26: sectors read and decoded, failing data dies, and the job that waits for a reread. -/

namespace Sys2Proof.Machine

open Sys2Proof Sys2Proof.Safety

section Failing

variable {s : State} {t : Nat}

/-! ### A stack that fails (R267) -/

theorem State.endLost_sameModes (s : State) : SameModes s s.endLost := .foldl (fun t k => t.endJob_sameModes k _ _ _) _

theorem State.endLost_journal (s : State) : s.endLost.journal.events = s.journal.events := by
  have kept : Kept [.clusters, .tielux, .jobs, .objects, .transport, .streams, .free] s s.endLost := State.endLost_kept (Kept.refl s) (by decide)
  exact congrArg Prod.fst (kept.frame.same .events (by decide)).1

theorem State.rehome_sameModes (s : State) (t : Nat) : SameModes s (s.rehome t) := by
  refine (s.modStack_sameModes t (f := fun x => { x with intake := [], waiting := [], rounds := [] }) fun _ => rfl).trans
    ((SameModes.foldl (fun a r => ?_) _).trans (.foldl (fun a o => ?_) _)) <;>
  · split
    · exact a.modStack_sameModes _ fun _ => rfl
    · exact .refl a

/-- A stack that fails stays failed through what its failure brings, and its event is the latest one. -/
theorem State.failStack_fails (serves : (s.stack t).failed = false) : ((s.failStack t).stack t).failed = true ∧ Logged (s.failStack t) 0x0913 := by
  rw [State.failStack, if_neg (by simp [serves])]
  generalize failed : (s.modStack t fun k => { k with failed := true }).log _ = u
  have marked : (u.damageLost.stack t).failed = true := by
    rw [← failed]
    exact congrArg Stack.failed ((s.stack_modStack t t fun k => { k with failed := true }).trans (if_pos rfl))
  have logged : LoggedLately u.damageLost 0x0913 0 := by
    rw [← failed]
    exact (LoggedLately.of_log _ _).of_events rfl
  have rehomed : Kept [.tielux] u.damageLost.endLost (u.damageLost.endLost.rehome t) := State.rehome_kept t (Kept.refl _) (by decide)
  have modes := ((State.endLost_sameModes u.damageLost).trans (State.rehome_sameModes _ t)) t
  refine ⟨(congrArg Prod.fst modes).trans marked, ((logged.of_events (State.endLost_journal _)).of_events ?_).logged⟩
  exact congrArg Prod.fst (rehomed.frame.same .events (by decide)).1

/-- A data die that fails before the spare die is used is replaced by it (R266). -/
theorem State.loseDataDie_of_unused {g : Nat} (unused : (s.stack t).spareState = .unused) :
    s.loseDataDie t g = (s.modStack t fun x => { x with sparedDie := g, spareState := .copying, spareCopyFrame := 0 }).log
      { code := 0x0912, severity := 1, kind := 5, unit := unitWord t 0xFF 0xFF 0xFF, detail := BitVec.ofNat 64 g } := if_pos unused

/-- A second data die that fails leaves the stack failed (R267). -/
theorem State.loseDataDie_of_other {g : Nat} (used : (s.stack t).spareState ≠ .unused) (other : (s.stack t).sparedDie ≠ g) :
    s.loseDataDie t g = s.failStack t := (if_neg used).trans (if_neg other)

end Failing

/-! ### A sector as it stands -/

section Sectors

variable {s u : State} {t f n : Nat}

/-- Two states that agree on every stack's frames, tags and service agree on their sectors. -/
structure SameSectors (s u : State) : Prop where
  frames : ∀ k, (u.stack k).frames = (s.stack k).frames
  tags : ∀ k, (u.stack k).tags = (s.stack k).tags
  failed : ∀ k, (u.stack k).failed = (s.stack k).failed

theorem SameSectors.frameEntry (same : SameSectors s u) (t f : Nat) : u.frameEntry t f = s.frameEntry t f := by
  rw [State.frameEntry, same.frames, ← State.frameEntry]

theorem SameSectors.tagOf (same : SameSectors s u) (t f n : Nat) : u.tagOf t f n = s.tagOf t f n := by
  rw [State.tagOf, same.tags, ← State.tagOf]

theorem SameSectors.sectorCurrent (same : SameSectors s u) (t f n : Nat) : u.sectorCurrent t f n = s.sectorCurrent t f n := by
  rw [State.sectorCurrent, same.tagOf, same.frameEntry, ← State.sectorCurrent]

theorem SameSectors.rawSectorPoison (same : SameSectors s u) (t f n : Nat) : u.rawSectorPoison t f n = s.rawSectorPoison t f n := by
  rw [State.rawSectorPoison, same.sectorCurrent, same.tagOf, ← State.rawSectorPoison]

theorem SameSectors.canReconstruct (same : SameSectors s u) (t f n : Nat) : u.canReconstruct t f n = s.canReconstruct t f n := by
  simp only [State.canReconstruct, State.matesGive, State.mates, same.frameEntry, same.rawSectorPoison, same.failed]

theorem State.modStack_sameSectors (s : State) (t : Nat) {g : Stack → Stack}
    (keeps : ∀ k, (g k).frames = k.frames ∧ (g k).tags = k.tags ∧ (g k).failed = k.failed) : SameSectors s (s.modStack t g) := by
  constructor <;>
  · intro k
    rw [State.stack_modStack]
    split
    · rename_i same
      simp only [keeps, same]
    · rfl

theorem State.loseDataDie_sectorCurrent {g : Nat} (unused : (s.stack t).spareState = .unused) (f n : Nat) :
    (s.loseDataDie t g).sectorCurrent t f n = s.sectorCurrent t f n := by
  rw [State.loseDataDie_of_unused unused]
  exact (s.modStack_sameSectors t (g := fun x => { x with sparedDie := g, spareState := .copying, spareCopyFrame := 0 })
    fun _ => ⟨rfl, rfl, rfl⟩).sectorCurrent t f n

end Sectors

/-! ### What a read notes of its stack (R258, R260, R265) -/

section Notes

variable {s : State} {t f n : Nat}

/-- A write-back pending for a sector. -/
def Stack.pend (k : Stack) (key : Nat) : Stack := { k with writebacks := if k.writebacks.contains key then k.writebacks else k.writebacks ++ [key] }

theorem Stack.mem_pend (k : Stack) (key : Nat) : key ∈ (k.pend key).writebacks := by
  simp only [Stack.pend]
  split
  · rename_i held
    exact List.contains_iff_mem.1 held
  · exact List.mem_append_right _ (.head _)

/-- From `k` to `l` no reread was counted and no due row was forgotten. -/
structure Stack.Follows (k l : Stack) : Prop where
  retries : l.retryCount = k.retryCount
  due : k.rowsToSpare ⊆ l.rowsToSpare

theorem Stack.Follows.trans {k l m : Stack} (a : k.Follows l) (b : l.Follows m) : k.Follows m :=
  ⟨b.retries.trans a.retries, List.Subset.trans a.due b.due⟩

theorem Stack.mem_dueRow (k : Stack) (row : Nat) : row ∈ (k.dueRow row).rowsToSpare := by
  simp only [Stack.dueRow]
  split
  · rename_i held
    exact List.contains_iff_mem.1 held
  · exact List.mem_append_right _ (.head _)

theorem Stack.dueRow_due (k : Stack) (row : Nat) : k.rowsToSpare ⊆ (k.dueRow row).rowsToSpare := by
  intro r mem
  simp only [Stack.dueRow]
  split
  · exact mem
  · exact List.mem_append_left _ mem

/-- A corrected error of a row changes what is noted of rows, and forgets no due one. -/
theorem Stack.noteRowError_eq (k : Stack) (row now : Nat) : ∃ e r, k.noteRowError row now = { k with rowErrors := e, rowsToSpare := r } ∧ k.rowsToSpare ⊆ r := by
  rw [Stack.noteRowError]
  split
  · exact ⟨_, _, rfl, Stack.dueRow_due _ row⟩
  · exact ⟨_, _, rfl, List.Subset.refl _⟩

theorem State.noteCorrected_stack (s : State) (t f n : Nat) : ∃ e r,
    (s.noteCorrected t f n).stack t = { (s.stack t).pend (tagKey f n) with ceCount := satAdd 32 (s.stack t).ceCount 1, rowErrors := e, rowsToSpare := r } ∧
    (s.stack t).rowsToSpare ⊆ r := by
  obtain ⟨e, r, noted, due⟩ := Stack.noteRowError_eq { (s.stack t).pend (tagKey f n) with ceCount := satAdd 32 (s.stack t).ceCount 1 } (rowOf f n) s.nowNs
  refine ⟨e, r, ?_, due⟩
  rw [State.noteCorrected, State.stack_modStack, if_pos rfl]
  exact noted

theorem State.noteCorrected_follows (s : State) (t f n : Nat) : (s.stack t).Follows ((s.noteCorrected t f n).stack t) := by
  obtain ⟨e, r, noted, due⟩ := s.noteCorrected_stack t f n
  rw [noted]
  exact ⟨rfl, due⟩

theorem State.stack_modStack_self (s : State) (t : Nat) (g : Stack → Stack) : (s.modStack t g).stack t = g (s.stack t) :=
  (s.stack_modStack t t g).trans (if_pos rfl)

theorem State.miscorrect_follows (s : State) (t f n : Nat) : (s.stack t).Follows ((s.miscorrect t f n).stack t) := by
  rw [State.miscorrect, State.setTag, State.stack_modStack_self]
  exact ⟨rfl, List.Subset.refl _⟩

theorem State.reconstruct_stack (s : State) (t f n : Nat) : (s.reconstruct t f n).stack t =
    { s.stack t with tags := mset {} (s.stack t).tags (tagKey f n) { gen := (s.frameEntry t f).gen }, reconCount := satAdd 32 (s.stack t).reconCount 1 } := by
  rw [State.reconstruct, State.stack_modStack_self, State.setTag, State.stack_modStack_self]
  rfl

/-- The sector marked, before the mark is counted. -/
def State.setMirage (s : State) (t f n : Nat) (wrong : List (Nat × Nat)) : State :=
  (s.putSector t f n (asRead (s.rawSector t f n) wrong)).setTag t f n { mirage := true, gen := (s.frameEntry t f).gen }

theorem State.setMirage_stack (s : State) (t f n : Nat) (wrong : List (Nat × Nat)) : (s.setMirage t f n wrong).stack t =
    { s.stack t with tags := mset {} (s.stack t).tags (tagKey f n) { mirage := true, gen := (s.frameEntry t f).gen } } := by
  rw [State.setMirage, State.setTag, State.stack_modStack_self]
  rfl

/-- The mark counted and logged, and the images in its frame marked with it. -/
def State.noteMirage (s : State) (t f n : Nat) : State :=
  ((s.modStack t fun k => { k with mirageCount := satAdd 32 k.mirageCount 1 }).log
    { code := 0x0916, severity := 2, kind := 5, unit := unitWord t 0xFF 0xFF 0xFF, detail := BitVec.ofNat 64 (f * 65536 + n) }).damageFrame t f

theorem State.noteMirage_stack (s : State) (t f n : Nat) : (s.noteMirage t f n).stack t =
    { s.stack t with mirageCount := satAdd 32 (s.stack t).mirageCount 1 } :=
  s.stack_modStack_self t fun k => { k with mirageCount := satAdd 32 k.mirageCount 1 }

/-- A sector that is marked already is not counted again (R272). -/
theorem State.markMirage_eq (s : State) (t f n : Nat) (wrong : List (Nat × Nat)) : s.markMirage t f n wrong =
    if s.rawSectorPoison t f n then s.setMirage t f n wrong else (s.setMirage t f n wrong).noteMirage t f n := rfl

theorem State.markMirage_stack (s : State) (t f n : Nat) (wrong : List (Nat × Nat)) : (s.markMirage t f n wrong).stack t =
    { s.stack t with tags := mset {} (s.stack t).tags (tagKey f n) { mirage := true, gen := (s.frameEntry t f).gen },
                     mirageCount := if s.rawSectorPoison t f n then (s.stack t).mirageCount else satAdd 32 (s.stack t).mirageCount 1 } := by
  rw [State.markMirage_eq]
  split
  · exact s.setMirage_stack t f n wrong
  · rw [State.noteMirage_stack, State.setMirage_stack]

/-- Every image with a page in the frame is marked with it (R263). -/
theorem State.noteMirage_damages {o : HeldObject} (held : o ∈ (s.noteMirage t f n).objects.held) (page : { stack := t, frame := f } ∈ o.pages) :
    o.damaged = true := by
  obtain ⟨old, -, rfl⟩ := List.mem_map.1 held
  split
  · rfl
  · rename_i missing
    rw [if_neg missing] at page
    exact absurd (List.contains_iff_mem.2 page) missing

/-! ### The outcomes of a read (R258) -/

/-- A reread counted, and its row due. -/
def State.countReread (s : State) (t f n : Nat) : State :=
  s.modStack t fun k => ({ k with retryCount := satAdd 32 k.retryCount 1 } : Stack).dueRow (rowOf f n)

theorem State.countReread_stack (s : State) (t f n : Nat) : (s.countReread t f n).stack t =
    ({ s.stack t with retryCount := satAdd 32 (s.stack t).retryCount 1 } : Stack).dueRow (rowOf f n) := s.stack_modStack_self t _

theorem State.countReread_sameSectors (s : State) (t f n : Nat) : SameSectors s (s.countReread t f n) :=
  s.modStack_sameSectors t fun _ => ⟨rfl, rfl, rfl⟩

variable {again : List (Nat × Nat)}

theorem State.reread_of_clean (clean : again.length = 0) :
    s.reread t f n again = (s.countReread t f n).modStack t fun k => k.pend (tagKey f n) := by
  simp only [State.reread, clean]
  rfl

theorem State.reread_of_one (one : again.length = 1) : s.reread t f n again = (s.countReread t f n).noteCorrected t f n := by
  simp only [State.reread, one]
  rfl

theorem State.reread_of_two (two : again.length = 2) : s.reread t f n again =
    if (s.countReread t f n).canReconstruct t f n then (s.countReread t f n).reconstruct t f n else (s.countReread t f n).markMirage t f n again := by
  simp only [State.reread, two]
  rfl

theorem State.decodeCount_stack (s : State) (m t : Nat) : (s.decodeCount m).2.stack t = s.stack t := by
  simp only [State.decodeCount]
  split_ifs <;> rfl

/-- Whatever a reread brings, it is counted and its row is due. -/
theorem State.reread_counted (s : State) (t f n : Nat) (again : List (Nat × Nat)) :
    ((s.reread t f n again).stack t).retryCount = satAdd 32 (s.stack t).retryCount 1 ∧ rowOf f n ∈ ((s.reread t f n again).stack t).rowsToSpare := by
  suffices follows : ((s.countReread t f n).stack t).Follows ((s.reread t f n again).stack t) by
    obtain ⟨retries, due⟩ := follows
    rw [State.countReread_stack] at retries due
    exact ⟨retries, due (Stack.mem_dueRow _ _)⟩
  simp only [State.reread]
  generalize decoded : State.decodeCount _ _ = d
  have start : d.2.stack t = (s.countReread t f n).stack t := decoded ▸ State.decodeCount_stack _ _ _
  rw [← start]
  split
  · rw [State.stack_modStack_self]
    exact ⟨rfl, List.Subset.refl _⟩
  · exact d.2.noteCorrected_follows t f n
  · exact (d.2.miscorrect_follows t f n).trans (State.noteCorrected_follows _ t f n)
  · split
    · rw [State.reconstruct_stack]
      exact ⟨rfl, List.Subset.refl _⟩
    · rw [State.markMirage_stack]
      exact ⟨rfl, List.Subset.refl _⟩

end Notes

section Rows

variable {s : State} {t f n : Nat} {raw : SectorRaw} {job : Option (Fin 4096)}

theorem State.treatSector_of_stale (stale : s.sectorCurrent t f n = false) : s.treatSector t f n raw job = s := if_pos stale

theorem State.treatSector_of_clean (current : s.sectorCurrent t f n = true) (clean : (wrongSymbols raw.first).length = 0) :
    s.treatSector t f n raw job = s := by
  simp [State.treatSector, State.decodeCount, current, clean]

theorem State.treatSector_of_one (current : s.sectorCurrent t f n = true) (one : (wrongSymbols raw.first).length = 1) :
    s.treatSector t f n raw job = s.noteCorrected t f n := by
  simp [State.treatSector, State.decodeCount, current, one]

theorem State.treatSector_of_two (current : s.sectorCurrent t f n = true) (two : (wrongSymbols raw.first).length = 2) :
    s.treatSector t f n raw job = (s.reread t f n (wrongSymbols raw.again)).latencyHold job := by
  simp [State.treatSector, State.decodeCount, current, two]

variable {r : SectorRef}

theorem State.sectorRead_of_serving (serves : (s.stack r.stack.val).failed = false) (alive : raw.dieFailed = false) :
    s.sectorRead r raw job = s.treatSector r.stack.val r.frame r.sector.val raw job := by
  simp [State.sectorRead, serves, alive]

/-- Added latency strikes a running job with a hold, after a demotion with cause 1 (R259). -/
theorem State.latencyHold_becomes {slot : Fin 4096} {j : Job} (held : s.job? slot.val = some j) (runs : j.state = .running) :
    ∃ len, JobBecomes s (s.latencyHold (some slot)) slot.val ((j.demotedFor 1).takeHold len) := by
  obtain ⟨d, m, c, g, v, a, demoted⟩ := j.demotedFor_eq 1
  have running : ((j.demotedFor 1).state == .running) = true := by rw [demoted]; simp [runs]
  have counted : State.job? { s with free := s.free + 1 } slot.val = some j := held
  refine ⟨1 + Config.waitCycles s.free % 64, ?_⟩
  have held := (State.demote_becomes counted 1).modJob fun j => if j.state == .running then j.takeHold (1 + Config.waitCycles s.free % 64) else j
  rw [if_pos running] at held
  exact held

end Rows

end Sys2Proof.Machine


/-! PROOF of O26, its theorem: the rows of R258, and reads elsewhere. -/

namespace Sys2Proof.Machine

open Sys2Proof Sys2Proof.Safety

section Rows

variable {s : State} {t f n : Nat} {again : List (Nat × Nat)}

theorem State.rawSectorPoison_of_current (current : s.sectorCurrent t f n = true) : s.rawSectorPoison t f n = (s.tagOf t f n).mirage := by
  rw [State.rawSectorPoison, current, Bool.true_and]

theorem State.noteCorrected_touches (s : State) (t f n : Nat) : OnlyTouches [.tielux] s (s.noteCorrected t f n) :=
  (State.noteCorrected_kept t f n (Kept.refl s) (by decide)).frame

theorem State.countReread_touches (s : State) (t f n : Nat) : OnlyTouches [.tielux] s (s.countReread t f n) :=
  (State.modStack_kept t _ (Kept.refl s) (by decide)).frame

/-- A reread that comes clean leaves a write-back pending. -/
theorem State.reread_of_clean_spec (clean : again.length = 0) : OnlyTouches [.tielux] s (s.reread t f n again) ∧
    ((s.reread t f n again).stack t).ceCount = (s.stack t).ceCount ∧ tagKey f n ∈ ((s.reread t f n again).stack t).writebacks := by
  rw [State.reread_of_clean clean]
  refine ⟨(s.countReread_touches t f n).trans (State.modStack_kept t _ (Kept.refl _) (by decide)).frame, ?_⟩
  rw [State.stack_modStack_self, State.countReread_stack]
  exact ⟨rfl, Stack.mem_pend _ _⟩

/-- A reread with one wrong symbol is corrected as a read is. -/
theorem State.reread_of_one_spec (one : again.length = 1) : OnlyTouches [.tielux] s (s.reread t f n again) ∧
    ((s.reread t f n again).stack t).ceCount = satAdd 32 (s.stack t).ceCount 1 ∧ tagKey f n ∈ ((s.reread t f n again).stack t).writebacks := by
  rw [State.reread_of_one one]
  obtain ⟨e, r, noted, -⟩ := (s.countReread t f n).noteCorrected_stack t f n
  rw [noted, State.countReread_stack]
  exact ⟨(s.countReread_touches t f n).trans (State.noteCorrected_touches _ t f n), rfl, Stack.mem_pend _ _⟩

/-- A sector that the other frames of its stripe give is reconstructed. -/
theorem State.reread_of_reconstructed (two : again.length = 2) (given : s.canReconstruct t f n = true) :
    OnlyTouches [.tielux, .mem] s (s.reread t f n again) ∧
    ((s.reread t f n again).stack t).reconCount = satAdd 32 (s.stack t).reconCount 1 ∧
    ((s.reread t f n again).stack t).mirageCount = (s.stack t).mirageCount ∧
    (s.reread t f n again).tagOf t f n = { gen := (s.frameEntry t f).gen } := by
  have sectors := s.countReread_sameSectors t f n
  rw [State.reread_of_two two, sectors.canReconstruct, if_pos given, State.tagOf, State.reconstruct_stack, State.countReread_stack, sectors.frameEntry]
  exact ⟨((s.countReread_touches t f n).mono (by decide)).trans (State.reconstruct_kept t f n (Kept.refl _) (by decide)).frame, rfl, rfl,
    mget_mset_self _ _ _ _⟩

/-- A sector that cannot be reconstructed is a mirage from then on; one that was a mirage already is not counted again (R272). -/
theorem State.reread_of_lost (two : again.length = 2) (current : s.sectorCurrent t f n = true) (lost : s.canReconstruct t f n = false) :
    (s.reread t f n again).rawSectorPoison t f n = true ∧
    ((s.tagOf t f n).mirage = true → OnlyTouches [.tielux, .mem] s (s.reread t f n again) ∧
      ((s.reread t f n again).stack t).mirageCount = (s.stack t).mirageCount) ∧
    ((s.tagOf t f n).mirage = false →
      ((s.reread t f n again).stack t).mirageCount = satAdd 32 (s.stack t).mirageCount 1 ∧ Logged (s.reread t f n again) 0x0916 ∧
      ∀ o ∈ (s.reread t f n again).objects.held, { stack := t, frame := f } ∈ o.pages → o.damaged = true) := by
  have sectors := s.countReread_sameSectors t f n
  have counted := s.countReread_touches t f n
  have stack := s.countReread_stack t f n
  rw [State.reread_of_two two, sectors.canReconstruct, if_neg (Bool.eq_false_iff.1 lost)]
  rw [← State.rawSectorPoison_of_current current, ← sectors.rawSectorPoison]
  generalize s.countReread t f n = u at sectors counted stack ⊢
  have mirages : (u.stack t).mirageCount = (s.stack t).mirageCount := by rw [stack]; rfl
  refine ⟨?_, fun marked => ?_, fun fresh => ?_⟩
  · simp only [State.rawSectorPoison, State.sectorCurrent, State.tagOf, State.frameEntry, State.markMirage_stack, mget_mset_self, beq_self_eq_true,
      Bool.and_self]
  · rw [State.markMirage_stack, State.markMirage_eq, if_pos marked, if_pos marked]
    exact ⟨(counted.mono (by decide)).trans (State.setTag_kept t f n _ (State.putSector_kept t f n _ (Kept.refl u) (by decide)) (by decide)).frame,
      mirages⟩
  · rw [State.markMirage_stack, State.markMirage_eq, if_neg (by simp [fresh]), if_neg (by simp [fresh])]
    refine ⟨congrArg (satAdd 32 · 1) mirages, ?_, fun o held page => State.noteMirage_damages held page⟩
    exact ((LoggedLately.of_log _ _).of_events rfl).logged

end Rows

section Settled

variable {s : State} {r : SectorRef} {raw : SectorRaw} {job : Option (Fin 4096)}

theorem exec_sectorRead (frame : r.frame < stackFrames) : exec (.sectorRead r raw job) s = .next (s.sectorRead r raw job) := if_pos frame

/-- A failed stack serves protected sectors alone, by degraded reads (R284). -/
theorem State.sectorRead_of_failed (failed : (s.stack r.stack.val).failed = true) : s.sectorRead r raw none =
    if (s.frameEntry r.stack.val r.frame).protectedLayout then s.modStack r.stack.val fun k => { k with reconCount := satAdd 32 k.reconCount 1 } else s :=
  if_pos failed

/-- A data die that fails is dealt with first, and on a stack that fails with it nothing is read (R266, R267). -/
theorem State.sectorRead_of_deadDie (serves : (s.stack r.stack.val).failed = false) (dead : raw.dieFailed = true) :
    let u := s.loseDataDie r.stack.val (bankDie (bankOf r.frame r.sector.val))
    s.sectorRead r raw job = if (u.stack r.stack.val).failed then u else u.treatSector r.stack.val r.frame r.sector.val raw job := by
  simp [State.sectorRead, serves, dead]

end Settled

/-- Settles O26. That a frame above the last one is a fault is the model's own; what three or more wrong symbols come to is a free value (log
entry 6), and no row with a count speaks of it. -/
theorem sectors : Obligations.Sectors := by
  refine ⟨?rows, ?absent, ?degraded, ?dies, ?waits⟩
  case rows =>
    intro s r raw frame serves alive current
    refine ⟨_, exec_sectorRead frame, ?_⟩
    rw [State.sectorRead_of_serving serves alive]
    refine ⟨State.treatSector_of_clean current, fun one => ?_, fun two => ?_, fun two clean => ?_, fun two one => ?_, fun two again given => ?_,
      fun two again lost => ?_⟩
    · rw [State.treatSector_of_one current one]
      obtain ⟨e, due, noted, -⟩ := s.noteCorrected_stack r.stack.val r.frame r.sector.val
      rw [noted]
      exact ⟨s.noteCorrected_touches _ _ _, rfl, rfl, Stack.mem_pend _ _⟩
    all_goals rw [State.treatSector_of_two current two]
    · exact s.reread_counted _ _ _ _
    · exact State.reread_of_clean_spec clean
    · exact State.reread_of_one_spec one
    · exact State.reread_of_reconstructed again given
    · exact State.reread_of_lost again current lost
  case absent =>
    intro s r raw job above
    have missing : ¬r.frame < stackFrames := Nat.not_lt.2 above
    exact ⟨if_neg missing, if_neg missing, if_neg missing, if_neg missing⟩
  case degraded =>
    intro s r raw frame failed
    refine ⟨_, exec_sectorRead frame, ?_⟩
    rw [State.sectorRead_of_failed failed]
    refine ⟨fun bare => if_neg (by simp [bare]), fun protectedFrame => ?_⟩
    rw [if_pos protectedFrame, State.stack_modStack_self]
    exact ⟨(State.modStack_kept _ _ (Kept.refl s) (by decide)).frame, rfl⟩
  case dies =>
    intro s r raw job frame serves dead stale
    refine ⟨_, exec_sectorRead frame, fun unused => ?_, fun used other => ?_⟩
    · have stays := State.treatSector_of_stale (raw := raw) (job := job)
        ((State.loseDataDie_sectorCurrent (g := bankDie (bankOf r.frame r.sector.val)) unused r.frame r.sector.val).trans stale)
      rw [State.sectorRead_of_deadDie serves dead, stays, ite_self, State.loseDataDie_of_unused unused]
      have stack := s.stack_modStack_self r.stack.val fun x =>
        { x with sparedDie := bankDie (bankOf r.frame r.sector.val), spareState := .copying, spareCopyFrame := 0 }
      exact ⟨congrArg Stack.spareState stack, congrArg Stack.sparedDie stack, (LoggedLately.of_log _ _).logged⟩
    · have fails := State.failStack_fails serves
      rw [State.sectorRead_of_deadDie serves dead, State.loseDataDie_of_other used other, if_pos fails.1]
      exact fails
  case waits =>
    intro s r raw slot j frame serves alive current two job runs
    refine ⟨_, exec_sectorRead frame, ?_⟩
    rw [State.sectorRead_of_serving serves alive, State.treatSector_of_two current two]
    have jobs : (s.reread r.stack.val r.frame r.sector.val (wrongSymbols raw.again)).jobs = s.jobs :=
      (State.reread_kept (A := [.tielux, .mem, .objects, .transport, .events, .headers, .free]) _ _ _ _ (Kept.refl s) (by decide)).jobs
    obtain ⟨len, becomes⟩ := State.latencyHold_becomes ((State.job?_of_jobs jobs slot.val).trans job) runs
    refine ⟨(j.demotedFor 1).takeHold len, ((JobBecomes.refl job).of_jobs jobs).trans becomes, rfl, j.demotedFor_elastic 1, fun fixed => ?_⟩
    rw [Job.demotedFor_of_fixed fixed]
    exact ⟨rfl, rfl⟩

end Sys2Proof.Machine

/-! PROOF, for O32: what restarts of dies and resting stacks leave of the units. -/

namespace Sys2Proof.Machine

open Sys2Proof Sys2Proof.Safety

section Units

variable {α : Type}

/-- A map whose values change at the keys that satisfy `p`, the default kept. -/
theorem mget_map_where {d : α} {g : α → α} (default : g d = d) (p : Nat → Prop) [DecidablePred p] (m : SMap α) (k : Nat) :
    mget d (m.map fun e => if p e.1 then (e.1, g e.2) else e) k = if p k then g (mget d m k) else mget d m k := by
  have values : (m.map fun e => if p e.1 then (e.1, g e.2) else e) = m.map fun e => (e.1, if p e.1 then g e.2 else e.2) :=
    List.map_congr_left fun e _ => by split <;> rfl
  rw [values, mget_map_values (F := fun k v => if p k then g v else v) fun k => by rw [default, ite_self]]

variable (s : State) (d k n : Nat)

/-! ### Stacks put to rest (R271) -/

theorem Stack.rest_rests {x : Stack} (clocked : x.clocked = true) : x.rest.selfRefresh = true ∧ x.rest.clocked = false := by
  rw [Stack.rest, if_pos clocked]
  exact ⟨rfl, rfl⟩

/-- The first `n` stacks of a die put to rest. -/
theorem State.restFirst_stack : (((List.range n).foldl (fun t i => t.modStack (6 * d + i) Stack.rest) s).stack k) =
    if 6 * d ≤ k ∧ k < 6 * d + n then (s.stack k).rest else s.stack k := by
  induction n with
  | zero => rw [if_neg (by omega)]; rfl
  | succ n ih =>
    rw [List.range_succ, List.foldl_append, List.foldl_cons, List.foldl_nil, State.stack_modStack]
    by_cases last : k = 6 * d + n
    · rw [if_pos last, ← last, ih, if_neg (by omega), if_pos (by omega)]
    · rw [if_neg last, ih]
      exact if_congr (by omega) rfl rfl

theorem State.restStacks_stack : (s.restStacks d).stack k = if k / 6 = d then (s.stack k).rest else s.stack k := by
  rw [State.restStacks, State.restFirst_stack]
  exact if_congr (by omega) rfl rfl

/-- The stacks of the first `n` dies put to rest. -/
theorem State.restAll_stack : (((List.range n).foldl State.restStacks s).stack k) = if k / 6 < n then (s.stack k).rest else s.stack k := by
  induction n with
  | zero => rw [if_neg (by omega)]; rfl
  | succ n ih =>
    rw [List.range_succ, List.foldl_append, List.foldl_cons, List.foldl_nil, State.restStacks_stack]
    by_cases last : k / 6 = n
    · rw [if_pos last, ih, if_neg (by omega), if_pos (by omega)]
    · rw [if_neg last, ih]
      exact if_congr (by omega) rfl rfl

/-! ### Dies restarted (R400) -/

/-- A cluster of a die that restarts. -/
def Cluster.wiped (c : Cluster) : Cluster :=
  { c with cores := [], ags := [], anchors := [], coreMap := [], mapBuilt := false, copy := none, underTest := none, idleOffered := 0,
           slotMem := [], o0 := .free, o1 := .free }

theorem State.restartDie_cluster : (s.restartDie d).cluster k = if k / 64 = d then (s.cluster k).wiped else s.cluster k :=
  mget_map_where (g := Cluster.wiped) rfl (fun k => k / 64 = d) s.clusters k

theorem State.restartDie_half : (s.restartDie d).half k = if k / 2 = d then (s.half k).stopped else s.half k := by
  have halves : (s.restartDie d).half k = ((s.modHalf (2 * d) Half.stopped).modHalf (2 * d + 1) Half.stopped).half k := rfl
  rw [halves, State.half_modHalf, State.half_modHalf, State.half_modHalf]
  by_cases low : k = 2 * d
  · rw [if_neg (by omega), if_pos low, if_pos (by omega), low]
  · by_cases high : k = 2 * d + 1
    · rw [if_pos high, if_neg (by omega), if_pos (by omega), high]
    · rw [if_neg high, if_neg low, if_neg (by omega)]

theorem State.restartDie_spine : ((s.restartDie d).die d).spineClocked = false :=
  (congrArg Die.spineClocked (mget_mmod_self ({} : Die) s.dies d fun x =>
    { x with spineClocked := false, spineLocked := false, spineSetting := 0, stretch := 0, kakCore := none })).trans rfl

/-- The first `n` dies restarted. -/
theorem State.restartAll_cluster : (((List.range n).foldl State.restartDie s).cluster k).cores = if k / 64 < n then [] else (s.cluster k).cores := by
  induction n with
  | zero => rw [if_neg (by omega)]; rfl
  | succ n ih =>
    rw [List.range_succ, List.foldl_append, List.foldl_cons, List.foldl_nil, State.restartDie_cluster]
    by_cases last : k / 64 = n
    · rw [if_pos last, if_pos (by omega)]
      rfl
    · rw [if_neg last, ih]
      exact if_congr (by omega) rfl rfl

theorem State.restartAll_half (low : k / 2 < n) : (((List.range n).foldl State.restartDie s).half k).clocked = false ∧
    (((List.range n).foldl State.restartDie s).half k).ready = false := by
  induction n with
  | zero => omega
  | succ n ih =>
    rw [List.range_succ, List.foldl_append, List.foldl_cons, List.foldl_nil, State.restartDie_half]
    by_cases last : k / 2 = n
    · rw [if_pos last]
      exact ⟨rfl, rfl⟩
    · rw [if_neg last]
      exact ih (by omega)

/-- A half tried again keeps its clock and stays as ready as it was (R540). -/
theorem State.tryUnusable_half : (s.tryUnusable.half k).clocked = (s.half k).clocked ∧ (s.tryUnusable.half k).ready = (s.half k).ready ∧
    (s.tryUnusable.half k).unusable = false := by
  have half : s.tryUnusable.half k = { s.half k with unusable := false } :=
    mget_map_values (d := ({} : Half)) (F := fun _ h => { h with unusable := false }) (fun _ => rfl) s.halves k
  rw [half]
  exact ⟨rfl, rfl, rfl⟩

theorem State.tryUnusable_cluster : s.tryUnusable.cluster k = s.cluster k := rfl

end Units

end Sys2Proof.Machine

/-! PROOF, for O32: resets lose no record, no waiting reset and no event, and open no session. -/

namespace Sys2Proof.Machine

open Sys2Proof Sys2Proof.Safety

/-- An entry changed in place is not found by a test that it meets neither before nor after. -/
theorem find?_modFirst_other {α : Type} {p q : α → Bool} {f : α → α} (apart : ∀ a, p a = true → q a = false ∧ q (f a) = false) (l : List α) :
    (modFirst p f l).find? q = l.find? q := by
  induction l with
  | nil => rfl
  | cons a l ih =>
    cases pa : p a with
    | true => simp [modFirst, pa, apart a pa]
    | false => simp [modFirst, pa, List.find?_cons, ih]

theorem map_modFirst {α β : Type} {p : α → Bool} {f : α → α} {g : α → β} (keeps : ∀ a, g (f a) = g a) (l : List α) :
    (modFirst p f l).map g = l.map g := by
  induction l with
  | nil => rfl
  | cons a l ih => rw [modFirst]; split <;> simp [keeps, ih]

def State.sessionIds (s : State) : List Nat := s.transport.sessions.map (·.id)

/-- From `s` to `t` no record and no waiting reset is lost, and no session opens. -/
structure Retains (s t : State) : Prop where
  records : ∀ fpr, ∀ h ∈ (s.stream fpr).records, ∃ g ∈ (t.stream fpr).records, g.record = h.record
  numbers : ∀ fpr, (s.stream fpr).nextSeq ≤ (t.stream fpr).nextSeq
  waits : t.journal.resetDone = s.journal.resetDone
  sessions : t.sessionIds ⊆ s.sessionIds

section Retaining

variable {s t u : State} {A : List Part}

theorem Retains.trans (a : Retains s t) (b : Retains t u) : Retains s u := by
  refine ⟨fun fpr h held => ?_, fun fpr => (a.numbers fpr).trans (b.numbers fpr), b.waits.trans a.waits, List.Subset.trans b.sessions a.sessions⟩
  obtain ⟨g, there, same⟩ := a.records fpr h held
  obtain ⟨i, last, eq⟩ := b.records fpr g there
  exact ⟨i, last, eq.trans same⟩

theorem Retains.of_streams (streams : t.journal.streams = s.journal.streams) (waits : t.journal.resetDone = s.journal.resetDone)
    (sessions : t.sessionIds ⊆ s.sessionIds) : Retains s t :=
  ⟨fun fpr h held => ⟨h, by rwa [State.stream, streams], rfl⟩, fun fpr => by rw [State.stream, State.stream, streams], waits, sessions⟩

theorem Retains.of_ids (streams : t.journal.streams = s.journal.streams) (waits : t.journal.resetDone = s.journal.resetDone)
    (ids : t.sessionIds = s.sessionIds) : Retains s t := .of_streams streams waits (ids ▸ List.Subset.refl _)

theorem Retains.refl (s : State) : Retains s s := .of_ids rfl rfl rfl

theorem Kept.retains (kept : Kept A s t) (streams : Part.streams ∉ A := by decide) (transport : Part.transport ∉ A := by decide) : Retains s t := by
  have same := (kept.frame.same .streams streams).1
  refine .of_ids (congrArg Prod.fst same) (congrArg (·.2.2) same) ?_
  rw [State.sessionIds, show t.transport = s.transport from kept.frame.same .transport transport, State.sessionIds]

theorem Retains.foldl {α : Type} {f : State → α → State} (keeps : ∀ t a, Retains t (f t a)) : ∀ (l : List α) {s : State}, Retains s (l.foldl f s)
  | [], s => .refl s
  | a :: l, s => (keeps s a).trans (Retains.foldl keeps l)

theorem Retains.told {v : State} {fpr : Bytes} {req : Nat} {kind : CompKind} {status : BitVec 16} (retains : Retains s t)
    (told : Told v s fpr req kind status) : Told v t fpr req kind status := by
  obtain ⟨h, held, said⟩ := told
  obtain ⟨g, there, same⟩ := retains.records fpr h held
  exact ⟨g, there, by rwa [same]⟩

/-! ### Records and packets -/

theorem State.stream_modStream_other {fpr key : Bytes} (other : fpr ≠ key) {f : Stream → Stream} (keeps : ∀ x, (f x).fpr = x.fpr) :
    (s.modStream key f).stream fpr = s.stream fpr := by
  have apart : ∀ x : Stream, (x.fpr == key) = true → (x.fpr == fpr) = false := fun x same => by
    rw [beq_iff_eq.1 same]
    exact beq_eq_false_iff_ne.2 other.symm
  rw [State.stream, State.stream, State.modStream]
  dsimp only
  split
  · rw [find?_modFirst_other fun x same => ⟨apart x same, by rw [keeps]; exact apart x same⟩]
  · rw [List.find?_append]
    simp [keeps, other.symm]

theorem State.modStream_retains (s : State) (key : Bytes) {f : Stream → Stream} (keeps : ∀ x, (f x).fpr = x.fpr)
    (records : ∀ x, ∀ h ∈ x.records, ∃ g ∈ (f x).records, g.record = h.record) (numbers : (s.stream key).nextSeq ≤ (f (s.stream key)).nextSeq) :
    Retains s (s.modStream key f) := by
  have other {fpr} (other : fpr ≠ key) := State.stream_modStream_other (s := s) other keeps
  have own := State.stream_modStream s key keeps
  refine ⟨fun fpr => ?_, fun fpr => ?_, rfl, List.Subset.refl _⟩ <;> by_cases same : fpr = key
  · rw [same, own]
    exact records _
  · rw [other same]
    exact fun h held => ⟨h, held, rfl⟩
  · rwa [same, own]
  · rw [other same]

theorem State.send_retains (s : State) (id : Nat) (b : TxBody) : Retains s (s.send id b) := by
  refine .of_ids rfl rfl ?_
  rw [State.sessionIds, State.send_transport, Transport.sendOn]
  split
  · rfl
  · rw [Transport.queue, apply_ite Transport.sessions, ite_self]
    exact map_modFirst (f := (·.send b)) (g := (·.id)) (fun _ => rfl) s.transport.sessions

theorem State.sendRecord_retains (s : State) (id : Nat) (fpr : Bytes) (r : CompRecord) : Retains s (s.sendRecord id fpr r) :=
  .foldl (fun t _ => t.send_retains id _) _

theorem State.complete_retains (s : State) (fpr : Bytes) (want : Option Nat) (r : CompRecord) : Retains s (s.complete fpr want r) := by
  have joins (r : HeldRecord) : Retains s (s.modStream fpr fun x => { x with nextSeq := (s.stream fpr).nextSeq + 1, records := x.records ++ [r] }) :=
    s.modStream_retains fpr (fun _ => rfl) (fun x h held => ⟨h, List.mem_append_left _ held, rfl⟩) (Nat.le_succ _)
  rw [State.complete]
  split
  · exact (joins _).trans (State.sendRecord_retains _ _ _ _)
  · exact joins _

theorem State.reroute_retains (s : State) (fpr : Bytes) : Retains s (s.reroute fpr) := by
  rw [State.reroute]
  dsimp only
  split
  · exact .refl s
  · split
    · exact .refl s
    · refine (Retains.foldl (fun t (h : HeldRecord) => t.sendRecord_retains _ fpr h.record) _).trans
        (State.modStream_retains _ fpr (fun _ => rfl) (fun x h held => ⟨_, List.mem_map_of_mem held, ?_⟩) (Nat.le_refl _))
      split <;> rfl

theorem State.logOn_retains (s : State) (page cls : Nat) (forced : Bool) (e : EventSpec) : Retains s (s.logOn page cls forced e) := by
  refine .of_ids rfl rfl ?_
  simp only [State.sessionIds, State.logOn, List.map_map]
  refine List.map_congr_left fun x _ => ?_
  simp only [Function.comp_apply]
  split <;> rfl

theorem State.log_retains (s : State) (e : EventSpec) : Retains s (s.log e) := s.logOn_retains _ _ _ e

/-! ### The hub goes down -/

theorem State.leaveRaw_retains (s : State) : Retains s s.leaveRaw := (s.log_retains _).trans (.of_ids rfl rfl rfl)

/-- What its session's end tells a neighbour's groups, or the records of a stream. -/
theorem State.partWith_retains (s : State) (x : Session) (id : Nat) : Retains s (if x.role = .peer then s.peerLost id else s.reroute x.fpr) := by
  split
  · exact (State.peerLost_kept (A := [.jobs]) id (Kept.refl s) (by decide)).retains
  · exact s.reroute_retains x.fpr

/-- A session that ends leaves no session of its number. -/
theorem State.dropSession_retains (s : State) (id : Nat) : Retains s (s.dropSession id) ∧ id ∉ (s.dropSession id).sessionIds := by
  rw [State.dropSession]
  cases session : s.session? id with
  | none =>
    refine ⟨.refl s, fun there => ?_⟩
    obtain ⟨x, held, same⟩ := List.mem_map.1 there
    exact absurd (List.find?_eq_none.1 session x held) (by simp [same])
  | some x =>
    dsimp only
    generalize ended : State.onEntropy _ _ = u
    have sessions : u.transport.sessions = s.transport.sessions.filter fun y => y.id != id := by rw [← ended]; rfl
    have finish {t : State} (later : Retains u t) : Retains s t ∧ id ∉ t.sessionIds := by
      refine ⟨Retains.trans (t := u) (.of_streams (by rw [← ended]; rfl) (by rw [← ended]; rfl) fun i there => ?_) later, fun there => ?_⟩
      · obtain ⟨y, held, rfl⟩ := List.mem_map.1 there
        exact List.mem_map_of_mem (List.mem_filter.1 (sessions ▸ held)).1
      · obtain ⟨y, held, same⟩ := List.mem_map.1 (later.sessions there)
        have other := (List.mem_filter.1 (sessions ▸ held)).2
        exact bne_iff_ne.1 other same
    refine finish (Retains.trans ?_ (State.partWith_retains _ x id))
    split
    · exact u.leaveRaw_retains
    · exact .refl u

theorem State.dropSessions_retains (s : State) (ids : List Nat) : Retains s (s.dropSessions ids) ∧
    ∀ id ∈ ids, id ∉ (s.dropSessions ids).sessionIds := by
  induction ids generalizing s with
  | nil => exact ⟨.refl s, nofun⟩
  | cons a ids ih =>
    obtain ⟨first, gone⟩ := s.dropSession_retains a
    obtain ⟨rest, others⟩ := ih (s.dropSession a)
    refine ⟨first.trans rest, fun id mem => ?_⟩
    obtain rfl | mem := List.mem_cons.1 mem
    · exact fun there => gone (rest.sessions there)
    · exact others id mem

theorem State.failLoad_retains (s : State) (h : LoadHandle) (f : LoadFault) : Retains s (s.failLoad h f) :=
  (Kept.retains (A := [.tielux, .objects]) (State.freePages_kept h.pages (State.closeHandle_kept h (Kept.refl s) (by decide)) (by decide))).trans
    (State.complete_retains _ _ _ _)

theorem State.dropFirmware_retains (s : State) (h : LoadHandle) (f : LoadFault) : Retains s (s.dropFirmware h f) := by
  rw [State.dropFirmware]
  refine Retains.trans ?_ (State.failLoad_retains _ h f)
  exact .of_ids rfl rfl rfl

theorem State.endLoad_retains (s : State) (h : LoadHandle) (f : LoadFault) : Retains s (s.endLoad h f) := by
  rw [State.endLoad]
  split
  · exact s.dropFirmware_retains h f
  · exact s.failLoad_retains h f

theorem State.interruptLoads_retains (s : State) : Retains s s.interruptLoads := .foldl (fun t h => t.endLoad_retains h _) _

theorem State.interruptFirmware_retains (s : State) : Retains s s.interruptFirmware := by
  rw [State.interruptFirmware]
  dsimp only
  split
  · rw [State.done]
    refine Retains.trans ?_ (State.complete_retains _ _ _ _)
    exact .of_ids rfl rfl rfl
  · exact .of_ids rfl rfl rfl

theorem State.portDown_retains (s : State) : Retains s s.portDown := by
  rw [State.portDown]
  split
  · refine Retains.trans ?_ (State.log_retains _ _)
    exact .of_ids rfl rfl rfl
  · exact .of_ids rfl rfl rfl

theorem State.restartPort_retains (s : State) : Retains s s.restartPort := s.portDown_retains.trans (.of_ids rfl rfl rfl)

theorem State.restAll_kept (s : State) (n : Nat) : Kept [.tielux] s ((List.range n).foldl State.restStacks s) :=
  Kept.foldl (fun _ d kept => State.restStacks_kept d kept (by decide)) _ (Kept.refl s)

theorem State.atHubDown_retains (s : State) : Retains s s.atHubDown := .of_ids rfl rfl rfl

/-- The hub's sessions, loads and port ended and its stacks at rest, before its own registers go. -/
def State.hubEmptied (s : State) : State := s.interruptLoads.interruptFirmware.restartPort

theorem State.hubEmptied_retains (s : State) : Retains s s.hubEmptied :=
  s.interruptLoads_retains.trans ((State.interruptFirmware_retains _).trans (State.restartPort_retains _))

theorem State.hubGoesDown_eq (s : State) :
    s.hubGoesDown = ((List.range 6).foldl State.restStacks (s.dropSessions s.sessionIds).hubEmptied).atHubDown := rfl

/-- No session is left when the hub is down (R400). -/
theorem State.hubGoesDown_retains (s : State) : Retains s s.hubGoesDown ∧ s.hubGoesDown.sessionIds = [] := by
  obtain ⟨kept, gone⟩ := s.dropSessions_retains s.sessionIds
  have later : Retains (s.dropSessions s.sessionIds) s.hubGoesDown := by
    rw [State.hubGoesDown_eq]
    exact (State.hubEmptied_retains _).trans ((State.restAll_kept _ 6).retains.trans (State.atHubDown_retains _))
  exact ⟨kept.trans later, List.eq_nil_iff_forall_not_mem.2 fun id there => gone id (kept.sessions (later.sessions there)) (later.sessions there)⟩

end Retaining

end Sys2Proof.Machine

/-! PROOF, for O32: a die reset, and what the hub's fall leaves of jobs and stacks. -/

namespace Sys2Proof.Machine

open Sys2Proof Sys2Proof.Safety

section Dies

variable {s t u : State} {d e k : Nat} {j : Job}

theorem Kept.mem {A : List Part} (kept : Kept A s t) (other : Part.mem ∉ A := by decide) : t.mem = s.mem := kept.frame.same .mem other

/-- A stack that another one's modes equal and that is put to rest. -/
theorem SameModes.rests (same : SameModes s u) (rest : t.stack k = (u.stack k).rest) (clocked : (s.stack k).clocked = true) :
    (t.stack k).selfRefresh = true ∧ (t.stack k).clocked = false := by
  rw [rest]
  exact Stack.rest_rests ((congrArg (·.2.1) (same k)).trans clocked)

theorem State.jobState_sameModes (s : State) (j : Job) : SameModes s (s.jobState j) :=
  (State.jobState_kept (A := [.transport, .streams]) j (Kept.refl s) (by decide)).sameModes

theorem State.restartJob_sameModes (s : State) (slot : Nat) : SameModes s (s.restartJob slot) := by
  have sends (t : State) (k : Job) : SameModes t ((t.setJob slot k).jobState k) :=
    (SameModes.of_tielux (State.setJob_tielux _ _ _)).trans (State.jobState_sameModes _ _)
  have frees (j : Job) : SameModes s (((s.freeJobMemory j).clearRegion j.region).dropOutward j.id) :=
    (s.freePages_sameModes _).trans (SameModes.trans (.of_tielux rfl) (State.dropOutward_sameModes _ _ _))
  rw [State.restartJob]
  split
  · split
    · exact (frees _).trans (sends _ _)
    · exact (frees _).trans (sends _ _)
    · exact (frees _).trans (sends _ _)
    · exact (SameModes.of_tielux rfl).trans (sends _ _)
    · exact .refl s
  · exact .refl s

theorem State.restartJobs_sameModes (s : State) (slots : List Nat) : SameModes s (s.restartJobs slots) :=
  .foldl (fun t k => t.restartJob_sameModes k) slots

theorem State.restartJobs_other {slots : List Nat} (other : e ∉ slots) : (s.restartJobs slots).job? e = s.job? e := by
  induction slots generalizing s with
  | nil => rfl
  | cons a slots ih =>
    obtain ⟨first, rest⟩ := not_or.1 (mt List.mem_cons.2 other)
    exact (ih (s := s.restartJob a) rest).trans (State.restartJob_other first)

theorem State.not_mem_residentSlots {p : Job → Bool} (none : ∀ q ∈ s.jobList, q.1 = e → ¬(q.2.state.resident = true ∧ p q.2 = true)) :
    e ∉ s.residentSlots p := by
  intro there
  obtain ⟨q, held, same⟩ := List.mem_map.1 there
  obtain ⟨listed, both⟩ := List.mem_filter.1 held
  exact none q listed same (Bool.and_eq_true_iff.1 both)

/-- After its jobs, a die reset concerns the units of the die alone. -/
theorem State.resetDie_units (s : State) (d : Nat) : ∃ u : State, s.resetDie d = ((u.restartDie d).restStacks d).countReset .die ∧ SameModes s u :=
  ⟨_, rfl, s.restartJobs_sameModes _⟩

/-- Stacks put to rest and the reset counted change no other unit. -/
theorem State.restStacks_units (s : State) (d : Nat) : ((s.restStacks d).countReset .die).halves = s.halves ∧
    ((s.restStacks d).countReset .die).dies = s.dies ∧ ((s.restStacks d).countReset .die).clusters = s.clusters := by
  have kept : Kept [.tielux, .starts] s ((s.restStacks d).countReset .die) :=
    State.countReset_kept _ (State.restStacks_kept d (Kept.refl s) (by decide)) (by decide)
  exact ⟨kept.frame.same .halves (by decide), kept.frame.same .dies (by decide), kept.frame.same .clusters (by decide)⟩

theorem State.countReset_stack (s : State) (c : LastReset) (k : Nat) : (s.countReset c).stack k = s.stack k := rfl

theorem State.restartDie_sameModes (s : State) (d : Nat) : SameModes s (s.restartDie d) := .of_tielux rfl

/-- A die reset restarts the die and the jobs with a half on it, and its stacks rest (R400). -/
theorem State.resetDie_restarted (s : State) (d : Nat) : DieRestarted s (s.resetDie d) d := by
  have kept : Kept [.clusters, .halves, .dies, .tielux, .jobs, .transport, .streams, .starts] s (s.resetDie d) :=
    State.resetDie_kept d (Kept.refl s) (by decide)
  obtain ⟨u, run, modes⟩ := s.resetDie_units d
  obtain ⟨halves, dies, clusters⟩ := (u.restartDie d).restStacks_units d
  refine ⟨fun h there => ?_, ?_, fun k there => ?_, fun k there clocked => ?_, kept.mem, fun e j job resident there =>
    State.resetDie_restarts job resident there rfl, fun e none =>
    (State.job?_of_jobs (s.resetDie_jobs d) e).trans (State.restartJobs_other (State.not_mem_residentSlots none))⟩ <;> rw [run]
  · rw [State.half, halves, ← State.half, State.restartDie_half, if_pos there]
    exact ⟨rfl, rfl⟩
  · rw [State.die, dies, ← State.die, State.restartDie_spine]
  · rw [State.cluster, clusters, ← State.cluster, State.restartDie_cluster, if_pos there]
    exact ⟨rfl, rfl, rfl⟩
  · refine (modes.trans (u.restartDie_sameModes d)).rests ?_ clocked
    rw [State.countReset_stack, State.restStacks_stack, if_pos there]

/-- What DieRestarted says of a state stays for one that agrees with it on stacks, memory and jobs. -/
theorem DieRestarted.before (restarted : DieRestarted u t d) (tielux : u.tielux = s.tielux) (mem : u.mem = s.mem) (jobs : u.jobs = s.jobs) :
    DieRestarted s t d where
  halves := restarted.halves
  spine := restarted.spine
  clusters := restarted.clusters
  resting k there clocked := restarted.resting k there (by rwa [State.stack, tielux])
  memory := restarted.memory.trans mem
  restarted e j job := restarted.restarted e j ((State.job?_of_jobs jobs e).trans job)
  others e none := (restarted.others e (by rwa [State.jobList, jobs])).trans (State.job?_of_jobs jobs e)

end Dies

section Hub

variable {s t u : State} {d e k : Nat} {j : Job} {slots : List Nat} {cause : Nat}

/-! ### Jobs whose sessions end, and fixed-cadence jobs demoted (R324, R400) -/

/-- Every job keeps all that it has except, perhaps, what its group knows of its neighbours. -/
def OnlyGroups (s t : State) : Prop := ∀ e j, s.job? e = some j → ∃ g, t.job? e = some { j with group := g } ∧ (j.group = none → g = none)

theorem OnlyGroups.of_jobs (same : t.jobs = s.jobs) : OnlyGroups s t := fun e j job =>
  ⟨j.group, (State.job?_of_jobs same e).trans job, id⟩

theorem OnlyGroups.trans (a : OnlyGroups s t) (b : OnlyGroups t u) : OnlyGroups s u := by
  intro e j job
  obtain ⟨g, first, none⟩ := a e j job
  obtain ⟨h, second, still⟩ := b e _ first
  exact ⟨h, second, fun free => still (none free)⟩

theorem State.mapGroups_onlyGroups (s : State) (f : Job → GroupState → GroupState) : OnlyGroups s (s.mapGroups f) := by
  intro e j job
  have there : (s.mapGroups f).job? e = (s.job? e).map fun j => if j.state == .ended then j else { j with group := j.group.map (f j) } :=
    mget_map_values (d := none) (F := fun _ o => o.map fun j : Job => if j.state == .ended then j else { j with group := j.group.map (f j) })
      (fun _ => rfl) s.jobs.table e
  rw [there, job, Option.map_some]
  split
  · exact ⟨j.group, rfl, id⟩
  · exact ⟨_, rfl, fun free => by rw [free]; rfl⟩

theorem State.partWith_onlyGroups (s : State) (x : Session) (id : Nat) :
    OnlyGroups s (if x.role = .peer then s.peerLost id else s.reroute x.fpr) := by
  split
  · exact s.mapGroups_onlyGroups _
  · exact .of_jobs (State.reroute_kept (A := [.transport, .streams]) _ (Kept.refl s) (by decide)).jobs

theorem State.dropSession_onlyGroups (s : State) (id : Nat) : OnlyGroups s (s.dropSession id) := by
  rw [State.dropSession]
  split
  · exact .of_jobs rfl
  · dsimp only
    refine OnlyGroups.trans (.of_jobs ?_) (State.partWith_onlyGroups _ _ id)
    split <;> rfl

theorem State.dropSessions_onlyGroups (s : State) (ids : List Nat) : OnlyGroups s (s.dropSessions ids) := by
  induction ids generalizing s with
  | nil => exact .of_jobs rfl
  | cons a ids ih => exact (s.dropSession_onlyGroups a).trans (ih (s.dropSession a))

theorem State.hubEmptied_kept (s : State) : Kept [.tielux, .objects, .transport, .streams, .audit, .events, .headers, .port, .security] s s.hubEmptied :=
  State.restartPort_kept (State.interruptFirmware_kept (State.interruptLoads_kept (Kept.refl s) (by decide)) (by decide)) (by decide)

theorem State.hubGoesDown_onlyGroups (s : State) : OnlyGroups s s.hubGoesDown := by
  rw [State.hubGoesDown_eq]
  have jobs (u : State) : u.atHubDown.jobs = u.jobs := rfl
  exact (s.dropSessions_onlyGroups _).trans (.of_jobs ((jobs _).trans ((State.restAll_kept _ 6).jobs.trans (State.hubEmptied_kept _).jobs)))

theorem State.demoteAll_job (job : s.job? e = some j) :
    (s.demoteAll slots cause).job? e = some (if e ∈ slots then j.demotedFor cause else j) := by
  induction slots generalizing s j with
  | nil => exact job
  | cons a slots ih =>
    by_cases own : e = a
    · subst own
      have later := ih (s := s.demote e cause) (State.demote_becomes job cause).1
      rw [Job.demotedFor_of_elastic (j.demotedFor_elastic cause), ite_self] at later
      rw [if_pos List.mem_cons_self]
      exact later
    · have stands : (s.demote a cause).job? e = some j := by
        cases other : s.job? a with
        | none => rw [State.demote, other]; exact job
        | some k => exact ((State.demote_becomes other cause).2 e own).trans job
      rw [if_congr (List.mem_cons.trans (or_iff_right own)) rfl rfl]
      exact ih (s := s.demote a cause) stands

/-! ### Stacks, the port and the loads -/

theorem State.failLoad_sameModes (s : State) (h : LoadHandle) (f : LoadFault) : SameModes s (s.failLoad h f) :=
  SameModes.trans (.of_tielux rfl) ((State.freePages_sameModes (s.closeHandle h) h.pages).trans
    (State.done_kept (A := [.transport, .streams]) _ _ _ _ (Kept.refl _) (by decide)).sameModes)

theorem State.endLoad_sameModes (s : State) (h : LoadHandle) (f : LoadFault) : SameModes s (s.endLoad h f) := by
  rw [State.endLoad]
  split
  · exact SameModes.trans (.of_tielux rfl) (State.failLoad_sameModes _ h f)
  · exact s.failLoad_sameModes h f

theorem State.hubEmptied_sameModes (s : State) : SameModes s s.hubEmptied := by
  have loads : SameModes s s.interruptLoads := .foldl (fun t h => t.endLoad_sameModes h _) _
  have rest : Kept [.transport, .streams, .events, .headers, .port, .security] s.interruptLoads s.hubEmptied :=
    State.restartPort_kept (State.interruptFirmware_kept (Kept.refl _) (by decide)) (by decide)
  exact loads.trans rest.sameModes

/-- A clocked stack refreshes itself when the hub is down (R271). -/
theorem State.hubGoesDown_rests (low : k < 36) (clocked : (s.stack k).clocked = true) :
    (s.hubGoesDown.stack k).selfRefresh = true ∧ (s.hubGoesDown.stack k).clocked = false := by
  have dropped : Kept [.jobs, .transport, .streams, .events, .headers, .entropy] s (s.dropSessions s.sessionIds) :=
    State.dropSessions_kept _ (Kept.refl s) (by decide)
  have stack (u : State) : u.atHubDown.stack k = u.stack k := rfl
  have rested := (State.restAll_stack (s.dropSessions s.sessionIds).hubEmptied k 6).trans (if_pos (by omega))
  rw [State.hubGoesDown_eq]
  exact (dropped.sameModes.trans (State.hubEmptied_sameModes _)).rests ((stack _).trans rested) clocked

theorem State.hubGoesDown_handles (s : State) : s.hubGoesDown.objects.handles = [] := by
  have rest : Kept [.transport, .streams, .events, .headers, .port, .security] (s.dropSessions s.sessionIds).interruptLoads
      (s.dropSessions s.sessionIds).hubEmptied :=
    State.restartPort_kept (State.interruptFirmware_kept (Kept.refl _) (by decide)) (by decide)
  have objects : s.hubGoesDown.objects = (s.dropSessions s.sessionIds).interruptLoads.objects := by
    have down (u : State) : u.atHubDown.objects = u.objects := rfl
    rw [State.hubGoesDown_eq, down]
    exact ((State.restAll_kept _ 6).frame.same .objects (by decide)).trans (rest.frame.same .objects (by decide))
  rw [objects]
  exact State.interruptLoads_handles _

theorem State.portDown_port (s : State) : s.portDown.port = { s.port with linkUp := false, mode := .down, preemptActive := false, bulkPaused := false } := by
  rw [State.portDown]
  split <;> rfl

theorem State.restartPort_port (s : State) : s.restartPort.port =
    { s.port with linkUp := false, mode := .down, preemptActive := false, bulkPaused := false, laneFailed := 0, macB := false, training := .dr8,
                  expressQueue := 0 } := by
  rw [State.restartPort]
  show { s.portDown.port with laneFailed := 0, macB := false, training := .dr8, expressQueue := 0 } = _
  rw [State.portDown_port]

theorem State.hubGoesDown_linkUp (s : State) : s.hubGoesDown.port.linkUp = false := by
  rw [State.hubGoesDown_eq]
  have rested : ((List.range 6).foldl State.restStacks (s.dropSessions s.sessionIds).hubEmptied).port = (s.dropSessions s.sessionIds).hubEmptied.port :=
    (State.restAll_kept _ 6).frame.same .port (by decide)
  have down (u : State) : u.atHubDown.port = u.port := rfl
  rw [down, rested, State.hubEmptied, State.restartPort_port]

end Hub

end Sys2Proof.Machine

/-! PROOF of O32: the hub's and the module's warm resets, RESET, and the audit entry that later ones leave. -/

namespace Sys2Proof.Machine

open Sys2Proof Sys2Proof.Safety

section Warm

variable {s t u : State} {e k : Nat} {j : Job} {A : List Part}

/-! ### Frames of a warm reset -/

theorem Kept.resets (kept : Kept A s t) (other : Part.starts ∉ A := by decide) :
    t.journal.resetCount = s.journal.resetCount ∧ t.journal.lastReset = s.journal.lastReset := by
  have starts := (kept.frame.same .starts other).1
  exact ⟨congrArg (·.2.2.2.1) starts, congrArg (·.2.2.2.2.1) starts⟩

theorem Kept.hubReady (kept : Kept A s t) (other : Part.config ∉ A := by decide) :
    t.config.hubReady = s.config.hubReady ∧ t.config.hubStarted = s.config.hubStarted := by
  have config := (kept.frame.same .config other).2
  rw [Part.sameConfig] at config
  exact ⟨(congrArg Config.hubReady config).trans rfl, (congrArg Config.hubStarted config).trans rfl⟩

theorem State.countReset_retains (s : State) (c : LastReset) : Retains s (s.countReset c) := .of_ids rfl rfl rfl

/-- What the parts of a warm reset share: the reset counted, and the hub down. -/
def State.hubFalls (s : State) (c : LastReset) : State := (s.countReset c).hubGoesDown

theorem State.hubFalls_retains (s : State) (c : LastReset) : Retains s (s.hubFalls c) ∧ (s.hubFalls c).sessionIds = [] := by
  obtain ⟨kept, none⟩ := (s.countReset c).hubGoesDown_retains
  exact ⟨(s.countReset_retains c).trans kept, none⟩

theorem State.hubFalls_kept (s : State) (c : LastReset) : Kept [.tielux, .jobs, .objects, .transport, .streams, .audit, .events, .starts, .headers,
    .port, .ptp, .security, .entropy, .bist, .config] s (s.hubFalls c) :=
  State.hubGoesDown_kept (State.countReset_kept c (Kept.refl s) (by decide)) (by decide)

theorem State.hubGoesDown_config (s : State) : s.hubGoesDown.config.hubReady = false ∧ s.hubGoesDown.config.hubStarted = false := by
  have down (u : State) : u.atHubDown.config.hubReady = false ∧ u.atHubDown.config.hubStarted = false := ⟨rfl, rfl⟩
  rw [State.hubGoesDown_eq]
  exact down _

theorem State.hubFalls_resets (s : State) (c : LastReset) :
    (s.hubFalls c).journal.resetCount = (s.journal.resetCount + 1) % 2 ^ 24 ∧ (s.hubFalls c).journal.lastReset = c :=
  Kept.resets (A := [.tielux, .jobs, .objects, .transport, .streams, .audit, .events, .headers, .port, .ptp, .security, .entropy, .bist, .config])
    (State.hubGoesDown_kept (Kept.refl (s.countReset c)) (by decide))

theorem State.hubFalls_onlyGroups (s : State) (c : LastReset) : OnlyGroups s (s.hubFalls c) :=
  OnlyGroups.trans (.of_jobs (t := s.countReset c) rfl) (State.hubGoesDown_onlyGroups _)

/-! ### Hub warm reset (R400) -/

theorem State.demote_retains (s : State) (slot cause : Nat) : Retains s (s.demote slot cause) := by
  rw [State.demote]
  split
  · split
    · exact ((State.setJob_kept (A := [.jobs]) _ _ (Kept.refl s) (by decide)).retains.trans (State.log_retains _ _)).trans
        (State.complete_retains _ _ _ _)
    · exact .refl s
  · exact .refl s

theorem State.demoteAll_retains (s : State) (slots : List Nat) (cause : Nat) : Retains s (s.demoteAll slots cause) :=
  .foldl (fun t k => t.demote_retains k cause) slots

/-- After the hub is down, a hub warm reset demotes and no more. -/
theorem State.hubWarm_kept_falls (s : State) : Kept [.jobs, .transport, .streams, .events, .headers] (s.hubFalls .hubWarm) s.hubWarm :=
  State.demoteAll_kept _ _ (Kept.refl _) (by decide)

theorem State.hubWarm_retains (s : State) : Retains s s.hubWarm ∧ s.hubWarm.sessionIds = [] := by
  obtain ⟨kept, none⟩ := s.hubFalls_retains .hubWarm
  have later := (s.hubFalls .hubWarm).demoteAll_retains (s.hubFalls .hubWarm).fixedSlots 6
  exact ⟨kept.trans later, List.subset_nil.1 (none ▸ later.sessions)⟩

/-- In a hub warm reset a job outside run groups that does not run in fixed cadence goes on (R400). -/
theorem State.hubWarm_job (job : s.job? e = some j) (elastic : j.fixedCadence = false) (free : j.group = none) : s.hubWarm.job? e = some j := by
  obtain ⟨g, there, none⟩ := s.hubFalls_onlyGroups .hubWarm e j job
  rw [none free, ← free] at there
  exact (State.demoteAll_job there).trans (by rw [Job.demotedFor_of_elastic elastic, ite_self])

/-- A resident fixed-cadence job is demoted with cause 6 (log entry 72). -/
theorem State.hubWarm_demotes (job : s.job? e = some j) (resident : j.state.resident = true) (fixed : j.fixedCadence = true) :
    ∃ k, s.hubWarm.job? e = some k ∧ k.id = j.id ∧ k.demoted = true ∧ k.demoteCause = 6 ∧ k.state = j.state := by
  obtain ⟨g, there, -⟩ := s.hubFalls_onlyGroups .hubWarm e j job
  refine ⟨_, (State.demoteAll_job there).trans (congrArg some (if_pos (State.mem_residentSlots there resident fixed))), ?_⟩
  rw [Job.demotedFor_of_fixed (j := { j with group := g }) fixed]
  exact ⟨rfl, rfl, rfl, rfl⟩

theorem State.hubWarm_rests (low : k < 36) (clocked : (s.stack k).clocked = true) :
    (s.hubWarm.stack k).selfRefresh = true ∧ (s.hubWarm.stack k).clocked = false := by
  rw [State.stack, show s.hubWarm.tielux = (s.hubFalls .hubWarm).tielux from s.hubWarm_kept_falls.frame.same .tielux (by decide), ← State.stack]
  exact State.hubGoesDown_rests (s := s.countReset .hubWarm) low clocked

/-! ### Module warm reset (R401) -/

theorem State.restartJob_retains (s : State) (slot : Nat) : Retains s (s.restartJob slot) := by
  have frees (j : Job) : Kept [.clusters, .tielux] s (((s.freeJobMemory j).clearRegion j.region).dropOutward j.id) :=
    State.dropOutward_kept _ _ (State.clearRegion_kept _ (State.freeJobMemory_kept j (Kept.refl s) (by decide)) (by decide)) (by decide)
  have sends (t : State) (j : Job) : Retains t ((t.setJob slot j).jobState j) :=
    (State.setJob_kept (A := [.jobs]) slot j (Kept.refl t) (by decide)).retains.trans (State.complete_retains _ _ _ _)
  rw [State.restartJob]
  split
  · split
    · exact (frees _).retains.trans (sends _ _)
    · exact (frees _).retains.trans (sends _ _)
    · exact (frees _).retains.trans (sends _ _)
    · exact (State.clearRegion_kept (A := [.clusters]) _ (Kept.refl s) (by decide)).retains.trans (sends _ _)
    · exact .refl s
  · exact .refl s

theorem State.restartJobs_retains (s : State) (slots : List Nat) : Retains s (s.restartJobs slots) := .foldl (fun t k => t.restartJob_retains k) slots

theorem State.restartAll_kept (s : State) (n : Nat) : Kept [.clusters, .halves, .dies] s ((List.range n).foldl State.restartDie s) :=
  Kept.foldl (fun _ d kept => State.restartDie_kept d kept (by decide)) _ (Kept.refl s)

/-- The jobs that a module warm reset restarts, the hub down. -/
def State.moduleJobs (s : State) : State := (s.hubFalls .moduleWarm).restartJobs ((s.hubFalls .moduleWarm).residentSlots fun _ => true)

theorem State.moduleWarm_eq (s : State) : s.moduleWarm = ((List.range 6).foldl State.restartDie s.moduleJobs).tryUnusable := rfl

/-- After the jobs, a module warm reset concerns units alone. -/
theorem State.moduleWarm_kept_jobs (s : State) : Kept [.clusters, .halves, .dies, .tielux] s.moduleJobs s.moduleWarm := by
  rw [State.moduleWarm_eq]
  exact State.tryUnusable_kept ((State.restartAll_kept _ 6).mono (by decide)) (by decide)

theorem State.moduleJobs_kept (s : State) : Kept [.clusters, .tielux, .jobs, .transport, .streams] (s.hubFalls .moduleWarm) s.moduleJobs :=
  State.restartJobs_kept _ (Kept.refl _) (by decide)

/-- After the hub is down, a module warm reset concerns jobs and units. -/
theorem State.moduleWarm_kept_falls (s : State) : Kept [.clusters, .halves, .dies, .tielux, .jobs, .transport, .streams] (s.hubFalls .moduleWarm)
    s.moduleWarm := (s.moduleJobs_kept.mono (by decide)).trans (s.moduleWarm_kept_jobs.mono (by decide))

theorem State.moduleWarm_retains (s : State) : Retains s s.moduleWarm ∧ s.moduleWarm.sessionIds = [] := by
  obtain ⟨kept, none⟩ := s.hubFalls_retains .moduleWarm
  have later : Retains (s.hubFalls .moduleWarm) s.moduleWarm := (State.restartJobs_retains _ _).trans s.moduleWarm_kept_jobs.retains
  exact ⟨kept.trans later, List.subset_nil.1 (none ▸ later.sessions)⟩

/-- A module warm reset restarts every resident job (R401). -/
theorem State.moduleWarm_restarts (job : s.job? e = some j) (resident : j.state.resident = true) : JobRestarted s.moduleWarm e j := by
  obtain ⟨g, there, -⟩ := s.hubFalls_onlyGroups .moduleWarm e j job
  obtain ⟨k, restarted, restarts⟩ := State.restartJobs_restarts there resident (State.mem_residentSlots (p := fun _ => true) there resident rfl)
  exact ⟨k, (State.job?_of_jobs s.moduleWarm_kept_jobs.jobs e).trans restarted, restarts⟩

/-- The halves of a module start over unclocked, and none stays marked by READY_TIMEOUT (R401, R540). -/
theorem State.moduleWarm_half {h : Nat} (low : h < 12) :
    (s.moduleWarm.half h).clocked = false ∧ (s.moduleWarm.half h).ready = false ∧ (s.moduleWarm.half h).unusable = false := by
  obtain ⟨stopped, unready⟩ := s.moduleJobs.restartAll_half h 6 (by omega)
  rw [State.moduleWarm_eq]
  generalize (List.range 6).foldl State.restartDie s.moduleJobs = u at stopped unready ⊢
  obtain ⟨clocked, ready, usable⟩ := u.tryUnusable_half h
  exact ⟨clocked.trans stopped, ready.trans unready, usable⟩

theorem State.moduleWarm_cluster (low : k < 384) : (s.moduleWarm.cluster k).cores = [] := by
  rw [State.moduleWarm_eq, State.tryUnusable_cluster, State.restartAll_cluster, if_pos (by omega)]

end Warm

section Port

/-- A port reset, from what a port restart leaves (R400). -/
theorem State.resetPort_port (s : State) : s.resetPort.port =
    { s.port with linkUp := false, mode := .down, preemptActive := false, bulkPaused := false, laneFailed := 0, macB := false, training := .dr8,
                  expressQueue := 0 } := State.restartPort_port (s.countReset .port)

theorem State.resetPort_resets (s : State) :
    s.resetPort.journal.resetCount = (s.journal.resetCount + 1) % 2 ^ 24 ∧ s.resetPort.journal.lastReset = .port :=
  Kept.resets (A := [.transport, .events, .headers, .port]) (State.restartPort_kept (Kept.refl (s.countReset .port)) (by decide))

theorem State.portDown_logs {s : State} (up : s.port.linkUp = true) : Logged s.portDown 0x0A01 := by
  rw [State.portDown, if_pos up]
  exact (LoggedLately.of_log _ _).logged

theorem State.resetPort_retains (s : State) : Retains s s.resetPort := (s.countReset_retains .port).trans (State.restartPort_retains _)

end Port

/-! ### The audit entry of a RESET (R494) -/

/-- Such an entry stands in the audit log that was not there before, and at most `n` younger ones. -/
def AuditedLately (s t : State) (role outcome action status n : Nat) : Prop :=
  ∃ older e later, t.journal.audit = older ++ e :: later ∧ s.journal.auditNext ≤ e.seq ∧ e.role = role ∧ e.outcome = outcome ∧
    e.action = BitVec.ofNat 16 action ∧ e.status = BitVec.ofNat 16 status ∧ later.length ≤ n

section Audits

variable {s t u : State} {role outcome action status n : Nat} {A : List Part}

theorem AuditedLately.audited (lately : AuditedLately s t role outcome action status n) : Audited s t role outcome action status := by
  obtain ⟨older, e, later, audit, new, roles, decides, acts, tells, -⟩ := lately
  exact ⟨e, by simp [audit], new, roles, decides, acts, tells⟩

theorem AuditedLately.of_audit (s : State) (fpr detail : Bytes) :
    AuditedLately s (s.audit role outcome action status fpr detail) role outcome action status 0 :=
  ⟨_, _, [], rfl, Nat.le_refl _, rfl, rfl, rfl, rfl, Nat.le_refl 0⟩

theorem AuditedLately.of_same (lately : AuditedLately s t role outcome action status n) (same : u.journal.audit = t.journal.audit) :
    AuditedLately s u role outcome action status n := by rwa [AuditedLately, same]

theorem AuditedLately.kept (lately : AuditedLately s t role outcome action status n) (kept : Kept A t u) (other : Part.audit ∉ A := by decide) :
    AuditedLately s u role outcome action status n := lately.of_same (congrArg Prod.fst (kept.frame.same .audit other).1)

/-- A full log drops its oldest entry only: one with few younger ones stays. -/
theorem AuditedLately.audit (lately : AuditedLately s t role outcome action status n) (few : n < 131071) (r o a st : Nat) (fpr detail : Bytes) :
    AuditedLately s (t.audit r o a st fpr detail) role outcome action status (n + 1) := by
  obtain ⟨older, e, later, audit, new, roles, decides, acts, tells, young⟩ := lately
  have ring : ∃ x, (t.audit r o a st fpr detail).journal.audit =
      (if 131072 ≤ t.journal.audit.length then t.journal.audit.tail else t.journal.audit) ++ [x] :=
    ⟨_, by simp only [State.audit, decide_eq_true_eq]; rfl⟩
  obtain ⟨x, ring⟩ := ring
  rw [audit] at ring
  suffices ∃ left, (t.audit r o a st fpr detail).journal.audit = left ++ e :: (later ++ [x]) by
    obtain ⟨left, same⟩ := this
    exact ⟨left, e, later ++ [x], same, new, roles, decides, acts, tells, by simpa using young⟩
  cases older with
  | nil =>
    refine ⟨[], ring.trans ?_⟩
    rw [if_neg (by simp only [List.nil_append, List.length_cons]; omega)]
    simp
  | cons y older =>
    refine ⟨if 131072 ≤ (y :: older ++ e :: later).length then older else y :: older, ring.trans ?_⟩
    split <;> simp

theorem AuditedLately.mono {m : Nat} (lately : AuditedLately s t role outcome action status n) (le : n ≤ m) :
    AuditedLately s t role outcome action status m := by
  obtain ⟨older, e, later, audit, new, roles, decides, acts, tells, young⟩ := lately
  exact ⟨older, e, later, audit, new, roles, decides, acts, tells, young.trans le⟩

theorem AuditedLately.endLoad (lately : AuditedLately s t role outcome action status n) (few : n < 131071) (h : LoadHandle) (f : LoadFault) :
    AuditedLately s (t.endLoad h f) role outcome action status (n + 1) := by
  have fails (u : State) : Kept [.tielux, .objects, .transport, .streams] u (u.failLoad h f) := State.failLoad_kept h f (Kept.refl u) (by decide)
  rw [State.endLoad]
  split
  · rw [State.dropFirmware]
    refine AuditedLately.kept ?_ (fails _)
    exact (lately.audit few 1 1 0x0006 f.status h.owner h.body.digest).of_same rfl
  · exact (lately.kept (fails t)).mono (Nat.le_succ n)

/-- At most 64 loads are open (R404), so that the entries of those that end leave one that went before. -/
theorem AuditedLately.interruptLoads (lately : AuditedLately s t role outcome action status 0) (ok : HandlesOk t) :
    AuditedLately s t.interruptLoads role outcome action status 64 := by
  have ends (hs : List LoadHandle) : ∀ {u : State} {n : Nat}, AuditedLately s u role outcome action status n → n + hs.length ≤ 64 →
      AuditedLately s (hs.foldl (fun t h => t.endLoad h ⟨0x010C, h.got.length, 0⟩) u) role outcome action status 64 := by
    induction hs with
    | nil => exact fun lately few => lately.mono few
    | cons h hs ih =>
      intro u n lately few
      rw [List.length_cons] at few
      exact ih (lately.endLoad (by omega) h ⟨0x010C, h.got.length, 0⟩) (by omega)
  exact ends t.objects.handles lately (by simpa [HandlesOk] using ok)

theorem AuditedLately.hubGoesDown (lately : AuditedLately s t role outcome action status 0) (ok : HandlesOk t) :
    AuditedLately s t.hubGoesDown role outcome action status 64 := by
  have dropped : Kept [.jobs, .transport, .streams, .events, .headers, .entropy] t (t.dropSessions t.sessionIds) :=
    State.dropSessions_kept _ (Kept.refl t) (by decide)
  have open? : HandlesOk (t.dropSessions t.sessionIds) := by
    rw [HandlesOk, show (t.dropSessions t.sessionIds).objects = t.objects from dropped.frame.same .objects (by decide)]
    exact ok
  have ended := (lately.kept dropped).interruptLoads open?
  have rest : Kept [.transport, .streams, .events, .headers, .port, .security] (t.dropSessions t.sessionIds).interruptLoads
      (t.dropSessions t.sessionIds).hubEmptied :=
    State.restartPort_kept (State.interruptFirmware_kept (Kept.refl _) (by decide)) (by decide)
  have down (u : State) : u.atHubDown.journal.audit = u.journal.audit := rfl
  rw [State.hubGoesDown_eq]
  exact ((ended.kept rest).kept (State.restAll_kept _ 6)).of_same (down _)

end Audits

end Sys2Proof.Machine

/-! PROOF of O32, its theorem: the resets of R400 and R401, and the RESET command. -/

namespace Sys2Proof.Machine

open Sys2Proof Sys2Proof.Safety

section Reset

variable {s t : State} {x : Session} {req : Nat}

theorem State.resetFault_none (role : x.role = .installer) (runs : s.config.bootRom = false) (room : 1 ≤ s.areaFree) : s.resetFault x = none := by
  simp [State.resetFault, State.roomFault, firstFault, needs, role, runs, room]

theorem State.resetFault_role (role : x.role ≠ .installer) : s.resetFault x = some ⟨0x0601, 0, 0⟩ := by
  simp [State.resetFault, firstFault, needs, role]

/-- A RESET audited and accepted, before its class is carried out. -/
def State.resetAccepted (s : State) (x : Session) (req : Nat) (c : ResetClass) : State :=
  (s.auditBy x 0 0x0008 0 (beBytes 1 (resetCode c).1 ++ beBytes 1 (resetCode c).2)).accept x req 0 1 blankRecord

theorem State.resetCommand_of_role (role : x.role ≠ .installer) (c : ResetClass) : s.resetCommand x req c = s.refuse x req 0x0601 0 0 := by
  rw [State.resetCommand, State.resetFault_role role]
  rfl

theorem State.resetCommand_of_none (fault : s.resetFault x = none) (c : ResetClass) :
    s.resetCommand x req c = (s.resetAccepted x req c).resetAs x.fpr (some x.id) req c := by
  rw [State.resetCommand, fault]
  rfl

/-- A RESET that an installer gave in `s` and that `a` has accepted: its ACCEPT and its audit entry stand, and no load was opened. -/
structure ResetAccepted (s a : State) (fpr : Bytes) (req : Nat) : Prop where
  told : Told s a fpr req .accept 0
  audited : AuditedLately s a 1 0 0x0008 0 0
  numbers : (s.stream fpr).nextSeq ≤ (a.stream fpr).nextSeq
  loads : HandlesOk a

theorem State.resetAccepted_spec (role : x.role = .installer) (ok : HandlesOk s) (c : ResetClass) :
    ResetAccepted s (s.resetAccepted x req c) x.fpr req := by
  let u := s.auditBy x 0 0x0008 0 (beBytes 1 (resetCode c).1 ++ beBytes 1 (resetCode c).2)
  have audits : Kept [.audit] s u := State.auditBy_kept _ _ _ _ _ (Kept.refl s) (by decide)
  have accepts : Kept [.transport, .streams] u (s.resetAccepted x req c) := State.accept_kept _ _ _ _ _ (Kept.refl u) (by decide)
  have audited : AuditedLately s u x.role.auditCode 0 0x0008 0 0 := .of_audit s x.fpr _
  rw [role] at audited
  refine ⟨Told.before (told_accept blankRecord trivial) audits.frame (by decide), audited.kept accepts, ?_, ?_⟩
  · exact (Nat.le_succ _).trans (State.accept_nextSeq u x req 0 1 blankRecord).ge
  · rw [HandlesOk, show (s.resetAccepted x req c).objects = s.objects from
      (accepts.frame.same .objects (by decide)).trans (audits.frame.same .objects (by decide))]
    exact ok

theorem ResetAccepted.before {u : State} {fpr : Bytes} {A : List Part} (accepted : ResetAccepted u t fpr req) (touches : OnlyTouches A s u)
    (streams : Part.streams ∉ A := by decide) (audit : Part.audit ∉ A := by decide) : ResetAccepted s t fpr req := by
  obtain ⟨told, ⟨older, e, later, log, new, entry⟩, numbers, loads⟩ := accepted
  have next : u.journal.auditNext = s.journal.auditNext := congrArg (·.2.1) (touches.same .audit audit).1
  refine ⟨told.before touches streams, ⟨older, e, later, log, next ▸ new, entry⟩, ?_, loads⟩
  rwa [touches.stream streams] at numbers

theorem State.resetDie_resets (s : State) (d : Nat) :
    (s.resetDie d).journal.resetCount = (s.journal.resetCount + 1) % 2 ^ 24 ∧ (s.resetDie d).journal.lastReset = .die := by
  let u := ((s.restartJobs (s.residentSlots fun j => j.hasDie d)).restartDie d).restStacks d
  have kept : Kept [.clusters, .halves, .dies, .tielux, .jobs, .transport, .streams] s u :=
    State.restStacks_kept d (State.restartDie_kept d (State.restartJobs_kept _ (Kept.refl s) (by decide)) (by decide)) (by decide)
  exact ⟨congrArg (fun n => (n + 1) % 2 ^ 24) kept.resets.1, rfl⟩

theorem State.resetDie_retains (s : State) (d : Nat) : Retains s (s.resetDie d) := by
  let u := s.restartJobs (s.residentSlots fun j => j.hasDie d)
  have kept : Kept [.clusters, .halves, .dies, .tielux, .starts] u (s.resetDie d) :=
    State.countReset_kept _ (State.restStacks_kept d (State.restartDie_kept d (Kept.refl u) (by decide)) (by decide)) (by decide)
  exact (s.restartJobs_retains _).trans kept.retains

/-- The event of a half that hangs. -/
def hangEvent (h : Nat) (j : Job) : EventSpec := j.event { code := 0x0518, severity := 2, kind := 2, unit := unitWord (h / 2) 0xFF 0xFF (h % 2) }

theorem State.hangReset_of_issuing {h : Nat} {e : Nat × Job} (holds : s.halfJob? h = some e) (issues : e.2.issuing = true) :
    s.hangReset h = (s.log (hangEvent h e.2)).resetDie (h / 2) := by
  rw [State.hangReset, holds]
  exact if_pos issues

/-! ### The class carried out -/

section Classes

variable {a u : State} {fpr : Bytes} {want : Option Nat}

/-- A class that completes at once tells DONE behind the ACCEPT (log entry 72). -/
theorem ResetAccepted.completes {A : List Part} (accepted : ResetAccepted s a fpr req) (retains : Retains a u) (kept : Kept A a u)
    (other : Part.audit ∉ A := by decide) :
    Told s (u.done fpr want req blankRecord) fpr req .accept 0 ∧ Audited s (u.done fpr want req blankRecord) 1 0 0x0008 0 ∧
    Told s (u.done fpr want req blankRecord) fpr req .done 0 := by
  have done : Kept [.transport, .streams] u (u.done fpr want req blankRecord) := State.done_kept _ _ _ _ (Kept.refl u) (by decide)
  exact ⟨(retains.trans (u.complete_retains _ _ _)).told accepted.told, ((accepted.audited.kept kept other).kept done).audited,
    (told_done blankRecord trivial).of_le (accepted.numbers.trans (retains.numbers fpr))⟩

theorem ResetAccepted.port (accepted : ResetAccepted s a fpr req) : let t := a.resetPort.done fpr want req blankRecord
    Told s t fpr req .accept 0 ∧ Audited s t 1 0 0x0008 0 ∧ Told s t fpr req .done 0 ∧ t.port.laneFailed = 0 ∧ t.port.linkUp = false ∧
    t.journal.lastReset = .port := by
  have kept : Kept [.transport, .events, .starts, .headers, .port] a a.resetPort := State.resetPort_kept (Kept.refl a) (by decide)
  have done : Kept [.transport, .streams] a.resetPort (a.resetPort.done fpr want req blankRecord) :=
    State.done_kept _ _ _ _ (Kept.refl _) (by decide)
  have port : (a.resetPort.done fpr want req blankRecord).port = a.resetPort.port := done.frame.same .port (by decide)
  obtain ⟨told, audited, tells⟩ := accepted.completes (want := want) a.resetPort_retains kept
  refine ⟨told, audited, tells, ?_, ?_, done.resets.2.trans a.resetPort_resets.2⟩ <;> rw [port, a.resetPort_port]

theorem ResetAccepted.die (accepted : ResetAccepted s a fpr req) (d : Nat) : let t := (a.resetDie d).done fpr want req blankRecord
    Told s t fpr req .accept 0 ∧ Audited s t 1 0 0x0008 0 ∧ Told s t fpr req .done 0 ∧ (∀ k, k / 64 = d → (t.cluster k).cores = []) ∧
    t.journal.lastReset = .die := by
  have kept : Kept [.clusters, .halves, .dies, .tielux, .jobs, .transport, .streams, .starts] a (a.resetDie d) :=
    State.resetDie_kept d (Kept.refl a) (by decide)
  have done : Kept [.transport, .streams] (a.resetDie d) ((a.resetDie d).done fpr want req blankRecord) :=
    State.done_kept _ _ _ _ (Kept.refl _) (by decide)
  have clusters : ((a.resetDie d).done fpr want req blankRecord).clusters = (a.resetDie d).clusters := done.frame.same .clusters (by decide)
  obtain ⟨told, audited, tells⟩ := accepted.completes (want := want) (a.resetDie_retains d) kept
  refine ⟨told, audited, tells, fun k there => ?_, done.resets.2.trans (a.resetDie_resets d).2⟩
  rw [State.cluster, clusters]
  exact ((a.resetDie_restarted d).clusters k there).1

/-- A reset that waits for the hub to be READY again is kept with the others that wait (R404). -/
def State.waitForHub (s : State) (fpr : Bytes) (req : Nat) : State := s.onJournal fun j => { j with resetDone := j.resetDone ++ [(fpr, req)] }

theorem ResetAccepted.waits (accepted : ResetAccepted s a fpr req) : ResetAccepted s (a.waitForHub fpr req) fpr req :=
  ⟨accepted.told.of_subset (List.Subset.refl _), accepted.audited.of_same rfl, accepted.numbers, accepted.loads⟩

/-- A class that restarts the hub leaves the ACCEPT, the audit entry and the reset that waits. -/
theorem ResetAccepted.restartsHub {A : List Part} {c : LastReset} (accepted : ResetAccepted s a fpr req) (retains : Retains (a.waitForHub fpr req) u)
    (kept : Kept A ((a.waitForHub fpr req).hubFalls c) u) (audit : Part.audit ∉ A := by decide) (config : Part.config ∉ A := by decide)
    (starts : Part.starts ∉ A := by decide) :
    Told s u fpr req .accept 0 ∧ Audited s u 1 0 0x0008 0 ∧ (fpr, req) ∈ u.journal.resetDone ∧ u.config.hubReady = false ∧
    u.journal.lastReset = c := by
  obtain ⟨told, audited, -, loads⟩ := accepted.waits
  have counted : AuditedLately s ((a.waitForHub fpr req).countReset c) 1 0 0x0008 0 0 := audited.of_same rfl
  refine ⟨retains.told told, ((counted.hubGoesDown loads).kept kept audit).audited, ?_, ?_, ?_⟩
  · rw [retains.waits]
    exact List.mem_append_right _ (List.mem_singleton.2 rfl)
  · exact (kept.hubReady config).1.trans (State.hubGoesDown_config _).1
  · exact (kept.resets starts).2.trans (State.hubFalls_resets _ c).2

end Classes

end Reset

/-- Settles O32. That a hub warm reset demotes with cause 6 and that a reset of the port or of a die completes at once is log entry 72. -/
theorem resetClasses : Obligations.ResetClasses := by
  refine ⟨fun s => ⟨_, rfl, ?port⟩, fun s => ⟨_, rfl, ?hub⟩, fun s _ => ⟨_, rfl, ?module⟩, fun s half e ok holds issues => ⟨_, rfl, ?hang⟩,
    fun s die _ => ⟨_, rfl, s.resetDie_restarted die.val, s.resetDie_resets die.val⟩, fun s h x cls ok fresh => ⟨_, rfl, ?command⟩⟩
  case port =>
    obtain ⟨count, last⟩ := s.resetPort_resets
    have frame : Kept [.transport, .events, .starts, .headers, .port] s s.resetPort := State.resetPort_kept (Kept.refl s) (by decide)
    have port := s.resetPort_port
    refine ⟨frame.frame, ?_, ?_, ?_, ?_, ?_, ?_, count, last, fun up => ?_⟩
    · rw [port]
    · rw [port]
    · rw [port]
    · rw [port]
    · rw [port]
    · rw [port]
    · exact State.portDown_logs (s := s.countReset .port) up
  case hub =>
    obtain ⟨count, last⟩ := s.hubFalls_resets .hubWarm
    obtain ⟨ready, started⟩ := (s.countReset .hubWarm).hubGoesDown_config
    have demotes := s.hubWarm_kept_falls
    refine ⟨demotes.mem.trans (s.hubFalls_kept .hubWarm).mem, List.map_eq_nil_iff.1 s.hubWarm_retains.2, ?_, demotes.hubReady.1.trans ready,
      demotes.hubReady.2.trans started, ?_, demotes.resets.1.trans count, demotes.resets.2.trans last, fun k => State.hubWarm_rests,
      fun e j => State.hubWarm_job, fun e j job resident _ => State.hubWarm_demotes job resident⟩
    · exact (congrArg ObjectStore.handles (demotes.frame.same .objects (by decide))).trans (State.hubGoesDown_handles _)
    · exact (congrArg Port.linkUp (demotes.frame.same .port (by decide))).trans (State.hubGoesDown_linkUp _)
  case module =>
    obtain ⟨count, last⟩ := s.hubFalls_resets .moduleWarm
    obtain ⟨ready, -⟩ := (s.countReset .moduleWarm).hubGoesDown_config
    have rest := s.moduleWarm_kept_falls
    refine ⟨rest.mem.trans (s.hubFalls_kept .moduleWarm).mem, List.map_eq_nil_iff.1 s.moduleWarm_retains.2, ?_, rest.hubReady.1.trans ready,
      rest.resets.1.trans count, rest.resets.2.trans last, fun h => State.moduleWarm_half, fun k => State.moduleWarm_cluster,
      fun e j => State.moduleWarm_restarts⟩
    exact (congrArg ObjectStore.handles (rest.frame.same .objects (by decide))).trans (State.hubGoesDown_handles _)
  case hang =>
    rw [State.hangReset_of_issuing holds issues]
    have logged : LoggedLately (s.log (hangEvent half.val e.2)) 0x0518 0 := LoggedLately.of_log _ _
    exact ⟨(logged.of_events (State.resetDie_same _ _).1).logged, DieRestarted.before (State.resetDie_restarted _ _) rfl rfl rfl⟩
  case command =>
    have popped := s.popInbox_touches h.sess
    rw [State.command_of_fresh fresh]
    refine ⟨fun role => ?_, fun role runs room => ?_⟩
    · rw [State.resetCommand_of_role role]
      exact ⟨(told_refuse x h.req 0x0601 0 0).before popped (by decide),
        (popped.mono (by decide)).trans (State.refuse_kept _ _ _ _ _ (Kept.refl _) (by decide)).frame⟩
    · have accepted := (State.resetAccepted_spec (s := s.popInbox h.sess) (req := h.req) role ok cls).before popped
      rw [State.resetCommand_of_none (State.resetFault_none (s := s.popInbox h.sess) role runs room)]
      generalize (s.popInbox h.sess).resetAccepted x h.req cls = a at accepted ⊢
      cases cls with
      | port => exact accepted.port
      | die d => exact accepted.die d.val
      | hubWarm => exact accepted.restartsHub (State.hubWarm_retains _).1 (State.hubWarm_kept_falls _)
      | moduleWarm => exact accepted.restartsHub (State.moduleWarm_retains _).1 (State.moduleWarm_kept_falls _)

end Sys2Proof.Machine

/-! PROOF of O55, O58 and O53: what every command keeps (`exec_kept`) and an idle cycle leaves, and the state that reset leaves. -/

namespace Sys2Proof.Machine

open Sys2Proof Sys2Proof.Safety

/-- A step changes some parts of the state as `Kept` says: the queue alone differs, by the command that it has taken. -/
theorem step_kept {s t : State} (h : step s = .next t) : ∃ A rest, Kept A { s with pending := rest } t := by
  unfold step at h
  split at h
  · exact ⟨_, s.pending, (idleCycle_kept (Kept.refl s) (List.Subset.refl _)).of_next h⟩
  · next rest _ => exact ⟨_, rest, exec_kept h⟩

/-- Settles O55: the forms do not speak of the queue, and every operation keeps them. -/
theorem stepKeepsForms : Obligations.StepKeepsForms := by
  intro s t h
  obtain ⟨_, _, kept⟩ := step_kept h
  exact ⟨kept.memory, kept.events, kept.slots⟩

/-- Settles O58: every operation raises the numbers or leaves them, and gives no unit back. -/
theorem stepNeverLowers : Obligations.StepNeverLowers := by
  intro s t h
  obtain ⟨_, _, kept⟩ := step_kept h
  exact ⟨kept.security, kept.number, kept.jobId, kept.jobSeq, kept.retired⟩

/-- Settles O53, by evaluation of the state that reset leaves. -/
theorem resetState : Obligations.ResetState := by
  unfold Obligations.ResetState
  refine ⟨rfl, rfl, rfl, rfl, rfl, rfl, rfl, rfl, rfl, rfl, rfl, rfl, rfl, rfl, rfl, ?settings⟩
  case settings =>
    refine ⟨rfl, rfl, rfl, rfl, rfl, rfl, rfl, rfl, rfl, rfl, rfl, rfl, rfl, rfl, rfl, rfl, rfl, rfl, rfl, rfl, rfl, rfl⟩

end Sys2Proof.Machine

/-! REFUTATION of O52: WAKE answers 0x0002 for a half whose PLL is unusable (R542, R556), and the clause on WAKE does not assume that the PLL is
usable: what it calls usable speaks of the half's own mark and of its die alone. -/

namespace Sys2Proof.Machine

open Sys2Proof Sys2Proof.Safety

/-- An installer's open session. -/
def installerSession : Session := { id := 1, role := .installer, fpr := [], peerAddr := 0, opened := true }

/-- A module that a hub start has verified, with that session open, on which the PLL of half 0 is unusable. -/
def stateWithoutPll : State :=
  { State.reset with
    config := { State.reset.config with hubStarted := true }, clocks := { pllUnusable := [(0, true)] },
    transport := { sessions := [installerSession] } }

/-- The write of WAKE on the page of cluster 0, which half 0 holds. -/
def wakeEntry : RegEntry := { addr := 0x20000C#32, write := true, data := 1 }

theorem stateWithoutPll_wake_packets :
    ((stateWithoutPll.headerEntry 1 0x200 0x00C 1).session? 1).map (fun y => y.tx.map (·.body)) = some [.regReply 0 0 [(wakeEntry, 0x0002#16)]] := by
  decide

/-- Refutes O52: the half is not failed and not marked unusable, its die runs, and yet the WAKE of its page is not answered with status 0. -/
theorem not_registerEffects : ¬ Obligations.RegisterEffects := by
  rintro ⟨-, -, pages⟩
  obtain ⟨wakes, -⟩ := pages stateWithoutPll 1 installerSession rfl rfl
  obtain ⟨⟨t, woken, answers⟩, -⟩ := wakes rfl 0
  obtain ⟨⟨y, found, answered⟩, -⟩ := answers ⟨rfl, rfl, rfl, rfl⟩ rfl
  have state : stateWithoutPll.headerEntry 1 0x200 0x00C 1 = t := Host.Outcome.next.inj woken
  have packets := stateWithoutPll_wake_packets
  rw [state, found, Option.map_some] at packets
  have refused : TxBody.regReply 0 0 [({ addr := word (4096 * 0x200 + 0x00C), write := true, data := 1 }, 0)] ∈
      [TxBody.regReply 0 0 [(wakeEntry, 0x0002#16)]] := Option.some.inj packets ▸ answered
  exact absurd refused (by decide)

end Sys2Proof.Machine

/-! PROOF, the rules that O29, O42 and O43 share: which packets a session still holds after later ones, and what the end of a job leaves of the
records. -/

namespace Sys2Proof.Machine

open Sys2Proof Sys2Proof.Safety

/-! ### Packets that wait for their acknowledgement (R391) -/

/-- From `s` to `t` every session that stands keeps the packets that it holds. -/
def KeepsPackets (s t : State) : Prop := ∀ id x, s.session? id = some x → ∃ y, t.session? id = some y ∧ x.tx ⊆ y.tx

section Packets

variable {s t u : State}

theorem KeepsPackets.of_transport (same : t.transport = s.transport) : KeepsPackets s t :=
  fun _ x held => ⟨x, by rwa [State.session?, same], List.Subset.refl _⟩

theorem KeepsPackets.refl (s : State) : KeepsPackets s s := .of_transport rfl

theorem KeepsPackets.trans (a : KeepsPackets s t) (b : KeepsPackets t u) : KeepsPackets s u := by
  intro id x held
  obtain ⟨y, there, first⟩ := a id x held
  obtain ⟨z, last, second⟩ := b id y there
  exact ⟨z, last, List.Subset.trans first second⟩

theorem KeepsPackets.foldl {α : Type} {f : State → α → State} (keeps : ∀ t a, KeepsPackets t (f t a)) :
    ∀ (l : List α) {s : State}, KeepsPackets s (l.foldl f s)
  | [], s => .refl s
  | a :: l, s => (keeps s a).trans (KeepsPackets.foldl keeps l)

theorem KeepsPackets.delivers {id : Nat} {b : TxBody} (keeps : KeepsPackets s t) (delivers : Delivers s id b) : Delivers t id b := by
  obtain ⟨x, held, mem⟩ := delivers
  obtain ⟨y, there, more⟩ := keeps id x held
  exact ⟨y, there, List.map_subset _ more mem⟩

theorem KeepsPackets.isSome {id : Nat} (keeps : KeepsPackets s t) (stands : (s.session? id).isSome) : (t.session? id).isSome := by
  obtain ⟨x, held⟩ := Option.isSome_iff_exists.1 stands
  obtain ⟨y, there, -⟩ := keeps id x held
  exact Option.isSome_iff_exists.2 ⟨y, there⟩

theorem State.session?_modSession (s : State) (id i : Nat) {f : Session → Session} (keeps : ∀ x, (f x).id = x.id) :
    (s.modSession id f).session? i = if i = id then (s.session? id).map f else s.session? i := by
  split
  · rename_i same
    subst same
    exact find?_modFirst (p := fun x : Session => x.id == i) (fun x is => by rwa [keeps]) _
  · rename_i other
    refine find?_modFirst_other (fun x is => ?_) _
    rw [beq_iff_eq.1 is, keeps, beq_iff_eq.1 is, and_self]
    exact beq_false_of_ne fun same => other same.symm

theorem State.session?_send (s : State) (id i : Nat) (b : TxBody) :
    (s.send id b).session? i = if i = id then (s.session? id).map (·.send b) else s.session? i := by
  cases held : s.session? id with
  | none =>
    have stays : s.send id b = s := by rw [State.send, Transport.sendOn, show s.transport.sessions.find? _ = none from held]
    rw [stays]
    split
    · rename_i same
      rw [same, held, Option.map_none]
    · rfl
  | some x =>
    rw [← held, ← State.session?_modSession s id i (f := (·.send b)) fun _ => rfl, State.session?, State.session?, State.send, Transport.sendOn,
      show s.transport.sessions.find? _ = some x from held]
    dsimp only
    rw [Transport.queue, apply_ite Transport.sessions, ite_self]
    rfl

theorem State.send_keepsPackets (s : State) (id : Nat) (b : TxBody) : KeepsPackets s (s.send id b) := by
  intro i x held
  rw [State.session?_send]
  split
  · rename_i same
    rw [← same, held]
    exact ⟨_, rfl, List.subset_append_left _ _⟩
  · exact ⟨x, held, List.Subset.refl _⟩

/-- A packet that is sent on a session that stands waits there for its acknowledgement. -/
theorem delivers_send {id : Nat} (stands : (s.session? id).isSome) (b : TxBody) : Delivers (s.send id b) id b := by
  obtain ⟨x, held⟩ := Option.isSome_iff_exists.1 stands
  refine ⟨x.send b, ?_, ?_⟩
  · rw [State.session?_send, if_pos rfl, held, Option.map_some]
  · rw [Session.send, List.map_append]
    exact List.mem_append_right _ (List.mem_singleton.2 rfl)

theorem State.complete_keepsPackets (s : State) (fpr : Bytes) (want : Option Nat) (r : CompRecord) : KeepsPackets s (s.complete fpr want r) := by
  have journaled (f : Stream → Stream) : KeepsPackets s (s.modStream fpr f) := .of_transport rfl
  rw [State.complete]
  split
  · exact (journaled _).trans (.foldl (fun t _ => t.send_keepsPackets _ _) _)
  · exact journaled _

end Packets

/-! ### Records that outlast the end of a job (R398) -/

section Ends

variable {s : State} {slot : Nat} {j : Job}

theorem State.toNeighbours_retains (s : State) (g : GroupState) (b : TxBody) : Retains s (s.toNeighbours g b) := by
  refine .foldl (fun t n => ?_) _
  rw [State.toNeighbour]
  split
  · split
    · exact t.send_retains _ _
    · exact .refl t
  · exact .refl t

theorem State.tellEnd_retains (s : State) (j : Job) (silent : Bool) (status d0 d1 : Nat) : Retains s (s.tellEnd j silent status d0 d1) := by
  rw [State.tellEnd]
  have group : Retains s (match j.group with
      | some g => s.toNeighbours g (g.barrier 5 (BitVec.ofNat 16 status) j.epoch)
      | none => s) := by
    split
    · exact s.toNeighbours_retains _ _
    · exact .refl s
  split
  · exact group
  · exact group.trans (State.complete_retains _ _ _ _)

theorem State.withoutJob_kept (s : State) (slot : Nat) (j : Job) (status : Nat) :
    Kept [.clusters, .tielux, .jobs, .free] s (s.withoutJob slot j status) :=
  State.dropJob_kept _ (State.dropOutward_kept _ 0 (State.clearRegion_kept _ (State.freeJobMemory_kept _
    (State.sealResult_kept _ status (Kept.refl s) (by decide)) (by decide)) (by decide)) (by decide)) (by decide)

/-- The end of a job loses no record. -/
theorem State.endJob_retains (job : s.job? slot = some j) (live : j.state ≠ .ended) (idle : j.state ≠ .preempting) (status d0 d1 : Nat) :
    Retains s (s.endJob slot status d0 d1) := by
  rw [State.endJob_eq job live idle]
  exact (State.setJob_kept _ _ (s.withoutJob_kept slot j status) (by decide)).retains.trans ((State.tellEnd_retains _ _ _ _ _ _).trans
    (Kept.retains (A := [.tielux, .jobs, .objects])
      (State.raiseSettings_kept (State.dropReleased_kept (Kept.refl _) (by decide)) (by decide))))

end Ends

end Sys2Proof.Machine

/-! PROOF of O43: the commands on a job. What each is refused for, and what the job of its entry becomes once it is accepted. -/

namespace Sys2Proof.Machine

open Sys2Proof Sys2Proof.Safety

/-! ### What a job command is refused for (R404, R478) -/

section Faults

variable {s : State} {x : Session} {number : Nat} {any : Bool}

theorem State.roleFault_of_host (host : x.IsHost) (runs : s.config.bootRom = false) : s.roleFault x = none := by
  simp [State.roleFault, firstFault, needs, host.checked, runs]

theorem State.jobFault_of_unknown (host : x.IsHost) (runs : s.config.bootRom = false) (unknown : s.jobById? number = none) :
    s.jobFault x number any = some ⟨0x0110, 0, 0⟩ := by
  simp [State.jobFault, State.roleFault_of_host host runs, firstFault, needs, unknown]

theorem State.jobFault_of_foreign (host : x.IsHost) (runs : s.config.bootRom = false) {e : Nat × Job} (named : s.jobById? number = some e)
    (foreign : e.2.owner ≠ x.fpr) (bound : any = false ∨ x.role ≠ .installer) : s.jobFault x number any = some ⟨0x0601, 0, 0⟩ := by
  have may : (any && x.role == .installer) = false := by simpa [or_iff_not_imp_left] using bound
  simp [State.jobFault, State.roleFault_of_host host runs, firstFault, needs, named, Session.ownsJob, foreign, may]

/-- A stream's own job, which a host may command while the job area has room. -/
structure OwnJob (s : State) (x : Session) (slot : Nat) (j : Job) : Prop where
  host : x.IsHost
  runs : s.config.bootRom = false
  room : 1 ≤ s.areaFree
  named : s.jobById? j.id = some (slot, j)
  own : j.owner = x.fpr

variable {slot : Nat} {j : Job}

theorem OwnJob.popInbox (own : OwnJob s x slot j) (id : Nat) : OwnJob (s.popInbox id) x slot j :=
  ⟨own.host, own.runs, own.room, own.named, own.own⟩

theorem OwnJob.job (own : OwnJob s x slot j) (ok : JobsOk s) : s.job? slot = some j :=
  State.job?_of_mem ok (List.mem_of_find?_eq_some own.named)

theorem OwnJob.jobFault_none (own : OwnJob s x slot j) : s.jobFault x j.id any = none := by
  simp [State.jobFault, State.roleFault_of_host own.host own.runs, firstFault, needs, own.named, Session.ownsJob, own.own, State.roomFault,
    own.room]

/-- A command refused once it has been taken from its session. -/
theorem refused_of_fresh {h : CmdHead} (status : Nat) : let t := (s.popInbox h.sess).refuse x h.req status
    Told s t x.fpr h.req .refused (BitVec.ofNat 16 status) ∧ OnlyTouches [.transport, .streams] s t := by
  have popped := s.popInbox_touches h.sess
  exact ⟨(told_refuse x h.req status 0 0).before popped (by decide),
    (popped.mono (by decide)).trans (State.refuse_kept _ _ _ _ _ (Kept.refl _) (by decide)).frame⟩

/-- The job that a command names gives it the status: no entry holds it, or it is another stream's. -/
def NamesNoOwn (s : State) (x : Session) (number : Nat) (any : Bool) (status : BitVec 16) : Prop :=
  (s.jobById? number = none ∧ status = 0x0110) ∨
    ∃ e, s.jobById? number = some e ∧ e.2.owner ≠ x.fpr ∧ (any = false ∨ x.role ≠ .installer) ∧ status = 0x0601

theorem NamesNoOwn.jobFault {status : BitVec 16} (names : NamesNoOwn s x number any status) (host : x.IsHost) (runs : s.config.bootRom = false) :
    ∃ n, s.jobFault x number any = some ⟨n, 0, 0⟩ ∧ status = BitVec.ofNat 16 n := by
  rcases names with ⟨unknown, rfl⟩ | ⟨e, named, foreign, bound, rfl⟩
  · exact ⟨_, State.jobFault_of_unknown host runs unknown, rfl⟩
  · exact ⟨_, State.jobFault_of_foreign host runs named foreign bound, rfl⟩

variable {req n : Nat} {go : State → Nat → State}

theorem State.cancel_of_fault (fault : s.jobFault x number true = some ⟨n, 0, 0⟩) : s.cancel x req number = s.refuse x req n := by
  rw [State.cancel, fault]

theorem State.onJobCommand_of_fault {f : Option LoadFault} (fault : f = some ⟨n, 0, 0⟩) : s.onJobCommand x req number f go = s.refuse x req n := by
  rw [fault]
  rfl

theorem State.suspendFault_of_fault (fault : s.jobFault x number false = some ⟨n, 0, 0⟩) : s.suspendFault x number = some ⟨n, 0, 0⟩ := by
  simp [State.suspendFault, firstFault, fault]

theorem State.exportFault_of_fault (fault : s.jobFault x number false = some ⟨n, 0, 0⟩) : s.exportFault x number = some ⟨n, 0, 0⟩ := by
  simp [State.exportFault, firstFault, fault]

theorem State.exportJob_of_fault (fault : s.exportFault x number = some ⟨n, 0, 0⟩) : s.exportJob x req number = s.refuse x req n := by
  rw [State.exportJob, fault]
  rfl

end Faults

/-! ### A stream's own job: the command accepted -/

section Own

variable {s : State} {x : Session} {slot : Nat} {j : Job} (req : Nat)

/-- The ACCEPT of a command on a job. -/
def State.acceptFor (s : State) (x : Session) (req : Nat) (j : Job) : State := s.accept x req 0 1 (s.jobRecord j .accept 0)

theorem State.acceptFor_told (s : State) (x : Session) (req : Nat) (j : Job) : Told s (s.acceptFor x req j) x.fpr req .accept 0 :=
  told_accept (s.jobRecord j .accept 0) trivial

theorem State.acceptFor_touches (s : State) (x : Session) (req : Nat) (j : Job) : OnlyTouches [.transport, .streams] s (s.acceptFor x req j) :=
  s.accept_touches x req 0 1 _

theorem State.acceptFor_jobs (s : State) (x : Session) (req : Nat) (j : Job) : (s.acceptFor x req j).jobs = s.jobs :=
  (s.acceptFor_touches x req j).same .jobs (by decide)

theorem OwnJob.onJobCommand (own : OwnJob s x slot j) {f : Option LoadFault} (may : f = none) (go : State → Nat → State) :
    s.onJobCommand x req j.id f go = go (s.acceptFor x req j) slot := by
  rw [State.onJobCommand, may, State.ruled, own.named]
  rfl

/-! ### CANCEL (R295) -/

theorem OwnJob.cancel (own : OwnJob s x slot j) : s.cancel x req j.id = (s.acceptFor x req j).cancelJob slot := by
  have silent : s.auditCancel x j.id = s := by
    rw [State.auditCancel, own.named]
    exact if_pos (beq_iff_eq.2 own.own)
  rw [State.cancel, own.jobFault_none, silent]
  exact own.onJobCommand req rfl _

theorem State.cancelJob_of_idle (job : s.job? slot = some j)
    (idle : j.state = .waiting ∨ j.state = .preempted ∨ j.state = .obligation ∨ j.state = .admitting) :
    s.cancelJob slot = s.endJob slot 0x020A 0 0 := by
  rw [State.cancelJob, job]
  rcases idle with state | state | state | state <;> simp [state]

theorem State.cancelJob_of_busy (job : s.job? slot = some j) (busy : j.state = .running ∨ j.state = .restoring ∨ j.state = .preempting) :
    s.cancelJob slot = s.setJob slot { j with cancelPending := true } := by
  rw [State.cancelJob, job]
  rcases busy with state | state | state <;> simp [state]

theorem State.cancelJob_of_ended (job : s.job? slot = some j) (ended : j.state = .ended) : s.cancelJob slot = s := by
  simp [State.cancelJob, job, ended]

theorem JobState.idle_or_busy_or_ended (st : JobState) :
    (st = .waiting ∨ st = .preempted ∨ st = .obligation ∨ st = .admitting) ∨ (st = .running ∨ st = .restoring ∨ st = .preempting) ∨ st = .ended := by
  cases st <;> decide

theorem State.setJob_retains (s : State) (slot : Nat) (k : Job) : Retains s (s.setJob slot k) :=
  (State.setJob_kept (A := [.jobs]) slot k (Kept.refl s) (by decide)).retains

theorem State.cancelJob_retains (job : s.job? slot = some j) : Retains s (s.cancelJob slot) := by
  rcases j.state.idle_or_busy_or_ended with idle | busy | ended
  · rw [State.cancelJob_of_idle job idle]
    exact State.endJob_retains job (by rintro h; simp [h] at idle) (by rintro h; simp [h] at idle) _ _ _
  · rw [State.cancelJob_of_busy job busy]
    exact s.setJob_retains _ _
  · rw [State.cancelJob_of_ended job ended]
    exact .refl s

/-! ### SUSPEND and RESUME (R335, R337) -/

theorem OwnJob.suspendFault (own : OwnJob s x slot j) : s.suspendFault x j.id = needs (s.suspendable j) 0x020E 0 0 := by
  simp [State.suspendFault, firstFault, own.jobFault_none, own.named]

theorem State.jobState_retains (s : State) (j : Job) : Retains s (s.jobState j) := s.complete_retains _ _ _

/-- A job that waits, held, its waiting time stopped (R306, R335). -/
def Job.heldAt (j : Job) (now : Nat) : Job :=
  { j with heldBySuspend := true, waitLimit := false, waitSince := now,
           waitedNs := if j.heldBySuspend || j.state == .obligation then j.waitedNs else j.waitedNs + (now - j.waitSince) }

theorem State.suspendJob_of_idle (job : s.job? slot = some j) (n : Nat)
    (idle : j.state = .waiting ∨ j.state = .preempted ∨ j.state = .obligation) :
    s.suspendJob slot n = (s.setJob slot (j.heldAt s.nowNs)).jobState (j.heldAt s.nowNs) := by
  rw [State.suspendJob, job]
  cases j
  rcases idle with state | state | state <;> cases state <;> rfl

theorem State.suspendJob_of_resident (job : s.job? slot = some j) (n : Nat) (resident : j.state.resident = true) :
    s.suspendJob slot n = s.setJob slot { j with suspendAt := some n } := by
  rw [State.suspendJob, job]
  cases state : j.state <;> simp [state, JobState.resident] at resident ⊢

theorem State.suspendJob_of_ended (job : s.job? slot = some j) (n : Nat) (ended : j.state = .ended) : s.suspendJob slot n = s := by
  simp [State.suspendJob, job, ended]

theorem JobState.idle_or_resident_or_ended (st : JobState) :
    (st = .waiting ∨ st = .preempted ∨ st = .obligation) ∨ st.resident = true ∨ st = .ended := by
  cases st <;> decide

/-- What a suspension makes of a job: one that waits is held, one that runs stops at the step named. -/
theorem State.suspendJob_spec (job : s.job? slot = some j) (n : Nat) : Retains s (s.suspendJob slot n) ∧
    ∃ k, JobBecomes s (s.suspendJob slot n) slot k ∧ k.id = j.id ∧ k.state = j.state ∧
      (j.state = .waiting ∨ j.state = .preempted ∨ j.state = .obligation → k.heldBySuspend = true) ∧
      (j.state.resident = true → k = { j with suspendAt := some n }) := by
  have stands := JobBecomes.refl job
  rcases j.state.idle_or_resident_or_ended with idle | resident | ended
  · rw [State.suspendJob_of_idle job n idle]
    refine ⟨(s.setJob_retains _ _).trans (State.jobState_retains _ _), _, (stands.setJob _).of_jobs (State.jobState_jobs _ _), rfl, rfl,
      fun _ => rfl, fun resident => ?_⟩
    rcases idle with state | state | state <;> simp [state, JobState.resident] at resident
  · rw [State.suspendJob_of_resident job n resident]
    refine ⟨s.setJob_retains _ _, _, stands.setJob _, rfl, rfl, fun idle => ?_, fun _ => rfl⟩
    rcases idle with state | state | state <;> simp [state, JobState.resident] at resident
  · rw [State.suspendJob_of_ended job n ended]
    refine ⟨.refl s, j, stands, rfl, rfl, fun idle => ?_, fun resident => ?_⟩
    · simp [ended] at idle
    · simp [ended, JobState.resident] at resident

theorem State.resumeJob_becomes (job : s.job? slot = some j) : Retains s (s.resumeJob slot) ∧
    JobBecomes s (s.resumeJob slot) slot
      { j with heldBySuspend := false, suspendAt := none, waitSince := if j.heldBySuspend then s.nowNs else j.waitSince } := by
  rw [State.resumeJob, State.modJob_eq job]
  exact ⟨s.setJob_retains _ _, (JobBecomes.refl job).setJob _⟩

/-! ### RELEASE_RESULT (R399, R403) -/

/-- The final record of a job still waits for its acknowledgement. -/
def State.finalWaits (s : State) (fpr : Bytes) (id : Nat) : Prop :=
  ∃ g ∈ (s.stream fpr).records, g.record.jobId = id ∧ g.record.kind = .jobFinal

theorem State.finalWaits_iff (s : State) (fpr : Bytes) (id : Nat) :
    ((s.stream fpr).records.any fun h => h.record.jobId == id && h.record.kind == .jobFinal) = true ↔ s.finalWaits fpr id := by
  simp [State.finalWaits]

/-- An ACCEPT is no final record. -/
theorem State.acceptFor_finalWaits (s : State) (x : Session) (req : Nat) (j k : Job) :
    (s.acceptFor x req j).finalWaits x.fpr k.id ↔ s.finalWaits x.fpr k.id := by
  have records : ((s.acceptFor x req j).stream x.fpr).records = (s.stream x.fpr).records ++
      [{ record := { s.jobRecord j .accept 0 with req := req, kind := .accept, seq := (s.stream x.fpr).nextSeq },
         sentOn := (s.admitRequest x req 0 1).recordSession x.fpr (some x.id) }] := by
    rw [State.acceptFor, State.accept_eq, State.stream_complete, State.stream_admitRequest]
  simp [State.finalWaits, records]

/-- The job that a number names first is still named first when it has changed but for its number. -/
theorem find?_jobs_minsert {id k : Nat} {j v : Job} (same : v.id = j.id) : ∀ {m : SMap (Option Job)} {lo : Option Nat}, mrising lo m = true →
    (m.filterMap fun e => e.2.map fun j => (e.1, j)).find? (fun e => e.2.id == id) = some (k, j) →
      ((minsert m k (some v)).filterMap fun e => e.2.map fun j => (e.1, j)).find? (fun e => e.2.id == id) = some (k, v)
  | [], _, _, found => by simp at found
  | (a, o) :: m, lo, rises, found => by
    have named : (j.id == id) = true := List.find?_some (p := fun e : Nat × Job => e.2.id == id) found
    have tail := mrising_tail rises
    obtain ⟨⟨key, entry⟩, listed, taken⟩ := List.mem_filterMap.1 (List.mem_of_find?_eq_some found)
    obtain ⟨_, rfl, is⟩ := Option.map_eq_some_iff.1 taken
    obtain ⟨rfl, rfl⟩ := Prod.mk.inj is
    rcases List.mem_cons.1 listed with head | later
    · obtain ⟨rfl, rfl⟩ := Prod.mk.inj head
      simp [minsert, same, named]
    · have above : a < key := (mget_of_mem_rising (d := none) tail later).1 a rfl
      rw [minsert, if_neg (by omega), if_neg (by omega)]
      cases o with
      | none => exact find?_jobs_minsert same tail found
      | some u =>
        cases is : u.id == id with
        | true => simp [is] at found; omega
        | false =>
          simp only [List.filterMap_cons, Option.map_some, List.find?_cons, is] at found ⊢
          exact find?_jobs_minsert same tail found

theorem State.jobById?_setJob (ok : JobsOk s) {id : Nat} (named : s.jobById? id = some (slot, j)) {k : Job} (same : k.id = j.id) :
    (s.setJob slot k).jobById? id = some (slot, k) := by
  simp only [JobsOk, mwf, Bool.and_eq_true] at ok
  exact find?_jobs_minsert same ok.1 named

/-- A result given up: its job leaves the table when its final record has gone (R399). -/
theorem State.releaseResult_of_named (ok : JobsOk s) (named : s.jobById? j.id = some (slot, j)) : let k := { j with released := true }
    (j.state ≠ .ended ∨ s.finalWaits x.fpr j.id → s.releaseResult x slot = s.setJob slot k) ∧
    (j.state = .ended → ¬s.finalWaits x.fpr j.id →
      (s.releaseResult x slot).jobs = ((s.setJob slot k).dropJob slot).jobs ∧ Retains s (s.releaseResult x slot)) := by
  intro k
  have job : s.job? slot = some j := State.job?_of_mem ok (List.mem_of_find?_eq_some named)
  have stays : (s.setJob slot k).finalWaits x.fpr j.id ↔ s.finalWaits x.fpr j.id := Iff.rfl
  rw [State.releaseResult, job]
  dsimp only
  rw [State.settleJob, State.jobById?_setJob ok named (k := k) rfl]
  dsimp only
  rw [← stays]
  refine ⟨fun held => if_neg fun h => ?_, fun ended gone => ?_⟩
  · obtain ⟨ended, -, acked⟩ := h
    rcases held with live | waits
    · exact live ended
    · rw [(State.finalWaits_iff _ _ _).2 waits] at acked
      cases acked
  · rw [if_pos ⟨ended, rfl, Bool.eq_false_iff.2 fun h => gone ((State.finalWaits_iff _ _ _).1 h)⟩]
    exact ⟨rfl, .of_streams rfl rfl (List.Subset.refl _)⟩

/-! ### EXPORT (R336) -/

theorem OwnJob.exportFault (own : OwnJob s x slot j) : s.exportFault x j.id = needs (j.state == .preempted) 0x020F 0 0 := by
  simp [State.exportFault, firstFault, own.jobFault_none, own.named]

/-- The frames of an object that the S6 makes itself do not turn on what waits in a session. -/
theorem State.objectPages_popInbox_isSome (s : State) (id n : Nat) : ((s.popInbox id).objectPages n).isSome = (s.objectPages n).isSome := by
  have moved : (s.onTransport fun _ => (s.popInbox id).transport).objectPages n =
      (s.objectPages n).map fun r => (r.1.onTransport fun _ => (s.popInbox id).transport, r.2) := by
    simp only [State.objectPages, State.takeSalted, State.takeHashed, State.drawSalt_onTransport, State.takeHashedAll_onTransport]
  exact (congrArg Option.isSome moved).trans Option.isSome_map

/-- A context that leaves its job becomes one more object, of data, in the protected layout. -/
theorem State.keepExport_of_new {owner o : Bytes} (new : s.object? (sha256 o) = none) (pages : (s.objectPages o.length).isSome) :
    ∃ u ps, s.keepExport owner o = some u ∧ OnlyTouches [.tielux, .mem, .objects, .entropy, .free] s u ∧
      u.objects.held = s.objects.held ++
        [{ kind := 2, digest := sha256 o, bytes := o, protectedLayout := true, owner := owner, pages := ps }] := by
  obtain ⟨r, taken⟩ := Option.isSome_iff_exists.1 pages
  have frames : Kept [.tielux, .entropy, .free] s r.1 := State.takeSalted_kept (v := r.2) (Kept.refl s) taken (by decide)
  have stored := frames.frame.mono (B := [.tielux, .mem, .objects, .entropy, .free]) (by decide) |>.trans
    ((r.1.storePages_touches (offset := 0) (data := o) r.2).mono (by decide))
  have objects : (r.1.storePages r.2 0 o).objects = s.objects :=
    ((r.1.storePages_touches r.2).same .objects (by decide)).trans (frames.frame.same .objects (by decide))
  refine ⟨_, r.2, by rw [State.keepExport, new, taken]; rfl, stored.trans ?_, ?_⟩
  · exact (State.onObjects_kept _ (Kept.refl _) id (by decide)).frame
  · rw [State.onObjects_objects, objects]

/-- What an EXPORT of a preempted job answers and keeps. -/
theorem OwnJob.exportJob (own : OwnJob s x slot j) (preempted : j.state = .preempted) (req : Nat)
    (new : s.object? (sha256 (exportBytes j.context)) = none) (pages : (s.objectPages (exportBytes j.context).length).isSome) :
    let t := s.exportJob x req j.id
    Told s t x.fpr req .accept 0 ∧ Told s t x.fpr req .done 0 (fun r => r.digest = sha256 (exportBytes j.context)) ∧
      ∃ o, t.objects.held = s.objects.held ++ [o] ∧ o.kind = 2 ∧ o.bytes = exportBytes j.context ∧ o.owner = x.fpr := by
  obtain ⟨u, ps, kept, touches, held⟩ := State.keepExport_of_new (owner := x.fpr) new pages
  have may : s.exportFault x j.id = none := by rw [own.exportFault, preempted]; rfl
  have result : s.exportJob x req j.id = ((u.acceptFor x req j).done x.fpr (some x.id) req
      { blankRecord with jobId := j.id, digest := sha256 (exportBytes j.context) }).wakeObligations := by
    simp only [State.exportJob, may, State.ruled, own.named, kept, Option.elim_some, State.acceptFor]
  have later : Kept [.jobs, .transport, .streams] u (((u.acceptFor x req j).done x.fpr (some x.id) req
      { blankRecord with jobId := j.id, digest := sha256 (exportBytes j.context) }).wakeObligations) :=
    State.wakeObligations_kept (State.done_kept _ _ _ _ (State.accept_kept _ _ _ _ _ (Kept.refl u) (by decide)) (by decide)) (by decide)
  rw [result]
  refine ⟨?_, ?_, _, (later.frame.same .objects (by decide) ▸ held :), rfl, rfl, rfl⟩
  · exact (((u.acceptFor_told x req j).before touches (by decide)).complete).after State.wakeObligations_touches (by decide)
  · have finished : Told (u.acceptFor x req j) ((u.acceptFor x req j).done x.fpr (some x.id) req
        { blankRecord with jobId := j.id, digest := sha256 (exportBytes j.context) }) x.fpr req .done 0
        (fun r => r.digest = sha256 (exportBytes j.context)) := told_done _ rfl
    refine (finished.of_le ?_).after State.wakeObligations_touches (by decide)
    rw [State.acceptFor, State.accept_nextSeq, touches.stream (by decide)]
    exact Nat.le_succ _

/-! ### FETCH (R404, R408) -/

theorem exec_fetch {h : CmdHead} (session : s.openSession? h.sess = some x) (what : FetchWhat) (offset length : Nat) :
    exec (.fetch h what offset length) s = .next ((s.popInbox h.sess).fetch x h.req what offset length) := by
  show execFetch h what offset length s = _
  rw [execFetch, session]

theorem OwnJob.fetchBytes_of_held (own : OwnJob s x slot j) (ended : j.state = .ended) (kept : j.released = false) :
    s.fetchBytes x (.job j.id) = .inl j.resultImage := by
  simp [State.fetchBytes, own.named, Session.ownsJob, own.own, ended, kept]

theorem OwnJob.fetchBytes_of_gone (own : OwnJob s x slot j) (gone : j.state ≠ .ended ∨ j.released = true) :
    s.fetchBytes x (.job j.id) = .inr 0x0110 := by
  have : ¬(j.state = .ended ∧ j.released = false) := by
    rintro ⟨ended, kept⟩
    rcases gone with live | released
    · exact live ended
    · simp [kept] at released
  simpa [State.fetchBytes, own.named, Session.ownsJob, own.own] using this

theorem State.fetch_of_bytes (role : s.roleFault x = none) {what : FetchWhat} {bs : Bytes} (bytes : s.fetchBytes x what = .inl bs)
    (req offset length : Nat) : ∃ r : CompRecord, r.status = 0 ∧ s.fetch x req what offset length =
      (s.sendBulk x.id (req % 2 ^ 32) (((bs.drop offset).take length).length / 8160 + 1) offset ((bs.drop offset).take length)).done x.fpr
        (some x.id) req r := by
  unfold State.fetch
  rw [role, bytes]
  exact ⟨_, rfl, rfl⟩

theorem State.fetch_of_status (role : s.roleFault x = none) {what : FetchWhat} {status : Nat} (missing : s.fetchBytes x what = .inr status)
    (req offset length : Nat) : s.fetch x req what offset length = s.refuse x req status := by
  unfold State.fetch
  rw [role, missing]

theorem State.sendBulk_touches (s : State) (id handle n offset : Nat) (bs : Bytes) :
    OnlyTouches [.transport] s (s.sendBulk id handle n offset bs) :=
  (State.sendBulk_kept _ _ _ _ _ (Kept.refl s) (List.Subset.refl _)).frame

theorem State.sendBulk_keepsPackets (id handle n : Nat) : ∀ (s : State) (offset : Nat) (bs : Bytes),
    KeepsPackets s (s.sendBulk id handle n offset bs) := by
  induction n with
  | zero => exact fun s _ _ => .refl s
  | succ n ih =>
    intro s offset bs
    rw [State.sendBulk]
    split
    · exact .refl s
    · exact (s.send_keepsPackets _ _).trans (ih _ _ _)

/-- Data of one packet goes in one packet. -/
theorem delivers_sendBulk {id : Nat} (stands : (s.session? id).isSome) (handle n offset : Nat) {bs : Bytes} (more : bs ≠ [])
    (fits : bs.length ≤ 8160) : Delivers (s.sendBulk id handle (n + 1) offset bs) id (.bulk handle offset bs) := by
  rw [State.sendBulk, if_neg (by simpa using more)]
  have sent := delivers_send stands (.bulk handle offset (bs.take 8160))
  rw [List.take_of_length_le fits] at sent ⊢
  exact (State.sendBulk_keepsPackets _ _ _ _ _ _).delivers sent

theorem State.popInbox_isSome (id i : Nat) (stands : (s.session? i).isSome) : ((s.popInbox id).session? i).isSome := by
  rw [State.popInbox, State.session?_modSession s id i (f := fun x => { x with inbox := x.inbox.tail }) fun _ => rfl]
  split
  · rename_i same
    rwa [Option.isSome_map, ← same]
  · exact stands

theorem State.complete_highMark (s : State) (fpr : Bytes) (want : Option Nat) (r : CompRecord) :
    ((s.complete fpr want r).stream fpr).highMark = (s.stream fpr).highMark := by
  rw [State.stream_complete]

theorem State.job?_dropJob (s : State) (k i : Nat) : (s.dropJob k).job? i = if i = k then none else s.job? i :=
  mget_mset none s.jobs.table k none i

/-! ### What each command makes of a stream's own job -/

theorem OwnJob.accepted_becomes (own : OwnJob s x slot j) (ok : JobsOk s) (req : Nat) : JobBecomes s (s.acceptFor x req j) slot j :=
  (JobBecomes.refl (own.job ok)).of_jobs (s.acceptFor_jobs x req j)

theorem OwnJob.cancel_spec (own : OwnJob s x slot j) (ok : JobsOk s) (place : slot < 4096) (req : Nat) : let t := s.cancel x req j.id
    Told s t x.fpr req .accept 0 ∧
      (j.state = .waiting ∨ j.state = .preempted ∨ j.state = .obligation ∨ j.state = .admitting → Ended t slot j 0x020A) ∧
      (j.state = .running ∨ j.state = .restoring ∨ j.state = .preempting → JobBecomes s t slot { j with cancelPending := true }) := by
  have becomes := own.accepted_becomes ok req
  rw [own.cancel]
  refine ⟨(State.cancelJob_retains becomes.1).told (s.acceptFor_told x req j), fun idle => ?_, fun busy => ?_⟩
  · rw [State.cancelJob_of_idle becomes.1 idle]
    exact State.endJob_ended (jobsOk_of_jobs (s.acceptFor_jobs x req j) ok) place becomes.1 (by rintro h; simp [h] at idle)
      (by rintro h; simp [h] at idle) _ _ _
  · rw [State.cancelJob_of_busy becomes.1 busy]
    exact becomes.setJob _

/-- SUSPEND of a stream's own job. -/
def State.suspend (s : State) (x : Session) (req job n : Nat) : State :=
  s.onJobCommand x req job (s.suspendFault x job) fun u k => u.suspendJob k n

theorem OwnJob.suspend_of_fixed (own : OwnJob s x slot j) (fixed : s.suspendable j = false) (req n : Nat) :
    s.suspend x req j.id n = s.refuse x req 0x020E :=
  State.onJobCommand_of_fault (by rw [own.suspendFault, fixed]; rfl)

theorem OwnJob.suspend_spec (own : OwnJob s x slot j) (ok : JobsOk s) (may : s.suspendable j = true) (req n : Nat) :
    let t := s.suspend x req j.id n
    Told s t x.fpr req .accept 0 ∧ ∃ k, JobBecomes s t slot k ∧ k.id = j.id ∧ k.state = j.state ∧
      (j.state = .waiting ∨ j.state = .preempted ∨ j.state = .obligation → k.heldBySuspend = true) ∧
      (j.state.resident = true → k = { j with suspendAt := some n }) := by
  have becomes := own.accepted_becomes ok req
  rw [State.suspend, own.onJobCommand req (by rw [own.suspendFault, may]; rfl)]
  obtain ⟨retains, k, suspended, what⟩ := State.suspendJob_spec becomes.1 n
  exact ⟨retains.told (s.acceptFor_told x req j), k, becomes.trans suspended, what⟩

/-- RESUME of a stream's own job. -/
def State.resume (s : State) (x : Session) (req job : Nat) : State :=
  s.onJobCommand x req job (s.jobFault x job false) fun u k => u.resumeJob k

theorem OwnJob.resume_spec (own : OwnJob s x slot j) (ok : JobsOk s) (req : Nat) : let t := s.resume x req j.id
    Told s t x.fpr req .accept 0 ∧ ∃ k, JobBecomes s t slot k ∧ k.heldBySuspend = false ∧ k.suspendAt = none ∧ k.id = j.id ∧
      k.state = j.state := by
  have becomes := own.accepted_becomes ok req
  rw [State.resume, own.onJobCommand req own.jobFault_none]
  obtain ⟨retains, resumed⟩ := State.resumeJob_becomes becomes.1
  exact ⟨retains.told (s.acceptFor_told x req j), _, becomes.trans resumed, rfl, rfl, rfl, rfl⟩

theorem OwnJob.exportJob_of_other (own : OwnJob s x slot j) (other : j.state ≠ .preempted) (req : Nat) :
    s.exportJob x req j.id = s.refuse x req 0x020F :=
  State.exportJob_of_fault (by rw [own.exportFault, beq_false_of_ne other]; rfl)

/-- A FETCH of a result that is held: the bytes, and DONE. -/
theorem OwnJob.fetch_of_held (own : OwnJob s x slot j) (ended : j.state = .ended) (kept : j.released = false) (req offset length : Nat) :
    let t := s.fetch x req (.job j.id) offset length
    let part := (j.resultImage.drop offset).take length
    (t.stream x.fpr).highMark = (s.stream x.fpr).highMark ∧ Told s t x.fpr req .done 0 ∧
      (part ≠ [] → part.length ≤ 8160 → (s.session? x.id).isSome → Delivers t x.id (.bulk (req % 2 ^ 32) offset part)) := by
  obtain ⟨r, status, is⟩ :=
    State.fetch_of_bytes (State.roleFault_of_host own.host own.runs) (own.fetchBytes_of_held ended kept) req offset length
  have sent := s.sendBulk_touches x.id (req % 2 ^ 32) (((j.resultImage.drop offset).take length).length / 8160 + 1) offset
    ((j.resultImage.drop offset).take length)
  rw [is]
  refine ⟨?_, ?_, fun more fits stands => ?_⟩
  · rw [State.done, State.complete_highMark, sent.stream (by decide)]
  · exact (status ▸ told_done r trivial : Told _ _ x.fpr req .done 0).before sent (by decide)
  · exact (State.complete_keepsPackets _ _ _ _).delivers (delivers_sendBulk stands _ _ _ more fits)

theorem OwnJob.fetch_of_gone (own : OwnJob s x slot j) (gone : j.state ≠ .ended ∨ j.released = true) (req offset length : Nat) :
    s.fetch x req (.job j.id) offset length = s.refuse x req 0x0110 :=
  State.fetch_of_status (State.roleFault_of_host own.host own.runs) (own.fetchBytes_of_gone gone) req offset length

/-- RELEASE_RESULT of a stream's own job. -/
def State.release (s : State) (x : Session) (req job : Nat) : State :=
  s.onJobCommand x req job (s.jobFault x job false) fun u k => u.releaseResult x k

theorem OwnJob.release_spec (own : OwnJob s x slot j) (ok : JobsOk s) (req : Nat) : let t := s.release x req j.id
    Told s t x.fpr req .accept 0 ∧
      (j.state ≠ .ended ∨ s.finalWaits x.fpr j.id → JobBecomes s t slot { j with released := true }) ∧
      (j.state = .ended → ¬s.finalWaits x.fpr j.id → t.job? slot = none ∧ ∀ e, e ≠ slot → t.job? e = s.job? e) := by
  have becomes := own.accepted_becomes ok req
  have told := s.acceptFor_told x req j
  have jobs := s.acceptFor_jobs x req j
  have named : (s.acceptFor x req j).jobById? j.id = some (slot, j) := by
    rw [State.jobById?, State.jobList, jobs]
    exact own.named
  obtain ⟨stays, leaves⟩ := State.releaseResult_of_named (x := x) (jobsOk_of_jobs jobs ok) named
  rw [State.acceptFor_finalWaits] at stays leaves
  rw [State.release, own.onJobCommand req own.jobFault_none]
  rcases em (j.state = .ended ∧ ¬s.finalWaits x.fpr j.id) with ⟨ended, acked⟩ | held
  · obtain ⟨table, retains⟩ := leaves ended acked
    have gone (e : Nat) : ((s.acceptFor x req j).releaseResult x slot).job? e = if e = slot then none else s.job? e := by
      rw [State.job?_of_jobs table, State.job?_dropJob]
      split
      · rfl
      · rename_i other
        rw [State.job?_setJob, if_neg other, becomes.2 e other]
    refine ⟨retains.told told, fun held => ?_, fun _ _ => ⟨(gone slot).trans (if_pos rfl), fun e other => (gone e).trans (if_neg other)⟩⟩
    exact absurd held (by simp [ended, acked])
  · have held : j.state ≠ .ended ∨ s.finalWaits x.fpr j.id := by tauto
    rw [stays held]
    refine ⟨(State.setJob_retains _ _ _).told told, fun _ => becomes.setJob _, fun ended acked => ?_⟩
    rcases held with live | waits
    · exact absurd ended live
    · exact absurd waits acked

end Own

/-! ### The obligation -/

/-- The refusals that the obligation lists, by whom a command may name. -/
theorem NamesNoOwn.of_given {s : State} {x : Session} {number : Nat} {any : Bool} {status : BitVec 16} {given : Prop} (sess : Nat)
    (bound : given → any = false ∨ x.role ≠ .installer)
    (names : (s.jobById? number = none ∧ status = 0x0110) ∨
      ∃ e, s.jobById? number = some e ∧ e.2.owner ≠ x.fpr ∧ given ∧ status = 0x0601) (host : x.IsHost) (runs : s.config.bootRom = false) :
    ∃ n, (s.popInbox sess).jobFault x number any = some ⟨n, 0, 0⟩ ∧ status = BitVec.ofNat 16 n :=
  NamesNoOwn.jobFault (s := s.popInbox sess) (names.imp_right fun ⟨e, named, foreign, may, is⟩ => ⟨e, named, foreign, bound may, is⟩) host runs

/-- Settles O43. That a job which no entry holds gives 0x0110 is log entry 37. -/
theorem jobCommands : Obligations.JobCommands := by
  refine ⟨?refused, ?requests, ?results⟩
  case refused =>
    intro s h x number step fresh host runs c listed
    simp only [List.mem_cons, List.not_mem_nil, or_false] at listed
    rcases listed with rfl | rfl | rfl | rfl | rfl <;> refine ⟨_, rfl, fun status given => ?_⟩ <;> rw [State.command_of_fresh fresh]
    · obtain ⟨n, fault, rfl⟩ := NamesNoOwn.of_given h.sess (any := true) (by rintro (role | other) <;> simp_all) given host runs
      rw [State.cancel_of_fault fault]
      exact refused_of_fresh n
    all_goals obtain ⟨n, fault, rfl⟩ := NamesNoOwn.of_given h.sess (any := false) (fun _ => .inl rfl) given host runs
    · rw [State.onJobCommand_of_fault (State.suspendFault_of_fault fault)]
      exact refused_of_fresh n
    · rw [State.onJobCommand_of_fault fault]
      exact refused_of_fresh n
    · rw [State.exportJob_of_fault (State.exportFault_of_fault fault)]
      exact refused_of_fresh n
    · rw [State.onJobCommand_of_fault fault]
      exact refused_of_fresh n
  case requests =>
    intro s h x slot j ok fresh host runs room named mine place
    have own : OwnJob (s.popInbox h.sess) x slot j := OwnJob.popInbox ⟨host, runs, room, named, mine⟩ h.sess
    have popped := s.popInbox_touches h.sess
    refine ⟨⟨_, rfl, ?_⟩, fun n => ⟨_, rfl, fun fixed => ?_, fun may => ?_⟩, ⟨_, rfl, ?_⟩⟩ <;> rw [State.command_of_fresh fresh]
    · exact (own.cancel_spec ok place h.req).imp_left (·.before popped (by decide))
    · have refused := own.suspend_of_fixed fixed h.req n
      rw [State.suspend] at refused
      rw [refused]
      exact (refused_of_fresh 0x020E).imp_right fun touches => touches.same .jobs (by decide)
    · exact (own.suspend_spec ok may h.req n).imp_left (·.before popped (by decide))
    · exact (own.resume_spec ok h.req).imp_left (·.before popped (by decide))
  case results =>
    intro s h x slot j ok fresh host runs room named mine
    have own : OwnJob (s.popInbox h.sess) x slot j := OwnJob.popInbox ⟨host, runs, room, named, mine⟩ h.sess
    have popped := s.popInbox_touches h.sess
    refine ⟨⟨_, rfl, fun other => ?_, fun preempted new pages => ?_⟩, fun offset length => ⟨_, exec_fetch fresh.1 _ _ _,
      (exec_kept (exec_fetch fresh.1 (.job j.id) offset length)).frame, ?_⟩, ⟨_, rfl, ?_⟩⟩
    · rw [State.command_of_fresh fresh, own.exportJob_of_other other]
      exact (refused_of_fresh 0x020F).imp_right fun touches => touches.same .objects (by decide)
    · have frames : ((s.popInbox h.sess).objectPages (exportBytes j.context).length).isSome := by
        rw [State.objectPages_popInbox_isSome, exportBytes, List.length_append]
        exact pages
      rw [State.command_of_fresh fresh]
      obtain ⟨accepted, finished, held⟩ := own.exportJob preempted h.req new frames
      exact ⟨accepted.before popped (by decide), finished.before popped (by decide), held⟩
    · rcases em (j.state = .ended ∧ j.released = false) with ⟨ended, kept⟩ | gone
      · obtain ⟨mark, finished, sent⟩ := own.fetch_of_held ended kept h.req offset length
        refine ⟨mark, fun _ _ => ⟨finished.before popped (by decide), fun more fits stands => ?_⟩, fun other => ?_⟩
        · exact sent more fits (State.popInbox_isSome h.sess x.id (by rw [stands]; rfl))
        · exact absurd other (by simp [ended, kept])
      · rw [own.fetch_of_gone (by simpa [imp_iff_not_or] using gone)]
        exact ⟨(State.complete_highMark _ _ _ _).trans (congrArg Stream.highMark (popped.stream (by decide) x.fpr)),
          fun ended kept => absurd ⟨ended, kept⟩ gone, fun _ => (told_refuse x h.req 0x0110 0 0).before popped (by decide)⟩
    · rw [State.command_of_fresh fresh]
      exact (own.release_spec ok h.req).imp_left (·.before popped (by decide))

end Sys2Proof.Machine


/-! PROOF of O42: SUBMIT. What it is checked for does not turn on what waits in a session, so the checks of the submission as it came are those of
the submission once it is taken. -/

namespace Sys2Proof.Machine

open Sys2Proof Sys2Proof.Safety

/-! ### Placements whatever waits in the transport (R298, R316) -/

section Placements

variable (s : State) (g : Transport → Transport)

theorem State.placeFrom_onTransport (p : Bytes) (t : Tiling) (may : Nat → Bool) (whole : List Nat → Bool) (n : Nat) (taken : List Nat) :
    (s.onTransport g).placeFrom p t may whole n taken = s.placeFrom p t may whole n taken := by
  induction n generalizing taken with
  | zero => rfl
  | succ n ih =>
    simp only [State.placeFrom, ih]
    rfl

theorem State.place?_onTransport (p : Bytes) (t : Tiling) (may : Nat → Bool) (whole : List Nat → Bool) :
    (s.onTransport g).place? p t may whole = s.place? p t may whole := by
  rw [State.place?, State.placeFrom_onTransport]
  rfl

theorem State.everPlaced_onTransport : (s.onTransport g).everPlaced = s.everPlaced :=
  funext fun j => funext fun k => congrArg Option.isSome
    (s.place?_onTransport g (s.program j) (progTiling (s.program j) k) (s.halfCould j.owner) fun _ => true)

theorem State.placeJob_onTransport : (s.onTransport g).placeJob = s.placeJob :=
  funext fun j => funext fun k => funext fun may => s.place?_onTransport g (s.program j) (progTiling (s.program j) k) may _

theorem State.tilingOrder_onTransport : (s.onTransport g).tilingOrder = s.tilingOrder := by
  funext j
  simp only [State.tilingOrder, State.everPlaced_onTransport]
  rfl

theorem State.contextStuck_onTransport : (s.onTransport g).contextStuck = s.contextStuck := by
  funext j
  simp only [State.contextStuck, State.everPlaced_onTransport]
  rfl

theorem State.placeable_onTransport : (s.onTransport g).placeable = s.placeable := by
  funext j
  simp only [State.placeable, State.placeJob_onTransport, State.tilingOrder_onTransport]
  rfl

theorem State.availWatts_onTransport : (s.onTransport g).availWatts = s.availWatts := by
  funext slot
  simp only [State.availWatts, State.aimedWatts, State.placeable_onTransport]
  rfl

theorem State.triesNow_onTransport : (s.onTransport g).triesNow = s.triesNow := by
  funext j
  simp only [State.triesNow, State.placeJob_onTransport, State.tilingOrder_onTransport]
  rfl

theorem State.fieldsFault_onTransport : (s.onTransport g).fieldsFault = s.fieldsFault := by
  funext x b j
  simp only [State.fieldsFault, State.everPlaced_onTransport, State.place?_onTransport, State.contextStuck_onTransport,
    State.tilingOrder_onTransport]
  rfl

end Placements

/-! ### Memory reserved whatever waits in the transport (R273, R280, R281) -/

section Memory

/-- A reservation that succeeded, seen another way. -/
def Reserved.map {α β : Type} (f : α → β) : Reserved α → Reserved β
  | .ok a => .ok (f a)
  | .short => .short
  | .stack => .stack

theorem Reserved.ofOption_map {α β : Type} {why : Reserved α} {f : α → β} {o : Option α} :
    Reserved.ofOption (why.map f) (o.map f) = (Reserved.ofOption why o).map f := by
  cases o <;> rfl

theorem Reserved.bind_map {α β γ δ : Type} {f : α → γ} {h : β → δ} {k : γ → Reserved δ} {l : α → Reserved β}
    (commutes : ∀ a, k (f a) = (l a).map h) (r : Reserved α) : (r.map f).bind k = (r.bind l).map h := by
  cases r with
  | ok a => exact commutes a
  | short => rfl
  | stack => rfl

theorem Reserved.bind_ok_map {α β γ δ : Type} {f : α → γ} {h : β → δ} {k : γ → δ} {l : α → β} (commutes : ∀ a, k (f a) = h (l a))
    (r : Reserved α) : ((r.map f).bind fun x => .ok (k x)) = (r.bind fun x => .ok (l x)).map h :=
  Reserved.bind_map (h := h) (k := fun x => .ok (k x)) (l := fun x => .ok (l x)) (fun a => congrArg Reserved.ok (commutes a)) r

/-- Which of the three outcomes it is does not turn on what a reservation that succeeded gives. -/
theorem Reserved.elim_map {α β γ : Type} {f : α → β} (a b c : γ) (r : Reserved α) :
    (r.map f).elim a b (fun _ => c) = r.elim a b fun _ => c := by
  cases r <;> rfl

theorem Reserved.elim_bind_ok {α β γ : Type} {f : α → β} (a b c : γ) (r : Reserved α) :
    (r.bind fun x => .ok (f x)).elim a b (fun _ => c) = r.elim a b fun _ => c := by
  cases r <;> rfl

theorem Reserved.elim_bind {α β δ γ : Type} {f : α → Reserved β} {h : α → Reserved δ} {a b c : γ}
    (same : ∀ x, (f x).elim a b (fun _ => c) = (h x).elim a b fun _ => c) (r : Reserved α) :
    (r.bind f).elim a b (fun _ => c) = (r.bind h).elim a b fun _ => c := by
  cases r with
  | ok x => exact same x
  | short => rfl
  | stack => rfl

variable (s : State) (g : Transport → Transport)

/-- A state among other things, with its transport changed. -/
def atTransport {α : Type} (g : Transport → Transport) (r : State × α) : State × α := (r.1.onTransport g, r.2)

theorem State.takeInAll_onTransport (u : FrameUse) (prot : Bool) (t n : Nat) :
    (s.onTransport g).takeInAll u prot t n = (s.takeInAll u prot t n).map (atTransport g) := by
  induction n generalizing s with
  | zero => rfl
  | succ n ih =>
    rw [State.takeInAll, State.takeInAll, State.takePage_onTransport]
    cases s.takePage u prot t with
    | none => rfl
    | some r =>
      dsimp only [Option.map_some]
      rw [ih, Option.map_map, Option.map_map]
      rfl

theorem State.takeSharesAll_onTransport (u : FrameUse) (prot : Bool) (ts : List (Nat × Nat)) :
    (s.onTransport g).takeSharesAll u prot ts = (s.takeSharesAll u prot ts).map (atTransport g) := by
  induction ts generalizing s with
  | nil => rfl
  | cons e ts ih =>
    rw [State.takeSharesAll, State.takeSharesAll, State.takeIn, State.takeInAll_onTransport, State.takeIn]
    cases s.takeInAll u prot e.1 e.2 with
    | none => rfl
    | some r =>
      dsimp only [Option.map_some, atTransport]
      rw [ih, Option.map_map, Option.map_map]
      rfl

theorem State.takeSalted_onTransport (u : FrameUse) (prot : Bool) (n p : Nat) :
    (s.onTransport g).takeSalted u prot n p = (s.takeSalted u prot n p).map (atTransport g) := by
  simp only [State.takeSalted, State.takeHashed, State.drawSalt_onTransport, State.takeHashedAll_onTransport]
  rfl

theorem State.reserveAlloc_onTransport (job : Nat) (a : AllocEntry) (region : List Nat) :
    (s.onTransport g).reserveAlloc job a region = (s.reserveAlloc job a region).map (atTransport g) := by
  simp only [State.reserveAlloc, State.takeShares, State.takeSharesAll_onTransport, State.takeSalted_onTransport]
  split
  · rw [show (namedStacks a.placeArg region).any (fun t => ((s.onTransport g).stack t).failed) =
      (namedStacks a.placeArg region).any fun t => (s.stack t).failed from rfl]
    split
    · rfl
    · rw [show ((namedStacks a.placeArg region).any fun t => decide (0 < ((s.onTransport g).stack t).uncleared)) =
        (namedStacks a.placeArg region).any fun t => decide (0 < (s.stack t).uncleared) from rfl]
      cases s.takeSharesAll (.job job) (!a.unprotectedLayout) (shareList a (namedStacks a.placeArg region)) with
      | none => split <;> rfl
      | some r => rfl
  · show (Reserved.ofOption (Reserved.map (atTransport g) .short) _).bind _ = _
    rw [Reserved.ofOption_map]
    exact Reserved.bind_ok_map (fun _ => by rfl) _

theorem State.reserveList_onTransport {one : State → Nat → Reserved (State × Allocation)}
    (commutes : ∀ t i, one (t.onTransport g) i = (one t i).map (atTransport g)) (n i : Nat) :
    (s.onTransport g).reserveList one n i = (s.reserveList one n i).map (atTransport g) := by
  induction n generalizing s i with
  | zero => rfl
  | succ n ih =>
    rw [State.reserveList, State.reserveList, commutes]
    refine Reserved.bind_map (fun r => ?_) _
    rw [atTransport, ih]
    exact Reserved.bind_ok_map (fun _ => by rfl) _

theorem State.reserveSide_onTransport (j : Job) (k : Nat) :
    (s.onTransport g).reserveSide j k = (s.reserveSide j k).map (atTransport g) := by
  rw [State.reserveSide, State.reserveSide, State.takeSalted_onTransport]
  show (Reserved.ofOption (Reserved.map (atTransport g) .short) _).bind _ = _
  rw [Reserved.ofOption_map]
  refine Reserved.bind_map (fun r => ?_) _
  rw [atTransport, State.takeSalted_onTransport]
  show (Reserved.ofOption (Reserved.map (atTransport g) .short) _).bind _ = _
  rw [Reserved.ofOption_map]
  exact Reserved.bind_ok_map (fun _ => by rfl) _

/-- What a job that holds no memory takes on a tiling: its ALLOCS entries, then the items beside them. -/
def State.reserveAnew (s : State) (j : Job) (k : Nat) (region : List Nat) : Reserved (State × List PageRef) :=
  (s.reserveList (fun a i => a.reserveAlloc j.id ((progTiling (s.program j) k).alloc (s.program j) i) region)
    (progTiling (s.program j) k).numAllocs 0).bind fun r => r.1.reserveSide j k

theorem State.reserveJob_elim {j : Job} (allocs : j.allocs = []) (pages : j.contextPages = []) (k : Nat) (region : List Nat) {α : Type}
    (a b c : α) : (s.reserveJob j k region).elim a b (fun _ => c) = (s.reserveAnew j k region).elim a b fun _ => c := by
  simp only [State.reserveJob, allocs, pages, List.isEmpty_nil, Bool.not_true, Bool.or_self, Bool.false_and, Bool.false_eq_true, if_false]
  exact Reserved.elim_bind (h := fun r : State × List Allocation => r.1.reserveSide j k) (fun r => Reserved.elim_bind_ok _ _ _ _) _

theorem State.reserveJob_elim_onTransport {j : Job} (allocs : j.allocs = []) (pages : j.contextPages = []) (k : Nat) (region : List Nat)
    {α : Type} (a b c : α) :
    ((s.onTransport g).reserveJob j k region).elim a b (fun _ => c) = (s.reserveJob j k region).elim a b fun _ => c := by
  have anew : (s.onTransport g).reserveAnew j k region = (s.reserveAnew j k region).map (atTransport g) := by
    rw [State.reserveAnew, State.reserveList_onTransport s g fun t i => t.reserveAlloc_onTransport g _ _ _]
    exact Reserved.bind_map (fun r => r.1.reserveSide_onTransport g j k) _
  rw [State.reserveJob_elim _ allocs pages, State.reserveJob_elim _ allocs pages, anew, Reserved.elim_map]

end Memory

/-! ### The checks of a submission whatever waits in the transport -/

section Checks

variable (s : State) (g : Transport → Transport) {j : Job}

theorem State.stackFault_onTransport (allocs : j.allocs = []) (pages : j.contextPages = []) :
    (s.onTransport g).stackFault j = s.stackFault j := by
  simp only [State.stackFault, State.triesNow_onTransport, Reserved.isStack, State.reserveJob_elim_onTransport s g allocs pages]

theorem State.noWaitFault_onTransport (allocs : j.allocs = []) (pages : j.contextPages = []) (slot : Nat) :
    (s.onTransport g).noWaitFault slot j = s.noWaitFault slot j := by
  simp only [State.noWaitFault, State.triesNow_onTransport, Reserved.isOk, State.reserveJob_elim_onTransport s g allocs pages,
    State.availWatts_onTransport]
  rfl

theorem State.submitFault_onTransport (x : Session) (req : Nat) (b : SubmitBody) :
    (s.onTransport g).submitFault x req b = s.submitFault x req b := by
  have same : (s.onTransport g).newJob x req b = s.newJob x req b := rfl
  simp only [State.submitFault, same, State.fieldsFault_onTransport, State.stackFault_onTransport s g (j := s.newJob x req b) rfl rfl,
    State.noWaitFault_onTransport s g (j := s.newJob x req b) rfl rfl]
  rfl

theorem State.submitFault_popInbox (id : Nat) (x : Session) (req : Nat) (b : SubmitBody) :
    (s.popInbox id).submitFault x req b = s.submitFault x req b :=
  s.submitFault_onTransport (fun _ => (s.popInbox id).transport) x req b

end Checks

end Sys2Proof.Machine

namespace Sys2Proof.Machine

open Sys2Proof Sys2Proof.Safety

/-! ### The job that a submission becomes (R293, R296, R504) -/

section Acceptance

variable (s : State) (x : Session) (req slot : Nat) (b : SubmitBody)

/-- Does a submission have its seed drawn by the module (R504). -/
def drawsSeed (b : SubmitBody) : Bool := b.flags.getLsbD 4 && b.context == zeros32

/-- The seed that a submission has drawn, and the state it was drawn from. -/
def State.seedDraw (s : State) (b : SubmitBody) : Bytes × State := if drawsSeed b then s.drbg 3 8 else ([], s)

/-- A submission's job with its seed, before its context is read. -/
def State.seededJob (s : State) (x : Session) (req : Nat) (b : SubmitBody) : Job :=
  let j := s.newJob x req b
  if drawsSeed b then { j with seed := BitVec.ofNat 64 (beNat (s.seedDraw b).1) } else j

/-- The job that a submission enters the table as. -/
def State.enteredJob (s : State) (x : Session) (req : Nat) (b : SubmitBody) : Job :=
  let j := s.newJob x req b
  if (s.contextOf j).isEmpty then s.seededJob x req b else (s.seededJob x req b).loadContext (s.model j) (s.contextOf j)

/-- The state with a submission's job in its entry, and the identifier and sequence number it took used up. -/
def State.withEntered (s : State) (x : Session) (req slot : Nat) (b : SubmitBody) : State :=
  ((s.seedDraw b).2.onJobs fun e => { e with nextId := e.nextId + 1, nextSeq := e.nextSeq + 1 }).setJob slot (s.enteredJob x req b)

theorem State.acceptJob_eq : s.acceptJob x req b slot = (s.withEntered x req slot b).accept x req (s.enteredJob x req b).id (s.submitKib b)
    ((s.withEntered x req slot b).jobRecord (s.enteredJob x req b) .accept 0) := rfl

theorem State.seedDraw_touches : OnlyTouches [.entropy, .free] s (s.seedDraw b).2 := by
  rw [State.seedDraw]
  split
  · exact (State.drbg_kept 3 8 (Kept.refl s) (List.Subset.refl _)).frame
  · exact OnlyTouches.refl _ s

theorem State.withEntered_touches : OnlyTouches [.jobs, .entropy, .free] s (s.withEntered x req slot b) :=
  ((s.seedDraw_touches b).mono (by decide)).trans
    (State.setJob_kept _ _ (State.onJobs_kept _ (Kept.refl _) ⟨Nat.le_succ _, Nat.le_succ _⟩ id (by decide)) (by decide)).frame

theorem State.jobs_withEntered : (s.withEntered x req slot b).jobs.nextId = s.jobs.nextId + 1 ∧
    (s.withEntered x req slot b).jobs.nextSeq = s.jobs.nextSeq + 1 ∧
    JobBecomes s (s.withEntered x req slot b) slot (s.enteredJob x req b) := by
  have same : (s.seedDraw b).2.jobs = s.jobs := (s.seedDraw_touches b).same .jobs (by decide)
  refine ⟨congrArg (·.nextId + 1) same, congrArg (·.nextSeq + 1) same, ?_, fun e other => ?_⟩
  · exact (State.job?_setJob ..).trans (if_pos rfl)
  · refine ((State.job?_setJob ..).trans (if_neg other)).trans ?_
    exact State.job?_of_jobs same e

/-- What a submission's job is by, whatever its seed and its context. -/
theorem State.enteredJob_names : (s.enteredJob x req b).id = s.jobs.nextId ∧ (s.enteredJob x req b).seq = s.jobs.nextSeq ∧
    (s.enteredJob x req b).owner = x.fpr ∧ (s.enteredJob x req b).req = req ∧ (s.enteredJob x req b).state = .waiting := by
  rw [State.enteredJob, State.seededJob]
  cases (s.contextOf (s.newJob x req b)).isEmpty <;> cases drawsSeed b <;> exact ⟨rfl, rfl, rfl, rfl, rfl⟩

theorem State.enteredJob_of_plain (seed : b.flags.getLsbD 4 = false) (context : s.contextOf (s.newJob x req b) = []) :
    s.enteredJob x req b = s.newJob x req b := by
  rw [State.enteredJob, context, State.seededJob, drawsSeed, seed]
  rfl

/-- A job taken: its command is accepted with its identifier, and its stream's HIGH_MARK moves on (R396). -/
theorem State.acceptJob_tells : let t := s.acceptJob x req b slot
    t.jobs = (s.withEntered x req slot b).jobs ∧ (t.stream x.fpr).highMark = req ∧
      Told s t x.fpr req .accept 0 fun r => r.jobId = s.jobs.nextId := by
  rw [State.acceptJob_eq]
  exact ⟨(State.accept_touches ..).same .jobs (by decide), State.accept_highMark ..,
    (told_accept ((s.withEntered x req slot b).jobRecord (s.enteredJob x req b) .accept 0) (s.enteredJob_names x req b).1).before
      (s.withEntered_touches x req slot b) (by decide)⟩

end Acceptance

/-! ### SUBMIT as a whole -/

section Submit

variable {s : State} {h : CmdHead} {x : Session} {b : SubmitBody} {req : Nat}

theorem execSubmit_of_waiting (fresh : Fresh s h x) (passes : s.submitFault x h.req b = none) (waits : s.seedWaits b = true) :
    exec (.submit h b) s = .next s := by
  obtain ⟨session, -, above⟩ := fresh
  show execSubmit h b s = _
  rw [execSubmit, session]
  exact congrArg Host.Outcome.next (if_pos ⟨above, passes, waits⟩)

theorem execSubmit_of_not_waiting (fresh : Fresh s h x) (judged : ¬(s.submitFault x h.req b = none ∧ s.seedWaits b = true)) :
    exec (.submit h b) s = .next ((s.popInbox h.sess).submit x h.req b) := by
  show execSubmit h b s = _
  rw [execSubmit, fresh.1, ← State.command_of_fresh fresh fun t y => t.submit y h.req b]
  exact congrArg Host.Outcome.next (if_neg fun both => judged both.2)

theorem State.submitFault_of_role (role : ¬x.IsHost) : s.submitFault x req b = some ⟨0x0601, 0, 0⟩ := by
  obtain ⟨operator, installer⟩ := not_or.mp role
  simp [State.submitFault, State.roleFault, firstFault, needs, operator, installer]

theorem State.submitFault_of_unheld (host : x.IsHost) (runs : s.config.bootRom = false) (unheld : s.available? b.program 1 = none) :
    s.submitFault x req b = some ⟨0x020B, 0, 0⟩ := by
  simp [State.submitFault, State.roleFault_of_host host runs, firstFault, needs, unheld]

/-- A submission that a check fails is refused, and no job changes. -/
theorem State.submit_of_fault {status : Nat} (fault : s.submitFault x h.req b = some ⟨status, 0, 0⟩) :
    let t := (s.popInbox h.sess).submit x h.req b
    Told s t x.fpr h.req .refused (BitVec.ofNat 16 status) ∧ t.jobs = s.jobs := by
  rw [State.submit, State.submitFault_popInbox, fault]
  obtain ⟨told, touches⟩ := refused_of_fresh (s := s) (x := x) (h := h) status
  exact ⟨told, touches.same .jobs (by decide)⟩

/-- A submission that passes every check is taken in the lowest free entry. -/
theorem State.submit_of_passing (passes : s.submitFault x h.req b = none) {k : Nat} (free : s.freeSlot? = some k) :
    (s.popInbox h.sess).submit x h.req b = (s.popInbox h.sess).acceptJob x h.req b k := by
  rw [State.submit, State.submitFault_popInbox, passes, State.ruled]
  simp only [show (s.popInbox h.sess).freeSlot? = some k from free]

/-- What a submission that is taken leaves: its names used up, its ACCEPT, and its job in its entry. -/
theorem State.submit_accepts (passes : s.submitFault x h.req b = none) {k : Nat} (free : s.freeSlot? = some k) :
    let t := (s.popInbox h.sess).submit x h.req b
    t.jobs.nextId = s.jobs.nextId + 1 ∧ t.jobs.nextSeq = s.jobs.nextSeq + 1 ∧ (t.stream x.fpr).highMark = h.req ∧
      Told s t x.fpr h.req .accept 0 (fun r => r.jobId = s.jobs.nextId) ∧
      ∃ j, JobBecomes s t k j ∧ j.id = s.jobs.nextId ∧ j.seq = s.jobs.nextSeq ∧ j.owner = x.fpr ∧ j.req = h.req ∧ j.state = .waiting ∧
        (b.flags.getLsbD 4 = false → s.contextOf (s.newJob x h.req b) = [] → j.seed = b.seed ∧ j.body = b) := by
  rw [State.submit_of_passing passes free]
  obtain ⟨jobs, mark, told⟩ := (s.popInbox h.sess).acceptJob_tells x h.req k b
  obtain ⟨ids, seqs, enters⟩ := (s.popInbox h.sess).jobs_withEntered x h.req k b
  obtain ⟨id, seq, owner, req, state⟩ := (s.popInbox h.sess).enteredJob_names x h.req b
  refine ⟨(congrArg (·.nextId) jobs).trans ids, (congrArg (·.nextSeq) jobs).trans seqs, mark,
    told.before (s.popInbox_touches h.sess) (by decide), _, enters.of_jobs jobs, id, seq, owner, req, state, fun seed context => ?_⟩
  rw [(s.popInbox h.sess).enteredJob_of_plain x h.req b seed context]
  exact ⟨rfl, rfl⟩

end Submit

/-- Settles O42: what a SUBMIT is refused for and what it becomes. That a program that is not held is reported before any other fault of the
submission, so that 0x020B comes first, is log entry 34. -/
theorem submits : Obligations.Submits := by
  intro s h b x fresh
  cases fault : s.submitFault x h.req b with
  | some e =>
    refine ⟨_, execSubmit_of_not_waiting fresh fun both => by simp [fault] at both, fun role => ?_, fun host runs unheld => ?_,
      nofun, nofun⟩
    · exact State.submit_of_fault (State.submitFault_of_role role)
    · exact State.submit_of_fault (State.submitFault_of_unheld host runs unheld)
  | none =>
    have host : x.IsHost := by_contra fun role => by simp [State.submitFault_of_role role] at fault
    have held : s.config.bootRom = false → s.available? b.program 1 ≠ none := fun runs unheld => by
      simp [State.submitFault_of_unheld host runs unheld] at fault
    cases waits : s.seedWaits b with
    | true =>
      exact ⟨s, execSubmit_of_waiting fresh fault waits, fun role => absurd host role, fun _ runs unheld => absurd unheld (held runs),
        fun _ _ => rfl, nofun⟩
    | false =>
      refine ⟨_, execSubmit_of_not_waiting fresh fun both => by simp [waits] at both, fun role => absurd host role,
        fun _ runs unheld => absurd unheld (held runs), nofun, fun k _ _ free => ?_⟩
      exact State.submit_accepts fault free

end Sys2Proof.Machine

/-! PROOF of O30: preemption points, contexts, the cancel limit, settings, PLL locks and clock stops, one rule for each event. -/

namespace Sys2Proof.Machine

open Sys2Proof Sys2Proof.Safety

/-! ### Preemption (R310, R313, R335) -/

section Preemption

variable {s : State} {slot : Nat} {j : Job}

theorem Job.stopRequested_iff : j.stopRequested = true ↔ j.preemptPending = true ∨ ∃ n, j.suspendAt = some n ∧ n ≤ j.step := by
  rw [Job.stopRequested, Bool.or_eq_true, Option.any_eq_true]
  simp only [decide_eq_true_eq]

/-- A job that stops at its barrier has its word counted, and starts its context write. -/
def Job.atStop (j : Job) : Job := { j.tick with state := .preempting, waiting := .no, hold := none }

/-- Does a job stop at the barrier it waits at. -/
def Job.Stops (j : Job) : Prop := j.state = .running ∧ j.waiting = .barrier .preempt ∧ j.committed = j.step ∧
  (j.preemptPending = true ∨ ∃ n, j.suspendAt = some n ∧ n ≤ j.step)

theorem State.preemptionPoint_of_stops (job : s.job? slot = some j) (stops : j.Stops) : s.preemptionPoint slot = s.setJob slot j.atStop := by
  obtain ⟨runs, waits, committed, asked⟩ := stops
  rw [State.preemptionPoint, job]
  exact if_pos ⟨runs, waits, committed, Job.stopRequested_iff.2 asked⟩

theorem State.preemptionPoint_of_not_stops (job : s.job? slot = some j) (goes : ¬j.Stops) : s.preemptionPoint slot = s := by
  rw [State.preemptionPoint, job]
  refine if_neg ?_
  rintro ⟨runs, waits, committed, asked⟩
  exact goes ⟨runs, waits, committed, Job.stopRequested_iff.1 asked⟩

theorem State.setJob_jobs_of_jobs {t : State} (same : t.jobs = s.jobs) (k : Job) : (t.setJob slot k).jobs = (s.setJob slot k).jobs := by
  rw [State.setJob, State.setJob]
  exact congrArg (fun e : JobEngine => { e with table := mset none e.table slot (some k) }) same

/-- The state once a preempted job's context is written, and its neighbours have heard HOLD. -/
def State.withContext (s : State) (slot : Nat) (j : Job) : State :=
  let k := j.preempted (s.contextBytes j) s.nowNs
  let t := (((s.storePages (j.sideItem 3) 0 (s.contextBytes j)).clearRegion j.region).setJob slot k).jobState k
  match j.group with
  | some g => t.toNeighbours g (g.barrier 4 0 j.epoch)
  | none => t

theorem State.contextWritten_eq (job : s.job? slot = some j) (writes : j.state = .preempting) : s.contextWritten slot =
    match j.endAsked with
    | some e => (s.withContext slot j).endJob slot e.1 e.2.1 e.2.2
    | none => if j.cancelPending then (s.withContext slot j).endJob slot 0x020A 0 0 else (s.withContext slot j).raiseSettings := by
  rw [State.contextWritten, job]
  exact if_pos writes

/-- Of the jobs, a context written changes its own alone. -/
theorem State.withContext_jobs (s : State) (slot : Nat) (j : Job) :
    (s.withContext slot j).jobs = (s.setJob slot (j.preempted (s.contextBytes j) s.nowNs)).jobs := by
  rw [State.withContext]
  have stored : (((s.storePages (j.sideItem 3) 0 (s.contextBytes j)).clearRegion j.region).setJob slot
      (j.preempted (s.contextBytes j) s.nowNs)).jobs = (s.setJob slot (j.preempted (s.contextBytes j) s.nowNs)).jobs :=
    State.setJob_jobs_of_jobs (State.clearRegion_kept (A := [.clusters, .tielux, .mem]) _
      (State.storePages_kept _ _ _ (Kept.refl s) (by decide)) (by decide)).jobs _
  cases j.group with
  | none => exact (State.jobState_jobs _ _).trans stored
  | some g => exact ((State.toNeighbours_kept (A := [.transport]) _ _ (Kept.refl _) (by decide)).jobs.trans (State.jobState_jobs _ _)).trans stored

theorem State.withContext_becomes (job : s.job? slot = some j) :
    JobBecomes s (s.withContext slot j) slot (j.preempted (s.contextBytes j) s.nowNs) :=
  ((JobBecomes.refl job).setJob _).of_jobs (s.withContext_jobs slot j)

/-- An end that came while the context was written, from the written context on. -/
theorem State.withContext_endJob_ended (ok : JobsOk s) (place : slot < 4096) (job : s.job? slot = some j) (status d0 d1 : Nat) :
    Ended ((s.withContext slot j).endJob slot status d0 d1) slot j (BitVec.ofNat 16 status) :=
  State.endJob_ended (jobsOk_of_jobs (s.withContext_jobs slot j) (jobsOk_setJob ok _ _)) place (State.withContext_becomes job).1 nofun nofun ..

/-- A preempted job holds no halves, so what it gave up raises other jobs' settings and leaves its own. -/
theorem State.withContext_raiseSettings (ok : JobsOk s) (job : s.job? slot = some j) :
    (s.withContext slot j).raiseSettings.job? slot = some (j.preempted (s.contextBytes j) s.nowNs) := by
  have there := (State.withContext_becomes job).1
  have okT : JobsOk (s.withContext slot j) := jobsOk_of_jobs (s.withContext_jobs slot j) (jobsOk_setJob ok _ _)
  rcases State.raiseSettings_retargets okT slot with stands | ⟨k, w, found, resident, -⟩
  · exact stands.trans there
  · cases there.symm.trans found
    cases resident

theorem State.cancelTimeout_of_due (job : s.job? slot = some j) (cancel : j.cancelPending = true) (idle : j.state ≠ .preempting) :
    s.cancelTimeout slot = s.endJob slot 0x020A 0 0 := by
  rw [State.cancelTimeout, job]
  exact if_pos ⟨cancel, idle⟩

theorem State.endJob_of_ended (job : s.job? slot = some j) (ended : j.state = .ended) (status d0 d1 : Nat) :
    s.endJob slot status d0 d1 = s := by
  rw [State.endJob, job]
  exact if_pos (by rw [ended]; rfl)

theorem State.cancelTimeout_of_not_due (job : s.job? slot = some j)
    (undue : ¬(j.cancelPending = true ∧ j.state ≠ .preempting ∧ j.state ≠ .ended)) : s.cancelTimeout slot = s := by
  rw [State.cancelTimeout, job]
  refine (ite_congr rfl (fun due => ?_) fun _ => rfl).trans (ite_self s)
  exact State.endJob_of_ended job (by_contra fun live => undue ⟨due.1, due.2, live⟩) ..

end Preemption

/-! ### Settings and clocks (R304, R530, R531) -/

section Clocks

variable {s : State} {slot : Nat} {j : Job}

/-- A half asked for at a setting: one that stands at another relocks (R304). -/
def Half.asked (n : Nat) (h : Half) : Half := if h.setting = n then h else { h with setting := n, locked := false }

theorem Half.asked_asked (n : Nat) (h : Half) : (h.asked n).asked n = h.asked n := by
  rw [Half.asked]
  refine if_pos ?_
  rw [Half.asked]
  split <;> trivial

theorem State.half_wakeHalves (region : List Nat) (n h : Nat) :
    (s.wakeHalves region n).half h = if h ∈ region then (s.half h).asked n else s.half h := by
  rw [State.wakeHalves]
  induction region generalizing s with
  | nil => rfl
  | cons a region ih =>
    rw [List.foldl_cons, ih, State.half_modHalf]
    by_cases here : h = a
    · subst here
      rw [if_pos rfl, if_pos (show h ∈ h :: region from .head _), ← Half.asked, Half.asked_asked, ite_self]
    · simp [here]

theorem State.settingChange_of_due (job : s.job? slot = some j)
    (due : j.state.resident = true ∧ j.reserved = false ∧ j.setting ≠ j.targetSetting ∧ j.hold = none) :
    s.settingChange slot =
      (s.wakeHalves j.region j.targetSetting).setJob slot { j with setting := j.targetSetting, relocking := j.state == .running } := by
  rw [State.settingChange, job]
  exact if_pos due

theorem State.settingChange_of_not_due (job : s.job? slot = some j)
    (undue : ¬(j.state.resident = true ∧ j.reserved = false ∧ j.setting ≠ j.targetSetting ∧ j.hold = none)) : s.settingChange slot = s := by
  rw [State.settingChange, job]
  exact if_neg undue

/-- A job whose halves have all locked issues again, the pause counted as held (R319; log entry 6). -/
theorem State.endRelock_of_locked (job : s.job? slot = some j) (relocks : j.relocking = true)
    (locked : ∀ h ∈ j.region, (s.half h).locked = true) :
    ∃ n, n ≤ 800 * j.setting ∧ JobBecomes s (s.endRelock slot) slot { j with relocking := false, heldCycles := j.heldCycles + n } := by
  refine ⟨Config.waitCycles s.free % (800 * j.setting + 1), Nat.le_of_lt_succ (Nat.mod_lt _ (Nat.succ_pos _)), ?_⟩
  have resumed : JobBecomes s (({ s with free := s.free + 1 } : State).setJob slot { j with relocking := false }) slot
      { j with relocking := false } := (JobBecomes.refl job).of_jobs (u := { s with free := s.free + 1 }) rfl |>.setJob _
  rw [State.endRelock, job]
  refine (congrArg (JobBecomes s · slot _) (if_pos ⟨relocks, by simpa using locked⟩)).mpr ?_
  exact resumed.trans (State.countHeld_becomes resumed.1 _ false)

theorem State.endRelock_of_unlocked (job : s.job? slot = some j) (waits : ¬∀ h ∈ j.region, (s.half h).locked = true) :
    s.endRelock slot = s := by
  rw [State.endRelock, job]
  exact if_neg fun both => waits (by simpa using both.2)

/-- The state with a PLL's relock counted, where jitter had made it relock. -/
def State.countRelock (s : State) (p : Pll) : State := s.onClocks fun c =>
  { c with jitterWaits := mset false c.jitterWaits (pllCode p) false,
           jitterRelocks := satAdd 32 c.jitterRelocks (bit (mget false c.jitterWaits (pllCode p))) }

/-- The state with a half's PLL locked. -/
def State.withHalfLocked (s : State) (h : Nat) (p : Pll) : State := (s.countRelock p).modHalf h fun x => { x with clocked := true, locked := true }

/-- The state once a PLL has locked: its domain runs, and a job that waited for the last of its halves issues again. -/
def State.afterLock (s : State) : Pll → State
  | .half h =>
    match (s.withHalfLocked h.val (.half h)).halfJob? h.val with
    | some e => (s.withHalfLocked h.val (.half h)).endRelock e.1
    | none => s.withHalfLocked h.val (.half h)
  | .spine d => (s.countRelock (.spine d)).modDie d.val fun x =>
      { x with spineClocked := true, spineLocked := true, spineSetting := s.spineTarget d.val }
  | .stack t => (s.countRelock (.stack t)).modStack t.val fun x => { x with clocked := true, pllLocked := true }
  | .hub => (s.countRelock .hub).onClocks fun c => { c with hubLocked := true }
  | .serdes => (s.countRelock .serdes).onClocks fun c => { c with serdesLocked := true }

theorem State.pllLock_of_may {p : Pll} (usable : mget false s.clocks.pllUnusable (pllCode p) = false)
    (may : s.unitsMayRun = true ∨ s.unitStopped p = false) : s.pllLock p = s.afterLock p := by
  rw [State.pllLock, if_neg (by rcases may with may | may <;> simp [usable, may])]
  cases p <;> rfl

theorem State.pllLock_of_may_not {p : Pll}
    (held : mget false s.clocks.pllUnusable (pllCode p) = true ∨ (s.unitsMayRun = false ∧ s.unitStopped p = true)) : s.pllLock p = s :=
  if_pos (by rcases held with held | ⟨held, stopped⟩ <;> simp [*])

theorem State.afterLock_half (h : Fin 12) : ∀ {A}, [.dies, .jobs, .free] ⊆ A →
    Kept A (s.withHalfLocked h.val (.half h)) (s.afterLock (.half h)) := by
  intro A sub
  rw [State.afterLock]
  split
  · exact State.endRelock_kept _ (Kept.refl _) sub
  · exact Kept.refl _

theorem State.afterLock_counts (p : Pll) : mget false (s.afterLock p).clocks.jitterWaits (pllCode p) = false ∧
    (s.afterLock p).clocks.jitterRelocks = satAdd 32 s.clocks.jitterRelocks (bit (mget false s.clocks.jitterWaits (pllCode p))) := by
  have counted : ∀ t : State, t.clocks.jitterWaits = (s.countRelock p).clocks.jitterWaits →
      t.clocks.jitterRelocks = (s.countRelock p).clocks.jitterRelocks → mget false t.clocks.jitterWaits (pllCode p) = false ∧
        t.clocks.jitterRelocks = satAdd 32 s.clocks.jitterRelocks (bit (mget false s.clocks.jitterWaits (pllCode p))) :=
    fun t waits relocks => ⟨(congrArg (mget false · (pllCode p)) waits).trans
      (mget_mset_self false s.clocks.jitterWaits (pllCode p) false), relocks⟩
  cases p with
  | half h =>
    have clocks : (s.afterLock (.half h)).clocks = _ := ((State.afterLock_half h (List.Subset.refl _)).frame).same .clocks (by decide)
    exact counted _ (congrArg (·.jitterWaits) clocks) (congrArg (·.jitterRelocks) clocks)
  | spine d => exact counted _ rfl rfl
  | stack k => exact counted _ rfl rfl
  | hub => exact counted _ rfl rfl
  | serdes => exact counted _ rfl rfl

theorem State.half_withHalfLocked (h : Nat) (p : Pll) (x : Nat) :
    (s.withHalfLocked h p).half x = if x = h then { s.half h with clocked := true, locked := true } else s.half x :=
  State.half_modHalf (s.countRelock p) h x _

theorem State.half_afterLock (h : Fin 12) : (s.afterLock (.half h)).half h.val = { s.half h.val with clocked := true, locked := true } := by
  have halves : (s.afterLock (.half h)).halves = _ := ((State.afterLock_half h (List.Subset.refl _)).frame).same .halves (by decide)
  rw [State.half, halves]
  exact (State.half_withHalfLocked ..).trans (if_pos rfl)

theorem State.locked_withHalfLocked (h : Nat) (p : Pll) (x : Nat) :
    ((s.withHalfLocked h p).half x).locked = true ↔ x = h ∨ (s.half x).locked = true := by
  rw [State.half_withHalfLocked]
  by_cases here : x = h
  · simp [here]
  · simp [here]

theorem State.afterLock_of_halfJob {h : Fin 12} (holds : s.halfJob? h.val = some (slot, j)) :
    s.afterLock (.half h) = (s.withHalfLocked h.val (.half h)).endRelock slot := by
  rw [State.afterLock, show (s.withHalfLocked h.val (.half h)).halfJob? h.val = some (slot, j) from holds]

/-- A half locked: its job issues again once no other half of its region waits, and stands until then. -/
theorem State.afterLock_relocks {h : Fin 12} (holds : s.halfJob? h.val = some (slot, j)) (job : s.job? slot = some j)
    (relocks : j.relocking = true) :
    ((∀ x ∈ j.region, x = h.val ∨ (s.half x).locked = true) → ∃ n, n ≤ 800 * j.setting ∧
      JobBecomes s (s.afterLock (.half h)) slot { j with relocking := false, heldCycles := j.heldCycles + n }) ∧
    (¬(∀ x ∈ j.region, x = h.val ∨ (s.half x).locked = true) → JobBecomes s (s.afterLock (.half h)) slot j) := by
  rw [State.afterLock_of_halfJob holds]
  have there : (s.withHalfLocked h.val (.half h)).job? slot = some j := job
  refine ⟨fun all => ?_, fun waits => ?_⟩
  · exact State.endRelock_of_locked there relocks fun x mem => (State.locked_withHalfLocked ..).2 (all x mem)
  · rw [State.endRelock_of_unlocked there fun all => waits fun x mem => (State.locked_withHalfLocked ..).1 (all x mem)]
    exact (JobBecomes.refl job).of_jobs rfl

/-- The other half of a die. -/
def otherHalf (h : Nat) : Nat := 4 * (h / 2) + 1 - h

theorem State.halfStop_of_held {h : Nat} (held : (s.halfJob? h).isSome) : s.halfStop h = s := if_pos held

/-- A half that stops takes its die's spine with it when the other half stands still. -/
theorem State.halfStop_of_idle {h : Nat} (idle : s.halfJob? h = none) : s.halfStop h =
    if (s.half (otherHalf h)).clocked then s.modHalf h Half.stopped
    else (s.modHalf h Half.stopped).modDie (h / 2) fun x => { x with spineClocked := false, spineLocked := false, spineSetting := 0 } := by
  rw [State.halfStop, if_neg (by simp [idle])]
  refine ite_congr ?_ (fun _ => rfl) fun _ => rfl
  simp only [State.half_modHalf]
  rcases Nat.mod_two_eq_zero_or_one h with even | odd
  · rw [if_pos (by omega), if_neg (by omega), show h / 2 * 2 + 1 = otherHalf h by unfold otherHalf; omega]
    rfl
  · rw [if_neg (by omega), if_pos (by omega), show h / 2 * 2 = otherHalf h by unfold otherHalf; omega, Bool.or_eq_true]
    exact propext (or_iff_left nofun)

theorem State.half_halfStop {h : Nat} (idle : s.halfJob? h = none) (x : Nat) :
    (s.halfStop h).half x = if x = h then (s.half x).stopped else s.half x := by
  have stopped : (s.modHalf h Half.stopped).half x = if x = h then (s.half x).stopped else s.half x := by
    rw [State.half_modHalf]
    exact ite_congr rfl (fun here => by rw [here]) fun _ => rfl
  rw [State.halfStop_of_idle idle]
  split <;> exact stopped

theorem State.die_halfStop {h : Nat} (idle : s.halfJob? h = none) (d : Nat) : (s.halfStop h).die d =
    if d = h / 2 ∧ (s.half (otherHalf h)).clocked = false then { s.die d with spineClocked := false, spineLocked := false, spineSetting := 0 }
    else s.die d := by
  rw [State.halfStop_of_idle idle]
  split
  · rename_i runs
    exact (if_neg fun both => by simp [runs] at both).symm
  · rename_i stands
    rw [State.die_modDie]
    by_cases here : d = h / 2
    · rw [if_pos here, if_pos ⟨here, by simpa using stands⟩, here]
      rfl
    · rw [if_neg here, if_neg fun both => here both.1]
      rfl

end Clocks

/-! ### The events as a whole -/

section Events

variable (s : State) (slot : Fin 4096) (j : Job)

theorem execContextWritten_preempts (ok : JobsOk s) (job : s.job? slot.val = some j) (writes : j.state = .preempting) :
    CompletesWith (exec (.contextWritten slot) s) fun t =>
      (∀ e, j.endAsked = some e → Ended t slot.val j (BitVec.ofNat 16 e.1)) ∧
      (j.endAsked = none → j.cancelPending = true → Ended t slot.val j 0x020A) ∧
      (j.endAsked = none → j.cancelPending = false → t.job? slot.val = some (j.preempted (s.contextBytes j) s.nowNs)) := by
  refine ⟨s.contextWritten slot.val, rfl, ?_⟩
  rw [State.contextWritten_eq job writes]
  have ends := State.withContext_endJob_ended ok slot.isLt job
  cases j.endAsked with
  | some e =>
    refine ⟨fun e' same => ?_, nofun, nofun⟩
    cases same
    exact ends ..
  | none =>
    refine ⟨nofun, fun _ cancel => ?_, fun _ goes => ?_⟩
    · rw [cancel]
      exact ends 0x020A 0 0
    · rw [goes]
      exact State.withContext_raiseSettings ok job

theorem State.settingChange_relocks (job : s.job? slot.val = some j)
    (due : j.state.resident = true ∧ j.reserved = false ∧ j.setting ≠ j.targetSetting ∧ j.hold = none) :
    JobBecomes s (s.settingChange slot.val) slot.val { j with setting := j.targetSetting, relocking := decide (j.state = .running) } ∧
      ∀ h, (s.settingChange slot.val).half h = if h ∈ j.region ∧ (s.half h).setting ≠ j.targetSetting then
        { s.half h with setting := j.targetSetting, locked := false } else s.half h := by
  rw [State.settingChange_of_due job due]
  refine ⟨?_, fun h => (State.half_wakeHalves j.region j.targetSetting h).trans ?_⟩
  · exact ((JobBecomes.refl job).of_jobs (State.wakeHalves_kept (A := [.halves]) _ _ (Kept.refl s) (by decide)).jobs).setJob _
  · by_cases here : h ∈ j.region <;> by_cases there : (s.half h).setting = j.targetSetting <;> simp [Half.asked, here, there]

end Events

/-- Settles O30: preemption, contexts, the cancel limit, settings and PLL locks. The length of a relock's pause is a free value (log entry 6). -/
theorem preemptionAndSettings : Obligations.PreemptionAndSettings := by
  refine ⟨fun s slot j job => ⟨_, rfl, fun stops => ?_, fun goes => State.preemptionPoint_of_not_stops job goes⟩,
    fun s slot j ok job writes => ?_,
    fun s slot j ok job => ⟨_, rfl, fun ⟨cancel, idle, live⟩ => ?_, fun undue => State.cancelTimeout_of_not_due job undue⟩,
    fun s slot j job => ⟨s.settingChange slot.val, rfl, fun undue => State.settingChange_of_not_due job undue, fun due => ?_⟩,
    fun s p => ⟨s.pllLock p, rfl, State.pllLock_of_may_not, fun usable may => ?_⟩,
    fun s half => ⟨s.halfStop half.val, rfl, State.halfStop_of_held, fun idle => ⟨?_, fun h => ?_, fun d => State.die_halfStop idle d⟩⟩⟩
  · refine ⟨(exec_kept (c := .preemptionPoint slot) rfl).frame, ?_⟩
    rw [State.preemptionPoint_of_stops job stops]
    exact (JobBecomes.refl job).setJob _
  · obtain ⟨t, runs, ends, cancels, preempts⟩ := execContextWritten_preempts s slot j ok job writes
    exact ⟨t, runs, ends, cancels, fun goes stands => ⟨_, preempts goes stands, rfl, rfl, rfl, rfl, rfl, rfl, rfl, rfl, rfl⟩⟩
  · rw [State.cancelTimeout_of_due job cancel idle]
    exact State.endJob_ended ok slot.isLt job live idle ..
  · exact ⟨(exec_kept (c := .settingChange slot) rfl).frame, State.settingChange_relocks s slot j job due⟩
  · rw [State.pllLock_of_may usable may]
    obtain ⟨waits, relocks⟩ := s.afterLock_counts p
    refine ⟨waits, relocks, ?_⟩
    cases p with
    | half h => exact ⟨State.half_afterLock h, fun slot j => State.afterLock_relocks⟩
    | spine d => exact (State.die_modDie ..).trans (if_pos rfl)
    | stack k => exact (State.stack_modStack ..).trans (if_pos rfl)
    | hub => rfl
    | serdes => rfl
  · exact (exec_kept (c := .halfClockStop half) rfl).frame
  · exact State.half_halfStop idle h

end Sys2Proof.Machine

/-! PROOF of O29: admission, the wait limit, seeding and restore. -/

namespace Sys2Proof.Machine

open Sys2Proof Sys2Proof.Safety

/-! ### Admission (R298, R303, R306) -/

section Raising

variable {s : State} {slot : Nat} {j : Job}

theorem State.raiseFree_retargets (ok : JobsOk s) (e : Nat) : Retargeted s s.raiseFree e := by
  rw [State.raiseFree]
  split
  · exact .inl rfl
  · refine raiseList_retargets (fun x mem => ?_) (.inl rfl)
    obtain ⟨listed, resident⟩ := State.mem_elasticOrder (List.mem_reverse.1 mem)
    exact ⟨State.job?_of_mem ok listed, resident⟩

/-- Settings that rise change the table of jobs alone. -/
theorem raiseList_halves_admissions (l : List (Nat × Job)) (free : Nat) (t : State) :
    (raiseList l free t).halves = t.halves ∧ (raiseList l free t).jobs.admissions = t.jobs.admissions := by
  induction l generalizing free t with
  | nil => exact ⟨rfl, rfl⟩
  | cons e l ih => exact ih _ _

theorem State.raiseFree_halves_admissions (s : State) :
    s.raiseFree.halves = s.halves ∧ s.raiseFree.jobs.admissions = s.jobs.admissions := by
  rw [State.raiseFree]
  split
  · exact ⟨rfl, rfl⟩
  · exact raiseList_halves_admissions ..

/-- A job that the arbiter may retarget keeps all but its target. -/
theorem State.raiseFree_job (ok : JobsOk s) (job : s.job? slot = some j) : ∃ w, s.raiseFree.job? slot = some { j with targetSetting := w } := by
  rcases State.raiseFree_retargets ok slot with stands | ⟨k, w, found, -, becomes⟩
  · exact ⟨j.targetSetting, stands.trans job⟩
  · cases job.symm.trans found
    exact ⟨w, becomes⟩

theorem State.raiseFree_job_of_not_resident (ok : JobsOk s) (job : s.job? slot = some j) (away : j.state.resident = false) :
    s.raiseFree.job? slot = some j := by
  rcases State.raiseFree_retargets ok slot with stands | ⟨k, w, found, resident, -⟩
  · exact stands.trans job
  · cases job.symm.trans found
    cases away.symm.trans resident

theorem State.raiseFree_none (ok : JobsOk s) (empty : s.job? slot = none) : s.raiseFree.job? slot = none := by
  rcases State.raiseFree_retargets ok slot with stands | ⟨k, w, found, -, -⟩
  · exact stands.trans empty
  · cases empty.symm.trans found

/-- A job that has ended stays so while the settings of others rise. -/
theorem Ended.raiseFree {status : BitVec 16} (ok : JobsOk s) (ended : Ended s slot j status) : Ended s.raiseFree slot j status := by
  obtain ⟨empty, k, e, above, there, id, state, rest⟩ := ended
  exact ⟨State.raiseFree_none ok empty, k, e, above, State.raiseFree_job_of_not_resident ok there (by rw [state]; rfl), id, state, rest⟩

end Raising

section Admission

variable {s : State} {slot k : Nat} {ks region : List Nat} {j : Job}

theorem State.admitJobs_of_not_ready (down : s.config.hubReady = false ∨ s.config.hubOnly = true) : s.admitJobs = s :=
  if_neg (by rcases down with down | down <;> simp [down])

/-- With one job waiting, the pass tries it alone. -/
theorem State.admitJobs_of_one (ready : s.config.hubReady = true) (shared : s.config.hubOnly = false) (waits : s.waitingOrder = [(slot, j)])
    (job : s.job? slot = some j) : s.admitJobs = (s.tryAdmit slot j).raiseFree := by
  rw [State.admitJobs, if_pos (by simp [ready, shared]), waits, admitPass, job]
  rfl

theorem State.planTiling_of_fits (place : s.placeJob j k (s.halfFree j.owner) = some region)
    (watts : region.length * halfWatts j.body.clock ≤ s.availWatts slot) : s.planTiling slot j k = .go k region j.body.clock := by
  rw [State.planTiling, place]
  exact if_pos watts

/-- A job that nothing asks to end, and whose first tiling fits the halves and the watts, enters there. -/
theorem State.tryAdmit_of_fits (noEnd : j.endAsked = none) (noCancel : j.cancelPending = false) (unstuck : s.contextStuck j = none)
    (order : s.tilingOrder j = k :: ks) (place : s.placeJob j k (s.halfFree j.owner) = some region)
    (watts : region.length * halfWatts j.body.clock ≤ s.availWatts slot) : s.tryAdmit slot j = s.enter slot j k region j.body.clock := by
  rw [State.tryAdmit, noEnd, noCancel, unstuck, order, State.planJob, State.planTiling_of_fits place watts]
  rfl

/-- A job as it enters a region with the memory that it got there. -/
def State.enteringJob (s : State) (j : Job) (k : Nat) (region : List Nat) (n : Nat) (allocs : List Allocation) (ctx : List PageRef) : Job :=
  let counts := if ctx = j.contextPages then j.sideCounts else s.sideList j k ++ [(s.sidePages j k).2]
  (j.entered k region n s.jobs.admissions (s.wantsFixed j) (s.retiles j k) (ctxStep (s.contextOf j)) (progAtomRate (s.program j)) allocs ctx
    counts).withProgram (s.program j) [progTiling (s.program j) k]

/-- The state with a job entered, from the state `u` with its memory reserved. -/
def State.withEntering (u : State) (slot : Nat) (region : List Nat) (n : Nat) (j : Job) : State :=
  ((u.onJobs fun e => { e with admissions := e.admissions + 1 }).wakeHalves region n).setJob slot j

variable {n : Nat} {u : State} {allocs : List Allocation} {ctx : List PageRef}

theorem State.enter_of_ok (memory : s.reserveJob j k region = .ok (u, allocs, ctx)) :
    s.enter slot j k region n = u.withEntering slot region n (s.enteringJob j k region n allocs ctx) := by
  rw [State.enter, memory]
  rfl

theorem State.enter_of_stack (memory : s.reserveJob j k region = .stack) : s.enter slot j k region n = s.endJob slot 0x0903 0 0 := by
  rw [State.enter, memory]
  rfl

/-- The table of jobs after an entry, whatever the reservation did to the memory. -/
theorem State.withEntering_jobs (same : u.jobs = s.jobs) : (u.withEntering slot region n j).jobs =
    { s.jobs with admissions := s.jobs.admissions + 1, table := mset none s.jobs.table slot (some j) } := by
  have woken := (State.wakeHalves_kept (A := [.halves]) region n (Kept.refl (u.onJobs fun e => { e with admissions := e.admissions + 1 }))
    (by decide)).jobs
  have entered := congrArg (fun e : JobEngine => { e with table := mset none e.table slot (some j) }) woken
  exact entered.trans (congrArg (fun e : JobEngine => { e with admissions := e.admissions + 1, table := mset none e.table slot (some j) }) same)

theorem State.setting_withEntering {h : Nat} (mem : h ∈ region) : ((u.withEntering slot region n j).half h).setting = n := by
  refine (congrArg Half.setting ((State.half_wakeHalves region n h).trans (if_pos mem))).trans ?_
  rw [Half.asked]
  split
  · assumption
  · rfl

theorem State.waiting_of_waitingOrder {e : Nat × Job} (mem : e ∈ s.waitingOrder) : e.2.state = .waiting ∨ e.2.state = .preempted := by
  obtain ⟨-, waits⟩ := List.mem_filter.1 (mem_of_mem_sortBy mem)
  rw [Bool.and_eq_true, Bool.or_eq_true, beq_iff_eq, beq_iff_eq] at waits
  exact waits.1

/-- A job that got its memory stands in its region, whatever settings then rise. -/
theorem State.withEntering_raiseFree (ok : JobsOk s) (same : u.jobs = s.jobs) : let t := (u.withEntering slot region n j).raiseFree
    t.jobs.admissions = s.jobs.admissions + 1 ∧ (∀ h ∈ region, (t.half h).setting = n) ∧
      ∃ w, t.job? slot = some { j with targetSetting := w } := by
  have jobs := State.withEntering_jobs (slot := slot) (region := region) (n := n) (j := j) same
  have okT : JobsOk (u.withEntering slot region n j) := by
    rw [JobsOk, jobs]
    exact mwf_mset (m := s.jobs.table) ok slot (some j)
  have there : (u.withEntering slot region n j).job? slot = some j := by
    rw [State.job?, jobs]
    exact mget_mset_self none s.jobs.table slot (some j)
  obtain ⟨halves, admissions⟩ := State.raiseFree_halves_admissions (u.withEntering slot region n j)
  refine ⟨admissions.trans (congrArg (·.admissions) jobs), fun h mem => ?_, State.raiseFree_job okT there⟩
  rw [State.half, halves]
  exact State.setting_withEntering mem

theorem State.jobsOk_raiseSettings (ok : JobsOk s) : JobsOk s.raiseSettings := by
  have raised (l : List (Nat × Job)) (free : Nat) (t : State) (okT : JobsOk t) : JobsOk (raiseList l free t) := by
    induction l generalizing free t with
    | nil => exact okT
    | cons e l ih => exact ih _ _ (jobsOk_setJob okT _ _)
  rw [State.raiseSettings, State.raiseFree]
  split
  · exact ok
  · split
    · exact ok
    · exact raised _ _ _ ok

theorem State.jobsOk_endJob (ok : JobsOk s) (job : s.job? slot = some j) (live : j.state ≠ .ended) (idle : j.state ≠ .preempting)
    (status d0 d1 : Nat) : JobsOk (s.endJob slot status d0 d1) := by
  have without : JobsOk (s.withoutJob slot j status) := by
    rw [JobsOk, State.withoutJob_table]
    exact mwf_mset ok ..
  rw [State.endJob_eq job live idle]
  exact State.jobsOk_raiseSettings (jobsOk_of_jobs ((State.dropReleased_jobs _).trans (State.tellEnd_jobs ..)) (jobsOk_setJob without _ _))

/-- A job that a named stack cannot serve ends. -/
theorem State.endJob_raiseFree (ok : JobsOk s) (place : slot < 4096) (job : s.job? slot = some j)
    (waits : j.state = .waiting ∨ j.state = .preempted) (status : Nat) : Ended (s.endJob slot status 0 0).raiseFree slot j (BitVec.ofNat 16 status) := by
  have live : j.state ≠ .ended ∧ j.state ≠ .preempting := by rcases waits with waits | waits <;> simp [waits]
  exact Ended.raiseFree (State.jobsOk_endJob ok job live.1 live.2 ..) (State.endJob_ended ok place job live.1 live.2 ..)

end Admission

/-! ### Seeding and restore (R222, R308, R318) -/

section Filling

variable {s : State} {slot : Nat} {j : Job}

/-- A job with the values that its region is filled from. -/
def State.loadedJob (s : State) (j : Job) : Job :=
  if (s.contextRead j).isEmpty then
    { j with states := s.initialStates j, statesAtCommit := s.initialStates j, sweepsLeft := (j.body.params.getD 0 0).toNat,
             sweepsLeftAtCommit := (j.body.params.getD 0 0).toNat }
  else j.loadContext (s.model j) (s.contextRead j)

/-- A job once its region is filled. -/
def State.filledJob (s : State) (j : Job) : Job :=
  ((s.loadedJob j).atWordZero.withAnchors (s.model j) (s.program j) (s.tilingOf j)).withStats (s.program j) (s.tilingOf j)

/-- The state with a job's region filled, its table entry still as it was. -/
def State.withFilled (s : State) (j : Job) : State :=
  let t := (s.fillData (s.filledJob j) (s.program j) (s.tilingOf j)).fillAnchors j (s.filledJob j)
  if (s.contextRead j).isEmpty then t else t.loadGroups (s.filledJob j) (s.model j) (s.contextRead j)

theorem State.fillRegion_eq (job : s.job? slot = some j) : s.fillRegion slot = (s.withFilled j).setJob slot (s.filledJob j) := by
  rw [State.fillRegion, job]
  rfl

theorem State.fillData_frame (s : State) (k : Job) (p : Bytes) (t : Tiling) : Kept [.clusters, .halves, .tielux, .mem] s (s.fillData k p t) := by
  have slots := State.fillSlots_kept (A := [.clusters, .halves, .tielux, .mem]) k
    (State.clearRegion_kept k.region (Kept.refl s) (by decide)) (by decide)
  exact Kept.foldl (fun _ _ kept => State.placeLoc_kept k _ kept (by decide)) _
    (Kept.foldl (fun _ _ kept => State.placeCopy_kept k _ kept (by decide)) _
      (Kept.foldl (fun _ _ kept => State.preloadRun_kept k _ kept (by decide)) _ slots))

theorem State.withFilled_kept (s : State) (j : Job) : Kept [.clusters, .halves, .tielux, .mem] s (s.withFilled j) := by
  rw [State.withFilled]
  have filled := State.fillAnchors_kept (A := [.clusters, .halves, .tielux, .mem]) j (s.filledJob j)
    (s.fillData_frame (s.filledJob j) (s.program j) (s.tilingOf j)) (by decide)
  exact .ite filled (State.loadGroups_kept _ _ _ filled (by decide))

theorem State.fillRegion_becomes (job : s.job? slot = some j) : JobBecomes s (s.fillRegion slot) slot (s.filledJob j) := by
  rw [State.fillRegion_eq job]
  exact ((JobBecomes.refl job).of_jobs (s.withFilled_kept j).jobs).setJob _

theorem State.startJob_becomes (job : s.job? slot = some j) : JobBecomes s (s.startJob slot) slot { j with state := .running } := by
  have runs := (JobBecomes.refl job).setJob { j with state := .running }
  rw [State.startJob, job]
  dsimp only
  split
  · exact runs.of_jobs (State.jobState_jobs _ _)
  · exact runs

/-- What filling leaves of a job: its values at word 0, its anchors and its statistics. -/
theorem State.filledJob_eq (s : State) (j : Job) : ∃ anchors starts stats,
    s.filledJob j = { (s.loadedJob j).atWordZero with anchors := anchors, starts := starts, statAllocs := stats } := by
  rw [State.filledJob, Job.withAnchors]
  split <;> exact ⟨_, _, _, rfl⟩

/-- A job that has no context is filled to start from its initial states. -/
theorem State.filledJob_starts (fresh : s.contextRead j = []) : let k := s.filledJob j
    (k.id = j.id ∧ k.seeded = true ∧ k.pc = 0 ∧ k.loops = [] ∧ k.waiting = .no ∧ k.hold = none ∧ k.step = j.step ∧
      k.states = s.initialStates j ∧ k.sweepsLeft = (j.body.params.getD 0 0).toNat) ∧
    k.state = j.state ∧ k.group = j.group ∧ k.epoch = j.epoch ∧ k.context = j.context ∧ k.body = j.body := by
  obtain ⟨anchors, starts, stats, filled⟩ := s.filledJob_eq j
  rw [filled, State.loadedJob, fresh]
  exact ⟨⟨rfl, rfl, rfl, rfl, rfl, rfl, rfl, rfl, rfl⟩, rfl, rfl, rfl, rfl, rfl⟩

/-- A job that has one is filled to go on where it left off (R277). -/
theorem State.filledJob_restores (held : s.contextRead j ≠ []) : let k := s.filledJob j
    k.id = j.id ∧ k.seeded = true ∧ k.pc = 0 ∧ k.loops = [] ∧ k.step = ctxStep (s.contextRead j) ∧ k.committed = k.step ∧
      k.seed = ctxSeed (s.contextRead j) ∧ k.sweepsLeft = ctxSweeps (s.contextRead j) ∧ k.statesAtCommit = k.states ∧
      k.permAtCommit = k.perm := by
  obtain ⟨anchors, starts, stats, filled⟩ := s.filledJob_eq j
  rw [filled, State.loadedJob, if_neg (by simpa using held)]
  exact ⟨rfl, rfl, rfl, rfl, rfl, rfl, rfl, rfl, rfl, rfl⟩

theorem State.contextOf_of_objects {t : State} (same : t.objects = s.objects) {k : Job} (context : k.context = j.context) (body : k.body = j.body) :
    t.contextOf k = s.contextOf j := by
  rw [State.contextOf, State.contextOf, context, body, State.objectBytes, State.objectBytes, State.object?, State.object?, same]

theorem State.fillRegion_touches (s : State) (slot : Nat) : OnlyTouches [.clusters, .halves, .tielux, .mem, .jobs] s (s.fillRegion slot) :=
  (State.fillRegion_kept slot (Kept.refl s) (List.Subset.refl _)).frame

end Filling

section Ready

variable {s : State} {slot m : Nat} {j : Job} {g : GroupState} {n : Neighbour}

theorem State.toNeighbour_keepsPackets (s : State) (g : GroupState) (m : Nat) (b : TxBody) : KeepsPackets s (s.toNeighbour g m b) := by
  rw [State.toNeighbour]
  split
  · split
    · exact s.send_keepsPackets _ b
    · exact .refl s
  · exact .refl s

/-- A packet to all neighbours waits on the session of each of them that is open. -/
theorem State.delivers_toNeighbours (named : g.neighbour? m = some n) (opens : n.sessOpen = true) (stands : (s.session? n.sess).isSome)
    (b : TxBody) : Delivers (s.toNeighbours g b) n.sess b := by
  have member : n.member = m := beq_iff_eq.1 (List.find?_some (p := fun x : Neighbour => x.member == m) named)
  obtain ⟨before, after, parts⟩ := List.append_of_mem (List.mem_of_find?_eq_some named)
  have keeps (l : List Neighbour) {t : State} : KeepsPackets t (l.foldl (fun t n => t.toNeighbour g n.member b) t) :=
    .foldl (fun t n => t.toNeighbour_keepsPackets g n.member b) l
  have sends (t : State) : t.toNeighbour g n.member b = t.send n.sess b := by
    rw [State.toNeighbour, member, named]
    exact if_pos opens
  rw [State.toNeighbours, parts, List.foldl_append, List.foldl_cons, sends]
  exact (keeps after).delivers (delivers_send ((keeps before).isSome stands) b)

/-- READY goes to every neighbour whose session is open (R423, R442). -/
theorem State.delivers_sendReady (job : s.job? slot = some j) (group : j.group = some g) (named : g.neighbour? m = some n)
    (opens : n.sessOpen = true) (stands : (s.session? n.sess).isSome) :
    Delivers (s.sendReady slot) n.sess (.barrier 2 g.groupId g.member 0 0 j.epoch) := by
  have told := State.delivers_toNeighbours named opens stands (g.barrier 2 0 j.epoch)
  rw [State.sendReady, job]
  dsimp only
  rw [group]
  dsimp only
  split
  · exact (State.send_keepsPackets _ _ _).delivers told
  · exact told

theorem State.sendReady_becomes (job : s.job? slot = some j) : JobBecomes s (s.sendReady slot) slot j :=
  (JobBecomes.refl job).of_jobs (State.sendReady_kept (A := [.transport]) slot (Kept.refl s) (by decide)).jobs

end Ready

section Seeding

variable {s : State} {slot : Nat} {j : Job}

/-- A job without a context needs no refresh before it starts. -/
theorem State.seedingDone_eq (job : s.job? slot = some j) (admits : j.state = .admitting) (unseeded : j.seeded = false)
    (ready : s.regionReady j = true) (hub : s.config.hubReady = true) (context : s.contextOf j = []) : s.seedingDone slot =
      if s.isGroupJob j then (s.fillRegion slot).sendReady slot else (s.fillRegion slot).startJob slot := by
  have still : (s.fillRegion slot).refreshFor j = s.fillRegion slot := by
    rw [State.refreshFor, State.contextOf_of_objects ((s.fillRegion_touches slot).same .objects (by decide)) rfl rfl, context]
    rfl
  rw [State.seedingDone, job]
  refine (if_pos ⟨admits, unseeded, ready, hub⟩).trans ?_
  rw [still]

/-- A job without a context starts with its bits unchanged, so its start reports nothing. -/
theorem State.startJob_of_fresh (job : s.job? slot = some j) (context : s.contextOf j = []) :
    s.startJob slot = s.setJob slot { j with state := .running } := by
  rw [State.startJob, job]
  exact if_neg (by rw [State.retiles, context]; nofun)

theorem State.restoreDone_eq (job : s.job? slot = some j) (restores : j.state = .restoring) (ready : s.regionReady j = true)
    (clean : s.contextMarked j = false) (elastic : j.fixedCadence = false) :
    s.restoreDone slot = ((s.fillRegion slot).startJob slot).sendReady slot := by
  rw [State.restoreDone, job]
  refine (if_pos ⟨restores, ready⟩).trans ?_
  rw [clean, State.refreshRegion, elastic]
  rfl

end Seeding

/-! ### The events as a whole -/

section Events

variable {s : State} {slot : Fin 4096} {j : Job}

theorem execWaitLimit_becomes (job : s.job? slot.val = some j) : CompletesWith (exec (.waitLimit slot) s) fun t => OnlyTouches [.jobs] s t ∧
    JobBecomes s t slot.val
      (if (j.state = .waiting ∨ j.state = .preempted) ∧ j.heldBySuspend = false then { j with waitLimit := true } else j) := by
  refine ⟨_, rfl, (exec_kept (c := .waitLimit slot) rfl).frame, ?_⟩
  simpa using (JobBecomes.refl job).modJob fun x =>
    if (x.state == .waiting || x.state == .preempted) && !x.heldBySuspend then { x with waitLimit := true } else x

/-- Seeding of a job that stands alone: it runs. -/
theorem State.startJob_fillRegion (job : s.job? slot.val = some j) (fresh : s.contextRead j = []) (context : s.contextOf j = []) :
    let t := (s.fillRegion slot.val).startJob slot.val
    OnlyTouches [.clusters, .halves, .tielux, .mem, .jobs, .transport] s t ∧
      JobBecomes s t slot.val { s.filledJob j with state := .running } := by
  obtain ⟨-, -, -, -, same, body⟩ := State.filledJob_starts fresh
  have touches := s.fillRegion_touches slot.val
  have filled := State.fillRegion_becomes job
  have empty : (s.fillRegion slot.val).contextOf (s.filledJob j) = [] :=
    (State.contextOf_of_objects (touches.same .objects (by decide)) same body).trans context
  rw [State.startJob_of_fresh filled.1 empty]
  exact ⟨(touches.mono (by decide)).trans (State.setJob_kept _ _ (Kept.refl _) (by decide)).frame, filled.setJob _⟩

/-- Seeding of a group job: it waits for the start barrier, and READY goes out. -/
theorem State.sendReady_fillRegion (job : s.job? slot.val = some j) (fresh : s.contextRead j = []) :
    let t := (s.fillRegion slot.val).sendReady slot.val
    OnlyTouches [.clusters, .halves, .tielux, .mem, .jobs, .transport] s t ∧ JobBecomes s t slot.val (s.filledJob j) ∧
      ∀ g m n, j.group = some g → g.neighbour? m = some n → n.sessOpen = true → (s.session? n.sess).isSome →
        Delivers t n.sess (.barrier 2 g.groupId g.member 0 0 j.epoch) := by
  obtain ⟨-, -, group, epoch, -, -⟩ := State.filledJob_starts fresh
  have touches := s.fillRegion_touches slot.val
  have filled := State.fillRegion_becomes job
  refine ⟨(touches.mono (by decide)).trans (State.sendReady_kept _ (Kept.refl _) (by decide)).frame,
    filled.trans (State.sendReady_becomes filled.1), fun g m n member named opens stands => ?_⟩
  have kept := (KeepsPackets.of_transport (touches.same .transport (by decide))).isSome stands
  exact epoch ▸ State.delivers_sendReady filled.1 (group.trans member) named opens kept

theorem State.sendReady_startJob_fillRegion (job : s.job? slot.val = some j) :
    let t := ((s.fillRegion slot.val).startJob slot.val).sendReady slot.val
    JobBecomes s t slot.val { s.filledJob j with state := .running } := by
  have filled := State.fillRegion_becomes job
  have runs := State.startJob_becomes filled.1
  exact (filled.trans runs).trans (State.sendReady_becomes runs.1)

end Events

/-- Settles O29: admission, the wait limit, seeding and restore. -/
theorem admission : Obligations.Admission := by
  refine ⟨fun s down => congrArg Host.Outcome.next (State.admitJobs_of_not_ready down),
    fun s slot k ks region j ok ready shared waits job place noEnd noCancel unstuck order fits watts => ⟨s.admitJobs, rfl, ?_⟩,
    fun s slot j job => execWaitLimit_becomes job,
    fun s slot j job admits unseeded ready hub fresh context => ⟨s.seedingDone slot.val, rfl, ?_⟩,
    fun s slot j job restores ready clean held elastic => ⟨s.restoreDone slot.val, rfl, ?_⟩⟩
  · rw [State.admitJobs_of_one ready shared waits job, State.tryAdmit_of_fits noEnd noCancel unstuck order fits watts]
    refine ⟨fun u allocs ctx memory => ?_, fun memory => ?_⟩
    · rw [State.enter_of_ok memory]
      have jobs := (State.reserveJob_kept (A := [.tielux, .mem, .entropy, .free]) (Kept.refl s) memory (List.Subset.refl _)).jobs
      obtain ⟨admissions, settings, w, entered⟩ := State.withEntering_raiseFree ok jobs
      exact ⟨admissions, settings, _, entered, rfl, rfl, rfl, rfl, rfl, rfl, rfl, rfl⟩
    · rw [State.enter_of_stack memory]
      exact State.endJob_raiseFree ok place job (State.waiting_of_waitingOrder (e := (slot, j)) (waits ▸ List.mem_singleton.2 rfl)) _
  · rw [State.seedingDone_eq job admits unseeded ready hub context]
    obtain ⟨⟨id, seeded, pc, loops, waiting, hold, step, states, sweeps⟩, state, -⟩ := State.filledJob_starts fresh
    cases alone : s.isGroupJob j with
    | false =>
      obtain ⟨touches, becomes⟩ := State.startJob_fillRegion job fresh context
      exact ⟨touches, _, becomes, id, seeded, pc, loops, waiting, hold, step, states, sweeps, fun _ => rfl, nofun⟩
    | true =>
      obtain ⟨touches, becomes, tells⟩ := State.sendReady_fillRegion job fresh
      exact ⟨touches, _, becomes, id, seeded, pc, loops, waiting, hold, step, states, sweeps, nofun, fun _ => ⟨state.trans admits, tells⟩⟩
  · rw [State.restoreDone_eq job restores ready clean elastic]
    obtain ⟨id, seeded, pc, loops, values⟩ := State.filledJob_restores held
    exact ⟨_, State.sendReady_startJob_fillRegion job, id, rfl, seeded, pc, loops, values⟩

end Sys2Proof.Machine

/-! PROOF, for O34, O35 and O36: what an event leaves of the port, the lasers, PTP and the clocks. -/

namespace Sys2Proof.Machine

open Sys2Proof Sys2Proof.Safety

section Events

variable (s : State) (e : EventSpec)

@[simp] theorem State.log_port : (s.log e).port = s.port := rfl
@[simp] theorem State.log_optics : (s.log e).optics = s.optics := rfl
@[simp] theorem State.log_ptp : (s.log e).ptp = s.ptp := rfl
@[simp] theorem State.log_clocks : (s.log e).clocks = s.clocks := rfl

theorem State.log_logged : Logged (s.log e) (BitVec.ofNat 16 e.code) := (LoggedLately.of_log s e).logged

end Events

end Sys2Proof.Machine

/-! PROOF of O36: PTP, its offset, its path delay and its lock. -/

namespace Sys2Proof.Machine

open Sys2Proof Sys2Proof.Safety

/-! ### A Sync (R370, R371) -/

section Sync

/-- The time a Sync took, path and clock difference together. -/
def State.syncLag (s : State) (m : PtpSync) : Int := m.received - s.ptpRxLatency - m.origin

/-- The OFFSET that a Sync gives. -/
def State.syncOffset (s : State) (m : PtpSync) : Int := clampS32 (s.syncLag m - s.ptpAsymmetry - s.ptp.meanPathDelay)

/-- Does a Sync of this OFFSET lock: it is the sixteenth good one in a row. -/
def Ptp.locks (p : Ptp) (offset : Int) : Bool := !p.locked && p.count offset == 16

theorem State.syncOffset_eq (s : State) (m : PtpSync) : s.syncOffset m =
    max (-2 ^ 31) (min (2 ^ 31 - 1) (s.syncLag m - s.journal.settings.asymmetry.toInt - s.ptp.meanPathDelay)) := rfl

variable {p : Ptp} {offset : Int}

theorem Ptp.count_of_good (good : -128 < offset ∧ offset < 128) : p.count offset = min 16 (p.goodSyncs + 1) := if_pos (decide_eq_true good)

theorem Ptp.count_of_bad (bad : ¬(-128 < offset ∧ offset < 128)) : p.count offset = 0 := if_neg fun good => bad (of_decide_eq_true good)

theorem Ptp.count_eq_sixteen : p.count offset = 16 ↔ (-128 < offset ∧ offset < 128) ∧ 15 ≤ p.goodSyncs := by
  by_cases good : -128 < offset ∧ offset < 128
  · rw [Ptp.count_of_good good, and_iff_right good]
    omega
  · rw [Ptp.count_of_bad good]
    exact iff_of_false (by decide) fun h => good h.1

theorem Ptp.locked_or_locks : (p.locked || p.locks offset) = true ↔ p.locked = true ∨ (-128 < offset ∧ offset < 128) ∧ 15 ≤ p.goodSyncs := by
  rw [← Ptp.count_eq_sixteen, Ptp.locks]
  cases p.locked <;> simp

variable (s : State) (m : PtpSync)

/-- The module after a Sync, but for the event of a lock. -/
def State.synced : State :=
  { s with
    ptp := { s.ptp with
      fromMaster := s.syncLag m, offset := s.syncOffset m, goodSyncs := s.ptp.count (s.syncOffset m),
      locked := s.ptp.locked || s.ptp.locks (s.syncOffset m), portState := if s.ptp.locked || s.ptp.locks (s.syncOffset m) then 9 else 8 },
    clocks := { s.clocks with ptpNs := (s.clocks.ptpNs - s.syncOffset m / 16).toNat } }

theorem State.sync_eq :
    s.sync m = if s.ptp.locks (s.syncOffset m) then (s.synced m).log { code := 0x0A07, severity := 0, detail := 1 } else s.synced m := rfl

theorem State.sync_ptp : (s.sync m).ptp = (s.synced m).ptp := by
  rw [State.sync_eq]
  split <;> rfl

theorem State.sync_clocks : (s.sync m).clocks = { s.clocks with ptpNs := (s.clocks.ptpNs - s.syncOffset m / 16).toNat } := by
  rw [State.sync_eq]
  split <;> rfl

variable {s m}

theorem State.sync_logs (locks : s.ptp.locks (s.syncOffset m) = true) : Logged (s.sync m) 0x0A07 := by
  rw [State.sync_eq, if_pos locks]
  exact State.log_logged _ _

/-- What locks the port is this Sync, where it was not locked before. -/
theorem State.sync_logs_of_locked (after : (s.synced m).ptp.locked = true) (before : s.ptp.locked = false) : Logged (s.sync m) 0x0A07 :=
  State.sync_logs ((Bool.or_eq_true_iff.1 after).resolve_left (by simp [before]))

end Sync

/-! ### Lock lost (R371) -/

theorem State.unlock_of_locked {s : State} (locked : s.ptp.locked = true) :
    s.unlock = (s.onPtp fun p => { p with locked := false, goodSyncs := 0, portState := 4 }).log { code := 0x0A07, severity := 1 } := if_pos locked

theorem State.unlock_of_unlocked {s : State} (unlocked : s.ptp.locked = false) : s.unlock = s := if_neg (by simp [unlocked])

/-- Settles O36. That time follows by the whole OFFSET, and the numbers of PORT_STATE, are log entry 64. -/
theorem ptpClock : Obligations.PtpClock := by
  refine ⟨fun s m => ⟨s.sync m, rfl, (exec_kept (c := .ptpSync m) rfl).frame, ?_⟩,
    fun s sent received => ⟨s.delayResp sent received, rfl, (exec_kept (c := .ptpDelayResp sent received) rfl).frame, rfl⟩,
    fun s => ⟨s.unlock, rfl, State.unlock_of_unlocked, fun locked => ⟨(exec_kept (c := .ptpUnlocked) rfl).frame, ?_⟩⟩⟩
  · dsimp only
    rw [← State.syncLag, ← State.syncOffset_eq, State.sync_ptp]
    exact ⟨rfl, rfl, Ptp.count_of_bad, Ptp.count_of_good, Ptp.locked_or_locks, State.sync_logs_of_locked,
      State.sync_clocks s m⟩
  · rw [State.unlock_of_locked locked]
    exact ⟨State.log_logged _ _, rfl⟩

end Sys2Proof.Machine

/-! PROOF of O35: lanes, the link, fallback, lasers and MAC instances. -/

namespace Sys2Proof.Machine

open Sys2Proof Sys2Proof.Safety

/-! ### Failed lanes (R361, R364) -/

section Lanes

variable {b : BitVec 8}

theorem and_bne_zero_iff {mask : BitVec 8} : (b &&& mask != 0) = true ↔ ∃ i < 8, mask.getLsbD i = true ∧ b.getLsbD i = true := by
  rw [bne_iff_ne, ← not_iff_not, not_not]
  constructor
  · rintro none ⟨i, low, inMask, inLanes⟩
    have bit := congrArg (BitVec.getLsbD · i) none
    simp [inMask, inLanes] at bit
  · intro none
    refine BitVec.eq_of_getLsbD_eq fun i low => ?_
    rw [BitVec.getLsbD_and, show (0 : BitVec 8).getLsbD i = false from BitVec.getLsbD_zero, Bool.and_eq_false_iff]
    by_contra both
    simp only [not_or, Bool.not_eq_false] at both
    exact none ⟨i, low, both.2, both.1⟩

theorem lowMask_getLsbD : ∀ i < 8, (0x0F#8).getLsbD i = decide (i < 4) := by decide
theorem highMask_getLsbD : ∀ i < 8, (0xF0#8).getLsbD i = decide (4 ≤ i) := by decide

theorem lanesLow_iff : lanesLow b = true ↔ ∃ i < 4, b.getLsbD i = true := by
  rw [lanesLow, and_bne_zero_iff]
  constructor
  · rintro ⟨i, low, inMask, failed⟩
    rw [lowMask_getLsbD i low] at inMask
    exact ⟨i, of_decide_eq_true inMask, failed⟩
  · rintro ⟨i, low, failed⟩
    have lane : i < 8 := by omega
    exact ⟨i, lane, by rw [lowMask_getLsbD i lane, decide_eq_true low], failed⟩

theorem lanesHigh_iff : lanesHigh b = true ↔ ∃ i < 8, 4 ≤ i ∧ b.getLsbD i = true := by
  rw [lanesHigh, and_bne_zero_iff]
  refine exists_congr fun i => and_congr_right fun lane => ?_
  rw [highMask_getLsbD i lane, decide_eq_true_iff]

/-- The mark of one more failed lane. -/
theorem getLsbD_or_lane {n i : Nat} (lane : i < 8) : (b ||| (1#8 <<< n)).getLsbD i = (b.getLsbD i || decide (i = n)) := by
  rw [BitVec.getLsbD_or, BitVec.getLsbD_shiftLeft, BitVec.getLsbD_one]
  congr 1
  rw [Bool.eq_iff_iff]
  simp
  omega

theorem trainTarget_low (good : ∀ i < 4, b.getLsbD i = false) (bad : ∃ i < 8, 4 ≤ i ∧ b.getLsbD i = true) : trainTarget b = .dr4Low := by
  have low : ¬lanesLow b = true := fun failed => by
    obtain ⟨i, lane, set⟩ := lanesLow_iff.1 failed
    exact Bool.false_ne_true ((good i lane).symm.trans set)
  rw [trainTarget, if_neg low, if_pos (lanesHigh_iff.2 bad)]

theorem trainTarget_high (good : ∀ i < 8, 4 ≤ i → b.getLsbD i = false) (bad : ∃ i < 4, b.getLsbD i = true) : trainTarget b = .dr4High := by
  have high : ¬lanesHigh b = true := fun failed => by
    obtain ⟨i, lane, above, set⟩ := lanesHigh_iff.1 failed
    exact Bool.false_ne_true ((good i lane above).symm.trans set)
  rw [trainTarget, if_pos (lanesLow_iff.2 bad), if_neg high]

/-- A mode runs over a lane. -/
def PortMode.carries (m : PortMode) (n : Nat) : Prop :=
  match m with
  | .down => False
  | .dr8 => True
  | .dr4Low => n < 4
  | .dr4High => 4 ≤ n

theorem PortMode.uses_iff {m : PortMode} {n : Nat} : m.uses n = true ↔ m.carries n := by
  cases m <;> simp [PortMode.uses, PortMode.carries]

end Lanes

section Link

variable {s : State} {n : Nat}

/-! ### The port goes down -/

theorem State.portDown_lately {code : BitVec 16} {k : Nat} (lately : LoggedLately s code k) (few : k < 65535) :
    LoggedLately s.portDown code (k + 1) := by
  rw [State.portDown]
  split
  · exact LoggedLately.log (lately.of_events rfl) few _
  · exact LoggedLately.mono (lately.of_events rfl) (Nat.le_succ k)

/-! ### A lane fails (R360, R361, R363) -/

/-- A lane that is not marked yet, outside the quiet time of a laser switch. -/
def State.LaneNew (s : State) (n : Nat) : Prop := s.port.laneFailed.getLsbD n = false ∧ s.optics.quietUntil ≤ s.nowNs

/-- A lane marked failed and logged. -/
def State.laneMarked (s : State) (n : Nat) : State :=
  (s.onPort fun p => { p with laneFailed := p.laneFailed ||| (1#8 <<< n) }).log (portEvent 0x0A02 n n 1)

theorem State.laneFail_of_not_new (known : ¬s.LaneNew n) : s.laneFail n = s := by
  rw [State.laneFail, if_pos]
  rw [Bool.or_eq_true_iff, decide_eq_true_iff]
  by_contra h
  simp only [not_or, Bool.not_eq_true, Nat.not_lt] at h
  exact known h

theorem State.laneFail_of_new (new : s.LaneNew n) : s.laneFail n =
    if s.port.target.uses n then (s.laneMarked n).portDown.onPort fun p => { p with training := trainTarget p.laneFailed } else s.laneMarked n := by
  obtain ⟨unmarked, loud⟩ := new
  exact if_neg (by simpa [unmarked] using loud)

theorem State.laneFail_of_unused (new : s.LaneNew n) (unused : ¬s.port.target.carries n) : s.laneFail n = s.laneMarked n := by
  rw [State.laneFail_of_new new, if_neg (mt PortMode.uses_iff.1 unused)]

theorem State.laneFail_of_used (new : s.LaneNew n) (carries : s.port.target.carries n) :
    s.laneFail n = (s.laneMarked n).portDown.onPort fun p => { p with training := trainTarget p.laneFailed } := by
  rw [State.laneFail_of_new new, if_pos (PortMode.uses_iff.2 carries)]

theorem State.laneMarked_lately (s : State) (n : Nat) : LoggedLately (s.laneMarked n) 0x0A02 0 := LoggedLately.of_log _ _

/-- The port that a lane which carries the link leaves. -/
theorem State.laneFail_port_of_used (new : s.LaneNew n) (carries : s.port.target.carries n) : (s.laneFail n).port =
    { s.port with
      laneFailed := s.port.laneFailed ||| (1#8 <<< n), linkUp := false, mode := .down, preemptActive := false, bulkPaused := false,
      training := trainTarget (s.port.laneFailed ||| (1#8 <<< n)) } := by
  rw [State.laneFail_of_used new carries, State.onPort_port, State.portDown_port]
  rfl

theorem State.laneFail_logs (new : s.LaneNew n) : Logged (s.laneFail n) 0x0A02 := by
  by_cases carries : s.port.target.carries n
  · rw [State.laneFail_of_used new carries]
    exact (State.portDown_lately (s.laneMarked_lately n) (by decide)).logged
  · rw [State.laneFail_of_unused new carries]
    exact (s.laneMarked_lately n).logged

theorem State.laneFail_lanes (new : s.LaneNew n) : (s.laneFail n).port.laneFailed = s.port.laneFailed ||| (1#8 <<< n) := by
  by_cases carries : s.port.target.carries n
  · rw [State.laneFail_port_of_used new carries]
  · rw [State.laneFail_of_unused new carries]
    rfl

/-- A failed lane is in one of the groups, so the port trains for the other where that one has none (R361). -/
theorem trainTarget_lane {b : BitVec 8} (lane : n < 8) :
    ((∀ i < 4, (b ||| (1#8 <<< n)).getLsbD i = false) → trainTarget (b ||| (1#8 <<< n)) = .dr4Low) ∧
      ((∀ i < 8, 4 ≤ i → (b ||| (1#8 <<< n)).getLsbD i = false) → trainTarget (b ||| (1#8 <<< n)) = .dr4High) := by
  have failed : (b ||| (1#8 <<< n)).getLsbD n = true := by simp [getLsbD_or_lane lane]
  refine ⟨fun good => trainTarget_low good ⟨n, lane, ?_, failed⟩, fun good => trainTarget_high good ⟨n, ?_, failed⟩⟩
  · by_contra low
    exact Bool.false_ne_true ((good n (by omega)).symm.trans failed)
  · by_contra high
    exact Bool.false_ne_true ((good n lane (by omega)).symm.trans failed)

/-! ### The link comes up (R361, R368, R373) -/

/-- The link is down, a laser is left and the hub has its rail. -/
def State.LinkComes (s : State) : Prop :=
  s.port.linkUp = false ∧ ¬(s.optics.la = .failed ∧ s.optics.lb = .failed) ∧ s.power.vhubOn = true

/-- The link up in the mode that the port trains for, and logged. -/
def State.linkStarted (s : State) : State :=
  ((s.onPort fun p => { p with linkUp := true, mode := s.port.training, preemptActive := false }).onPtp
    fun p => { p with portState := if p.locked then 9 else 4 }).log (portEvent 0x0A01 0xFF 1)

theorem State.linkComes_iff : s.LinkComes ↔ (s.port.linkUp || s.optics.dark || !s.power.vhubOn) = false := by
  simp only [State.LinkComes, Optics.dark, Bool.or_eq_false_iff, Bool.and_eq_false_iff, beq_eq_false_iff_ne, Bool.not_eq_false', not_and_or,
    and_assoc, ne_eq]

theorem State.linkComesUp_of_not_comes (stays : ¬s.LinkComes) : s.linkComesUp = s :=
  if_pos (Bool.of_not_eq_false (mt State.linkComes_iff.2 stays))

/-- In fallback the link comes up with one more event (R361). -/
theorem State.linkComesUp_of_comes (comes : s.LinkComes) :
    ((s.port.training = .dr4Low ∨ s.port.training = .dr4High) ∧
      ∃ lane group, s.linkComesUp = s.linkStarted.log (portEvent 0x0A03 lane group 1)) ∨
    (¬(s.port.training = .dr4Low ∨ s.port.training = .dr4High) ∧ s.linkComesUp = s.linkStarted) := by
  have up : s.linkComesUp = match s.port.training with
      | .dr4Low => s.linkStarted.log (portEvent 0x0A03 0 0 1)
      | .dr4High => s.linkStarted.log (portEvent 0x0A03 4 1 1)
      | _ => s.linkStarted := if_neg (Bool.eq_false_iff.1 (State.linkComes_iff.1 comes))
  rw [up]
  cases s.port.training with
  | dr4Low => exact .inl ⟨.inl rfl, 0, 0, rfl⟩
  | dr4High => exact .inl ⟨.inr rfl, 4, 1, rfl⟩
  | down => exact .inr ⟨by decide, rfl⟩
  | dr8 => exact .inr ⟨by decide, rfl⟩

theorem State.linkComesUp_port (comes : s.LinkComes) : s.linkComesUp.port = s.linkStarted.port := by
  obtain ⟨-, lane, group, up⟩ | ⟨-, up⟩ := State.linkComesUp_of_comes comes <;> rw [up]
  rfl

theorem State.linkComesUp_logs (comes : s.LinkComes) : Logged s.linkComesUp 0x0A01 ∧
    (s.port.training = .dr4Low ∨ s.port.training = .dr4High → Logged s.linkComesUp 0x0A03) := by
  have started : LoggedLately s.linkStarted 0x0A01 0 := LoggedLately.of_log _ _
  obtain ⟨-, lane, group, up⟩ | ⟨whole, up⟩ := State.linkComesUp_of_comes comes <;> rw [up]
  · exact ⟨(started.log (by decide) _).logged, fun _ => State.log_logged _ _⟩
  · exact ⟨started.logged, fun fallback => absurd fallback whole⟩

/-! ### The next mode tried (R364) -/

/-- The link is down, with a failed lane in both groups. -/
def State.RetryDue (s : State) : Prop :=
  s.port.linkUp = false ∧ (∃ i < 4, s.port.laneFailed.getLsbD i = true) ∧ ∃ i < 8, 4 ≤ i ∧ s.port.laneFailed.getLsbD i = true

theorem State.retryDue_iff : s.RetryDue ↔ (s.port.linkUp || !(lanesLow s.port.laneFailed && lanesHigh s.port.laneFailed)) = false := by
  rw [State.RetryDue, ← lanesLow_iff, ← lanesHigh_iff, Bool.or_eq_false_iff, Bool.not_eq_false', Bool.and_eq_true_iff]

theorem State.fallbackNext_of_not_due (early : ¬s.RetryDue) : s.fallbackNext = s := if_pos (Bool.of_not_eq_false (mt State.retryDue_iff.2 early))

/-- The mode tried after a mode. -/
def PortMode.next (m : PortMode) : PortMode :=
  match m with
  | .dr8 => .dr4Low
  | .dr4Low => .dr4High
  | _ => .dr8

theorem State.fallbackNext_of_due (due : s.RetryDue) : s.fallbackNext = s.onPort fun p => { p with training := p.training.next } :=
  if_neg (Bool.eq_false_iff.1 (State.retryDue_iff.1 due))

end Link

/-! ### Lasers (R366, R368) -/

section Lasers

variable {s : State} {cause : LaserFault}

/-- The states of the active laser and of the other one. -/
def Optics.mine (o : Optics) : LaserState := if o.activeLb then o.lb else o.la
def Optics.other (o : Optics) : LaserState := if o.activeLb then o.la else o.lb

/-- The active laser marked failed, with no other to take over. -/
def Optics.darken (o : Optics) : Optics := if o.activeLb then { o with lb := .failed } else { o with la := .failed }

/-- The standby laser taking over. -/
def Optics.switch (o : Optics) (now : Nat) : Optics :=
  { o with la := if o.activeLb then .active else .failed, lb := if o.activeLb then .failed else .active, activeLb := !o.activeLb,
           switches := satAdd 32 o.switches 1, quietUntil := now + 20000000 }

theorem Optics.darken_lasers {o : Optics} (gone : o.other = .failed) :
    o.darken.la = .failed ∧ o.darken.lb = .failed ∧ o.darken.switches = o.switches := by
  cases lb : o.activeLb <;> simp_all [Optics.darken, Optics.other]

theorem State.laserFails_of_idle (idle : s.optics.mine ≠ .active) : s.laserFails cause = s := if_pos (bne_iff_ne.2 idle)

theorem State.laserFails_of_standby (active : s.optics.mine = .active) (left : s.optics.other ≠ .failed) : s.laserFails cause =
    (s.onOptics fun o => o.switch s.nowNs).log (portEvent 0x0A04 (bit s.optics.activeLb) (laserFaultCode cause) 1) :=
  (if_neg fun idle => bne_iff_ne.1 idle active).trans (if_neg fun gone => left (beq_iff_eq.1 gone))

theorem State.laserFails_of_last (active : s.optics.mine = .active) (gone : s.optics.other = .failed) : s.laserFails cause =
    ((s.onOptics Optics.darken).log (portEvent 0x0A05 (bit s.optics.activeLb) (laserFaultCode cause) 2)).portDown :=
  (if_neg fun idle => bne_iff_ne.1 idle active).trans (if_pos (beq_iff_eq.2 gone))

theorem State.portDown_optics (s : State) : s.portDown.optics = s.optics :=
  (State.portDown_kept (Kept.refl s) (List.Subset.refl _)).frame.same .optics (by decide)

end Lasers

/-! ### The events as a whole -/

section Whole

variable {s : State}

theorem execLaneFailed_becomes (n : Fin 8) : CompletesWith (exec (.laneFailed n) s) fun t =>
    (¬s.LaneNew n.val → t = s) ∧
    (s.LaneNew n.val → OnlyTouches [.transport, .events, .headers, .port] s t ∧ Logged t 0x0A02 ∧
      (∀ i < 8, t.port.laneFailed.getLsbD i = (s.port.laneFailed.getLsbD i || decide (i = n.val))) ∧
      (¬s.port.target.carries n.val → t.port.linkUp = s.port.linkUp ∧ t.port.mode = s.port.mode ∧ t.port.training = s.port.training) ∧
      (s.port.target.carries n.val → t.port.linkUp = false ∧ t.port.mode = .down ∧
        ((∀ i < 4, t.port.laneFailed.getLsbD i = false) → t.port.training = .dr4Low) ∧
        ((∀ i < 8, 4 ≤ i → t.port.laneFailed.getLsbD i = false) → t.port.training = .dr4High))) := by
  refine ⟨s.laneFail n.val, rfl, State.laneFail_of_not_new, fun new => ⟨(exec_kept (c := .laneFailed n) rfl).frame,
    State.laneFail_logs new, fun i lane => ?_, fun unused => ?_, fun used => ?_⟩⟩
  · rw [State.laneFail_lanes new, getLsbD_or_lane lane]
  · rw [State.laneFail_of_unused new unused]
    exact ⟨rfl, rfl, rfl⟩
  · rw [State.laneFail_port_of_used new used]
    exact ⟨rfl, rfl, trainTarget_lane n.isLt⟩

theorem execLinkUp_becomes : CompletesWith (exec .linkUp s) fun t =>
    (¬s.LinkComes → t = s) ∧
    (s.LinkComes → OnlyTouches [.transport, .events, .headers, .port, .ptp] s t ∧ Logged t 0x0A01 ∧
      t.port = { s.port with linkUp := true, mode := s.port.training, preemptActive := false } ∧
      (s.port.training = .dr4Low ∨ s.port.training = .dr4High → Logged t 0x0A03)) := by
  refine ⟨s.linkComesUp, rfl, State.linkComesUp_of_not_comes, fun comes => ?_⟩
  obtain ⟨up, fallback⟩ := State.linkComesUp_logs comes
  exact ⟨(exec_kept (c := .linkUp) rfl).frame, up, State.linkComesUp_port comes, fallback⟩

theorem execLaserSwitch_becomes (cause : LaserFault) : CompletesWith (exec (.laserSwitch cause) s) fun t =>
    (s.optics.mine ≠ .active → t = s) ∧
    (s.optics.mine = .active → s.optics.other ≠ .failed → OnlyTouches [.optics, .transport, .events, .headers] s t ∧ Logged t 0x0A04 ∧
      t.optics = s.optics.switch s.nowNs ∧ t.port = s.port) ∧
    (s.optics.mine = .active → s.optics.other = .failed → Logged t 0x0A05 ∧ t.optics = s.optics.darken ∧ t.port.linkUp = false) := by
  refine ⟨s.laserFails cause, rfl, State.laserFails_of_idle, fun active left => ?_, fun active gone => ?_⟩
  · rw [State.laserFails_of_standby active left]
    exact ⟨(State.log_kept _ (State.onOptics_kept _ (Kept.refl s) (by decide)) (by decide)).frame, State.log_logged _ _, rfl, rfl⟩
  · rw [State.laserFails_of_last active gone]
    exact ⟨(State.portDown_lately (LoggedLately.of_log _ _) (by decide)).logged, State.portDown_optics _, congrArg Port.linkUp (State.portDown_port _)⟩

end Whole

/-- Settles O35. That a failed lane of the idle group is only marked is log entry 63. -/
theorem linkAndLasers : Obligations.LinkAndLasers := by
  refine ⟨fun s n => execLaneFailed_becomes n, fun s => execLinkUp_becomes,
    fun s => ⟨s.portDown, rfl, (exec_kept (c := .linkDown) rfl).frame, s.portDown_port, State.portDown_logs⟩,
    fun s => ⟨s.fallbackNext, rfl, State.fallbackNext_of_not_due, State.fallbackNext_of_due⟩,
    fun s cause => ?_,
    fun s => ⟨s.macParts .parity, rfl, (State.log_kept _ (State.onPort_kept _ (Kept.refl s) (by decide)) (by decide)).frame, rfl, State.log_logged _ _⟩,
    fun s => rfl⟩
  obtain ⟨t, completes, idle, standby, last⟩ := execLaserSwitch_becomes (s := s) cause
  refine ⟨t, completes, idle, fun active left => ?_, fun active gone => ?_⟩
  · obtain ⟨touches, logged, optics, port⟩ := standby active left
    rw [optics, port]
    refine ⟨touches, logged, rfl, rfl, ?_, rfl⟩
    split
    next lb => exact ⟨if_pos lb, if_pos lb⟩
    next la => exact ⟨if_neg la, if_neg la⟩
  · obtain ⟨logged, optics, down⟩ := last active gone
    obtain ⟨la, lb, switches⟩ := Optics.darken_lasers gone
    rw [optics]
    exact ⟨logged, la, lb, down, switches⟩

end Sys2Proof.Machine

/-! PROOF of O34, its packets: what an acknowledgement leaves of its session, and a sequenced packet at the receive window. -/

namespace Sys2Proof.Machine

open Sys2Proof Sys2Proof.Safety

/-! ### An acknowledgement taken (R391, R392, R398) -/

section Acks

variable {s : State} {x : Session}

/-- The sessions, what has been sent outside them and the count of packets above a window stand. -/
def Transport.SameSessions (t u : Transport) : Prop := u.sessions = t.sessions ∧ u.out = t.out ∧ u.windowDrop = t.windowDrop

theorem Transport.again_same (t : Transport) (id seq : Nat) : t.SameSessions (t.again id seq) := by
  rw [Transport.again]
  split
  · exact ⟨rfl, rfl, rfl⟩
  · rw [Transport.queue]
    split <;> exact ⟨rfl, rfl, rfl⟩

theorem Transport.againAll_same (id : Nat) (seqs : List Nat) (t : Transport) : t.SameSessions (seqs.foldl (fun u q => u.again id q) t) := by
  induction seqs generalizing t with
  | nil => exact ⟨rfl, rfl, rfl⟩
  | cons q seqs ih =>
    obtain ⟨sessions, out, drops⟩ := t.again_same id q
    obtain ⟨sessions', out', drops'⟩ := ih (t.again id q)
    exact ⟨sessions'.trans sessions, out'.trans out, drops'.trans drops⟩

theorem State.resendMissing_same (s : State) (b : AckBody) : s.transport.SameSessions (s.resendMissing b).transport := by
  rw [State.resendMissing]
  split
  · exact ⟨rfl, rfl, rfl⟩
  · exact Transport.againAll_same _ _ s.transport

/-- An open session is the one with its number. -/
theorem State.openSession?_of_session? {id : Nat} (held : s.session? id = some x) (opened : x.opened = true) : s.openSession? id = some x := by
  obtain ⟨same, before, after, parts, others⟩ := List.find?_eq_some_iff_append.1 held
  refine List.find?_eq_some_iff_append.2 ⟨by rw [same, opened]; rfl, before, after, parts, fun a mem => ?_⟩
  have other := others a mem
  rw [Bool.not_eq_true'] at other ⊢
  rw [other, Bool.false_and]

theorem State.modSession_found {id : Nat} {f : Session → Session} (held : s.session? id = some x) (keeps : ∀ y, (f y).id = y.id) :
    (s.modSession id f).session? id = some (f x) := by
  rw [State.session?_modSession s id id keeps, if_pos rfl, held, Option.map_some]

/-- The session after an acknowledgement of every packet up to number `n`. -/
def Session.acked (x : Session) (n : Nat) : Session := { x with tx := x.tx.filter fun p => decide (n < p.seq) }

/-- What the records of acknowledged packets come to changes no session (R398). -/
theorem State.ackUpTo_transport {id : Nat} (session : s.openSession? id = some x) (n : Nat) :
    (s.ackUpTo id n).transport = (s.modSession id fun y => y.acked n).transport := by
  rw [State.ackUpTo, session]
  have kept (t : State) (ps : List TxPacket) : Kept [.jobs, .streams] t (ps.foldl State.packetAcked t) :=
    Kept.foldl (fun _ p later => State.packetAcked_kept p later (List.Subset.refl _)) ps (Kept.refl t)
  exact (kept _ _).frame.same .transport (by decide)

theorem State.ackIn_same {b : AckBody} (session : s.openSession? b.sess = some x) :
    (s.modSession b.sess fun y => y.acked b.ack).transport.SameSessions (s.ackIn b).transport := by
  rw [State.ackIn, ← State.ackUpTo_transport session]
  exact State.resendMissing_same _ b

/-- Of a session, an acknowledgement changes only the packets that wait for one. -/
theorem State.ackIn_session {b : AckBody} (held : s.session? b.sess = some x) (opened : x.opened = true) :
    (s.ackIn b).session? b.sess = some (x.acked b.ack) ∧ (s.ackIn b).transport.out = s.transport.out ∧
      (s.ackIn b).transport.windowDrop = s.transport.windowDrop := by
  obtain ⟨sessions, out, drops⟩ := State.ackIn_same (State.openSession?_of_session? held opened)
  refine ⟨?_, out, drops⟩
  exact (congrArg (List.find? _) sessions).trans (State.modSession_found (f := fun y => y.acked b.ack) held fun _ => rfl)

end Acks

/-! ### The receive window (R390) -/

section Window

variable {s : State} {x : Session} {p : RxPacket}

theorem State.bareAck_of_session {id : Nat} (held : s.session? id = some x) : s.bareAck id = s.emit (.bareAck id x.rxAck) := by
  rw [State.bareAck, held]
  rfl

theorem State.windowIn_above (above : x.rxAck + 4096 < p.seq) :
    s.windowIn x p = s.onTransport fun t => { t with windowDrop := satAdd 32 t.windowDrop 1 } := if_pos above

theorem State.windowIn_again (again : p.seq ≤ x.rxAck) : s.windowIn x p = s.bareAck x.id :=
  (if_neg (by omega)).trans (if_pos (.inl again))

/-- The next packet of a session that holds none back. -/
theorem takeReady_next {ack : Nat} (next : p.seq = ack + 1) (bulk : expressType p.type = false) : takeReady 1 ack [p] = ([p], p.seq, []) := by
  simp [takeReady, dropFirst, next, bulk]

theorem State.windowIn_next (next : p.seq = x.rxAck + 1) (held : x.rxHeld = []) (bulk : expressType p.type = false) :
    s.windowIn x p = ((s.modSession x.id fun y => { y with rxAck := p.seq, rxHeld := [] }).deliver x p).bareAck x.id := by
  have fresh : ¬(p.seq ≤ x.rxAck ∨ x.rxHeld.any (fun q => q.seq == p.seq) = true) := by
    rw [held, next]
    simp
  rw [State.windowIn, if_neg (by omega), if_neg fresh, bulk, held]
  simp only [List.length_nil, List.nil_append, Nat.zero_add, takeReady_next next bulk]
  rfl

/-- A well-formed COMMAND of a key waits in its session's inbox. -/
theorem State.deliver_command (host : x.role ≠ .peer) (type : p.type = 4) (long : 16 ≤ p.payload.length) (formed : commandStatus p.payload = 0) :
    s.deliver x p = s.modSession x.id fun y => { y with inbox := y.inbox ++ [p] } := by
  rw [State.deliver, if_neg (by simpa using host), type]
  dsimp only
  rw [if_neg (Nat.not_lt.2 long), if_pos formed]
  rfl

/-- Such a packet, the next of its session, waits there acknowledged. -/
theorem State.windowIn_command (there : s.session? x.id = some x) (next : p.seq = x.rxAck + 1) (held : x.rxHeld = []) (host : x.role ≠ .peer)
    (type : p.type = 4) (long : 16 ≤ p.payload.length) (formed : commandStatus p.payload = 0) :
    Emitted s (s.windowIn x p) (.bareAck x.id p.seq) ∧
      (s.windowIn x p).session? x.id = some { x with rxAck := p.seq, rxHeld := [], inbox := x.inbox ++ [p] } := by
  rw [State.windowIn_next next held (by rw [type]; rfl), State.deliver_command host type long formed]
  generalize waits : State.modSession _ _ _ = t
  have session : t.session? x.id = some { x with rxAck := p.seq, rxHeld := [], inbox := x.inbox ++ [p] } :=
    waits ▸ State.modSession_found (f := fun y => { y with inbox := y.inbox ++ [p] })
      (State.modSession_found (f := fun y => { y with rxAck := p.seq, rxHeld := [] }) there fun _ => rfl) fun _ => rfl
  rw [State.bareAck_of_session session]
  exact ⟨by rw [← waits]; rfl, session⟩

end Window

/-! ### A session's packet (R382, R389) -/

section Packets

variable {s : State} {x : Session} {p : Packet} {plain : Bytes}

/-- A packet's session is open. -/
theorem State.packetSession_opened (session : s.packetSession p = some x) : x.opened = true := by
  obtain ⟨id, -, opens⟩ := List.mem_filterMap.1 (List.mem_of_find?_eq_some session)
  exact (Bool.and_eq_true_iff.1 (List.find?_some (p := fun y : Session => y.id == id && y.opened) opens)).2

/-- The packet as the window takes it. -/
def Packet.received (p : Packet) (plain : Bytes) : RxPacket := { seq := p.seq, type := p.type, payload := plain }

/-- The session once a packet's source and its acknowledgement are taken. -/
def Session.heard (x : Session) (p : Packet) (mac : BitVec 48) (ip : BitVec 128) : Session := { x with mac := mac, ip := ip }.acked p.ack

/-- A sequenced packet reaches the window of its session, of which only the source and the acknowledged packets have changed. -/
theorem State.sessionPacket_reaches (held : s.session? x.id = some x) (opened : x.opened = true) (clear : x.openPayload p = some plain)
    (sequenced : p.type ≠ 0) (mac : BitVec 48) (ip : BitVec 128) :
    ∃ u : State, s.sessionPacket x p mac ip = u.windowIn (x.heard p mac ip) (p.received plain) ∧ u.session? x.id = some (x.heard p mac ip) ∧
      u.transport.out = s.transport.out ∧ u.transport.windowDrop = s.transport.windowDrop := by
  generalize source : (s.modSession x.id fun y => { y with mac := mac, ip := ip }) = r
  have sourced : r.session? x.id = some { x with mac := mac, ip := ip } :=
    source ▸ State.modSession_found (f := fun y => { y with mac := mac, ip := ip }) held fun _ => rfl
  obtain ⟨heard, out, drops⟩ := State.ackIn_session (b := { sess := x.id, ack := p.ack, sackMap := p.sack, bitmap := [] }) sourced opened
  refine ⟨r.ackIn { sess := x.id, ack := p.ack, sackMap := p.sack, bitmap := [] }, ?_, heard, out.trans (by rw [← source]; rfl),
    drops.trans (by rw [← source]; rfl)⟩
  rw [State.sessionPacket, clear]
  dsimp only
  rw [source, if_neg sequenced, State.openSession?_of_session? heard opened]
  rfl

theorem State.sessionPacket_becomes (held : s.session? x.id = some x) (opened : x.opened = true) (clear : x.openPayload p = some plain)
    (sequenced : p.type ≠ 0) (mac : BitVec 48) (ip : BitVec 128) :
    let t := s.sessionPacket x p mac ip
    OnlyTouches [.jobs, .transport, .streams] s t ∧
      (x.rxAck + 4096 < p.seq → t.transport.windowDrop = satAdd 32 s.transport.windowDrop 1 ∧
        ∃ y, t.session? x.id = some y ∧ y.inbox = x.inbox ∧ y.rxAck = x.rxAck) ∧
      (p.seq ≤ x.rxAck → Emitted s t (.bareAck x.id x.rxAck) ∧ ∃ y, t.session? x.id = some y ∧ y.inbox = x.inbox ∧ y.rxAck = x.rxAck) ∧
      (p.seq = x.rxAck + 1 → p.type = 4 → x.role ≠ .peer → x.rxHeld = [] → 16 ≤ plain.length → commandStatus plain = 0 →
        Emitted s t (.bareAck x.id p.seq) ∧
        ∃ y, t.session? x.id = some y ∧ y.inbox = x.inbox ++ [{ seq := p.seq, type := p.type, payload := plain }] ∧ y.rxAck = p.seq) := by
  refine ⟨(State.sessionPacket_kept x p mac ip (Kept.refl s) (List.Subset.refl _)).frame, ?_⟩
  obtain ⟨u, reaches, session, out, drops⟩ := State.sessionPacket_reaches held opened clear sequenced mac ip
  rw [reaches]
  refine ⟨fun above => ?_, fun again => ?_, fun next type host none long formed => ?_⟩
  · rw [State.windowIn_above (x := x.heard p mac ip) (p := p.received plain) above]
    exact ⟨congrArg (satAdd 32 · 1) drops, _, session, rfl, rfl⟩
  · rw [State.windowIn_again (x := x.heard p mac ip) (p := p.received plain) again, State.bareAck_of_session (id := (x.heard p mac ip).id) session]
    exact ⟨congrArg (· ++ _) out, _, session, rfl, rfl⟩
  · obtain ⟨emits, waits⟩ := State.windowIn_command (x := x.heard p mac ip) (p := p.received plain) session next none host type long formed
    exact ⟨emits.trans (congrArg (· ++ _) out), _, waits, rfl, rfl⟩

end Packets

end Sys2Proof.Machine

/-! PROOF of O34, its theorem: frames, solicitations and echoes, express frames and preemption. -/

namespace Sys2Proof.Machine

open Sys2Proof Sys2Proof.Safety

/-! ### Frames received (R351, R380, R490) -/

section Frames

variable {s : State} {f : Frame} {b : Bytes} {ip : BitVec 128} {p : Packet} {x : Session}

/-- The link is up, and the hub runs. -/
def State.Receives (s : State) : Prop :=
  s.port.linkUp = true ∧ (s.config.hubReady = true ∨ s.config.bootRom = true) ∧ s.security.scan = false

theorem State.Receives.not_deaf (receives : s.Receives) :
    ¬(s.port.linkUp = false ∨ s.config.hubReady = false ∧ s.config.bootRom = false ∨ s.security.scan = true) := by
  obtain ⟨up, runs, scan⟩ := receives
  simp only [up, scan, Bool.true_eq_false, Bool.false_eq_true, false_or, or_false, not_and_or, Bool.not_eq_false]
  exact runs

theorem State.frameIn_of_unaccepted (receives : s.Receives) (unaccepted : s.frameFits f = false ∨ s.frameKind f = none) :
    s.frameIn f = s.onPort fun p => { p with rxDropped := satAdd 32 p.rxDropped 1 } := by
  rw [State.frameIn, if_neg receives.not_deaf]
  by_cases fits : s.frameFits f = false
  · exact if_pos fits
  · rw [if_neg fits, unaccepted.resolve_left fits]

theorem State.frameIn_of_packet (receives : s.Receives) (fits : s.frameFits f = true) (kind : s.frameKind f = some (.kenvin b ip)) :
    s.frameIn f = s.packetIn b f.src ip := by
  rw [State.frameIn, if_neg receives.not_deaf, if_neg (by simp [fits]), kind]

/-- A well-formed packet for this unit that is neither a roll call nor part of a session's opening is for the session that authenticates it. -/
theorem State.packetIn_of_unit (parsed : parsePacket b = some p) (formed : p.formOk = true) (assigned : s.journal.settings.unitAddr ≠ 0)
    (dest : p.dest = s.journal.settings.unitAddr) (roll : p.type ≠ 1) (opening : p.type ≠ 2) (mac : BitVec 48) (ip : BitVec 128) :
    s.packetIn b mac ip = (s.packetSession p).elim s.authFailed fun x => s.sessionPacket x p mac ip := by
  rw [State.packetIn, parsed]
  dsimp only
  rw [if_neg (by simp [formed]), if_neg fun call => roll call.1, if_neg (not_or.2 ⟨assigned, fun other => other dest⟩),
    if_neg (not_or.2 ⟨roll, opening⟩)]
  cases s.packetSession p <;> rfl

end Frames

/-! ### Solicitations and echoes (R352) -/

section Answers

variable {s : State}

/-- An answer goes out to the source of what it answers where both its conditions hold, and otherwise nothing happens. -/
theorem State.emit_if (a b : Bool) {o : RawOut} (answers : s.rawTo o = s.transport.source) :
    let t := if a && b then s.emit o else s
    (a = true ∧ b = true → OnlyTouches [.transport] s t ∧ Emitted s t o ∧ .raw o s.transport.source ∈ t.transport.bulk) ∧
      (¬(a = true ∧ b = true) → t = s) := by
  refine ⟨fun due => ?_, fun other => if_neg (mt Bool.and_eq_true_iff.1 other)⟩
  rw [if_pos (Bool.and_eq_true_iff.2 due), ← answers]
  exact ⟨(State.emit_kept o (Kept.refl s) (List.Subset.refl _)).frame, rfl, List.mem_append_right _ (List.mem_singleton.2 rfl)⟩

end Answers

/-! ### Express frames (R354 to R356) -/

section Express

variable {s : State}

theorem State.composePtp_of_waiting (waits : s.port.expressQueue < s.transport.express.length) : s.composePtp = s := if_pos waits

theorem State.composePtp_of_none (none : s.transport.express.length ≤ s.port.expressQueue) : s.composePtp =
    { s with transport := { s.transport with express := s.transport.express ++ [.ptp s.ptpMaster s.ptp.messages] },
             ptp := { s.ptp with messages := s.ptp.messages + 1 } } := if_neg (Nat.not_lt.2 none)

theorem State.composePtp_port (s : State) : s.composePtp.port = s.port := by
  rw [State.composePtp]
  split <;> rfl

/-- The express frame cuts the bulk frame under way (R355). -/
def Port.Cuts (p : Port) (sent left : Nat) : Prop :=
  p.linkUp = true ∧ p.preemptActive = true ∧ p.bulkPaused = false ∧ 64 ≤ sent ∧ 128 ≤ left

theorem Port.preempts_iff {p : Port} {sent left : Nat} : p.preempts sent left = true ↔ p.Cuts sent left := by
  simp only [Port.preempts, Port.Cuts, Bool.and_eq_true_iff, Bool.not_eq_true', decide_eq_true_iff, and_assoc]

theorem Port.expressReady_of_cuts {p : Port} {sent left : Nat} (cuts : p.Cuts sent left) : p.expressReady sent left =
    { p with expressQueue := min 32 (p.expressQueue + 1), bulkPaused := true, preemptions := satAdd 32 p.preemptions 1 } :=
  if_pos (Port.preempts_iff.2 cuts)

theorem Port.expressReady_of_not_cuts {p : Port} {sent left : Nat} (whole : ¬p.Cuts sent left) :
    p.expressReady sent left = { p with expressQueue := min 32 (p.expressQueue + 1) } := if_neg (mt Port.preempts_iff.1 whole)

theorem State.verified_of_not_due {ok : Bool} (skipped : ¬(s.port.linkUp = true ∧ s.journal.settings.preemptEnable = true)) : s.verified ok = s :=
  if_neg (mt Bool.and_eq_true_iff.1 skipped)

theorem State.verified_of_due (due : s.port.linkUp = true ∧ s.journal.settings.preemptEnable = true) (ok : Bool) : s.verified ok =
    if ok then s.onPort fun p => { p with preemptActive := true }
    else (s.onPort fun p => { p with preemptActive := false }).log
      { code := 0x0A08, severity := 1, kind := 7, unit := unitWord 0xFF 0xFF 0xFF 0xFF } := if_pos (Bool.and_eq_true_iff.2 due)

end Express

/-! ### The events as a whole -/

section Whole

variable {s : State}

theorem execExpressFrameReady_becomes (sent left : Nat) : CompletesWith (exec (.expressFrameReady sent left) s) fun t =>
    OnlyTouches [.port, .transport, .ptp] s t ∧
    (s.port.expressQueue < s.transport.express.length → t.transport = s.transport ∧ t.ptp = s.ptp) ∧
    (s.transport.express.length ≤ s.port.expressQueue → t.ptp = { s.ptp with messages := s.ptp.messages + 1 } ∧
      t.transport = { s.transport with express := s.transport.express ++ [.ptp s.ptpMaster s.ptp.messages] }) ∧
    t.port = s.port.expressReady sent left := by
  refine ⟨s.expressReady sent left, rfl, (State.expressReady_kept sent left (Kept.refl s) (by decide)).frame, fun waits => ?_,
    fun none => ?_, congrArg (Port.expressReady · sent left) s.composePtp_port⟩
  · rw [State.expressReady, State.composePtp_of_waiting waits]
    exact ⟨rfl, rfl⟩
  · rw [State.expressReady, State.composePtp_of_none none]
    exact ⟨rfl, rfl⟩

theorem execPreemptVerify_becomes (ok : Bool) : CompletesWith (exec (.preemptVerify ok) s) fun t =>
    let due := s.port.linkUp = true ∧ s.journal.settings.preemptEnable = true
    (¬due → t = s) ∧
    (due → t.port = { s.port with preemptActive := ok } ∧ OnlyTouches [.transport, .events, .headers, .port] s t ∧
      (ok = false → Logged t 0x0A08)) := by
  refine ⟨s.verified ok, rfl, State.verified_of_not_due, fun due => ⟨?_, (exec_kept (c := .preemptVerify ok) rfl).frame, ?_⟩⟩
  · rw [State.verified_of_due due]
    cases ok <;> rfl
  · rintro rfl
    rw [State.verified_of_due due]
    exact State.log_logged _ _

end Whole

/-- Settles O34. What a full express queue does is log entry 62, and which PTP message is composed is log entry 65. -/
theorem framesAndPackets : Obligations.FramesAndPackets := by
  refine ⟨fun s f up runs scan => ?_,
    fun s src target => ⟨s.neighbour src target, rfl, State.emit_if _ _ rfl⟩,
    fun s src dst data => ⟨s.echo src dst data, rfl, State.emit_if _ _ rfl⟩,
    fun s sent left => ?_, fun s ok => execPreemptVerify_becomes ok⟩
  · have receives : s.Receives := ⟨up, runs, scan⟩
    refine ⟨fun unaccepted => congrArg Host.Outcome.next (State.frameIn_of_unaccepted receives unaccepted),
      fun b ip p fits kind parsed formed assigned dest roll opening => ?_⟩
    have packet := (State.frameIn_of_packet receives fits kind).trans
      (State.packetIn_of_unit parsed formed assigned dest roll opening f.src ip)
    refine ⟨fun unknown => congrArg Host.Outcome.next ?_, fun x plain session held clear sequenced => ⟨s.frameIn f, rfl, ?_⟩⟩
    · rw [packet, unknown]
      rfl
    · rw [packet, session]
      exact State.sessionPacket_becomes held (State.packetSession_opened session) clear sequenced f.src ip
  · obtain ⟨t, completes, touches, waits, composes, port⟩ := execExpressFrameReady_becomes (s := s) sent left
    exact ⟨t, completes, touches, waits, composes, fun cuts => port.trans (Port.expressReady_of_cuts cuts),
      fun whole => port.trans (Port.expressReady_of_not_cuts whole)⟩

end Sys2Proof.Machine

/-! PROOF of O1: a step runs the command at the front of the queue. -/

namespace Sys2Proof.Machine

/-- Settles O1, by the branch of `step` for a queue that is not empty. -/
theorem stepRunsFront : Obligations.StepRunsFront := fun s c rest front => by rw [step, front]

end Sys2Proof.Machine

/-! PROOF of O40: what a stream makes of a request identifier that it has passed (R395). -/

namespace Sys2Proof.Machine

open Sys2Proof Sys2Proof.Safety

/-- A list with an entry that satisfies a test has one of them changed in place. -/
theorem exists_mem_modFirst {α : Type} {p : α → Bool} (f : α → α) {a : α} {l : List α} (mem : a ∈ l) (pa : p a = true) :
    ∃ b, p b = true ∧ f b ∈ modFirst p f l := by
  induction l with
  | nil => exact absurd mem List.not_mem_nil
  | cons c l ih =>
    cases pc : p c with
    | true => exact ⟨c, pc, by simp [modFirst, pc]⟩
    | false =>
      have later : a ∈ l := (List.mem_cons.1 mem).resolve_left fun same => by simp [← same, pa] at pc
      obtain ⟨b, pb, there⟩ := ih later
      exact ⟨b, pb, by simp [modFirst, pc, there]⟩

section Repeated

variable {s : State} {h : CmdHead} {x : Session} {r : CompRecord}

/-- A command of an open host session whose request identifier its stream has passed. -/
structure Passed (s : State) (h : CmdHead) (x : Session) : Prop where
  session : s.openSession? h.sess = some x
  host : x.role ≠ .peer
  below : h.req ≤ (s.stream x.fpr).highMark

theorem State.command_of_held (passed : Passed s h x) (held : s.heldAccept? x.fpr h.req = some r) (body : State → Session → State) :
    s.command h.sess h.req body = (s.popInbox h.sess).repeatAccept x r := by
  obtain ⟨session, host, below⟩ := passed
  simp [State.command, session, host, below, held]

theorem State.command_of_not_held (passed : Passed s h x) (none : s.heldAccept? x.fpr h.req = none) (body : State → Session → State) :
    s.command h.sess h.req body = (s.popInbox h.sess).refuse x h.req 0x0105 := by
  obtain ⟨session, host, below⟩ := passed
  simp [State.command, session, host, below, none]

/-- Of a submission, too, the identifier is judged first: one that was passed waits for no seed. -/
theorem execSubmit_of_passed (passed : Passed s h x) (b : SubmitBody) :
    exec (.submit h b) s = .next (s.command h.sess h.req fun t y => t.submit y h.req b) := by
  have judged : ¬((s.stream x.fpr).highMark < h.req ∧ s.submitFault x h.req b = none ∧ s.seedWaits b) :=
    fun waits => Nat.not_lt.2 passed.below waits.1
  refine congrArg Host.Outcome.next ?_
  rw [passed.session]
  exact if_neg judged

/-- A held record as its stream holds it once it has been sent again, with REPEAT set. -/
def HeldRecord.repeated (g : HeldRecord) (id : Nat) : HeldRecord :=
  { g with record := { g.record with flags := g.record.flags ||| 2048 }, sentOn := some id }

theorem HeldRecord.repeated_flag (g : HeldRecord) (id : Nat) : (g.repeated id).record.flags.getLsbD 11 = true := by
  simp [HeldRecord.repeated]

/-- A record sent again is marked where it stands, and its stream's numbers stand. -/
theorem State.stream_repeatAccept : (s.repeatAccept x r).stream x.fpr =
    { s.stream x.fpr with records := modFirst (fun g => g.record.seq == r.seq) (·.repeated x.id) (s.stream x.fpr).records } :=
  ((State.sendRecord_touches _ x.fpr r x.id).stream (by decide) x.fpr).trans (s.stream_modStream x.fpr
    (f := fun st => { st with records := modFirst (fun g => g.record.seq == r.seq) (·.repeated x.id) st.records }) fun _ => rfl)

theorem State.repeatAccept_marks (held : s.heldAccept? x.fpr h.req = some r) :
    ∃ g ∈ ((s.repeatAccept x r).stream x.fpr).records, g.record.seq = r.seq ∧ g.record.flags.getLsbD 11 = true := by
  obtain ⟨a, found, rfl⟩ := Option.map_eq_some_iff.1 held
  obtain ⟨g, same, marked⟩ := exists_mem_modFirst (p := fun g : HeldRecord => g.record.seq == a.record.seq) (·.repeated x.id)
    (List.mem_of_find?_eq_some found) (beq_self_eq_true _)
  rw [State.stream_repeatAccept]
  exact ⟨g.repeated x.id, marked, beq_iff_eq.1 same, g.repeated_flag x.id⟩

/-- Such a command changes packets and records alone: a held ACCEPT goes out marked, and without one the command is refused. -/
theorem State.command_passed_becomes (passed : Passed s h x) (body : State → Session → State) :
    let t := s.command h.sess h.req body
    OnlyTouches [.transport, .streams] s t ∧ (t.stream x.fpr).highMark = (s.stream x.fpr).highMark ∧
      (s.heldAccept? x.fpr h.req = none → Told s t x.fpr h.req .refused 0x0105) ∧
      ∀ r, s.heldAccept? x.fpr h.req = some r → (t.stream x.fpr).nextSeq = (s.stream x.fpr).nextSeq ∧
        ∃ g ∈ (t.stream x.fpr).records, g.record.seq = r.seq ∧ g.record.flags.getLsbD 11 = true := by
  have popped : OnlyTouches [.transport, .streams] s (s.popInbox h.sess) := (s.popInbox_touches h.sess).mono (by decide)
  dsimp only
  cases held : s.heldAccept? x.fpr h.req with
  | none =>
    rw [State.command_of_not_held passed held]
    obtain ⟨told, touches⟩ := refused_of_fresh (s := s) (x := x) (h := h) 0x0105
    refine ⟨touches, ?_, fun _ => told, nofun⟩
    rw [State.refuse, State.stream_complete]
    rfl
  | some r =>
    rw [State.command_of_held passed held]
    have repeated := State.repeatAccept_kept x r (Kept.refl (A := [.transport, .streams]) (s.popInbox h.sess)) (List.Subset.refl _)
    have stream := State.stream_repeatAccept (s := s.popInbox h.sess) (x := x) (r := r)
    refine ⟨popped.trans repeated.frame, (congrArg Stream.highMark stream).trans rfl, nofun, fun _ same => ?_⟩
    cases same
    exact ⟨(congrArg Stream.nextSeq stream).trans rfl, State.repeatAccept_marks (s := s.popInbox h.sess) held⟩

/-- An installer's stream that has passed request 3 and holds no ACCEPT of it. -/
def passedThree : State :=
  { State.reset with
    journal := { State.reset.journal with streams := [{ fpr := [], highMark := 5 }] }, transport := { sessions := [installerSession] } }

theorem passedThree_passed : Passed passedThree { sess := 1, req := 3 } installerSession := ⟨rfl, by decide, by decide⟩

/-- A CANCEL under that number is refused with 0x0105. -/
theorem passedThree_told : Told passedThree (passedThree.command 1 3 fun t x => t.cancel x 3 7) [] 3 .refused 0x0105 :=
  (State.command_passed_becomes passedThree_passed _).2.2.1 rfl

end Repeated

/-- Settles O40: each of the commands is judged by its request identifier first. -/
theorem repeatedCommands : Obligations.RepeatedCommands := by
  intro s h x lb sb d job step cls session host below c mem
  have passed : Passed s h x := ⟨session, host, below⟩
  have judged : ∃ body, exec c s = .next (s.command h.sess h.req body) := by
    simp only [List.mem_cons, List.not_mem_nil, or_false] at mem
    rcases mem with rfl | rfl | rfl | rfl | rfl | rfl | rfl | rfl | rfl
    case inr.inr.inl => exact ⟨_, execSubmit_of_passed passed sb⟩
    all_goals exact ⟨_, rfl⟩
  obtain ⟨body, run⟩ := judged
  exact ⟨_, run, State.command_passed_becomes passed body⟩

end Sys2Proof.Machine

/-! PROOF of O39: roll call and the assignment of addresses. Each row is one operation, with an equation for each of its cases. -/

namespace Sys2Proof.Machine

open Sys2Proof Sys2Proof.Safety

/-! ### Replies (R385, R386, R506) -/

section Replies

variable (s : State)

theorem State.transportRandom_transport (n : Nat) : (s.transportRandom n).2.transport = s.transport :=
  (State.transportRandom_kept n (Kept.refl s) (List.Subset.refl _)).frame.same .transport (by decide)

/-- A REPLY leaves with the UNIT_NONCE that stands from then on, unused. -/
theorem State.rollReply_replies (dst : Nat) (nonce : Bytes) :
    let t := s.rollReply dst nonce
    t.transport.nonceUsed = false ∧ t.transport.pendingReplies = s.transport.pendingReplies ∧
      Emitted s t (.rollReply dst s.journal.settings.unitAddr s.journal.claimed nonce t.transport.unitNonce) := by
  have stands := s.transportRandom_transport 16
  exact ⟨rfl, (congrArg Transport.pendingReplies stands :), congrArg (· ++ _) (congrArg Transport.out stands :)⟩

/-- The filter of an ENUMERATE selects this unit, and its list does not exclude it. -/
def State.ChosenBy (b : EnumerateBody) : Prop :=
  (b.filterAll = true ∨ s.journal.settings.unitAddr = 0) ∧ s.factoryMac ∉ b.exclude

/-- The back-off window of an ENUMERATE in microseconds. -/
def replyWindow (b : EnumerateBody) : Nat := if b.windowUs = 0 then 1000 else b.windowUs

theorem replyWindow_pos (b : EnumerateBody) : 0 < replyWindow b := by
  rw [replyWindow]
  split <;> omega

variable {s} {b : EnumerateBody}

theorem State.chosenBy_iff :
    ((b.filterAll || s.journal.settings.unitAddr == 0) && !b.exclude.contains s.factoryMac) = true ↔ s.ChosenBy b := by
  simp [State.ChosenBy]

theorem State.enumerate_of_not_chosen (other : ¬s.ChosenBy b) : s.enumerate b = s := if_neg (mt State.chosenBy_iff.1 other)

theorem State.enumerate_of_chosen (chosen : s.ChosenBy b) :
    (s.enumerate b).transport.out = s.transport.out ∧ ∃ d, d < replyWindow b ∧ (s.enumerate b).transport.pendingReplies =
      s.transport.pendingReplies ++ [{ dst := b.src, nonce := b.nonce, due := s.nowNs / 1000 + d, from_ := s.transport.source }] := by
  rw [State.enumerate, if_pos (State.chosenBy_iff.2 chosen)]
  dsimp only
  rw [State.onTransport_transport, s.transportRandom_transport 4]
  exact ⟨rfl, _, Nat.mod_lt _ (replyWindow_pos b), rfl⟩

theorem State.backoffEnds_of_none (none : s.transport.pendingReplies = []) : s.backoffEnds = s := by
  rw [State.backoffEnds, none]
  rfl

theorem State.backoffEnds_of_one {p : PendingReply} (one : s.transport.pendingReplies = [p]) :
    s.backoffEnds = (s.onTransport fun t => { t with pendingReplies := [], source := p.from_ }).rollReply p.dst p.nonce := by
  rw [State.backoffEnds, one]
  rfl

end Replies

/-! ### Assignment (R387) -/

section Assignment

variable (s : State) (b : AssignBody)

/-- An installer key has signed the ASSIGN over the latest UNIT_NONCE, which no ASSIGN has used yet. -/
def State.SignedAssign : Prop :=
  ∃ k, s.key? .installer b.signer = some k ∧ s.transport.nonceUsed = false ∧
    pssVerify k.modulus (sha256 (s.transport.unitNonce ++ beBytes 6 b.mac.toNat ++ beBytes 2 b.address)) b.signature = true

theorem State.assignSigned_iff : s.assignSigned b = true ↔ s.SignedAssign b := by
  rw [State.assignSigned, State.SignedAssign]
  cases s.key? .installer b.signer <;> simp

/-- The ASSIGN may be taken: unsigned on an unclaimed unit, signed on a claimed one. -/
def State.MayAssign : Prop := s.journal.claimed = false ∨ s.SignedAssign b

theorem State.not_mayAssign_iff : s.journal.claimed = true ∧ s.assignSigned b = false ↔ ¬s.MayAssign b := by
  rw [State.MayAssign, not_or, Bool.not_eq_false, ← State.assignSigned_iff, Bool.not_eq_true]

/-- A signed ASSIGN uses up the nonce. -/
def State.spendNonce : State := if s.journal.claimed then s.onTransport fun t => { t with nonceUsed := true } else s

theorem State.spendNonce_out : s.spendNonce.transport.out = s.transport.out := by
  rw [State.spendNonce]
  split <;> rfl

theorem State.spendNonce_journal : s.spendNonce.journal = s.journal := by
  rw [State.spendNonce]
  split <;> rfl

/-- The assignment that an ASSIGN asks for. -/
def State.assignment : PendingAssign :=
  { dst := b.src, address := b.address, nonce := b.nonce, signer := if s.journal.claimed then b.signer else [], from_ := s.transport.source }

variable {s b}

theorem State.assign_of_other (other : b.mac ≠ s.factoryMac) : s.assign b = s := if_pos other

theorem State.assign_of_unsigned (mine : b.mac = s.factoryMac) (unsigned : ¬s.MayAssign b) :
    s.assign b = (s.auditAssign b.signer b.address 0x0602).emit (.rollRefused b.src 0x0602 b.nonce) := by
  rw [State.assign, if_neg fun other => other mine]
  exact if_pos ((State.not_mayAssign_iff s b).2 unsigned)

theorem State.assign_of_may (mine : b.mac = s.factoryMac) (may : s.MayAssign b) :
    s.assign b =
      if b.address = 0 then s.spendNonce.takeAddress (s.assignment b)
      else if 4094 < b.address then s.spendNonce.emit (.rollRefused b.src 0x0111 b.nonce)
      else (s.spendNonce.onTransport fun t => { t with pendingAssign := some (s.assignment b) }).emit (.rollProbe b.address) := by
  rw [State.assign, if_neg fun other => other mine]
  exact if_neg fun unsigned => (State.not_mayAssign_iff s b).1 unsigned may

variable (s) in
/-- The audit entry of an ASSIGN: its action is the assignment, or the refusal. -/
theorem State.auditAssign_audits (signer : Bytes) (address status : Nat) :
    Audited s (s.auditAssign signer address status) (if signer.isEmpty then 0xFF else 1) (if status = 0 then 0 else 1)
      (if status = 0 then 0x0004 else 0x000D) status := (AuditedLately.of_audit s signer _).audited

variable (s) in
/-- The address taken stands in the journal, is audited and answered with ASSIGNED. -/
theorem State.takeAddress_takes (p : PendingAssign) :
    let t := s.takeAddress p
    t.journal.settings.unitAddr = p.address ∧ t.transport.pendingAssign = s.transport.pendingAssign ∧
      Emitted s t (.rollAssigned p.dst p.address p.nonce) ∧
      ∃ e ∈ t.journal.audit, s.journal.auditNext ≤ e.seq ∧ e.outcome = 0 ∧ e.action = 0x0004 := by
  obtain ⟨e, held, new, -, decides, acts, -⟩ := s.auditAssign_audits p.signer p.address 0
  exact ⟨rfl, rfl, rfl, e, held, new, decides, acts⟩

/-- A REPLY for the address that is being probed refuses the assignment. -/
theorem State.replyIn_of_probed {p : PendingAssign} (probed : s.transport.pendingAssign = some p) :
    s.replyIn p.address =
      (s.onTransport fun t => { t with pendingAssign := none, source := p.from_ }).emit (.rollRefused p.dst 0x010D p.nonce) := by
  rw [State.replyIn, probed]
  exact if_pos rfl

theorem State.replyIn_of_other {address : Nat} (other : ∀ p, s.transport.pendingAssign = some p → p.address ≠ address) :
    s.replyIn address = s := by
  rw [State.replyIn]
  split
  next p probed => exact if_neg (other p probed)
  next => rfl

theorem State.probeEnds_of_none (none : s.transport.pendingAssign = none) : s.probeEnds = s := by
  rw [State.probeEnds, none]

theorem State.probeEnds_of_probed {p : PendingAssign} (probed : s.transport.pendingAssign = some p) :
    s.probeEnds = (s.onTransport fun t => { t with pendingAssign := none, source := p.from_ }).takeAddress p := by
  rw [State.probeEnds, probed]

end Assignment

/-! ### The rows -/

section Rows

variable (s : State)

theorem execEnumerate_becomes (b : EnumerateBody) : CompletesWith (exec (.enumerate b) s) fun t =>
    (¬s.ChosenBy b → t = s) ∧
    (s.ChosenBy b → t.transport.out = s.transport.out ∧ ∃ d, d < replyWindow b ∧ t.transport.pendingReplies =
      s.transport.pendingReplies ++ [{ dst := b.src, nonce := b.nonce, due := s.nowNs / 1000 + d, from_ := s.transport.source }]) :=
  ⟨_, rfl, State.enumerate_of_not_chosen, State.enumerate_of_chosen⟩

theorem execRollCallBackoff_becomes : CompletesWith (exec .rollCallBackoff s) fun t =>
    (s.transport.pendingReplies = [] → t = s) ∧
    ∀ p, s.transport.pendingReplies = [p] → t.transport.pendingReplies = [] ∧ t.transport.nonceUsed = false ∧
      Emitted s t (.rollReply p.dst s.journal.settings.unitAddr s.journal.claimed p.nonce t.transport.unitNonce) := by
  refine ⟨_, rfl, State.backoffEnds_of_none, fun p one => ?_⟩
  rw [State.backoffEnds_of_one one]
  obtain ⟨fresh, none, replies⟩ :=
    State.rollReply_replies (s.onTransport fun t => { t with pendingReplies := [], source := p.from_ }) p.dst p.nonce
  exact ⟨none, fresh, replies⟩

theorem execProbe_becomes (src address : Nat) (nonce : Bytes) : CompletesWith (exec (.probe src address nonce) s) fun t =>
    let mine := address ≠ 0 ∧ address = s.journal.settings.unitAddr
    (¬mine → t = s) ∧
    (mine → t.transport.nonceUsed = false ∧
      Emitted s t (.rollReply src s.journal.settings.unitAddr s.journal.claimed nonce t.transport.unitNonce)) := by
  refine ⟨_, rfl, fun other => if_neg other, fun mine => ?_⟩
  rw [State.probed, if_pos mine]
  obtain ⟨fresh, -, replies⟩ := s.rollReply_replies src nonce
  exact ⟨fresh, replies⟩

theorem execAssign_becomes (b : AssignBody) : CompletesWith (exec (.assign b) s) fun t =>
    (b.mac ≠ s.factoryMac → t = s) ∧
    (b.mac = s.factoryMac → ¬s.MayAssign b → Emitted s t (.rollRefused b.src 0x0602 b.nonce) ∧ t.journal.settings = s.journal.settings ∧
      ∃ e ∈ t.journal.audit, s.journal.auditNext ≤ e.seq ∧ e.outcome = 1 ∧ e.action = 0x000D ∧ e.status = 0x0602) ∧
    (b.mac = s.factoryMac → s.MayAssign b → b.address = 0 → t.journal.settings.unitAddr = 0 ∧ Emitted s t (.rollAssigned b.src 0 b.nonce)) ∧
    (b.mac = s.factoryMac → s.MayAssign b → 4094 < b.address → Emitted s t (.rollRefused b.src 0x0111 b.nonce) ∧ t.journal = s.journal) ∧
    (b.mac = s.factoryMac → s.MayAssign b → 1 ≤ b.address → b.address ≤ 4094 → Emitted s t (.rollProbe b.address) ∧ t.journal = s.journal ∧
      ∃ p, t.transport.pendingAssign = some p ∧ p.dst = b.src ∧ p.address = b.address ∧ p.nonce = b.nonce) := by
  have out := s.spendNonce_out
  have journal := s.spendNonce_journal
  refine ⟨_, rfl, State.assign_of_other, fun mine unsigned => ?unsigned, fun mine may none => ?none, fun mine may above => ?above,
    fun mine may low high => ?probed⟩
  case unsigned =>
    rw [State.assign_of_unsigned mine unsigned]
    obtain ⟨e, held, new, -, decides, acts, tells⟩ := s.auditAssign_audits b.signer b.address 0x0602
    exact ⟨rfl, rfl, e, held, new, decides, acts, tells⟩
  case none =>
    rw [State.assign_of_may mine may, if_pos none]
    obtain ⟨takes, -, assigned, -⟩ := s.spendNonce.takeAddress_takes (s.assignment b)
    have answers : Emitted s _ (.rollAssigned b.src b.address b.nonce) := assigned.trans (congrArg (· ++ _) out)
    exact ⟨takes.trans none, by rwa [none] at answers⟩
  case above =>
    rw [State.assign_of_may mine may, if_neg (by omega), if_pos above]
    exact ⟨congrArg (· ++ _) out, journal⟩
  case probed =>
    rw [State.assign_of_may mine may, if_neg (by omega), if_neg (by omega)]
    exact ⟨congrArg (· ++ _) out, journal, s.assignment b, rfl, rfl, rfl, rfl⟩

theorem execReply_becomes (address : Nat) : CompletesWith (exec (.reply address) s) fun t => OnlyTouches [.transport] s t ∧
    ((∀ p, s.transport.pendingAssign = some p → p.address ≠ address) → t = s) ∧
    ∀ p, s.transport.pendingAssign = some p → p.address = address → t.transport.pendingAssign = none ∧
      Emitted s t (.rollRefused p.dst 0x010D p.nonce) := by
  refine ⟨s.replyIn address, rfl, (exec_kept (c := .reply address) rfl).frame, State.replyIn_of_other, ?_⟩
  rintro p probed rfl
  rw [State.replyIn_of_probed probed]
  exact ⟨rfl, rfl⟩

theorem execProbeTimeout_becomes : CompletesWith (exec .probeTimeout s) fun t => OnlyTouches [.transport, .settings, .audit] s t ∧
    (s.transport.pendingAssign = none → t = s) ∧
    ∀ p, s.transport.pendingAssign = some p → t.transport.pendingAssign = none ∧ t.journal.settings.unitAddr = p.address ∧
      Emitted s t (.rollAssigned p.dst p.address p.nonce) ∧
      ∃ e ∈ t.journal.audit, s.journal.auditNext ≤ e.seq ∧ e.outcome = 0 ∧ e.action = 0x0004 := by
  refine ⟨s.probeEnds, rfl, (exec_kept (c := .probeTimeout) rfl).frame, State.probeEnds_of_none, fun p probed => ?_⟩
  rw [State.probeEnds_of_probed probed]
  obtain ⟨takes, none, assigned, audited⟩ :=
    State.takeAddress_takes (s.onTransport fun t => { t with pendingAssign := none, source := p.from_ }) p
  exact ⟨none, takes, assigned, audited⟩

end Rows

/-- Settles O39, row by row. That an ASSIGN replaces one whose probe is under way, and the role of an unsigned one in the audit log, are
log entry 59. -/
theorem rollCall : Obligations.RollCall :=
  ⟨execEnumerate_becomes, execRollCallBackoff_becomes, execProbe_becomes, execAssign_becomes, execReply_becomes, execProbeTimeout_becomes⟩

end Sys2Proof.Machine

/-! REFUTATION of O38: a fatal alarm outlives raw mode until it is cleared (R501; log entry 96), so a maker's session that ends in raw mode under an
alarm leaves the entropy block in the alarm and not at start-up. The clauses on the ends of a session do not leave that case out. -/

namespace Sys2Proof.Machine

open Sys2Proof Sys2Proof.Safety

section RawMode

variable {s : State} {id : Nat} {x : Session}

/-- Raw mode begins over whatever the block was doing, and an alarm stands beside it. -/
theorem State.rawMode_on_entropy (s : State) (x : Session) :
    (s.rawMode x true).entropy = { s.entropy with state := .raw, ready := false, rawSess := x.id, rngWaiting := [] } := by
  have reads (t : State) : (t.refuseReads 0x0702).entropy = { t.entropy with rngWaiting := [] } :=
    (Kept.foldl (fun _ _ kept => State.replyOne_kept (A := [.transport]) _ _ _ _ _ kept (by decide)) _ (Kept.refl _)).frame.same .entropy (by decide)
  have opens (t : State) : t.refuseOpens.entropy = t.entropy :=
    (State.refuseOpens_kept (Kept.refl t) (List.Subset.refl _)).frame.same .entropy (by decide)
  rw [State.rawMode, if_pos rfl, opens, reads]
  rfl

theorem Entropy.leaveRaw_of_alarmed {e : Entropy} (alarmed : e.alarmed = true) : e.leaveRaw.state = .fatal := by
  rw [Entropy.leaveRaw, if_pos alarmed]

/-- A maker's session in raw mode that ends under an alarm leaves the block in the alarm. -/
theorem State.dropSession_of_alarmed (session : s.session? id = some x) (maker : x.role = .maker) (raw : s.entropy.state = .raw)
    (own : s.entropy.rawSess = id) (alarmed : s.entropy.alarmed = true) : (s.dropSession id).entropy.state = .fatal := by
  have reroutes (t : State) : (t.reroute x.fpr).entropy = t.entropy :=
    (State.reroute_kept x.fpr (Kept.refl t) (List.Subset.refl _)).frame.same .entropy (by decide)
  rw [State.dropSession, session]
  dsimp only
  rw [if_neg (show x.role ≠ .peer by rw [maker]; decide), reroutes, if_pos ⟨raw, own, maker⟩]
  exact Entropy.leaveRaw_of_alarmed alarmed

end RawMode

/-- A maker's open session. -/
def makerSession : Session := { id := 1, role := .maker, fpr := [], peerAddr := 0, opened := true }

/-- An S6 under a fatal alarm, on which that session has turned raw mode on. -/
def rawUnderAlarm : State :=
  { State.reset with
    entropy := { state := .raw, alarmed := true, rawSess := 1 }, transport := { sessions := [makerSession] } }

/-- RAW_MODE of that session makes such a block of one in the alarm. -/
theorem rawUnderAlarm_entropy :
    ({ rawUnderAlarm with entropy := { state := .fatal, alarmed := true } }.rawMode makerSession true).entropy = rawUnderAlarm.entropy :=
  State.rawMode_on_entropy _ _

/-- Refutes O38, in its clause on IDLE_TIMEOUT: raw mode ends with its maker's session, but the block is then in the fatal alarm and not at start-up.
The clauses on acknowledgements and on retransmission are not touched. -/
theorem not_sessionsServed : ¬ Obligations.SessionsServed := by
  rintro ⟨-, -, -, -, idle, -⟩
  obtain ⟨t, run, -, -, -, -, leaves⟩ := idle rawUnderAlarm 1 makerSession rfl rfl
  obtain ⟨startUp, -⟩ := leaves rfl rfl rfl
  have drops : rawUnderAlarm.dropSession 1 = t := Host.Outcome.next.inj run
  have fatal := State.dropSession_of_alarmed (s := rawUnderAlarm) (id := 1) (x := makerSession) rfl rfl rfl rfl rfl
  rw [drops, startUp] at fatal
  exact absurd fatal (by decide)

end Sys2Proof.Machine

/-! PROOF of O51, its parts: how an access is answered, what an entry comes to by the first case that applies (R556), and what a read takes from
its session. -/

namespace Sys2Proof.Machine

open Sys2Proof Sys2Proof.Safety

/-! ### Answers (R412) -/

section Answers

variable {s : State} {sess : Nat} {x : Session} {addr data : Word}

theorem State.id_of_session? (held : s.session? sess = some x) : x.id = sess :=
  beq_iff_eq.1 (List.find?_some (p := fun y : Session => y.id == sess) held)

theorem answers_replyOne (stands : (s.session? sess).isSome) (addr : Word) (write : Bool) (data : Word) (status : Nat) :
    Answers (s.replyOne sess addr write data status) sess addr write data (BitVec.ofNat 16 status) := delivers_send stands _

/-- An access answered at once changes packets alone. -/
theorem popInbox_replyOne_becomes (held : s.session? sess = some x) (addr : Word) (write : Bool) (data : Word) (status : Nat) :
    let t := (s.popInbox sess).replyOne sess addr write data status
    OnlyTouches [.transport] s t ∧ Answers t sess addr write data (BitVec.ofNat 16 status) := by
  have stands : ((s.popInbox sess).session? sess).isSome := State.popInbox_isSome sess sess (by rw [held]; rfl)
  exact ⟨(State.replyOne_kept _ _ _ _ _ (State.popInbox_kept sess (Kept.refl s) (by decide)) (by decide)).frame,
    answers_replyOne stands addr write data status⟩

/-- The outcome is the answer 0x0108 to a write, and nothing else. -/
def Denied (s : State) (sess : Nat) (addr data : Word) (o : Host.Outcome State Fault Refusal) : Prop :=
  CompletesWith o fun t => OnlyTouches [.transport] s t ∧ Answers t sess addr true data 0x0108

theorem denied_popInbox (held : s.session? sess = some x) : Denied s sess addr data (.next ((s.popInbox sess).replyOne sess addr true data 0x0108)) :=
  ⟨_, rfl, popInbox_replyOne_becomes held addr true data 0x0108⟩

variable (held : s.session? sess = some x) (opened : x.opened = true)
include held opened

/-! ### Registers that stand alone as rows (R554) -/

theorem denied_ownWrite {may : Session → Bool} (denies : may x = false) (f : State → Session → State) :
    Denied s sess addr data (.next (s.ownWrite sess addr data may f)) := by
  rw [State.ownWrite, State.openSession?_of_session? held opened]
  dsimp only
  rw [denies, if_neg nofun]
  exact denied_popInbox held

theorem denied_cfgOp {code action : Nat} (denies : x.consents action = false) (go : State → Session → State) :
    Denied s sess 0x1150 (word code) (.next (s.cfgOp sess code action go)) := by
  rw [State.cfgOp, State.openSession?_of_session? held opened]
  dsimp only
  rw [denies, Bool.not_false, if_pos rfl]
  exact denied_popInbox held

theorem denied_scanArm (denies : x.consents 1 = false) : Denied s sess 0xA108 8 (exec (.scanArm sess) s) := by
  refine (congrArg (Denied s sess 0xA108 8) (congrArg Host.Outcome.next ?_)).mpr (denied_popInbox held)
  rw [State.scanArm, State.openSession?_of_session? held opened]
  dsimp only
  rw [denies, Bool.not_false, if_pos rfl]

end Answers

theorem Session.consents_of_not {x : Session} {n : Nat} (not : ¬(x.role = .maker ∧ x.actions.getLsbD n = true)) : x.consents n = false := by
  simpa [Session.consents] using not

theorem Session.reads_eq_false_iff {x : Session} : x.reads = false ↔ x.role = .peer ∨ x.role = .claim := by
  rw [Session.reads, Bool.and_eq_false_iff, bne_eq_false_iff_eq, bne_eq_false_iff_eq]

end Sys2Proof.Machine

namespace Sys2Proof

open Machine

/-! ### What an entry names, and who may make it (R554, R556) -/

variable {e : RegEntry} {x : Session} {g : RegPage}

def RegEntry.offset (e : RegEntry) : Nat := e.addr.toNat % 4096

/-- The data of an answer: what was to be written; a read that fails has none. -/
def RegEntry.back (e : RegEntry) : Word := if e.write then e.data else 0

/-- The entry of a session with registers names one of page `g`. -/
structure RegEntry.Names (e : RegEntry) (x : Session) (g : RegPage) : Prop where
  host : x.role ≠ .peer ∧ x.role ≠ .claim
  aligned : e.addr.toNat % 4 = 0
  page : regPage (e.addr.toNat / 4096) = some g

/-- The session may make the access: a write of a register with a field that may be written takes a right. -/
def RegEntry.Allowed (e : RegEntry) (x : Session) (g : RegPage) : Prop :=
  e.write = true → regWritable g e.offset = true → x.may g e.offset e.data = true

theorem RegEntry.Allowed.passes (allowed : e.Allowed x g) : ¬(e.write && regWritable g e.offset && !x.may g e.offset e.data) = true := by
  simpa [RegEntry.Allowed, and_assoc] using allowed

end Sys2Proof

namespace Sys2Proof.Machine

open Sys2Proof Sys2Proof.Safety

/-! ### One entry, by the first case that applies (R556) -/

section Entries

variable {s : State} {x : Session} {e : RegEntry} {g : RegPage}

theorem State.regEntry_of_foreign (foreign : x.role = .peer ∨ x.role = .claim) :
    s.regEntry x e = some { state := s, status := 0x0108, data := e.back } := by
  refine if_pos ?_
  simpa using foreign

theorem State.regEntry_of_unmapped (host : x.role ≠ .peer ∧ x.role ≠ .claim)
    (unmapped : e.addr.toNat % 4 ≠ 0 ∨ regPage (e.addr.toNat / 4096) = none) :
    s.regEntry x e = some { state := s, status := 0x0109, data := e.back } := by
  rw [State.regEntry]
  rw [if_neg (by simpa using host)]
  by_cases aligned : e.addr.toNat % 4 = 0
  · rw [if_neg fun other => other aligned, unmapped.resolve_left fun other => other aligned]
    rfl
  · exact if_pos aligned

theorem State.regEntry_of_names (names : e.Names x g) : s.regEntry x e =
    if e.write && regWritable g e.offset && !x.may g e.offset e.data then some { state := s, status := 0x0108, data := e.back }
    else if s.unitGone g && !isRetry s g e.offset e then
      if !e.write && ownCopy e.offset then some { state := s, data := s.liveWord x g e.offset }
      else some { state := s, status := 0x0002, data := e.back }
    else if s.unitGone g then some { state := (s.auditWrite x e.addr e.data).writeHeader g e.offset e.data, data := e.data }
    else s.reachReg x g e.offset e := by
  obtain ⟨host, aligned, page⟩ := names
  rw [State.regEntry]
  rw [if_neg (by simpa using host), if_neg fun other => other aligned, page]
  rfl

theorem State.regEntry_of_denied (names : e.Names x g) (denied : ¬e.Allowed x g) :
    s.regEntry x e = some { state := s, status := 0x0108, data := e.back } := by
  rw [State.regEntry_of_names names]
  refine if_pos ?_
  simpa [RegEntry.Allowed, and_assoc] using denied

/-- A write for a unit that is gone, other than one of RETRY, reaches nothing. -/
theorem State.regEntry_of_gone (names : e.Names x g) (allowed : e.Allowed x g) (write : e.write = true) (gone : s.unitGone g = true)
    (other : e.offset ≠ 0x00C) : s.regEntry x e = some { state := s, status := 0x0002, data := e.back } := by
  have noRetry : isRetry s g e.offset e = false := by simp [isRetry, other]
  rw [State.regEntry_of_names names, if_neg allowed.passes, gone, noRetry, if_pos rfl, write]
  rfl

theorem State.regEntry_of_standing (names : e.Names x g) (allowed : e.Allowed x g) (stands : s.unitGone g = false) :
    s.regEntry x e = s.reachReg x g e.offset e := by
  rw [State.regEntry_of_names names, if_neg allowed.passes, stands]
  rfl

theorem State.reachReg_of_readOnly {off : Nat} (write : e.write = true) (readOnly : regWritable g off = false) :
    s.reachReg x g off e = some { state := s.wakePage g, data := e.data } := by
  rw [State.reachReg, write, readOnly]
  rfl

theorem State.reachReg_of_write {off : Nat} (write : e.write = true) (writable : regWritable g off = true) :
    s.reachReg x g off e = some { state := ((s.wakePage g).writeReg x g off e.addr e.data).1,
                                  status := ((s.wakePage g).writeReg x g off e.addr e.data).2, data := e.data } := by
  rw [State.reachReg, write, writable]
  rfl

theorem State.reachReg_of_read {off : Nat} (read : e.write = false) (plain : ¬(g = .hub 0xB ∧ (off = 0x108 ∨ off = 0x10C))) :
    s.reachReg x g off e = some { state := ((s.wakePage g).readReg x g off).2, data := ((s.wakePage g).readReg x g off).1 } := by
  rw [State.reachReg, read]
  exact (if_neg nofun).trans (if_neg plain)

end Entries

/-! ### One access -/

section Access

variable {s : State} {sess : Nat} {x : Session} {e : RegEntry} {r : EntryDone}

/-- The access of an open session is answered with what its entry comes to. -/
theorem State.oneEntry_of_done (held : s.session? sess = some x) (opened : x.opened = true) (done : (s.popInbox sess).regEntry x e = some r) :
    s.oneEntry sess e = r.state.replyOne sess e.addr e.write r.data r.status := by
  rw [State.oneEntry, State.openSession?_of_session? held opened]
  dsimp only
  rw [done]

/-- An entry that changes nothing leaves its answer alone. -/
theorem State.oneEntry_of_unchanged (held : s.session? sess = some x) (opened : x.opened = true) {status : Nat} {data : Word}
    (done : (s.popInbox sess).regEntry x e = some { state := s.popInbox sess, status := status, data := data }) :
    OnlyTouches [.transport] s (s.oneEntry sess e) ∧ Answers (s.oneEntry sess e) sess e.addr e.write data (BitVec.ofNat 16 status) := by
  rw [State.oneEntry_of_done held opened done]
  exact popInbox_replyOne_becomes held e.addr e.write data status

/-- One that keeps the session is answered in it. -/
theorem State.oneEntry_answers (held : s.session? sess = some x) (opened : x.opened = true) (done : (s.popInbox sess).regEntry x e = some r)
    (same : r.state.transport = (s.popInbox sess).transport) :
    Answers (s.oneEntry sess e) sess e.addr e.write r.data (BitVec.ofNat 16 r.status) := by
  rw [State.oneEntry_of_done held opened done]
  refine answers_replyOne ?_ e.addr e.write r.data r.status
  rw [State.session?, same]
  exact State.popInbox_isSome sess sess (by rw [held]; rfl)

end Access

/-! ### A packet taken from its session changes no register -/

theorem any_modFirst {α : Type} {p q : α → Bool} {f : α → α} (keeps : ∀ a, q (f a) = q a) (l : List α) : (modFirst p f l).any q = l.any q := by
  induction l with
  | nil => rfl
  | cons a l ih =>
    rw [modFirst]
    split <;> simp [keeps, ih]

section Popped
variable (s : State) (id : Nat)

theorem State.wakePage_popInbox (g : RegPage) : (s.popInbox id).wakePage g = (s.wakePage g).popInbox id := by
  cases g with
  | hub p =>
    rw [State.wakePage, State.wakePage, State.wakeHub, State.wakeHub, apply_ite (State.popInbox · id)]
    rfl
  | die d =>
    rw [State.wakePage, State.wakePage, State.wakeSpine, State.wakeSpine, apply_ite (State.popInbox · id)]
    rfl
  | cluster k =>
    rw [State.wakePage, State.wakePage, State.wakeHalf, State.wakeHalf, apply_ite (State.popInbox · id)]
    rfl
  | stack t =>
    rw [State.wakePage, State.wakePage, State.wakeStack, State.wakeStack, apply_ite (State.popInbox · id)]
    rfl

theorem State.unitGone_popInbox (g : RegPage) : (s.popInbox id).unitGone g = s.unitGone g := by
  cases g <;> rfl

/-- The selector copies of a session stand. -/
theorem State.selOf_popInbox (x : Session) : (s.popInbox id).selOf x = s.selOf x := by
  rw [State.selOf, State.selOf, State.popInbox, State.session?_modSession s id x.id (f := fun x => { x with inbox := x.inbox.tail }) fun _ => rfl]
  split
  · next same => rw [same, Option.map_map]; rfl
  · rfl

variable (x : Session) (off : Nat)

theorem State.readMgmt_popInbox : (s.popInbox id).readMgmt x off = s.readMgmt x off := by
  rw [State.readMgmt, State.readMgmt, State.selOf_popInbox]
  rfl

theorem State.readTransport_popInbox : (s.popInbox id).readTransport off = s.readTransport off := by
  unfold State.readTransport
  split
  case h_2 => exact length_modFirst _ _ _
  all_goals rfl

theorem State.readJobs_popInbox : (s.popInbox id).readJobs x off = s.readJobs x off := by
  rw [State.readJobs, State.readJobs, State.selOf_popInbox]
  rfl

theorem State.readSecurity_popInbox : (s.popInbox id).readSecurity x off = s.readSecurity x off := by
  have makers : ((s.popInbox id).transport.sessions.any fun y => y.opened && y.role == .maker) =
      s.transport.sessions.any fun y => y.opened && y.role == .maker := 
    any_modFirst (f := fun y : Session => { y with inbox := y.inbox.tail }) (fun _ => rfl) _
  rw [State.readSecurity, State.readSecurity, State.selOf_popInbox, makers]
  rfl

theorem State.readAudit_popInbox : (s.popInbox id).readAudit x off = s.readAudit x off := by
  rw [State.readAudit, State.readAudit, State.selOf_popInbox]
  rfl

/-- The pages that read nothing of a session read alike at once. -/
theorem State.readHub_popInbox (p : Nat) : (s.popInbox id).readHub x p off = s.readHub x p off := by
  unfold State.readHub
  split
  case h_2 => exact s.readMgmt_popInbox id x off
  case h_5 => exact s.readTransport_popInbox id off
  case h_7 => exact s.readJobs_popInbox id x off
  case h_11 => exact s.readSecurity_popInbox id x off
  case h_16 => exact s.readAudit_popInbox id x off
  all_goals rfl

/-- What a register holds does not turn on the packets that a session keeps for the upper layer. -/
theorem State.liveWord_popInbox (g : RegPage) : (s.popInbox id).liveWord x g off = s.liveWord x g off := by
  unfold State.liveWord
  refine congrArg word (congrArg₂ (ite (off < 0x100)) ?_ ?_)
  · cases g <;> rfl
  · cases g with
    | hub p => exact s.readHub_popInbox id x off p
    | die d => rfl
    | cluster k => rfl
    | stack t => rfl

end Popped

end Sys2Proof.Machine

/-! PROOF of O51, its theorem: the registers that stand alone as rows, writes, reads and batches. -/

namespace Sys2Proof.Machine

open Sys2Proof Sys2Proof.Safety

section Accesses

variable {s : State} {sess : Nat} {addr data : Word} {x : Session} {g : RegPage}

theorem State.wakePage_touches (s : State) (g : RegPage) : OnlyTouches [.halves, .dies, .tielux, .clocks] s (s.wakePage g) :=
  (State.wakePage_kept g (Kept.refl s) (List.Subset.refl _)).frame

/-! ### Writes (R552, R556) -/

/-- The one entry of a REGISTER_WRITE. -/
def writeOf (addr data : Word) : RegEntry := { addr := addr, write := true, data := data }

variable (held : s.session? sess = some x) (opened : x.opened = true)
include held opened

/-- A write that meets no field takes no effect but the wake of its page. -/
theorem State.oneEntry_of_readOnly (names : (writeOf addr data).Names x g) (readOnly : regWritable g (addr.toNat % 4096) = false)
    (stands : s.unitGone g = false) :
    let t := s.oneEntry sess (writeOf addr data)
    Answers t sess addr true data 0 ∧ t.jobs = s.jobs ∧ t.mem = s.mem ∧ t.journal.settings = s.journal.settings := by
  have woken := (s.popInbox sess).wakePage_touches g
  have done := (State.regEntry_of_standing names (fun _ writable => absurd (readOnly.symm.trans writable) nofun)
    ((s.unitGone_popInbox sess g).trans stands)).trans (State.reachReg_of_readOnly rfl readOnly)
  refine ⟨State.oneEntry_answers held opened done (woken.same .transport (by decide)), ?_⟩
  rw [State.oneEntry_of_done held opened done]
  exact ⟨woken.same .jobs (by decide), woken.same .mem (by decide), (woken.same .settings (by decide)).1⟩

/-- An installer's write of a header register is audited, and changes the page's header. -/
theorem State.oneEntry_of_header (names : (writeOf addr data).Names x g) (installer : x.role = .installer) (stands : s.unitGone g = false)
    {f : PageHeader → PageHeader} (writable : regWritable g (addr.toNat % 4096) = true) (may : x.may g (addr.toNat % 4096) data = true)
    (writes : ∀ u : State, u.writeReg x g (addr.toNat % 4096) addr data = ((u.auditWrite x addr data).modHeader g f, 0)) :
    let t := s.oneEntry sess (writeOf addr data)
    Answers t sess addr true data 0 ∧ Audited s t 1 0 0x0005 0 ∧ mget {} t.headers (pageIndex g) = f (mget {} s.headers (pageIndex g)) := by
  have woken := (s.popInbox sess).wakePage_touches g
  have done : (s.popInbox sess).regEntry x (writeOf addr data) =
      some { state := (((s.popInbox sess).wakePage g).auditWrite x addr data).modHeader g f, data := data } :=
    ((State.regEntry_of_standing names (fun _ _ => may) ((s.unitGone_popInbox sess g).trans stands)).trans
      (State.reachReg_of_write rfl writable)).trans
        (congrArg (fun r : State × Nat => some ({ state := r.1, status := r.2, data := data } : EntryDone)) (writes _))
  refine ⟨State.oneEntry_answers held opened done (woken.same .transport (by decide)), ?_⟩
  rw [State.oneEntry_of_done held opened done]
  have number := congrArg (·.2.1) (woken.same .audit (by decide)).1
  obtain ⟨e, mem, new, role, rest⟩ := (AuditedLately.of_audit (role := x.role.auditCode) (outcome := 0) (action := 0x0005) (status := 0)
    ((s.popInbox sess).wakePage g) x.fpr (beBytes 4 addr.toNat ++ beBytes 4 data.toNat)).audited
  rw [installer] at role
  refine ⟨⟨e, mem, number.symm.le.trans new, role, rest⟩, ?_⟩
  exact (mget_mmod_self _ _ _ f).trans (congrArg (fun h => f (mget {} h (pageIndex g))) (woken.same .headers (by decide)))

/-! ### Reads (R556, R557) -/

/-- The one entry of a HIGH_WORD_READ. -/
def readOf (addr : Word) : RegEntry := { addr := addr, write := false, data := 0 }

/-- A word latched among a session's low words. -/
def Session.latch (y : Session) (k : Nat) (v : Word) : Session := { y with sel := { y.sel with low := mset 0 y.sel.low k v } }

omit held opened in
theorem State.session?_latchAll {id k : Nat} (v : Nat → Word) (los : List Nat) {u : State} {y : Session} (there : u.session? id = some y) :
    (los.foldl (fun t o => t.modSession id (·.latch (k + o) (v o))) u).session? id = some (los.foldl (fun z o => z.latch (k + o) (v o)) y) := by
  induction los generalizing u y with
  | nil => exact there
  | cons a los ih => exact ih (State.modSession_found (f := (·.latch (k + a) (v a))) there fun _ => rfl)

omit held opened in
theorem Session.low_latchAll {k o : Nat} (v : Nat → Word) (los : List Nat) (y : Session) :
    mget 0 (los.foldl (fun z o => z.latch (k + o) (v o)) y).sel.low (k + o) = if o ∈ los then v o else mget 0 y.sel.low (k + o) := by
  induction los generalizing y with
  | nil => rw [if_neg List.not_mem_nil]; rfl
  | cons a los ih =>
    rw [List.foldl_cons, ih, Session.latch, mget_mset]
    by_cases same : o = a <;> simp [same]

omit held opened in
/-- The low words of a pair are latched in the session as they stand when its high word is read. -/
theorem State.session?_latchLows {u : State} {y : Session} (there : u.session? x.id = some y) (off : Nat) :
    ∃ z, (u.latchLows x g off).session? x.id = some z ∧ ∀ o ∈ lowsOf g off, mget 0 z.sel.low (4096 * pageIndex g + o) = u.liveWord x g o :=
  ⟨_, State.session?_latchAll (k := 4096 * pageIndex g) (u.liveWord x g) (lowsOf g off) there,
    fun _ mem => (Session.low_latchAll _ _ y).trans (if_pos mem)⟩

/-- A read of a plain register: its word, the wake of its page, and the low words of its pair latched. -/
theorem State.oneEntry_of_read (names : (readOf addr).Names x g) (stands : s.unitGone g = false)
    (plain : ¬(g = .hub 0xB ∧ (addr.toNat % 4096 = 0x108 ∨ addr.toNat % 4096 = 0x10C))) (high : isLow g (addr.toNat % 4096) = false) :
    let t := s.oneEntry sess (readOf addr)
    OnlyTouches [.halves, .dies, .tielux, .clocks, .transport] s t ∧
      Answers t sess addr false ((s.wakePage g).liveWord x g (addr.toNat % 4096)) 0 ∧
      ∀ o ∈ lowsOf g (addr.toNat % 4096), ∃ y, t.session? sess = some y ∧
        mget 0 y.sel.low (4096 * pageIndex g + o) = (s.wakePage g).liveWord x g o := by
  obtain rfl := State.id_of_session? held
  have reads (u : State) : u.readReg x g (addr.toNat % 4096) = (u.liveWord x g (addr.toNat % 4096), u.latchLows x g (addr.toNat % 4096)) :=
    if_neg (by rw [high]; nofun)
  have done : (s.popInbox x.id).regEntry x (readOf addr) = some
      { state := ((s.wakePage g).popInbox x.id).latchLows x g (addr.toNat % 4096), data := (s.wakePage g).liveWord x g (addr.toNat % 4096) } := by
    refine ((State.regEntry_of_standing names nofun ((s.unitGone_popInbox x.id g).trans stands)).trans
      (State.reachReg_of_read (off := addr.toNat % 4096) rfl plain)).trans ?_
    rw [s.wakePage_popInbox x.id g, reads, State.liveWord_popInbox]
  have woken : (s.wakePage g).session? x.id = some x := by
    rw [State.session?, (s.wakePage_touches g).same .transport (by decide)]
    exact held
  obtain ⟨y, there⟩ := Option.isSome_iff_exists.1 (State.popInbox_isSome x.id x.id (by rw [woken]; rfl))
  obtain ⟨z, latched, lows⟩ := State.session?_latchLows (g := g) there (addr.toNat % 4096)
  dsimp only
  rw [State.oneEntry_of_done held opened done]
  have sent : ∃ b, (State.replyOne _ x.id addr false ((s.wakePage g).liveWord x g (addr.toNat % 4096)) 0).session? x.id = some (z.send b) :=
    ⟨_, by rw [State.replyOne, State.session?_send, if_pos rfl, latched, Option.map_some]⟩
  obtain ⟨b, sent⟩ := sent
  refine ⟨?_, answers_replyOne (by rw [latched]; rfl) addr false _ 0,
    fun o mem => ⟨z.send b, sent, (lows o mem).trans (State.liveWord_popInbox _ _ _ _ _)⟩⟩
  exact (State.replyOne_kept _ _ _ _ _ (State.latchLows_kept x g _ (State.popInbox_kept x.id (State.wakePage_kept g (Kept.refl s) (by decide))
    (by decide)) (by decide)) (by decide)).frame

end Accesses

end Sys2Proof.Machine

namespace Sys2Proof

/-- The entry reads RNG_DATA, the one register whose read may stall (R504). -/
def RegEntry.readsRandom (e : RegEntry) : Prop := e.write = false ∧ e.addr = 0xB108

end Sys2Proof

namespace Sys2Proof.Machine

open Sys2Proof Sys2Proof.Safety

/-! ### Batches (R412, R504, R558) -/

section Batches

variable {s : State} {x : Session} {e : RegEntry} {g : RegPage}

theorem regPage_eq_hub {i p : Nat} (page : regPage i = some (.hub p)) : i = p := by
  by_cases hub : i < 0x10
  · rw [regPage, if_pos hub] at page
    exact RegPage.hub.inj (Option.some.inj page)
  · rw [regPage, if_neg hub] at page
    split_ifs at page <;> exact nomatch Option.some.inj page

theorem State.readStream_isSome {off : Nat} (other : off ≠ 0x108) : (s.readStream off).isSome = true := by
  rw [State.readStream, if_neg other]
  split <;> rfl

theorem State.reachReg_isSome (plain : ¬e.readsRandom) (page : regPage (e.addr.toNat / 4096) = some g) : (s.reachReg x g e.offset e).isSome = true := by
  rw [State.reachReg]
  split
  · split <;> rfl
  · next read =>
    split
    · next stream =>
      refine State.readStream_isSome fun random => plain ⟨by simpa using read, ?_⟩
      have at_ := regPage_eq_hub (stream.1 ▸ page)
      rw [RegEntry.offset] at random
      bv_omega
    · rfl

/-- An entry stalls only where it reads RNG_DATA. -/
theorem State.regEntry_isSome (plain : ¬e.readsRandom) : (s.regEntry x e).isSome = true := by
  by_cases host : x.role ≠ .peer ∧ x.role ≠ .claim
  swap
  · rw [State.regEntry_of_foreign (by tauto)]
    rfl
  by_cases aligned : e.addr.toNat % 4 = 0
  swap
  · rw [State.regEntry_of_unmapped host (.inl aligned)]
    rfl
  cases page : regPage (e.addr.toNat / 4096) with
  | none =>
    rw [State.regEntry_of_unmapped host (.inr page)]
    rfl
  | some g =>
    rw [State.regEntry_of_names ⟨host, aligned, page⟩]
    split
    · rfl
    split
    · split <;> rfl
    split
    · rfl
    · exact State.reachReg_isSome plain page

/-- A batch none of whose entries stalls is answered entry by entry, in order. -/
theorem State.regEntries_of_plain {es : List RegEntry} (plain : ∀ e ∈ es, ¬e.readsRandom) (s : State) :
    ∃ t l, s.regEntries x es = some (t, l) ∧ l.map (fun p => (p.1.addr, p.1.write)) = es.map fun e => (e.addr, e.write) := by
  induction es generalizing s with
  | nil => exact ⟨s, [], rfl, rfl⟩
  | cons e es ih =>
    obtain ⟨r, done⟩ := Option.isSome_iff_exists.1 (State.regEntry_isSome (s := s) (x := x) (plain e List.mem_cons_self))
    obtain ⟨t, l, rest, answered⟩ := ih (fun e mem => plain e (List.mem_cons_of_mem _ mem)) r.state
    refine ⟨t, ({ e with data := r.data }, BitVec.ofNat 16 r.status) :: l, ?_, ?_⟩
    · rw [State.regEntries, done]
      dsimp only
      rw [rest]
    · rw [List.map_cons, List.map_cons, answered]

theorem State.regBatch_of_long {tag : Nat} {es : List RegEntry} (long : 128 < es.length) (held : (s.session? x.id).isSome) :
    OnlyTouches [.transport] s (s.regBatch x tag es) ∧ Delivers (s.regBatch x tag es) x.id (.regReply tag 0x0102 []) := by
  have refused : s.regBatch x tag es = (s.popInbox x.id).send x.id (.regReply tag 0x0102 []) := if_pos long
  rw [refused]
  exact ⟨(State.send_kept _ _ (State.popInbox_kept x.id (Kept.refl s) (by decide)) (by decide)).frame,
    delivers_send (State.popInbox_isSome x.id x.id held) _⟩

/-- A packet sent stands in its session where that session is still there. -/
theorem delivers_of_mem {t : State} {id : Nat} {b : TxBody} (stands : ∃ y ∈ (t.send id b).transport.sessions, y.id = id) :
    Delivers (t.send id b) id b := by
  refine delivers_send ?_ b
  have found : ((t.send id b).session? id).isSome = true := by
    obtain ⟨y, mem, own⟩ := stands
    exact List.find?_isSome.2 ⟨y, mem, beq_iff_eq.2 own⟩
  rwa [State.session?_send, if_pos rfl, Option.isSome_map] at found

theorem State.regBatch_of_plain {tag : Nat} {es : List RegEntry} (short : es.length ≤ 128) (plain : ∀ e ∈ es, ¬e.readsRandom)
    (stands : ∃ y ∈ (s.regBatch x tag es).transport.sessions, y.id = x.id) :
    ∃ l, Delivers (s.regBatch x tag es) x.id (.regReply tag 0 l) ∧
      l.map (fun p => (p.1.addr, p.1.write)) = es.map fun e => (e.addr, e.write) := by
  obtain ⟨t, l, done, answered⟩ := State.regEntries_of_plain (x := x) plain (s.popInbox x.id)
  have answer : s.regBatch x tag es = t.send x.id (.regReply tag 0 l) := by
    rw [State.regBatch, if_neg (Nat.not_lt.2 short), done]
  rw [answer] at stands ⊢
  exact ⟨l, delivers_of_mem stands, answered⟩

theorem execRegBatch_becomes {sess : Nat} (held : s.session? sess = some x) (opened : x.opened = true) (tag : Nat) (es : List RegEntry) :
    CompletesWith (exec (.regBatch sess tag es) s) fun t =>
      (128 < es.length → OnlyTouches [.transport] s t ∧ Delivers t sess (.regReply tag 0x0102 [])) ∧
      (es.length ≤ 128 → (∀ e ∈ es, e.write = false → e.addr ≠ 0xB108) → (∃ y ∈ t.transport.sessions, y.id = sess) →
        ∃ l, Delivers t sess (.regReply tag 0 l) ∧ l.map (fun p => (p.1.addr, p.1.write)) = es.map fun e => (e.addr, e.write)) := by
  obtain rfl := State.id_of_session? held
  have run : exec (.regBatch x.id tag es) s = .next (s.regBatch x tag es) := by
    refine congrArg Host.Outcome.next ?_
    rw [State.openSession?_of_session? held opened]
  refine ⟨_, run, fun long => State.regBatch_of_long long (by rw [held]; rfl), fun short others stands => ?_⟩
  exact State.regBatch_of_plain short (fun e mem random => others e mem random.1 random.2) stands

end Batches

/-! ### The rows -/

/-- An installer may write every header register but EVT_FORCE. -/
theorem Session.may_of_installer {x : Session} {off : Nat} (installer : x.role = .installer) (other : off ≠ 0x018) (header : off < 0x100)
    (g : RegPage) (data : Word) : x.may g off data = true := by
  unfold Session.may
  rw [if_neg other, if_pos header, installer]
  rfl

section Rows

variable {s : State} {sess : Nat} {x : Session} (held : s.session? sess = some x) (opened : x.opened = true)
include held opened

theorem installerRows_denied (other : x.role ≠ .installer) :
    Denied s sess 0xA10C 2 (exec (.keyOpRemove sess) s) ∧ Denied s sess 0xA10C 3 (exec (.keyOpMakerCert sess) s) ∧
      Denied s sess 0xB104 2 (exec (.alarmClear sess) s) ∧ Denied s sess 0x2104 4 (exec (.dr8Retry sess) s) ∧
      ∀ shared : Bool, Denied s sess 0xB104 (if shared then 1 else 0) (exec (.drbgMode sess shared) s) := by
  have denies : (x.role == .installer) = false := beq_eq_false_iff_ne.2 other
  refine ⟨denied_ownWrite held opened denies _, denied_ownWrite held opened denies _, denied_ownWrite held opened denies _,
    denied_ownWrite held opened denies _, fun shared => ?_⟩
  cases shared <;> exact denied_ownWrite held opened (may := (·.role == .installer)) denies _

theorem selectorRows_denied (foreign : x.role = .peer ∨ x.role = .claim) (d : Word) :
    Denied s sess 0x610C d (exec (.jobSel sess d) s) ∧ Denied s sess 0xF114 d (exec (.auditSelLo sess d) s) ∧
      Denied s sess 0x1160 d (exec (.evtSel sess d) s) :=
  have denies : x.reads = false := Session.reads_eq_false_iff.2 foreign
  ⟨denied_ownWrite held opened denies _, denied_ownWrite held opened denies _, denied_ownWrite held opened denies _⟩

theorem rawModeRow_denied (denies : x.consents 0 = false) (on : Bool) :
    Denied s sess 0xB104 (if on then 4 else 0) (exec (.rawMode sess on) s) := by
  cases on <;> exact denied_ownWrite held opened (may := (·.consents 0)) denies _

theorem enrolRow_denied (other : x.role ≠ .installer) (denies : x.consents 5 = false) : Denied s sess 0xA10C 1 (exec (.keyOpEnrol sess) s) :=
  denied_ownWrite held opened (by rw [denies, beq_eq_false_iff_ne.2 other, Bool.or_false]) _

theorem execRegisterWrite_becomes (addr data : Word) : CompletesWith (exec (.registerWrite sess addr data) s) fun t =>
    (x.role = .peer → OnlyTouches [.transport] s t ∧ Answers t sess addr true data 0x0108) ∧
    (x.role ≠ .peer → x.role ≠ .claim → addr.toNat % 4 ≠ 0 ∨ regPage (addr.toNat / 4096) = none →
      OnlyTouches [.transport] s t ∧ Answers t sess addr true data 0x0109) ∧
    ∀ g, (x.role ≠ .peer ∧ x.role ≠ .claim ∧ addr.toNat % 4 = 0) → regPage (addr.toNat / 4096) = some g →
      (regWritable g (addr.toNat % 4096) = true → x.may g (addr.toNat % 4096) data = false →
        OnlyTouches [.transport] s t ∧ Answers t sess addr true data 0x0108) ∧
      (s.unitGone g = true → addr.toNat % 4096 ≠ 0x00C →
        (regWritable g (addr.toNat % 4096) = true → x.may g (addr.toNat % 4096) data = true) →
        OnlyTouches [.transport] s t ∧ Answers t sess addr true data 0x0002) ∧
      (regWritable g (addr.toNat % 4096) = false → s.unitGone g = false → Answers t sess addr true data 0 ∧ t.jobs = s.jobs ∧ t.mem = s.mem ∧
        t.journal.settings = s.journal.settings) ∧
      (x.role = .installer → s.unitGone g = false → addr.toNat % 4096 = 0x010 → Answers t sess addr true data 0 ∧ Audited s t 1 0 0x0005 0 ∧
        (mget {} t.headers (pageIndex g)).evtStatus = (mget {} s.headers (pageIndex g)).evtStatus &&& ~~~data) ∧
      (x.role = .installer → s.unitGone g = false → addr.toNat % 4096 = 0x014 → Answers t sess addr true data 0 ∧ Audited s t 1 0 0x0005 0 ∧
        (mget {} t.headers (pageIndex g)).evtEnable = data) := by
  refine ⟨s.oneEntry sess (writeOf addr data), rfl,
    fun peer => State.oneEntry_of_unchanged held opened (State.regEntry_of_foreign (.inl peer)),
    fun host1 host2 unmapped => State.oneEntry_of_unchanged held opened (State.regEntry_of_unmapped ⟨host1, host2⟩ unmapped), ?_⟩
  rintro g ⟨host1, host2, aligned⟩ page
  have names : (writeOf addr data).Names x g := ⟨⟨host1, host2⟩, aligned, page⟩
  refine ⟨fun writable denies => ?denied, fun gone noCtrl allows => ?gone, State.oneEntry_of_readOnly held opened names,
    fun installer stands status => ?status, fun installer stands enable => ?enable⟩
  case denied =>
    refine State.oneEntry_of_unchanged held opened (State.regEntry_of_denied names fun allowed => ?_)
    exact absurd ((allowed rfl writable).symm.trans denies) nofun
  case gone =>
    exact State.oneEntry_of_unchanged held opened
      (State.regEntry_of_gone names (fun _ => allows) rfl ((s.unitGone_popInbox sess g).trans gone) noCtrl)
  case status =>
    obtain ⟨answers, audited, header⟩ := State.oneEntry_of_header held opened (f := fun h => { h with evtStatus := h.evtStatus &&& ~~~data }) names
      installer stands (by rw [status]; rfl) (Session.may_of_installer installer (by omega) (by omega) g data) fun u => by rw [status]; rfl
    exact ⟨answers, audited, congrArg PageHeader.evtStatus header⟩
  case enable =>
    obtain ⟨answers, audited, header⟩ := State.oneEntry_of_header held opened (f := fun h => { h with evtEnable := data }) names
      installer stands (by rw [enable]; rfl) (Session.may_of_installer installer (by omega) (by omega) g data) fun u => by rw [enable]; rfl
    exact ⟨answers, audited, congrArg PageHeader.evtEnable header⟩

end Rows

/-- Settles O51, row by row: the registers that stand alone, then writes, reads and batches. A single access is a batch of one (log entry 21); that
EVT_STATUS and EVT_ENABLE are audited as 0x0005, that a session to a peer and a claim session have no registers and that a write with no field
answers 0 are log entry 76. -/
theorem registerPages : Obligations.RegisterPages := by
  refine ⟨fun s sess x held opened => ?alone, fun s sess addr data x held opened => ?access,
    fun s sess tag es x held opened => execRegBatch_becomes held opened tag es⟩
  case alone =>
    exact ⟨fun other not => enrolRow_denied held opened other (Session.consents_of_not not), installerRows_denied held opened,
      fun not => rawModeRow_denied held opened (Session.consents_of_not not), fun not => denied_scanArm held opened (Session.consents_of_not not),
      fun not => denied_cfgOp held opened (Session.consents_of_not not) _, fun not => denied_cfgOp held opened (Session.consents_of_not not) _,
      selectorRows_denied held opened⟩
  case access =>
    refine ⟨execRegisterWrite_becomes held opened addr data, s.oneEntry sess (readOf addr), rfl,
      fun peer => State.oneEntry_of_unchanged held opened (State.regEntry_of_foreign (.inl peer)), ?_⟩
    rintro g ⟨host1, host2, aligned⟩ page stands plain high
    exact State.oneEntry_of_read held opened ⟨⟨host1, host2⟩, aligned, page⟩ stands plain high

end Sys2Proof.Machine
